-- ==== Sys2Proof/Word.lean ====
section
/-!
DEFINITION. The word types of the BX9 and the shape of its sparse tables.
-/
namespace Sys2Proof

/-- One byte. -/
abbrev Byte := BitVec 8
/-- A 16-bit word, as in a dictionary U16 entry. -/
abbrev W16 := BitVec 16
/-- A 32-bit register word. -/
abbrev W32 := BitVec 32
/-- A 64-bit register word. -/
abbrev W64 := BitVec 64
/-- A 128-byte command record of R177, byte 0 in bits 7 to 0. -/
abbrev Rec := BitVec 1024

/-- A sparse table: keys strictly rising, and no entry that equals the value an unlisted key reads as. -/
abbrev Tab (α : Type) := List (Nat × α)

/-- A byte-addressed memory in the same form. -/
abbrev Mem := List Host.Cell

end Sys2Proof
end

