-- ==== Sys2Proof/Syntax.lean ====
section
/-!
DEFINITION. The commands and events of the BX9: one constructor of Instr for each row of the opcode table.
Operands are the facts an event carries from outside: which port, core, block or command it is about,
what a host wrote, what a frame held, what a check found.
-/
namespace Sys2Proof

/-- A host port, 0 for H0 and 1 for H1 (R43). -/
abbrev PortNo := Fin 2
/-- A function of a port: 0 the physical function, 1 to 15 virtual functions (R137). -/
abbrev FnNo := Fin 16
/-- A core (R20). -/
abbrev CoreNo := Fin 16
/-- A submission queue of a function (R147). -/
abbrev QueueNo := Fin 64
/-- A mailbox channel of a function (R163). -/
abbrev ChanNo := Fin 16
/-- An Ethernet port (R427). -/
abbrev EthNo := Fin 16
/-- A port, or the management lane 16, or the service lane 17 (R436). -/
abbrev LaneNo := Fin 18
/-- A flow number (R442). -/
abbrev FlowNo := Fin 16384
/-- A bank of a core (R297). -/
abbrev BankNo := Fin 5120
/-- A block of R82: 0 to 15 matrix engines, 16 to 31 vector engines, 32 + 80c + g bank group g of core c,
1312 to 1567 HBM channels, 1568 to 1583 Ethernet lanes. -/
abbrev BlockNo := Fin 1584

/-- The reset that covers a domain (R104, R105). -/
inductive ResetTarget
  | cold | warm
  | hostPort (p : PortNo)
  | partition (s : Fin 16)
  | core (c : CoreNo)
  | nic
deriving DecidableEq, Repr

/-- The phase-locked loops of R79. -/
inductive PllId
  | core (c : CoreNo)
  | base (d : Fin 4)
  | hbm (s : Fin 8)
  | pcie (p : PortNo)
  | cxl
  | eth (group : Fin 4)
  | mgmt
  | svc
deriving DecidableEq, Repr

/-- What the check bits of a read show (R254, R306). -/
inductive Ecc | clean | corrected | uncorrectable
deriving DecidableEq, Repr

/-- The scratch words of a core that one row reads with an error: bank, word, and what its check bits show (R306). -/
abbrev EccReads := List (BankNo × Fin 1024 × Ecc)

/-- A column-check mismatch of a pass: the physical 8-column group, and whether it is in the remainder pass (R357, R363). -/
structure ColumnFault where
  group : Fin 64
  remainder : Bool
deriving DecidableEq, Repr

/-- What a pass finds as it reads its rows: its column checks and the scratch words read with an error (R306, R357). -/
structure PassReads where
  mismatch : Option ColumnFault
  errs : EccReads
deriving DecidableEq, Repr

/-- A core and the scratch words a row reads there with an error (R306). -/
structure CoreReads where
  core : CoreNo
  errs : EccReads
deriving DecidableEq, Repr

/-- A core that a row names, and the words a transfer of its command reads with an error, on each core of its gang (R306). -/
structure GangReads where
  core : CoreNo
  errs : List CoreReads
deriving DecidableEq, Repr

/-- A core and those words read from the front of its tile queue of which a stored data bit has changed (R370). -/
structure QueueReads where
  core : CoreNo
  flips : List (Fin 512)
deriving DecidableEq, Repr

/-- A port that loses its link, and the codewords its FEC corrected and could not correct until then (R430, R460). -/
structure PortDown where
  port : EthNo
  corrected : Nat
  uncorrected : Nat
deriving DecidableEq, Repr

/-- A port whose link is trained, and whether clause 73 auto-negotiation found a backplane partner rather than a copper one (R427,
R430). -/
structure PortUp where
  port : EthNo
  kr : Bool
deriving DecidableEq, Repr

/-- The next hop of a flow, resolved to its address (R432). -/
structure NextHop where
  flow : FlowNo
  mac : BitVec 48
deriving DecidableEq, Repr

/-- A configuration request (R116, R134, R137). -/
inductive CfgOp
  | read (offset : BitVec 12)
  | write (offset : BitVec 12) (value : W32)
  | setVfs (num : Fin 16) (enable : Bool)
  | setMsix (enable mask : Bool)
deriving DecidableEq, Repr

/-- How a read of host memory ended (R135). -/
inductive HostRead
  | data (bytes : List Byte)
  | failed
deriving DecidableEq, Repr

/-- The structure an unanswered host read belongs to (R134, R135). -/
inductive HostReadOf
  | ring (p : PortNo) (f : FnNo) (q : QueueNo)
  | source (id : Nat) (addr : W64)
  | late (p : PortNo)
deriving DecidableEq, Repr

/-- A UDP packet as a port receives it (R432, R433, R438): addresses and UDP ports, whether IP options, fragments or
extension headers came with it (R434), whether the UDP checksum was nonzero and correct, the CE mark, the 40-byte header
with byte 0 in bits 7 to 0, and the payload. -/
structure SilkPkt where
  port : EthNo
  v6 : Bool
  src : BitVec 128
  dst : BitVec 128
  sport : W16
  dport : W16
  plainIp : Bool
  udpOk : Bool
  ce : Bool
  hdr : BitVec 320
  payload : List Byte
deriving DecidableEq, Repr

/-- A Priby packet and its transport: MCTP on I3C, or UDP on the management lane, with its source (R636). -/
structure PribyReq where
  mctp : Bool
  source : Nat
  bytes : List Byte
deriving DecidableEq, Repr

/-- What a signature check and a flash write found for an uploaded object (R651, R123, R657). -/
structure Verify where
  ecdsa : Bool
  mldsa : Bool
  flashOk : Bool
deriving DecidableEq, Repr

/-- The commands and events, one constructor per row of the opcode table, in its order. -/
inductive Instr
  -- Module, clocks, power and reset
  | vinQualified (mv : W32)
  | vinRecovered (mv : W32)
  | supplyWarnBegin (mv : W32)
  | supplyWarnEnd (mv lowest : W32)
  | undervoltage (mv : W32)
  | overvoltage (mv : W32)
  | crystalLoss
  | crystalConfirmed
  | modResetN
  | modResetNRelease
  | perstAssert (p : PortNo)
  | perstDeassert (p : PortNo)
  | hotReset (p : PortNo)
  | flrPf (p : PortNo)
  | flrVf (p : PortNo) (f : FnNo)
  | vfDisable (p : PortNo) (num : Fin 16) (enable : Bool)
  | corePllLockLoss (c : CoreNo)
  | basePllLockLoss (pll : Fin 12)
  | serdesPllLockLoss (pll : PllId)
  | resetRelease (pll : PllId)
  | thermal100 (mc : W32)
  | protectiveStop (mc : W32)
  | protectHoldEnd (mc : W32)
  | resetComplete (t : ResetTarget)
  | resetEscalation (t : ResetTarget)
  | cxlExpanderReady (e : Fin 2) (frames : Nat)
  | cxlX16Timeout
  | cxlLinkDown (e : Fin 2)
  | blockIdle (b : BlockNo)
  | blockSleep (b : BlockNo)
  | blockWakeDone (b : BlockNo)
  | blockLeaveOff (b : BlockNo)
  | coreOffTimer (c : CoreNo)
  -- Host interface
  | configRequest (p : PortNo) (f : FnNo) (op : CfgOp)
  | d3hotEntry (p : PortNo) (f : FnNo)
  | d0Return (p : PortNo) (f : FnNo)
  | bar4Resize (p : PortNo) (f : FnNo) (size : Fin 7)
  | bar4Write (p : PortNo) (f : FnNo) (offset : W64) (bytes : List Byte)
  | bar4Read (p : PortNo) (f : FnNo) (offset : W64) (len : Nat)
  | registerWrite (p : PortNo) (f : FnNo) (offset : BitVec 23) (size : Nat) (value : W64)
  | registerReadLatch (p : PortNo) (f : FnNo) (offset : BitVec 23) (size : Nat)
  | sqEnable (p : PortNo) (f : FnNo) (q : QueueNo) (ctrl : W32)
  | sqDisable (p : PortNo) (f : FnNo) (q : QueueNo) (ctrl : W32)
  | sqIrqEnable (p : PortNo) (f : FnNo) (q : QueueNo) (ctrl : W32)
  | sqTailDb (p : PortNo) (f : FnNo) (q : QueueNo) (value : W32)
  | cqHeadDb (p : PortNo) (f : FnNo) (q : QueueNo) (value : W32)
  | cqIrqDelay (p : PortNo) (f : FnNo) (q : QueueNo)
  | eventEnable (p : PortNo) (f : FnNo) (ctrl : W32)
  | eventDisable (p : PortNo) (f : FnNo) (ctrl : W32)
  | ringHead (p : PortNo) (f : FnNo) (value : W32)
  | bar4Va (p : PortNo) (f : FnNo) (value : W64)
  | twinAliasWrite (p : PortNo) (f : FnNo) (value : W32)
  | go (p : PortNo) (f : FnNo) (ch : ChanNo) (ctrl : W32)
  | abort (p : PortNo) (f : FnNo) (ch : ChanNo)
  | mboxDeliver (p : PortNo) (f : FnNo) (ch : ChanNo)
  | rxAck (p : PortNo) (f : FnNo) (ch : ChanNo) (value : W32)
  | recordFetch (p : PortNo) (f : FnNo) (q : QueueNo) (record : Option Rec)
  | admitRecord (writeOk : Bool)
  -- Commands
  | nop (id : Nat)
  | tokenReset (id : Nat)
  | tileRun (id : Nat)
  | passStart (c : CoreNo) (sub : Fin 16) (read : PassReads)
  | bankRun (id : Nat)
  | gather (id : Nat) (count : Nat)
  | dmaCopy (id : Nat) (count : Nat) (host : List Byte)
  | alloc (id : Nat)
  | free (id : Nat)
  | tierDeclare (id : Nat)
  | flowOpen (id : Nat)
  | flowClose (id : Nat)
  | collective (id : Nat)
  | vote (id : Nat)
  | resolve (id : Nat)
  | update (id : Nat)
  | rowMode (id : Nat)
  | mirrorTx (id : Nat)
  | mirrorRx (id : Nat)
  | feedChunk (id : Nat) (first count : Nat)
  | stepResync (id : Nat)
  | flip (id : Nat)
  | revert (id : Nat)
  | twin (id : Nat)
  | untwin (id : Nat)
  | weightLoad (id : Nat) (headers : List Byte)
  | ckptWrite (id : Nat)
  | molt (id : Nat)
  | moltPhaseTimeout (id : Nat)
  | scrub (id : Nat)
  | zero (id : Nat)
  | longopSuspend (id : Nat) (host : Mem)
  | longopResume (id : Nat) (headers : List Byte)
  | longopCancel (id : Nat) (host : Mem)
  | longopUnitDone (s : Fin 16) (h : Fin 64) (host : Mem)
  | commandComplete (id : Nat) (writeOk : Bool)
  | overrun (id : Nat)
  | hostReadError (id : Nat) (addr : W64)
  | hostReadDeadline (id : Nat)
  | completionTimeout (r : HostReadOf)
  | cocoonSave (c : CoreNo) (id : Nat)
  | cocoonSaveDone (saved : GangReads) (id : Nat)
  | cocoonRestore (c : CoreNo) (id : Nat)
  | cocoonRestoreDone (c : CoreNo) (id : Nat)
  | requestIssue (c : CoreNo)
  | memoryReply (c : CoreNo) (index : Nat) (ecc : Ecc)
  | streamRowFetch (c : CoreNo) (stream : Fin 8)
  | patrolScrub (line : BitVec 31) (ecc : Ecc)
  | frameRetireCopy (frame : Nat)
  | memoryZeroDone (cxl : Bool) (frame : Nat)
  | scratchScrub (c : CoreNo) (bank : BankNo) (word : Fin 1024) (ecc : Ecc)
  -- Bank micro-ops
  | uopEnd (c : CoreNo) (b : BankNo)
  | uopLd (c : CoreNo) (b : BankNo) (ecc : Ecc)
  | uopSt (c : CoreNo) (b : BankNo)
  | uopLdw (c : CoreNo) (b : BankNo) (ecc : Ecc)
  | uopStn (c : CoreNo) (b : BankNo)
  | uopLds (c : CoreNo) (b : BankNo) (ecc : Ecc)
  | uopSts (c : CoreNo) (b : BankNo)
  | uopAinc (c : CoreNo) (b : BankNo)
  | uopMovk (c : CoreNo) (b : BankNo)
  | uopFadd (c : CoreNo) (b : BankNo)
  | uopFsub (c : CoreNo) (b : BankNo)
  | uopFmul (c : CoreNo) (b : BankNo)
  | uopFma (c : CoreNo) (b : BankNo)
  | uopFmak (c : CoreNo) (b : BankNo)
  | uopFmax (c : CoreNo) (b : BankNo)
  | uopFmin (c : CoreNo) (b : BankNo)
  | uopFabs (c : CoreNo) (b : BankNo)
  | uopFsqrt (c : CoreNo) (b : BankNo)
  | uopFrcp (c : CoreNo) (b : BankNo)
  | uopFrsq (c : CoreNo) (b : BankNo)
  | uopHfma (c : CoreNo) (b : BankNo)
  | uopMxq (c : CoreNo) (b : BankNo)
  | uopMxd (c : CoreNo) (b : BankNo)
  | uopLsum (c : CoreNo) (b : BankNo)
  | uopGsum (c : CoreNo) (b : BankNo)
  | uopGmax (c : CoreNo) (b : BankNo)
  | uopLoop (c : CoreNo) (b : BankNo)
  -- Vector instructions
  | vEnd (c : CoreNo)
  | vLoop (c : CoreNo)
  | vMovk (c : CoreNo)
  | vXset (c : CoreNo)
  | vXadd (c : CoreNo)
  | vLd (c : CoreNo) (errs : EccReads)
  | vLdh (c : CoreNo) (errs : EccReads)
  | vLdb (c : CoreNo) (errs : EccReads)
  | vSt (read : CoreReads)
  | vSth (read : CoreReads)
  | vSta (read : CoreReads)
  | vTqr (read : QueueReads)
  | vTqwait (c : CoreNo)
  | vTqdrop (c : CoreNo)
  | vFadd (c : CoreNo)
  | vFsub (c : CoreNo)
  | vFmul (c : CoreNo)
  | vFma (c : CoreNo)
  | vFnma (c : CoreNo)
  | vFaddk (c : CoreNo)
  | vFmulk (c : CoreNo)
  | vFmak (c : CoreNo)
  | vFmax (c : CoreNo)
  | vFmin (c : CoreNo)
  | vFmaxk (c : CoreNo)
  | vFabs (c : CoreNo)
  | vFdiv (c : CoreNo)
  | vFsel (c : CoreNo)
  | vVmov (c : CoreNo)
  | vFcmplt (c : CoreNo)
  | vFcmpeq (c : CoreNo)
  | vFcmpun (c : CoreNo)
  | vFcmpltk (c : CoreNo)
  | vMand (c : CoreNo)
  | vMor (c : CoreNo)
  | vFsqrt (c : CoreNo)
  | vFrcp (c : CoreNo)
  | vFrsq (c : CoreNo)
  | vFexp (c : CoreNo)
  | vFexp2 (c : CoreNo)
  | vFlog (c : CoreNo)
  | vFtanh (c : CoreNo)
  | vFsigm (c : CoreNo)
  | vFerf (c : CoreNo)
  | vFsin (c : CoreNo)
  | vFcos (c : CoreNo)
  | vF2i (c : CoreNo)
  | vI2f (c : CoreNo)
  | vRsum (c : CoreNo)
  | vRmax (c : CoreNo)
  | vSexp (c : CoreNo)
  | vBcast (c : CoreNo)
  | vPswap (c : CoreNo)
  -- Ethernet, Silk and the collective engine
  | linkDown (down : PortDown)
  | linkUp (up : PortUp)
  | arpRequest (p : LaneNo) (target sender : W32)
  | neighborSolicitation (p : LaneNo) (target sender : BitVec 128)
  | echoRequest (p : LaneNo) (v6 : Bool) (target : BitVec 128) (data : List Byte)
  | nextHopResolved (hop : NextHop)
  | nextHopRetry (flow : FlowNo)
  | nonSilkFrame (lane : LaneNo)
  | pauseFrame (p : EthNo)
  | pfcFrame (p : EthNo) (pcp : Fin 8) (xoff : Bool)
  | data (pkt : SilkPkt)
  | ack (pkt : SilkPkt)
  | keepalive (pkt : SilkPkt)
  | depart (pkt : SilkPkt)
  | openPkt (pkt : SilkPkt)
  | openAck (pkt : SilkPkt)
  | closePkt (pkt : SilkPkt)
  | dataSend (p : EthNo)
  | openResend (flow : FlowNo)
  | keepaliveTimer (flow : FlowNo)
  | peerTimeout (flow : FlowNo)
  | flowHoldExpiry (flow : FlowNo)
  | rtoExpiry (flow : FlowNo)
  | ackDelay (flow : FlowNo)
  | ccRound (flow : FlowNo)
  | flowOpenTimeout (id : Nat)
  | flowCloseDeadline (id : Nat)
  | chunkServe (id : Nat)
  | collTimeout (id : Nat)
  | voteResult (id : Nat)
  | weightScrubPass (s : Fin 16)
  -- Faults and the management clock
  | hangDetected (d : Fin 21) (unit : W16) (lastProgress : Nat)
  | fenceDrainExpiry (d : Fin 17)
  | healthUpdate
  | divergenceCheck
  | persistCommit
  -- Priby
  | pribyRead (r : PribyReq)
  | pribyWrite (r : PribyReq) (commitOk : Bool)
  | coreState (r : PribyReq)
  | fieldBadGroups (r : PribyReq) (commitOk : Bool)
  | resetCmd (r : PribyReq)
  | retireCore (r : PribyReq)
  | restoreDefaults (r : PribyReq)
  | alertClear (r : PribyReq)
  | protectClear (r : PribyReq)
  | dumpCancel (r : PribyReq)
  | dumpSuspend (r : PribyReq)
  | dumpResume (r : PribyReq)
  | fwActivate (r : PribyReq)
  | fwConfirm (r : PribyReq)
  | fwTrialAbandon (r : PribyReq)
  | stageSuspend (r : PribyReq)
  | stageResume (r : PribyReq)
  | stageCancel (r : PribyReq)
  -- I3C, MCTP, SPDM, Creif and the rest of the supervisor
  | entdaa (addr : BitVec 7)
  | setdasa (static dynamic : BitVec 7)
  | getstatus
  | setEndpointId (eid : Byte)
  | getEndpointId
  | getMctpVersionSupport (msgType : Byte)
  | getMessageTypeSupport
  | getVendorDefinedSupport (selector : Byte)
  | doeDiscovery (p : PortNo) (index : Byte)
  | getVersion (t : Fin 3) (request : List Byte)
  | getCapabilities (t : Fin 3) (request : List Byte)
  | negotiateAlgorithms (t : Fin 3) (request : List Byte)
  | getDigests (t : Fin 3) (request : List Byte)
  | getCertificate (t : Fin 3) (request : List Byte)
  | challenge (t : Fin 3) (request : List Byte)
  | getMeasurements (t : Fin 3) (request : List Byte)
  | creifBegin (packet : List Byte)
  | creifData (packet : List Byte) (flashOk : Bool)
  | creifEnd (packet : List Byte) (v : Verify)
  | creifAck (packet : List Byte)
  | creifAbort (packet : List Byte)
  | creifResend (session : Nat)
  | creifSessionTimeout (session : Nat)
  | stageVerifyDone (v : Verify)
  | selftestDone (pass : Bool) (detail : W32)
  | thermalRearm (mc : W32)
  | vinLost (mv : W32)
  | supervisorMemoryError
  | hostLinkTrained (p : PortNo)
deriving DecidableEq, Repr

end Sys2Proof
end

