-- ==== Sys2Proof/Decode.lean ====
section
/-!
DEFINITION. The command a table word spells. The opcode table of this block gives its rows no bits, so no word spells one.
-/
namespace Sys2Proof

/-- The command that a word of the opcode table spells: none, since no row of it has bits (log 8). -/
def decodeTableWord (_nbits _w : Nat) : Option Instr := none

end Sys2Proof
end

