-- ==== Sys2Proof/Config.lean ====
section
/-!
DEFINITION. The values the spec leaves open (assumption log 1 and 2).
No definition here has a body, so nothing can be proved about the value it gives.
-/
namespace Sys2Proof.Config

/-- A fresh free value: State.freeCtr counts the uses, so two uses need not agree (log 1). -/
opaque freeWord : Nat → BitVec 64

/-- A byte of memory the spec calls undefined, by use count and offset (log 1). -/
opaque freeByte : Nat → Nat → BitVec 8

/-- The value F2I writes for a NaN, which the spec does not state, by operand (log 2). -/
opaque f2iNan : BitVec 32 → BitVec 32

/-- Which of the results within the error bound of R315 and R394 a function gives, by opcode and operand (log 2). -/
opaque ulpPick : Nat → BitVec 32 → Nat

/-- What a configuration register no rule of the spec gives a value reads, by function, offset and the last value written (log 1). -/
opaque cfgRead : Nat → BitVec 12 → Option (BitVec 32) → BitVec 32

/-- Where a capability of the configuration space begins, which the spec does not state, by capability (log 1). -/
opaque capAt : Nat → Nat

/-- A P-256 or key-block operation whose result depends on a secret or a nonce (log 1). -/
opaque signature : Nat → List (BitVec 8) → List (BitVec 8)

/-- The packets of a chunk of a mirror or of a molt's span, which the spec does not state, taken into 1 to 64 (log 1). -/
opaque moveChunkPkts : Nat

/-- Where in the reserve a table of a partition lies, which the spec does not state, by slot, level and the index of its parent's
entry (log 1, R264). -/
opaque tableAt : Nat → Nat → Nat → Nat

/-- Where in the reserve of its base die a cocoon lies, in lines, which the spec does not state, by core and number of the cocoon (log 1,
R238, R241). -/
opaque cocoonAt : Nat → Nat → Nat

end Sys2Proof.Config
end

