-- ==== Sys2Proof/Machine/Entries.lean ====
section
/-!
DEFINITION. The entries of the Priby dictionary (R627 to R631): index, subindices, type, access, default, persistence,
size of a string or blob, and the range of R630, from the tables of the chapters that own them.
-/
namespace Sys2Proof.Machine

/-- The types of R628. -/
inductive EntryType | u8 | u16 | u32 | u64 | i32 | f32 | str | blob | cmd
deriving DecidableEq, Repr

/-- The access codes of R629. -/
inductive Access | ro | rw | wo | cmd
deriving DecidableEq, Repr

/-- One row of an entry table. -/
structure Entry where
  index : Nat
  lo : Nat
  hi : Nat
  ty : EntryType
  access : Access
  dflt : Nat
  persistent : Bool
  size : Nat
  rmin : Nat
  rmax : Nat
deriving DecidableEq, Repr

/-- The type code of R628. -/
def EntryType.code : EntryType → Nat
  | .u8 => 1 | .u16 => 2 | .u32 => 3 | .u64 => 4 | .i32 => 5 | .f32 => 6 | .str => 7 | .blob => 8 | .cmd => 9

/-- The value bytes of a type; 0 for those whose size the entry gives. -/
def EntryType.bytes : EntryType → Nat
  | .u8 => 1 | .u16 => 2 | .u32 => 4 | .u64 => 8 | .i32 => 4 | .f32 => 4 | .str => 0 | .blob => 0 | .cmd => 8

/-- VIN_MV to PROFILE_COPY. -/
def entries0 : List Entry := [
  ⟨0x4001, 1, 1, .u32, .ro, 0, false, 0, 0, 2 ^ 64 - 1⟩,
  ⟨0x4001, 2, 2, .u32, .ro, 0, false, 0, 0, 2 ^ 64 - 1⟩,
  ⟨0x4001, 3, 3, .u32, .ro, 0, false, 0, 0, 2 ^ 64 - 1⟩,
  ⟨0x4001, 4, 4, .u32, .ro, 0, false, 0, 0, 2 ^ 64 - 1⟩,
  ⟨0x4001, 5, 5, .i32, .ro, 0, false, 0, 0, 2 ^ 64 - 1⟩,
  ⟨0x4001, 6, 6, .i32, .ro, 0, false, 0, 0, 2 ^ 64 - 1⟩,
  ⟨0x4001, 7, 7, .i32, .ro, 0, false, 0, 0, 2 ^ 64 - 1⟩,
  ⟨0x4001, 8, 8, .cmd, .cmd, 0, false, 0, 0, 2 ^ 64 - 1⟩,
  ⟨0x4010, 1, 1, .u32, .rw, 500, true, 0, 10, 1000000⟩,
  ⟨0x4010, 2, 2, .u32, .rw, 100, true, 0, 10, 1000000⟩,
  ⟨0x4010, 3, 3, .u32, .rw, 1000, true, 0, 10, 1000000⟩,
  ⟨0x4011, 1, 16, .u8, .rw, 0, false, 0, 0, 2 ^ 64 - 1⟩,
  ⟨0x4012, 1, 16, .blob, .ro, 0, false, 10, 0, 2 ^ 64 - 1⟩,
  ⟨0x4013, 1, 1, .u64, .ro, 0, false, 0, 0, 2 ^ 64 - 1⟩,
  ⟨0x4002, 1, 1, .u8, .ro, 0, false, 0, 0, 2 ^ 64 - 1⟩,
  ⟨0x4002, 2, 2, .u32, .ro, 0, true, 0, 0, 2 ^ 64 - 1⟩,
  ⟨0x4002, 3, 3, .u32, .ro, 0, true, 0, 0, 2 ^ 64 - 1⟩,
  ⟨0x4002, 4, 4, .u32, .ro, 0, true, 0, 0, 2 ^ 64 - 1⟩,
  ⟨0x4002, 5, 5, .u64, .ro, 0, true, 0, 0, 2 ^ 64 - 1⟩,
  ⟨0x2010, 1, 1, .u8, .ro, 0, false, 0, 0, 2 ^ 64 - 1⟩,
  ⟨0x2010, 2, 2, .u16, .ro, 0, false, 0, 0, 2 ^ 64 - 1⟩,
  ⟨0x2010, 3, 3, .u64, .ro, 0, false, 0, 0, 2 ^ 64 - 1⟩,
  ⟨0x2010, 4, 4, .u16, .ro, 0, false, 0, 0, 2 ^ 64 - 1⟩,
  ⟨0x2010, 5, 5, .u32, .ro, 0, true, 0, 0, 2 ^ 64 - 1⟩,
  ⟨0x2010, 6, 6, .u32, .ro, 0, true, 0, 0, 2 ^ 64 - 1⟩,
  ⟨0x2000, 1, 1, .u8, .ro, 0, false, 0, 0, 2 ^ 64 - 1⟩,
  ⟨0x2000, 2, 2, .u8, .ro, 0, false, 0, 0, 2 ^ 64 - 1⟩,
  ⟨0x2000, 3, 3, .u8, .ro, 0, false, 0, 0, 2 ^ 64 - 1⟩,
  ⟨0x2000, 4, 4, .u32, .ro, 0, false, 0, 0, 2 ^ 64 - 1⟩,
  ⟨0x2000, 5, 5, .u8, .ro, 0, false, 0, 0, 2 ^ 64 - 1⟩]

/-- ENVELOPE_LOCK to PF_USED_BYTES. -/
def entries1 : List Entry := [
  ⟨0x2000, 6, 6, .u8, .ro, 0, false, 0, 0, 2 ^ 64 - 1⟩,
  ⟨0x2000, 7, 7, .u64, .ro, 0, false, 0, 0, 2 ^ 64 - 1⟩,
  ⟨0x2000, 8, 8, .u32, .ro, 0, true, 0, 0, 2 ^ 64 - 1⟩,
  ⟨0x3010, 1, 16, .u16, .ro, 0, false, 0, 0, 2 ^ 64 - 1⟩,
  ⟨0x3011, 1, 16, .u32, .ro, 0, false, 0, 0, 2 ^ 64 - 1⟩,
  ⟨0x3012, 1, 16, .u32, .ro, 0, false, 0, 0, 2 ^ 64 - 1⟩,
  ⟨0x3013, 1, 16, .u16, .ro, 0, false, 0, 0, 2 ^ 64 - 1⟩,
  ⟨0x3014, 1, 16, .u64, .ro, 0, false, 0, 0, 2 ^ 64 - 1⟩,
  ⟨0x3020, 1, 96, .u64, .ro, 0, false, 0, 0, 2 ^ 64 - 1⟩,
  ⟨0x3021, 1, 96, .u64, .ro, 0, false, 0, 0, 2 ^ 64 - 1⟩,
  ⟨0x3022, 1, 96, .u64, .ro, 0, false, 0, 0, 2 ^ 64 - 1⟩,
  ⟨0x5001, 1, 8, .u64, .ro, 0, true, 0, 0, 2 ^ 64 - 1⟩,
  ⟨0x5002, 1, 8, .u64, .ro, 0, true, 0, 0, 2 ^ 64 - 1⟩,
  ⟨0x5003, 1, 8, .u32, .ro, 0, false, 0, 0, 2 ^ 64 - 1⟩,
  ⟨0x5004, 1, 1, .u32, .ro, 0, true, 0, 0, 2 ^ 64 - 1⟩,
  ⟨0x5004, 2, 2, .u32, .ro, 4096, true, 0, 0, 2 ^ 64 - 1⟩,
  ⟨0x5005, 1, 1, .u32, .rw, 86400, true, 0, 3600, 604800⟩,
  ⟨0x5006, 1, 2, .u64, .ro, 0, false, 0, 0, 2 ^ 64 - 1⟩,
  ⟨0x5006, 3, 3, .u64, .ro, 0, false, 0, 0, 2 ^ 64 - 1⟩,
  ⟨0x5006, 4, 4, .u64, .ro, 0, false, 0, 0, 2 ^ 64 - 1⟩,
  ⟨0x5007, 1, 1, .u64, .ro, 0, false, 0, 0, 2 ^ 64 - 1⟩,
  ⟨0x5007, 2, 2, .u64, .ro, 0, false, 0, 0, 2 ^ 64 - 1⟩,
  ⟨0x5010, 1, 16, .u64, .ro, 0, false, 0, 0, 2 ^ 64 - 1⟩,
  ⟨0x5011, 1, 16, .u64, .ro, 0, false, 0, 0, 2 ^ 64 - 1⟩,
  ⟨0x5012, 1, 16, .u64, .ro, 0, false, 0, 0, 2 ^ 64 - 1⟩,
  ⟨0x5013, 1, 16, .u16, .ro, 0, false, 0, 0, 2 ^ 64 - 1⟩,
  ⟨0x5014, 1, 16, .u64, .ro, 0, false, 0, 0, 2 ^ 64 - 1⟩,
  ⟨0x5015, 1, 16, .u16, .ro, 0, false, 0, 0, 2 ^ 64 - 1⟩,
  ⟨0x5020, 1, 16, .u64, .ro, 0, false, 0, 0, 2 ^ 64 - 1⟩,
  ⟨0x5021, 1, 16, .u64, .ro, 0, false, 0, 0, 2 ^ 64 - 1⟩]

/-- PF_WASTED_BYTES to LOAD_WAIT_CYCLES. -/
def entries2 : List Entry := [
  ⟨0x5022, 1, 16, .u64, .ro, 0, false, 0, 0, 2 ^ 64 - 1⟩,
  ⟨0x5023, 1, 16, .u64, .ro, 0, false, 0, 0, 2 ^ 64 - 1⟩,
  ⟨0x5024, 1, 16, .u64, .ro, 0, false, 0, 0, 2 ^ 64 - 1⟩,
  ⟨0x5025, 1, 16, .u64, .ro, 0, false, 0, 0, 2 ^ 64 - 1⟩,
  ⟨0x5026, 1, 16, .u64, .ro, 0, false, 0, 0, 2 ^ 64 - 1⟩,
  ⟨0x5030, 1, 16, .u64, .ro, 0, false, 0, 0, 2 ^ 64 - 1⟩,
  ⟨0x5031, 1, 16, .u64, .ro, 0, false, 0, 0, 2 ^ 64 - 1⟩,
  ⟨0x5032, 1, 16, .u64, .ro, 0, false, 0, 0, 2 ^ 64 - 1⟩,
  ⟨0x5040, 1, 16, .u64, .ro, 0, false, 0, 0, 2 ^ 64 - 1⟩,
  ⟨0x5041, 1, 16, .u64, .ro, 0, false, 0, 0, 2 ^ 64 - 1⟩,
  ⟨0x5050, 1, 16, .u64, .ro, 0, true, 0, 0, 2 ^ 64 - 1⟩,
  ⟨0x5051, 1, 16, .u64, .ro, 0, true, 0, 0, 2 ^ 64 - 1⟩,
  ⟨0x5052, 1, 16, .u32, .ro, 0, false, 0, 0, 2 ^ 64 - 1⟩,
  ⟨0x5053, 1, 1, .u32, .rw, 100, true, 0, 1, 10000⟩,
  ⟨0x5054, 1, 1, .u16, .rw, 64, true, 0, 1, 65535⟩,
  ⟨0x5055, 1, 16, .u64, .ro, 0, false, 0, 0, 2 ^ 64 - 1⟩,
  ⟨0x5056, 1, 16, .u64, .ro, 0, false, 0, 0, 2 ^ 64 - 1⟩,
  ⟨0x5057, 1, 16, .u64, .ro, 0, false, 0, 0, 2 ^ 64 - 1⟩,
  ⟨0x5058, 1, 16, .u64, .ro, 0, false, 0, 0, 2 ^ 64 - 1⟩,
  ⟨0x5059, 1, 16, .u64, .ro, 0, false, 0, 0, 2 ^ 64 - 1⟩,
  ⟨0x2030, 1, 16, .u16, .ro, 0, false, 0, 0, 2 ^ 64 - 1⟩,
  ⟨0x2031, 1, 16, .u64, .ro, 0, false, 0, 0, 2 ^ 64 - 1⟩,
  ⟨0x2032, 1, 16, .u64, .rw, 0, true, 0, 0, 2 ^ 64 - 1⟩,
  ⟨0x2033, 1, 16, .u8, .ro, 0, false, 0, 0, 2 ^ 64 - 1⟩,
  ⟨0x2034, 1, 1, .u32, .rw, 16384, true, 0, 512, 1048576⟩,
  ⟨0x2034, 2, 2, .u8, .rw, 3, true, 0, 1, 100⟩,
  ⟨0x7010, 1, 16, .u64, .ro, 0, false, 0, 0, 2 ^ 64 - 1⟩,
  ⟨0x7011, 1, 16, .u64, .ro, 0, false, 0, 0, 2 ^ 64 - 1⟩,
  ⟨0x7012, 1, 16, .u64, .ro, 0, false, 0, 0, 2 ^ 64 - 1⟩,
  ⟨0x7013, 1, 16, .u64, .ro, 0, false, 0, 0, 2 ^ 64 - 1⟩]

/-- STREAM_WAIT_CYCLES to PRIO_PCP. -/
def entries3 : List Entry := [
  ⟨0x7014, 1, 16, .u64, .ro, 0, false, 0, 0, 2 ^ 64 - 1⟩,
  ⟨0x7015, 1, 16, .u64, .ro, 0, false, 0, 0, 2 ^ 64 - 1⟩,
  ⟨0x7016, 1, 16, .u64, .ro, 0, false, 0, 0, 2 ^ 64 - 1⟩,
  ⟨0x7017, 1, 16, .u64, .ro, 0, false, 0, 0, 2 ^ 64 - 1⟩,
  ⟨0x7018, 1, 16, .u64, .ro, 0, true, 0, 0, 2 ^ 64 - 1⟩,
  ⟨0x2035, 1, 16, .u8, .ro, 0, false, 0, 0, 2 ^ 64 - 1⟩,
  ⟨0x7020, 1, 16, .u64, .ro, 0, false, 0, 0, 2 ^ 64 - 1⟩,
  ⟨0x7021, 1, 16, .u64, .ro, 0, false, 0, 0, 2 ^ 64 - 1⟩,
  ⟨0x7022, 1, 16, .u64, .ro, 0, false, 0, 0, 2 ^ 64 - 1⟩,
  ⟨0x7023, 1, 16, .u64, .ro, 0, false, 0, 0, 2 ^ 64 - 1⟩,
  ⟨0x7024, 1, 16, .u64, .ro, 0, false, 0, 0, 2 ^ 64 - 1⟩,
  ⟨0x7025, 1, 16, .u64, .ro, 0, true, 0, 0, 2 ^ 64 - 1⟩,
  ⟨0x3030, 1, 16, .u64, .ro, 0, false, 0, 0, 2 ^ 64 - 1⟩,
  ⟨0x6040, 1, 1, .u16, .rw, 64, true, 0, 2, 65535⟩,
  ⟨0x7030, 1, 16, .u64, .ro, 0, false, 0, 0, 2 ^ 64 - 1⟩,
  ⟨0x7031, 1, 16, .u64, .ro, 0, false, 0, 0, 2 ^ 64 - 1⟩,
  ⟨0x7032, 1, 16, .u64, .ro, 0, false, 0, 0, 2 ^ 64 - 1⟩,
  ⟨0x7033, 1, 16, .u64, .ro, 0, false, 0, 0, 2 ^ 64 - 1⟩,
  ⟨0x6000, 1, 1, .u8, .rw, 1, true, 0, 0, 2 ^ 64 - 1⟩,
  ⟨0x6000, 2, 17, .u8, .rw, 0, true, 0, 0, 2 ^ 64 - 1⟩,
  ⟨0x6001, 1, 16, .u64, .ro, 0, true, 0, 0, 2 ^ 64 - 1⟩,
  ⟨0x6002, 1, 16, .u32, .rw, 0, true, 0, 0, 2 ^ 64 - 1⟩,
  ⟨0x6003, 1, 16, .blob, .rw, 0, true, 16, 0, 2 ^ 64 - 1⟩,
  ⟨0x6004, 1, 16, .u16, .rw, 0, true, 0, 0, 2 ^ 64 - 1⟩,
  ⟨0x6005, 1, 16, .u32, .rw, 0, true, 0, 0, 2 ^ 64 - 1⟩,
  ⟨0x6006, 1, 16, .blob, .rw, 0, true, 16, 0, 2 ^ 64 - 1⟩,
  ⟨0x6007, 1, 16, .u16, .rw, 0, true, 0, 0, 4094⟩,
  ⟨0x6008, 1, 16, .u8, .rw, 0, true, 0, 0, 2 ^ 64 - 1⟩,
  ⟨0x6009, 1, 1, .u8, .rw, 0, true, 0, 0, 7⟩,
  ⟨0x6009, 2, 2, .u8, .rw, 2, true, 0, 0, 7⟩]

/-- PRIO_PCP to COLL_FLAGS. -/
def entries4 : List Entry := [
  ⟨0x6009, 3, 3, .u8, .rw, 4, true, 0, 0, 7⟩,
  ⟨0x6009, 4, 4, .u8, .rw, 6, true, 0, 0, 7⟩,
  ⟨0x600A, 1, 1, .u8, .rw, 0, true, 0, 0, 63⟩,
  ⟨0x600A, 2, 2, .u8, .rw, 10, true, 0, 0, 63⟩,
  ⟨0x600A, 3, 3, .u8, .rw, 26, true, 0, 0, 63⟩,
  ⟨0x600A, 4, 4, .u8, .rw, 46, true, 0, 0, 63⟩,
  ⟨0x6010, 1, 1, .u16, .rw, 52410, true, 0, 1024, 65535⟩,
  ⟨0x6010, 2, 2, .u32, .rw, 100, true, 0, 10, 100000⟩,
  ⟨0x6010, 3, 3, .u32, .rw, 1000, true, 0, 40, 1000000⟩,
  ⟨0x6010, 4, 4, .u32, .rw, 100, true, 0, 60, 10000⟩,
  ⟨0x6010, 5, 5, .u32, .rw, 20, true, 0, 10, 4294967295⟩,
  ⟨0x6010, 6, 6, .u32, .rw, 2000, true, 0, 0, 100000⟩,
  ⟨0x6010, 7, 7, .u8, .rw, 7, true, 0, 3, 32⟩,
  ⟨0x6010, 8, 8, .u16, .rw, 16, true, 0, 1, 1024⟩,
  ⟨0x6010, 9, 9, .u8, .rw, 8, true, 0, 1, 64⟩,
  ⟨0x6010, 10, 10, .u8, .rw, 2, true, 0, 1, 50⟩,
  ⟨0x6010, 11, 11, .u8, .rw, 4, true, 0, 1, 8⟩,
  ⟨0x6011, 1, 64, .blob, .ro, 0, false, 256, 0, 2 ^ 64 - 1⟩,
  ⟨0x6020, 1, 16, .u8, .ro, 0, false, 0, 0, 2 ^ 64 - 1⟩,
  ⟨0x6021, 1, 16, .u32, .ro, 0, true, 0, 0, 2 ^ 64 - 1⟩,
  ⟨0x6022, 1, 16, .u64, .ro, 0, true, 0, 0, 2 ^ 64 - 1⟩,
  ⟨0x6023, 1, 16, .u64, .ro, 0, true, 0, 0, 2 ^ 64 - 1⟩,
  ⟨0x6030, 1, 10, .u64, .ro, 0, false, 0, 0, 2 ^ 64 - 1⟩,
  ⟨0x6031, 1, 7, .u64, .ro, 0, false, 0, 0, 2 ^ 64 - 1⟩,
  ⟨0x6050, 1, 1, .u64, .ro, 0, true, 0, 0, 2 ^ 64 - 1⟩,
  ⟨0x6050, 2, 6, .u64, .rw, 0, true, 0, 0, 2 ^ 64 - 1⟩,
  ⟨0x6051, 1, 1, .u64, .ro, 0, true, 0, 0, 2 ^ 64 - 1⟩,
  ⟨0x6051, 2, 6, .u64, .rw, 0, true, 0, 0, 2 ^ 64 - 1⟩,
  ⟨0x6040, 2, 2, .u32, .rw, 1000000, true, 0, 100, 100000000⟩,
  ⟨0x3031, 1, 16, .u8, .ro, 0, false, 0, 0, 2 ^ 64 - 1⟩]

/-- COLL_COMMANDS to VOTES_CLEAN. -/
def entries5 : List Entry := [
  ⟨0x7040, 1, 16, .u64, .ro, 0, false, 0, 0, 2 ^ 64 - 1⟩,
  ⟨0x7041, 1, 16, .u64, .ro, 0, false, 0, 0, 2 ^ 64 - 1⟩,
  ⟨0x7042, 1, 16, .u64, .ro, 0, false, 0, 0, 2 ^ 64 - 1⟩,
  ⟨0x7043, 1, 16, .u64, .ro, 0, false, 0, 0, 2 ^ 64 - 1⟩,
  ⟨0x7044, 1, 16, .u64, .ro, 0, false, 0, 0, 2 ^ 64 - 1⟩,
  ⟨0x7045, 1, 16, .u64, .ro, 0, false, 0, 0, 2 ^ 64 - 1⟩,
  ⟨0x3032, 1, 16, .u8, .ro, 0, false, 0, 0, 2 ^ 64 - 1⟩,
  ⟨0x5060, 1, 16, .u64, .ro, 0, false, 0, 0, 2 ^ 64 - 1⟩,
  ⟨0x7050, 1, 16, .u64, .ro, 0, false, 0, 0, 2 ^ 64 - 1⟩,
  ⟨0x7051, 1, 16, .u64, .ro, 0, false, 0, 0, 2 ^ 64 - 1⟩,
  ⟨0x7052, 1, 16, .u64, .ro, 0, false, 0, 0, 2 ^ 64 - 1⟩,
  ⟨0x7053, 1, 16, .u64, .ro, 0, false, 0, 0, 2 ^ 64 - 1⟩,
  ⟨0x7054, 1, 16, .u64, .ro, 0, false, 0, 0, 2 ^ 64 - 1⟩,
  ⟨0x7055, 1, 16, .u64, .ro, 0, false, 0, 0, 2 ^ 64 - 1⟩,
  ⟨0x7056, 1, 16, .u64, .ro, 0, false, 0, 0, 2 ^ 64 - 1⟩,
  ⟨0x7057, 1, 16, .u64, .ro, 0, false, 0, 0, 2 ^ 64 - 1⟩,
  ⟨0x6040, 3, 3, .u32, .rw, 500, true, 0, 10, 10000000⟩,
  ⟨0x7060, 1, 16, .u64, .ro, 0, false, 0, 0, 2 ^ 64 - 1⟩,
  ⟨0x7061, 1, 16, .u64, .ro, 0, false, 0, 0, 2 ^ 64 - 1⟩,
  ⟨0x7062, 1, 16, .u64, .ro, 0, false, 0, 0, 2 ^ 64 - 1⟩,
  ⟨0x7063, 1, 16, .u64, .ro, 0, false, 0, 0, 2 ^ 64 - 1⟩,
  ⟨0x7064, 1, 16, .u32, .ro, 0, false, 0, 0, 2 ^ 64 - 1⟩,
  ⟨0x6040, 4, 4, .u32, .rw, 100000, true, 0, 100, 100000000⟩,
  ⟨0x3040, 1, 16, .u8, .ro, 0, false, 0, 0, 2 ^ 64 - 1⟩,
  ⟨0x3041, 1, 16, .u64, .ro, 0, false, 0, 0, 2 ^ 64 - 1⟩,
  ⟨0x3042, 1, 16, .u32, .ro, 0, false, 0, 0, 2 ^ 64 - 1⟩,
  ⟨0x3043, 1, 16, .u8, .ro, 0, false, 0, 0, 2 ^ 64 - 1⟩,
  ⟨0x3044, 1, 16, .u32, .ro, 0, false, 0, 0, 2 ^ 64 - 1⟩,
  ⟨0x3045, 1, 16, .u8, .ro, 0, false, 0, 0, 2 ^ 64 - 1⟩,
  ⟨0x7070, 1, 16, .u64, .ro, 0, false, 0, 0, 2 ^ 64 - 1⟩]

/-- VOTES_DISCARDED to HEALTH_WEIGHT. -/
def entries6 : List Entry := [
  ⟨0x7071, 1, 16, .u64, .ro, 0, false, 0, 0, 2 ^ 64 - 1⟩,
  ⟨0x7072, 1, 16, .u64, .ro, 0, false, 0, 0, 2 ^ 64 - 1⟩,
  ⟨0x7073, 1, 16, .u64, .ro, 0, false, 0, 0, 2 ^ 64 - 1⟩,
  ⟨0x7074, 1, 16, .u64, .ro, 0, false, 0, 0, 2 ^ 64 - 1⟩,
  ⟨0x7075, 1, 16, .u64, .ro, 0, false, 0, 0, 2 ^ 64 - 1⟩,
  ⟨0x7076, 1, 16, .u64, .ro, 0, false, 0, 0, 2 ^ 64 - 1⟩,
  ⟨0x7077, 1, 16, .u64, .ro, 0, false, 0, 0, 2 ^ 64 - 1⟩,
  ⟨0x7078, 1, 16, .u64, .ro, 0, false, 0, 0, 2 ^ 64 - 1⟩,
  ⟨0x7079, 1, 16, .u64, .ro, 0, false, 0, 0, 2 ^ 64 - 1⟩,
  ⟨0x5070, 1, 1, .u32, .rw, 3600, true, 0, 60, 86400⟩,
  ⟨0x5071, 1, 16, .u8, .ro, 0, false, 0, 0, 2 ^ 64 - 1⟩,
  ⟨0x5072, 1, 16, .blob, .ro, 0, false, 16, 0, 2 ^ 64 - 1⟩,
  ⟨0x5073, 1, 16, .u32, .ro, 0, false, 0, 0, 2 ^ 64 - 1⟩,
  ⟨0x7080, 1, 16, .u64, .ro, 0, false, 0, 0, 2 ^ 64 - 1⟩,
  ⟨0x7081, 1, 16, .u64, .ro, 0, false, 0, 0, 2 ^ 64 - 1⟩,
  ⟨0x7082, 1, 16, .u64, .ro, 0, false, 0, 0, 2 ^ 64 - 1⟩,
  ⟨0x7083, 1, 16, .u64, .ro, 0, false, 0, 0, 2 ^ 64 - 1⟩,
  ⟨0x7084, 1, 16, .u64, .ro, 0, false, 0, 0, 2 ^ 64 - 1⟩,
  ⟨0x7085, 1, 1, .u64, .ro, 0, false, 0, 0, 2 ^ 64 - 1⟩,
  ⟨0x2040, 1, 1, .u16, .ro, 1000, true, 0, 0, 2 ^ 64 - 1⟩,
  ⟨0x2040, 2, 2, .u16, .rw, 700, true, 0, 0, 1000⟩,
  ⟨0x2040, 3, 3, .u32, .rw, 3600, true, 0, 600, 86400⟩,
  ⟨0x2041, 1, 1, .u16, .rw, 2, true, 0, 0, 2 ^ 64 - 1⟩,
  ⟨0x2041, 2, 2, .u16, .rw, 256, true, 0, 0, 2 ^ 64 - 1⟩,
  ⟨0x2041, 3, 3, .u16, .rw, 2, true, 0, 0, 2 ^ 64 - 1⟩,
  ⟨0x2041, 4, 4, .u16, .rw, 256, true, 0, 0, 2 ^ 64 - 1⟩,
  ⟨0x2041, 5, 5, .u16, .rw, 64, true, 0, 0, 2 ^ 64 - 1⟩,
  ⟨0x2041, 6, 6, .u16, .rw, 1, true, 0, 0, 2 ^ 64 - 1⟩,
  ⟨0x2041, 7, 7, .u16, .rw, 1, true, 0, 0, 2 ^ 64 - 1⟩,
  ⟨0x2041, 8, 8, .u16, .rw, 32, true, 0, 0, 2 ^ 64 - 1⟩]

/-- HEALTH_WEIGHT to VENDOR_ID. -/
def entries7 : List Entry := [
  ⟨0x2041, 9, 9, .u16, .rw, 128, true, 0, 0, 2 ^ 64 - 1⟩,
  ⟨0x2041, 10, 10, .u16, .rw, 64, true, 0, 0, 2 ^ 64 - 1⟩,
  ⟨0x2041, 11, 11, .u16, .rw, 512, true, 0, 0, 2 ^ 64 - 1⟩,
  ⟨0x2041, 12, 12, .u16, .rw, 1024, true, 0, 0, 2 ^ 64 - 1⟩,
  ⟨0x2042, 1, 12, .u32, .ro, 0, true, 0, 0, 2 ^ 64 - 1⟩,
  ⟨0x2050, 1, 1, .u32, .rw, 10000, true, 0, 1000, 1000000⟩,
  ⟨0x2050, 2, 2, .u64, .ro, 0, false, 0, 0, 2 ^ 64 - 1⟩,
  ⟨0x2050, 3, 3, .u32, .ro, 0, false, 0, 0, 2 ^ 64 - 1⟩,
  ⟨0x2050, 4, 4, .u64, .ro, 0, false, 0, 0, 2 ^ 64 - 1⟩,
  ⟨0x8000, 1, 1, .u8, .ro, 0, true, 0, 0, 2 ^ 64 - 1⟩,
  ⟨0x8000, 2, 2, .u8, .ro, 0, false, 0, 0, 2 ^ 64 - 1⟩,
  ⟨0x8001, 1, 16, .u8, .ro, 0, false, 0, 0, 2 ^ 64 - 1⟩,
  ⟨0x8002, 1, 16, .u8, .ro, 0, false, 0, 0, 2 ^ 64 - 1⟩,
  ⟨0x8010, 1, 1, .u32, .rw, 2000, true, 0, 100, 1000000⟩,
  ⟨0x8010, 2, 2, .u32, .rw, 5000, true, 0, 100, 1000000⟩,
  ⟨0x8010, 3, 3, .u32, .rw, 20000, true, 0, 100, 1000000⟩,
  ⟨0x8010, 4, 4, .u32, .rw, 10000, true, 0, 100, 1000000⟩,
  ⟨0x8010, 5, 5, .u32, .rw, 100000, true, 0, 100, 1000000⟩,
  ⟨0x8011, 1, 17, .u8, .rw, 0, true, 0, 0, 1⟩,
  ⟨0x8012, 1, 1, .u32, .rw, 50, true, 0, 10, 100⟩,
  ⟨0x8013, 1, 17, .u64, .ro, 0, false, 0, 0, 2 ^ 64 - 1⟩,
  ⟨0x8014, 1, 17, .u64, .ro, 0, false, 0, 0, 2 ^ 64 - 1⟩,
  ⟨0x8015, 1, 21, .u64, .ro, 0, true, 0, 0, 2 ^ 64 - 1⟩,
  ⟨0x8020, 1, 4, .u8, .ro, 0, false, 0, 0, 2 ^ 64 - 1⟩,
  ⟨0x8021, 1, 4, .blob, .ro, 0, false, 64, 0, 2 ^ 64 - 1⟩,
  ⟨0x8022, 1, 4, .cmd, .cmd, 0, false, 0, 0, 2 ^ 64 - 1⟩,
  ⟨0x8023, 1, 4, .cmd, .cmd, 0, false, 0, 0, 2 ^ 64 - 1⟩,
  ⟨0x8024, 1, 4, .cmd, .cmd, 0, false, 0, 0, 2 ^ 64 - 1⟩,
  ⟨0x8025, 1, 1, .u32, .ro, 0, true, 0, 0, 2 ^ 64 - 1⟩,
  ⟨0x1000, 1, 1, .u16, .ro, 0, true, 0, 0, 2 ^ 64 - 1⟩]

/-- ORDERING_NUMBER to FW_BOOTED_SLOT. -/
def entries8 : List Entry := [
  ⟨0x1000, 2, 2, .str, .ro, 0, true, 12, 0, 2 ^ 64 - 1⟩,
  ⟨0x1000, 3, 3, .str, .ro, 0, true, 2, 0, 2 ^ 64 - 1⟩,
  ⟨0x1000, 4, 4, .str, .ro, 0, true, 16, 0, 2 ^ 64 - 1⟩,
  ⟨0x1000, 5, 5, .u16, .ro, 0, true, 0, 0, 2 ^ 64 - 1⟩,
  ⟨0x1000, 6, 6, .u32, .ro, 0, true, 0, 0, 2 ^ 64 - 1⟩,
  ⟨0x1000, 7, 7, .u64, .ro, 549755813888, true, 0, 0, 2 ^ 64 - 1⟩,
  ⟨0x1000, 8, 8, .u64, .ro, 0, true, 0, 0, 2 ^ 64 - 1⟩,
  ⟨0x1000, 9, 9, .u8, .ro, 0, false, 0, 0, 2 ^ 64 - 1⟩,
  ⟨0x1000, 10, 10, .blob, .ro, 0, true, 16, 0, 2 ^ 64 - 1⟩,
  ⟨0x1000, 11, 11, .u8, .ro, 1, true, 0, 0, 2 ^ 64 - 1⟩,
  ⟨0x2001, 1, 1, .u64, .ro, 0, false, 0, 0, 2 ^ 64 - 1⟩,
  ⟨0x2001, 2, 2, .u8, .ro, 0, false, 0, 0, 2 ^ 64 - 1⟩,
  ⟨0x2060, 1, 1, .u64, .ro, 0, true, 0, 0, 2 ^ 64 - 1⟩,
  ⟨0x2060, 2, 2, .u64, .ro, 0, false, 0, 0, 2 ^ 64 - 1⟩,
  ⟨0x2060, 3, 3, .u64, .ro, 0, false, 0, 0, 2 ^ 64 - 1⟩,
  ⟨0x2060, 4, 4, .u64, .ro, 0, false, 0, 0, 2 ^ 64 - 1⟩,
  ⟨0x2060, 5, 5, .u8, .ro, 0, false, 0, 0, 2 ^ 64 - 1⟩,
  ⟨0x2060, 6, 6, .u64, .ro, 0, true, 0, 0, 2 ^ 64 - 1⟩,
  ⟨0x3001, 1, 16, .u16, .ro, 0, false, 0, 0, 2 ^ 64 - 1⟩,
  ⟨0x3002, 1, 16, .blob, .ro, 0, false, 128, 0, 2 ^ 64 - 1⟩,
  ⟨0x8030, 1, 1, .u16, .rw, 0x0102, true, 0, 0, 511⟩,
  ⟨0x8030, 2, 2, .u16, .ro, 0, false, 0, 0, 2 ^ 64 - 1⟩,
  ⟨0x8030, 3, 3, .cmd, .cmd, 0, false, 0, 0, 2 ^ 64 - 1⟩,
  ⟨0x9000, 1, 1, .cmd, .cmd, 0, false, 0, 0, 2 ^ 64 - 1⟩,
  ⟨0x9000, 2, 2, .cmd, .cmd, 0, false, 0, 0, 2 ^ 64 - 1⟩,
  ⟨0x9000, 3, 3, .cmd, .cmd, 0, false, 0, 0, 2 ^ 64 - 1⟩,
  ⟨0xA000, 1, 1, .u8, .ro, 0, true, 0, 0, 2 ^ 64 - 1⟩,
  ⟨0xA000, 2, 2, .u8, .ro, 0xFF, true, 0, 0, 2 ^ 64 - 1⟩,
  ⟨0xA000, 3, 3, .u8, .ro, 0, true, 0, 0, 2 ^ 64 - 1⟩,
  ⟨0xA000, 4, 4, .u8, .ro, 0, false, 0, 0, 2 ^ 64 - 1⟩]

/-- FW_PKG_ID to SLOT_ECE. -/
def entries9 : List Entry := [
  ⟨0xA001, 1, 2, .blob, .ro, 0, true, 16, 0, 2 ^ 64 - 1⟩,
  ⟨0xA002, 1, 2, .u8, .ro, 0, true, 0, 0, 2 ^ 64 - 1⟩,
  ⟨0xA003, 1, 10, .u32, .ro, 0, true, 0, 0, 2 ^ 64 - 1⟩,
  ⟨0xA004, 1, 1, .u8, .ro, 0, true, 0, 0, 2 ^ 64 - 1⟩,
  ⟨0xA004, 2, 2, .u8, .ro, 0, true, 0, 0, 2 ^ 64 - 1⟩,
  ⟨0xA004, 3, 3, .u8, .ro, 0, true, 0, 0, 2 ^ 64 - 1⟩,
  ⟨0xA005, 1, 1, .u8, .ro, 0, false, 0, 0, 2 ^ 64 - 1⟩,
  ⟨0xA005, 2, 2, .u32, .ro, 0, false, 0, 0, 2 ^ 64 - 1⟩,
  ⟨0xA006, 1, 1, .cmd, .cmd, 0, false, 0, 0, 2 ^ 64 - 1⟩,
  ⟨0xA006, 2, 2, .cmd, .cmd, 0, false, 0, 0, 2 ^ 64 - 1⟩,
  ⟨0xA006, 3, 3, .cmd, .cmd, 0, false, 0, 0, 2 ^ 64 - 1⟩,
  ⟨0xA007, 1, 1, .u8, .ro, 0, false, 0, 0, 2 ^ 64 - 1⟩,
  ⟨0xA007, 2, 2, .u64, .ro, 0, false, 0, 0, 2 ^ 64 - 1⟩,
  ⟨0xA007, 3, 3, .cmd, .cmd, 0, false, 0, 0, 2 ^ 64 - 1⟩,
  ⟨0xA007, 4, 4, .cmd, .cmd, 0, false, 0, 0, 2 ^ 64 - 1⟩,
  ⟨0xA007, 5, 5, .cmd, .cmd, 0, false, 0, 0, 2 ^ 64 - 1⟩,
  ⟨0xA007, 6, 6, .u16, .ro, 0, false, 0, 0, 2 ^ 64 - 1⟩,
  ⟨0xA020, 1, 1, .blob, .ro, 0, false, 64, 0, 2 ^ 64 - 1⟩,
  ⟨0xA020, 2, 2, .blob, .ro, 0, true, 0, 0, 2 ^ 64 - 1⟩,
  ⟨0xA030, 1, 1, .u64, .ro, 0, false, 0, 0, 2 ^ 64 - 1⟩,
  ⟨0xA030, 2, 2, .u64, .ro, 0, false, 0, 0, 2 ^ 64 - 1⟩,
  ⟨0xA030, 3, 3, .u64, .ro, 0, false, 0, 0, 2 ^ 64 - 1⟩,
  ⟨0x7090, 1, 16, .u64, .ro, 0, false, 0, 0, 2 ^ 64 - 1⟩,
  ⟨0x7091, 1, 16, .u64, .ro, 0, false, 0, 0, 2 ^ 64 - 1⟩,
  ⟨0x7092, 1, 16, .u64, .ro, 0, false, 0, 0, 2 ^ 64 - 1⟩,
  ⟨0x7093, 1, 16, .u64, .ro, 0, false, 0, 0, 2 ^ 64 - 1⟩]

/-- Every entry of the dictionary (R627). -/
def entryTable : List Entry :=
  entries0 ++ entries1 ++ entries2 ++ entries3 ++ entries4 ++ entries5 ++ entries6 ++ entries7 ++ entries8 ++ entries9

/-- The entry at index:subindex, if one is defined (R627). -/
def entryAt (index sub : Nat) : Option Entry :=
  entryTable.find? fun e => e.index == index && e.lo ≤ sub && sub ≤ e.hi

/-- The key of index:subindex in State.dict. -/
def dk (index sub : Nat) : Nat := index * 256 + sub

/-- The default of an entry: what it reads when nothing has set it. -/
def dictDefault (key : Nat) : Nat :=
  match entryAt (key / 256) (key % 256) with
  | some e => e.dflt
  | none => 0

/-- P entries keep their value through a cold reset (R631). -/
def dictPersistent (key : Nat) : Bool :=
  match entryAt (key / 256) (key % 256) with
  | some e => e.persistent
  | none => false

end Sys2Proof.Machine
end

