-- ==== Sys2Proof/Machine/State.lean ====
section
/-!
DEFINITION. The state of the BX9: every register, memory, queue, counter, mode and record the spec gives it, as plain
data, with the state an unpowered module is in.
-/
namespace Sys2Proof.Machine

/-! ## Module, clocks, power and boot -/

/-- The module states of R66 (an absent module is no machine). -/
inductive ModState | unpowered | coldReset | warmReset | running
deriving DecidableEq, Repr

/-- A reset in progress: its target, every cause recorded for it (R109), and the device time of its recognition. -/
structure ResetRun where
  target : ResetTarget
  causes : List (BitVec 16) := []
  /-- The cause it began with, the functions it told of RESET_BEGIN, and the fence of R612 in force for it. -/
  cause : BitVec 16 := 0
  fns : List Nat := []
  fence : Bool := false
  began : Nat := 0
  /-- RETIRE_CORE asked for this core reset, or R615 retires the core at its completion. -/
  retire : Bool := false
  /-- Core resets it has absorbed, which end with it, and the cores its partitions held when it was recognised (R109). -/
  cores : List Nat := []
  reached : List Nat := []
  /-- It is a counted reset, by the cause of one of its recognitions (R614). -/
  counted : Bool := false
  /-- Warm reset only: the 1,000 µs hold of a protective stop is still on (R102), and since when. -/
  hold : Bool := false
  holdFrom : Nat := 0
  /-- Warm reset only: counted under R614 and found out of service under R617. -/
  oos : Bool := false
deriving DecidableEq, Repr

/-- The always-on reset record, dictionary entries 0x2010:01 to :04 (R111). -/
structure ResetRec where
  kind : Nat := 0
  cause : BitVec 16 := 0
  time : Nat := 0
  target : BitVec 16 := 0
deriving DecidableEq, Repr

/-- A PLL: running, and released, that is, its clock monitor has shown the 64 lock cycles of R89. -/
structure Pll where
  running : Bool := false
  released : Bool := false
deriving DecidableEq, Repr

/-- The four block power states of R82. -/
inductive PowerState | active | idle | sleep | off
deriving DecidableEq, Repr

/-- A block of R82: its state, the device time it entered it, whether it is leaving SLEEP (R90) or OFF
(R85), and the state it takes once it has left it. A sleeping block's wake is charged to the first command placed on it (R84). -/
structure Block where
  st : PowerState := .off
  since : Nat := 0
  waking : Bool := false
  charged : Bool := false
  leavingOff : Bool := false
  after : PowerState := .active
deriving DecidableEq, Repr

/-- The pins that hold a level of their own (R43, R46 to R49, R66); Machine/Pins.lean gives every pin group its level. -/
structure Pins where
  vinMv : Nat := 0
  modResetLow : Bool := false
  slotStrap : Fin 8 := 0
  protectLow : Bool := false
deriving DecidableEq, Repr

/-- Facts about the module outside the registers, which the environment fixes: what a boot finds (log 6). -/
structure Phys where
  /-- Trim loads that will fail their CRC before one matches (R92, R93). -/
  trimFails : Nat := 0
  sfdpOk : Bool := true
  /-- Signature results of the profile copies (R123): ECDSA, ML-DSA. -/
  copyEcdsa : Tab Bool := []
  copyMldsa : Tab Bool := []
  /-- Signature results of the firmware slots (R651). -/
  slotEcdsa : Tab Bool := []
  slotMldsa : Tab Bool := []
  /-- HBM stacks that fail training (R130). -/
  hbmFail : List Nat := []
  persistOk : Bool := true
  /-- Ready expanders at boot: capacity in frames of 64 KiB (R118, R174). -/
  expanders : Tab Nat := []
  /-- Functions whose event-record writes end in an error (R679), and queues, at 64 × function + queue, whose held
  completion records do (R136, R156). -/
  ringErr : List Nat := []
  cqErr : List Nat := []
deriving DecidableEq, Repr

/-- The fuses (R4, R123, R653, R658, R667). -/
structure Fuses where
  enabledCores : BitVec 16 := 0xFFFF
  fwKeyHash : List Byte := []
  profileKeyHash : List Byte := []
  profileKeyFused : Bool := false
  dualSig : Bool := false
  rollback : Nat := 0
  badGroups : Tab (BitVec 64) := []
deriving DecidableEq, Repr

/-- Boot (R113, R128, R130) and the profile in force (R120, R121, R126). -/
structure Boot where
  stage : Nat := 0
  halt : Nat := 0
  warn : BitVec 8 := 0
  profileCopy : Nat := 0
  fwSlot : Nat := 0
  onTrial : Bool := false
  trimValid : Bool := false
  trimAttempts : Nat := 0
  slotId : Fin 8 := 0
  envelopeLock : Bool := false
  /-- Envelope word w of slot s at key 32s + w (R126). -/
  env : Tab W32 := []
  profileSeq : W32 := 0
  hostShape : Nat := 0
  cxlEnable : Bool := false
  platformPort : Nat := 0xFF
  platformFn : Nat := 0
  vfCount : Tab Nat := []
  hostReadyUs : Nat := 0
  persistLost : Bool := false
  /-- Admission has been opened by step 10 of R113 or step 9 of R110. -/
  admitOpen : Bool := false
  /-- Measurement blocks of R670, by index. -/
  measurements : Tab (List Byte) := []
deriving DecidableEq, Repr

/-- Module power: state, holds, supply warning, thermal and crystal conditions. -/
structure Power where
  state : ModState := .unpowered
  /-- Why a cold reset may not proceed: VIN recovery (R99), crystal (R78), MOD_RESET_N held low (R74). -/
  vinHold : Bool := false
  crystalHold : Bool := false
  warnActive : Bool := false
  warnBegan : Nat := 0
  /-- Device µs of the warning before the last cold reset set device time to 0, and the lowest VIN seen in it. -/
  warnCarry : Nat := 0
  warnMinMv : Nat := 0
  /-- Device time at which VIN has recovered, unless it dips again (R97), and at which a supply reset's hold may end (R99). -/
  warnClear : Nat := 0
  vinClear : Nat := 0
  thermalArmed : Bool := true
  /-- Device time of the last reading at or above 100 °C (R102). -/
  hotAt : Nat := 0
  /-- CXL_PERST_N is driven low (R71, R113 step 1), and since when CXL_REFCLK runs. -/
  cxlPerst : Bool := false
  refclkFrom : Option Nat := none
  /-- Device time at which the cold reset in progress was recognised (R71, R113 step 1). -/
  coldFrom : Nat := 0
  /-- The CXL port trained as two x8 links (R171). -/
  cxlSplit : Bool := false
  plls : List (PllId × Pll) := []
  /-- Blocks, numbered 0 to 15 matrix engines, 16 to 31 vector engines, 32 + 80c + g bank groups,
  1312 to 1567 HBM channels, 1568 to 1583 Ethernet lanes. -/
  blocks : Tab Block := []
deriving DecidableEq, Repr

/-! ## Host ports and functions -/

/-- One submission queue and its completion ring (R147 to R156). -/
structure Queue where
  sqBase : W64 := 0
  cqBase : W64 := 0
  cqLog2 : BitVec 5 := 0
  sqLog2 : BitVec 5 := 0
  vector : BitVec 7 := 0
  irqEn : Bool := false
  enable : Bool := false
  fault : BitVec 8 := 0
  faulted : Bool := false
  active : Bool := false
  sqHead : Nat := 0
  sqTail : Nat := 0
  cqTail : Nat := 0
  cqHead : Nat := 0
  delayUs : BitVec 16 := 0
  count : BitVec 8 := 0
  fetchStallUs : W32 := 0
  doorbellDrops : W32 := 0
  lSqBase : W64 := 0
  lCqBase : W64 := 0
  lSqLog2 : Nat := 0
  lCqLog2 : Nat := 0
  /-- Doorbell times of the records not yet read: (records, time), oldest first (R150). -/
  doorbells : List (Nat × Nat) := []
  /-- Records read and not completed (R152). -/
  outstanding : Nat := 0
  /-- Unsignalled completion records, the newest ones of the ring, and the time the DELAY_US count runs from (R154). -/
  unsignalled : Nat := 0
  delayFrom : Nat := 0
  /-- A completion-ring write error discards the records still owed (R156). -/
  discard : Bool := false
  /-- Device time at which ENABLE was last cleared on the running queue (R176). -/
  disabledAt : Option Nat := none
deriving DecidableEq, Repr

/-- The states of MBOX.TX_STATUS.STATE (R163). -/
inductive MboxState | idle | pending | delivered | done
deriving DecidableEq, Repr

/-- One mailbox channel (R163 to R170). -/
structure Chan where
  /-- TX_MSG[1..15]. -/
  txMsg : Tab W32 := []
  vector : BitVec 7 := 0
  irqEn : Bool := false
  destPort : Nat := 0
  destFn : Nat := 0
  destCh : Nat := 0
  ackCode : W16 := 0
  state : MboxState := .idle
  /-- Messages this channel has sent since its function was last reset (R164). -/
  seq : Nat := 0
  /-- The captured message and destination (port, function, channel), and the time of GO. -/
  capMsg : Tab W32 := []
  capDest : Nat × Nat × Nat := (0, 0, 0)
  goTime : Nat := 0
  rxMsg : Tab W32 := []
  rxVector : BitVec 7 := 0
  rxIrqEn : Bool := false
  tokenEn : Bool := false
  token : BitVec 12 := 0
  full : Bool := false
  /-- The sender still owed an acknowledgement: (port, function, channel). -/
  rxFrom : Option (Nat × Nat × Nat) := none
deriving DecidableEq, Repr

/-- The event ring (R158, R679). -/
structure EvRing where
  base : W64 := 0
  enable : Bool := false
  vector : BitVec 7 := 0
  irqEn : Bool := false
  log2 : BitVec 5 := 0
  head : Nat := 0
  tail : Nat := 0
  lost : W32 := 0
  writeError : Bool := false
  active : Bool := false
  lBase : W64 := 0
  lLog2 : Nat := 0
deriving DecidableEq, Repr

/-- The FUNC reset record (R676). -/
structure FnResetRec where
  target : Nat := 0
  cause : W16 := 0
  kind : Nat := 0
  count : W32 := 0
  time : Nat := 0
  isNew : Bool := true
deriving DecidableEq, Repr

/-- A message held for a function in D3hot (R136), in order. -/
inductive HeldMsg
  | completion (q : Nat) (record : List Byte)
  | event (code : W16) (detail : W32) (time : Nat)
  | irq (vector : Nat)
deriving DecidableEq, Repr

/-- One PCIe function. -/
structure Fn where
  d3hot : Bool := false
  held : List HeldMsg := []
  msixTable : Tab (BitVec 128) := []
  pba : Tab Bool := []
  msixEnable : Bool := false
  msixMask : Bool := false
  bar4Log2 : Nat := 30
  bar4Va : W64 := 0
  queues : Tab Queue := []
  chans : Tab Chan := []
  ring : EvRing := {}
  rrec : FnResetRec := {}
  /-- A latched high half (R675): register offset of the high half, value. -/
  latch : Option (Nat × W32) := none
  /-- A held low half of a 64-bit write (R675): register offset, value. -/
  heldLow : Option (Nat × W32) := none
  /-- Configuration registers the host has written and no rule of the spec names. -/
  cfg : Tab W32 := []
  /-- The uncorrectable error status of a PF's AER capability (R134). -/
  aer : W32 := 0
  /-- BAR4_UNMAPPED drops counted (R145). -/
  bar4Drops : Nat := 0
deriving DecidableEq, Repr

/-- A BAR4 access that has reached its port and waits for tokens of its regulator (R144, R176, R245): the slot, the function,
the window base it arrived under, its offset, and the bytes of a write or the length of a read. -/
structure Bar4Access where
  slot : Nat
  fn : Nat
  base : Nat
  off : Nat
  write : Bool
  bytes : List Byte := []
  len : Nat := 0
  arrived : Nat := 0
deriving DecidableEq, Repr

/-- A host read whose command has stopped: its command, the handle of its long operation, and the device time before which it was not
issued (R205). -/
structure LateTag where
  cmd : Nat
  handle : Option Nat
  since : Nat
deriving DecidableEq, Repr

/-- One host port. -/
structure Port where
  perst : Bool := false
  enabled : Bool := false
  linkUp : Bool := false
  training : Bool := false
  numVfs : Nat := 0
  vfEnable : Bool := false
  /-- Stopped host reads whose tags are still in use (R205). -/
  lateTags : List LateTag := []
  /-- BAR4 accesses waiting for their regulator, oldest first. -/
  bar4 : List Bar4Access := []
deriving DecidableEq, Repr

/-! ## Partitions -/

/-- A dependency token (R29). -/
structure Token where
  count : W32 := 0
  failed : Bool := false
deriving DecidableEq, Repr

/-- The tier of a frame. -/
inductive Tier | hbm | cxl
deriving DecidableEq, Repr

/-- A leaf entry (R264). -/
structure Leaf where
  valid : Bool := false
  big : Bool := false
  tier : Tier := .hbm
  frame : Nat := 0
  ro : Bool := false
  poison : Bool := false
  shared : Bool := false
  migrating : Bool := false
deriving DecidableEq, Repr

/-- A twinned region, an L1 entry with TWIN set (R266, R496): its spare frames, each with
its tier (CXL or not). -/
structure Twin where
  twinned : Bool := false
  spares : List (Bool × Nat) := []
deriving DecidableEq, Repr

/-- A long-operation handle's states (R207). -/
inductive LongState | free | waiting | running | suspending | diapause | cancelling
deriving DecidableEq, Repr

/-- One long-operation handle (R207, R214) with the operation's own progress. -/
structure LongOp where
  opcode : Nat := 0
  state : LongState := .free
  lastStatus : Nat := 0
  doneUnits : Nat := 0
  totalUnits : Nat := 0
  segments : Nat := 0
  diapauseUs : Nat := 0
  /-- Identities of the accepted commands: the open segment, and the SUSPEND, RESUME and CANCEL at work. -/
  segment : Option Nat := none
  suspender : Option Nat := none
  resumer : Option Nat := none
  canceller : Option Nat := none
  /-- The starting command's record and DMA core (R208, R210). -/
  startRec : Rec := 0
  startCore : Option Nat := none
  started : Bool := false
  /-- 100 µs after a SUSPEND or CANCEL at work started, or 0 (R208). -/
  stopBy : Nat := 0
  /-- A SUSPEND at work has no unit left to wait for: the operation rests in the next device µs (R215). -/
  toRest : Bool := false
  /-- Device time at which a CANCEL last started on the operation (R215). -/
  cancelled : Option Nat := none
  /-- The live side changed under a CKPT_WRITE (R522), or the live copy under a SCRUB (R593). -/
  torn : Bool := false
  /-- Device time at which the last unit was read just before that change (R525). -/
  preread : Option Nat := none
  /-- The headers a waiting RESUME brought (R209). -/
  headers : List Byte := []
  /-- The first shard that failed so far. -/
  found : Option Nat := none
deriving DecidableEq, Repr

/-- Bytes of an engine that wait at a regulator: their direction, and whether the floor class alone may serve them (R245, R497). -/
structure Owed where
  bytes : Nat
  out : Bool
  floor : Bool
deriving DecidableEq, Repr

/-- A regulator of R244: the tokens drawn from each full bucket and not yet refilled, in bytes, and what waits there, oldest first. -/
structure Regulator where
  floorUsed : Nat := 0
  ceilUsed : Nat := 0
  owed : List Owed := []
deriving DecidableEq, Repr

/-! ## Memory state -/

/-- What a frame of a tier is doing; an unlisted frame is free. -/
structure Frame where
  /-- Holding slot, or none. -/
  owner : Option Nat := none
  /-- Held as a spare of a twinned region rather than mapped (R496). -/
  twinSpare : Bool := false
  /-- Freed and awaiting zeroing (R281). -/
  zeroing : Bool := false
  retired : Bool := false
  /-- Retired and awaiting its copy into a spare (R258). -/
  retiring : Bool := false
  /-- Retired frame kept in use for want of a spare (R259). -/
  noSpare : Bool := false
  /-- CXL frame lost with its link (R261). -/
  lost : Bool := false
  /-- Times of the corrected errors still inside a day, newest first. -/
  ceTimes : List Nat := []
deriving DecidableEq, Repr

/-- A CXL expander (R171 to R175). -/
structure Expander where
  ready : Bool := false
  linkUp : Bool := false
  /-- First CXL frame, frames in use. -/
  base : Nat := 0
  frames : Nat := 0
  /-- Capacity of the expander in frames, used or not (R174). -/
  total : Nat := 0
deriving DecidableEq, Repr

/-- Where bytes that a line request reads go: nowhere that is modelled as holding them, scratch of its core, device memory, host
memory of a port, or the output row of a gathered index (R257). -/
inductive MemDest
  | nowhere
  | scratch (off len : Nat)
  | device (va len : Nat)
  | host (port addr len : Nat)
  | gather (cmd pos off len : Nat)
deriving DecidableEq, Repr

/-- Who issued a memory request: the core's units (R271). -/
inductive ReqUnit | matrix | vector | proboscis | dma | stream
deriving DecidableEq, Repr

/-- A line request (R270 to R273). -/
structure MemReq where
  cmd : Nat := 0
  write : Bool := false
  tier : Tier := .hbm
  /-- Device physical address of the 256-byte line, in its tier. -/
  line : Nat := 0
  slot : Nat := 0
  unit : ReqUnit := .dma
  gen : Nat := 0
  /-- The virtual address the request was made at. -/
  va : Nat := 0
  /-- Where what it reads goes; more than one place where a later gather row was merged into it (R292). -/
  dests : List MemDest := []
  /-- The thread of the proboscis, by gather position, or 8 × row + stream of a stream row (R283, R289). -/
  tag : Nat := 0
  /-- It was issued in the floor class (R245, R273). -/
  floor : Bool := false
  /-- Its place in the order of issue, above that of every request issued before it. -/
  order : Nat := 0
deriving DecidableEq, Repr

/-- An entry of a core's translation buffer: slot, side, first leaf page of the page, and the leaf found there (R268). -/
structure TlbEntry where
  slot : Nat
  side1 : Bool
  page : Nat
  leaf : Leaf
deriving DecidableEq, Repr

/-- What the arbiters and regulators remember beside the buckets: the slot last served by each HBM bank and by the spare class of
each resource, as slot + 1, and the bytes each resource has carried in this device µs (R245, R246, R273). -/
structure Fabric where
  bankTurn : Tab Nat := []
  spareTurn : Tab Nat := []
  served : Tab Nat := []
deriving DecidableEq, Repr

/-- A tier move in progress (R279): the pages still to move with the target frame of each, the leaves of the first of them that
are copied, and the lines of it, by address ÷ 256, that were written since its move began. -/
structure TierMove where
  pages : List (Nat × Nat) := []
  copied : Nat := 0
  dirty : List Nat := []
deriving DecidableEq, Repr

/-! ## Commands -/

/-- A record read from a submission ring and not yet decided (R190). -/
structure Waiting where
  fn : Nat
  queue : Nat
  record : Rec
  doorbell : Nat
deriving DecidableEq, Repr

/-- Where an accepted command stands (R232 to R240). -/
inductive Phase
  | waiting
  | running
  | saving | displaced | restoring
  | ended (status : Nat) (detail : Nat)
deriving DecidableEq, Repr

/-- The addresses of a partition's tracker and tensor-group tables (R415, R501). -/
structure Tables where
  tracker : W64 := 0
  tgroup : W64 := 0
deriving DecidableEq, Repr

/-- An accepted, uncompleted command. -/
structure Cmd where
  id : Nat
  slot : Nat
  fn : Nat
  queue : Nat
  record : Rec
  doorbell : Nat
  admitted : Nat
  /-- Accepted under the failed-mark rule with zero demand (R191): the failing WAIT entry. -/
  zero : Option Nat := none
  release : Nat := 0
  /-- The absolute deadline once known; none while the command is floating (R34). -/
  deadline : Option Nat := none
  /-- Times at which each external wait was first found met, by WAIT entry (R34). -/
  extMet : Tab (Option Nat) := []
  /-- Its exchange with peers still has external events to come, and the time of the latest so far (R480, R512). -/
  peer : Bool := false
  peerAt : Nat := 0
  /-- Declared bytes by resource, as charged at admission (R190, R210). -/
  bytes : Tab Nat := []
  cores : List Nat := []
  dmaCore : Option Nat := none
  /-- Commands this one can displace, and commands that can displace it (R195). -/
  displaces : List Nat := []
  displacedBy : List Nat := []
  /-- Occupancy E in device µs and the wake term charged (R186, R192). -/
  occupancy : Nat := 0
  wake : Nat := 0
  hasSave : Bool := false
  hasRestore : Bool := false
  /-- The command that displaces it, from the start of its save to the end of its restore (R239, R240). -/
  savedFor : Option Nat := none
  phase : Phase := .waiting
  started : Nat := 0
  /-- Eclosions and discards of the partition before the command started (R500). -/
  startEpoch : Nat := 0
  /-- TRACKER_BASE and TGROUP_BASE at its start (R415, R501). -/
  tables : Tables := {}
  /-- It has written, or tried to write, through the chrysalis alias (R516). -/
  aliasWriter : Bool := false
  /-- Device µs run so far, and where the count last resumed. -/
  ranUs : Nat := 0
  resumed : Nat := 0
  /-- Bytes moved, by resource: 0 HBM read, 1 HBM write, 2 CXL, 3 host, 4 Ethernet (R200). -/
  used : Tab Nat := []
  work : Nat := 0
  whole : Nat := 0
  /-- The first poisoned address met, if any: the final status is then POISON_READ (R257, R307). -/
  poisoned : Option Nat := none
  /-- A first late status that does not stop the command (R293). -/
  late : Option (Nat × Nat) := none
  /-- Progress of a DMA_COPY, GATHER or other copy, in bytes or indices. -/
  done : Nat := 0
  /-- Blocks an ALLOC still waits for to leave OFF (R85, R225). -/
  awaits : List Nat := []
  /-- It holds one of the 256 running places of the collective engine (R483). -/
  place : Bool := false
  /-- The move a TIER_DECLARE is making (R279). -/
  tier : TierMove := {}
  /-- A request of it waits for tokens of this regulator (R245, R249). -/
  waits : Option Nat := none
deriving DecidableEq, Repr


/-! ## Cores and their engines -/

/-- A declared stream of R282 and its progress (R283 to R287). -/
structure Stream where
  base : Nat := 0
  rowBytes : Nat := 0
  rows : Nat := 0
  stride : Int := 0
  dest : Nat := 0
  lead : Nat := 0
  valid : Bool := false
  watch : Bool := false
  /-- Rows 0 to fetched − 1 have arrived; rows 0 to consumed − 1 are consumed. -/
  fetched : Nat := 0
  consumed : Nat := 0
  stale : List Nat := []
  /-- Rows fetched again and not yet consumed. -/
  again : List Nat := []
  /-- Device addresses watched: (tier is CXL, address, bytes, row). -/
  watched : List (Bool × Nat × Nat × Nat) := []
deriving DecidableEq, Repr

/-- A pass record of R344. -/
structure Pass where
  mRows : Nat := 1
  kRows : Nat := 1
  nCols : Nat := 1
  mFmt : Nat := 0
  sFmt : Nat := 0
  sub : Nat := 0
  load : Bool := false
  acc : Bool := false
  emit : Bool := false
  mx : Bool := false
  reuse : Bool := false
  oKind : Nat := 0
  accBase : Nat := 0
  sOff : Nat := 0
  sStride : Nat := 0
  mOff : Nat := 0
  mStride : Nat := 0
  oOff : Nat := 0
  oStride : Nat := 0
  sScaleOff : Nat := 0
  mScaleOff : Nat := 0
  oScale : W32 := 0
  reuseH : Nat := 0
  reuseS : Nat := 0
  tracker : Nat := 0
  wait : Option Nat := none
  doneStream : Option Nat := none
  waitRow : Nat := 0
  doneRow : Nat := 0
deriving DecidableEq, Repr

/-- A stationary plane (R330, R336): element codes by row × 2048 + column, MX scale bytes by block × 2048 + column. -/
structure Plane where
  fmt : Nat := 0
  kRows : Nat := 0
  elems : Tab W16 := []
  scales : Tab Byte := []
  poison : Tab Bool := []
deriving DecidableEq, Repr

/-- A word of a queue between engines (R364). -/
structure QWord where
  data : BitVec 512 := 0
  endMark : Bool := false
  poison : Bool := false
  parity : Byte := 0
deriving DecidableEq, Repr

/-- A sub-array of the matrix engine (R330 to R342). -/
structure SubArray where
  planeA : Plane := {}
  planeB : Plane := {}
  activeB : Bool := false
  /-- Accumulator values and poison, by row × 2048 + column. -/
  acc : Tab W32 := []
  accPoison : Tab Bool := []
  kCount : Tab Nat := []
  draws : Nat := 0
  /-- Index into the program's pass list from which this sub-array's next pass is sought. -/
  next : Nat := 0
  /-- Packets emitted with O_KIND 3 and not yet written to the tile queue. -/
  backlog : List (List QWord) := []
  /-- Its next pass has found its stream row not yet arrived, and was counted for that (R288). -/
  late : Bool := false
deriving DecidableEq, Repr

/-- What a command keeps of a scale tracker it names (R417, R418). -/
structure TrackerUse where
  scale : W32 := 0
  limit : W32 := 0
  amax : W32 := 0
  ovf : Bool := false
  ovfCount : Nat := 0
deriving DecidableEq, Repr

/-- The vector engine (R376). -/
structure VecEngine where
  active : Bool := false
  pc : Nat := 0
  /-- Elements and their poison, by register × 8192 + element. -/
  v : Tab W32 := []
  vPoison : Tab Bool := []
  /-- Masks m1 to m7 and their poison, by mask × 8192 + element. -/
  m : Tab Bool := []
  mPoison : Tab Bool := []
  k : Tab W32 := []
  x : Tab W32 := []
  /-- Open loops, innermost first: (first body instruction, one past the last, repetitions left). -/
  loops : List (Nat × Nat × Nat) := []
  poisonStore : Option Nat := none
  poisonInstr : Option Nat := none
deriving DecidableEq, Repr

/-- A running tile program on one core (R343 to R349) with its tile queue (R372). -/
structure TileRun where
  cmd : Option Nat := none
  mode : Nat := 0
  sr : Bool := false
  accIndex : Nat := 0
  footprint : BitVec 80 := 0
  streams : List Stream := []
  passes : List Pass := []
  vprog : List W64 := []
  srStep : W64 := 0
  arraySrAfter : Nat := 0
  beSrAfter : Nat := 0
  trackers : Tab TrackerUse := []
  subs : Tab SubArray := []
  /-- Sub-array whose turn it is to write the tile queue (R374). -/
  turn : Nat := 0
  queue : List QWord := []
  closed : Bool := false
  /-- Drops whose END word has not arrived (R368). -/
  drops : Nat := 0
  vec : VecEngine := {}
  flags : BitVec 6 := 0
  /-- Draw counters of accumulating writes, by bank (R413). -/
  accDraws : Tab Nat := []
  discarded : Nat := 0
  residue : Bool := false
deriving DecidableEq, Repr

/-- A stripe record (R311). -/
structure Stripe where
  firstGroup : Nat := 0
  groups : Nat := 0
  mask : W64 := 0
  winLo : Nat := 0
  winHi : Nat := 0
  aInit : List Nat := []
  loop0 : Nat := 0
  loop1 : Nat := 0
deriving DecidableEq, Repr

/-- One bank engine running its stripe's program (R313). -/
structure BankEngine where
  pc : Nat := 0
  a : Tab Nat := []
  b : Tab (BitVec 128) := []
  bPoison : Tab Bool := []
  s : BitVec 128 := 0
  sPoison : Bool := false
  loops : List (Nat × Nat × Nat) := []
  /-- Issued GSUM or GMAX and waiting for its group (R319). -/
  inTree : Bool := false
  ended : Bool := false
  draws : Nat := 0
  issued : Nat := 0
deriving DecidableEq, Repr

/-- A running bank program on one core (R310 to R313). -/
structure BankRun where
  cmd : Option Nat := none
  /-- The library program, or 0 for the inline program. -/
  lib : Nat := 0
  program : List W32 := []
  k : List W32 := []
  stripes : List Stripe := []
  footprint : BitVec 80 := 0
  stochastic : Bool := false
  accIndex : Nat := 0
  srStep : W64 := 0
  flags : BitVec 6 := 0
  /-- Engines by stripe × 5120 + bank; an unlisted engine of a stripe's bank stands at its start. -/
  engines : Tab BankEngine := []
deriving DecidableEq, Repr

/-- A running GATHER (R290). -/
structure GatherRun where
  cmd : Option Nat := none
  table : Nat := 0
  rowBytes : Nat := 0
  rowLimit : Nat := 0
  index : Nat := 0
  count : Nat := 0
  dest : Nat := 0
  destStride : Nat := 0
  sum : Bool := false
  wideIndex : Bool := false
  bf16 : Bool := false
  merge : Bool := false
  bag : Nat := 0
  done : Nat := 0
  /-- The sum of the open bag so far, element by element with poison. -/
  acc : List (W32 × Bool) := []
  flags : BitVec 6 := 0
deriving DecidableEq, Repr

/-- The saved scratch and state of a displaced command (R236). -/
structure Cocoon where
  cmd : Nat := 0
  scratch : Mem := []
  poison : Tab Bool := []
  tile : TileRun := {}
  bank : BankRun := {}
  gather : GatherRun := {}
  /-- The bank groups it holds (R236, R237). -/
  groups : BitVec 80 := 0
  /-- Which of its core's four cocoons it is (R241). -/
  place : Nat := 0
deriving DecidableEq, Repr

/-- One core. -/
structure Core where
  /-- Holding slot (R216). -/
  holder : Option Nat := none
  /-- Bank groups held by the holder, bit g for group g (R217). -/
  groups : BitVec 80 := 0
  draining : Bool := false
  /-- Groups released and not yet zeroed (R220). -/
  groupsZeroing : BitVec 80 := 0
  /-- 0 in service, 1 retired under R615, 2 retired under R616, 3 disabled by fuse. -/
  retired : Nat := 0
  /-- A retiring reset of this core has been recognised (R223). -/
  retiring : Bool := false
  unheldSince : Nat := 0
  /-- Per-core counters as they stood at the grant (R682), by dictionary key. -/
  grantBase : Tab Nat := []
  /-- SLOTS_PEAK and LAST_HOT_BANK since the grant (R682). -/
  grantPeak : Nat := 0
  grantHot : Nat := 0
  flags : BitVec 6 := 0
  /-- Bad groups in the present presentation (R350, R354). -/
  badGroups : W64 := 0
  /-- Mismatch times of an 8-column group, by group, within a day (R357). -/
  colErrors : Tab (List Nat) := []
  /-- A hang is declared and its reset has not completed (R687). -/
  hung : Bool := false
  gen : Nat := 0
  /-- Times of the last two counted core resets, oldest first (R614). -/
  keptResets : List Nat := []
  cocoons : List Cocoon := []
  issue : List MemReq := []
  slots : List MemReq := []
  /-- Requests whose slots a fence freed before their replies came (R612). -/
  lateReplies : Nat := 0
  tile : TileRun := {}
  bank : BankRun := {}
  gather : GatherRun := {}
  /-- The word the scratch scrubber reads next, by bank (R308). -/
  scrubNext : Tab Nat := []
  /-- The translation buffer, oldest entry first (R268). -/
  tlb : List TlbEntry := []
deriving DecidableEq, Repr

/-! ## Network interface -/

/-- The flow states of R446. -/
inductive FlowState | closed | opening | opened | paused | silent | closing | failed
deriving DecidableEq, Repr

/-- A DATA packet of a flow's transmitter: queued, or sent and unacknowledged. -/
structure TxPkt where
  psn : Nat := 0
  chunk : W32 := 0
  vote : W32 := 0
  step : W64 := 0
  last : Bool := false
  poison : Bool := false
  payload : List Byte := []
  cmd : Nat := 0
  sentAt : Nat := 0
  retransmitted : Bool := false
  fastAt : Option Nat := none
  sacked : Bool := false
  /-- A CLOSE of R445, which carries a sequence number of its own. -/
  close : Bool := false
  /-- To be sent again, in the spare class (R245, R453). -/
  due : Bool := false
  /-- It counts in COLL_TX_BYTES (R491). -/
  counted : Bool := false
  /-- Where the payload after its first `head` bytes lies, address and length, to be read again when it is sent again (R450). -/
  source : Option (Nat × Nat) := none
  head : Nat := 0
deriving DecidableEq, Repr

/-- A received DATA packet, whose payload lies in its ring slot (R448). -/
structure RxPkt where
  chunk : W32 := 0
  vote : W32 := 0
  step : W64 := 0
  last : Bool := false
  poison : Bool := false
  heldSince : Nat := 0
deriving DecidableEq, Repr

/-- A flow context (R442 to R456). -/
structure Flow where
  holder : Option Nat := none
  state : FlowState := .closed
  remote : Nat := 0
  port : Nat := 0
  v6 : Bool := false
  passive : Bool := false
  psize : Nat := 1
  prio : Nat := 0
  dport : Nat := 0
  addr : BitVec 128 := 0
  brood : W32 := 0
  instar : W32 := 0
  rxRing : Nat := 0
  rxSlots : Nat := 0
  /-- Its next hop is known, and the link address found for it (R432). -/
  resolved : Bool := false
  hop : BitVec 48 := 0
  /-- Next PSN to send; packets queued for their first transmission; packets sent and unacknowledged. -/
  txNext : Nat := 1
  txQueue : List TxPkt := []
  txOut : List TxPkt := []
  /-- The highest PSN the peer allows, and the value it gave when the flow opened. -/
  peerCredit : Nat := 0
  credit0 : Nat := 0
  /-- Highest PSN received in order; received and not yet freed packets by PSN; oldest unfreed PSN, which is the next one delivered. -/
  rxAck : Nat := 0
  rxHave : Tab (Option RxPkt) := []
  rxFree : Nat := 1
  creditSent : Nat := 0
  /-- Bytes of the port's receive buffer, by arrival, are taken as freed once in the ring. -/
  window : Nat := 16
  alphaNum : Nat := 0
  alphaDen : Nat := 1
  roundAcked : Nat := 0
  roundEce : Nat := 0
  roundStart : Nat := 0
  srtt8 : Nat := 0
  rttvar4 : Nat := 0
  sampled : Bool := false
  rto : Nat := 100
  rtoFrom : Nat := 0
  retries : Nat := 0
  lastRx : Nat := 0
  lastTx : Nat := 0
  stateSince : Nat := 0
  sinceAck : Nat := 0
  firstUnacked : Nat := 0
  ceSinceAck : Bool := false
  lastOpen : Nat := 0
  /-- The FLOW_OPEN or FLOW_CLOSE at work on it, and the flow's place in its list. -/
  cmd : Option Nat := none
  cmdIndex : Nat := 0
  closePsn : Option Nat := none
deriving DecidableEq, Repr

/-- The PHYs of R427: copper, backplane, and chip to module. -/
inductive Phy | cr | kr | c2m
deriving DecidableEq, Repr

/-- An Ethernet port (R427 to R430, R455). -/
structure EthPort where
  up : Bool := false
  downSince : Nat := 0
  echoTimes : List Nat := []
  /-- The PHY chosen when its link last came up (R427). -/
  phy : Option Phy := none
  /-- Receive-buffer bytes in use, by PRIO class. -/
  bufUse : Tab Nat := []
  xoff : Tab Bool := []
  paused : Tab Bool := []
  /-- Whose turn it is: the slot after which the next turn starts in the spare class and in the floor class, and the flow, by
  slot × 4 + PRIO (R246, R453). -/
  turnSlot : Nat := 0
  turnFloor : Nat := 0
  turnFlow : Tab Nat := []
deriving DecidableEq, Repr

/-- A member of a group (R463). -/
structure Member where
  rank : Nat := 0
  flow : Nat := 0xFFFF
deriving DecidableEq, Repr

/-- What a chunk of an exchange carries or does: a partial sum, the sum that is final after it, bytes of memory, a block of
ALL_TO_ALL, a vote record to combine, the combined record, a sync record, a local copy, or a local result (N = 1). -/
inductive ActKind | sum | last | move | block | vote | result | sync | copy | form
deriving DecidableEq, Repr

/-- One piece of work of an exchange: a chunk to send to or receive from a member, or local work. -/
structure Act where
  key : Nat := 0
  tx : Bool := true
  peer : Nat := 0
  kind : ActKind := .sum
  /-- Sums: the first element. Received bytes: how many of the head and the data have come. -/
  lo : Nat := 0
  /-- Elements of a sum, or bytes of data. -/
  n : Nat := 0
  /-- Where the bytes lie, or the final values go; and where a local copy comes from. -/
  va : Nat := 0
  src : Nat := 0
  /-- Keys of the acts this one needs done. -/
  need : List Nat := []
  /-- Bytes before the data in the first payload: a block length, COUNT, or a span header. -/
  head : List Byte := []
  /-- Element format inspected: 0 none, 1 FP32, 2 BF16, 3 FP16. -/
  fmt : Nat := 0
deriving DecidableEq, Repr

/-- The user of the collective engine that an exchange serves. -/
inductive CollKind | collective | stepVote | resolve | mirrorTx | mirrorRx | moltResolve | moltMove | moltCommit
deriving DecidableEq, Repr

/-- A running exchange of the collective engine (R462 to R488). -/
structure Coll where
  cmd : Nat := 0
  slot : Nat := 0
  kind : CollKind := .collective
  input : Nat := 0
  wire : Nat := 0
  output : Nat := 0
  sr : Bool := false
  /-- COLL_SR_AFTER at its start (R409). -/
  srAfter : Nat := 0
  tag : Nat := 0
  n : Nat := 1
  self : Nat := 0
  /-- Payload bytes of its flows, and the bytes of a chunk it sends. -/
  pkt : Nat := 1024
  chunk : Nat := 1024
  /-- Operation and stride or shard length (R462). -/
  op : Nat := 0
  block : Nat := 0
  src : Nat := 0
  dst : Nat := 0
  /-- Bytes of its output range in DST. -/
  outBytes : Nat := 0
  rcounts : Nat := 0
  step : W64 := 0
  /-- INSTAR of the point a record exchange is about (R540). -/
  instar : W32 := 0
  prescale : W32 := 0
  postscale : W32 := 0
  waitUntil : Nat := 0
  members : Tab Member := []
  flows : List Nat := []
  /-- Acts not yet done, in order for each member and direction, and the keys of those that met NONFINITE. -/
  acts : List Act := []
  nonfinite : List Nat := []
  /-- CSEQ next sent and next expected, by flow (R472). -/
  txSeq : Tab Nat := []
  rxSeq : Tab Nat := []
  /-- Partial sums by element, with their contributors and poison. -/
  sums : Tab W32 := []
  sumCount : Tab Nat := []
  sumPoison : Tab Bool := []
  record : List Byte := []
  flags : BitVec 6 := 0
  /-- A poisoned contribution or partial has been sent on (R477). -/
  sentBad : Bool := false
  /-- The first member whose block exceeded S (R471). -/
  overflow : Option Nat := none
  spanOk : Bool := true
  /-- A stage hand-off (R526, R536): 0 none, 1 sending, 2 receiving; its credit wait so far, and IMBALANCE_THRESH_US at its start. -/
  handoff : Nat := 0
  creditWait : Nat := 0
  thresh : Nat := 0
deriving DecidableEq, Repr

/-- A running UPDATE of rule 0 or 1 (R505 to R515). -/
structure Upd where
  cmd : Nat := 0
  slot : Nat := 0
  rowMode : Bool := false
  feed : Bool := false
  gbf16 : Bool := false
  mbf16 : Bool := false
  tag : Nat := 0
  tgroup : Nat := 0
  step : W64 := 0
  count : Nat := 0
  rowElems : Nat := 0
  rowLimit : Nat := 0
  grad : Nat := 0
  w : Nat := 0
  r : Nat := 0
  freeze : Nat := 0
  index : Nat := 0
  /-- Of the group entry and its tracker, as read at the start. -/
  eta : W32 := 0
  eps : W32 := 0
  scaleLog : Int := 0
  frozen : Bool := false
  /-- The collective it is bound to, and whether that has completed OK (R510, R511). -/
  fed : Option Nat := none
  ready : Bool := false
  /-- Elements already treated, as ranges (first, count). -/
  done : List (Nat × Nat) := []
  /-- The squares of R508 by element, or by position in row mode. -/
  dsq : Tab W32 := []
  wsq : Tab W32 := []
  elements : Nat := 0
  flags : BitVec 6 := 0
  /-- Row mode: the first index out of range (R515). -/
  firstRange : Option Nat := none
deriving DecidableEq, Repr

/-- A slice of a layout (R557). -/
structure Slice where
  goff : Nat := 0
  length : Nat := 0
  owner : Nat := 0
  mirror : Nat := 0xFFFFFFFF
  loc : Nat := 0
deriving DecidableEq, Repr

/-- A rank of a layout (R557). -/
structure RankEntry where
  rank : Nat := 0
  flow : Nat := 0xFFFF
  departed : Bool := false
  joining : Bool := false
deriving DecidableEq, Repr

/-- A layout (R557). -/
structure Layout where
  brood : W32 := 0
  instar : W32 := 0
  self : Nat := 0xFFFFFFFF
  total : Nat := 0
  ranks : List RankEntry := []
  slices : List Slice := []
deriving DecidableEq, Repr

/-- The phases of a molt (R560). -/
inductive MoltPhase | boundary | resolve | move | commit
deriving DecidableEq, Repr

/-- A running MOLT (R558 to R568). -/
structure Molt where
  cmd : Nat := 0
  slot : Nat := 0
  forced : Bool := false
  alg : Nat := 1
  tag : Nat := 0
  newInstar : W32 := 0
  step : W64 := 0
  old : Layout := {}
  new : Layout := {}
  vgroup : Tab Member := []
  vn : Nat := 0
  vself : Nat := 0
  rgroup : Tab Member := []
  rn : Nat := 0
  rself : Nat := 0
  limit : Nat := 0
  result : Nat := 0
  phase : MoltPhase := .boundary
  phaseFrom : Nat := 0
  spanOk : Bool := true
deriving DecidableEq, Repr

/-! ## Partition -/

/-- The step states of R541. -/
inductive StepState | opened | voting | inDoubt | molting
deriving DecidableEq, Repr

/-- A decided point (R540). -/
structure Point where
  step : W64 := 0
  instar : W32 := 0
  committed : Bool := false
  molt : Bool := false
  record : List Byte := []
deriving DecidableEq, Repr

/-- The shard states of R580. -/
inductive ShardState | missing | verified | failed | poisoned | unsealed
deriving DecidableEq, Repr

/-- A shard of an image record (R579). -/
structure Shard where
  offset : Nat := 0
  length : Nat := 0
  root : BitVec 256 := 0
  st : ShardState := .missing
deriving DecidableEq, Repr

/-- An image record (R579). -/
structure ImageRec where
  imageId : BitVec 128 := 0
  base : Nat := 0
  bytes : Nat := 0
  count : Nat := 0
  shards : Tab Shard := []
deriving DecidableEq, Repr

/-- An entry of a load list (R582) and its header's facts. -/
structure LoadEntry where
  src : Nat := 0
  host : Bool := false
  shard : Nat := 0
  root : BitVec 256 := 0
  offset : Nat := 0
  length : Nat := 0
deriving DecidableEq, Repr

/-- A range of CKPT_WRITE (R521). -/
structure CkptRange where
  src : Nat := 0
  dst : Nat := 0
  length : Nat := 0
  host : Bool := false
deriving DecidableEq, Repr

/-- One partition slot. -/
structure Part where
  tokens : Tab Token := []
  twinAlias : W32 := 0
  trackerBase : W64 := 0
  tgroupBase : W64 := 0
  /-- Leaves by page number: side 0, which also holds every region that is not twinned, and side 1. -/
  side0 : Tab Leaf := []
  side1 : Tab Leaf := []
  twins : Tab Twin := []
  liveSide1 : Bool := false
  longops : Tab LongOp := []
  regs : Tab Regulator := []
  srStep : W64 := 0
  collFlags : BitVec 6 := 0
  updateFault : Bool := false
  brood : W32 := 0
  broodSet : Bool := false
  stepState : StepState := .opened
  lastPoint : Option Point := none
  /-- The point in doubt (R553), and whether the chrysalis copy still holds its writes (R556). -/
  doubt : Option Point := none
  doubtKept : Bool := true
  hardening : Bool := false
  image0 : ImageRec := {}
  image1 : ImageRec := {}
  /-- Background scrub pass (R592): the start of the last one, and one owed since a flip. -/
  scrubFrom : Nat := 0
  scrubDue : Bool := false
  /-- Eclosions and discards so far: an alias write of an older command is stale (R500). -/
  epoch : Nat := 0
  /-- TIER_DECLAREs move one at a time (R280); spare-list regions reseeded. -/
  spareTurn : Nat := 0
deriving DecidableEq, Repr

/-! ## Supervisor, firmware and management -/

/-- The staging states of R660. -/
inductive StageState | free | receiving | verifying | staged | diapause
deriving DecidableEq, Repr

/-- The boot control record in force (R661). -/
structure BootCtl where
  seq : W32 := 0
  activeSlot : Nat := 0
  trialSlot : Nat := 0xFF
  trialLeft : Nat := 0
  expired : Bool := false
deriving DecidableEq, Repr

/-- A Creif session (R656). -/
structure Session where
  id : Nat := 0
  kind : Nat := 0
  arg : Nat := 0
  total : Nat := 0
  /-- Upload: highest SEQ written in order; export: highest SEQ acknowledged. -/
  seqDone : Nat := 0
  /-- Export: highest SEQ sent, resends of the oldest packet, time it was last sent. -/
  seqSent : Nat := 0
  resends : Nat := 0
  sentAt : Nat := 0
  lastValid : Nat := 0
  ended : Bool := false
  /-- Upload: bytes taken in order, kinds 2 and 5, and packets held ahead of the order. -/
  buffer : List Byte := []
  ahead : Tab (List Byte) := []
deriving DecidableEq, Repr

/-- The dump slot states of R610. -/
inductive DumpState | free | capturing | held | exporting | diapause
deriving DecidableEq, Repr

/-- A dump slot (R609 to R611): its header and unit records, and its collected data by offset. -/
structure Dump where
  state : DumpState := .free
  header : List Byte := []
  units : List Byte := []
  data : Mem := []
  bytes : Nat := 0
  captured : Nat := 0
  reached : Nat := 0
deriving DecidableEq, Repr

/-- A unit's ERR_STATE word (R601). -/
structure ErrState where
  cls : Nat := 0
  count : Nat := 0
  progress : W16 := 0
deriving DecidableEq, Repr

/-- A kept Priby reply (R636). -/
structure KeptReply where
  mctp : Bool := false
  source : Nat := 0
  tag : Nat := 0
  request : List Byte := []
  reply : List Byte := []
  time : Nat := 0
deriving DecidableEq, Repr

/-- An SPDM connection (R669): what has been negotiated, and the transcript the signatures cover. -/
structure Spdm where
  version : Bool := false
  caps : Bool := false
  algs : Bool := false
  transcript : List Byte := []
deriving DecidableEq, Repr

/-- The firmware, management and security state. -/
structure Sup where
  bootCtl : BootCtl := {}
  staging : StageState := .free
  stageSession : Option Nat := none
  sessions : List Session := []
  nextSession : Nat := 1
  dumps : Tab Dump := []
  errs : Tab ErrState := []
  replies : List KeptReply := []
  changes : Tab Nat := []
  mirrorSeq : Tab Nat := []
  /-- Mirrored entries whose mirror lags its unit's register: (key, mirror value, since). -/
  lag : List (Nat × Nat × Nat) := []
  i3cDynamic : Option (BitVec 7) := none
  /-- SPDM connections: 0 MCTP, 1 DOE of H0, 2 DOE of H1. -/
  spdm : Tab Spdm := []
  /-- RETIRE_CORE requests whose core is not yet retired: core, request (R645). -/
  retireWait : List (Nat × PribyReq) := []
  /-- The value each mirrored entry held when its MIRROR_SEQ last rose (R621). -/
  mirrorVal : Tab Nat := []
  selftestFrom : Nat := 0
  /-- Each source's total at the end of the last health period; a reset that clears a counter moves it below 0. -/
  healthPrev : Tab Int := []
  healthLow : Bool := false
  healthFrom : Nat := 0
  divergeFrom : Nat := 0
  commitFrom : Nat := 0
  /-- Counted warm-reset times, oldest first (R614). -/
  keptWarm : List Nat := []
  /-- Supervisor-domain capture in the always-on domain (R609). -/
  supDump : List Byte := []
  /-- The flash log of R112: the reset records and the supervisor captures copied to it at boots (R111, R609). -/
  flashLog : List ResetRec := []
  flashDumps : List (List Byte) := []
  sparesOut : Bool := false
  /-- Retrainings of PCIe and CXL links, and PCIe and CXL correctable errors, for the health score (R619). -/
  linkRetrains : Nat := 0
  pcieErrors : Nat := 0
  certOk : Bool := true
deriving DecidableEq, Repr

/-! ## Outward messages -/

/-- The Ethernet, IP and UDP fields of the frame around a Silk packet (R433); a loopback frame never reaches the wire (R454).
VLAN 0 is untagged; an IPv4 frame has no flow label. -/
structure SilkFrame where
  loopback : Bool
  destMac : BitVec 48
  srcMac : BitVec 48
  vlan : Nat
  pcp : Nat
  v6 : Bool
  src : BitVec 128
  dst : BitVec 128
  dscp : Nat
  ect0 : Bool
  dontFragment : Bool
  hops : Nat
  flowLabel : Nat
  sport : W16
  dport : W16
  checksum : W16
deriving DecidableEq, Repr

/-- What leaves the device, oldest first: the model's own record of it (log 5). -/
inductive Out
  | irq (fn : Nat) (vector : Nat)
  | hostReply (fn : Nat) (status : Nat) (data : List Byte)
  | cfgReply (fn : Nat) (status : Nat) (data : W32)
  | packet (port : Nat) (flow : Nat) (hdr : BitVec 320) (payload : List Byte) (frame : SilkFrame)
  | arpReply (port : Nat) (dest : W32)
  | ndReply (port : Nat) (dest : BitVec 128)
  | echoReply (port : Nat) (v6 : Bool) (data : List Byte)
  | arpAsk (port : Nat) (addr : BitVec 128)
  | pfc (port : Nat) (pcp : Nat) (xoff : Bool)
  | priby (mctp : Bool) (source : Nat) (reply : List Byte)
  | creif (packet : List Byte)
  | mctp (reply : List Byte)
  | spdm (transport : Nat) (reply : List Byte)
  | doe (fn : Nat) (reply : List Byte)
  /-- Bytes of a port's host memory sent with the EP bit set (R257). -/
  | hostPoison (port : Nat) (addr : Nat) (len : Nat)
  | i3c (data : BitVec 16)
  | i3cIbi
deriving DecidableEq, Repr

/-! ## The machine -/

/-- The BX9 (R19 to R27). -/
structure State where
  /-- Commands waiting, first in first out. -/
  pending : List Instr := []
  out : List Out := []
  /-- Count of free values used (log 1). -/
  freeCtr : Nat := 0
  /-- Device time (R76). -/
  time : Nat := 0
  power : Power := {}
  pins : Pins := {}
  phys : Phys := {}
  fuses : Fuses := {}
  boot : Boot := {}
  flash : Mem := []
  /-- The persistent dictionary values last committed to flash (R631). -/
  persist : Tab Nat := []
  resets : List ResetRun := []
  resetRec : ResetRec := {}
  resetLog : List ResetRec := []
  ports : Tab Port := []
  fns : Tab Fn := []
  parts : Tab Part := []
  cores : Tab Core := []
  /-- Accepted, uncompleted commands in acceptance order; records read and undecided in arrival order. -/
  cmds : List Cmd := []
  waiting : List Waiting := []
  /-- Records decided in a device µs, and that µs (R190). -/
  decided : Nat := 0
  decidedUs : Nat := 0
  /-- The front record is decided at the end of the device µs, and how its completion write, if any, would end (R215). -/
  admitHeld : Option Bool := none
  nextId : Nat := 0
  /-- Dictionary values not held elsewhere, by index × 256 + subindex. -/
  dict : Tab Nat := []
  hbm : Mem := []
  hbmPoison : Tab Bool := []
  hbmFrames : Tab Frame := []
  spareNext : Nat := 0
  cxl : Mem := []
  cxlPoison : Tab Bool := []
  cxlFrames : Tab Frame := []
  /-- Writes to pages of a lost CXL link, dropped (R261). -/
  cxlDrops : Nat := 0
  fabric : Fabric := {}
  expanders : Tab Expander := []
  /-- Scratch by core × 83,886,080 + bank × 16,384 + position, and poison by core × 5,242,880 + bank × 1,024 + word. -/
  scratch : Mem := []
  scratchPoison : Tab Bool := []
  /-- Bytes the device has written to host memory, by port × 2^64 + bus address. -/
  hostMem : Mem := []
  flows : Tab Flow := []
  ethPorts : Tab EthPort := []
  nicGen : Nat := 0
  nicHung : Bool := false
  portMode : Nat := 1
  /-- PORT_PHY in force, by port (R428). -/
  portPhy : Tab Nat := []
  /-- Packets on a port's loopback, oldest first (R454). -/
  loopback : List SilkPkt := []
  colls : List Coll := []
  upds : List Upd := []
  molts : List Molt := []
  loads : Tab (List LoadEntry) := []
  loadDigests : Tab (List (BitVec 256)) := []
  ckpts : Tab (List CkptRange) := []
  sup : Sup := {}
deriving DecidableEq, Repr

/-! ## How a step can stop -/

/-- Why the machine stops. The BX9 answers every command of its table, so nothing in the model raises one today. -/
inductive Fault where
  /-- A bus access to an address the spec says does not exist and gives no answer for. Raised by no meaning: every access
  of the spec has an answer of its own (R140 to R145). Safe: a stop proves nothing about a next state. -/
  | noSuchAddress (addr : Nat)
deriving DecidableEq, Repr

/-- Why a command is turned away by the model. -/
inductive Refusal where
  /-- Raised by an arm of exec whose row has no meaning yet. Safe: the model stops. -/
  | notModelled (mnemonic : String)
deriving DecidableEq, Repr

/-- The module as VIN first finds it (R66): unpowered, nothing latched, nothing in memory, no command waiting.
Log 3 names every value the spec gives no reset value for. -/
def State.reset : State := {}

end Sys2Proof.Machine
end

