-- ==== Sys2Proof/Machine/Ops.lean ====
section
/-!
DEFINITION. The named operations over the sparse tables, the memories, the dictionary and the parts of State.
-/
namespace Sys2Proof.Machine

/-! ## Sparse tables -/

/-- What a table lists at a key. -/
def tabFind {α : Type} : Tab α → Nat → Option α
  | [], _ => none
  | (j, v) :: t, k => if j = k then some v else tabFind t k

/-- What a table reads at a key, with d for every unlisted key. -/
def tabGet {α : Type} (d : α) (t : Tab α) (k : Nat) : α := (tabFind t k).getD d

/-- The table with v listed at k, keys kept rising. -/
def tabPut {α : Type} : Tab α → Nat → α → Tab α
  | [], k, v => [(k, v)]
  | (j, w) :: t, k, v =>
    if k < j then (k, v) :: (j, w) :: t
    else if k = j then (k, v) :: t
    else (j, w) :: tabPut t k v

/-- The table with nothing listed at k. -/
def tabDel {α : Type} : Tab α → Nat → Tab α
  | [], _ => []
  | (j, w) :: t, k => if j = k then tabDel t k else (j, w) :: tabDel t k

/-- The table that reads v at k, in canonical form: the default value is not listed. -/
def tabSet {α : Type} [DecidableEq α] (d : α) (t : Tab α) (k : Nat) (v : α) : Tab α :=
  if v = d then tabDel t k else tabPut t k v

/-- Keys strictly rising above a bound, and no value equal to the default. -/
def tabWfAbove {α : Type} [DecidableEq α] (d : α) : Option Nat → Tab α → Bool
  | _, [] => true
  | b, (k, v) :: t => (match b with | some m => decide (m < k) | none => true) && decide (v ≠ d) && tabWfAbove d (some k) t

/-- The canonical form of a table. -/
def tabWf {α : Type} [DecidableEq α] (d : α) (t : Tab α) : Bool := tabWfAbove d none t

/-- The entries with keys in [lo, lo + n) removed. -/
def tabClear {α : Type} (t : Tab α) (lo n : Nat) : Tab α :=
  t.filter fun e => !(decide (lo ≤ e.1) && decide (e.1 < lo + n))

/-- The entries with keys in [lo, lo + n), keys counted from lo. -/
def tabSlice {α : Type} (t : Tab α) (lo n : Nat) : Tab α :=
  (t.filter fun e => decide (lo ≤ e.1) && decide (e.1 < lo + n)).map fun e => (e.1 - lo, e.2)

/-- Every entry of a slice written at lo, in order. -/
def tabPaste {α : Type} [DecidableEq α] (d : α) (t : Tab α) (lo : Nat) (s : Tab α) : Tab α :=
  s.foldl (fun t e => tabSet d t (lo + e.1) e.2) t

/-- [dst, dst + n) made equal to [src, src + n) of another table. -/
def tabCopy {α : Type} [DecidableEq α] (d : α) (t : Tab α) (dst : Nat) (from_ : Tab α) (src n : Nat) : Tab α :=
  tabPaste d (tabClear t dst n) dst (tabSlice from_ src n)

/-- Is any key of [lo, lo + n) listed. -/
def tabAny {α : Type} (t : Tab α) (lo n : Nat) : Bool :=
  t.any fun e => decide (lo ≤ e.1) && decide (e.1 < lo + n)

/-- The listed keys of [lo, lo + n). -/
def tabKeys {α : Type} (t : Tab α) (lo n : Nat) : List Nat :=
  (t.filter fun e => decide (lo ≤ e.1) && decide (e.1 < lo + n)).map (·.1)

/-! ## Byte memories -/

/-- The byte at an address; a byte nothing has written reads 0 (log 4). -/
def memByte (m : Mem) (a : Nat) : Byte := tabGet 0 m a

/-- One byte written. -/
def memPut (m : Mem) (a : Nat) (b : Byte) : Mem := tabSet 0 m a b

/-- n bytes from a. -/
def memRead (m : Mem) (a : Nat) : Nat → List Byte
  | 0 => []
  | n + 1 => memByte m a :: memRead m (a + 1) n

/-- Bytes written from a upward. -/
def memWrite (m : Mem) (a : Nat) : List Byte → Mem
  | [] => m
  | b :: bs => memWrite (memPut m a b) (a + 1) bs

/-- n bytes from a set to 0. -/
def memZero (m : Mem) (a n : Nat) : Mem := tabClear m a n

/-! ## Numbers and bytes (R11: little-endian) -/

/-- The number a byte list spells, least significant byte first. -/
def natOfBytes : List Byte → Nat
  | [] => 0
  | b :: bs => b.toNat + 256 * natOfBytes bs

/-- The n low bytes of a number, least significant first. -/
def bytesOfNat (x : Nat) : Nat → List Byte
  | 0 => []
  | n + 1 => BitVec.ofNat 8 x :: bytesOfNat (x / 256) n

/-- Bytes off to off + len − 1 of a list as a number; bytes beyond the end read 0. -/
def field (bs : List Byte) (off len : Nat) : Nat := natOfBytes ((bs.drop off).take len)

/-- Bytes off to off + len − 1 of a command record. -/
def recField (r : Rec) (off len : Nat) : Nat := r.toNat / 2 ^ (8 * off) % 2 ^ (8 * len)

/-- Bits lo to lo + n − 1 of a number. -/
def bits (x lo n : Nat) : Nat := x / 2 ^ lo % 2 ^ n

/-- Bit i of a number. -/
def bitAt (x i : Nat) : Bool := x / 2 ^ i % 2 == 1

/-- A number reduced to at most m. -/
def sat (m x : Nat) : Nat := if m < x then m else x

/-- Quotient rounded up; 0 for a divisor of 0. -/
def ceilDiv (a b : Nat) : Nat := if b = 0 then 0 else a / b + (if a % b = 0 then 0 else 1)

/-- A two's complement number of w bits. -/
def signed (w x : Nat) : Int := if 2 * (x % 2 ^ w) < 2 ^ w then (x % 2 ^ w : Nat) else (x % 2 ^ w : Nat) - (2 ^ w : Nat)

/-- The bits of a mask that are set, lowest first, out of n. -/
def maskList (m : Nat) (n : Nat) : List Nat := (List.range n).filter fun i => bitAt m i

/-- The mask with the listed bits. -/
def maskOf (l : List Nat) : Nat := l.foldl (fun m i => m ||| 2 ^ i) 0

/-- A list without repeats of what it already held. -/
def addNew (l : List Nat) (x : Nat) : List Nat := if l.contains x then l else l ++ [x]

/-- The least number of a list by a measure, first on a tie. -/
def minBy {α : Type} (f : α → Nat) : List α → Option α
  | [] => none
  | a :: l => match minBy f l with
    | none => some a
    | some b => if f b < f a then some b else some a

/-! ## Free values -/

/-- A free value no proof can see, and the state with its use counted (log 1). -/
def State.fresh (s : State) : W64 × State :=
  (Config.freeWord s.freeCtr, { s with freeCtr := s.freeCtr + 1 })

/-! ## The parts of State -/

def State.port (s : State) (p : Nat) : Port := tabGet {} s.ports p
def State.setPort (s : State) (p : Nat) (v : Port) : State := { s with ports := tabSet {} s.ports p v }
def State.fn (s : State) (f : Nat) : Fn := tabGet {} s.fns f
def State.setFn (s : State) (f : Nat) (v : Fn) : State := { s with fns := tabSet {} s.fns f v }
def State.part (s : State) (i : Nat) : Part := tabGet {} s.parts i
def State.setPart (s : State) (i : Nat) (v : Part) : State := { s with parts := tabSet {} s.parts i v }
def State.core (s : State) (c : Nat) : Core := tabGet {} s.cores c
def State.setCore (s : State) (c : Nat) (v : Core) : State := { s with cores := tabSet {} s.cores c v }
def State.flow (s : State) (f : Nat) : Flow := tabGet {} s.flows f
def State.setFlow (s : State) (f : Nat) (v : Flow) : State := { s with flows := tabSet {} s.flows f v }
def State.eth (s : State) (p : Nat) : EthPort := tabGet {} s.ethPorts p
def State.setEth (s : State) (p : Nat) (v : EthPort) : State := { s with ethPorts := tabSet {} s.ethPorts p v }
def State.expander (s : State) (e : Nat) : Expander := tabGet {} s.expanders e
def State.setExpander (s : State) (e : Nat) (v : Expander) : State := { s with expanders := tabSet {} s.expanders e v }
def Fn.queue (f : Fn) (q : Nat) : Queue := tabGet {} f.queues q
def Fn.setQueue (f : Fn) (q : Nat) (v : Queue) : Fn := { f with queues := tabSet {} f.queues q v }
def Fn.chan (f : Fn) (c : Nat) : Chan := tabGet {} f.chans c
def Fn.setChan (f : Fn) (c : Nat) (v : Chan) : Fn := { f with chans := tabSet {} f.chans c v }
def State.queue (s : State) (f q : Nat) : Queue := (s.fn f).queue q
def State.setQueue (s : State) (f q : Nat) (v : Queue) : State := s.setFn f ((s.fn f).setQueue q v)
def State.chan (s : State) (f c : Nat) : Chan := (s.fn f).chan c
def State.setChan (s : State) (f c : Nat) (v : Chan) : State := s.setFn f ((s.fn f).setChan c v)
def Part.token (p : Part) (t : Nat) : Token := tabGet {} p.tokens t
def Part.setToken (p : Part) (t : Nat) (v : Token) : Part := { p with tokens := tabSet {} p.tokens t v }
def Part.longop (p : Part) (h : Nat) : LongOp := tabGet {} p.longops h
def Part.setLongop (p : Part) (h : Nat) (v : LongOp) : Part := { p with longops := tabSet {} p.longops h v }
def State.longop (s : State) (i h : Nat) : LongOp := (s.part i).longop h
def State.setLongop (s : State) (i h : Nat) (v : LongOp) : State := s.setPart i ((s.part i).setLongop h v)
def State.block (s : State) (b : Nat) : Block := tabGet {} s.power.blocks b
def State.setBlock (s : State) (b : Nat) (v : Block) : State :=
  { s with power := { s.power with blocks := tabSet {} s.power.blocks b v } }
/-- A frame of a tier: HBM or CXL. -/
def State.frame (s : State) (cxl : Bool) (f : Nat) : Frame := tabGet {} (if cxl then s.cxlFrames else s.hbmFrames) f
def State.setFrame (s : State) (cxl : Bool) (f : Nat) (v : Frame) : State :=
  if cxl then { s with cxlFrames := tabSet {} s.cxlFrames f v } else { s with hbmFrames := tabSet {} s.hbmFrames f v }

/-- A PLL's state; an unlisted one is stopped (R79). -/
def State.pll (s : State) (i : PllId) : Pll :=
  match s.power.plls.find? (fun e => e.1 == i) with
  | some e => e.2
  | none => {}
def State.setPll (s : State) (i : PllId) (v : Pll) : State :=
  { s with power := { s.power with plls :=
      if v = {} then s.power.plls.filter (fun e => !(e.1 == i))
      else (i, v) :: s.power.plls.filter (fun e => !(e.1 == i)) } }

/-- The key of function f of port p in State.fns. -/
def fnKey (p f : Nat) : Nat := p * 16 + f

/-- An accepted, uncompleted command. -/
def State.cmd (s : State) (id : Nat) : Option Cmd := s.cmds.find? fun c => c.id == id
/-- One command replaced, in its place. -/
def State.setCmd (s : State) (c : Cmd) : State := { s with cmds := s.cmds.map fun d => if d.id == c.id then c else d }

/-- The opcode of a command. -/
def Cmd.opcode (c : Cmd) : Nat := recField c.record 0 2
/-- PAYLOAD of a command (R177). -/
def Cmd.payload (c : Cmd) : Nat := recField c.record 0x60 8

/-! ## The dictionary -/

/-- What an entry held in State.dict reads. -/
def State.dictGet (s : State) (key : Nat) : Nat := (tabFind s.dict key).getD (dictDefault key)
/-- An entry's value set. -/
def State.dictSet (s : State) (key v : Nat) : State :=
  { s with dict := if v = dictDefault key then tabDel s.dict key else tabPut s.dict key v }
/-- A counter raised by n. -/
def State.count (s : State) (index sub n : Nat) : State :=
  if n = 0 then s else s.dictSet (dk index sub) (s.dictGet (dk index sub) + n)
/-- The table addresses a partition holds now. -/
def State.tablesOf (s : State) (slot : Nat) : Tables := { tracker := (s.part slot).trackerBase, tgroup := (s.part slot).tgroupBase }
/-- The table addresses a command uses: those of its start (R415, R501). -/
def State.tablesFor (s : State) (slot id : Nat) : Tables := match s.cmd id with | some c => c.tables | none => s.tablesOf slot
/-- A partition's table addresses replaced. -/
def State.setTables (s : State) (slot : Nat) (t : Tables) : State :=
  s.setPart slot { s.part slot with trackerBase := t.tracker, tgroupBase := t.tgroup }

/-- An entry of the dictionary. -/
def State.entry (s : State) (index sub : Nat) : Nat := s.dictGet (dk index sub)

/-! ## Envelopes and bindings (R121, R126, R137 to R141) -/

/-- Envelope word w of slot i. -/
def State.envWord (s : State) (i w : Nat) : Nat := (tabGet 0 s.boot.env (32 * i + w)).toNat
/-- Byte offset b of a slot record, n bytes within one word. -/
def State.envField (s : State) (i b n : Nat) : Nat := bits (s.envWord i (b / 4)) (8 * (b % 4)) (8 * n)
/-- HOST_PORT of a slot; 0xFF, unbound, before the envelopes are written. -/
def State.slotPort (s : State) (i : Nat) : Nat := if s.boot.envelopeLock then s.envField i 0 1 else 0xFF
/-- The function a slot is bound to. -/
def State.slotFn (s : State) (i : Nat) : Option Nat :=
  if s.slotPort i < 2 then some (fnKey (s.slotPort i) (s.envField i 1 1)) else none
/-- The slot a function is bound to. -/
def State.fnSlot (s : State) (f : Nat) : Option Nat := (List.range 16).find? fun i => s.slotFn i == some f
/-- A function is present on its port (R133, R137). -/
def State.fnPresent (s : State) (f : Nat) : Bool :=
  (s.port (f / 16)).enabled && (f % 16 == 0 || ((s.port (f / 16)).vfEnable && decide (f % 16 ≤ (s.port (f / 16)).numVfs)))
/-- The platform function (R141). -/
def State.platform (s : State) : Option Nat :=
  if s.boot.envelopeLock && decide (s.boot.platformPort < 2) then some (fnKey s.boot.platformPort s.boot.platformFn) else none
/-- Every present function. -/
def State.presentFns (s : State) : List Nat := (List.range 32).filter fun f => s.fnPresent f
/-- Every bound slot. -/
def State.boundSlots (s : State) : List Nat := (List.range 16).filter fun i => (s.slotFn i).isSome

/-- Enabled cores (R5): not disabled by fuse. -/
def State.coreEnabled (s : State) (c : Nat) : Bool := bitAt s.fuses.enabledCores.toNat c
/-- A core that can be granted (R4, R615, R616). -/
def State.coreUsable (s : State) (c : Nat) : Bool := s.coreEnabled c && decide ((s.core c).retired = 0)
/-- The cores a slot holds, lowest first (R216). -/
def State.heldCores (s : State) (i : Nat) : List Nat := (List.range 16).filter fun c => (s.core c).holder == some i

/-- DEVICE_STATE bits [2:0] (R647). -/
def State.deviceState (s : State) : Nat :=
  if s.boot.halt = 1 ∨ s.boot.halt = 2 ∨ s.boot.halt = 3 then 4
  else if s.boot.halt ≠ 0 then 1
  else if s.boot.stage < 10 then 0
  else if s.entry 0x8000 1 ≠ 0 then 3
  else 2

/-- The resets in progress (R109). -/
def State.inReset (s : State) (t : ResetTarget) : Bool := s.resets.any fun r => r.target == t
/-- A device-wide reset is in progress. -/
def State.deviceReset (s : State) : Bool := s.inReset .cold || s.inReset .warm
/-- The partition's own reset, its port's, or a wider one is in progress. -/
def State.partReset (s : State) (i : Nat) : Bool :=
  s.deviceReset || s.resets.any fun r => match r.target with
    | .partition j => j.val == i
    | .hostPort p => s.slotPort i == p.val
    | _ => false
/-- The function's own reset, or one that contains it, is in progress. -/
def State.fnReset (s : State) (f : Nat) : Bool :=
  s.deviceReset || s.resets.any fun r => match r.target with
    | .hostPort p => f / 16 == p.val
    | .partition i => s.slotFn i.val == some f
    | _ => false

/-- The slow clock runs from VIN qualifying until VIN is lost, while the crystal is good (R75, R78). -/
def State.slowClock (s : State) : Bool := s.power.state != .unpowered && !s.power.crystalHold
/-- The module state of R66: a warm reset is one while it is in progress. -/
def State.moduleState (s : State) : ModState :=
  if s.power.state = .running ∧ s.inReset .warm then .warmReset else s.power.state
/-- Hosts can reach registers (R116, R117): the boot is past step 10 and the module is not in a cold reset. -/
def State.hostOpen (s : State) : Bool := decide (s.boot.stage = 10) && s.boot.halt == 0 && s.power.state != .unpowered

/-! ## Unit error state (R601, R611) -/

/-- The identity of a unit: kind, core, index within the kind. -/
def unitId (kind core idx : Nat) : Nat := kind * 4096 + core * 256 + idx
/-- A unit of a host port: 0 queue fetch, 1 completion writer, 2 event writer, 3 mailboxes (R602; the order, and that an event ring's
write error shows in its WRITE_ERROR alone, are DESIGN CHOICE, log 128). -/
def portUnit (p idx : Nat) : Nat := unitId 7 0 (4 * p + idx)
/-- n faults of a unit noted: 1 CORRECTED, 2 CONTAINED, 3 protocol error. -/
def State.noteFaults (s : State) (unit cls n : Nat) : State :=
  if n = 0 then s else
  let e := tabGet {} s.sup.errs unit
  { s with sup := { s.sup with errs := tabSet {} s.sup.errs unit { e with cls := cls, count := sat 4095 (e.count + n) } } }
/-- One fault noted. -/
def State.noteFault (s : State) (unit cls : Nat) : State := s.noteFaults unit cls 1
/-- A unit's progress counter raised. -/
def State.noteProgress (s : State) (unit n : Nat) : State :=
  let e := tabGet {} s.sup.errs unit
  { s with sup := { s.sup with errs := tabSet {} s.sup.errs unit { e with progress := e.progress + BitVec.ofNat 16 n } } }
/-- The ERR_STATE word of a unit. -/
def State.errWord (s : State) (unit : Nat) : Nat :=
  let e := tabGet {} s.sup.errs unit
  e.cls * 2 ^ 28 + e.count * 2 ^ 16 + e.progress.toNat
/-- A reset clears the error state of the units it reaches. -/
def State.clearErrs (s : State) (gone : Nat → Bool) : State :=
  { s with sup := { s.sup with errs := s.sup.errs.filter fun e => !gone e.1 } }
/-- A unit of core c: kinds 0 to 5. -/
def unitOfCore (c u : Nat) : Bool := decide (u / 4096 ≤ 5) && decide (u / 256 % 16 = c)

/-! ## Interrupts and events (R136, R157, R158, R643, R679) -/

/-- A vector's MSI-X table entry after a PCI Express reset: its Mask bit set, every other bit 0 (R157, log 81). -/
def msixReset : BitVec 128 := 1#128 <<< 96
/-- The MSI-X table entry of a vector. -/
def Fn.msixEntry (f : Fn) (v : Nat) : BitVec 128 := tabGet msixReset f.msixTable v

/-- An interrupt on a vector: sent, or left pending by a mask, as PCI Express states; held in D3hot. -/
def State.interrupt (s : State) (f vec : Nat) : State :=
  let fn := s.fn f
  if fn.d3hot then s.setFn f { fn with held := fn.held ++ [.irq vec] }
  else if !fn.msixEnable then s
  else if fn.msixMask || bitAt (fn.msixEntry vec).toNat 96 then
    s.setFn f { fn with pba := tabSet false fn.pba vec true }
  else { s with out := s.out ++ [.irq f vec] }

/-- Bytes the device writes to host memory of a port. -/
def State.hostWrite (s : State) (p addr : Nat) (bs : List Byte) : State :=
  { s with hostMem := memWrite s.hostMem (p * 2 ^ 64 + addr) bs }

/-- A PF's AER capability logs an uncorrectable error: bit 14 a completion timeout, 15 a Completer Abort, 20 an Unsupported Request
(R134; the bits are PRESUMED from PCI Express, log 81). -/
def State.noteAer (s : State) (f n : Nat) : State :=
  if f % 16 = 0 then s.setFn f { s.fn f with aer := (s.fn f).aer ||| BitVec.ofNat 32 (2 ^ n) } else s

/-- A port has a tag for one more read of the device: at most 1,024 are in use (R134). -/
def Port.tagFree (p : Port) : Bool := decide (p.lateTags.length < 1024)

/-- The 16-byte event record of R158. -/
def eventRecord (code detail time : Nat) : List Byte :=
  bytesOfNat code 2 ++ bytesOfNat 0 2 ++ bytesOfNat detail 4 ++ bytesOfNat time 8

/-- An event dropped: LOST counts it. -/
def EvRing.lose (r : EvRing) : EvRing := { r with lost := BitVec.ofNat 32 (sat (2 ^ 32 - 1) (r.lost.toNat + 1)) }

/-- An event written to a function's ring and announced, or dropped and counted in LOST. -/
def State.ringWrite (s : State) (f code detail time : Nat) : State :=
  let r := (s.fn f).ring
  let n := 2 ^ r.lLog2
  if r.active && !((r.tail + 1) % n == r.head) && s.phys.ringErr.contains f then
    s.setFn f { s.fn f with ring := { r with writeError := true, active := false } }
  else if r.active && !((r.tail + 1) % n == r.head) then
    let s1 := s.hostWrite (f / 16) (r.lBase.toNat + 16 * r.tail) (eventRecord code detail time)
    let s2 := s1.setFn f { s1.fn f with ring := { r with tail := (r.tail + 1) % n } }
    if r.irqEn then s2.interrupt f r.vector.toNat else s2
  else s.setFn f { s.fn f with ring := r.lose }

/-- One event to one function: written now, or held while the function is in D3hot (R136). -/
def State.eventTo (s : State) (code detail f : Nat) : State :=
  if !s.fnPresent f then s
  else if (s.fn f).d3hot then
    s.setFn f { s.fn f with held := (s.fn f).held ++ [.event (BitVec.ofNat 16 code) (BitVec.ofNat 32 detail) s.time] }
  else s.ringWrite f code detail s.time

/-- ALERT_PENDING takes the bit of the event's range when ALERT_MASK has it (R643). -/
def State.alert (s : State) (code : Nat) : State :=
  let n := code / 256
  if n ≤ 8 && bitAt (s.entry 0x8030 1) n then
    s.dictSet (dk 0x8030 2) (s.entry 0x8030 2 ||| 2 ^ n)
  else s

/-- An event raised to a list of functions, once each. -/
def State.event (s : State) (code detail : Nat) (fns : List Nat) : State :=
  (fns.eraseDups).foldl (fun s f => s.eventTo code detail f) (s.alert code)

/-- The functions an event about a slot goes to: its function. -/
def State.slotFns (s : State) (i : Nat) : List Nat := (s.slotFn i).toList
/-- The platform function, as a list. -/
def State.platformFns (s : State) : List Nat := s.platform.toList
/-- The slot's function and the platform function. -/
def State.slotAndPlatform (s : State) (i : Nat) : List Nat := s.slotFns i ++ s.platformFns

/-! ## Tokens (R29, R30, R215) -/

/-- A token's counter raised by 1. -/
def State.tokenRaise (s : State) (i t : Nat) : State :=
  let k := (s.part i).token t
  s.setPart i ((s.part i).setToken t { k with count := k.count + 1 })
/-- A token's failed mark set. -/
def State.tokenFail (s : State) (i t : Nat) : State :=
  let k := (s.part i).token t
  s.setPart i ((s.part i).setToken t { k with failed := true })

/-! ## Ending a command's work -/

/-- A command's work ends with a status; its completion record is a later step (R198). A command that has ended keeps
the status it ended with. -/
def State.endCmd (s : State) (id status detail : Nat) : State :=
  match s.cmd id with
  | none => s
  | some c => match c.phase with
    | .ended _ _ => s
    | _ => s.setCmd { c with phase := .ended status detail, ranUs := c.ranUs + (if c.phase = .running then s.time - c.resumed else 0) }

/-- A command ends OK, or with the poison or late status it has met (R257, R293, R307). -/
def State.finishCmd (s : State) (id detail : Nat) : State :=
  match s.cmd id with
  | none => s
  | some c => match c.poisoned, c.late with
    | some a, _ => s.endCmd id 0x0201 a
    | none, some (st, d) => s.endCmd id st d
    | none, none => s.endCmd id 0 detail

/-- The first poisoned address a command meets is kept (R257). -/
def State.notePoison (s : State) (id addr : Nat) : State :=
  match s.cmd id with
  | none => s
  | some c => if c.poisoned.isNone then s.setCmd { c with poisoned := some addr } else s

end Sys2Proof.Machine
end

