-- ==== Sys2Proof/Machine/Regulator.lean ====
section
/-!
DEFINITION. The bandwidth regulators (R121, R244 to R249). Resources: 0 HBM read, 1 HBM write, 2 CXL, 3 H0, 4 H1, 5 Ethernet egress.
-/
namespace Sys2Proof.Machine

/-- FLOOR and CEIL of a slot's regulator, in GB/s. -/
def State.floorOf (s : State) (i x : Nat) : Nat := s.envField i (0x20 + 4 * x) 2
def State.ceilOf (s : State) (i x : Nat) : Nat := s.envField i (0x22 + 4 * x) 2
/-- The depth of a bucket of a rate: max(256 KiB, rate × 16 µs). -/
def bucketDepth (rate : Nat) : Nat := max 262144 (rate * 16000)

def State.regulator (s : State) (i x : Nat) : Regulator := tabGet {} (s.part i).regs x
def State.setRegulator (s : State) (i x : Nat) (r : Regulator) : State :=
  s.setPart i { s.part i with regs := tabSet {} (s.part i).regs x r }

/-- The floor bucket holds tokens for n bytes; a floor of 0 never does. -/
def State.floorHas (s : State) (i x n : Nat) : Bool :=
  decide (0 < s.floorOf i x) && decide ((s.regulator i x).floorUsed + n ≤ bucketDepth (s.floorOf i x))
/-- The ceiling bucket holds tokens for n bytes; a CEIL of 0xFFFF never empties. -/
def State.ceilHas (s : State) (i x n : Nat) : Bool :=
  s.ceilOf i x == 0xFFFF || (decide (0 < s.ceilOf i x) && decide ((s.regulator i x).ceilUsed + n ≤ bucketDepth (s.ceilOf i x)))
/-- A bucket holds tokens for one byte more. -/
def State.tokens (s : State) (i x : Nat) : Bool := s.floorHas i x 1 || s.ceilHas i x 1

/-! ## Capacity of a resource (R245, R248) -/

/-- A resource's raw rate in bytes a device µs: HBM carries reads and writes together, the others each direction. -/
def State.rawRate (s : State) (x : Nat) : Nat :=
  match x with
  | 2 => 128000
  | 3 => if s.boot.hostShape = 1 then 128000 else 64000
  | 4 => 64000
  | 5 => 400000
  | _ => 16384000
/-- Where a resource's bytes of a device µs are summed: both directions of HBM together. -/
def servedKey (x : Nat) (out : Bool) : Nat := if x < 2 then 0 else 2 * x + (if out then 1 else 0)
/-- The resource has carried less than its rate in this device µs. -/
def State.capacityLeft (s : State) (x n : Nat) (out : Bool) : Bool :=
  decide (tabGet 0 s.fabric.served (servedKey x out) + n ≤ s.rawRate x)
/-- Bytes carried by a resource. -/
def State.noteServed (s : State) (x n : Nat) (out : Bool) : State :=
  { s with fabric := { s.fabric with
      served := tabSet 0 s.fabric.served (servedKey x out) (tabGet 0 s.fabric.served (servedKey x out) + n) } }

/-! ## The two classes -/

/-- The ceiling bucket debited, down to empty at most. -/
def State.ceilDebit (s : State) (i x n : Nat) (r : Regulator) : Regulator :=
  if s.ceilOf i x = 0xFFFF then r else { r with ceilUsed := max r.ceilUsed (min (r.ceilUsed + n) (bucketDepth (s.ceilOf i x))) }

/-- A request of n bytes served in the floor class: both buckets debited. -/
def State.serveFloor (s : State) (i x n : Nat) (out : Bool := false) : State :=
  let r := s.regulator i x
  ((s.setRegulator i x (s.ceilDebit i x n { r with floorUsed := r.floorUsed + n })).noteServed x n out).count 0x3020 (6 * i + x + 1) n
/-- A request of n bytes served in the spare class: the ceiling bucket alone debited; the slot has had its turn. -/
def State.serveSpare (s : State) (i x n : Nat) (out : Bool := false) : State :=
  let s1 := (s.setRegulator i x (s.ceilDebit i x n (s.regulator i x))).noteServed x n out
  ({ s1 with fabric := { s1.fabric with spareTurn := tabSet 0 s1.fabric.spareTurn x (i + 1) } } : State).count 0x3021 (6 * i + x + 1) n

/-- The order of turns after the slot last served, given as slot + 1. -/
def turnOrder (last : Nat) : List Nat := (List.range 16).drop last ++ (List.range 16).take last

/-- A request served in the class R245 gives it, or none where it waits: the floor class for which it has tokens, else the spare
class where it is the slot's turn there and the resource has capacity left. spareOnly keeps it from the floor class (R247, R453). -/
def State.regServe (s : State) (i x n : Nat) (out turn : Bool) (spareOnly : Bool := false) : Option State :=
  if !spareOnly && s.floorHas i x n then some (s.serveFloor i x n out)
  else if s.ceilHas i x n && turn && s.capacityLeft x n out then some (s.serveSpare i x n out)
  else none

/-! ## Engines that pass no issue queue (R245, R246, R497)

A row of such an engine moves its data at once; its bytes wait at the slot's regulator, oldest first, and the slot's engines go on once
all have been served (DESIGN CHOICE, log 100). -/

/-- A slot's engines have bytes waiting at a resource. -/
def State.owes (s : State) (i x : Nat) : Bool := !(s.regulator i x).owed.isEmpty
/-- The oldest of those bytes left: all but n. -/
def Regulator.pay (r : Regulator) (n : Nat) : Regulator :=
  match r.owed with
  | [] => r
  | o :: l => { r with owed := if o.bytes ≤ n then l else { o with bytes := o.bytes - n } :: l }

/-- The floor bucket's tokens go to the bytes of a slot's engines that wait, oldest first. -/
def State.owedFloor (s : State) (i x : Nat) : Nat → State
  | 0 => s
  | fuel + 1 =>
    match (s.regulator i x).owed with
    | [] => s
    | o :: _ =>
      let n := if s.floorOf i x = 0 then 0 else min o.bytes (bucketDepth (s.floorOf i x) - (s.regulator i x).floorUsed)
      if n = 0 then s else
        let s1 := s.serveFloor i x n o.out
        let s2 := s1.setRegulator i x ((s1.regulator i x).pay n)
        if n < o.bytes then s2 else s2.owedFloor i x fuel

/-- The bytes of a slot's oldest waiting request that the spare class can serve now: its ceiling bucket has tokens, the resource
capacity, and the request is not one of the floor class alone. -/
def State.spareRoom (s : State) (i x : Nat) : Nat :=
  match (s.regulator i x).owed with
  | [] => 0
  | o :: _ =>
    let ceil := if s.ceilOf i x = 0xFFFF then o.bytes
      else if s.ceilOf i x = 0 then 0 else bucketDepth (s.ceilOf i x) - (s.regulator i x).ceilUsed
    if o.floor then 0 else min o.bytes (min ceil (s.rawRate x - tabGet 0 s.fabric.served (servedKey x o.out)))

/-- Waiting requests of the engines served in the spare class, one slot's at a time in turn. -/
def State.owedSpare (s : State) (x : Nat) : Nat → State
  | 0 => s
  | fuel + 1 =>
    match (turnOrder (tabGet 0 s.fabric.spareTurn x)).find? fun i => decide (0 < s.spareRoom i x) with
    | none => s
    | some i =>
      let n := s.spareRoom i x
      let s1 := s.serveSpare i x n (((s.regulator i x).owed.head?.map (·.out)).getD false)
      (s1.setRegulator i x ((s1.regulator i x).pay n)).owedSpare x fuel

/-- The bytes a row moves wait at their regulator and take the floor tokens there are; floor keeps them in the floor class, which a slot
whose floor is 0 has none of (R248, R497). The spare class serves what is left as its turn comes. -/
def State.drawTokens (s : State) (i x n : Nat) (out floor : Bool := false) : State :=
  if n = 0 then s else
  let r := s.regulator i x
  (s.setRegulator i x { r with owed := r.owed ++ [{ bytes := n, out := out, floor := floor && decide (0 < s.floorOf i x) }] }).owedFloor i x
    (r.owed.length + 1)

/-- The requests of a list of regulators that wait, served as the buckets have refilled: the floor class of every slot first. -/
def State.serveEngines (s : State) : State :=
  let due := s.parts.flatMap fun e => (e.2.regs.filter fun r => !r.2.owed.isEmpty).map fun r => (e.1, r.1, r.2.owed.length)
  let s1 := due.foldl (fun s e => s.owedFloor e.1 e.2.1 e.2.2) s
  ((due.map (·.2.1)).eraseDups).foldl (fun s x => s.owedSpare x (due.foldl (fun n e => n + e.2.2) 0)) s1

/-- The resource of a line request, whose regulator of its slot it passes. -/
def MemReq.res (r : MemReq) : Nat := if r.tier == .cxl then 2 else if r.write then 1 else 0

/-- A resource can take another row of a slot's engines: none of their bytes waits there, and its buckets have tokens. -/
def State.engineRoom (s : State) (i x : Nat) : Bool := !s.owes i x && s.tokens i x

/-- An engine of a slot waits: bytes of the slot's engines wait at a resource of device memory, or its buckets there are empty (R245,
log 100). -/
def State.engineWaits (s : State) (i : Nat) : Bool :=
  [0, 1, 2].any fun x => s.owes i x || (decide (0 < (s.regulator i x).floorUsed + (s.regulator i x).ceilUsed) && !s.tokens i x)

/-! ## Turns of the spare class at a host port (R246, R247) -/

/-- The slots with a request that waits at a host port's regulator: BAR4 accesses, copies that found no tokens, and engines. -/
def State.hostWaiters (s : State) (x : Nat) : List Nat :=
  ((s.port (x - 3)).bar4.map (·.slot)) ++ ((s.cmds.filter fun c => c.waits == some x).map (·.slot)) ++
  (s.parts.filter fun e => !(tabGet {} e.2.regs x).owed.isEmpty).map (·.1)
/-- A slot's spare-class request has its turn at a host port: no floor-class request that waits there could be served, and no waiting
slot with tokens stands before it. -/
def State.hostTurn (s : State) (i x : Nat) : Bool :=
  !(s.cmds.any fun c => c.waits == some x && s.floorHas c.slot x 256) &&
  (turnOrder (tabGet 0 s.fabric.spareTurn x)).find? (fun j => j == i || ((s.hostWaiters x).contains j && s.ceilHas j x 256)) == some i

/-- One device µs of refill (R244). -/
def State.refill (s : State) (i x : Nat) : State :=
  let r := s.regulator i x
  s.setRegulator i x { r with floorUsed := r.floorUsed - 1000 * s.floorOf i x, ceilUsed := r.ceilUsed - 1000 * s.ceilOf i x }

end Sys2Proof.Machine
end

