-- ==== Sys2Proof/Machine/Mem.lean ====
section
/-!
DEFINITION. Device memory: HBM placement, translation through the two sides of a partition's address space,
poison, the device's own write path with copy-on-write and stale marks, and host memory (R252 to R269, R285, R493 to R500).
-/
namespace Sys2Proof.Machine

/-- HBM frames of the device (R253), and the first frame outside the reserve. -/
def hbmFrameLimit : Nat := 8388608
def hbmFirstFrame : Nat := 131072
/-- The bytes of a frame and of a line. -/
def frameBytes : Nat := 65536
def lineBytes : Nat := 256

/-- The spare frames lie at the top of the reserve (log 26). -/
def spareFrame (n : Nat) : Nat := hbmFirstFrame - 4096 + n

/-- Spare frames not yet used and not themselves retired. -/
def State.sparesLeft (s : State) : Nat :=
  4096 - s.spareNext - (s.hbmFrames.filter fun e => e.2.retired && decide (spareFrame s.spareNext ≤ e.1) && decide (e.1 < hbmFirstFrame)).length

/-! ## Placement of a line (R252, R253) -/

/-- The pseudo-channel of a line outside the reserve. -/
def linePc (l : Nat) : Nat := (bits l 0 9 ^^^ bits l 9 9) ^^^ bits l 18 9
/-- The bank of a line within its pseudo-channel. R252 gives it outside the reserve, and R253 gives a reserve line only its
pseudo-channel; the model takes the same bits there (DESIGN CHOICE, log 108). -/
def lineBank (l : Nat) : Nat := bits l 9 5 ^^^ bits l 18 5
/-- The pseudo-channel of a line; a reserve frame lies in one stack (R252, R253). -/
def pseudoChannel (l : Nat) : Nat := if l / 256 < hbmFirstFrame then l / 256 / 16384 * 64 + l % 64 else linePc l
/-- The block of an HBM channel, and that of the channel an address lies in: two pseudo-channels to a channel (R82, R252). -/
def hbmBlock (ch : Nat) : Nat := 1312 + ch
def channelOf (dpa : Nat) : Nat := hbmBlock (pseudoChannel (dpa / lineBytes) / 2)
/-- The stack of a device physical address. -/
def hbmStack (dpa : Nat) : Nat :=
  if dpa / frameBytes < hbmFirstFrame then dpa / frameBytes / 16384 else bits (linePc (dpa / lineBytes)) 6 3

/-! ## Translation (R262 to R267, R493, R495) -/

/-- A translated address: its tier, its address in the tier, its leaf, and how it was reached. -/
structure Where where
  cxl : Bool
  dpa : Nat
  leaf : Leaf
  /-- Page number in the side tables. -/
  page : Nat
  side1 : Bool
  /-- Reached through the chrysalis alias. -/
  alias_ : Bool
  /-- In a twinned region. -/
  twinned : Bool
deriving DecidableEq, Repr

/-- EN, ALIAS and ZONE of PART.TWIN_ALIAS (R493). -/
def Part.twinEn (p : Part) : Bool := bitAt p.twinAlias.toNat 31
def Part.aliasZone (p : Part) : Nat := bits p.twinAlias.toNat 16 14
def Part.twinZone (p : Part) : Nat := bits p.twinAlias.toNat 0 14
/-- The 512 MiB region of a page is twinned (R266). -/
def Part.isTwin (p : Part) (page : Nat) : Bool := (tabGet {} p.twins (page / 8192)).twinned
/-- The leaf of a page on a side. -/
def Part.leaf (p : Part) (side1 : Bool) (page : Nat) : Leaf := tabGet {} (if side1 then p.side1 else p.side0) page
/-- A leaf written on a side. -/
def Part.setLeaf (p : Part) (side1 : Bool) (page : Nat) (l : Leaf) : Part :=
  if side1 then { p with side1 := tabSet {} p.side1 page l } else { p with side0 := tabSet {} p.side0 page l }
/-- The side a page that is not reached through the alias is read on. -/
def Part.liveSideOf (p : Part) (page : Nat) : Bool := p.isTwin page && p.liveSide1

/-- A virtual address of a partition translated, none where it is unmapped. -/
def Part.translate (p : Part) (va : Nat) : Option Where :=
  if 2 ^ 52 ≤ va then none else
  let al := p.twinEn && bits va 38 14 == p.aliasZone
  let tva := if al then p.twinZone * 2 ^ 38 + va % 2 ^ 38 else va
  let page := tva / frameBytes
  let tw := p.isTwin page
  if al && !tw then none else
  let side := if al then !p.liveSide1 else p.liveSideOf page
  let l := p.leaf side page
  if !l.valid then none else
  some { cxl := l.tier == .cxl, dpa := l.frame * frameBytes + va % frameBytes, leaf := l, page := page,
         side1 := side, alias_ := al, twinned := tw }

/-- A virtual address of a slot translated. -/
def State.translate (s : State) (slot va : Nat) : Option Where := (s.part slot).translate va

/-! ## Spans: pieces of a range that lie in one line -/

/-- The pieces of [va, va + n) that lie in one 256-byte line each: (address, length). -/
def lineSpans (va n : Nat) : List (Nat × Nat) :=
  if n = 0 then [] else
  (List.range ((va + n - 1) / 256 - va / 256 + 1)).map fun i =>
    let lo := if i = 0 then va else (va / 256 + i) * 256
    let hi := (va / 256 + i + 1) * 256
    (lo, (if va + n < hi then va + n else hi) - lo)

/-! ## Tier bytes and poison -/

/-- The bytes of a tier. -/
def State.tierMem (s : State) (cxl : Bool) : Mem := if cxl then s.cxl else s.hbm
def State.setTierMem (s : State) (cxl : Bool) (m : Mem) : State := if cxl then { s with cxl := m } else { s with hbm := m }
/-- Poison of a tier, by line. -/
def State.tierPoison (s : State) (cxl : Bool) : Tab Bool := if cxl then s.cxlPoison else s.hbmPoison
def State.setTierPoison (s : State) (cxl : Bool) (t : Tab Bool) : State :=
  if cxl then { s with cxlPoison := t } else { s with hbmPoison := t }
/-- The line that holds an address of a tier is poisoned (R256). -/
def State.linePoisoned (s : State) (cxl : Bool) (dpa : Nat) : Bool := tabGet false (s.tierPoison cxl) (dpa / lineBytes)
/-- A line's poison set or cleared. -/
def State.setLinePoison (s : State) (cxl : Bool) (dpa : Nat) (b : Bool) : State :=
  s.setTierPoison cxl (tabSet false (s.tierPoison cxl) (dpa / lineBytes) b)

/-- Bytes of a tier the spec calls undefined: each takes a free value (log 1). -/
def State.fillFree (s : State) (cxl : Bool) (dpa n : Nat) : State :=
  { s.setTierMem cxl ((List.range n).foldl (fun m i => memPut m (dpa + i) (Config.freeByte s.freeCtr i)) (s.tierMem cxl))
    with freeCtr := s.freeCtr + 1 }

/-- n bytes of one tier copied into another, poison line by line (R257, R258). -/
def State.copyTier (s : State) (toCxl : Bool) (dst : Nat) (fromCxl : Bool) (src n : Nat) : State :=
  let m := tabCopy 0 (s.tierMem toCxl) dst (s.tierMem fromCxl) src n
  let p := tabCopy false (s.tierPoison toCxl) (dst / lineBytes) (s.tierPoison fromCxl) (src / lineBytes) (n / lineBytes)
  (s.setTierMem toCxl m).setTierPoison toCxl p

/-- A frame's bytes set to 0 and its poison cleared. -/
def State.zeroFrame (s : State) (cxl : Bool) (f : Nat) : State :=
  (s.setTierMem cxl (memZero (s.tierMem cxl) (f * frameBytes) frameBytes)).setTierPoison cxl
    (tabClear (s.tierPoison cxl) (f * 256) 256)

/-! ## Work that reaches an HBM channel (R83, R84) -/

/-- An access reaches a line: an IDLE channel returns to ACTIVE, one in SLEEP begins to wake. -/
def State.reachLine (s : State) (cxl : Bool) (dpa : Nat) : State :=
  if cxl then s else
  let b := s.block (channelOf dpa)
  match b.st with
  | .idle => s.setBlock (channelOf dpa) { b with st := .active, since := s.time }
  | .sleep => if b.waking then s else s.setBlock (channelOf dpa) { b with waking := true, after := .active }
  | _ => s

/-- The accesses of a range reach their channels, up to the first page that is unmapped. -/
def State.reachSpans (s : State) (slot : Nat) : List (Nat × Nat) → State
  | [] => s
  | (a, _) :: l => match s.translate slot a with
    | none => s
    | some w => (s.reachLine w.cxl w.dpa).reachSpans slot l

/-! ## Metering (R187, R200, R245) -/

/-- Opcodes whose device lines pass a core's issue queue and draw their tokens at REQUEST_ISSUE; host bytes of a copy draw theirs
with each piece. -/
def passesLines (op : Nat) : Bool := op == 0x10 || op == 0x11 || op == 0x12 || op == 0x20

/-- The regulator of a byte field of the COST block: HOST is that of the command's port. -/
def Cmd.regulatorOf (c : Cmd) (res : Nat) : Nat := if res = 3 then 3 + c.fn / 16 else res

/-- Bytes counted against a resource of a command: 0 HBM read, 1 HBM write, 2 CXL, 3 host, 4 Ethernet, whose packets draw when
they are sent. What passes no issue queue draws its tokens here, in the floor class alone where floor says so. -/
def State.charge (s : State) (id : Option Nat) (res n : Nat) (out floor : Bool := false) : State :=
  match id with
  | none => s
  | some i => match s.cmd i with
    | none => s
    | some c =>
      let s1 := s.setCmd { c with used := tabSet 0 c.used res (tabGet 0 c.used res + n) }
      if (passesLines c.opcode && !floor) || res == 4 then s1 else s1.drawTokens c.slot (c.regulatorOf res) n out floor

/-- Every page of a range can be reached: its regulator has tokens left, or the page is unmapped and stops the access (R245). -/
def State.canTouch (s : State) (slot : Nat) (write : Bool) (va n : Nat) : Bool :=
  n == 0 || (List.range ((va + n - 1) / frameBytes - va / frameBytes + 1)).all fun i =>
    match s.translate slot (if i = 0 then va else (va / frameBytes + i) * frameBytes) with
    | none => true
    | some w => s.engineRoom slot (if w.cxl then 2 else if write then 1 else 0)

/-! ## Reads -/

/-- How an access to the partition's address space stopped: a status of R199 and the address. -/
abbrev Stop := Nat × Nat

/-- What a read found: its bytes, and the first poisoned address met. -/
structure ReadOut where
  bytes : List Byte := []
  poison : Option Nat := none
deriving DecidableEq, Repr

/-- The pieces of a read in ascending order (R267): the bytes read, or the first address that is unmapped. -/
def State.readSpans (s : State) (slot : Nat) : List (Nat × Nat) → ReadOut → Except Stop ReadOut
  | [], r => .ok r
  | (a, n) :: l, r =>
    match s.translate slot a with
    | none => .error (0x0308, a)
    | some w =>
      let bad := w.leaf.poison || s.linePoisoned w.cxl w.dpa
      s.readSpans slot l { bytes := r.bytes ++ memRead (s.tierMem w.cxl) w.dpa n,
                           poison := if r.poison.isNone && bad then some a else r.poison }

/-- n bytes read at a virtual address. -/
def State.vread (s : State) (slot va n : Nat) : Except Stop ReadOut := s.readSpans slot (lineSpans va n) {}

/-- The bytes a read counts against HBM_RD or CXL, page by page. -/
def State.chargeRead (s : State) (id : Option Nat) (slot : Nat) : List (Nat × Nat) → State
  | [] => s
  | (a, n) :: l => match s.translate slot a with
    | none => s
    | some w => ((s.reachLine w.cxl w.dpa).charge id (if w.cxl then 2 else 0) n).chargeRead id slot l

/-- The tokens of an access that no issue queue carries, page by page: a descriptor's read, or a write of arriving data. -/
def State.drawSpans (s : State) (slot : Nat) (write : Bool) : List (Nat × Nat) → State
  | [] => s
  | (a, n) :: l => match s.translate slot a with
    | none => s
    | some w => (s.drawTokens slot (if w.cxl then 2 else if write then 1 else 0) n write).drawSpans slot write l

/-! ## The device's own write path (R285, R495, R497, R500) -/

/-- A row of a watched stream that overlaps [dpa, dpa + n) of a tier becomes stale (R285). -/
def Stream.mark (t : Stream) (cxl : Bool) (dpa n : Nat) : Stream :=
  if t.watch then
    let hit := t.watched.filter fun w => w.1 == cxl && decide (w.2.1 < dpa + n) && decide (dpa < w.2.1 + w.2.2.1)
    { t with stale := hit.foldl (fun l w => addNew l w.2.2.2) t.stale }
  else t

/-- Every open window compared with a write. -/
def State.markStale (s : State) (cxl : Bool) (dpa n : Nat) : State :=
  { s with cores := s.cores.map fun e =>
      (e.1, { e.2 with tile := { e.2.tile with streams := e.2.tile.streams.map fun t => t.mark cxl dpa n } }) }

/-- A line written while its page is in motion is to be copied again (R279). -/
def State.noteDirty (s : State) (slot : Nat) (w : Where) : State :=
  if !w.leaf.migrating then s else
  { s with cmds := s.cmds.map fun c =>
      if c.slot == slot && !c.tier.pages.isEmpty then
        { c with tier := { c.tier with dirty := addNew c.tier.dirty (w.page * 256 + w.dpa % frameBytes / lineBytes) } }
      else c }

/-- The pages copied on write together: the 64 KiB page, or the 32 leaves of a 2 MiB page (log 11). -/
def cowPages (big : Bool) (page : Nat) : List Nat :=
  if big then (List.range 32).map fun i => page / 32 * 32 + i else [page]

/-- One leaf of the chrysalis side given a frame of its own: the first spare of its tier. A spare lost with its CXL link maps a
poisoned page (R261). -/
def State.cowLeaf (s : State) (slot : Nat) (copy : Bool) (page : Nat) : State :=
  let p := s.part slot
  let side := !p.liveSide1
  let l := p.leaf side page
  let tw := tabGet {} p.twins (page / 8192)
  let cxl := l.tier == .cxl
  match tw.spares.find? fun e => e.1 == cxl with
  | none => s
  | some sp =>
    let s1 := if copy then s.copyTier cxl (sp.2 * frameBytes) cxl (l.frame * frameBytes) frameBytes
              else (s.zeroFrame cxl sp.2).fillFree cxl (sp.2 * frameBytes) frameBytes
    let p1 := { p with twins := tabSet {} p.twins (page / 8192) { tw with spares := tw.spares.erase sp } }
    let p2 := p1.setLeaf side page { l with frame := sp.2, shared := false, poison := (l.poison && copy) || (s.frame cxl sp.2).lost }
    let p3 := p2.setLeaf p.liveSide1 page { p.leaf p.liveSide1 page with shared := false }
    (s1.setPart slot p3).setFrame cxl sp.2 { s1.frame cxl sp.2 with twinSpare := false }

/-- Copy-on-write of the page a chrysalis write reaches, with its bytes metered and passing the regulator in the floor class (R497). -/
def State.cow (s : State) (id : Option Nat) (slot : Nat) (w : Where) (whole : Bool) : State :=
  if !(w.alias_ && w.leaf.shared) then s else
  let pages := cowPages w.leaf.big w.page
  let s1 := pages.foldl (fun s pg => s.cowLeaf slot (!whole) pg) s
  let n := if whole then 0 else pages.length * frameBytes
  let s2 := if w.cxl then (s1.charge id 2 n false true).charge id 2 n true true else (s1.charge id 0 n false true).charge id 1 n true true
  if whole then s2 else s2.count 0x7051 (slot + 1) 1

/-- A command that started before the partition's last eclosion or discard (R500). -/
def State.isStale (s : State) (id : Option Nat) (slot : Nat) : Bool :=
  match id with
  | none => false
  | some i => match s.cmd i with
    | none => false
    | some c => decide (c.startEpoch < (s.part slot).epoch)

/-- The page of an address lies wholly in one of the ranges its command writes in full (R498). -/
def coversPage (cover : List (Nat × Nat)) (big : Bool) (va : Nat) : Bool :=
  let n := if big then 32 * frameBytes else frameBytes
  let lo := va / n * n
  cover.any fun r => decide (r.1 ≤ lo) && decide (lo + n ≤ r.1 + r.2)

/-- Alias writes are not made (R541, R543, R589): the step state forbids them, or the partition is hardening. -/
def State.aliasClosed (s : State) (id : Option Nat) (slot : Nat) : Bool :=
  let p := s.part slot
  let molt := match id with
    | some i => (match s.cmd i with | some c => c.opcode == 0x62 | none => false)
    | none => false
  p.hardening || (match p.stepState with
    | .opened => false
    | .molting => !molt
    | _ => true)

/-- The chrysalis image record's shards under a write that is no WEIGHT_LOAD's lose their seal (R581). -/
def ImageRec.unseal (r : ImageRec) (va n : Nat) : ImageRec :=
  if r.imageId = 0 then r else
  { r with shards := r.shards.map fun e =>
      if r.base + e.2.offset < va + n ∧ va < r.base + e.2.offset + e.2.length then (e.1, { e.2 with st := .unsealed }) else e }

/-- The opcode of the work a command does: a RESUME does that of the operation its handle names (R207). -/
def State.segmentOp (s : State) (c : Cmd) : Nat :=
  if c.opcode = 0x71 then (s.longop c.slot (recField c.record 0x58 4 % 64)).opcode else c.opcode

/-- A command whose output range lies in the chrysalis alias is an alias writer from its start (R516). -/
def State.aimAlias (s : State) (id slot va : Nat) : State :=
  let p := s.part slot
  if !(p.twinEn && va / 2 ^ 38 == p.aliasZone) then s else
  match s.cmd id with
  | some c => s.setCmd { c with aliasWriter := true }
  | none => s

/-- An alias write noted: its command is an alias writer, and the chrysalis record is unsealed under it. -/
def State.noteAlias (s : State) (id : Option Nat) (slot va n : Nat) : State :=
  let c := match id with | some i => s.cmd i | none => none
  let s1 := match c with | some c => s.setCmd { c with aliasWriter := true } | none => s
  let loader := match c with | some c => s.segmentOp c == 0x60 | none => false
  if loader then s1 else
    let p := s1.part slot
    s1.setPart slot (if p.liveSide1 then { p with image0 := p.image0.unseal va n } else { p with image1 := p.image1.unseal va n })

/-- The pieces of a write in ascending order; writes made before a stop stand (R267). -/
def State.writeSpans (s : State) (id : Option Nat) (slot : Nat) (cover : List (Nat × Nat)) (bad : Bool) :
    List (Nat × Nat) → List Byte → State × Option Stop
  | [], _ => (s, none)
  | (a, n) :: l, bs =>
    match s.translate slot a with
    | none => (s, some (0x0308, a))
    | some w =>
      let s0 := if w.alias_ then s.noteAlias id slot (w.page * frameBytes + a % frameBytes) n else s
      if w.leaf.ro || (w.twinned && !w.alias_) then (s, some (0x0309, a))
      else if w.alias_ && s.isStale id slot then (s0, some (0x040F, a))
      else if w.alias_ && s.aliasClosed id slot then (s0, some (0x0411, a))
      else
        let s1 := s0.cow id slot w (coversPage cover w.leaf.big a)
        match s1.translate slot a with
        | none => (s1, some (0x0308, a))
        | some v =>
          let s2 :=
            if v.leaf.poison then { s1 with cxlDrops := s1.cxlDrops + 1 }
            else
              let m := s1.setTierMem v.cxl (memWrite (s1.tierMem v.cxl) v.dpa (bs.take n))
              let q := if bad then m.setLinePoison v.cxl v.dpa true
                       else if n = 256 then m.setLinePoison v.cxl v.dpa false else m
              ((q.markStale v.cxl v.dpa n).noteDirty slot v).reachLine v.cxl v.dpa
          (s2.charge id (if v.cxl then 2 else 1) n true).writeSpans id slot cover bad l (bs.drop n)

/-- Bytes written at a virtual address through the device's own write path, poisoned or not. -/
def State.vwrite (s : State) (id : Option Nat) (slot va : Nat) (bs : List Byte) (bad : Bool := false)
    (cover : List (Nat × Nat) := []) : State × Option Stop :=
  s.writeSpans id slot cover bad (lineSpans va bs.length) bs

/-- A read by a command: its bytes, metered; a stop ends the command; the first poisoned address is kept. What it reads passes no
issue queue, a core command's descriptor included (log 41). -/
def State.cmdRead (s : State) (id slot va n : Nat) : State × Option (List Byte) :=
  match s.vread slot va n with
  | .error e => (s.endCmd id e.1 e.2, none)
  | .ok r =>
    let s0 := s.chargeRead (some id) slot (lineSpans va n)
    let s1 := if (s.cmd id).any fun c => passesLines c.opcode then s0.drawSpans slot false (lineSpans va n) else s0
    ((match r.poison with | some a => s1.notePoison id a | none => s1), some r.bytes)

/-- A write by a command: a stop ends the command. -/
def State.cmdWrite (s : State) (id slot va : Nat) (bs : List Byte) (bad : Bool := false)
    (cover : List (Nat × Nat) := []) : State × Bool :=
  match s.vwrite (some id) slot va bs bad cover with
  | (s1, none) => (s1, true)
  | (s1, some e) => (s1.endCmd id e.1 e.2, false)

end Sys2Proof.Machine
end

