-- ==== Sys2Proof/Machine/Walk.lean ====
section
/-!
DEFINITION. The page tables of a partition as the walker reads them: four levels, their entry words, the walk, and each core's
translation buffer (R262 to R268).
-/
namespace Sys2Proof.Machine

/-! ## Levels (R263) -/

/-- The index of a virtual address in the table of a level. -/
def levelIndex (level va : Nat) : Nat :=
  match level with
  | 0 => bits va 38 14
  | 1 => bits va 29 9
  | 2 => bits va 21 8
  | _ => bits va 16 5
/-- The entries of a table, its bytes, and the bytes each entry covers. -/
def levelEntries (level : Nat) : Nat :=
  match level with
  | 0 => 16384
  | 1 => 512
  | 2 => 256
  | _ => 32
def levelTableBytes (level : Nat) : Nat := 8 * levelEntries level
def levelCovers (level : Nat) : Nat :=
  match level with
  | 0 => 2 ^ 38
  | 1 => 2 ^ 29
  | 2 => 2 ^ 21
  | _ => 2 ^ 16
/-- The 64 KiB pages an entry of a level covers. -/
def levelPages (level : Nat) : Nat := levelCovers level / 65536

/-! ## Entry words (R264) -/

/-- A table entry: its VALID, TWIN and NEXT. -/
structure TableEntry where
  valid : Bool := false
  twin : Bool := false
  next : Nat := 0
deriving DecidableEq, Repr

/-- An entry of a level: a leaf, or a pointer to the next table. -/
inductive PtEntry
  | leaf (l : Leaf)
  | table (t : TableEntry)
deriving DecidableEq, Repr

def bitVal (b : Bool) (i : Nat) : Nat := if b then 2 ^ i else 0
/-- The 64-bit word of a leaf entry. -/
def Leaf.word (l : Leaf) : Nat :=
  bitVal l.valid 0 + bitVal true 1 + bitVal (l.tier == .cxl) 3 + bitVal l.ro 5 + bitVal l.poison 6 + bitVal l.shared 7 + bitVal l.migrating 8 +
  l.frame % 2 ^ 32 * 2 ^ 16
/-- The 64-bit word of a table entry. -/
def TableEntry.word (t : TableEntry) : Nat := bitVal t.valid 0 + bitVal t.twin 2 + t.next / 256 % 2 ^ 40 * 2 ^ 8
/-- The DPA that the NEXT field of a table entry names. -/
def nextOfWord (w : Nat) : Nat := bits w 8 40 * 256
def PtEntry.word : PtEntry → Nat
  | .leaf l => l.word
  | .table t => t.word
def PtEntry.valid : PtEntry → Bool
  | .leaf l => l.valid
  | .table t => t.valid
/-- The leaf a word holds, at the level its size names. -/
def leafOfWord (big : Bool) (w : Nat) : Leaf :=
  { valid := bitAt w 0, big := big, tier := if bitAt w 3 then .cxl else .hbm, ro := bitAt w 5, poison := bitAt w 6, shared := bitAt w 7,
    migrating := bitAt w 8, frame := bits w 16 32 }

/-! ## Tables (R263, R265, R266) -/

/-- A valid leaf of a side lies in [lo, lo + n) of its pages. -/
def Part.anyLeaf (p : Part) (side1 : Bool) (lo n : Nat) : Bool :=
  (if side1 then p.side1 else p.side0).any fun e => decide (lo ≤ e.1) && decide (e.1 < lo + n) && e.2.valid

/-- Where a table lies: in the reserve below the spare frames, 256 B aligned (R253, R264, log 1). -/
def tableDpa (slot level i : Nat) : Nat := Config.tableAt slot level i % ((hbmFirstFrame - 4096) * 256) * 256

/-- The entry of a level that covers a page, on a side. A table exists where something under it is mapped, on either side above L2;
a 2 MiB page is one leaf entry at L2. The tables change with the leaves they are made from, which only ALLOC, FREE, TIER_DECLARE and
the engines of R265 write. -/
def Part.entryAt (slot : Nat) (p : Part) (side1 : Bool) (level page : Nat) : PtEntry :=
  let i := page / levelPages level
  let lo := i * levelPages level
  match level with
  | 0 => .table { valid := p.anyLeaf false lo (levelPages 0) || p.anyLeaf true lo (levelPages 0), next := tableDpa slot 1 i }
  | 1 => .table { valid := p.anyLeaf false lo (levelPages 1) || p.anyLeaf true lo (levelPages 1), twin := p.isTwin page,
                  next := tableDpa slot 2 i }
  | 2 =>
    if (p.leaf side1 lo).valid && (p.leaf side1 lo).big then .leaf (p.leaf side1 lo)
    else .table { valid := p.anyLeaf side1 lo (levelPages 2), next := tableDpa slot 3 (2 * i + (if side1 then 1 else 0)) }
  | _ => .leaf (p.leaf side1 page)

/-! ## The walk (R263, R266, R268) -/

/-- Where the entry of a page lies in the table at an address: the L2 table of side 1 follows that of side 0 by 2 KiB. -/
def entryDpa (table level page : Nat) (side1 : Bool) : Nat :=
  table + (if level = 2 ∧ side1 = true then 2048 else 0) + 8 * levelIndex level (page * frameBytes)

/-- The reads of a walk from a level down: where each entry lies, and the entry, whose NEXT names the table of the level below. -/
def Part.walkFrom (slot : Nat) (p : Part) (side1 : Bool) (page : Nat) : Nat → Nat → Nat → List (Nat × PtEntry)
  | 0, _, _ => []
  | fuel + 1, level, table =>
    let e := p.entryAt slot side1 level page
    (entryDpa table level page side1, e) ::
      match e with
      | .leaf _ => []
      | .table t => if t.valid then p.walkFrom slot side1 page fuel (level + 1) (nextOfWord t.word) else []

/-- The reads of a whole walk: four at most. -/
def Part.walk (slot : Nat) (p : Part) (side1 : Bool) (page : Nat) : List (Nat × PtEntry) :=
  p.walkFrom slot side1 page 4 0 (tableDpa slot 0 0)

/-- The leaf a walk ends at; each 64 KiB of a 2 MiB page keeps its own frame number in the model (log 11). -/
def Part.walkLeaf (slot : Nat) (p : Part) (side1 : Bool) (page : Nat) : Option Leaf :=
  match (p.walk slot side1 page).getLast? with
  | some (_, .leaf l) => if l.valid then some (p.leaf side1 page) else none
  | _ => none

/-! ## The translation buffer (R268) -/

/-- Entries of a core's buffer. -/
def tlbEntries : Nat := 4096

/-- An entry translates a page of [lo, lo + n) of a slot. -/
def TlbEntry.covers (e : TlbEntry) (slot lo n : Nat) : Bool :=
  e.slot == slot && decide (lo < e.page + (if e.leaf.big then 32 else 1)) && decide (e.page < lo + n)

/-- A change of the entries of pages invalidates them in every core's buffer. -/
def State.tlbDrop (s : State) (slot lo n : Nat) : State :=
  { s with cores := (s.cores.map fun k =>
      (k.1, { k.2 with tlb := k.2.tlb.filter fun e => !e.covers slot lo n })).filter fun k => decide (k.2 ≠ {}) }

/-- A translation made for a core: a hit where the buffer holds the leaf as it stands; else a miss, counted, whose walk fills an entry.
The leaf's own comparison stands for the invalidation where a page is copied, repointed or lost, none of which brings the old leaf back.
Which entry a full buffer gives up is free (log 101). -/
def State.tlbTouch (s : State) (c slot va : Nat) : State :=
  match s.translate slot va with
  | none => s
  | some w =>
    let page := if w.leaf.big then w.page / 32 * 32 else w.page
    let e : TlbEntry := { slot := slot, side1 := w.side1, page := page, leaf := (s.part slot).leaf w.side1 page }
    if (s.core c).tlb.contains e then s else
    let rest := (s.core c).tlb.filter fun x => !(x.slot == slot && x.side1 == w.side1 && x.page == page)
    let r := if tlbEntries ≤ rest.length then (rest.eraseIdx (s.fresh.1.toNat % tlbEntries), s.fresh.2) else (rest, s)
    (r.2.setCore c { r.2.core c with tlb := r.1 ++ [e] }).count 0x5014 (c + 1) 1

/-- The pieces of [x, x + n) that lie in one block of 2^k bytes each. -/
def pieces (k x n : Nat) : List (Nat × Nat) :=
  if n = 0 then [] else
  (List.range ((x + n - 1) / 2 ^ k - x / 2 ^ k + 1)).map fun i =>
    let lo := if i = 0 then x else (x / 2 ^ k + i) * 2 ^ k
    let hi := (x / 2 ^ k + i + 1) * 2 ^ k
    (lo, min (x + n) hi - lo)

/-- The pages of a range translated for a core. -/
def State.tlbRange (s : State) (c slot va n : Nat) : State := (pieces 16 va n).foldl (fun s e => s.tlbTouch c slot e.1) s

end Sys2Proof.Machine
end

