-- ==== Sys2Proof/Machine/Alloc.lean ====
section
/-!
DEFINITION. Holdings of partitions and the allocator: free and held resources, guarantees, grants, frees, and the
release of holdings by a reset (R216 to R227, R258 to R263, R281, R682).
-/
namespace Sys2Proof.Machine

/-! ## Blocks of a core (R82) -/

/-- Block numbers of R82. -/
def matrixBlock (c : Nat) : Nat := c
def vectorBlock (c : Nat) : Nat := 16 + c
def groupBlock (c g : Nat) : Nat := 32 + 80 * c + g
def laneBlock (l : Nat) : Nat := 1568 + l
/-- The core whose engine or bank group a block is. -/
def blockCore (b : Nat) : Option Nat :=
  if b < 16 then some b else if b < 32 then some (b - 16) else if b < 1312 then some ((b - 32) / 80) else none
/-- The bank group a block is. -/
def blockGroup (b : Nat) : Option Nat := if 32 ≤ b ∧ b < 1312 then some ((b - 32) % 80) else none

/-! ## Scratch of a core (R297) -/

/-- The key of a scratch byte: core, bank, position. -/
def scratchKey (c b pos : Nat) : Nat := c * 83886080 + b * 16384 + pos
/-- The key of a scratch word's poison: core, bank, word. -/
def scratchPoisonKey (c b w : Nat) : Nat := c * 5242880 + b * 1024 + w

/-- The bytes and poison of a bank group set to 0 (R87, R220). -/
def State.zeroGroup (s : State) (c g : Nat) : State :=
  { s with scratch := memZero s.scratch (scratchKey c (64 * g) 0) (64 * 16384)
           scratchPoison := tabClear s.scratchPoison (scratchPoisonKey c (64 * g) 0) (64 * 1024) }
/-- All scratch of a core set to 0 (R105). -/
def State.zeroCore (s : State) (c : Nat) : State :=
  { s with scratch := memZero s.scratch (scratchKey c 0 0) 83886080
           scratchPoison := tabClear s.scratchPoison (scratchPoisonKey c 0 0) 5242880 }

/-! ## What a slot holds (R216) -/

/-- Frames of a tier a slot holds, spares of twinned regions included (R496). -/
def State.heldFrames (s : State) (cxl : Bool) (i : Nat) : Nat :=
  ((if cxl then s.cxlFrames else s.hbmFrames).filter fun e => e.2.owner == some i).length
/-- Held memory in units of 2 MiB, rounded up (log 12). -/
def State.heldUnits (s : State) (cxl : Bool) (i : Nat) : Nat := ceilDiv (s.heldFrames cxl i) 32
/-- Flow numbers a slot holds. -/
def State.heldFlows (s : State) (i : Nat) : List Nat := (s.flows.filter fun e => e.2.holder == some i).map (·.1)
/-- The bank groups of a core a slot holds. -/
def State.heldGroups (s : State) (c : Nat) : List Nat := maskList (s.core c).groups.toNat 80

/-- A frame that is neither free nor available (R220, R258, R261). -/
def Frame.taken (f : Frame) : Bool := f.owner.isSome || f.zeroing || f.retired || f.lost || f.twinSpare || f.retiring
/-- A CXL frame that lies on a ready expander. -/
def State.cxlReady (s : State) (f : Nat) : Bool :=
  s.expanders.any fun e => e.2.ready && decide (e.2.base ≤ f) && decide (f < e.2.base + e.2.frames)
/-- The numbered frames of a tier: (first, last + 1). -/
def State.frameRange (s : State) (cxl : Bool) : Nat × Nat :=
  if cxl then (0, s.expanders.foldl (fun m e => if e.2.ready then max m (e.2.base + e.2.frames) else m) 0)
  else (hbmFirstFrame, hbmFrameLimit)
/-- A frame can be granted. -/
def State.frameFree (s : State) (cxl : Bool) (f : Nat) : Bool := !(s.frame cxl f).taken && (!cxl || s.cxlReady f)
/-- Free frames of a tier. -/
def State.freeFrameCount (s : State) (cxl : Bool) : Nat :=
  let r := s.frameRange cxl
  let all := if cxl then s.expanders.foldl (fun m e => if e.2.ready then m + e.2.frames else m) 0 else r.2 - r.1
  all - ((if cxl then s.cxlFrames else s.hbmFrames).filter fun e =>
    e.2.taken && decide (r.1 ≤ e.1) && decide (e.1 < r.2) && (!cxl || s.cxlReady e.1)).length

/-- The lowest-numbered free frames: blocks of m contiguous aligned frames, n blocks, first frames listed (R222, log 11). -/
def State.pickFrames (s : State) (cxl : Bool) (m : Nat) : Nat → Nat → Nat → List Nat
  | 0, _, _ => []
  | fuel + 1, f, n =>
    if n = 0 then [] else
    if (s.frameRange cxl).2 < f + m then [] else
    if cxl && !s.cxlReady f then
      match minBy id ((s.expanders.filter fun e => e.2.ready && decide (f < e.2.base)).map (·.2.base)) with
      | some b => s.pickFrames cxl m fuel (ceilDiv b m * m) n
      | none => []
    else if (List.range m).all (fun i => s.frameFree cxl (f + i)) then f :: s.pickFrames cxl m fuel (f + m) (n - 1)
    else s.pickFrames cxl m fuel (f + m) n

/-- n free blocks of m frames, lowest first; fewer when there are not so many. -/
def State.freeBlocks (s : State) (cxl : Bool) (m n : Nat) : List Nat :=
  let r := s.frameRange cxl
  let first := ceilDiv r.1 m * m
  s.pickFrames cxl m (n + (if cxl then s.cxlFrames else s.hbmFrames).length + s.expanders.length * 2 + 1) first n

/-- Free cores: enabled, in service, held by no one, and not under a retiring reset (R218, R223). -/
def State.coreFree (s : State) (c : Nat) : Bool :=
  s.coreUsable c && (s.core c).holder.isNone && !(s.core c).retiring
def State.freeCores (s : State) : List Nat := (List.range 16).filter fun c => s.coreFree c
/-- Free bank groups of a core: neither held nor awaiting zeroing. -/
def State.freeGroups (s : State) (c : Nat) : List Nat :=
  if (s.core c).retired ≠ 0 ∨ (s.core c).retiring then [] else
  (List.range 80).filter fun g => !bitAt (s.core c).groups.toNat g && !bitAt (s.core c).groupsZeroing.toNat g
/-- Free flow numbers among the n lowest of them. -/
def State.freeFlowList (s : State) : Nat → Nat → Nat → List Nat
  | 0, _, _ => []
  | fuel + 1, f, n =>
    if n = 0 ∨ 16384 ≤ f then [] else
    if (s.flow f).holder.isNone then f :: s.freeFlowList fuel (f + 1) (n - 1) else s.freeFlowList fuel (f + 1) n
def State.freeFlowCount (s : State) : Nat := 16384 - (s.flows.filter fun e => e.2.holder.isSome).length

/-! ## Guarantees and maxima (R121, R218) -/

/-- The resource kinds of R221: 1 cores, 3 HBM, 4 CXL, 5 flows. Maxima and guarantees in frames, cores and flows. -/
def State.maxOf (s : State) (kind i : Nat) : Nat :=
  match kind with
  | 1 => s.envField i 4 1
  | 3 => 32 * s.envField i 8 4
  | 4 => 32 * s.envField i 0x10 4
  | _ => s.envField i 0x18 2
def State.guarOf (s : State) (kind i : Nat) : Nat :=
  match kind with
  | 1 => s.envField i 5 1
  | 3 => 32 * s.envField i 0x0C 4
  | 4 => 32 * s.envField i 0x14 4
  | _ => s.envField i 0x1A 2
def State.heldOf (s : State) (kind i : Nat) : Nat :=
  match kind with
  | 1 => (s.heldCores i).length
  | 3 => s.heldFrames false i
  | 4 => s.heldFrames true i
  | _ => (s.heldFlows i).length
def State.freeOf (s : State) (kind : Nat) : Nat :=
  match kind with
  | 1 => s.freeCores.length
  | 3 => s.freeFrameCount false
  | 4 => s.freeFrameCount true
  | _ => s.freeFlowCount

/-- The unheld part of every other bound slot's guarantee. -/
def State.reserved (s : State) (kind i : Nat) : Nat :=
  (s.boundSlots.filter (· ≠ i)).foldl (fun n t => n + (s.guarOf kind t - s.heldOf kind t)) 0

/-- A grant of n of a kind to slot i leaves the guarantees of the others covered. -/
def State.grantOk (s : State) (kind i n : Nat) : Bool :=
  decide (n ≤ s.freeOf kind) && decide (s.reserved kind i ≤ s.freeOf kind - n)

/-! ## Grants and frees -/

/-- The dictionary entries COUNTERS mirrors for a core (R682). -/
def coreCounterIndices : List Nat :=
  [0x5010, 0x5011, 0x5012, 0x5014, 0x5020, 0x5021, 0x5022, 0x5023, 0x5024, 0x5025, 0x5026, 0x5040, 0x5041,
   0x5050, 0x5051, 0x5055, 0x5056, 0x5057, 0x5058, 0x5059,
   0x7010, 0x7011, 0x7012, 0x7013, 0x7014, 0x7015, 0x7016, 0x7017, 0x7018,
   0x7020, 0x7021, 0x7022, 0x7023, 0x7024, 0x7025, 0x7033]

/-- A core given to a slot: its counters count from now, its flags start clear (R392, R682). -/
def State.grantCore (s : State) (i c : Nat) : State :=
  let base := coreCounterIndices.foldl (fun t x => tabSet 0 t x (s.entry x (c + 1))) []
  s.setCore c { s.core c with holder := some i, grantBase := base, grantPeak := 0, grantHot := 0, flags := 0 }

/-- A block that is OFF starts to leave it, to be ACTIVE (R85). -/
def State.startLeaveOff (s : State) (b : Nat) (after : PowerState) : State :=
  if (s.block b).st = .off then s.setBlock b { s.block b with leavingOff := true, after := after } else s

/-- Bank groups of a core released: zeroed, and free once that is done; a scrub pass in one stops at once (R87, R220, R329). -/
def State.releaseGroups (s : State) (c : Nat) (gs : List Nat) : State :=
  let s1 := gs.foldl (fun s g => s.zeroGroup c g) s
  let m := BitVec.ofNat 80 (maskOf gs)
  s1.setCore c { s1.core c with
    groups := (s1.core c).groups &&& ~~~m, groupsZeroing := (s1.core c).groupsZeroing ||| m
    scrubNext := gs.foldl (fun t g => tabClear t (64 * g) 64) (s1.core c).scrubNext }

/-- A core released with its bank groups (R217, R227). -/
def State.releaseCore (s : State) (c : Nat) : State :=
  let s1 := s.releaseGroups c (s.heldGroups c)
  s1.setCore c { s1.core c with holder := none, draining := false, unheldSince := s.time, grantBase := [], grantPeak := 0,
                                grantHot := 0 }

/-- A frame given up: it awaits zeroing unless it is lost or already out of use (R281). One that was to be copied into a spare is
retired without one (R258, R296). -/
def State.releaseFrame (s : State) (cxl : Bool) (f : Nat) : State :=
  let r := s.frame cxl f
  let out := r.retired || r.retiring
  s.setFrame cxl f { r with owner := none, twinSpare := false, retired := out, retiring := false,
                            zeroing := !r.lost && !(out && !r.noSpare) }

/-- Every frame of a tier a slot holds given up. -/
def State.releaseFrames (s : State) (cxl : Bool) (i : Nat) : State :=
  ((if cxl then s.cxlFrames else s.hbmFrames).filter fun e => e.2.owner == some i).foldl
    (fun s e => s.releaseFrame cxl e.1) s

/-- A flow number returned: its context is empty. -/
def State.releaseFlow (s : State) (f : Nat) : State := s.setFlow f {}

/-- Everything a slot holds released by a reset, and its page tables emptied (R105, R220). -/
def State.releaseAll (s : State) (i : Nat) : State :=
  let s1 := (s.heldCores i).foldl (fun s c => s.releaseCore c) s
  let s2 := (s1.heldFlows i).foldl (fun s f => s.releaseFlow f) s1
  let s3 := ((s2.tlbDrop i 0 (2 ^ 36)).releaseFrames false i).releaseFrames true i
  s3.setPart i { s3.part i with side0 := [], side1 := [], twins := [], liveSide1 := false }

/-! ## Pages -/

/-- The 64 KiB page numbers of COUNT pages from a base: 1 leaf each, or 32 for a 2 MiB page. -/
def pageList (va count : Nat) (big : Bool) : List Nat :=
  (List.range (if big then 32 * count else count)).map fun i => va / frameBytes + i

/-- One leaf of a side that is not twinned mapped to a frame held by the slot. -/
def State.mapLeaf (s : State) (i page : Nat) (cxl big : Bool) (f : Nat) : State :=
  let s1 := s.setPart i ((s.part i).setLeaf ((s.part i).liveSideOf page) page
    { valid := true, big := big, tier := if cxl then .cxl else .hbm, frame := f })
  s1.setFrame cxl f { s1.frame cxl f with owner := some i }

/-- One leaf unmapped, and its frame given up. -/
def State.unmapLeaf (s : State) (i page : Nat) : State :=
  let p := s.part i
  let l := p.leaf (p.liveSideOf page) page
  if !l.valid then s else
  ((s.tlbDrop i page 1).setPart i (p.setLeaf (p.liveSideOf page) page {})).releaseFrame (l.tier == .cxl) l.frame

/-- A page lies in the alias zone while EN is set (R494). -/
def Part.inAlias (p : Part) (page : Nat) : Bool := p.twinEn && decide (page / 2 ^ 22 = p.aliasZone)

/-! ## Bound work (R223, R226) -/

/-- Accepted, uncompleted commands bound to a core. -/
def State.boundTo (s : State) (c : Nat) : List Cmd :=
  s.cmds.filter fun d => d.cores.contains c || d.dmaCore == some c
/-- A core has bound work or a cocoon. -/
def State.coreBusy (s : State) (c : Nat) : Bool := !(s.boundTo c).isEmpty || !(s.core c).cocoons.isEmpty

/-! ## ALLOC (R221 to R225) -/

/-- The operands of ALLOC and FREE. -/
structure AllocArgs where
  kind : Nat
  core : Nat
  big : Bool
  exact_ : Bool
  drain : Bool
  count : Nat
  arg : Nat
deriving DecidableEq, Repr

def allocArgs (r : Rec) : AllocArgs :=
  { kind := recField r 0x68 1, core := recField r 0x69 1, big := recField r 0x6A 1 == 1,
    exact_ := bitAt (recField r 0x6B 1) 0, drain := bitAt (recField r 0x6B 1) 1, count := recField r 0x6C 4,
    arg := recField r 0x70 16 }

/-- The first address of a range that cannot be written: unmapped, or read-only. -/
def State.writeBlocked (s : State) (i va n : Nat) : Option Stop :=
  (lineSpans va n).findSome? fun e =>
    match s.translate i e.1 with
    | none => some (0x0308, e.1)
    | some w => if w.leaf.ro || (w.twinned && !w.alias_) then some (0x0309, e.1) else none

/-- The first address of a range that is unmapped or poisoned. -/
def State.readBlocked (s : State) (i va n : Nat) : Option Stop :=
  match s.vread i va n with
  | .error e => some e
  | .ok r => r.poison.map fun a => (0x0201, a)

/-- What an ALLOC would grant: cores, bank groups, frames or flows, by number. -/
def State.allocPick (s : State) (_slot : Nat) (a : AllocArgs) : List Nat :=
  match a.kind with
  | 1 => if a.exact_ then maskList a.arg 16 else s.freeCores.take a.count
  | 2 => if a.exact_ then maskList a.arg 80 else (s.freeGroups a.core).take a.count
  | 3 => s.freeBlocks false (if a.big then 32 else 1) a.count
  | 4 => s.freeBlocks true (if a.big then 32 else 1) a.count
  | _ => s.freeFlowList 16384 0 a.count

/-- How many of its kind an ALLOC takes, in cores, groups, frames or flows. -/
def AllocArgs.amount (a : AllocArgs) : Nat :=
  match a.kind with
  | 1 => if a.exact_ then (maskList a.arg 16).length else a.count
  | 2 => if a.exact_ then (maskList a.arg 80).length else a.count
  | 3 => if a.big then 32 * a.count else a.count
  | 4 => if a.big then 32 * a.count else a.count
  | _ => a.count

/-- The first status of R223 that applies to an ALLOC; none when it is granted. -/
def State.allocStatus (s : State) (i : Nat) (a : AllocArgs) (payload : Nat) : Option Stop :=
  let n := a.amount
  let pick := s.allocPick i a
  let beyond := a.kind ≠ 2 && decide (s.maxOf a.kind i < s.heldOf a.kind i + n)
  let short := match a.kind with
    | 1 => !(decide (pick.length = n) && pick.all s.coreFree && s.grantOk 1 i n)
    | 2 => !(decide (pick.length = n) && pick.all fun g => (s.freeGroups a.core).contains g)
    | 5 => !(decide (pick.length = n) && s.grantOk 5 i n)
    | k => !(decide (pick.length = a.count) && s.grantOk k i n)
  let pages := if a.kind = 3 ∨ a.kind = 4 then pageList (a.arg % 2 ^ 64) a.count a.big else []
  match (if a.kind = 5 then s.writeBlocked i payload (2 * a.count) else none) with
  | some e => some e
  | none =>
    if beyond then some (0x0303, 0)
    else if short then some (0x0302, 0)
    else if a.kind = 2 ∧ (s.core a.core).holder ≠ some i then some (0x0304, 0)
    else if pages.any (fun pg => pg == 0 || (s.part i).inAlias pg || ((s.part i).leaf ((s.part i).liveSideOf pg) pg).valid) then
      some (0x0306, 0)
    else none

/-- The grant of an ALLOC (R222): what it changes, at once. -/
def State.allocGrant (s : State) (id i : Nat) (a : AllocArgs) (payload : Nat) : State :=
  let pick := s.allocPick i a
  match a.kind with
  | 1 => pick.foldl (fun s c => s.grantCore i c) s
  | 2 => s.setCore a.core { s.core a.core with groups := (s.core a.core).groups ||| BitVec.ofNat 80 (maskOf pick) }
  | 5 =>
    let s1 := pick.foldl (fun s f => s.setFlow f { holder := some i }) s
    (s1.vwrite (some id) i payload (pick.flatMap fun f => bytesOfNat f 2)).1
  | k =>
    let frames := if a.big then pick.flatMap fun f => (List.range 32).map (f + ·) else pick
    ((pageList (a.arg % 2 ^ 64) a.count a.big).zip frames).foldl (fun s e => s.mapLeaf i e.1 (k == 4) a.big e.2) s

/-- The OFF blocks a grant waits for (R85, R225). -/
def State.allocOff (s : State) (slot : Nat) (a : AllocArgs) : List Nat :=
  let blocks := match a.kind with
    | 1 => (s.allocPick slot a).flatMap fun c => [matrixBlock c, vectorBlock c]
    | 2 => (s.allocPick slot a).map fun g => groupBlock a.core g
    | _ => []
  blocks.filter fun b => (s.block b).st == .off

/-- DETAIL of an OK ALLOC or FREE (R224). -/
def State.allocDetail (s : State) (slot : Nat) (a : AllocArgs) (pick : List Nat) : Nat :=
  match a.kind with
  | 1 => maskOf (s.heldCores slot)
  | 2 => (pick.head?.getD 0) + 2 ^ 8 * pick.length
  | _ => a.count

/-! ## TIER_DECLARE (R277) -/

/-- The operands of TIER_DECLARE. -/
structure TierArgs where
  toCxl : Bool
  big : Bool
  count : Nat
  va : Nat
deriving DecidableEq, Repr

def tierArgs (r : Rec) : TierArgs :=
  { toCxl := recField r 0x68 1 == 2, big := recField r 0x69 1 == 1, count := recField r 0x6C 4, va := recField r 0x70 8 }

/-- Leaves of one page of the range. -/
def TierArgs.leaves (a : TierArgs) : Nat := if a.big then 32 else 1
/-- The first leaf page of each page of the range. -/
def TierArgs.pages (a : TierArgs) : List Nat := (List.range a.count).map fun i => a.va / frameBytes + a.leaves * i

/-- The leaf of a page on the side live accesses read. -/
def Part.liveLeaf (p : Part) (page : Nat) : Leaf := p.leaf (p.liveSideOf page) page

/-- A running TIER_DECLARE of a slot names a page (R296). -/
def State.tierBusy (s : State) (i page : Nat) : Bool :=
  s.cmds.any fun c => c.slot == i && c.opcode == 0x32 && c.phase == .running &&
    let a := tierArgs c.record
    decide (a.va / frameBytes ≤ page) && decide (page < a.va / frameBytes + a.leaves * a.count)

/-! ## FREE -/

/-- The flow numbers a FREE of kind 5 lists. -/
def flowNumbers : List Byte → List Nat
  | a :: b :: l => (a.toNat + 256 * b.toNat) :: flowNumbers l
  | _ => []

/-- The first status of R223 that applies to a FREE; none when it frees. -/
def State.freeStatus (s : State) (i : Nat) (a : AllocArgs) (payload : Nat) : Option Stop :=
  match a.kind with
  | 1 =>
    let m := maskList a.arg 16
    if !m.all (fun c => (s.core c).holder == some i) then some (0x0304, 0)
    else if !a.drain && m.any s.coreBusy then some (0x0305, 0) else none
  | 2 =>
    let m := maskList a.arg 80
    if (s.core a.core).holder ≠ some i ∨ !m.all (fun g => bitAt (s.core a.core).groups.toNat g) then some (0x0304, 0)
    else if !a.drain && s.coreBusy a.core then some (0x0305, 0) else none
  | 5 =>
    match s.readBlocked i payload (2 * a.count) with
    | some e => some e
    | none => match s.vread i payload (2 * a.count) with
      | .error e => some e
      | .ok r =>
        let fl := flowNumbers r.bytes
        if !fl.all (fun f => decide (f < 16384) && (s.flow f).holder == some i) || decide (fl.eraseDups.length ≠ fl.length) then
          some (0x0304, 0)
        else if fl.any (fun f => (s.flow f).state != .closed) then some (0x0305, 0) else none
  | k =>
    let p := s.part i
    let pages := pageList (a.arg % 2 ^ 64) a.count a.big
    let leaf := fun pg => p.leaf (p.liveSideOf pg) pg
    if !pages.all (fun pg => (leaf pg).valid && (leaf pg).big == a.big && (leaf pg).tier == (if k = 4 then .cxl else .hbm)) then
      some (0x0304, 0)
    else if pages.any (fun pg => p.isTwin pg || (leaf pg).migrating || s.tierBusy i pg) then some (0x0305, 0) else none

/-- What a FREE changes. -/
def State.freeApply (s : State) (i : Nat) (a : AllocArgs) (payload : Nat) : State :=
  match a.kind with
  | 1 => (maskList a.arg 16).foldl (fun s c => s.releaseCore c) s
  | 2 => s.releaseGroups a.core (maskList a.arg 80)
  | 5 => match s.vread i payload (2 * a.count) with
    | .error _ => s
    | .ok r => (flowNumbers r.bytes).foldl (fun s f => s.releaseFlow f) s
  | _ => (pageList (a.arg % 2 ^ 64) a.count a.big).foldl (fun s pg => s.unmapLeaf i pg) s

end Sys2Proof.Machine
end

