-- ==== Sys2Proof/Machine/Cmds.lean ====
section
/-!
DEFINITION. Accepted commands: their records, waits and tokens, when they may start, their completion records, and
what a reset discards (R29 to R34, R154 to R156, R177 to R189, R198, R232 to R236).
-/
namespace Sys2Proof.Machine

/-! ## Fields of a record (R177) -/

def recOpcode (r : Rec) : Nat := recField r 0 2
def recFence (r : Rec) : Bool := bitAt (recField r 2 2) 0
def recErrorOnly (r : Rec) : Bool := bitAt (recField r 2 2) 1
def recSeq (r : Rec) : Nat := recField r 4 4
def recDeadline (r : Rec) : Nat := recField r 8 4
/-- SIGNAL_TOKEN, when valid. -/
def recSignal (r : Rec) : Option Nat := if bitAt (recField r 0x0C 2) 15 then some (recField r 0x0C 2 % 4096) else none
/-- RESIDENCY, when valid. -/
def recResidency (r : Rec) : Option Nat := if bitAt (recField r 0x0E 2) 15 then some (recField r 0x0E 2 % 16) else none
/-- WAIT entry j: valid, its token, EXTERNAL, TARGET. -/
def waitValid (r : Rec) (j : Nat) : Bool := bitAt (recField r (0x10 + 8 * j) 2) 15
def waitToken (r : Rec) (j : Nat) : Nat := recField r (0x10 + 8 * j) 2 % 4096
def waitExternal (r : Rec) (j : Nat) : Bool := bitAt (recField r (0x10 + 8 * j) 2) 14
def waitTarget (r : Rec) (j : Nat) : Nat := recField r (0x14 + 8 * j) 4
/-- The valid WAIT entries. -/
def recWaits (r : Rec) : List Nat := (List.range 4).filter (waitValid r)
def recCoreCycles (r : Rec) : Nat := recField r 0x30 8
def recBeCycles (r : Rec) : Nat := recField r 0x38 4
def recCores (r : Rec) : Nat := recField r 0x3C 1
/-- Byte field x of the COST block in bytes: 0 HBM_RD, 1 HBM_WR, 2 CXL, 3 HOST, 4 ETH. -/
def recBytes (r : Rec) (x : Nat) : Nat := 4096 * recField r (0x40 + 4 * x) 4
def recHandle (r : Rec) : Nat := recField r 0x58 4 % 64
def recPayload (r : Rec) : Nat := recField r 0x60 8

/-- The unit classes of R181. -/
inductive UnitClass | core | dma | nic | loader | none_
deriving DecidableEq, Repr

/-- The class of an opcode (R183); control commands take the class of their operation elsewhere. -/
def opClass (op : Nat) : UnitClass :=
  if op = 0x10 ∨ op = 0x11 ∨ op = 0x12 then .core
  else if op = 0x20 ∨ op = 0x61 ∨ op = 0x64 then .dma
  else if op = 0x40 ∨ op = 0x41 ∨ op = 0x50 ∨ op = 0x51 ∨ op = 0x52 ∨ op = 0x53 ∨ op = 0x62 then .nic
  else if op = 0x60 ∨ op = 0x63 then .loader
  else .none_

/-- The opcodes of R183. -/
def opListed (op : Nat) : Bool :=
  [0x01, 0x02, 0x10, 0x11, 0x12, 0x20, 0x30, 0x31, 0x32, 0x40, 0x41, 0x50, 0x51, 0x52, 0x53, 0x54, 0x60, 0x61, 0x62, 0x63,
   0x64, 0x70, 0x71, 0x72].contains op
/-- Long-operation starts (R183). -/
def opLongStart (op : Nat) : Bool := op == 0x60 || op == 0x61 || op == 0x62 || op == 0x63 || op == 0x64
/-- SUSPEND, RESUME and CANCEL. -/
def opControl (op : Nat) : Bool := op == 0x70 || op == 0x71 || op == 0x72

/-- The class a command occupies: a control command takes that of the operation its handle names (R208). -/
def Cmd.unitClass (s : State) (c : Cmd) : UnitClass :=
  if opControl c.opcode then
    (if (s.longop c.slot (recHandle c.record)).opcode = 0 then .none_ else opClass (s.longop c.slot (recHandle c.record)).opcode)
  else opClass c.opcode

/-! ## Waits (R29, R30, R34, R188) -/

/-- A wait on a token with a target is met. -/
def Token.met (t : Token) (target : Nat) : Bool := decide ((t.count.toNat + 2 ^ 32 - target % 2 ^ 32) % 2 ^ 32 < 2 ^ 31)
/-- WAIT entry j of a record is met. -/
def State.waitMet (s : State) (slot : Nat) (r : Rec) (j : Nat) : Bool :=
  ((s.part slot).token (waitToken r j)).met (waitTarget r j)
/-- Every wait of a record is met. -/
def State.waitsMet (s : State) (slot : Nat) (r : Rec) : Bool := (recWaits r).all fun j => s.waitMet slot r j
/-- The first WAIT entry whose token carries the failed mark. -/
def State.failedWait (s : State) (slot : Nat) (r : Rec) : Option Nat :=
  (recWaits r).find? fun j => ((s.part slot).token (waitToken r j)).failed
/-- The external WAIT entries of a record. -/
def recExternal (r : Rec) : List Nat := (recWaits r).filter (waitExternal r)

/-- The external waits of a command that are met for the first time are met now; once all are, its deadline is known (R34). -/
def State.noteCmd (s : State) (c : Cmd) : Cmd :=
  let met := (recExternal c.record).foldl
    (fun t j => if (tabGet none t j).isNone && s.waitMet c.slot c.record j then tabSet none t j (some s.time) else t) c.extMet
  let all := (recExternal c.record).all fun j => (tabGet none met j).isSome
  let last := met.foldl (fun m e => max m (e.2.getD 0)) (max c.doorbell c.peerAt)
  { c with extMet := met
           deadline := if c.deadline.isNone && all && !c.peer then some (last + recDeadline c.record) else c.deadline }

/-- An external event of a command's exchange with its peers occurs now; after the last one its deadline is known (R480). -/
def State.peerEvent (s : State) (id : Nat) (last : Bool) : State :=
  match s.cmd id with
  | none => s
  | some c => if !c.peer then s else s.setCmd (s.noteCmd { c with peer := !last, peerAt := s.time })

/-- After a token of a slot changed: external events are noted, and a command that has not started and waits on a token
with the failed mark completes INPUT_FAILED (R30). -/
def State.noteWaits (s : State) (slot : Nat) : State :=
  { s with cmds := s.cmds.map fun c =>
      if c.slot = slot ∧ c.phase = .waiting then
        let c1 := s.noteCmd c
        match s.failedWait slot c.record with
        | some j => { c1 with phase := .ended 0x0204 j }
        | none => c1
      else c }

/-- A token raised by 1, and what waits on it noted. -/
def State.raiseToken (s : State) (slot t : Nat) : State := (s.tokenRaise slot t).noteWaits slot
/-- A token's failed mark set, and what waits on it noted. -/
def State.failToken (s : State) (slot t : Nat) : State := (s.tokenFail slot t).noteWaits slot

/-! ## When a command may start (R179, R232 to R234) -/

/-- FENCE is satisfied: no command accepted earlier from the queue is uncompleted. -/
def State.fenceMet (s : State) (c : Cmd) : Bool :=
  !recFence c.record || !((s.cmds.takeWhile fun d => d.id != c.id).any fun d => d.fn == c.fn && d.queue == c.queue)

/-- A command is eligible: accepted, not started, its waits met and its FENCE satisfied. -/
def State.eligible (s : State) (c : Cmd) : Bool := c.phase == .waiting && s.waitsMet c.slot c.record && s.fenceMet c

/-- The bound cores of a command: those it runs on, or that of its DMA timeline. -/
def Cmd.units (c : Cmd) : List Nat := c.cores ++ c.dmaCore.toList

/-- A SUSPEND or CANCEL, which acts beside the segment whose timeline carries its demand (R208). -/
def Cmd.beside (c : Cmd) : Bool := c.opcode == 0x70 || c.opcode == 0x72
/-- A RESUME and another command of the same handle: the RESUME waits for that one's segment by itself (R209). -/
def Cmd.resumes (c d : Cmd) : Bool := c.opcode == 0x71 && c.slot == d.slot && recHandle c.record == recHandle d.record

/-- Two commands share a timeline of a core. -/
def Cmd.shares (c d : Cmd) : Bool :=
  c.cores.any (d.cores.contains ·) ||
  (c.dmaCore.isSome && c.dmaCore == d.dmaCore && !c.beside && !d.beside && !c.resumes d)

/-- d ranks before c: an earlier known deadline, or an equal one accepted earlier (R232). -/
def Cmd.ranksBefore (d c : Cmd) : Bool :=
  match d.deadline, c.deadline with
  | some x, some y => decide (x < y) || (decide (x = y) && decide (d.id < c.id))
  | some _, none => true
  | _, _ => false

/-- d has an earlier absolute deadline than c; a deadline not yet known is later than every known one (R232, R233). -/
def Cmd.earlier (d c : Cmd) : Bool :=
  match d.deadline, c.deadline with
  | some x, some y => decide (x < y)
  | some _, none => true
  | _, _ => false

/-- Admission marked the pair under R195. -/
def Cmd.marked (c d : Cmd) : Bool := c.displaces.contains d.id || d.displaces.contains c.id

/-- Engine and bank-group blocks a command needs awake: the engines of its cores, and the groups its partition holds
there (R84). -/
def State.holdBlocks (s : State) (c : Cmd) : List Nat :=
  let groups := fun k => (s.heldGroups k).map (groupBlock k)
  c.cores.flatMap (fun k => matrixBlock k :: vectorBlock k :: groups k) ++
  (match c.dmaCore with | some k => if c.cores.contains k then [] else groups k | none => [])

/-- The blocks an accepted command is pending on: its engines and groups, and the HBM channels (R84). -/
def State.pendingBlocks (s : State) (c : Cmd) : List Nat :=
  s.holdBlocks c ++ (if c.unitClass s = .none_ then [] else (List.range 256).map hbmBlock)

/-- No block a command needs is in SLEEP. A bank group that an ALLOC is handing out, which leaves OFF, holds no accepted command back
(R85). -/
def State.awake (s : State) (c : Cmd) : Bool := (s.pendingBlocks c).all fun b => !((s.block b).st == .sleep)

/-- The command that displaced d has not completed (R240). -/
def State.awayFor (s : State) (d : Cmd) : Bool := match d.savedFor with | some a => (s.cmd a).isSome | none => false

/-- An uncompleted command d of a shared timeline keeps c from starting: it is eligible too and ranks before c (R232), it is not and
has an earlier deadline in a pair that is not marked (R233), it is displaced and its restore comes before c, or it has the unit. One
that ended without having started holds back as one that waits. -/
def State.holdsBack (s : State) (d c : Cmd) : Bool :=
  match d.phase with
  | .waiting => if s.eligible d then d.ranksBefore c else d.earlier c && !c.marked d
  | .displaced => d.ranksBefore c && !(c.marked d && s.awayFor d)
  | .ended _ _ => if d.started = 0 then d.earlier c && !c.marked d else true
  | _ => true

/-- A command can start now: eligible, the units free, no better claim on a shared timeline (R232, R233), blocks awake,
its partition and cores not in reset, and its operation not about to rest (R207). -/
def State.canStart (s : State) (c : Cmd) : Bool :=
  s.eligible c && !s.partReset c.slot && s.awake c && !(opLongStart c.opcode && (s.longop c.slot (recHandle c.record)).toRest) &&
  (c.units.all fun k => !(s.core k).hung && !(s.resets.any fun r => match r.target with | .core x => x.val == k | _ => false)) &&
  (s.cmds.all fun d => d.id == c.id || !c.shares d || !s.holdsBack d c)

/-- Work reaches blocks: an IDLE one returns to ACTIVE (R83). -/
def State.workReaches (s : State) (bs : List Nat) : State :=
  bs.foldl (fun s b => if (s.block b).st = .idle then s.setBlock b { s.block b with st := .active, since := s.time } else s) s

/-- A command starts, and its work reaches the blocks it is pending on. -/
def State.beginCmd (s : State) (c : Cmd) : State :=
  let t := s.tablesOf c.slot
  (s.workReaches (s.pendingBlocks c)).setCmd
    { c with phase := .running, started := s.time, resumed := s.time, startEpoch := (s.part c.slot).epoch, tables := t }

/-- Running µs of a command so far (R200). -/
def State.ranSoFar (s : State) (c : Cmd) : Nat := c.ranUs + (if c.phase = .running then s.time - c.resumed else 0)

/-! ## Completion records (R154, R155, R156, R198) -/

/-- The 32-byte completion record. -/
def completionRecord (seq status core finish detail permille admitUs : Nat) : List Byte :=
  bytesOfNat seq 4 ++ bytesOfNat status 2 ++ bytesOfNat core 1 ++ bytesOfNat 0 1 ++ bytesOfNat finish 8 ++ bytesOfNat detail 8 ++
  bytesOfNat permille 2 ++ bytesOfNat 0 2 ++ bytesOfNat admitUs 4

/-- A queue with nothing left to write is no longer ACTIVE once it is disabled (R155). -/
def Queue.drain (q : Queue) : Queue := if !q.enable && q.outstanding = 0 then { q with active := false } else q

/-- A queue faults: ENABLE clears, and event QUEUE_FAULT is raised (R148, R156). -/
def State.queueFault (s : State) (f q code : Nat) : State :=
  let qu := s.queue f q
  let s1 := s.setQueue f q ({ qu with enable := false, faulted := true, fault := BitVec.ofNat 8 code } : Queue).drain
  (s1.event 0x0201 (q + 256 * code) [f]).noteFault (portUnit (f / 16) (if code = 4 then 1 else 0)) (if code = 3 ∨ code = 4 then 2 else 3)

/-- The interrupt of a queue: every unsignalled record is announced. -/
def State.queueIrq (s : State) (f q : Nat) : State :=
  let qu := s.queue f q
  (s.setQueue f q { qu with unsignalled := 0 }).interrupt f qu.vector.toNat

/-- Moderation after a record, or after IRQ_EN is set (R147, R154). -/
def State.moderate (s : State) (f q : Nat) : State :=
  let qu := s.queue f q
  if qu.irqEn && decide (0 < qu.unsignalled) &&
     (qu.delayUs == 0 || decide (qu.count.toNat ≤ 1) || decide (qu.count.toNat ≤ qu.unsignalled)) then s.queueIrq f q else s

/-- A completion record put into the ring and announced under the moderation fields. -/
def State.putCompletion (s : State) (f q : Nat) (bs : List Byte) : State :=
  let qu := s.queue f q
  let s1 := s.hostWrite (f / 16) (qu.lCqBase.toNat + 32 * qu.cqTail) bs
  let s2 := s1.setQueue f q { qu with
    cqTail := (qu.cqTail + 1) % 2 ^ qu.lCqLog2, unsignalled := qu.unsignalled + 1
    delayFrom := if qu.unsignalled = 0 then s.time else qu.delayFrom }
  s2.moderate f q

/-- One completion record owed to a queue is settled: written, discarded, or lost to a write error (R154 to R156). -/
def State.settleNow (s : State) (f q : Nat) (record : Option (List Byte)) (writeOk : Bool) : State :=
  let qu := s.queue f q
  let s0 := s.setQueue f q { qu with outstanding := qu.outstanding - 1 }
  let s1 := match record with
    | none => s0
    | some bs =>
      if qu.discard then s0
      else if writeOk then s0.putCompletion f q bs
      else (s0.setQueue f q { s0.queue f q with discard := true }).queueFault f q 4
  s1.setQueue f q (s1.queue f q).drain

/-- One completion record owed to a queue is settled, or held in D3hot, where it stays owed until the function is back in D0
(R136, R152). -/
def State.settle (s : State) (f q : Nat) (record : Option (List Byte)) (writeOk : Bool) : State :=
  match record with
  | some bs =>
    if (s.fn f).d3hot then s.setFn f { s.fn f with held := (s.fn f).held ++ [HeldMsg.completion q bs] }
    else s.settleNow f q (some bs) writeOk
  | none => s.settleNow f q none writeOk

/-- The effects of a command's completion on its SIGNAL_TOKEN (R29, R30). -/
def State.signal (s : State) (slot : Nat) (r : Rec) (status : Nat) : State :=
  match recSignal r with
  | none => s
  | some t => if status = 0 then s.raiseToken slot t else s.failToken slot t

/-! ## Discarding the work of a partition (R33, R105) -/

/-- Every command, record and cocoon of a slot gone, with no completion record; its engines idle. -/
def State.discardSlot (s : State) (i : Nat) : State :=
  let ids := (s.cmds.filter fun c => c.slot == i).map (·.id)
  let gone := fun (o : Option Nat) => match o with | some x => ids.contains x | none => false
  let clean := fun (k : Core) => { k with
    tile := if gone k.tile.cmd then {} else k.tile
    bank := if gone k.bank.cmd then {} else k.bank
    gather := if gone k.gather.cmd then {} else k.gather
    cocoons := k.cocoons.filter fun o => !ids.contains o.cmd }
  { s with
    cmds := (s.cmds.filter fun c => c.slot != i).map fun c =>
      { c with displaces := c.displaces.filter (!ids.contains ·), displacedBy := c.displacedBy.filter (!ids.contains ·) }
    waiting := s.waiting.filter fun w => s.slotFn i != some w.fn
    cores := (s.cores.map fun e => (e.1, clean e.2)).filter fun e => decide (e.2 ≠ {})
    colls := s.colls.filter fun c => !ids.contains c.cmd
    upds := s.upds.filter fun c => !ids.contains c.cmd
    molts := s.molts.filter fun c => !ids.contains c.cmd
    loads := s.loads.filter fun e => !(e.1 / 64 == i)
    loadDigests := s.loadDigests.filter fun e => !(e.1 / 64 == i)
    ckpts := s.ckpts.filter fun e => !(e.1 / 64 == i) }

/-- The engines of a core left as after its reset: nothing running (R105). -/
def Core.stopEngines (k : Core) : Core := { k with tile := {}, bank := {}, gather := {} }
/-- Of a displaced command that has ended, what its tile program still merges (R419). -/
def Cocoon.mergeOnly (o : Cocoon) : Cocoon := { cmd := o.cmd, tile := { cmd := o.tile.cmd, trackers := o.tile.trackers } }
/-- What a stopped tile program still merges into its scale trackers at its completion (R419). -/
def Core.keepMerge (k : Core) (t : TileRun) : Core := { k with tile := { cmd := t.cmd, trackers := t.trackers } }

end Sys2Proof.Machine
end

