-- ==== Sys2Proof/Machine/Reseed.lean ====
section
/-!
DEFINITION. Twinned regions: reseeding and discards, and a partition left in doubt (R496, R499, R500, R553, R579).
-/
namespace Sys2Proof.Machine

/-- The live image record of a partition (R579). -/
def Part.liveImage (p : Part) : ImageRec := if p.liveSide1 then p.image1 else p.image0
/-- The chrysalis image record. -/
def Part.chrysalisImage (p : Part) : ImageRec := if p.liveSide1 then p.image0 else p.image1
/-- One of them replaced. -/
def Part.setLiveImage (p : Part) (r : ImageRec) : Part := if p.liveSide1 then { p with image1 := r } else { p with image0 := r }
def Part.setChrysalisImage (p : Part) (r : ImageRec) : Part := if p.liveSide1 then { p with image0 := r } else { p with image1 := r }

/-- Pages of a region of 512 MiB. -/
def regionPages : Nat := 8192

/-- A frame goes back to the spare list of its region. -/
def Twin.giveBack (t : Twin) (cxl : Bool) (f : Nat) : Twin := { t with spares := t.spares ++ [(cxl, f)] }

/-- The frames of a region's chrysalis leaves that are not shared. -/
def Part.ownFrames (p : Part) (region : Nat) : List (Bool × Nat) :=
  ((if p.liveSide1 then p.side0 else p.side1).filter fun e =>
    decide (e.1 / regionPages = region) && e.2.valid && !e.2.shared).map fun e => (e.2.tier == .cxl, e.2.frame)

/-- One region of a partition made equal on both sides. -/
def Part.reseedRegion (p : Part) (region : Nat) : Part :=
  let tw := (p.ownFrames region).foldl (fun (t : Twin) e => t.giveBack e.1 e.2) (tabGet {} p.twins region)
  let lo := region * regionPages
  let live := (tabSlice (if p.liveSide1 then p.side1 else p.side0) lo regionPages).map fun e => (e.1, { e.2 with shared := true })
  let t0 := tabPaste {} (tabClear p.side0 lo regionPages) lo live
  let t1 := tabPaste {} (tabClear p.side1 lo regionPages) lo live
  { p with side0 := t0, side1 := t1, twins := tabSet {} p.twins region tw }

/-- The twinned regions of a partition. -/
def Part.twinRegions (p : Part) : List Nat := (p.twins.filter fun e => e.2.twinned).map (·.1)

/-- Every twinned region reseeded (R499); the live image record is copied over the chrysalis record (R579). -/
def State.reseed (s : State) (slot : Nat) : State :=
  let p := s.part slot
  let given := p.twinRegions.flatMap p.ownFrames
  let s1 := given.foldl (fun s e => s.setFrame e.1 e.2 { s.frame e.1 e.2 with twinSpare := true }) s
  let p1 := p.twinRegions.foldl (fun (q : Part) r => q.reseedRegion r) p
  let s2 := p.twinRegions.foldl (fun s r => s.tlbDrop slot (r * regionPages) regionPages) s1
  (s2.setPart slot { p1.setChrysalisImage p1.liveImage with doubtKept := false }).count 0x7052 (slot + 1) 1

/-- A discard: the chrysalis side is given up, and alias writes of older commands are stale (R500, R548). -/
def State.discard (s : State) (slot : Nat) : State :=
  (s.setPart slot { s.part slot with epoch := (s.part slot).epoch + 1 }).reseed slot

/-- The partition is left in doubt on the point it was voting (R553). -/
def State.toDoubt (s : State) (slot : Nat) : State :=
  let p := s.part slot
  let s1 := (s.setPart slot { p with stepState := .inDoubt, doubtKept := true }).count 0x7072 (slot + 1) 1
  match p.doubt with
  | none => s1
  | some pt => s1.event 0x0409 (pt.step.toNat % 2 ^ 32) (s1.slotFns slot)

/-- A molt fails before its commit sampling: once it is past its boundary, the chrysalis copy is discarded (R567). -/
def State.moltUndone (s : State) (slot : Nat) : State :=
  if (s.part slot).stepState ≠ .molting then s else
  let s1 := s.discard slot
  s1.setPart slot { s1.part slot with stepState := .opened }

end Sys2Proof.Machine
end

