-- ==== Sys2Proof/Machine/Silk.lean ====
section
/-!
DEFINITION. The Silk transport below its users: headers, CRC32C, serial numbers, the packets a flow sends, its receiver
and its sender (R431 to R457).
-/
namespace Sys2Proof.Machine

/-! ## Ports (R427, R455) -/

/-- Ports under the port mode in force. -/
def State.portCount (s : State) : Nat := 2 ^ (s.portMode + 1)
/-- A port exists under the port mode in force. -/
def State.portExists (s : State) (p : Nat) : Bool := decide (p < s.portCount)
/-- A port's share of its base die's 8 MiB receive buffer. -/
def State.bufferShare (s : State) : Nat := 8388608 / (s.portCount / 2)
/-- The IPv4 or IPv6 address of a port; 0 is absent (R431). -/
def State.portAddr (s : State) (p : Nat) (v6 : Bool) : Nat := if v6 then s.entry 0x6003 (p + 1) else s.entry 0x6002 (p + 1)
/-- MAC addresses are a block of 18: the ports in order, the management lane, the service lane (R431). -/
def State.macOf (s : State) (lane : Nat) : Nat := (s.entry 0x1000 8 + lane) % 2 ^ 48
/-- The IPv6 link-local address of a MAC address by modified EUI-64, byte 0 lowest (R437, RFC 4291). -/
def linkLocal (mac : Nat) : Nat :=
  let m := (bytesOfNat mac 6).reverse
  natOfBytes ([0xFE#8, 0x80#8] ++ List.replicate 6 0#8 ++ [m.getD 0 0 ^^^ 2#8] ++ (m.drop 1).take 2 ++ [0xFF#8, 0xFE#8] ++ m.drop 3)
/-- The addresses of the management lane 16 or the service lane 17: the static one where it is set, and the link-local one (R437). -/
def State.laneAddrs (s : State) (lane : Nat) (v6 : Bool) : List Nat :=
  let i := if lane = 16 then 0x6050 else 0x6051
  let fixed := if v6 then natOfBytes ((bytesOfNat (s.entry i 4) 8).reverse ++ (bytesOfNat (s.entry i 5) 8).reverse) else s.entry i 2
  ([fixed].filter (· != 0)) ++ if v6 then [linkLocal (s.macOf lane)] else []

/-! ## Serial numbers (R440) -/

/-- p is after q. -/
def psnAfter (p q : Nat) : Bool :=
  decide (0 < (p + 2 ^ 32 - q % 2 ^ 32) % 2 ^ 32) && decide ((p + 2 ^ 32 - q % 2 ^ 32) % 2 ^ 32 < 2 ^ 31)
/-- The next serial number. -/
def psnNext (p : Nat) : Nat := (p + 1) % 2 ^ 32

/-! ## CRC32C -/

/-- One bit of the reflected CRC with the Castagnoli polynomial. -/
def crcBit (c : W32) : W32 := if c.getLsbD 0 then (c >>> 1) ^^^ 0x82F63B78#32 else c >>> 1
/-- One byte of it. -/
def crcByte (c : W32) (b : Byte) : W32 :=
  crcBit (crcBit (crcBit (crcBit (crcBit (crcBit (crcBit (crcBit (c ^^^ b.zeroExtend 32))))))))
/-- CRC32C of a byte list. -/
def crc32c (bs : List Byte) : W32 := ~~~(bs.foldl crcByte 0xFFFFFFFF#32)

/-! ## Headers (R438 to R440) -/

/-- The fields of a header. -/
structure Silk where
  ver : Nat := 1
  ty : Nat := 0
  flags : Nat := 0
  flow : Nat := 0
  prio : Nat := 0
  brood : Nat := 0
  instar : Nat := 0
  step : Nat := 0
  psn : Nat := 0
  ackPsn : Nat := 0
  chunk : Nat := 0
  vote : Nat := 0
deriving DecidableEq, Repr

/-- Bytes 0x00 to 0x23 of a header. -/
def Silk.body (h : Silk) : List Byte :=
  bytesOfNat (h.ty + 16 * h.ver) 1 ++ bytesOfNat h.flags 1 ++ bytesOfNat (h.flow + 16384 * h.prio) 2 ++ bytesOfNat h.brood 4 ++
  bytesOfNat h.instar 4 ++ bytesOfNat h.step 8 ++ bytesOfNat h.psn 4 ++ bytesOfNat h.ackPsn 4 ++ bytesOfNat h.chunk 4 ++
  bytesOfNat h.vote 4
/-- The 40 bytes of a header, its CRC32C last. -/
def Silk.bytes (h : Silk) : List Byte := h.body ++ bytesOfNat (crc32c h.body).toNat 4
/-- A header as 320 bits, byte 0 lowest. -/
def Silk.word (h : Silk) : BitVec 320 := BitVec.ofNat 320 (natOfBytes h.bytes)
/-- The fields a received header spells. -/
def silkOf (w : BitVec 320) : Silk :=
  let x := w.toNat
  { ver := bits x 4 4, ty := bits x 0 4, flags := bits x 8 8, flow := bits x 16 14, prio := bits x 30 2,
    brood := bits x 32 32, instar := bits x 64 32, step := bits x 96 64, psn := bits x 160 32, ackPsn := bits x 192 32,
    chunk := bits x 224 32, vote := bits x 256 32 }
/-- The header's CRC32C is that of its bytes 0x00 to 0x23. -/
def crcOk (w : BitVec 320) : Bool :=
  let bs := bytesOfNat w.toNat 40
  (crc32c (bs.take 36)).toNat == field bs 36 4

/-- Payload bytes of a PSIZE code. -/
def psizeBytes (z : Nat) : Nat := if z = 1 then 1024 else if z = 2 then 4096 else if z = 3 then 8192 else 0

/-! ## Sending -/

/-- The flow's remote address is one of the module's own: it is carried through the port's loopback (R454). -/
def State.isLocal (s : State) (fl : Flow) : Bool :=
  fl.addr != 0 && (List.range s.portCount).any fun p => s.portAddr p fl.v6 == fl.addr.toNat

/-- The sum of the big-endian 16-bit words of a byte list. -/
def wordSum : List Byte → Nat
  | a :: b :: l => 256 * a.toNat + b.toNat + wordSum l
  | [a] => 256 * a.toNat
  | [] => 0

/-- The UDP checksum of RFC 768 over IPv4 or IPv6: the complement of the one's complement sum, 0 sent as 0xFFFF (log 106). -/
def udpChecksum (v6 : Bool) (src dst sport dport : Nat) (data : List Byte) : W16 :=
  let addr := fun (a : Nat) => if v6 then bytesOfNat a 16 else (bytesOfNat a 4).reverse
  let n := data.length + 8
  BitVec.ofNat 16 (65535 - (wordSum (addr src ++ addr dst ++ data) + 17 + 2 * n + sport + dport) % 65535)

/-- The frame around a packet of a flow (R433). -/
def State.frameOf (s : State) (f : Nat) (h : Silk) (payload : List Byte) : SilkFrame :=
  let fl := s.flow f
  let src := s.portAddr fl.port fl.v6
  let sport := 0xC000 + f
  { loopback := s.isLocal fl, destMac := fl.hop, srcMac := BitVec.ofNat 48 (s.macOf fl.port)
    vlan := s.entry 0x6007 (fl.port + 1), pcp := s.entry 0x6009 (fl.prio + 1), v6 := fl.v6, src := BitVec.ofNat 128 src, dst := fl.addr
    dscp := s.entry 0x600A (fl.prio + 1), ect0 := h.ty == 0, dontFragment := !fl.v6, hops := 64, flowLabel := if fl.v6 then f else 0
    sport := BitVec.ofNat 16 sport, dport := BitVec.ofNat 16 fl.dport
    checksum := udpChecksum fl.v6 src fl.addr.toNat sport fl.dport (h.bytes ++ payload) }

/-- A packet of a flow as the port that holds its remote address receives it through the loopback (R454, log 118). -/
def State.loopPkt (s : State) (f : Nat) (h : Silk) (payload : List Byte) : SilkPkt :=
  let fl := s.flow f
  let at_ := ((List.range s.portCount).find? fun p => s.portAddr p fl.v6 == fl.addr.toNat).getD fl.port
  { port := Fin.ofNat 16 at_, v6 := fl.v6, src := BitVec.ofNat 128 (s.portAddr fl.port fl.v6), dst := fl.addr
    sport := BitVec.ofNat 16 (0xC000 + f), dport := BitVec.ofNat 16 fl.dport, plainIp := true, udpOk := true, ce := false
    hdr := h.word, payload := payload }

/-- A packet of a flow on the wire, or on the port's loopback, which never reaches the wire (R454); nothing is sent while the link
is down. -/
def State.emit (s : State) (f : Nat) (h : Silk) (payload : List Byte) : State :=
  let fl := s.flow f
  if !(s.eth fl.port).up then s else
  let s1 : State := if s.isLocal fl then { s with loopback := s.loopback ++ [s.loopPkt f h payload] }
    else { s with out := s.out ++ [Out.packet fl.port f h.word payload (s.frameOf f h payload)] }
  s1.setFlow f { fl with lastTx := s.time }

/-- The header fields every packet of a flow carries. -/
def Flow.header (fl : Flow) (step : Nat) : Silk :=
  { flow := fl.remote, prio := fl.prio, brood := fl.brood.toNat, instar := fl.instar.toNat, step := step }

/-- CREDIT_PSN: the oldest unfreed slot plus RX_SLOTS − 1 (R448). -/
def Flow.credit (fl : Flow) : Nat := (fl.rxFree + fl.rxSlots + 2 ^ 32 - 1) % 2 ^ 32
/-- SACK: bit i set when PSN ACK_PSN + 1 + i has been received. -/
def Flow.sack (fl : Flow) : Nat :=
  maskOf ((List.range 32).filter fun i => (tabGet none fl.rxHave ((fl.rxAck + 1 + i) % 2 ^ 32)).isSome)

/-- An ACK or a KEEPALIVE (R439, R449, R452, R456). -/
def State.sendAck (s : State) (f ty : Nat) : State :=
  let fl := s.flow f
  let h := { fl.header 0 with ty := ty, flags := if fl.ceSinceAck then 1 else 0, ackPsn := fl.rxAck, chunk := fl.sack, vote := fl.credit }
  let s1 := s.emit f h []
  s1.setFlow f { s1.flow f with creditSent := fl.credit, sinceAck := 0, ceSinceAck := false }

/-- OPEN or OPEN_ACK, with the initial CREDIT_PSN. -/
def State.sendOpen (s : State) (f ty : Nat) : State :=
  let fl := s.flow f
  let s1 := s.emit f { fl.header 0 with ty := ty, vote := fl.credit } []
  s1.setFlow f { s1.flow f with creditSent := fl.credit, lastOpen := if ty = 4 then s.time else fl.lastOpen }

/-- DEPART, once, on a flow a reset closes (R107, R457). -/
def State.sendDepart (s : State) (f : Nat) : State :=
  let fl := s.flow f
  if fl.state = .closed ∨ fl.state = .failed ∨ !(s.eth fl.port).up then s
  else (s.emit f { fl.header 0 with ty := 3 } []).count 0x6031 6 1

/-- CLOSE with the next sequence number, kept until it is acknowledged (R445). -/
def State.sendClose (s : State) (f : Nat) : State :=
  let fl := s.flow f
  let s1 := s.emit f { fl.header 0 with ty := 6, psn := fl.txNext } []
  s1.setFlow f { s1.flow f with
    closePsn := some fl.txNext, txNext := psnNext fl.txNext
    txOut := fl.txOut ++ [{ psn := fl.txNext, close := true, sentAt := s.time }] }

/-- The FLAGS of a DATA packet. -/
def TxPkt.flags (k : TxPkt) (psize : Nat) (retx : Bool) : Nat :=
  (if k.last then 2 else 0) + (if k.poison then 4 else 0) + (if retx then 8 else 0) + 16 * psize

/-- One DATA or CLOSE packet put on the wire. -/
def State.emitTx (s : State) (f : Nat) (k : TxPkt) (retx : Bool) : State :=
  let fl := s.flow f
  if k.close then s.emit f { fl.header 0 with ty := 6, psn := k.psn } []
  else s.emit f { fl.header k.step.toNat with ty := 0, flags := k.flags fl.psize retx, psn := k.psn, chunk := k.chunk.toNat,
                                              vote := k.vote.toNat } k.payload

/-- The payload of a packet sent again, read from its source once more; bytes that can no longer be read stay as they were (R450). -/
def State.reread (s : State) (f : Nat) (k : TxPkt) : TxPkt :=
  match (s.flow f).holder, k.source with
  | some i, some (va, n) =>
    match s.vread i va n with
    | .ok r => { k with payload := k.payload.take k.head ++ r.bytes ++ k.payload.drop (k.head + r.bytes.length), poison := r.poison.isSome }
    | .error _ => k
  | _, _ => k

/-- A packet that may leave in the spare class now: it has tokens, there is capacity, and its class is not paused (R245, R453, R455). -/
def State.mayResend (s : State) (f : Nat) (k : TxPkt) : Bool :=
  let fl := s.flow f
  !tabGet false (s.eth fl.port).paused fl.prio &&
  fl.holder.all fun i => s.ceilHas i 5 k.payload.length && s.capacityLeft 5 k.payload.length true

/-- A packet is to be sent again: DATA in its turn of the spare class, CLOSE as a control packet at once (R450, R453). -/
def State.markDue (s : State) (f psn : Nat) : State :=
  let fl := s.flow f
  match fl.txOut.find? fun k => k.psn == psn with
  | none => s
  | some k =>
    let s1 := if k.close then s.emitTx f k true else s
    s1.setFlow f { s1.flow f with txOut := fl.txOut.map fun d =>
      if d.psn == psn then { d with retransmitted := k.close, due := !k.close, fastAt := some s.time } else d }

/-- A packet sent again: counted, and served from the spare class, for whose turn it waits where it may not leave now (R245, R450,
R453). -/
def State.resend (s : State) (f psn : Nat) : State :=
  let fl := s.flow f
  match fl.txOut.find? fun k => k.psn == psn with
  | none => s
  | some k0 =>
    if k0.close || !s.mayResend f k0 then s.markDue f psn else
    let k := s.reread f k0
    let s1 := s.emitTx f k true
    let s2 := s1.setFlow f { s1.flow f with txOut := fl.txOut.map fun d =>
      if d.psn == psn then { d with retransmitted := true, fastAt := some s.time, due := false } else d }
    let s3 := s2.count 0x6031 1 1
    match fl.holder with
    | none => s3
    | some i => (s3.count 0x7091 (i + 1) 1).serveSpare i 5 k.payload.length true

/-! ## Receiving DATA (R448, R449, R455) -/

/-- The highest PSN received in order, moved over the packets held. -/
def ackAdvance (have_ : Tab (Option RxPkt)) : Nat → Nat → Nat
  | 0, a => a
  | n + 1, a => if (tabGet none have_ (psnNext a)).isSome then ackAdvance have_ n (psnNext a) else a

/-- The priority class's share of the receive buffer, and XOFF above 75 % (R455). -/
def State.bufferTake (s : State) (p prio n : Nat) : State :=
  let e := s.eth p
  let use := tabGet 0 e.bufUse prio + n
  let on := bitAt (s.entry 0x6008 (p + 1)) prio
  let cross := on && !tabGet false e.xoff prio && decide (3 * s.bufferShare < 4 * use)
  let s1 := s.setEth p { e with bufUse := tabSet 0 e.bufUse prio use, xoff := if cross then tabSet false e.xoff prio true else e.xoff }
  if cross then ({ s1 with out := s1.out ++ [Out.pfc p (s.entry 0x6009 (prio + 1)) true] }).count 0x6031 4 1 else s1

/-- A DATA packet accepted: its payload goes to slot PSN mod RX_SLOTS, whatever order packets arrive in. -/
def State.acceptData (s : State) (f : Nat) (h : Silk) (ce : Bool) (payload : List Byte) : State :=
  let fl := s.flow f
  let slotVa := fl.rxRing + (h.psn % fl.rxSlots) * psizeBytes fl.psize
  let s1 := match fl.holder with
    | none => s
    | some i => ((s.vwrite none i slotVa payload (bitAt h.flags 2)).1).drawSpans i true (lineSpans slotVa payload.length)
  let rx : RxPkt := { chunk := BitVec.ofNat 32 h.chunk, vote := BitVec.ofNat 32 h.vote, step := BitVec.ofNat 64 h.step,
                      last := bitAt h.flags 1, poison := bitAt h.flags 2, heldSince := s.time }
  let have_ := tabSet none fl.rxHave h.psn (some rx)
  let ack := ackAdvance have_ (have_.length + 1) fl.rxAck
  let gap := psnAfter h.psn ack
  let n := fl.sinceAck + 1
  let s2 := s1.setFlow f { s1.flow f with
    rxHave := have_, rxAck := ack, sinceAck := n, ceSinceAck := fl.ceSinceAck || ce
    firstUnacked := if fl.sinceAck = 0 then s.time else fl.firstUnacked }
  if gap || decide (s.entry 0x6010 9 ≤ n) then s2.sendAck f 1 else s2

/-- A slot freed by the flow's consumer, oldest first; the sender hears of it when it could be stalled (R448, R449). -/
def State.freeSlot (s : State) (f : Nat) : State :=
  let fl := s.flow f
  let stalled := fl.creditSent == fl.rxAck || decide ((tabGet none fl.rxHave fl.creditSent).isSome)
  let s1 := s.setFlow f { fl with rxHave := tabDel fl.rxHave fl.rxFree, rxFree := psnNext fl.rxFree }
  if stalled ∧ (s.eth fl.port).up then s1.sendAck f 1 else s1

/-! ## The sender (R450, R452) -/

/-- A round-trip sample of RFC 6298, with SRTT in eighths and RTTVAR in quarters (log 13). -/
def Flow.sample (fl : Flow) (lo hi r : Nat) : Flow :=
  let (a, v) := if !fl.sampled then (8 * r, 2 * r) else
    let d := if fl.srtt8 / 8 < r then r - fl.srtt8 / 8 else fl.srtt8 / 8 - r
    (fl.srtt8 + r - fl.srtt8 / 8, fl.rttvar4 + d - fl.rttvar4 / 4)
  { fl with srtt8 := a, rttvar4 := v, sampled := true, rto := max lo (min hi (a / 8 + v)) }

/-- What an ACK or KEEPALIVE says of the packets sent. -/
def State.ackFlow (s : State) (f : Nat) (h : Silk) : State :=
  let fl := s.flow f
  let acked := fun (k : TxPkt) => !psnAfter k.psn h.ackPsn
  let sacked := fun (k : TxPkt) =>
    let d := (k.psn + 2 ^ 32 - (h.ackPsn + 1) % 2 ^ 32) % 2 ^ 32
    decide (d < 32) && bitAt h.chunk d
  let done := fl.txOut.filter acked
  let left := (fl.txOut.filter fun k => !acked k).map fun k => if sacked k then { k with sacked := true, due := false } else k
  let fl1 := (done.filter fun k => !k.retransmitted && !k.close).foldl
    (fun fl k => fl.sample (s.entry 0x6010 5) (s.entry 0x6010 6) (s.time - k.sentAt)) fl
  let ece := bitAt h.flags 0
  let credit := if psnAfter h.vote fl.peerCredit then h.vote else fl.peerCredit
  let fl2 : Flow := { fl1 with
    txOut := left, peerCredit := credit, roundAcked := fl.roundAcked + done.length
    roundEce := fl.roundEce + (if ece then done.length else 0)
    retries := if done.isEmpty then fl.retries else 0, rtoFrom := if done.isEmpty then fl.rtoFrom else s.time }
  let s1 := s.setFlow f fl2
  let s2 := if ece then
      let s2 := s1.count 0x6031 3 1
      match fl.holder with | some i => s2.count 0x7093 (i + 1) 1 | none => s2
    else s1
  let lost := left.filter fun k => !k.sacked && !k.close &&
    left.any (fun d => d.sacked && decide ((d.psn + 2 ^ 32 - k.psn) % 2 ^ 32 < 2 ^ 31) && decide (3 ≤ (d.psn + 2 ^ 32 - k.psn) % 2 ^ 32)) &&
    (match k.fastAt with | none => true | some t => decide (t + fl2.srtt8 / 8 ≤ s.time))
  lost.foldl (fun s k => s.markDue f k.psn) s2

/-- Once per round trip: α and W follow the marks (R452). -/
def Flow.round (fl : Flow) (gLog now : Nat) : Flow :=
  if fl.roundAcked = 0 then { fl with roundStart := now } else
  let g := 2 ^ gLog
  let num := (g - 1) * fl.alphaNum * fl.roundAcked + fl.roundEce * fl.alphaDen
  let den := g * fl.alphaDen * fl.roundAcked
  let d := Nat.gcd num den
  let a := num / d
  let b := den / d
  { fl with alphaNum := a, alphaDen := b
            window := if fl.roundEce ≠ 0 then max 1 (fl.window * (2 * b - a) / (2 * b)) else min fl.rxSlots (fl.window + 1)
            roundAcked := 0, roundEce := 0, roundStart := now }

/-- A first transmission is allowed: the flow is OPEN or SILENT, its next hop known, window and credit leave room, and its class is
not paused (R444, R452, R455). -/
def State.canSend (s : State) (f : Nat) : Bool :=
  let fl := s.flow f
  (fl.state == .opened || fl.state == .silent) && fl.resolved && (s.eth fl.port).up && !tabGet false (s.eth fl.port).paused fl.prio &&
  (match fl.txQueue with
   | [] => false
   | _ => decide ((fl.txOut.filter fun k => !k.close).length < fl.window) && !psnAfter fl.txNext fl.peerCredit)

/-- The first queued packet of a flow sent for the first time. -/
def State.sendFirst (s : State) (f : Nat) : State :=
  let fl := s.flow f
  match fl.txQueue with
  | [] => s
  | k :: l =>
    let k1 : TxPkt := { k with psn := fl.txNext, sentAt := s.time }
    let s1 := s.setFlow f { fl with txQueue := l, txOut := fl.txOut ++ [k1], txNext := psnNext fl.txNext
                                    rtoFrom := if fl.txOut.isEmpty then s.time else fl.rtoFrom }
    (s1.emitTx f k1 false).charge (some k.cmd) 4 k.payload.length

/-! ## Closing -/

/-- A flow back to CLOSED: no context, the number still held. -/
def State.closeFlow (s : State) (f : Nat) : State := s.setFlow f { holder := (s.flow f).holder }

/-- Every flow of a slot closed by a reset, DEPART first unless the reset sends none. -/
def State.closeFlows (s : State) (slot : Option Nat) (depart : Bool) : State :=
  let fs := (s.flows.filter fun e => slot.isNone || e.2.holder == slot).map (·.1)
  let s1 := if depart then fs.foldl (fun s f => s.sendDepart f) s else s
  fs.foldl (fun s f => s.closeFlow f) s1

/-- A DATA chunk handed to a flow's transmitter, packet by packet. The spec gives no depth for the queue into the transmitter: it is
unbounded in the model, so this queue never runs out of credit (DESIGN CHOICE, log 91). -/
def State.queueTx (s : State) (f : Nat) (ks : List TxPkt) : State :=
  s.setFlow f { s.flow f with txQueue := (s.flow f).txQueue ++ ks }

end Sys2Proof.Machine
end

