-- ==== Sys2Proof/Machine/CollOps.lean ====
section
/-!
DEFINITION. Exchanges of the collective engine: their chunks on flows, their external events, and how they fail
(R472 to R474, R480 to R486, R553, R567).
-/
namespace Sys2Proof.Machine

/-! ## Ranges -/

/-- The first address of a range that is unmapped, or that may not be written (R267, R495). -/
def State.rangeFault (s : State) (slot va n : Nat) (write : Bool) : Option Stop :=
  if n = 0 then none else
  (List.range ((va + n - 1) / frameBytes - va / frameBytes + 1)).findSome? fun i =>
    let a := max va ((va / frameBytes + i) * frameBytes)
    match s.translate slot a with
    | none => some (0x0308, a)
    | some w => if write && (w.leaf.ro || (w.twinned && !w.alias_)) then some (0x0309, a) else none

/-- The network interface works: it is not in reset and not hung, and the device is past step 8 of its boot. -/
def State.nicLive (s : State) : Bool :=
  s.power.state == .running && decide (8 ≤ s.boot.stage) && s.boot.halt == 0 && !s.inReset .nic && !s.deviceReset && !s.nicHung
/-- A port of it whose link is up. -/
def State.portUp (s : State) (p : Nat) : Bool := s.nicLive && s.portExists p && (s.eth p).up

/-! ## Exchanges -/

/-- The running exchange of a command. -/
def State.coll (s : State) (id : Nat) : Option Coll := s.colls.find? fun c => c.cmd == id
/-- An exchange replaced, in its place. -/
def State.setColl (s : State) (c : Coll) : State := { s with colls := s.colls.map fun d => if d.cmd == c.cmd then c else d }
/-- An exchange begins, after those already running. -/
def State.addColl (s : State) (c : Coll) : State := { s with colls := s.colls ++ [c] }
/-- A stage hand-off that is over is counted, and a sending one's credit wait with it (R536). -/
def State.countHandoff (s : State) (c : Coll) : State :=
  if c.handoff = 0 then s else
  let s1 := s.count 0x7060 (c.slot + 1) 1
  if c.handoff ≠ 1 then s1 else
  let s2 := if c.thresh < c.creditWait then s1.count 0x7063 (c.slot + 1) 1 else s1
  s2.dictSet (dk 0x7064 (c.slot + 1)) (max (s2.entry 0x7064 (c.slot + 1)) (sat (2 ^ 32 - 1) c.creditWait))
/-- A command's exchange is over: its flags join COLL_FLAGS of the partition (R478). -/
def State.dropColl (s : State) (id : Nat) : State :=
  let s1 := match s.coll id with
    | some c => (s.setPart c.slot { s.part c.slot with collFlags := (s.part c.slot).collFlags ||| c.flags }).countHandoff c
    | none => s
  { s1 with colls := s1.colls.filter fun c => c.cmd != id }
/-- The exchange that takes the chunks of a flow with a TAG: the one that started first (R473, R492). -/
def State.collFor (s : State) (flow tag : Nat) : Option Coll := s.colls.find? fun c => c.flows.contains flow && c.tag == tag
/-- A member of an exchange. -/
def Coll.member (c : Coll) (i : Nat) : Member := tabGet {} c.members i
/-- The member on a flow. -/
def Coll.memberOn (c : Coll) (flow : Nat) : Nat :=
  match c.members.find? fun e => e.2.flow == flow && e.1 != c.self with
  | some e => e.1
  | none => 0
/-- The act with a key is done. -/
def Coll.isDone (c : Coll) (key : Nat) : Bool := !c.acts.any fun a => a.key == key
/-- An act may be done: what it needs is done, no earlier act of its direction and member stands before it, and a sender still
has the flow, which a retag takes from the exchanges before it (R561). -/
def Coll.ready (c : Coll) (a : Act) : Bool :=
  a.need.all c.isDone && (!a.tx || c.flows.contains (c.member a.peer).flow) &&
  ((a.kind == .copy || a.kind == .form) || (c.acts.find? fun b => b.tx == a.tx && b.peer == a.peer && b.kind != .copy && b.kind != .form) == some a)
/-- An act taken off the list. -/
def Coll.finish (c : Coll) (a : Act) : Coll := { c with acts := c.acts.filter fun b => b.key != a.key }

/-! ## Chunks received (R448, R472, R473) -/

/-- Consecutive packets from a PSN up to one with LAST or ABORT. -/
def chunkFrom (have_ : Tab (Option RxPkt)) : Nat → Nat → List (Nat × RxPkt)
  | 0, _ => []
  | n + 1, p =>
    match tabGet none have_ p with
    | none => []
    | some k => if k.last || bitAt k.vote.toNat 18 then [(p, k)] else (p, k) :: chunkFrom have_ n (psnNext p)
/-- The packets of the chunk at the head of a flow's ring, once all have come. -/
def Flow.headChunk (fl : Flow) : Option (List (Nat × RxPkt)) :=
  let l := chunkFrom fl.rxHave (fl.rxHave.length + 1) fl.rxFree
  match l.getLast? with
  | some e => if e.2.last || bitAt e.2.vote.toNat 18 then some l else none
  | none => none
/-- TAG and CSEQ of a chunk. -/
def RxPkt.tag (k : RxPkt) : Nat := bits k.chunk.toNat 0 8
def RxPkt.cseq (k : RxPkt) : Nat := bits k.chunk.toNat 8 24
def RxPkt.contrib (k : RxPkt) : Nat := bits k.vote.toNat 0 17
def RxPkt.nonfinite (k : RxPkt) : Bool := bitAt k.vote.toNat 17
def RxPkt.abort (k : RxPkt) : Bool := bitAt k.vote.toNat 18

/-- The payload of a packet in its ring slot, each packet with its poison. -/
def State.ringRead (s : State) (f psn : Nat) (k : RxPkt) : Option (List Byte × Bool) :=
  let fl := s.flow f
  let n := psizeBytes fl.psize
  match fl.holder with
  | none => none
  | some i =>
    match s.vread i (fl.rxRing + (psn % fl.rxSlots) * n) n with
    | .error _ => none
    | .ok r => some (r.bytes, k.poison || r.poison.isSome)

/-- Every packet of a chunk consumed. -/
def State.freeChunk (s : State) (f n : Nat) : State := (List.range n).foldl (fun s _ => s.freeSlot f) s

/-! ## Chunks sent -/

/-- A byte list cut into pieces of n bytes; an empty list is one empty piece. -/
def cutBytes (n : Nat) : Nat → List Byte → List (List Byte)
  | 0, bs => [bs]
  | fuel + 1, bs => if bs.length ≤ n then [bs] else bs.take n :: cutBytes n fuel (bs.drop n)
/-- A payload padded with zeros to the flow's size. -/
def padTo (n : Nat) (bs : List Byte) : List Byte := bs ++ List.replicate (n - bs.length) 0

/-- The VOTE field of R472. -/
def voteField (contrib : Nat) (nonfinite abort record : Bool) : W32 :=
  BitVec.ofNat 32 (contrib % 2 ^ 17 + (if nonfinite then 2 ^ 17 else 0) + (if abort then 2 ^ 18 else 0) + (if record then 2 ^ 19 else 0))
/-- The CHUNK field of R472. -/
def chunkField (tag cseq : Nat) : W32 := BitVec.ofNat 32 (tag % 256 + 256 * (cseq % 2 ^ 24))

/-- The payload of an exchange counts in the entries of the collective engine (R491). -/
def Coll.tallied (c : Coll) : Bool := c.kind == .collective || c.kind == .stepVote || c.kind == .resolve

/-- Where the payload of packet i of a chunk lies, when memory from va holds it after a head: address and length (R450). -/
def packetSource (from_ : Option (Nat × Nat)) (size i n : Nat) : Option (Nat × Nat) :=
  from_.map fun e => (e.1 + (i * size - e.2), n - (e.2 - i * size))

/-- A chunk of packets put into the transmitter of a flow, with the next CSEQ; what memory holds of it, from an address and after a
head, is named for a retransmission. -/
def State.sendChunk (s : State) (c : Coll) (f : Nat) (payloads : List (List Byte × Bool)) (vote : W32) (from_ : Option (Nat × Nat)) :
    State × Coll :=
  let n := tabGet 0 c.txSeq f
  let last := payloads.length - 1
  let size := psizeBytes (s.flow f).psize
  let ks := (payloads.zip (List.range payloads.length)).map fun e =>
    ({ chunk := chunkField c.tag n, vote := vote, step := c.step, last := e.2 == last, poison := e.1.2
       payload := padTo size e.1.1, cmd := c.cmd, counted := c.tallied, source := packetSource from_ size e.2 e.1.1.length
       head := (from_.map (·.2)).getD 0 - e.2 * size } : TxPkt)
  (s.queueTx f ks, { c with txSeq := tabSet 0 c.txSeq f (n + 1) })

/-! ## External events and deadlines (R480, R482) -/

/-- An external event of a command's exchange occurs now. -/
def State.peerTouch (s : State) (id : Nat) : State :=
  match s.cmd id with
  | none => s
  | some c => if c.peer then s.setCmd { c with peerAt := s.time } else s
/-- No event of the exchange is still to come: its deadline is known once its waits are met. -/
def State.peerDone (s : State) (id : Nat) : State :=
  match s.cmd id with
  | none => s
  | some c => if c.peer then s.setCmd (s.noteCmd { c with peer := false }) else s

/-- A packet of a command waits in a transmitter. -/
def State.queued (s : State) (c : Coll) : Bool := c.flows.any fun f => (s.flow f).txQueue.any fun k => k.cmd == c.cmd
/-- An act that receives a chunk from a peer. -/
def Act.receives (a : Act) : Bool := !a.tx && a.kind != .copy && a.kind != .form
/-- Payload bytes of an act on the wire. -/
def Coll.wireLen (c : Coll) (a : Act) : Nat :=
  match a.kind with
  | .sum | .last => a.n * (if c.wire = 0 then 4 else 2)
  | .move | .block => a.head.length + a.n
  | .vote | .result => 64
  | .sync => 1288
  | .copy | .form => 0
/-- Packets of the exchange that have come on a flow and are not consumed. -/
def State.heldFor (s : State) (c : Coll) (f : Nat) : List (Nat × RxPkt) :=
  ((s.flow f).rxHave.filterMap fun e => e.2.map fun k => (e.1, k)).filter fun e => bits e.2.chunk.toNat 0 8 == c.tag
/-- Bytes of a receiving act still to come, the packets held not counted off; the first held packet of a block names its length. -/
def State.actLeft (s : State) (c : Coll) (a : Act) (f : Nat) : Nat :=
  if a.kind = .block ∧ a.head.isEmpty then
    match (s.heldFor c f).find? fun e => bits e.2.chunk.toNat 8 24 == 0 with
    | some e => 4 + field (((s.ringRead f e.1 e.2).map (·.1)).getD []) 0 4
    | none => 2 ^ 32
  else c.wireLen a - a.lo * (if a.kind = .sum ∨ a.kind = .last then 0 else 1)
/-- Every chunk that a flow brings the exchange has come (R480). -/
def State.allCome (s : State) (c : Coll) (f : Nat) : Bool :=
  let due := (c.acts.filter fun a => a.receives && (c.member a.peer).flow == f).foldl (fun n a => n + ceilDiv (s.actLeft c a f) c.pkt) 0
  decide (due ≤ (s.heldFor c f).length)
/-- Credit for every packet the exchange has still to send on a flow has come (R480). -/
def State.allCredit (s : State) (c : Coll) (f : Nat) : Bool :=
  let fl := s.flow f
  let more := (c.acts.filter fun a => a.tx && (c.member a.peer).flow == f).foldl (fun n a => n + max 1 (ceilDiv (c.wireLen a) c.pkt)) 0
  let n := if more = 0 ∧ !fl.txQueue.any (fun k => k.cmd == c.cmd) then 0 else fl.txQueue.length + more
  n == 0 || !psnAfter ((fl.txNext + n - 1) % 2 ^ 32) fl.peerCredit
/-- The external events of the exchange have all occurred: its chunks have come, and its sends have credit (R480, R484). -/
def State.quiet (s : State) (c : Coll) : Bool := c.flows.all fun f => s.allCome c f && s.allCredit c f
/-- The last external event of an exchange noted, unless its command has further exchanges to come. -/
def State.settlePeer (s : State) (id : Nat) : State :=
  match s.coll id with
  | none => s
  | some c => if s.quiet c && c.kind != .moltResolve && c.kind != .moltMove then s.peerDone id else s

/-- The deadline of R482's order. -/
def Cmd.orderDeadline (c : Cmd) : Nat :=
  match c.deadline with
  | some d => d
  | none => c.extMet.foldl (fun m e => max m (e.2.getD 0)) (max c.doorbell c.peerAt) + recDeadline c.record

/-! ## Failure (R484 to R486, R553, R567) -/

/-- The abort chunks of a failed exchange: what it has queued and not sent is dropped first. -/
def State.sendAborts (s : State) (c : Coll) (rank status : Nat) : State :=
  c.flows.foldl (fun s f =>
    let fl := s.flow f
    let s1 := s.setFlow f { fl with txQueue := fl.txQueue.filter fun k => k.cmd != c.cmd }
    if fl.state = .opened ∨ fl.state = .silent then
      (s1.sendChunk c f [(bytesOfNat rank 4 ++ bytesOfNat status 2, false)] (voteField 1 false true false) none).1
    else s1) s

/-- The rank that stands for no departed member in an abort chunk. -/
def noRank : Nat := 0xFFFFFFFF

/-- What the failure of an exchange leaves of its partition. -/
def State.collUndone (s : State) (c : Coll) : State :=
  match c.kind with
  | .stepVote => s.toDoubt c.slot
  | .moltCommit => s.toDoubt c.slot
  | .moltResolve | .moltMove => s.moltUndone c.slot
  | _ => s

/-- A command of a slot fails: it is counted and COLLECTIVE_ABORTED is raised (R490, R491). -/
def State.collAborted (s : State) (id slot status detail rank : Nat) : State :=
  let s1 := (s.endCmd id status detail).count 0x7044 (slot + 1) 1
  s1.event 0x0406 (rank % 2 ^ 16 + 2 ^ 16 * status) (s1.slotFns slot)

/-- An exchange fails: its command ends and its peers are told. -/
def State.collFail (s : State) (c : Coll) (status detail rank : Nat) : State :=
  let s1 := (s.sendAborts c rank status).dropColl c.cmd
  let s2 := (s1.collAborted c.cmd c.slot status detail rank).collUndone c
  { s2 with molts := s2.molts.filter fun m => m.cmd != c.cmd }

/-- An exchange ends early with a status that R486 does not name: no abort chunk. -/
def State.collStop (s : State) (c : Coll) (status detail : Nat) : State :=
  let s1 := c.flows.foldl (fun s f => s.setFlow f { s.flow f with txQueue := (s.flow f).txQueue.filter fun k => k.cmd != c.cmd }) s
  let s2 := ((s1.dropColl c.cmd).endCmd c.cmd status detail).collUndone c
  { s2 with molts := s2.molts.filter fun m => m.cmd != c.cmd }

/-- Commands of other chapters on a flow that has FAILED (R447). -/
def State.flowOwnersFail (s : State) (f : Nat) : State :=
  match (s.flow f).cmd.bind s.cmd with
  | some c => if (c.opcode = 0x40 ∨ c.opcode = 0x41) ∧ c.phase = .running then s.endCmd c.id 0x0406 f else s
  | none => s

/-- A MOLT with no exchange under way fails (R567). -/
def State.moltFail (s : State) (m : Molt) (status detail : Nat) : State :=
  let s1 := (s.endCmd m.cmd status detail).moltUndone m.slot
  { s1 with molts := s1.molts.filter fun x => x.cmd != m.cmd }

/-- The member of a molt on a flow, by rank. -/
def Molt.rankOn (m : Molt) (f : Nat) : Option Nat :=
  (((m.old.ranks ++ m.new.ranks).find? fun r => r.flow == f).map (·.rank)).or
    ((((m.vgroup ++ m.rgroup).map (·.2)).find? fun x => x.flow == f).map (·.rank))

/-- The users of a flow that has become SILENT or FAILED: exchanges and molts fail (R485). -/
def State.flowLost (s : State) (f : Nat) : State :=
  let s1 := (s.colls.filter fun c => c.flows.contains f).foldl (fun s c =>
    s.collFail c 0x0401 (c.member (c.memberOn f)).rank (c.member (c.memberOn f)).rank) s
  s1.molts.foldl (fun s m =>
    match m.rankOn f with
    | some r => if (s.coll m.cmd).isNone && m.phase != .boundary then s.moltFail m 0x0401 r else s
    | none => s) s1

/-! ## Chunks that wait for their command (R491) -/

/-- A slot holds a delivered chunk that no running exchange takes. -/
def State.heldChunk (s : State) (slot : Nat) : Bool :=
  s.flows.any fun e => e.2.holder == some slot &&
    (match e.2.headChunk with
     | some ((_, k) :: _) => (s.collFor e.1 k.tag).isNone
     | _ => false)

/-- A sending hand-off has a chunk to send and no credit (R536). -/
def State.creditWaiting (s : State) (c : Coll) : Bool :=
  c.handoff == 1 && (s.queued c || c.acts.any (·.tx)) && c.flows.any fun f => psnAfter (s.flow f).txNext (s.flow f).peerCredit
/-- A receiving hand-off waits for its first chunk (R536). -/
def State.inputWaiting (s : State) (c : Coll) : Bool :=
  c.handoff == 2 && c.acts.any (fun a => a.kind == .block && a.lo == 0) && c.flows.all fun f =>
    (match (s.flow f).headChunk with | some ((_, k) :: _) => k.tag != c.tag | _ => true)

/-- What the collective engine counts by the device µs (R491, R536). -/
def State.collTick (s : State) : State :=
  let s1 : State := { s with colls := s.colls.map fun c => if s.creditWaiting c then { c with creditWait := c.creditWait + 1 } else c }
  (List.range 16).foldl (fun t i =>
    let mine := s.colls.filter fun c => c.slot == i
    let t1 := if s.heldChunk i then t.count 0x7045 (i + 1) 1 else t
    let t2 := if mine.any s.creditWaiting then t1.count 0x7061 (i + 1) 1 else t1
    if mine.any s.inputWaiting then t2.count 0x7062 (i + 1) 1 else t2) s1

end Sys2Proof.Machine
end

