-- ==== Sys2Proof/Machine/Groups.lean ====
section
/-!
DEFINITION. Groups of a collective: member tables, the members each algorithm reaches, their flows, and the chunks each
member sends and receives in order (R463 to R471, R488).
-/
namespace Sys2Proof.Machine

/-! ## Members (R463, R464) -/

/-- The members of a table. -/
def membersOf (bs : List Byte) (n : Nat) : Tab Member :=
  ((List.range n).map fun i => (i, ({ rank := field bs (8 * i) 4, flow := field bs (8 * i + 4) 2 } : Member))).filter fun e => decide (e.2 ≠ {})
/-- The first entry of a table out of its ranges. -/
def memberBad (bs : List Byte) (n : Nat) : Option Nat :=
  (List.range n).find? fun i => decide (65536 ≤ field bs (8 * i) 4) || field bs (8 * i + 6) 2 != 0

/-- A flow can carry an exchange: held by the partition, and OPEN, PAUSED or SILENT. -/
def State.flowUsable (s : State) (slot f : Nat) : Bool :=
  decide (f < 16384) && (s.flow f).holder == some slot &&
  ((s.flow f).state == .opened || (s.flow f).state == .paused || (s.flow f).state == .silent)

/-- Checks 3 and 4 of R464 over the members reached: usable flows of one BROOD and one payload size, then of one INSTAR. -/
def State.groupFault (s : State) (slot : Nat) (ms : Tab Member) (reach : List Nat) (instar : W32) (brood : Option W32) : Option Stop :=
  let fl := fun (i : Nat) => s.flow (tabGet {} ms i).flow
  let b := match brood with | some b => b | none => (fl (reach.headD 0)).brood
  let z := (fl (reach.headD 0)).psize
  match reach.find? fun i => !s.flowUsable slot (tabGet {} ms i).flow || (fl i).brood != b || (fl i).psize != z with
  | some i => some (0x0408, 65536 + i)
  | none => (reach.find? fun i => (fl i).instar != instar).map fun i => (0x0402, i)

/-! ## Who is reached (R465, R467 to R469) -/

/-- Trailing zero bits. -/
def ctz : Nat → Nat → Nat
  | 0, _ => 0
  | k + 1, p => if p % 2 = 1 then 0 else ctz k (p / 2) + 1
/-- The root of a tree of n positions. -/
def treeRoot (n : Nat) : Nat := 2 ^ Nat.log2 n
/-- The parent of a position, none for the root. -/
def treeParent (n : Nat) : Nat → Nat → Option Nat
  | 0, _ => none
  | k + 1, p =>
    if p = treeRoot n then none else
    let h := ctz 32 p
    let q := (p ||| 2 ^ (h + 1)) - 2 ^ h
    if q ≤ n then some q else treeParent n k q
/-- The position of a member in tree A or B. -/
def treePos (n self : Nat) (b : Bool) : Nat := if b then (self + 1) % n + 1 else self + 1
/-- The member at a position. -/
def treeMember (n p : Nat) (b : Bool) : Nat := if b then (p + n - 2) % n else p - 1
/-- The parent of a member. -/
def treeUp (n self : Nat) (b : Bool) : Option Nat := (treeParent n 32 (treePos n self b)).map fun p => treeMember n p b
/-- The children of a member, lower position first. -/
def treeDown (n self : Nat) (b : Bool) : List Nat :=
  (((List.range n).map (· + 1)).filter fun p => treeParent n 32 p == some (treePos n self b)).map fun p => treeMember n p b

/-- The members reached by an algorithm: 0 RING, 1 TREE, 2 HD, 3 DIRECT. -/
def reached (alg n self : Nat) : List Nat :=
  if n ≤ 1 then [] else
  let l := match alg with
    | 0 => [(self + n - 1) % n, (self + 1) % n]
    | 1 => (treeUp n self false).toList ++ treeDown n self false ++ (treeUp n self true).toList ++ treeDown n self true
    | 2 => (List.range (Nat.log2 n)).map fun k => self ^^^ 2 ^ k
    | _ => (List.range n).filter (· != self)
  ((List.range n).filter fun i => l.contains i)
/-- A power of two. -/
def isPower (n : Nat) : Bool := n == 2 ^ Nat.log2 n

/-! ## Keys and grids -/

/-- The key of a chunk: phase, step or tree, shard or child, and its number. -/
def actKey (phase step shard chunk : Nat) : Nat := ((phase * 65536 + step) * 131072 + shard) * 2 ^ 40 + chunk
/-- A range of total items cut into pieces of per: number, first, count. -/
def grid (total per : Nat) : List (Nat × Nat × Nat) :=
  (List.range (ceilDiv total per)).map fun j => (j, j * per, min per (total - j * per))
/-- The pieces of a grid of per items that cover items lo to lo + n − 1. -/
def covering (per lo n : Nat) : List Nat :=
  if n = 0 ∨ per = 0 then [] else (List.range ((lo + n - 1) / per - lo / per + 1)).map fun j => lo / per + j

/-- Bytes of an element of INPUT, of WIRE and of OUTPUT. -/
def inputBytes (k : Nat) : Nat := if k = 0 then 4 else if k = 3 then 1 else 2
def wireBytes (k : Nat) : Nat := if k = 0 then 4 else 2
/-- The format inspected in an INPUT or OUTPUT element: 0 none, 1 FP32, 2 BF16, 3 FP16. -/
def formatOf (k : Nat) : Nat := if k = 3 then 0 else k + 1

/-- Elements of a chunk of partial sums, and of one of final values. -/
def Coll.sumElems (c : Coll) : Nat := c.chunk / wireBytes c.wire
def Coll.outElems (c : Coll) : Nat := c.chunk / wireBytes c.output
/-- Where the final value of an element goes. -/
def Coll.finalVa (c : Coll) (e : Nat) : Nat :=
  c.dst + (if c.op = 0 then e - c.self * c.block else e) * wireBytes c.output

/-! ## Reduce-scatter and all-gather (R466, R467, R469) -/

/-- A partial sum of elements lo to lo + m − 1 sent. -/
def Coll.txSum (c : Coll) (key peer lo m : Nat) (need : List Nat) : Act :=
  { key := key, tx := true, peer := peer, kind := .sum, lo := lo, n := m, va := c.finalVa lo, need := need }
/-- A partial sum received; the last one is final after it. -/
def Coll.rxSum (c : Coll) (key peer lo m : Nat) (last : Bool) (need : List Nat) : Act :=
  { key := key, tx := false, peer := peer, kind := if last then .last else .sum, lo := lo, n := m, va := c.finalVa lo, need := need }
/-- Bytes of memory sent, or received. -/
def moveAct (key : Nat) (tx : Bool) (peer va n fmt : Nat) (need : List Nat) : Act :=
  { key := key, tx := tx, peer := peer, kind := .move, n := n, va := va, need := need, fmt := fmt }

/-- Reduce-scatter in a ring. -/
def Coll.ringReduce (c : Coll) : List Act :=
  (List.range (c.n - 1)).flatMap fun k =>
    let t := (c.self + 2 * c.n - k - 1) % c.n
    let r := (c.self + 2 * c.n - k - 2) % c.n
    (grid c.block c.sumElems).flatMap fun g =>
      [c.txSum (actKey 0 k t g.1) ((c.self + 1) % c.n) (t * c.block + g.2.1) g.2.2 (if k = 0 then [] else [actKey 1 (k - 1) t g.1]),
       c.rxSum (actKey 1 k r g.1) ((c.self + c.n - 1) % c.n) (r * c.block + g.2.1) g.2.2 (k + 2 == c.n) []]

/-- Reduce-scatter by halving. -/
def Coll.hdReduce (c : Coll) : List Act :=
  let l := Nat.log2 c.n
  (List.range l).flatMap fun k =>
    let bit := l - 1 - k
    let partner := c.self ^^^ 2 ^ bit
    let mine := (List.range c.n).filter fun j => j / 2 ^ (bit + 1) == c.self / 2 ^ (bit + 1)
    mine.flatMap fun j => (grid c.block c.sumElems).map fun g =>
      let before := (List.range k).map fun i => actKey 1 i j g.1
      if bitAt j bit == bitAt c.self bit then c.rxSum (actKey 1 k j g.1) partner (j * c.block + g.2.1) g.2.2 (k + 1 == l) before
      else c.txSum (actKey 0 k j g.1) partner (j * c.block + g.2.1) g.2.2 before

/-- What an all-gather moves: shard length in elements, element bytes, format, the keys own chunks need, where own chunks lie. -/
structure Gathered where
  elems : Nat
  size : Nat
  fmt : Nat
  need : Nat → Nat → List Nat
  own : Nat

/-- A chunk of a shard: its bytes at the shard's own place, or in DST. -/
def Coll.shardVa (c : Coll) (g : Gathered) (shard off : Nat) (own : Bool) : Nat :=
  if own && shard == c.self then g.own + off * g.size else c.dst + (shard * g.elems + off) * g.size

/-- All-gather in a ring. -/
def Coll.ringGather (c : Coll) (g : Gathered) : List Act :=
  (List.range (c.n - 1)).flatMap fun k =>
    let t := (c.self + 2 * c.n - k) % c.n
    let r := (c.self + 2 * c.n - k - 1) % c.n
    (grid g.elems (c.chunk / g.size)).flatMap fun p =>
      [moveAct (actKey 2 k t p.1) true ((c.self + 1) % c.n) (c.shardVa g t p.2.1 true) (p.2.2 * g.size) g.fmt
         (if k = 0 then g.need p.2.1 p.2.2 else [actKey 3 (k - 1) t p.1]),
       moveAct (actKey 3 k r p.1) false ((c.self + c.n - 1) % c.n) (c.shardVa g r p.2.1 false) (p.2.2 * g.size) g.fmt []]

/-- All-gather by doubling. -/
def Coll.hdGather (c : Coll) (g : Gathered) : List Act :=
  (List.range (Nat.log2 c.n)).flatMap fun k =>
    let partner := c.self ^^^ 2 ^ k
    (List.range c.n).flatMap fun j => (grid g.elems (c.chunk / g.size)).flatMap fun p =>
      (if j / 2 ^ k = c.self / 2 ^ k then
        [moveAct (actKey 2 k j p.1) true partner (c.shardVa g j p.2.1 true) (p.2.2 * g.size) g.fmt
          (if j = c.self then g.need p.2.1 p.2.2 else [actKey 3 (Nat.log2 (c.self ^^^ j)) j p.1])]
       else []) ++
      (if j / 2 ^ k = partner / 2 ^ k then
        [moveAct (actKey 3 k j p.1) false partner (c.shardVa g j p.2.1 false) (p.2.2 * g.size) g.fmt []]
       else [])

/-! ## All-reduce in two trees (R468) -/

/-- The elements of tree A or B: first, count. -/
def Coll.treeRange (c : Coll) (b : Bool) : Nat × Nat :=
  let total := c.n * c.block
  if b then (ceilDiv total 2, total - ceilDiv total 2) else (0, ceilDiv total 2)
/-- 0 for tree A, 1 for tree B. -/
def treeNo (b : Bool) : Nat := if b then 1 else 0

/-- Partial sums up one tree. -/
def Coll.treeReduce (c : Coll) (b : Bool) : List Act :=
  let up := treeUp c.n c.self b
  let down := treeDown c.n c.self b
  (grid (c.treeRange b).2 c.sumElems).flatMap fun g =>
    let lo := (c.treeRange b).1 + g.2.1
    ((down.zip (List.range down.length)).map fun e =>
      c.rxSum (actKey 1 (treeNo b) e.2 g.1) e.1 lo g.2.2 (up.isNone && e.2 + 1 == down.length)
        ((List.range e.2).map fun i => actKey 1 (treeNo b) i g.1)) ++
    (up.toList.map fun p => c.txSum (actKey 0 (treeNo b) 0 g.1) p lo g.2.2
      ((List.range down.length).map fun i => actKey 1 (treeNo b) i g.1))

/-- Final values down one tree. -/
def Coll.treeSpread (c : Coll) (b : Bool) : List Act :=
  let up := treeUp c.n c.self b
  let down := treeDown c.n c.self b
  (grid (c.treeRange b).2 c.outElems).flatMap fun g =>
    let va := c.finalVa ((c.treeRange b).1 + g.2.1)
    let n := g.2.2 * wireBytes c.output
    (up.toList.map fun p => moveAct (actKey 3 (treeNo b) 0 g.1) false p va n (formatOf c.output) []) ++
    ((down.zip (List.range down.length)).map fun e =>
      moveAct (actKey 2 (treeNo b) e.2 g.1) true e.1 va n (formatOf c.output)
        (if up.isSome then [actKey 3 (treeNo b) 0 g.1]
         else (covering c.sumElems g.2.1 g.2.2).map fun j => actKey 1 (treeNo b) (down.length - 1) j))

/-! ## Transfers of a known length, and blocks (R471, R518, R564) -/

/-- A transfer sent in chunks, its head in the first payload. -/
def sendActs (chunk base peer va n fmt : Nat) (head : List Byte) : List Act :=
  let first := min n (chunk - head.length)
  { moveAct base true peer va first fmt [] with head := head } ::
  (grid (n - first) chunk).map fun g => moveAct (base + 1 + g.1) true peer (va + first + g.2.1) g.2.2 fmt []
/-- A transfer received. -/
def recvAct (base peer va n fmt : Nat) (head : List Byte) : Act := { moveAct base false peer va n fmt [] with head := head }

/-- The chunks of an ALL_TO_ALL, with the send lengths by member. -/
def Coll.exchangeBlocks (c : Coll) (counts : List Nat) : List Act :=
  { key := actKey 4 0 0 0, kind := .copy, src := c.src + c.self * c.block, va := c.dst + c.self * c.block, n := counts.getD c.self 0,
    fmt := formatOf c.input } ::
  ((List.range c.n).filter (· != c.self)).flatMap fun j =>
    sendActs c.chunk (actKey 2 0 j 0) j (c.src + j * c.block) (counts.getD j 0) (formatOf c.input) (bytesOfNat (counts.getD j 0) 4) ++
    [{ key := actKey 3 0 j 0, tx := false, peer := j, kind := .block, va := c.dst + j * c.block, fmt := formatOf c.input }]

/-! ## Vote records (R488) -/

/-- A vote under HD: each step sends the record so far, then combines the partner's. -/
def voteHd (n self : Nat) : List Act :=
  (List.range (Nat.log2 n)).flatMap fun k =>
    [{ key := actKey 0 k 0 0, tx := true, peer := self ^^^ 2 ^ k, kind := .vote, need := if k = 0 then [] else [actKey 1 (k - 1) 0 0] },
     { key := actKey 1 k 0 0, tx := false, peer := self ^^^ 2 ^ k, kind := .vote, need := [actKey 0 k 0 0] }]
/-- A vote under TREE, in tree A: records combine upward, the root's goes down. -/
def voteTree (n self : Nat) : List Act :=
  let up := treeUp n self false
  let down := treeDown n self false
  ((down.zip (List.range down.length)).map fun e =>
    ({ key := actKey 1 0 e.2 0, tx := false, peer := e.1, kind := .vote, need := (List.range e.2).map fun i => actKey 1 0 i 0 } : Act)) ++
  (up.toList.map fun p => ({ key := actKey 0 0 0 0, tx := true, peer := p, kind := .vote,
                             need := (List.range down.length).map fun i => actKey 1 0 i 0 } : Act)) ++
  (up.toList.map fun p => ({ key := actKey 3 0 0 0, tx := false, peer := p, kind := .result } : Act)) ++
  ((down.zip (List.range down.length)).map fun e =>
    ({ key := actKey 2 0 e.2 0, tx := true, peer := e.1, kind := .result,
       need := if up.isSome then [actKey 3 0 0 0] else (List.range down.length).map fun i => actKey 1 0 i 0 } : Act))
/-- The acts of a vote: ALG 1 TREE, else HD. -/
def voteActs (alg n self : Nat) : List Act := if n ≤ 1 then [] else if alg = 1 then voteTree n self else voteHd n self

/-! ## The acts of a COLLECTIVE (R465 to R471) -/

/-- Final values gathered after a reduce-scatter. -/
def Coll.finals (c : Coll) (lastStep : Nat) : Gathered :=
  { elems := c.block, size := wireBytes c.output, fmt := formatOf c.output, own := c.dst + c.self * c.block * wireBytes c.output
    need := fun lo m => (covering c.sumElems lo m).map fun j => actKey 1 lastStep c.self j }
/-- Shards gathered from SRC. -/
def Coll.shards (c : Coll) : Gathered :=
  { elems := c.block, size := inputBytes c.input, fmt := formatOf c.input, own := c.src, need := fun _ _ => [] }
/-- The own shard of an ALL_GATHER put in its place. -/
def Coll.ownShard (c : Coll) : Act :=
  { key := actKey 4 0 0 0, kind := .copy, src := c.src, va := c.dst + c.self * c.block * inputBytes c.input,
    n := c.block * inputBytes c.input, fmt := formatOf c.input }
/-- With one member the output is formed locally. -/
def Coll.formAct (c : Coll) : Act := { key := actKey 4 0 0 0, kind := .form, n := c.block, va := c.dst }

/-- Every act of a COLLECTIVE. -/
def Coll.plan (c : Coll) (alg : Nat) (counts : List Nat) : List Act :=
  match c.op, alg with
  | 3, _ => c.exchangeBlocks counts
  | 1, 0 => c.ownShard :: c.ringGather c.shards
  | 1, _ => c.ownShard :: c.hdGather c.shards
  | 0, a => if c.n = 1 then [c.formAct] else if a = 0 then c.ringReduce else c.hdReduce
  | _, a =>
    if c.n = 1 then [c.formAct]
    else if a = 0 then c.ringReduce ++ c.ringGather (c.finals (c.n - 2))
    else if a = 2 then c.hdReduce ++ c.hdGather (c.finals (Nat.log2 c.n - 1))
    else c.treeReduce false ++ c.treeReduce true ++ c.treeSpread false ++ c.treeSpread true

/-- Payload bytes of an act, in whole packets. -/
def Coll.actBytes (c : Coll) (a : Act) : Nat :=
  if c.pkt = 0 then 0 else ceilDiv (c.wireLen a) c.pkt * c.pkt
/-- What a member sends, and what it receives; of blocks to come it knows the bound of R465. -/
def Coll.txBytes (c : Coll) : Nat := (c.acts.filter fun a => a.tx).foldl (fun n a => n + c.actBytes a) 0
def Coll.rxBytes (c : Coll) : Nat :=
  if c.op = 3 then c.txBytes else (c.acts.filter fun a => !a.tx).foldl (fun n a => n + c.actBytes a) 0

end Sys2Proof.Machine
end

