-- ==== Sys2Proof/Machine/Sha.lean ====
section
/-!
DEFINITION. SHA-256 (FIPS 180-4), which the spec uses for profile keys, identity, measurements and shard digests (R6). Its
constants are computed from what that standard says they are: fractional parts of roots of the first primes.
-/
namespace Sys2Proof.Machine.Sha

/-! ## The constants -/

/-- The largest x below 2^n with x^e at most m, bit by bit from the top. -/
def rootBits (e m : Nat) : Nat → Nat → Nat
  | 0, x => x
  | n + 1, x => rootBits e m n (if (x + 2 ^ n) ^ e ≤ m then x + 2 ^ n else x)
/-- The first 32 bits of the fractional part of the e-th root of a number below 512. -/
def fraction (e p : Nat) : W32 := BitVec.ofNat 32 (rootBits e (p * 2 ^ (32 * e)) 37 0)
/-- The first n primes of a list of candidates, those found so far given. -/
def sieve : Nat → List Nat → List Nat → List Nat
  | 0, _, found => found
  | _, [], found => found
  | n + 1, p :: l, found => if found.any (fun q => p % q == 0) then sieve (n + 1) l found else sieve n l (found ++ [p])
/-- The primes below 312: there are 64. -/
def primes : List Nat := sieve 64 (List.range' 2 310) []
/-- One constant for each of the 64 rounds. -/
def constants : List W32 := primes.map (fraction 3)
/-- The hash value before the first block. -/
def start : List W32 := (primes.take 8).map (fraction 2)

/-! ## Rounds -/

/-- Three rotations combined; the third word is given, since the schedule shifts it. -/
def mix (x : W32) (i j : Nat) (y : W32) : W32 := x.rotateRight i ^^^ x.rotateRight j ^^^ y

/-- A round on eight words: two are new, the others move one place. -/
def turn (add : W32) : List W32 → List W32
  | [a, b, c, d, e, f, g, h] =>
    let t := h + mix e 6 11 (e.rotateRight 25) + (g ^^^ (e &&& (f ^^^ g))) + add
    [t + mix a 2 13 (a.rotateRight 22) + ((a &&& b) ||| (c &&& (a ||| b))), a, b, c, d + t, e, f, g]
  | v => v

/-- The rounds that remain, with the window of the next sixteen words of the schedule. -/
def rounds : List W32 → List W32 → List W32 → List W32
  | [], _, v => v
  | k :: ks, [], v => rounds ks [] (turn k v)
  | k :: ks, w :: win, v =>
    let next := w + win.getD 8 0 + mix (win.getD 0 0) 7 18 (win.getD 0 0 >>> 3) + mix (win.getD 13 0) 17 19 (win.getD 13 0 >>> 10)
    rounds ks (win ++ [next]) (turn (k + w) v)

/-- A block of sixteen words taken into the hash value. -/
def absorb (v block : List W32) : List W32 := List.zipWith (· + ·) v (rounds constants block v)

/-! ## Messages -/

/-- The n bytes of a number, most significant first. -/
def bigEndian (x n : Nat) : List Byte := (List.range n).map fun i => BitVec.ofNat 8 (x / 256 ^ (n - 1 - i))
/-- The number that bytes spell, most significant first. -/
def number (bs : List Byte) : Nat := bs.foldl (fun x b => 256 * x + b.toNat) 0
/-- A list in pieces of n, at most fuel of them. -/
def cut {α : Type} (n : Nat) : Nat → List α → List (List α)
  | 0, _ => []
  | fuel + 1, l => if l.isEmpty then [] else l.take n :: cut n fuel (l.drop n)

/-- A message with its one bit, its zeros and its length in bits, a whole number of blocks. -/
def padded (m : List Byte) : List Byte :=
  m ++ 0x80#8 :: List.replicate (63 - (m.length + 8) % 64) 0 ++ bigEndian (8 * m.length) 8

/-- The digest as 32 bytes. -/
def sha256 (m : List Byte) : List Byte :=
  let words := (cut 4 (m.length + 72) (padded m)).map fun w => BitVec.ofNat 32 (number w)
  ((cut 16 (m.length + 72) words).foldl absorb start).flatMap fun w => bigEndian w.toNat 4

end Sys2Proof.Machine.Sha
end

