-- ==== Sys2Proof/Machine/Flags.lean ====
section
/-!
DEFINITION. The six arithmetic flags, in the bit order of R390.
-/
namespace Sys2Proof.Machine

/-- A set of flags. -/
abbrev Flags := BitVec 6

def flNone : Flags := 0
def flInvalid : Flags := 1
def flDivZero : Flags := 2
def flOverflow : Flags := 4
def flUnderflow : Flags := 8
def flInexact : Flags := 16
def flNonfinite : Flags := 32

/-- A flag when a condition holds. -/
def flIf (b : Bool) (f : Flags) : Flags := if b then f else 0

/-- An infinity or a NaN as an FP32 word. -/
def isNonfinite (w : W32) : Bool := (w >>> 23) &&& 0xFF#32 == 0xFF#32

/-- NONFINITE for an element written. -/
def flWritten (w : W32) : Flags := flIf (isNonfinite w) flNonfinite

end Sys2Proof.Machine
end

