-- ==== Sys2Proof/Machine/Float.lean ====
section
/-!
DEFINITION. The arithmetic of the engines: formats, exact values, rounding to nearest even and stochastic rounding,
FP32 operations with their flags, conversions, MX blocks, and the functions of R394 (R315, R320, R389 to R394, R400 to R412).
An exact value is a sign, a magnitude and an exponent: ± m × 2^e.
-/
namespace Sys2Proof.Machine

/-! ## Formats (R400) -/

/-- A floating-point format: mantissa and exponent bits, bias, how its top exponent is used, and its largest finite code. -/
structure Fmt where
  man : Nat
  exp : Nat
  bias : Nat
  /-- The top exponent field holds infinity and NaN, as IEEE 754 states. -/
  ieee : Bool
  /-- All ones is a NaN though the format has no infinity. -/
  nanTop : Bool := false
  maxFinite : Nat
deriving DecidableEq, Repr

def fmtE2M1 : Fmt := { man := 1, exp := 2, bias := 1, ieee := false, maxFinite := 7 }
def fmtE2M3 : Fmt := { man := 3, exp := 2, bias := 1, ieee := false, maxFinite := 31 }
def fmtE3M2 : Fmt := { man := 2, exp := 3, bias := 3, ieee := false, maxFinite := 31 }
def fmtE4M3 : Fmt := { man := 3, exp := 4, bias := 7, ieee := false, nanTop := true, maxFinite := 126 }
def fmtE5M2 : Fmt := { man := 2, exp := 5, bias := 15, ieee := true, maxFinite := 123 }
def fmtBF16 : Fmt := { man := 7, exp := 8, bias := 127, ieee := true, maxFinite := 0x7F7F }
def fmtFP16 : Fmt := { man := 10, exp := 5, bias := 15, ieee := true, maxFinite := 0x7BFF }
def fmtFP32 : Fmt := { man := 23, exp := 8, bias := 127, ieee := true, maxFinite := 0x7F7FFFFF }

/-- The code of infinity of an IEEE format. -/
def Fmt.inf (f : Fmt) : Nat := (2 ^ f.exp - 1) * 2 ^ f.man
/-- The canonical NaN of R402. -/
def Fmt.nan (f : Fmt) : Nat := f.inf + 2 ^ (f.man - 1)
/-- The exponent of the smallest subnormal. -/
def Fmt.qmin (f : Fmt) : Int := 1 - f.bias - f.man
/-- The sign bit of a code. -/
def Fmt.signBit (f : Fmt) (neg : Bool) : Nat := if neg then 2 ^ (f.man + f.exp) else 0

/-- What a code denotes. -/
inductive FVal
  | nan (signalling : Bool)
  | inf (neg : Bool)
  | fin (neg : Bool) (m : Nat) (e : Int)
deriving DecidableEq, Repr

/-- The value of a code of a format. -/
def Fmt.decode (f : Fmt) (x : Nat) : FVal :=
  let neg := bitAt x (f.man + f.exp)
  let ex := bits x f.man f.exp
  let mn := bits x 0 f.man
  if f.ieee && ex == 2 ^ f.exp - 1 then (if mn = 0 then .inf neg else .nan (!bitAt mn (f.man - 1)))
  else if f.nanTop && ex == 2 ^ f.exp - 1 && mn == 2 ^ f.man - 1 then .nan false
  else if ex = 0 then .fin neg mn f.qmin
  else .fin neg (mn + 2 ^ f.man) (f.qmin + (ex - 1 : Nat))

def decode32 (w : W32) : FVal := fmtFP32.decode w.toNat

/-! ## Rounding -/

/-- Bits of a magnitude. -/
def bitLen (m : Nat) : Nat := if m = 0 then 0 else Nat.log2 m + 1

/-- m × 2^e cut at exponent q: the units kept, and the remainder over its weight 2^shift; sticky marks a nonzero rest below. -/
def cutAt (m : Nat) (e q : Int) : Nat × Nat × Nat :=
  if q ≤ e then (m * 2 ^ (e - q).toNat, 0, 0)
  else (m / 2 ^ (q - e).toNat, m % 2 ^ (q - e).toNat, (q - e).toNat)

/-- To nearest, ties to even. -/
def nearUp (k : Nat × Nat × Nat) (sticky : Bool) : Bool :=
  let twice := 2 * k.2.1
  let full := 2 ^ k.2.2
  if k.2.2 = 0 then false
  else decide (full < twice) || (decide (twice = full) && (sticky || k.1 % 2 == 1))

/-- The exponent a rounding of m × 2^e in a format keeps its last bit at. -/
def Fmt.cutExp (f : Fmt) (m : Nat) (e : Int) : Int := max (e + bitLen m - (f.man + 1 : Nat)) f.qmin

/-- The code of n × 2^q, q at least the smallest subnormal's exponent and n of at most man + 1 bits or a power of two above. -/
def Fmt.encode (f : Fmt) (n : Nat) (q : Int) : Nat :=
  if n < 2 ^ f.man then n
  else (q - f.qmin).toNat * 2 ^ f.man + n

/-- What happens above the largest finite value. -/
inductive Above | infinity | saturate
deriving DecidableEq, Repr

/-- A rounded magnitude placed in a format: its code and OVERFLOW. -/
def Fmt.place (f : Fmt) (above : Above) (n : Nat) (q : Int) : Nat × Bool :=
  let c := f.encode n q
  if c ≤ f.maxFinite then (c, false) else (if above = .infinity then f.inf else f.maxFinite, true)

/-- Tiny after rounding to nearest with the exponent unbounded below. -/
def Fmt.tiny (f : Fmt) (m : Nat) (e : Int) (sticky : Bool) : Bool :=
  let q := e + bitLen m - (f.man + 1 : Nat)
  let k := cutAt m e q
  let n := if nearUp k sticky then k.1 + 1 else k.1
  decide (q + bitLen n ≤ f.qmin + f.man)

/-- ± m × 2^e, and a nonzero rest below it when sticky, rounded to nearest even in a format: its code and flags. -/
def Fmt.round (f : Fmt) (above : Above) (neg : Bool) (m : Nat) (e : Int) (sticky : Bool := false) : Nat × Flags :=
  if m = 0 ∧ !sticky then (f.signBit neg, 0) else
  let q := f.cutExp m e
  let k := cutAt m e q
  let n := if nearUp k sticky then k.1 + 1 else k.1
  let p := f.place above n q
  let inexact := sticky || k.2.1 != 0 || p.2
  (f.signBit neg + p.1, flIf p.2 flOverflow ||| flIf inexact flInexact ||| flIf (inexact && !p.2 && f.tiny m e sticky) flUnderflow)

/-- The stochastic rounding of R410 with the random value u of 16 bits. -/
def Fmt.roundSr (f : Fmt) (u : Nat) (neg : Bool) (m : Nat) (e : Int) : Nat × Flags :=
  if m = 0 then (f.signBit neg, 0) else
  let q := f.cutExp m e
  let k := cutAt m e q
  let d := 65536 * k.2.1 / 2 ^ k.2.2
  let n := if k.2.1 ≠ 0 ∧ 65536 ≤ d + u then k.1 + 1 else k.1
  let p := f.place .infinity n q
  let inexact := k.2.1 != 0 || p.2
  (f.signBit neg + p.1, flIf p.2 flOverflow ||| flIf inexact flInexact ||| flIf (inexact && !p.2 && f.tiny m e false) flUnderflow)

/-! ## Exact sums and products -/

/-- An exact finite value. -/
structure Exact where
  neg : Bool := false
  m : Nat := 0
  e : Int := 0
deriving DecidableEq, Repr

/-- Its magnitude at a lower exponent. -/
def Exact.at (x : Exact) (e : Int) : Int :=
  let v : Int := (x.m * 2 ^ (x.e - e).toNat : Nat)
  if x.neg then -v else v

/-- The exact sum; an exact zero is −0 only when both are. -/
def Exact.add (x y : Exact) : Exact :=
  if x.m = 0 ∧ y.m = 0 then { neg := x.neg && y.neg, m := 0, e := x.e }
  else
    let e := min x.e y.e
    let v := x.at e + y.at e
    { neg := decide (v < 0), m := v.natAbs, e := e }
/-- The exact product. -/
def Exact.mul (x y : Exact) : Exact := { neg := x.neg != y.neg, m := x.m * y.m, e := x.e + y.e }
def Exact.negate (x : Exact) : Exact := { x with neg := !x.neg }
/-- Times 2^k. -/
def Exact.scale (x : Exact) (k : Int) : Exact := { x with e := x.e + k }

/-! ## FP32 operations (R320, R389, R390) -/

/-- An FP32 result and its flags; NONFINITE follows from the element written. -/
abbrev FRes := W32 × Flags

/-- The canonical NaN. -/
def nan32 : W32 := 0x7FC00000
def inf32 (neg : Bool) : W32 := if neg then 0xFF800000 else 0x7F800000
def zero32 (neg : Bool) : W32 := if neg then 0x80000000 else 0

/-- A result with NONFINITE raised when the element written is an infinity or a NaN. -/
def written (r : FRes) : FRes := (r.1, r.2 ||| flWritten r.1)

/-- A finite exact value rounded to FP32, to nearest even or with a random value. -/
def round32 (u : Option Nat) (x : Exact) : FRes :=
  let r := match u with
    | some v => fmtFP32.roundSr v x.neg x.m x.e
    | none => fmtFP32.round .infinity x.neg x.m x.e
  (BitVec.ofNat 32 r.1, r.2)

/-- A NaN result of an operation with a NaN operand: INVALID for a signalling one. -/
def nanOf (l : List FVal) : FRes := (nan32, flIf (l.any fun v => v == .nan true) flInvalid)
def invalid32 : FRes := (nan32, flInvalid)
def FVal.isNan : FVal → Bool
  | .nan _ => true
  | _ => false

/-- An FP32 addition, rounded to nearest even or stochastically. -/
def addVal (u : Option Nat) (a b : FVal) : FRes :=
  match a, b with
  | .nan _, _ => nanOf [a, b]
  | _, .nan _ => nanOf [a, b]
  | .inf x, .inf y => if x = y then (inf32 x, 0) else invalid32
  | .inf x, _ => (inf32 x, 0)
  | _, .inf y => (inf32 y, 0)
  | .fin s m e, .fin t n g => round32 u (Exact.add ⟨s, m, e⟩ ⟨t, n, g⟩)

/-- A value negated. -/
def FVal.negate : FVal → FVal
  | .nan s => .nan s
  | .inf n => .inf !n
  | .fin n m e => .fin (!n) m e

/-- A fused multiply-add. -/
def fmaVal (u : Option Nat) (a b c : FVal) : FRes :=
  let zeroInf := match a, b with
    | .inf _, .fin _ 0 _ => true
    | .fin _ 0 _, .inf _ => true
    | _, _ => false
  if a.isNan || b.isNan then nanOf [a, b, c]
  else if zeroInf then invalid32
  else match a, b, c with
  | _, _, .nan _ => nanOf [a, b, c]
  | .fin s m e, .fin t n g, .fin z o h => round32 u ((Exact.mul ⟨s, m, e⟩ ⟨t, n, g⟩).add ⟨z, o, h⟩)
  | .fin _ _ _, .fin _ _ _, .inf z => (inf32 z, 0)
  | x, y, z =>
    let neg := (match x with | .inf s => s | .fin s _ _ => s | _ => false) != (match y with | .inf s => s | .fin s _ _ => s | _ => false)
    match z with
    | .inf w => if w = neg then (inf32 neg, 0) else invalid32
    | _ => (inf32 neg, 0)

/-- An FP32 multiplication. -/
def mulVal (a b : FVal) : FRes :=
  match a, b with
  | .nan _, _ => nanOf [a, b]
  | _, .nan _ => nanOf [a, b]
  | .inf s, .inf t => (inf32 (s != t), 0)
  | .inf s, .fin t n _ => if n = 0 then invalid32 else (inf32 (s != t), 0)
  | .fin t n _, .inf s => if n = 0 then invalid32 else (inf32 (s != t), 0)
  | .fin s m e, .fin t n g => round32 none (Exact.mul ⟨s, m, e⟩ ⟨t, n, g⟩)

/-- An FP32 division, correctly rounded. -/
def divVal (a b : FVal) : FRes :=
  match a, b with
  | .nan _, _ => nanOf [a, b]
  | _, .nan _ => nanOf [a, b]
  | .inf _, .inf _ => invalid32
  | .inf s, .fin t _ _ => (inf32 (s != t), 0)
  | .fin s _ _, .inf t => (zero32 (s != t), 0)
  | .fin s m e, .fin t n g =>
    if n = 0 then (if m = 0 then invalid32 else (inf32 (s != t), flDivZero))
    else
      let r := fmtFP32.round .infinity (s != t) (m * 2 ^ 80 / n) (e - g - 80) (m * 2 ^ 80 % n != 0)
      (BitVec.ofNat 32 r.1, r.2)

/-- The integer square root, one bit at a time from bit b − 1. -/
def isqrtFrom (n : Nat) : Nat → Nat → Nat
  | 0, r => r
  | b + 1, r => if (r + 2 ^ b) * (r + 2 ^ b) ≤ n then isqrtFrom n b (r + 2 ^ b) else isqrtFrom n b r
/-- The integer square root. -/
def isqrt (n : Nat) : Nat := isqrtFrom n (bitLen n / 2 + 1) 0

/-- m × 2^e with an even exponent and at least 100 more bits. -/
def evenUp (m : Nat) (e : Int) : Nat × Int := if e % 2 = 0 then (m * 2 ^ 100, e - 100) else (m * 2 ^ 101, e - 101)

/-- An FP32 square root, correctly rounded. -/
def sqrtVal (a : FVal) : FRes :=
  match a with
  | .nan _ => nanOf [a]
  | .inf false => (inf32 false, 0)
  | .inf true => invalid32
  | .fin s m e =>
    if m = 0 then (zero32 s, 0) else if s then invalid32 else
    let k := evenUp m e
    let r := isqrt k.1
    let o := fmtFP32.round .infinity false r (k.2 / 2) (r * r != k.1)
    (BitVec.ofNat 32 o.1, o.2)

/-- maximumNumber of IEEE 754; least for minimumNumber. -/
def extremum (least : Bool) (a b : W32) : FRes :=
  let x := decode32 a
  let y := decode32 b
  let fl := (nanOf [x, y]).2
  let less := fun (p q : Exact) => decide (p.at (min p.e q.e) < q.at (min p.e q.e)) || (p.m == 0 && q.m == 0 && p.neg && !q.neg)
  let key := fun (v : FVal) => match v with
    | .fin s m e => (⟨s, m, e⟩ : Exact)
    | .inf s => ⟨s, 1, 200⟩
    | .nan _ => ⟨false, 0, 0⟩
  match x.isNan, y.isNan with
  | true, true => (nan32, fl)
  | true, false => (b, fl)
  | false, true => (a, fl)
  | false, false => (if (less (key x) (key y)) != least then b else a, fl)

/-- a < b; false with a NaN. -/
def lessThan (a b : W32) : Bool :=
  match decode32 a, decode32 b with
  | .nan _, _ => false
  | _, .nan _ => false
  | .inf s, .inf t => s && !t
  | .inf s, _ => s
  | _, .inf t => !t
  | .fin s m e, .fin t n g => decide ((⟨s, m, e⟩ : Exact).at (min e g) < (⟨t, n, g⟩ : Exact).at (min e g))

/-- a = b; false with a NaN, true of the two zeros. -/
def equalTo (a b : W32) : Bool :=
  match decode32 a, decode32 b with
  | .nan _, _ => false
  | _, .nan _ => false
  | .fin _ 0 _, .fin _ 0 _ => true
  | _, _ => a == b

/-- The magnitude of a word, a NaN canonical. -/
def absVal (a : W32) : FRes :=
  match decode32 a with
  | .nan s => (nan32, flIf s flInvalid)
  | _ => (a &&& 0x7FFFFFFF#32, 0)

/-! ## Results within an error bound (R394) -/

/-- An ulp halves below a code: it is a power of two above the least normal one. -/
def ulpHalves (t : Nat) : Bool := t % 2 ^ 23 == 0 && decide (2 ^ 23 < t)

/-- The codes within the bound of a positive exact result, the least first, in units of the code's own last place: within 1 ulp those
beside it, within 2 ulp two more. Where the ulp halves below, a code there is half as far away in its reach. -/
def withinUlp (two : Bool) (m : Nat) (e : Int) (sticky : Bool) : Nat × Nat :=
  let q := fmtFP32.cutExp m e
  let k := cutAt m e q
  let t := fmtFP32.encode k.1 q
  let exact_ := !sticky && k.2.1 == 0
  let far := decide (2 ^ k.2.2 < 2 * k.2.1) || (sticky && decide (2 ^ k.2.2 ≤ 2 * k.2.1))
  if !two then (if exact_ then t - 1 else t, t + 1)
  else if exact_ then (if ulpHalves (t - 1) then t - 1 else t - 2, t + 2)
  else (if ulpHalves t && far then t else t - 1, t + 2)

/-- One of the results the bound allows, picked by a free function of opcode and operand, at most cap. -/
def pickWithin (op : Nat) (x : W32) (two neg : Bool) (cap m : Nat) (e : Int) (sticky : Bool) : FRes :=
  let b := withinUlp two m e sticky
  let lo := min b.1 cap
  let hi := min (min b.2 cap) fmtFP32.inf
  let c := if 0x7F800000 ≤ lo then 0x7F800000 else lo + Config.ulpPick op x % (hi - lo + 1)
  let r := fmtFP32.round .infinity false m e sticky
  let tooBig := decide (fmtFP32.maxFinite < c)
  let inexact := sticky || decide (r.2 &&& flInexact ≠ 0) || decide (c ≠ r.1)
  (BitVec.ofNat 32 (fmtFP32.signBit neg + c), flIf tooBig flOverflow ||| flIf inexact flInexact |||
    flIf (inexact && decide (c < 0x00800000)) flUnderflow)

/-- A reciprocal within 1 ulp. -/
def rcpNear (op : Nat) (x : W32) : FRes :=
  match decode32 x with
  | .nan _ => invalid32
  | .inf s => (zero32 s, 0)
  | .fin s m e => if m = 0 then (inf32 s, flDivZero) else
    pickWithin op x false s 0x7F800000 (2 ^ 100 / m) (-100 - e) (2 ^ 100 % m != 0)

/-- A reciprocal square root within 1 ulp. -/
def rsqNear (op : Nat) (x : W32) : FRes :=
  match decode32 x with
  | .nan _ => invalid32
  | .inf s => if s then invalid32 else (0, 0)
  | .fin s m e => if m = 0 then (inf32 s, flDivZero) else if s then invalid32 else
    let n := if e % 2 = 0 then m else 2 * m
    let g := if e % 2 = 0 then e else e - 1
    let t := 2 ^ 240 / n
    let r := isqrt t
    pickWithin op x false false 0x7F800000 r (-120 - g / 2) (r * r * n != 2 ^ 240)

/-! ## The transcendental functions, as fixed-point numbers of 256 fraction bits (R394) -/

/-- 2^256. -/
def one256 : Nat := 2 ^ 256
/-- ln 2, π at 400 bits, and 2 ÷ √π. -/
def ln2Fx : Nat := 80260960185991308862233904206310070533990667611589946606122867505419956976171
def piFx400 : Nat :=
  8112377246730971238862271351300894519161151600179265203591191037615230905373990498745523360926816815427566779727327576236
def twoRootPiFx : Nat := 130657381209852114387528029350014196574164286124850014242073919076264802271585

/-- Σ r^n ÷ n! from term t, of step number n. -/
def expTerms (r : Nat) : Nat → Nat → Nat → Nat
  | 0, _, _ => 0
  | k + 1, n, t => t + expTerms r k (n + 1) (t * r / one256 / (n + 1))
/-- e^r for r in [0, 1). -/
def expSmall (r : Nat) : Nat := expTerms r 64 0 one256
/-- Σ alternating t × x^(2k) over (n + 1)(n + 2) and so on: sine from n = 1 and t = x, cosine from n = 0 and t = 1. -/
def trigTerms (x2 : Nat) : Nat → Nat → Int → Int
  | 0, _, _ => 0
  | k + 1, n, t => t + trigTerms x2 k (n + 2) (-(t * x2 / one256 / (((n + 1) * (n + 2) : Nat) : Int)))
/-- Σ z^(2k + 1) ÷ (2k + 1). -/
def atanhTerms (z2 : Nat) : Nat → Nat → Nat → Nat
  | 0, _, _ => 0
  | k + 1, n, t => t / (2 * n + 1) + atanhTerms z2 k (n + 1) (t * z2 / one256)
/-- Σ (−1)^n x^(2n + 1) ÷ (n! (2n + 1)). -/
def erfTerms (x2 : Nat) : Nat → Nat → Int → Int
  | 0, _, _ => 0
  | k + 1, n, t => t / ((2 * n + 1 : Nat) : Int) + erfTerms x2 k (n + 1) (-(t * x2 / one256 / ((n + 1 : Nat) : Int)))

/-- ± m × 2^e as a fixed-point number, toward −∞. -/
def toFx (neg : Bool) (m : Nat) (e : Int) : Int :=
  let v : Int := if -256 ≤ e then (m * 2 ^ (e + 256).toNat : Nat) else (m / 2 ^ (-256 - e).toNat : Nat)
  if neg then -v else v

/-- e^y of a fixed-point number as a dyadic of 256 fraction bits and an exponent. -/
def expFx (y : Int) : Nat × Int :=
  let k := y / ln2Fx
  (expSmall (y - k * ln2Fx).toNat, k)
/-- 2^y. -/
def exp2Fx (y : Int) : Nat × Int :=
  let k := y / one256
  (expSmall ((y - k * one256).toNat * ln2Fx / one256), k)

/-- ln of m × 2^e, as a fixed-point number. -/
def lnFx (m : Nat) (e : Int) : Int :=
  let b := bitLen m - 1
  let y := m * 2 ^ 256 / 2 ^ b
  let z := (y - one256) * one256 / (y + one256)
  (e + (b : Int)) * ln2Fx + ((2 * atanhTerms (z * z / one256) 90 0 z : Nat) : Int)

/-- x reduced to [−π, π], as a fixed-point number. -/
def reducePi (neg : Bool) (m : Nat) (e : Int) : Int :=
  let v : Int := if -400 ≤ e then (m * 2 ^ (e + 400).toNat : Nat) else (m / 2 ^ (-400 - e).toNat : Nat)
  let w := if neg then -v else v
  let k := (w + piFx400) / (2 * piFx400 : Nat)
  (w - k * (2 * piFx400 : Nat)) / (2 ^ 144 : Nat)

/-- A fixed-point result within its bound, with the sign it has; a zero stands for a tiny result of the operand's own size. -/
def fxResult (op : Nat) (x : W32) (two : Bool) (cap : Nat) (v : Int) (e : Int) : FRes :=
  pickWithin op x two (decide (v < 0)) cap v.natAbs (e - 256) true

/-- The function of an opcode at a finite nonzero operand ± m × 2^e. -/
def funcFinite (op : Nat) (x : W32) (s : Bool) (m : Nat) (e : Int) : FRes :=
  let top := 0x7F800000
  let big := decide (7 < e + bitLen m)
  let small := decide (e + bitLen m < -60)
  let y := if big then (if s then -(200 : Int) * one256 else 200 * one256) else toFx s m e
  match op with
  | 0x43 => let r := expFx y; fxResult op x true top r.1 r.2
  | 0x44 =>
    let y2 := if decide (9 < e + bitLen m) then (if s then -(300 : Int) * one256 else 300 * one256) else toFx s m e
    if e ≥ 0 ∨ (m % 2 ^ (-e).toNat = 0) then pickWithin op x false false top 1 (y2 / one256) false
    else let r := exp2Fx y2; fxResult op x false top r.1 r.2
  | 0x45 => if s then invalid32 else if m * 2 ^ (e + 200).toNat = 2 ^ 200 then (0, 0) else fxResult op x true top (lnFx m e) 0
  | 0x46 =>
    if small then pickWithin op x true s 0x3F800000 (m * 2 ^ 100 - 1) (e - 100) true else
    let r := expFx (2 * (if big then 60 * one256 else (toFx false m e).toNat) : Nat)
    let t := r.1 * 2 ^ r.2.toNat
    let v : Int := ((t - one256) * one256 / (t + one256) : Nat)
    fxResult op x true 0x3F800000 (if s then -v else v) 0
  | 0x47 =>
    let r := expFx y
    if s ∧ (big ∨ r.2 < -100) then pickWithin op x true false 0x3F800000 r.1 (r.2 - 256) true else
    let t := if r.2 < 0 then r.1 / 2 ^ (-r.2).toNat else r.1 * 2 ^ r.2.toNat
    fxResult op x true 0x3F800000 ((t * one256 / (t + one256) : Nat) : Int) 0
  | 0x48 =>
    if small then fxResult op x true top (if s then -((m * twoRootPiFx : Nat) : Int) else ((m * twoRootPiFx : Nat) : Int)) e else
    let a := if decide (2 < e + bitLen m) then 6 * one256 else (toFx false m e).toNat
    let v := erfTerms (a * a / one256) 260 0 a * twoRootPiFx / one256
    fxResult op x true top (if s then -v else v) 0
  | 0x49 =>
    if small then pickWithin op x true s top (m * 2 ^ 100 - 1) (e - 100) true else
    let r := reducePi s m e
    let v := trigTerms (r * r / one256).toNat 90 1 r
    fxResult op x true top v 0
  | _ =>
    let r := reducePi s m e
    fxResult op x true top (trigTerms (r * r / one256).toNat 90 0 one256 - 1) 0

/-- The vector functions of R394: exact values first, then the bound. -/
def vecFunc (op : Nat) (x : W32) : FRes :=
  let one : W32 := 0x3F800000
  match decode32 x with
  | .nan _ => invalid32
  | .inf s =>
    match op with
    | 0x43 => (if s then 0 else inf32 false, 0)
    | 0x44 => (if s then 0 else inf32 false, 0)
    | 0x45 => if s then invalid32 else (inf32 false, 0)
    | 0x46 => (if s then 0xBF800000 else one, 0)
    | 0x47 => (if s then 0 else one, 0)
    | 0x48 => (if s then 0xBF800000 else one, 0)
    | _ => invalid32
  | .fin s m e =>
    if m = 0 then
      match op with
      | 0x43 => (one, 0)
      | 0x44 => (one, 0)
      | 0x45 => (inf32 true, flDivZero)
      | 0x46 => (x, 0)
      | 0x47 => (0x3F000000, 0)
      | 0x48 => (x, 0)
      | 0x49 => (x, 0)
      | _ => (one, 0)
    else funcFinite op x s m e

/-! ## Conversions (R380, R403 to R405) -/

/-- A BF16 code widened to FP32, exactly. -/
def widenBf16 (x : W16) : W32 := x.zeroExtend 32 <<< 16

/-- An FP32 word narrowed to an IEEE format: saturating, an infinity or NaN kept. -/
def narrowTo (f : Fmt) (w : W32) : Nat × Flags :=
  match decode32 w with
  | .nan s => (f.nan, flNonfinite ||| flIf s flInvalid)
  | .inf s => (f.signBit s + f.inf, flNonfinite)
  | .fin s m e => f.round .saturate s m e

def narrowBf16 (w : W32) : W16 × Flags := let r := narrowTo fmtBF16 w; (BitVec.ofNat 16 r.1, r.2)

/-- F2I: to nearest even, saturating; a NaN gives a value the spec does not state (log 2). -/
def f2i (w : W32) : FRes :=
  let lim := fun (s : Bool) => if s then (0x80000000 : W32) else 0x7FFFFFFF
  match decode32 w with
  | .nan _ => (Config.f2iNan w, flInvalid)
  | .inf s => (lim s, flOverflow)
  | .fin s m e =>
    let k := cutAt m e 0
    let n := if nearUp k false then k.1 + 1 else k.1
    if (s ∧ 2 ^ 31 < n) ∨ (!s ∧ 2 ^ 31 ≤ n) then (lim s, flOverflow ||| flInexact)
    else (BitVec.ofInt 32 (if s then -(n : Int) else n), flIf (k.2.1 != 0) flInexact)

/-- I2F. -/
def i2f (w : W32) : FRes := round32 none { neg := decide (w.toInt < 0), m := w.toInt.natAbs, e := 0 }

/-! ## BF16 fused multiply-add (R315) -/

/-- HFMA on one lane, rounded once to BF16. -/
def hfma (a b c : W16) : W16 × Flags :=
  let x := fmtBF16.decode a.toNat
  let y := fmtBF16.decode b.toNat
  let z := fmtBF16.decode c.toNat
  match x, y, z with
  | .fin s m e, .fin t n g, .fin w o h =>
    let v := (Exact.mul ⟨s, m, e⟩ ⟨t, n, g⟩).add ⟨w, o, h⟩
    let r := fmtBF16.round .infinity v.neg v.m v.e
    (BitVec.ofNat 16 r.1, r.2 ||| flIf (decide (r.1 % 2 ^ 15 ≥ fmtBF16.inf)) flNonfinite)
  | _, _, _ =>
    let r := fmaVal none x y z
    (BitVec.ofNat 16 (r.1.toNat / 2 ^ 16), r.2 ||| flNonfinite)

/-! ## MX blocks (R406, R407) -/

/-- The exponent of the largest normal value of the MXQ formats. -/
def emaxOf (f : Fmt) : Int := if f = fmtE4M3 then 8 else if f = fmtE5M2 then 15 else if f = fmtE3M2 then 4 else 2

/-- 32 FP32 values quantised: elements, scale byte, flags. -/
def mxQuant (f : Fmt) (vs : List W32) : List Nat × Nat × Flags :=
  let xs := vs.map decode32
  if xs.any (fun v => match v with | .fin _ _ _ => false | _ => true) then (vs.map fun _ => 0, 0xFF, flNonfinite)
  else
    let top := xs.foldl (fun (o : Option Int) v => match v with
      | .fin _ m e => if m = 0 then o else
        let l := e + bitLen m - 1
        match o with | none => some l | some p => some (max p l)
      | _ => o) none
    match top with
    | none => (vs.map fun _ => 0, 0, 0)
    | some a =>
      let x := max (-127) (min 127 (a - emaxOf f))
      let rs := xs.map fun v => match v with
        | .fin s m e => f.round .saturate s m (e - x)
        | _ => (0, 0)
      (rs.map (·.1), (x + 127).toNat, rs.foldl (fun g r => g ||| r.2) 0)

/-- One element of an MX block decoded; a result beyond FP32 is an infinity. -/
def mxDecode (f : Fmt) (scale x : Nat) : FRes :=
  if scale = 0xFF then (nan32, flNonfinite) else
  match f.decode x with
  | .nan _ => (nan32, flNonfinite)
  | .inf s => (inf32 s, flNonfinite)
  | .fin s m e => written (round32 none ⟨s, m, e + scale - 127⟩)

/-! ## Random draws (R412) -/

/-- The finaliser. -/
def mix64 (z : W64) : W64 :=
  let a := (z ^^^ (z >>> 30)) * 0xBF58476D1CE4E5B9#64
  let b := (a ^^^ (a >>> 27)) * 0x94D049BB133111EB#64
  b ^^^ (b >>> 31)

/-- A draw: 64 bits from a seed, an engine identity, an index and a counter. -/
def draw (seed : W64) (engine index n : Nat) : W64 :=
  let key := mix64 (seed ^^^ (BitVec.ofNat 64 engine <<< 16) ^^^ BitVec.ofNat 64 index)
  mix64 (key + BitVec.ofNat 64 (n + 1) * 0x9E3779B97F4A7C15#64)

/-- The random value of lane i of four of a draw. -/
def drawLane (d : W64) (i : Nat) : Nat := bits d.toNat (16 * i) 16

/-! ## Sums in a pairwise tree (R315, R319, R381) -/

/-- One level of a pairwise tree; an odd last element stands alone. -/
def pairLevel (op : W32 → W32 → FRes) : List W32 → List W32 × Flags
  | a :: b :: l =>
    let r := op a b
    let t := pairLevel op l
    (r.1 :: t.1, r.2 ||| t.2)
  | l => (l, 0)

/-- A sum or an extremum of one word: the word, a NaN canonical (R402). -/
def alone (x : W32) : FRes := match decode32 x with | .nan b => nanOf [.nan b] | _ => (x, 0)

/-- The tree from its leaves to its root. -/
def pairTree (op : W32 → W32 → FRes) : Nat → List W32 → FRes
  | _, [] => (0, 0)
  | _, [x] => alone x
  | 0, x :: _ => (x, 0)
  | n + 1, l =>
    let t := pairLevel op l
    let r := pairTree op n t.1
    (r.1, t.2 ||| r.2)

/-- Nearest-even FP32 operations on words, with NONFINITE. -/
def fadd (a b : W32) : FRes := written (addVal none (decode32 a) (decode32 b))
def fsub (a b : W32) : FRes := written (addVal none (decode32 a) (decode32 b).negate)
def fmul (a b : W32) : FRes := written (mulVal (decode32 a) (decode32 b))
def ffma (a b c : W32) : FRes := written (fmaVal none (decode32 a) (decode32 b) (decode32 c))
def fdiv (a b : W32) : FRes := written (divVal (decode32 a) (decode32 b))
def fsqrt (a : W32) : FRes := written (sqrtVal (decode32 a))
def fmax (a b : W32) : FRes := written (extremum false a b)
def fmin (a b : W32) : FRes := written (extremum true a b)
def fabs (a : W32) : FRes := written (absVal a)

end Sys2Proof.Machine
end

