-- ==== Sys2Proof/Machine/Tensor.lean ====
section
/-!
DEFINITION. Descriptors read from device memory, the scale trackers and the tensor groups of a partition, and their update
by a vote (R415 to R421, R501 to R503).
-/
namespace Sys2Proof.Machine

/-! ## Descriptors -/

/-- The pages of a descriptor translated for the core that reads it. -/
def State.descTouch (s : State) (id slot va n : Nat) : State :=
  match (s.cmd id).bind (·.cores.head?) with
  | some k => s.tlbRange k slot va n
  | none => s

/-- A descriptor of a command read whole, through the buffer of its core if it has one (R268); an unmapped or poisoned one ends the command
(R257, R267). -/
def State.descRead (s : State) (id slot va n : Nat) : State × Option (List Byte) :=
  match (s.descTouch id slot va n).cmdRead id slot va n with
  | (s1, none) => (s1, none)
  | (s1, some bs) =>
    match (s1.cmd id).bind (·.poisoned) with
    | some a => (s1.endCmd id 0x0201 a, none)
    | none => (s1, some bs)

/-- A reserved field that is not 0, by its own offset (R17). -/
def rsvdBad (bs : List Byte) (lo n : Nat) : Option Nat := if (List.range n).any fun i => bs.getD (lo + i) 0 != 0 then some lo else none

/-- The first failing test of a list of (byte offset, fails), lowest offset first. -/
def firstBad (l : List (Nat × Bool)) : Option Nat := minBy id ((l.filter (·.2)).map (·.1))

/-- A 32-bit field as an FP32 word. -/
def fieldW (bs : List Byte) (off : Nat) : W32 := BitVec.ofNat 32 (field bs off 4)

/-! ## FP32 values of stated kinds -/

/-- A power of two from 2^-126 to 2^127. -/
def isScale (w : W32) : Bool := decide (1 ≤ w.toNat / 2 ^ 23) && decide (w.toNat / 2 ^ 23 ≤ 254) && decide (w.toNat % 2 ^ 23 = 0)
/-- Finite. -/
def isFinite32 (w : W32) : Bool := !isNonfinite w
/-- Above zero, infinity among it. -/
def isAboveZero (w : W32) : Bool := decide (0 < w.toNat) && decide (w.toNat ≤ 0x7F800000)
/-- Positive and finite. -/
def isPositive (w : W32) : Bool := isFinite32 w && decide (0 < w.toNat) && decide (w.toNat < 2 ^ 31)
/-- Zero or positive and finite. -/
def isZeroOrPositive (w : W32) : Bool := w == 0 || isPositive w
/-- A power of two, subnormals included. -/
def isPow2 (w : W32) : Bool :=
  match decide (w.toNat < 2 ^ 31), decode32 w with
  | true, .fin _ m _ => decide (0 < m) && decide (m = 2 ^ Nat.log2 m)
  | _, _ => false
/-- The exponent of a power of two. -/
def log2Of (w : W32) : Int :=
  match decode32 w with
  | .fin _ m e => e + Nat.log2 m
  | _ => 0
/-- 2^k as an FP32 word, k clamped to [−126, 127]. -/
def pow2Word (k : Int) : W32 := BitVec.ofNat 32 ((max (-126) (min 127 k) + 127).toNat * 2 ^ 23)

/-! ## Scale trackers (R415, R416) -/

/-- A tracker entry. -/
structure TrackerEntry where
  scale : W32
  amaxEst : W32
  amaxStep : W32
  limit : W32
  flags : Nat
  headroom : Nat
  hrMin : Nat
  hrMax : Nat
  decay : Nat
  broodIndex : Nat
  calmSteps : Nat
  calmCount : Nat
  ovfCount : Nat
deriving DecidableEq, Repr

/-- The address of an entry. -/
def Part.trackerVa (p : Part) (t : Nat) : Nat := p.trackerBase.toNat + 32 * t

/-- The fields of the 32 bytes of an entry. -/
def trackerOf (bs : List Byte) : TrackerEntry :=
  { scale := fieldW bs 0, amaxEst := fieldW bs 4, amaxStep := fieldW bs 8, limit := fieldW bs 0x0C, flags := field bs 0x10 1,
    headroom := field bs 0x11 1, hrMin := field bs 0x12 1, hrMax := field bs 0x13 1, decay := field bs 0x14 1,
    broodIndex := field bs 0x15 1, calmSteps := field bs 0x16 2, calmCount := field bs 0x18 2, ovfCount := field bs 0x1C 4 }
/-- The 32 bytes of an entry. -/
def TrackerEntry.bytes (t : TrackerEntry) : List Byte :=
  bytesOfNat t.scale.toNat 4 ++ bytesOfNat t.amaxEst.toNat 4 ++ bytesOfNat t.amaxStep.toNat 4 ++ bytesOfNat t.limit.toNat 4 ++
  bytesOfNat t.flags 1 ++ bytesOfNat t.headroom 1 ++ bytesOfNat t.hrMin 1 ++ bytesOfNat t.hrMax 1 ++ bytesOfNat t.decay 1 ++
  bytesOfNat t.broodIndex 1 ++ bytesOfNat t.calmSteps 2 ++ bytesOfNat t.calmCount 2 ++ bytesOfNat 0 2 ++ bytesOfNat t.ovfCount 4

def TrackerEntry.brood (t : TrackerEntry) : Bool := bitAt t.flags 1
def TrackerEntry.frozen (t : TrackerEntry) : Bool := bitAt t.flags 2
def TrackerEntry.ovf (t : TrackerEntry) : Bool := bitAt t.flags 3

/-- An entry is usable. -/
def trackerUsable (bs : List Byte) : Bool :=
  let t := trackerOf bs
  bitAt t.flags 0 && decide (t.flags < 16) && isScale t.scale && isZeroOrPositive t.amaxEst && isPositive t.limit &&
  (!t.brood || isPow2 t.limit) && decide (t.hrMin ≤ 32) && decide (t.hrMin ≤ t.hrMax) && decide (t.hrMax ≤ 32) &&
  decide (t.hrMin ≤ t.headroom) && decide (t.headroom ≤ t.hrMax) && decide (t.decay ≤ 16) &&
  (if t.brood then decide (1 ≤ t.broodIndex) && decide (t.broodIndex ≤ 32) else t.broodIndex == 0) &&
  decide (1 ≤ t.calmSteps) && decide (field bs 0x1A 2 = 0)

/-- The entry of a tracker, when TRACKER_BASE is set and the entry is mapped, not poisoned and usable. -/
def State.tracker (s : State) (slot t : Nat) : Option TrackerEntry :=
  if (s.part slot).trackerBase = 0 then none else
  match s.vread slot ((s.part slot).trackerVa t) 32 with
  | .error _ => none
  | .ok r => if r.poison.isSome || !trackerUsable r.bytes then none else some (trackerOf r.bytes)

/-- An entry written back. -/
def State.setTracker (s : State) (slot t : Nat) (e : TrackerEntry) : State :=
  (s.vwrite none slot ((s.part slot).trackerVa t) e.bytes).1

/-- The larger of two magnitudes. -/
def maxMag (a b : W32) : W32 := if lessThan a b then b else a

/-- What a command saw of a tracker merged into its entry in one step (R418, R419). -/
def State.mergeTracker (s : State) (slot t : Nat) (u : TrackerUse) : State :=
  match s.tracker slot t with
  | none => s
  | some e => s.setTracker slot t { e with
      amaxStep := maxMag e.amaxStep u.amax, flags := if u.ovf then e.flags ||| 8 else e.flags
      ovfCount := sat (2 ^ 32 - 1) (e.ovfCount + u.ovfCount) }

/-- ⌊log2(a ÷ b)⌋ of two positive finite words. -/
def floorLog2Ratio (a b : W32) : Int :=
  match decode32 a, decode32 b with
  | .fin _ m e, .fin _ n g =>
    let k : Int := (e + bitLen m) - (g + bitLen n)
    let lo := min e (g + k)
    if decide ((⟨false, n, g + k⟩ : Exact).at lo ≤ (⟨false, m, e⟩ : Exact).at lo) then k else k - 1
  | _, _ => 0

/-- One entry updated from a vote result (R420). -/
def TrackerEntry.step (t : TrackerEntry) (ovfs : Nat) (finite : Bool) : TrackerEntry :=
  let ovf := if t.brood then bitAt ovfs (t.broodIndex - 1) || !finite else t.ovf
  let t1 : TrackerEntry :=
    if ovf then { t with headroom := min (t.headroom + 1) t.hrMax, calmCount := 0 }
    else if t.calmSteps ≤ t.calmCount + 1 then { t with headroom := max (t.headroom - 1) t.hrMin, calmCount := 0 }
    else { t with calmCount := t.calmCount + 1 }
  let t2 : TrackerEntry :=
    if t.brood then { t1 with scale := pow2Word (log2Of t.limit - t1.headroom) }
    else
      let d := if t.decay = 0 then t.amaxEst else
        (match decode32 t.amaxEst with
         | .fin s m e => (round32 none ⟨s, m * (2 ^ t.decay - 1), e - t.decay⟩).1
         | _ => t.amaxEst)
      let est := maxMag d t.amaxStep
      { t1 with amaxEst := est
                scale := if isPositive est then pow2Word (floorLog2Ratio t.limit est - t1.headroom) else t1.scale }
  { t2 with amaxStep := 0, flags := t2.flags &&& 7 }

/-- The tracker numbers of a table. -/
def trackerNumbers : List Nat := (List.range 4095).map (· + 1)

/-- Every usable, unfrozen entry of a partition's table updated, as one table update (R420, R425). -/
def State.stepTrackers (s : State) (slot ovfs : Nat) (finite : Bool) : State :=
  if (s.part slot).trackerBase = 0 then s else
  (trackerNumbers.foldl (fun s t =>
    match s.tracker slot t with
    | none => s
    | some e =>
      if e.frozen then s else
      let e1 := e.step ovfs finite
      let s1 := s.setTracker slot t e1
      if e.headroom < e1.headroom then s1.count 0x7032 (slot + 1) 1 else s1) s).count 0x7031 (slot + 1) 1

/-- The OVF bits of the brood trackers 1 to 32, bit i − 1 for tracker i (R421). -/
def State.broodOvf (s : State) (slot : Nat) : Nat :=
  if (s.part slot).trackerBase = 0 then 0 else
  maskOf ((trackerNumbers.filterMap fun t =>
    match s.tracker slot t with
    | some e => if e.brood && e.ovf then some (e.broodIndex - 1) else none
    | none => none).eraseDups)

/-! ## Tensor groups (R501, R502) -/

/-- A tensor-group entry. -/
structure Group where
  step : Nat
  eta : W32
  eps : W32
  tracker : Nat
  flags : Nat
  ratioMax : W32
  ratioMin : W32
  lastRatio : W32
  dsq : W32
  wsq : W32
  elements : Nat
deriving DecidableEq, Repr

def Part.groupVa (p : Part) (t : Nat) : Nat := p.tgroupBase.toNat + 64 * t

/-- The fields of the 64 bytes of an entry. -/
def groupOf (bs : List Byte) : Group :=
  { step := field bs 0 8, eta := fieldW bs 8, eps := fieldW bs 0x0C, tracker := field bs 0x10 2, flags := field bs 0x12 1,
    ratioMax := fieldW bs 0x14, ratioMin := fieldW bs 0x18, lastRatio := fieldW bs 0x1C, dsq := fieldW bs 0x20,
    wsq := fieldW bs 0x24, elements := field bs 0x28 8 }
/-- The 64 bytes of an entry. -/
def Group.bytes (g : Group) : List Byte :=
  bytesOfNat g.step 8 ++ bytesOfNat g.eta.toNat 4 ++ bytesOfNat g.eps.toNat 4 ++ bytesOfNat g.tracker 2 ++
  bytesOfNat g.flags 1 ++ bytesOfNat 0 1 ++ bytesOfNat g.ratioMax.toNat 4 ++ bytesOfNat g.ratioMin.toNat 4 ++
  bytesOfNat g.lastRatio.toNat 4 ++ bytesOfNat g.dsq.toNat 4 ++ bytesOfNat g.wsq.toNat 4 ++ bytesOfNat g.elements 8 ++
  bytesOfNat 0 16

def Group.frozen (g : Group) : Bool := bitAt g.flags 1
def Group.ratio (g : Group) : Bool := bitAt g.flags 2
def Group.touched (g : Group) : Bool := bitAt g.flags 3

/-- The byte offset of the first field of an entry that keeps it from being usable (R502). -/
def State.groupBad (s : State) (slot : Nat) (bs : List Byte) : Option Nat :=
  let g := groupOf bs
  let tr := g.tracker != 0 && (decide (4095 < g.tracker) || !((s.tracker slot g.tracker).any (·.brood)))
  firstBad ([(8, !isFinite32 g.eta), (0x0C, !isPositive g.eps), (0x10, tr), (0x12, !bitAt g.flags 0 || decide (16 ≤ g.flags))] ++
    ((rsvdBad bs 0x13 1).toList.map fun o => (o, true)) ++
    [(0x14, !isZeroOrPositive g.ratioMax), (0x18, !isZeroOrPositive g.ratioMin)] ++
    ((rsvdBad bs 0x30 16).toList.map fun o => (o, true)))

/-- What the table holds for a group: none with no table or where it is unmapped or poisoned; else its bytes. -/
def State.groupBytes (s : State) (slot t : Nat) : Option (List Byte) :=
  if (s.part slot).tgroupBase = 0 then none else
  match s.vread slot ((s.part slot).groupVa t) 64 with
  | .error _ => none
  | .ok r => if r.poison.isSome then none else some r.bytes

/-- A usable entry. -/
def State.group (s : State) (slot t : Nat) : Option Group :=
  match s.groupBytes slot t with
  | none => none
  | some bs => if (s.groupBad slot bs).isSome then none else some (groupOf bs)

/-- An entry written back. -/
def State.setGroup (s : State) (slot t : Nat) (g : Group) : State :=
  (s.vwrite none slot ((s.part slot).groupVa t) g.bytes).1

/-- The step counters of groups first to first + n − 1 set (R504). -/
def State.resyncGroups (s : State) (slot first n value : Nat) : State :=
  (List.range n).foldl (fun s i => (s.vwrite none slot ((s.part slot).groupVa (first + i)) (bytesOfNat value 8)).1) s

/-- One entry after the vote of a step; the events it raises are RATIO_HIGH and RATIO_LOW (R503). -/
def State.stepGroup (s : State) (slot t step : Nat) (ok : Bool) : State :=
  match s.group slot t with
  | none => s
  | some g =>
    let measured := ok && g.touched && g.ratio && isAboveZero g.wsq
    let r := (sqrtVal (decode32 (divVal (decode32 g.dsq) (decode32 g.wsq)).1)).1
    let s1 := s.setGroup slot t { g with
      lastRatio := if measured then r else g.lastRatio, step := (step + 1) % 2 ^ 64, dsq := 0, wsq := 0, elements := 0
      flags := g.flags &&& 7 }
    let s2 := if measured && isPositive g.ratioMax && lessThan g.ratioMax r then s1.event 0x0407 t (s1.slotFns slot) else s1
    if measured && isPositive g.ratioMin && lessThan r g.ratioMin then s2.event 0x0408 t (s2.slotFns slot) else s2

/-- Every usable group updated by a vote (R503). -/
def State.stepGroups (s : State) (slot step : Nat) (ok : Bool) : State :=
  if (s.part slot).tgroupBase = 0 then s else trackerNumbers.foldl (fun s t => s.stepGroup slot t step ok) s

/-- A command's sums added into its group in one step (R508). -/
def State.addSums (s : State) (slot t : Nat) (dsq wsq : W32) (n : Nat) : State :=
  match s.groupBytes slot t with
  | none => s
  | some bs =>
    let g := groupOf bs
    if n = 0 then s else
    s.setGroup slot t { g with
      dsq := (addVal none (decode32 g.dsq) (decode32 dsq)).1, wsq := (addVal none (decode32 g.wsq) (decode32 wsq)).1
      elements := (g.elements + n) % 2 ^ 64, flags := g.flags ||| 8 }

/-- Terms by element index paired once: elements 2i and 2i + 1 are added, and one without its partner goes on as it is. -/
def pairIndexed : Tab W32 → Tab W32
  | e :: f :: l => if e.1 / 2 = f.1 / 2 then (e.1 / 2, (fadd e.2 f.2).1) :: pairIndexed l else (e.1 / 2, e.2) :: pairIndexed (f :: l)
  | [e] => [(e.1 / 2, e.2)]
  | [] => []
/-- Their sum in the fixed pairwise order of element index (R508). -/
def sumIndexed : Nat → Tab W32 → W32
  | _, [] => 0
  | _, [e] => e.2
  | 0, e :: _ => e.2
  | n + 1, t => sumIndexed n (pairIndexed t)

/-- The running update of a command. -/
def State.upd (s : State) (id : Nat) : Option Upd := s.upds.find? fun u => u.cmd == id

/-- An update leaves the engine: its sums join its group, its flags COLL_FLAGS, whatever its status. -/
def State.dropUpd (s : State) (id : Nat) : State :=
  match s.upd id with
  | none => s
  | some u =>
    let s0 : State := { s with upds := s.upds.filter fun d => d.cmd != id }
    let s1 := (s0.setTables u.slot (s0.tablesFor u.slot id)).addSums u.slot u.tgroup (sumIndexed 64 u.dsq) (sumIndexed 64 u.wsq) u.elements
    let s2 := (s1.setTables u.slot (s0.tablesOf u.slot)).count 0x7050 (u.slot + 1) u.elements
    s2.setPart u.slot { s2.part u.slot with collFlags := (s2.part u.slot).collFlags ||| u.flags }

end Sys2Proof.Machine
end

