-- ==== Sys2Proof/Machine/Reset.lean ====
section
/-!
DEFINITION. What a reset reaches and does: recognition, containment, the reset records and events, the reach of each kind,
retirement and escalation counts (R104 to R111, R159 to R161, R169, R170, R612 to R617, R676).
-/
namespace Sys2Proof.Machine

/-! ## Targets -/

/-- LAST_RESET_KIND of a target (R111). -/
def resetKind : ResetTarget → Nat
  | .cold => 1
  | .warm => 2
  | .hostPort _ => 3
  | .partition _ => 4
  | .core _ => 5
  | .nic => 6
/-- LAST_RESET_TARGET of a target. -/
def resetTargetNo : ResetTarget → Nat
  | .hostPort p => p.val
  | .partition i => i.val
  | .core c => c.val
  | _ => 0xFFFF
/-- Bits [27:24] of RESET_BEGIN and of the FUNC record: the slot, core or port, 0 otherwise (R159, R676). -/
def resetDetailNo (t : ResetTarget) : Nat := if resetTargetNo t = 0xFFFF then 0 else resetTargetNo t

/-- The reach of a reset contains that of another (R109). -/
def State.contains (s : State) (w n : ResetTarget) : Bool :=
  match w, n with
  | .cold, .cold => false
  | .cold, _ => true
  | .warm, .cold => false
  | .warm, .warm => false
  | .warm, _ => true
  | .hostPort p, .partition i => s.slotPort i.val == p.val
  | .hostPort p, .core c => (match (s.core c.val).holder with | some i => s.slotPort i == p.val | none => false)
  | .partition i, .core c => (s.core c.val).holder == some i.val
  | _, _ => false

/-- The functions a reset reaches: each function whose partition, port or core is reached (R159). -/
def State.reachFns (s : State) (t : ResetTarget) : List Nat :=
  match t with
  | .cold => s.presentFns
  | .warm => s.presentFns
  | .hostPort p => s.presentFns.filter fun f => f / 16 == p.val
  | .partition i => s.slotFns i.val
  | .core c => (match (s.core c.val).holder with | some i => s.slotFns i | none => [])
  | .nic => (s.boundSlots.filter fun i => !(s.heldFlows i).isEmpty || s.cmds.any fun d =>
      d.slot == i && d.phase == .running && d.unitClass s == .nic).flatMap s.slotFns

/-- The cores whose resets a reset takes in for as long as it runs: those its partitions hold when it is recognised (R109). -/
def State.reachedCores (s : State) (t : ResetTarget) : List Nat :=
  match t with
  | .hostPort p => ((List.range 16).filter fun i => s.slotPort i == p.val).flatMap s.heldCores
  | .partition i => s.heldCores i.val
  | _ => []

/-! ## Mailboxes at a function's reset (R169, R170, R176) -/

/-- A channel reaches DONE with a code, and interrupts when asked to. -/
def State.mboxDone (s : State) (f c code : Nat) : State :=
  let ch := s.chan f c
  let s1 := s.setChan f c { ch with state := .done, ackCode := BitVec.ofNat 16 code }
  if ch.irqEn then s1.interrupt f ch.vector.toNat else s1

/-- Messages to a reset function complete DEST_RESET; messages it had delivered are not acknowledged to it any more. -/
def State.mboxReset (s : State) (g : Nat) : State :=
  let senders := (List.range 32).flatMap fun f => ((s.fn f).chans.filter fun e =>
    (e.2.state == .pending || e.2.state == .delivered) && f != g && fnKey e.2.capDest.1 e.2.capDest.2.1 == g).map fun e => (f, e.1)
  let s1 := senders.foldl (fun s e => s.mboxDone e.1 e.2 0xFF03) s
  { s1 with fns := s1.fns.map fun e => (e.1, { e.2 with chans := e.2.chans.map fun c =>
      (c.1, match c.2.rxFrom with
        | some o => if fnKey o.1 o.2.1 = g then { c.2 with rxFrom := none } else c.2
        | none => c.2) }) }

/-! ## Functions at a reset (R161, R676) -/

/-- A ring whose indices and counts take their reset values and whose configuration stays: a ring in use goes on accepting records,
from its first slot, so that RESET_DONE finds it (R159, R161; ACTIVE follows the configuration, DEDUCED, log 82). -/
def EvRing.softReset (r : EvRing) : EvRing := { r with head := 0, tail := 0, lost := 0, writeError := false }

/-- Configuration space, MSI-X table and event-ring configuration stay; every other register takes its reset value (R161). -/
def Fn.softReset (f : Fn) : Fn :=
  { d3hot := f.d3hot
    held := f.held.filter fun h => match h with | .completion _ _ => false | _ => true
    msixTable := f.msixTable, msixEnable := f.msixEnable, msixMask := f.msixMask, bar4Log2 := f.bar4Log2
    ring := f.ring.softReset, rrec := f.rrec, cfg := f.cfg, aer := f.aer }
/-- PERST, hot reset and FLR reset the function as PCI Express requires, the event ring included, but for AER's sticky status
(PRESUMED, log 81); the record is outside. -/
def Fn.hardReset (f : Fn) : Fn := { rrec := f.rrec, aer := f.aer }

/-- The BAR4 accesses of a function that wait at its port are dropped. -/
def State.dropBar4 (s : State) (f : Nat) : State :=
  s.setPort (f / 16) { s.port (f / 16) with bar4 := (s.port (f / 16)).bar4.filter fun a => a.fn != f }

def State.resetFn (s : State) (hard : Bool) (f : Nat) : State :=
  let s1 := (s.mboxReset f).dropBar4 f
  s1.setFn f (if hard then (s1.fn f).hardReset else (s1.fn f).softReset)

/-- The FUNC reset record, written when the reset is recognised. -/
def State.writeFnRec (s : State) (t : ResetTarget) (cause f : Nat) : State :=
  let r := (s.fn f).rrec
  s.setFn f { s.fn f with rrec :=
    { target := resetDetailNo t, cause := BitVec.ofNat 16 cause, kind := resetKind t,
      count := BitVec.ofNat 32 (sat (2 ^ 32 - 1) (r.count.toNat + 1)), time := s.time, isNew := true } }

/-- DETAIL of RESET_BEGIN and RESET_DONE. -/
def resetDetail (t : ResetTarget) (cause : Nat) : Nat := resetKind t + 256 * cause + 2 ^ 24 * resetDetailNo t

/-! ## Counters at a reset (R105) -/

/-- Per-slot counters, subindex s + 1, cleared with the partition. -/
def slotCounters : List Nat :=
  [0x3014, 0x5030, 0x5031, 0x5032, 0x7030, 0x7031, 0x7032, 0x7040, 0x7041, 0x7042, 0x7043, 0x7044, 0x7045,
   0x7050, 0x7051, 0x7052, 0x7053, 0x7054, 0x7055, 0x7056, 0x7057, 0x7060, 0x7061, 0x7062, 0x7063, 0x7064,
   0x7070, 0x7071, 0x7072, 0x7073, 0x7074, 0x7075, 0x7076, 0x7077, 0x7078, 0x7079,
   0x7080, 0x7081, 0x7082, 0x7083, 0x7084, 0x7090, 0x7091, 0x7092, 0x7093]
/-- Per-core counters, subindex c + 1, cleared with the core; error counts feed health and are kept. -/
def coreCounters : List Nat :=
  [0x5010, 0x5011, 0x5012, 0x5013, 0x5014, 0x5015, 0x5020, 0x5021, 0x5022, 0x5023, 0x5024, 0x5025, 0x5026, 0x5040, 0x5041,
   0x5055, 0x5056, 0x5057, 0x5058, 0x5059, 0x7010, 0x7011, 0x7012, 0x7013, 0x7014, 0x7015, 0x7016, 0x7017,
   0x7020, 0x7021, 0x7022, 0x7023, 0x7024, 0x7033]
/-- Counters of the network interface. -/
def nicCounters : List Nat :=
  ((List.range 10).map fun i => dk 0x6030 (i + 1)) ++ (List.range 7).map fun i => dk 0x6031 (i + 1)

def State.clearKeys (s : State) (ks : List Nat) : State := ks.foldl (fun s k => s.dictSet k 0) s
def State.clearSlotCounters (s : State) (i : Nat) : State :=
  s.clearKeys ((slotCounters.map fun x => dk x (i + 1)) ++
    ([0x3020, 0x3021, 0x3022].flatMap fun x => (List.range 6).map fun r => dk x (6 * i + r + 1)))
def State.clearCoreCounters (s : State) (c : Nat) : State :=
  (s.clearKeys (coreCounters.map fun x => dk x (c + 1))).setCore c
    { s.core c with grantBase := (s.core c).grantBase.filter fun e => !coreCounters.contains e.1, grantPeak := 0, grantHot := 0 }

/-! ## Sources of the health score (R619) -/

/-- The sum of an entry over its subindices. -/
def State.entrySum (s : State) (index n : Nat) : Nat := (List.range n).foldl (fun t i => t + s.entry index (i + 1)) 0

/-- The running total of a source of R619, by number. -/
def State.healthTotal (s : State) (i : Nat) : Nat :=
  match i with
  | 1 => s.entrySum 0x5001 8
  | 2 => s.entrySum 0x5002 8
  | 3 => s.entrySum 0x5050 16
  | 4 => s.entrySum 0x5051 16
  | 5 => (s.hbmFrames.filter fun e => e.2.retired || e.2.retiring).length
  | 6 => s.sup.pcieErrors
  | 7 => s.entrySum 0x6023 16
  | 8 => s.entrySum 0x6021 16 + s.sup.linkRetrains
  | 9 => s.entrySum 0x7018 16
  | 10 => s.entrySum 0x7025 16
  | 11 => s.entrySum 0x8015 21
  | _ => ((List.range 16).filter fun c => (s.core c).retired == 1).length

/-- A reset that clears counters takes nothing from what the present health period has counted: each source's last total moves with it. -/
def State.healthMoved (t s : State) : State :=
  { t with sup := { t.sup with healthPrev := (List.range 12).foldl (fun l j =>
      tabSet 0 l (j + 1) (tabGet 0 l (j + 1) + (t.healthTotal (j + 1) : Int) - s.healthTotal (j + 1))) s.sup.healthPrev } }

/-! ## The reach of each reset (R105, R106) -/

/-- A partition's work discarded, its holdings released and zeroed, its flows closed, its registers at reset. -/
def State.reachPartition (s : State) (i : Nat) (depart hard : Bool) : State :=
  let s1 := s.closeFlows (some i) depart
  let s2 := s1.discardSlot i
  let s3 := (s2.heldCores i).foldl (fun s c => s.setCore c { (s.core c).stopEngines with flags := 0 }) s2
  let s4 := (s3.heldCores i).foldl (fun s c => s.clearCoreCounters c) s3
  let s5 := (s4.releaseAll i).setPart i {}
  let s6 := s5.clearSlotCounters i
  match s.slotFn i with
  | some f => s6.resetFn hard f
  | none => s6

/-- A core: its running command completes HANG_RESET, its scratch is zeroed, its cocoons stay. -/
def State.reachCore (s : State) (c cause : Nat) : State :=
  let live := s.cmds.filter fun d => d.units.contains c && (d.phase == .running || d.phase == .saving)
  let s1 := live.foldl (fun s d => s.endCmd d.id 0x0203 cause) s
  let s2 := live.foldl (fun s d => d.cores.foldl (fun s k => s.setCore k ((s.core k).stopEngines.keepMerge (s.core k).tile)) s) s1
  let back := fun (d : Cmd) => if d.units.contains c ∧ d.phase = .restoring then { d with phase := .displaced } else d
  let s3 : State := { s2 with cmds := s2.cmds.map back }
  let s4 := ((s3.zeroCore c).clearCoreCounters c).clearErrs (unitOfCore c)
  s4.setCore c { (s4.core c).stopEngines.keepMerge (s4.core c).tile with flags := 0, gen := ((s4.core c).gen + 1) % 16, issue := [], tlb := [] }

/-- The network interface: its commands complete HANG_RESET, its flows and engines are lost (R105, R106, R553). -/
def State.reachNic (s : State) (cause : Nat) (depart : Bool) : State :=
  let s1 := s.closeFlows none depart
  let live := s1.cmds.filter fun d => d.phase == .running && d.unitClass s1 == .nic
  let s2 := live.foldl (fun s d => s.endCmd d.id 0x0203 cause) s1
  let s3 := live.foldl (fun s d =>
    if (s.part d.slot).stepState = .voting then s.toDoubt d.slot
    else if (s.part d.slot).stepState = .molting then s.moltUndone d.slot
    else s) (s2.upds.foldl (fun s u => s.dropUpd u.cmd) (s2.colls.foldl (fun s c => s.dropColl c.cmd) s2))
  (({ s3 with colls := [], upds := [], molts := [], loopback := [], nicGen := (s3.nicGen + 1) % 16 }).clearKeys nicCounters).clearErrs
    (fun u => u / 4096 == 6)

/-- What of a partition a warm reset loses: tokens, long operations, step and brood state, and its registers (R105, R161). -/
def Part.warmReset (p : Part) : Part :=
  { side0 := p.side0, side1 := p.side1, twins := p.twins, liveSide1 := p.liveSide1, regs := p.regs, hardening := p.hardening,
    image0 := p.image0, image1 := p.image1, scrubFrom := p.scrubFrom, epoch := p.epoch + 1 }

/-- A warm reset's reach, but for the profile (R105, R110 steps 2 to 5). -/
def State.reachWarm (s : State) (depart : Bool) : State :=
  let s1 := s.closeFlows none depart
  let s2 := (List.range 16).foldl (fun s i => s.discardSlot i) s1
  let s3 := (List.range 16).foldl (fun s i => s.clearSlotCounters i) s2
  let s4 := (List.range 16).foldl (fun s c => (s.zeroCore c).clearCoreCounters c) s3
  let s5 := (List.range 16).foldl (fun s c => s.setCore c { (s.core c).stopEngines with
    flags := 0, gen := ((s.core c).gen + 1) % 16, issue := [], slots := [], cocoons := [], hung := false, draining := false }) s4
  let s6 := (List.range 32).foldl (fun s f => (s.dropBar4 f).setFn f (s.fn f).softReset) s5
  let s7 : State := { s6 with
    parts := (s6.parts.map fun e => (e.1, e.2.warmReset)).filter fun e => decide (e.2 ≠ {})
    colls := [], upds := [], molts := [], loads := [], loadDigests := [], ckpts := []
    nicGen := (s6.nicGen + 1) % 16, nicHung := false, persist := s6.dict.filter fun e => dictPersistent e.1
    power := { s6.power with plls := s6.power.plls.filter fun e => match e.1 with | .core _ => false | _ => true } }
  (s7.clearKeys (dk 0x7085 1 :: nicCounters)).clearErrs (fun _ => true)

/-- What is left of a frame's record at a cold reset: the persistent retired list. -/
def Frame.coldReset (f : Frame) : Frame := { retired := f.retired || f.retiring, noSpare := f.noSpare }

/-- A cold reset's reach: everything but what VIN, the always-on domain, the flash and the outside keep (R105, R111, R609, R631).
SLOT_ID reads 0 until it is sampled, so that a halt at step 3 leaves the I3C static address 0x48 (DESIGN CHOICE, log 109). -/
def State.reachCold (s : State) (depart : Bool) : State :=
  let s1 := if depart then (s.flows.map (·.1)).foldl (fun s f => s.sendDepart f) s else s
  { pending := s1.pending, out := s1.out, freeCtr := s1.freeCtr, time := s1.time
    power := { state := .coldReset, vinHold := s1.power.vinHold, crystalHold := s1.power.crystalHold,
               warnActive := s1.power.warnActive, warnBegan := s1.power.warnBegan, warnCarry := s1.power.warnCarry,
               warnMinMv := s1.power.warnMinMv, warnClear := s1.power.warnClear, hotAt := s1.power.hotAt,
               vinClear := s1.power.vinClear
               cxlPerst := if s1.power.state = .coldReset then s1.power.cxlPerst else s1.power.refclkFrom.isSome
               coldFrom := if s1.power.state = .coldReset then s1.power.coldFrom else s1.time }
    pins := { s1.pins with protectLow := false }
    phys := s1.phys, fuses := s1.fuses, flash := s1.flash, persist := s1.persist
    resetRec := s1.resetRec, resetLog := s1.resetLog
    ports := (s1.ports.map fun e => (e.1, ({ perst := e.2.perst } : Port))).filter fun e => decide (e.2 ≠ {})
    dict := s1.persist, hostMem := s1.hostMem, nextId := s1.nextId
    hbmFrames := (s1.hbmFrames.map fun e => (e.1, e.2.coldReset)).filter fun e => decide (e.2 ≠ {})
    spareNext := s1.spareNext
    sup := { bootCtl := s1.sup.bootCtl, changes := s1.sup.changes.filter fun e => dictPersistent e.1,
             supDump := s1.sup.supDump, flashLog := s1.sup.flashLog, flashDumps := s1.sup.flashDumps,
             sparesOut := s1.sup.sparesOut, certOk := s1.sup.certOk, healthPrev := s1.sup.healthPrev } }

/-! ## Recognition (R104, R107, R109, R111, R614, R615, R617) -/

/-- DEPART precedes the reset unless R107 excepts its cause. -/
def departCause (t : ResetTarget) (cause : Nat) : Bool :=
  match t with
  | .cold => cause == 0x02 || cause == 0x20 || cause == 0x30 || cause == 0x40
  | .nic => cause != 0x30
  | .core _ => false
  | _ => true

/-- A counted reset's time kept: the newest n. -/
def keepLast (n : Nat) (l : List Nat) (x : Nat) : List Nat := (l ++ [x]).drop ((l.length + 1) - n)

/-- The record of the always-on domain (R111). A reset that another absorbs, or that repeats one in progress, is recorded and
is no further reset to count (R74, R109). -/
def State.recordReset (s : State) (t : ResetTarget) (cause : Nat) (counts : Bool) : State :=
  let r : ResetRec := { kind := resetKind t, cause := BitVec.ofNat 16 cause, time := s.time, target := BitVec.ofNat 16 (resetTargetNo t) }
  let s1 : State := { s with resetRec := r, resetLog := s.resetLog ++ [r] }
  if !counts then s1 else
  match t with
  | .warm => s1.count 0x2010 6 1
  | .cold =>
    let n := (tabFind s1.dict (dk 0x2010 5)).getD 0 + 1
    { s1 with dict := tabPut s1.dict (dk 0x2010 5) n, persist := tabPut s1.persist (dk 0x2010 5) n }
  | _ => s1

/-- A recognition that R614 counts. -/
def countedReset (t : ResetTarget) (cause : Nat) : Bool :=
  match t with
  | .core _ => cause == 0x30 || cause == 0x31
  | .warm => cause != 0x20
  | _ => false

/-- Counting for escalation: the state with the time kept, whether a core retires, whether the device goes out of service. -/
def State.countReset (s : State) (t : ResetTarget) (cause : Nat) : State × Bool × Bool :=
  if !countedReset t cause then (s, false, false) else
  match t with
  | .core c =>
    let k := (s.core c.val).keptResets
    let retire := decide (k.length = 2) && decide (s.time ≤ k.headD 0 + 3600000000)
    (s.setCore c.val { s.core c.val with keptResets := keepLast 2 k s.time, retiring := (s.core c.val).retiring || retire }, retire, false)
  | .warm =>
    let k := s.sup.keptWarm
    ({ s with sup := { s.sup with keptWarm := keepLast 5 k s.time } }, false,
     decide (k.length = 5) && decide (s.time ≤ k.headD 0 + 86400000000))
  | _ => (s, false, false)

/-- The reach of a target applied. -/
def State.reach (s : State) (t : ResetTarget) (cause : Nat) (hard : Bool) : State :=
  let d := departCause t cause
  match t with
  | .cold => (s.reachCold d).healthMoved s
  | .warm => s.reachWarm d
  | .hostPort p =>
    let slots := (List.range 16).filter fun i => s.slotPort i == p.val
    let s1 := slots.foldl (fun s i => s.reachPartition i d hard) s
    let s2 := ((List.range 16).map (fnKey p.val)).foldl (fun s f => s.resetFn hard f) s1
    s2.setPort p.val { s2.port p.val with numVfs := 0, vfEnable := false }
  | .partition i => s.reachPartition i.val d hard
  | .core c => s.reachCore c.val cause
  | .nic => s.reachNic cause d

/-- The core of a core reset. -/
def coreTarget : ResetTarget → List Nat
  | .core c => [c.val]
  | _ => []

/-- Cores whose absorbed resets were to retire them are still to be retired, by the reset that absorbs them (R109, R645). -/
def State.keepRetiring (s : State) (cs : List Nat) : State :=
  cs.foldl (fun s c => s.setCore c { s.core c with retiring := true }) s

/-- A run that takes in one more recognition: its cause, and the core and the hold it brings (R103, R109, R614). -/
def ResetRun.absorb (x : ResetRun) (t : ResetTarget) (cause now : Nat) (retire hold oos : Bool) : ResetRun :=
  { x with causes := x.causes ++ [BitVec.ofNat 16 cause], retire := x.retire || (retire && x.target == t),
           cores := if x.target == t then x.cores else (coreTarget t).foldl addNew x.cores
           hold := x.hold || hold, holdFrom := if hold && !x.hold then now else x.holdFrom
           counted := x.counted || (x.target == t && countedReset t cause), oos := x.oos || oos }

/-- A reset in progress takes in a recognised one: the same, one its reach contains, or that of a core it has released (R109). -/
def State.takesIn (s : State) (r : ResetRun) (t : ResetTarget) : Bool :=
  r.target == t || s.contains r.target t || (coreTarget t).any (r.reached.contains ·)

/-- A reset recognised: absorbed by a wider or equal one in progress, or begun, taking over the narrower ones (R109).
One reset is counted once, at the first recognition that makes it a counted one (R102, R614). `again` is a cold reset recognised
during one, which begins its steps anew and is the same reset (R74, R109, R119). -/
def State.raiseReset (s : State) (t : ResetTarget) (cause : Nat) (hard retire : Bool := false) (hold : Bool := false)
    (again : Bool := false) : State :=
  match s.resets.find? fun r => s.takesIn r t with
  | some r =>
    let s1 := (s.recordReset t cause false).keepRetiring (if retire && r.target != t then coreTarget t else [])
    let (s2, ret, oos) := if r.target == t && !r.counted then s1.countReset t cause else (s1, false, false)
    { s2 with resets := s2.resets.map fun x => if x.target == r.target then x.absorb t cause s.time (retire || ret) hold oos else x }
  | none =>
    let inner := s.resets.filter fun r => s.contains t r.target
    let fence := match t with
      | .core c => s.entry 0x8011 (c.val + 1) == 1
      | .nic => s.entry 0x8011 17 == 1
      | _ => false
    let s1 := s.recordReset t cause (!again)
    let (s2, ret, oos) := s1.countReset t cause
    let fns := s.reachFns t
    let s3 := if t = .cold then s2 else
      (fns.foldl (fun s f => s.writeFnRec t cause f) s2).event 1 (resetDetail t cause) fns
    let s4 := (s3.reach t cause hard).keepRetiring ((inner.filter (·.retire)).flatMap fun r => coreTarget r.target)
    let run : ResetRun := { target := t, causes := inner.flatMap (·.causes) ++ [BitVec.ofNat 16 cause], began := s.time,
                            cause := BitVec.ofNat 16 cause, fns := fns, fence := fence,
                            cores := inner.flatMap fun r => coreTarget r.target ++ r.cores, reached := s.reachedCores t,
                            counted := countedReset t cause,
                            retire := retire || ret, hold := hold, holdFrom := s.time, oos := oos }
    { s4 with resets := if t = .cold then [run] else (s4.resets.filter fun r => !s.contains t r.target) ++ [run] }

/-! ## Retirement of a core (R615, R616, R624) -/

/-- Core guarantees that free and held cores no longer cover, saturating at 15. -/
def State.uncoveredCores (s : State) : Nat :=
  sat 15 ((s.boundSlots.foldl (fun n i => n + (s.guarOf 1 i - s.heldOf 1 i)) 0) - s.freeOf 1)

/-- The blocks of a core: its engines and its bank groups. -/
def coreBlocks (c : Nat) : List Nat := [matrixBlock c, vectorBlock c] ++ (List.range 80).map (groupBlock c)

/-- The engines and bank groups of a core in a power state. -/
def State.setCoreBlocks (s : State) (c : Nat) (st : PowerState) : State :=
  (coreBlocks c).foldl (fun s b => s.setBlock b { st := st, since := s.time }) s

/-- Blocks no ALLOC waits for any more: one that waits for no other completes OK (R85, R223, R225). -/
def State.allocArrived (s : State) (bs : List Nat) : State :=
  let s1 : State := { s with cmds := s.cmds.map fun c => { c with awaits := c.awaits.filter fun b => !bs.contains b } }
  (s.cmds.filter fun c => !c.awaits.isEmpty && c.awaits.all (bs.contains ·)).foldl (fun s c =>
    s.endCmd c.id 0 (if (allocArgs c.record).kind = 1 then maskOf (s.heldCores c.slot) else c.work)) s1

/-- Every command bound to the core completes HANG_RESET, the core leaves its partition and enters OFF for good. An ALLOC that waited for
its blocks waits no more (R223). -/
def State.retireCore (s : State) (c cause : Nat) : State :=
  let ids := (s.boundTo c).map (·.id)
  let fns := (match (s.core c).holder with | some i => s.slotFns i | none => []) ++ s.platformFns
  let s1 := ids.foldl (fun s id => s.endCmd id 0x0203 cause) s
  let s2 : State := { s1 with cores := s1.cores.map fun e => (e.1, { e.2 with cocoons := e.2.cocoons.map fun o => if ids.contains o.cmd then o.mergeOnly else o }) }
  let s3 := if (s2.core c).holder.isSome then s2.releaseCore c else s2
  let s4 := s3.setCore c { s3.core c with retired := 1, retiring := false }
  let s5 := (s4.setCoreBlocks c .off).setPll (.core (Fin.ofNat 16 c)) {}
  (s5.allocArrived (coreBlocks c)).event 0x0803 (c + 16 * s4.uncoveredCores) fns

end Sys2Proof.Machine
end

