-- ==== Sys2Proof/Machine/Boot.lean ====
section
/-!
DEFINITION. Boot: flash, the boot control record, firmware slots, the boot profile, the envelopes, the steps of R113 and
the profile stage of a warm reset (R76, R92 to R94, R112 to R132, R350, R616, R649 to R664, R670).
-/
namespace Sys2Proof.Machine

/-! ## Flash (R112) -/

/-- A byte of flash; what nothing has written reads erased, 0xFF (log 14). -/
def State.flashByte (s : State) (a : Nat) : Byte := tabGet 0xFF s.flash a
/-- n bytes of flash. -/
def State.flashRead (s : State) (a : Nat) : Nat → List Byte
  | 0 => []
  | n + 1 => s.flashByte a :: s.flashRead (a + 1) n
/-- Bytes written to flash. -/
def flashWrite (m : Mem) (a : Nat) : List Byte → Mem
  | [] => m
  | b :: bs => flashWrite (tabSet 0xFF m a b) (a + 1) bs
/-- A region erased. -/
def flashErase (m : Mem) (a n : Nat) : Mem := tabClear m a n

def bootCtlBase (k : Nat) : Nat := 0x1000 * k
def slotBase (k : Nat) : Nat := if k = 0 then 0x00010000 else 0x03010000
def slotSize : Nat := 50331648
def profileBase (k : Nat) : Nat := if k = 0 then 0x06010000 else 0x06020000

/-! ## The boot control record (R661) -/

/-- Bytes 0x00 to 0x3B of a record. -/
def BootCtl.body (b : BootCtl) : List Byte :=
  [0x42#8, 0x58#8, 0x42#8, 0x43#8] ++ bytesOfNat b.seq.toNat 4 ++ bytesOfNat b.activeSlot 1 ++ bytesOfNat b.trialSlot 1 ++
  bytesOfNat b.trialLeft 1 ++ bytesOfNat (if b.expired then 1 else 0) 1 ++ List.replicate 48 0
/-- The 64 bytes of a record. -/
def BootCtl.bytes (b : BootCtl) : List Byte := b.body ++ bytesOfNat (crc32c b.body).toNat 4
/-- The record a copy holds, when its CRC is valid. -/
def State.bootCtlCopy (s : State) (k : Nat) : Option BootCtl :=
  let bs := s.flashRead (bootCtlBase k) 64
  if bs.take 4 = [0x42#8, 0x58#8, 0x42#8, 0x43#8] ∧ field bs 60 4 = (crc32c (bs.take 60)).toNat then
    some { seq := BitVec.ofNat 32 (field bs 4 4), activeSlot := field bs 8 1, trialSlot := field bs 9 1,
           trialLeft := field bs 10 1, expired := bitAt (field bs 11 1) 0 }
  else none
/-- The copy the boot ROM uses: the valid one with the larger SEQ. -/
def State.bootCtlNewest (s : State) : Option (Nat × BootCtl) :=
  match s.bootCtlCopy 0, s.bootCtlCopy 1 with
  | some a, some b => if a.seq.toNat < b.seq.toNat then some (1, b) else some (0, a)
  | some a, none => some (0, a)
  | none, some b => some (1, b)
  | none, none => none
/-- A new record committed to the older copy. -/
def State.commitBootCtl (s : State) (b : BootCtl) : State :=
  let k := match s.bootCtlNewest with | some (0, _) => 1 | _ => 0
  let b1 := { b with seq := s.sup.bootCtl.seq + 1 }
  { s with flash := flashWrite s.flash (bootCtlBase k) b1.bytes, sup := { s.sup with bootCtl := b1 } }

/-! ## Firmware slots (R650, R651) -/

/-- A slot's manifest, bytes 0x0000 to 0x1FFF. -/
def State.manifest (s : State) (k : Nat) : List Byte := s.flashRead (slotBase k) 0x168D
/-- The part record of index j of a manifest: type, version, offset, length, digest. -/
def partRec (m : List Byte) (j : Nat) : Nat × Nat × Nat × Nat × List Byte :=
  let o := 0x40 + 64 * j
  (field m o 1, field m (o + 4) 4, field m (o + 8) 4, field m (o + 12) 4, (m.drop (o + 0x20)).take 32)
def pkgBytes (m : List Byte) : Nat := field m 0x0C 4
def securityVer (m : List Byte) : Nat := field m 8 1

/-- The form check of R651. -/
def manifestForm (m : List Byte) : Bool :=
  let parts := (List.range 5).map (partRec m)
  let types := parts.map (·.1)
  let spans := parts.map fun p => (p.2.2.1, p.2.2.2.1)
  m.take 4 == [0x43#8, 0x52#8, 0x46#8, 0x50#8] && field m 4 2 == 1 && field m 6 2 == 5 && decide (securityVer m ≤ 64) &&
  field m 9 3 == 0 && decide (8192 ≤ pkgBytes m) && decide (pkgBytes m ≤ slotSize) && field m 0x10 16 != 0 && field m 0x20 32 == 0 &&
  [1, 2, 3, 4, 5].all (types.contains ·) &&
  (List.range 5).all (fun j => field m (0x40 + 64 * j + 1) 3 == 0 && field m (0x40 + 64 * j + 0x10) 16 == 0) &&
  spans.all (fun p => p.1 % 4096 == 0 && decide (0x2000 ≤ p.1) && decide (1 ≤ p.2) && decide (p.1 + p.2 ≤ pkgBytes m)) &&
  (List.range 5).all fun i => (List.range 5).all fun j =>
    decide (i = j) || (let a := spans.getD i (0, 0); let b := spans.getD j (0, 0); decide (a.1 + a.2 ≤ b.1) || decide (b.1 + b.2 ≤ a.1))

/-- The key check: SHA-256 of the two public keys equals a fused hash. -/
def keyMatches (ecdsaPub mldsaPub : List Byte) (hash : List Byte) : Bool := Sha.sha256 (ecdsaPub ++ mldsaPub) == hash

/-- The first status of R657 that fails a package in a slot; 0 when it is valid. -/
def State.slotStatus (s : State) (k : Nat) (ecdsa mldsa : Bool) : Nat :=
  let m := s.manifest k
  if !manifestForm m then 4
  else if !(keyMatches ((m.drop 0x180).take 64) ((m.drop 0x200).take 1952) s.fuses.fwKeyHash) || !ecdsa || (s.fuses.dualSig && !mldsa) then 5
  else if !(List.range 5).all (fun j => let p := partRec m j
      Sha.sha256 (s.flashRead (slotBase k + p.2.2.1) p.2.2.2.1) == p.2.2.2.2) then 4
  else if securityVer m < s.fuses.rollback then 6
  else 0

/-- A slot verifies, with the signature results the module holds for it. -/
def State.slotValid (s : State) (k : Nat) : Bool :=
  s.slotStatus k (tabGet false s.phys.slotEcdsa k) (tabGet false s.phys.slotMldsa k) == 0

/-- A slot marked invalid before its first erase (R659). -/
def State.invalidateSlot (s : State) (k : Nat) : State :=
  { s with flash := flashErase s.flash (slotBase k) slotSize
           phys := { s.phys with slotEcdsa := tabDel s.phys.slotEcdsa k, slotMldsa := tabDel s.phys.slotMldsa k } }

/-! ## The profile (R120 to R124) -/

/-- A slot record of a profile copy. -/
def slotRec (p : List Byte) (i : Nat) : List Byte := (p.drop (0x40 + 128 * i)).take 128

/-- A function exists under a shape and the VF counts. -/
def profileFnExists (p : List Byte) (port fn : Nat) : Bool :=
  let shape := field p 6 2 % 4
  (port == 0 && decide (fn ≤ field p 0x0E 1)) || (port == 1 && shape == 0 && decide (fn ≤ field p 0x0F 1))

/-- The checks of R123 on one slot record. -/
def slotRecOk (p : List Byte) (enabled : Nat) (cxl : Bool) (i : Nat) : Bool :=
  let r := slotRec p i
  let regs := (List.range 6).map fun x => (field r (0x20 + 4 * x) 2, field r (0x22 + 4 * x) 2)
  let bound := field r 0 1 != 0xFF
  field r 3 1 == 0 && field r 7 1 == 0 && field r 0x1C 4 == 0 && field r 0x38 72 == 0 &&
  (if !bound then (r.drop 1).all (· == 0) else
    profileFnExists p (field r 0 1) (field r 1 1) &&
    decide (field r 2 1 ≤ 1) && decide (field r 4 1 ≤ enabled) && decide (field r 5 1 ≤ field r 4 1) && decide (field r 6 1 ≤ 64) &&
    decide (field r 0x0C 4 ≤ field r 8 4) && decide (field r 0x14 4 ≤ field r 0x10 4) && (cxl || (field r 0x10 4 == 0 && field r 0x14 4 == 0)) &&
    decide (field r 0x18 2 ≤ 16384) && decide (field r 0x1A 2 ≤ field r 0x18 2) && regs.all fun e => decide (e.1 ≤ e.2))

/-- The sum of a slot field over the bound slots. -/
def profileSum (p : List Byte) (off n : Nat) : Nat :=
  ((List.range 16).filter fun i => field (slotRec p i) 0 1 != 0xFF).foldl (fun t i => t + field (slotRec p i) off n) 0

/-- The schedulable capacity for floors, in GB/s: HBM reads and writes together, CXL, H0, H1, Ethernet (R248). With one x16
port there is no H1, R248 has no row for it, and its floors must sum to 0 (DESIGN CHOICE, log 83). -/
def floorsFit (p : List Byte) : Bool :=
  let f := fun x => profileSum p (0x20 + 4 * x) 2
  let x16 := field p 6 2 % 4 == 1
  decide (f 0 + f 1 ≤ 11000) && decide (f 2 ≤ 100) && decide (f 3 ≤ if x16 then 96 else 48) && decide (f 4 ≤ if x16 then 0 else 48) &&
  decide (f 5 ≤ 350)

/-- Every check of R123 but the signatures and the key, on the 7,501 bytes of a copy. -/
def profileForm (p : List Byte) (enabled : Nat) : Bool :=
  let fns := ((List.range 16).filter fun i => field (slotRec p i) 0 1 != 0xFF).map fun i => field (slotRec p i) 0 2
  p.take 4 == [0x42#8, 0x58#8, 0x50#8, 0x46#8] && field p 4 2 == 1 && decide (field p 6 2 % 4 ≤ 1) && field p 6 2 / 8 == 0 &&
  field p 0x10 48 == 0 && decide (field p 0x0E 1 ≤ 15) && decide (field p 0x0F 1 ≤ 15) &&
  (field p 0x0C 1 == 0xFF || profileFnExists p (field p 0x0C 1) (field p 0x0D 1)) &&
  (List.range 16).all (slotRecOk p enabled (bitAt (field p 6 2) 2)) && fns.eraseDups.length == fns.length &&
  decide (profileSum p 5 1 ≤ enabled) && decide (profileSum p 0x0C 4 ≤ 258048) && decide (profileSum p 0x1A 2 ≤ 16384) && floorsFit p

/-- Enabled cores, as a count. -/
def State.enabledCount (s : State) : Nat := ((List.range 16).filter s.coreEnabled).length

/-- A profile's bytes pass R123, given what its signature checks found. -/
def State.profileOk (s : State) (p : List Byte) (ecdsa mldsa : Bool) : Bool :=
  profileForm p s.enabledCount && s.fuses.profileKeyFused &&
  keyMatches ((p.drop 0x840).take 64) ((p.drop 0x8C0).take 1952) s.fuses.profileKeyHash && ecdsa && (!s.fuses.dualSig || mldsa)

def State.profileCopy (s : State) (k : Nat) : List Byte := s.flashRead (profileBase k) 0x1D4D
def State.copyValid (s : State) (k : Nat) : Bool :=
  s.profileOk (s.profileCopy k) (tabGet false s.phys.copyEcdsa k) (tabGet false s.phys.copyMldsa k)
def profileSeqOf (p : List Byte) : Nat := field p 8 4

/-- The copy R124 selects. -/
def State.selectCopy (s : State) : Option Nat :=
  match s.copyValid 0, s.copyValid 1 with
  | true, true => if profileSeqOf (s.profileCopy 0) < profileSeqOf (s.profileCopy 1) then some 1 else some 0
  | true, false => some 0
  | false, true => some 1
  | false, false => none

/-- The envelope words a profile gives, bit for bit (R126). -/
def profileEnv (p : List Byte) : Tab W32 :=
  (List.range 512).foldl (fun t k => tabSet 0 t k (BitVec.ofNat 32 (field p (0x40 + 4 * k) 4))) []

/-- A platform function: with port 0xFF a profile has none, and its function byte names none (R129, DEDUCED, log 110). -/
def platformKey (port fn : Nat) : Nat := if port = 0xFF then 0xFF00 else 256 * port + fn
/-- Shape, VF counts and platform function of a profile. -/
def profileShape (p : List Byte) : List Nat :=
  [field p 6 2, field p 0x0E 1, field p 0x0F 1, platformKey (field p 0x0C 1) (field p 0x0D 1)]

/-- A warning bit of R128 set. -/
def Boot.warned (b : Boot) (i : Nat) : Boot := { b with warn := b.warn ||| BitVec.ofNat 8 (2 ^ i) }

/-- The profile in force: the header's facts. -/
def Boot.takeProfile (b : Boot) (k : Nat) (p : List Byte) : Boot :=
  { b with profileCopy := k, profileSeq := BitVec.ofNat 32 (profileSeqOf p), hostShape := field p 6 2 % 4,
           cxlEnable := bitAt (field p 6 2) 2, platformPort := field p 0x0C 1, platformFn := field p 0x0D 1,
           vfCount := tabSet 0 (tabSet 0 [] 0 (field p 0x0E 1)) 1 (field p 0x0F 1),
           measurements := tabSet [] b.measurements 8 (Sha.sha256 (p.take 0x840)) }

/-! ## Bad groups (R350, R354, R616) -/

/-- The presentation of every core after a warm or cold reset: fused and field maps joined; more than four retires, and a
retired core is OFF (R85). -/
def State.presentCores (s : State) : State :=
  (List.range 16).foldl (fun s c =>
    let bad := tabGet 0 s.fuses.badGroups c ||| BitVec.ofNat 64 (s.entry 0x2032 (c + 1))
    let k := s.core c
    let r := if !s.coreEnabled c then 3 else if k.retired = 1 then 1
             else if 4 < (maskList bad.toNat 64).length then 2 else 0
    let s1 := if r = 2 ∧ k.holder.isSome then s.releaseCore c else s
    let s2 := s1.setCore c { s1.core c with badGroups := bad, retired := r }
    if r = 2 ∧ k.retired ≠ 2 then (s2.setCoreBlocks c .off).setPll (.core (Fin.ofNat 16 c)) {} else s2) s

/-! ## The steps of a cold reset (R113) -/

/-- A halt of R130. -/
def State.haltBoot (s : State) (code : Nat) : State :=
  let s1 := s.count 0x2000 8 1
  { s1 with boot := { s1.boot with halt := code, stage := s1.boot.stage }
            persist := tabPut s1.persist (dk 0x2000 8) (s1.entry 0x2000 8) }

/-- The module stays held at step 1 by VIN or MOD_RESET_N (R74, R99). -/
def State.coldHeld (s : State) : Bool := s.power.vinHold || s.pins.modResetLow

/-- Steps 2 and 3, when nothing holds the module in cold reset: the crystal, trim, device time 0, SLOT_ID; the base and PHY PLLs
and CXL_REFCLK start, and step 4 begins. STAGE is 1 while VIN or MOD_RESET_N holds the module and 2 while the crystal is awaited
(R128, DEDUCED, log 84). -/
def State.coldTrim (s : State) : State :=
  if s.power.state ≠ .coldReset ∨ s.boot.halt ≠ 0 ∨ 3 ≤ s.boot.stage then s
  else if s.coldHeld then { s with boot := { s.boot with stage := 1 } }
  else if s.power.crystalHold then { s with boot := { s.boot with stage := 2 } }
  else if 3 ≤ s.phys.trimFails then
    ({ s with boot := { s.boot with stage := 3, trimAttempts := 3 }, phys := { s.phys with trimFails := s.phys.trimFails - 3 } }).haltBoot 1
  else
    let plls := ((List.range 4).map fun d => (PllId.base (Fin.ofNat 4 d), ({ running := true } : Pll))) ++
                (List.range 8).map fun d => (PllId.hbm (Fin.ofNat 8 d), ({ running := true } : Pll))
    let r := s.resets.map fun x => if x.target == .cold then { x with began := 0 } else x
    { s with
      boot := { s.boot with stage := 4, trimValid := true, trimAttempts := s.phys.trimFails + 1, slotId := s.pins.slotStrap }
      phys := { s.phys with trimFails := 0 }
      power := { s.power with state := .running, plls := plls, warnBegan := 0, warnClear := s.power.warnClear - s.time, hotAt := 0,
                              refclkFrom := some 0, cxlPerst := true,
                              warnCarry := if s.power.warnActive then s.power.warnCarry + (s.time - s.power.warnBegan) else 0 }
      resets := r, time := 0 }

/-- Step 1 of R113: a cold reset recognised, and as far as it can run at once. One recognised while another has neither ended
nor halted restarts its steps, keeps both causes and counts once (R74, R93, R109, R119). -/
def State.coldReset (s : State) (cause : Nat) : State :=
  let old := (s.resets.filter fun r => r.target == .cold).flatMap (·.causes)
  let s0 : State := { s with resets := s.resets.filter fun r => r.target != .cold }
  let s1 := s0.raiseReset .cold cause (again := s.inReset .cold && s.boot.halt == 0)
  let run := s1.resets.map fun (r : ResetRun) => { r with causes := old ++ r.causes }
  let s2 : State := { s1 with boot := { s1.boot with stage := 1 }, resets := run }
  s2.coldTrim

/-- Entry reports of a slot's package (R672). -/
def State.slotEntries (s : State) (k : Nat) : State :=
  let m := s.manifest k
  let ok := s.slotValid k
  let v := fun (x : Nat) => if ok then x else 0
  let s1 := (s.dictSet (dk 0xA001 (k + 1)) (v (field m 0x10 16))).dictSet (dk 0xA002 (k + 1)) (v (securityVer m))
  (List.range 5).foldl (fun s j => let p := partRec m j
    if 1 ≤ p.1 ∧ p.1 ≤ 5 then s.dictSet (dk 0xA003 (5 * k + p.1)) (v p.2.1) else s) s1

/-- The measurements of R670 taken at step 7. -/
def State.measure (s : State) : State :=
  let m := s.manifest s.boot.fwSlot
  let (rom, s1) := s.fresh
  let parts := (List.range 5).map fun j => let p := partRec m j; (p.1 + 1, p.2.2.2.2)
  let fuse := s.fuses.profileKeyHash ++ [if s.fuses.dualSig then 1 else 0, 1]
  let t0 := tabSet [] s1.boot.measurements 1 (Sha.sha256 (bytesOfNat rom.toNat 8))
  let t1 := parts.foldl (fun t e => tabSet [] t e.1 e.2) t0
  let t2 := tabSet [] t1 7 (Sha.sha256 (m.take 0x180 ++ bytesOfNat s.boot.fwSlot 1 ++ bytesOfNat (if s.boot.onTrial then 1 else 0) 1 ++
    bytesOfNat s.fuses.rollback 1))
  { s1 with boot := { s1.boot with measurements := tabSet [] t2 9 (Sha.sha256 fuse) } }

/-- A firmware slot selected and verified, the other tried once (R114, R663); halt 3 when neither verifies. -/
def State.pickFirmware (s : State) : State :=
  let b0 := match s.bootCtlNewest with | some e => e.2 | none => s.sup.bootCtl
  let s0 : State := { s with sup := { s.sup with bootCtl := b0 }, boot := { s.boot with stage := 7 } }
  let trial := decide (b0.trialSlot < 2)
  let expire := trial && b0.trialLeft = 0
  let s1 := if expire then
      (s0.commitBootCtl { b0 with trialSlot := 0xFF, expired := true }).event 0x0823 b0.trialSlot s0.platformFns
    else if trial then
      (s0.commitBootCtl { b0 with trialLeft := b0.trialLeft - 1 }).event 0x0821 (b0.trialLeft - 1) s0.platformFns
    else s0
  let onTrial := trial && !expire
  let want := if onTrial then b0.trialSlot else b0.activeSlot
  let s2 := if expire then { s1 with boot := s1.boot.warned 0 } else s1
  if s2.slotValid want then { s2 with boot := { s2.boot with fwSlot := want, onTrial := onTrial } }
  else
    let s3 := if onTrial then s2.commitBootCtl { s2.sup.bootCtl with trialSlot := 0xFF } else s2
    if s3.slotValid (1 - want) then { s3 with boot := { s3.boot.warned 0 with fwSlot := 1 - want, onTrial := false } }
    else s3.haltBoot 3

/-- The anti-rollback count raised to a security version, 64 at most (R658). -/
def State.blowTo (s : State) (sv : Nat) : State := { s with fuses := { s.fuses with rollback := max s.fuses.rollback (min 64 sv) } }

/-- What the always-on domain recorded is copied to the flash log (R111, R609); the spec gives the log no byte layout, and it
is held as the records themselves (log 85). -/
def State.copyToFlashLog (s : State) : State :=
  let d := if s.sup.supDump.isEmpty then [] else [s.sup.supDump]
  { s with resetLog := [], sup := { s.sup with
      flashLog := s.sup.flashLog ++ s.resetLog, flashDumps := s.sup.flashDumps ++ d, supDump := [] } }

/-- Step 7: the firmware, the anti-rollback fuses of a valid active package, the management lanes, the persistent dictionary
and the measurements (R113, R658, R670). -/
def State.bootFirmware (s : State) : State :=
  let s3 := s.pickFirmware
  if s3.boot.halt = 3 then s3 else
  let k := s3.sup.bootCtl.activeSlot
  let s4 := if s3.slotValid k then s3.blowTo (securityVer (s3.manifest k)) else s3
  let s5 := (s4.slotEntries 0).slotEntries 1
  let s6 := (s5.setPll .mgmt { running := true, released := true }).setPll .svc { running := true, released := true }
  let s7 : State := if s6.phys.persistOk then s6 else { s6 with dict := [], persist := [], boot := { s6.boot with persistLost := true } }
  let s8 := s7.measure
  s8.copyToFlashLog

/-- A port with its link off and disabled and its SerDes PLL stopped (R79); its PERST input stays as it is. -/
def State.disablePort (s : State) (p : Nat) : State :=
  (s.setPort p { perst := (s.port p).perst }).setPll (.pcie (Fin.ofNat 2 p)) {}

/-- Steps 4 to 7, once the base-die PLL of BD0 has locked: the boot ROM, the profile, the ports, the firmware; then step 8
begins. Where no copy is valid, R131 still has the firmware running: STAGE goes back to 5, the step that halts, once it has
started; where neither firmware slot verifies either, the halt shown is NO_FIRMWARE; and NO_FIRMWARE disables both ports,
which R130 states of its neighbours only (DESIGN CHOICE, log 84). -/
def State.bootRom (s : State) : State :=
  if s.boot.stage ≠ 4 ∨ s.boot.halt ≠ 0 then s else
  let s1 : State := { s with boot := { s.boot with stage := 5 } }
  if !s.phys.sfdpOk then s1.haltBoot 2 else
  let pick := if s1.fuses.profileKeyFused then s1.selectCopy else none
  match pick with
  | none =>
    let s2 := s1.bootFirmware
    if s2.boot.halt ≠ 0 then s2 else
      ({ s2 with boot := { s2.boot with stage := 5 } }).haltBoot (if s1.fuses.profileKeyFused then 5 else 4)
  | some k =>
    let bad := !(s1.copyValid 0 && s1.copyValid 1)
    let b := (if bad then s1.boot.warned 1 else s1.boot).takeProfile k (s1.profileCopy k)
    let s2 : State := { s1 with boot := { b with stage := 6 } }
    let enable := fun (s : State) (p : Nat) => s.setPort p { s.port p with enabled := true, training := !(s.port p).perst }
    let s3 := (enable s2 0).setPll (.pcie 0) { running := true, released := true }
    let s4 := if b.hostShape = 0 then (enable s3 1).setPll (.pcie 1) { running := true, released := true } else s3
    let s5 := s4.bootFirmware
    if s5.boot.halt = 3 then (s5.disablePort 0).disablePort 1 else { s5 with boot := { s5.boot with stage := 8 } }

/-- The frames of the expanders, lanes 0 to 7 first, 4 TiB at most (R174, R260). -/
def placeExpanders (t : Tab Expander) : Tab Expander :=
  let e0 := tabGet {} t 0
  let e1 := tabGet {} t 1
  let n0 := if e0.ready then min 67108864 e0.total else 0
  let n1 := if e1.ready then min (67108864 - n0) e1.total else 0
  tabSet {} (tabSet {} t 0 { e0 with base := 0, frames := n0 }) 1 { e1 with base := n0, frames := n1 }

/-- CXL_SHORT stands while the ready capacity does not cover the CXL guarantees (R118). -/
def State.cxlShort (s : State) : State :=
  let need := (s.boundSlots.foldl (fun n i => n + s.guarOf 4 i) 0)
  let have_ := s.expanders.foldl (fun n e => if e.2.ready then n + e.2.frames else n) 0
  { s with boot := { s.boot with warn := if have_ < need then s.boot.warn ||| 4#8 else s.boot.warn &&& ~~~4#8 } }

/-- Steps 8 and 9, once every base-die and PHY PLL has locked: HBM trained and zeroed, expanders, envelopes and their lock.
Two expanders at boot are two x8 links, since no x16 link forms across them (R171). -/
def State.bootMemory (s : State) : State :=
  if s.boot.stage ≠ 8 ∨ s.boot.halt ≠ 0 then s else
  if !s.phys.hbmFail.isEmpty then ((s.disablePort 0).disablePort 1).haltBoot 6 else
  let s2 : State := { s with hbm := [], hbmPoison := [] }
  let s3 := (List.range 256).foldl (fun s ch => s.setBlock (hbmBlock ch) { st := .active, since := s.time }) s2
  let s4 : State := if s3.boot.cxlEnable then
      let t := [0, 1].foldl (fun (t : Tab Expander) e => let n := tabGet 0 s3.phys.expanders e
        if n = 0 then t else tabSet {} t e { ready := true, linkUp := true, total := n }) []
      ({ s3 with expanders := placeExpanders t, power := { s3.power with
            cxlPerst := false, cxlSplit := decide (0 < tabGet 0 s3.phys.expanders 1) } }).setPll .cxl { running := true, released := true }
    else s3
  let mode := s4.entry 0x6000 1
  let phys := (List.range 16).foldl (fun t p => tabSet 0 t p (s4.entry 0x6000 (p + 2))) []
  let s5 : State := { s4 with portMode := mode, portPhy := phys }
  let s6 := (List.range 4).foldl (fun s g => s.setPll (.eth (Fin.ofNat 4 g)) { running := true, released := true })
    ((List.range 16).foldl (fun s l => s.setBlock (laneBlock l) { st := .active, since := s.time }) s5)
  let s7 : State := { s6 with boot := { s6.boot with stage := 9, env := profileEnv (s6.profileCopy s6.boot.profileCopy), envelopeLock := true } }
  s7.presentCores.cxlShort

/-- The host-ready event of step 10. It has no code in the event tables, and every event ring is disabled at step 10, so each
present function's LOST counts it and nothing else comes of it (R113, R158, log 9). -/
def State.hostReadyEvent (s : State) : State :=
  s.presentFns.foldl (fun s f => s.setFn f { s.fn f with ring := (s.fn f).ring.lose }) s

/-- Step 10: functions answer, admission opens unless out of service, records and self-test begin (R113, R664, R676). -/
def State.bootReady (s : State) : State :=
  let s1 : State := { s with
    boot := { s.boot with stage := 10, admitOpen := true, hostReadyUs := s.time }
    resets := s.resets.filter fun r => r.target != .cold
    sup := { s.sup with selftestFrom := s.time, healthFrom := s.time, divergeFrom := s.time, commitFrom := s.time } }
  let s2 := s1.dictSet (dk 0xA005 1) 1
  s2.presentFns.foldl (fun s f => s.setFn f { s.fn f with rrec :=
    { target := 0, cause := s.resetRec.cause, kind := 1, count := 0, time := s.resetRec.time, isNew := true } }) s2.hostReadyEvent

/-! ## The profile stage of a warm reset (R105, R110 step 6, R129) -/

/-- A slot's 32 envelope words. -/
def envOf (t : Tab W32) (i : Nat) : Tab W32 := tabSlice t (32 * i) 32

/-- The profile reapplied: the newest valid copy of the same shape, or the one in force, with PROFILE_DEFERRED. Before step 10
there are no envelopes to reapply: none exist in the service-only state (R131), and the end of a warm reset that runs in place of
the boot's last steps writes them (R119). -/
def State.reapplyProfile (s : State) : State :=
  if s.boot.stage ≠ 10 then s else
  let cur := [(if s.boot.cxlEnable then 4 else 0) + s.boot.hostShape, tabGet 0 s.boot.vfCount 0, tabGet 0 s.boot.vfCount 1,
              platformKey s.boot.platformPort s.boot.platformFn]
  let s1 : State := match s.selectCopy with
    | none => { s with boot := s.boot.warned 3 }
    | some k =>
      let p := s.profileCopy k
      if profileShape p = cur then
        let env := profileEnv p
        let changed := (List.range 16).filter fun i => decide (envOf env i ≠ envOf s.boot.env i)
        let s1 := changed.foldl (fun s i => (s.releaseAll i).setPart i {}) s
        { s1 with boot := { s1.boot.takeProfile k p with env := env } }
      else { s with boot := s.boot.warned 3 }
  ({ s1 with boot := { s1.boot with envelopeLock := true } }).presentCores.cxlShort

/-- A warm reset recognised: its reach, and the profile reapplied. -/
def State.warmReset (s : State) (cause : Nat) (hold : Bool := false) : State :=
  let fresh := !s.deviceReset
  let s1 := s.raiseReset .warm cause (hold := hold)
  if fresh then ({ s1 with boot := { s1.boot with admitOpen := false } }).reapplyProfile else s1

/-- Any reset recognised. -/
def State.doReset (s : State) (t : ResetTarget) (cause : Nat) (hard retire : Bool := false) : State :=
  match t with
  | .cold => s.coldReset cause
  | .warm => s.warmReset cause
  | _ => s.raiseReset t cause hard retire

end Sys2Proof.Machine
end

