-- ==== Sys2Proof/Machine/Regs.lean ====
section
/-!
DEFINITION. What the dictionary and the registers read: the entries that mirror state held elsewhere, and the blocks of
BAR0 (R143, R147, R163, R214, R627, R647, R674 to R683).
-/
namespace Sys2Proof.Machine

/-! ## Values the dictionary derives from state -/

/-- Presented width of a core (R350); 0 when disabled or retired. -/
def State.arrayWidth (s : State) (c : Nat) : Nat :=
  if s.coreEnabled c && (s.core c).retired == 0 then 512 - 8 * (maskList (s.core c).badGroups.toNat 64).length else 0
/-- 64 φ(c) of R353. -/
def State.fold64 (s : State) (c : Nat) : Nat := if (s.core c).badGroups = 0 then 64 else 81

/-- The code of a power state in CORE_STATE (R88). -/
def PowerState.code : PowerState → Nat
  | .active => 0 | .idle => 1 | .sleep => 2 | .off => 3
/-- The code of a step state (R541). -/
def StepState.code : StepState → Nat
  | .opened => 0 | .voting => 1 | .inDoubt => 2 | .molting => 3
/-- The code of a flow state (R446). -/
def FlowState.code : FlowState → Nat
  | .closed => 0 | .opening => 1 | .opened => 2 | .paused => 3 | .silent => 4 | .closing => 5 | .failed => 6
/-- The code of a long-operation state (R207). -/
def LongState.code : LongState → Nat
  | .free => 0 | .waiting => 1 | .running => 2 | .suspending => 3 | .diapause => 4 | .cancelling => 5
/-- The code of a staging state (R660). -/
def StageState.code : StageState → Nat
  | .free => 0 | .receiving => 1 | .verifying => 2 | .staged => 3 | .diapause => 4
/-- The code of a dump slot state (R610). -/
def DumpState.code : DumpState → Nat
  | .free => 0 | .capturing => 1 | .held => 2 | .exporting => 3 | .diapause => 4
/-- The code of a mailbox state (R163). -/
def MboxState.code : MboxState → Nat
  | .idle => 0 | .pending => 1 | .delivered => 2 | .done => 3

/-- A Bool as a bit. -/
def bit (b : Bool) : Nat := if b then 1 else 0

/-- LAST_OUTCOME of a decided point. -/
def Part.lastOutcome (p : Part) : Nat :=
  match p.lastPoint with
  | none => 0
  | some d => (if d.committed then 1 else 2) + (if d.molt then 128 else 0)

/-- Pages a partition maps in twinned regions, a 2 MiB page counting once (R575). -/
def Part.twinPages (p : Part) : Nat :=
  ((if p.liveSide1 then p.side1 else p.side0).filter fun e => p.isTwin e.1 && (!e.2.big || e.1 % 32 == 0)).length

/-- Frames of a tier in a condition. -/
def State.countFrames (s : State) (cxl : Bool) (f : Frame → Bool) : Nat :=
  ((if cxl then s.cxlFrames else s.hbmFrames).filter fun e => f e.2).length

/-- STEPPING: "B0" (R1, R2). -/
def stepping : List Byte := [0x42#8, 0x30#8]
/-- ORDERING_NUMBER by the enabled cores: "BX9-16C-512L", or "BX9-14C-512L" for a part with two cores fused off (R3, R4). -/
def State.orderingNumber (s : State) : List Byte :=
  [0x42#8, 0x58#8, 0x39#8, 0x2D#8, 0x31#8, if s.enabledCount = 16 then 0x36#8 else 0x34#8, 0x43#8, 0x2D#8, 0x35#8, 0x31#8, 0x32#8, 0x4C#8]

/-- The value of an entry that mirrors state held elsewhere; none for one held in State.dict. -/
def State.derived (s : State) (index sub : Nat) : Option Nat :=
  let i := sub - 1
  match index with
  | 0x1000 => match sub with
    | 2 => some (natOfBytes s.orderingNumber)
    | 3 => some (natOfBytes stepping)
    | 5 => some s.fuses.enabledCores.toNat
    | 9 => some s.boot.slotId.val
    | _ => none
  | 0x2000 => match sub with
    | 1 => some s.boot.stage
    | 2 => some s.boot.halt
    | 3 => some s.boot.warn.toNat
    | 4 => some s.boot.profileSeq.toNat
    | 5 => some s.boot.profileCopy
    | 6 => some (bit s.boot.envelopeLock)
    | 7 => some s.boot.hostReadyUs
    | _ => none
  | 0x2001 => if sub = 1 then some s.time else some (s.deviceState + 128 * bit s.boot.persistLost)
  | 0x2010 => match sub with
    | 1 => some s.resetRec.kind
    | 2 => some s.resetRec.cause.toNat
    | 3 => some s.resetRec.time
    | 4 => some s.resetRec.target.toNat
    | _ => none
  | 0x2030 => some (s.arrayWidth i)
  | 0x2031 => some (s.core i).badGroups.toNat
  | 0x2033 => some (s.fold64 i)
  | 0x2035 => some (s.core i).flags.toNat
  | 0x3001 => some (s.envField i 0 2)
  | 0x3002 => some (natOfBytes ((List.range 32).flatMap fun w => bytesOfNat (s.envWord i w) 4))
  | 0x3010 => some (maskOf (s.heldCores i))
  | 0x3011 => some (s.heldUnits false i)
  | 0x3012 => some (s.heldUnits true i)
  | 0x3013 => some (s.heldFlows i).length
  | 0x3030 => some (s.part i).srStep.toNat
  | 0x3031 => some (s.part i).collFlags.toNat
  | 0x3032 => some (bit (s.part i).updateFault)
  | 0x3040 => some (s.part i).stepState.code
  | 0x3041 => some (((s.part i).lastPoint.map (·.step.toNat)).getD 0)
  | 0x3042 => some (((s.part i).lastPoint.map (·.instar.toNat)).getD 0)
  | 0x3043 => some (s.part i).lastOutcome
  | 0x3044 => some (s.part i).brood.toNat
  | 0x3045 => some (bit (s.part i).liveSide1)
  | 0x4001 => if sub = 1 then some s.pins.vinMv else none
  | 0x4002 => if sub = 1 then some (bit s.power.warnActive) else none
  | 0x4011 => some ((s.block (matrixBlock i)).st.code + 4 * (s.block (vectorBlock i)).st.code)
  | 0x4012 => some (maskOf ((List.range 80).filter fun g =>
      (s.block (groupBlock i g)).st == .sleep || (s.block (groupBlock i g)).st == .off))
  | 0x5003 => some (s.hbmPoison.filter fun e => hbmStack (e.1 * lineBytes) == i && !(s.frame false (e.1 / 256)).retired).length
  | 0x5004 => if sub = 1 then some (s.countFrames false fun f => f.retired || f.retiring) else some s.sparesLeft
  | 0x5006 => match sub with
    | 1 => some (frameBytes * (s.expander 0).frames)
    | 2 => some (frameBytes * (s.expander 1).frames)
    | 3 => some (frameBytes * s.expanders.foldl (fun n e => if e.2.ready then n + (e.2.total - e.2.frames) else n) 0)
    | _ => some ((s.cxlPoison.filter fun e => !(s.frame true (e.1 / 256)).lost).length + 256 * s.countFrames true (·.lost))
  | 0x5007 => some (frameBytes * s.countFrames (sub == 2) (·.zeroing))
  | 0x5052 => some (tabKeys s.scratchPoison (scratchPoisonKey i 0 0) 5242880).length
  | 0x5060 => some (s.part i).twinPages
  | 0x5071 => some (bit (s.part i).hardening)
  | 0x5072 => some (s.part i).liveImage.imageId.toNat
  | 0x5073 => some ((s.part i).liveImage.shards.filter fun e => e.2.st == .poisoned).length
  | 0x6001 => some (s.macOf i)
  | 0x6011 => some (natOfBytes ((List.range 256).flatMap fun k => bytesOfNat (s.flow (256 * i + k)).state.code 1))
  | 0x6020 => some (bit (s.eth i).up)
  | 0x6050 => if sub = 1 then some (s.macOf 16) else none
  | 0x6051 => if sub = 1 then some (s.macOf 17) else none
  | 0x8000 => if sub = 2 then some s.sup.keptWarm.length else none
  | 0x8001 => some (if s.coreEnabled i then (s.core i).retired else 3)
  | 0x8002 => some (s.core i).keptResets.length
  | 0x8020 => some (tabGet {} s.sup.dumps i).state.code
  | 0x8021 => some (natOfBytes (tabGet {} s.sup.dumps i).header)
  | 0xA000 => match sub with
    | 1 => some s.sup.bootCtl.activeSlot
    | 2 => some s.sup.bootCtl.trialSlot
    | 3 => some s.sup.bootCtl.trialLeft
    | _ => some (s.boot.fwSlot + 128 * bit s.boot.onTrial)
  | 0xA004 => match sub with
    | 1 => some s.fuses.rollback
    | 2 => some (bit s.fuses.dualSig)
    | _ => some (bit s.fuses.profileKeyFused)
  | 0xA007 => if sub = 1 then some s.sup.staging.code else none
  | 0xA020 => if sub = 1 then some (natOfBytes ((Config.signature 0 []).take 64)) else none
  | _ => none

/-- An entry of a port that is absent under the port mode in force (R460). -/
def State.portAbsent (s : State) (index sub : Nat) : Bool :=
  let port := if index = 0x6000 then sub - 2 else sub - 1
  ((index == 0x6000 && decide (2 ≤ sub)) || (decide (0x6001 ≤ index) && decide (index ≤ 0x6008)) ||
    (decide (0x6020 ≤ index) && decide (index ≤ 0x6023))) && !s.portExists port

/-- What an entry reads (R627, R629). -/
def State.entryValue (s : State) (index sub : Nat) : Nat :=
  if s.portAbsent index sub then 0
  else if sub = 0 then (entryTable.filter fun e => e.index == index).foldl (fun m e => max m e.hi) 0
  else (s.derived index sub).getD (s.dictGet (dk index sub))

/-! ## COUNTERS (R681, R682) -/

/-- The entry of each 64-bit word of the slot region, for slot i. -/
def slotCounterList (i : Nat) : List (Nat × Nat) :=
  [(0x7090, i + 1), (0x3014, i + 1)] ++ ((List.range 6).map fun x => (0x3020, 6 * i + x + 1)) ++
  ((List.range 6).map fun x => (0x3021, 6 * i + x + 1)) ++ ((List.range 6).map fun x => (0x3022, 6 * i + x + 1)) ++
  ([0x5030, 0x5031, 0x5032, 0x7030, 0x7031, 0x7032, 0x7040, 0x7041, 0x7042, 0x7043, 0x7044, 0x7045, 0x7091, 0x7092, 0x7093,
    0x7050, 0x7051, 0x7052, 0x7053, 0x7054, 0x7055, 0x7056, 0x7057, 0x7060, 0x7061, 0x7062, 0x7063, 0x7064,
    0x7070, 0x7071, 0x7072, 0x7073, 0x7074, 0x7075, 0x7076, 0x7077, 0x7078, 0x7079,
    0x7080, 0x7081, 0x7082, 0x7083, 0x7084].map fun x => (x, i + 1))

/-- The entry of each 64-bit word of a core region. -/
def coreCounterList : List Nat :=
  [0x5010, 0x5011, 0x5012, 0x5013, 0x5014, 0x5015, 0x5020, 0x5021, 0x5022, 0x5023, 0x5024, 0x5025, 0x5026, 0x5040, 0x5041,
   0x5050, 0x5051, 0x5052, 0x5055, 0x5056, 0x5057, 0x5058, 0x5059, 0x7010, 0x7011, 0x7012, 0x7013, 0x7014, 0x7015, 0x7016,
   0x7017, 0x7018, 0x7020, 0x7021, 0x7022, 0x7023, 0x7024, 0x7025, 0x7033, 0x2035, 0x2030, 0x2033]

/-- A counter of core c as its holder reads it. -/
def State.coreCounter (s : State) (c x : Nat) : Nat :=
  if x = 0x5013 then (s.core c).grantPeak
  else if x = 0x5015 then (s.core c).grantHot
  else if x = 0x5052 ∨ x = 0x2035 ∨ x = 0x2030 ∨ x = 0x2033 then s.entryValue x (c + 1)
  else s.entryValue x (c + 1) - tabGet 0 (s.core c).grantBase x

/-- A COUNTERS register of slot i at a byte offset of the block. -/
def State.counterReg (s : State) (i off : Nat) : Nat :=
  if off < 0x10000 then
    match (slotCounterList i)[off / 8]? with
    | some e => s.entryValue e.1 e.2
    | none => 0
  else if off < 0x20000 then
    let c := (off - 0x10000) / 0x1000
    if (s.core c).holder = some i then
      match coreCounterList[(off % 0x1000) / 8]? with
      | some x => s.coreCounter c x
      | none => 0
    else 0
  else 0

/-! ## 64-bit registers (R675) -/

/-- The 8-aligned offset holds a 64-bit register. -/
def isWide (off : Nat) : Bool :=
  off == 0x10 || off == 0x20 ||
  (decide (0x10000 ≤ off) && decide (off < 0x11000) && (off % 0x40 == 0 || off % 0x40 == 8)) ||
  [0x20028, 0x20030, 0x20040, 0x20048, 0x20050].contains off ||
  (decide (0x28000 ≤ off) && decide (off < 0x30000)) ||
  (decide (0x30000 ≤ off) && decide (off < 0x30800) && (off % 0x20 == 8 || off % 0x20 == 0x10)) ||
  off == 0x40000 || (decide (0x100000 ≤ off) && decide (off < 0x120000))

/-- BAR4_VA as it reads: bits below the window size are 0 (R678). -/
def Fn.bar4Base (f : Fn) : Nat := f.bar4Va.toNat / 2 ^ f.bar4Log2 * 2 ^ f.bar4Log2 % 2 ^ 52

/-- What a 64-bit register of function f reads. -/
def State.reg64 (s : State) (f off : Nat) : Nat :=
  let fn := s.fn f
  if off = 0x10 then s.time
  else if off = 0x20 then fn.rrec.time
  else if 0x10000 ≤ off ∧ off < 0x11000 then
    let q := fn.queue ((off - 0x10000) / 0x40)
    if off % 0x40 = 0 then q.sqBase.toNat else q.cqBase.toNat
  else if off = 0x40000 then fn.ring.base.toNat
  else
    match s.fnSlot f with
    | none => 0
    | some i =>
      if off = 0x20028 then (s.part i).srStep.toNat
      else if off = 0x20030 then s.entryValue 0x3041 (i + 1)
      else if off = 0x20040 then fn.bar4Base
      else if off = 0x20048 then (s.part i).trackerBase.toNat
      else if off = 0x20050 then (s.part i).tgroupBase.toNat
      else if 0x28000 ≤ off ∧ off < 0x30000 then
        let k := (s.part i).token ((off - 0x28000) / 8)
        k.count.toNat + 2 ^ 32 * bit k.failed
      else if 0x30000 ≤ off ∧ off < 0x30800 then
        let h := (s.part i).longop ((off - 0x30000) / 0x20)
        if off % 0x20 = 8 then h.doneUnits else h.totalUnits
      else if 0x100000 ≤ off ∧ off < 0x120000 then s.counterReg i (off - 0x100000)
      else 0

/-! ## 32-bit registers -/

/-- Word 0 of a channel's next message (R164). -/
def State.stamp (s : State) (f seq : Nat) : Nat :=
  (match s.fnSlot f with | some i => 2 ^ 12 + 2 ^ 8 * i | none => 0) + 2 ^ 16 * (seq % 2 ^ 16) + 16 * (f / 16) + f % 16

/-- A queue register (R147). -/
def Queue.reg (q : Queue) (o : Nat) : Nat :=
  match o with
  | 0x10 => bit q.enable + 2 * bit q.irqEn + 4 * q.vector.toNat + 2 ^ 16 * q.sqLog2.toNat + 2 ^ 21 * q.cqLog2.toNat
  | 0x14 => bit q.active + 2 * bit q.faulted + 2 ^ 8 * q.fault.toNat
  | 0x18 => q.sqHead
  | 0x1C => q.sqTail
  | 0x20 => q.cqTail
  | 0x24 => q.cqHead
  | 0x28 => q.count.toNat + 2 ^ 16 * q.delayUs.toNat
  | 0x2C => q.fetchStallUs.toNat
  | 0x30 => q.doorbellDrops.toNat
  | _ => 0

/-- A mailbox channel register (R163). -/
def State.chanReg (s : State) (f c o : Nat) : Nat :=
  let ch := s.chan f c
  if o = 0 then s.stamp f (ch.seq + 1)
  else if o < 0x40 then (tabGet 0 ch.txMsg (o / 4)).toNat
  else if 0x80 ≤ o ∧ o < 0xC0 then (tabGet 0 ch.rxMsg ((o - 0x80) / 4)).toNat
  else match o with
  | 0x40 => 2 ^ 31 * bit (ch.state == .pending || ch.state == .delivered) + 2 ^ 16 * ch.vector.toNat + 2 ^ 15 * bit ch.irqEn +
            2 ^ 12 * ch.destPort + 2 ^ 8 * ch.destFn + ch.destCh
  | 0x44 => ch.state.code + 2 ^ 16 * ch.ackCode.toNat
  | 0xC0 => 2 ^ 16 * ch.rxVector.toNat + 2 ^ 15 * bit ch.rxIrqEn + 2 ^ 14 * bit ch.tokenEn + ch.token.toNat
  | 0xC4 => bit ch.full
  | _ => 0

/-- Admission decides records rather than refusing them under checks 1 and 2 of R190. -/
def State.admitDecides (s : State) : Bool :=
  s.boot.admitOpen && !s.deviceReset && s.entry 0x8000 1 == 0 && !s.power.warnActive

/-- A FUNC register. -/
def State.funcReg (s : State) (f off : Nat) : Nat :=
  let r := (s.fn f).rrec
  match off with
  | 0x0 => 2 ^ 16 * ((s.fnSlot f).getD 0xFF) + 2 ^ 8 * bit (s.platform == some f) + 16 * (f / 16) + f % 16
  | 0x4 => 2 ^ 16 * s.fuses.enabledCores.toNat + 2 ^ 8 * 0x42 + 0x30
  | 0x8 => s.deviceState + 8 * bit s.power.warnActive + 16 * bit s.admitDecides
  | 0x18 => r.kind + 2 ^ 8 * r.cause.toNat + 2 ^ 24 * r.target
  | 0x1C => r.count.toNat
  | 0x28 => bit r.isNew
  | _ =>
    if 0x6000 ≤ off ∧ off < 0x6800 then bits ((s.fn f).msixEntry ((off - 0x6000) / 16)).toNat (8 * (off % 16)) 32
    else if 0x7000 ≤ off ∧ off < 0x7010 then
      maskOf ((List.range 32).filter fun i => tabGet false (s.fn f).pba (8 * (off - 0x7000) + i))
    else 0

/-- A PART register of slot i. -/
def State.partReg (s : State) (i off : Nat) : Nat :=
  match off with
  | 0x0 => 2 ^ 31 + i
  | 0x8 => s.entryValue 0x3010 (i + 1)
  | 0xC => s.entryValue 0x3013 (i + 1)
  | 0x10 => s.entryValue 0x3011 (i + 1)
  | 0x14 => s.entryValue 0x3012 (i + 1)
  | 0x18 => (s.part i).stepState.code + 8 * bit (s.part i).liveSide1 + 16 * bit (s.part i).hardening +
            32 * bit (s.part i).updateFault + 2 ^ 8 * (s.part i).collFlags.toNat
  | 0x20 => (s.part i).brood.toNat
  | 0x24 => s.entryValue 0x3042 (i + 1)
  | 0x38 => (s.part i).lastOutcome
  | 0x58 => (s.part i).twinAlias.toNat
  | _ => if 0x200 ≤ off ∧ off < 0x280 then s.envWord i ((off - 0x200) / 4) else 0

/-- A LONGOP register of slot i. -/
def State.longopReg (s : State) (i off : Nat) : Nat :=
  let h := s.longop i (off / 0x20)
  match off % 0x20 with
  | 0x0 => h.state.code + 2 ^ 16 * h.opcode
  | 0x4 => h.lastStatus
  | 0x18 => h.segments
  | 0x1C => h.diapauseUs
  | _ => 0

/-- An EVENT register. -/
def EvRing.reg (r : EvRing) (off : Nat) : Nat :=
  match off with
  | 0x8 => r.log2.toNat + 2 ^ 15 * bit r.irqEn + 2 ^ 16 * r.vector.toNat + 2 ^ 31 * bit r.enable
  | 0xC => r.head
  | 0x10 => r.tail
  | 0x14 => r.lost.toNat
  | 0x18 => bit r.active + 2 * bit r.writeError
  | _ => 0

/-- A PLATFORM register (R127, R128). -/
def State.platformReg (s : State) (off : Nat) : Nat :=
  match off with
  | 0x0 => bit s.boot.envelopeLock
  | 0x4 => s.boot.fwSlot + 2 * s.boot.profileCopy + 2 ^ 12 * s.boot.stage + 2 ^ 16 * s.boot.halt + 2 ^ 24 * s.boot.warn.toNat
  | 0x10 => maskOf s.boundSlots
  | 0x14 => maskOf (s.boundSlots.filter fun i => match s.slotFn i with | some f => s.fnPresent f | none => false)
  | 0x20 => s.entryValue 0x2040 1
  | _ =>
    if 0x100 ≤ off ∧ off < 0x140 then
      let c := (off - 0x100) / 4
      let k := s.core c
      s.arrayWidth c + 2 ^ 16 * k.holder.getD 0 + 2 ^ 20 * bit k.holder.isSome +
        2 ^ 21 * s.entryValue 0x8001 (c + 1) + 2 ^ 23 * bit k.draining
    else if 0x1000 ≤ off ∧ off < 0x1800 then s.envWord ((off - 0x1000) / 0x80) (off % 0x80 / 4)
    else 0

/-- What a 32-bit register of function f reads, reserved and absent space 0 (R674). -/
def State.reg32 (s : State) (f off : Nat) : Nat :=
  if off < 0x8000 then s.funcReg f off
  else if off < 0x9000 then s.chanReg f ((off - 0x8000) / 0x100) (off % 0x100)
  else if 0x10000 ≤ off ∧ off < 0x11000 then (s.queue f ((off - 0x10000) / 0x40)).reg (off % 0x40)
  else if 0x40000 ≤ off ∧ off < 0x40100 then (s.fn f).ring.reg (off - 0x40000)
  else if 0x80000 ≤ off ∧ off < 0x82000 then (if s.platform = some f then s.platformReg (off - 0x80000) else 0)
  else match s.fnSlot f with
    | none => 0
    | some i =>
      if 0x20000 ≤ off ∧ off < 0x28000 then s.partReg i (off - 0x20000)
      else if 0x30000 ≤ off ∧ off < 0x30800 then s.longopReg i (off - 0x30000)
      else 0

/-- The 32-bit word at an aligned offset of BAR0. -/
def State.regWord (s : State) (f off : Nat) : Nat :=
  if isWide (off / 8 * 8) then bits (s.reg64 f (off / 8 * 8)) (8 * (off % 8)) 32 else s.reg32 f off % 2 ^ 32

end Sys2Proof.Machine
end

