-- ==== Sys2Proof/Machine/Edf.lean ====
section
/-!
DEFINITION. The feasibility tests of admission: jobs, windows, demand, timelines, displacement pairs, the cocoon mover and
the byte test (R186 to R195, R239, R241).
-/
namespace Sys2Proof.Machine

/-! ## Jobs and windows (R192, R194) -/

/-- A job of a timeline: its demand, what a running one has left, its release, its deadline when known, its doorbell time
and DEADLINE_US. -/
structure Job where
  demand : Nat
  running : Bool := false
  left : Nat := 0
  release : Nat := 0
  deadline : Option Nat := none
  doorbell : Nat := 0
  span : Nat := 0
deriving DecidableEq, Repr

/-- The windows [t1, t2] of the test. -/
def windows (jobs : List Job) (now : Nat) : List (Nat × Nat) :=
  let starts := now :: (jobs.filter fun j => j.deadline.isSome && !j.running).map fun j => max j.release now
  let ends := jobs.filterMap (·.deadline)
  let spans := (jobs.filter fun j => j.deadline.isNone).map (·.span)
  starts.eraseDups.flatMap fun t1 =>
    ((ends ++ spans.map (t1 + ·)).eraseDups.filter fun t2 => decide (t1 < t2)).map fun t2 => (t1, t2)

/-- A job is charged to a window. -/
def Job.counted (j : Job) (t1 t2 now : Nat) : Bool :=
  match j.deadline with
  | none => decide (j.span ≤ t2 - t1) && decide (j.doorbell ≤ t1)
  | some d => if j.running then decide (d ≤ t2) else decide (t1 ≤ max j.release now) && decide (d ≤ t2)

/-- What a job loads a window with. -/
def Job.load (j : Job) : Nat := if j.running then j.left else j.demand

/-- The largest excess of a window's load over its capacity at a rate per device µs; 0 when every window holds its load. -/
def excess (jobs : List Job) (now rate : Nat) : Nat :=
  (windows jobs now).foldl (fun m w =>
    max m (((jobs.filter fun j => j.counted w.1 w.2 now).foldl (fun n j => n + j.load) 0) - rate * (w.2 - w.1))) 0

/-- A timeline is EDF-feasible. -/
def edfFeasible (jobs : List Job) (now : Nat) : Bool := excess jobs now 1 == 0

/-! ## Commands as jobs -/

/-- The demand of a command on its timeline: occupancy, margin, dispatch, completion, wake and cocoon terms (R192). -/
def Cmd.demand (c : Cmd) : Nat :=
  if c.zero.isSome then 0 else
  c.occupancy + 5 + 2 + 2 + c.wake + (if c.hasSave then 90 else 0) + (if c.hasRestore then 90 else 0)

/-- A command has started. -/
def Cmd.hasStarted (c : Cmd) : Bool := c.phase != .waiting

/-- A command as a job of its timelines. -/
def State.jobOf (s : State) (c : Cmd) : Job :=
  { demand := c.demand, running := c.hasStarted, left := c.demand - s.ranSoFar c,
    release := c.extMet.foldl (fun m e => max m (e.2.getD 0)) c.release, deadline := c.deadline, doorbell := c.doorbell,
    span := recDeadline c.record }

/-- A command as a job of the byte test on a resource (R192, R194). -/
def State.byteJob (s : State) (c : Cmd) (x : Nat) : Job :=
  let b := tabGet 0 c.bytes x
  let full := if b = 0 ∨ c.zero.isSome then 0 else b + 65536
  { s.jobOf c with demand := full, left := full - tabGet 0 c.used x }

/-! ## Timelines (R181, R190, R193) -/

/-- The timelines of a command. -/
inductive Timeline | core (c : Nat) | dma (c : Nat) | nic | loader
deriving DecidableEq, Repr

/-- The commands of a timeline. -/
def State.onTimeline (s : State) (t : Timeline) : List Cmd :=
  s.cmds.filter fun c => match t with
    | .core k => c.cores.contains k
    | .dma k => c.dmaCore == some k
    | .nic => c.unitClass s == .nic
    | .loader => c.unitClass s == .loader

/-- The commands on any of a list of cores, once each (R193). -/
def State.onCores (s : State) (ks : List Nat) : List Cmd := s.cmds.filter fun c => c.cores.any (ks.contains ·)

/-! ## Displacement pairs (R195, R239, R241) -/

/-- a can displace b, or the relation could hold for some time of a floating one's events. -/
def canDisplace (a b : Cmd) : Bool :=
  a.id != b.id && a.zero.isNone && b.zero.isNone &&
  (match a.deadline, b.deadline with
   | some x, some y => decide (x < y) && decide (b.release < a.release)
   | none, none => true
   | none, some y => decide (a.doorbell + recDeadline a.record < y)
   | some _, none => decide (b.doorbell < a.release))

/-- The base die of a core (R20). -/
def dieOf (c : Nat) : Nat := c / 4
/-- The lowest core two commands share. -/
def Cmd.sharedCore (a b : Cmd) : Option Nat := a.cores.find? (b.cores.contains ·)

/-- A mover job whose deadline is that of x less some demand. -/
def moverJob (release : Nat) (x : Cmd) (less : Nat) : Job :=
  { demand := 90, release := release, deadline := x.deadline.map (· - less), doorbell := x.doorbell,
    span := recDeadline x.record - less }

/-- The base dies whose movers save and restore a command: those of every core it is bound to (log 25). -/
def Cmd.pairDieList (b : Cmd) : List Nat := (b.cores.map dieOf).eraseDups
/-- The lowest core of a command on a base die. -/
def Cmd.coreOn (a : Cmd) (die : Nat) : Option Nat := a.cores.find? fun k => dieOf k == die

/-- The save of a marked pair as a job of a mover. -/
def saveJob (a : Cmd) : Job := moverJob a.release a (a.demand - 90)
/-- The restore of a marked pair as a job of a mover. -/
def restoreJob (release : Nat) (b : Cmd) : Job := moverJob release b (b.demand - 90)

/-- The two jobs of a marked pair on a base die's mover, while they still count: the save until it completes or the displacer starts or
completes, the restore until the displacer or the partner completes. -/
def pairJobs (die : Nat) (a b : Cmd) : List Job :=
  if (a.sharedCore b).isNone ∨ !b.pairDieList.contains die then [] else
  (if a.phase = .waiting ∧ (b.savedFor ≠ some a.id ∨ b.phase = .saving) then [saveJob a] else []) ++ [restoreJob a.release b]

/-- The mover jobs of a base die. A displaced partner still awaits its restore after its displacer has completed. -/
def moverJobs (cmds : List Cmd) (die : Nat) : List Job :=
  (cmds.flatMap fun a => (cmds.filter fun b => a.displaces.contains b.id).flatMap fun b => pairJobs die a b) ++
  ((cmds.filter fun b => b.pairDieList.contains die && (match b.savedFor with
      | some a => !cmds.any (·.id == a)
      | none => false)).map fun b => restoreJob 0 b)

/-! ## Occupancy (R186, R187) -/

/-- E(c) of R186: 64 φ(c) is exact. -/
def State.coreE (s : State) (cycles be c : Nat) : Nat :=
  max (ceilDiv (cycles * s.fold64 c) (64 * 3600)) (ceilDiv be 1200)
/-- E_DMA of R187 for b bytes at r GB/s; a rate of 0 never ends. -/
def dmaE (b r : Nat) : Nat := if r = 0 then 2 ^ 32 - 1 else 2 + ceilDiv b (1000 * r)

/-- The regulator that carries a byte field: HOST goes to that of the function's port. -/
def resReg (f x : Nat) : Nat := if x < 3 then x else if x = 3 then 3 + f / 16 else 5

/-- The least of a cap and the floors of the resources listed. -/
def State.rateOf (s : State) (slot f cap : Nat) (res : List Nat) : Nat :=
  res.foldl (fun m x => min m (s.floorOf slot (resReg f x))) cap

/-- The byte fields of a record that are not 0. -/
def recResources (r : Rec) : List Nat := (List.range 5).filter fun x => recBytes r x != 0

/-- The wake term of R192 for the blocks a command needs: a block whose wake an earlier command was charged is none of them, and a
core whose PLL has yet to lock needs the full time (R84). -/
def State.wakeTerm (s : State) (c : Cmd) : Nat :=
  let down := fun (b : Nat) => (s.block b).st == .sleep && !(s.block b).charged
  let engines := c.cores.flatMap fun k => [matrixBlock k, vectorBlock k]
  if engines.any fun b => down b && !(s.pll (.core (Fin.ofNat 16 (b % 16)))).released then 12
  else if (engines ++ s.holdBlocks c).any down || ((List.range 256).map hbmBlock).any down then 3
  else 0

end Sys2Proof.Machine
end

