-- ==== Sys2Proof/Machine/Power.lean ====
section
/-!
DEFINITION. The module, its supply, clocks, block power states and the sources of resets (R43 to R103, R118, R139, R171 to
R175, R261). A row whose condition does not hold is an event that does not happen and changes nothing (log 5).
-/
namespace Sys2Proof.Machine

/-- The outcome of a row's effect where its condition holds; nothing otherwise (log 5). -/
def when (s : State) (b : Bool) (t : State) : Host.Outcome State Fault Refusal := .next (if b then t else s)

/-! ## VIN, crystal and module reset (R54, R55, R68, R74, R78, R95 to R99) -/

/-- The 2,000 µs for which VIN stays in range before a supply reset's hold ends (R99). -/
def vinRecovery : Nat := 2000

/-- VIN at P1 as the supply monitor has it, which VIN_MV reads (R65). Outside 46.0 V to 60.0 V it restarts the recovery that a
supply reset waits for (R99). -/
def State.vin (s : State) (mv : Nat) : State :=
  { s with pins := { s.pins with vinMv := mv }
           power := { s.power with vinClear := if 46000 ≤ mv ∧ mv ≤ 60000 then s.power.vinClear else s.time + vinRecovery } }
/-- The module has power. -/
def State.powered (s : State) : Bool := s.power.state != .unpowered

/-- VIN_QUALIFIED (R54): the module leaves the unpowered state and a cold reset begins. -/
def execVinQualified (mv : W32) (s : State) : Host.Outcome State Fault Refusal :=
  when s (!s.powered && decide (46000 < mv.toNat))
    ((({ s with power := { s.power with state := .coldReset } }).vin mv.toNat).coldReset 1)

/-- VIN_RECOVERED (R99): VIN within 46.0 V to 60.0 V for 2,000 µs without interruption. -/
def execVinRecovered (mv : W32) (s : State) : Host.Outcome State Fault Refusal :=
  when s (s.powered && s.power.vinHold && decide (46000 ≤ mv.toNat) && decide (mv.toNat ≤ 60000) && decide (s.power.vinClear ≤ s.time))
    (({ s with power := { s.power with vinHold := false } }).vin mv.toNat).coldTrim

/-- The 2,000 µs of an uninterrupted recovery (R97). -/
def warnRecovery : Nat := 2000

/-- A warning begins, or a dip within one restarts its recovery (R95 to R98). -/
def State.warnBegin (s : State) (mv : Nat) : State :=
  let s1 := s.vin mv
  let clear := s.time + warnRecovery
  if s1.power.warnActive then { s1 with power := { s1.power with warnMinMv := min s1.power.warnMinMv mv, warnClear := clear } }
  else
    let s2 : State := { s1 with power := { s1.power with
      warnActive := true, warnBegan := s.time, warnCarry := 0, warnMinMv := mv, warnClear := clear } }
    (s2.count 0x4002 2 1).event 0x0101 0 s2.presentFns

/-- SUPPLY_WARN_BEGIN: VIN below 44.0 V. -/
def execSupplyWarnBegin (mv : W32) (s : State) : Host.Outcome State Fault Refusal :=
  when s (s.powered && decide (mv.toNat < 44000)) (s.warnBegin mv.toNat)

/-- A warning ends: its duration and lowest VIN are kept. -/
def State.warnEnd (s : State) (mv lowest : Nat) : State :=
  let us := s.power.warnCarry + (s.time - s.power.warnBegan)
  let s1 := ({ s with power := { s.power with warnActive := false, warnCarry := 0 } }).vin mv
  let s2 := ((s1.dictSet (dk 0x4002 3) (us % 2 ^ 32)).dictSet (dk 0x4002 4) (min s.power.warnMinMv lowest)).count 0x4002 5 us
  s2.event 0x0102 (us % 2 ^ 32) s2.presentFns

/-- SUPPLY_WARN_END (R97): VIN at or above 44.0 V for 2,000 µs since the last dip. -/
def execSupplyWarnEnd (mv lowest : W32) (s : State) : Host.Outcome State Fault Refusal :=
  when s (s.power.warnActive && decide (44000 ≤ mv.toNat) && decide (s.power.warnClear ≤ s.time)) (s.warnEnd mv.toNat lowest.toNat)

/-- A supply-monitor reset: the module is held until VIN recovers (R95, R99). -/
def State.supplyReset (s : State) (mv cause : Nat) : State :=
  (({ s with power := { s.power with vinHold := true } }).vin mv).coldReset cause

/-- UNDERVOLTAGE: VIN below 40.0 V. -/
def execUndervoltage (mv : W32) (s : State) : Host.Outcome State Fault Refusal :=
  when s (s.powered && decide (mv.toNat < 40000)) (s.supplyReset mv.toNat 3)

/-- OVERVOLTAGE: VIN above 61.0 V (R55). -/
def execOvervoltage (mv : W32) (s : State) : Host.Outcome State Fault Refusal :=
  when s (s.powered && decide (61000 < mv.toNat)) (s.supplyReset mv.toNat 4)

/-- CRYSTAL_LOSS (R78): no crystal edge for 8 µs. -/
def execCrystalLoss (s : State) : Host.Outcome State Fault Refusal :=
  when s s.powered (({ s with power := { s.power with crystalHold := true } }).coldReset 5)

/-- CRYSTAL_CONFIRMED (R78, R113 step 2): the crystal has run for 2,000 µs without a gap. -/
def execCrystalConfirmed (s : State) : Host.Outcome State Fault Refusal :=
  when s (s.powered && s.power.crystalHold) ({ s with power := { s.power with crystalHold := false } }).coldTrim

/-- MOD_RESET_N (R68, R69, R74): four low samples. -/
def execModResetN (s : State) : Host.Outcome State Fault Refusal :=
  let s1 : State := { s with pins := { s.pins with modResetLow := true } }
  .next (if s.powered then s1.coldReset 2 else s1)

/-- MOD_RESET_N_RELEASE (R68, R74): four high samples. -/
def execModResetNRelease (s : State) : Host.Outcome State Fault Refusal :=
  .next ({ s with pins := { s.pins with modResetLow := false } }).coldTrim

/-! ## Host-port resets (R70, R74, R104, R116, R119, R139) -/

/-- The link of a port starts to train again. -/
def State.retrain (s : State) (p : Nat) : State :=
  s.setPort p { s.port p with linkUp := false, training := (s.port p).enabled && !(s.port p).perst }

/-- Before step 10 no partition is reset; the link retrains if the reset requires it (R119). -/
def State.portReset (s : State) (p : PortNo) (cause : Nat) (link : Bool) : State :=
  let s1 := if link then s.retrain p.val else s
  if s.boot.stage = 10 ∧ (s.port p.val).enabled then s1.doReset (.hostPort p) cause (hard := true) else s1

/-- PERST_H1_N is ignored while H0 is x16 (R74). -/
def State.perstIgnored (s : State) (p : PortNo) : Bool := p.val == 1 && decide (6 ≤ s.boot.stage) && s.boot.hostShape == 1

/-- PERST_ASSERT. -/
def execPerstAssert (p : PortNo) (s : State) : Host.Outcome State Fault Refusal :=
  let s1 := s.setPort p.val { s.port p.val with perst := true }
  .next (if !s.powered || s.perstIgnored p then s1 else s1.portReset p (0x10 + p.val) true)

/-- PERST_DEASSERT (R70): an enabled port begins to train. -/
def execPerstDeassert (p : PortNo) (s : State) : Host.Outcome State Fault Refusal :=
  let s1 := s.setPort p.val { s.port p.val with perst := false }
  .next (if (s1.port p.val).enabled && !(s1.port p.val).linkUp then s1.retrain p.val else s1)

/-- HOT_RESET: in the training sequence of the link. -/
def execHotReset (p : PortNo) (s : State) : Host.Outcome State Fault Refusal :=
  when s (s.powered && (s.port p.val).enabled) (s.portReset p (0x12 + p.val) true)

/-- FLR_PF: the host-port reset of the port, link kept. -/
def execFlrPf (p : PortNo) (s : State) : Host.Outcome State Fault Refusal :=
  when s (s.hostOpen && s.fnPresent (fnKey p.val 0)) (s.portReset p 0x14 false)

/-- FLR of a virtual function: a partition reset of the partition bound to it; none if it is unbound. -/
def State.flrVf (s : State) (p f : Nat) : State :=
  match s.fnSlot (fnKey p f) with
  | some i => (s.doReset (.partition (Fin.ofNat 16 i)) 0x14 (hard := true))
  | none => s.resetFn true (fnKey p f)

/-- FLR_VF. -/
def execFlrVf (p : PortNo) (f : FnNo) (s : State) : Host.Outcome State Fault Refusal :=
  when s (s.hostOpen && decide (f.val ≠ 0) && s.fnPresent (fnKey p.val f.val)) (s.flrVf p.val f.val)

/-- NumVFs and VF Enable set; a partition unbound from a present function by it is reset, and the function with it (R137, R139). -/
def State.setVfs (s : State) (p num : Nat) (enable : Bool) : State :=
  if tabGet 0 s.boot.vfCount p < num then s else
  let gone := (List.range 16).filter fun f => f != 0 && s.fnPresent (fnKey p f) && !(enable && decide (f ≤ num))
  let s1 := gone.foldl (fun s f => s.flrVf p f) s
  s1.setPort p { s1.port p with numVfs := num, vfEnable := enable }

/-- VF_DISABLE. -/
def execVfDisable (p : PortNo) (num : Fin 16) (enable : Bool) (s : State) : Host.Outcome State Fault Refusal :=
  when s (s.hostOpen && (s.port p.val).enabled) (s.setVfs p.val num.val enable)

/-! ## Links and PLLs (R79, R89, R91, R430, R446) -/

/-- A port's link is lost: its flows pause, training restarts, and every function hears of it; a contained fault (R601). -/
def State.ethLinkDown (s : State) (p : Nat) : State :=
  let pause := fun (fl : Flow) => if fl.port = p ∧ (fl.state = .opened ∨ fl.state = .silent) then
    { fl with state := .paused, stateSince := s.time } else fl
  let s1 : State := { s with flows := s.flows.map fun e => (e.1, pause e.2) }
  let s2 := s1.setEth p { s1.eth p with up := false, downSince := s.time, bufUse := [], xoff := [], paused := [] }
  ((s2.count 0x6021 (p + 1) 1).event 0x0401 p s2.presentFns).noteFault (unitId 6 0 0) 2

/-- The ports with lanes in a group of four. -/
def State.groupPorts (s : State) (g : Nat) : List Nat :=
  let w := 16 / s.portCount
  (List.range s.portCount).filter fun p => decide (p * w < 4 * g + 4) && decide (4 * g < p * w + w)

/-- CORE_PLL_LOCK_LOSS: a core reset of that core, cause 0x0031. -/
def execCorePllLockLoss (c : CoreNo) (s : State) : Host.Outcome State Fault Refusal :=
  when s (s.powered && (s.pll (.core c)).released)
    ((s.setPll (.core c) { running := true, released := false }).doReset (.core c) 0x31)

/-- The base-die and HBM PHY PLLs by number. -/
def basePll (n : Fin 12) : PllId := if n.val < 4 then .base (Fin.ofNat 4 n.val) else .hbm (Fin.ofNat 8 (n.val - 4))

/-- BASE_PLL_LOCK_LOSS: a cold reset, cause 0x0006. -/
def execBasePllLockLoss (n : Fin 12) (s : State) : Host.Outcome State Fault Refusal :=
  when s (s.powered && (s.pll (basePll n)).released) (s.coldReset 6)

/-- A CXL link down while running: its pages are poisoned and its capacity is gone until a cold reset (R175, R261). CXL_SHORT
stays as it is: it is worked out again when an expander becomes ready and at a warm reset (DESIGN CHOICE, log 86). -/
def State.cxlDown (s : State) (e : Nat) : State :=
  let x := s.expander e
  let mine := fun (f : Nat) => decide (x.base ≤ f) && decide (f < x.base + x.frames)
  let fix := fun (l : Leaf) => if l.valid ∧ l.tier = .cxl ∧ mine l.frame then { l with poison := true } else l
  let owners := ((s.cxlFrames.filter fun k => mine k.1).filterMap (·.2.owner)).eraseDups
  let s1 : State := { s with
    parts := s.parts.map fun k => (k.1, { k.2 with side0 := k.2.side0.map (fun l => (l.1, fix l.2)),
                                                   side1 := k.2.side1.map (fun l => (l.1, fix l.2)) })
    cxlFrames := s.cxlFrames.map fun k => if mine k.1 then (k.1, { k.2 with lost := true }) else k }
  let s2 := s1.setExpander e { x with ready := false, linkUp := false }
  s2.event 0x0304 e (owners.flatMap s.slotFns ++ s.platformFns)

/-- SERDES_PLL_LOCK_LOSS: the link goes down and retrains as its standard requires. -/
def execSerdesPllLockLoss (pll : PllId) (s : State) : Host.Outcome State Fault Refusal :=
  .next (if !(s.powered && (s.pll pll).released) then s else
    match pll with
    | .pcie p => { (s.retrain p.val) with sup := { s.sup with linkRetrains := s.sup.linkRetrains + 1 } }
    | .cxl => [0, 1].foldl (fun s e => if (s.expander e).linkUp then s.cxlDown e else s) s
    | .eth g => (s.groupPorts g.val).foldl (fun s p => if (s.eth p).up then s.ethLinkDown p else s) s
    | .mgmt => s.setPll .mgmt { running := true, released := false }
    | .svc => s.setPll .svc { running := true, released := false }
    | _ => s)

/-- Every base-die and HBM PHY PLL has been released. -/
def State.basesReleased (s : State) : Bool :=
  (List.range 12).all fun n => (s.pll (basePll (Fin.ofNat 12 n))).released

/-- RESET_RELEASE (R89): 64 consecutive lock cycles; boot goes on as R113 lets it, unless a warm reset runs in its place (R119). -/
def execResetRelease (pll : PllId) (s : State) : Host.Outcome State Fault Refusal :=
  .next (if !((s.pll pll).running && !(s.pll pll).released && s.boot.trimValid) then s else
    let s1 := s.setPll pll { running := true, released := true }
    if s1.inReset .warm then s1 else
    let s2 := if (s1.pll (.base 0)).released then s1.bootRom else s1
    if s2.basesReleased then s2.bootMemory else s2)

/-! ## Thermal limits (R100 to R103) -/

/-- The hottest junction, as TJ_MAX_MC reports it, and the time it was last at or above 100 °C (R65, R102). -/
def State.junction (s : State) (mc : W32) : State :=
  let s1 := s.dictSet (dk 0x4001 7) mc.toNat
  if 100000 ≤ mc.toInt then { s1 with power := { s1.power with hotAt := s.time } } else s1

/-- THERMAL_100: an event and nothing else, once until it is armed again. -/
def execThermal100 (mc : W32) (s : State) : Host.Outcome State Fault Refusal :=
  let s1 := s.junction mc
  when s (s.powered && decide (100000 ≤ mc.toInt))
    (if s.power.thermalArmed && s.power.state == .running then
      ({ s1 with power := { s1.power with thermalArmed := false } }).event 0x0103 mc.toNat s.presentFns
    else s1)

/-- THERMAL_REARM: every junction below 95 °C. -/
def execThermalRearm (mc : W32) (s : State) : Host.Outcome State Fault Refusal :=
  when s (s.powered && decide (mc.toInt < 95000))
    (({ s with power := { s.power with thermalArmed := true } }).junction mc)

/-- The hold of a protective stop is on. -/
def State.stopped (s : State) : Bool := s.resets.any fun r => r.target == .warm && r.hold
/-- A protective stop is in progress: a warm reset with its cause has not completed. -/
def State.stopRuns (s : State) : Bool := s.resets.any fun r => r.target == .warm && r.causes.contains 0x50#16

/-- A second trip during a stop changes nothing but what its completion waits for: the reading, and 1,000 µs below 100 °C
again (R102, R103). -/
def State.tripAgain (s : State) : State :=
  { s with resets := s.resets.map fun r =>
      if r.target == .warm && !r.hold then { r with hold := true, holdFrom := s.time } else r }

/-- PROTECTIVE_STOP: PROTECT_N low and a warm reset; during a cold reset only the reading is recorded (R74, R102, R103, R119). -/
def execProtectiveStop (mc : W32) (s : State) : Host.Outcome State Fault Refusal :=
  let s1 := s.junction mc
  when s (s.powered && decide (110000 ≤ mc.toInt))
    (if s.power.state != .running then s1
     else if s.stopRuns then s1.tripAgain
     else
      let s2 : State := { s1 with pins := { s1.pins with protectLow := true }, resets := s1.resets.filter fun r => r.target != .cold }
      s2.warmReset 0x50 (hold := true))

/-- The hold of a stop over: the time it lasted does not count toward the bound of R108. -/
def ResetRun.endHold (r : ResetRun) (now : Nat) : ResetRun :=
  if r.hold then { r with hold := false, began := r.began + (now - r.holdFrom) } else r

/-- PROTECT_HOLD_END: TJ_MAX has stayed below 100 °C for 1,000 µs. -/
def execProtectHoldEnd (mc : W32) (s : State) : Host.Outcome State Fault Refusal :=
  when s (s.stopped && decide (mc.toInt < 100000) && decide (s.power.hotAt + 1000 ≤ s.time))
    (let rs := s.resets.map fun (r : ResetRun) => if r.target == .warm then r.endHold s.time else r
     let s1 : State := { s with resets := rs }
     s1.junction mc)

/-! ## The CXL port (R118, R171 to R175, R261) -/

/-- The lanes of an expander can form its link: lanes 0 to 7, or all sixteen, for expander 0; lanes 8 to 15 for expander 1, once
the port has trained as two x8 links (R171). -/
def State.cxlLane (s : State) (e : Fin 2) : Bool := e.val == 0 || s.power.cxlSplit

/-- CXL_EXPANDER_READY: a late expander joins the tier after the capacity already numbered (log 15). -/
def execCxlExpanderReady (e : Fin 2) (frames : Nat) (s : State) : Host.Outcome State Fault Refusal :=
  let used := s.expanders.foldl (fun m x => max m (x.2.base + x.2.frames)) 0
  when s (decide (8 ≤ s.boot.stage) && s.boot.cxlEnable && !(s.expander e.val).linkUp && (s.expander e.val).total == 0 &&
      decide (0 < frames) && s.cxlLane e)
    (s.setExpander e.val { ready := true, linkUp := true, base := used, frames := min (67108864 - used) frames, total := frames }).cxlShort

/-- CXL_X16_TIMEOUT: no x16 link within 100 ms; the lanes train as two x8 links. -/
def execCxlX16Timeout (s : State) : Host.Outcome State Fault Refusal :=
  when s (s.powered && s.boot.cxlEnable && s.expanders.all fun e => !e.2.linkUp) { s with power := { s.power with cxlSplit := true } }

/-- CXL_LINK_DOWN. -/
def execCxlLinkDown (e : Fin 2) (s : State) : Host.Outcome State Fault Refusal :=
  when s (s.expander e.val).linkUp (s.cxlDown e.val)

/-! ## Block power states (R82 to R90, R227) -/

/-- Commands that hold the HBM channels awake: every class but NONE (R84). -/
def State.hbmHeld (s : State) : Bool := s.cmds.any fun c => c.unitClass s != .none_
/-- A block is held awake by an accepted command. -/
def State.blockHeld (s : State) (b : Nat) : Bool :=
  if b < 1312 then s.cmds.any fun c => (s.holdBlocks c).contains b
  else if b < 1568 then s.hbmHeld
  else true

/-- A block has work now. -/
def State.blockBusy (s : State) (b : Nat) : Bool :=
  match blockCore b with
  | some c =>
    let k := s.core c
    if (blockGroup b).isSome then k.bank.cmd.isSome || k.tile.cmd.isSome || k.gather.cmd.isSome || !k.slots.isEmpty
    else k.tile.cmd.isSome
  | none => if b < 1568 then s.cores.any fun e => !e.2.slots.isEmpty else true

/-- The SLEEP_AFTER entry of a block's class. -/
def State.sleepAfter (s : State) (b : Nat) : Nat :=
  if b < 32 then s.entry 0x4010 1 else if b < 1312 then s.entry 0x4010 2 else s.entry 0x4010 3

/-- BLOCK_IDLE (R83): sixteen cycles with no work. -/
def execBlockIdle (b : BlockNo) (s : State) : Host.Outcome State Fault Refusal :=
  when s ((s.block b.val).st == .active && decide (b.val < 1568) && !s.blockBusy b.val)
    (s.setBlock b.val { s.block b.val with st := .idle, since := s.time })

/-- A block in SLEEP or OFF, and not on its way out of it. -/
def Block.down (b : Block) : Bool := (b.st == .sleep && !b.waking) || (b.st == .off && !b.leavingOff)

/-- The core PLL stops once both engines are in SLEEP or OFF (R79). -/
def State.pllFollow (s : State) (c : Nat) : State :=
  let down := fun (b : Nat) => (s.block b).down
  if down (matrixBlock c) && down (vectorBlock c) then s.setPll (.core (Fin.ofNat 16 c)) {} else s

/-- BLOCK_SLEEP (R83, R84): idle for SLEEP_AFTER, and no accepted command pending on it. -/
def execBlockSleep (b : BlockNo) (s : State) : Host.Outcome State Fault Refusal :=
  when s ((s.block b.val).st == .idle && !(s.block b.val).waking && !s.blockHeld b.val &&
      decide ((s.block b.val).since + s.sleepAfter b.val ≤ s.time))
    (let s1 := s.setBlock b.val { st := .sleep, since := s.time }
     if b.val < 32 then s1.pllFollow (b.val % 16) else s1)

/-- A block in SLEEP begins to leave it for a state, and its core's PLL starts with it (R79, R88, R90). The wake has been charged
to no command yet. -/
def State.wakeTo (s : State) (b : Nat) (goal : PowerState) : State :=
  let s1 := s.setBlock b { s.block b with waking := true, after := goal }
  let p : PllId := .core (Fin.ofNat 16 (b % 16))
  if b < 32 ∧ !(s1.pll p).running then s1.setPll p { running := true } else s1

/-- The PLL of an engine that leaves SLEEP or OFF runs, and its monitor has shown the lock that the engine's row includes (R82,
R89, R90); one that lost lock waits for its own release, which the core reset it raised waits for. -/
def State.pllUp (s : State) (b : Nat) : State :=
  if b < 32 ∧ !s.inReset (.core (Fin.ofNat 16 (b % 16))) then
    s.setPll (.core (Fin.ofNat 16 (b % 16))) { running := true, released := true } else s

/-- A bank group that wakes is scrubbed from its first word (R308). -/
def State.scrubRestart (s : State) (b : Nat) : State :=
  match blockCore b, blockGroup b with
  | some c, some g => s.setCore c { s.core c with scrubNext := tabClear (s.core c).scrubNext (64 * g) 64 }
  | _, _ => s

/-- BLOCK_WAKE_DONE (R82, R88, R90): the clock gate opens, and the block enters the state its wake names. -/
def execBlockWakeDone (b : BlockNo) (s : State) : Host.Outcome State Fault Refusal :=
  when s ((s.block b.val).st == .sleep && (s.block b.val).waking)
    ((((s.setBlock b.val { st := (s.block b.val).after, since := s.time }).pllUp b.val).scrubRestart b.val).count 0x4013 1 1)

/-- BLOCK_LEAVE_OFF (R82, R85, R87): a bank group zeroes its banks first. -/
def execBlockLeaveOff (b : BlockNo) (s : State) : Host.Outcome State Fault Refusal :=
  when s ((s.block b.val).st == .off && (s.block b.val).leavingOff)
    (let s1 := match blockCore b.val, blockGroup b.val with
      | some c, some g => s.zeroGroup c g
      | _, _ => s
     let s2 := (s1.setBlock b.val { st := (s.block b.val).after, since := s.time }).pllUp b.val
     ((if b.val < 32 then s2.pllFollow (b.val % 16) else s2).scrubRestart b.val).allocArrived [b.val])

/-- CORE_OFF_TIMER (R227): unheld for 1,000,000 device µs. -/
def execCoreOffTimer (c : CoreNo) (s : State) : Host.Outcome State Fault Refusal :=
  when s ((s.core c.val).holder.isNone && decide ((s.core c.val).unheldSince + 1000000 ≤ s.time) &&
      ((s.block (matrixBlock c.val)).st != .off || (s.block (vectorBlock c.val)).st != .off))
    ((s.setCoreBlocks c.val .off).setPll (.core c) {})

end Sys2Proof.Machine
end

