-- ==== Sys2Proof/Machine/Operands.lean ====
section
/-!
DEFINITION. Operands in scratch: the offset map, words with their poison, held groups and footprints, check bits, plain and
accumulating writes (R297 to R309, R325, R327, R413).
-/
namespace Sys2Proof.Machine

/-- A byte of scratch or of a register with its poison tag. -/
abbrev TByte := Byte × Bool
/-- An FP32 element with its poison tag. -/
abbrev Elem := W32 × Bool

/-! ## Scratch offsets (R301) -/

/-- One past the last scratch offset. -/
def scratchLimit : Nat := 83886080

/-- The bank and byte position of a scratch offset. -/
def scratchLoc (x : Nat) : Nat × Nat :=
  let j := x / 2 ^ 24
  let c := bits x 6 18
  let group := 16 * j + (bits c 0 4 ^^^ bits c 10 4)
  let bank := 64 * group + (bits c 4 6 ^^^ bits c 10 6)
  (bank, 64 * bits c 10 8 + x % 64)

/-! ## Words of a bank -/

/-- n bytes of a bank from a byte position, each with its word's poison. -/
def State.bankRead (s : State) (c bank pos n : Nat) : List TByte :=
  let bs := memRead s.scratch (scratchKey c bank pos) n
  bs.zipIdx.map fun e => (e.1, tabGet false s.scratchPoison (scratchPoisonKey c bank ((pos + e.2) / 16)))

/-- The functions SCRATCH_POISON goes to. -/
def State.coreFns (s : State) (c : Nat) : List Nat :=
  match (s.core c).holder with
  | some i => s.slotFns i
  | none => s.platformFns

/-- A word's poison bit set or cleared; a word that becomes poisoned raises SCRATCH_POISON (R327). -/
def State.setWordPoison (s : State) (c bank word : Nat) (b : Bool) : State :=
  let k := scratchPoisonKey c bank word
  let s1 : State := { s with scratchPoison := tabSet false s.scratchPoison k b }
  if b && !tabGet false s.scratchPoison k then s1.event 0x0305 (c + 2 ^ 4 * bank + 2 ^ 17 * word) (s1.coreFns c) else s1

/-- Bytes written within one word: every write covers the whole word, so the poison it leaves is that of the bytes written
(R298, R306, R307). -/
def State.bankWriteWord (s : State) (c bank pos : Nat) (bs : List TByte) : State :=
  let s1 : State := { s with scratch := memWrite s.scratch (scratchKey c bank pos) (bs.map (·.1)) }
  s1.setWordPoison c bank (pos / 16) (bs.any (·.2))

/-- Bytes written to a bank, word by word. -/
def State.bankWrite (s : State) (c bank : Nat) : List (Nat × Nat) → List TByte → State
  | [], _ => s
  | (p, n) :: l, bs => (s.bankWriteWord c bank p (bs.take n)).bankWrite c bank l (bs.drop n)

/-! ## Check bits (R306, R327) -/

/-- What the check bits of a read of a word show: a correction counted, or the word poisoned. -/
def State.scratchEcc (s : State) (c bank word : Nat) (ecc : Ecc) : State :=
  let unit := unitId 5 c (bank / 64)
  match ecc with
  | .clean => s
  | .corrected => (s.count 0x5050 (c + 1) 1).noteFault unit 1
  | .uncorrectable => ((s.count 0x5051 (c + 1) 1).noteFault unit 2).setWordPoison c bank word true

/-- What the check bits of every word one row reads on a core show: the words listed, clean where none is listed. A word of a group
that the reader's slot does not hold is not read (R304, R306). -/
def State.scratchErrs (s : State) (slot c : Nat) (errs : EccReads) : State :=
  errs.foldl (fun s e =>
    if (s.core c).holder == some slot && bitAt (s.core c).groups.toNat (e.1.val / 64) then s.scratchEcc c e.1.val e.2.1.val e.2.2 else s) s

/-! ## Accesses by scratch offset (R304, R305) -/

/-- A bank group is held by a slot on a core. -/
def State.groupHeld (s : State) (slot c g : Nat) : Bool := (s.core c).holder == some slot && bitAt (s.core c).groups.toNat g

/-- The bank group of an offset. -/
def offsetGroup (x : Nat) : Nat := (scratchLoc x).1 / 64

/-- Bytes read by offset, chunk by chunk; a group that is not held stops the access at its offset. -/
def State.offsetRead (s : State) (slot c : Nat) : List (Nat × Nat) → List TByte → Except Stop (List TByte)
  | [], r => .ok r
  | (x, n) :: l, r =>
    if !s.groupHeld slot c (offsetGroup x) then .error (0x0207, x)
    else s.offsetRead slot c l (r ++ s.bankRead c (scratchLoc x).1 (scratchLoc x).2 n)

/-- n bytes from a scratch offset. -/
def State.sread (s : State) (slot c x n : Nat) : Except Stop (List TByte) := s.offsetRead slot c (pieces 6 x n) []

/-- Bytes written by offset; a write outside the footprint is not made. -/
def State.offsetWrite (s : State) (slot c : Nat) (foot : BitVec 80) : List (Nat × Nat) → List TByte → State × Option Stop
  | [], _ => (s, none)
  | (x, n) :: l, bs =>
    let loc := scratchLoc x
    if !s.groupHeld slot c (loc.1 / 64) then (s, some (0x0207, x))
    else if !bitAt foot.toNat (loc.1 / 64) then (s, some (0x0209, loc.1 / 64))
    else (s.bankWrite c loc.1 (pieces 4 loc.2 n) (bs.take n)).offsetWrite slot c foot l (bs.drop n)

/-- Bytes written from a scratch offset upward. -/
def State.swrite (s : State) (slot c : Nat) (foot : BitVec 80) (x : Nat) (bs : List TByte) : State × Option Stop :=
  s.offsetWrite slot c foot (pieces 6 x bs.length) bs

/-! ## Elements -/

/-- FP32 elements of tagged bytes. -/
def elems32 : List TByte → List Elem
  | a :: b :: c :: d :: l =>
    (BitVec.ofNat 32 (natOfBytes [a.1, b.1, c.1, d.1]), a.2 || b.2 || c.2 || d.2) :: elems32 l
  | _ => []
/-- BF16 elements of tagged bytes. -/
def elems16 : List TByte → List (W16 × Bool)
  | a :: b :: l => (BitVec.ofNat 16 (natOfBytes [a.1, b.1]), a.2 || b.2) :: elems16 l
  | _ => []
/-- The tagged bytes of an FP32 element. -/
def Elem.bytes (e : Elem) : List TByte := (bytesOfNat e.1.toNat 4).map fun b => (b, e.2)
/-- The tagged bytes of a BF16 element. -/
def bytes16 (e : W16 × Bool) : List TByte := (bytesOfNat e.1.toNat 2).map fun b => (b, e.2)

/-! ## Accumulating writes (R325, R413) -/

/-- The identity of a bank engine as a source of draws. -/
def bankEngineId (c bank : Nat) : Nat := 2 * 2 ^ 28 + c * 2 ^ 24 + bank

/-- How a producer's accumulating writes round: stochastically above the threshold, with its seed and index. -/
structure AccMode where
  sr : Bool := false
  seed : W64 := 0
  index : Nat := 0
deriving DecidableEq, Repr

/-- Elements added lane by lane, lane i of a draw; a lane with nothing to add keeps what it holds. A poisoned lane raises no
flags. -/
def accLanes (d : Option W64) : Nat → List Elem → List (Option Elem) → List Elem × Flags
  | i, a :: l, b :: m =>
    let t := accLanes d (i + 1) l m
    match b with
    | none => (a :: t.1, t.2)
    | some e =>
      let r := written (addVal (d.map fun w => drawLane w i) (decode32 a.1) (decode32 e.1))
      let p := a.2 || e.2
      ((r.1, p) :: t.1, (if p then 0 else r.2) ||| t.2)
  | _, _, _ => ([], 0)

/-- The draws of a core's banks, by bank. -/
abbrev AccDraws := Tab Nat

/-- What accumulating writes leave: the state, the draw counters, the flags raised, the first poisoned word, and a stop. -/
structure AccOut where
  st : State
  draws : AccDraws
  flags : Flags := 0
  poison : Option Nat := none
  stop : Option Stop := none

/-- Four elements at most added into one word at an offset. -/
def AccOut.word (o : AccOut) (slot c : Nat) (foot : BitVec 80) (m : AccMode) (x : Nat) (es : List (Option Elem)) : AccOut :=
  if o.stop.isSome || es.all (·.isNone) then o else
  match o.st.sread slot c x (4 * es.length) with
  | .error e => { o with stop := some e }
  | .ok bs =>
    let bank := (scratchLoc x).1
    let n := tabGet 0 o.draws bank
    let d := if m.sr then some (draw m.seed (bankEngineId c bank) m.index n) else none
    let r := accLanes d (x % 16 / 4) (elems32 bs) es
    let w := o.st.swrite slot c foot x (r.1.flatMap Elem.bytes)
    match w.2 with
    | some e => { o with st := w.1, stop := some e }
    | none =>
      let s1 := w.1.count 0x5056 (c + 1) 1
      { o with
        st := if m.sr then s1.count 0x5057 (c + 1) 1 else s1
        draws := if m.sr then tabSet 0 o.draws bank (n + 1) else o.draws
        flags := o.flags ||| r.2
        poison := if o.poison.isNone && r.1.any (·.2) then some (x / 16 * 16) else o.poison }

/-- The words of a run of elements: (offset, bytes). Elements that straddle words stand alone. -/
def elemPieces (x n : Nat) : List (Nat × Nat) :=
  if x % 4 = 0 then pieces 4 x (4 * n) else (List.range n).map fun i => (x + 4 * i, 4)

/-- Elements added into consecutive words, in ascending order. -/
def AccOut.run (o : AccOut) (slot c : Nat) (foot : BitVec 80) (m : AccMode) : List (Nat × Nat) → List (Option Elem) → AccOut
  | [], _ => o
  | (x, n) :: l, es => (o.word slot c foot m x (es.take (n / 4))).run slot c foot m l (es.drop (n / 4))

/-! ## Loops of the two program engines (R316, R384) -/

/-- Where a program goes on: the end of a body returns to its first instruction while repetitions are left. -/
def loopBack : Nat → List (Nat × Nat × Nat) → Nat × List (Nat × Nat × Nat)
  | pc, [] => (pc, [])
  | pc, (lo, hi, n) :: l =>
    if pc ≠ hi then (pc, (lo, hi, n) :: l)
    else if 1 < n then (lo, (lo, hi, n - 1) :: l)
    else loopBack pc l

/-! ## Reads and writes of a command by offset -/

/-- Bytes read by a command: a stop ends it, and the first poisoned word is kept (R304, R307). -/
def State.cmdScratch (s : State) (id slot c x n : Nat) : State × Option (List TByte) :=
  match s.sread slot c x n with
  | .error e => (s.endCmd id e.1 e.2, none)
  | .ok bs =>
    match bs.findIdx? (·.2) with
    | none => (s, some bs)
    | some i => (s.notePoison id ((x + i) / 16 * 16 + 2 ^ 63), some bs)

/-- Bytes written by a command; a stop ends it. -/
def State.cmdScratchWrite (s : State) (id slot c : Nat) (foot : BitVec 80) (x : Nat) (bs : List TByte) : State × Bool :=
  match s.swrite slot c foot x bs with
  | (s1, none) => (s1, true)
  | (s1, some e) => (s1.endCmd id e.1 e.2, false)

/-- The line requests of a range enter a core's issue queue, each page translated through the core's buffer (R268, R270, R272).
dest tells where length bytes read at an offset of the range go. -/
def State.pushLines (s : State) (c id slot : Nat) (unit : ReqUnit) (write : Bool) (va n : Nat)
    (dest : Nat → Nat → List MemDest := fun _ _ => []) (tag : Nat := 0) : State :=
  let s1 := s.tlbRange c slot va n
  let rs := (lineSpans va n).filterMap fun e => (s.translate slot e.1).map fun w =>
    ({ cmd := id, write := write, tier := if w.cxl then .cxl else .hbm, line := w.dpa / 256, slot := slot, unit := unit,
       gen := (s.core c).gen, va := e.1, dests := dest (e.1 - va) e.2, tag := tag } : MemReq)
  s1.setCore c { s1.core c with issue := (s1.core c).issue ++ rs }
/-- The issue queue of a core has room for n more requests (R31, R272). -/
def State.issueRoom (s : State) (c n : Nat) : Bool := decide ((s.core c).issue.length + n ≤ 512)

/-- Device bytes read with the poison of each line, metered. -/
def State.taggedSpans (s : State) (id slot : Nat) : List (Nat × Nat) → List TByte → State × Option (List TByte)
  | [], r => (s, some r)
  | (a, n) :: l, r =>
    match s.vread slot a n with
    | .error e => (s.endCmd id e.1 e.2, none)
    | .ok o =>
      let s1 := s.chargeRead (some id) slot [(a, n)]
      let s2 := match o.poison with | some p => s1.notePoison id p | none => s1
      s2.taggedSpans id slot l (r ++ o.bytes.map fun b => (b, o.poison.isSome))

/-- n device bytes read by a command, each with its line's poison. -/
def State.cmdTagged (s : State) (id slot va n : Nat) : State × Option (List TByte) := s.taggedSpans id slot (lineSpans va n) []

end Sys2Proof.Machine
end

