-- ==== Sys2Proof/Machine/Tile.lean ====
section
/-!
DEFINITION. Tile programs: the descriptor of TILE_RUN with its checks, declared streams, the tile queue, and the end of a
tile program (R282 to R288, R333 to R349, R364 to R375, R379, R384, R386 to R388, R395, R417).
-/
namespace Sys2Proof.Machine

/-! ## Modes and formats (R333, R335, R345, R351) -/

/-- Sub-arrays, K depth in cell rows, logical width and accumulator rows of a mode. -/
def modeSubs (m : Nat) : Nat := if m = 1 then 4 else if m = 2 then 16 else 1
def modeDepth (m : Nat) : Nat := if m = 0 then 512 else if m = 1 then 256 else 128
def modeWidth (m : Nat) : Nat := if m = 0 then 512 else if m = 1 then 256 else if m = 2 then 128 else 2048
def modeAccRows (m : Nat) : Nat := if m = 0 then 1024 else if m = 1 then 512 else 256

/-- Bits of an element of a format code. -/
def fmtBits (f : Nat) : Nat := if f = 2 ∨ f = 3 then 6 else if f = 4 then 4 else if f = 6 ∨ f = 7 then 16 else 8
/-- The class of a format code: 0 four-bit, 1 eight-bit float, 2 integer, 3 sixteen-bit. -/
def fmtClass (f : Nat) : Nat := if f = 4 then 0 else if f = 5 then 2 else if f = 6 ∨ f = 7 then 3 else 1

/-- The presented columns of a sub-array on a core with k bad groups: its first presented column and its width. -/
def subSpan (mode q k : Nat) : Nat × Nat :=
  match mode with
  | 1 => if q % 2 = 0 then (0, 256 - 8 * (k / 2)) else (256 - 8 * (k / 2), 256 - 8 * ((k + 1) / 2))
  | 2 =>
    let w := fun t => if t + k < 4 then 128 else 120
    ((List.range (q % 4)).foldl (fun n t => n + w t) 0, w (q % 4))
  | _ => (0, 512 - 8 * k)

/-! ## Stream records (R282) -/

/-- The stream record at an offset. -/
def streamOf (bs : List Byte) (o : Nat) : Stream :=
  { base := field bs o 8, rowBytes := field bs (o + 8) 4, rows := field bs (o + 0x0C) 4, stride := signed 32 (field bs (o + 0x10) 4),
    dest := field bs (o + 0x14) 4, lead := field bs (o + 0x18) 2, valid := bitAt (field bs (o + 0x1A) 1) 0,
    watch := bitAt (field bs (o + 0x1A) 1) 1 }
/-- Its stream number. -/
def streamNo (bs : List Byte) (o : Nat) : Nat := field bs (o + 0x1B) 1

/-- The fields of a stream record that are bad. -/
def streamTests (bs : List Byte) (o : Nat) (earlier : List Nat) : List (Nat × Bool) :=
  let t := streamOf bs o
  [(o + 8, decide (t.rowBytes < 64) || decide (65536 < t.rowBytes) || t.rowBytes % 64 != 0), (o + 0x0C, t.rows == 0),
   (o + 0x14, decide (scratchLimit ≤ t.dest)),
   (o + 0x18, t.lead == 0 || decide (1024 < t.lead) || decide (4194304 < t.lead * t.rowBytes)),
   (o + 0x1A, !t.valid || decide (4 ≤ field bs (o + 0x1A) 1)),
   (o + 0x1B, decide (8 ≤ streamNo bs o) || earlier.contains (streamNo bs o)), (o + 0x1C, field bs (o + 0x1C) 4 != 0)]

/-! ## Pass records (R344) -/

/-- The pass record at an offset. -/
def passOf (bs : List Byte) (o : Nat) : Pass :=
  let f := field bs (o + 8) 2
  let w := field bs (o + 0x34) 1
  let d := field bs (o + 0x35) 1
  { mRows := field bs o 2, kRows := field bs (o + 2) 2, nCols := field bs (o + 4) 2, mFmt := field bs (o + 6) 1 % 16,
    sFmt := field bs (o + 6) 1 / 16, sub := field bs (o + 7) 1, load := bitAt f 0, acc := bitAt f 1, emit := bitAt f 2,
    mx := bitAt f 3, reuse := bitAt f 4, oKind := bits f 5 2, accBase := field bs (o + 0x0A) 2, sOff := field bs (o + 0x0C) 4,
    sStride := field bs (o + 0x10) 4, mOff := field bs (o + 0x14) 4, mStride := field bs (o + 0x18) 4,
    oOff := field bs (o + 0x1C) 4, oStride := field bs (o + 0x20) 4, sScaleOff := field bs (o + 0x24) 4,
    mScaleOff := field bs (o + 0x28) 4, oScale := fieldW bs (o + 0x2C), reuseH := field bs (o + 0x30) 1,
    reuseS := field bs (o + 0x31) 1, tracker := field bs (o + 0x32) 2,
    wait := if bitAt w 3 then some (w % 8) else none, doneStream := if bitAt d 3 then some (d % 8) else none,
    waitRow := field bs (o + 0x38) 4, doneRow := field bs (o + 0x3C) 4 }

/-- C of a reuse pass, K_ROWS ÷ REUSE_H. -/
def Pass.c (p : Pass) : Nat := p.kRows / p.reuseH
/-- Output rows of a pass (R339). -/
def Pass.outRows (p : Pass) : Nat := if p.reuse then (p.mRows - p.reuseH) / p.reuseS + 1 else p.mRows
/-- Elements a moving row supplies. -/
def Pass.rowElems (p : Pass) : Nat := if p.reuse then p.c else p.kRows
/-- A pass writes the tile queue. -/
def Pass.toQueue (p : Pass) : Bool := p.emit && p.oKind == 3

/-- An offset out of scratch. -/
def offBad (x : Nat) : Bool := decide (scratchLimit ≤ x)

/-- The fields of a pass record that are bad; first tells whether it is the first pass of its sub-array, streams the rows of each
declared stream. -/
def passTests (bs : List Byte) (o mode : Nat) (first : Bool) (streams : List (Nat × Nat)) : List (Nat × Bool) :=
  let p := passOf bs o
  let depth := modeDepth mode * (if p.sFmt = 4 then 2 else 1)
  let unit := if p.sFmt = 4 then 64 else 32
  let fmtBad := decide (7 < p.mFmt) || decide (7 < p.sFmt) || fmtClass p.mFmt != fmtClass p.sFmt
  let hBad := if p.reuse then decide (p.reuseH < 2) || decide (16 < p.reuseH) else p.reuseH != 0
  let sBad := if p.reuse then decide (p.reuseS < 1) || decide (4 < p.reuseS) else p.reuseS != 0
  let rowBad := fun (x : Option Nat) (r : Nat) => match x with
    | none => false
    | some n => match streams.find? fun e => e.1 == n with
      | none => true
      | some e => decide (e.2 ≤ r)
  [(o, p.mRows == 0 || (p.reuse && decide (p.mRows < p.reuseH))),
   (o + 2, p.kRows == 0 || decide (depth < p.kRows) || (p.reuse && !hBad && (p.kRows % p.reuseH != 0 || p.c % unit != 0))),
   (o + 4, p.nCols == 0 || decide (modeWidth mode < p.nCols)), (o + 6, fmtBad), (o + 7, decide (modeSubs mode ≤ p.sub)),
   (o + 8, decide (128 ≤ field bs (o + 8) 2) || (p.mx && fmtClass p.mFmt == 3) || (first && !p.load)),
   (o + 0x0A, decide (modeAccRows mode < p.accBase + p.outRows)), (o + 0x0C, offBad p.sOff), (o + 0x10, p.sStride % 16 != 0),
   (o + 0x14, offBad p.mOff), (o + 0x18, p.mStride % 16 != 0),
   (o + 0x1C, offBad p.oOff || ((p.oKind == 3 || !p.emit) && p.oOff != 0)), (o + 0x20, p.oStride % 16 != 0),
   (o + 0x24, offBad p.sScaleOff || (!p.mx && p.sScaleOff != 0)), (o + 0x28, offBad p.mScaleOff || (!p.mx && p.mScaleOff != 0)),
   (o + 0x30, hBad), (o + 0x31, sBad), (o + 0x32, decide (4095 < p.tracker)),
   (o + 0x34, decide (16 ≤ field bs (o + 0x34) 1) || (match p.wait with | some n => !streams.any (fun e => e.1 == n) | none => false)),
   (o + 0x35, decide (16 ≤ field bs (o + 0x35) 1) || (match p.doneStream with | some n => !streams.any (fun e => e.1 == n) | none => false)),
   (o + 0x36, field bs (o + 0x36) 2 != 0), (o + 0x38, rowBad p.wait p.waitRow), (o + 0x3C, rowBad p.doneStream p.doneRow)]

/-! ## The descriptor (R343, R348) -/

/-- The streams and passes a header says are read. -/
def tileCounts (bs : List Byte) : Nat × Nat :=
  (if field bs 1 1 ≤ 8 then field bs 1 1 else 0, if field bs 2 2 ≤ 4096 then field bs 2 2 else 0)

def tileStreams (bs : List Byte) : List (Nat × Nat) :=
  (List.range (tileCounts bs).1).map fun i => (streamNo bs (0x40 + 32 * i), field bs (0x40 + 32 * i + 0x0C) 4)

def tilePasses (bs : List Byte) : List Pass := (List.range (tileCounts bs).2).map fun i => passOf bs (0x140 + 64 * i)

/-- The pass tests of a list of passes, the sub-arrays met so far known. -/
def passesTests (bs : List Byte) (mode : Nat) (streams : List (Nat × Nat)) : List Nat → List Nat → List (Nat × Bool)
  | [], _ => []
  | i :: l, met =>
    let o := 0x140 + 64 * i
    let q := field bs (o + 7) 1
    passTests bs o mode (!met.contains q) streams ++ passesTests bs mode streams l (addNew met q)

/-- Check 1 of R348: the byte offset of the first bad field. -/
def tileBad (bs : List Byte) : Option Nat :=
  let mode := field bs 0 1
  let n := tileCounts bs
  firstBad ([(0, decide (3 < mode)), (1, decide (8 < field bs 1 1)), (2, field bs 2 2 == 0 || decide (4096 < field bs 2 2)),
    (4, decide (2 ≤ field bs 4 2)), (0x12, field bs 0x12 2 != 0), (0x18, field bs 0x14 4 == 0 && field bs 0x18 8 != 0),
    (0x20, field bs 0x20 4 % 64 != 0), (0x24, (rsvdBad bs 0x24 28).isSome)] ++
    (List.range n.1).flatMap (fun i => streamTests bs (0x40 + 32 * i) ((List.range i).map fun j => streamNo bs (0x40 + 32 * j))) ++
    (if mode ≤ 3 then passesTests bs mode (tileStreams bs) (List.range n.2) [] else []))

/-- A descriptor read: its header, then the stream and pass records the header names. -/
def State.readTileDesc (s : State) (id slot va : Nat) : State × Option (List Byte) :=
  match s.descRead id slot va 64 with
  | (s1, none) => (s1, none)
  | (s1, some h) =>
    let n := tileCounts h
    match s1.descRead id slot (va + 64) (32 * n.1) with
    | (s2, none) => (s2, none)
    | (s2, some t) =>
      match s2.descRead id slot (va + 0x140) (64 * n.2) with
      | (s3, none) => (s3, none)
      | (s3, some u) => (s3, some (h ++ t ++ List.replicate (256 - 32 * n.1) 0 ++ u))

/-- The descriptors of the parts of a command, core by core (R343). -/
def State.readParts (s : State) (id slot payload stride : Nat) : List (Nat × Nat) → State × Option (List (Nat × List Byte))
  | [] => (s, some [])
  | (p, c) :: l =>
    match s.readTileDesc id slot (payload + p * stride) with
    | (s1, none) => (s1, none)
    | (s1, some bs) =>
      match s1.readParts id slot payload stride l with
      | (s2, none) => (s2, none)
      | (s2, some r) => (s2, some ((c, bs) :: r))

/-! ## Vector programs as read (R379, R380, R387) -/

def vOp (w : Nat) : Nat := bits w 56 8
def vVd (w : Nat) : Nat := bits w 51 5
def vVa (w : Nat) : Nat := bits w 46 5
def vVb (w : Nat) : Nat := bits w 41 5
def vVc (w : Nat) : Nat := bits w 36 5
def vMask (w : Nat) : Nat := bits w 33 3
def vMinv (w : Nat) : Bool := bitAt w 32
def vImm (w : Nat) : Nat := bits w 0 32
/-- COUNT. -/
def vCount (w : Nat) : Nat := bits w 19 13 + 1

/-- The bits of the fields of an instruction. -/
def mVd : Nat := 31 * 2 ^ 51
def mVd4 : Nat := 15 * 2 ^ 51
def mVd3 : Nat := 7 * 2 ^ 51
def mVa : Nat := 31 * 2 ^ 46
def mVa3 : Nat := 7 * 2 ^ 46
def mVb : Nat := 31 * 2 ^ 41
def mVb4 : Nat := 15 * 2 ^ 41
def mVb3 : Nat := 7 * 2 ^ 41
def mVc : Nat := 31 * 2 ^ 36
def mMask : Nat := 15 * 2 ^ 32
def mCnt : Nat := 0x1FFF * 2 ^ 19
def mLow : Nat := 2 ^ 32 - 1

/-- The bits an opcode uses below OP; none for one that R380 does not list. -/
def vecMask (op : Nat) : Option Nat :=
  let vab := mVd + mVa + mVb + mMask + mCnt
  let va := mVd + mVa + mMask + mCnt
  let vak := mVd + mVa + mVb4 + mMask + mCnt
  match op with
  | 0x00 => some 0
  | 0x01 => some 0xFFFFFF00
  | 0x02 => some (mVd4 + mLow)
  | 0x03 => some (mVd4 + 0x07FFFFFF)
  | 0x04 => some (mVd4 + mLow)
  | 0x10 => some (mVd + mMask + mLow)
  | 0x11 => some (mVd + mMask + mLow)
  | 0x12 => some (mVd + mMask + mLow)
  | 0x13 => some (mVa + mMask + mLow)
  | 0x14 => some (mVa + mMask + mLow)
  | 0x15 => some (mVa + mMask + mLow)
  | 0x18 => some (mVd + mMask + mCnt)
  | 0x19 => some 0x7FF
  | 0x1A => some 0
  | 0x20 => some vab
  | 0x21 => some vab
  | 0x22 => some vab
  | 0x23 => some (vab + mVc)
  | 0x24 => some (vab + mVc)
  | 0x25 => some vak
  | 0x26 => some vak
  | 0x27 => some (vak + mVc)
  | 0x28 => some vab
  | 0x29 => some vab
  | 0x2A => some vak
  | 0x2B => some va
  | 0x2C => some vab
  | 0x2D => some vab
  | 0x2E => some va
  | 0x30 => some (mVd3 + mVa + mVb + mMask + mCnt)
  | 0x31 => some (mVd3 + mVa + mVb + mMask + mCnt)
  | 0x32 => some (mVd3 + mVa + mVb + mMask + mCnt)
  | 0x33 => some (mVd3 + mVa + mVb4 + mMask + mCnt)
  | 0x34 => some (mVd3 + mVa3 + mVb3 + mMask + mCnt)
  | 0x35 => some (mVd3 + mVa3 + mVb3 + mMask + mCnt)
  | 0x40 => some va
  | 0x41 => some va
  | 0x42 => some va
  | 0x43 => some va
  | 0x44 => some va
  | 0x45 => some va
  | 0x46 => some va
  | 0x47 => some va
  | 0x48 => some va
  | 0x49 => some va
  | 0x4A => some va
  | 0x50 => some va
  | 0x51 => some va
  | 0x60 => some (va + 15)
  | 0x61 => some (va + 15)
  | 0x62 => some (va + 15)
  | 0x63 => some (va + 0x1FFF)
  | 0x64 => some va
  | _ => none

/-- An instruction that writes a mask. -/
def writesMask (op : Nat) : Bool := decide (0x30 ≤ op) && decide (op ≤ 0x35)
/-- An instruction of the tile queue. -/
def usesQueue (op : Nat) : Bool := op == 0x18 || op == 0x19 || op == 0x1A

/-- An instruction is valid on its own. -/
def vecValid (w : Nat) : Bool :=
  let op := vOp w
  match vecMask op with
  | none => false
  | some m =>
    decide (w % 2 ^ 56 &&& m = w % 2 ^ 56) && !(writesMask op && vVd w == 0) &&
    (match op with
     | 0x01 => bits w 8 8 != 0
     | 0x04 => vImm w % 16 == 0
     | 0x19 => decide (1 ≤ bits w 0 11) && decide (bits w 0 11 ≤ 1024)
     | 0x60 => decide (bits w 0 4 ≤ 13)
     | 0x61 => decide (bits w 0 4 ≤ 13)
     | 0x62 => decide (bits w 0 4 ≤ 13)
     | _ => true)

/-- The index of the first bad instruction of a program of n: invalid, a loop out of place, or an END out of place. -/
def badVec (n : Nat) : List Nat → Nat → List Nat → Option Nat
  | [], _, _ => none
  | w :: l, i, open_ =>
    let ends := open_.filter fun e => decide (i < e)
    if !vecValid w then some i
    else if (vOp w = 0) ≠ (i + 1 = n) then some i
    else if vOp w = 1 then
      let e := i + 1 + bits w 8 8
      if 2 ≤ ends.length ∨ n < e ∨ ends.any (fun x => decide (x < e)) then some i else badVec n l (i + 1) (e :: ends)
    else badVec n l (i + 1) ends

/-- The faults of a descriptor as a whole that R387 names, the program not yet read. -/
def vecWholeBad (bs : List Byte) : Bool :=
  let n := field bs 0x14 4
  decide (16384 < n) || (n != 0 && field bs 0x18 8 % 8 != 0) ||
  (n != 0 && decide ((maskList (field bs 8 10) 80).length < 2)) || (n == 0 && (tilePasses bs).any Pass.toQueue)

/-- The instructions of the bytes of a program. -/
def vecWords (bs : List Byte) : List Nat := (List.range (bs.length / 8)).map fun i => field bs (8 * i) 8

/-! ## Starting TILE_RUN (R348, R387, R417) -/

/-- DETAIL of a fault that lies in the descriptor as a whole. -/
def wholeDetail : Nat := 2 ^ 64 - 1

/-- Check 2 of R348: the first core, and its lowest group, that the partition does not hold. -/
def State.tileUnheld (s : State) (slot : Nat) (parts : List (Nat × List Byte)) : Option Nat :=
  parts.findSome? fun e => ((maskList (field e.2 8 10) 80).find? fun g => !s.groupHeld slot e.1 g).map fun g => g + 2 ^ 8 * e.1

/-- The trackers a descriptor names. -/
def tileTrackers (bs : List Byte) : List Nat := ((tilePasses bs).map (·.tracker)).eraseDups.filter (· != 0)

/-- The vector program of one part read and checked: its instructions, or the DETAIL of its fault. -/
def State.readVec (s : State) (id slot : Nat) (bs : List Byte) : State × Option (Except Nat (List Nat)) :=
  if vecWholeBad bs then (s, some (.error wholeDetail)) else
  match s.descRead id slot (field bs 0x18 8) (8 * field bs 0x14 4) with
  | (s1, none) => (s1, none)
  | (s1, some v) =>
    let ws := vecWords v
    match badVec ws.length ws 0 [] with
    | some i => (s1, some (.error (8 * i)))
    | none =>
      if ws.any (fun w => usesQueue (vOp w)) && !(tilePasses bs).any Pass.toQueue then (s1, some (.error wholeDetail))
      else (s1, some (.ok ws))

/-- The run of one part at its start. -/
def State.tileRunOf (s : State) (id slot : Nat) (bs : List Byte) (ws : List Nat) : TileRun :=
  let streams := (List.range 8).map fun n =>
    match (List.range (tileCounts bs).1).find? fun i => streamNo bs (0x40 + 32 * i) == n with
    | some i => streamOf bs (0x40 + 32 * i)
    | none => {}
  { cmd := some id, mode := field bs 0 1, sr := bitAt (field bs 4 2) 0, accIndex := field bs 6 2,
    footprint := BitVec.ofNat 80 (field bs 8 10), streams := streams, passes := tilePasses bs,
    vprog := ws.map (BitVec.ofNat 64), srStep := (s.part slot).srStep, arraySrAfter := s.entry 0x2034 1,
    beSrAfter := s.entry 0x5054 1,
    trackers := (tileTrackers bs).foldl (fun t n => match s.tracker slot n with
      | some e => tabPut t n { scale := e.scale, limit := e.limit }
      | none => t) [],
    vec := { active := !ws.isEmpty } }

/-- The vector programs of the parts read in turn, and the runs set up; the first fault ends the command. -/
def State.startParts (s : State) (id slot : Nat) : List (Nat × List Byte) → List (Nat × TileRun) → State
  | [], runs => runs.foldl (fun s e => s.setCore e.1 { s.core e.1 with tile := e.2 }) s
  | (c, bs) :: l, runs =>
    match s.readVec id slot bs with
    | (s1, none) => s1
    | (s1, some (.error d)) => s1.endCmd id 0x020C d
    | (s1, some (.ok ws)) => s1.startParts id slot l (runs ++ [(c, s1.tileRunOf id slot bs ws)])

/-- The checks in order: fields, held groups, trackers, vector programs. -/
def State.tileStart (s : State) (id slot : Nat) (parts : List (Nat × List Byte)) : State :=
  match parts.findSome? fun e => tileBad e.2 with
  | some o => s.endCmd id 0x020A o
  | none =>
    match s.tileUnheld slot parts with
    | some d => s.endCmd id 0x0207 d
    | none =>
      match (parts.flatMap fun e => tileTrackers e.2).find? fun t => (s.tracker slot t).isNone with
      | some t => s.endCmd id 0x0210 t
      | none => s.startParts id slot parts []

/-- TILE_RUN starts; its descriptor is aligned to 64 B (log 69). -/
def execTileRun (id : Nat) (s : State) : Host.Outcome State Fault Refusal :=
  match s.cmd id with
  | none => .next s
  | some c =>
    if c.opcode = 0x10 ∧ s.canStart c then
      if c.payload % 64 ≠ 0 then .next ((s.beginCmd c).endCmd id 0x020A 0) else
      match (s.beginCmd c).descRead id c.slot c.payload 64 with
      | (s1, none) => .next s1
      | (s1, some h) =>
        match s1.readParts id c.slot c.payload (field h 0x20 4) (c.cores.zipIdx.map fun e => (e.2, e.1)) with
        | (s2, none) => .next s2
        | (s2, some parts) => .next (s2.tileStart id c.slot parts)
    else .next s

/-! ## The tile queue (R364 to R375) -/

/-- The parity bits of a word. -/
def parityOf (d : BitVec 512) : Byte :=
  BitVec.ofNat 8 (maskOf ((List.range 8).filter fun i => (maskList (d.toNat / 2 ^ (64 * i) % 2 ^ 64) 64).length % 2 == 1))
/-- A word as its producer writes it. -/
def qword (d : BitVec 512) (endMark poison : Bool) : QWord :=
  { data := d, endMark := endMark, poison := poison, parity := parityOf d }
/-- The packet of an emitted row (R373). -/
def packetOf (l : List Elem) : List QWord :=
  let n := ceilDiv l.length 16
  (List.range n).map fun w =>
    let es := (l.drop (16 * w)).take 16
    qword (BitVec.ofNat 512 (natOfBytes (es.flatMap fun e => bytesOfNat e.1.toNat 4))) (w + 1 == n) (es.any (·.2))
/-- PACKETS. -/
def TileRun.packets (r : TileRun) : Nat := (r.queue.filter (·.endMark)).length

def TileRun.sub (r : TileRun) (q : Nat) : SubArray := tabGet {} r.subs q
def TileRun.setSub (r : TileRun) (q : Nat) (a : SubArray) : TileRun := { r with subs := tabPut r.subs q a }
/-- The next pass of a sub-array, with its index. -/
def TileRun.nextPass (r : TileRun) (q : Nat) : Option (Nat × Pass) :=
  (r.passes.zipIdx.find? fun e => decide ((r.sub q).next ≤ e.2) && e.1.sub == q).map fun e => (e.2, e.1)
/-- A sub-array that has not left the rotation of R374. -/
def TileRun.inTurn (r : TileRun) (q : Nat) : Bool :=
  !(r.sub q).backlog.isEmpty || r.passes.zipIdx.any fun e => decide ((r.sub q).next ≤ e.2) && e.1.sub == q && e.1.toQueue
/-- The sub-array whose turn it is, from q onward. -/
def TileRun.turnFrom (r : TileRun) (q : Nat) : Option Nat :=
  ((List.range 16).map fun i => (q + i) % 16).find? fun i => r.inTurn i

/-- One word into the queue: discarded while a drop is in progress, or once the vector program has ended. -/
def TileRun.accept (r : TileRun) (w : QWord) : TileRun :=
  if 0 < r.drops then { r with drops := if w.endMark then r.drops - 1 else r.drops }
  else if !r.vec.active then { r with discarded := r.discarded + 1, residue := true }
  else { r with queue := r.queue ++ [w] }

/-- Words written while the turn's sub-array has some and there is credit. -/
def TileRun.fill : Nat → TileRun → TileRun
  | 0, r => r
  | n + 1, r =>
    match r.turnFrom r.turn with
    | none => { r with closed := true, drops := 0 }
    | some q =>
      let a := r.sub q
      match a.backlog with
      | [] => r
      | [] :: l => TileRun.fill n { r.setSub q { a with backlog := l } with turn := (q + 1) % 16 }
      | (w :: ws) :: l =>
        if 1024 ≤ r.queue.length then r else
        TileRun.fill n { (r.setSub q { a with backlog := ws :: l }).accept w with turn := q }

/-- Words still to write. -/
def TileRun.backlogWords (r : TileRun) : Nat := r.subs.foldl (fun n e => n + e.2.backlog.foldl (fun m p => m + p.length + 1) 0) 0
/-- The queue filled as far as credit goes, and closed once nothing is left to write. -/
def TileRun.refill (r : TileRun) : TileRun := TileRun.fill (r.backlogWords + 1) r

/-- A run put back on its core. -/
def State.putTile (s : State) (c : Nat) (r : TileRun) : State := s.setCore c { s.core c with tile := r }
/-- A run put back with its queue filled: the words a drop or an ended program discarded are counted (R398). -/
def State.pumpTile (s : State) (c : Nat) (r : TileRun) : State :=
  let t := r.refill
  let words := fun (x : TileRun) => x.subs.foldl (fun n e => n + e.2.backlog.foldl (fun m p => m + p.length) 0) 0
  (s.putTile c t).count 0x7024 (c + 1) (words r + r.queue.length - (words t + t.queue.length))

/-! ## The end of a tile program (R349, R386, R391, R393) -/

/-- A part has nothing left to do. -/
def TileRun.done (r : TileRun) : Bool :=
  !r.vec.active && (List.range 16).all fun q => (r.nextPass q).isNone && (r.sub q).backlog.isEmpty

/-- The poison the vector program of a part met. -/
def VecEngine.poisonDetail (v : VecEngine) : Option Nat :=
  match v.poisonStore, v.poisonInstr with
  | some x, _ => some (x + 2 ^ 63)
  | none, some i => some (i + 2 ^ 62)
  | none, none => none

/-- The command ends once every part is done: poison first, then a late status, then words left over. -/
def State.tileFinish (s : State) (id : Nat) : State :=
  match s.cmd id with
  | none => s
  | some c =>
    if !c.cores.all fun k => (s.core k).tile.done then s else
    let s1 := c.cores.foldl (fun s k => match (s.core k).tile.vec.poisonDetail with
      | some d => s.notePoison id d
      | none => s) s
    let left := c.cores.foldl (fun n k => n + (s.core k).tile.discarded) 0
    let fl := c.cores.foldl (fun (g : Flags) k => g ||| (s.core k).tile.flags) 0
    let s2 := match s1.cmd id with
      | some d => if decide (0 < left) && d.late.isNone then s1.setCmd { d with late := some (0x020E, left) } else s1
      | none => s1
    s2.finishCmd id fl.toNat

/-- The vector program's footprint: the two highest groups of FOOTPRINT are its save groups (R395). -/
def TileRun.saveGroups (r : TileRun) : List Nat :=
  if r.vprog.isEmpty then [] else ((maskList r.footprint.toNat 80).reverse).take 2
def TileRun.foot (r : TileRun) : BitVec 80 := BitVec.ofNat 80 (maskOf ((maskList r.footprint.toNat 80).filter fun g => !r.saveGroups.contains g))

/-- The running tile program of a core: its run, command and slot. -/
def State.tileOf (s : State) (c : Nat) : Option (TileRun × Cmd) :=
  match (s.core c).tile.cmd.bind s.cmd with
  | none => none
  | some d => if d.phase = .running then some ((s.core c).tile, d) else none

/-! ## Streams (R283 to R288, R347) -/

/-- A stream row has arrived and is fresh, as every row before it that is not consumed is. -/
def Stream.ready (t : Stream) (row : Nat) : Bool := decide (row < t.fetched) && t.stale.all fun r => decide (row < r)
/-- The virtual address of a row. -/
def Stream.rowVa (t : Stream) (i : Nat) : Nat := (((t.base : Int) + t.stride * i) % 2 ^ 64).toNat
/-- The device addresses of a row, by page. -/
def State.rowWatch (s : State) (slot : Nat) (t : Stream) (i : Nat) : List (Bool × Nat × Nat × Nat) :=
  (pieces 16 (t.rowVa i) t.rowBytes).filterMap fun e => (s.translate slot e.1).map fun w => (w.cxl, w.dpa, e.2, i)

/-- Rows to n − 1 consumed: the used bytes are counted, stale ones aside; the windows let them go. -/
def Stream.consume (t : Stream) (n : Nat) : Stream :=
  { t with consumed := max t.consumed n, stale := t.stale.filter fun r => decide (n ≤ r)
           again := t.again.filter fun r => decide (n ≤ r)
           watched := t.watched.filter fun w => decide (n ≤ w.2.2.2) }

/-- Bytes consumed without a refetch when rows to n − 1 are consumed. -/
def Stream.usedBytes (t : Stream) (n : Nat) : Nat :=
  (((min n t.fetched) - t.consumed) - (t.again.filter fun r => decide (r < n)).length) * t.rowBytes

/-- Rows of a stream of a core consumed (R288, R347). -/
def State.consumeRows (s : State) (c k row : Nat) : State :=
  let r := (s.core c).tile
  match r.streams[k]? with
  | none => s
  | some t => (s.putTile c { r with streams := r.streams.set k (t.consume (row + 1)) }).count 0x5021 (c + 1) (t.usedBytes (row + 1))

/-- The windows of a command's streams close: what was fetched and never consumed is wasted (R287, R288). -/
def State.closeStreams (s : State) (c : Nat) : State :=
  let r := (s.core c).tile
  let waste := r.streams.foldl (fun n t => n + (t.fetched - t.consumed) * t.rowBytes) 0
  (s.putTile c { r with streams := r.streams.map fun t => { t with watched := [], watch := false } }).count 0x5022 (c + 1) waste

/-- The rows of a stream that the next pass of some sub-array waits for: those below this bound have been reached by a consumer. -/
def TileRun.reached (r : TileRun) (k : Nat) : Nat :=
  (List.range 16).foldl (fun n q => match r.nextPass q with
    | some (_, p) => if p.wait = some k then max n (p.waitRow + 1) else n
    | none => n) 0

/-- The row a stream asks for next: a stale one that its consumer has reached, else the next in order within its lead (R283, R285). -/
def Stream.nextRow (t : Stream) (reached : Nat) : Option (Nat × Bool) :=
  match minBy (fun x => x) (t.stale.filter fun r => decide (r < reached)) with
  | some r => some (r, true)
  | none => if t.valid ∧ t.fetched < t.rows ∧ t.fetched < t.consumed + t.lead then some (t.fetched, false) else none

/-- A line of rows 0 to row of a stream of a command's part on a core is still to come. -/
def State.rowsComing (s : State) (c id k row : Nat) : Bool :=
  ((s.core c).issue ++ (s.core c).slots).any fun r => r.cmd == id && r.unit == .stream && r.gen == (s.core c).gen &&
    r.tag % 8 == k && decide (r.tag / 8 ≤ row)

/-- A row fetched into its place of the lead, and watched. -/
def State.fetchRow (s0 : State) (c : Nat) (d : Cmd) (n : Nat) (t : Stream) (row : Nat) (again : Bool) : State :=
  let at_ := t.dest + row % t.lead * t.rowBytes
  let s := s0.pushLines c d.id d.slot .stream false (t.rowVa row) t.rowBytes (fun o m => [.scratch (at_ + o) m]) (8 * row + n)
  match s.cmdTagged d.id d.slot (t.rowVa row) t.rowBytes with
  | (s1, none) => s1
  | (s1, some bs) =>
    match s1.cmdScratchWrite d.id d.slot c (s1.core c).tile.foot at_ bs with
    | (s2, false) => s2
    | (s2, true) =>
      let w := if t.watch then s2.rowWatch d.slot t row else []
      let t1 := { t with
        fetched := max t.fetched (row + 1), stale := t.stale.erase row, again := if again then addNew t.again row else t.again
        watched := t.watched.filter (fun e => e.2.2.2 != row) ++ w }
      let r := (s2.core c).tile
      let s3 := s2.putTile c { r with streams := r.streams.set n t1 }
      if again then ((s3.count 0x5025 (c + 1) 1).count 0x5026 (c + 1) t.rowBytes).count 0x5022 (c + 1) t.rowBytes
      else s3.count 0x5020 (c + 1) t.rowBytes

/-- STREAM_ROW_FETCH (R283, R285). -/
def execStreamRowFetch (c : CoreNo) (stream : Fin 8) (s : State) : Host.Outcome State Fault Refusal :=
  match s.tileOf c.val with
  | none => .next s
  | some (r, d) =>
    match r.streams[stream.val]? with
    | none => .next s
    | some t =>
      match t.nextRow (r.reached stream.val) with
      | none => .next s
      | some (row, again) =>
        if !s.issueRoom c.val (lineSpans (t.rowVa row) t.rowBytes).length then .next s else
        .next (s.fetchRow c.val d stream.val t row again)

end Sys2Proof.Machine
end

