-- ==== Sys2Proof/Machine/CmdOps.lean ====
section
/-!
DEFINITION. Commands of no unit, DMA_COPY, GATHER, host reads that fail, and cocoons (R183, R189, R205, R223 to R226, R236 to
R243, R276 to R281, R289 to R293, R359, R396).
-/
namespace Sys2Proof.Machine

/-- A waiting command of an opcode that can start starts and does its work; any other row changes nothing (log 5). -/
def State.startOp (s : State) (id op : Nat) (f : Cmd → State → State) : State :=
  match s.cmd id with
  | none => s
  | some c => if c.opcode = op ∧ s.canStart c then f c (s.beginCmd c) else s

/-- A command of an opcode that is running. -/
def State.runningOp (s : State) (id op : Nat) : Option Cmd :=
  match s.cmd id with
  | none => none
  | some c => if c.opcode = op ∧ c.phase = .running then some c else none

/-- The absolute deadline of a command is within 4 µs (R205). -/
def State.nearDeadline (s : State) (c : Cmd) : Bool :=
  match c.deadline with
  | some d => decide (d ≤ s.time + 4)
  | none => false

/-! ## NOP and TOKEN_RESET (R183, R189) -/

/-- NOP. -/
def execNop (id : Nat) (s : State) : Host.Outcome State Fault Refusal :=
  .next (s.startOp id 0x01 fun _ s => s.finishCmd id 0)

/-- TOKEN_RESET: the counter takes VALUE, the failed mark clears, and waits on the token are looked at again. -/
def execTokenReset (id : Nat) (s : State) : Host.Outcome State Fault Refusal :=
  .next (s.startOp id 0x02 fun c s =>
    let s1 := s.setPart c.slot ((s.part c.slot).setToken (recField c.record 0x68 2 % 4096)
      { count := BitVec.ofNat 32 (recField c.record 0x6C 4), failed := false })
    (s1.finishCmd id 0).noteWaits c.slot)

/-! ## ALLOC and FREE (R222 to R226) -/

/-- A granted ALLOC: it ends at once, or once the blocks it waits for have left OFF. -/
def State.allocRun (s : State) (c : Cmd) : State :=
  let a := allocArgs c.record
  match s.allocStatus c.slot a c.payload with
  | some e => s.endCmd c.id e.1 e.2
  | none =>
    let off := s.allocOff c.slot a
    let pick := s.allocPick c.slot a
    let s1 := s.allocGrant c.id c.slot a c.payload
    let d := s1.allocDetail c.slot a pick
    if off.isEmpty then s1.finishCmd c.id d
    else
      let s2 := off.foldl (fun s b => s.startLeaveOff b .active) s1
      match s2.cmd c.id with
      | some k => s2.setCmd { k with awaits := off, work := d }
      | none => s2

/-- An ALLOC decided before this one can be granted now (R250). -/
def State.allocBefore (s : State) (id : Nat) : Bool := s.cmds.any fun d => d.opcode == 0x30 && decide (d.id < id) && s.canStart d

/-- ALLOC: grants follow the order of decision. -/
def execAlloc (id : Nat) (s : State) : Host.Outcome State Fault Refusal :=
  when s (!s.allocBefore id) (s.startOp id 0x30 fun c s => s.allocRun c)

/-- The cores a FREE with DRAIN waits for. -/
def drainCores (a : AllocArgs) : List Nat := if a.kind = 1 then maskList a.arg 16 else if a.kind = 2 then [a.core] else []
/-- Work accepted before a FREE with DRAIN is still bound to those cores. -/
def State.drainBusy (s : State) (c : Cmd) : Bool :=
  (allocArgs c.record).drain &&
  (drainCores (allocArgs c.record)).any fun k => (s.boundTo k).any fun d => decide (d.id < c.id)

/-- A FREE decided and applied in one step. -/
def State.freeRun (s : State) (c : Cmd) : State :=
  let a := allocArgs c.record
  match s.freeStatus c.slot a c.payload with
  | some e => s.endCmd c.id e.1 e.2
  | none =>
    let pick := if a.kind = 2 then maskList a.arg 80 else []
    let s1 := s.freeApply c.slot a c.payload
    s1.finishCmd c.id (s1.allocDetail c.slot a pick)

/-- FREE. -/
def execFree (id : Nat) (s : State) : Host.Outcome State Fault Refusal :=
  match s.cmd id with
  | none => .next s
  | some c => if s.drainBusy c then .next s else .next (s.startOp id 0x31 fun c s => s.freeRun c)

/-! ## TIER_DECLARE (R276 to R280) -/


/-- The pages of the range that are to move. -/
def TierArgs.moving (a : TierArgs) (p : Part) : List Nat :=
  a.pages.filter fun pg => (p.liveLeaf pg).tier != (if a.toCxl then .cxl else .hbm)

/-- The first status of R278 that applies; none when the pages move. -/
def State.tierStatus (s : State) (slot : Nat) (a : TierArgs) : Option Stop :=
  let p := s.part slot
  let n := (a.moving p).length
  let kind := if a.toCxl then 4 else 3
  if a.pages.any p.inAlias then some (0x0306, 0) else
  match a.pages.find? fun pg => !(p.liveLeaf pg).valid || (p.liveLeaf pg).big != a.big with
  | some pg => some (0x0308, pg * frameBytes)
  | none =>
    if a.pages.any p.isTwin then some (0x0305, 0)
    else if s.maxOf kind slot < s.heldOf kind slot + a.leaves * n then some (0x0303, 0)
    else if !s.grantOk kind slot (a.leaves * n) || decide ((s.freeBlocks a.toCxl a.leaves n).length < n) then some (0x0302, 0)
    else none

/-- Every leaf of a page changed, and the page's entries in the cores' buffers invalidated (R268). -/
def State.mapLeaves (s : State) (slot page n : Nat) (f : Nat → Leaf → Leaf) : State :=
  let p := s.part slot
  (s.tlbDrop slot page n).setPart slot ((List.range n).foldl (fun p i => p.setLeaf (p.liveSideOf (page + i)) (page + i) (f i (p.liveLeaf (page + i)))) p)

/-- MIGRATING of a page set or cleared (R279). -/
def State.setMigrating (s : State) (slot page n : Nat) (b : Bool) : State :=
  s.mapLeaves slot page n fun _ l => { l with migrating := b }

/-- What a TIER_DECLARE's move becomes. -/
def State.setTier (s : State) (id : Nat) (t : TierMove) : State :=
  match s.cmd id with
  | some c => s.setCmd { c with tier := t }
  | none => s

/-- The next page of a move is set in motion. -/
def State.tierBegin (s : State) (c : Cmd) (a : TierArgs) (pages : List (Nat × Nat)) : State :=
  let s1 := s.setTier c.id { pages := pages }
  match pages with
  | [] => s1
  | e :: _ => s1.setMigrating c.slot e.1 a.leaves true

/-- The move starts: target frames for every page are taken, and the first page is set in motion. -/
def State.tierStart (s : State) (c : Cmd) (a : TierArgs) : State :=
  let moving := a.moving (s.part c.slot)
  let pages := moving.zip (s.freeBlocks a.toCxl a.leaves moving.length)
  let s1 := (pages.flatMap fun e => (List.range a.leaves).map (e.2 + ·)).foldl
    (fun s f => s.setFrame a.toCxl f { s.frame a.toCxl f with owner := some c.slot }) s
  let s2 := match s1.cmd c.id with
    | some d => s1.setCmd { d with whole := pages.length * a.leaves * frameBytes }
    | none => s1
  s2.tierBegin c a pages

/-- The bytes of a move pass: the partition's CXL regulator in the floor class where the record declares CXL bytes, else the
slot's migration lane at 1 GB/s (R280); none where they wait. -/
def State.tierServe (s : State) (c : Cmd) (n : Nat) (toCxl : Bool) : Option State :=
  let s1? := if recBytes c.record 2 = 0 then
      (if c.work + n ≤ 1000 * s.ranSoFar c then some s else none)
    else if s.floorHas c.slot 2 n then
      some (match s.cmd c.id with
        | some d => (s.setCmd { d with used := tabSet 0 d.used 2 (tabGet 0 d.used 2 + n), waits := none }).serveFloor c.slot 2 n toCxl
        | none => s)
    else none
  s1?.map fun s1 => match s1.cmd c.id with
    | some d => s1.setCmd { d with work := d.work + n }
    | none => s1

/-- The move waits for tokens of the CXL regulator. -/
def State.tierWait (s : State) (c : Cmd) : State :=
  if recBytes c.record 2 = 0 then s else
  match s.cmd c.id with
  | some d => s.setCmd { d with waits := some 2 }
  | none => s

/-- One page of a move gives its target frames back and stays where it is: its frames are lost with their link (R296). -/
def State.tierDrop (s : State) (c : Cmd) (a : TierArgs) (e : Nat × Nat) : State :=
  (List.range a.leaves).foldl (fun s i => s.releaseFrame a.toCxl (e.2 + i)) (s.setMigrating c.slot e.1 a.leaves false)

/-- FRAME and TIER of a page change, MIGRATING clears, and the source frames are given up. A target frame lost with its link maps a
poisoned page (R261). -/
def State.tierSwitch (s : State) (c : Cmd) (a : TierArgs) (e : Nat × Nat) : State :=
  let old := (List.range a.leaves).map fun i => (s.part c.slot).liveLeaf (e.1 + i)
  let s1 := s.mapLeaves c.slot e.1 a.leaves fun i l =>
    { l with tier := if a.toCxl then .cxl else .hbm, frame := e.2 + i, migrating := false, poison := (s.frame a.toCxl (e.2 + i)).lost }
  (old.foldl (fun s l => s.releaseFrame (l.tier == .cxl) l.frame) s1).count (if a.toCxl then 0x5031 else 0x5030) (c.slot + 1)
    (a.leaves * frameBytes)

/-- Lines of the page in motion copied again: (leaf within the page, line within the leaf). -/
def State.tierRecopy (s : State) (c : Cmd) (a : TierArgs) (e : Nat × Nat) (lines : List Nat) : State :=
  lines.foldl (fun s x =>
    let l := (s.part c.slot).liveLeaf (x / 256)
    s.copyTier a.toCxl ((e.2 + (x / 256 - e.1)) * frameBytes + x % 256 * lineBytes) (l.tier == .cxl)
      (l.frame * frameBytes + x % 256 * lineBytes) lineBytes) s

/-- One row of a move (R279): a leaf copied, then lines written meanwhile copied again, then the page switched. -/
def State.tierStep (s : State) (c : Cmd) (a : TierArgs) : State :=
  match c.tier.pages with
  | [] => s.finishCmd c.id 0
  | e :: rest =>
    let l := (s.part c.slot).liveLeaf (e.1 + c.tier.copied)
    if (List.range a.leaves).any fun i => ((s.part c.slot).liveLeaf (e.1 + i)).poison then
      ((s.tierDrop c a e).notePoison c.id (e.1 * frameBytes)).tierBegin c a rest
    else if c.tier.copied < a.leaves then
      match s.tierServe c frameBytes a.toCxl with
      | none => s.tierWait c
      | some s1 => (s1.copyTier a.toCxl ((e.2 + c.tier.copied) * frameBytes) (l.tier == .cxl) (l.frame * frameBytes) frameBytes).setTier
          c.id { c.tier with copied := c.tier.copied + 1 }
    else if !c.tier.dirty.isEmpty then
      let lines := c.tier.dirty.take 256
      match s.tierServe c (lines.length * lineBytes) a.toCxl with
      | none => s.tierWait c
      | some s1 => ((s1.tierRecopy c a e lines).setTier c.id { c.tier with dirty := c.tier.dirty.drop 256 }).count 0x5032 (c.slot + 1)
          lines.length
    else (s.tierSwitch c a e).tierBegin c a rest

/-- A TIER_DECLARE that stopped before its end leaves the pages it had not switched where they were. -/
def State.tierCleanup (s : State) (c : Cmd) : State :=
  if c.opcode ≠ 0x32 then s else
  c.tier.pages.foldl (fun s e => s.tierDrop c (tierArgs c.record) e) s

/-- An earlier TIER_DECLARE of the partition has not ended (R280). -/
def State.tierAhead (s : State) (c : Cmd) : Bool :=
  s.cmds.any fun d => d.slot == c.slot && d.opcode == 0x32 && decide (d.id < c.id) &&
    (match d.phase with | .ended _ _ => !d.tier.pages.isEmpty | _ => true)

/-- TIER_DECLARE: it starts, or goes on by one step of its move (log 24). -/
def execTierDeclare (id : Nat) (s : State) : Host.Outcome State Fault Refusal :=
  match s.cmd id with
  | none => .next s
  | some c =>
    let a := tierArgs c.record
    if s.tierAhead c then .next s
    else if c.phase = .running ∧ c.opcode = 0x32 then .next (s.tierStep c a)
    else .next (s.startOp id 0x32 fun c s =>
      match s.tierStatus c.slot a with
      | some e => s.endCmd id e.1 e.2
      | none => if (a.moving (s.part c.slot)).isEmpty then s.finishCmd id 0 else s.tierStart c a)

/-! ## DMA_COPY (R182, R203, R257, R267, R685) -/

/-- The operands of DMA_COPY. -/
structure DmaArgs where
  src : Nat
  dst : Nat
  length : Nat
  srcHost : Bool
  dstHost : Bool
deriving DecidableEq, Repr

def dmaArgs (r : Rec) : DmaArgs :=
  { src := recPayload r, dst := recField r 0x68 8, length := recField r 0x70 8, srcHost := bitAt (recField r 0x78 8) 0,
    dstHost := bitAt (recField r 0x78 8) 1 }

/-- Host bytes of a command pass the regulator of its port; none while it has no tokens or no turn. -/
def State.hostServe (s : State) (c : Cmd) (n : Nat) (out : Bool) : Option State :=
  (s.regServe c.slot (3 + c.fn / 16) n out (s.hostTurn c.slot (3 + c.fn / 16))).map fun t => t.charge (some c.id) 3 n

/-- Bytes written to host memory; poisoned ones go with the EP bit set (R257). -/
def State.hostWriteTagged (s : State) (p addr : Nat) (bs : List TByte) : State :=
  let s1 := s.hostWrite p addr (bs.map (·.1))
  if bs.any (·.2) then { s1 with out := s1.out ++ [Out.hostPoison p addr bs.length] } else s1

/-- A write of a copy: to host memory, or through the device's own write path. -/
def State.dmaWrite (s : State) (c : Cmd) (a : DmaArgs) (at_ : Nat) (bs : List TByte) : State :=
  if a.dstHost then s.hostWriteTagged (c.fn / 16) ((a.dst + at_) % 2 ^ 64) bs
  else (s.cmdWrite c.id c.slot (a.dst + at_) (bs.map (·.1)) (bs.any (·.2)) [(a.dst, a.length)]).1

/-- Where the bytes a copy reads go. -/
def DmaArgs.dest (a : DmaArgs) (c : Cmd) (at_ : Nat) : Nat → Nat → List MemDest := fun o m =>
  if a.dstHost then [.host (c.fn / 16) ((a.dst + at_ + o) % 2 ^ 64) m] else [.device (a.dst + at_ + o) m]

/-- A copy's host bytes find no tokens and wait for them (R245). -/
def State.dmaWaits (s : State) (c : Cmd) (a : DmaArgs) (n : Nat) : Bool :=
  (a.srcHost || a.dstHost) && (s.hostServe c (if a.srcHost && a.dstHost then 2 * n else n) a.dstHost).isNone

/-- Bytes at_ to at_ + n − 1 of a copy, within one line of the destination; none where it waits for tokens or room. -/
def State.dmaPiece (s : State) (c : Cmd) (a : DmaArgs) (at_ n : Nat) (host : List Byte) : Option State :=
  let k := c.dmaCore.getD 0
  if !s.issueRoom k 4 || (a.srcHost && !(s.port (c.fn / 16)).tagFree) then none else
  let s0 := if a.srcHost || a.dstHost then s.hostServe c (if a.srcHost && a.dstHost then 2 * n else n) a.dstHost else some s
  match s0 with
  | none => none
  | some s1 =>
    if a.srcHost then
      let s2 := s1.dmaWrite c a at_ ((host.take n).map fun b => (b, false))
      some (if a.dstHost then s2 else s2.pushLines k c.id c.slot .dma true (a.dst + at_) n)
    else
      let s2 := s1.pushLines k c.id c.slot .dma false (a.src + at_) n (a.dest c at_)
      match s2.cmdTagged c.id c.slot (a.src + at_) n with
      | (s3, some bs) =>
        let s4 := s3.dmaWrite c a at_ bs
        some (if a.dstHost then s4 else s4.pushLines k c.id c.slot .dma true (a.dst + at_) n)
      | (_, none) =>
        -- the source faults inside the piece: the bytes before it are copied first
        match s.vread c.slot (a.src + at_) n with
        | .ok _ => some s2
        | .error e =>
          match s2.cmdTagged c.id c.slot (a.src + at_) (e.2 - (a.src + at_)) with
          | (s3, some bs) => some ((if bs.isEmpty then s3 else s3.dmaWrite c a at_ bs).endCmd c.id e.1 e.2)
          | (s3, none) => some s3

/-- Pieces of a copy until at least count bytes of this row are moved. -/
def State.dmaMove (s : State) (id : Nat) (a : DmaArgs) (host : List Byte) : Nat → Nat → State
  | 0, _ => s
  | fuel + 1, count =>
    match s.runningOp id 0x20 with
    | none => s
    | some c =>
      if a.length ≤ c.done then s.finishCmd id 0 else
      if count = 0 then s else
      let n := min (256 - (a.dst + c.done) % 256) (a.length - c.done)
      if a.srcHost ∧ host.length < n then s else
      match s.dmaPiece c a c.done n host with
      | none => if s.dmaWaits c a n then s.setCmd { c with waits := some (3 + c.fn / 16) } else s
      | some s1 =>
        match s1.cmd id with
        | none => s1
        | some d =>
          (s1.setCmd { d with done := c.done + n, work := c.done + n, waits := none }).dmaMove id a (host.drop n) fuel (count - n)

/-- The engine of a copy holds credit for its first output: room in its core's issue queue (R28, R31). -/
def State.dmaCredit (s : State) (id : Nat) : Bool :=
  match s.cmd id with
  | some c => s.issueRoom (c.dmaCore.getD 0) 4
  | none => true

/-- A completion that comes for a read already stopped is discarded, and its tag is free again (R205). -/
def State.lateDone (s : State) (which : LateTag → Bool) : State :=
  [0, 1].foldl (fun s p => match (s.port p).lateTags.find? which with
    | some t => s.setPort p { s.port p with lateTags := (s.port p).lateTags.erase t }
    | none => s) s

/-- DMA_COPY: it starts, or moves at least count more bytes in ascending order; host carries what the host's memory holds there. -/
def execDmaCopy (id : Nat) (count : Nat) (host : List Byte) (s : State) : Host.Outcome State Fault Refusal :=
  let s1 := if !s.dmaCredit id then s else s.startOp id 0x20 fun c s =>
    let a := dmaArgs c.record
    let s1 := if a.dstHost then s else s.aimAlias id c.slot a.dst
    match s1.cmd id with
    | some d => s1.setCmd { d with whole := a.length }
    | none => s1
  match s1.runningOp id 0x20 with
  | none => .next (if host.isEmpty then s1 else s1.lateDone fun t => t.cmd == id)
  | some c => .next (s1.dmaMove id (dmaArgs c.record) host (ceilDiv count 256 + 3) count)

/-! ## GATHER (R289 to R293) -/

/-- The gather list at PAYLOAD. -/
def gatherOf (bs : List Byte) : GatherRun :=
  let f := field bs 0x25 1
  { table := field bs 0 8, rowBytes := field bs 8 4, rowLimit := field bs 0x0C 4, index := field bs 0x10 8, count := field bs 0x18 4,
    dest := field bs 0x1C 4, destStride := field bs 0x20 4, sum := field bs 0x24 1 == 1, wideIndex := bitAt f 0,
    bf16 := bits f 1 2 == 1, merge := bitAt f 3, bag := field bs 0x26 2 }

/-- A gather list out of its ranges. -/
def gatherBad (bs : List Byte) : Bool :=
  let g := gatherOf bs
  let f := field bs 0x25 1
  decide (g.rowBytes < 64) || decide (65536 < g.rowBytes) || g.rowBytes % 64 != 0 || g.count == 0 || decide (2 ^ 24 < g.count) ||
  decide (83886080 ≤ g.dest) || decide (1 < field bs 0x24 1) || decide (1 < bits f 1 2) || decide (16 ≤ f) ||
  (if g.sum then g.bag == 0 || decide (4096 < g.bag) || g.count % g.bag != 0 else g.bag != 0) || (rsvdBad bs 0x28 24).isSome

/-- A bad gather list: the spec states neither status nor DETAIL, so both are free values, the status not OK (log 1). -/
def State.gatherInvalid (s : State) (id : Nat) : State :=
  let (a, s1) := s.fresh
  let (b, s2) := s1.fresh
  s2.endCmd id (a.toNat % 0xFFFF + 1) b.toNat

/-- GATHER starts. -/
def State.gatherStart (s : State) (c : Cmd) : State :=
  match s.descRead c.id c.slot c.payload 64 with
  | (s1, none) => s1
  | (s1, some bs) =>
    if gatherBad bs then s1.gatherInvalid c.id else
    let k := c.cores.headD 0
    let s2 := s1.setCore k { s1.core k with gather := { gatherOf bs with cmd := some c.id } }
    match s2.cmd c.id with
    | some d => s2.setCmd { d with whole := (gatherOf bs).count }
    | none => s2

/-- A proboscis request reads a line of a tier. -/
def MemReq.gathers (r : MemReq) (gen : Nat) (w : Where) : Bool :=
  r.unit == .proboscis && r.gen == gen && r.tier == (if w.cxl then Tier.cxl else .hbm) && r.line == w.dpa / 256
/-- A request also brings its data to another place. -/
def MemReq.also (r : MemReq) (d : List MemDest) : MemReq := { r with dests := r.dests ++ d }
/-- The first request of a list that reads a line also serves another place. -/
def mergeInto (gen : Nat) (w : Where) (d : List MemDest) : List MemReq → List MemReq
  | [] => []
  | r :: l => if r.gathers gen w then r.also d :: l else r :: mergeInto gen w d l

/-- The line requests of the row at a position: with MERGE, those already in flight bring their data here too and are counted; the
rest are issued and metered (R292). va is the address of the row. -/
def State.gatherLines (s : State) (k : Nat) (c : Cmd) (merge : Bool) (pos va : Nat) : List (Nat × Nat) → State
  | [] => s
  | (a, n) :: l =>
    match s.translate c.slot a with
    | none => s
    | some w =>
      let e := s.core k
      let d : List MemDest := [.gather c.id pos (a - va) n]
      let s1 :=
        if merge && e.issue.any (·.gathers e.gen w) then (s.setCore k { e with issue := mergeInto e.gen w d e.issue }).count 0x5041 (k + 1) 1
        else if merge && e.slots.any (·.gathers e.gen w) then
          (s.setCore k { e with slots := mergeInto e.gen w d e.slots }).count 0x5041 (k + 1) 1
        else (s.pushLines k c.id c.slot .proboscis false a n (fun _ _ => d) pos).charge (some c.id) (if w.cxl then 2 else 0) n
      s1.gatherLines k c merge pos va l

/-- The gather positions before n that wait for the data of a request. -/
def MemReq.positions (r : MemReq) (n : Nat) : List Nat :=
  r.dests.filterMap fun d => match d with | .gather _ p _ _ => if p < n then some p else none | _ => none

/-- Positions of the index array that the proboscis has taken and that still wait for data, a merged row's among them: one thread each
(R289, R292). -/
def State.gatherThreads (s : State) (k : Nat) : Nat :=
  let e := s.core k
  ((((e.issue ++ e.slots).filter fun r => r.unit == .proboscis && r.gen == e.gen).flatMap (·.positions e.gather.done)).eraseDups).length

/-- The line of the index array that position i begins is read: every row chosen in it depends on it. MERGE is of the rows' lines; an
index line is always issued (R292, DEDUCED, log 116). -/
def State.indexLine (s : State) (k : Nat) (c : Cmd) (g : GatherRun) (i : Nat) : State :=
  let w := if g.wideIndex then 8 else 4
  let a := g.index + w * i
  if i ≠ 0 ∧ w ≤ a % 256 then s else
  let n := min ((256 - a % 256 + w - 1) / w) (g.count - i)
  s.pushLines k c.id c.slot .proboscis false a w (fun _ _ => (List.range n).map fun j => .gather c.id (i + j) 0 g.rowBytes) i

/-- The bytes of a range, each with its line's poison, not metered. -/
def State.rawTagged (s : State) (slot : Nat) : List (Nat × Nat) → List TByte → Except Stop (List TByte)
  | [], r => .ok r
  | (a, n) :: l, r =>
    match s.vread slot a n with
    | .error e => .error e
    | .ok o => s.rawTagged slot l (r ++ o.bytes.map fun b => (b, o.poison.isSome))

/-- Row of the index at a position: none once the command has stopped; a row out of range is zeros (R293). -/
def State.gatherRow (s : State) (k : Nat) (c : Cmd) (g : GatherRun) (i : Nat) : State × Option (List TByte) :=
  let w := if g.wideIndex then 8 else 4
  match (s.indexLine k c g i).cmdTagged c.id c.slot (g.index + w * i) w with
  | (s1, none) => (s1, none)
  | (s1, some ib) =>
    let x := natOfBytes (ib.map (·.1))
    let bad := ib.any (·.2)
    if g.rowLimit ≤ x then
      let s2 := match s1.cmd c.id with
        | some d => if d.late.isNone then s1.setCmd { d with late := some (0x030A, i) } else s1
        | none => s1
      (s2, some (List.replicate g.rowBytes (0, bad)))
    else
      let sp := lineSpans (g.table + x * g.rowBytes) g.rowBytes
      match s1.rawTagged c.slot sp [] with
      | .error e => (s1.endCmd c.id e.1 e.2, none)
      | .ok bs =>
        let s2 := (s1.gatherLines k c g.merge i (g.table + x * g.rowBytes) sp).count 0x5040 (k + 1) 1
        let s3 := match bs.findIdx? (·.2) with
          | some j => s2.notePoison c.id (g.table + x * g.rowBytes + j)
          | none => s2
        (s3, some (bs.map fun b => (b.1, b.2 || bad)))

/-- The FP32 elements of a row. -/
def GatherRun.elems (g : GatherRun) (bs : List TByte) : List Elem :=
  if g.bf16 then (elems16 bs).map fun e => (widenBf16 e.1, e.2) else elems32 bs

/-- Rows added element by element. -/
def addElems (a b : List Elem) : List Elem × Flags :=
  (a.zip b).foldr (fun e r =>
    let v := fadd e.1.1 e.2.1
    let p := e.1.2 || e.2.2
    ((v.1, p) :: r.1, r.2 ||| (if p then 0 else v.2))) ([], 0)

/-- A gathered row written, or added to its bag's sum, which is written with its last row (R291). A GATHER may write any
group the partition holds. -/
def State.gatherOne (s : State) (k : Nat) (c : Cmd) (g : GatherRun) : State :=
  match s.gatherRow k c g g.done with
  | (s1, none) => s1
  | (s1, some bs) =>
    let r := if !g.sum then (elems32 bs, (0 : Flags))
      else if g.done % g.bag = 0 then (g.elems bs, 0) else addElems g.acc (g.elems bs)
    let write := !g.sum || decide ((g.done + 1) % g.bag = 0)
    let pos := if g.sum then g.done / g.bag else g.done
    let w := if write then s1.cmdScratchWrite c.id c.slot k (s.core k).groups (g.dest + pos * g.destStride) (r.1.flatMap Elem.bytes)
      else (s1, true)
    if !w.2 then w.1 else
      let s3 := w.1.setCore k { w.1.core k with gather :=
        { (w.1.core k).gather with done := g.done + 1, acc := if g.sum then r.1 else [], flags := g.flags ||| r.2 } }
      match s3.cmd c.id with
      | some d => s3.setCmd { d with done := g.done + 1, work := g.done + 1 }
      | none => s3

/-- Indices until count of this row are done. -/
def State.gatherMove (s : State) (id k : Nat) : Nat → Nat → State
  | 0, _ => s
  | fuel + 1, count =>
    match s.runningOp id 0x12 with
    | none => s
    | some c =>
      let g := (s.core k).gather
      if g.cmd ≠ some id then s else
      if g.count ≤ g.done then s.finishCmd id 0 else
      if count = 0 ∨ !s.issueRoom k (g.rowBytes / 256 + 4) ∨ 64 ≤ s.gatherThreads k then s else
      (s.gatherOne k c g).gatherMove id k fuel (count - 1)

/-- The proboscis of a GATHER's core can issue its first request: room in the issue queue and in its share of the slots (R28, R271). -/
def State.gatherRoom (s : State) (id : Nat) : Bool :=
  match s.cmd id with
  | some c =>
    let k := c.cores.headD 0
    s.issueRoom k 1 && decide (((s.core k).slots.filter fun q => q.tier == .hbm && q.unit == .proboscis).length < 1024)
  | none => false

/-- GATHER: it starts once its proboscis can issue, or gathers count more indices. -/
def execGather (id : Nat) (count : Nat) (s : State) : Host.Outcome State Fault Refusal :=
  let s1 := if !s.gatherRoom id then s else s.startOp id 0x12 fun c s => s.gatherStart c
  match s1.runningOp id 0x12 with
  | none => .next s1
  | some c => .next (s1.gatherMove id (c.cores.headD 0) (count + 2) count)

/-! ## Host reads that fail (R134, R135, R205) -/

/-- Units of 1 MiB that cover n bytes (R206). -/
def unitsOf (n : Nat) : Nat := ceilDiv n 1048576

/-- Unit u of a list of lengths: which item, its byte offset there, and its bytes. -/
def unitAt : List Nat → Nat → Option (Nat × Nat × Nat)
  | [], _ => none
  | n :: l, u =>
    if u < unitsOf n then some (0, u * 1048576, min 1048576 (n - u * 1048576))
    else (unitAt l (u - unitsOf n)).map fun e => (e.1 + 1, e.2)

/-- The entry of a load's list whose bytes its present unit reads, with the byte offset there. -/
def State.loadAt (s : State) (c : Cmd) : Option (LoadEntry × Nat) :=
  let es := tabGet [] s.loads (c.slot * 64 + recHandle c.record)
  (unitAt (es.map (·.length)) (s.longop c.slot (recHandle c.record)).doneUnits).bind fun e => (es[e.1]?).map fun x => (x, e.2.1)

/-- The command reads host memory: a copy from the host with bytes to read, or a load whose present unit lies in host memory. -/
def State.readsHost (s : State) (c : Cmd) : Bool :=
  c.phase == .running &&
  (if s.segmentOp c = 0x20 then (dmaArgs c.record).srcHost && decide (c.done < (dmaArgs c.record).length)
   else s.segmentOp c == 0x60 && match s.loadAt c with | some e => e.1.host | none => false)

/-- The tag of a host read that no completion has answered stays in use; the read was not issued before its command started (R205). -/
def State.holdTag (s : State) (c : Cmd) : State :=
  let p := s.port (c.fn / 16)
  let h := if opLongStart (s.segmentOp c) then some (c.slot * 64 + recHandle c.record) else none
  s.setPort (c.fn / 16) { p with
    lateTags := p.lateTags ++ [{ cmd := c.id, handle := h, since := if c.phase = .waiting then c.admitted else c.started }] }

/-- The unit that reads a command's host data: the weight loader, or a core's DMA engines (R602). -/
def State.readerUnit (s : State) (c : Cmd) : Nat := if c.unitClass s = .loader then unitId 8 0 4 else unitId 4 (c.dmaCore.getD 0) 0

/-- The command stops; the fault is contained, and the tag of the read stays in use for as long as R205 says (R601). -/
def State.sourceError (s : State) (c : Cmd) (addr : Nat) (tagHeld : Bool) : State :=
  let s1 := (s.endCmd c.id 0x0205 addr).noteFault (s.readerUnit c) 2
  if tagHeld then s1.holdTag c else s1

/-- The bus address of the first host byte a command has not yet read. -/
def State.hostAddr (s : State) (c : Cmd) : Nat :=
  if s.segmentOp c = 0x20 then (recPayload c.record + c.done) % 2 ^ 64 else
  match s.loadAt c with
  | none => recPayload c.record
  | some e => (e.1.src + e.2) % 2 ^ 64

/-- A device read that cannot have been issued before some time is 10,000 device µs old (R134). -/
def State.timedOut (s : State) (since : Nat) : Bool := decide (since + 10000 ≤ s.time)

/-! ## Cocoons (R236 to R243, R359, R396) -/

/-- The bank groups a displaced command's cocoon holds on a core: what its program may write there. -/
def State.cocoonGroups (s : State) (k id : Nat) : List Nat :=
  let e := s.core k
  let foot :=
    if e.tile.cmd = some id then e.tile.footprint
    else if e.bank.cmd = some id then e.bank.footprint
    else if e.gather.cmd = some id then e.groups else 0
  maskList foot.toNat 80

/-- The displacing command that takes a core from its partner: of those ready to, the one that ranks first (R232, R236). -/
def State.displacer (s : State) (k : Nat) (b : Cmd) : Option Cmd :=
  let ready := s.cmds.filter fun a => a.displaces.contains b.id && a.cores.contains k && b.cores.contains k && s.eligible a &&
    (match a.deadline, b.deadline with | some x, some y => decide (x < y) | _, _ => false)
  ready.find? fun a => !ready.any (·.ranksBefore a)

/-- The movers of the base dies of a command's cores carry nothing (R238). -/
def State.moverFree (s : State) (b : Cmd) : Bool :=
  !s.cmds.any fun d => (d.phase == .saving || d.phase == .restoring) && d.pairDieList.any (b.pairDieList.contains ·)

/-- No command of a displaced one's cores runs there, is being moved there, or has ended and not completed there (R240). -/
def State.coreIdle (s : State) (k : Nat) : Bool :=
  !s.cmds.any fun d => d.cores.contains k && (match d.phase with
    | .running => true
    | .saving => true
    | .restoring => true
    | .ended _ _ => decide (0 < d.started)
    | _ => false)

/-- Every command on a core that ranks before a displaced one has had its turn there. -/
def State.turnToRestore (s : State) (b : Cmd) : Bool :=
  !s.cmds.any fun a => a.displaces.contains b.id && a.shares b && s.eligible a && a.ranksBefore b

/-- A displaced command waits for nothing but the movers: its cores are idle and in no reset, and it is its turn (R240, R250). -/
def State.restorable (s : State) (b : Cmd) : Bool :=
  b.phase == .displaced && b.cores.all s.coreIdle && s.turnToRestore b && !s.partReset b.slot &&
  b.cores.all fun k => !(s.core k).hung && !s.resets.any fun r => match r.target with | .core x => x.val == k | _ => false

/-- The transfer a command waits for at the movers, as a job: the save before its displacer, or its restore (R239). -/
def State.moverWaits (s : State) (b : Cmd) : Option Job :=
  if b.phase = .running then (b.cores.findSome? fun k => s.displacer k b).map saveJob
  else if s.restorable b then some (restoreJob 0 b) else none

/-- No transfer that shares a mover with this one has an earlier deadline (R239). -/
def State.moverTurn (s : State) (b : Cmd) (j : Job) : Bool :=
  !s.cmds.any fun d => d.id != b.id && d.pairDieList.any (b.pairDieList.contains ·) && match s.moverWaits d with
    | some x => (match x.deadline, j.deadline with | some p, some q => decide (p < q) | some _, none => true | _, _ => false)
    | none => false

/-- The save groups of a command's vector programs take their state, in a form the spec does not give (log 1). -/
def State.fillSaves (s : State) (k : Nat) : State :=
  (s.core k).tile.saveGroups.foldl (fun s g =>
    let lo := scratchKey k (64 * g) 0
    let n := 64 * 16384
    let mem := tabClear s.scratch lo n
    let bytes := (List.range n).filterMap fun i =>
      let b := Config.freeByte s.freeCtr i
      if b = 0 then none else some (lo + i, b)
    { s with scratch := (mem.takeWhile fun e => decide (e.1 < lo)) ++ bytes ++ (mem.dropWhile fun e => decide (e.1 < lo))
             freeCtr := s.freeCtr + 1, scratchPoison := tabClear s.scratchPoison (scratchPoisonKey k (64 * g) 0) (64 * 1024) }) s

/-- The command that a displaces stops; the windows of its streams close (R287). -/
def State.beginSave (s : State) (a b : Cmd) : State :=
  let s1 := s.setCmd { b with phase := .saving, ranUs := s.ranSoFar b, savedFor := some a.id }
  b.cores.foldl (fun s k =>
    let t := (s.core k).tile
    if t.cmd = some b.id then
      (s.putTile k { t with streams := t.streams.map fun x => { x with watched := [] } }).fillSaves k
    else s) s1

/-- COCOON_SAVE: the mover starts to save the partner. -/
def execCocoonSave (c : CoreNo) (id : Nat) (s : State) : Host.Outcome State Fault Refusal :=
  match s.cmd id with
  | none => .next s
  | some b =>
    match s.displacer c.val b with
    | none => .next s
    | some a => when s (b.phase == .running && s.moverFree b && s.moverTurn b (saveJob a) &&
        b.cores.all fun k => decide ((s.core k).cocoons.length < 4)) (s.beginSave a b)

/-- The scratch of the listed groups of a core, keyed within the core, and its poison. -/
def State.scratchSlice (s : State) (k : Nat) (gs : List Nat) : Mem × Tab Bool :=
  ((tabSlice s.scratch (scratchKey k 0 0) 83886080).filter fun e => gs.contains (e.1 / 1048576),
   (tabSlice s.scratchPoison (scratchPoisonKey k 0 0) 5242880).filter fun e => gs.contains (e.1 / 65536))

/-- The lines of a cocoon: 80 MiB in the reserve of its core's base die, a megabyte for each bank group (R238, R241, R253; which
lines, log 1). -/
def cocoonLines : Nat := 80 * 4096
def cocoonFirst (k place : Nat) : Nat :=
  dieOf k * 32768 * 256 + Config.cocoonAt k place % (28672 * 256 - cocoonLines)

/-- The cocoon of a command on one of its cores. The lines it is written to hold no poison of their own any more (R256). -/
def State.saveCore (s : State) (id k : Nat) : State :=
  let e := s.core k
  let place := ((List.range 4).find? fun n => !e.cocoons.any (·.place == n)).getD 0
  let gs := s.cocoonGroups k id
  let sl := s.scratchSlice k gs
  let o : Cocoon := { cmd := id, scratch := sl.1, poison := sl.2, groups := BitVec.ofNat 80 (maskOf gs),
                      tile := if e.tile.cmd = some id then e.tile else {}, bank := if e.bank.cmd = some id then e.bank else {},
                      gather := if e.gather.cmd = some id then e.gather else {},
                      place := place }
  let own := cocoonFirst k place
  let hit := fun (l : Nat) => decide (own ≤ l) && decide (l < own + cocoonLines) && gs.contains ((l - own) / 4096)
  let s1 : State := { s with hbmPoison := s.hbmPoison.filter fun x => !hit x.1 }
  s1.setCore k { e with cocoons := e.cocoons ++ [o], tile := if e.tile.cmd = some id then {} else e.tile
                        bank := if e.bank.cmd = some id then {} else e.bank
                        gather := if e.gather.cmd = some id then {} else e.gather }

/-- A request brings data to a row of a GATHER. -/
def MemReq.serves (r : MemReq) (id : Nat) : Bool :=
  r.cmd == id || r.dests.any fun d => match d with | .gather i _ _ _ => i == id | _ => false
/-- A read of a command has not been answered, in its core's present generation; it may yet show poison (R257). -/
def State.readsOut (s : State) (id : Nat) : Bool :=
  s.cores.any fun e => (e.2.issue ++ e.2.slots).any fun r => r.serves id && !r.write && r.gen == e.2.gen

/-- COCOON_SAVE_DONE: the partner is displaced from every core it runs on (log 25), once what it has read has come; errs lists the words
that the mover reads with an error, core by core. -/
def execCocoonSaveDone (saved : GangReads) (id : Nat) (s : State) : Host.Outcome State Fault Refusal :=
  match s.cmd id with
  | none => .next s
  | some b => when s (b.phase == .saving && b.cores.contains saved.core.val && !s.readsOut id)
      ((b.cores.foldl (fun s k => s.saveCore id k) ((saved.errs.foldl (fun s e =>
        if b.cores.contains e.core.val then s.scratchErrs b.slot e.core.val e.errs else s) s).setCmd { b with phase := .displaced })).count
        0x3014 (b.slot + 1) 1)

/-- COCOON_RESTORE: the mover starts to restore the partner. -/
def execCocoonRestore (c : CoreNo) (id : Nat) (s : State) : Host.Outcome State Fault Refusal :=
  match s.cmd id with
  | none => .next s
  | some b => when s (b.cores.contains c.val && s.restorable b && s.moverFree b && s.moverTurn b (restoreJob 0 b))
      (s.setCmd { b with phase := .restoring })

/-- Rows fetched and not consumed are stale after a restore (R287). -/
def Stream.afterRestore (t : Stream) : Stream :=
  if t.valid then { t with stale := (List.range (t.fetched - t.consumed)).map (t.consumed + ·), watched := [] } else t

/-- The scratch words of a cocoon's groups that lie in poisoned lines of it: the mover restores them poisoned (R256, R257). -/
def State.cocoonPoison (s : State) (k : Nat) (o : Cocoon) : List Nat :=
  let own := cocoonFirst k o.place
  (s.hbmPoison.filter fun x => x.2 && decide (own ≤ x.1) && decide (x.1 < own + cocoonLines) &&
    bitAt o.groups.toNat ((x.1 - own) / 4096)).flatMap fun x => (List.range 16).map fun i => 16 * (x.1 - own) + i

/-- A cocoon put back on its core: the groups it holds, then its engines. -/
def State.restoreCore (s : State) (id k : Nat) : State :=
  let e := s.core k
  match e.cocoons.find? fun o => o.cmd == id with
  | none => s
  | some o =>
    let gs := maskList o.groups.toNat 80
    let m := gs.foldl (fun (m : Mem) g => tabClear m (scratchKey k (64 * g) 0) 1048576) s.scratch
    let p := gs.foldl (fun (p : Tab Bool) g => tabClear p (scratchPoisonKey k (64 * g) 0) 65536) s.scratchPoison
    let s1 : State := { s with scratch := tabPaste 0 m (scratchKey k 0 0) o.scratch
                               scratchPoison := (s.cocoonPoison k o).foldl (fun t w => tabSet false t (scratchPoisonKey k 0 0 + w) true)
                                 (tabPaste false p (scratchPoisonKey k 0 0) o.poison) }
    s1.setCore k { e with
      cocoons := e.cocoons.filter fun x => x.cmd != id
      tile := if o.tile.cmd = some id then { o.tile with streams := o.tile.streams.map Stream.afterRestore } else e.tile
      bank := if o.bank.cmd = some id then o.bank else e.bank
      gather := if o.gather.cmd = some id then o.gather else e.gather }

/-- COCOON_RESTORE_DONE: the partner runs on, and its work reaches the blocks it is pending on (R83). -/
def execCocoonRestoreDone (c : CoreNo) (id : Nat) (s : State) : Host.Outcome State Fault Refusal :=
  match s.cmd id with
  | none => .next s
  | some b => when s (b.phase == .restoring && b.cores.contains c.val)
      (b.cores.foldl (fun s k => s.restoreCore id k) ((s.workReaches (s.pendingBlocks b)).setCmd
        { b with phase := .running, resumed := s.time, savedFor := none }))

end Sys2Proof.Machine
end

