-- ==== Sys2Proof/Machine/Net.lean ====
section
/-!
DEFINITION. Ethernet ports and Silk flows: links, addresses, received packets, the egress, timers, FLOW_OPEN and FLOW_CLOSE
(R427 to R461).
-/
namespace Sys2Proof.Machine

/-! ## Changes of a flow's state (R446, R447, R459) -/

/-- A flow enters a state now. -/
def State.flowTo (s : State) (f : Nat) (st : FlowState) : State := s.setFlow f { s.flow f with state := st, stateSince := s.time }
/-- The function of a flow's holder. -/
def State.flowFns (s : State) (f : Nat) : List Nat := match (s.flow f).holder with | some i => s.slotFns i | none => []
/-- A flow fails: 1 DEPART, 2 retry limit, 3 hold expired, 4 CLOSE received. -/
def State.flowFail (s : State) (f cause : Nat) : State :=
  let s1 := (s.flowTo f .failed).event 0x0404 (f + 2 ^ 16 * cause) (s.flowFns f)
  (s1.flowLost f).flowOwnersFail f

/-- The flows a FLOW_OPEN or FLOW_CLOSE still works on. -/
def State.flowsOf (s : State) (id : Nat) : List Nat := (s.flows.filter fun e => e.2.cmd == some id).map (·.1)
/-- The command lets go of its flows. -/
def State.forgetFlows (s : State) (id : Nat) : State :=
  (s.flowsOf id).foldl (fun s f => s.setFlow f { s.flow f with cmd := none, cmdIndex := 0 }) s
/-- A FLOW_OPEN ends once every flow of it is OPEN; one that has ended lets go of its flows. -/
def State.flowOpened (s : State) (f : Nat) : State :=
  match (s.flow f).cmd with
  | none => s
  | some id =>
    if (s.flowsOf id).all fun g => (s.flow g).state == .opened then (s.finishCmd id 0).forgetFlows id else s
/-- A flow becomes OPEN. -/
def State.openFlow (s : State) (f credit : Nat) : State :=
  let fl := s.flow f
  (s.setFlow f { fl with state := .opened, stateSince := s.time, peerCredit := credit, credit0 := credit, lastRx := s.time, roundStart := s.time }).flowOpened f
/-- A closing flow becomes CLOSED, and its FLOW_CLOSE ends with the last of them. -/
def State.flowClosed (s : State) (f : Nat) : State :=
  let id := (s.flow f).cmd
  let s1 := s.closeFlow f
  match id with
  | none => s1
  | some i => if (s1.flowsOf i).isEmpty then s1.finishCmd i 0 else s1

/-! ## Links (R430, R446, R461) -/

/-- The hold of a paused or silent flow has run out. -/
def State.holdOver (s : State) (fl : Flow) : Bool :=
  (fl.state == .paused || fl.state == .silent) && decide (fl.stateSince + 1000 * s.entry 0x6010 4 ≤ s.time)

/-- LINK_DOWN, with the FEC codewords the port corrected, each a CORRECTED fault, and could not correct, since its link came up (R430, R460,
R601). -/
def execLinkDown (down : PortDown) (s : State) : Host.Outcome State Fault Refusal :=
  let p := down.port.val
  let s1 := s.noteFaults (unitId 6 0 0) 1 down.corrected
  when s (s.power.state == .running && s.portExists p && (s.eth p).up) (((s1.count 0x6022 (p + 1) down.corrected).count 0x6023 (p + 1) down.uncorrected).ethLinkDown p)

/-- The oldest unacknowledged packet of a flow, if any. -/
def Flow.oldest (fl : Flow) : Option TxPkt := fl.txOut.find? fun k => !k.sacked

/-- A paused flow runs on: its timers restart, and the peer hears of it at once, with credit that was returned meanwhile. -/
def State.flowResume (s : State) (f : Nat) : State :=
  let s1 := s.setFlow f { s.flow f with state := .opened, stateSince := s.time, lastRx := s.time, rtoFrom := s.time, roundStart := s.time }
  let s2 := match (s1.flow f).oldest with
    | some k =>
      let s2 := s1.resend f k.psn
      if (s2.flow f).creditSent = (s2.flow f).credit then s2 else s2.sendAck f 1
    | none => s1.sendAck f 2
  s2.flowOpened f

/-- The PHY of a port: that of PORT_PHY in force, else what auto-negotiation found (R427, R428). -/
def State.phyOf (s : State) (up : PortUp) : Phy :=
  if tabGet 0 s.portPhy up.port.val = 1 then .c2m else if up.kr then .kr else .cr

/-- A port's link is up: flows whose hold has just run out fail first, the other paused flows reopen. -/
def State.ethLinkUp (s : State) (up : PortUp) : State :=
  let p := up.port.val
  let ms := sat (2 ^ 24 - 1) ((s.time - (s.eth p).downSince) / 1000)
  let s1 := (s.setEth p { s.eth p with up := true, phy := some (s.phyOf up) }).event 0x0402 (p + 256 * ms) s.presentFns
  let fs := (s1.flows.filter fun e => e.2.port == p && e.2.state == .paused).map (·.1)
  fs.foldl (fun s f => if s.holdOver (s.flow f) then s.flowFail f 3 else s.flowResume f) s1

/-- LINK_UP. -/
def execLinkUp (up : PortUp) (s : State) : Host.Outcome State Fault Refusal :=
  let p := up.port.val
  when s (s.power.state == .running && decide (8 ≤ s.boot.stage) && s.boot.halt == 0 && s.portExists p && !(s.eth p).up)
    (s.ethLinkUp up)

/-! ## Frames that are not Silk (R429, R432, R436, R455) -/

/-- A frame dropped and counted. -/
def State.notSilk (s : State) : State := s.count 0x6030 9 1

/-- A data port that is up, or a lane of the management clock, receives frames (R432, R436). -/
def State.laneUp (s : State) (lane : LaneNo) : Bool := if lane.val < 16 then s.portUp lane.val else s.slowClock
/-- An address of a port, or of a lane; 0 is none (R431, R437). -/
def State.hasAddr (s : State) (lane : LaneNo) (v6 : Bool) (a : Nat) : Bool :=
  a != 0 && if lane.val < 16 then s.portAddr lane.val v6 == a else (s.laneAddrs lane.val v6).contains a

/-- ARP_REQUEST. -/
def execArpRequest (p : LaneNo) (target sender : W32) (s : State) : Host.Outcome State Fault Refusal :=
  when s (s.laneUp p)
    (if s.hasAddr p false target.toNat then { s with out := s.out ++ [Out.arpReply p.val sender] } else s.notSilk)

/-- NEIGHBOR_SOLICITATION. -/
def execNeighborSolicitation (p : LaneNo) (target sender : BitVec 128) (s : State) : Host.Outcome State Fault Refusal :=
  when s (s.laneUp p)
    (if s.hasAddr p true target.toNat then { s with out := s.out ++ [Out.ndReply p.val sender] } else s.notSilk)

/-- ECHO_REQUEST: a data port answers at most 100 in a second. -/
def execEchoRequest (p : LaneNo) (v6 : Bool) (target : BitVec 128) (data : List Byte) (s : State) : Host.Outcome State Fault Refusal :=
  let e := s.eth p.val
  let recent := e.echoTimes.filter fun t => decide (s.time < t + 1000000)
  when s (s.laneUp p)
    (if !s.hasAddr p v6 target.toNat then s.notSilk
     else if 16 ≤ p.val then { s with out := s.out ++ [Out.echoReply p.val v6 data] }
     else if recent.length < 100 then
      { s.setEth p.val { e with echoTimes := recent ++ [s.time] } with out := s.out ++ [Out.echoReply p.val v6 data] }
     else s.notSilk)

/-- NON_SILK_FRAME, of a data lane or of the management and service lanes 16 and 17. -/
def execNonSilkFrame (lane : LaneNo) (s : State) : Host.Outcome State Fault Refusal :=
  when s (if lane.val < 16 then s.portUp (lane.val * s.portCount / 16) else s.slowClock) s.notSilk

/-- PAUSE_FRAME: ignored and counted. -/
def execPauseFrame (p : EthNo) (s : State) : Host.Outcome State Fault Refusal :=
  when s (s.portUp p.val) (s.count 0x6030 10 1)

/-- The priority classes of a port under flow control for a PCP. -/
def State.pfcClasses (s : State) (p pcp : Nat) : List Nat :=
  (List.range 4).filter fun q => bitAt (s.entry 0x6008 (p + 1)) q && s.entry 0x6009 (q + 1) == pcp

/-- PFC_FRAME; a port without flow control for that PCP drops it as any other frame. -/
def execPfcFrame (p : EthNo) (pcp : Fin 8) (xoff : Bool) (s : State) : Host.Outcome State Fault Refusal :=
  let qs := s.pfcClasses p.val pcp.val
  let e := s.eth p.val
  when s (s.portUp p.val)
    (if qs.isEmpty then s.notSilk
     else s.setEth p.val { e with paused := qs.foldl (fun t q => tabSet false t q xoff) e.paused })

/-! ## Next hops (R432, R454) -/

/-- An IPv6 address as a number, its first byte highest. -/
def v6Number (a : Nat) : Nat := natOfBytes (bytesOfNat a 16).reverse
/-- The address whose link address a flow needs: the remote one within the port's prefix, else the gateway. -/
def State.nextHop (s : State) (fl : Flow) : BitVec 128 :=
  let p := fl.port + 1
  if fl.v6 then
    let n := bits (s.entry 0x6004 p) 8 8
    let cut := fun a => v6Number a / 2 ^ (128 - n)
    if cut fl.addr.toNat = cut (s.entry 0x6003 p) then fl.addr else BitVec.ofNat 128 (s.entry 0x6006 p)
  else
    let n := bits (s.entry 0x6004 p) 0 8
    let cut := fun a => a / 2 ^ (32 - n)
    if cut fl.addr.toNat = cut (s.entry 0x6002 p) then fl.addr else BitVec.ofNat 128 (s.entry 0x6005 p)
/-- ARP or Neighbor Discovery for a flow's next hop. -/
def State.askHop (s : State) (f : Nat) : State :=
  let fl := s.flow f
  if !(s.eth fl.port).up then s else
  { s.setFlow f { fl with lastOpen := s.time } with out := s.out ++ [Out.arpAsk fl.port (s.nextHop fl)] }
/-- An active flow that is opening sends OPEN once its next hop is known. -/
def State.tryOpen (s : State) (f : Nat) : State :=
  let fl := s.flow f
  if fl.state = .opening ∧ !fl.passive ∧ fl.resolved ∧ (s.eth fl.port).up then s.sendOpen f 4 else s

/-- NEXT_HOP_RESOLVED: the link address found goes with the flow. -/
def execNextHopResolved (hop : NextHop) (s : State) : Host.Outcome State Fault Refusal :=
  let fl := s.flow hop.flow.val
  when s (s.portUp fl.port && fl.state != .closed && !fl.resolved)
    ((s.setFlow hop.flow.val { fl with resolved := true, hop := hop.mac }).tryOpen hop.flow.val)

/-- NEXT_HOP_RETRY. -/
def execNextHopRetry (flow : FlowNo) (s : State) : Host.Outcome State Fault Refusal :=
  let fl := s.flow flow.val
  when s (s.portUp fl.port && fl.state == .opening && !fl.resolved && decide (fl.lastOpen + 100 ≤ s.time)) (s.askHop flow.val)

/-! ## Received packets (R434, R441) -/

/-- Check 1, and R434. -/
def silkPktOk (k : SilkPkt) : Bool :=
  let h := silkOf k.hdr
  k.plainIp && k.udpOk && crcOk k.hdr && h.ver == 1 && decide (h.ty ≤ 6) && decide (h.flags < 64) &&
  (if h.ty = 0 then psizeBytes (bits h.flags 4 2) != 0 && k.payload.length == psizeBytes (bits h.flags 4 2)
   else bits h.flags 4 2 == 0 && k.payload.isEmpty)

/-- The subindex of the drop counter of the first check a packet fails, checks 2 to 9. -/
def State.dropCause (s : State) (k : SilkPkt) : Option Nat :=
  let h := silkOf k.hdr
  let fl := s.flow h.flow
  if fl.state == .closed || fl.port != k.port.val || fl.v6 != k.v6 || fl.addr != k.src || fl.remote + 0xC000 != k.sport.toNat then some 2
  else if fl.state == .failed || (fl.state == .closing && h.ty != 1 && h.ty != 6) then some 2
  else if h.brood ≠ fl.brood.toNat then some 3
  else if h.instar < fl.instar.toNat then some 4
  else if fl.instar.toNat < h.instar then some 5
  else if s.bufferShare < ((s.eth fl.port).bufUse.foldl (fun n e => n + e.2) 0) + k.payload.length then some 6
  else if h.ty = 0 ∧ (!psnAfter h.psn fl.rxAck || (tabGet none fl.rxHave h.psn).isSome) then some 7
  else if h.ty = 0 ∧ psnAfter h.psn fl.creditSent then some 8
  else none

/-- A packet dropped: counted, by slot too for an old instar, and a duplicate acknowledged. -/
def State.dropPkt (s : State) (h : Silk) (n : Nat) : State :=
  let s1 := s.count 0x6030 n 1
  if n = 4 then (match (s.flow h.flow).holder with | some i => s1.count 0x7079 (i + 1) 1 | none => s1)
  else if n = 7 then s1.sendAck h.flow 1 else s1

/-- A packet that passes restarts the peer timeout, and a silent flow is open again. -/
def State.heard (s : State) (f : Nat) : State :=
  let fl := s.flow f
  let s1 := s.setFlow f { fl with lastRx := s.time }
  if fl.state = .silent then ((s1.flowTo f .opened).event 0x0405 f (s.flowFns f)).flowOpened f else s1

/-- A UDP packet is Silk: to the port's own address and to SILK_UDP_PORT (R432). -/
def State.isSilk (s : State) (k : SilkPkt) : Bool :=
  k.dst != 0 && s.portAddr k.port.val k.v6 == k.dst.toNat && k.dport.toNat == s.entry 0x6010 1

/-- A packet can reach its flow: its port is up, or it ends a flow that is PAUSED, as one received before the loss or carried by
loopback does (R446, R461). -/
def State.canHear (s : State) (k : SilkPkt) : Bool :=
  let h := silkOf k.hdr
  s.portUp k.port.val || (s.nicLive && s.portExists k.port.val && (h.ty == 3 || h.ty == 6) && (s.flow h.flow).state == .paused)

/-- A received packet of a type: checked, then given to its row's meaning. -/
def State.receive (s : State) (ty : Nat) (k : SilkPkt) (f : Silk → State → State) : State :=
  let h := silkOf k.hdr
  if !s.canHear k then s
  else if !s.isSilk k then s.notSilk
  else if !silkPktOk k then s.count 0x6030 1 1
  else if h.ty ≠ ty then s
  else match s.dropCause k with
    | some n => s.dropPkt h n
    | none => f h (s.heard h.flow)

/-- DATA: to its ring slot; the last packet of a chunk is an external event of the command it is for (R448, R449, R480). -/
def execData (k : SilkPkt) (s : State) : Host.Outcome State Fault Refusal :=
  .next (s.receive 0 k fun h s =>
    let s1 := (s.bufferTake k.port.val (s.flow h.flow).prio k.payload.length).acceptData h.flow h k.ce k.payload
    if !bitAt h.flags 1 then s1 else
    match s1.collFor h.flow (bits h.chunk 0 8) with
    | some c => (s1.peerTouch c.cmd).settlePeer c.cmd
    | none => s1)

/-- The commands whose queued packets on a flow waited for credit and now have it. -/
def creditFreed (old : Flow) (credit : Nat) : List Nat :=
  ((old.txQueue.zip (List.range old.txQueue.length)).filterMap fun e =>
    let psn := (old.txNext + e.2) % 2 ^ 32
    if psnAfter psn old.peerCredit ∧ !psnAfter psn credit then some e.1.cmd else none).eraseDups

/-- What an acknowledgement does beyond the transmitter: credit that a send waited for is an external event; a closing flow
whose data is acknowledged sends CLOSE, and is CLOSED once that is acknowledged (R445, R480). -/
def State.afterAck (s : State) (old : Flow) (f : Nat) : State :=
  let fl := s.flow f
  let s1 := (creditFreed old fl.peerCredit).foldl (fun s id => (s.peerTouch id).settlePeer id) s
  if fl.state ≠ .closing ∨ !fl.txOut.isEmpty then s1
  else if fl.closePsn.isNone then s1.sendClose f else s1.flowClosed f

/-- ACK. -/
def execAck (k : SilkPkt) (s : State) : Host.Outcome State Fault Refusal :=
  .next (s.receive 1 k fun h s => (s.ackFlow h.flow h).afterAck (s.flow h.flow) h.flow)

/-- KEEPALIVE: acknowledgement and credit as an ACK. -/
def execKeepalive (k : SilkPkt) (s : State) : Host.Outcome State Fault Refusal :=
  .next (s.receive 2 k fun h s => (s.ackFlow h.flow h).afterAck (s.flow h.flow) h.flow)

/-- DEPART. -/
def execDepart (k : SilkPkt) (s : State) : Host.Outcome State Fault Refusal :=
  .next (s.receive 3 k fun h s => (s.count 0x6031 7 1).flowFail h.flow 1)

/-- OPEN: an opening flow opens; it is answered with OPEN_ACK, again when the flow is open already. -/
def execOpenPkt (k : SilkPkt) (s : State) : Host.Outcome State Fault Refusal :=
  .next (s.receive 4 k fun h s =>
    match (s.flow h.flow).state with
    | .opening => (s.sendOpen h.flow 5).openFlow h.flow h.vote
    | .opened => s.sendOpen h.flow 5
    | _ => s)

/-- OPEN_ACK. -/
def execOpenAck (k : SilkPkt) (s : State) : Host.Outcome State Fault Refusal :=
  .next (s.receive 5 k fun h s => if (s.flow h.flow).state = .opening then s.openFlow h.flow h.vote else s)

/-- CLOSE: acknowledged; the flow fails, or closes where it was closing itself. -/
def execClosePkt (k : SilkPkt) (s : State) : Host.Outcome State Fault Refusal :=
  .next (s.receive 6 k fun h s =>
    let fl := s.flow h.flow
    if fl.state = .opening then s else
    let s1 := (s.setFlow h.flow { fl with rxAck := if h.psn = psnNext fl.rxAck then h.psn else fl.rxAck }).sendAck h.flow 1
    if fl.state = .closing then s1.flowClosed h.flow else s1.flowFail h.flow 4)

/-- A packet that the loopback brings, given to its row's meaning. -/
def State.deliver (s : State) (k : SilkPkt) : State :=
  let r := match (silkOf k.hdr).ty with
    | 0 => execData k s
    | 1 => execAck k s
    | 2 => execKeepalive k s
    | 3 => execDepart k s
    | 4 => execOpenPkt k s
    | 5 => execOpenAck k s
    | _ => execClosePkt k s
  match r with
  | .next t => t
  | _ => s
/-- The packets on the loopbacks are received; what they call forth is received a round later (R454, log 118). -/
def State.loopRound (s : State) : State := s.loopback.foldl (fun s k => s.deliver k) { s with loopback := [] }

/-! ## The egress (R246, R450, R453, R455) -/

/-- Payload bytes of the packet a flow would send next. -/
def Flow.nextBytes (fl : Flow) : Nat := match fl.txQueue with | k :: _ => k.payload.length | [] => 0
/-- A packet of a flow that waits to be sent again. -/
def Flow.duePkt (fl : Flow) : Option TxPkt := fl.txOut.find? (·.due)
/-- A flow of a slot could send a packet again now on a port; that is the spare class's work only (R453). -/
def State.couldResend (s : State) (p slot f : Nat) : Bool :=
  let fl := s.flow f
  fl.holder == some slot && fl.port == p && (fl.state == .opened || fl.state == .silent || fl.state == .closing) &&
  fl.duePkt.any (s.mayResend f)
/-- A flow of a slot that could send now on a port, in a class. -/
def State.couldSend (s : State) (p slot f : Nat) (floor : Bool) : Bool :=
  let fl := s.flow f
  (fl.holder == some slot && fl.port == p && s.canSend f &&
    (if floor then s.floorHas slot 5 fl.nextBytes else s.ceilHas slot 5 fl.nextBytes && s.capacityLeft 5 fl.nextBytes true)) ||
  (!floor && s.couldResend p slot f)
/-- A list of numbers in turn order after x. -/
def inTurn (l : List Nat) (x : Nat) : List Nat := (l.filter fun y => decide (x < y)) ++ l.filter fun y => decide (y ≤ x)

/-- The flow a slot sends from: the highest class, and the flow whose turn it is there. -/
def State.pickFlow (s : State) (p slot : Nat) (floor : Bool) : Option Nat :=
  let fs := (s.flows.map (·.1)).filter fun f => s.couldSend p slot f floor
  [3, 2, 1, 0].findSome? fun q =>
    (inTurn (fs.filter fun f => (s.flow f).prio == q) (tabGet 0 (s.eth p).turnFlow (4 * slot + q))).head?
/-- The slot and flow of a port's next packet in a class; each class keeps turns of its own (R246). -/
def State.pickSend (s : State) (p : Nat) (floor : Bool) : Option (Nat × Nat) :=
  (inTurn (List.range 16) (if floor then (s.eth p).turnFloor else (s.eth p).turnSlot)).findSome? fun i =>
    (s.pickFlow p i floor).map fun f => (i, f)

/-- The turns of a port after a packet of a slot's flow in a class. -/
def State.takeTurn (s : State) (p slot f : Nat) (floor : Bool) : State :=
  let e := s.eth p
  s.setEth p { e with turnFloor := if floor then slot else e.turnFloor, turnSlot := if floor then e.turnSlot else slot
                      turnFlow := tabSet 0 e.turnFlow (4 * slot + (s.flow f).prio) f }

/-- One first transmission in a class. -/
def State.sendNew (s : State) (slot f : Nat) (floor : Bool) : State :=
  match (s.flow f).txQueue with
  | [] => s
  | k :: _ =>
    let n := k.payload.length
    let s1 := ((if floor then s.serveFloor slot 5 n true else s.serveSpare slot 5 n true)).sendFirst f
    let s2 := if k.counted then s1.count 0x7041 (slot + 1) n else s1
    s2.settlePeer k.cmd

/-- One packet sent in a class: in the spare class, one that is to be sent again first. -/
def State.sendOne (s : State) (p slot f : Nat) (floor : Bool) : State :=
  let s1 := s.takeTurn p slot f floor
  if !floor && s.couldResend p slot f then
    match (s.flow f).duePkt with
    | some k => s1.resend f k.psn
    | none => s1
  else s1.sendNew slot f floor

/-- DATA_SEND: the port's next packet, the floor class first. -/
def execDataSend (p : EthNo) (s : State) : Host.Outcome State Fault Refusal :=
  if !s.portUp p.val then .next s else
  match s.pickSend p.val true with
  | some e => .next (s.sendOne p.val e.1 e.2 true)
  | none =>
    match s.pickSend p.val false with
    | some e => .next (s.sendOne p.val e.1 e.2 false)
    | none => .next s

/-! ## Timers (R444, R446, R449, R450, R452, R456) -/

/-- OPEN_RESEND. -/
def execOpenResend (flow : FlowNo) (s : State) : Host.Outcome State Fault Refusal :=
  let fl := s.flow flow.val
  when s (s.portUp fl.port && decide (fl.lastOpen + 100 ≤ s.time)) (s.tryOpen flow.val)

/-- KEEPALIVE_TIMER. -/
def execKeepaliveTimer (flow : FlowNo) (s : State) : Host.Outcome State Fault Refusal :=
  let fl := s.flow flow.val
  when s (s.portUp fl.port && (fl.state == .opened || fl.state == .silent) && decide (fl.lastTx + s.entry 0x6010 2 ≤ s.time))
    (s.sendAck flow.val 2)

/-- PEER_TIMEOUT. -/
def execPeerTimeout (flow : FlowNo) (s : State) : Host.Outcome State Fault Refusal :=
  let fl := s.flow flow.val
  when s (s.nicLive && fl.state == .opened && decide (fl.lastRx + s.entry 0x6010 3 ≤ s.time))
    (((s.flowTo flow.val .silent).event 0x0403 flow.val (s.flowFns flow.val)).flowLost flow.val)

/-- FLOW_HOLD_EXPIRY. -/
def execFlowHoldExpiry (flow : FlowNo) (s : State) : Host.Outcome State Fault Refusal :=
  when s (s.nicLive && s.holdOver (s.flow flow.val)) (s.flowFail flow.val 3)

/-- A retransmission timeout: the window drops to 1, the timer doubles, the oldest packet is sent again; an open flow fails
at the retry limit. -/
def State.rtoFire (s : State) (f : Nat) : State :=
  let fl := s.flow f
  let n := if fl.state = .opened then fl.retries + 1 else fl.retries
  let s1 := s.count 0x6031 2 1
  let s2 := match fl.holder with | some i => s1.count 0x7092 (i + 1) 1 | none => s1
  let s3 := s2.setFlow f { fl with window := 1, retries := n, rto := max (s.entry 0x6010 5) (min (s.entry 0x6010 6) (2 * fl.rto))
                                   rtoFrom := s.time }
  if fl.state = .opened ∧ s.entry 0x6010 7 ≤ n then s3.flowFail f 2 else
  match fl.oldest with
  | some k => s3.markDue f k.psn
  | none => s3

/-- RTO_EXPIRY. -/
def execRtoExpiry (flow : FlowNo) (s : State) : Host.Outcome State Fault Refusal :=
  let fl := s.flow flow.val
  when s (s.portUp fl.port && (fl.state == .opened || fl.state == .silent || fl.state == .closing) && fl.oldest.isSome &&
    decide (fl.rtoFrom + fl.rto ≤ s.time)) (s.rtoFire flow.val)

/-- ACK_DELAY. -/
def execAckDelay (flow : FlowNo) (s : State) : Host.Outcome State Fault Refusal :=
  let fl := s.flow flow.val
  when s (s.portUp fl.port && fl.state != .closed && fl.state != .failed && decide (0 < fl.sinceAck) &&
    decide (fl.firstUnacked + s.entry 0x6010 10 ≤ s.time)) (s.sendAck flow.val 1)

/-- CC_ROUND. -/
def execCcRound (flow : FlowNo) (s : State) : Host.Outcome State Fault Refusal :=
  let fl := s.flow flow.val
  when s (s.portUp fl.port && fl.state == .opened && decide (fl.roundStart + fl.srtt8 / 8 ≤ s.time))
    (s.setFlow flow.val (fl.round (s.entry 0x6010 11) s.time))

/-! ## FLOW_OPEN (R442 to R444) -/

/-- COUNT of FLOW_OPEN and FLOW_CLOSE. -/
def flowCount (r : Rec) : Nat := recField r 0x68 4 % 8192

/-- The byte offset of the first bad field of a descriptor; before holds the numbers of the earlier ones. -/
def State.flowDescBad (s : State) (slot : Nat) (d : List Byte) (before : List Nat) : Option Nat :=
  let f := field d 0 2
  let v6 := bitAt (field d 5 1) 0
  let ps := bits (field d 5 1) 2 2
  let port := field d 4 1
  let ring := field d 0x20 8
  let n := field d 0x28 4
  firstBad ([(0, decide (16384 ≤ f) || (s.flow f).holder != some slot || (s.flow f).state != .closed || before.contains f),
    (2, decide (16384 ≤ field d 2 2)), (4, !s.portExists port || s.portAddr port v6 == 0),
    (5, decide (64 ≤ field d 5 1) || ps == 0), (8, !v6 && field d 0x0C 12 != 0),
    (0x20, ring % 65536 != 0 || (s.rangeFault slot ring (n * psizeBytes ps) true).isSome),
    (0x28, decide (n < 16) || decide (65536 < n) || n != 2 ^ Nat.log2 n)] ++
    (rsvdBad d 0x2C 20).toList.map fun o => (o, true))

/-- The first bad descriptor of a list: DETAIL of FLOW_INVALID. -/
def State.flowListBad (s : State) (slot : Nat) : List (List Byte) → Nat → List Nat → Option Nat
  | [], _, _ => none
  | d :: l, i, before =>
    match s.flowDescBad slot d before with
    | some o => some (i + 2 ^ 16 * o)
    | none => s.flowListBad slot l (i + 1) (before ++ [field d 0 2])

/-- The context of a flow that opens. -/
def State.flowOf (s : State) (id slot i : Nat) (d : List Byte) : Flow :=
  let b := field d 5 1
  { holder := some slot, state := .opening, remote := field d 2 2, port := field d 4 1, v6 := bitAt b 0, passive := bitAt b 1
    psize := bits b 2 2, prio := bits b 4 2
    dport := if field d 6 2 = 0 then s.entry 0x6010 1 else field d 6 2
    addr := BitVec.ofNat 128 (field d 8 16), brood := BitVec.ofNat 32 (field d 0x18 4), instar := BitVec.ofNat 32 (field d 0x1C 4)
    rxRing := field d 0x20 8, rxSlots := field d 0x28 4, window := min (s.entry 0x6010 8) (field d 0x28 4)
    stateSince := s.time, lastRx := s.time, lastTx := s.time, cmd := some id, cmdIndex := i
    creditSent := field d 0x28 4
    rto := max (s.entry 0x6010 5) (min (s.entry 0x6010 6) 100) }

/-- A flow put in OPENING: its next hop is asked for, or OPEN is sent at once on a loopback. -/
def State.startFlow (s : State) (id slot i : Nat) (d : List Byte) : State :=
  let f := field d 0 2
  let fl := s.flowOf id slot i d
  let s1 := s.setFlow f { fl with resolved := s.isLocal fl }
  if s.isLocal fl then s1.tryOpen f else s1.askHop f

/-- FLOW_OPEN. -/
def execFlowOpen (id : Nat) (s : State) : Host.Outcome State Fault Refusal :=
  if !s.nicLive then .next s else
  .next (s.startOp id 0x40 fun c s =>
    let n := flowCount c.record
    if n = 0 ∨ 4096 < n then s.endCmd id 0x0407 0 else
    match s.descRead id c.slot c.payload (64 * n) with
    | (s1, none) => s1
    | (s1, some bs) =>
      let ds := (List.range n).map fun i => (bs.drop (64 * i)).take 64
      match s1.flowListBad c.slot ds 0 [] with
      | some e => s1.endCmd id 0x0407 e
      | none => (ds.zip (List.range n)).foldl (fun s e => s.startFlow id c.slot e.2 e.1) s1)

/-- The command's deadline less 2 µs has come. -/
def State.nearEnd (s : State) (c : Cmd) : Bool := match c.deadline with | some d => decide (d ≤ s.time + 2) | none => false

/-- FLOW_OPEN_TIMEOUT: every flow of the command returns to CLOSED, with CLOSE on those that opened. -/
def State.openTimeout (s : State) (id : Nat) : State :=
  let fs := s.flowsOf id
  let opened := fs.filter fun f => (s.flow f).state == .opened
  let first := (fs.filter fun f => (s.flow f).state != .opened).foldl (fun m f => min m (s.flow f).cmdIndex) 4096
  let s1 := opened.foldl (fun s f => s.sendClose f) s
  let s2 := fs.foldl (fun s f => s.closeFlow f) s1
  s2.endCmd id 0x0405 (opened.length + 2 ^ 16 * first)

/-- FLOW_OPEN_TIMEOUT. -/
def execFlowOpenTimeout (id : Nat) (s : State) : Host.Outcome State Fault Refusal :=
  match s.runningOp id 0x40 with
  | none => .next s
  | some c => when s (s.nearEnd c) (s.openTimeout id)

/-! ## FLOW_CLOSE (R445) -/

/-- A named flow cannot be closed. -/
def State.closeBad (s : State) (slot f : Nat) : Bool :=
  decide (16384 ≤ f) || (s.flow f).holder != some slot ||
  !((s.flow f).state == .opened || (s.flow f).state == .paused || (s.flow f).state == .silent || (s.flow f).state == .failed)

/-- A named flow starts to close: a failed one is closed at once; CLOSE goes out once sent data is acknowledged. -/
def State.startClose (s : State) (id i f : Nat) : State :=
  let fl := s.flow f
  match fl.state with
  | .failed => s.closeFlow f
  | .closed | .closing => s
  | _ =>
    let s1 := s.setFlow f { fl with state := .closing, stateSince := s.time, txQueue := [], cmd := some id, cmdIndex := i }
    if fl.txOut.isEmpty then s1.sendClose f else s1

/-- FLOW_CLOSE. -/
def execFlowClose (id : Nat) (s : State) : Host.Outcome State Fault Refusal :=
  if !s.nicLive then .next s else
  .next (s.startOp id 0x41 fun c s =>
    let n := flowCount c.record
    if n = 0 ∨ 4096 < n then s.endCmd id 0x0407 0 else
    match s.descRead id c.slot c.payload (2 * n) with
    | (s1, none) => s1
    | (s1, some bs) =>
      let fs := (List.range n).map fun i => field bs (2 * i) 2
      match fs.findIdx? (s1.closeBad c.slot) with
      | some i => s1.endCmd id 0x0407 i
      | none =>
        let s2 := (fs.zip (List.range n)).foldl (fun s e => s.startClose id e.2 e.1) s1
        if (s2.flowsOf id).isEmpty then s2.finishCmd id 0 else s2)

/-- FLOW_CLOSE_DEADLINE: what is still closing becomes CLOSED; DETAIL counts the flows with data unacknowledged. -/
def State.closeDeadline (s : State) (id : Nat) : State :=
  let fs := s.flowsOf id
  let n := (fs.filter fun f => (s.flow f).txOut.any fun k => !k.close).length
  (fs.foldl (fun s f => s.closeFlow f) s).finishCmd id n

/-- FLOW_CLOSE_DEADLINE. -/
def execFlowCloseDeadline (id : Nat) (s : State) : Host.Outcome State Fault Refusal :=
  match s.runningOp id 0x41 with
  | none => .next s
  | some c => when s (s.nearEnd c) (s.closeDeadline id)

end Sys2Proof.Machine
end

