-- ==== Sys2Proof/Machine/Coll.lean ====
section
/-!
DEFINITION. The collective engine: reduction arithmetic, chunks served, COLLECTIVE and its timeout (R462 to R488, R518, R519,
R564).
-/
namespace Sys2Proof.Machine

/-! ## Poison and flags (R477, R478) -/

/-- The lowest poisoned output address is kept. -/
def State.noteLowest (s : State) (id addr : Nat) : State :=
  match s.cmd id with
  | none => s
  | some c => s.setCmd { c with poisoned := some (match c.poisoned with | some a => min a addr | none => addr) }

/-- A byte list cut into elements of b bytes. -/
def elementsOf (b : Nat) (bs : List Byte) : List Nat := if bs.isEmpty then [] else (cutBytes b bs.length bs).map natOfBytes
/-- The value of an element code: format 1 FP32, 2 BF16, 3 FP16. -/
def valueOf (fmt x : Nat) : FVal := if fmt = 1 then fmtFP32.decode x else if fmt = 2 then fmtBF16.decode x else fmtFP16.decode x
/-- An element code is an infinity or a NaN; bytes are not inspected. -/
def codeNonfinite (fmt x : Nat) : Bool :=
  fmt != 0 && (match valueOf fmt x with | .fin _ _ _ => false | _ => true)
/-- Some element of a byte list is an infinity or a NaN. -/
def anyNonfinite (fmt : Nat) (bs : List Byte) : Bool :=
  fmt != 0 && (elementsOf (if fmt = 1 then 4 else 2) bs).any (codeNonfinite fmt)

/-! ## Reduction (R475, R476) -/

/-- Own contributions to elements lo to lo + n − 1, times PRESCALE, and whether any of them is poisoned. -/
def State.ownPart (s : State) (c : Coll) (lo n : Nat) : Except Stop (List FRes × Bool) :=
  let b := inputBytes c.input
  match s.rawTagged c.slot (lineSpans (c.src + lo * b) (n * b)) [] with
  | .error e => .error e
  | .ok bs => .ok ((elementsOf b (bs.map (·.1))).map fun x => written (mulVal (valueOf (formatOf c.input) x) (decode32 c.prescale)),
                   bs.any (·.2))
/-- The bytes read for it, metered. -/
def State.chargeOwn (s : State) (c : Coll) (lo n : Nat) : State :=
  s.chargeRead (some c.cmd) c.slot (lineSpans (c.src + lo * inputBytes c.input) (n * inputBytes c.input))

/-- The random value of element i of a chunk; which reducer lane draws it the spec does not say (log 1). -/
def State.reducerDraw (s : State) (c : Coll) (index i : Nat) : Nat :=
  let lane := (Config.freeByte s.freeCtr (i / 4)).toNat % 64
  drawLane (draw (c.step ^^^ (BitVec.ofNat 64 (c.member c.self).rank <<< 48)) (3 * 2 ^ 28 + lane) index (i / 4)) (i % 4)

/-- Contributors of an element so far, its own once it is read. -/
def Coll.counted (c : Coll) (e : Nat) : Nat := max 1 (tabGet 0 c.sumCount e)
/-- Some of n elements from lo have no sum yet. -/
def Coll.fresh (c : Coll) (lo n : Nat) : Bool := (List.range n).any fun i => tabGet 0 c.sumCount (lo + i) == 0
/-- A sum exceeds the threshold beyond which adds, and the narrowing after them, round stochastically. -/
def Coll.stochastic (c : Coll) (after n : Nat) : Bool := c.sr && decide (after < n)

/-- The present partials of n elements from lo: values, flags raised in forming own ones, poison of the packet. -/
def State.partials (s : State) (c : Coll) (lo n : Nat) : Except Stop (List FRes × Bool) :=
  let bad := (List.range n).any fun i => tabGet false c.sumPoison (lo + i)
  if c.fresh lo n then
    match s.ownPart c lo n with
    | .error e => .error e
    | .ok r => .ok ((r.1.zip (List.range n)).map fun e =>
        if tabGet 0 c.sumCount (lo + e.2) = 0 then e.1 else (tabGet 0 c.sums (lo + e.2), 0), r.2 || bad)
  else .ok ((List.range n).map fun i => (tabGet 0 c.sums (lo + i), 0), bad)

/-- What an add of one packet gives: the sums with their flags, the packet's poison, and how many adds rounded stochastically. -/
structure Added where
  vals : List FRes
  bad : Bool
  sr : Nat

/-- Received partials added to the present ones; first is the packet's first element in its chunk. -/
def State.addPacket (s : State) (c : Coll) (lo first : Nat) (hd : RxPkt) (got : List Nat) (bad : Bool) : Except Stop Added :=
  match s.partials c lo got.length with
  | .error e => .error e
  | .ok r =>
    let after := c.srAfter
    let one := fun (e : (FRes × Nat) × Nat) =>
      let sr := c.stochastic after (c.counted (lo + e.2) + hd.contrib)
      let u := if sr then some (s.reducerDraw c (hd.chunk.toNat % 65536) (first + e.2)) else none
      let v := written (addVal u (decode32 e.1.1.1) (valueOf (c.wire + 1) e.1.2))
      ((v.1, e.1.1.2 ||| v.2), sr)
    let l := ((r.1.zip got).zip (List.range got.length)).map one
    .ok { vals := l.map (·.1), bad := bad || r.2, sr := (l.filter (·.2)).length }

/-- Sums of elements from lo kept with their contributors. -/
def Coll.keep (c : Coll) (lo contrib : Nat) (a : Added) : Coll :=
  let l := a.vals.zip (List.range a.vals.length)
  { c with
    sums := l.foldl (fun t e => tabSet 0 t (lo + e.2) e.1.1) c.sums
    sumCount := l.foldl (fun t e => tabSet 0 t (lo + e.2) (c.counted (lo + e.2) + contrib)) c.sumCount
    sumPoison := l.foldl (fun t e => tabSet false t (lo + e.2) a.bad) c.sumPoison
    flags := if a.bad then c.flags else a.vals.foldl (fun f v => f ||| v.2) c.flags }
/-- Sums that have been sent on or written are done with. -/
def Coll.forget (c : Coll) (lo n : Nat) : Coll :=
  { c with sums := tabClear c.sums lo n, sumCount := tabClear c.sumCount lo n, sumPoison := tabClear c.sumPoison lo n }

/-- A sum made final: POSTSCALE, then OUTPUT. -/
def Coll.finalCode (c : Coll) (w : W32) : List Byte × Flags :=
  let r := fmul w c.postscale
  if c.output = 0 then (bytesOfNat r.1.toNat 4, r.2)
  else let n := narrowBf16 r.1; (bytesOfNat n.1.toNat 2, r.2 ||| n.2)

/-- Bytes of output written; the first poisoned address is noted. -/
def State.putOut (s : State) (c : Coll) (va : Nat) (bs : List Byte) (bad : Bool) : State × Bool :=
  let r := s.cmdWrite c.cmd c.slot va bs bad [(c.dst, c.outBytes)]
  (if bad && r.2 then r.1.noteLowest c.cmd va else r.1, r.2)

/-- Final values of elements from lo written. -/
def State.putFinals (s : State) (c : Coll) (lo : Nat) (vals : List W32) (bad : Bool) : State × Coll × Bool :=
  let l := vals.map c.finalCode
  let r := s.putOut c (c.finalVa lo) (l.flatMap (·.1)) bad
  (r.1, if bad then c else { c with flags := l.foldl (fun f e => f ||| e.2) c.flags }, r.2)

/-! ## Chunks received -/

/-- Packets of partial sums folded in, until the act's elements are all there; the element count taken comes back. -/
def State.sumPackets (s : State) (c : Coll) (a : Act) (hd : RxPkt) (i : Nat) : List (List Byte × Bool) → State × Coll × Nat
  | [] => (s, c, i)
  | p :: l =>
    let got := (elementsOf (wireBytes c.wire) p.1).take (a.n - i)
    if got.isEmpty then (s, c, i) else
    match s.addPacket c (a.lo + i) i hd got p.2 with
    | .error e => (s.endCmd c.cmd e.1 e.2, c, i)
    | .ok r =>
      let s1 := ((if c.fresh (a.lo + i) got.length then s.chargeOwn c (a.lo + i) got.length else s).count 0x7043 (c.slot + 1) r.sr)
      let c1 := c.keep (a.lo + i) hd.contrib r
      if a.kind = .last then
        match s1.putFinals c1 (a.lo + i) (r.vals.map (·.1)) r.bad with
        | (s2, c2, true) => s2.sumPackets (c2.forget (a.lo + i) got.length) a hd (i + got.length) l
        | (s2, c2, false) => (s2, c2, i)
      else s1.sumPackets c1 a hd (i + got.length) l

/-- A chunk of partial sums. -/
def State.rxSum (s : State) (c : Coll) (a : Act) (hd : RxPkt) (ps : List (List Byte × Bool)) : State × Coll :=
  match s.sumPackets c a hd 0 ps with
  | (s1, c1, n) =>
    ({ s1 with freeCtr := s1.freeCtr + 1 },
     if n < a.n then { c1 with acts := c1.acts.map fun b => if b.key = a.key then { a with lo := a.lo + n, n := a.n - n, va := c.finalVa (a.lo + n) } else b }
     else c1.finish a)

/-- What a transfer does when its head is not the one expected: MIRROR_MISMATCH, or COLL_SEQUENCE of a span (R519, R564). -/
def State.headWrong (s : State) (c : Coll) (a : Act) : State :=
  if c.kind = .mirrorRx then s.collFail c 0x040E 0 noRank else s.collFail c 0x040B a.peer noRank

/-- Bytes of one packet of a transfer at position lo: head checked, data written, within the block length of ALL_TO_ALL. -/
def State.movePacket (s : State) (c : Coll) (a : Act) (p : List Byte × Bool) : State × Coll × Act × Bool :=
  let total := a.head.length + a.n
  let bs := p.1.take (total - a.lo)
  let h := bs.take (a.head.length - a.lo)
  if h ≠ (a.head.drop a.lo).take h.length then (s.headWrong c a, c, a, false) else
  let off := a.lo - a.head.length
  let d0 := bs.drop (a.head.length - a.lo)
  let d := if a.kind = .block then d0.take (c.block - off) else d0
  let r := if d.isEmpty then (s, true) else s.putOut c (a.va + off) d p.2
  let fl := if !p.2 && anyNonfinite a.fmt d then c.flags ||| flNonfinite else c.flags
  (r.1, { c with flags := fl, spanOk := c.spanOk && !p.2 }, { a with lo := a.lo + bs.length }, r.2)

/-- Packets of a transfer in order. -/
def State.movePackets (s : State) (c : Coll) (a : Act) : List (List Byte × Bool) → State × Coll × Act × Bool
  | [] => (s, c, a, true)
  | p :: l =>
    match s.movePacket c a p with
    | (s1, c1, a1, true) => s1.movePackets c1 a1 l
    | r => r

/-- Data bytes of a transfer so far. -/
def Act.dataDone (a : Act) : Nat := a.lo - a.head.length

/-- The bytes a mirror or a molt's span brings, counted, and the units of a molt (R524, R566, R571). -/
def State.countMoved (s : State) (c : Coll) (n : Nat) (tx : Bool) : State :=
  match c.kind with
  | .mirrorRx => s.count 0x7055 (c.slot + 1) n
  | .mirrorTx => if tx then s.count 0x7054 (c.slot + 1) n else s
  | .moltMove => s.count (if tx then 0x7078 else 0x7077) (c.slot + 1) n
  | _ => s

/-- A chunk of bytes; the first one of a block gives its length. -/
def State.rxMove (s : State) (c : Coll) (a : Act) (ps : List (List Byte × Bool)) : State × Coll :=
  let first := a.kind == .block && a.head.isEmpty
  let len := field ((ps.headD ([], false)).1) 0 4
  let a0 := if first then { a with head := bytesOfNat len 4, n := len } else a
  let c0 := if first ∧ c.block < len ∧ c.overflow.isNone then { c with overflow := some a.peer } else c
  let w := if first then s.cmdWrite c.cmd c.slot (c.rcounts + 4 * a.peer) (bytesOfNat len 4) else (s, true)
  if !w.2 then (w.1, c0) else
  match w.1.movePackets c0 a0 ps with
  | (s1, c1, a1, ok) =>
    let s2 := s1.countMoved c (a1.dataDone - a0.dataDone) false
    (s2, if !ok then c1
         else if a1.head.length + a1.n ≤ a1.lo then c1.finish a
         else { c1 with acts := c1.acts.map fun b => if b.key = a.key then a1 else b })

/-! ## Vote records (R487 to R489) -/

/-- Bytes combined one by one. -/
def zipBytes (f : Byte → Byte → Byte) (a b : List Byte) (lo n : Nat) : List Byte :=
  ((a.drop lo).take n |>.zip ((b.drop lo).take n)).map fun e => f e.1 e.2
/-- The larger of two unsigned fields. -/
def maxField (a b : List Byte) (lo n : Nat) : List Byte := bytesOfNat (max (field a lo n) (field b lo n)) n
/-- Two records combined field by field. -/
def combineRecords (a b : List Byte) : List Byte :=
  zipBytes (· &&& ·) a b 0 4 ++ zipBytes (· ||| ·) a b 4 12 ++ maxField a b 0x10 8 ++ maxField a b 0x18 8 ++ maxField a b 0x20 4 ++
  maxField a b 0x24 4 ++ zipBytes (· ||| ·) a b 0x28 16 ++ maxField a b 0x38 8
/-- The STEP and INSTAR fields agree on one point. -/
def recordAgrees (r : List Byte) : Bool :=
  field r 0x10 8 + field r 0x18 8 == 2 ^ 64 - 1 && field r 0x20 4 + field r 0x24 4 == 2 ^ 32 - 1
/-- Every reserved field is 0. -/
def recordRsvd (r : List Byte) : Bool := decide (field r 0 4 < 4) && decide (field r 4 4 < 64) && field r 0x0C 4 == 0
/-- A combined record is clean (R489); one of both modes never is (R546). -/
def recordClean (r : List Byte) : Bool :=
  bits (field r 0 4) 0 2 == 3 && recordAgrees r && recordRsvd r && !(bitAt (field r 4 4) 0 && bitAt (field r 4 4) 1)

/-- A packet with a vote record. -/
def rxVote (c : Coll) (a : Act) (hd : RxPkt) (p : List Byte) : Coll :=
  let r := p.take 64
  let c1 := if a.kind = .result then { c with record := r }
            else { c with record := combineRecords c.record r, sumCount := tabSet 0 c.sumCount 0 (c.counted 0 + hd.contrib) }
  c1.finish a

/-! ## Sync records (R564) -/

/-- The sync record of a partition: STEP + 1 and the brood trackers by BROOD_INDEX. -/
def State.syncRecord (s : State) (c : Coll) : List Byte :=
  bytesOfNat (c.step.toNat + 1) 8 ++ (List.range 32).flatMap fun i =>
    match trackerNumbers.find? fun t => (s.tracker c.slot t).any fun e => e.brood && e.broodIndex == i + 1 with
    | some t => bytesOfNat t 2 ++ bytesOfNat 0 6 ++ ((s.tracker c.slot t).map TrackerEntry.bytes).getD []
    | none => bytesOfNat 0 40

/-- Its entries written into the partition's own table; false where one could not be. -/
def State.applySync (s : State) (slot : Nat) (r : List Byte) : State × Bool :=
  (List.range 32).foldl (fun e i =>
    let t := field r (8 + 40 * i) 2
    if t = 0 then e
    else if (e.1.part slot).trackerBase = 0 ∨ 4095 < t then (e.1, false)
    else match e.1.vwrite none slot ((e.1.part slot).trackerVa t) ((r.drop (16 + 40 * i)).take 32) with
      | (s1, none) => (s1, e.2)
      | (s1, some _) => (s1, false)) (s, true)

/-- Packets of a sync record; once it is whole it is applied. -/
def State.rxSync (s : State) (c : Coll) (a : Act) (ps : List (List Byte × Bool)) : State × Coll :=
  let got := (a.head ++ ps.flatMap (·.1)).take 1288
  let bad := ps.any (·.2)
  if got.length < 1288 then
    (s, { c with spanOk := c.spanOk && !bad, acts := c.acts.map fun b => if b.key = a.key then { a with head := got } else b })
  else
    let r := (s.setTables c.slot (s.tablesFor c.slot c.cmd)).applySync c.slot got
    (r.1.setTables c.slot (s.tablesOf c.slot), { c.finish a with spanOk := c.spanOk && !bad && r.2 })

/-! ## Work of an exchange -/

/-- What the engine can do next for an exchange: fail on a chunk of n packets on a flow, take one, or do an act. -/
inductive Work
  | failed (flow n status detail rank : Nat)
  | take (flow : Nat) (act : Act) (chunk : List (Nat × RxPkt))
  | act (act : Act)
deriving DecidableEq, Repr

/-- A packet that carries a vote record, in an exchange of records and in no other. -/
def Coll.votes (c : Coll) : Bool := c.kind == .stepVote || c.kind == .resolve || c.kind == .moltResolve || c.kind == .moltCommit

/-- What the chunk at the head of a flow asks of an exchange (R472 to R474, R486). -/
def State.flowWork (s : State) (c : Coll) (f : Nat) : Option Work :=
  match (s.flow f).headChunk with
  | none => none
  | some l =>
    match l.head?, l.getLast? with
    | some (_, hd), some (p, e) =>
      let m := c.memberOn f
      let odd := l.any fun e => e.2.cseq != tabGet 0 c.rxSeq f % 2 ^ 24 || decide (2 ^ 20 ≤ e.2.vote.toNat) || bitAt e.2.vote.toNat 19 != c.votes
      if (s.collFor f hd.tag).map (·.cmd) ≠ some c.cmd then none
      else if e.abort then
        let bs := ((s.ringRead f p e).map (·.1)).getD []
        some (.failed f l.length (field bs 4 2) (field bs 0 4) (field bs 0 4))
      else if odd then some (.failed f l.length 0x040B m noRank)
      else if l.any fun e => e.2.step != c.step then some (.failed f l.length 0x0403 (if c.kind = .mirrorRx then 0 else m) noRank)
      else match c.acts.find? fun a => a.receives && a.peer == m with
        | none => some (.failed f l.length 0x040B m noRank)
        | some a => if c.ready a then some (.take f a l) else none
    | _, _ => none

/-- The flow's credit covers the first packet of a send put behind what its transmitter holds (R28, R31). -/
def State.sendCredit (s : State) (f : Nat) : Bool :=
  let fl := s.flow f
  !psnAfter ((fl.txNext + fl.txQueue.length) % 2 ^ 32) fl.peerCredit

/-- The next work of an exchange: a delivered chunk first, else the first act that is ready, a send once it has credit. -/
def State.work (s : State) (c : Coll) : Option Work :=
  match c.flows.findSome? (s.flowWork c) with
  | some w => some w
  | none => (c.acts.find? fun a => (a.tx || a.kind == .copy || a.kind == .form) && c.ready a &&
      (!a.tx || s.sendCredit (c.member a.peer).flow)).map .act

/-- NONFINITE of a chunk that was folded into this one. -/
def Coll.folded (c : Coll) (a : Act) : Bool := a.need.any c.nonfinite.contains

/-- The packets of a delivered chunk leave the ring, and their payload is counted. -/
def State.consume (s : State) (c : Coll) (f n : Nat) : State :=
  if c.tallied then (s.freeChunk f n).count 0x7042 (c.slot + 1) (n * c.pkt) else s.freeChunk f n

/-- A delivered chunk taken: its packets leave the ring, and its act is done or goes on. -/
def State.takeChunk (s : State) (c : Coll) (f : Nat) (a : Act) (l : List (Nat × RxPkt)) : State :=
  let hd := (l.map (·.2)).headD {}
  let read := l.map fun e => s.ringRead f e.1 e.2
  if read.any (·.isNone) then s.collStop c 0x0308 (s.flow f).rxRing else
  let ps : List (List Byte × Bool) := read.filterMap id
  let s2 := s.consume c f l.length
  let nf := l.any fun e => e.2.nonfinite
  let c1 : Coll := { c with rxSeq := tabSet 0 c.rxSeq f (tabGet 0 c.rxSeq f + 1), flags := if nf then c.flags ||| flNonfinite else c.flags
                            nonfinite := if nf || c.folded a then a.key :: c.nonfinite else c.nonfinite }
  let r : State × Coll := match a.kind with
    | .sum | .last => s2.rxSum c1 a hd ps
    | .vote | .result => (s2, rxVote c1 a hd (ps.headD ([], false)).1)
    | .sync => s2.rxSync c1 a ps
    | _ => s2.rxMove c1 a ps
  r.1.setColl r.2

/-! ## Chunks sent and local work -/

/-- A packet of partial sums to send: payload, poison, an infinity or NaN in it, flags raised. -/
structure TxPart where
  bytes : List Byte
  bad : Bool
  nf : Bool
  flags : Flags

/-- A partial narrowed to WIRE: its code and the flags raised; u is the random value of a stochastic narrowing. -/
def Coll.wireCode (c : Coll) (u : Option Nat) (r : FRes) : Nat × Flags :=
  if c.wire = 0 then (r.1.toNat, r.2 ||| flWritten r.1)
  else match u, decode32 r.1 with
    | some u, .fin g x y =>
      let v := fmtBF16.roundSr u g x y
      (v.1, r.2 ||| v.2 ||| flIf (codeNonfinite 2 v.1) flNonfinite)
    | _, _ => let v := narrowTo fmtBF16 r.1; (v.1, r.2 ||| v.2)

/-- One packet of an act's partial sums, from element i of the act. -/
def State.txPart (s : State) (c : Coll) (a : Act) (i m : Nat) : Except Stop TxPart :=
  match s.partials c (a.lo + i) m with
  | .error e => .error e
  | .ok r =>
    let sr := c.stochastic c.srAfter (c.counted (a.lo + i))
    let index := (chunkField c.tag (tabGet 0 c.txSeq (c.member a.peer).flow)).toNat % 65536
    let l := (r.1.zip (List.range m)).map fun (e : FRes × Nat) =>
      c.wireCode (if sr then some (s.reducerDraw c index (i + e.2)) else none) e.1
    .ok { bytes := l.flatMap fun (e : Nat × Flags) => bytesOfNat e.1 (wireBytes c.wire), bad := r.2
          nf := l.any fun (e : Nat × Flags) => codeNonfinite (c.wire + 1) e.1
          flags := if r.2 then 0 else l.foldl (fun f (e : Nat × Flags) => f ||| e.2) 0 }

/-- The partial sums of an act as packets. -/
def State.txPackets (s : State) (c : Coll) (a : Act) : Nat → Nat → Except Stop (List TxPart)
  | 0, _ => .ok []
  | fuel + 1, i =>
    if a.n ≤ i then .ok [] else
    let m := min (c.pkt / wireBytes c.wire) (a.n - i)
    match s.txPart c a i m, s.txPackets c a fuel (i + m) with
    | .error e, _ => .error e
    | .ok _, .error e => .error e
    | .ok p, .ok l => .ok (p :: l)

/-- A chunk handed to the transmitter of a member's flow; the act is done. Poison sent on is remembered (R477). -/
def State.sendAct (s : State) (c : Coll) (a : Act) (ps : List (List Byte × Bool)) (contrib : Nat) (nf record : Bool) : State :=
  let from_ := if a.kind = .move then some (a.va, a.head.length) else none
  match s.sendChunk { c with sentBad := c.sentBad || ps.any (·.2) } (c.member a.peer).flow ps (voteField contrib nf false record) from_ with
  | (s1, c1) => s1.setColl (c1.finish a)

/-- Partial sums sent. -/
def State.txSum (s : State) (c : Coll) (a : Act) : State :=
  match s.txPackets c a (a.n + 1) 0 with
  | .error e => s.collStop c e.1 e.2
  | .ok (ps : List TxPart) =>
    let s1 := if c.fresh a.lo a.n then s.chargeOwn c a.lo a.n else s
    let c1 := { c.forget a.lo a.n with flags := ps.foldl (fun f (p : TxPart) => f ||| p.flags) c.flags }
    let nf := ps.any (fun (p : TxPart) => p.nf) || c.folded a
    ({ s1 with freeCtr := s1.freeCtr + 1 }).sendAct c1 a (ps.map fun (p : TxPart) => (p.bytes, p.bad)) (c.counted a.lo) nf false

/-- The payload size of the flow to a member. -/
def State.pktTo (s : State) (c : Coll) (i : Nat) : Nat := psizeBytes (s.flow (c.member i).flow).psize

/-- Bytes of memory sent, the head before them. -/
def State.txMove (s : State) (c : Coll) (a : Act) : State :=
  match s.rawTagged c.slot (lineSpans a.va a.n) [] with
  | .error e => s.collStop c e.1 e.2
  | .ok bs =>
    let all := a.head.map (fun b => (b, false)) ++ bs
    let ps := (cutTagged (s.pktTo c a.peer) (all.length + 1) all).map fun l => (l.map (·.1), l.any (·.2))
    let contrib := if c.kind = .collective ∧ c.op = 2 then c.n else 1
    ((s.chargeRead (some c.cmd) c.slot (lineSpans a.va a.n)).countMoved c a.n true).sendAct c a ps contrib
      (anyNonfinite a.fmt (bs.map (·.1)) || c.folded a) false
where
  /-- A tagged byte list cut into packets. -/
  cutTagged (n : Nat) : Nat → List TByte → List (List TByte)
    | 0, l => [l]
    | fuel + 1, l => if l.length ≤ n then [l] else l.take n :: cutTagged n fuel (l.drop n)

/-- Bytes copied within the partition's memory, line by line with their poison. -/
def State.copyLines (s : State) (c : Coll) (a : Act) : List (Nat × Nat) → State × Bool
  | [] => (s, true)
  | (x, n) :: l =>
    match s.rawTagged c.slot (lineSpans (a.src + (x - a.va)) n) [] with
    | .error e => (s.endCmd c.cmd e.1 e.2, false)
    | .ok bs =>
      match (s.chargeRead (some c.cmd) c.slot (lineSpans (a.src + (x - a.va)) n)).putOut c x (bs.map (·.1)) (bs.any (·.2)) with
      | (s1, true) => s1.copyLines c a l
      | r => r

/-- A local copy: the own shard, the own block with its length, or a span that stays on this member. -/
def State.doCopy (s : State) (c : Coll) (a : Act) : State :=
  let len := if c.kind = .collective ∧ c.op = 3 then min a.n c.block else a.n
  let w := if c.kind = .collective ∧ c.op = 3 then s.cmdWrite c.cmd c.slot (c.rcounts + 4 * c.self) (bytesOfNat a.n 4) else (s, true)
  let c1 := if c.kind = .collective ∧ c.op = 3 ∧ c.block < a.n ∧ c.overflow.isNone then { c with overflow := some c.self } else c
  let bs := match s.rawTagged c.slot (lineSpans a.src len) [] with | .ok l => l | .error _ => []
  let nf := anyNonfinite a.fmt (bs.map (·.1))
  let c2 := { c1.finish a with flags := if nf then c1.flags ||| flNonfinite else c1.flags, spanOk := c1.spanOk && !bs.any (·.2) }
  if !w.2 then w.1 else ((w.1.copyLines c a (lineSpans a.va len)).1).setColl c2

/-- The output of a collective of one member, 256 elements at a time. -/
def State.formFrom (s : State) (c : Coll) (a : Act) : Nat → Nat → State × Coll
  | 0, _ => (s, c)
  | fuel + 1, i =>
    if a.n ≤ i then (s, c) else
    let m := min 256 (a.n - i)
    match s.ownPart c i m with
    | .error e => (s.endCmd c.cmd e.1 e.2, c)
    | .ok r =>
      let c1 := if r.2 then c else { c with flags := r.1.foldl (fun f v => f ||| v.2) c.flags }
      match (s.chargeOwn c i m).putFinals c1 i (r.1.map (·.1)) r.2 with
      | (s1, c2, true) => s1.formFrom c2 a fuel (i + m)
      | (s1, c2, false) => (s1, c2)

/-- An act that needs no chunk received. -/
def State.doAct (s : State) (c : Coll) (a : Act) : State :=
  match a.kind with
  | .sum | .last => s.txSum c a
  | .move | .block => s.txMove c a
  | .vote | .result => s.sendAct c a [(c.record, false)] (if a.kind = .result then c.n else c.counted 0) false true
  | .sync => s.sendAct c a ((cutBytes (s.pktTo c a.peer) 1288 ((s.setTables c.slot (s.tablesFor c.slot c.cmd)).syncRecord c)).map fun b => (b, false)) 1 false false
  | .copy => s.doCopy c a
  | .form => match s.formFrom c a (a.n + 1) 0 with | (s1, c1) => s1.setColl (c1.finish a)

/-! ## The end of an exchange -/

/-- The progress units of a molt: whole MiB of span data written into the new slices (R566). -/
def State.moltUnits (s : State) (c : Coll) : State :=
  if c.kind ≠ .moltMove then s else
  match s.cmd c.cmd with
  | none => s
  | some k =>
    let left := (c.acts.filter fun a => a.kind == .copy || (a.kind == .move && !a.tx)).foldl (fun n a => n + (a.n - a.dataDone)) 0
    s.setLongop k.slot (recHandle k.record) { s.longop k.slot (recHandle k.record) with doneUnits := (c.outBytes - left) / 1048576 }

/-- A COLLECTIVE or mirror whose acts are all done and sent ends; a vote or molt waits for its own row (R471, R477, R478). -/
def State.collEnd (s : State) (id : Nat) : State :=
  match s.coll id with
  | none => s
  | some c =>
    match s.cmd id with
    | none => s.dropColl id
    | some k =>
      match k.phase with
      | .ended _ _ => s.collStop c 0 0
      | _ =>
        let s1 := (s.moltUnits c).settlePeer id
        if !c.acts.isEmpty || s1.queued c then s1 else
        match c.kind with
        | .collective =>
          let s2 := s1.dropColl id
          if c.sentBad && k.poisoned.isNone then (match s2.fresh with | (w, s3) => s3.endCmd id 0x0201 w.toNat)
          else match c.overflow with
           | some m => if k.poisoned.isSome then s2.finishCmd id 0 else s2.endCmd id 0x0409 m
           | none => s2.finishCmd id c.flags.toNat
        | .mirrorTx | .mirrorRx => (s1.dropColl id).finishCmd id 0
        | _ => s1

/-- The acts that have still to write bytes from lo to hi of a collective's output. -/
def Coll.writers (c : Coll) (lo hi : Nat) : List Act :=
  c.acts.filter fun a => (a.kind == .last || a.kind == .form || (a.kind == .move && !a.tx)) &&
    (let n := if a.kind = .move then a.n else a.n * wireBytes c.output
     decide (a.va < hi) && decide (lo < a.va + n))
/-- The bytes from lo to hi of a collective's output are final. -/
def Coll.written (c : Coll) (lo hi : Nat) : Bool := (c.writers lo hi).isEmpty

/-- Bytes of the gradient of an UPDATE of rule 0. -/
def Upd.gradBytes (u : Upd) : Nat := u.count * (if u.gbf16 then 2 else 4)
/-- The UPDATEs bound to a collective: its write of a chunk of their range is an external event, and so is the last (R512). -/
def State.feedTouch (s : State) (old : Coll) : State :=
  (s.upds.filter fun u => u.fed == some old.cmd && !old.written u.grad (u.grad + u.gradBytes)).foldl (fun s u =>
    let left := fun (c : Coll) => c.writers u.grad (u.grad + u.gradBytes)
    match s.coll old.cmd with
    | some c =>
      if left c = left old then s
      else if (left c).isEmpty then (s.peerTouch u.cmd).peerDone u.cmd else s.peerTouch u.cmd
    | none => (s.peerTouch u.cmd).peerDone u.cmd) s

/-- The exchanges of a partition's engine in R482's order: none with work ranks before this one. -/
def State.firstInOrder (s : State) (k : Cmd) : Bool :=
  s.colls.all fun d => d.cmd == k.id || (s.work d).isNone ||
    (match s.cmd d.cmd with | some x => decide (k.orderDeadline ≤ x.orderDeadline) | none => true)

/-- CHUNK_SERVE: one piece of work of an exchange, in earliest-deadline order. -/
def State.serve (s : State) (c : Coll) : State :=
  match s.work c with
  | none => s.collEnd c.cmd
  | some (.failed f n st d r) => (s.consume c f n).collFail c st d r
  | some (.take f a l) => ((s.takeChunk c f a l).feedTouch c).collEnd c.cmd
  | some (.act a) => ((s.doAct c a).feedTouch c).collEnd c.cmd

/-- CHUNK_SERVE. -/
def execChunkServe (id : Nat) (s : State) : Host.Outcome State Fault Refusal :=
  match s.coll id, s.cmd id with
  | some c, some k => if s.nicLive && s.firstInOrder k && !s.engineWaits k.slot then .next (s.serve c) else .next s
  | _, _ => .next s

/-! ## COLLECTIVE (R462 to R466, R483) -/

/-- The fields of a collective descriptor. -/
def collOf (bs : List Byte) : Coll :=
  let t := field bs 2 1
  { op := field bs 0 1, input := bits t 0 2, wire := bits t 2 2, output := bits t 4 2, sr := bitAt t 6, tag := field bs 3 1
    n := field bs 4 4, self := field bs 8 4, block := field bs 0x10 8, src := field bs 0x18 8, dst := field bs 0x20 8
    step := BitVec.ofNat 64 (field bs 0x30 8), prescale := fieldW bs 0x3C, postscale := fieldW bs 0x40, rcounts := field bs 0x50 8 }

/-- A WAIT_LIMIT_US or PHASE_LIMIT_US field is out of range. -/
def limitBad (x : Nat) : Bool := x != 0 && (decide (x < 100) || decide (100000000 < x))

/-- Check 1 of R464: the byte offset of the first bad field. -/
def collBad (bs : List Byte) : Option Nat :=
  let c := collOf bs
  let alg := field bs 1 1
  let moves := c.op == 1 || c.op == 3
  let algOk := match c.op with
    | 0 | 1 => alg == 0 || alg == 2
    | 2 => decide (alg ≤ 2)
    | _ => alg == 3
  let n := c.n
  firstBad ([(0, decide (3 < c.op)), (1, !algOk),
    (2, decide (128 ≤ field bs 2 1) || decide (1 < c.wire) || decide (1 < c.output) || (c.input == 3 && !moves) ||
        (moves && (c.wire != 0 || c.output != 0))),
    (4, n == 0 || decide (65536 < n) || (alg == 2 && !isPower n)), (8, decide (n ≤ c.self)),
    (0x0C, field bs 0x0C 1 == 0 || decide (64 < field bs 0x0C 1)),
    (0x10, c.op != 3 && (c.block == 0 || decide (2 ^ 32 < c.block) || c.block * inputBytes c.input % 64 != 0)),
    (0x44, limitBad (field bs 0x44 4)), (0x48, c.op != 3 && field bs 0x48 8 != 0), (0x50, c.op != 3 && field bs 0x50 8 != 0)] ++
    ((rsvdBad bs 0x0D 3).toList ++ (rsvdBad bs 0x58 40).toList).map fun o => (o, true))

/-- Bytes of SRC and of DST. -/
def Coll.srcBytes (c : Coll) : Nat :=
  if c.op = 3 then c.n * c.block else if c.op = 1 then c.block * inputBytes c.input else c.n * c.block * inputBytes c.input
def Coll.dstBytes (c : Coll) : Nat :=
  match c.op with
  | 0 => c.block * wireBytes c.output
  | 1 => c.n * c.block * inputBytes c.input
  | 2 => c.n * c.block * wireBytes c.output
  | _ => c.n * c.block

/-- The payload size of the flows reached; 1,024 with none. -/
def State.groupPkt (s : State) (ms : Tab Member) (reach : List Nat) : Nat :=
  match reach with
  | [] => 1024
  | i :: _ => psizeBytes (s.flow (tabGet {} ms i).flow).psize

/-- A collective with its members, flows and chunk size. -/
def State.joined (s : State) (c : Coll) (id slot : Nat) (ms : Tab Member) (reach : List Nat) (pkts : Nat) : Coll :=
  let p := s.groupPkt ms reach
  { c with cmd := id, slot := slot, members := ms, flows := (reach.map fun i => (tabGet {} ms i).flow).eraseDups, pkt := p, chunk := pkts * p }

/-- The end of the wait for external events: WAIT_LIMIT_US, or COLL_WAIT_MAX_US, after the doorbell (R484). -/
def State.waitEnd (s : State) (c : Cmd) (limit : Nat) : Nat := c.doorbell + (if limit = 0 then s.entry 0x6040 2 else limit)

/-- Chunks for the command that came before it started are events of the past (R480). -/
def State.arrivedBy (s : State) (flows : List Nat) (tag : Nat) : Nat :=
  flows.foldl (fun m f => (s.flow f).rxHave.foldl (fun m e => match e.2 with
    | some k => if k.last && k.tag == tag then max m k.heldSince else m
    | none => m) m) 0

/-- A command of the engine has a running place now; its exchange has events to come when it has peers. -/
def State.takePlace (s : State) (id : Nat) (c : Coll) : State :=
  match s.cmd id with
  | none => s
  | some k =>
    let k1 : Cmd := { k with place := true, peer := !c.flows.isEmpty, peerAt := s.arrivedBy c.flows c.tag
                             whole := c.txBytes + c.rxBytes, deadline := if c.flows.isEmpty then k.deadline else none }
    ((s.setCmd (s.noteCmd k1)).addColl c).settlePeer id

/-- A command takes a running place of the engine: COLLECTIVE, VOTE, or an UPDATE of rule 2 or 3 (R483). -/
def State.wantsPlace (s : State) (c : Cmd) : Bool :=
  c.opcode == 0x50 || c.opcode == 0x51 ||
  (c.opcode == 0x52 && (match s.vread c.slot c.payload 1 with
    | .ok r => natOfBytes r.bytes == 2 || natOfBytes r.bytes == 3
    | .error _ => false))
/-- Running places taken, and whether a waiting command of the engine can have one (R482, R483). -/
def State.placeFor (s : State) (c : Cmd) : Bool :=
  let used := (s.cmds.filter (·.place)).length
  let first := (s.cmds.filter fun d => d.id != c.id && !d.place && s.wantsPlace d && s.eligible d &&
    decide (d.orderDeadline < c.orderDeadline)).length
  decide (used + first < 256)

/-- The send lengths of an ALL_TO_ALL. -/
def countsOf (bs : List Byte) (n : Nat) : List Nat := (List.range n).map fun i => field bs (4 * i) 4

/-- Checks 2 to 5 of R464 once the member table is read. -/
def State.collFault (s : State) (c : Cmd) (bs tbl : List Byte) : Option Stop :=
  let d := collOf bs
  let ms := membersOf tbl d.n
  match memberBad tbl d.n with
  | some i => some (0x0408, 65536 + i)
  | none =>
    match s.groupFault c.slot ms (reached (field bs 1 1) d.n d.self) (BitVec.ofNat 32 (field bs 0x38 4)) none with
    | some e => some e
    | none =>
      let a2a := d.op == 3
      match s.rangeFault c.slot d.src d.srcBytes false, s.rangeFault c.slot d.dst d.dstBytes true with
      | some e, _ => some e
      | none, some e => some e
      | none, none =>
        if !a2a then none else
        match s.rangeFault c.slot (field bs 0x48 8) (4 * d.n) false with
        | some e => some e
        | none => s.rangeFault c.slot d.rcounts (4 * d.n) true

/-- COLLECTIVE starts: read, checked, and its chunks planned. -/
def State.collStart (s : State) (c : Cmd) : State :=
  if c.payload % 64 ≠ 0 then s.endCmd c.id 0x0408 0 else
  match s.descRead c.id c.slot c.payload 128 with
  | (s1, none) => s1
  | (s0, some bs) =>
    let d := collOf bs
    let s1 := s0.aimAlias c.id c.slot d.dst
    match collBad bs with
    | some o => s1.endCmd c.id 0x0408 o
    | none =>
      if 1 < d.n ∧ (recExternal c.record).isEmpty then s1.endCmd c.id 0x0408 0x80 else
      match s1.descRead c.id c.slot (field bs 0x28 8) (8 * d.n) with
      | (s2, none) => s2
      | (s2, some tbl) =>
        match s2.collFault c bs tbl with
        | some e => s2.endCmd c.id e.1 e.2
        | none =>
          let ms := membersOf tbl d.n
          let alg := field bs 1 1
          let base := s2.joined { d with outBytes := d.dstBytes, waitUntil := s2.waitEnd c (field bs 0x44 4) } c.id c.slot ms
            (reached alg d.n d.self) (field bs 0x0C 1)
          let r := if d.op = 3 then s2.descRead c.id c.slot (field bs 0x48 8) (4 * d.n) else (s2, some [])
          match r with
          | (s3, none) => s3
          | (s3, some cs) =>
            let counts := countsOf cs d.n
            let h := if d.op ≠ 3 ∨ d.n ≠ 2 then 0 else if counts.getD (1 - d.self) 0 = 0 then 2 else 1
            s3.takePlace c.id { base with acts := base.plan alg counts, handoff := h, thresh := s3.entry 0x6040 3, srAfter := s3.entry 0x6040 1 }

/-- COLLECTIVE. -/
def execCollective (id : Nat) (s : State) : Host.Outcome State Fault Refusal :=
  match s.cmd id with
  | none => .next s
  | some c => if s.nicLive && s.placeFor c then .next (s.startOp id 0x50 fun c s => s.collStart c) else .next s

/-! ## COLL_TIMEOUT (R484) -/

/-- The wait limit of a command that has not started, read from its descriptor. -/
def State.limitOf (s : State) (c : Cmd) : Nat :=
  let off := if c.opcode = 0x50 then 0x44 else 0x1C
  if c.opcode = 0x52 then s.waitEnd c 0 else
  let x := match s.vread c.slot (c.payload + off) 4 with | .ok r => natOfBytes r.bytes | .error _ => 0
  s.waitEnd c (if limitBad x then 0 else x)

/-- COLL_TIMEOUT: of a running exchange whose events have not all occurred, or of a command of the engine that has events to come and has not started. -/
def execCollTimeout (id : Nat) (s : State) : Host.Outcome State Fault Refusal :=
  match s.coll id, s.cmd id with
  | some c, some k =>
    when s (k.peer && !s.quiet c && decide (c.waitUntil ≤ s.time) && c.kind != .moltResolve && c.kind != .moltMove && c.kind != .moltCommit)
      (s.collFail c 0x040A 0 noRank)
  | none, some k =>
    when s (s.wantsPlace k && k.phase == .waiting && k.deadline.isNone &&
      decide (s.limitOf k ≤ s.time)) (s.collAborted id k.slot 0x040A 0 noRank)
  | _, none => .next s

end Sys2Proof.Machine
end

