-- ==== Sys2Proof/Machine/Segment.lean ====
section
/-!
DEFINITION. Long-operation handles: segments, their ends, diapause and progress units (R206 to R214).
-/
namespace Sys2Proof.Machine

/-- The key of a handle in the lists kept by operation. -/
def handleKey (slot h : Nat) : Nat := slot * 64 + h
/-- The handle of a command. -/
def Cmd.handle (c : Cmd) : Nat := recHandle c.record
/-- One handle changed. -/
def State.onHandle (s : State) (slot h : Nat) (f : LongOp → LongOp) : State := s.setLongop slot h (f (s.longop slot h))
/-- The state codes of R207. -/
def LongState.number : LongState → Nat
  | .free => 0
  | .waiting => 1
  | .running => 2
  | .suspending => 3
  | .diapause => 4
  | .cancelling => 5

/-- A control command has ended with LONGOP_BAD_STATE or as not suspendable (R207, R209). -/
def Phase.turnedAway (p : Phase) : Bool := match p with | .ended st _ => st == 0x0605 || st == 0x0604 | _ => false

/-- A segment begins: the handle is RUNNING and the segment is counted. -/
def State.openSegment (s : State) (slot h id : Nat) : State :=
  s.onHandle slot h fun o => { o with state := .running, segment := some id, segments := o.segments + 1 }

/-- Some command, if there is one, ends. -/
def State.endSome (s : State) (id : Option Nat) (status detail : Nat) : State :=
  match id with
  | some i => s.endCmd i status detail
  | none => s

/-- The handle returns to FREE with a status: what waited on it is answered, and LONGOP_END is raised (R207, R213). LAST_STATUS is that of
the last segment, which an operation in DIAPAUSE has completed before (R214). -/
def State.freeHandle (s : State) (slot h status : Nat) : State :=
  let o := s.longop slot h
  let s1 := s.setLongop slot h { o with state := .free, lastStatus := if o.segment.isSome then status else o.lastStatus,
                                        segment := none, suspender := none, resumer := none, canceller := none, stopBy := 0,
                                        toRest := false }
  let s2 := (((s1.endSome o.suspender 0x0605 0).endSome o.resumer 0x0605 0).endSome o.canceller
    (if status = 0x0601 then 0 else 0x0605) 0)
  let s3 : State := { s2 with
    loads := s2.loads.filter fun e => e.1 != handleKey slot h
    loadDigests := s2.loadDigests.filter fun e => e.1 != handleKey slot h
    ckpts := s2.ckpts.filter fun e => e.1 != handleKey slot h }
  s3.event 0x0602 (h + 2 ^ 16 * status) (s3.slotFns slot)

/-- A running segment ends with a status, and its handle with it. -/
def State.endSegment (s : State) (slot h id status detail : Nat) : State := (s.endCmd id status detail).freeHandle slot h status

/-- The operation rests: its segment completes SUSPENDED, the SUSPEND OK (R207, R213). -/
def State.toDiapause (s : State) (slot h : Nat) : State :=
  let o := s.longop slot h
  let s1 := (s.endSome o.segment 0x0602 o.doneUnits).endSome o.suspender 0 0
  let s2 := s1.setLongop slot h { o with state := .diapause, lastStatus := 0x0602, segment := none, suspender := none, stopBy := 0,
                                         toRest := false }
  s2.event 0x0601 h (s2.slotFns slot)

/-- The command of a segment that is running. -/
def State.segmentCmd (s : State) (slot h : Nat) : Option Cmd :=
  match ((s.longop slot h).segment).bind s.cmd with
  | some c => if c.phase = .running then some c else none
  | none => none

/-- An operation of an opcode is under way on a handle of a partition. -/
def State.anyLong (s : State) (slot op : Nat) : Bool :=
  (s.part slot).longops.any fun e => e.2.opcode == op && e.2.state != .free

end Sys2Proof.Machine
end

