-- ==== Sys2Proof/Machine/Twins.lean ====
section
/-!
DEFINITION. The copies of CKPT_WRITE; twinned regions: the change of the live side, torn operations and rollback (R266, R493 to R500, R522, R550,
R579, R590, R593).
-/
namespace Sys2Proof.Machine

/-! ## CKPT_WRITE (R521, R522) -/

/-- COUNT of a CKPT_WRITE. -/
def ckptCount (r : Rec) : Nat := recField r 0x68 4 % 8192

/-- Range record i. -/
def ckptRange (bs : List Byte) (i : Nat) : CkptRange :=
  { src := field bs (32 * i) 8, dst := field bs (32 * i + 8) 8, length := field bs (32 * i + 16) 8, host := bitAt (field bs (32 * i + 24) 1) 0 }

/-- A range record that breaks R521. -/
def Part.ckptBad (p : Part) (bs : List Byte) (i : Nat) : Bool :=
  let r := ckptRange bs i
  (p.twinEn && (decide (r.src / 2 ^ 38 = p.aliasZone) ||
    (!r.host && (decide (r.dst / 2 ^ 38 = p.aliasZone) || decide (r.dst / 2 ^ 38 = p.twinZone))))) ||
  r.length % 1048576 != 0 || r.length == 0 || decide (2 ^ 40 < r.length) ||
  decide (1 < field bs (32 * i + 24) 1) || (rsvdBad bs (32 * i + 25) 7).isSome

/-- A line's worth of a range written to its destination: to host memory, or through the device's own write path. -/
def State.ckptPut (s : State) (c : Cmd) (r : CkptRange) (off : Nat) (bs : List TByte) : State × Bool :=
  if r.host then
    ((s.hostWriteTagged (c.fn / 16) ((r.dst + off) % 2 ^ 64) bs).charge (some c.id) 3 bs.length true, true)
  else s.cmdWrite c.id c.slot (r.dst + off) (bs.map (·.1)) (bs.any (·.2))

/-- Pieces of a range, each within one line of the destination, in ascending order; what was written is counted. -/
def State.ckptPieces (s : State) (c : Cmd) (r : CkptRange) : List (Nat × Nat) → State × Bool
  | [] => (s, true)
  | (a, n) :: l =>
    let off := a - r.dst
    match s.cmdTagged c.id c.slot (r.src + off) n with
    | (s1, none) => (s1, false)
    | (s1, some bs) =>
      match s1.ckptPut c r off bs with
      | (s2, false) => (s2, false)
      | (s2, true) => (s2.count 0x7057 (c.slot + 1) n).ckptPieces c r l

/-- The first n bytes of a unit copied. -/
def State.ckptUnit (s : State) (c : Cmd) (h u limit : Nat) : State × Bool :=
  let rs := tabGet [] s.ckpts (handleKey c.slot h)
  match unitAt (rs.map (·.length)) u with
  | none => (s, false)
  | some (k, off, full) =>
    match rs[k]? with
    | none => (s, false)
    | some r =>
      let n := min full limit
      let w := s.ckptPieces c r (lineSpans (r.dst + off) n)
      (w.1, w.2 && n == full)

/-- The ranges of a CKPT_WRITE: those set up at its start, or before it those its record names now. -/
def State.ckptRanges (s : State) (slot h : Nat) (o : LongOp) : List CkptRange :=
  if o.started then tabGet [] s.ckpts (handleKey slot h) else
  match s.vread slot (recPayload o.startRec) (32 * ckptCount o.startRec) with
  | .ok r => (List.range (ckptCount o.startRec)).map (ckptRange r.bytes)
  | .error _ => []

/-- An operation has bytes left to read in a twinned region. -/
def State.readsTwin (s : State) (slot h : Nat) (o : LongOp) : Bool :=
  let rs := s.ckptRanges slot h o
  let twin := fun (a : Nat) => (s.part slot).isTwin (a / frameBytes)
  (List.range (rs.foldl (fun n r => n + unitsOf r.length) 0 - o.doneUnits)).any fun i =>
    match unitAt (rs.map (·.length)) (o.doneUnits + i) with
    | none => false
    | some (k, off, n) =>
      match rs[k]? with
      | none => false
      | some r => twin (r.src + off) || twin (r.src + off + n - 1)

/-- Operations torn by a change of the live side: CKPT_WRITEs whatever state they are in, and SCRUBs that have started, unless the change
is a scrub's own (R522, R593). -/
def State.tear (s : State) (slot : Nat) (scrubs : Bool) (except : Option Nat) : State :=
  s.setPart slot { s.part slot with longops := (s.part slot).longops.map fun e =>
    let o := e.2
    let hit := o.state != .free && some e.1 != except &&
      ((o.opcode == 0x61 && s.readsTwin slot e.1 o) || (scrubs && o.started && o.opcode == 0x63))
    (e.1, if hit then { o with torn := true } else o) }

/-- The last unit of a running CKPT_WRITE read before the live side changes: the operation completes if that unit is done in this
device µs; otherwise it is torn and its destination undefined (R525). -/
def State.preread (s : State) (slot h : Nat) : State :=
  let o := s.longop slot h
  if o.opcode ≠ 0x61 ∨ !o.started ∨ o.doneUnits + 1 ≠ o.totalUnits ∨ !s.readsTwin slot h o then s else
  match s.segmentCmd slot h with
  | none => s
  | some c =>
    match s.ckptUnit c h o.doneUnits 1048576 with
    | (s1, true) => s1.onHandle slot h fun o => { o with preread := some s.time }
    | _ => s

/-- LIVE_SIDE written (R266, R550): alias writes of older commands are stale from now on (R500). -/
def State.writeLiveSide (s : State) (slot : Nat) (scrubs : Bool) (except : Option Nat) : State :=
  let s1 := (((s.part slot).longops.map (·.1)).foldl (fun s h => s.preread slot h) s).tear slot scrubs except
  s1.setPart slot { s1.part slot with liveSide1 := !(s1.part slot).liveSide1, epoch := (s1.part slot).epoch + 1 }

/-- The previous copy is live again, hardening is over and the new copy is gone (R590). -/
def State.rollback (s : State) (slot detail : Nat) (except : Option Nat) : State :=
  let s1 := (s.writeLiveSide slot true except).reseed slot
  let s2 := (s1.setPart slot { s1.part slot with hardening := false, scrubDue := false }).count 0x7084 (slot + 1) 1
  s2.event 0x0503 detail (s2.slotFns slot)

/-- Hardening has passed: the previous copy is released (R590). -/
def State.firm (s : State) (slot : Nat) : State :=
  let s1 := s.reseed slot
  let s2 := s1.setPart slot { s1.part slot with hardening := false }
  s2.event 0x0502 ((s2.part slot).liveImage.imageId.toNat % 2 ^ 32) (s2.slotFns slot)

/-- The step state of a partition is OPEN. -/
def Part.isOpen (p : Part) : Bool := p.stepState == .opened

end Sys2Proof.Machine
end

