-- ==== Sys2Proof/Machine/Commit.lean ====
section
/-!
DEFINITION. Step commit: vote records, VOTE and RESOLVE, eclosion and discard by a combined record (R487 to R489, R538 to R556).
-/
namespace Sys2Proof.Machine

/-! ## Descriptors and checks (R544, R545) -/

/-- Check 1: the byte offset of the first bad field. -/
def voteBad (bs : List Byte) : Option Nat :=
  let mode := field bs 0 1
  let alg := field bs 1 1
  let n := field bs 4 4
  firstBad ([(0, decide (1 < mode)), (1, alg != 1 && alg != 2), (3, decide (1 < field bs 3 1)),
    (4, n == 0 || decide (65536 < n) || (alg == 2 && !isPower n)), (8, decide (n ≤ field bs 8 4)),
    (0x18, mode == 0 && field bs 0x18 4 != field bs 0x0C 4), (0x1C, limitBad (field bs 0x1C 4)), (0x28, field bs 0x28 8 % 64 != 0)] ++
    (rsvdBad bs 0x48 56).toList.map fun o => (o, true))

/-- The commit point a descriptor names (R540). -/
def votePoint (bs : List Byte) : W64 × W32 := (BitVec.ofNat 64 (field bs 0x10 8), BitVec.ofNat 32 (field bs 0x18 4))
/-- A decided point is a point named. -/
def Point.is (p : Point) (pt : W64 × W32) : Bool := p.step == pt.1 && p.instar == pt.2
/-- A partition has decided a point (R554). -/
def Part.decided (p : Part) (pt : W64 × W32) : Bool := p.lastPoint.any fun q => q.is pt
/-- The partition's last decided point is none, or the step before. -/
def Part.stepNext (p : Part) (step : W64) : Bool := match p.lastPoint with | none => true | some q => q.step.toNat + 1 == step.toNat
/-- A partition is undecided on a point, OPEN or in doubt on it. -/
def Part.undecided (p : Part) (pt : W64 × W32) : Bool :=
  (p.stepState == .inDoubt && p.doubt.any (fun q => q.is pt)) || (p.stepState == .opened && p.stepNext pt.1)
/-- The chrysalis copy still holds the point's writes (R556). -/
def Part.holdsPoint (p : Part) (pt : W64 × W32) : Bool := p.doubtKept && p.doubt.any fun q => q.is pt

/-- Checks 3 to 7; a step vote of a partition that is hardening samples nothing (R589). -/
def State.voteFault (s : State) (slot : Nat) (bs tbl : List Byte) : Option Stop :=
  let p := s.part slot
  let n := field bs 4 4
  match memberBad tbl n with
  | some i => some (0x0408, 65536 + i)
  | none =>
    let brood := if p.broodSet then some p.brood else none
    match s.groupFault slot (membersOf tbl n) (reached (field bs 1 1) n (field bs 8 4)) (BitVec.ofNat 32 (field bs 0x0C 4)) brood with
    | some e => some e
    | none =>
      let step := field bs 0 1 == 0
      if step && p.stepState != .opened then some (0x0411, 0)
      else if step && p.hardening then some (0x0505, 1)
      else if (if step then !p.stepNext (votePoint bs).1 else !p.decided (votePoint bs) && !p.undecided (votePoint bs)) then some (0x0403, 0)
      else s.rangeFault slot (field bs 0x28 8) 64 true

/-! ## Records (R487, R546, R555) -/

/-- A record with its STEP and INSTAR fields filled for a point. -/
def pointRecord (andF orF ovf : Nat) (step : W64) (instar : W32) (userOr userMax : List Byte) : List Byte :=
  bytesOfNat andF 4 ++ bytesOfNat orF 4 ++ bytesOfNat ovf 4 ++ bytesOfNat 0 4 ++ bytesOfNat step.toNat 8 ++ bytesOfNat (~~~step).toNat 8 ++
  bytesOfNat instar.toNat 4 ++ bytesOfNat (~~~instar).toNat 4 ++ userOr ++ userMax

/-- Some element of the step was an infinity or a NaN: bit 5 of FLAGS of a core held, or of COLL_FLAGS. -/
def State.nonfiniteSeen (s : State) (slot : Nat) : Bool :=
  (s.heldCores slot).any (fun k => (s.core k).flags.getLsbD 5) || (s.part slot).collFlags.getLsbD 5

/-- The record of a member that votes a step. -/
def State.stepRecord (s : State) (slot : Nat) (bs : List Byte) : List Byte :=
  pointRecord ((if s.nonfiniteSeen slot then 0 else 1) + (if (s.part slot).updateFault then 0 else 2))
    (1 + 16 * (field bs 3 1 % 2)) (s.broodOvf slot) (votePoint bs).1 (votePoint bs).2 ((bs.drop 0x30).take 16) ((bs.drop 0x40).take 8)

/-- The sampled registers cleared: FLAGS of the cores held, COLL_FLAGS and UPDATE_FAULT (R392, R479, R516). -/
def State.clearSampled (s : State) (slot : Nat) : State :=
  let s1 := (s.heldCores slot).foldl (fun s k => s.setCore k { s.core k with flags := 0 }) s
  s1.setPart slot { s1.part slot with collFlags := 0, updateFault := false }

/-- The record of a member in a RESOLVE: what it decided, or that it has not. -/
def Part.resolveRecord (p : Part) (pt : W64 × W32) : List Byte :=
  match p.lastPoint with
  | some q =>
    if q.is pt then
      pointRecord (field q.record 0 4) (2 + (if q.committed then 4 else 8) + (if q.molt then 32 else 0)) (field q.record 8 4) pt.1 pt.2
        ((q.record.drop 0x28).take 16) ((q.record.drop 0x38).take 8)
    else undecidedRecord
  | none => undecidedRecord
where
  undecidedRecord : List Byte :=
    pointRecord 3 (2 + (if p.stepState = .inDoubt ∧ p.doubt.any (fun q => q.is pt && q.molt) then 32 else 0)) 0 pt.1 pt.2
      (List.replicate 16 0) (List.replicate 8 0)

/-- A combined resolve record contradicts itself (R556). -/
def resolveConflict (r : List Byte) : Bool :=
  let o := field r 4 4
  !recordAgrees r || !recordRsvd r || bitAt o 0 || (bitAt o 2 && bitAt o 3)

/-! ## Start (R545, R546, R554) -/

/-- The brood of a partition is set by the first vote or molt that passes its checks, and a reset alone clears it (R538). -/
def State.joinBrood (s : State) (slot : Nat) (b : W32) : State :=
  if (s.part slot).broodSet then s else s.setPart slot { s.part slot with broodSet := true, brood := b }
/-- The brood of a vote is that of its flows. -/
def State.setBrood (s : State) (slot : Nat) (flows : List Nat) : State :=
  match flows with
  | [] => s
  | f :: _ => s.joinBrood slot (s.flow f).brood

/-- A checked vote begins: a step vote samples the partition and enters VOTING in the same µs. -/
def State.voteBegin (s : State) (c : Cmd) (bs tbl : List Byte) : State :=
  let n := field bs 4 4
  let self := field bs 8 4
  let alg := field bs 1 1
  let pt := votePoint bs
  let step := field bs 0 1 == 0
  let rec_ := if step then s.stepRecord c.slot bs else (s.part c.slot).resolveRecord pt
  let base : Coll := { kind := if step then .stepVote else .resolve, tag := field bs 2 1, n := n, self := self, step := pt.1, instar := pt.2
                       dst := field bs 0x28 8, waitUntil := s.waitEnd c (field bs 0x1C 4), record := rec_, acts := voteActs alg n self }
  let d := s.joined base c.id c.slot (membersOf tbl n) (reached alg n self) 1
  let s1 := s.setBrood c.slot d.flows
  let s2 := if !step then s1 else
    let s2 := s1.clearSampled c.slot
    s2.setPart c.slot { s2.part c.slot with stepState := .voting, doubt := some { step := pt.1, instar := pt.2 }, doubtKept := true }
  s2.takePlace c.id d

/-- A VOTE starts: read, checked and begun. -/
def State.voteStart (s : State) (c : Cmd) : State :=
  if c.payload % 64 ≠ 0 then s.endCmd c.id 0x0408 0 else
  match s.descRead c.id c.slot c.payload 128 with
  | (s1, none) => s1
  | (s1, some bs) =>
    match voteBad bs with
    | some o => s1.endCmd c.id 0x0408 o
    | none =>
      if 1 < field bs 4 4 ∧ (recExternal c.record).isEmpty then s1.endCmd c.id 0x0408 0x80 else
      match s1.descRead c.id c.slot (field bs 0x20 8) (8 * field bs 4 4) with
      | (s2, none) => s2
      | (s2, some tbl) =>
        match s2.voteFault c.slot bs tbl with
        | some e => s2.endCmd c.id e.1 e.2
        | none => s2.voteBegin c bs tbl

/-- MODE of a waiting VOTE's descriptor. -/
def State.voteMode (s : State) (c : Cmd) : Option Nat :=
  match s.vread c.slot c.payload 1 with
  | .ok r => some (natOfBytes r.bytes)
  | .error _ => none

/-- VOTE in STEP mode; a descriptor whose MODE check 1 refuses fails here too. -/
def execVote (id : Nat) (s : State) : Host.Outcome State Fault Refusal :=
  match s.cmd id with
  | none => .next s
  | some c => if s.nicLive && s.placeFor c && s.voteMode c != some 1 then .next (s.startOp id 0x51 fun c s => s.voteStart c) else .next s

/-- RESOLVE: it waits while a VOTE of the partition is VOTING. -/
def execResolve (id : Nat) (s : State) : Host.Outcome State Fault Refusal :=
  match s.cmd id with
  | none => .next s
  | some c =>
    if s.nicLive && s.placeFor c && s.voteMode c == some 1 && (s.part c.slot).stepState != .voting then
      .next (s.startOp id 0x51 fun c s => s.voteStart c)
    else .next s

/-! ## The result (R548, R556, R563) -/

/-- Eclosion and reseed, or discard and reseed. -/
def State.eclose (s : State) (slot : Nat) (commit : Bool) : State :=
  if commit then (s.writeLiveSide slot true none).reseed slot else s.discard slot

/-- Trackers, tensor groups and SR_STEP brought past a step (R414, R420, R503). -/
def State.passStep (s : State) (slot : Nat) (step : W64) (r : List Byte) (commit : Bool) : State :=
  let s1 := (s.stepTrackers slot (field r 8 4) (bitAt (field r 0 4) 0)).stepGroups slot step.toNat commit
  s1.setPart slot { s1.part slot with srStep := step + 1 }

/-- On commit of a molt point every usable group's STEP, and SR_STEP, are STEP + 1 (R563). -/
def State.passMolt (s : State) (slot : Nat) (step : W64) : State :=
  let one := fun (s : State) (t : Nat) => match s.group slot t with
    | some g => s.setGroup slot t { g with step := (step.toNat + 1) % 2 ^ 64 }
    | none => s
  let s1 := if (s.part slot).tgroupBase = 0 then s else trackerNumbers.foldl one s
  s1.setPart slot { s1.part slot with srStep := step + 1 }

/-- A point decided: recorded, and the partition in a step state. -/
def State.recordPoint (s : State) (slot : Nat) (pt : Point) (st : StepState) : State :=
  s.setPart slot { s.part slot with lastPoint := some pt, stepState := st, doubt := none, doubtKept := true }

/-- An undecided member applies an outcome to a point; a committed molt point raises INSTAR_CHANGED. -/
def State.applyPoint (s : State) (slot : Nat) (step : W64) (instar : W32) (molt commit : Bool) (r : List Byte) (st : StepState) : State :=
  let s1 := s.eclose slot commit
  let s2 := if molt then (if commit then s1.passMolt slot step else s1) else s1.passStep slot step r commit
  let s3 := s2.recordPoint slot { step := step, instar := instar, committed := commit, molt := molt, record := r } st
  if molt && commit then s3.event 0x040A instar.toNat (s3.slotFns slot) else s3

/-- The same for a command, in the tables it started with (R415, R501). -/
def State.applyPointOf (s : State) (id slot : Nat) (step : W64) (instar : W32) (molt commit : Bool) (r : List Byte) (st : StepState) : State :=
  ((s.setTables slot (s.tablesFor slot id)).applyPoint slot step instar molt commit r st).setTables slot (s.tablesOf slot)

/-- A combined record written to its address. -/
def State.putRecord (s : State) (slot va : Nat) (r : List Byte) : State := (s.vwrite none slot va r).1

/-- A step vote's result: commit by eclosion when the record is clean, discard otherwise. -/
def State.stepResult (s : State) (c : Coll) : State :=
  let ok := recordClean c.record
  let s1 := ((s.dropColl c.cmd).applyPointOf c.cmd c.slot c.step c.instar false ok c.record .opened).putRecord c.slot c.dst c.record
  let s2 := s1.count (if ok then 0x7070 else 0x7071) (c.slot + 1) 1
  (s2.peerDone c.cmd).endCmd c.cmd (if ok then 0 else 0x0404) 0

/-- A RESOLVE's result (R556). -/
def State.resolveResult (s : State) (c : Coll) : State :=
  let p := s.part c.slot
  let pt := (c.step, c.instar)
  let r := c.record
  let commit := bitAt (field r 4 4) 2
  let molt := bitAt (field r 4 4) 5 || p.doubt.any fun q => q.is pt && q.molt
  let s0 := ((s.dropColl c.cmd).peerDone c.cmd).count 0x7073 (c.slot + 1) 1
  if resolveConflict r then s0.endCmd c.cmd 0x0413 0
  else if p.decided pt then s0.endCmd c.cmd 0x0412 (if p.lastPoint.any (·.committed) then 1 else 2)
  else if commit && !p.holdsPoint pt then s0.endCmd c.cmd 0x0413 0
  else
    let s1 := (s0.applyPointOf c.cmd c.slot c.step c.instar molt commit r .opened).putRecord c.slot c.dst r
    if molt then s1.endCmd c.cmd 0x0412 (if commit then 1 else 2) else s1.endCmd c.cmd (if commit then 0 else 0x0404) 0

/-- VOTE_RESULT: a member holds the combined record. -/
def execVoteResult (id : Nat) (s : State) : Host.Outcome State Fault Refusal :=
  match s.coll id with
  | none => .next s
  | some c =>
    if !s.nicLive || !c.acts.isEmpty then .next s else
    match c.kind with
    | .stepVote => .next (s.stepResult c)
    | .resolve => .next (s.resolveResult c)
    | _ => .next s

end Sys2Proof.Machine
end

