-- ==== Sys2Proof/Machine/Update.lean ====
section
/-!
DEFINITION. The update engine: the descent rule, row mode, fed updates, shard mirrors and STEP_RESYNC (R504 to R520).
-/
namespace Sys2Proof.Machine

/-! ## Descriptors (R505, R506, R512) -/

/-- The fields of an update descriptor of rule 0 or 1. -/
def updOf (bs : List Byte) : Upd :=
  let f := field bs 1 1
  { rowMode := field bs 0 1 == 1, feed := bitAt f 0, gbf16 := bitAt f 1, mbf16 := bitAt f 2, tag := field bs 2 1, tgroup := field bs 4 2
    step := BitVec.ofNat 64 (field bs 8 8), count := field bs 0x10 4, rowElems := field bs 0x14 4, rowLimit := field bs 0x18 4
    grad := field bs 0x20 8, w := field bs 0x28 8, r := field bs 0x30 8, freeze := field bs 0x38 8, index := field bs 0x40 8 }

/-- Check 1: the byte offset of the first bad field. -/
def updBad (bs : List Byte) : Option Nat :=
  let rule := field bs 0 1
  let f := field bs 1 1
  let mirror := rule == 2 || rule == 3
  let tagged := mirror || (rule == 0 && bitAt f 0)
  firstBad ([(0, decide (3 < rule)), (1, decide (8 ≤ f) || (rule != 0 && f != 0)), (2, !tagged && field bs 2 1 != 0),
    (4, if mirror then field bs 4 2 != 0 else field bs 4 2 == 0 || decide (4095 < field bs 4 2)),
    (6, !mirror && field bs 6 2 != 0), (0x10, mirror && field bs 0x10 4 % 64 != 0),
    (0x14, if rule = 1 then field bs 0x14 4 == 0 || decide (16384 < field bs 0x14 4) else field bs 0x14 4 != 0),
    (0x18, rule != 1 && field bs 0x18 4 != 0), (0x20, mirror && field bs 0x20 8 != 0),
    (0x30, (mirror || (rule == 0 && !bitAt f 2)) && field bs 0x30 8 != 0), (0x38, mirror && field bs 0x38 8 != 0),
    (0x40, rule != 1 && field bs 0x40 8 != 0)] ++
    ((rsvdBad bs 3 1).toList ++ (rsvdBad bs 0x1C 4).toList ++ (rsvdBad bs 0x48 8).toList).map fun o => (o, true))

/-- The update carries an external wait where R512 asks for one. -/
def updWaits (bs : List Byte) (r : Rec) : Bool :=
  !((field bs 0 1 == 0 && bitAt (field bs 1 1) 0) || field bs 0 1 == 2 || field bs 0 1 == 3) || !(recExternal r).isEmpty

/-- Bytes of a master, of W, R and FREEZE. -/
def Upd.masterBytes (u : Upd) : Nat := if u.mbf16 then 2 else 4
def Upd.wBytes (u : Upd) : Nat := if u.rowMode then 4 * u.rowElems * u.rowLimit else u.count * u.masterBytes
def Upd.rBytes (u : Upd) : Nat := if u.rowMode then 8 * u.rowLimit else if u.mbf16 then 2 * u.count else 0
def Upd.freezeBytes (u : Upd) : Nat := if u.freeze = 0 then 0 else ceilDiv (if u.rowMode then u.rowLimit else u.count) 8

/-- The alias address of a twin-zone address. -/
def Part.aliasVa (p : Part) (va : Nat) : Nat := p.aliasZone * 2 ^ 38 + va % 2 ^ 38

/-- The first address of a range that does not lie in a twinned region of a zone and map there. -/
def State.zoneFault (s : State) (slot va n zone : Nat) : Option Stop :=
  if n = 0 then none else
  (List.range ((va + n - 1) / frameBytes - va / frameBytes + 1)).findSome? fun i =>
    let a := max va ((va / frameBytes + i) * frameBytes)
    match s.translate slot a with
    | none => some (0x0308, a)
    | some w => if a / 2 ^ 38 = zone ∧ w.twinned then none else some (0x0308, a)

/-- Check 2: the group entry cannot be used. -/
def State.groupFailed (s : State) (slot t : Nat) : Option Stop :=
  match s.groupBytes slot t with
  | none => some (0x040C, 2 ^ 32)
  | some g => (s.groupBad slot g).map fun o => (0x040C, 2 ^ 32 + o)

/-- Checks 2 to 4 of rules 0 and 1. -/
def State.updFault (s : State) (slot : Nat) (u : Upd) : Option Stop :=
  let p := s.part slot
  match s.groupFailed slot u.tgroup with
  | some e => some e
  | none =>
    if !p.twinEn then some (0x0308, u.w) else
    match [s.zoneFault slot u.w u.wBytes p.twinZone, s.zoneFault slot u.r u.rBytes p.twinZone,
           s.rangeFault slot u.grad (if u.rowMode then 4 * u.rowElems * u.count else u.gradBytes) false,
           s.rangeFault slot u.freeze u.freezeBytes false, s.rangeFault slot u.index (if u.rowMode then 4 * u.count else 0) false].findSome? id with
    | some e => some e
    | none =>
      match s.group slot u.tgroup with
      | none => some (0x040C, 2 ^ 32)
      | some g => if u.step.toNat = g.step then none else some (0x0403, 0)

/-! ## Reading and writing -/

/-- Element e of a bitmap, or none set where there is none; a poisoned byte is noted. -/
def State.frozenAt (s : State) (u : Upd) (e : Nat) : Bool :=
  u.frozen || (u.freeze != 0 && (match s.vread u.slot (u.freeze + e / 8) 1 with
    | .ok r => bitAt (natOfBytes r.bytes) (e % 8)
    | .error _ => false))

/-- n bytes at an address as a number, with poison, metered; a stop ends the command. -/
def State.updRead (s : State) (u : Upd) (va n : Nat) : State × Option (Nat × Bool) :=
  match s.vread u.slot va n with
  | .error e => (s.endCmd u.cmd e.1 e.2, none)
  | .ok r => (s.chargeRead (some u.cmd) u.slot (lineSpans va n), some (natOfBytes r.bytes, r.poison.isSome))

/-- The alias ranges a command of rule 0 writes in full (R498): all of W and R, or the pages without a frozen element. -/
def State.updCover (s : State) (u : Upd) : List (Nat × Nat) :=
  if u.rowMode then [] else
  let p := s.part u.slot
  let pagesOf := fun (va size unit : Nat) =>
    (grid (u.count * size + va % unit) unit).filterMap fun g =>
      let lo := va / unit * unit + g.2.1
      if lo < va ∨ va + u.count * size < lo + unit then none else
      if (List.range (unit / size)).any (fun i => s.frozenAt u ((lo - va) / size + i)) then none else some (p.aliasVa lo, unit)
  if u.freeze = 0 then [(p.aliasVa u.w, u.wBytes), (p.aliasVa u.r, u.rBytes)]
  else pagesOf u.w u.masterBytes frameBytes ++ pagesOf u.w u.masterBytes (32 * frameBytes) ++
    (if u.mbf16 then pagesOf u.r 2 frameBytes ++ pagesOf u.r 2 (32 * frameBytes) else [])

/-! ## The descent rule (R423, R507 to R509) -/

/-- A gradient code with the tracker's SCALE divided out. -/
def Upd.gradVal (u : Upd) (x : Nat) : FVal :=
  match valueOf (if u.gbf16 then 2 else 1) x with
  | .fin n m e => .fin n m (e - u.scaleLog)
  | v => v

/-- What the descent rule gives for one element: w′ and r′, the two squares, and the flags. -/
structure Descent where
  w : Nat
  r : Nat
  dsq : W32
  wsq : W32
  flags : Flags

/-- R423 for one element. -/
def Upd.descend (u : Upd) (g w r : Nat) : Descent :=
  let wv := valueOf (if u.mbf16 then 2 else 1) w
  let rv := if u.mbf16 then fmtBF16.decode r else FVal.fin false 0 0
  let gv := u.gradVal g
  let sum := addVal none wv rv
  let x := written (fmaVal none (decode32 u.eta).negate gv (decode32 sum.1))
  let gf := flIf (match gv with | .fin _ _ _ => false | _ => true) flNonfinite
  let n := narrowBf16 x.1
  let rest := addVal none (decode32 x.1) (fmtBF16.decode n.1.toNat).negate
  let rn := narrowBf16 rest.1
  let d := fsub x.1 sum.1
  { w := if u.mbf16 then n.1.toNat else x.1.toNat, r := rn.1.toNat, dsq := (fmul d.1 d.1).1, wsq := (fmul sum.1 sum.1).1
    flags := sum.2 ||| x.2 ||| gf ||| (if u.mbf16 then n.2 ||| rest.2 ||| rn.2 else 0) }

/-- A running update replaced. -/
def State.setUpd (s : State) (u : Upd) : State := { s with upds := s.upds.map fun d => if d.cmd == u.cmd then u else d }

/-- One element updated through the alias. -/
def State.updOne (s : State) (u : Upd) (cover : List (Nat × Nat)) (e : Nat) : State × Upd × Bool :=
  if s.frozenAt u e then (s, u, true) else
  let p := s.part u.slot
  let gn := if u.gbf16 then 2 else 4
  match s.updRead u (u.grad + gn * e) gn with
  | (s1, none) => (s1, u, false)
  | (s1, some g) =>
    match s1.updRead u (u.w + u.masterBytes * e) u.masterBytes with
    | (s2, none) => (s2, u, false)
    | (s2, some w) =>
      match if u.mbf16 then s2.updRead u (u.r + 2 * e) 2 else (s2, some (0, false)) with
      | (s3, none) => (s3, u, false)
      | (s3, some r) =>
        let bad := g.2 || w.2 || r.2
        let d := u.descend g.1 w.1 r.1
        let wa := p.aliasVa (u.w + u.masterBytes * e)
        match s3.cmdWrite u.cmd u.slot wa (bytesOfNat d.w u.masterBytes) bad cover with
        | (s4, false) => (s4, u, false)
        | (s4, true) =>
          let s5 := if bad then s4.noteLowest u.cmd (u.w + u.masterBytes * e) else s4
          let k := if u.mbf16 then s5.cmdWrite u.cmd u.slot (p.aliasVa (u.r + 2 * e)) (bytesOfNat d.r 2) bad cover else (s5, true)
          (k.1, { u with elements := u.elements + 1, flags := if bad then u.flags else u.flags ||| d.flags
                         dsq := if bad then u.dsq else tabSet 0 u.dsq e d.dsq, wsq := if bad then u.wsq else tabSet 0 u.wsq e d.wsq }, k.2)

/-- Elements first to first + n − 1. -/
def State.updRange (s : State) (u : Upd) (cover : List (Nat × Nat)) (first : Nat) : Nat → State × Upd × Bool
  | 0 => (s, u, true)
  | n + 1 =>
    match s.updOne u cover first with
    | (s1, u1, true) => s1.updRange u1 cover (first + 1) n
    | r => r

/-! ## Row mode (R514, R515) -/

/-- The words of a row, each with poison, metered. -/
def State.rowRead (s : State) (u : Upd) (va : Nat) : State × Option (List (W32 × Bool)) :=
  match s.rawTagged u.slot (lineSpans va (4 * u.rowElems)) [] with
  | .error e => (s.endCmd u.cmd e.1 e.2, none)
  | .ok bs => (s.chargeRead (some u.cmd) u.slot (lineSpans va (4 * u.rowElems)), some (elems32 bs))

/-- Row mode for one gradient row: the new accumulator, and each new weight with its squares, poison and flags. -/
structure RowStep where
  acc : W32
  accBad : Bool
  ws : List (W32 × Bool × W32 × W32)
  flags : Flags

/-- The arithmetic of R514 on a row. -/
def Upd.rowStep (u : Upd) (g w : List (W32 × Bool)) (a : W32) (aBad : Bool) : RowStep :=
  let gv := g.map fun e => (u.gradVal e.1.toNat)
  let sq := gv.map fun v => written (mulVal v v)
  let sum := pairTree fadd 20 (sq.map (·.1))
  let q := fdiv sum.1 (i2f (BitVec.ofNat 32 u.rowElems)).1
  let a1 := fadd a q.1
  let root := fsqrt a1.1
  let d := fadd root.1 u.eps
  let bad := aBad || g.any (·.2)
  let ws := (gv.zip w).map fun e =>
    let t := written (divVal e.1 (decode32 d.1))
    let x := written (fmaVal none (decode32 u.eta).negate (decode32 t.1) (decode32 e.2.1))
    let df := fsub x.1 e.2.1
    ((x.1, bad || e.2.2, (fmul df.1 df.1).1, (fmul e.2.1 e.2.1).1), t.2 ||| x.2)
  { acc := a1.1, accBad := bad, ws := ws.map (·.1)
    flags := if bad then 0 else (sq.foldl (fun f e => f ||| e.2) 0) ||| sum.2 ||| q.2 ||| a1.2 ||| root.2 ||| d.2 |||
      (ws.foldl (fun f e => if e.1.2.1 then f else f ||| e.2) 0) }

/-- The new weights of a row written one after another. -/
def State.rowWrite (s : State) (u : Upd) (va : Nat) : List (W32 × Bool × W32 × W32) → State × Bool
  | [] => (s, true)
  | e :: l =>
    let r := s.cmdWrite u.cmd u.slot ((s.part u.slot).aliasVa va) (bytesOfNat e.1.toNat 4) e.2.1
    if r.2 then (if e.2.1 then r.1.noteLowest u.cmd va else r.1).rowWrite u (va + 4) l else r

/-- One gradient row: rows this command has written before are read through the alias, the others live. -/
def State.rowOne (s : State) (u : Upd) (k i : Nat) (again : Bool) : State × Upd × Bool :=
  let p := s.part u.slot
  let at_ := fun (va : Nat) => if again then p.aliasVa va else va
  let wVa := u.w + 4 * u.rowElems * i
  let rVa := u.r + 8 * i
  match s.rowRead u (u.grad + 4 * u.rowElems * k) with
  | (s1, none) => (s1, u, false)
  | (s1, some g) =>
    match s1.rowRead u (at_ wVa) with
    | (s2, none) => (s2, u, false)
    | (s2, some w) =>
      match s2.updRead u (at_ rVa) 8 with
      | (s3, none) => (s3, u, false)
      | (s3, some st) =>
        let r := u.rowStep g w (BitVec.ofNat 32 st.1) st.2
        let n := sat (2 ^ 32 - 1) (st.1 / 2 ^ 32 + 1)
        match s3.rowWrite u wVa r.ws with
        | (s4, false) => (s4, u, false)
        | (s4, true) =>
          let z := s4.cmdWrite u.cmd u.slot (p.aliasVa rVa) (bytesOfNat r.acc.toNat 4 ++ bytesOfNat n 4) r.accBad
          let good := (r.ws.zip (List.range r.ws.length)).filter fun e => !e.1.2.1
          let u1 : Upd := { u with
            elements := u.elements + u.rowElems, flags := u.flags ||| r.flags
            dsq := good.foldl (fun t e => tabSet 0 t (k * 16384 + e.2) e.1.2.2.1) u.dsq
            wsq := good.foldl (fun t e => tabSet 0 t (k * 16384 + e.2) e.1.2.2.2) u.wsq }
          (z.1.count 0x7053 (u.slot + 1) 1, u1, z.2)

/-- Gradient rows in list order; seen holds the rows already written. -/
def State.rowRange (s : State) (u : Upd) (seen : List Nat) (k : Nat) : Nat → State × Upd × Bool
  | 0 => (s, u, true)
  | n + 1 =>
    match s.updRead u (u.index + 4 * k) 4 with
    | (s1, none) => (s1, u, false)
    | (s1, some x) =>
      if u.rowLimit ≤ x.1 then s1.rowRange { u with firstRange := some (u.firstRange.getD k) } seen (k + 1) n
      else if s1.frozenAt u x.1 then s1.rowRange u seen (k + 1) n
      else match s1.rowOne u k x.1 (seen.contains x.1) with
        | (s2, u1, true) => s2.rowRange u1 (addNew seen x.1) (k + 1) n
        | r => r

/-! ## The end of an UPDATE (R508, R509, R515) -/

/-- Its work is done. -/
def State.updEnd (s : State) (u : Upd) : State :=
  let s1 := (s.setUpd u).dropUpd u.cmd
  match u.firstRange, (s1.cmd u.cmd) with
  | some k, some c => (s1.setCmd { c with late := some (0x030A, k) }).finishCmd u.cmd 0
  | _, _ => s1.finishCmd u.cmd 0

/-! ## UPDATE and ROW_MODE (R505 to R507, R514) -/

/-- The RULE of a waiting or running UPDATE, as its descriptor has it. -/
def State.updRule (s : State) (c : Cmd) : Option Nat :=
  match s.vread c.slot c.payload 1 with
  | .ok r => some (natOfBytes r.bytes)
  | .error _ => none

/-- A checked update enters the engine with what its group and tracker hold now. -/
def State.updEnter (s : State) (c : Cmd) (u : Upd) : State × Upd :=
  let g := s.group c.slot u.tgroup
  let scale := match g with
    | some g => if g.tracker = 0 then 0 else ((s.tracker c.slot g.tracker).map fun t => log2Of t.scale).getD 0
    | none => 0
  let v : Upd := { u with cmd := c.id, slot := c.slot, eta := (g.map (·.eta)).getD 0, eps := (g.map (·.eps)).getD 0
                          scaleLog := scale, frozen := (g.map Group.frozen).getD false }
  ({ s with upds := s.upds ++ [v] }, v)

/-- An update of rule 0 or 1 starts: checked, then run to its end unless it is fed. -/
def State.updStart (s : State) (c : Cmd) : State :=
  if c.payload % 16 ≠ 0 then s.endCmd c.id 0x040C 0 else
  match s.descRead c.id c.slot c.payload 80 with
  | (s1, none) => s1
  | (s1, some bs) =>
    match updBad bs with
    | some o => s1.endCmd c.id 0x040C o
    | none =>
      if !updWaits bs c.record then s1.endCmd c.id 0x040C 0x80 else
      match s1.updFault c.slot (updOf bs) with
      | some e => s1.endCmd c.id e.1 e.2
      | none =>
        match s1.updEnter c (updOf bs) with
        | (s2, u) =>
          if u.frozen || u.count == 0 then s2.updEnd u else
          if u.feed then s2 else
          match if u.rowMode then s2.rowRange u [] 0 u.count else s2.updRange u (s2.updCover u) 0 u.count with
          | (s3, u1, true) => s3.updEnd u1
          | (s3, u1, false) => (s3.setUpd u1).dropUpd c.id

/-! ## Fed updates (R510 to R512) -/

/-- A collective an update can bind to: running, until its record is written, or waiting with such a descriptor (R483). -/
def State.feedSource (s : State) (u : Upd) : Option Coll :=
  let fits := fun (c : Coll) => c.tag == u.tag && (c.op == 0 || c.op == 2)
  match s.colls.find? fun c => c.kind == .collective && c.slot == u.slot && fits c with
  | some c => some c
  | none => s.cmds.findSome? fun k =>
      if k.slot = u.slot ∧ k.opcode = 0x50 ∧ (k.phase = .waiting ∨ k.place) then
        match s.vread k.slot k.payload 128 with
        | .ok r => let c := collOf r.bytes; if fits c then some { c with cmd := k.id, outBytes := c.dstBytes } else none
        | .error _ => none
      else none

/-- The collective has written the bytes from lo to hi of its output. -/
def State.fedReady (s : State) (u : Upd) (lo hi : Nat) : Bool :=
  u.ready || (match u.fed with
    | none => false
    | some id =>
      match s.coll id, s.cmd id with
      | some c, _ => c.written lo hi
      | none, some k => k.phase == .ended 0 (match k.phase with | .ended _ d => d | _ => 0)
      | none, none => false)

/-- An update with FEED and no collective yet binds to one, or fails R510's checks. -/
def State.bind (s : State) (u : Upd) : State :=
  if u.fed.isSome ∨ !u.feed then s else
  match s.feedSource u with
  | none => s
  | some c =>
    if c.step ≠ u.step then (s.endCmd u.cmd 0x0403 0).dropUpd u.cmd
    else if u.grad < c.dst ∨ c.dst + c.outBytes < u.grad + u.gradBytes ∨ (c.output == 1) ≠ u.gbf16 then
      (s.endCmd u.cmd 0x040D u.tag).dropUpd u.cmd
    else
      let s1 := s.setUpd { u with fed := some c.cmd }
      if s1.fedReady { u with fed := some c.cmd } u.grad (u.grad + u.gradBytes) then s1.peerDone u.cmd else s1

/-- Elements treated so far. -/
def Upd.treated (u : Upd) : Nat := u.done.foldl (fun n e => n + e.2) 0

/-- A chunk of a fed update: once the collective has written it, and it has not been treated before. -/
def State.feedChunk (s : State) (u : Upd) (first n : Nat) : State :=
  let gn := if u.gbf16 then 2 else 4
  let fresh := u.done.all fun e => decide (e.1 + e.2 ≤ first) || decide (first + n ≤ e.1)
  if n = 0 ∨ u.count < first + n ∨ !fresh ∨ !s.fedReady u (u.grad + gn * first) (u.grad + gn * (first + n)) then s else
  match s.updRange u (s.updCover u) first n with
  | (s1, u1, true) =>
    let u2 : Upd := { u1 with done := u1.done ++ [(first, n)] }
    if u.count ≤ u2.treated then (s1.peerDone u.cmd).updEnd u2 else s1.setUpd u2
  | (s1, u1, false) => (s1.setUpd u1).dropUpd u.cmd

/-- FEED_CHUNK. -/
def execFeedChunk (id first count : Nat) (s : State) : Host.Outcome State Fault Refusal :=
  match s.upd id, s.runningOp id 0x52 with
  | some u, some _ =>
    if !s.nicLive || s.engineWaits u.slot then .next s else
    let s1 := s.bind u
    (match s1.upd id with
     | some v => if v.feed && v.fed.isSome then .next (s1.feedChunk v first count) else .next s1
     | none => .next s1)
  | _, _ => .next s

/-- UPDATE: rule 0, or a descriptor that check 1 refuses; a running one with FEED looks for its collective. -/
def execUpdate (id : Nat) (s : State) : Host.Outcome State Fault Refusal :=
  match s.cmd id with
  | none => .next s
  | some c =>
    if !s.nicLive then .next s else
    match s.upd id with
    | some u => .next (s.bind u)
    | none =>
      let rule := s.updRule c
      if rule = some 1 ∨ rule = some 2 ∨ rule = some 3 then .next s else
      let s1 := s.startOp id 0x52 fun c s => s.updStart c
      match s1.upd id with
      | some u => .next (s1.bind u)
      | none => .next s1

/-- ROW_MODE: rule 1. -/
def execRowMode (id : Nat) (s : State) : Host.Outcome State Fault Refusal :=
  match s.cmd id with
  | none => .next s
  | some c => if s.nicLive && s.updRule c == some 1 then .next (s.startOp id 0x52 fun c s => s.updStart c) else .next s

/-! ## Shard mirrors (R506, R518 to R520) -/

/-- The packets of a chunk where no descriptor states them (log 1). -/
def movePkts : Nat := max 1 (min 64 Config.moveChunkPkts)

/-- The instar a partition's flows are expected to have: that of its last decided point. None before its first one, and none after a
molt point that was discarded (R540, log 56). -/
def Part.instarNow (p : Part) : Option W32 := (p.lastPoint.filter fun q => !q.molt || q.committed).map (·.instar)

/-- Checks 3 and 5 of rules 2 and 3; the descriptor names no INSTAR, so the flow is held to the partition's (log 56). -/
def State.mirrorFault (s : State) (slot : Nat) (bs : List Byte) : Option Stop :=
  let p := s.part slot
  let w := field bs 0x28 8
  if !p.twinEn then some (0x0308, w) else
  match s.zoneFault slot w (field bs 0x10 4) p.aliasZone with
  | some e => some e
  | none =>
    if !s.flowUsable slot (field bs 6 2) then some (0x0408, 65536)
    else if p.instarNow.any fun i => (s.flow (field bs 6 2)).instar != i then some (0x0402, 0) else none

/-- The exchange of a mirror with its buddy, whose rank no descriptor names (log 1). -/
def State.mirrorColl (s : State) (c : Cmd) (bs : List Byte) (tx : Bool) : State × Coll :=
  let (r, s1) := s.fresh
  let f := field bs 6 2
  let p := psizeBytes (s.flow f).psize
  let n := field bs 0x10 4
  let w := field bs 0x28 8
  let head := bytesOfNat n 8
  (s1, { cmd := c.id, slot := c.slot, kind := if tx then .mirrorTx else .mirrorRx, tag := field bs 2 1, n := 2, self := 0, pkt := p
         chunk := movePkts * p, dst := w, outBytes := if tx then 0 else n, step := BitVec.ofNat 64 (field bs 8 8)
         waitUntil := s.waitEnd c 0, members := [(1, { rank := r.toNat % 65536, flow := f })], flows := [f]
         acts := if tx then sendActs (movePkts * p) (actKey 2 0 0 0) 1 w n 0 head else [recvAct (actKey 3 0 0 0) 1 w n 0 head] })

/-- A mirror starts. -/
def State.mirrorStart (s : State) (c : Cmd) (tx : Bool) : State :=
  if c.payload % 16 ≠ 0 then s.endCmd c.id 0x040C 0 else
  match s.descRead c.id c.slot c.payload 80 with
  | (s1, none) => s1
  | (s1, some bs) =>
    match updBad bs with
    | some o => s1.endCmd c.id 0x040C o
    | none =>
      if !updWaits bs c.record then s1.endCmd c.id 0x040C 0x80 else
      match s1.mirrorFault c.slot bs with
      | some e => s1.endCmd c.id e.1 e.2
      | none => match s1.mirrorColl c bs tx with | (s2, d) => s2.takePlace c.id d

/-- A mirror's row: the rule it serves. -/
def State.mirrorRow (s : State) (id rule : Nat) : State :=
  match s.cmd id with
  | none => s
  | some c => if s.nicLive && s.updRule c == some rule && s.placeFor c then s.startOp id 0x52 fun c s => s.mirrorStart c (rule == 2) else s

/-- MIRROR_TX: rule 2. -/
def execMirrorTx (id : Nat) (s : State) : Host.Outcome State Fault Refusal := .next (s.mirrorRow id 2)

/-- MIRROR_RX: rule 3. -/
def execMirrorRx (id : Nat) (s : State) : Host.Outcome State Fault Refusal := .next (s.mirrorRow id 3)

/-! ## STEP_RESYNC (R504) -/

/-- A range of groups out of its bounds, or with an unusable group in it. -/
def State.resyncBad (s : State) (slot : Nat) (r : Rec) : Bool :=
  let first := recField r 0x68 2
  let n := recField r 0x6A 2
  first == 0 || n == 0 || decide (4095 < first) || decide (4095 < n) || decide (4096 < first + n) ||
  (List.range n).any fun i => (s.group slot (first + i)).isNone

/-- STEP_RESYNC; the DETAIL of its refusal the spec does not state (log 1). -/
def execStepResync (id : Nat) (s : State) : Host.Outcome State Fault Refusal :=
  if !s.nicLive then .next s else
  .next (s.startOp id 0x53 fun c s =>
    if s.resyncBad c.slot c.record then
      let (d, s1) := s.fresh
      s1.endCmd id 0x040C d.toNat
    else (s.resyncGroups c.slot (recField c.record 0x68 2) (recField c.record 0x6A 2) (recField c.record 0x70 8)).finishCmd id 0)

end Sys2Proof.Machine
end

