-- ==== Sys2Proof/Machine/Molt.lean ====
section
/-!
DEFINITION. Molts: layouts, their checks, the boundary, the retag, the exchanges and the move (R557 to R568).
-/
namespace Sys2Proof.Machine

/-! ## Layouts (R557) -/

/-- The rank table of a layout. -/
def ranksOf (bs : List Byte) (n : Nat) : List RankEntry :=
  (List.range n).map fun i => { rank := field bs (8 * i) 4, flow := field bs (8 * i + 4) 2, departed := bitAt (field bs (8 * i + 6) 1) 0
                                joining := bitAt (field bs (8 * i + 6) 1) 1 }
/-- The slice table of a layout. -/
def slicesOf (bs : List Byte) (n : Nat) : List Slice :=
  (List.range n).map fun i => { goff := field bs (32 * i) 8, length := field bs (32 * i + 8) 4 * frameBytes, owner := field bs (32 * i + 12) 4
                                mirror := field bs (32 * i + 16) 4, loc := field bs (32 * i + 24) 8 }
/-- A layout from its header and tables. -/
def layoutOf (h ranks slices : List Byte) : Layout :=
  { brood := BitVec.ofNat 32 (field h 0 4), instar := BitVec.ofNat 32 (field h 4 4), self := field h 0x0C 4, total := field h 0x18 8
    ranks := ranksOf ranks (field h 8 4), slices := slicesOf slices (field h 0x10 4) }

/-- No rank, or no mirror. -/
def noIndex : Nat := 0xFFFFFFFF
/-- A header's own fields out of range. -/
def headerBad' (h : List Byte) : Option Nat :=
  firstBad ([(8, field h 8 4 == 0 || decide (65536 < field h 8 4)), (0x0C, field h 0x0C 4 != noIndex && decide (field h 8 4 ≤ field h 0x0C 4)),
    (0x10, field h 0x10 4 == 0 || decide (1048576 < field h 0x10 4)), (0x18, field h 0x18 8 % 65536 != 0)] ++
    ((rsvdBad h 0x14 4).toList ++ (rsvdBad h 0x30 16).toList).map fun o => (o, true))
/-- Some rank entry is out of range; the flag of the other layout may not be set. -/
def ranksBad (bs : List Byte) (n : Nat) (old : Bool) : Bool :=
  (List.range n).any fun i =>
    let f := field bs (8 * i + 6) 1
    decide (65536 ≤ field bs (8 * i) 4) || (f != 0 && f != (if old then 1 else 2)) || field bs (8 * i + 7) 1 != 0
/-- The slices do not tile 0 to TOTAL − 1. -/
def untiled (total : Nat) : Nat → List Slice → Bool
  | at_, [] => at_ != total
  | at_, x :: l => x.goff != at_ || x.length == 0 || untiled total (at_ + x.length) l
/-- Some slice entry is out of range, or its own copy lies outside the twinned regions. -/
def State.slicesBad (s : State) (slot : Nat) (l : Layout) (bs : List Byte) : Bool :=
  let n := l.ranks.length
  untiled l.total 0 l.slices ||
  (l.slices.any fun x => decide (n ≤ x.owner) || (x.mirror != noIndex && (decide (n ≤ x.mirror) || x.mirror == x.owner)) ||
    (if x.owner = l.self ∨ (x.mirror = l.self ∧ l.self ≠ noIndex) then (s.zoneFault slot x.loc x.length (s.part slot).twinZone).isSome || !(s.part slot).twinEn
     else x.loc != 0)) ||
  (List.range l.slices.length).any fun i => field bs (32 * i + 0x14) 4 != 0

/-- A layout read and checked: its value, or the byte offset of what is bad; a read that stops ends the command. -/
def State.readLayout (s : State) (c : Cmd) (va : Nat) (old : Bool) : State × Option (Except Nat Layout) :=
  match s.descRead c.id c.slot va 64 with
  | (s1, none) => (s1, none)
  | (s1, some h) =>
    match headerBad' h with
    | some o => (s1, some (.error o))
    | none =>
      match s1.descRead c.id c.slot (field h 0x20 8) (8 * field h 8 4) with
      | (s2, none) => (s2, none)
      | (s2, some rk) =>
        match s2.descRead c.id c.slot (field h 0x28 8) (32 * field h 0x10 4) with
        | (s3, none) => (s3, none)
        | (s3, some sl) =>
          let l := layoutOf h rk sl
          if ranksBad rk (field h 8 4) old then (s3, some (.error 0x20))
          else if s3.slicesBad c.slot l sl then (s3, some (.error 0x28))
          else (s3, some (.ok l))

/-! ## The descriptor (R558, R559) -/

/-- A number of members out of range. -/
def groupSizeBad (bs : List Byte) (off : Nat) : Bool :=
  field bs off 4 == 0 || decide (65536 < field bs off 4) || (field bs 1 1 == 2 && !isPower (field bs off 4))
/-- A field of a molt descriptor that is out of range whoever reads it. -/
def moltFixedBad (bs : List Byte) : Option Nat :=
  firstBad ([(0, decide (1 < field bs 0 1)), (1, field bs 1 1 != 1 && field bs 1 1 != 2), (0x10, field bs 0x10 8 % 64 != 0), (0x18, field bs 0x18 8 % 64 != 0),
    (0x28, groupSizeBad bs 0x28), (0x2C, decide (field bs 0x28 4 ≤ field bs 0x2C 4)), (0x40, limitBad (field bs 0x40 4))] ++
    ((rsvdBad bs 3 1).toList ++ (rsvdBad bs 0x44 4).toList ++ (rsvdBad bs 0x50 48).toList).map fun o => (o, true))
/-- A field of a molt descriptor out of range; a joining member has no RGROUP. -/
def moltBad (bs : List Byte) (joining : Bool) : Option Nat :=
  match moltFixedBad bs with
  | some o => some o
  | none => firstBad [(0x30, joining && field bs 0x30 8 != 0), (0x38, !joining && groupSizeBad bs 0x38),
      (0x3C, !joining && decide (field bs 0x38 4 ≤ field bs 0x3C 4))]

/-- How the two layouts fail together: the DETAIL of LAYOUT_INVALID. -/
def layoutsBad (bs : List Byte) (o n : Layout) : Option Nat :=
  if n.instar.toNat ≠ field bs 4 4 then some (2 * 2 ^ 32 + 4)
  else if n.brood ≠ o.brood then some (2 * 2 ^ 32)
  else if n.total ≠ o.total then some (2 * 2 ^ 32 + 0x18)
  else if (o.self = noIndex ∧ n.self = noIndex) ∨ (o.self ≠ noIndex ∧ ((o.ranks[o.self]?).any (·.departed))) then some (2 ^ 32 + 0x0C)
  else none

/-- Check 2: the first old slice whose owner has departed and that has no living mirror. -/
def Layout.orphan (l : Layout) : Option Nat :=
  l.slices.findIdx? fun x => ((l.ranks[x.owner]?).any (·.departed)) &&
    (x.mirror == noIndex || (l.ranks[x.mirror]?).any (·.departed))

/-- The flows a molt names, with their places in their tables. -/
def Molt.named (m : Molt) : List (Nat × Nat) :=
  let rk := fun (l : List RankEntry) => (l.zip (List.range l.length)).map fun e => (e.2, e.1.flow)
  let mb := fun (t : Tab Member) => t.map fun e => (e.1, e.2.flow)
  (rk m.old.ranks ++ rk m.new.ranks ++ mb m.vgroup ++ mb m.rgroup).filter fun e => e.2 != 0xFFFF

/-- Checks 4 to 6. -/
def State.moltFault (s : State) (m : Molt) : Option Stop :=
  let p := s.part m.slot
  let joining := m.old.self == noIndex
  match m.named.find? fun e => !s.flowUsable m.slot e.2 || (s.flow e.2).brood != m.old.brood || (p.broodSet && p.brood != m.old.brood) with
  | some e => some (0x0408, 65536 + e.1)
  | none =>
    match m.named.find? fun e => decide (m.newInstar.toNat ≤ (s.flow e.2).instar.toNat) with
    | some e => some (0x0402, e.1)
    | none =>
      if p.stepState == .inDoubt && p.doubt.any (·.molt) then some (0x0411, 0)
      else if !joining && !p.lastPoint.any (fun q => q.step == m.step || q.step.toNat + 1 == m.step.toNat) then some (0x0403, 0)
      else none

/-! ## The move (R562, R564) -/

/-- A span: its peer's rank (own for a local copy), global offset, length, and addresses. -/
structure Span where
  peer : Nat
  goff : Nat
  length : Nat
  src : Nat := 0
  dst : Nat := 0
deriving DecidableEq, Repr

/-- The overlap of two slices: global offset and length. -/
def overlap (a b : Slice) : Nat × Nat :=
  let lo := max a.goff b.goff
  (lo, min (a.goff + a.length) (b.goff + b.length) - lo)
/-- The rank of an index of a layout. -/
def Layout.rankOf (l : Layout) (i : Nat) : Option Nat := (l.ranks[i]?).map (·.rank)
/-- The rank a slice of the old layout comes from: its owner, or the mirror of a departed owner. -/
def Layout.sourceOf (l : Layout) (x : Slice) : Option Nat :=
  if (l.ranks[x.owner]?).any (·.departed) then l.rankOf x.mirror else l.rankOf x.owner
/-- The member's own rank. -/
def Molt.ownRank (m : Molt) : Option Nat := if m.new.self ≠ noIndex then m.new.rankOf m.new.self else m.old.rankOf m.old.self
/-- The overlaps of slices this member is to hold with the slices they come from. -/
def Molt.incoming (m : Molt) : List (Slice × Slice) :=
  if m.new.self = noIndex then [] else
  (m.new.slices.filter fun n => n.owner == m.new.self).flatMap fun n =>
    (m.old.slices.filter fun o => decide (0 < (overlap o n).2)).map fun o => (o, n)
/-- Spans received. -/
def Molt.receives (m : Molt) : List Span :=
  m.incoming.filterMap fun e =>
    let v := overlap e.1 e.2
    match m.old.sourceOf e.1 with
    | some r => if some r = m.ownRank then none else some { peer := r, goff := v.1, length := v.2, dst := e.2.loc + (v.1 - e.2.goff) }
    | none => none
/-- Spans copied locally: those that do not stay where they are. -/
def Molt.copies (m : Molt) : List Span :=
  m.incoming.filterMap fun e =>
    let v := overlap e.1 e.2
    let src := e.1.loc + (v.1 - e.1.goff)
    let dst := e.2.loc + (v.1 - e.2.goff)
    if m.old.sourceOf e.1 = m.ownRank ∧ src ≠ dst then some { peer := m.ownRank.getD 0, goff := v.1, length := v.2, src := src, dst := dst } else none
/-- Spans sent. -/
def Molt.sends (m : Molt) : List Span :=
  if m.old.self = noIndex then [] else
  (m.old.slices.filter fun o => m.old.sourceOf o == m.ownRank).flatMap fun o =>
    (m.new.slices.filter fun n => decide (0 < (overlap o n).2) && m.new.rankOf n.owner != m.ownRank).filterMap fun n =>
      let v := overlap o n
      (m.new.rankOf n.owner).map fun r => { peer := r, goff := v.1, length := v.2, src := o.loc + (v.1 - o.goff) }

/-- The members of the move: every rank of either layout with a flow, keyed by rank. -/
def Molt.peers (m : Molt) : Tab Member :=
  (m.old.ranks ++ m.new.ranks).foldl (fun t r => if r.flow = 0xFFFF then t else tabSet {} t r.rank { rank := r.rank, flow := r.flow }) []
/-- The ranks that receive sync records from this member: it is the new layout's first that does not join. -/
def Molt.syncTo (m : Molt) : List Nat :=
  match m.new.ranks.findIdx? fun r => !r.joining with
  | some i => if i = m.new.self then (m.new.ranks.filter (·.joining)).map (·.rank) else []
  | none => []
/-- The rank this member receives a sync record from: it joins. -/
def Molt.syncFrom (m : Molt) : Option Nat :=
  if (m.new.ranks[m.new.self]?).any (·.joining) then (m.new.ranks.find? fun r => !r.joining).map (·.rank) else none

/-- The head of a span's first payload. -/
def Span.head (x : Span) : List Byte := bytesOfNat x.goff 8 ++ bytesOfNat x.length 8

/-- The acts of the move: local copies, spans in ascending offset by flow, then the sync records. -/
def State.moveActs (s : State) (m : Molt) : List Act :=
  let p := s.part m.slot
  let chunkTo := fun (r : Nat) => movePkts * psizeBytes (s.flow (tabGet {} m.peers r).flow).psize
  let num := fun (l : List Span) => l.zip (List.range l.length)
  ((num m.copies).map fun e => ({ key := actKey 4 0 0 e.2, kind := .copy, src := e.1.src, va := p.aliasVa e.1.dst, n := e.1.length } : Act)) ++
  ((num m.sends).flatMap fun e => sendActs (chunkTo e.1.peer) (actKey 2 0 e.2 0) e.1.peer e.1.src e.1.length 0 e.1.head) ++
  ((num m.receives).map fun e => recvAct (actKey 3 0 e.2 0) e.1.peer (p.aliasVa e.1.dst) e.1.length 0 e.1.head) ++
  (m.syncTo.map fun r => ({ key := actKey 2 1 r 0, tx := true, peer := r, kind := .sync } : Act)) ++
  (m.syncFrom.toList.map fun r => ({ key := actKey 3 1 r 0, tx := false, peer := r, kind := .sync } : Act))

/-- Bytes sent, received and copied, and the slices of both layouts (R566). -/
def Molt.txBytes (m : Molt) : Nat := m.sends.foldl (fun n x => n + x.length) (1288 * m.syncTo.length)
def Molt.rxBytes (m : Molt) : Nat := m.receives.foldl (fun n x => n + x.length) 0
def Molt.copyBytes (m : Molt) : Nat := m.copies.foldl (fun n x => n + x.length) 0
def Molt.slices (m : Molt) : Nat := m.old.slices.length + m.new.slices.length

/-! ## Start and boundary (R559, R560, R565) -/

/-- The running molt of a command. -/
def State.molt (s : State) (id : Nat) : Option Molt := s.molts.find? fun m => m.cmd == id
def State.setMolt (s : State) (m : Molt) : State := { s with molts := s.molts.map fun d => if d.cmd == m.cmd then m else d }
def State.dropMolt (s : State) (id : Nat) : State := { s with molts := s.molts.filter fun d => d.cmd != id }
/-- The handle of a molt's command. -/
def State.moltHandle (s : State) (m : Molt) : Nat := match s.cmd m.cmd with | some c => c.handle | none => 0

/-- A segment that ends with a status before or after its phases. -/
def State.moltEnd (s : State) (m : Molt) (status detail : Nat) : State :=
  ((s.dropMolt m.cmd).peerDone m.cmd).endSegment m.slot (s.moltHandle m) m.cmd status detail

/-- A FORCED molt stops every VOTE, COLLECTIVE and UPDATE of its partition (R565). -/
def State.abandon (s : State) (slot : Nat) : State :=
  let s1 := (s.colls.filter fun c => c.slot == slot && (c.kind == .collective || c.kind == .stepVote || c.kind == .resolve ||
    c.kind == .mirrorTx || c.kind == .mirrorRx)).foldl (fun s c => s.collFail c 0x0414 0 noRank) s
  let s2 := (s1.upds.filter fun u => u.slot == slot).foldl (fun s u => (s.endCmd u.cmd 0x0414 0).dropUpd u.cmd) s1
  (s2.cmds.filter fun c => c.slot == slot && (c.opcode == 0x50 || c.opcode == 0x51 || c.opcode == 0x52)).foldl
    (fun s c => s.endCmd c.id 0x0414 0) s2

/-- A molt of a partition past its boundary, other than one of a command. -/
def State.moltAhead (s : State) (m : Molt) : Bool := s.molts.any fun d => d.slot == m.slot && d.cmd != m.cmd && d.phase != .boundary

/-- Every flow named retagged once, and taken from the exchanges of the old layout: no command of the old instar can use it, so
none is ever reduced into the new layout (R39, R561). -/
def State.retag (s : State) (m : Molt) : State :=
  let named := (m.named.map (·.2)).eraseDups
  let s0 : State := { s with colls := s.colls.map fun c => { c with flows := c.flows.filter fun f => !named.contains f } }
  named.foldl (fun s f =>
    let fl := s.flow f
    s.setFlow f { fl with
      instar := m.newInstar, txNext := 1, txQueue := [], txOut := [], peerCredit := fl.credit0, rxAck := 0, rxHave := [], rxFree := 1
      creditSent := fl.rxSlots, window := min (s.entry 0x6010 8) fl.rxSlots, rto := max (s.entry 0x6010 5) (min (s.entry 0x6010 6) 100)
      retries := 0, rtoFrom := s.time, lastRx := s.time, lastTx := s.time, sinceAck := 0, ceSinceAck := false, roundAcked := 0
      roundEce := 0, roundStart := s.time, stateSince := s.time }) s0

/-- An exchange of records of a molt over a group. -/
def State.recordExchange (s : State) (m : Molt) (kind : CollKind) (t : Tab Member) (n self : Nat) (instar : W32) (r : List Byte) : State :=
  let base : Coll := { kind := kind, tag := m.tag, n := n, self := self, step := m.step, instar := instar, record := r, acts := voteActs m.alg n self }
  s.addColl (s.joined base m.cmd m.slot t (reached m.alg n self) 1)

/-- The move begins. -/
def State.startMove (s : State) (m : Molt) : State :=
  let acts := s.moveActs m
  let c : Coll := { cmd := m.cmd, slot := m.slot, kind := .moltMove, tag := m.tag, step := m.step, dst := 2 ^ 64
                    outBytes := m.rxBytes + m.copyBytes, members := m.peers, self := m.ownRank.getD 65536
                    flows := ((acts.filter fun a => a.kind != .copy).map fun a => (tabGet {} m.peers a.peer).flow).eraseDups, acts := acts }
  (s.addColl c).setMolt { m with phase := .move, phaseFrom := s.time }

/-- The resolve phase is over for this member: every member reseeds, and the plan and the move follow. -/
def State.afterResolve (s : State) (m : Molt) : State :=
  let s1 := s.reseed m.slot
  let s2 := match s1.cmd m.cmd with
    | some c => s1.setCmd { c with startEpoch := (s1.part m.slot).epoch }
    | none => s1
  s2.startMove m

/-- The abort chunks of a forced molt's abandoned commands have yet to leave a flow that the retag would discard them from (R565). -/
def State.abortsWait (s : State) (m : Molt) : Bool := m.forced && m.named.any fun e => s.canSend e.2

/-- The resolve exchange runs as a RESOLVE: a member neither decided nor undecided on its point fails its check 6 (R554, R560). -/
def State.resolveSkew (s : State) (m : Molt) : Bool :=
  let p := s.part m.slot
  m.old.self != noIndex && !p.decided (m.step, m.old.instar) && !p.undecided (m.step, m.old.instar)

/-- The boundary: met when no VOTE is VOTING, no other molt is past its own and a forced molt's abort chunks have left; then MOLTING,
retag, resolve exchange. -/
def State.moltBoundary (s : State) (m : Molt) : State :=
  if (s.part m.slot).stepState = .voting ∨ s.moltAhead m ∨ s.abortsWait m then s else
  match s.moltFault m with
  | some e => s.moltEnd m e.1 e.2
  | none =>
    if s.resolveSkew m then s.moltEnd m 0x0403 0 else
    let s1 := s.setPart m.slot { s.part m.slot with stepState := .molting }
    let s2 := s1.retag m
    if m.old.self = noIndex then s2.afterResolve m
    else
      let pt := (m.step, m.old.instar)
      let r := (s.part m.slot).resolveRecord pt
      (s2.setMolt { m with phase := .resolve, phaseFrom := s.time }).recordExchange m .moltResolve m.rgroup m.rn m.rself m.old.instar r

/-! ## Resolve, commit (R556, R560, R563) -/

/-- The resolve record is obtained. -/
def State.moltResolved (s : State) (m : Molt) (c : Coll) : State :=
  let p := s.part m.slot
  let pt := (m.step, m.old.instar)
  let r := c.record
  let commit := bitAt (field r 4 4) 2
  let molt := bitAt (field r 4 4) 5
  let s0 := (s.dropColl c.cmd).count 0x7073 (m.slot + 1) 1
  let s1 := s0.putRecord m.slot m.result r
  if resolveConflict r then ((s0.moltUndone m.slot)).moltEnd m 0x0413 0
  else if p.decided pt then s1.afterResolve m
  else if commit && !p.holdsPoint pt then ((s0.moltUndone m.slot)).moltEnd m 0x0413 0
  else (s1.applyPointOf m.cmd m.slot m.step m.old.instar molt commit r .molting).afterResolve m

/-- The move is done: the partition is sampled and the commit exchange begins. -/
def State.moltMoved (s : State) (m : Molt) (c : Coll) : State :=
  let s1 := s.dropColl c.cmd
  let m1 : Molt := { m with phase := .commit, phaseFrom := s.time, spanOk := c.spanOk }
  let s2 := s1.setPart m.slot { s1.part m.slot with
    stepState := .voting, doubt := some { step := m.step, instar := m.newInstar, molt := true }, doubtKept := true }
  let r := pointRecord (1 + (if c.spanOk then 2 else 0)) 33 ((s.setTables m.slot (s.tablesFor m.slot m.cmd)).broodOvf m.slot) m.step m.newInstar (List.replicate 16 0) (List.replicate 8 0)
  (s2.setMolt m1).recordExchange m1 .moltCommit m.vgroup m.vn m.vself m.newInstar r

/-- The commit record is obtained. -/
def State.moltCommitted (s : State) (m : Molt) (c : Coll) : State :=
  let ok := recordClean c.record
  let s1 := (s.dropColl c.cmd).applyPointOf m.cmd m.slot m.step m.newInstar true ok c.record .opened
  let s2 := s1.putRecord m.slot (m.result + 64) c.record
  let h := s2.moltHandle m
  (s2.onHandle m.slot h fun o => { o with doneUnits := o.totalUnits }).moltEnd m (if ok then 0 else 0x0415) 0

/-- One phase on, when the exchange or move of the present one is done. -/
def State.moltGo (s : State) (m : Molt) : State :=
  match m.phase, s.coll m.cmd with
  | .boundary, _ => s.moltBoundary m
  | .resolve, some c => if c.acts.isEmpty then s.moltResolved m c else s
  | .move, some c => if c.acts.isEmpty && !s.queued c then s.moltMoved m c else s
  | .commit, some c => if c.acts.isEmpty then s.moltCommitted m c else s
  | _, none => s

/-- A checked molt enters its boundary phase. -/
def State.moltEnter (s : State) (c : Cmd) (bs : List Byte) (o n : Layout) (vt rt : List Byte) : State :=
  let m : Molt := { cmd := c.id, slot := c.slot, forced := bitAt (field bs 0 1) 0, alg := field bs 1 1, tag := field bs 2 1
                    newInstar := BitVec.ofNat 32 (field bs 4 4), step := BitVec.ofNat 64 (field bs 8 8), old := o, new := n
                    vgroup := membersOf vt (field bs 0x28 4), vn := field bs 0x28 4, vself := field bs 0x2C 4
                    rgroup := membersOf rt (field bs 0x38 4), rn := field bs 0x38 4, rself := field bs 0x3C 4
                    limit := if field bs 0x40 4 = 0 then s.entry 0x6040 4 else field bs 0x40 4, result := field bs 0x48 8, phaseFrom := s.time }
  match s.moltFault m with
  | some e => s.endSegment c.slot c.handle c.id e.1 e.2
  | none =>
    let s0 := s.joinBrood c.slot o.brood
    let s1 := match s0.cmd c.id with
      | some k => s0.setCmd { k with peer := true, deadline := none, whole := m.txBytes + m.rxBytes + m.copyBytes }
      | none => s0
    let s2 : State := { s1.onHandle c.slot c.handle fun h => { h with totalUnits := ceilDiv (m.rxBytes + m.copyBytes) 1048576 + 1, doneUnits := 0, started := true }
                        with molts := s1.molts ++ [m] }
    let s3 := if m.forced then (s2.abandon c.slot).count 0x7076 (c.slot + 1) 1 else s2
    s3.moltBoundary m

/-- Checks 1 to 3, then the rest. -/
def State.moltCheck (s : State) (c : Cmd) (bs : List Byte) (o n : Layout) : State :=
  let joining := o.self == noIndex
  let bad := fun (s : State) (d : Nat) => s.endSegment c.slot c.handle c.id 0x0410 d
  match moltBad bs joining, layoutsBad bs o n, o.orphan with
  | some x, _, _ => bad s x
  | none, some d, _ => bad s d
  | none, none, some i => bad s (2 ^ 34 + i)
  | none, none, none =>
    if (recExternal c.record).isEmpty then bad s 0x80 else
    match s.descRead c.id c.slot (field bs 0x20 8) (8 * field bs 0x28 4) with
    | (s1, none) => s1
    | (s1, some vt) =>
      match if joining then (s1, some []) else s1.descRead c.id c.slot (field bs 0x30 8) (8 * field bs 0x38 4) with
      | (s2, none) => s2
      | (s2, some rt) =>
        if (memberBad vt (field bs 0x28 4)).isSome then bad s2 0x20
        else if !joining && (memberBad rt (field bs 0x38 4)).isSome then bad s2 0x30
        else s2.moltEnter c bs o n vt rt

/-- A MOLT starts. -/
def State.moltStart (s : State) (c : Cmd) : State :=
  let s0 := s.openSegment c.slot c.handle c.id
  match s0.descRead c.id c.slot c.payload 128 with
  | (s1, none) => s1
  | (s1, some bs) =>
    match moltFixedBad bs with
    | some o => s1.endSegment c.slot c.handle c.id 0x0410 o
    | none =>
    match s1.readLayout c (field bs 0x10 8) true with
    | (s2, none) => s2
    | (s2, some (.error o)) => s2.endSegment c.slot c.handle c.id 0x0410 (2 ^ 32 + o)
    | (s2, some (.ok old)) =>
      match s2.readLayout c (field bs 0x18 8) false with
      | (s3, none) => s3
      | (s3, some (.error o)) => s3.endSegment c.slot c.handle c.id 0x0410 (2 * 2 ^ 32 + o)
      | (s3, some (.ok new)) => s3.moltCheck c bs old new

/-- MOLT: it starts, or goes on to its next phase. -/
def execMolt (id : Nat) (s : State) : Host.Outcome State Fault Refusal :=
  if !s.nicLive then .next s else
  match s.molt id with
  | some m => .next (s.moltGo m)
  | none => .next (s.startOp id 0x62 fun c s => s.moltStart c)

/-- MOLT_PHASE_TIMEOUT. -/
def execMoltPhaseTimeout (id : Nat) (s : State) : Host.Outcome State Fault Refusal :=
  match s.molt id, s.coll id with
  | some m, some c => when s (s.nicLive && m.phase != .boundary && decide (m.phaseFrom + m.limit ≤ s.time)) (s.collFail c 0x040A 0 noRank)
  | _, _ => .next s

/-- A CANCEL of a molt acts on the phase it finds (R568). -/
def State.moltCancel (s : State) (m : Molt) : State :=
  match s.coll m.cmd with
  | some c => s.collFail c 0x0601 (s.longop m.slot (s.moltHandle m)).doneUnits noRank
  | none => s.moltFail m 0x0601 (s.longop m.slot (s.moltHandle m)).doneUnits

end Sys2Proof.Machine
end

