-- ==== Sys2Proof/Machine/Weights.lean ====
section
/-!
DEFINITION. Weight images: WEIGHT_FLIP in its four actions, WEIGHT_LOAD and SCRUB, and background scrub passes (R573 to R599).
-/
namespace Sys2Proof.Machine

/-! ## Operands (R573) -/

/-- Bytes of a region of 512 MiB. -/
def regionBytes : Nat := 536870912

structure FlipArgs where
  action : Nat
  count : Nat
  va : Nat
deriving DecidableEq, Repr

def flipArgs (r : Rec) : FlipArgs := { action := recField r 0x68 1, count := recField r 0x6C 4, va := recField r 0x70 8 }

/-- The regions named, by number. -/
def FlipArgs.regions (a : FlipArgs) : List Nat := (List.range a.count).map fun i => a.va / regionBytes + i

/-- Check 1 of R575: the byte offset of the first operand out of range. -/
def flipBad (p : Part) (r : Rec) : Option Nat :=
  let a := flipArgs r
  let zoned := a.action == 3 || a.action == 4
  firstBad [(0x60, recPayload r != 0), (0x68, decide (a.action < 1) || decide (4 < a.action)), (0x69, recField r 0x69 3 != 0),
    (0x6C, if zoned then a.count == 0 || decide (512 < a.count) else a.count != 0),
    (0x70, if zoned then a.va % regionBytes != 0 || (p.twinEn &&
        (decide (a.va / 2 ^ 38 ≠ p.twinZone) || decide ((a.va + regionBytes * a.count - 1) / 2 ^ 38 ≠ p.twinZone))) else a.va != 0),
    (0x78, recField r 0x78 8 != 0)]

/-- A WEIGHT_FLIP of an action starts and is checked; the row of another action changes nothing. -/
def State.flipOp (s : State) (id : Nat) (mine : Nat → Bool) (f : Cmd → State → State) : State :=
  match s.cmd id with
  | none => s
  | some c =>
    if !mine (flipArgs c.record).action then s else
    s.startOp id 0x54 fun c s =>
      match flipBad (s.part c.slot) c.record with
      | some o => s.endCmd id 0x0504 o
      | none => f c s

/-- Why the partition's state refuses: the DETAIL of FLIP_STATE (R597). -/
def Part.flipState (p : Part) : Option Nat := if !p.isOpen then some 3 else if p.hardening then some 1 else none

/-! ## FLIP and REVERT (R587 to R590) -/

/-- The state of a shard of a record. -/
def ImageRec.shard (r : ImageRec) (i : Nat) : Shard := tabGet {} r.shards i
/-- The lowest shard of a record in one of some states. -/
def ImageRec.first (r : ImageRec) (bad : ShardState → Bool) : Option Nat := (List.range r.count).find? fun i => bad (r.shard i).st

/-- Check 4 of R587. -/
def ImageRec.notLive (r : ImageRec) : Option Stop :=
  if r.imageId = 0 then some (0x0501, 0xFFFFFFFF) else
  match r.first (· == .failed), r.first (· == .poisoned), r.first (fun t => t == .missing || t == .unsealed) with
  | some i, _, _ => some (0x0502, i)
  | none, some i, _ => some (0x0503, i)
  | none, none, some i => some (0x0501, i)
  | none, none, none =>
    if ((List.range r.count).foldl (fun n i => n + (r.shard i).length) 0) ≠ r.bytes then some (0x0501, 0xFFFFFFFF) else none

/-- The checks of a FLIP in order. -/
def State.flipStatus (s : State) (slot : Nat) : Option Stop :=
  let p := s.part slot
  if p.broodSet then some (0x0505, 2) else
  match p.flipState with
  | some d => some (0x0505, d)
  | none => if s.anyLong slot 0x60 then some (0x0305, 0) else p.chrysalisImage.notLive

/-- The flip: LIVE_SIDE written, then hardening, or a reseed at once when no image was live before. -/
def State.flip (s : State) (slot : Nat) : State :=
  let empty := (s.part slot).liveImage.imageId = 0
  let s1 := s.writeLiveSide slot true none
  let s2 := s1.setPart slot { s1.part slot with scrubDue := true, hardening := !empty }
  let s3 := if empty then s2.reseed slot else s2
  (s3.count 0x7083 (slot + 1) 1).event 0x0501 ((s3.part slot).liveImage.imageId.toNat % 2 ^ 32) (s3.slotFns slot)

/-- FLIP; a WEIGHT_FLIP whose ACTION is out of range starts and fails here. -/
def execFlip (id : Nat) (s : State) : Host.Outcome State Fault Refusal :=
  .next (s.flipOp id (fun a => a != 2 && a != 3 && a != 4) fun c s =>
    match s.flipStatus c.slot with
    | some e => s.endCmd id e.1 e.2
    | none => (s.flip c.slot).finishCmd id 0)

/-- REVERT. -/
def execRevert (id : Nat) (s : State) : Host.Outcome State Fault Refusal :=
  .next (s.flipOp id (· == 2) fun c s =>
    if (s.part c.slot).hardening then (s.rollback c.slot 0xFFFFFFFF none).finishCmd id 0 else s.endCmd id 0x0505 0)

/-! ## TWIN and UNTWIN (R575, R576) -/

/-- The first page of a region that is unmapped, or of another size than its first. -/
def Part.regionHole (p : Part) (region : Nat) : Option Nat :=
  let lo := region * regionPages
  let big := (p.liveLeaf lo).big
  ((List.range regionPages).find? fun i => !(p.liveLeaf (lo + i)).valid || (p.liveLeaf (lo + i)).big != big).map (lo + ·)

/-- Leaves of a region in a tier. -/
def Part.regionLeaves (p : Part) (region : Nat) (cxl : Bool) : Nat :=
  ((List.range regionPages).filter fun i => ((p.liveLeaf (region * regionPages + i)).tier == .cxl) == cxl).length

/-- Frames a TWIN needs in a tier. -/
def State.twinNeeds (s : State) (slot : Nat) (a : FlipArgs) (cxl : Bool) : Nat :=
  a.regions.foldl (fun n r => n + (s.part slot).regionLeaves r cxl) 0

/-- The checks of TWIN in order. -/
def State.twinStatus (s : State) (slot : Nat) (a : FlipArgs) : Option Stop :=
  let p := s.part slot
  let h := s.twinNeeds slot a false
  let x := s.twinNeeds slot a true
  if !p.twinEn then some (0x0308, a.va) else
  match a.regions.findSome? p.regionHole with
  | some pg => some (0x0308, pg * frameBytes)
  | none =>
    if a.regions.any fun r => (tabGet {} p.twins r).twinned then some (0x0306, 0)
    else if s.maxOf 3 slot < s.heldOf 3 slot + h ∨ (x ≠ 0 ∧ s.maxOf 4 slot < s.heldOf 4 slot + x) then some (0x0303, 0)
    else if (h ≠ 0 ∧ !s.grantOk 3 slot h) ∨ (x ≠ 0 ∧ !s.grantOk 4 slot x) then some (0x0302, 0) else none

/-- n further frames of a tier granted to a slot as spares of a region, blocks of m. -/
def State.grantSpares (s : State) (slot region : Nat) (cxl : Bool) (m n : Nat) : State :=
  let fs := (s.freeBlocks cxl m (n / m)).flatMap fun f => (List.range m).map (f + ·)
  let s1 := fs.foldl (fun s f => s.setFrame cxl f { owner := some slot, twinSpare := true }) s
  let p := s1.part slot
  s1.setPart slot { p with twins := tabSet {} p.twins region (fs.foldl (fun (t : Twin) f => t.giveBack cxl f) (tabGet {} p.twins region)) }

/-- One region twinned: the live side holds its former entries, the other their copies, every leaf shared. -/
def State.twinRegion (s : State) (slot region : Nat) : State :=
  let p := s.part slot
  let m := if (p.liveLeaf (region * regionPages)).big then 32 else 1
  let h := p.regionLeaves region false
  let x := p.regionLeaves region true
  let lo := region * regionPages
  let leaves := (tabSlice p.side0 lo regionPages).map fun e => (e.1, { e.2 with shared := true })
  let p1 : Part := { p with side0 := tabPaste {} (tabClear p.side0 lo regionPages) lo leaves
                            side1 := tabPaste {} (tabClear p.side1 lo regionPages) lo leaves
                            twins := tabSet {} p.twins region { twinned := true } }
  (((s.tlbDrop slot lo regionPages).setPart slot p1).grantSpares slot region false m h).grantSpares slot region true m x

/-- TWIN. -/
def execTwin (id : Nat) (s : State) : Host.Outcome State Fault Refusal :=
  .next (s.flipOp id (· == 3) fun c s =>
    match s.twinStatus c.slot (flipArgs c.record) with
    | some e => s.endCmd id e.1 e.2
    | none => ((flipArgs c.record).regions.foldl (fun s r => s.twinRegion c.slot r) s).finishCmd id 0)

/-- A chrysalis leaf of a region that is not shared. -/
def Part.regionOwn (p : Part) (region : Nat) : Bool := !(p.ownFrames region).isEmpty

/-- The checks of UNTWIN in order. -/
def State.untwinStatus (s : State) (slot : Nat) (a : FlipArgs) : Option Stop :=
  let p := s.part slot
  match a.regions.find? fun r => !(tabGet {} p.twins r).twinned with
  | some r => some (0x0308, r * regionBytes)
  | none =>
    match p.flipState with
    | some d => some (0x0505, d)
    | none => if a.regions.any p.regionOwn || s.anyLong slot 0x60 then some (0x0305, 0) else none

/-- An image record that overlaps a region is emptied. -/
def ImageRec.cut (r : ImageRec) (region : Nat) : ImageRec :=
  if r.base < (region + 1) * regionBytes ∧ region * regionBytes < r.base + r.bytes then {} else r

/-- One region untwinned: its live side becomes its only table, its spares are given up. -/
def State.untwinRegion (s : State) (slot region : Nat) : State :=
  let p := s.part slot
  let lo := region * regionPages
  let live := (tabSlice (if p.liveSide1 then p.side1 else p.side0) lo regionPages).map fun e => (e.1, { e.2 with shared := false })
  let spares := (tabGet {} p.twins region).spares
  let p1 : Part := { p with side0 := tabPaste {} (tabClear p.side0 lo regionPages) lo live
                            side1 := tabClear p.side1 lo regionPages, twins := tabDel p.twins region
                            image0 := p.image0.cut region, image1 := p.image1.cut region }
  spares.foldl (fun s e => s.releaseFrame e.1 e.2) ((s.tlbDrop slot lo regionPages).setPart slot p1)

/-- UNTWIN. -/
def execUntwin (id : Nat) (s : State) : Host.Outcome State Fault Refusal :=
  .next (s.flipOp id (· == 4) fun c s =>
    match s.untwinStatus c.slot (flipArgs c.record) with
    | some e => s.endCmd id e.1 e.2
    | none => ((flipArgs c.record).regions.foldl (fun s r => s.untwinRegion c.slot r) s).finishCmd id 0)

/-! ## WEIGHT_LOAD (R577, R582 to R586) -/

/-- Entries a load descriptor says are read. -/
def loadCount (bs : List Byte) : Nat := if field bs 0x24 4 ≤ 8192 then field bs 0x24 4 else 0

/-- Check 1 of R583: the byte offset from PAYLOAD of the first bad field. -/
def loadBad (bs : List Byte) : Option Nat :=
  let shards := field bs 0x20 4
  let bytes := field bs 0x18 8
  let idx := fun i => field bs (64 + 64 * i + 0x0C) 4
  firstBad ([(0, field bs 0 16 == 0), (0x10, field bs 0x10 8 % 65536 != 0),
    (0x18, bytes % 65536 != 0 || decide (bytes < 65536) || decide (2 ^ 43 < bytes)), (0x20, shards == 0 || decide (8192 < shards)),
    (0x24, field bs 0x24 4 == 0 || decide (8192 < field bs 0x24 4))] ++
    ((rsvdBad bs 0x28 24).map (·, true)).toList ++
    (List.range (loadCount bs)).flatMap fun i =>
      let o := 64 + 64 * i
      [(o + 8, decide (2 ≤ field bs (o + 8) 1)), (o + 0x0C, decide (shards ≤ idx i) || (List.range i).any fun j => idx j == idx i)] ++
      ((rsvdBad bs (o + 9) 3).map (·, true)).toList ++ ((rsvdBad bs (o + 0x30) 16).map (·, true)).toList)

/-- The headers of a load, entry by entry: host ones from the command's own bytes, device ones read. -/
def State.loadHeaders (s : State) (c : Cmd) (bs : List Byte) : List Nat → List Byte → List (List Byte) → State × Option (List (List Byte))
  | [], _, r => (s, some r)
  | i :: l, host, r =>
    let o := 64 + 64 * i
    if bitAt (field bs (o + 8) 1) 0 then (s.charge (some c.id) 3 256).loadHeaders c bs l (host.drop 256) (r ++ [host.take 256])
    else match s.descRead c.id c.slot (field bs o 8) 256 with
      | (s1, none) => (s1, none)
      | (s1, some h) => s1.loadHeaders c bs l host (r ++ [h])

/-- Two runs of an image overlap. -/
def runsOverlap (a n b m : Nat) : Bool := decide (a < b + m) && decide (b < a + n)

/-- The byte offset of the first bad field of a header against its entry, the record and the shards listed before it. -/
def headerBad (bs : List Byte) (i : Nat) (h : List Byte) (pageBytes : Nat) (rec_ : ImageRec) (earlier : List (Nat × Nat)) : Option Nat :=
  let e := 64 + 64 * i
  let off := field h 0x28 8
  let len := field h 0x30 8
  let shard := field bs (e + 0x0C) 4
  let clash := earlier.any (fun x => runsOverlap off len x.1 x.2) ||
    (decide (rec_.imageId.toNat = field bs 0 16) && rec_.shards.any fun x => x.1 != shard && x.2.st != .missing &&
      runsOverlap off len x.2.offset x.2.length)
  firstBad ([(0, decide (h.take 4 ≠ [0x42, 0x58, 0x57, 0x53])), (4, field h 4 2 != 1), (6, field h 6 2 != 0),
    (8, field h 8 16 != field bs 0 16), (0x18, field h 0x18 4 != shard), (0x1C, field h 0x1C 4 != field bs 0x20 4),
    (0x20, field h 0x20 8 != field bs 0x18 8), (0x28, off % pageBytes != 0 || decide (field bs 0x18 8 < off + len) || clash),
    (0x30, len % pageBytes != 0 || len % 65536 != 0 || decide (len < 65536) || decide (2 ^ 30 < len)),
    (0x60, decide ((h.drop 0x60).take 32 ≠ (bs.drop (e + 0x10)).take 32)), (0xE0, decide ((h.drop 0xE0).take 32 ≠ Sha.sha256 (h.take 0xE0)))] ++
    ((rsvdBad h 0x38 40).map (·, true)).toList ++ ((rsvdBad h 0x80 96).map (·, true)).toList)

/-- The bytes of the page size at an address of a partition. -/
def Part.pageBytes (p : Part) (va : Nat) : Nat := if (p.liveLeaf (va / frameBytes)).big then 32 * frameBytes else frameBytes

/-- The first bad header: its DETAIL. -/
def headersBad (p : Part) (bs : List Byte) : List (Nat × List Byte) → List (Nat × Nat) → Option Nat
  | [], _ => none
  | (i, h) :: l, earlier =>
    match headerBad bs i h (p.pageBytes (field bs 0x10 8 + field h 0x28 8)) p.chrysalisImage earlier with
    | some o => some (o + 2 ^ 16 * i + 2 ^ 32)
    | none => headersBad p bs l (earlier ++ [(field h 0x28 8, field h 0x30 8)])

/-- Checks 2 to 4 of R583. -/
def Part.loadStatus (p : Part) (bs : List Byte) : Option Stop :=
  let base := field bs 0x10 8
  let n := field bs 0x18 8
  let r := p.chrysalisImage
  let pages := (List.range (ceilDiv n frameBytes)).map (base / frameBytes + ·)
  match (if p.twinEn then pages.find? fun pg => !p.isTwin pg else some (base / frameBytes)) with
  | some pg => some (0x0308, pg * frameBytes)
  | none =>
    match p.flipState with
    | some d => some (0x0505, d)
    | none =>
      if r.imageId.toNat = field bs 0 16 ∧ ¬(r.base = base ∧ r.bytes = n ∧ r.count = field bs 0x20 4) then some (0x0504, 0xFFFFFFFF)
      else none

/-- The operation's entries, its units and its image record set up. -/
def State.loadBegin (s : State) (c : Cmd) (bs : List Byte) (hs : List (List Byte)) : State :=
  let es := hs.zipIdx.map fun x =>
    let o := 64 + 64 * x.2
    ({ src := (field bs o 8 + 256) % 2 ^ 64, host := bitAt (field bs (o + 8) 1) 0, shard := field bs (o + 0x0C) 4,
       root := BitVec.ofNat 256 (field bs (o + 0x10) 32), offset := field x.1 0x28 8, length := field x.1 0x30 8 } : LoadEntry)
  let p := s.part c.slot
  let img := p.chrysalisImage
  let img1 : ImageRec := if img.imageId.toNat = field bs 0 16 then img else
    { imageId := BitVec.ofNat 128 (field bs 0 16), base := field bs 0x10 8, bytes := field bs 0x18 8, count := field bs 0x20 4 }
  let s1 := s.setPart c.slot (p.setChrysalisImage img1)
  let s2 : State := { s1 with loads := tabSet [] s1.loads (handleKey c.slot c.handle) es }
  let total := es.foldl (fun n e => n + unitsOf e.length) 0
  let s3 := s2.onHandle c.slot c.handle fun o => { o with started := true, totalUnits := total }
  match s3.cmd c.id with
  | some d => s3.setCmd { d with whole := es.foldl (fun n e => n + e.length) 0 }
  | none => s3

/-- The load checked and set up, when its first segment begins. -/
def State.loadStart (s : State) (c : Cmd) (payload : Nat) (headers : List Byte) : State :=
  if payload % 64 ≠ 0 then s.endCmd c.id 0x0504 0 else
  match s.descRead c.id c.slot payload 64 with
  | (s1, none) => s1
  | (s1, some d) =>
    match s1.descRead c.id c.slot (payload + 64) (64 * loadCount d) with
    | (s2, none) => s2
    | (s2, some es) =>
      let bs := d ++ es
      match loadBad bs with
      | some o => s2.endCmd c.id 0x0504 o
      | none =>
        match (s2.part c.slot).loadStatus bs with
        | some e => s2.endCmd c.id e.1 e.2
        | none =>
          match s2.loadHeaders c bs (List.range (loadCount bs)) headers [] with
          | (s3, none) => s3
          | (s3, some hs) =>
            match headersBad (s3.part c.slot) bs (hs.zipIdx.map fun x => (x.2, x.1)) [] with
            | some d => s3.endCmd c.id 0x0504 d
            | none => s3.loadBegin c bs hs

/-- WEIGHT_LOAD: its first segment starts; headers carries the 256-byte headers that lie in host memory, in entry order. -/
def execWeightLoad (id : Nat) (headers : List Byte) (s : State) : Host.Outcome State Fault Refusal :=
  .next (s.startOp id 0x60 fun c s => (s.openSegment c.slot c.handle id).loadStart c c.payload headers)

/-- The shard of an image record on the chrysalis side changed. -/
def State.onShard (s : State) (slot i : Nat) (f : Shard → Shard) : State :=
  let p := s.part slot
  let r := p.chrysalisImage
  s.setPart slot (p.setChrysalisImage { r with shards := tabSet {} r.shards i (f (r.shard i)) })

/-- The alias address of a twin-zone address. -/
def Part.aliasOf (p : Part) (va : Nat) : Nat := p.aliasZone * 2 ^ 38 + va % 2 ^ 38

/-- Digests of the 64 KiB leaves of some bytes. -/
def leafDigests : Nat → List Byte → List (BitVec 256)
  | 0, _ => []
  | n + 1, bs => BitVec.ofNat 256 (natOfBytes (Sha.sha256 (bs.take 65536))) :: leafDigests n (bs.drop 65536)
/-- The root over leaf digests (R578). -/
def rootOf (ds : List (BitVec 256)) : BitVec 256 := BitVec.ofNat 256 (natOfBytes (Sha.sha256 (ds.flatMap fun d => bytesOfNat d.toNat 32)))

/-- The last leaf of a shard is hashed: it becomes VERIFIED or FAILED. -/
def State.landShard (s : State) (slot h : Nat) (e : LoadEntry) : State :=
  let key := handleKey slot h
  let ok := rootOf (tabGet [] s.loadDigests key) == e.root
  let s1 : State := { s with loadDigests := tabSet [] s.loadDigests key [] }
  let s2 := s1.onShard slot e.shard fun _ => { offset := e.offset, length := e.length, root := e.root, st := if ok then .verified else .failed }
  if ok then s2 else
    (s2.onHandle slot h fun o => { o with found := if o.found.isNone then some e.shard else o.found }).count 0x7082 (slot + 1) 1

/-- Where byte x of a shard of the image under construction is written. -/
def Part.shardVa (p : Part) (e : LoadEntry) (x : Nat) : Nat := p.aliasOf (p.chrysalisImage.base + e.offset + x)

/-- One unit of a load: read, written through the alias and hashed; limit cuts a unit left undone. -/
def State.loadUnit (s : State) (c : Cmd) (h u limit : Nat) (host : Mem) : State × Bool :=
  let key := handleKey c.slot h
  let es := tabGet [] s.loads key
  match unitAt (es.map (·.length)) u with
  | none => (s, false)
  | some (k, off, full) =>
    match es[k]? with
    | none => (s, false)
    | some e =>
      let n := min full limit
      let s0 := if off = 0 then s.onShard c.slot e.shard fun x => { x with st := .missing } else s
      let got := if e.host then (s0.charge (some c.id) 3 n, some (memRead host (e.src + off) n))
                 else s0.descRead c.id c.slot (e.src + off) n
      match got with
      | (s1, none) => (s1, false)
      | (s1, some bs) =>
        let va := (s1.part c.slot).shardVa e
        match s1.cmdWrite c.id c.slot (va off) bs false [(va 0, e.length)] with
        | (s2, false) => (s2, false)
        | (s2, true) =>
          if n < full then (s2, false) else
          let s3 : State := { s2 with loadDigests := tabSet [] s2.loadDigests key (tabGet [] s2.loadDigests key ++ leafDigests (n / 65536) bs) }
          let s4 := s3.count 0x7080 (c.slot + 1) n
          (if off + n = e.length then s4.landShard c.slot h e else s4, true)

/-- How a load that has done every unit ends. -/
def State.loadEnd (s : State) (slot h : Nat) : Stop :=
  match (s.longop slot h).found with
  | some i => (0x0502, i)
  | none => (0, 0)

/-! ## Scrub (R592 to R594) -/

/-- The VERIFIED shards of the live record, as entries of a pass. -/
def Part.scrubList (p : Part) : List LoadEntry :=
  let r := p.liveImage
  (r.shards.filter fun e => e.2.st == .verified).map fun e =>
    { src := r.base + e.2.offset, shard := e.1, root := e.2.root, offset := e.2.offset, length := e.2.length }

/-- POISON set in every live leaf of a shard's pages. -/
def Part.poisonShard (p : Part) (i : Nat) : Part :=
  let r := p.liveImage
  let x := r.shard i
  let lo := (r.base + x.offset) / frameBytes
  let fix := fun (t : Tab Leaf) => t.map fun e =>
    if lo ≤ e.1 ∧ e.1 < lo + x.length / frameBytes then (e.1, { e.2 with poison := true }) else e
  let p1 : Part := p.setLiveImage { r with shards := tabSet {} r.shards i { x with st := .poisoned } }
  if p1.liveSide1 then { p1 with side1 := fix p1.side1 } else { p1 with side0 := fix p1.side0 }

/-- A mismatch outside hardening. -/
def State.shardPoisoned (s : State) (slot i : Nat) : State :=
  (s.setPart slot ((s.part slot).poisonShard i)).event 0x0504 i (s.slotFns slot)

/-- The findings of a pass acted on: a rollback in hardening, POISONED shards outside it; a clean pass ends hardening. -/
def State.passActs (s : State) (slot : Nat) (bad : List Nat) (except : Option Nat) : State :=
  let s1 := s.count 0x7082 (slot + 1) bad.length
  if (s1.part slot).hardening then
    match bad with
    | [] => s1.firm slot
    | i :: _ => s1.rollback slot i except
  else bad.foldl (fun s i => s.shardPoisoned slot i) s1

/-- A shard read from the live side whole: it matches, and no line of it is poisoned. -/
def State.shardMatches (s : State) (slot : Nat) (e : LoadEntry) : Bool :=
  match s.vread slot e.src e.length with
  | .error _ => false
  | .ok r => r.poison.isNone && rootOf (leafDigests (e.length / 65536) r.bytes) == e.root

/-- A pass of a partition's live record. -/
def State.scrubPassOf (s : State) (slot : Nat) : State :=
  let es := (s.part slot).scrubList
  let bad := (es.filter fun e => !s.shardMatches slot e).map (·.shard)
  let s1 := s.count 0x7081 (slot + 1) (es.foldl (fun n e => n + e.length) 0)
  let s2 := s1.setPart slot { s1.part slot with scrubFrom := s.time, scrubDue := false }
  s2.passActs slot bad none

/-- No LOADER-class segment is eligible or running, and no SCRUB of the partition is under way. -/
def State.loaderFree (s : State) (slot : Nat) : Bool :=
  !(s.cmds.any fun c => c.unitClass s == .loader && (s.eligible c || c.phase == .running)) &&
  !(s.part slot).longops.any fun e => e.2.opcode == 0x63 && e.2.state == .running

/-- WEIGHT_SCRUB_PASS: a background pass of a slot's live record. -/
def execWeightScrubPass (i : Fin 16) (s : State) : Host.Outcome State Fault Refusal :=
  let p := s.part i.val
  when s (p.liveImage.imageId != 0 && (p.scrubDue || decide (p.scrubFrom + 1000000 * s.entry 0x5070 1 ≤ s.time)) &&
    s.loaderFree i.val && !s.partReset i.val) (s.scrubPassOf i.val)

/-- The pass of a SCRUB set up at its start. -/
def State.scrubStart (s : State) (c : Cmd) : State :=
  let es := (s.part c.slot).scrubList
  let s1 : State := { s with loads := tabSet [] s.loads (handleKey c.slot c.handle) es }
  let s2 := s1.onHandle c.slot c.handle fun o =>
    { o with started := true, totalUnits := es.foldl (fun n e => n + unitsOf e.length) 0 }
  let s3 := match s2.cmd c.id with
    | some d => s2.setCmd { d with whole := es.foldl (fun n e => n + e.length) 0 }
    | none => s2
  if es.isEmpty then
    let s4 := s3.passActs c.slot [] (some c.handle)
    s4.finishCmd c.id 0
  else s3

/-- SCRUB: its first segment starts. -/
def execScrub (id : Nat) (s : State) : Host.Outcome State Fault Refusal :=
  .next (s.startOp id 0x63 fun c s => (s.openSegment c.slot c.handle id).scrubStart c)

/-- One unit of a SCRUB: hashed; a poisoned line is a mismatch. A bad shard is marked in its entry by the host flag, which a scrub has no other use for. -/
def State.scrubUnit (s : State) (c : Cmd) (h u : Nat) : State × Bool :=
  let key := handleKey c.slot h
  let es := tabGet [] s.loads key
  match unitAt (es.map (·.length)) u with
  | none => (s, false)
  | some (k, off, n) =>
    match es[k]? with
    | none => (s, false)
    | some e =>
      match s.vread c.slot (e.src + off) n with
      | .error x => (s.endCmd c.id x.1 x.2, false)
      | .ok r =>
        let s1 := (s.chargeRead (some c.id) c.slot (lineSpans (e.src + off) n)).count 0x7081 (c.slot + 1) n
        let ds := if r.poison.isSome then [0] else leafDigests (n / 65536) r.bytes
        let all := tabGet [] s1.loadDigests key ++ ds
        if off + n = e.length then
          let bad := rootOf all != e.root
          let s2 : State := { s1 with
            loadDigests := tabSet [] s1.loadDigests key []
            loads := tabSet [] s1.loads key (if bad then es.set k { e with host := true } else es) }
          (if bad then s2.onHandle c.slot h fun o => { o with found := if o.found.isNone then some e.shard else o.found } else s2, true)
        else ({ s1 with loadDigests := tabSet [] s1.loadDigests key all }, true)

/-- A SCRUB's findings acted on after its last unit. -/
def State.scrubEnd (s : State) (slot h : Nat) : State × Stop :=
  let bad := ((tabGet [] s.loads (handleKey slot h)).filter (·.host)).map (·.shard)
  (s.passActs slot bad (some h), match bad with | i :: _ => (0x0502, i) | [] => (0, 0))

/-! ## Host reads that fail (R134, R135, R205) -/

/-- PAYLOAD of the start command of a segment. -/
def State.loadPayload (s : State) (c : Cmd) : Nat :=
  if c.opcode = 0x71 then recPayload (s.longop c.slot c.handle).startRec else c.payload
/-- Where the first header of a load that lies in host memory lies there. -/
def State.headerAddr (s : State) (c : Cmd) : Option Nat :=
  match s.vread c.slot (s.loadPayload c) 64 with
  | .error _ => none
  | .ok d => (List.range (loadCount d.bytes)).findSome? fun i =>
    match s.vread c.slot (s.loadPayload c + 64 + 64 * i) 16 with
    | .ok b => if bitAt (field b.bytes 8 1) 0 then some (field b.bytes 0 8) else none
    | .error _ => none
/-- The segment of a load that could start now and waits for a header in host memory. -/
def State.headerWait (s : State) (c : Cmd) : Bool :=
  let o := s.longop c.slot c.handle
  c.phase == .waiting && s.segmentOp c == 0x60 && !o.started && (c.opcode == 0x60 || o.state == .diapause) && s.canStart c &&
  (s.headerAddr c).isSome
/-- A command waits for a host read: of its data, or of a load's headers. -/
def State.hostWait (s : State) (c : Cmd) : Bool := s.readsHost c || s.headerWait c
/-- A host read that failed stops its command; a segment whose header it was has begun. -/
def State.hostFail (s : State) (c : Cmd) (addr : Nat) (tagHeld : Bool) : State :=
  if s.headerWait c then (((s.beginCmd c).openSegment c.slot c.handle c.id).sourceError c addr tagHeld) else s.sourceError c addr tagHeld

/-- HOST_READ_ERROR: a read ends in UR, CA or EP. -/
def execHostReadError (id : Nat) (addr : W64) (s : State) : Host.Outcome State Fault Refusal :=
  match s.cmd id with
  | none => .next s
  | some c => when s (s.hostWait c) (s.hostFail c addr.toNat false)

/-- HOST_READ_DEADLINE: a read is unanswered 4 µs before the deadline. -/
def execHostReadDeadline (id : Nat) (s : State) : Host.Outcome State Fault Refusal :=
  match s.cmd id with
  | none => .next s
  | some c => when s (s.hostWait c && s.nearDeadline c) (s.hostFail c (if s.headerWait c then (s.headerAddr c).getD 0 else s.hostAddr c) true)

/-- COMPLETION_TIMEOUT (R134, R135): of a ring read, of a source read, or of the reads already stopped, whose tags it returns. A read
of a function that times out is logged in its AER capability. -/
def execCompletionTimeout (r : HostReadOf) (s : State) : Host.Outcome State Fault Refusal :=
  match r with
  | .ring p f q =>
    let g := fnKey p.val f.val
    let qu := s.queue g q.val
    when s (qu.active && qu.enable && match qu.doorbells with | e :: _ => s.timedOut e.2 | [] => false)
      ((s.noteAer g 14).queueFault g q.val 3)
  | .source id addr =>
    match s.cmd id with
    | none => .next s
    | some c => when s (s.hostWait c && s.timedOut (if c.phase = .waiting then c.admitted else c.started))
        ((s.noteAer c.fn 14).hostFail c addr.toNat false)
  | .late p =>
    let e := s.port p.val
    .next (s.setPort p.val { e with lateTags := e.lateTags.filter fun t => !s.timedOut t.since })

end Sys2Proof.Machine
end

