-- ==== Sys2Proof/Machine/Longop.lean ====
section
/-!
DEFINITION. CKPT_WRITE and ZERO, the progress units of long operations, and SUSPEND, RESUME and CANCEL (R206 to R214,
R521, R522, R586, R593, R685).
-/
namespace Sys2Proof.Machine

/-! ## CKPT_WRITE (R521, R522) -/

/-- The ranges set up, or the segment turned away. A COUNT out of its range has no record to name: its DETAIL is free (log 1). -/
def State.ckptBegin (s : State) (c : Cmd) (r : Rec) : State :=
  let n := ckptCount r
  if n = 0 ∨ 4096 < n then
    let (d, s1) := s.fresh
    s1.endCmd c.id 0x040C d.toNat
  else
    match s.descRead c.id c.slot (recPayload r) (32 * n) with
    | (s1, none) => s1
    | (s1, some bs) =>
      match (List.range n).find? fun i => (s1.part c.slot).ckptBad bs i with
      | some i => s1.endCmd c.id 0x040C i
      | none =>
        let rs := (List.range n).map (ckptRange bs)
        let s2 : State := { s1 with ckpts := tabSet [] s1.ckpts (handleKey c.slot c.handle) rs }
        s2.onHandle c.slot c.handle fun o => { o with started := true, totalUnits := rs.foldl (fun m x => m + unitsOf x.length) 0 }

/-- A device range the spec calls undefined takes free values, page by page; unmapped pages have none (log 1). -/
def State.undefine (s : State) (slot : Nat) : List (Nat × Nat) → State
  | [] => s
  | (a, n) :: l =>
    (match s.translate slot a with
     | some w => s.fillFree w.cxl w.dpa n
     | none => s).undefine slot l

/-- Host bytes the spec calls undefined. -/
def State.undefineHost (s : State) (port addr n : Nat) : State :=
  { s.hostWrite port addr ((List.range n).map fun i => Config.freeByte s.freeCtr i) with freeCtr := s.freeCtr + 1 }

/-- The destination of a CKPT_WRITE that was cancelled or torn is undefined (R211, R522). -/
def State.ckptLost (s : State) (slot h : Nat) : State :=
  (tabGet [] s.ckpts (handleKey slot h)).foldl (fun s r =>
    if r.host then (match s.slotFn slot with | some f => s.undefineHost (f / 16) (r.dst % 2 ^ 64) r.length | none => s)
    else s.undefine slot (lineSpans r.dst r.length)) s

/-! ## ZERO (R206, R685) -/

/-- LENGTH of a ZERO. -/
def zeroLength (r : Rec) : Nat := recField r 0x68 8

/-- The bytes a segment moves in full, as R201 measures its work against. -/
def State.setWhole (s : State) (id n : Nat) : State :=
  match s.cmd id with
  | some c => s.setCmd { c with whole := n }
  | none => s

/-- A ZERO set up. -/
def State.zeroBegin (s : State) (c : Cmd) (r : Rec) : State :=
  (s.onHandle c.slot c.handle fun o => { o with started := true, totalUnits := unitsOf (zeroLength r) }).setWhole c.id (zeroLength r)

/-- The first bytes of a unit written with zeros. -/
def State.zeroUnit (s : State) (c : Cmd) (r : Rec) (u limit : Nat) : State × Bool :=
  match unitAt [zeroLength r] u with
  | none => (s, false)
  | some (_, off, full) =>
    let n := min full limit
    let w := s.cmdWrite c.id c.slot (recPayload r + off) (List.replicate n 0)
    (w.1, w.2 && n == full)

/-- ZERO: its first segment starts. -/
def execZero (id : Nat) (s : State) : Host.Outcome State Fault Refusal :=
  .next (s.startOp id 0x64 fun c s => (s.openSegment c.slot c.handle id).zeroBegin c c.record)

/-! ## Progress units (R206) -/

/-- The lengths a handle's operation is cut into units of. -/
def State.unitLens (s : State) (slot h : Nat) : List Nat :=
  let o := s.longop slot h
  if o.opcode = 0x61 then (tabGet [] s.ckpts (handleKey slot h)).map (·.length)
  else if o.opcode = 0x64 then [zeroLength o.startRec]
  else (tabGet [] s.loads (handleKey slot h)).map (·.length)

/-- The bytes of the present unit of a handle's operation. -/
def State.unitBytes (s : State) (slot h : Nat) : Nat :=
  match unitAt (s.unitLens slot h) (s.longop slot h).doneUnits with
  | some e => e.2.2
  | none => 0

/-- The bytes of the units an operation has still to do. -/
def State.restBytes (s : State) (slot h : Nat) : Nat :=
  let o := s.longop slot h
  (List.range (o.totalUnits - o.doneUnits)).foldl (fun n i =>
    match unitAt (s.unitLens slot h) (o.doneUnits + i) with
    | some e => n + e.2.2
    | none => n) 0

/-- The present unit, or its first bytes where it is left undone; false unless it was done whole. -/
def State.unitStep (s : State) (c : Cmd) (h limit : Nat) (host : Mem) : State × Bool :=
  let o := s.longop c.slot h
  if o.opcode = 0x60 then s.loadUnit c h o.doneUnits limit host
  else if o.opcode = 0x61 then s.ckptUnit c h o.doneUnits limit
  else if o.opcode = 0x63 then (if limit < s.unitBytes c.slot h then (s, false) else s.scrubUnit c h o.doneUnits)
  else if o.opcode = 0x64 then s.zeroUnit c o.startRec o.doneUnits limit
  else (s, false)

/-- A unit left undone: a free number of its lines may have reached their destination (R208, R211). -/
def State.unitUndone (s : State) (slot h : Nat) (host : Mem) : State :=
  match s.segmentCmd slot h with
  | none => s
  | some c =>
    let (x, s1) := s.fresh
    (s1.unitStep c h (x.toNat % max 1 (ceilDiv (s1.unitBytes slot h) 256) * 256) host).1

/-- A poisoned address that lies in a POISONED shard of the live record gives the shard's status (R595). -/
def Part.shardStop (p : Part) (st d : Nat) : Stop :=
  let r := p.liveImage
  if st ≠ 0x0201 ∨ r.imageId = 0 then (st, d) else
  match r.shards.find? fun e => e.2.st == .poisoned && decide (r.base + e.2.offset ≤ d) && decide (d < r.base + e.2.offset + e.2.length) with
  | some e => (0x0503, e.1)
  | none => (st, d)

/-- The status and DETAIL a command whose work has ended completes with: a poisoned read it met replaces OK (R257, R307). -/
def State.finalStop (s : State) (c : Cmd) (st d : Nat) : Stop :=
  match st, c.poisoned with
  | 0, some a => (s.part c.slot).shardStop 0x0201 a
  | _, _ => (s.part c.slot).shardStop st d

/-- The status with which a command's work has ended. -/
def State.endedWith (s : State) (id : Nat) : Nat :=
  match s.cmd id with
  | some c => (match c.phase with | .ended st d => (s.finalStop c st d).1 | _ => 0)
  | none => 0

/-- The segment of a torn operation ends (R522, R593). -/
def State.tornEnd (s : State) (slot h id : Nat) : State :=
  let o := s.longop slot h
  if o.opcode = 0x61 then (s.ckptLost slot h).endSegment slot h id 0x0606 o.doneUnits
  else s.endSegment slot h id 0x0506 o.doneUnits

/-- CKPT_WRITE: its first segment starts; one torn while it waited ends torn. -/
def execCkptWrite (id : Nat) (s : State) : Host.Outcome State Fault Refusal :=
  .next (s.startOp id 0x61 fun c s =>
    let s1 := s.openSegment c.slot c.handle id
    if (s1.longop c.slot c.handle).torn then s1.tornEnd c.slot c.handle id else s1.ckptBegin c c.record)

/-- The last unit is done: the segment completes and the handle is FREE. -/
def State.lastUnit (s : State) (slot h id : Nat) : State :=
  let o := s.longop slot h
  let r : State × Stop := if o.opcode = 0x60 then (s, s.loadEnd slot h) else if o.opcode = 0x63 then s.scrubEnd slot h else (s, (0, 0))
  let s1 := if r.2.1 = 0 then r.1.finishCmd id 0 else r.1.endCmd id r.2.1 r.2.2
  s1.freeHandle slot h (s1.endedWith id)

/-! ## RESUME (R207, R209, R210) -/

/-- A new segment begins on an operation in DIAPAUSE; one that never started is checked as at its start. -/
def State.resumeNow (s : State) (slot h id : Nat) (headers : List Byte) : State :=
  let s1 := s.openSegment slot h id
  let o := s1.longop slot h
  match s1.cmd id with
  | none => s1
  | some c =>
    if o.torn then s1.tornEnd slot h id
    else if o.started then s1.setWhole id (s1.restBytes slot h)
    else if o.opcode = 0x60 then s1.loadStart c (recPayload o.startRec) headers
    else if o.opcode = 0x61 then s1.ckptBegin c o.startRec
    else if o.opcode = 0x63 then s1.scrubStart c
    else if o.opcode = 0x64 then s1.zeroBegin c o.startRec
    else s1

/-- The operation rests; a RESUME that waited for it becomes its next segment, its occupancy counted from now. -/
def State.rest (s : State) (slot h : Nat) : State :=
  let waiting := (s.longop slot h).resumer
  let brought := (s.longop slot h).headers
  let s1 := (s.toDiapause slot h).onHandle slot h fun o => { o with resumer := none, headers := [] }
  match waiting.bind s1.cmd with
  | some c => (s1.setCmd { c with ranUs := 0, resumed := s1.time }).resumeNow slot h c.id brought
  | none => s1

/-- A RESUME waits for DIAPAUSE, unless another one does (R209). -/
def State.resumeWait (s : State) (c : Cmd) (o : LongOp) (headers : List Byte) : State :=
  if o.resumer.isSome then s.endCmd c.id 0x0605 3
  else s.onHandle c.slot c.handle fun o => { o with resumer := some c.id, headers := headers }

/-- LONGOP_RESUME: a new segment, a wait for DIAPAUSE, or LONGOP_BAD_STATE; headers as for WEIGHT_LOAD, read only by a load that never started. -/
def execLongopResume (id : Nat) (headers : List Byte) (s : State) : Host.Outcome State Fault Refusal :=
  .next (s.startOp id 0x71 fun c s =>
    let o := s.longop c.slot c.handle
    match o.state with
    | .diapause => s.resumeNow c.slot c.handle id headers
    | .suspending => s.resumeWait c o headers
    | .waiting => if o.toRest then s.resumeWait c o headers else s.endCmd id 0x0605 1
    | st => s.endCmd id 0x0605 st.number)

/-! ## SUSPEND (R207 to R209) -/

/-- A SUSPEND starts. A CANCEL of the same device µs is taken before it; of an operation that WAITS the segment starts no more, and the
operation rests in the next device µs, so that a CANCEL that starts later in this one is still taken (R207, R215; log 98). -/
def State.suspendStart (s : State) (c : Cmd) : State :=
  let o := s.longop c.slot c.handle
  if o.cancelled = some s.time then s.endCmd c.id 0x0605 5 else
  match o.state with
  | .waiting =>
    if o.opcode = 0x62 then s.endCmd c.id 0x0604 c.handle
    else if o.toRest then s.endCmd c.id 0x0605 4
    else s.onHandle c.slot c.handle fun o => { o with suspender := some c.id, toRest := true, stopBy := s.time + 100 }
  | .running =>
    if o.opcode = 0x62 then s.endCmd c.id 0x0604 c.handle
    else s.onHandle c.slot c.handle fun o => { o with state := .suspending, suspender := some c.id, stopBy := s.time + 100 }
  | st => s.endCmd c.id 0x0605 st.number

/-- The operation of a SUSPEND comes to rest, its present unit left undone where one is at work; a segment that has ended meanwhile
rests no more (R207, R208, R215). -/
def State.suspendEnd (s : State) (slot h : Nat) (host : Mem) : State :=
  let o := s.longop slot h
  if o.toRest then (if o.state = .waiting ∨ (s.segmentCmd slot h).isSome then s.rest slot h else s) else
  let s1 := s.unitUndone slot h host
  if (s1.segmentCmd slot h).isSome then s1.rest slot h else s1

/-- LONGOP_SUSPEND: it starts; a second row of the same command, in a later device µs, leaves the present unit undone and the operation
rests. -/
def execLongopSuspend (id : Nat) (host : Mem) (s : State) : Host.Outcome State Fault Refusal :=
  match s.runningOp id 0x70 with
  | none => .next (s.startOp id 0x70 fun c s => s.suspendStart c)
  | some c =>
    let o := s.longop c.slot c.handle
    when s (o.suspender == some id && decide (o.stopBy < s.time + 100) &&
        (o.toRest || (o.state == .suspending && (s.segmentCmd c.slot c.handle).isSome)))
      (s.suspendEnd c.slot c.handle host)

/-! ## CANCEL (R207, R208, R211, R568, R586) -/

/-- The work of an operation is released: the open segment completes CANCELLED and the CANCEL OK. -/
def State.release (s : State) (slot h : Nat) : State :=
  let o := s.longop slot h
  let s1 := s.endSome o.segment 0x0601 o.doneUnits
  let s2 :=
    if o.opcode = 0x60 ∧ o.started then s1.reseed slot
    else if o.opcode = 0x61 ∧ o.started then s1.ckptLost slot h
    else s1
  s2.freeHandle slot h 0x0601

/-- A SUSPEND of this device µs that has been turned away already meets the CANCEL of the same device µs (R215). -/
def State.suspendYields (s : State) (slot h : Nat) : State :=
  { s with cmds := s.cmds.map fun d =>
      if d.opcode = 0x70 ∧ d.slot = slot ∧ d.handle = h ∧ d.started = s.time ∧ d.phase.turnedAway then
        { d with phase := .ended 0x0605 5 } else d }

/-- A CANCEL starts: a SUSPEND or RESUME at work meets CANCELLING; an operation with no unit at work is released at once. -/
def State.cancelStart (s : State) (c : Cmd) : State :=
  let slot := c.slot
  let h := c.handle
  let o := s.longop slot h
  let taken : State := (((s.endSome o.suspender 0x0605 5).endSome o.resumer 0x0605 5).suspendYields slot h).onHandle slot h fun o =>
    { o with state := .cancelling, canceller := some c.id, suspender := none, resumer := none, stopBy := s.time + 100, toRest := false,
             cancelled := some s.time }
  match o.state with
  | .free => s.endCmd c.id 0x0605 0
  | .cancelling => s.endCmd c.id 0x0605 5
  | .waiting | .diapause => taken.release slot h
  | .running | .suspending =>
    match o.segment.bind s.molt with
    | some m => (taken.moltCancel m).freeHandle slot h 0x0601
    | none => if o.opcode = 0x62 then taken.release slot h else taken

/-- LONGOP_CANCEL: it starts; a second row of the same command leaves the present unit undone and releases the work. -/
def execLongopCancel (id : Nat) (host : Mem) (s : State) : Host.Outcome State Fault Refusal :=
  match s.runningOp id 0x72 with
  | none => .next (s.startOp id 0x72 fun c s => s.cancelStart c)
  | some c =>
    let o := s.longop c.slot c.handle
    when s (o.state == .cancelling && o.canceller == some id) ((s.unitUndone c.slot c.handle host).release c.slot c.handle)

/-! ## A unit done (R206, R207) -/

/-- What follows a unit that is done, by the state it finds. In the device µs of the SUSPEND a CANCEL may still come, so the operation
rests in the next one (R215, log 98). -/
def State.afterUnit (s : State) (slot h id : Nat) : State :=
  let o := s.longop slot h
  if o.state = .cancelling then s.release slot h
  else if o.torn && o.preread != some s.time then s.tornEnd slot h id
  else if o.totalUnits ≤ o.doneUnits then s.lastUnit slot h id
  else if o.state = .suspending then
    (if o.stopBy = s.time + 100 then s.onHandle slot h fun o => { o with toRest := true } else s.rest slot h)
  else s

/-- The free bytes a host may have answered the present unit of a load with (R208). -/
def State.unitHost (s : State) (slot h : Nat) : Mem :=
  let es := tabGet [] s.loads (handleKey slot h)
  match unitAt (es.map (·.length)) (s.longop slot h).doneUnits with
  | none => []
  | some (k, off, n) =>
    let e := es.getD k {}
    if e.host then (List.range n).map fun i => (e.src + off + i, Config.freeByte s.freeCtr i) else []

/-- A SUSPEND or CANCEL that has worked for 100 µs: the unit is left undone, and the operation rests or is released (R208). -/
def State.longopLimit (s : State) (slot h : Nat) : State :=
  let o := s.longop slot h
  if o.stopBy = 0 ∨ s.time < o.stopBy then s else
  match o.state with
  | .cancelling => (s.unitUndone slot h (s.unitHost slot h)).release slot h
  | .suspending | .waiting => s.suspendEnd slot h (s.unitHost slot h)
  | _ => s

/-- The handles of every partition looked at. -/
def State.longopTick (s : State) : State :=
  s.parts.foldl (fun s e => (e.2.longops.map (·.1)).foldl (fun s h => s.longopLimit e.1 h) s) s

/-- Every resource that the present unit of a handle's operation reads or writes has tokens for its command (R245). -/
def State.unitTokens (s : State) (c : Cmd) (h : Nat) : Bool :=
  let o := s.longop c.slot h
  let host := s.engineRoom c.slot (3 + c.fn / 16)
  match unitAt (s.unitLens c.slot h) o.doneUnits with
  | none => true
  | some (k, off, n) =>
    if o.opcode = 0x64 then s.canTouch c.slot true (recPayload o.startRec + off) n
    else if o.opcode = 0x61 then
      match (tabGet [] s.ckpts (handleKey c.slot h))[k]? with
      | some r => s.canTouch c.slot false (r.src + off) n && (if r.host then host else s.canTouch c.slot true (r.dst + off) n)
      | none => true
    else match (tabGet [] s.loads (handleKey c.slot h))[k]? with
      | some e => if o.opcode = 0x63 then s.canTouch c.slot false (e.src + off) n else
          (if e.host then host else s.canTouch c.slot false (e.src + off) n) &&
          s.canTouch c.slot true ((s.part c.slot).shardVa e off) n
      | none => true

/-- LONGOP_UNIT_DONE can do a unit: the operation is at work and not at its limit, in no reset and on no hung core, and the unit has
tokens, and a tag where it reads the host (R134, R206, R208, R245). -/
def State.unitReady (s : State) (c : Cmd) (h : Nat) : Bool :=
  let o := s.longop c.slot h
  (o.state == .running || o.state == .suspending || o.state == .cancelling) && o.started && !o.toRest &&
  (o.stopBy == 0 || decide (s.time < o.stopBy)) && !s.partReset c.slot && !(c.units.any fun k => (s.core k).hung) &&
  (!s.readsHost c || (s.port (c.fn / 16)).tagFree) && s.unitTokens c h

/-- LONGOP_UNIT_DONE: the next unit of the running segment of a handle; host carries the host memory a load reads, discarded where its
segment has stopped. -/
def execLongopUnitDone (i : Fin 16) (h : Fin 64) (host : Mem) (s : State) : Host.Outcome State Fault Refusal :=
  match s.segmentCmd i.val h.val with
  | none => .next (if host.isEmpty then s else s.lateDone fun t => t.handle == some (handleKey i.val h.val))
  | some c =>
    if !s.unitReady c h.val then .next s else
    let n := s.unitBytes i.val h.val
    match (if (s.longop i.val h.val).preread = some s.time then (s, true) else s.unitStep c h.val n host) with
    | (s1, false) => .next s1
    | (s1, true) =>
      let s2 := s1.onHandle i.val h.val fun o => { o with doneUnits := o.doneUnits + 1 }
      let s3 := match s2.cmd c.id with
        | some d => s2.setCmd { d with work := d.work + n }
        | none => s2
      .next (s3.afterUnit i.val h.val c.id)

end Sys2Proof.Machine
end

