-- ==== Sys2Proof/Machine/Complete.lean ====
section
/-!
DEFINITION. The end of a command: COMMAND_COMPLETE with its record, tokens, flags and counters, and OVERRUN
(R29, R30, R179, R198 to R202, R321, R391, R419, R478, R511, R516, R595).
-/
namespace Sys2Proof.Machine

/-! ## Occupancy and work done (R184, R200, R201) -/

/-- The occupancy E a command is metered against: a RESUME's without the 100 µs of R210. -/
def Cmd.meterE (c : Cmd) : Nat := if c.opcode = 0x71 then c.occupancy - 100 else c.occupancy

/-- The device µs a command has occupied its unit: the wait for external events of an exchange is not counted (R34, R184, R444). -/
def State.occupied (s : State) (c : Cmd) : Nat :=
  if c.opcode = 0x40 ∨ c.opcode = 0x41 ∨ c.peer then 0
  else if c.started < c.peerAt then s.ranSoFar c - (c.peerAt - c.started)
  else s.ranSoFar c

/-- Moving rows entered on a core, over all the rows of its passes. -/
def TileRun.rowsDone (r : TileRun) : Nat × Nat :=
  (r.passes.zipIdx.foldl (fun n e => if e.2 < (r.sub e.1.sub).next then n + e.1.mRows else n) 0, r.passes.foldl (fun n p => n + p.mRows) 0)

/-- Micro-ops issued by the slowest bank of a core. -/
def BankRun.slowest (r : BankRun) : Nat :=
  let banks := r.stripes.foldl (fun n t => n + t.groups * (maskList t.mask.toNat 64).length) 0
  if r.engines.length < banks then 0 else ((minBy (fun (e : Nat × BankEngine) => e.2.issued) r.engines).map (·.2.issued)).getD 0

/-- What an exchange has done of the bytes it moves in full. -/
def Coll.movedOf (c : Coll) (whole : Nat) : Nat := whole - min whole (c.acts.foldl (fun n a => n + c.actBytes a) 0)

/-- Work done, and the whole it is measured against (R201). -/
def State.workDone (s : State) (c : Cmd) : Nat × Nat :=
  let k := s.core (c.cores.headD 0)
  match s.segmentOp c with
  | 0x10 => k.tile.rowsDone
  | 0x11 => (k.bank.slowest, c.whole)
  | 0x12 => (c.work, c.whole)
  | 0x20 => (c.done, (dmaArgs c.record).length)
  | 0x61 => (c.work, (List.range 5).foldl (fun m x => max m (tabGet 0 c.bytes x)) 0)
  | 0x60 => (c.work, c.whole)
  | 0x63 => (c.work, c.whole)
  | 0x64 => (c.work, c.whole)
  | 0x62 =>
    (match s.molt c.id, s.coll c.id with
     | some m, some x => if m.phase = .move then (x.movedOf c.whole, c.whole) else (if m.phase = .commit then c.whole else 0, c.whole)
     | _, _ => (0, c.whole))
  | _ =>
    match s.coll c.id, s.upd c.id with
    | some x, _ => (x.movedOf c.whole, c.whole)
    | none, some u => (u.treated, u.count)
    | none, none => (0, 0)

/-- In units of 1/1,024 of the whole, saturating at 32 bits. The spec states no rounding: the quotient is rounded down, and a whole of 0
reads 0 with no work done and saturates otherwise (DESIGN CHOICE, log 90). -/
def share1024 (work whole : Nat) : Nat :=
  if whole = 0 then (if work = 0 then 0 else 2 ^ 32 - 1) else sat (2 ^ 32 - 1) (1024 * work / whole)

/-! ## OVERRUN (R200 to R202) -/

/-- Base-die cycles of a command against its bank-engine budget: from its start to END on its slowest bank, which for a command that
runs no bank program is until its own end (R200; DEDUCED, log 97). -/
def State.bankCycles (s : State) (c : Cmd) : Nat := 1200 * s.ranSoFar c

/-- The budget a running command has reached: bytes by resource, then bank-engine cycles, then occupancy. -/
def State.overrunCode (s : State) (c : Cmd) : Option Nat :=
  let cls := c.unitClass s
  let waits := c.opcode == 0x71 && (s.longop c.slot c.handle).resumer == some c.id
  match (List.range 5).find? fun x => decide (tabGet 0 c.bytes x + 65536 ≤ tabGet 0 c.used x) with
  | some x => some (x + 2)
  | none =>
    if recBeCycles c.record ≠ 0 ∧ recBeCycles c.record + 6000 ≤ s.bankCycles c then some 7
    else if cls != .none_ && !c.beside && !waits && !c.peer && c.opcode != 0x40 && c.opcode != 0x41 &&
      decide (c.meterE + 5 ≤ s.occupied c) then some 1
    else none

/-- DETAIL of OVERRUN. -/
def State.overrunDetail (s : State) (c : Cmd) (code : Nat) : Nat :=
  let core := match minBy (fun (x : Nat) => x) c.units with | some k => k | none => 0xFF
  let work :=
    if 2 ≤ code ∧ code ≤ 6 then
      (if tabGet 0 c.bytes (code - 2) = 0 then 2 ^ 32 - 1 else share1024 (tabGet 0 c.used (code - 2)) (tabGet 0 c.bytes (code - 2)))
    else share1024 (s.workDone c).1 (s.workDone c).2
  code + 2 ^ 8 * core + 2 ^ 16 * work

/-- A command stopped on every unit it occupies; an exchange's peers are told (R486, R492). The tag of a host read it still waits for
stays in use (R205). -/
def State.stopOverrun (s : State) (c : Cmd) (code : Nat) : State :=
  let d := s.overrunDetail c code
  let s := if s.readsHost c then s.holdTag c else s
  match s.coll c.id, s.molt c.id with
  | some x, _ =>
    let s1 := (((s.sendAborts x noRank 0x0202).dropColl c.id).endCmd c.id 0x0202 d).collUndone x
    s1.dropMolt c.id
  | none, some m => s.moltFail m 0x0202 d
  | none, none => (s.endCmd c.id 0x0202 d).dropUpd c.id

/-- OVERRUN. -/
def execOverrun (id : Nat) (s : State) : Host.Outcome State Fault Refusal :=
  match s.cmd id with
  | none => .next s
  | some c =>
    if c.phase ≠ .running then .next s else
    match s.overrunCode c with
    | some code => .next (s.stopOverrun c code)
    | none => .next s

/-! ## What a completed command leaves (R287, R321, R391, R419) -/

/-- The flags of a command's runs on a core, in its engines or its cocoon there. -/
def Core.flagsOf (k : Core) (id : Nat) : BitVec 6 :=
  let own := fun (t : TileRun) (b : BankRun) (g : GatherRun) =>
    (if t.cmd = some id then t.flags else 0) ||| (if b.cmd = some id then b.flags else 0) ||| (if g.cmd = some id then g.flags else 0)
  (k.cocoons.filter fun o => o.cmd == id).foldl (fun f o => f ||| own o.tile o.bank o.gather) (own k.tile k.bank k.gather)

/-- The tracker use of a command's runs on a core. -/
def Core.trackersOf (k : Core) (id : Nat) : List (Nat × TrackerUse) :=
  (if k.tile.cmd = some id then k.tile.trackers else []) ++
  (k.cocoons.filter fun o => o.cmd == id).flatMap fun o => if o.tile.cmd = some id then o.tile.trackers else []

/-- The engines and cocoons of a core without a command. -/
def Core.without (k : Core) (id : Nat) : Core :=
  { k with
    tile := if k.tile.cmd = some id then {} else k.tile
    bank := if k.bank.cmd = some id then {} else k.bank
    gather := if k.gather.cmd = some id then {} else k.gather
    cocoons := k.cocoons.filter fun o => o.cmd != id
    issue := k.issue.filter fun r => r.cmd != id }

/-- One core of a completed command: trackers merged, windows closed, flags kept, engines idle. -/
def State.leaveCore (s : State) (slot id c : Nat) : State :=
  let s1 := (((s.core c).trackersOf id).foldl (fun s e => s.mergeTracker slot e.1 e.2) (s.setTables slot (s.tablesFor slot id))).setTables slot
    (s.tablesOf slot)
  let s2 := if (s1.core c).tile.cmd = some id then s1.closeStreams c else s1
  let k := s2.core c
  s2.setCore c { k.without id with flags := k.flags ||| k.flagsOf id }

/-- A write of a command has not reached its destination (R198). -/
def State.writesOut (s : State) (id : Nat) : Bool :=
  s.cores.any fun e => (e.2.issue ++ e.2.slots).any fun r => r.cmd == id && r.write

/-- A command that did all its work waits for what it has read; one that was stopped does not. -/
def State.awaitsReads (s : State) (c : Cmd) (st : Nat) : Bool := (st == 0 || c.late.map (·.1) == some st) && s.readsOut c.id

/-! ## The exchange and the updates of a completed command (R511, R516) -/

/-- An exchange, molt or update whose command ended without it is over too. -/
def State.leaveEngines (s : State) (id : Nat) : State :=
  let s1 := match s.coll id, s.molt id with
    | some x, _ => s.collStop x 0 0
    | none, some m => s.moltFail m 0 0
    | none, none => s
  (s1.dropUpd id).forgetFlows id

/-- The UPDATEs bound to a collective that has completed: ready to end, or ended with its status. -/
def State.fedDone (s : State) (id st d : Nat) : State :=
  (s.upds.filter fun u => u.fed == some id).foldl (fun s u =>
    if st = 0 then s.setUpd { u with ready := true } else (s.endCmd u.cmd st d).dropUpd u.cmd) s

/-! ## Counters and registers -/

/-- What a completion counts, by opcode and status. -/
def State.countDone (s : State) (c : Cmd) (st : Nat) : State :=
  let i := c.slot + 1
  let s1 := if c.opcode = 0x50 ∨ c.opcode = 0x51 then s.count 0x7040 i 1 else s
  let s2 := if st = 0x0403 then s1.count 0x7056 i 1 else s1
  let s3 := if st = 0x0202 then s2.count 0x7090 i 1 else s2
  if c.opcode = 0x62 then s3.count (if st = 0 then 0x7074 else 0x7075) i 1 else s3

/-- UPDATE_FAULT (R516). -/
def State.faultUpdate (s : State) (c : Cmd) (st : Nat) : State :=
  if st ≠ 0 ∧ (c.opcode = 0x52 ∨ c.aliasWriter ∨ st = 0x0403) then s.setPart c.slot { s.part c.slot with updateFault := true } else s

/-- A handle whose open segment has completed returns to FREE (R207). -/
def State.leaveHandle (s : State) (c : Cmd) (st : Nat) : State :=
  if (opLongStart c.opcode || c.opcode == 0x71) && (s.longop c.slot c.handle).segment == some c.id then s.freeHandle c.slot c.handle st else s

/-- A command is an accepted FREE with DRAIN that marks core k as draining (R226). -/
def Cmd.drains (c : Cmd) (k : Nat) : Bool :=
  let a := allocArgs c.record
  c.opcode == 0x31 && c.zero.isNone && a.drain && a.kind == 1 && (drainCores a).contains k

/-- A FREE with DRAIN that ends without freeing takes back its own marks, not those of another one (R223, R226; the spec gives the mark
of such a FREE no end: DESIGN CHOICE, log 95). -/
def State.endDrain (s : State) (c : Cmd) (st : Nat) : State :=
  if st = 0 then s else
  ((List.range 16).filter fun k => c.drains k && (s.core k).holder == some c.slot &&
      !s.cmds.any fun d => d.id != c.id && d.slot == c.slot && d.drains k).foldl
    (fun s k => s.setCore k { s.core k with draining := false }) s

/-- The command is no longer accepted; nothing is displaced by it or for it. The save or restore its partners were charged for stays
in their demand (R195 is silent: DESIGN CHOICE, log 112). -/
def State.forgetCmd (s : State) (id : Nat) : State :=
  { s with cmds := (s.cmds.filter fun c => c.id != id).map fun c =>
      { c with displaces := c.displaces.filter (· != id), displacedBy := c.displacedBy.filter (· != id) } }

/-! ## The completion record (R198) -/

/-- A share of a declared amount in thousandths: 65,535 for a use of something not declared. The spec states no rounding: the quotient is
rounded down (DESIGN CHOICE, log 90). -/
def permilleOf (used declared : Nat) : Nat := if declared = 0 then (if used = 0 then 0 else 65535) else sat 65535 (1000 * used / declared)

/-- USED_PERMILLE. The spec gives the occupancy share of a command whose E is 0 no value: it reads 0 (DESIGN CHOICE, log 90). -/
def State.usedPermille (s : State) (c : Cmd) : Nat :=
  let occ := if c.meterE = 0 then 0 else permilleOf (s.occupied c) c.meterE
  let bank := if recBeCycles c.record = 0 then 0 else permilleOf (s.bankCycles c) (recBeCycles c.record)
  (List.range 5).foldl (fun m x => max m (permilleOf (tabGet 0 c.used x) (tabGet 0 c.bytes x))) (max occ bank)

/-- CORE: the lowest core that ran the command. -/
def Cmd.ranOn (c : Cmd) : Nat := if c.started = 0 then 0xFF else match minBy (fun (x : Nat) => x) c.units with | some k => k | none => 0xFF

/-- The record of a command that completes now. -/
def State.recordOf (s : State) (c : Cmd) (st d : Nat) : Option (List Byte) :=
  if recErrorOnly c.record && st == 0 then none
  else some (completionRecord (recSeq c.record) st c.ranOn s.time d (s.usedPermille c) (c.admitted - c.doorbell))

/-! ## COMMAND_COMPLETE -/

/-- A command completes with its final status. -/
def State.complete (s : State) (c : Cmd) (st d : Nat) (writeOk : Bool) : State :=
  let record := s.recordOf c st d
  let s1 := ((c.cores.foldl (fun s k => s.leaveCore c.slot c.id k) s).leaveEngines c.id).tierCleanup c
  let s2 := match c.dmaCore with
    | some k => s1.setCore k ((s1.core k).without c.id)
    | none => s1
  let s3 := ((((s2.fedDone c.id st d).countDone c st).faultUpdate c st).leaveHandle c st).endDrain c st
  ((s3.forgetCmd c.id).settle c.fn c.queue record writeOk).signal c.slot c.record st

/-- A SUSPEND that started in this device µs may yet meet a CANCEL of the same one: its record follows in the next (R215, log 98). -/
def State.mayYield (s : State) (c : Cmd) : Bool := c.opcode == 0x70 && c.zero.isNone && c.started == s.time

/-- COMMAND_COMPLETE: the work of a command has ended; writeOk is false where the write of its record ends in an error. -/
def execCommandComplete (id : Nat) (writeOk : Bool) (s : State) : Host.Outcome State Fault Refusal :=
  match s.cmd id with
  | none => .next s
  | some c =>
    match c.phase with
    | .ended st d => when s (!s.writesOut id && !s.awaitsReads c st && !s.mayYield c) (s.complete c (s.finalStop c st d).1 (s.finalStop c st d).2 writeOk)
    | _ => .next s

end Sys2Proof.Machine
end

