-- ==== Sys2Proof/Machine/Demand.lean ====
section
/-!
DEFINITION. What admission needs of a record before its test: its form, its cost and occupancy, its release bound, and whether its
exchange has events to come (R178, R184 to R191, R210, R225, R280, R444, R481, R513, R549, R566, R574, R585, R593).
-/
namespace Sys2Proof.Machine

/-! ## Form of a record (R178, R221, R277, R685) -/

/-- CORES lies in the range of R183 for the opcode. -/
def coresOk (op n : Nat) : Bool :=
  if op = 0x10 ∨ op = 0x11 then decide (1 ≤ n) && decide (n ≤ 16) else if op = 0x12 then n == 1 else n == 0

/-- The operand tests of ALLOC and FREE (R221). -/
def allocTests (r : Rec) (free : Bool) : List (Nat × Bool) :=
  let a := allocArgs r
  let k := a.kind
  let paged := k == 3 || k == 4
  let byMask := k == 1 || k == 2
  let usesCount := paged || k == 5 || (byMask && !free && !a.exact_)
  let page := recField r 0x6A 1
  let va := recField r 0x70 8
  let size := if a.big then 2097152 else 65536
  [(0x68, decide (k < 1) || decide (5 < k)), (0x69, if k = 2 then decide (15 < a.core) else a.core != 0),
   (0x6A, if paged then decide (1 < page) else page != 0),
   (0x6B, decide (4 ≤ recField r 0x6B 1) || (a.exact_ && !byMask) || (a.drain && !(free && byMask))),
   (0x6C, if usesCount then a.count == 0 || decide (65536 < a.count) else a.count != 0),
   (0x60, if k = 5 then recPayload r == 0 else recPayload r != 0),
   (0x70, if byMask then
            ((a.exact_ || free) && a.arg == 0) || decide (2 ^ (if k = 1 then 16 else 80) ≤ a.arg)
          else if paged then va % size != 0 || decide (2 ^ 52 < va + a.count * size) || recField r 0x78 8 != 0
          else a.arg != 0)]

/-- The operand tests of TIER_DECLARE (R277). -/
def tierTests (r : Rec) : List (Nat × Bool) :=
  let size := if recField r 0x69 1 = 1 then 2097152 else 65536
  let n := recField r 0x6C 4
  let va := recField r 0x70 8
  [(0x68, recField r 0x68 1 != 1 && recField r 0x68 1 != 2), (0x69, decide (1 < recField r 0x69 1)), (0x6A, recField r 0x6A 2 != 0),
   (0x6C, n == 0 || decide (65536 < n)), (0x70, va % size != 0 || decide (2 ^ 52 < va + n * size)), (0x78, recField r 0x78 8 != 0)]

/-- The operand tests of an opcode: a layout's own, or reserved bytes. -/
def operandTests (r : Rec) (op : Nat) : List (Nat × Bool) :=
  match op with
  | 0x02 => [(0x68, decide (4096 ≤ recField r 0x68 2)), (0x6A, recField r 0x6A 2 != 0), (0x70, recField r 0x70 16 != 0)]
  | 0x20 => [(0x70, recField r 0x70 8 == 0), (0x78, decide (4 ≤ recField r 0x78 8))]
  | 0x30 => allocTests r false
  | 0x31 => allocTests r true
  | 0x32 => tierTests r
  | 0x40 | 0x41 | 0x61 => [(0x68, decide (8192 ≤ recField r 0x68 4)), (0x6C, recField r 0x6C 20 != 0)]
  | 0x53 => [(0x6C, recField r 0x6C 4 != 0), (0x78, recField r 0x78 8 != 0)]
  | 0x54 => [(0x69, recField r 0x69 3 != 0), (0x78, recField r 0x78 8 != 0)]
  | 0x64 => [(0x68, recField r 0x68 8 == 0 || recField r 0x68 8 % 65536 != 0), (0x70, recField r 0x70 16 != 0)]
  | _ => [(0x68, recField r 0x68 24 != 0)]

/-- The byte offset of the first bad field of a record. -/
def recordBad (r : Rec) : Option Nat :=
  let op := recOpcode r
  if !opListed op then some 0 else
  firstBad ([(2, decide (4 ≤ recField r 2 2)), (8, decide (recDeadline r < 50)), (0x0C, bits (recField r 0x0C 2) 12 3 != 0),
    (0x0E, bits (recField r 0x0E 2) 4 11 != 0), (0x3C, !coresOk op (recCores r)), (0x3D, recField r 0x3D 3 != 0),
    (0x54, recField r 0x54 4 != 0), (0x58, decide (64 ≤ recField r 0x58 4)), (0x5C, recField r 0x5C 4 != 0)] ++
    ((List.range 4).flatMap fun j => [(0x10 + 8 * j, bits (recField r (0x10 + 8 * j) 2) 12 2 != 0), (0x12 + 8 * j, recField r (0x12 + 8 * j) 2 != 0)]) ++
    operandTests r op)

/-! ## Cost (R184, R187, R210) -/

/-- What a command declares: cycles, bank-engine cycles, and bytes by resource. -/
structure Cost where
  cycles : Nat := 0
  be : Nat := 0
  bytes : Tab Nat := []
deriving DecidableEq, Repr

def recCost (r : Rec) : Cost :=
  { cycles := recCoreCycles r, be := recBeCycles r, bytes := (List.range 5).foldl (fun t x => tabSet 0 t x (recBytes r x)) [] }

/-- The share of an amount that an operation has still to do, rounded up: cycles to cycles, bytes to bytes (R210; the unit a byte
field's share is rounded to is DESIGN CHOICE, log 111). -/
def LongOp.scale (o : LongOp) (n : Nat) : Nat := if o.totalUnits = 0 then n else ceilDiv (n * (o.totalUnits - o.doneUnits)) o.totalUnits

/-- The cost of a command: a RESUME whose cost fields are all 0 takes its operation's, scaled. -/
def State.costOf (s : State) (slot : Nat) (r : Rec) : Cost :=
  if recOpcode r = 0x71 ∧ recCost r = {} then
    let o := s.longop slot (recHandle r)
    let c := recCost o.startRec
    { cycles := o.scale c.cycles, be := o.scale c.be, bytes := c.bytes.map fun e => (e.1, o.scale e.2) }
  else recCost r

/-- The largest of the nonzero byte fields. -/
def Cost.largest (c : Cost) : Nat := c.bytes.foldl (fun m e => max m e.2) 0
/-- The resources of the nonzero byte fields. -/
def Cost.resources (c : Cost) : List Nat := (List.range 5).filter fun x => tabGet 0 c.bytes x != 0

/-! ## Occupancy by class -/

/-- Device µs at a rate in GB/s, with the fixed part; a rate of 0 never ends. -/
def rateE (fixed b r : Nat) : Nat := if r = 0 then 2 ^ 32 - 1 else fixed + ceilDiv b (1000 * r)

/-- The work a record does: a RESUME does that of its operation, from the record that started it. -/
def State.workOp (s : State) (slot : Nat) (r : Rec) : Nat × Rec :=
  if recOpcode r = 0x71 then ((s.longop slot (recHandle r)).opcode, (s.longop slot (recHandle r)).startRec) else (recOpcode r, r)

/-- What a RESUME has still to do of an amount; all of it for any other command. -/
def State.stillOf (s : State) (slot : Nat) (r : Rec) (n : Nat) : Nat :=
  if recOpcode r = 0x71 then (s.longop slot (recHandle r)).scale n else n

/-- The declared resources whose floor bounds a rate: one with a floor of 0 bounds none, because check 7 refuses the bytes declared on
it (R686, R194; DEDUCED, log 94). -/
def State.boundedBy (s : State) (slot f : Nat) (c : Cost) : List Nat := c.resources.filter fun x => s.floorOf slot (resReg f x) != 0

/-- E_DMA of R187. -/
def State.dmaOccupancy (s : State) (slot f : Nat) (r : Rec) (c : Cost) : Nat :=
  let w := s.workOp slot r
  let b := if w.1 = 0x20 then (dmaArgs w.2).length else if w.1 = 0x64 then s.stillOf slot r (zeroLength w.2) else c.largest
  let host := if w.1 = 0x20 ∧ ((dmaArgs w.2).srcHost ∨ (dmaArgs w.2).dstHost) ∧ !c.resources.contains 3 then [3] else []
  rateE 2 b (s.rateOf slot f 600 (s.boundedBy slot f c ++ host))

/-- Tiers of the pages that a scrub pass reads: HBM_RD and CXL. -/
def Part.scrubTiers (p : Part) : List Nat :=
  let r := p.liveImage
  let mine := (if p.liveSide1 then p.side1 else p.side0).filter fun e => e.2.valid && decide (r.base / frameBytes ≤ e.1) &&
    decide (e.1 < (r.base + r.bytes) / frameBytes)
  (if mine.any fun e => e.2.tier == .hbm then [0] else []) ++ (if mine.any fun e => e.2.tier == .cxl then [2] else [])

/-- A few bytes of a descriptor as admission reads it; nothing where it is unmapped. -/
def State.peek (s : State) (slot va n : Nat) : List Byte := match s.vread slot va n with | .ok r => r.bytes | .error _ => []

/-- E of class LOADER (R585, R593). The shard lengths of a load lie in headers that admission does not read: its bytes are the largest of
its byte fields, as R187 states for a CKPT_WRITE. A scrub's declared tier with a floor of 0 bounds no rate: check 7 refuses it (R686). -/
def State.loaderOccupancy (s : State) (slot f : Nat) (r : Rec) (c : Cost) : Nat :=
  let w := s.workOp slot r
  if w.1 = 0x60 then
    rateE (4 + 2 * loadCount (s.peek slot (recPayload w.2) 64)) c.largest (s.rateOf slot f 450 (s.boundedBy slot f c))
  else
    let es := (s.part slot).scrubList
    rateE (4 + 2 * es.length) (s.stillOf slot r (es.foldl (fun n e => n + e.length) 0)) (s.rateOf slot f 450
      ((s.part slot).scrubTiers.filter fun x => s.floorOf slot (resReg f x) != 0 || !c.resources.contains x))

/-- Bytes sent and received by a COLLECTIVE, as its plan has them (R465). -/
def State.collBytes (s : State) (slot payload : Nat) : Nat :=
  let bs := s.peek slot payload 128
  let d := collOf bs
  if bs.isEmpty || (collBad bs).isSome then 0 else
  let tbl := s.peek slot (field bs 0x28 8) (8 * d.n)
  if tbl.isEmpty || (memberBad tbl d.n).isSome then 0 else
  let alg := field bs 1 1
  let base := s.joined d 0 slot (membersOf tbl d.n) (reached alg d.n d.self) (field bs 0x0C 1)
  let c : Coll := { base with acts := base.plan alg (countsOf (s.peek slot (field bs 0x48 8) (4 * d.n)) d.n) }
  c.txBytes + c.rxBytes

/-- The term of R566 that the layouts of a MOLT give. -/
def State.moltOccupancy (s : State) (c : Cmd) (l : Nat) : Nat :=
  let s0 : State := { s with cmds := s.cmds ++ [c] }
  let bs := s.peek c.slot c.payload 128
  let full := match (s0.readLayout c (field bs 0x10 8) true).2, (s0.readLayout c (field bs 0x18 8) false).2 with
    | some (.ok o), some (.ok n) =>
      let m : Molt := { old := o, new := n }
      ceilDiv (m.txBytes + m.rxBytes) 800000 + ceilDiv m.copyBytes 400000 + ceilDiv m.slices 256
    | _, _ => 0
  40 + full + 2 * ceilDiv l 4096

/-- Bytes of the pages that alias writes to some ranges would copy now (R497, R498). -/
def State.copiedBytes (s : State) (slot : Nat) (ranges cover : List (Nat × Nat)) : Nat :=
  let pages := ranges.flatMap fun r => (List.range (ceilDiv (r.1 % frameBytes + r.2) frameBytes)).flatMap fun i =>
    let a := (s.part slot).aliasVa (r.1 / frameBytes * frameBytes + i * frameBytes)
    match s.translate slot a with
    | some w => if w.alias_ && w.leaf.shared && !coversPage cover w.leaf.big a then cowPages w.leaf.big w.page else []
    | none => []
  pages.eraseDups.length * frameBytes

/-- B of R513: what an UPDATE reads, writes and sends, and twice what it copies; every element counts in full, and the bitmap does not,
as in the worked example after R522. -/
def State.updBytes (s : State) (slot payload : Nat) : Nat :=
  let bs := s.peek slot payload 80
  let u : Upd := { updOf bs with slot := slot }
  if bs.isEmpty || (updBad bs).isSome then 0 else
  match field bs 0 1 with
  | 0 =>
    if (s.group slot u.tgroup).any Group.frozen then 0 else
    u.count * ((if u.gbf16 then 2 else 4) + 8) + 2 * s.copiedBytes slot [(u.w, u.wBytes), (u.r, u.rBytes)] (s.updCover u)
  | 1 =>
    if (s.group slot u.tgroup).any Group.frozen then 0 else
    let ix := (elementsOf 4 (s.peek slot u.index (4 * u.count))).filter fun i => decide (i < u.rowLimit) && !s.frozenAt u i
    4 * u.count + ix.length * (12 * u.rowElems + 16) +
      2 * s.copiedBytes slot (ix.flatMap fun i => [(u.w + 4 * u.rowElems * i, 4 * u.rowElems), (u.r + 8 * i, 8)]) []
  | 2 => 2 * u.count
  | _ => u.count + 2 * s.copiedBytes slot [(u.w, u.count)] [(u.w, u.count)]

/-- E of class NIC (R444, R481, R504, R513, R549, R566). -/
def State.nicOccupancy (s : State) (c : Cmd) : Nat :=
  let l := (s.part c.slot).twinPages
  match c.opcode with
  | 0x40 | 0x41 => 4 + ceilDiv (recField c.record 0x68 4 % 8192) 16
  | 0x50 => 4 + ceilDiv (s.collBytes c.slot c.payload) 800000
  | 0x51 => 11 + ceilDiv l 4096
  | 0x52 => 4 + ceilDiv (s.updBytes c.slot c.payload) 400000
  | 0x62 => s.moltOccupancy c l
  | _ => 4

/-- The exchange of a command has external events that follow its start (R480, R512, R566). -/
def State.hasPeers (s : State) (slot : Nat) (r : Rec) : Bool :=
  let bs := s.peek slot (recPayload r) 16
  match recOpcode r with
  | 0x50 | 0x51 => decide (1 < field bs 4 4)
  | 0x52 => decide (field bs 0 1 = 2) || decide (field bs 0 1 = 3) || (field bs 0 1 == 0 && bitAt (field bs 1 1) 0)
  | 0x62 => true
  | _ => false

/-! ## Bounds of class NONE (R225, R280, R574) -/

/-- The bound of a TIER_DECLARE. With CXL bytes declared over a floor of 0 the floor bounds no rate: check 7 refuses the record
(R686; DEDUCED, log 94). -/
def State.tierBound (s : State) (slot : Nat) (r : Rec) : Nat :=
  let a := tierArgs r
  if recBytes r 2 ≠ 0 ∧ s.floorOf slot 2 = 0 then 10
  else rateE 10 (a.count * a.leaves * frameBytes) (if recBytes r 2 = 0 then 1 else s.floorOf slot 2)

/-- What is left of the bounds of the TIER_DECLAREs ahead of one. -/
def State.tiersAhead (s : State) (slot : Nat) : Nat :=
  (s.cmds.filter fun d => d.slot == slot && d.opcode == 0x32 && (match d.phase with | .ended _ _ => false | _ => true)).foldl
    (fun n d => n + (s.tierBound slot d.record - s.ranSoFar d)) 0

/-- Pages in the regions a WEIGHT_FLIP names. -/
def Part.pagesNamed (p : Part) (a : FlipArgs) : Nat :=
  a.regions.foldl (fun n r => n + (if (p.liveLeaf (r * regionPages)).big then 256 else regionPages)) 0

/-- The time a command of the allocator, tier manager or weight flip may take from its release. -/
def State.noneBound (s : State) (slot : Nat) (r : Rec) : Option Nat :=
  let a := allocArgs r
  match recOpcode r with
  | 0x30 | 0x31 => some (if a.kind = 1 then 130 else if a.kind = 2 then 80 else if a.kind = 5 then 10 else 10 + ceilDiv a.count 64)
  | 0x32 => some (s.tierBound slot r + s.tiersAhead slot)
  | 0x54 =>
    let f := flipArgs r
    some (if f.action = 3 ∨ f.action = 4 then 10 + ceilDiv ((s.part slot).pagesNamed f) 64 else 3 + ceilDiv (s.part slot).twinPages 4096)
  | _ => none

/-! ## The release bound (R191, R226) -/

/-- The latest known deadline of some commands. -/
def latestDeadline (cs : List Cmd) : Option Nat :=
  cs.foldl (fun m c => match m, c.deadline with
    | some x, some y => some (max x y)
    | none, d => d
    | m, none => m) none

/-- One is floating. -/
def anyFloating (cs : List Cmd) : Bool := cs.any fun c => c.deadline.isNone

/-- The commands a FREE with DRAIN waits for. -/
def State.drained (s : State) (r : Rec) : List Cmd :=
  if recOpcode r = 0x31 ∧ (allocArgs r).drain then (drainCores (allocArgs r)).flatMap fun k => s.boundTo k else []

/-- The internal waits of a record that are not met. -/
def State.unmetInternal (s : State) (slot : Nat) (r : Rec) : List Nat :=
  (recWaits r).filter fun j => !waitExternal r j && !s.waitMet slot r j

/-- The commands of a partition that signal a token and are not floating. -/
def State.signallers (s : State) (slot t : Nat) : List Cmd :=
  s.cmds.filter fun c => c.slot == slot && c.deadline.isSome && recSignal c.record == some t

/-- The commands a FENCE waits for. -/
def State.fenced (s : State) (f q : Nat) (r : Rec) : List Cmd :=
  if recFence r then s.cmds.filter fun c => c.fn == f && c.queue == q else []

/-- The release bound, or the DETAIL of ADMIT_WAIT_UNBOUND. -/
def State.releaseBound (s : State) (slot : Nat) (w : Waiting) : Except Nat Nat :=
  let r := w.record
  let waits := s.unmetInternal slot r
  let unbound := waits.find? fun j => (s.signallers slot (waitToken r j)).isEmpty
  let fence := s.fenced w.fn w.queue r
  let drain := s.drained r
  if unbound.isSome || anyFloating fence || anyFloating drain then
    .error (unbound.getD 0 + (if anyFloating fence then 4 else 0) + (if anyFloating drain then 8 else 0))
  else
    let all := (waits.flatMap fun j => s.signallers slot (waitToken r j)) ++ fence ++ drain
    .ok (max s.time ((latestDeadline all).getD 0))

end Sys2Proof.Machine
end

