-- ==== Sys2Proof/Machine/Admission.lean ====
section
/-!
DEFINITION. The decision on a record: the checks in their order, the binding of cores, what an acceptance commits and what a refusal writes
(R180, R190 to R197, R207, R208, R210, R225 to R230, R239, R241, R686, R687).
-/
namespace Sys2Proof.Machine

/-- Why a timeline fails: its code, its core or resource, and the shortfall where the spec gives one. -/
structure Unfit where
  line : Nat
  index : Nat
  short : Option Nat := none
deriving DecidableEq, Repr

/-- DETAIL of ADMIT_INFEASIBLE (R199); a shortfall the spec does not give is free (log 1). -/
def Unfit.detail (u : Unfit) (other : Nat) : Nat :=
  u.line % 256 + 256 * (u.index % 256) + 65536 * min (u.short.getD other) (2 ^ 32 - 1)

/-- No shortfall is larger. -/
def noFit (line index : Nat) : Unfit := { line := line, index := index, short := some (2 ^ 32 - 1) }

/-! ## Check 3 (R686) -/

/-- The field that lies beyond the envelope or the holdings. -/
def State.envelopeBad (s : State) (slot f : Nat) (r : Rec) : Option Nat :=
  let op := recOpcode r
  firstBad ([(1, decide ((s.heldCores slot).length < recCores r)),
    (2, match recResidency r with | some k => !(s.heldCores slot).contains k | none => false),
    (3, recHandle r != 0 && !opLongStart op && !opControl op)] ++
    (List.range 5).map fun x =>
      (4 + x, recBytes r x != 0 && (s.ceilOf slot (resReg f x) == 0 || (x == 2 && s.maxOf 4 slot == 0))))

/-! ## Check 6: cores (R193 to R195, R228, R229, R239, R241) -/

/-- The excess of a list of commands on one timeline. -/
def State.lineExcess (s : State) (cs : List Cmd) : Nat := excess (cs.map s.jobOf) s.time 1

/-- A command, accepted and not ended. -/
def Cmd.live (c : Cmd) : Bool := match c.phase with | .ended _ _ => false | _ => true

/-- A command bound to some cores, with what it can displace and what can displace it. -/
def State.boundCmd (s : State) (c : Cmd) (ks : List Nat) : Cmd :=
  let e := ks.foldl (fun m k => max m (s.coreE (recCoreCycles c.record) (recBeCycles c.record) k)) 0
  let c1 : Cmd := { c with cores := ks, occupancy := e }
  let c2 : Cmd := { c1 with wake := s.wakeTerm c1 }
  let pool := (s.onCores ks).filter Cmd.live
  let out := pool.filter (canDisplace c2)
  let by_ := pool.filter fun d => canDisplace d c2
  { c2 with displaces := out.map (fun (d : Cmd) => d.id), displacedBy := by_.map (fun (d : Cmd) => d.id),
            hasSave := !out.isEmpty, hasRestore := !by_.isEmpty }

/-- An accepted command with its part of the pairs that a new one makes. -/
def Cmd.paired (me d : Cmd) : Cmd :=
  let d1 : Cmd := if me.displaces.contains d.id then { d with displacedBy := d.displacedBy ++ [me.id], hasRestore := true } else d
  if me.displacedBy.contains d.id then { d1 with displaces := d1.displaces ++ [me.id], hasSave := true } else d1

/-- The accepted commands with a new one among them. -/
def State.withNew (s : State) (me : Cmd) : State := { s with cmds := s.cmds.map (me.paired ·) ++ [me] }

/-- The base dies whose movers carry the pairs of a new command, each with its displacer's core: the one on that die, else the
lowest core the two share. -/
def State.pairDies (s : State) (me : Cmd) : List (Nat × Nat) :=
  (s.cmds.flatMap fun d =>
    if me.displaces.contains d.id then d.pairDieList.map fun e => (e, (me.coreOn e).getD ((me.sharedCore d).getD 0))
    else if me.displacedBy.contains d.id then me.pairDieList.map fun e => (e, (d.coreOn e).getD ((me.sharedCore d).getD 0))
    else []).eraseDups

/-- The first timeline that fails with a command on some cores. -/
def State.coresUnfit (s : State) (me : Cmd) (ks : List Nat) : Option Unfit :=
  let s1 := s.withNew me
  let grown := s.cmds.filter fun d => d.demand != (me.paired d).demand
  let mine := s1.lineExcess (s1.onCores ks)
  if mine ≠ 0 then some { line := 1, index := ks.getLastD 0, short := some mine } else
  match grown.find? fun d => s1.lineExcess (s1.onCores d.cores) != 0 with
  | some d => some { line := 1, index := d.cores.headD 0, short := some (s1.lineExcess (s1.onCores d.cores)) }
  | none =>
    match (ks ++ (s.cmds.filter fun d => me.paired d != d).flatMap fun (d : Cmd) => d.cores).find? fun k =>
        decide (4 < ((s1.onCores [k]).filter fun d => !d.displacedBy.isEmpty || d.savedFor.isSome).length) with
    | some k => some { line := 1, index := k }
    | none =>
      match (s.pairDies me).find? fun e => excess (moverJobs s1.cmds e.1) s.time 1 != 0 with
      | some e => some { line := 1, index := e.2, short := some (excess (moverJobs s1.cmds e.1) s.time 1) }
      | none => none

/-- Candidates in ascending order, each kept while the test passes, until there are enough; else the first failure. -/
def State.takeCores (s : State) (c : Cmd) (n : Nat) : List Nat → List Nat → Option Unfit → Except (Option Unfit) Cmd
  | [], _, e => .error e
  | k :: l, got, e =>
    let me := s.boundCmd c (got ++ [k])
    match s.coresUnfit me (got ++ [k]) with
    | some u => s.takeCores c n l got (e.or (some u))
    | none => if got.length + 1 = n then .ok me else s.takeCores c n l (got ++ [k]) e

/-- The engines of a core are leaving OFF: the ALLOC that hands the core out has not completed (R85). -/
def State.comingUp (s : State) (k : Nat) : Bool := (s.block (matrixBlock k)).leavingOff || (s.block (vectorBlock k)).leavingOff

/-- The cores a command may be bound to, and those among them with a hang declared (R228, R230, R687). A core that leaves OFF is bound
when its ALLOC completes, so that no accepted command is charged that time (R85; DEDUCED, log 121). -/
def State.candidates (s : State) (slot : Nat) (r : Rec) : List Nat × List Nat :=
  let mine := (s.heldCores slot).filter fun k =>
    !(s.core k).draining && !s.comingUp k && ((recResidency r).isNone || recResidency r == some k)
  (mine.filter fun k => !(s.core k).hung, mine.filter fun k => (s.core k).hung)

/-- Why no candidate serves: a hung core, the first failure, or that there is none. -/
def whyUnfit (line : Nat) (hung : List Nat) (first : Option Unfit) : Unfit :=
  match hung.head? with
  | some k => noFit line k
  | none => first.getD (noFit line 0xFF)

def State.bindCores (s : State) (c : Cmd) : Except Unfit Cmd :=
  let ks := s.candidates c.slot c.record
  match s.takeCores c (recCores c.record) ks.1 [] none with
  | .ok me => .ok me
  | .error e => .error (whyUnfit 1 ks.2 e)

/-! ## Check 6: the other timelines (R181, R187, R208, R210, R230) -/

/-- A command on one timeline, or why it does not fit there. -/
def State.fitOn (s : State) (t : Timeline) (c : Cmd) : Except Unfit Cmd :=
  let me : Cmd := { c with wake := s.wakeTerm c }
  let s1 := s.withNew me
  let e := s1.lineExcess (s1.onTimeline t)
  if e = 0 then .ok me else
  .error (match t with
    | .core k => { line := 1, index := k, short := some e }
    | .dma k => { line := 2, index := k, short := some e }
    | .nic => { line := 3, index := 0, short := some e }
    | .loader => { line := 4, index := 0, short := some e })

/-- The first DMA timeline that takes a command. -/
def State.takeDma (s : State) (c : Cmd) : List Nat → Option Unfit → Except (Option Unfit) Cmd
  | [], e => .error e
  | k :: l, e =>
    match s.fitOn (.dma k) { c with dmaCore := some k } with
    | .ok me => .ok me
    | .error u => s.takeDma c l (e.or (some u))

def State.bindDma (s : State) (c : Cmd) : Except Unfit Cmd :=
  let ks := s.candidates c.slot c.record
  match s.takeDma c ks.1 none with
  | .ok me => .ok me
  | .error e => .error (whyUnfit 2 ks.2 e)

/-- The occupancy of a command of class DMA, NIC or LOADER. -/
def State.unitOccupancy (s : State) (c : Cmd) (cost : Cost) (k : UnitClass) : Nat :=
  let o := s.longop c.slot c.handle
  match k with
  | .dma => s.dmaOccupancy c.slot c.fn c.record cost
  | .loader => s.loaderOccupancy c.slot c.fn c.record cost
  | .nic => if c.opcode = 0x71 then o.scale (s.nicOccupancy { c with record := o.startRec }) else s.nicOccupancy c
  | _ => 0

/-- SUSPEND, RESUME and CANCEL lie on the timeline of the operation their handle names. -/
def State.bindControl (s : State) (c : Cmd) (cost : Cost) : Except Unfit Cmd :=
  let k := c.unitClass s
  let c1 : Cmd := { c with occupancy := 100 + if c.opcode = 0x71 then s.unitOccupancy c cost k else 0 }
  match k with
  | .dma =>
    match (s.longop c.slot c.handle).startCore with
    | some q =>
      if (s.core q).hung || (s.core q).draining then .error (noFit 2 q) else s.fitOn (.dma q) { c1 with dmaCore := some q }
    | none => .ok c
  | .nic => if s.nicHung then .error (noFit 3 0) else s.fitOn .nic c1
  | .loader => s.fitOn .loader c1
  | _ => .ok c

/-- The bound of an allocation, a TIER_DECLARE or a WEIGHT_FLIP from its release (R225, R280, R574). -/
def State.bindNone (s : State) (c : Cmd) : Except Unfit Cmd :=
  match s.noneBound c.slot c.record with
  | none => .ok c
  | some b =>
    let short := match c.deadline with
      | some d => c.release + b - d
      | none => b + (c.release - c.doorbell) - recDeadline c.record
    if short = 0 then .ok c else .error { line := 0, index := 0, short := some short }

/-- Check 6. -/
def State.place (s : State) (c : Cmd) (cost : Cost) : Except Unfit Cmd :=
  if opControl c.opcode then s.bindControl c cost else
  let c1 : Cmd := { c with occupancy := s.unitOccupancy c cost (opClass c.opcode) }
  match opClass c.opcode with
  | .core => s.bindCores c
  | .dma => s.bindDma c1
  | .nic => if s.nicHung then .error (noFit 3 0) else s.fitOn .nic c1
  | .loader => s.fitOn .loader c1
  | .none_ => s.bindNone c

/-! ## Check 7 (R190, R194) -/

/-- The first resource whose bytes exceed its floor with a new command among them. -/
def State.bytesUnfit (s : State) (me : Cmd) : Option Unfit :=
  let s1 := s.withNew me
  (List.range 5).findSome? fun x =>
    if tabGet 0 me.bytes x = 0 then none else
    let rate := 1000 * s.floorOf me.slot (resReg me.fn x)
    let e := excess ((s1.cmds.filter fun c => c.slot == me.slot && tabGet 0 c.bytes x != 0).map fun c => s1.byteJob c x) s.time rate
    if e = 0 then none else
    some { line := 5, index := resReg me.fn x, short := some (if rate = 0 then 2 ^ 32 - 1 else ceilDiv e rate) }

/-! ## Acceptance and refusal (R84, R196, R197, R207, R226) -/

/-- A block in SLEEP that a command needs begins to wake, and its wake is that command's from here on (R84). -/
def State.wakeBlock (s : State) (b : Nat) : State :=
  if (s.block b).st ≠ .sleep then s else
  let s1 := if (s.block b).waking then s else s.wakeTo b .active
  s1.setBlock b { s1.block b with charged := true }

/-- The handle of a long operation that is accepted. -/
def State.openHandle (s : State) (c : Cmd) : State :=
  if opLongStart c.opcode then
    s.setLongop c.slot c.handle
      { opcode := c.opcode, state := .waiting, segment := some c.id, startRec := c.record, startCore := c.dmaCore }
  else s

/-- The cores that a FREE of cores with DRAIN names are draining, those of them that its slot holds (R226; of a core the slot does not
hold the rule says nothing: DESIGN CHOICE, log 113). -/
def State.startDrain (s : State) (c : Cmd) : State :=
  let a := allocArgs c.record
  if c.opcode = 0x31 ∧ a.drain ∧ a.kind = 1 then
    (drainCores a).foldl (fun s k => if (s.core k).holder = some c.slot then s.setCore k { s.core k with draining := true } else s) s
  else s

/-- A command is accepted. -/
def State.accept (s : State) (me : Cmd) : State :=
  let s0 := s.withNew me
  let s1 : State := { s0 with nextId := s.nextId + 1 }
  let s2 := (s1.openHandle me).startDrain me
  (s2.pendingBlocks me).foldl (fun s b => s.wakeBlock b) s2

/-- A record is refused: its completion record, and its failed mark; a refused UPDATE sets UPDATE_FAULT (R197, R516). -/
def State.refuse (s : State) (slot : Nat) (w : Waiting) (status detail : Nat) (writeOk : Bool) : State :=
  let s1 := if recOpcode w.record = 0x52 then s.setPart slot { s.part slot with updateFault := true } else s
  (s1.settle w.fn w.queue (some (completionRecord (recSeq w.record) status 0xFF s.time detail 0 (s.time - w.doorbell))) writeOk).signal
    slot w.record status

/-- A record as a command, before its placement. -/
def State.asCmd (s : State) (slot : Nat) (w : Waiting) (release : Nat) (cost : Cost) : Cmd :=
  s.noteCmd { id := s.nextId, slot := slot, fn := w.fn, queue := w.queue, record := w.record, doorbell := w.doorbell, admitted := s.time,
              release := release, bytes := cost.bytes, peer := s.hasPeers slot w.record }

/-- The checks 3 to 7 of a record: the command to accept, or the status and why. -/
def State.decideRest (s : State) (slot : Nat) (w : Waiting) : Except (Nat × Nat) (Except Unfit Cmd) :=
  let r := w.record
  match s.envelopeBad slot w.fn r with
  | some x => .error (0x0102, x)
  | none =>
    if opLongStart (recOpcode r) ∧ (s.longop slot (recHandle r)).state ≠ .free then .error (0x0603, recHandle r) else
    match s.releaseBound slot w with
    | .error d => .error (0x0105, d)
    | .ok rel =>
      let cost := s.costOf slot r
      match s.place (s.asCmd slot w rel cost) cost with
      | .error u => .ok (.error u)
      | .ok me => match s.bytesUnfit me with
        | some u => .ok (.error u)
        | none => .ok (.ok me)

/-- One record is decided. -/
def State.decideRecord (s : State) (slot : Nat) (w : Waiting) (writeOk : Bool) : State :=
  match recordBad w.record with
  | some x => s.refuse slot w 0x0106 x writeOk
  | none =>
    if s.entry 0x8000 1 ≠ 0 ∨ !s.boot.admitOpen then s.refuse slot w 0x0103 0 writeOk
    else if s.power.warnActive then s.refuse slot w 0x0104 0 writeOk
    else match s.failedWait slot w.record with
      | some j =>
        let c := s.asCmd slot w s.time {}
        { s with nextId := s.nextId + 1, cmds := s.cmds ++ [{ c with zero := some j, phase := .ended 0x0204 j }] }
      | none =>
        match s.decideRest slot w with
        | .error e => s.refuse slot w e.1 e.2 writeOk
        | .ok (.ok me) => s.accept me
        | .ok (.error u) =>
          s.fresh.2.refuse slot w 0x0101 (u.detail s.fresh.1.toNat) writeOk

/-- A command that has ended in this device µs or before signals a token the record waits on: its completion raises the token first
(R215; that the decision awaits it is DEDUCED, log 96). -/
def State.tokenComing (s : State) (slot : Nat) (w : Waiting) : Bool :=
  s.cmds.any fun c => c.slot == slot && (match c.phase with | .ended _ _ => !s.writesOut c.id | _ => false) &&
    (recWaits w.record).any fun j => recSignal c.record == some (waitToken w.record j) && !s.waitMet slot w.record j

/-- A command that runs signals a token the record waits on: it may yet complete in this device µs (R215, log 96). -/
def State.tokenLikely (s : State) (slot : Nat) (w : Waiting) : Bool :=
  s.cmds.any fun c => c.slot == slot && c.phase == .running &&
    (recWaits w.record).any fun j => recSignal c.record == some (waitToken w.record j) && !s.waitMet slot w.record j

/-- The record that arrived first is decided. -/
def State.decideFront (s : State) (writeOk : Bool) : State :=
  match s.waiting with
  | [] => s
  | w :: l =>
    let n := if s.decidedUs = s.time then s.decided else 0
    let s1 : State := { s with waiting := l, decided := n + 1, decidedUs := s.time }
    match s.fnSlot w.fn with
    | none => s1
    | some slot => s1.decideRecord slot w writeOk

/-- ADMIT_RECORD: the record that arrived first is decided; at most 8 a device µs. One whose token a completion of this device µs may
raise is decided at its end. -/
def execAdmitRecord (writeOk : Bool) (s : State) : Host.Outcome State Fault Refusal :=
  .next (match s.waiting with
    | [] => s
    | w :: _ =>
      if s.deviceReset || decide (8 ≤ if s.decidedUs = s.time then s.decided else 0) then s else
      match s.fnSlot w.fn with
      | none => s.decideFront writeOk
      | some slot =>
        if s.tokenComing slot w then s
        else if s.tokenLikely slot w then { s with admitHeld := some writeOk }
        else s.decideFront writeOk)

/-- The record held for the end of the device µs is decided, unless a command that has ended has its completion still to come. -/
def State.decideHeld (s : State) : State :=
  match s.admitHeld with
  | none => s
  | some ok =>
    let s1 : State := { s with admitHeld := none }
    if s.deviceReset then s1 else
    match s.waiting with
    | w :: _ => if (s.fnSlot w.fn).any fun i => s.tokenComing i w then s1 else s1.decideFront ok
    | [] => s1

end Sys2Proof.Machine
end

