-- ==== Sys2Proof/Machine/Bank.lean ====
section
/-!
DEFINITION. Bank programs: the descriptor of BANK_RUN and its checks, the library programs, and the micro-ops (R303, R307,
R310 to R325).
-/
namespace Sys2Proof.Machine

/-! ## Micro-op words (R314) -/

def uopOp (w : Nat) : Nat := bits w 26 6
def uopRd (w : Nat) : Nat := bits w 22 4
def uopRa (w : Nat) : Nat := bits w 18 4
def uopRb (w : Nat) : Nat := bits w 14 4
def uopRc (w : Nat) : Nat := bits w 10 4
def uopSra (w : Nat) : Bool := bitAt w 9
def uopFmt (w : Nat) : Fmt := if bitAt w 8 then fmtE5M2 else fmtE4M3
def uopImm8 (w : Nat) : Nat := bits w 0 8
def uopImm14 (w : Nat) : Nat := bits w 0 14

/-- The bits of the fields of R314. -/
def mRd : Nat := 0x03C00000
def mRa : Nat := 0x003C0000
def mK : Nat := 0x001C0000
def mRb : Nat := 0x0003C000
def mRc : Nat := 0x00003C00
def mSra : Nat := 0x00000200
def mFmt : Nat := 0x00000100
def mImm8 : Nat := 0x000000FF

/-- The bits a micro-op uses below OP; none for an opcode that R315 does not list. -/
def uopMask (op : Nat) : Option Nat :=
  match op with
  | 0x00 => some 0
  | 0x01 => some (mRd + mK + mImm8)
  | 0x02 => some (mRd + mK + mImm8)
  | 0x03 => some (mRd + mK + mImm8)
  | 0x04 => some (mRd + mK + mImm8)
  | 0x05 => some (mK + mImm8)
  | 0x06 => some (mK + mImm8)
  | 0x07 => some (mK + 0x3FFF)
  | 0x08 => some (mRd + 7)
  | 0x10 => some (mRd + mRa + mRb + mSra)
  | 0x11 => some (mRd + mRa + mRb + mSra)
  | 0x12 => some (mRd + mRa + mRb)
  | 0x13 => some (mRd + mRa + mRb + mRc + mSra)
  | 0x14 => some (mRd + mRa + mRb + mSra + 7)
  | 0x15 => some (mRd + mRa + mRb)
  | 0x16 => some (mRd + mRa + mRb)
  | 0x17 => some (mRd + mRa)
  | 0x18 => some (mRd + mRa)
  | 0x19 => some (mRd + mRa)
  | 0x1A => some (mRd + mRa)
  | 0x1B => some (mRd + mRa + mRb + mRc)
  | 0x20 => some (mRd + mRa + mFmt + 15)
  | 0x21 => some (mRd + mRa + mFmt + 15)
  | 0x22 => some (mRd + mRa)
  | 0x28 => some (mRd + mRa)
  | 0x29 => some (mRd + mRa)
  | 0x30 => some 0x003FFFFF
  | _ => none

/-- SRC and BODY of a LOOP. -/
def loopSrc (w : Nat) : Nat := bits w 20 2
def loopBody (w : Nat) : Nat := bits w 14 6

/-- A micro-op is valid on its own (R314). -/
def uopValid (w : Nat) : Bool :=
  let op := uopOp w
  match uopMask op with
  | none => false
  | some m =>
    decide (w % 2 ^ 26 &&& m = w % 2 ^ 26) &&
    (match op with
     | 0x03 => decide (uopRd w ≤ 14)
     | 0x04 => decide (uopRd w ≤ 14)
     | 0x07 => decide (uopImm14 w % 16 = 0)
     | 0x20 => decide (uopRd w ≤ 14) && decide (uopRa w ≤ 8)
     | 0x21 => decide (uopRd w ≤ 8) && decide (uopRa w ≤ 14)
     | 0x30 => decide (loopSrc w ≤ 2) && decide (1 ≤ loopBody w) && decide (loopBody w ≤ 62) &&
               (loopSrc w == 2 || uopImm14 w == 0)
     | _ => true)

/-- The first micro-op of a program that is not valid, or whose loop leaves its body's place (R316): its index. Open loop ends,
innermost first. -/
def badUop (n : Nat) : List Nat → Nat → List Nat → Option Nat
  | [], i, _ => if i = n then none else some i
  | w :: l, i, open_ =>
    let ends := open_.filter fun e => decide (i < e)
    if !uopValid w then some i
    else if uopOp w = 0x30 then
      let e := i + 1 + loopBody w
      if 2 ≤ ends.length ∨ n < e ∨ ends.any (fun x => decide (x < e)) then some i else badUop n l (i + 1) (e :: ends)
    else if i + 1 = n ∧ uopOp w ≠ 0 then some i
    else badUop n l (i + 1) ends

/-! ## The library (R323, R324) -/

/-- A micro-op word from its fields. -/
def uop (op : Nat) (rd ra rb rc imm : Nat) : Nat := op * 2 ^ 26 + rd * 2 ^ 22 + ra * 2 ^ 18 + rb * 2 ^ 14 + rc * 2 ^ 10 + imm
/-- A LOOP word over LOOP0. -/
def uopLoop0 (body : Nat) : Nat := 0x30 * 2 ^ 26 + body * 2 ^ 14

/-- Block i of MX_COMPRESS out of n: eight loads, MXQ, two stores, and the scale word after 16 blocks or the last. -/
def mxCompressBlock (n i : Nat) : List Nat :=
  (List.range 8).map (fun r => uop 1 r 0 0 0 1) ++ [uop 0x20 8 0 0 0 (i % 16), uop 2 8 1 0 0 1, uop 2 9 1 0 0 1] ++
  (if i % 16 = 15 ∨ i + 1 = n then [uop 6 0 2 0 0 1] else [])
/-- Block i of MX_DECOMPRESS: the scale word before each 16 blocks, two loads, MXD, eight stores. -/
def mxDecompressBlock (i : Nat) : List Nat :=
  (if i % 16 = 0 then [uop 5 0 2 0 0 1] else []) ++ [uop 1 8 1 0 0 1, uop 1 9 1 0 0 1, uop 0x21 0 8 0 0 (i % 16)] ++
  (List.range 8).map (fun r => uop 2 r 0 0 0 1)

/-- The micro-ops of a library program for a LOOP0. An MX program leaves its window before block 200. -/
def libProgram (lib loop0 : Nat) : List Nat :=
  match lib with
  | 0x0001 => [uopLoop0 4, uop 1 0 0 0 0 0, uop 1 1 1 0 0 1, uop 0x10 0 0 1 0 0x200, uop 2 0 0 0 0 1, 0]
  | 0x0002 => [uopLoop0 4, uop 1 0 0 0 0 0, uop 1 1 1 0 0 1, uop 0x14 0 1 0 0 0x200, uop 2 0 0 0 0 1, 0]
  | 0x0003 => [uopLoop0 4, uop 1 0 0 0 0 0, uop 1 1 1 0 0 1, uop 0x10 0 0 1 0 0, uop 2 0 0 0 0 1, 0]
  | 0x0010 => [uopLoop0 7, uop 1 0 0 0 0 1, uop 1 1 1 0 0 0, uop 0x14 1 1 0 0 0, uop 2 1 1 0 0 1, uop 1 2 2 0 0 0,
               uop 0x14 2 1 2 0 1, uop 2 2 2 0 0 1, 0]
  | 0x0011 => [uop 8 8 0 0 0 1, uop 8 9 0 0 0 3, uop 8 10 0 0 0 4, uop 8 11 0 0 0 5, uop 8 12 0 0 0 6, uopLoop0 19,
               uop 1 0 0 0 0 1, uop 1 1 1 0 0 0, uop 0x12 4 0 8 0 0, uop 0x14 1 1 4 0 0, uop 2 1 1 0 0 1,
               uop 1 2 2 0 0 0, uop 0x12 4 0 9 0 0, uop 0x12 4 4 0 0 0, uop 0x14 2 2 4 0 2, uop 2 2 2 0 0 1,
               uop 0x12 5 2 10 0 0, uop 0x18 5 5 0 0 0, uop 0x10 5 5 11 0 0, uop 0x19 5 5 0 0 0, uop 0x12 5 1 5 0 0,
               uop 1 3 3 0 0 0, uop 0x12 5 5 12 0 0, uop 0x14 3 3 5 0 7, uop 2 3 3 0 0 1, 0]
  | 0x0020 => [uopLoop0 2, uop 1 0 0 0 0 1, uop 0x13 1 0 0 1 0, uop 0x22 2 1 0 0 0, uop 0x28 3 2 0 0 0, uop 2 3 1 0 0 0, 0]
  | 0x0030 => ((List.range (min loop0 200)).flatMap (mxCompressBlock (min loop0 200))) ++ [0]
  | 0x0031 => ((List.range (min loop0 200)).flatMap mxDecompressBlock) ++ [0]
  | _ => []

/-- The library programs installed. -/
def libHolds (lib : Nat) : Bool := [0x0001, 0x0002, 0x0003, 0x0010, 0x0011, 0x0020, 0x0030, 0x0031].contains lib

/-! ## The descriptor (R310, R311) -/

/-- The stripe record at an offset. -/
def stripeOf (bs : List Byte) (o : Nat) : Stripe :=
  { firstGroup := field bs o 1, groups := field bs (o + 1) 1, mask := BitVec.ofNat 64 (field bs (o + 4) 8),
    winLo := field bs (o + 0x0C) 2, winHi := field bs (o + 0x0E) 2,
    aInit := (List.range 8).map fun i => field bs (o + 0x10 + 2 * i) 2, loop0 := field bs (o + 0x20) 4, loop1 := field bs (o + 0x24) 4 }

/-- The fields of a stripe record that are out of range: (offset, fails). -/
def stripeTests (bs : List Byte) (o : Nat) : List (Nat × Bool) :=
  let t := stripeOf bs o
  [(o, decide (79 < t.firstGroup)), (o + 1, decide (t.groups = 0) || decide (80 < t.firstGroup + t.groups)),
   (o + 2, field bs (o + 2) 2 != 0), (o + 4, t.mask == 0), (o + 0x0C, t.winLo % 16 != 0),
   (o + 0x0E, t.winHi % 16 != 0 || decide (t.winHi ≤ t.winLo) || decide (16384 < t.winHi)), (o + 0x28, field bs (o + 0x28) 8 != 0)] ++
  (List.range 8).map fun i => (o + 0x10 + 2 * i, field bs (o + 0x10 + 2 * i) 2 % 16 != 0)

/-- The stripes and micro-ops a descriptor says are read: (stripes, micro-ops). -/
def bankCounts (bs : List Byte) : Nat × Nat :=
  let n := field bs 3 1
  let u := field bs 2 1
  (if n ≤ 4 then n else 0, if field bs 0 2 = 0 ∧ u ≤ 64 then u else 0)

/-- The inline micro-ops. -/
def bankUops (bs : List Byte) : List Nat := (List.range (bankCounts bs).2).map fun i => field bs (0x100 + 4 * i) 4

/-- Check 1 of R312: the byte offset of the first bad field. -/
def bankBad (bs : List Byte) : Option Nat :=
  let lib := field bs 0 2
  let u := field bs 2 1
  let check := bitAt (field bs 4 2) 1
  firstBad ([(0, !(lib == 0 || libHolds lib)), (2, if lib = 0 then decide (u = 0) || decide (64 < u) else u != 0),
    (3, decide (field bs 3 1 = 0) || decide (4 < field bs 3 1)), (4, decide (4 ≤ field bs 4 2)),
    (8, !check && field bs 8 8 != 0),
    (0x1A, if check then decide (field bs 0x1A 2 = 0) || decide (4095 < field bs 0x1A 2) else field bs 0x1A 2 != 0),
    (0x1C, field bs 0x1C 4 != 0)] ++
    (List.range (bankCounts bs).1).flatMap (fun i => stripeTests bs (0x40 + 48 * i)) ++
    ((if lib = 0 then badUop (bankCounts bs).2 (bankUops bs) 0 [] else none).toList.map fun i => (0x100 + 4 * i, true)))

/-- The groups a stripe runs in. -/
def Stripe.groupList (t : Stripe) : List Nat := (List.range t.groups).map (t.firstGroup + ·)
/-- A stripe runs on a bank. -/
def Stripe.covers (t : Stripe) (b : Nat) : Bool :=
  decide (t.firstGroup ≤ b / 64) && decide (b / 64 < t.firstGroup + t.groups) && bitAt t.mask.toNat (b % 64)

/-- The run a descriptor asks for. -/
def bankRunOf (bs : List Byte) : BankRun :=
  { lib := field bs 0 2, program := (bankUops bs).map (BitVec.ofNat 32), k := (List.range 8).map fun i => fieldW bs (0x20 + 4 * i),
    stripes := (List.range (bankCounts bs).1).map fun i => stripeOf bs (0x40 + 48 * i)
    footprint := BitVec.ofNat 80 (field bs 0x10 10), stochastic := bitAt (field bs 4 2) 0, accIndex := field bs 6 2 }

/-- The micro-ops a stripe runs. -/
def BankRun.uops (r : BankRun) (t : Stripe) : List Nat := if r.lib = 0 then r.program.map (·.toNat) else libProgram r.lib t.loop0
/-- The program stores. -/
def BankRun.stores (r : BankRun) : Bool :=
  r.stripes.any fun t => (r.uops t).any fun w => uopOp w == 2 || uopOp w == 4 || uopOp w == 6

/-- Micro-ops a program issues in full from index i to j − 1, loops counted out (R201). -/
def uopTotal (l0 l1 : Nat) : Nat → List Nat → Nat
  | 0, _ => 0
  | _, [] => 0
  | n + 1, w :: l =>
    if uopOp w = 0x30 then
      let c := if loopSrc w = 0 then l0 else if loopSrc w = 1 then l1 else uopImm14 w
      1 + c * uopTotal l0 l1 n (l.take (loopBody w)) + uopTotal l0 l1 n (l.drop (loopBody w))
    else 1 + uopTotal l0 l1 n l

/-! ## Starting BANK_RUN (R312, R313) -/

/-- Check 2: the first core, and its lowest group, that the partition does not hold. -/
def State.bankUnheld (s : State) (slot : Nat) (cores : List Nat) (r : BankRun) : Option Nat :=
  let gs := r.stripes.flatMap Stripe.groupList ++ maskList r.footprint.toNat 80
  cores.findSome? fun c => (minBy id (gs.filter fun g => !s.groupHeld slot c g)).map fun g => g + 2 ^ 8 * c

/-- Check 3: the lowest group of a storing stripe outside FOOTPRINT. -/
def BankRun.outside (r : BankRun) : Option Nat :=
  if r.stores then minBy id ((r.stripes.flatMap Stripe.groupList).filter fun g => !bitAt r.footprint.toNat g) else none

/-- Check 4: CHECK_STEP against the counter of TGROUP. -/
def State.stepSkew (s : State) (slot : Nat) (bs : List Byte) : Bool :=
  bitAt (field bs 4 2) 1 &&
  (match s.groupBytes slot (field bs 0x1A 2) with
   | none => true
   | some g => (groupOf g).step != field bs 8 8)

/-- The descriptor read: the head, then the stripes and micro-ops it names. -/
def State.readBankDesc (s : State) (id slot va : Nat) : State × Option (List Byte) :=
  match s.descRead id slot va 64 with
  | (s1, none) => (s1, none)
  | (s1, some h) =>
    let n := bankCounts h
    match s1.descRead id slot (va + 64) (48 * n.1) with
    | (s2, none) => (s2, none)
    | (s2, some t) =>
      match s2.descRead id slot (va + 0x100) (4 * n.2) with
      | (s3, none) => (s3, none)
      | (s3, some u) => (s3, some (h ++ t ++ List.replicate (192 - 48 * n.1) 0 ++ u ++ List.replicate (256 - 4 * n.2) 0))

/-- The checks of R312 passed, the program stands at its start on every core. -/
def State.bankStart (s : State) (c : Cmd) (bs : List Byte) : State :=
  let r := bankRunOf bs
  match bankBad bs with
  | some o => s.endCmd c.id 0x0206 o
  | none =>
    match s.bankUnheld c.slot c.cores r with
    | some d => s.endCmd c.id 0x0207 d
    | none =>
      match r.outside with
      | some g => s.endCmd c.id 0x0209 g
      | none =>
        if s.stepSkew c.slot bs then s.endCmd c.id 0x0403 0 else
        let run : BankRun := { r with
          cmd := some c.id, srStep := (s.part c.slot).srStep
          stochastic := r.stochastic && decide (s.entry 0x5054 1 < r.accIndex) }
        let whole := r.stripes.foldl (fun m t => max m (uopTotal t.loop0 t.loop1 3000 (r.uops t))) 0
        let s1 := c.cores.foldl (fun s k => s.setCore k { s.core k with bank := run }) s
        (match s1.cmd c.id with | some d => s1.setCmd { d with whole := whole } | none => s1)

/-- BANK_RUN starts (R312); its descriptor is aligned to 64 B (log 69). -/
def execBankRun (id : Nat) (s : State) : Host.Outcome State Fault Refusal :=
  match s.cmd id with
  | none => .next s
  | some c =>
    if c.opcode = 0x11 ∧ s.canStart c then
      if c.payload % 64 ≠ 0 then .next ((s.beginCmd c).endCmd id 0x0206 0) else
      match (s.beginCmd c).readBankDesc id c.slot c.payload with
      | (s1, none) => .next s1
      | (s1, some bs) => .next (s1.bankStart c bs)
    else .next s

/-! ## One engine (R313, R316) -/

/-- The engine of a stripe at a bank; one not listed stands at its start, and keeps the draw counter of its bank. -/
def BankRun.engine (r : BankRun) (i : Nat) (t : Stripe) (b : Nat) : BankEngine :=
  match tabFind r.engines (i * 5120 + b) with
  | some e => e
  | none => { a := t.aInit.zipIdx.foldl (fun m e => tabSet 0 m e.2 e.1) []
              draws := (List.range i).foldl (fun n j => match tabFind r.engines (j * 5120 + b) with
                | some e => max n e.draws
                | none => n) 0 }

/-- The first stripe at a bank whose engine has not ended. -/
def BankRun.current (r : BankRun) (b : Nat) : Option (Nat × Stripe × BankEngine) :=
  r.stripes.zipIdx.findSome? fun e =>
    let g := r.engine e.2 e.1 b
    if e.1.covers b && !g.ended then some (e.2, e.1, g) else none

/-- A micro-op about to issue: its command, slot, stripe, engine and word. -/
structure Uop where
  id : Nat
  slot : Nat
  core : Nat
  bank : Nat
  index : Nat
  stripe : Stripe
  eng : BankEngine
  w : Nat
deriving DecidableEq, Repr

/-- The banks of a group whose programs have not ended, each with its stripe and engine: the group's active banks (R319). -/
def BankRun.active (r : BankRun) (g : Nat) : List (Nat × Nat × Stripe × BankEngine) :=
  (List.range 64).filterMap fun j => (r.current (64 * g + j)).map fun e => (64 * g + j, e)

/-- The micro-op a bank issues next, if it is of an opcode and its command runs. -/
def State.uopAt (s : State) (c b op : Nat) : Option Uop :=
  let r := (s.core c).bank
  match r.cmd.bind s.cmd with
  | none => none
  | some cm =>
    if cm.phase ≠ .running then none else
    match r.current b with
    | none => none
    | some (i, t, e) =>
      match (r.uops t)[e.pc]? with
      | none => none
      | some w => if uopOp w = op ∧ !e.inTree then some ⟨cm.id, cm.slot, c, b, i, t, e, w⟩ else none

/-- The engine n micro-ops on. -/
def BankEngine.advance (e : BankEngine) (n : Nat) : BankEngine :=
  let p := loopBack (e.pc + n) e.loops
  { e with pc := p.1, loops := p.2, issued := e.issued + 1 }

/-- The engine of a micro-op put back, with the flags it raised. -/
def State.putEngine (s : State) (u : Uop) (e : BankEngine) (fl : Flags) : State :=
  let k := s.core u.core
  let s1 := s.setCore u.core { k with bank := { k.bank with
    engines := tabPut k.bank.engines (u.index * 5120 + u.bank) e, flags := k.bank.flags ||| fl } }
  s1.noteProgress (unitId 5 u.core (u.bank / 64)) 1

/-- A row of a micro-op: what it does where the bank issues one of its opcode; nothing otherwise (log 5). -/
def State.issueUop (s : State) (c b op : Nat) (f : Uop → State) : Host.Outcome State Fault Refusal :=
  match s.uopAt c b op with
  | none => .next s
  | some u => .next (f u)

/-! ## Registers -/

/-- A data register with its poison. -/
def BankEngine.reg (e : BankEngine) (r : Nat) : BitVec 128 × Bool := (tabGet 0 e.b r, tabGet false e.bPoison r)
/-- A data register written. -/
def BankEngine.setReg (e : BankEngine) (r : Nat) (v : BitVec 128) (p : Bool) : BankEngine :=
  { e with b := tabSet 0 e.b r v, bPoison := tabSet false e.bPoison r p }
/-- The lanes of 128 bits. -/
def lanesOf (v : BitVec 128) : List W32 := (List.range 4).map fun i => v.extractLsb' (32 * i) 32
/-- 128 bits of bytes, byte 0 lowest. -/
def wordOf (bs : List Byte) : BitVec 128 := BitVec.ofNat 128 (natOfBytes bs)
/-- 128 bits of four lanes. -/
def ofLanes (l : List W32) : BitVec 128 := BitVec.ofNat 128 (natOfBytes (l.flatMap fun w => bytesOfNat w.toNat 4))
/-- 128 bits of eight lanes. -/
def ofLanes16 (l : List W16) : BitVec 128 := BitVec.ofNat 128 (natOfBytes (l.flatMap fun w => bytesOfNat w.toNat 2))
/-- The eight BF16 lanes. -/
def lanes16Of (v : BitVec 128) : List W16 := (List.range 8).map fun i => v.extractLsb' (16 * i) 16
/-- Lane results gathered: a poisoned result raises no flags. -/
def gather32 (l : List FRes) (p : Bool) : BitVec 128 × Flags :=
  (ofLanes (l.map (·.1)), if p then 0 else l.foldl (fun g r => g ||| r.2) 0)

/-- rd written lane by lane, and the engine past the micro-op. -/
def State.putLanes (s : State) (u : Uop) (e : BankEngine) (l : List FRes) (p : Bool) : State :=
  let g := gather32 l p
  s.putEngine u ((e.setReg (uopRd u.w) g.1 p).advance 1) g.2

/-- An operation on each lane of ra. -/
def State.lane1 (s : State) (u : Uop) (f : W32 → FRes) : State :=
  let a := u.eng.reg (uopRa u.w)
  s.putLanes u u.eng ((lanesOf a.1).map f) a.2
/-- An operation on each lane of ra and rb. -/
def State.lane2 (s : State) (u : Uop) (f : W32 → W32 → FRes) : State :=
  let a := u.eng.reg (uopRa u.w)
  let b := u.eng.reg (uopRb u.w)
  s.putLanes u u.eng (List.zipWith f (lanesOf a.1) (lanesOf b.1)) (a.2 || b.2)

/-- The draw of an SRA micro-op, when its program rounds stochastically (R320, R413): the random values of its lanes, the
engine with its counter raised, and the state with BE_SR_OPS counted. -/
def State.sraDraw (s : State) (u : Uop) : List (Option Nat) × BankEngine × State :=
  let r := (s.core u.core).bank
  if uopSra u.w && r.stochastic then
    let d := draw r.srStep (bankEngineId u.core u.bank) r.accIndex u.eng.draws
    ((List.range 4).map fun i => some (drawLane d i), { u.eng with draws := u.eng.draws + 1 }, s.count 0x5057 (u.core + 1) 1)
  else (List.replicate 4 none, u.eng, s)

/-- A sum or fused multiply-add of lanes of up to three operands, rounded as SRA says. -/
def State.laneSra (s : State) (u : Uop) (f : Option Nat → Nat → FRes) (p : Bool) : State :=
  let d := s.sraDraw u
  d.2.2.putLanes u d.2.1 (d.1.zipIdx.map fun e => written (f e.1 e.2)) p

/-- Lane i of a register. -/
def laneOf (v : BitVec 128 × Bool) (i : Nat) : FVal := decode32 (v.1.extractLsb' (32 * i) 32)

/-! ## The port (R298, R307, R318) -/

/-- The scratch offset of a byte position of a bank (R301). -/
def scratchOffset (bank pos : Nat) : Nat :=
  let h := pos / 64
  let lo := (bank / 64 % 16) ^^^ bits h 0 4
  let mid := (bank % 64) ^^^ bits h 0 6
  bank / 1024 * 2 ^ 24 + (h * 1024 + mid * 16 + lo) * 64 + pos % 64

/-- The address register of a port micro-op. -/
def Uop.addr (u : Uop) : Nat := tabGet 0 u.eng.a (uopRa u.w % 8)
/-- An address register moved by a signed number of bytes. -/
def BankEngine.bump (e : BankEngine) (k : Nat) (d : Int) : BankEngine :=
  { e with a := tabSet 0 e.a k ((((tabGet 0 e.a k : Nat) : Int) + d) % 2 ^ 32).toNat }
/-- The engine past a port micro-op. -/
def Uop.past (u : Uop) (e : BankEngine) : BankEngine := (e.bump (uopRa u.w % 8) (16 * signed 8 (uopImm8 u.w))).advance 1
/-- The access lies within the stripe's window. -/
def Uop.inWindow (u : Uop) : Bool := decide (u.stripe.winLo ≤ u.addr) && decide (u.addr + 16 ≤ u.stripe.winHi)
/-- DETAIL of BANK_RANGE. -/
def Uop.range (u : Uop) : Nat := u.addr % 2 ^ 14 + 2 ^ 14 * u.bank + 2 ^ 27 * (u.eng.pc % 64)

/-- The word at the address register loaded, with its poison; outside the window the command stops. -/
def State.uopLoad (s : State) (u : Uop) (ecc : Ecc) (f : State → BitVec 128 → Bool → State) : State :=
  if !u.inWindow then s.endCmd u.id 0x0208 u.range else
  let s1 := s.scratchEcc u.core u.bank (u.addr / 16) ecc
  let bs := s1.bankRead u.core u.bank u.addr 16
  let p := bs.any (·.2)
  let s2 := if p then s1.notePoison u.id (scratchOffset u.bank u.addr + 2 ^ 63) else s1
  f s2 (wordOf (bs.map (·.1))) p

/-- A word stored at the address register; outside the window the command stops. -/
def State.uopStore (s : State) (u : Uop) (v : BitVec 128) (p : Bool) (e : BankEngine) (fl : Flags) : State :=
  if !u.inWindow then s.endCmd u.id 0x0208 u.range else
  let s1 := s.bankWriteWord u.core u.bank u.addr ((bytesOfNat v.toNat 16).map fun b => (b, p))
  s1.putEngine u (u.past e) fl

/-- Narrowings of a core that saturated, counted (R425). -/
def State.countSat (s : State) (c n : Nat) : State := s.count 0x7033 (c + 1) n

/-! ## The micro-ops (R315) -/

/-- The engines of a run in all, and those that have ended. -/
def BankRun.allEnded (r : BankRun) : Bool :=
  decide ((r.stripes.foldl (fun n t => n + t.groups * (maskList t.mask.toNat 64).length) 0) ≤
    (r.engines.filter fun e => e.2.ended).length)

/-- The command's bank work is done on every core: it ends, DETAIL its flags (R313, R321). -/
def State.bankFinish (s : State) (id : Nat) : State :=
  match s.cmd id with
  | none => s
  | some c =>
    if c.cores.all fun k => (s.core k).bank.allEnded then
      s.finishCmd id (c.cores.foldl (fun (g : Flags) k => g ||| (s.core k).bank.flags) 0).toNat
    else s

/-! ## The group tree (R319) -/

/-- What a group's tree gives over its active banks: combined in pairs by bank number, an inactive bank as rest gives it; each bank goes
on with the result. -/
def State.treeRun (s : State) (u : Uop) (banks : List (Nat × Nat × Stripe × BankEngine)) (w : Nat) (op : W32 → W32 → FRes)
    (rest : Option W32) : State :=
  let reg := fun (e : Nat × Nat × Stripe × BankEngine) => e.2.2.2.reg (uopRa w)
  let p := banks.any fun e => (reg e).2
  let lane := fun i => written <| pairTree op 7 ((List.range 64).filterMap fun j =>
    match banks.find? fun e => e.1 % 64 == j with
    | some e => some ((reg e).1.extractLsb' (32 * i) 32)
    | none => rest)
  let out := gather32 ((List.range 4).map lane) p
  banks.foldl (fun s e =>
    s.putEngine { u with bank := e.1, index := e.2.1, stripe := e.2.2.1 }
      (({ e.2.2.2 with inTree := false }.setReg (uopRd w) out.1 p).advance 1) out.2) s

/-- The tree of a group starts once every active bank of it has issued the micro-op: GSUM takes an inactive bank as +0, GMAX not at
all. -/
def State.treeTry (s : State) (u : Uop) : State :=
  let r := (s.core u.core).bank
  match r.active (u.bank / 64) with
  | [] => s
  | e :: l =>
    if !(e :: l).all fun x => x.2.2.2.inTree && x.2.2.2.pc == e.2.2.2.pc then s else
    match (r.uops e.2.2.1)[e.2.2.2.pc]? with
    | none => s
    | some w => if uopOp w = 0x28 then s.treeRun u (e :: l) w fadd (some 0) else s.treeRun u (e :: l) w (extremum false) none

/-- END: a bank that has ended no longer holds its group's tree back. -/
def execUopEnd (c : CoreNo) (b : BankNo) (s : State) : Host.Outcome State Fault Refusal :=
  s.issueUop c.val b.val 0x00 fun u =>
    ((s.putEngine u { u.eng with ended := true, issued := u.eng.issued + 1 } 0).treeTry u).bankFinish u.id

/-- NONFINITE of four FP32 lanes written, loads and constants included; poisoned lanes raise nothing (R321, R390; a word of another format is
taken as four FP32 lanes, log 99). -/
def wordFlags (v : BitVec 128) (p : Bool) : Flags := if p then 0 else (lanesOf v).foldl (fun g w => g ||| flWritten w) 0

/-- LD. -/
def execUopLd (c : CoreNo) (b : BankNo) (ecc : Ecc) (s : State) : Host.Outcome State Fault Refusal :=
  s.issueUop c.val b.val 0x01 fun u =>
    s.uopLoad u ecc fun s1 v p => s1.putEngine u (u.past (u.eng.setReg (uopRd u.w) v p)) (wordFlags v p)

/-- ST. -/
def execUopSt (c : CoreNo) (b : BankNo) (s : State) : Host.Outcome State Fault Refusal :=
  s.issueUop c.val b.val 0x02 fun u =>
    let x := u.eng.reg (uopRd u.w)
    s.uopStore u x.1 x.2 u.eng (wordFlags x.1 x.2)

/-- LDW. -/
def execUopLdw (c : CoreNo) (b : BankNo) (ecc : Ecc) (s : State) : Host.Outcome State Fault Refusal :=
  s.issueUop c.val b.val 0x03 fun u => s.uopLoad u ecc fun s1 v p =>
    let l := (lanes16Of v).map widenBf16
    s1.putEngine u (u.past ((u.eng.setReg (uopRd u.w) (ofLanes (l.take 4)) p).setReg (uopRd u.w + 1) (ofLanes (l.drop 4)) p))
      (if p then 0 else l.foldl (fun g w => g ||| flWritten w) 0)

/-- STN. -/
def execUopStn (c : CoreNo) (b : BankNo) (s : State) : Host.Outcome State Fault Refusal :=
  s.issueUop c.val b.val 0x04 fun u =>
    let x := u.eng.reg (uopRd u.w)
    let y := u.eng.reg (uopRd u.w + 1)
    let l := (lanesOf x.1 ++ lanesOf y.1).map narrowBf16
    let p := x.2 || y.2
    let s1 := s.uopStore u (ofLanes16 (l.map (·.1))) p u.eng (if p then 0 else l.foldl (fun g r => g ||| r.2) 0)
    if u.inWindow then s1.countSat u.core (l.filter fun r => r.2 &&& flOverflow != 0).length else s1

/-- LDS. -/
def execUopLds (c : CoreNo) (b : BankNo) (ecc : Ecc) (s : State) : Host.Outcome State Fault Refusal :=
  s.issueUop c.val b.val 0x05 fun u => s.uopLoad u ecc fun s1 v p => s1.putEngine u (u.past { u.eng with s := v, sPoison := p }) 0

/-- STS. -/
def execUopSts (c : CoreNo) (b : BankNo) (s : State) : Host.Outcome State Fault Refusal :=
  s.issueUop c.val b.val 0x06 fun u => s.uopStore u u.eng.s u.eng.sPoison { u.eng with s := 0, sPoison := false } 0

/-- AINC. -/
def execUopAinc (c : CoreNo) (b : BankNo) (s : State) : Host.Outcome State Fault Refusal :=
  s.issueUop c.val b.val 0x07 fun u => s.putEngine u ((u.eng.bump (uopRa u.w % 8) (signed 14 (uopImm14 u.w))).advance 1) 0

/-- A constant of the program. -/
def State.bankK (s : State) (u : Uop) : W32 := (s.core u.core).bank.k.getD (uopImm8 u.w % 8) 0

/-- MOVK. -/
def execUopMovk (c : CoreNo) (b : BankNo) (s : State) : Host.Outcome State Fault Refusal :=
  s.issueUop c.val b.val 0x08 fun u =>
    s.putEngine u ((u.eng.setReg (uopRd u.w) (ofLanes (List.replicate 4 (s.bankK u))) false).advance 1) (flWritten (s.bankK u))

/-- FADD. -/
def execUopFadd (c : CoreNo) (b : BankNo) (s : State) : Host.Outcome State Fault Refusal :=
  s.issueUop c.val b.val 0x10 fun u =>
    let x := u.eng.reg (uopRa u.w)
    let y := u.eng.reg (uopRb u.w)
    s.laneSra u (fun r i => addVal r (laneOf x i) (laneOf y i)) (x.2 || y.2)

/-- FSUB. -/
def execUopFsub (c : CoreNo) (b : BankNo) (s : State) : Host.Outcome State Fault Refusal :=
  s.issueUop c.val b.val 0x11 fun u =>
    let x := u.eng.reg (uopRa u.w)
    let y := u.eng.reg (uopRb u.w)
    s.laneSra u (fun r i => addVal r (laneOf x i) (laneOf y i).negate) (x.2 || y.2)

/-- FMUL. -/
def execUopFmul (c : CoreNo) (b : BankNo) (s : State) : Host.Outcome State Fault Refusal :=
  s.issueUop c.val b.val 0x12 fun u => s.lane2 u fmul

/-- FMA. -/
def execUopFma (c : CoreNo) (b : BankNo) (s : State) : Host.Outcome State Fault Refusal :=
  s.issueUop c.val b.val 0x13 fun u =>
    let x := u.eng.reg (uopRa u.w)
    let y := u.eng.reg (uopRb u.w)
    let z := u.eng.reg (uopRc u.w)
    s.laneSra u (fun r i => fmaVal r (laneOf x i) (laneOf y i) (laneOf z i)) (x.2 || y.2 || z.2)

/-- FMAK. -/
def execUopFmak (c : CoreNo) (b : BankNo) (s : State) : Host.Outcome State Fault Refusal :=
  s.issueUop c.val b.val 0x14 fun u =>
    let x := u.eng.reg (uopRa u.w)
    let y := u.eng.reg (uopRb u.w)
    s.laneSra u (fun r i => fmaVal r (laneOf x i) (decode32 (s.bankK u)) (laneOf y i)) (x.2 || y.2)

/-- FMAX. -/
def execUopFmax (c : CoreNo) (b : BankNo) (s : State) : Host.Outcome State Fault Refusal :=
  s.issueUop c.val b.val 0x15 fun u => s.lane2 u fmax

/-- FMIN. -/
def execUopFmin (c : CoreNo) (b : BankNo) (s : State) : Host.Outcome State Fault Refusal :=
  s.issueUop c.val b.val 0x16 fun u => s.lane2 u fmin

/-- FABS. -/
def execUopFabs (c : CoreNo) (b : BankNo) (s : State) : Host.Outcome State Fault Refusal :=
  s.issueUop c.val b.val 0x17 fun u => s.lane1 u fabs

/-- FSQRT. -/
def execUopFsqrt (c : CoreNo) (b : BankNo) (s : State) : Host.Outcome State Fault Refusal :=
  s.issueUop c.val b.val 0x18 fun u => s.lane1 u fsqrt

/-- FRCP: 1 ÷ ra, correctly rounded. -/
def execUopFrcp (c : CoreNo) (b : BankNo) (s : State) : Host.Outcome State Fault Refusal :=
  s.issueUop c.val b.val 0x19 fun u => s.lane1 u (fdiv 0x3F800000)

/-- FRSQ: within 1 ulp. -/
def execUopFrsq (c : CoreNo) (b : BankNo) (s : State) : Host.Outcome State Fault Refusal :=
  s.issueUop c.val b.val 0x1A fun u => s.lane1 u fun x => written (rsqNear 0x1A x)

/-- HFMA: eight BF16 lanes. -/
def execUopHfma (c : CoreNo) (b : BankNo) (s : State) : Host.Outcome State Fault Refusal :=
  s.issueUop c.val b.val 0x1B fun u =>
    let x := u.eng.reg (uopRa u.w)
    let y := u.eng.reg (uopRb u.w)
    let z := u.eng.reg (uopRc u.w)
    let l := (List.zip (lanes16Of x.1) (List.zip (lanes16Of y.1) (lanes16Of z.1))).map fun e => hfma e.1 e.2.1 e.2.2
    let p := x.2 || y.2 || z.2
    s.putEngine u ((u.eng.setReg (uopRd u.w) (ofLanes16 (l.map (·.1))) p).advance 1)
      (if p then 0 else l.foldl (fun g r => g ||| r.2) 0)

/-- The 16 bytes of S with one replaced. -/
def setByte (v : BitVec 128) (i x : Nat) : BitVec 128 := wordOf ((bytesOfNat v.toNat 16).set i (BitVec.ofNat 8 x))

/-- How many of 32 values saturate when quantised. -/
def mxSaturated (f : Fmt) (vs : List W32) (scale : Nat) : Nat :=
  (vs.filter fun v => match decode32 v with
    | .fin n m e => decide (scale ≠ 0xFF) && (f.round .saturate n m (e - (scale - 127 : Int))).2 &&& flOverflow != 0
    | _ => false).length

/-- MXQ: 32 FP32 elements quantised under one scale (R406). -/
def execUopMxq (c : CoreNo) (b : BankNo) (s : State) : Host.Outcome State Fault Refusal :=
  s.issueUop c.val b.val 0x20 fun u =>
    let rs := (List.range 8).map fun i => u.eng.reg (uopRa u.w + i)
    let vs := rs.flatMap fun r => lanesOf r.1
    let p := rs.any (·.2)
    let q := mxQuant (uopFmt u.w) vs
    let bytes := q.1.map (BitVec.ofNat 8)
    let e := (u.eng.setReg (uopRd u.w) (wordOf (bytes.take 16)) p).setReg (uopRd u.w + 1) (wordOf (bytes.drop 16)) p
    let e1 : BankEngine := { e with s := setByte e.s (uopImm8 u.w % 16) q.2.1, sPoison := e.sPoison || p }
    (s.countSat u.core (mxSaturated (uopFmt u.w) vs q.2.1)).putEngine u (e1.advance 1) (if p then 0 else q.2.2)

/-- MXD: 32 elements decoded under one scale (R407). -/
def execUopMxd (c : CoreNo) (b : BankNo) (s : State) : Host.Outcome State Fault Refusal :=
  s.issueUop c.val b.val 0x21 fun u =>
    let x := u.eng.reg (uopRa u.w)
    let y := u.eng.reg (uopRa u.w + 1)
    let p := x.2 || y.2 || u.eng.sPoison
    let scale := ((bytesOfNat u.eng.s.toNat 16).getD (uopImm8 u.w % 16) 0).toNat
    let rs := (bytesOfNat x.1.toNat 16 ++ bytesOfNat y.1.toNat 16).map fun v => mxDecode (uopFmt u.w) scale v.toNat
    let e := (List.range 8).foldl (fun e i => e.setReg (uopRd u.w + i) (ofLanes (((rs.drop (4 * i)).take 4).map (·.1))) p) u.eng
    s.putEngine u (e.advance 1) (if p then 0 else rs.foldl (fun g r => g ||| r.2) 0)

/-- LSUM. -/
def execUopLsum (c : CoreNo) (b : BankNo) (s : State) : Host.Outcome State Fault Refusal :=
  s.issueUop c.val b.val 0x22 fun u =>
    let x := u.eng.reg (uopRa u.w)
    let l := lanesOf x.1
    let p := fadd (l.getD 0 0) (l.getD 1 0)
    let q := fadd (l.getD 2 0) (l.getD 3 0)
    let r := fadd p.1 q.1
    s.putLanes u u.eng [(r.1, p.2 ||| q.2 ||| r.2), (0, 0), (0, 0), (0, 0)] x.2

/-- A bank waits at its group's tree, which starts with the last of them. -/
def State.tree (s : State) (u : Uop) : State := (s.putEngine u { u.eng with inTree := true } 0).treeTry u

/-- GSUM. -/
def execUopGsum (c : CoreNo) (b : BankNo) (s : State) : Host.Outcome State Fault Refusal :=
  s.issueUop c.val b.val 0x28 fun u => s.tree u

/-- GMAX. -/
def execUopGmax (c : CoreNo) (b : BankNo) (s : State) : Host.Outcome State Fault Refusal :=
  s.issueUop c.val b.val 0x29 fun u => s.tree u

/-- The count of a LOOP. -/
def Uop.count (u : Uop) : Nat :=
  if loopSrc u.w = 0 then u.stripe.loop0 else if loopSrc u.w = 1 then u.stripe.loop1 else uopImm14 u.w

/-- LOOP: a count of 0 skips the body (R316). -/
def execUopLoop (c : CoreNo) (b : BankNo) (s : State) : Host.Outcome State Fault Refusal :=
  s.issueUop c.val b.val 0x30 fun u =>
    let n := loopBody u.w
    let e := u.eng
    if u.count = 0 then s.putEngine u (e.advance (n + 1)) 0 else
    s.putEngine u { e with pc := e.pc + 1, loops := (e.pc + 1, e.pc + 1 + n, u.count) :: e.loops, issued := e.issued + 1 } 0

end Sys2Proof.Machine
end

