-- ==== Sys2Proof/Machine/Firmware.lean ====
section
/-!
DEFINITION. Firmware slots, staging and trials, the service lane's Creif transfers, the self-test, and the I3C, MCTP,
DOE and SPDM responders (R46, R73, R123 to R125, R130, R162, R610, R618, R640, R649 to R673).
-/
namespace Sys2Proof.Machine

/-! ## When the supervisor answers (R114, R130, R131, R641) -/

/-- Supervisor firmware runs: from step 7, and in the service-only state. -/
def State.supRuns (s : State) : Bool :=
  s.power.state == .running && (s.boot.halt == 4 || s.boot.halt == 5 || s.boot.halt == 6 || (s.boot.halt == 0 && decide (7 ≤ s.boot.stage)))
/-- The service-only state of R131. -/
def State.serviceOnly (s : State) : Bool := s.boot.halt == 4 || s.boot.halt == 5 || s.boot.halt == 6
/-- The service lane answers, the boot ROM's recovery under NO_FIRMWARE included. -/
def State.laneRuns (s : State) : Bool := s.supRuns || (s.power.state == .running && s.boot.halt == 3)

/-! ## Creif packets (R655, R657) -/

/-- A well-formed packet: VER, length and CRC32C. -/
def creifOk (p : List Byte) : Bool :=
  decide (32 ≤ p.length) && field p 0 1 == 1 && decide (field p 0x0C 2 ≤ 1024) && p.length == 32 + field p 0x0C 2 &&
  field p 0x1C 4 == (crc32c (p.take 28 ++ p.drop 32)).toNat

/-- A packet of the device. -/
def creifPacket (op kind arg session seq status offset total : Nat) (payload : List Byte) : List Byte :=
  let head := bytesOfNat 1 1 ++ bytesOfNat op 1 ++ bytesOfNat kind 1 ++ bytesOfNat arg 1 ++ bytesOfNat session 4 ++ bytesOfNat seq 4 ++
    bytesOfNat payload.length 2 ++ bytesOfNat status 2 ++ bytesOfNat offset 8 ++ bytesOfNat total 4
  head ++ bytesOfNat (crc32c (head ++ payload)).toNat 4 ++ payload

def State.sendCreif (s : State) (p : List Byte) : State := { s with out := s.out ++ [Out.creif p] }
/-- An ACK of a session. -/
def State.creifAckOut (s : State) (kind arg session seq status total : Nat) : State :=
  s.sendCreif (creifPacket 4 kind arg session seq status 0 total [])

/-- Uploads share one session. -/
def isUpload (kind : Nat) : Bool := kind == 1 || kind == 2 || kind == 4 || kind == 5

def State.session (s : State) (id : Nat) : Option Session := s.sup.sessions.find? fun x => x.id == id
def State.setSession (s : State) (x : Session) : State :=
  { s with sup := { s.sup with sessions := s.sup.sessions.map fun y => if y.id == x.id then x else y } }
def State.dropSession (s : State) (id : Nat) : State :=
  { s with sup := { s.sup with sessions := s.sup.sessions.filter fun y => y.id != id } }
def State.setStaging (s : State) (st : StageState) : State := { s with sup := { s.sup with staging := st } }
def State.dump (s : State) (k : Nat) : Dump := tabGet {} s.sup.dumps k
def State.setDump (s : State) (k : Nat) (d : Dump) : State := { s with sup := { s.sup with dumps := tabSet {} s.sup.dumps k d } }

/-- The slot a package is staged into: the one that is not active, or slot A in the boot ROM's recovery (R130, R659). -/
def State.stageSlot (s : State) : Nat := if s.boot.halt = 3 then 0 else 1 - s.sup.bootCtl.activeSlot
/-- A trial is pending or running. -/
def State.onTrialNow (s : State) : Bool := s.boot.onTrial || decide (s.sup.bootCtl.trialSlot < 2)

/-! ## Dump exports (R610, R611, R656) -/

/-- The bytes of a dump slot: header, unit records, data. -/
def Dump.size (d : Dump) : Nat := 64 + d.units.length + d.bytes
def Dump.read (d : Dump) (off n : Nat) : List Byte :=
  let head := d.header ++ d.units
  let n := min n (d.size - off)
  (head.drop off).take n ++ memRead d.data (off - head.length) (n - ((head.drop off).take n).length)

/-- Packets of an export sent while fewer than 32 are unacknowledged. -/
def State.exportMore (s : State) (id : Nat) : Nat → State
  | 0 => s
  | n + 1 =>
    match s.session id with
    | none => s
    | some x =>
      let d := s.dump x.arg
      if d.state ≠ .exporting ∨ x.seqDone + 32 ≤ x.seqSent ∨ d.size ≤ 1024 * x.seqSent then s
      else
        let off := 1024 * x.seqSent
        let s1 := s.sendCreif (creifPacket 2 3 x.arg id (x.seqSent + 1) 0 off 0 (d.read off 1024))
        (s1.setSession { x with seqSent := x.seqSent + 1, sentAt := if x.seqSent = x.seqDone then s.time else x.sentAt }).exportMore id n

/-- A dump slot emptied. -/
def State.freeDump (s : State) (k : Nat) : State := s.setDump k {}
/-- The export session of a slot ended. -/
def State.endExport (s : State) (k : Nat) : State :=
  { s with sup := { s.sup with sessions := s.sup.sessions.filter fun x => !(x.kind == 3 && x.arg == k) } }

/-- DUMP_CANCEL, DUMP_SUSPEND and DUMP_RESUME: the status of R635. -/
def State.dumpCancel (s : State) (k : Nat) : State × Nat :=
  match (s.dump k).state with
  | .held => (s.freeDump k, 0)
  | .exporting => ((s.freeDump k).endExport k, 0)
  | .diapause => ((s.freeDump k).endExport k, 0)
  | _ => (s, 7)
def State.dumpSuspend (s : State) (k : Nat) : State × Nat :=
  if (s.dump k).state = .exporting then (s.setDump k { s.dump k with state := .diapause }, 0) else (s, 7)
def State.dumpResume (s : State) (k : Nat) : State × Nat :=
  if (s.dump k).state = .diapause then
    let s1 := s.setDump k { s.dump k with state := .exporting }
    let ids := (s1.sup.sessions.filter fun x => x.kind == 3 && x.arg == k).map (·.id)
    (ids.foldl (fun s id => match s.session id with
      | some x => (s.setSession { x with seqSent := x.seqDone, resends := 0 }).exportMore id 32
      | none => s) s1, 0)
  else (s, 7)

/-! ## CREIF_BEGIN -/

/-- The refusal of a BEGIN; 0 where it is accepted. -/
def State.beginStatus (s : State) (kind arg total : Nat) : Nat :=
  if isUpload kind && s.sup.sessions.any (fun x => isUpload x.kind && !x.ended) then 1
  else if s.boot.halt = 3 ∧ kind ≠ 1 then 2
  else match kind with
  | 1 => if s.onTrialNow || s.sup.staging != .free then 2 else if 50331648 < total then 3 else 0
  | 2 => if total < 7501 ∨ 65536 < total then 3 else 0
  | 3 => if 3 < arg ∨ (s.dump arg).state ≠ .held then 2 else if total ≠ 0 then 3 else 0
  | 4 => if s.entry 0x8000 1 = 0 then 2 else if total ≠ 0 then 3 else 0
  | 5 => if total ≠ 32 then 3 else 0
  | _ => 2

/-- The out-of-service state cleared: admission opens at once, or at step 9 of a warm reset in progress (R618, R626). -/
def State.clearOos (s : State) : State :=
  let s1 := s.dictSet (dk 0x8000 1) 0
  { s1 with persist := tabDel s1.persist (dk 0x8000 1), sup := { s1.sup with keptWarm := [] }
            boot := { s1.boot with admitOpen := s1.boot.admitOpen || !s.deviceReset } }

/-- What an accepted BEGIN does. -/
def State.creifStart (s : State) (kind arg total : Nat) : State :=
  let id := s.sup.nextSession
  let s1 : State := { s with sup := { s.sup with nextSession := id + 1 } }
  if kind = 4 then (s1.clearOos.count 0xA030 2 1).creifAckOut 4 arg id 0 0 0
  else
    let s2 : State := { s1 with sup := { s1.sup with sessions := s1.sup.sessions ++
      [{ id := id, kind := kind, arg := arg, total := total, lastValid := s.time }] } }
    match kind with
    | 1 =>
      let s3 := ((s2.invalidateSlot s2.stageSlot).setStaging .receiving).dictSet (dk 0xA007 2) 0
      ({ s3 with sup := { s3.sup with stageSession := some id } }).creifAckOut 1 arg id 0 0 0
    | 3 =>
      let s3 := (s2.setDump arg { s2.dump arg with state := .exporting }).creifAckOut 3 arg id 0 0 (s2.dump arg).size
      s3.exportMore id 32
    | _ => s2.creifAckOut kind arg id 0 0 0

/-- CREIF_BEGIN. -/
def State.creifBegin (s : State) (p : List Byte) : State :=
  if !s.laneRuns then s
  else if !creifOk p then s.count 0xA030 3 1
  else
    let kind := field p 2 1
    let arg := field p 3 1
    let st := s.beginStatus kind arg (field p 0x18 4)
    if st ≠ 0 then s.creifAckOut kind arg 0 0 st 0 else s.creifStart kind arg (field p 0x18 4)

/-- The packet is one of an operation. -/
def creifIs (p : List Byte) (op : Nat) : Bool := !creifOk p || field p 1 1 == op

def execCreifBegin (packet : List Byte) (s : State) : Host.Outcome State Fault Refusal :=
  when s (creifIs packet 1) (s.creifBegin packet)

/-! ## CREIF_DATA -/

/-- The packets now in order, with their bytes, moved out of those held ahead. -/
def Session.inOrder (x : Session) : Nat → Session × List Byte
  | 0 => (x, [])
  | n + 1 =>
    match tabFind x.ahead (x.seqDone + 1) with
    | none => (x, [])
    | some bs =>
      let r := Session.inOrder { x with seqDone := x.seqDone + 1, ahead := tabDel x.ahead (x.seqDone + 1) } n
      (r.1, bs ++ r.2)

/-- A DATA packet of an open upload. -/
def State.takeData (s : State) (x : Session) (p : List Byte) : State :=
  let seq := field p 8 4
  let x0 : Session := { x with lastValid := s.time }
  if x.kind = 1 ∧ s.sup.staging = .diapause then (s.setSession x0).creifAckOut x.kind x.arg x.id x.seqDone 0xB 0
  else if seq ≤ x.seqDone then (s.setSession x0).creifAckOut x.kind x.arg x.id x.seqDone 0 0
  else if x.seqDone + 32 < seq ∨ field p 0x10 8 ≠ (seq - 1) * 1024 ∨ x.total < (seq - 1) * 1024 + field p 0x0C 2 then s.setSession x0
  else
    let off := 1024 * x.seqDone
    let r := Session.inOrder { x0 with ahead := tabPut x0.ahead seq (p.drop 32) } 33
    let s1 := if x.kind = 1 then
        let s1 : State := { s with flash := flashWrite s.flash (slotBase s.stageSlot + off) r.2 }
        (s1.setSession r.1).dictSet (dk 0xA007 2) (off + r.2.length)
      else s.setSession { r.1 with buffer := r.1.buffer ++ r.2 }
    s1.creifAckOut x.kind x.arg x.id r.1.seqDone 0 0

/-- CREIF_DATA: acknowledged once written to flash; a failed write answers FLASH. -/
def State.creifData (s : State) (p : List Byte) (flashOk : Bool) : State :=
  if !s.laneRuns then s
  else if !creifOk p then s.count 0xA030 3 1
  else match s.session (field p 4 4) with
  | none => s
  | some x =>
    if !isUpload x.kind || x.ended then s
    else if !flashOk then (s.setSession { x with lastValid := s.time }).creifAckOut x.kind x.arg x.id x.seqDone 9 0
    else s.takeData x p

def execCreifData (packet : List Byte) (flashOk : Bool) (s : State) : Host.Outcome State Fault Refusal :=
  when s (creifIs packet 2) (s.creifData packet flashOk)

/-! ## CREIF_END and STAGE_VERIFY_DONE -/

/-- A PROFILE verified and written into the copy that is not in force (R123, R125). DESIGN CHOICE (log 89): with no profile in
force it goes to copy 1, since `profileCopy` is 0 then, and a failed flash write leaves the copy's old contents. -/
def State.putProfile (s : State) (bs : List Byte) (v : Verify) : State × Nat :=
  let k := 1 - s.boot.profileCopy
  if !s.fuses.profileKeyFused then (s, 8)
  else if !profileForm bs s.enabledCount then (s, 7)
  else if !s.profileOk bs v.ecdsa v.mldsa then (s, 5)
  else if !v.flashOk then (s, 9)
  else
    ({ s with flash := flashWrite (flashErase s.flash (profileBase k) 65536) (profileBase k) bs
              phys := { s.phys with copyEcdsa := tabSet false s.phys.copyEcdsa k v.ecdsa, copyMldsa := tabSet false s.phys.copyMldsa k v.mldsa } }, 0)

/-- A PROVISION: both flags take effect only when both pass (R662). -/
def State.provision (s : State) (arg : Nat) (bs : List Byte) : State × Nat :=
  if (bitAt arg 0 && s.fuses.profileKeyFused) || (bitAt arg 1 && s.fuses.dualSig) then (s, 8)
  else
    let f := s.fuses
    let f1 : Fuses := if bitAt arg 0 then { f with profileKeyHash := bs.take 32, profileKeyFused := true } else f
    let f2 : Fuses := if bitAt arg 1 then { f1 with dualSig := true } else f1
    ({ s with fuses := f2 }, 0)

/-- An upload session ended with a status. -/
def State.finishUpload (s : State) (x : Session) (status : Nat) : State :=
  let s1 := s.dropSession x.id
  let s2 := if status = 0 then s1.count 0xA030 2 1 else s1
  s2.creifAckOut x.kind x.arg x.id x.seqDone status 0

/-- What an END does, by kind. -/
def State.creifFinish (s : State) (x : Session) (v : Verify) : State :=
  let whole := decide (x.total ≤ 1024 * x.seqDone)
  match x.kind with
  | 1 =>
    if s.sup.staging ≠ .receiving then s
    else if !whole then ((s.setStaging .free).dictSet (dk 0xA007 6) 4).finishUpload x 4
    else (s.setSession { x with ended := true, lastValid := s.time }).setStaging .verifying
  | 2 =>
    if !whole then s.finishUpload x 7 else
    let r := s.putProfile (x.buffer.take x.total) v
    r.1.finishUpload x r.2
  | 5 =>
    if !whole then s.finishUpload x 4 else
    let r := s.provision x.arg x.buffer
    r.1.finishUpload x r.2
  | _ => s

/-- CREIF_END. -/
def State.creifEnd (s : State) (p : List Byte) (v : Verify) : State :=
  if !s.laneRuns then s
  else if !creifOk p then s.count 0xA030 3 1
  else match s.session (field p 4 4) with
  | none => s
  | some x => if x.ended then s else s.creifFinish x v

def execCreifEnd (packet : List Byte) (v : Verify) (s : State) : Host.Outcome State Fault Refusal :=
  when s (creifIs packet 3) (s.creifEnd packet v)

/-- STAGE_VERIFY_DONE (R651, R659): STAGED, or FREE with the status that failed. -/
def State.stageVerified (s : State) (v : Verify) : State :=
  let k := s.stageSlot
  let st := if !v.flashOk then 9 else s.slotStatus k v.ecdsa v.mldsa
  let s1 : State := { s with phys := { s.phys with
    slotEcdsa := tabSet false s.phys.slotEcdsa k v.ecdsa, slotMldsa := tabSet false s.phys.slotMldsa k v.mldsa } }
  let s2 := (s1.setStaging (if st = 0 then .staged else .free)).dictSet (dk 0xA007 6) st
  let s3 := if st = 0 then (s2.slotEntries k).event 0x0820 0 s2.platformFns else s2.invalidateSlot k
  match s.sup.stageSession.bind s.session with
  | some x => s3.finishUpload x st
  | none => s3

def execStageVerifyDone (v : Verify) (s : State) : Host.Outcome State Fault Refusal :=
  when s (s.sup.staging == .verifying) (s.stageVerified v)

/-! ## CREIF_ACK, CREIF_ABORT and the session timers -/

/-- CREIF_ACK of an export: packets freed, the next sent, and the slot FREE once every byte is acknowledged. -/
def State.exportAck (s : State) (p : List Byte) : State :=
  if !s.laneRuns then s
  else if !creifOk p then s.count 0xA030 3 1
  else match s.session (field p 4 4) with
  | none => s
  | some x =>
    let seq := field p 8 4
    if x.kind ≠ 3 then s
    else if seq ≤ x.seqDone ∨ x.seqSent < seq then s.setSession { x with lastValid := s.time }
    else
      let s1 := s.setSession { x with seqDone := seq, resends := 0, sentAt := s.time, lastValid := s.time }
      if (s.dump x.arg).size ≤ 1024 * seq then ((s1.dropSession x.id).freeDump x.arg).count 0xA030 2 1
      else s1.exportMore x.id 32

def execCreifAck (packet : List Byte) (s : State) : Host.Outcome State Fault Refusal :=
  when s (creifIs packet 4) (s.exportAck packet)

/-- A session aborted: staging returns to FREE, an export slot to HELD. -/
def State.abortSession (s : State) (x : Session) : State :=
  let s1 := s.dropSession x.id
  if x.kind = 1 then s1.setStaging .free
  else if x.kind = 3 then s1.setDump x.arg { s1.dump x.arg with state := .held }
  else s1

/-- The session rests in diapause. -/
def State.resting (s : State) (x : Session) : Bool :=
  (x.kind == 1 && s.sup.staging == .diapause) || (x.kind == 3 && (s.dump x.arg).state == .diapause)

/-- CREIF_ABORT. -/
def State.creifAbort (s : State) (p : List Byte) : State :=
  if !s.laneRuns then s
  else if !creifOk p then s.count 0xA030 3 1
  else match s.session (field p 4 4) with
  | none => s
  | some x => if x.ended || s.resting x then s else s.abortSession x

def execCreifAbort (packet : List Byte) (s : State) : Host.Outcome State Fault Refusal :=
  when s (creifIs packet 5) (s.creifAbort packet)

/-- CREIF_RESEND: the oldest unacknowledged packet again, or the session's end after 50 of them. -/
def State.creifResend (s : State) (id : Nat) : State :=
  match s.session id with
  | none => s
  | some x =>
    let d := s.dump x.arg
    if x.kind ≠ 3 ∨ d.state ≠ .exporting ∨ x.seqSent = x.seqDone ∨ s.time < x.sentAt + 20000 then s
    else if 50 ≤ x.resends then s.abortSession x
    else
      let off := 1024 * x.seqDone
      (s.sendCreif (creifPacket 2 3 x.arg id (x.seqDone + 1) 0 off 0 (d.read off 1024))).setSession
        { x with resends := x.resends + 1, sentAt := s.time }

def execCreifResend (session : Nat) (s : State) : Host.Outcome State Fault Refusal := .next (s.creifResend session)

/-- CREIF_SESSION_TIMEOUT: no valid packet for 10,000,000 device µs. -/
def execCreifSessionTimeout (session : Nat) (s : State) : Host.Outcome State Fault Refusal :=
  .next (match s.session session with
  | none => s
  | some x => if x.ended || s.resting x || decide (s.time < x.lastValid + 10000000) then s
    else (s.abortSession x).creifAckOut x.kind x.arg x.id x.seqDone 0xA 0)

/-! ## Trials and staging commands (R658, R660, R662, R665, R666): the state, and the status of R635 -/

/-- FW_ACTIVATE. -/
def State.fwActivate (s : State) : State × Nat :=
  let k := s.stageSlot
  if s.sup.staging ≠ .staged then (s, 8)
  else if securityVer (s.manifest k) < s.fuses.rollback then (s.dictSet (dk 0xA007 6) 6, 7)
  else ((s.setStaging .free).commitBootCtl { s.sup.bootCtl with trialSlot := k, trialLeft := 3, expired := false }, 0)

/-- FW_CONFIRM. -/
def State.fwConfirm (s : State) : State × Nat :=
  if !s.boot.onTrial ∨ s.entry 0xA005 1 ≠ 2 then (s, 7)
  else
    let k := s.boot.fwSlot
    let s1 := s.commitBootCtl { s.sup.bootCtl with activeSlot := k, trialSlot := 0xFF, trialLeft := 0 }
    let s2 := s1.blowTo (securityVer (s1.manifest k))
    let s3 : State := { s2 with boot := { s2.boot with onTrial := false } }
    (s3.event 0x0822 s3.fuses.rollback s3.platformFns, 0)

/-- FW_TRIAL_ABANDON. -/
def State.fwAbandon (s : State) : State × Nat :=
  if !s.onTrialNow then (s, 7)
  else
    let s1 := s.commitBootCtl { s.sup.bootCtl with trialSlot := 0xFF, trialLeft := 0 }
    ({ s1 with boot := { s1.boot with onTrial := false } }, 0)

/-- STAGE_SUSPEND, STAGE_RESUME and STAGE_CANCEL. -/
def State.stageSuspend (s : State) : State × Nat :=
  if s.sup.staging = .receiving then (s.setStaging .diapause, 0) else (s, 8)
def State.stageResume (s : State) : State × Nat :=
  if s.sup.staging = .diapause then (s.setStaging .receiving, 0) else (s, 8)
def State.stageCancel (s : State) : State × Nat :=
  if s.sup.staging = .receiving ∨ s.sup.staging = .staged ∨ s.sup.staging = .diapause then
    let s1 := s.setStaging .free
    (match s.sup.stageSession with | some id => s1.dropSession id | none => s1, 0)
  else (s, 8)

/-! ## Self-test (R664) -/

/-- SELFTEST_DONE. -/
def execSelftestDone (pass : Bool) (detail : W32) (s : State) : Host.Outcome State Fault Refusal :=
  when s (s.entry 0xA005 1 == 1)
    (if pass then s.dictSet (dk 0xA005 1) 2
     else ((s.dictSet (dk 0xA005 1) 3).dictSet (dk 0xA005 2) detail.toNat).event 0x0824 detail.toNat s.platformFns)

/-! ## I3C (R46, R73, R130) -/

/-- The I3C target drives the bus: outside a cold reset, whose pins are high-impedance (R66), and under the TRIM_CRC halt, where it
runs beside the always-on domain (R130). -/
def State.i3cRuns (s : State) : Bool := s.power.state == .running || (s.powered && s.boot.halt == 1)

/-- ENTDAA. -/
def execEntdaa (addr : BitVec 7) (s : State) : Host.Outcome State Fault Refusal :=
  when s (s.i3cRuns && s.sup.i3cDynamic.isNone) { s with sup := { s.sup with i3cDynamic := some addr } }

/-- SETDASA, to the static address 0x48 + SLOT_ID. -/
def execSetdasa (static dynamic : BitVec 7) (s : State) : Host.Outcome State Fault Refusal :=
  when s (s.i3cRuns && static.toNat == 0x48 + s.boot.slotId.val && s.sup.i3cDynamic.isNone)
    { s with sup := { s.sup with i3cDynamic := some dynamic } }

/-- GETSTATUS: bits [11:8] the halt code, bits [15:12] the boot stage. -/
def execGetstatus (s : State) : Host.Outcome State Fault Refusal :=
  when s s.i3cRuns { s with out := s.out ++ [Out.i3c (BitVec.ofNat 16 (2 ^ 8 * s.boot.halt + 2 ^ 12 * s.boot.stage))] }

/-! ## MCTP control messages (R640) -/

/-- A control reply, announced by an in-band interrupt (R73). -/
def State.mctpReply (s : State) (bs : List Byte) : State := { s with out := s.out ++ [Out.mctp bs, Out.i3cIbi] }

/-- SET_ENDPOINT_ID: the two reserved endpoint IDs are refused. -/
def execSetEndpointId (eid : Byte) (s : State) : Host.Outcome State Fault Refusal :=
  when s s.supRuns
    (if eid = 0 ∨ eid = 0xFF then s.mctpReply [2#8]
     else (s.dictSet (dk 0x2060 5) eid.toNat).mctpReply [0#8, 0#8, eid, 0#8])

/-- GET_ENDPOINT_ID. -/
def execGetEndpointId (s : State) : Host.Outcome State Fault Refusal :=
  when s s.supRuns (s.mctpReply [0#8, BitVec.ofNat 8 (s.entry 0x2060 5), 0#8, 0#8])

/-- GET_MCTP_VERSION_SUPPORT: version 1.3.1 of the base and of the types of R640; 0x80 for another type. -/
def execGetMctpVersionSupport (msgType : Byte) (s : State) : Host.Outcome State Fault Refusal :=
  when s s.supRuns
    (if msgType = 0xFF ∨ msgType = 0 ∨ msgType = 5 ∨ msgType = 0x7E then s.mctpReply [0#8, 1#8, 0xF1#8, 0xF3#8, 0xF1#8, 0#8]
     else s.mctpReply [0x80#8])

/-- GET_MESSAGE_TYPE_SUPPORT: types 0x00, 0x05 and 0x7E. -/
def execGetMessageTypeSupport (s : State) : Host.Outcome State Fault Refusal :=
  when s s.supRuns (s.mctpReply [0#8, 3#8, 0#8, 5#8, 0x7E#8])

/-- GET_VENDOR_DEFINED_SUPPORT: one set, of the PCI vendor ID of entry 0x1000:01, most significant byte first. -/
def execGetVendorDefinedSupport (selector : Byte) (s : State) : Host.Outcome State Fault Refusal :=
  let v := s.entry 0x1000 1
  when s s.supRuns
    (if selector = 0 then s.mctpReply ([0#8, 0xFF#8, 0#8] ++ (bytesOfNat v 2).reverse ++ [0#8, 0#8]) else s.mctpReply [2#8])

/-! ## DOE (R162) -/

/-- DOE_DISCOVERY: vendor ID 0x0001 with DOE Discovery at index 0 and CMA/SPDM at index 1. -/
def execDoeDiscovery (p : PortNo) (index : Byte) (s : State) : Host.Outcome State Fault Refusal :=
  let k := fnKey p.val 0
  let data := if index = 0 then [1#8, 0#8, 0#8, 1#8] else if index = 1 then [1#8, 0#8, 1#8, 0#8] else [0xFF#8, 0xFF#8, 0xFF#8, 0#8]
  when s (s.hostOpen && s.fnPresent k) { s with out := s.out ++ [Out.doe k data] }

/-! ## SPDM 1.3 (R667 to R670) -/

/-- A transport instance answers: MCTP, or the DOE mailbox of a present PF. -/
def State.spdmRuns (s : State) (t : Fin 3) : Bool :=
  if t.val = 0 then s.supRuns else s.hostOpen && s.fnPresent (fnKey (t.val - 1) 0)

def State.spdmOf (s : State) (t : Nat) : Spdm := tabGet {} s.sup.spdm t
/-- A message of a transport: one over MCTP waits on I3C and raises an in-band interrupt (R73). -/
def spdmOut (t : Nat) (bs : List Byte) : List Out := Out.spdm t bs :: (if t = 0 then [Out.i3cIbi] else [])
/-- A reply sent, and the connection's transcript extended by the exchange. -/
def State.spdmReply (s : State) (t : Nat) (c : Spdm) (request reply : List Byte) : State :=
  let s1 := s.count 0xA030 1 1
  { s1 with out := s1.out ++ spdmOut t reply
            sup := { s1.sup with spdm := tabSet {} s1.sup.spdm t { c with transcript := c.transcript ++ request ++ reply } } }
/-- ERROR. -/
def State.spdmError (s : State) (t code : Nat) : State :=
  let s1 := s.count 0xA030 1 1
  { s1 with out := s1.out ++ spdmOut t [0x13#8, 0x7F#8, BitVec.ofNat 8 code, 0#8] }

/-- The certificate chain's bytes (R668). -/
def State.certChain (s : State) : List Byte :=
  let v := s.entryValue 0xA020 2
  bytesOfNat v (Nat.log2 v / 8 + 1)

/-- GET_VERSION: SPDM 1.3; a new connection. -/
def execGetVersion (t : Fin 3) (request : List Byte) (s : State) : Host.Outcome State Fault Refusal :=
  when s (s.spdmRuns t)
    (s.spdmReply t.val { version := true } request ([0x10#8, 4#8, 0#8, 0#8, 0#8, 1#8] ++ bytesOfNat 0x1300 2))

/-- GET_CAPABILITIES: CT exponent 16, CERT, CHAL and signed MEAS; its transfer sizes are not stated (log 1). -/
def execGetCapabilities (t : Fin 3) (request : List Byte) (s : State) : Host.Outcome State Fault Refusal :=
  let c := s.spdmOf t.val
  let r := s.fresh
  when s (s.spdmRuns t)
    (if !c.version then s.spdmError t.val 4
     else r.2.spdmReply t.val { c with caps := true } request
      ([0x13#8, 0x61#8, 0#8, 0#8, 0#8, 16#8, 0#8, 0#8] ++ bytesOfNat 0x16 4 ++ bytesOfNat r.1.toNat 8))

/-- NEGOTIATE_ALGORITHMS: ECDSA P-256 and SHA-256. -/
def execNegotiateAlgorithms (t : Fin 3) (request : List Byte) (s : State) : Host.Outcome State Fault Refusal :=
  let c := s.spdmOf t.val
  when s (s.spdmRuns t)
    (if !c.caps then s.spdmError t.val 4
     else s.spdmReply t.val { c with algs := true } request
      ([0x13#8, 0x63#8, 0#8, 0#8] ++ bytesOfNat 36 2 ++ [1#8, 0#8] ++ bytesOfNat 2 4 ++ bytesOfNat 0x10 4 ++ bytesOfNat 1 4 ++
        List.replicate 16 0#8))

/-- GET_DIGESTS: slot 0, or no slot when the chain is corrupt. -/
def execGetDigests (t : Fin 3) (request : List Byte) (s : State) : Host.Outcome State Fault Refusal :=
  let c := s.spdmOf t.val
  when s (s.spdmRuns t)
    (if !c.algs then s.spdmError t.val 4
     else if s.sup.certOk then s.spdmReply t.val c request ([0x13#8, 1#8, 1#8, 1#8] ++ Sha.sha256 s.certChain)
     else s.spdmReply t.val c request [0x13#8, 1#8, 1#8, 0#8])

/-- GET_CERTIFICATE: a portion of the chain of slot 0. -/
def execGetCertificate (t : Fin 3) (request : List Byte) (s : State) : Host.Outcome State Fault Refusal :=
  let c := s.spdmOf t.val
  let chain := s.certChain
  let off := field request 4 2
  let part := (chain.drop off).take (field request 6 2)
  when s (s.spdmRuns t)
    (if !c.algs then s.spdmError t.val 4
     else if !s.sup.certOk then s.spdmError t.val 5
     else if field request 2 1 ≠ 0 ∨ chain.length ≤ off then s.spdmError t.val 1
     else s.spdmReply t.val c request ([0x13#8, 2#8, 0#8, 0#8] ++ bytesOfNat part.length 2 ++
      bytesOfNat (chain.length - off - part.length) 2 ++ part))

/-- The digest of every measurement block, in index order (R670). -/
def State.measurementBlocks (s : State) : List Byte :=
  (List.range 9).flatMap fun j =>
    [BitVec.ofNat 8 (j + 1), 1#8] ++ bytesOfNat 35 2 ++ [BitVec.ofNat 8 j] ++ bytesOfNat 32 2 ++ tabGet [] s.boot.measurements (j + 1)

/-- CHALLENGE: a signed response over the transcript; nonce and signature are free values (log 1). -/
def execChallenge (t : Fin 3) (request : List Byte) (s : State) : Host.Outcome State Fault Refusal :=
  let c := s.spdmOf t.val
  let nonce := (List.range 32).map fun i => Config.freeByte s.freeCtr i
  let s1 : State := { s with freeCtr := s.freeCtr + 1 }
  let sum := if field request 3 1 = 0 then [] else Sha.sha256 s.measurementBlocks
  let body := [0x13#8, 3#8, 0#8, 1#8] ++ Sha.sha256 s.certChain ++ nonce ++ sum ++ [0#8, 0#8] ++ (request.drop 36).take 8
  when s (s.spdmRuns t)
    (if !c.algs then s.spdmError t.val 4
     else if field request 2 1 ≠ 0 ∨ !s.sup.certOk then s.spdmError t.val 1
     else s1.spdmReply t.val { c with transcript := [] } request (body ++ Config.signature 1 (c.transcript ++ request ++ body)))

/-- GET_MEASUREMENTS: the number of blocks, one block, or all of them; signed when asked to. -/
def execGetMeasurements (t : Fin 3) (request : List Byte) (s : State) : Host.Outcome State Fault Refusal :=
  let c := s.spdmOf t.val
  let op := field request 3 1
  let nonce := (List.range 32).map fun i => Config.freeByte s.freeCtr i
  let s1 : State := { s with freeCtr := s.freeCtr + 1 }
  let all := s.measurementBlocks
  let rec_ := if op = 0 then [] else if op = 0xFF then all else (all.drop (39 * (op - 1))).take 39
  let n := if op = 0 then 0 else if op = 0xFF then 9 else 1
  let body := [0x13#8, 0x60#8, BitVec.ofNat 8 (if op = 0 then 9 else 0), 0#8, BitVec.ofNat 8 n] ++ bytesOfNat rec_.length 3 ++ rec_ ++
    nonce ++ [0#8, 0#8]
  when s (s.spdmRuns t)
    (if !c.algs then s.spdmError t.val 4
     else if 9 < op ∧ op ≠ 0xFF then s.spdmError t.val 1
     else if bitAt (field request 2 1) 0 then
      s1.spdmReply t.val { c with transcript := [] } request (body ++ Config.signature 2 (c.transcript ++ request ++ body))
     else s1.spdmReply t.val c request body)

end Sys2Proof.Machine
end

