-- ==== Sys2Proof/Machine/Priby.lean ====
section
/-!
DEFINITION. The Priby management dictionary: packets, statuses, kept replies, change counters, mirrored entries, writes
and commands (R49, R88, R362, R621 to R623, R627 to R648).
-/
namespace Sys2Proof.Machine

/-! ## Packets (R633) -/

/-- A message carries exactly one packet. -/
def pribyOk (p : List Byte) : Bool :=
  decide (40 ≤ p.length) && field p 0 1 == 1 && decide (field p 0x0C 2 ≤ 1024) && p.length == 40 + field p 0x0C 2

/-- A packet's operation on an entry. -/
def pribyIs (r : PribyReq) (op index sub : Nat) : Bool :=
  pribyOk r.bytes && field r.bytes 1 1 == op && field r.bytes 4 2 == index && field r.bytes 6 1 == sub

/-- RSVD, STATUS and the fields of a reply are 0 in a request. -/
def pribyReserved (p : List Byte) : Bool := field p 0x0E 2 != 0 || field p 0x10 24 != 0

/-- The entry a request names: a status of R635, and the entry (R627, R641). -/
def State.findEntry (s : State) (index sub : Nat) : Nat × Option Entry :=
  if !entryTable.any (·.index == index) then (1, none)
  else
    let e := if sub = 0 then some ({ index := index, lo := 0, hi := 0, ty := .u8, access := .ro, dflt := 0, persistent := false,
                                     size := 0, rmin := 0, rmax := 0 } : Entry) else entryAt index sub
    match e with
    | none => (2, none)
    | some e =>
      let early := s.serviceOnly || decide (s.boot.stage < 10)
      let range := index / 4096
      if early && !([1, 2, 4, 8, 0xA].contains range || index == 0x6050 || index == 0x6051 ||
          (s.serviceOnly && index == 0x9000 && sub == 1)) then (8, none)
      else (0, some e)

/-- The entries that mirror a unit's register (R621). -/
def mirrored (index : Nat) : Bool :=
  [0x2035, 0x3010, 0x3011, 0x3012, 0x3013, 0x3030, 0x3031, 0x3032, 0x3040, 0x3041, 0x3042, 0x3043, 0x3044, 0x3045,
   0x4011, 0x4012, 0x5071, 0x5072, 0x6011, 0x6020].contains index

/-- The unit of a mirrored entry is held in reset. -/
def State.unitReset (s : State) (index sub : Nat) : Bool :=
  let i := sub - 1
  mirrored index && decide (sub ≠ 0) &&
  (if index = 0x6011 ∨ index = 0x6020 then s.inReset .nic
   else if index = 0x4011 ∨ index = 0x4012 ∨ index = 0x2035 then s.inReset (.core (Fin.ofNat 16 i))
   else s.inReset (.partition (Fin.ofNat 16 i)))

/-- Value bytes of an entry. -/
def Entry.bytes (e : Entry) (v : Nat) : Nat :=
  if e.ty.bytes ≠ 0 then e.ty.bytes else if e.size ≠ 0 then e.size else Nat.log2 v / 8 + 1

/-- A mirror brought up to its unit; MIRROR_SEQ rises when it changes (R621, log 16). -/
def State.touchMirror (s : State) (index sub : Nat) : State :=
  let k := dk index sub
  let v := s.entryValue index sub
  if !mirrored index ∨ sub = 0 ∨ s.sup.lag.any (fun l => l.1 == k) ∨ tabGet 0 s.sup.mirrorVal k = v then s
  else { s with sup := { s.sup with mirrorVal := tabSet 0 s.sup.mirrorVal k v,
                                    mirrorSeq := tabSet 0 s.sup.mirrorSeq k ((tabGet 0 s.sup.mirrorSeq k + 1) % 2 ^ 32) } }

/-- What the dictionary shows of an entry: a lagging mirror's value, or the entry's. -/
def State.shown (s : State) (index sub : Nat) : Nat :=
  match s.sup.lag.find? fun l => l.1 == dk index sub with
  | some l => l.2.1
  | none => s.entryValue index sub

/-! ## Persistent values (R631) -/

/-- One entry's value committed to flash. -/
def State.commitEntry (s : State) (k : Nat) : State :=
  let v := tabFind s.dict k
  let s1 : State := { s with persist := match v with | some x => tabPut s.persist k x | none => tabDel s.persist k }
  s1.count 0x2060 6 1

/-- Every P value committed. -/
def State.commitAll (s : State) : State :=
  let s1 := s.count 0x2060 6 1
  { s1 with persist := s1.dict.filter fun e => dictPersistent e.1 }

/-- PERSIST_COMMIT. -/
def execPersistCommit (s : State) : Host.Outcome State Fault Refusal :=
  when s s.supRuns (let s1 := s.commitAll
    { s1 with sup := { s1.sup with commitFrom := s.time } })

/-! ## CORE_STATE (R88) -/

/-- A block's answer to a request: refused, or the block's next state. -/
def State.blockRequest (s : State) (c b want : Nat) : Bool :=
  let now := (s.block b).st.code
  s.coreUsable c && !(s.core c).retiring &&
  (want == now ||
    !((want == 2 || want == 3) && (s.blockHeld b || s.blockBusy b)) && !(want == 3 && (s.core c).holder.isSome))

/-- An accepted request's effect on a block. -/
def State.blockEnter (s : State) (b want : Nat) : State :=
  let k := s.block b
  let goal : PowerState := if want = 0 then .active else if want = 1 then .idle else if want = 2 then .sleep else .off
  if k.st.code = want then s
  else match k.st with
  | .off => s.setBlock b { k with leavingOff := true, after := goal }
  | .sleep => if want = 3 then s.setBlock b { st := .off, since := s.time } else s.wakeTo b goal
  | _ => if want = 1 ∧ s.blockBusy b then s else s.setBlock b { st := goal, since := s.time }

/-- A request for both engines of a core: refused when either refuses. -/
def State.coreRequest (s : State) (c v : Nat) : State × Nat :=
  let m := v % 4
  let w := v / 4 % 4
  if s.blockRequest c (matrixBlock c) m && s.blockRequest c (vectorBlock c) w then
    (((s.blockEnter (matrixBlock c) m).blockEnter (vectorBlock c) w).pllFollow c, 0)
  else (s.count 0x2050 4 1, 7)

/-! ## Writes (R630, R631, R634) -/

/-- The range of a row that depends on another entry. -/
def State.rangeOk (s : State) (e : Entry) (sub v : Nat) : Bool :=
  decide (e.rmin ≤ v) && decide (v ≤ e.rmax) &&
  (match e.index with
   | 0x6000 => decide (v ≤ if sub = 1 then 3 else 1)
   | 0x6010 =>
     if sub = 2 then decide (4 * v ≤ s.entry 0x6010 3)
     else if sub = 3 then decide (4 * s.entry 0x6010 2 ≤ v)
     else if sub = 5 then decide (v ≤ s.entry 0x6010 6)
     else if sub = 6 then decide (s.entry 0x6010 5 ≤ v)
     else true
   | 0x8010 => sub != 3 || decide (12000 ≤ v)
   | 0x2032 => let old := s.entry 0x2032 sub; old &&& v == old
   | _ => true)

/-- A write of an accepted length: the status, and the state. -/
def State.putEntry (s : State) (e : Entry) (sub v : Nat) (commitOk : Bool) : State × Nat :=
  if e.index = 0x4011 then s.coreRequest (sub - 1) v
  else if !s.rangeOk e sub v then (s, 6)
  else if e.persistent && !commitOk then (s, 10)
  else
    let s1 := s.dictSet (dk e.index sub) v
    (if e.persistent then s1.commitEntry (dk e.index sub) else s1, 0)

/-! ## Commands (R643 to R646) -/

/-- What follows a reply. -/
structure After where
  reset : Option (ResetTarget × Bool) := none
  /-- The reply waits for the retirement of this core. -/
  hold : Option Nat := none
deriving DecidableEq, Repr

/-- RESET: its target, or the status that refuses it. -/
def State.resetArg (s : State) (arg : Nat) : Nat × ResetTarget :=
  let kind := arg % 256
  let t := bits arg 8 16
  if arg / 2 ^ 24 ≠ 0 ∨ !([1, 2, 4, 5, 6].contains kind) then (6, .cold)
  else if s.serviceOnly && kind != 1 then (8, .cold)
  else match kind with
  | 1 => (0, .cold)
  | 2 => (0, .warm)
  | 4 => if t < 16 ∧ (s.slotFn t).isSome then (0, .partition (Fin.ofNat 16 t)) else (6, .cold)
  | 5 => if t < 16 ∧ s.coreUsable t then (0, .core (Fin.ofNat 16 t)) else (6, .cold)
  | _ => (0, .nic)

/-- RESTORE_DEFAULTS: every RW P entry but the addresses; the change counter of each entry it changes rises. -/
def State.restoreDefaults (s : State) : State :=
  let keep := fun (k : Nat) => decide (0x6001 ≤ k / 256 ∧ k / 256 ≤ 0x6006) || k / 256 == 0x6050 || k / 256 == 0x6051
  let go := (s.dict.map (·.1)).filter fun k => !keep k && dictPersistent k &&
    (match entryAt (k / 256) (k % 256) with | some e => e.access == .rw | none => false)
  let s1 := go.foldl (fun (s : State) k => { s with
    dict := tabDel s.dict k, persist := tabDel s.persist k
    sup := { s.sup with changes := tabSet 0 s.sup.changes k ((tabGet 0 s.sup.changes k + 1) % 2 ^ 32) } }) s
  s1.count 0x2060 6 1

/-- A command run with its argument. -/
def State.execEntry (s : State) (index sub arg : Nat) : State × Nat × After :=
  match index with
  | 0x4001 =>
    if (s.entry 0x4001 7) < 2 ^ 31 ∧ 110000 ≤ s.entry 0x4001 7 then (s, 7, {})
    else ({ s with pins := { s.pins with protectLow := false } }, 0, {})
  | 0x8022 => let r := s.dumpCancel (sub - 1); (r.1, r.2, {})
  | 0x8023 => let r := s.dumpSuspend (sub - 1); (r.1, r.2, {})
  | 0x8024 => let r := s.dumpResume (sub - 1); (r.1, r.2, {})
  | 0x8030 =>
    let p := s.entry 0x8030 2
    (s.dictSet (dk 0x8030 2) (p - (p &&& arg)), 0, {})
  | 0x9000 =>
    match sub with
    | 1 => let r := s.resetArg arg; (s, r.1, { reset := if r.1 = 0 then some (r.2, false) else none })
    | 2 =>
      let c := arg % 16
      if !s.sup.retireWait.isEmpty then (s, 9, {})
      else if !s.coreUsable c then (s, 6, {})
      else (s, 0, { reset := some (.core (Fin.ofNat 16 c), true), hold := some c })
    | _ => if arg ≠ 0 then (s, 6, {}) else (s.restoreDefaults, 0, {})
  | 0xA006 =>
    match sub with
    | 1 => let r := s.fwActivate; (r.1, r.2, { reset := if r.2 = 0 ∧ bitAt arg 0 then some (.cold, false) else none })
    | 2 => let r := s.fwConfirm; (r.1, r.2, {})
    | _ => let r := s.fwAbandon; (r.1, r.2, {})
  | _ =>
    let r := if sub = 3 then s.stageSuspend else if sub = 4 then s.stageResume else s.stageCancel
    (r.1, r.2, {})

/-! ## One request (R629, R634 to R637, R642) -/

/-- What a request does: the state, status, value bytes, total, entry type and what follows. -/
structure Ran where
  state : State
  status : Nat := 0
  value : List Byte := []
  total : Nat := 0
  ty : Nat := 0
  after : After := {}

/-- The operation of a request whose entry exists and answers. -/
def State.operate (s : State) (p : List Byte) (e : Entry) (commitOk : Bool) : Ran :=
  let op := field p 1 1
  let sub := field p 6 1
  let v := s.shown e.index sub
  let n := e.bytes v
  let long := e.ty == .str || e.ty == .blob
  let base : Ran := { state := s, total := n, ty := e.ty.code }
  let allowed := match e.access with
    | .ro => op == 1 | .rw => op == 1 || op == 2 | .wo => op == 2 | .cmd => op == 3
  let ro := e.index == 0x6050 || e.index == 0x6051
  if !allowed || (ro && sub == 1 && op == 2) then { base with status := 3 }
  else if field p 7 1 ≠ 0 ∧ field p 7 1 ≠ e.ty.code then { base with status := 4 }
  else if op = 1 then
    let off := field p 8 4
    if p.length ≠ 40 ∨ (if long then n ≤ off else off ≠ 0) then { base with status := 5 }
    else { base with value := (bytesOfNat (v / 2 ^ (8 * off)) (min 1024 (n - off))) }
  else if op = 2 then
    if field p 8 4 ≠ 0 ∨ p.length ≠ 40 + n then { base with status := 5 }
    else
      let r := s.putEntry e sub (natOfBytes (p.drop 40)) commitOk
      { base with state := r.1.touchMirror e.index sub, status := r.2 }
  else if field p 8 4 ≠ 0 ∨ p.length ≠ 48 then { base with status := 5 }
  else
    let r := s.execEntry e.index sub (natOfBytes (p.drop 40))
    { base with state := r.1, status := r.2.1, after := r.2.2 }

/-- A request run, with its change counters. -/
def State.runRequest (s : State) (p : List Byte) (commitOk : Bool) : Ran :=
  let index := field p 4 2
  let sub := field p 6 1
  if pribyReserved p then { state := s, status := 11, ty := field p 7 1 }
  else match s.findEntry index sub with
  | (st, none) => { state := s, status := st, ty := field p 7 1 }
  | (_, some e) =>
    if s.unitReset index sub then { state := s, status := 8, ty := e.ty.code, total := e.bytes (s.shown index sub) }
    else
      let r := (s.touchMirror index sub).operate p e commitOk
      let op := field p 1 1
      if r.status = 0 ∧ (op = 2 ∨ op = 3) then
        let k := dk index sub
        let s1 := r.state.count 0x2060 1 1
        { r with state := { s1 with sup := { s1.sup with
          changes := tabSet 0 s1.sup.changes k ((tabGet 0 s1.sup.changes k + 1) % 2 ^ 32) } } }
      else r

/-- The reply packet. -/
def State.pribyReplyBytes (s : State) (p : List Byte) (r : Ran) : List Byte :=
  let op := field p 1 1
  let k := dk (field p 4 2) (field p 6 1)
  let val := if r.status = 0 then r.value else []
  bytesOfNat 1 1 ++ bytesOfNat (op + 0x80) 1 ++ (p.drop 2).take 2 ++ (p.drop 4).take 3 ++ bytesOfNat r.ty 1 ++
  (if op = 1 then (p.drop 8).take 4 else bytesOfNat 0 4) ++ bytesOfNat val.length 2 ++ bytesOfNat r.status 2 ++ bytesOfNat r.total 4 ++
  bytesOfNat (tabGet 0 s.sup.mirrorSeq k) 4 ++ bytesOfNat (tabGet 0 s.sup.changes k) 4 ++ bytesOfNat 0 4 ++
  bytesOfNat (s.entry 0x2060 1) 8 ++ val

/-- A reply sent and kept for 1,000,000 device µs, the last 64 of a transport (R636). -/
def State.pribyReply (s : State) (r : PribyReq) (reply : List Byte) : State :=
  let tag := field r.bytes 2 2
  let same := fun (k : KeptReply) => k.mctp == r.mctp && k.source == r.source && k.tag == tag
  let kept := s.sup.replies.filter fun k => !same k
  let mine := kept.filter fun k => k.mctp == r.mctp
  let kept2 := if mine.length < 64 then kept else
    match kept.find? fun k => k.mctp == r.mctp with | some k => kept.erase k | none => kept
  { s with out := s.out ++ [Out.priby r.mctp r.source reply] ++ (if r.mctp then [Out.i3cIbi] else [])
           sup := { s.sup with replies := kept2 ++
             [{ mctp := r.mctp, source := r.source, tag := tag, request := r.bytes, reply := reply, time := s.time }] } }

/-- What follows a request: its reply, at once or with the retirement it waits for, then the reset it asked for. -/
def State.pribyFinish (s : State) (r : PribyReq) (p : Ran) : State :=
  let s1 := match p.after.hold with
    | some c => { s with sup := { s.sup with retireWait := s.sup.retireWait ++ [(c, r)] } }
    | none => s.pribyReply r (s.pribyReplyBytes r.bytes p)
  let s2 := match p.after.hold with
    | some c => s1.setCore c { s1.core c with retiring := true }
    | none => s1
  match p.after.reset with
  | some t => s2.doReset t.1 0x20 (retire := t.2)
  | none => s2

/-- A Priby message. -/
def State.priby (s : State) (r : PribyReq) (commitOk : Bool) : State :=
  if !s.supRuns then s
  else if !pribyOk r.bytes then s.count 0x2060 3 1
  else
    let tag := field r.bytes 2 2
    match s.sup.replies.find? fun k => k.mctp == r.mctp && k.source == r.source && k.tag == tag && k.request == r.bytes &&
        decide (s.time ≤ k.time + 1000000) with
    | some k =>
      let s1 := s.count 0x2060 4 1
      { s1 with out := s1.out ++ [Out.priby r.mctp r.source k.reply] ++ (if r.mctp then [Out.i3cIbi] else []) }
    | none =>
      let p := (s.count 0x2060 2 1).runRequest r.bytes commitOk
      p.state.pribyFinish r p

/-! ## The rows -/

/-- The requests that have a row of their own: operation, index, subindex, with none for every subindex. -/
def ownRow (r : PribyReq) : Bool :=
  let op := field r.bytes 1 1
  let i := field r.bytes 4 2
  pribyOk r.bytes && ((op == 2 && (i == 0x4011 || i == 0x2032)) || op == 3)

/-- PRIBY_READ, and a message that is no packet (R633). -/
def execPribyRead (r : PribyReq) (s : State) : Host.Outcome State Fault Refusal :=
  when s (!pribyOk r.bytes || field r.bytes 1 1 == 1) (s.priby r true)

/-- PRIBY_WRITE: a write without a row of its own, and any request refused for its operation or entry. -/
def execPribyWrite (r : PribyReq) (commitOk : Bool) (s : State) : Host.Outcome State Fault Refusal :=
  let i := field r.bytes 4 2
  let cmd := match entryAt i (field r.bytes 6 1) with | some e => e.access == .cmd | none => false
  when s (pribyOk r.bytes && field r.bytes 1 1 != 1 && !(ownRow r && (field r.bytes 1 1 == 2 || cmd))) (s.priby r commitOk)

/-- A write of CORE_STATE, of any core. -/
def execCoreState (r : PribyReq) (s : State) : Host.Outcome State Fault Refusal :=
  when s (pribyOk r.bytes && field r.bytes 1 1 == 2 && field r.bytes 4 2 == 0x4011) (s.priby r true)

/-- FIELD_BAD_GROUPS: a bit once set stays set. -/
def execFieldBadGroups (r : PribyReq) (commitOk : Bool) (s : State) : Host.Outcome State Fault Refusal :=
  when s (pribyOk r.bytes && field r.bytes 1 1 == 2 && field r.bytes 4 2 == 0x2032) (s.priby r commitOk)

def execResetCmd (r : PribyReq) (s : State) : Host.Outcome State Fault Refusal :=
  when s (pribyIs r 3 0x9000 1) (s.priby r true)
def execRetireCore (r : PribyReq) (s : State) : Host.Outcome State Fault Refusal :=
  when s (pribyIs r 3 0x9000 2) (s.priby r true)
def execRestoreDefaults (r : PribyReq) (s : State) : Host.Outcome State Fault Refusal :=
  when s (pribyIs r 3 0x9000 3) (s.priby r true)
def execAlertClear (r : PribyReq) (s : State) : Host.Outcome State Fault Refusal :=
  when s (pribyIs r 3 0x8030 3) (s.priby r true)
def execProtectClear (r : PribyReq) (s : State) : Host.Outcome State Fault Refusal :=
  when s (pribyIs r 3 0x4001 8) (s.priby r true)
def execDumpCancel (r : PribyReq) (s : State) : Host.Outcome State Fault Refusal :=
  when s (pribyOk r.bytes && field r.bytes 1 1 == 3 && field r.bytes 4 2 == 0x8022) (s.priby r true)
def execDumpSuspend (r : PribyReq) (s : State) : Host.Outcome State Fault Refusal :=
  when s (pribyOk r.bytes && field r.bytes 1 1 == 3 && field r.bytes 4 2 == 0x8023) (s.priby r true)
def execDumpResume (r : PribyReq) (s : State) : Host.Outcome State Fault Refusal :=
  when s (pribyOk r.bytes && field r.bytes 1 1 == 3 && field r.bytes 4 2 == 0x8024) (s.priby r true)
def execFwActivate (r : PribyReq) (s : State) : Host.Outcome State Fault Refusal :=
  when s (pribyIs r 3 0xA006 1) (s.priby r true)
def execFwConfirm (r : PribyReq) (s : State) : Host.Outcome State Fault Refusal :=
  when s (pribyIs r 3 0xA006 2) (s.priby r true)
def execFwTrialAbandon (r : PribyReq) (s : State) : Host.Outcome State Fault Refusal :=
  when s (pribyIs r 3 0xA006 3) (s.priby r true)
def execStageSuspend (r : PribyReq) (s : State) : Host.Outcome State Fault Refusal :=
  when s (pribyIs r 3 0xA007 3) (s.priby r true)
def execStageResume (r : PribyReq) (s : State) : Host.Outcome State Fault Refusal :=
  when s (pribyIs r 3 0xA007 4) (s.priby r true)
def execStageCancel (r : PribyReq) (s : State) : Host.Outcome State Fault Refusal :=
  when s (pribyIs r 3 0xA007 5) (s.priby r true)

/-- DIVERGENCE_CHECK (R623): a mirror that differs from a unit changed more than 100 µs earlier is rewritten. -/
def execDivergenceCheck (s : State) : Host.Outcome State Fault Refusal :=
  let bad := s.sup.lag.filter fun l => decide (l.2.2 + 100 < s.time) && decide (s.entryValue (l.1 / 256) (l.1 % 256) ≠ l.2.1)
  let fix := fun (s : State) (l : Nat × Nat × Nat) =>
    let s1 := (s.count 0x2050 2 1).dictSet (dk 0x2050 3) l.1
    let s2 : State := { s1 with sup := { s1.sup with
      lag := s1.sup.lag.erase l, mirrorSeq := tabSet 0 s1.sup.mirrorSeq l.1 ((tabGet 0 s1.sup.mirrorSeq l.1 + 1) % 2 ^ 32)
      mirrorVal := tabSet 0 s1.sup.mirrorVal l.1 (s1.entryValue (l.1 / 256) (l.1 % 256)) } }
    s2.event 0x0806 l.1 s2.platformFns
  when s (s.supRuns && decide (s.sup.divergeFrom + s.entry 0x2050 1 ≤ s.time))
    (bad.foldl fix { s with sup := { s.sup with divergeFrom := s.time } })

end Sys2Proof.Machine
end

