-- ==== Sys2Proof/Machine/Faults.lean ====
section
/-!
DEFINITION. Hangs, dumps, the end and the escalation of a reset, domain edges, and the health score (R108, R110, R600 to R626).
-/
namespace Sys2Proof.Machine

/-! ## Domains and units (R602, R611) -/

/-- The reset a hang of domain d raises. -/
def hangTarget (d : Nat) : ResetTarget :=
  if d < 16 then .core (Fin.ofNat 16 d)
  else if d = 16 then .nic
  else if d < 19 then .hostPort (Fin.ofNat 2 (d - 17))
  else if d = 19 then .warm
  else .cold

/-- The EYESPOT_TICKS entry of a domain. -/
def eyespotSub (d : Nat) : Nat := if d < 16 then 1 else if d = 16 then 2 else if d < 19 then 3 else if d = 19 then 4 else 5

/-- The units of a core. -/
def coreUnits (c : Nat) : List Nat :=
  (List.range 5).map (fun k => unitId k c 0) ++ (List.range 80).map fun g => unitId 5 c g

/-- The units of a domain; a dump of the device domain also holds every held core. -/
def State.domainUnits (s : State) (d : Nat) : List Nat :=
  if d < 16 then coreUnits d
  else if d = 16 then (List.range 4).map (unitId 6 0)
  else if d < 19 then (List.range 4).map fun j => unitId 7 0 (4 * (d - 17) + j)
  else if d = 19 then
    (List.range 6).map (unitId 8 0) ++
      ((List.range 16).filter fun c => (s.core c).holder.isSome).flatMap coreUnits
  else [unitId 9 0 0]

/-- The slots whose work a domain holds. -/
def State.domainSlots (s : State) (d : Nat) : List Nat :=
  if d < 16 then (s.core d).holder.toList
  else if d = 16 then s.boundSlots.filter fun i => !(s.heldFlows i).isEmpty ||
    s.cmds.any fun c => c.slot == i && c.unitClass s == .nic
  else if d < 19 then s.boundSlots.filter fun i => s.slotPort i == d - 17
  else s.boundSlots

/-- The functions an event of the domain goes to. -/
def State.domainFns (s : State) (d : Nat) : List Nat := (s.domainSlots d).flatMap s.slotFns ++ s.platformFns

/-! ## Dumps (R607 to R611) -/

/-- Words sampled from a bank group: bytes 0 to 4,095 of banks 0, 16, 32 and 48. -/
def State.groupSample (s : State) (c g : Nat) : List Byte :=
  [0, 16, 32, 48].flatMap fun b => memRead s.scratch (scratchKey c (64 * g + b) 0) 4096

/-- The slot that holds a unit: a core's, or the only one with flows or with a function on the port; none for a unit that none holds or
that several share. -/
def State.unitHolder (s : State) (u : Nat) : Option Nat :=
  let only := fun (l : List Nat) => match l with | [i] => some i | _ => none
  if u / 4096 ≤ 5 then (s.core (u / 256 % 16)).holder
  else if u / 4096 = 6 then only (s.boundSlots.filter fun i => !(s.heldFlows i).isEmpty)
  else if u / 4096 = 7 then only (s.boundSlots.filter fun i => s.slotPort i == u % 256 / 4)
  else none

/-- n words of BAR0 of a slot's function. -/
def State.regSample (s : State) (i off n : Nat) : List Byte :=
  match s.slotFn i with
  | some f => (List.range n).flatMap fun k => bytesOfNat (s.regWord f (off + 4 * k)) 4
  | none => []

/-- The data a SAMPLE partition gives of a unit: a bank group's bytes, or a host port's QUEUE block with its queue fetch and its MBOX block
with its mailboxes (R607). -/
def State.unitSample (s : State) (i u : Nat) : List Byte :=
  if u / 4096 = 5 then s.groupSample (u / 256 % 16) (u % 256)
  else if u / 4096 = 7 ∧ u % 4 = 0 then s.regSample i 0x10000 1024
  else if u / 4096 = 7 ∧ u % 4 = 3 then s.regSample i 0x8000 1024
  else []

/-- DUMP_CLASS CODE. -/
def State.dumpCode (s : State) (i : Nat) : Bool := s.envField i 2 1 == 1

/-- What the capture of one unit gives: its status and data. Which reads of the side path come back within 50 µs is the
environment's (log 1); a unit with no stated layout gives no data (log 17). -/
def State.captureUnit (s : State) (u : Nat) : Nat × List Byte :=
  let c := u / 256 % 16
  let group := u / 4096 = 5
  if group ∧ !bitAt (s.core c).groups.toNat (u % 256) then (3, [])
  else if (Config.freeByte s.freeCtr u).getLsbD 0 then (1, [])
  else match s.unitHolder u with
    | some i => if s.dumpCode i then (2, []) else (0, s.unitSample i u)
    | none => (0, [])

/-- The 16-byte unit record. -/
def unitRecord (u status err off n : Nat) : List Byte :=
  bytesOfNat u 2 ++ bytesOfNat status 1 ++ bytesOfNat 0 1 ++ bytesOfNat err 4 ++ bytesOfNat off 4 ++ bytesOfNat n 4

/-- The unit records and data of a capture, in order. -/
def State.capture (s : State) : List Nat → List Byte → List Byte → Nat → List Byte × List Byte × Nat
  | [], recs, data, bad => (recs, data, bad)
  | u :: l, recs, data, bad =>
    let k := s.captureUnit u
    let err := if k.1 = 1 then 0 else s.errWord u
    s.capture l (recs ++ unitRecord u k.1 err data.length k.2.length) (data ++ k.2) (if k.1 = 1 then bad + 1 else bad)

/-- The 64-byte header of a dump slot. -/
def dumpHeader (d hang progress units bad bytes sample code unit : Nat) : List Byte :=
  [0x42#8, 0x58#8, 0x44#8, 0x50#8] ++ bytesOfNat 1 2 ++ bytesOfNat d 1 ++ bytesOfNat 0 1 ++ bytesOfNat hang 8 ++
  bytesOfNat progress 8 ++ bytesOfNat units 2 ++ bytesOfNat bad 2 ++ bytesOfNat bytes 4 ++ bytesOfNat sample 2 ++
  bytesOfNat code 2 ++ bytesOfNat unit 2 ++ List.replicate 26 0

/-- The dump slot a capture takes: the lowest FREE one, else the HELD one captured earliest (R609). -/
def State.dumpSlot (s : State) : Option Nat :=
  let st := fun (k : Nat) => (tabGet {} s.sup.dumps k).state
  match (List.range 4).find? fun k => st k == .free with
  | some k => some k
  | none => minBy (fun k => (tabGet {} s.sup.dumps k).captured) ((List.range 4).filter fun k => st k == .held)

/-- A capture of domain d: a dump slot filled and HELD, or a supervisor record, or a lost dump. -/
def State.captureDump (s : State) (d unit progress : Nat) : State :=
  if d = 20 then
    { s with sup := { s.sup with supDump := bytesOfNat (s.errWord (unitId 9 0 0)) 256 } }
  else match s.dumpSlot with
  | none => s.count 0x8025 1 1
  | some k =>
    let us := s.domainUnits d
    let r := s.capture us [] [] 0
    let held := (us.filterMap s.unitHolder).eraseDups
    let h := dumpHeader d s.time progress us.length r.2.2 r.2.1.length (maskOf (held.filter fun i => !s.dumpCode i))
      (maskOf (held.filter s.dumpCode)) unit
    let dump : Dump := { state := .held, header := h, units := r.1, data := memWrite [] 0 r.2.1, bytes := r.2.1.length, captured := s.time }
    let s1 : State := { s with freeCtr := s.freeCtr + 1, sup := { s.sup with dumps := tabSet {} s.sup.dumps k dump } }
    s1.event 0x0802 (k + 4 * d) (s.domainFns d)

/-! ## Hangs (R604, R605, R687) -/

/-- A hang declared: counted, told, admission withdrawn, captured, and the domain's reset recognised. -/
def State.hang (s : State) (d unit progress : Nat) : State :=
  let fns := s.domainFns d
  let s1 := (s.count 0x8015 (d + 1) 1).event 0x0801 (d + 256 * unit) fns
  let s2 := if d < 16 then s1.setCore d { s1.core d with hung := true } else if d = 16 then { s1 with nicHung := true } else s1
  let s3 := s2.captureDump d unit progress
  let s4 : State := { s3 with persist := tabPut s3.persist (dk 0x8015 (d + 1)) (s3.entry 0x8015 (d + 1)) }
  s4.doReset (hangTarget d) 0x30

/-- A domain has units that can hang: its own reset, and any wider one, is not in progress. -/
def State.domainLive (s : State) (d : Nat) : Bool :=
  s.power.state == .running && !s.deviceReset && !s.inReset (hangTarget d) &&
  (if d < 16 then s.coreUsable d else if d = 17 ∨ d = 18 then (s.port (d - 17)).enabled else decide (7 ≤ s.boot.stage))

/-- HANG_DETECTED: a unit without progress for EYESPOT_TICKS. -/
def execHangDetected (d : Fin 21) (unit : W16) (lastProgress : Nat) (s : State) : Host.Outcome State Fault Refusal :=
  when s (s.domainLive d.val && (s.domainUnits d.val).contains unit.toNat &&
      decide (lastProgress + s.entry 0x8010 (eyespotSub d.val) ≤ s.time))
    (s.hang d.val unit.toNat lastProgress)

/-- SUPERVISOR_MEMORY_ERROR: a hang of the supervisor domain (R601). -/
def execSupervisorMemoryError (s : State) : Host.Outcome State Fault Refusal :=
  when s (s.supRuns && !s.deviceReset) ((s.noteFault (unitId 9 0 0) 2).hang 20 (unitId 9 0 0) s.time)

/-! ## The retest after a hang (R606) -/

/-- The command of a list with the latest deadline; one whose deadline is not yet known is the latest. -/
def latest : List Cmd → Option Cmd
  | [] => none
  | c :: l => match latest l with
    | none => some c
    | some d => if c.ranksBefore d then some d else some c

/-- While the timeline is infeasible the latest command completes HANG_RESET. -/
def State.retest (s : State) (t : Timeline) : Nat → State
  | 0 => s
  | n + 1 =>
    let live := (s.onTimeline t).filter fun c => match c.phase with | .ended _ _ => false | _ => true
    if edfFeasible (live.map s.jobOf) s.time then s else
    match latest live with
    | none => s
    | some c =>
      (s.endCmd c.id 0x0203 0x30).retest t n

/-! ## The end of a reset (R108, R110, R113, R615, R617) -/

/-- A RETIRE_CORE request is answered once its core is retired (R645). -/
def State.retireReplies (s : State) (c : Nat) : State :=
  let mine := s.sup.retireWait.filter fun e => e.1 == c
  let s1 : State := { s with sup := { s.sup with retireWait := s.sup.retireWait.filter fun e => e.1 != c } }
  mine.foldl (fun s e => s.pribyReply e.2 (s.pribyReplyBytes e.2.bytes { state := s, ty := 9, total := 8 })) s1

/-- A core whose retiring reset has completed leaves service. -/
def State.retireDone (s : State) (c cause : Nat) : State := (s.retireCore c cause).retireReplies c

/-- The core resets that a partition or host-port reset absorbed end with it: no hang is left, and a core to be retired leaves
service (R109, R645, R687). -/
def State.absorbedDone (s : State) (r : ResetRun) : State :=
  r.cores.foldl (fun s c =>
    let s1 := s.setCore c { s.core c with hung := false }
    if (s1.core c).retiring then s1.retireDone c r.cause.toNat else s1) s

/-- A core reset ends. -/
def State.coreDone (s : State) (c : Nat) (r : ResetRun) : State :=
  let s1 := s.setCore c { s.core c with hung := false }
  let s2 := if r.retire ∨ (s1.core c).retiring then s1.retireDone c r.cause.toNat else s1
  if r.causes.contains 0x30#16 then (s2.retest (.core c) s2.cmds.length).retest (.dma c) s2.cmds.length else s2

/-- The core PLLs of cores with an engine awake run and are locked (R110 step 7). -/
def State.corePlls (s : State) : State :=
  (List.range 16).foldl (fun s c =>
    let up := fun (b : Nat) => (s.block b).st == .active || (s.block b).st == .idle
    if up (matrixBlock c) || up (vectorBlock c) then s.pllUp c else s) s

/-- Out of service, for good until it is cleared (R617). -/
def State.outOfService (s : State) : State :=
  let s1 := s.dictSet (dk 0x8000 1) 1
  let s2 : State := { s1 with persist := tabPut s1.persist (dk 0x8000 1) 1 }
  s2.event 0x0804 0 s2.presentFns

/-- A warm reset that ran in place of the remaining cold-boot steps: its step 7 has locked every PLL, and what those steps were
to bring about comes about with its end (R110, R119; DESIGN CHOICE, log 87). -/
def State.resumeBoot (s : State) : State :=
  if s.boot.stage = 10 ∨ s.boot.halt ≠ 0 then s else
  let s1 := (List.range 12).foldl (fun s n => s.setPll (basePll (Fin.ofNat 12 n)) { running := true, released := true }) s
  let s2 := s1.bootRom.bootMemory
  if s2.boot.stage = 9 then s2.bootReady else s2

/-- Step 9 of a warm reset. -/
def State.warmDone (s : State) (r : ResetRun) : State :=
  let s1 := ((List.range 16).filter fun c => (s.core c).retiring).foldl (fun s c => s.retireDone c r.cause.toNat) s
  let up := s1.boot.stage == 10
  let s2 : State := { s1 with boot := { s1.boot with
    admitOpen := up || s1.boot.admitOpen, hostReadyUs := if up then s.time else s1.boot.hostReadyUs } }
  let s3 := s2.corePlls
  (if r.oos then s3.outOfService else s3).resumeBoot

/-- The bound of R108, from recognition; the cold reset's is that of the boot chapter. -/
def resetBound : ResetTarget → Nat
  | .core _ => 200
  | .nic => 300
  | .partition _ => 500
  | .hostPort _ => 1000
  | .warm => 10000
  | .cold => 500000

/-- A reset can end: a protective stop's hold is over, a cold reset has reached step 9, a fenced edge has drained, and the PLL of
each core it resets, its absorbed core resets included, has been released where it runs (R89). -/
def State.canEnd (s : State) (r : ResetRun) : Bool :=
  !r.hold &&
  ((coreTarget r.target ++ r.cores).all fun c => !(s.pll (.core (Fin.ofNat 16 c))).running || (s.pll (.core (Fin.ofNat 16 c))).released) &&
  (match r.target with
   | .cold => decide (s.boot.stage = 9) && s.boot.halt == 0
   | .core c => !r.fence || (s.core c.val).slots.isEmpty
   | _ => true)

/-- A reset ends: its domain is released, and RESET_DONE goes to each function it reached, but for a cold reset (R160). -/
def State.finishReset (s : State) (r : ResetRun) : State :=
  let s1 : State := { s with resets := s.resets.filter fun x => x.target != r.target }
  match r.target with
  | .cold => s1.bootReady
  | t =>
    let s2 := match t with
      | .core c => s1.coreDone c.val r
      | .nic => if r.causes.contains 0x30#16 then ({ s1 with nicHung := false }).retest .nic s1.cmds.length else { s1 with nicHung := false }
      | .warm => s1.warmDone r
      | _ => s1.absorbedDone r
    s2.event 2 (resetDetail t r.cause.toNat) r.fns

/-- RESET_COMPLETE. -/
def execResetComplete (t : ResetTarget) (s : State) : Host.Outcome State Fault Refusal :=
  match s.resets.find? fun r => r.target == t with
  | none => .next s
  | some r => when s (s.canEnd r) (s.finishReset r)

/-- RESET_ESCALATION: past its bound, the next wider reset takes over, cause 0x0040. -/
def execResetEscalation (t : ResetTarget) (s : State) : Host.Outcome State Fault Refusal :=
  match s.resets.find? fun r => r.target == t with
  | none => .next s
  | some r => when s (t != .cold && !r.hold && decide (r.began + resetBound t < s.time))
      (s.doReset (if t = .warm then .cold else .warm) 0x40)

/-! ## A domain's edge (R612, R613) -/

/-- FENCE_DRAIN_EXPIRY: the edge frees the remaining slots and answers them with an error. -/
def execFenceDrainExpiry (d : Fin 17) (s : State) : Host.Outcome State Fault Refusal :=
  match s.resets.find? fun r => r.target == hangTarget d.val with
  | none => .next s
  | some r =>
    let slots := if d.val < 16 then (s.core d.val).slots else []
    when s (r.fence && decide (r.began + s.entry 0x8012 1 ≤ s.time))
      (let s1 := (s.setCore d.val { s.core d.val with slots := [], lateReplies := (s.core d.val).lateReplies + slots.length }).count
          0x8014 (d.val + 1) slots.length
       slots.foldl (fun s q => s.endCmd q.cmd 0x0211 d.val) (if d.val < 16 then s1 else s))

/-! ## Health (R619, R620) -/

/-- HEALTH_SCORE from the decayed counts. -/
def State.healthScore (s : State) : Nat :=
  let w := fun (i : Nat) => s.entry 0x2041 i * (if i = 1 ∧ s.sup.sparesOut then 4 else 1)
  1000 - min 1000 ((((List.range 12).map fun j => w (j + 1) * s.entry 0x2042 (j + 1)).foldl (· + ·) 0) / 64)

/-- The decayed count of a source brought up to the end of a period. -/
def State.decay (s : State) (i : Nat) : State :=
  let d := s.entry 0x2042 i
  let total : Int := s.healthTotal i
  let s1 := s.dictSet (dk 0x2042 i) (sat (2 ^ 32 - 1) (d - d / 8 + (total - tabGet 0 s.sup.healthPrev i).toNat))
  { s1 with sup := { s1.sup with healthPrev := tabSet 0 s1.sup.healthPrev i total } }

/-- HEALTH_UPDATE: the end of a HEALTH_PERIOD_S. -/
def State.healthUpdate (s : State) : State :=
  let s1 := ((List.range 12).foldl (fun s i => s.decay (i + 1)) s)
  let score := s1.healthScore
  let s2 := s1.dictSet (dk 0x2040 1) score
  let warn := s2.entry 0x2040 2
  let low := decide (score < warn)
  let armed := !s2.sup.healthLow || decide (warn + 50 ≤ score)
  let s3 : State := { s2 with sup := { s2.sup with healthLow := !armed || low, healthFrom := s.time } }
  if low && !s2.sup.healthLow then s3.event 0x0805 score s3.platformFns else s3

/-- HEALTH_UPDATE. -/
def execHealthUpdate (s : State) : Host.Outcome State Fault Refusal :=
  when s (s.supRuns && decide (s.sup.healthFrom + 1000000 * s.entry 0x2040 3 ≤ s.time)) s.healthUpdate

/-! ## Loss of VIN (R66, R75, R111) -/

/-- The unpowered module: only the flash, the fuses and what is outside it stay; the always-on record too while VIN holds 30 V. -/
def State.unpower (s : State) (mv : Nat) : State :=
  let keep := decide (30000 < mv)
  { pending := s.pending, out := s.out, freeCtr := s.freeCtr
    pins := { s.pins with vinMv := mv, protectLow := false }
    phys := s.phys, fuses := s.fuses, flash := s.flash, persist := s.persist, dict := s.persist
    resetRec := if keep then s.resetRec else {}, resetLog := if keep then s.resetLog else []
    ports := (s.ports.map fun e => (e.1, ({ perst := e.2.perst } : Port))).filter fun e => decide (e.2 ≠ {})
    hostMem := s.hostMem, nextId := s.nextId
    hbmFrames := (s.hbmFrames.map fun e => (e.1, e.2.coldReset)).filter fun e => decide (e.2 ≠ {})
    spareNext := s.spareNext
    sup := { bootCtl := s.sup.bootCtl, changes := s.sup.changes.filter fun e => dictPersistent e.1,
             supDump := if keep then s.sup.supDump else [], flashLog := s.sup.flashLog, flashDumps := s.sup.flashDumps, sparesOut := s.sup.sparesOut, certOk := s.sup.certOk,
             healthPrev := s.sup.healthPrev } }

/-- VIN_LOST. -/
def execVinLost (mv : W32) (s : State) : Host.Outcome State Fault Refusal :=
  when s s.powered ((s.unpower mv.toNat).healthMoved s)

end Sys2Proof.Machine
end

