-- ==== Sys2Proof/Machine/Host.lean ====
section
/-!
DEFINITION. The host interface: configuration, power states of functions, BAR4, register writes and reads, queues and
doorbells, the event ring and the mailboxes (R116, R133 to R170, R176, R493, R494, R674 to R684).
-/
namespace Sys2Proof.Machine

/-! ## Reaching a function -/

/-- Completion statuses of a host request: 0 Successful, 1 Unsupported Request, 2 Completer Abort or, for a configuration
request, Request Retry Status, 3 Successful with the EP bit. A PF logs the two errors (R134). -/
def State.hostReply (s : State) (f status : Nat) (data : List Byte) : State :=
  let s1 : State := { s with out := s.out ++ [Out.hostReply f status data] }
  if status = 1 then s1.noteAer f 20 else if status = 2 then s1.noteAer f 15 else s1
def State.cfgReply (s : State) (f status : Nat) (data : W32) : State := { s with out := s.out ++ [Out.cfgReply f status data] }

/-- A memory request reaches BAR space of a function: past step 10, the function present and in D0 (R116, R136). -/
def State.reachable (s : State) (f : Nat) : Bool := s.hostOpen && s.fnPresent f && (s.port (f / 16)).linkUp && !(s.fn f).d3hot

/-! ## Configuration (R116, R134, R136, R137, R157) -/

/-- Pending interrupts of a function that its masks no longer stop are sent, once it is in D0 (R136, R157). -/
def State.sendPending (s : State) (f : Nat) : State :=
  let fn := s.fn f
  if !fn.msixEnable || fn.msixMask || fn.d3hot then s else
  let go := (fn.pba.map (·.1)).filter fun v => !bitAt (fn.msixEntry v).toNat 96
  let s1 := s.setFn f { fn with pba := fn.pba.filter fun e => !go.contains e.1 }
  { s1 with out := s1.out ++ go.map fun v => Out.irq f v }

/-- A register with bits lo to lo + n − 1 set to a value. -/
def setBits (w : W32) (lo n v : Nat) : W32 :=
  BitVec.ofNat 32 (w.toNat - bits w.toNat lo n * 2 ^ lo + v % 2 ^ n * 2 ^ lo)

/-- A base address register: the written address with its n low bits replaced by the type bits (R142). -/
def barWord (was : W32) (n low : Nat) : W32 := BitVec.ofNat 32 (was.toNat / 2 ^ n * 2 ^ n + low)

/-- A register of the standard header that a rule fixes: the vendor, the class code and the base addresses; a virtual function's
base addresses are in the SR-IOV capability of its physical function (R134, R142; positions PRESUMED from PCI Express, log 81). -/
def State.cfgHeader (s : State) (k o : Nat) (was v : W32) : W32 :=
  let pf := k % 16 == 0
  let log2 := (s.fn k).bar4Log2
  match o with
  | 0x00 => setBits v 0 16 (s.dictGet (dk 0x1000 1))
  | 0x08 => setBits v 8 24 0x120000
  | 0x10 => if pf then barWord was 23 4 else 0
  | 0x14 => if pf then was else 0
  | 0x18 => if pf then barWord was 18 4 else 0
  | 0x1C => if pf then was else 0
  | 0x34 => setBits v 0 8 (Config.capAt 0)
  | 0x3C => setBits v 8 8 0
  | 0x20 => if pf then barWord was (min 32 log2) 0xC else 0
  | 0x24 => if pf then barWord was (log2 - 32) 0 else 0
  | _ => v

/-- A field of a capability: the capability, its register, its lowest bit, its width, and its value, or none where it reads back as
the host wrote it. -/
structure CfgField where
  cap : Nat
  reg : Nat
  low : Nat
  width : Nat
  value : Option Nat
deriving DecidableEq, Repr

/-- The capabilities a function has, each with its identifier, in the order of their lists: those of the first 256 bytes, PCI Express,
MSI-X and Power Management, and a PF's extended ones, AER, SR-IOV, ARI, Resizable BAR, VF Resizable BAR and DOE. Every capability that
R134 calls absent is in neither list. A VF has ARI of the extended ones. -/
def capLists (pf : Bool) : List (List (Nat × Nat)) :=
  [[(0, 0x10), (1, 0x11), (5, 0x01)], if pf then [(6, 0x01), (2, 0x10), (7, 0x0E), (3, 0x15), (8, 0x24), (9, 0x2E)] else [(7, 0x0E)]]

/-- The headers that chain a list of capabilities: each names its identifier and where the next begins, the last nothing. -/
def capHeaders (ext : Bool) : List (Nat × Nat) → List CfgField
  | [] => []
  | (c, id) :: l =>
    let next := match l with | (d, _) :: _ => Config.capAt d | [] => 0
    (if ext then [⟨c, 0, 0, 16, some id⟩, ⟨c, 0, 20, 12, some next⟩] else [⟨c, 0, 0, 8, some id⟩, ⟨c, 0, 8, 8, some next⟩]) ++ capHeaders ext l

/-- A 64-bit base address register of size 2^n at a register of the SR-IOV capability: its size and type bits are fixed, the rest is as
written (R142). -/
def vfBar (reg n low : Nat) : List CfgField :=
  [⟨2, reg, 0, min 32 n, some low⟩, ⟨2, reg, min 32 n, 32 - n, none⟩, ⟨2, reg + 4, 0, n - 32, some 0⟩, ⟨2, reg + 4, n - 32, 64 - max 32 n, none⟩]

/-- The fields of the capabilities that a rule fixes (R116, R134, R137, R142, R143; numbers and places are PRESUMED from PCI Express,
log 81). A completion timeout that cannot be programmed, no ASPM, AtomicOps, LTR or TPH, and no interrupt pin are fields that read 0. -/
def State.cfgFields (s : State) (k : Nat) : List CfgField :=
  let fn := s.fn k
  let p := k / 16
  let vfs := tabGet 0 s.boot.vfCount p
  let pf := k % 16 == 0
  let lists := capLists pf
  capHeaders false (lists.getD 0 []) ++ capHeaders true (lists.getD 1 []) ++
  [⟨0, 0x04, 0, 3, some 2⟩, ⟨0, 0x04, 28, 1, some 1⟩, ⟨0, 0x0C, 0, 4, some 6⟩, ⟨0, 0x0C, 4, 6, some (if s.boot.hostShape = 1 then 16 else 8)⟩,
   ⟨0, 0x0C, 10, 2, some 0⟩, ⟨0, 0x1C, 16, 1, some 1⟩, ⟨0, 0x24, 0, 5, some 0⟩, ⟨0, 0x24, 6, 4, some 0⟩, ⟨0, 0x24, 11, 3, some 0⟩,
   ⟨1, 0x00, 16, 11, some 127⟩, ⟨1, 0x00, 30, 1, some (bit fn.msixMask)⟩, ⟨1, 0x00, 31, 1, some (bit fn.msixEnable)⟩,
   ⟨1, 0x04, 0, 32, some 0x6000⟩, ⟨1, 0x08, 0, 32, some 0x7000⟩,
   ⟨5, 0x04, 0, 2, some (if fn.d3hot then 3 else 0)⟩] ++
  (if pf then
    [⟨2, 0x08, 0, 1, some (bit (s.port p).vfEnable)⟩, ⟨2, 0x0C, 0, 16, some vfs⟩, ⟨2, 0x0C, 16, 16, some vfs⟩,
     ⟨2, 0x10, 0, 16, some (s.port p).numVfs⟩] ++
    vfBar 0x24 23 4 ++ vfBar 0x2C 18 4 ++ vfBar 0x34 (s.fn (fnKey p 1)).bar4Log2 0xC ++
    [⟨3, 0x04, 4, 28, some (2 ^ 10 * 127)⟩, ⟨3, 0x08, 0, 3, some 4⟩, ⟨3, 0x08, 5, 3, some 1⟩, ⟨3, 0x08, 8, 6, some (fn.bar4Log2 - 20)⟩,
     ⟨8, 0x04, 4, 28, some (2 ^ 10 * 127)⟩, ⟨8, 0x08, 0, 3, some 4⟩, ⟨8, 0x08, 5, 3, some 1⟩,
     ⟨8, 0x08, 8, 6, some ((s.fn (fnKey p 1)).bar4Log2 - 20)⟩,
     ⟨6, 0x04, 0, 32, some fn.aer.toNat⟩, ⟨6, 0x08, 0, 32, none⟩, ⟨6, 0x0C, 0, 32, none⟩]
   else [])

/-- A configuration register as it reads. -/
def State.cfgWord (s : State) (k : Nat) (o : BitVec 12) : W32 :=
  let was := tabFind (s.fn k).cfg o.toNat
  let v := Config.cfgRead k o was
  let old := (was.getD v).toNat
  if o.toNat < 0x40 then s.cfgHeader k o.toNat (was.getD 0) v
  else ((s.cfgFields k).filter fun e => Config.capAt e.cap + e.reg == o.toNat).foldl
    (fun v e => setBits v e.low e.width (e.value.getD (bits old e.low e.width))) v

/-- A configuration write: the register's word, and a PF's AER status, whose bits a 1 clears. -/
def State.cfgWrite (s : State) (k : Nat) (o : BitVec 12) (v : W32) : State :=
  let fn := s.fn k
  let aer := if k % 16 = 0 ∧ Config.capAt 6 + 4 = o.toNat then fn.aer &&& ~~~v else fn.aer
  s.setFn k { fn with cfg := tabPut fn.cfg o.toNat v, aer := aer }

/-- A configuration request answered. -/
def State.config (s : State) (p f : Nat) (op : CfgOp) : State :=
  let k := fnKey p f
  if !s.hostOpen then s.cfgReply k 2 0
  else if !s.fnPresent k then s.cfgReply k 1 0
  else match op with
  | .read o => s.cfgReply k 0 (s.cfgWord k o)
  | .write o v => (s.cfgWrite k o v).cfgReply k 0 0
  | .setVfs n e => if f = 0 then (s.setVfs p n.val e).cfgReply k 0 0 else s.cfgReply k 0 0
  | .setMsix e m => ((s.setFn k { s.fn k with msixEnable := e, msixMask := m }).sendPending k).cfgReply k 0 0

/-- CONFIG_REQUEST: Request Retry Status before step 10. -/
def execConfigRequest (p : PortNo) (f : FnNo) (op : CfgOp) (s : State) : Host.Outcome State Fault Refusal :=
  when s (s.powered && (s.port p.val).enabled && (s.port p.val).linkUp) (s.config p.val f.val op)

/-- D3HOT_ENTRY. -/
def execD3hotEntry (p : PortNo) (f : FnNo) (s : State) : Host.Outcome State Fault Refusal :=
  let k := fnKey p.val f.val
  when s (s.reachable k) (s.setFn k { s.fn k with d3hot := true })

/-- One held message delivered. -/
def State.deliverHeld (s : State) (f : Nat) : HeldMsg → State
  | .completion q bs => s.settleNow f q (some bs) (!s.phys.cqErr.contains (64 * f + q))
  | .event code detail time => s.ringWrite f code.toNat detail.toNat time
  | .irq v => s.interrupt f v

/-- D0_RETURN (R136): interrupts a mask no longer stops, then the held records and interrupts in order. -/
def execD0Return (p : PortNo) (f : FnNo) (s : State) : Host.Outcome State Fault Refusal :=
  let k := fnKey p.val f.val
  when s (s.hostOpen && s.fnPresent k && (s.fn k).d3hot)
    ((s.fn k).held.foldl (fun s h => s.deliverHeld k h) ((s.setFn k { s.fn k with d3hot := false, held := [] }).sendPending k))

/-! ## BAR4 (R142, R144, R145, R247, R678) -/

/-- BAR4_RESIZE. -/
def execBar4Resize (p : PortNo) (f : FnNo) (size : Fin 7) (s : State) : Host.Outcome State Fault Refusal :=
  let k := fnKey p.val f.val
  let fn : Fn := { s.fn k with bar4Log2 := 30 + size.val }
  when s (s.hostOpen && s.fnPresent k) (s.setFn k { fn with bar4Va := BitVec.ofNat 64 fn.bar4Base })

/-- A BAR4 access to an unmapped page: counted, with its event. -/
def State.bar4Unmapped (s : State) (f off : Nat) : State :=
  let s1 := s.setFn f { s.fn f with bar4Drops := (s.fn f).bar4Drops + 1 }
  s1.event 0x0202 (bits off 16 32) [f]

/-- Bytes of a slot as they stand, for a rule that asks what they say; nothing where they are not mapped. -/
def State.glance (s : State) (slot va n : Nat) : List Byte := match s.vread slot va n with | .ok r => r.bytes | .error _ => []

/-- The trackers that the descriptors of a TILE_RUN name (R342, R417). -/
def State.trackersNamed (s : State) (c : Cmd) : List Nat :=
  let stride := field (s.glance c.slot c.payload 64) 0x20 4
  (List.range c.cores.length).flatMap fun p =>
    let va := c.payload + p * stride
    let n := tileCounts (s.glance c.slot va 64)
    tileTrackers (s.glance c.slot va (0x140 + 64 * n.2))

/-- A tracker entry, by address, is named by an accepted, uncompleted command of its slot, or a VOTE is under way there (R426). -/
def State.trackerBusy (s : State) (slot va : Nat) : Bool :=
  let p := s.part slot
  let isOf := fun (base t : Nat) => t != 0 && va == base + 32 * t
  let own := p.trackerBase.toNat
  (p.stepState == .voting && decide (own + 32 ≤ va) && decide (va < own + 32 * 4096)) ||
  (s.cmds.any fun c => c.slot == slot && c.opcode == 0x10 &&
    (if c.started = 0 then (s.trackersNamed c).any (isOf own) else
      s.cores.any fun k => (k.2.tile :: k.2.cocoons.map (·.tile)).any fun r =>
        r.cmd == some c.id && r.trackers.any fun x => isOf c.tables.tracker.toNat x.1))

/-- What the host leaves of the tracker entries in use that it has written: their contents are undefined, and no other entry is affected
(R426). -/
def State.blurTrackers (s : State) (slot lo n : Nat) : State :=
  let hit := ((List.range ((lo % 32 + n + 31) / 32)).map fun i => 32 * (lo / 32 + i)).filter (s.trackerBusy slot)
  hit.foldl (fun s va =>
    { (s.vwrite none slot va ((List.range 32).map (Config.freeByte s.freeCtr))).1 with freeCtr := s.freeCtr + 1 }) s

/-- A BAR4 write served: translated and written through the device's own write path; dropped from the first page it may not write. A
tracker entry in use that it writes is left undefined. -/
def State.bar4Store (s : State) (a : Bar4Access) : State :=
  let r := s.vwrite none a.slot (a.base + a.off) a.bytes
  let s1 := r.1.blurTrackers a.slot (a.base + a.off) a.bytes.length
  match r.2 with
  | none => s1
  | some e => s1.bar4Unmapped a.fn (e.2 - a.base)

/-- A BAR4 read served. One of an unmapped page is counted and announced like a write: R145's own text says so of writes, and
95_what_each_step_holds.md lists BAR4_UNMAPPED within BAR4_READ (DEDUCED, log 88). -/
def State.bar4Load (s : State) (a : Bar4Access) : State :=
  let s1 := s.reachSpans a.slot (lineSpans (a.base + a.off) a.len)
  match s.vread a.slot (a.base + a.off) a.len with
  | .error e => (s1.bar4Unmapped a.fn (e.2 - a.base)).hostReply a.fn 2 []
  | .ok r => s1.hostReply a.fn (if r.poison.isSome then 3 else 0) r.bytes

/-- A BAR4 access at its port: served in the spare class of its slot's regulator, or waiting there, behind the slot's accesses
that wait already, with the window base it arrived under (R144, R176, R245, R247). -/
def State.bar4Arrive (s : State) (p : Nat) (a : Bar4Access) : State :=
  let wait := s.setPort p { s.port p with bar4 := (s.port p).bar4 ++ [a] }
  if (s.port p).bar4.any fun b => b.slot == a.slot then wait else
  match s.regServe a.slot (3 + p) (if a.write then a.bytes.length else a.len) (!a.write) (s.hostTurn a.slot (3 + p)) true with
  | none => wait
  | some s1 => if a.write then s1.bar4Store a else s1.bar4Load a

/-- Accesses of a list served as their slots have their turns, each slot's oldest first; the rest wait on. -/
def State.bar4Serve (s : State) (p : Nat) : Nat → State
  | 0 => s
  | fuel + 1 =>
    match (s.port p).bar4.findSome? fun a =>
        if ((s.port p).bar4.find? fun b => b.slot == a.slot) != some a then none else
        (s.regServe a.slot (3 + p) (if a.write then a.bytes.length else a.len) (!a.write) (s.hostTurn a.slot (3 + p)) true).map fun t => (a, t) with
    | none => s
    | some (a, t) =>
      let s1 := t.setPort p { t.port p with bar4 := (t.port p).bar4.erase a }
      (if a.write then s1.bar4Store a else s1.bar4Load a).bar4Serve p fuel

/-- The waiting accesses of a port looked at again once the regulators have refilled: one request of a slot at a time (R246). -/
def State.bar4Retry (s : State) (p : Nat) : State := s.bar4Serve p (s.port p).bar4.length

/-- An access to the window of function k as it arrives. -/
def State.bar4Access (s : State) (k slot : Nat) (offset : W64) (write : Bool) (bytes : List Byte) (len : Nat) : Bar4Access :=
  { slot := slot, fn := k, base := (s.fn k).bar4Base, off := offset.toNat % 2 ^ (s.fn k).bar4Log2, write := write, bytes := bytes,
    len := len, arrived := s.time }

/-- BAR4_WRITE. -/
def execBar4Write (p : PortNo) (f : FnNo) (offset : W64) (bytes : List Byte) (s : State) : Host.Outcome State Fault Refusal :=
  let k := fnKey p.val f.val
  .next (if !s.reachable k then s else
    match s.fnSlot k with
    | none => s
    | some i => s.bar4Arrive p.val (s.bar4Access k i offset true bytes 0))

/-- BAR4_READ. -/
def execBar4Read (p : PortNo) (f : FnNo) (offset : W64) (len : Nat) (s : State) : Host.Outcome State Fault Refusal :=
  let k := fnKey p.val f.val
  .next (if !s.reachable k then s.hostReply k 1 [] else
    match s.fnSlot k with
    | none => s.hostReply k 1 []
    | some i => s.bar4Arrive p.val (s.bar4Access k i offset false [] len))

/-! ## Queues (R147 to R156) -/

/-- What an enable meets, first in the order of R148; 0 where it is accepted. -/
def State.enableFault (s : State) (f q sqLog2 cqLog2 : Nat) : Nat :=
  match s.fnSlot f with
  | none => 5
  | some i =>
    if sqLog2 < 4 ∨ 16 < sqLog2 ∨ cqLog2 < 4 ∨ 16 < cqLog2 then 1
    else if s.envField i 6 1 ≤ q then 6
    else 0

/-- A queue started: configuration latched, indices 0, fault cleared. -/
def Queue.start (q : Queue) : Queue :=
  { q with enable := true, active := true, faulted := false, fault := 0, sqHead := 0, sqTail := 0, cqTail := 0, cqHead := 0,
           lSqBase := q.sqBase, lCqBase := q.cqBase, lSqLog2 := q.sqLog2.toNat, lCqLog2 := q.cqLog2.toNat,
           doorbells := [], outstanding := 0, unsignalled := 0, discard := false, disabledAt := none }

/-- A write of SQ_CTRL: VECTOR and IRQ_EN at once, the ring sizes while ACTIVE is 0, then ENABLE. -/
def State.writeSqCtrl (s : State) (f q v : Nat) : State :=
  let qu := s.queue f q
  let irq := bitAt v 1
  let q1 : Queue := { qu with
    vector := BitVec.ofNat 7 (v / 4), irqEn := irq
    sqLog2 := if qu.active then qu.sqLog2 else BitVec.ofNat 5 (v / 2 ^ 16)
    cqLog2 := if qu.active then qu.cqLog2 else BitVec.ofNat 5 (v / 2 ^ 21)
    delayFrom := if irq && !qu.irqEn then s.time else qu.delayFrom }
  let s1 := (s.setQueue f q q1).moderate f q
  let q2 := s1.queue f q
  if bitAt v 0 then
    if q2.active then s1
    else
      let code := s1.enableFault f q q2.sqLog2.toNat q2.cqLog2.toNat
      if code ≠ 0 then s1.queueFault f q code else s1.setQueue f q q2.start
  else s1.setQueue f q ({ q2 with enable := false, disabledAt := if q2.active then some s.time else q2.disabledAt } : Queue).drain

/-- SQ_ENABLE: a write of SQ_CTRL that sets ENABLE. -/
def execSqEnable (p : PortNo) (f : FnNo) (q : QueueNo) (ctrl : W32) (s : State) : Host.Outcome State Fault Refusal :=
  when s (s.reachable (fnKey p.val f.val) && bitAt ctrl.toNat 0) (s.writeSqCtrl (fnKey p.val f.val) q.val ctrl.toNat)

/-- SQ_DISABLE: a write of SQ_CTRL that clears ENABLE. -/
def execSqDisable (p : PortNo) (f : FnNo) (q : QueueNo) (ctrl : W32) (s : State) : Host.Outcome State Fault Refusal :=
  when s (s.reachable (fnKey p.val f.val) && !bitAt ctrl.toNat 0) (s.writeSqCtrl (fnKey p.val f.val) q.val ctrl.toNat)

/-- SQ_IRQ_ENABLE: a write of SQ_CTRL that sets IRQ_EN. -/
def execSqIrqEnable (p : PortNo) (f : FnNo) (q : QueueNo) (ctrl : W32) (s : State) : Host.Outcome State Fault Refusal :=
  when s (s.reachable (fnKey p.val f.val) && bitAt ctrl.toNat 1) (s.writeSqCtrl (fnKey p.val f.val) q.val ctrl.toNat)

/-- An ignored doorbell counted. -/
def State.dropDoorbell (s : State) (f q : Nat) : State :=
  s.setQueue f q { s.queue f q with doorbellDrops := (s.queue f q).doorbellDrops + 1 }

/-- A queue takes doorbells: it is ACTIVE, or was disabled in this device µs, in which the doorbell is taken first (R149, R176). -/
def Queue.takes (q : Queue) (now : Nat) : Bool := q.active || q.disabledAt == some now

/-- A tail is valid (R151). -/
def Queue.tailOk (q : Queue) (t : Nat) : Bool :=
  let n := 2 ^ q.lSqLog2
  decide (t < n) && decide ((q.sqTail + n - q.sqHead) % n ≤ (t + n - q.sqHead) % n)

/-- SQ_TAIL_DB: the records it adds share its doorbell time (R150). -/
def State.tailDoorbell (s : State) (f q v : Nat) : State :=
  let qu := s.queue f q
  let n := 2 ^ qu.lSqLog2
  if 2 ^ 16 ≤ v ∨ s.fnReset f ∨ !qu.takes s.time then s.dropDoorbell f q
  else if !qu.tailOk v then s.queueFault f q 2
  else if v = qu.sqTail then s
  else s.setQueue f q { qu with sqTail := v, doorbells := qu.doorbells ++ [((v + n - qu.sqTail) % n, s.time)] }



/-- Completion records written and not consumed. -/
def Queue.unconsumed (q : Queue) : Nat := (q.cqTail + 2 ^ q.lCqLog2 - q.cqHead) % 2 ^ q.lCqLog2

/-- A completion head is valid (R151). -/
def Queue.headOk (q : Queue) (h : Nat) : Bool :=
  decide (h < 2 ^ q.lCqLog2) && decide ((h + 2 ^ q.lCqLog2 - q.cqHead) % 2 ^ q.lCqLog2 ≤ q.unconsumed)

/-- CQ_HEAD_DB: a consumed record is no longer unsignalled (R154). -/
def State.headDoorbell (s : State) (f q v : Nat) : State :=
  let qu := s.queue f q
  if 2 ^ 16 ≤ v ∨ s.fnReset f ∨ !qu.takes s.time ∨ !qu.headOk v then s.dropDoorbell f q
  else
    let q1 : Queue := { qu with cqHead := v }
    s.setQueue f q { q1 with unsignalled := min q1.unsignalled q1.unconsumed }

/-- A write to BAR2 of a function: the doorbell page of queue q lies at 0x1000 × q, SQ_TAIL_DB at its offset 0 and CQ_HEAD_DB at 4,
each of 32 bits; every other write is ignored (R142, R149). -/
def State.bar2Write (s : State) (f off size v : Nat) : State :=
  if size ≠ 4 ∨ 262144 ≤ off then s
  else if off % 0x1000 = 0 then s.tailDoorbell f (off / 0x1000) v
  else if off % 0x1000 = 4 then s.headDoorbell f (off / 0x1000) v
  else s

/-- A read of BAR2 returns 0 (R149). -/
def State.bar2Read (s : State) (f size : Nat) : State := s.hostReply f 0 (List.replicate size 0)

/-- SQ_TAIL_DB. -/
def execSqTailDb (p : PortNo) (f : FnNo) (q : QueueNo) (value : W32) (s : State) : Host.Outcome State Fault Refusal :=
  when s (s.reachable (fnKey p.val f.val)) (s.bar2Write (fnKey p.val f.val) (0x1000 * q.val) 4 value.toNat)

/-- CQ_HEAD_DB. -/
def execCqHeadDb (p : PortNo) (f : FnNo) (q : QueueNo) (value : W32) (s : State) : Host.Outcome State Fault Refusal :=
  when s (s.reachable (fnKey p.val f.val)) (s.bar2Write (fnKey p.val f.val) (0x1000 * q.val + 4) 4 value.toNat)

/-- CQ_IRQ_DELAY. -/
def execCqIrqDelay (p : PortNo) (f : FnNo) (q : QueueNo) (s : State) : Host.Outcome State Fault Refusal :=
  let qu := s.queue (fnKey p.val f.val) q.val
  when s (qu.irqEn && decide (0 < qu.unsignalled) && decide (qu.delayFrom + qu.delayUs.toNat ≤ s.time))
    (s.queueIrq (fnKey p.val f.val) q.val)

/-- Reading stops while the completion ring has no room for one more record (R152). -/
def Queue.room (q : Queue) : Bool := decide (q.outstanding + q.unconsumed + 1 ≤ 2 ^ q.lCqLog2 - 1)

/-- The first doorbell entry loses one record. -/
def popDoorbell : List (Nat × Nat) → List (Nat × Nat)
  | [] => []
  | (n, t) :: l => if n ≤ 1 then l else (n - 1, t) :: l

/-- A BAR4 write of the function that reached its port by a time still waits: the records of a later doorbell are not read
before it is visible (R146). -/
def State.bar4Before (s : State) (f t : Nat) : Bool :=
  (s.port (f / 16)).bar4.any fun a => a.fn == f && a.write && decide (a.arrived ≤ t)


/-- RECORD_FETCH (R152, R156): a record read, or a read error. A hung port's queues are not read (R687). -/
def execRecordFetch (p : PortNo) (f : FnNo) (q : QueueNo) (record : Option Rec) (s : State) : Host.Outcome State Fault Refusal :=
  let k := fnKey p.val f.val
  let qu := s.queue k q.val
  .next (if !(qu.active && qu.enable && qu.room && !s.fnReset k && (s.port p.val).linkUp && (s.port p.val).tagFree) then s else
    match qu.doorbells, record with
    | [], _ => s
    | _ :: _, none => s.queueFault k q.val 3
    | (_, t) :: _, some r =>
      if s.bar4Before k t then s else
      let s1 := s.setQueue k q.val { qu with sqHead := (qu.sqHead + 1) % 2 ^ qu.lSqLog2, outstanding := qu.outstanding + 1
                                             doorbells := popDoorbell qu.doorbells }
      { s1 with waiting := s1.waiting ++ [{ fn := k, queue := q.val, record := r, doorbell := t }] })

/-! ## The event ring (R679) -/

/-- A write of RING_CTRL. -/
def State.writeRingCtrl (s : State) (f v : Nat) : State :=
  let r := (s.fn f).ring
  let en := bitAt v 31
  let r1 : EvRing := { r with vector := BitVec.ofNat 7 (v / 2 ^ 16), irqEn := bitAt v 15, enable := en
                              log2 := if r.active then r.log2 else BitVec.ofNat 5 v }
  let r2 : EvRing :=
    if !en then { r1 with active := false }
    else if r.active then r1
    else
      let r2 : EvRing := { r1 with head := 0, tail := 0, lost := 0, writeError := false, lBase := r1.base, lLog2 := r1.log2.toNat }
      if r1.log2.toNat < 4 ∨ 16 < r1.log2.toNat then r1 else { r2 with active := true }
  s.setFn f { s.fn f with ring := r2 }

/-- EVENT_ENABLE. -/
def execEventEnable (p : PortNo) (f : FnNo) (ctrl : W32) (s : State) : Host.Outcome State Fault Refusal :=
  when s (s.reachable (fnKey p.val f.val) && bitAt ctrl.toNat 31) (s.writeRingCtrl (fnKey p.val f.val) ctrl.toNat)

/-- EVENT_DISABLE. -/
def execEventDisable (p : PortNo) (f : FnNo) (ctrl : W32) (s : State) : Host.Outcome State Fault Refusal :=
  when s (s.reachable (fnKey p.val f.val) && !bitAt ctrl.toNat 31) (s.writeRingCtrl (fnKey p.val f.val) ctrl.toNat)

/-- A write of RING_HEAD: outside the ring, or not between the old head and the tail, it is ignored. -/
def State.writeRingHead (s : State) (f v : Nat) : State :=
  let r := (s.fn f).ring
  let n := 2 ^ r.lLog2
  let h := v % 2 ^ 16
  if h < n ∧ (h + n - r.head) % n ≤ (r.tail + n - r.head) % n then s.setFn f { s.fn f with ring := { r with head := h } } else s

def execRingHead (p : PortNo) (f : FnNo) (value : W32) (s : State) : Host.Outcome State Fault Refusal :=
  when s (s.reachable (fnKey p.val f.val)) (s.writeRingHead (fnKey p.val f.val) value.toNat)

/-! ## PART registers (R415, R493, R494, R501, R678) -/

/-- A write of BAR4_VA. -/
def State.writeBar4Va (s : State) (f v : Nat) : State :=
  let fn : Fn := { s.fn f with bar4Va := BitVec.ofNat 64 v }
  s.setFn f { fn with bar4Va := BitVec.ofNat 64 fn.bar4Base }

def execBar4Va (p : PortNo) (f : FnNo) (value : W64) (s : State) : Host.Outcome State Fault Refusal :=
  let k := fnKey p.val f.val
  when s (s.reachable k && (s.fnSlot k).isSome) (s.writeBar4Va k value.toNat)

/-- A write of TWIN_ALIAS, ignored in the cases of R494. -/
def Part.writeAlias (p : Part) (v : Nat) : Part :=
  let en := bitAt v 31
  let al := bits v 16 14
  let zone := bits v 0 14
  if p.twins.any (fun e => e.2.twinned) ||
     (en && (zone == al || zone == 0 || al == 0 || p.side0.any fun e => e.2.valid && e.1 / 2 ^ 22 == al)) then p
  else { p with twinAlias := BitVec.ofNat 32 (2 ^ 31 * bit en + 2 ^ 16 * al + zone) }

def execTwinAliasWrite (p : PortNo) (f : FnNo) (value : W32) (s : State) : Host.Outcome State Fault Refusal :=
  .next (match s.fnSlot (fnKey p.val f.val) with
    | none => s
    | some i => if s.reachable (fnKey p.val f.val) then s.setPart i ((s.part i).writeAlias value.toNat) else s)

/-! ## Mailboxes (R163 to R170) -/

/-- A function may send to the platform function and to its own port's functions; the platform function to every one. -/
def State.routeOk (s : State) (f g : Nat) : Bool := s.platform == some f || s.platform == some g || f / 16 == g / 16

/-- GO: the message and destination are captured, and the channel is PENDING, or DONE with the device's own code. -/
def State.mboxGo (s : State) (f c : Nat) : State :=
  let ch := s.chan f c
  if ch.state = .pending ∨ ch.state = .delivered then s else
  let g := fnKey ch.destPort ch.destFn
  let s1 := s.setChan f c { ch with
    state := .pending, seq := ch.seq + 1, capMsg := tabSet 0 ch.txMsg 0 (BitVec.ofNat 32 (s.stamp f (ch.seq + 1)))
    capDest := (ch.destPort, ch.destFn, ch.destCh), goTime := s.time }
  if !s.routeOk f g then s1.mboxDone f c 0xFF01
  else if !s.fnPresent g || s.fnReset g then s1.mboxDone f c 0xFF02
  else s1

/-- ABORT: a PENDING message is withdrawn. -/
def State.mboxAbort (s : State) (f c : Nat) : State :=
  if (s.chan f c).state = .pending then s.mboxDone f c 0xFF04 else s

/-- A write of TX_CTRL: its fields, then GO, then ABORT (R176). -/
def State.writeTxCtrl (s : State) (f c v : Nat) : State :=
  let s1 := s.setChan f c { s.chan f c with
    vector := BitVec.ofNat 7 (v / 2 ^ 16), irqEn := bitAt v 15, destPort := bits v 12 1, destFn := bits v 8 4, destCh := bits v 0 4 }
  let s2 := if bitAt v 31 then s1.mboxGo f c else s1
  if bitAt v 30 then s2.mboxAbort f c else s2

/-- GO. -/
def execGo (p : PortNo) (f : FnNo) (ch : ChanNo) (ctrl : W32) (s : State) : Host.Outcome State Fault Refusal :=
  when s (s.reachable (fnKey p.val f.val) && bitAt ctrl.toNat 31) (s.writeTxCtrl (fnKey p.val f.val) ch.val ctrl.toNat)

/-- ABORT. -/
def execAbort (p : PortNo) (f : FnNo) (ch : ChanNo) (s : State) : Host.Outcome State Fault Refusal :=
  when s (s.reachable (fnKey p.val f.val)) (s.mboxAbort (fnKey p.val f.val) ch.val)

/-- The senders whose PENDING message names a receive half, by GO time, port, function and channel (R168). -/
def State.senders (s : State) (g c : Nat) : List (Nat × Nat × Nat) :=
  (List.range 32).flatMap fun f => ((s.fn f).chans.filter fun e =>
    e.2.state == .pending && fnKey e.2.capDest.1 e.2.capDest.2.1 == g && e.2.capDest.2.2 == c).map fun e => (e.2.goTime, f, e.1)

/-- A message copied into a receive half. -/
def State.mboxArrive (s : State) (g c f d : Nat) : State :=
  let snd := s.chan f d
  let rx := s.chan g c
  let s1 := s.setChan g c { rx with rxMsg := snd.capMsg, full := true, rxFrom := some (f / 16, f % 16, d) }
  let s2 := s1.setChan f d { s1.chan f d with state := .delivered }
  let s3 := match s2.fnSlot g with
    | some i => if rx.tokenEn then s2.raiseToken i rx.token.toNat else s2
    | none => s2
  if rx.rxIrqEn then s3.interrupt g rx.rxVector.toNat else s3

/-- MBOX_DELIVER: the first waiting message of this receive half, once FULL is clear. -/
def execMboxDeliver (p : PortNo) (f : FnNo) (ch : ChanNo) (s : State) : Host.Outcome State Fault Refusal :=
  let g := fnKey p.val f.val
  .next (if (s.chan g ch.val).full then s else
    match minBy (·.1) (s.senders g ch.val) with
    | none => s
    | some e => s.mboxArrive g ch.val e.2.1 e.2.2)

/-- A write of RX_ACK. -/
def State.writeRxAck (s : State) (f c v : Nat) : State :=
  let ch := s.chan f c
  if !ch.full ∨ 0xFF00 ≤ v % 2 ^ 16 then s else
  let s1 := s.setChan f c { ch with full := false, rxFrom := none }
  match ch.rxFrom with
  | none => s1
  | some o => s1.mboxDone (fnKey o.1 o.2.1) o.2.2 (v % 2 ^ 16)

/-- RX_ACK. -/
def execRxAck (p : PortNo) (f : FnNo) (ch : ChanNo) (value : W32) (s : State) : Host.Outcome State Fault Refusal :=
  when s (s.reachable (fnKey p.val f.val)) (s.writeRxAck (fnKey p.val f.val) ch.val value.toNat)

/-! ## Register writes (R14 to R16, R143, R674, R675) -/

/-- A 64-bit RW register written whole; every other 64-bit register is RO. -/
def State.write64 (s : State) (f off v : Nat) : State :=
  if 0x10000 ≤ off ∧ off < 0x11000 then
    let q := (off - 0x10000) / 0x40
    let qu := s.queue f q
    let a := BitVec.ofNat 64 (v / 4096 * 4096)
    if qu.active then s
    else if off % 0x40 = 0 then s.setQueue f q { qu with sqBase := a } else s.setQueue f q { qu with cqBase := a }
  else if off = 0x40000 then
    let r := (s.fn f).ring
    if r.active then s else s.setFn f { s.fn f with ring := { r with base := BitVec.ofNat 64 (v / 4096 * 4096) } }
  else match s.fnSlot f with
    | none => s
    | some i =>
      if off = 0x20040 then s.writeBar4Va f v
      else if off = 0x20048 then s.setPart i { s.part i with trackerBase := BitVec.ofNat 64 (v / 4096 * 4096) }
      else if off = 0x20050 then s.setPart i { s.part i with tgroupBase := BitVec.ofNat 64 (v / 4096 * 4096) }
      else s

/-- A word of the MSI-X table written, with what its masks then let go. -/
def State.writeMsix (s : State) (f off v : Nat) : State :=
  let e := off / 16
  let was := ((s.fn f).msixEntry e).toNat
  let lo := 8 * (off % 16)
  let now := was - bits was lo 32 * 2 ^ lo + v * 2 ^ lo
  (s.setFn f { s.fn f with msixTable := tabSet msixReset (s.fn f).msixTable e (BitVec.ofNat 128 now) }).sendPending f

/-- A 32-bit register written (RW, W1C, W1S and WO fields; RO and reserved space ignores it). -/
def State.write32 (s : State) (f off v : Nat) : State :=
  if off = 0x28 then
    (if bitAt v 0 then s.setFn f { s.fn f with rrec := { (s.fn f).rrec with isNew := false } } else s)
  else if 0x6000 ≤ off ∧ off < 0x6800 then s.writeMsix f (off - 0x6000) v
  else if 0x8000 ≤ off ∧ off < 0x9000 then
    let c := (off - 0x8000) / 0x100
    let o := off % 0x100
    let ch := s.chan f c
    if 4 ≤ o ∧ o < 0x40 then s.setChan f c { ch with txMsg := tabSet 0 ch.txMsg (o / 4) (BitVec.ofNat 32 v) }
    else if o = 0x40 then s.writeTxCtrl f c v
    else if o = 0xC0 then s.setChan f c { ch with
      rxVector := BitVec.ofNat 7 (v / 2 ^ 16), rxIrqEn := bitAt v 15, tokenEn := bitAt v 14, token := BitVec.ofNat 12 v }
    else if o = 0xC8 then s.writeRxAck f c v
    else s
  else if 0x10000 ≤ off ∧ off < 0x11000 then
    let q := (off - 0x10000) / 0x40
    if off % 0x40 = 0x10 then s.writeSqCtrl f q v
    else if off % 0x40 = 0x28 then
      (s.setQueue f q { s.queue f q with delayUs := BitVec.ofNat 16 (v / 2 ^ 16), count := BitVec.ofNat 8 v }).moderate f q
    else s
  else if off = 0x40008 then s.writeRingCtrl f v
  else if off = 0x4000C then s.writeRingHead f v
  else if off = 0x20058 then
    (match s.fnSlot f with | some i => s.setPart i ((s.part i).writeAlias v) | none => s)
  else s

/-- The 64-bit registers software writes: a queue's ring bases, the event ring's base, and the partition's BAR4 window and table bases
(R138, R145, R286, R415, R501). -/
def isWideRw (off : Nat) : Bool :=
  (0x10000 ≤ off && off < 0x11000 && (off % 0x40 == 0 || off % 0x40 == 8)) ||
  off == 0x40000 || off == 0x20040 || off == 0x20048 || off == 0x20050

/-- A 32-bit write: the low half of a 64-bit register is held, and the high half writes the register. A half of an RO register has no
effect (R14). -/
def State.writeWord (s : State) (f off v : Nat) : State :=
  let lo := off / 8 * 8
  if !isWide lo then s.write32 f off v
  else if !isWideRw lo then s
  else if off % 8 = 0 then s.setFn f { s.fn f with heldLow := some (off, BitVec.ofNat 32 v) }
  else
    let low := match (s.fn f).heldLow with
      | some h => if h.1 = lo then h.2.toNat else s.reg64 f lo % 2 ^ 32
      | none => s.reg64 f lo % 2 ^ 32
    let s1 := match (s.fn f).heldLow with
      | some h => if h.1 = lo then s.setFn f { s.fn f with heldLow := none } else s
      | none => s
    s1.write64 f lo (low + 2 ^ 32 * v)

/-- A BAR0 write of a number of bytes: aligned accesses of 4 or 8 act, every other one is ignored (R143). -/
def State.regWrite (s : State) (f off size : Nat) (v : Nat) : State :=
  if size = 8 then
    if off % 8 ≠ 0 then s
    else if isWide off then s.write64 f off v
    else (s.write32 f off (v % 2 ^ 32)).write32 f (off + 4) (v / 2 ^ 32)
  else if size ≠ 4 ∨ off % 4 ≠ 0 then s
  else s.writeWord f off (v % 2 ^ 32)

/-- REGISTER_WRITE. -/
def execRegisterWrite (p : PortNo) (f : FnNo) (offset : BitVec 23) (size : Nat) (value : W64) (s : State) :
    Host.Outcome State Fault Refusal :=
  when s (s.reachable (fnKey p.val f.val)) (s.regWrite (fnKey p.val f.val) offset.toNat size value.toNat)

/-- A 32-bit read: the low half of a 64-bit register latches the high half, which the next read of the high half returns. -/
def State.readWord (s : State) (f off : Nat) : State × Nat :=
  let lo := off / 8 * 8
  if !isWide lo then (s, s.regWord f off)
  else if off % 8 = 0 then
    (s.setFn f { s.fn f with latch := some (off + 4, BitVec.ofNat 32 (s.reg64 f lo / 2 ^ 32)) }, s.regWord f off)
  else match (s.fn f).latch with
    | some h => if h.1 = off then (s.setFn f { s.fn f with latch := none }, h.2.toNat) else (s, s.regWord f off)
    | none => (s, s.regWord f off)

/-- A BAR0 read answered; other sizes and alignments read 0. -/
def State.regRead (s : State) (f off size : Nat) : State :=
  if (size ≠ 4 ∧ size ≠ 8) ∨ off % size ≠ 0 then s.hostReply f 0 (bytesOfNat 0 size)
  else if size = 8 then s.hostReply f 0 (bytesOfNat (s.regWord f off) 4 ++ bytesOfNat (s.regWord f (off + 4)) 4)
  else
    let r := s.readWord f off
    r.1.hostReply f 0 (bytesOfNat r.2 4)

/-- REGISTER_READ_LATCH: a read of BAR0, with the latch of R675; Unsupported Request where the function does not answer. -/
def execRegisterReadLatch (p : PortNo) (f : FnNo) (offset : BitVec 23) (size : Nat) (s : State) :
    Host.Outcome State Fault Refusal :=
  .next (if s.reachable (fnKey p.val f.val) then s.regRead (fnKey p.val f.val) offset.toNat size
    else s.hostReply (fnKey p.val f.val) 1 [])

/-- HOST_LINK_TRAINED (R116): the port's link is up. -/
def execHostLinkTrained (p : PortNo) (s : State) : Host.Outcome State Fault Refusal :=
  when s (s.powered && (s.port p.val).enabled && (s.port p.val).training)
    (s.setPort p.val { s.port p.val with linkUp := true, training := false })

end Sys2Proof.Machine
end

