-- ==== Sys2Proof/Machine/Matrix.lean ====
section
/-!
DEFINITION. The matrix engine: one pass of a sub-array, from its stationary block and moving rows to its accumulator rows and
emitted outputs (R330 to R342, R345 to R347, R350 to R353, R357, R358, R406 to R408, R418).
-/
namespace Sys2Proof.Machine

/-! ## Elements in scratch (R345, R346) -/

/-- Bytes of n packed elements. -/
def packedBytes (f n : Nat) : Nat := ceilDiv (n * fmtBits f) 8

/-- n elements of a row of tagged bytes. -/
def unpackRow (f n : Nat) (bs : List TByte) : List (W16 × Bool) :=
  let v := natOfBytes (bs.map (·.1))
  let w := fmtBits f
  (List.range n).map fun i =>
    let lo := i * w / 8
    let hi := (i * w + w - 1) / 8
    (BitVec.ofNat 16 (bits v (i * w) w), ((bs.drop lo).take (hi + 1 - lo)).any (·.2))

/-- The value of an element; an INT8 element counts in units of 2^-6 under MX (R407). -/
def elemVal (f : Nat) (mx : Bool) (x : W16) : FVal :=
  match f with
  | 0 => fmtE4M3.decode x.toNat
  | 1 => fmtE5M2.decode x.toNat
  | 2 => fmtE2M3.decode x.toNat
  | 3 => fmtE3M2.decode x.toNat
  | 4 => fmtE2M1.decode x.toNat
  | 5 => let i := signed 8 x.toNat; .fin (decide (i < 0)) i.natAbs (if mx then -6 else 0)
  | 6 => fmtBF16.decode x.toNat
  | _ => fmtFP16.decode x.toNat

/-! ## Stationary planes (R336, R346) -/

/-- The rows of a stationary block read into a plane. -/
def State.loadRows (s : State) (id slot c : Nat) (p : Pass) : List Nat → Plane → State × Option Plane
  | [], pl => (s, some pl)
  | k :: l, pl =>
    match s.cmdScratch id slot c (p.sOff + k * p.sStride) (packedBytes p.sFmt p.nCols) with
    | (s1, none) => (s1, none)
    | (s1, some bs) =>
      let row := unpackRow p.sFmt p.nCols bs
      s1.loadRows id slot c p l { pl with
        elems := pl.elems ++ (row.zipIdx.filterMap fun e => if e.1.1 = 0 then none else some (2048 * k + e.2, e.1.1))
        poison := pl.poison ++ (row.zipIdx.filterMap fun e => if e.1.2 then some (2048 * k + e.2, true) else none) }

/-- The MX scales of its blocks of 32 rows; a poisoned scale poisons its block. -/
def State.loadScales (s : State) (id slot c : Nat) (p : Pass) (step : Nat) : List Nat → Plane → State × Option Plane
  | [], pl => (s, some pl)
  | b :: l, pl =>
    match s.cmdScratch id slot c (p.sScaleOff + step * b) p.nCols with
    | (s1, none) => (s1, none)
    | (s1, some bs) =>
      s1.loadScales id slot c p step l { pl with
        scales := bs.zipIdx.foldl (fun t e => tabSet 0 t (2048 * b + e.2) e.1.1) pl.scales
        poison := bs.zipIdx.foldl (fun t e => if e.1.2 then tabSet false t (2048 * (32 * b) + e.2) true else t) pl.poison }

/-- A stationary block loaded. -/
def State.loadPlane (s : State) (id slot c mode : Nat) (p : Pass) : State × Option Plane :=
  match s.loadRows id slot c p (List.range p.kRows) { fmt := p.sFmt, kRows := p.kRows } with
  | (s1, none) => (s1, none)
  | (s1, some pl) =>
    if p.mx then s1.loadScales id slot c p (if mode = 3 then 2048 else 512) (List.range (ceilDiv p.kRows 32)) pl else (s1, some pl)

/-- The plane in use. -/
def SubArray.plane (a : SubArray) : Plane := if a.activeB then a.planeB else a.planeA
/-- A block loaded into the plane that was not in use, which is then in use. -/
def SubArray.load (a : SubArray) (pl : Plane) : SubArray :=
  if a.activeB then { a with planeA := pl, activeB := false } else { a with planeB := pl, activeB := true }

/-! ## Moving rows (R338, R346) -/

/-- What one output row takes from the moving rows: elements, scale bytes, poison. -/
structure MovRow where
  vals : List FVal := []
  scales : List Nat := []
  poison : Bool := false
deriving DecidableEq, Repr

/-- One moving row read. -/
def State.movingRow (s : State) (id slot c : Nat) (p : Pass) (m : Nat) : State × Option MovRow :=
  let n := p.rowElems
  match s.cmdScratch id slot c (p.mOff + m * p.mStride) (packedBytes p.mFmt n) with
  | (s1, none) => (s1, none)
  | (s1, some bs) =>
    let row := unpackRow p.mFmt n bs
    let r : MovRow := { vals := row.map fun e => elemVal p.mFmt p.mx e.1, poison := row.any (·.2) }
    if !p.mx then (s1, some r) else
    match s1.cmdScratch id slot c (p.mScaleOff + m * ceilDiv n 32) (ceilDiv n 32) with
    | (s2, none) => (s2, none)
    | (s2, some sc) => (s2, some { r with scales := sc.map (·.1.toNat), poison := r.poison || sc.any (·.2) })

/-- Moving rows m, m − 1, … joined, band by band. -/
def State.movingBands (s : State) (id slot c : Nat) (p : Pass) : List Nat → MovRow → State × Option MovRow
  | [], r => (s, some r)
  | m :: l, r =>
    match s.movingRow id slot c p m with
    | (s1, none) => (s1, none)
    | (s1, some x) =>
      s1.movingBands id slot c p l { vals := r.vals ++ x.vals, scales := r.scales ++ x.scales, poison := r.poison || x.poison }

/-- The moving rows of output row j. -/
def Pass.bands (p : Pass) (j : Nat) : List Nat :=
  if p.reuse then (List.range p.reuseH).map fun h => p.reuseH - 1 + j * p.reuseS - h else [j]

/-- The moving rows from lo on, below hi: they enter and reach no output (R339). -/
def Pass.between (lo hi : Nat) : List Nat := (List.range (hi - lo)).map (lo + ·)
/-- Those that enter between the windows of outputs j - 1 and j. -/
def Pass.gapRows (p : Pass) (j : Nat) : List Nat :=
  if p.reuse ∧ 0 < j then Pass.between (p.reuseH + (j - 1) * p.reuseS) (j * p.reuseS) else []
/-- Those that enter past the last window. -/
def Pass.tailRows (p : Pass) : List Nat :=
  if p.reuse then Pass.between (p.reuseH + (p.outRows - 1) * p.reuseS) p.mRows else []

/-! ## Column sums (R332, R358, R408) -/

/-- An exact sum of products under way: a NaN, an infinity, or an exact value, and INVALID. -/
structure BlockSum where
  nan : Bool := false
  inf : Option Bool := none
  sum : Exact := {}
  flags : Flags := 0
deriving DecidableEq, Repr

/-- One product added in. -/
def BlockSum.add (b : BlockSum) (x y : FVal) : BlockSum :=
  let bad : BlockSum := { b with nan := true, flags := b.flags ||| flInvalid }
  let inf := fun (s : Bool) => match b.inf with
    | some t => if s = t then b else bad
    | none => { b with inf := some s }
  match x, y with
  | .nan _, _ => bad
  | _, .nan _ => bad
  | .inf s, .inf t => inf (s != t)
  | .inf s, .fin t m _ => if m = 0 then bad else inf (s != t)
  | .fin t m _, .inf s => if m = 0 then bad else inf (s != t)
  | .fin s m e, .fin t n g => { b with sum := b.sum.add (Exact.mul ⟨s, m, e⟩ ⟨t, n, g⟩) }

/-- The value of a block sum times 2^k: beyond the FP32 range it is an infinity and raises OVERFLOW. -/
def BlockSum.value (b : BlockSum) (k : Int) : FVal × Flags :=
  if b.nan then (.nan false, b.flags) else
  match b.inf with
  | some s => (.inf s, b.flags)
  | none =>
    let x := b.sum.scale k
    if (fmtFP32.round .infinity x.neg x.m x.e).2 &&& flOverflow != 0 then (.inf x.neg, b.flags ||| flOverflow)
    else (.fin x.neg x.m x.e, b.flags)

/-- Blocks of 32. -/
def chunks32 {α : Type} : Nat → List α → List (List α)
  | 0, _ => []
  | _, [] => []
  | n + 1, l => l.take 32 :: chunks32 n (l.drop 32)

/-- A column sum: products of a block summed exactly, scaled, and added to nearest even; products of 16-bit formats added
one by one. -/
def colSum (p : Pass) (pairs : List (FVal × FVal)) (sm ss : List Nat) : FRes :=
  if fmtClass p.mFmt = 3 then
    pairs.foldl (fun a e =>
      let r := fmaVal none e.1 e.2 (decode32 a.1)
      (r.1, a.2 ||| r.2 ||| flIf (e.1.isNan || e.2.isNan) flInvalid)) (0, 0)
  else
    ((chunks32 pairs.length pairs).zipIdx).foldl (fun a e =>
      let b := e.1.foldl (fun (b : BlockSum) x => b.add x.1 x.2) {}
      let xm := sm.getD e.2 0
      let xs := ss.getD e.2 0
      let v := if p.mx && (xm == 0xFF || xs == 0xFF) then (FVal.nan false, b.flags ||| flInvalid)
               else b.value (if p.mx then (xm : Int) + xs - 254 else 0)
      let r := addVal none (decode32 a.1) v.1
      (r.1, a.2 ||| v.2 ||| r.2)) (0, 0)

/-- The column sums of one output row: value, poison, flags. -/
def rowSums (p : Pass) (pl : Plane) (r : MovRow) (lost : List Nat) : List (Elem × Flags) :=
  (List.range p.nCols).map fun j =>
    let ks := List.range p.kRows
    let bad := r.poison || lost.contains j || (ks.any fun k => tabGet false pl.poison (2048 * k + j))
    let pairs := (r.vals.zip ks).map fun e => (e.1, elemVal p.sFmt p.mx (tabGet 0 pl.elems (2048 * e.2 + j)))
    let v := colSum p pairs r.scales ((List.range (ceilDiv p.kRows 32)).map fun b => (tabGet 0 pl.scales (2048 * b + j)).toNat)
    ((v.1, bad), if bad then 0 else v.2)

/-! ## Accumulators (R340, R342) -/

/-- Column sums set into, or added into, an accumulator row. rnd: stochastic, with the draw's seed, identity and index. -/
def SubArray.accumulate (a : SubArray) (row : Nat) (add : Bool) (rnd : Option (W64 × Nat × Nat)) (l : List (Elem × Flags)) :
    SubArray × Flags :=
  let draws := match rnd with
    | none => []
    | some (seed, eng, ix) => (List.range (ceilDiv l.length 4)).map fun g => draw seed eng ix (a.draws + g)
  let out := l.zipIdx.map fun e =>
    let key := 2048 * row + e.2
    if !add then e.1 else
    let u := rnd.map fun _ => drawLane (draws.getD (e.2 / 4) 0) (e.2 % 4)
    let r := addVal u (decode32 (tabGet 0 a.acc key)) (decode32 e.1.1.1)
    let p := e.1.1.2 || tabGet false a.accPoison key
    let fl := if u.isSome && r.2 &&& flOverflow != 0 then r.2 ||| flNonfinite else r.2
    ((r.1, p), if p then 0 else e.1.2 ||| fl)
  ({ a with
      acc := out.zipIdx.foldl (fun t e => tabSet 0 t (2048 * row + e.2) e.1.1.1) a.acc
      accPoison := out.zipIdx.foldl (fun t e => tabSet false t (2048 * row + e.2) e.1.1.2) a.accPoison
      draws := a.draws + draws.length },
   out.foldl (fun g e => g ||| e.2) 0)

/-- The K counts after a pass. -/
def SubArray.countK (a : SubArray) (p : Pass) : SubArray :=
  let blocks := ((List.range p.outRows).map fun j => (p.accBase + j) / 64).eraseDups
  { a with kCount := blocks.foldl (fun t b => tabSet 0 t b ((if p.acc then tabGet 0 t b else 0) + p.kRows)) a.kCount }

/-! ## Emission (R340, R341, R418) -/

/-- One element scaled by O_SCALE and a tracker: the element, its flags, and what the tracker's record becomes. -/
def emitElem (scale : W32) (u : Option TrackerUse) (v : Elem) : (Elem × Flags) × Option TrackerUse :=
  let y := mulVal (decode32 v.1) (decode32 scale)
  match u with
  | none => (((y.1, v.2), if v.2 then 0 else y.2 ||| flWritten y.1), u)
  | some t =>
    if v.2 then ((((y.1, true), 0)), u) else
    match decode32 y.1, decode32 t.scale, decode32 t.limit with
    | .fin s m e, .fin _ n g, .fin _ o h =>
      let z := Exact.mul ⟨false, m, e⟩ ⟨false, n, g⟩
      let t1 := { t with amax := maxMag t.amax (y.1 &&& 0x7FFFFFFF#32) }
      if decide ((⟨false, o, h⟩ : Exact).at (min h z.e) < z.at (min h z.e)) then
        (((t.limit ||| (if s then 0x80000000#32 else 0), false), y.2 ||| flOverflow ||| flInexact), some { t1 with ovf := true, ovfCount := t1.ovfCount + 1 })
      else
        let r := round32 none { z with neg := s }
        (((r.1, false), y.2 ||| r.2), some t1)
    | _, _, _ => (((y.1, false), y.2 ||| flNonfinite), some { t with ovf := true, ovfCount := t.ovfCount + 1 })

/-- A row emitted element by element. -/
def emitRow (scale : W32) : Option TrackerUse → List Elem → List (Elem × Flags) × Option TrackerUse
  | u, [] => ([], u)
  | u, v :: l =>
    let r := emitElem scale u v
    let t := emitRow scale r.2 l
    (r.1 :: t.1, t.2)

/-- A pass under way: the state, its run, its sub-array, and whether it goes on. -/
structure PassRun where
  st : State
  run : TileRun
  sub : SubArray
  live : Bool := true

/-- The elements of an emitted row sent where O_KIND says. -/
def PassRun.output (o : PassRun) (id slot c : Nat) (p : Pass) (j : Nat) (l : List (Elem × Flags)) : PassRun :=
  let fl := l.foldl (fun g e => g ||| e.2) 0
  let run := { o.run with flags := o.run.flags ||| fl }
  let foot := o.run.foot
  let off := p.oOff + j * p.oStride
  match p.oKind with
  | 0 =>
    let w := o.st.cmdScratchWrite id slot c foot off (l.flatMap fun e => e.1.bytes)
    { o with st := w.1, run := run, live := w.2 }
  | 1 =>
    let m : AccMode := { sr := run.sr && decide (run.beSrAfter < run.accIndex), seed := run.srStep, index := run.accIndex }
    let r := ({ st := o.st, draws := run.accDraws } : AccOut).run slot c foot m (elemPieces off l.length) (l.map fun e => some e.1)
    let s1 := match r.poison with
      | some x => r.st.notePoison id (x + 2 ^ 63)
      | none => r.st
    { o with st := match r.stop with | some e => s1.endCmd id e.1 e.2 | none => s1
             run := { run with accDraws := r.draws, flags := run.flags ||| r.flags }, live := r.stop.isNone }
  | 2 =>
    let ns := l.map fun e => (narrowBf16 e.1.1, e.1.2)
    let g := ns.foldl (fun (g : Flags) e => if e.2 then g else g ||| e.1.2) 0
    let w := o.st.cmdScratchWrite id slot c foot off (ns.flatMap fun e => bytes16 (e.1.1, e.2))
    let n := (ns.filter fun e => !e.2 && e.1.2 &&& flOverflow != 0).length
    { o with st := w.1.count 0x7033 (c + 1) n, run := { run with flags := run.flags ||| g }, live := w.2 }
  | _ => { o with run := run, sub := { o.sub with backlog := o.sub.backlog ++ [packetOf (l.map (·.1))] } }

/-- Moving rows that enter and reach no output: they are read as every row is, so their poison and a group that is not held are met. -/
def PassRun.enter (o : PassRun) (id slot c : Nat) (p : Pass) (rows : List Nat) : PassRun :=
  if !o.live then o else
  let r := o.st.movingBands id slot c p rows {}
  { o with st := r.1, live := r.2.isSome }

/-- One output row: sums, accumulator, emission. -/
def PassRun.row (o : PassRun) (id slot c q : Nat) (p : Pass) (lost : Nat → List Nat) (j : Nat) : PassRun :=
  if !o.live then o else
  match o.st.movingBands id slot c p (p.bands j) {} with
  | (s1, none) => { o with st := s1, live := false }
  | (s1, some r) =>
    let row := p.accBase + j
    let sums := rowSums p o.sub.plane r (lost ((p.bands j).headD j))
    let sr := p.acc && o.run.sr && decide (o.run.arraySrAfter < tabGet 0 o.sub.kCount (row / 64))
    let a := o.sub.accumulate row p.acc (if sr then some (o.run.srStep, 2 ^ 28 + c * 2 ^ 24 + q, o.run.accIndex) else none) sums
    let s2 := if sr then s1.count 0x7017 (c + 1) 1 else s1
    let o1 : PassRun := { o with st := s2, sub := a.1, run := { o.run with flags := o.run.flags ||| a.2 } }
    if !p.emit then o1 else
    let vals := (List.range p.nCols).map fun k => (tabGet 0 a.1.acc (2048 * row + k), tabGet false a.1.accPoison (2048 * row + k))
    let use := if p.tracker = 0 then none else some (tabGet {} o.run.trackers p.tracker)
    let e := emitRow p.oScale use vals
    let o2 : PassRun := match use, e.2 with
      | some t0, some t =>
        { o1 with run := { o1.run with trackers := tabPut o1.run.trackers p.tracker t }
                  st := o1.st.count 0x7030 (slot + 1) (t.ovfCount - t0.ovfCount) }
      | _, _ => o1
    o2.output id slot c p j e.1

/-! ## One pass (R336, R347, R352, R357) -/

/-- The stream rows a pass waits for have all arrived, and none of them is stale (R285, R347). -/
def State.rowsHere (s : State) (c id : Nat) (r : TileRun) (p : Pass) : Bool :=
  match p.wait with
  | none => true
  | some k => match r.streams[k]? with
    | none => true
    | some t => t.ready p.waitRow && !s.rowsComing c id k p.waitRow

/-- A pass holds credit for its first output: its sub-array's earlier rows have left, and the tile queue has room for a word where
the pass writes it and the vector program still takes them (R28, R31). -/
def TileRun.credit (r : TileRun) (q : Nat) (p : Pass) : Bool :=
  (r.sub q).backlog.isEmpty && (!p.toQueue || !r.vec.active || decide (0 < r.drops) || decide (r.queue.length < 1024))

/-- A consumption that finds its row not yet arrived, counted once (R288). -/
def State.noteLate (s : State) (c q : Nat) (r : TileRun) : State :=
  if (r.sub q).late then s else (s.putTile c (r.setSub q { r.sub q with late := true })).count 0x5023 (c + 1) 1

/-- The logical columns of a sub-array that a physical 8-column group carries (R350, R351). -/
def lostCols (mode q : Nat) (bad : W64) (g : Nat) : List Nat :=
  if bitAt bad.toNat g then [] else
  let k := (maskList bad.toNat 64).length
  let p := 8 * ((List.range g).filter fun i => !bitAt bad.toNat i).length
  let sp := subSpan mode q k
  let cols := (List.range 8).filterMap fun i => if sp.1 ≤ p + i ∧ p + i < sp.1 + sp.2 then some (p + i - sp.1) else none
  if mode = 3 then (List.range 4).flatMap fun b => cols.map (512 * b + ·) else cols

/-- A column-check mismatch: counted, announced, and past the limit the group is marked for retirement (R357, R361). -/
def State.columnError (s : State) (c g : Nat) : State :=
  let k := s.core c
  let times := s.time :: ((tabGet [] k.colErrors g).filter fun t => decide (s.time ≤ t + 86400000000))
  let s1 := ((s.setCore c { k with colErrors := tabSet [] k.colErrors g times }).count 0x7018 (c + 1) 1).noteFault (unitId 0 c 0) 2
  let s2 := s1.event 0x0810 (c + 16 * g) (s1.coreFns c)
  let field := s2.entry 0x2032 (c + 1)
  if times.length < s2.entry 0x2034 2 ∨ bitAt field g then s2 else
  let all := (tabGet 0 s2.fuses.badGroups c).toNat ||| field ||| 2 ^ g
  let s3 := s2.dictSet (dk 0x2032 (c + 1)) (field ||| 2 ^ g)
  s3.event 0x0811 (c + 16 * g + 1024 * min 5 (maskList all 64).length) (s3.coreFns c)

/-- A sub-array's presented width among its logical columns, in WIDE among each band's. -/
def subWidth (mode k : Nat) (q : Nat) : Nat × Nat :=
  if mode = 3 then (512 - 8 * k, 512) else ((subSpan mode q k).2, modeWidth mode)

/-- The columns of one moving row that a mismatch poisons. In the main pass they are those the physical group carries. In the
remainder pass, chain i, of rows i, i + 4 and so on, runs on presented columns i × r to i × r + r − 1 of the sub-array (log 105). -/
def mismatchCols (e : ColumnFault) (mode q : Nat) (bad : W64) (n row : Nat) : List Nat :=
  let cols := lostCols mode q bad e.group.val
  let w := subWidth mode (maskList bad.toNat 64).length q
  let r := w.2 - w.1
  if !e.remainder then cols else if n ≤ w.1 then [] else
  cols.filterMap fun j =>
    let at_ := j % 512
    if at_ < 4 * r ∧ at_ / r = row % 4 then some (j - at_ + w.1 + at_ % r) else none

/-- Counters of a pass (R362). -/
def State.countPass (s : State) (c mode q : Nat) (p : Pass) : State :=
  let k := (maskList (s.core c).badGroups.toNat 64).length
  let folded := decide ((if mode = 3 then 512 - 8 * k else (subSpan mode q k).2) < p.nCols) && (mode != 3 || decide (0 < k))
  let links := if p.reuse then (List.range p.mRows).foldl (fun t m => t + min m (p.reuseH - 1)) 0 else 0
  (((s.count 0x7010 (c + 1) 1).count 0x7011 (c + 1) (if folded then 1 else 0)).count 0x7016 (c + 1) links).noteProgress (unitId 0 c 0) p.mRows

/-- One pass run from its load to its last row. -/
def State.runPass (s : State) (d : Cmd) (c q ix : Nat) (r : TileRun) (p : Pass) (mismatch : Option ColumnFault) : State :=
  let a := r.sub q
  let loaded := if p.load then
      (match s.loadPlane d.id d.slot c r.mode p with
       | (s1, none) => (s1, none)
       | (s1, some pl) => (s1, some (a.load pl)))
    else (s, some a)
  match loaded with
  | (s1, none) => s1
  | (s1, some a1) =>
    let lost := fun (row : Nat) => match mismatch with
      | some e => mismatchCols e r.mode q (s1.core c).badGroups p.nCols row
      | none => []
    let o := ((List.range p.outRows).foldl (fun (o : PassRun) j =>
        (o.enter d.id d.slot c p (p.gapRows j)).row d.id d.slot c q p lost j) { st := s1, run := r, sub := a1 }).enter
      d.id d.slot c p p.tailRows
    let run := o.run.setSub q { (o.sub.countK p) with next := ix + 1, late := false }
    let s2 := (o.st.pumpTile c run).countPass c r.mode q p
    let s3 := match p.doneStream with
      | some k => s2.consumeRows c k p.doneRow
      | none => s2
    match mismatch with
    | some e => if (List.range 4).all (fun i => (lost i).isEmpty) then s3.tileFinish d.id else
        (s3.columnError c e.group.val).endCmd d.id 0x020B (e.group.val + 2 ^ 6 * ix + 2 ^ 18 * q)
    | none => s3.tileFinish d.id

/-- PASS_START: errs lists the scratch words it reads with an error. -/
def execPassStart (c : CoreNo) (sub : Fin 16) (read : PassReads) (s : State) :
    Host.Outcome State Fault Refusal :=
  match s.tileOf c.val with
  | none => .next s
  | some (r, d) =>
    match r.nextPass sub.val with
    | none => .next s
    | some (ix, p) =>
      if !s.rowsHere c.val d.id r p then .next (s.noteLate c.val sub.val r)
      else if !r.credit sub.val p then .next s
      else .next ((s.scratchErrs d.slot c.val read.errs).runPass d c.val sub.val ix r p read.mismatch)

end Sys2Proof.Machine
end

