-- ==== Sys2Proof/Machine/MemRows.lean ====
section
/-!
DEFINITION. Line requests, their replies, patrol and scratch scrubbing, retired frames and zeroing (R254 to R261, R270 to
R275, R281, R294, R306, R308, R612).
-/
namespace Sys2Proof.Machine

/-! ## Issue (R270 to R275) -/

/-- The pseudo-channel and bank of a line (R252, R253). -/
def bankOfLine (l : Nat) : Nat × Nat := (pseudoChannel l, lineBank l)

/-- Two requests go to one HBM bank. -/
def MemReq.sameBank (a b : MemReq) : Bool := a.tier == .hbm && b.tier == .hbm && bankOfLine a.line == bankOfLine b.line

/-- Every slot in use. -/
def State.allSlots (s : State) : List MemReq := s.cores.flatMap fun e => e.2.slots

/-- A request is held by a cap of its HBM bank (R271). -/
def State.bankHeld (s : State) (c : Nat) (r : MemReq) : Bool :=
  r.tier == .hbm &&
  (decide (256 ≤ ((s.core c).slots.filter r.sameBank).length) ||
   decide (512 ≤ (s.allSlots.filter fun q => q.slot == r.slot && r.sameBank q).length))

/-- A request breaks no cap and has a free slot. -/
def State.mayIssue (s : State) (c : Nat) (r : MemReq) : Bool :=
  let mine := (s.core c).slots
  if r.tier == .cxl then
    decide ((mine.filter fun q => q.tier == .cxl).length < 256) && decide ((s.allSlots.filter fun q => q.tier == .cxl).length < 2048)
  else
    !s.bankHeld c r && decide ((mine.filter fun q => q.tier == .hbm).length < 4096) &&
    (r.unit != .proboscis || decide ((mine.filter fun q => q.tier == .hbm && q.unit == .proboscis).length < 1024))

/-- A thread of the proboscis holds 16 slots at most (R289). -/
def State.threadRoom (s : State) (c : Nat) (r : MemReq) : Bool :=
  r.unit != .proboscis ||
  decide (((s.core c).slots.filter fun q => q.unit == .proboscis && q.gen == r.gen && q.tag == r.tag).length < 16)

/-- The requests of a core's queue that break no cap, have a free slot and follow no older request to their bank, with their places:
one of these issues (R271, R272). -/
def State.issuable (s : State) (c : Nat) : List MemReq → List MemReq → Nat → List (Nat × MemReq)
  | _, [], _ => []
  | seen, r :: l, i =>
    let rest := s.issuable c (seen ++ [r]) l (i + 1)
    if !(seen.any r.sameBank) && s.mayIssue c r && s.threadRoom c r then (i, r) :: rest else rest

/-- The requests of every core that could issue now and go to a resource. -/
def State.wanting (s : State) (x : Nat) : List MemReq :=
  (s.cores.flatMap fun e => (s.issuable e.1 [] e.2.issue 0).map (·.2)).filter fun r => r.res == x

/-- A slot's spare-class request has its turn at a resource: no floor-class request could be served there, and no slot with tokens
stands before it, the slots whose engines wait among them (R245, R246). -/
def State.lineTurn (s : State) (i x : Nat) : Bool :=
  let l := s.wanting x
  !(l.any fun r => s.floorHas r.slot x lineBytes) &&
  (turnOrder (tabGet 0 s.fabric.spareTurn x)).find? (fun j => decide (0 < s.spareRoom j x) ||
    l.any fun r => r.slot == j && s.ceilHas j x lineBytes) == some i

/-- The oldest of these requests that its regulator serves, with its place and its class. -/
def State.pickIssue (s : State) : List (Nat × MemReq) → Option (Nat × MemReq × State)
  | [] => none
  | (i, r) :: l =>
    match s.regServe r.slot r.res lineBytes r.write (s.lineTurn r.slot r.res) with
    | some t => some (i, { r with floor := s.floorHas r.slot r.res lineBytes }, t)
    | none => s.pickIssue l

/-- The bank that last held a request: every queued request that a cap holds is looked at, in queue order, so the youngest of them
names it (R275, DESIGN CHOICE, log 99). -/
def State.noteHot (s : State) (c : Nat) : State :=
  match ((s.core c).issue.filter (s.bankHeld c)).getLast? with
  | none => s
  | some r =>
    let v := (bankOfLine r.line).1 + 512 * (bankOfLine r.line).2
    (s.dictSet (dk 0x5015 (c + 1)) v).setCore c { s.core c with grantHot := v }

/-- A request takes its slot, after every request that holds one, and reaches its channel. -/
def State.issueAt (s0 : State) (c i : Nat) (r0 : MemReq) : State :=
  let s := s0.reachLine (r0.tier == .cxl) (r0.line * lineBytes)
  let k := s.core c
  let r := { r0 with order := 1 + s.allSlots.foldl (fun n q => max n q.order) 0 }
  let slots := k.slots ++ [r]
  let n := (slots.filter fun q => q.tier == .hbm).length
  (s.setCore c { k with issue := k.issue.eraseIdx i, slots := slots, grantPeak := max k.grantPeak n }).dictSet (dk 0x5013 (c + 1))
    (max (s.entry 0x5013 (c + 1)) n)

/-- REQUEST_ISSUE. -/
def execRequestIssue (c : CoreNo) (s : State) : Host.Outcome State Fault Refusal :=
  let s1 := s.noteHot c.val
  match s1.pickIssue (s1.issuable c.val [] (s1.core c.val).issue 0) with
  | none => .next s1
  | some (i, r, t) => .next (t.issueAt c.val i r)

/-! ## Errors of a line (R254 to R259, R294) -/

/-- The functions an event about a frame goes to. -/
def State.frameFns (s : State) (cxl : Bool) (f : Nat) : List Nat :=
  match (s.frame cxl f).owner with
  | some i => s.slotFns i
  | none => s.platformFns

/-- The expander a CXL frame lies on. -/
def State.expanderOf (s : State) (f : Nat) : Nat :=
  ((s.expanders.find? fun e => decide (e.2.base ≤ f) && decide (f < e.2.base + e.2.frames)).map (·.1)).getD 0

/-- DETAIL of an event about a line. -/
def State.lineDetail (s : State) (cxl : Bool) (line : Nat) : Nat :=
  (if cxl then 8 + s.expanderOf (line / 256) else hbmStack (line * lineBytes)) + 2 ^ 4 * (line / 256)

/-- The next spare frame that is not retired, n retired ones passed at most. -/
def State.nextSpare (s : State) : Nat → Nat → Option Nat
  | 0, _ => none
  | fuel + 1, n => if 4096 ≤ n then none else if (s.frame false (spareFrame n)).retired then s.nextSpare fuel (n + 1) else some n

/-- An HBM frame meets the condition of R258: listed and awaiting its copy, or, with no spare left, recorded and kept in use. A frame
that no partition holds needs no spare and is listed at once; one kept in use is not granted again once it is freed; and
SPARES_EXHAUSTED goes where an event about the frame would go (DESIGN CHOICE, log 115). -/
def State.retireFrame (s : State) (line : Nat) : State :=
  let f := line / 256
  let r := s.frame false f
  if r.retired || r.retiring then s else
  let held := r.owner.isSome || r.twinSpare
  if held && decide (s.sparesLeft ≤ (s.hbmFrames.filter fun e => e.2.retiring).length) then
    let s1 := s.setFrame false f { r with retired := true, noSpare := true }
    if s1.sup.sparesOut then s1
    else ({ s1 with sup := { s1.sup with sparesOut := true } }).event 0x0303 0 (s1.frameFns false f)
  else
    let s1 := s.setFrame false f (if held then { r with retiring := true } else { r with retired := true })
    s1.event 0x0302 (s1.lineDetail false line) (s1.frameFns false f)

/-- A corrected error of an HBM line: three within a day retire its frame. -/
def State.lineCorrected (s : State) (line : Nat) : State :=
  let f := line / 256
  let r := s.frame false f
  let times := s.time :: (r.ceTimes.filter fun t => decide (s.time ≤ t + 86400000000))
  let s1 := (s.setFrame false f { r with ceTimes := times }).count 0x5001 (hbmStack (line * lineBytes) + 1) 1
  if 3 ≤ times.length then s1.retireFrame line else s1

/-- A line found with an uncorrectable error is poisoned; found again, it counts nothing. -/
def State.linePoison (s : State) (cxl : Bool) (line : Nat) : State :=
  if s.linePoisoned cxl (line * lineBytes) then s else
  let s1 := s.setLinePoison cxl (line * lineBytes) true
  let s2 := s1.event 0x0301 (s1.lineDetail cxl line) (s1.frameFns cxl (line / 256))
  if cxl then s2 else (s2.count 0x5002 (hbmStack (line * lineBytes) + 1) 1).retireFrame line

/-- What the check bits of a read of a line show. -/
def State.lineEcc (s : State) (cxl : Bool) (line : Nat) (ecc : Ecc) : State :=
  match ecc with
  | .clean => s
  | .corrected => if cxl then s else s.lineCorrected line
  | .uncorrectable => s.linePoison cxl line

/-! ## Replies (R257, R612) -/

/-- A command learns of poison in what it has read: it will complete POISON_READ, although its work may have ended (R257). -/
def State.latePoison (s : State) (id addr : Nat) : State :=
  match s.cmd id with
  | none => s
  | some c =>
    if c.poisoned.isSome then s else
    match c.phase with
    | .ended st _ =>
      if st = 0 ∨ c.late.map (·.1) = some st then s.setCmd { c with poisoned := some addr, phase := .ended 0x0201 addr } else s
    | _ => s.setCmd { c with poisoned := some addr }

/-- The words of n scratch bytes from an offset poisoned. -/
def State.poisonScratch (s : State) (c x n : Nat) : State :=
  (pieces 4 x n).foldl (fun s e => s.setWordPoison c (scratchLoc e.1).1 ((scratchLoc e.1).2 / 16) true) s
/-- Elements lo to hi − 1 of a list poisoned. -/
def poisonElems (lo hi : Nat) (l : List Elem) : List Elem :=
  l.zipIdx.map fun e => if lo ≤ e.2 ∧ e.2 < hi then (e.1.1, true) else e.1

/-- Bytes off to off + n − 1 of the row gathered for a position poisoned where they went: the output row, the bag's sum in scratch,
or the sum under way; nothing where the row is still to be gathered. -/
def State.poisonGather (s : State) (c id pos off n : Nat) : State :=
  let g := (s.core c).gather
  if g.cmd ≠ some id ∨ g.done ≤ pos then s
  else if !g.sum then s.poisonScratch c (g.dest + pos * g.destStride + off) n
  else
    let w := if g.bf16 then 2 else 4
    let lo := off / w
    let hi := (off + n + w - 1) / w
    if pos / g.bag = g.done / g.bag ∧ g.done % g.bag ≠ 0 then
      s.setCore c { s.core c with gather := { g with acc := poisonElems lo hi g.acc } }
    else s.poisonScratch c (g.dest + pos / g.bag * g.destStride + 4 * lo) (4 * (hi - lo))

/-- A place that data with an uncorrectable error went to is tagged (R257): scratch of a core whose command still runs there, the
destination line in device memory, or host memory by the EP bit. -/
def State.poisonDest (s : State) (c : Nat) (r : MemReq) (d : MemDest) : State :=
  match d with
  | .nowhere => s
  | .scratch off n => if (s.core c).tile.cmd = some r.cmd then s.poisonScratch c off n else s
  | .device va n => (lineSpans va n).foldl (fun s e => match s.translate r.slot e.1 with
      | some w => s.setLinePoison w.cxl w.dpa true
      | none => s) s
  | .host p addr n => { s with out := s.out ++ [Out.hostPoison p addr n] }
  | .gather id pos off n => (s.poisonGather c id pos off n).latePoison id r.va

/-- A reply to a request of the core's present generation. -/
def State.replyTo (s : State) (c : Nat) (r : MemReq) (ecc : Ecc) : State :=
  if r.write then s else
  let s1 := s.lineEcc (r.tier == .cxl) r.line ecc
  if ecc == .uncorrectable then r.dests.foldl (fun s d => s.poisonDest c r d) (s1.latePoison r.cmd r.va) else s1

/-- The request an HBM bank serves next: the floor class before the spare class, partitions in turn by slot number, and of one
partition the request that issued first (R273, DEDUCED, log 103). -/
def State.bankNext (s : State) (r : MemReq) : Option MemReq :=
  let all := s.allSlots.filter fun q => q == r || r.sameBank q
  let l := if all.any (·.floor) then all.filter (·.floor) else all
  let turn := tabGet 0 s.fabric.bankTurn (32 * (bankOfLine r.line).1 + (bankOfLine r.line).2)
  (turnOrder turn).findSome? fun i => minBy (·.order) (l.filter fun q => q.slot == i)

/-- A reply to a request can come: CXL keeps no turns; an HBM bank serves it next. -/
def State.replyDue (s : State) (r : MemReq) : Bool := r.tier == .cxl || s.bankNext r == some r

/-- The slot has had its turn at the bank. -/
def State.bankServed (s : State) (r : MemReq) : State :=
  if r.tier == .cxl then s else
  { s with fabric := { s.fabric with
      bankTurn := tabSet 0 s.fabric.bankTurn (32 * (bankOfLine r.line).1 + (bankOfLine r.line).2) (r.slot + 1) } }

/-- The unit whose progress an answered request is (R603). -/
def MemReq.progressUnit (r : MemReq) (c : Nat) : Nat :=
  match r.unit with
  | .matrix => unitId 0 c 0
  | .vector => unitId 1 c 0
  | .stream => unitId 2 c 0
  | .proboscis => unitId 3 c 0
  | .dma => unitId 4 c 0

/-- MEMORY_REPLY. -/
def execMemoryReply (c : CoreNo) (index : Nat) (ecc : Ecc) (s : State) : Host.Outcome State Fault Refusal :=
  let k := s.core c.val
  match k.slots[index]? with
  | none =>
    when s (decide (0 < k.lateReplies))
      ((s.setCore c.val { k with lateReplies := k.lateReplies - 1 }).count 0x8013 (c.val + 1) 1)
  | some r =>
    if !s.replyDue r then .next s else
    let s1 := (s.setCore c.val { k with slots := k.slots.eraseIdx index }).bankServed r
    if r.gen ≠ k.gen then .next (s1.count 0x8013 (c.val + 1) 1)
    else .next ((s1.replyTo c.val r ecc).noteProgress (r.progressUnit c.val) 1)

/-! ## Patrol, retirement copies, zeroing (R255, R258, R281) -/

/-- PATROL_SCRUB. -/
def execPatrolScrub (line : BitVec 31) (ecc : Ecc) (s : State) : Host.Outcome State Fault Refusal :=
  when s (s.powered && decide (7 ≤ s.boot.stage)) (s.lineEcc false line.toNat ecc)

/-- A leaf that names an HBM frame names its copy instead. -/
def Leaf.repoint (l : Leaf) (f g : Nat) : Leaf := if l.valid && l.tier == .hbm && l.frame == f then { l with frame := g } else l

/-- The mappings of a partition moved from a frame to its copy. Of a 2 MiB page only the retired 64 KiB frame moves, and the page keeps
its size (R258 is silent: DESIGN CHOICE, log 114). -/
def Part.repoint (p : Part) (f g : Nat) : Part :=
  { p with
    side0 := p.side0.map fun e => (e.1, e.2.repoint f g), side1 := p.side1.map fun e => (e.1, e.2.repoint f g)
    twins := p.twins.map fun e => (e.1, { e.2 with spares := e.2.spares.map fun x => if x = (false, f) then (false, g) else x }) }

/-- A retired frame copied into spare number n, poison line by line, and its mappings switched. -/
def State.copyRetired (s : State) (f n : Nat) : State :=
  let r := s.frame false f
  let g := spareFrame n
  let s1 := s.copyTier false (g * frameBytes) false (f * frameBytes) frameBytes
  let s2 := (s1.setFrame false g { owner := r.owner, twinSpare := r.twinSpare, ceTimes := (s.frame false g).ceTimes }).setFrame false f
    { retired := true }
  let s3 : State := { s2 with spareNext := n + 1 }
  match r.owner with
  | some i => s3.setPart i ((s3.part i).repoint f g)
  | none => s3

/-- A frame is the source or a target of a tier move: its retirement waits for the move's end (R296). -/
def State.inMove (s : State) (f : Nat) : Bool :=
  s.cmds.any fun c => c.tier.pages.any fun e =>
    let n := (tierArgs c.record).leaves
    (!(tierArgs c.record).toCxl && decide (e.2 ≤ f) && decide (f < e.2 + n)) ||
    (List.range n).any fun i => (((s.part c.slot).liveLeaf (e.1 + i)).frame == f && ((s.part c.slot).liveLeaf (e.1 + i)).tier == .hbm)

/-- FRAME_RETIRE_COPY. -/
def execFrameRetireCopy (frame : Nat) (s : State) : Host.Outcome State Fault Refusal :=
  match s.nextSpare (s.hbmFrames.length + 1) s.spareNext with
  | none => .next s
  | some n => when s ((s.frame false frame).retiring && !s.inMove frame) (s.copyRetired frame n)

/-- MEMORY_ZERO_DONE. -/
def execMemoryZeroDone (cxl : Bool) (frame : Nat) (s : State) : Host.Outcome State Fault Refusal :=
  when s (s.frame cxl frame).zeroing
    ((s.zeroFrame cxl frame).setFrame cxl frame { s.frame cxl frame with zeroing := false })

/-! ## The scratch scrubber (R306, R308) -/

/-- A bank group is awake, and none that a FREE has given up to be zeroed (R329). -/
def State.groupAwake (s : State) (c g : Nat) : Bool :=
  !bitAt (s.core c).groupsZeroing.toNat g && ((s.block (groupBlock c g)).st == .active || (s.block (groupBlock c g)).st == .idle)
/-- The scrubber has read every word of a bank in its present pass. -/
def Core.bankScrubbed (k : Core) (bank : Nat) : Bool := decide (1024 ≤ tabGet 0 k.scrubNext bank)
/-- Every bank of the awake groups has been read in the present pass. -/
def State.scrubOver (s : State) (c : Nat) : Bool :=
  (List.range 80).all fun g => !s.groupAwake c g || (List.range 64).all fun b => (s.core c).bankScrubbed (64 * g + b)

/-- A pass that has read every awake bank is counted, and the next begins. -/
def State.endPass (s : State) (c : Nat) : State :=
  if s.scrubOver c then (s.setCore c { s.core c with scrubNext := [] }).count 0x5059 (c + 1) 1 else s

/-- A word read by the scrubber: each bank's words in order, and a pass over every awake bank counted at its end. -/
def State.scrubWord (s : State) (c bank word : Nat) (ecc : Ecc) : State :=
  let s1 := s.scratchEcc c bank word ecc
  (s1.setCore c { s1.core c with scrubNext := tabSet 0 (s1.core c).scrubNext bank (word + 1) }).endPass c

/-- SCRATCH_SCRUB: the next word of a bank in an awake group; the order of the banks is the environment's (log 104). -/
def execScratchScrub (c : CoreNo) (bank : BankNo) (word : Fin 1024) (ecc : Ecc) (s : State) : Host.Outcome State Fault Refusal :=
  let s1 := if s.groupAwake c.val (bank.val / 64) then s.endPass c.val else s
  when s1 (s1.groupAwake c.val (bank.val / 64) && tabGet 0 (s1.core c.val).scrubNext bank.val == word.val)
    (s1.scrubWord c.val bank.val word.val ecc)

end Sys2Proof.Machine
end

