-- ==== Sys2Proof/Machine/Vector.lean ====
section
/-!
DEFINITION. The vector engine: one instruction of a vector program for each row (R366 to R368, R376 to R386, R389 to R396).
-/
namespace Sys2Proof.Machine

/-! ## An instruction about to issue -/

/-- Its command, slot, core, run and word. -/
structure Vop where
  id : Nat
  slot : Nat
  core : Nat
  run : TileRun
  w : Nat
deriving DecidableEq, Repr

/-- The instruction a core's vector engine issues next, if it is of an opcode and its command runs. -/
def State.vecAt (s : State) (c op : Nat) : Option Vop :=
  match s.tileOf c with
  | none => none
  | some (r, d) =>
    if !r.vec.active then none else
    match r.vprog[r.vec.pc]? with
    | none => none
    | some w => if vOp w.toNat = op then some ⟨d.id, d.slot, c, r, w.toNat⟩ else none

/-- A row of an instruction: what it does where the engine issues one of its opcode; nothing otherwise (log 5). -/
def State.issueVec (s : State) (c op : Nat) (f : Vop → State) : Host.Outcome State Fault Refusal :=
  match s.vecAt c op with
  | none => .next s
  | some u => .next (f u)

/-- The engine n instructions on. -/
def VecEngine.advance (v : VecEngine) (n : Nat) : VecEngine :=
  let p := loopBack (v.pc + n) v.loops
  { v with pc := p.1, loops := p.2 }

/-- What every issued instruction leaves: the engine, the flags it raised, its count (R398), and its cycles on the lanes. -/
def State.putVec (s : State) (u : Vop) (v : VecEngine) (fl : Flags) (lanes : Nat := 0) : State :=
  let s1 := s.putTile u.core { (s.core u.core).tile with vec := v, flags := (s.core u.core).tile.flags ||| fl }
  ((s1.count 0x7020 (u.core + 1) 1).count 0x7021 (u.core + 1) lanes).noteProgress (unitId 1 u.core 0) 1

/-! ## Registers, masks and constants (R376 to R378) -/

/-- Element e of a vector register with its poison. -/
def VecEngine.elem (v : VecEngine) (r e : Nat) : Elem := (tabGet 0 v.v (8192 * r + e), tabGet false v.vPoison (8192 * r + e))
/-- Element e of a mask with its poison; m0 reads all ones. -/
def VecEngine.maskElem (v : VecEngine) (m e : Nat) : Bool × Bool :=
  if m = 0 then (true, false) else (tabGet false v.m (8192 * m + e), tabGet false v.mPoison (8192 * m + e))
/-- An element of a register written. -/
def VecEngine.setElem (v : VecEngine) (r e : Nat) (x : Elem) : VecEngine :=
  { v with v := tabSet 0 v.v (8192 * r + e) x.1, vPoison := tabSet false v.vPoison (8192 * r + e) x.2 }
/-- An element of a mask written. -/
def VecEngine.setMask (v : VecEngine) (m e : Nat) (x : Bool × Bool) : VecEngine :=
  { v with m := tabSet false v.m (8192 * m + e) x.1, mPoison := tabSet false v.mPoison (8192 * m + e) x.2 }

/-- The instruction's mask selects element e. -/
def Vop.sel (u : Vop) (e : Nat) : Bool := (u.run.vec.maskElem (vMask u.w) e).1 != vMinv u.w
/-- A mask is poisoned somewhere below n. -/
def VecEngine.maskPoisoned (v : VecEngine) (m n : Nat) : Bool := m != 0 && (tabKeys v.mPoison (8192 * m) n).length != 0
/-- The instruction's mask source is poisoned. -/
def Vop.maskBad (u : Vop) : Bool := u.run.vec.maskPoisoned (vMask u.w) (vCount u.w)
/-- Element e of va, vb, vc. -/
def Vop.a (u : Vop) (e : Nat) : Elem := u.run.vec.elem (vVa u.w) e
def Vop.b (u : Vop) (e : Nat) : Elem := u.run.vec.elem (vVb u.w) e
def Vop.c (u : Vop) (e : Nat) : Elem := u.run.vec.elem (vVc u.w) e
/-- kB. -/
def Vop.k (u : Vop) : W32 := tabGet 0 u.run.vec.k (vVb u.w % 16)

/-- The first instruction to meet poison is kept (R393). -/
def VecEngine.metPoison (v : VecEngine) (bad : Bool) : VecEngine :=
  if bad && v.poisonInstr.isNone then { v with poisonInstr := some v.pc } else v

/-- Elements of vd written under the mask: NONFINITE follows the element written unless it is an integer; a poisoned element
raises nothing. -/
def State.vecWrite (s : State) (u : Vop) (es : List Nat) (g : Nat → FRes × Bool) (cycles : Nat) (int : Bool := false) : State :=
  let bad := u.maskBad
  let out := es.map fun e => let r := g e; (e, r.1, r.2 || bad)
  let v := out.foldl (fun v o => v.setElem (vVd u.w) o.1 (o.2.1.1, o.2.2)) u.run.vec
  let fl := out.foldl (fun (f : Flags) o =>
    if o.2.2 then f else f ||| o.2.1.2 ||| (if int then 0 else flWritten o.2.1.1)) 0
  s.putVec u ((v.metPoison (out.any fun o => o.2.2)).advance 1) fl cycles

/-- The elements below COUNT that the mask selects. -/
def Vop.picked (u : Vop) : List Nat := (List.range (vCount u.w)).filter u.sel
/-- ⌈COUNT ÷ 1,024⌉. -/
def Vop.g (u : Vop) : Nat := ceilDiv (vCount u.w) 1024

/-- An operation on each element of va. -/
def State.vec1 (s : State) (u : Vop) (cycles : Nat) (f : W32 → FRes) : State :=
  s.vecWrite u u.picked (fun e => (f (u.a e).1, (u.a e).2)) (cycles * u.g)
/-- An operation on each element of va and vb. -/
def State.vec2 (s : State) (u : Vop) (cycles : Nat) (f : W32 → W32 → FRes) : State :=
  s.vecWrite u u.picked (fun e => (f (u.a e).1 (u.b e).1, (u.a e).2 || (u.b e).2)) (cycles * u.g)
/-- A comparison into a mask. -/
def State.vecCompare (s : State) (u : Vop) (f : Nat → (Bool × Flags) × Bool) : State :=
  let bad := u.maskBad
  let out := u.picked.map fun e => let r := f e; (e, r.1, r.2 || bad)
  let v := out.foldl (fun v o => v.setMask (vVd u.w % 8) o.1 (o.2.1.1, o.2.2)) u.run.vec
  s.putVec u ((v.metPoison (out.any fun o => o.2.2)).advance 1)
    (out.foldl (fun (f : Flags) o => if o.2.2 then f else f ||| o.2.1.2) 0) u.g
/-- MAND and MOR act on all 8,192 bits; poison in any of their three mask sources poisons every bit written (R393). -/
def State.vecMasks (s : State) (u : Vop) (f : Bool → Bool → Bool) : State :=
  let v := u.run.vec
  let bad := v.maskPoisoned (vMask u.w) 8192 || v.maskPoisoned (vVa u.w % 8) 8192 || v.maskPoisoned (vVb u.w % 8) 8192
  let es := (List.range 8192).filter u.sel
  let v1 := es.foldl (fun x e =>
    let p := v.maskElem (vVa u.w % 8) e
    let q := v.maskElem (vVb u.w % 8) e
    x.setMask (vVd u.w % 8) e (f p.1 q.1, bad)) v
  s.putVec u ((v1.metPoison bad).advance 1) 0 1

/-- INVALID of a comparison that orders its operands (R390). -/
def compareFlags (order : Bool) (a b : W32) : Flags :=
  let x := decode32 a
  let y := decode32 b
  flIf (order && (x.isNan || y.isNan)) flInvalid ||| (nanOf [x, y]).2

/-! ## Memory (R382) -/

/-- xX of a memory instruction, and INC. -/
def Vop.x (u : Vop) : Nat := (tabGet 0 u.run.vec.x (bits u.w 15 4)).toNat
def VecEngine.step (v : VecEngine) (w : Nat) : VecEngine :=
  let k := bits w 15 4
  { v with x := tabSet 0 v.x k (tabGet 0 v.x k + BitVec.ofInt 32 (64 * signed 15 (bits w 0 15))) }
/-- DETAIL of VECTOR_RANGE: the instruction and the first offset beyond the scratch. -/
def Vop.rangeDetail (u : Vop) : Nat := u.run.vec.pc + 2 ^ 14 * (max u.x scratchLimit % 2 ^ 27)

/-- A memory instruction that issued stops its command: it is counted, and the flags of the elements it wrote first are kept (R391, R398). -/
def State.vecStop (s : State) (u : Vop) (fl : Flags) (e : Stop) : State :=
  let r := (s.core u.core).tile
  ((s.putTile u.core { r with flags := r.flags ||| fl }).count 0x7020 (u.core + 1) 1).endCmd u.id e.1 e.2

/-- n bytes read from xX: beyond the scratch the command stops; errs lists the words whose check bits show an error. A poisoned word
that was read is met, whatever the mask selects (R307). -/
def State.vecLoad (s : State) (u : Vop) (errs : EccReads) (n : Nat) (f : State → Vop → List TByte → State) : State :=
  if scratchLimit < u.x + n then s.vecStop u 0 (0x020D, u.rangeDetail) else
  let s1 := s.scratchErrs u.slot u.core errs
  match s1.sread u.slot u.core u.x n with
  | .error e => s1.vecStop u 0 e
  | .ok bs => f s1 { u with run := { u.run with vec := u.run.vec.metPoison (bs.any (·.2)) } } bs

/-- A loaded register: the elements the mask selects, then xX moved. -/
def State.vecLoaded (s : State) (u : Vop) (g : Nat → Elem) : State :=
  let bad := u.maskBad
  let out := u.picked.map fun e => (e, (g e).1, (g e).2 || bad)
  let v := out.foldl (fun v o => v.setElem (vVd u.w) o.1 o.2) u.run.vec
  s.putVec u (((v.metPoison (out.any fun o => o.2.2)).step u.w).advance 1)
    (out.foldl (fun (f : Flags) o => if o.2.2 then f else f ||| flWritten o.2.1) 0)

/-- The stores of a word: whole when every element of it is stored, else element by element, each with the poison of all that are stored
in the word (R306, R382). size is the bytes of an element. -/
def storePieces (size : Nat) : List (Nat × Nat) → List (Option (List TByte)) → List (Nat × List TByte)
  | [], _ => []
  | (x, n) :: l, es =>
    let here := es.take (n / size)
    let rest := storePieces size l (es.drop (n / size))
    if here.all (·.isSome) then (x, here.flatMap fun e => e.getD []) :: rest
    else
      let bad := here.any fun e => (e.getD []).any (·.2)
      (here.zipIdx.filterMap fun e => e.1.map fun b => (x + size * e.2, b.map fun t => (t.1, t.2 || bad))) ++ rest

/-- Stores made in turn, up to the first that stops: its offset and the stop. -/
def State.vecStores (s : State) (u : Vop) : List (Nat × List TByte) → State × Option (Nat × Stop)
  | [] => (s, none)
  | (x, bs) :: l =>
    match s.swrite u.slot u.core u.run.foot x bs with
    | (s1, some e) => (s1, some (x, e))
    | (s1, none) => s1.vecStores u l

/-- The first poisoned word stored is kept. -/
def VecEngine.storedPoison (v : VecEngine) (x : Option Nat) : VecEngine :=
  if v.poisonStore.isNone then { v with poisonStore := x } else v

/-- The flags of the elements that a store has written, a poisoned one's not among them, and how many of them saturated. -/
def Vop.storeFlags (u : Vop) (fx : Nat → Flags) (done : Nat → Bool) : Flags × Nat :=
  let es := u.picked.filter fun e => done e && !((u.a e).2 || u.maskBad)
  (es.foldl (fun (f : Flags) e => f ||| fx e) 0, (es.filter fun e => fx e &&& flOverflow != 0).length)

/-- A store of n elements from xX: each selected element as bytes, with the flags it raises. errs lists the words that a merge reads with
an error (R306, R382). -/
def State.vecStore (s0 : State) (u : Vop) (errs : EccReads) (size : Nat) (g : Nat → List TByte) (fx : Nat → Flags) : State :=
  let n := vCount u.w
  if scratchLimit < u.x + size * n then s0.vecStop u 0 (0x020D, u.rangeDetail) else
  let s := s0.scratchErrs u.slot u.core errs
  let bad := u.maskBad
  let es := (List.range n).map fun e => if u.sel e then some ((g e).map fun b => (b.1, b.2 || bad)) else none
  let ps := if u.x % size = 0 then pieces 4 u.x (size * n) else (List.range n).map fun i => (u.x + size * i, size)
  let st := storePieces size ps es
  match s.vecStores u st with
  | (s1, some e) =>
    let fl := u.storeFlags fx fun i => decide (u.x + size * i < e.1)
    (s1.count 0x7033 (u.core + 1) fl.2).vecStop u fl.1 e.2
  | (s1, none) =>
    let fl := u.storeFlags fx fun _ => true
    let first := (st.find? fun e => e.2.any (·.2)).map fun e => e.1 / 16 * 16
    let v := ((u.run.vec.metPoison first.isSome).storedPoison first).step u.w
    (s1.count 0x7033 (u.core + 1) fl.2).putVec u (v.advance 1) fl.1

/-! ## The tile queue (R366 to R370, R386) -/

/-- A word as it is read when a stored bit of its data may have changed, and as it is taken: parity that fails poisons it (R370). -/
def QWord.flipped (w : QWord) (flip : Bool) : QWord := if flip then { w with data := w.data ^^^ 1#512 } else w
def QWord.taken (w : QWord) : QWord := if parityOf w.data = w.parity then w else { w with poison := true }
/-- The 16 elements of a word. -/
def QWord.elems (w : QWord) : List Elem := (List.range 16).map fun i => (w.data.extractLsb' (32 * i) 32, w.poison)

/-- A program that finds the queue empty and closed stops there (R386). -/
def State.underflow (s : State) (u : Vop) : State :=
  let s1 := s.putTile u.core { u.run with vec := { u.run.vec with active := false } }
  let s2 := match s1.cmd u.id with
    | some d => if d.late.isNone then s1.setCmd { d with late := some (0x020F, u.run.vec.pc) } else s1
    | none => s1
  s2.tileFinish u.id

/-- The queue after a change, filled again as its credits return. -/
def State.afterQueue (s : State) (u : Vop) : State := s.pumpTile u.core (s.core u.core).tile

/-- One segment of RSUM or RMAX: its elements below COUNT; one that the mask selects nowhere gives empty and raises no flag. -/
def Vop.segment (u : Vop) (op : W32 → W32 → FRes) (rest : Option W32) (empty : W32) (i : Nat) : FRes × Bool × Bool :=
  let size := 2 ^ bits u.w 0 4
  let es := (List.range size).map (i * size + ·) |>.filter fun e => decide (e < vCount u.w)
  let live := es.filter u.sel
  let bad := u.maskBad || es.any (fun e => (u.a e).2)
  if live.isEmpty then ((empty, 0), bad, true) else
  let r := pairTree op 14 (es.filterMap fun e => if u.sel e then some (u.a e).1 else rest)
  (r, bad, false)

/-- A reduction of each segment into the first elements of vd (R381, R393). -/
def State.vecReduce (s : State) (u : Vop) (op : W32 → W32 → FRes) (rest : Option W32) (empty : W32) : State :=
  let out := (List.range (vCount u.w / 2 ^ bits u.w 0 4)).map fun i => (i, u.segment op rest empty i)
  let v := out.foldl (fun v o => v.setElem (vVd u.w) o.1 (o.2.1.1, o.2.2.1)) u.run.vec
  let fl := out.foldl (fun (f : Flags) o => if o.2.2.1 || o.2.2.2 then f else f ||| o.2.1.2 ||| flWritten o.2.1.1) 0
  s.putVec u ((v.metPoison (out.any fun o => o.2.2.1)).advance 1) fl (u.g + 13)

/-! ## The instructions (R380) -/

/-- END: words left in the queue are discarded and counted, and the command ends once its passes have; a drop still in progress goes
on to its END word (R368, R385, R386). -/
def execVEnd (c : CoreNo) (s : State) : Host.Outcome State Fault Refusal :=
  s.issueVec c.val 0x00 fun u => 
    let r := { u.run with vec := { u.run.vec with active := false }, queue := []
                          discarded := u.run.discarded + u.run.queue.length }
    let s1 := ((s.putTile u.core r).count 0x7024 (u.core + 1) u.run.queue.length).count 0x7020 (u.core + 1) 1
    (s1.pumpTile u.core (s1.core u.core).tile).tileFinish u.id

/-- LOOP: a count of 0 skips the body (R384). -/
def execVLoop (c : CoreNo) (s : State) : Host.Outcome State Fault Refusal :=
  s.issueVec c.val 0x01 fun u => 
    let n := bits u.w 8 8
    let k := bits u.w 16 16
    let v := u.run.vec
    if k = 0 then s.putVec u (v.advance (n + 1)) 0
    else s.putVec u { v with pc := v.pc + 1, loops := (v.pc + 1, v.pc + 1 + n, k) :: v.loops } 0

/-- MOVK. -/
def execVMovk (c : CoreNo) (s : State) : Host.Outcome State Fault Refusal :=
  s.issueVec c.val 0x02 fun u => 
    s.putVec u ({ u.run.vec with k := tabSet 0 u.run.vec.k (vVd u.w) (BitVec.ofNat 32 (vImm u.w)) }.advance 1) 0

/-- XSET. -/
def execVXset (c : CoreNo) (s : State) : Host.Outcome State Fault Refusal :=
  s.issueVec c.val 0x03 fun u => 
    s.putVec u ({ u.run.vec with x := tabSet 0 u.run.vec.x (vVd u.w) (BitVec.ofNat 32 (bits u.w 0 27)) }.advance 1) 0

/-- XADD. -/
def execVXadd (c : CoreNo) (s : State) : Host.Outcome State Fault Refusal :=
  s.issueVec c.val 0x04 fun u => 
    let x := tabGet 0 u.run.vec.x (vVd u.w) + BitVec.ofNat 32 (vImm u.w)
    s.putVec u ({ u.run.vec with x := tabSet 0 u.run.vec.x (vVd u.w) x }.advance 1) 0

/-- LD. -/
def execVLd (c : CoreNo) (errs : EccReads) (s : State) : Host.Outcome State Fault Refusal :=
  s.issueVec c.val 0x10 fun u =>
    s.vecLoad u errs (4 * vCount u.w) fun s1 u bs => let es := elems32 bs; s1.vecLoaded u fun e => es.getD e (0, false)

/-- LDH: BF16 widened exactly. -/
def execVLdh (c : CoreNo) (errs : EccReads) (s : State) : Host.Outcome State Fault Refusal :=
  s.issueVec c.val 0x11 fun u =>
    s.vecLoad u errs (2 * vCount u.w) fun s1 u bs =>
      let es := elems16 bs
      s1.vecLoaded u fun e => let x := es.getD e (0, false); (widenBf16 x.1, x.2)

/-- LDB: one FP32 to every element. -/
def execVLdb (c : CoreNo) (errs : EccReads) (s : State) : Host.Outcome State Fault Refusal :=
  s.issueVec c.val 0x12 fun u =>
    s.vecLoad u errs 4 fun s1 u bs => let x := (elems32 bs).getD 0 (0, false); s1.vecLoaded u fun _ => x

/-- ST. -/
def execVSt (read : CoreReads) (s : State) : Host.Outcome State Fault Refusal :=
  s.issueVec read.core.val 0x13 fun u => s.vecStore u read.errs 4 (fun e => (u.a e).bytes) fun e => flWritten (u.a e).1

/-- STH: narrowed to BF16, to nearest even, saturating. -/
def execVSth (read : CoreReads) (s : State) : Host.Outcome State Fault Refusal :=
  s.issueVec read.core.val 0x14 fun u =>
    s.vecStore u read.errs 2 (fun e => bytes16 ((narrowBf16 (u.a e).1).1, (u.a e).2)) fun e => (narrowBf16 (u.a e).1).2

/-- STA: accumulating writes under R325; errs lists the old words read with an error. -/
def execVSta (read : CoreReads) (s0 : State) : Host.Outcome State Fault Refusal :=
  s0.issueVec read.core.val 0x15 fun u =>
    let n := vCount u.w
    if scratchLimit < u.x + 4 * n then s0.vecStop u 0 (0x020D, u.rangeDetail) else
    let s := s0.scratchErrs u.slot u.core read.errs
    let r := u.run
    let m : AccMode := { sr := r.sr && decide (r.beSrAfter < r.accIndex), seed := r.srStep, index := r.accIndex }
    let es := (List.range n).map fun e => if u.sel e then some ((u.a e).1, (u.a e).2 || u.maskBad) else none
    let o := ({ st := s, draws := r.accDraws } : AccOut).run u.slot u.core r.foot m (elemPieces u.x n) es
    let s1 := o.st.putTile u.core { r with accDraws := o.draws, flags := r.flags ||| o.flags }
    match o.stop with
    | some e => s1.vecStop u 0 e
    | none =>
      let v := ((r.vec.metPoison o.poison.isSome).storedPoison o.poison).step u.w
      s1.putVec u (v.advance 1) 0

/-- TQR: n FP32 from the next words of the tile queue; read.flips names the words read of which a stored data bit has changed. -/
def execVTqr (read : QueueReads) (s : State) : Host.Outcome State Fault Refusal :=
  s.issueVec read.core.val 0x18 fun u =>
    let k := ceilDiv (vCount u.w) 16
    if u.run.queue.length < k then (if u.run.closed then s.underflow u else s) else
    let words := (u.run.queue.take k).zipIdx.map fun e => e.1.flipped (read.flips.any fun i => i.val == e.2)
    let bad := (words.filter fun w => parityOf w.data != w.parity).length
    let es := (words.map QWord.taken).flatMap QWord.elems
    let r := { u.run with queue := u.run.queue.drop k }
    let s1 := ((s.putTile u.core r).count 0x7025 (u.core + 1) bad)
    let s2 := if bad = 0 then s1 else s1.noteFault (unitId 1 u.core 0) 2
    (s2.vecWrite { u with run := r } u.picked (fun e => let x := es.getD e (0, false); ((x.1, 0), x.2)) 0).afterQueue u

/-- TQWAIT: waits until PACKETS reaches NPKT. -/
def execVTqwait (c : CoreNo) (s : State) : Host.Outcome State Fault Refusal :=
  s.issueVec c.val 0x19 fun u => 
    if bits u.w 0 11 ≤ u.run.packets then s.putVec u (u.run.vec.advance 1) 0
    else if u.run.closed && u.run.queue.isEmpty then s.underflow u else s

/-- TQDROP: the rest of the current packet discarded (R368). -/
def execVTqdrop (c : CoreNo) (s : State) : Host.Outcome State Fault Refusal :=
  s.issueVec c.val 0x1A fun u => 
    let q := u.run.queue
    let k := match q.findIdx? (·.endMark) with
      | some i => i + 1
      | none => q.length
    let r := { u.run with queue := q.drop k, drops := u.run.drops + (if (q.findIdx? (·.endMark)).isNone ∧ !u.run.closed then 1 else 0) }
    let s1 := (s.putTile u.core r).count 0x7024 (u.core + 1) k
    (s1.putVec { u with run := r } (u.run.vec.advance 1) 0).afterQueue u

/-- FADD. -/
def execVFadd (c : CoreNo) (s : State) : Host.Outcome State Fault Refusal :=
  s.issueVec c.val 0x20 fun u => s.vec2 u 1 fadd

/-- FSUB. -/
def execVFsub (c : CoreNo) (s : State) : Host.Outcome State Fault Refusal :=
  s.issueVec c.val 0x21 fun u => s.vec2 u 1 fsub

/-- FMUL. -/
def execVFmul (c : CoreNo) (s : State) : Host.Outcome State Fault Refusal :=
  s.issueVec c.val 0x22 fun u => s.vec2 u 1 fmul

/-- FMA. -/
def execVFma (c : CoreNo) (s : State) : Host.Outcome State Fault Refusal :=
  s.issueVec c.val 0x23 fun u => 
    s.vecWrite u u.picked (fun e => (ffma (u.a e).1 (u.b e).1 (u.c e).1, (u.a e).2 || (u.b e).2 || (u.c e).2)) u.g

/-- FNMA: −(va × vb) + vc, one rounding. -/
def execVFnma (c : CoreNo) (s : State) : Host.Outcome State Fault Refusal :=
  s.issueVec c.val 0x24 fun u => 
    s.vecWrite u u.picked (fun e => (written (fmaVal none (decode32 (u.a e).1).negate (decode32 (u.b e).1) (decode32 (u.c e).1)),
      (u.a e).2 || (u.b e).2 || (u.c e).2)) u.g

/-- FADDK. -/
def execVFaddk (c : CoreNo) (s : State) : Host.Outcome State Fault Refusal :=
  s.issueVec c.val 0x25 fun u => s.vec1 u 1 fun x => fadd x u.k

/-- FMULK. -/
def execVFmulk (c : CoreNo) (s : State) : Host.Outcome State Fault Refusal :=
  s.issueVec c.val 0x26 fun u => s.vec1 u 1 fun x => fmul x u.k

/-- FMAK: va × kB + vc, one rounding. -/
def execVFmak (c : CoreNo) (s : State) : Host.Outcome State Fault Refusal :=
  s.issueVec c.val 0x27 fun u => 
    s.vecWrite u u.picked (fun e => (ffma (u.a e).1 u.k (u.c e).1, (u.a e).2 || (u.c e).2)) u.g

/-- FMAX. -/
def execVFmax (c : CoreNo) (s : State) : Host.Outcome State Fault Refusal :=
  s.issueVec c.val 0x28 fun u => s.vec2 u 1 fmax

/-- FMIN. -/
def execVFmin (c : CoreNo) (s : State) : Host.Outcome State Fault Refusal :=
  s.issueVec c.val 0x29 fun u => s.vec2 u 1 fmin

/-- FMAXK. -/
def execVFmaxk (c : CoreNo) (s : State) : Host.Outcome State Fault Refusal :=
  s.issueVec c.val 0x2A fun u => s.vec1 u 1 fun x => fmax x u.k

/-- FABS. -/
def execVFabs (c : CoreNo) (s : State) : Host.Outcome State Fault Refusal :=
  s.issueVec c.val 0x2B fun u => s.vec1 u 1 fabs

/-- FDIV. -/
def execVFdiv (c : CoreNo) (s : State) : Host.Outcome State Fault Refusal :=
  s.issueVec c.val 0x2C fun u => s.vec2 u 4 fdiv

/-- FSEL: va where the mask bit is 1, vb where it is 0; every element below COUNT is written. -/
def execVFsel (c : CoreNo) (s : State) : Host.Outcome State Fault Refusal :=
  s.issueVec c.val 0x2D fun u => 
    s.vecWrite u (List.range (vCount u.w)) (fun e => (((if u.sel e then u.a e else u.b e).1, 0), (u.a e).2 || (u.b e).2)) u.g

/-- VMOV. -/
def execVVmov (c : CoreNo) (s : State) : Host.Outcome State Fault Refusal :=
  s.issueVec c.val 0x2E fun u => s.vec1 u 1 fun x => (x, 0)

/-- FCMPLT. -/
def execVFcmplt (c : CoreNo) (s : State) : Host.Outcome State Fault Refusal :=
  s.issueVec c.val 0x30 fun u => 
    s.vecCompare u fun e => ((lessThan (u.a e).1 (u.b e).1, compareFlags true (u.a e).1 (u.b e).1), (u.a e).2 || (u.b e).2)

/-- FCMPEQ. -/
def execVFcmpeq (c : CoreNo) (s : State) : Host.Outcome State Fault Refusal :=
  s.issueVec c.val 0x31 fun u => 
    s.vecCompare u fun e => ((equalTo (u.a e).1 (u.b e).1, compareFlags false (u.a e).1 (u.b e).1), (u.a e).2 || (u.b e).2)

/-- FCMPUN. -/
def execVFcmpun (c : CoreNo) (s : State) : Host.Outcome State Fault Refusal :=
  s.issueVec c.val 0x32 fun u => 
    s.vecCompare u fun e => (((decode32 (u.a e).1).isNan || (decode32 (u.b e).1).isNan, compareFlags false (u.a e).1 (u.b e).1),
      (u.a e).2 || (u.b e).2)

/-- FCMPLTK. -/
def execVFcmpltk (c : CoreNo) (s : State) : Host.Outcome State Fault Refusal :=
  s.issueVec c.val 0x33 fun u => 
    s.vecCompare u fun e => ((lessThan (u.a e).1 u.k, compareFlags true (u.a e).1 u.k), (u.a e).2)

/-- MAND. -/
def execVMand (c : CoreNo) (s : State) : Host.Outcome State Fault Refusal :=
  s.issueVec c.val 0x34 fun u => s.vecMasks u (· && ·)

/-- MOR. -/
def execVMor (c : CoreNo) (s : State) : Host.Outcome State Fault Refusal :=
  s.issueVec c.val 0x35 fun u => s.vecMasks u (· || ·)

/-- FSQRT. -/
def execVFsqrt (c : CoreNo) (s : State) : Host.Outcome State Fault Refusal :=
  s.issueVec c.val 0x40 fun u => s.vec1 u 4 fsqrt

/-- FRCP: within 1 ulp. -/
def execVFrcp (c : CoreNo) (s : State) : Host.Outcome State Fault Refusal :=
  s.issueVec c.val 0x41 fun u => s.vec1 u 2 fun x => written (rcpNear 0x41 x)

/-- FRSQ: within 1 ulp. -/
def execVFrsq (c : CoreNo) (s : State) : Host.Outcome State Fault Refusal :=
  s.issueVec c.val 0x42 fun u => s.vec1 u 2 fun x => written (rsqNear 0x42 x)

/-- FEXP (R394). -/
def execVFexp (c : CoreNo) (s : State) : Host.Outcome State Fault Refusal :=
  s.issueVec c.val 0x43 fun u => s.vec1 u 2 fun x => written (vecFunc 0x43 x)

/-- FEXP2 (R394). -/
def execVFexp2 (c : CoreNo) (s : State) : Host.Outcome State Fault Refusal :=
  s.issueVec c.val 0x44 fun u => s.vec1 u 2 fun x => written (vecFunc 0x44 x)

/-- FLOG (R394). -/
def execVFlog (c : CoreNo) (s : State) : Host.Outcome State Fault Refusal :=
  s.issueVec c.val 0x45 fun u => s.vec1 u 2 fun x => written (vecFunc 0x45 x)

/-- FTANH (R394). -/
def execVFtanh (c : CoreNo) (s : State) : Host.Outcome State Fault Refusal :=
  s.issueVec c.val 0x46 fun u => s.vec1 u 4 fun x => written (vecFunc 0x46 x)

/-- FSIGM (R394). -/
def execVFsigm (c : CoreNo) (s : State) : Host.Outcome State Fault Refusal :=
  s.issueVec c.val 0x47 fun u => s.vec1 u 4 fun x => written (vecFunc 0x47 x)

/-- FERF (R394). -/
def execVFerf (c : CoreNo) (s : State) : Host.Outcome State Fault Refusal :=
  s.issueVec c.val 0x48 fun u => s.vec1 u 4 fun x => written (vecFunc 0x48 x)

/-- FSIN (R394). -/
def execVFsin (c : CoreNo) (s : State) : Host.Outcome State Fault Refusal :=
  s.issueVec c.val 0x49 fun u => s.vec1 u 4 fun x => written (vecFunc 0x49 x)

/-- FCOS (R394). -/
def execVFcos (c : CoreNo) (s : State) : Host.Outcome State Fault Refusal :=
  s.issueVec c.val 0x4A fun u => s.vec1 u 4 fun x => written (vecFunc 0x4A x)

/-- F2I: to a 32-bit signed integer, to nearest even, saturating. -/
def execVF2i (c : CoreNo) (s : State) : Host.Outcome State Fault Refusal :=
  s.issueVec c.val 0x50 fun u => 
    s.vecWrite u u.picked (fun e => (f2i (u.a e).1, (u.a e).2)) u.g true

/-- I2F. -/
def execVI2f (c : CoreNo) (s : State) : Host.Outcome State Fault Refusal :=
  s.issueVec c.val 0x51 fun u => s.vec1 u 1 i2f

/-- RSUM: a pairwise tree by element index, masked-off elements +0 (R381). -/
def execVRsum (c : CoreNo) (s : State) : Host.Outcome State Fault Refusal :=
  s.issueVec c.val 0x60 fun u => s.vecReduce u fadd (some 0) 0

/-- RMAX: masked-off elements left out (R381). -/
def execVRmax (c : CoreNo) (s : State) : Host.Outcome State Fault Refusal :=
  s.issueVec c.val 0x61 fun u => s.vecReduce u (extremum false) none nan32

/-- SEXP. -/
def execVSexp (c : CoreNo) (s : State) : Host.Outcome State Fault Refusal :=
  s.issueVec c.val 0x62 fun u => 
    s.vecWrite u u.picked (fun e => let x := u.a (e / 2 ^ bits u.w 0 4); ((x.1, 0), x.2)) u.g

/-- BCAST. -/
def execVBcast (c : CoreNo) (s : State) : Host.Outcome State Fault Refusal :=
  s.issueVec c.val 0x63 fun u => 
    let x := u.a (bits u.w 0 13)
    s.vecWrite u u.picked (fun _ => ((x.1, 0), x.2)) u.g

/-- PSWAP: neighbours exchanged. -/
def execVPswap (c : CoreNo) (s : State) : Host.Outcome State Fault Refusal :=
  s.issueVec c.val 0x64 fun u => 
    s.vecWrite u u.picked (fun e => let x := u.a (if e % 2 = 0 then e + 1 else e - 1); ((x.1, 0), x.2)) u.g

end Sys2Proof.Machine
end

