-- ==== Sys2Proof/Machine/Dispatch.lean ====
section
/-!
DEFINITION. The dispatch of the commands: one arm for each row of the opcode table, in its order.
-/
namespace Sys2Proof.Machine

/-- The effect of a command on everything but the queue. -/
def exec (i : Instr) (s : State) : Host.Outcome State Fault Refusal :=
  match i with
  | .vinQualified mv => Sys2Proof.Machine.execVinQualified mv s
  | .vinRecovered mv => Sys2Proof.Machine.execVinRecovered mv s
  | .supplyWarnBegin mv => Sys2Proof.Machine.execSupplyWarnBegin mv s
  | .supplyWarnEnd mv lowest => Sys2Proof.Machine.execSupplyWarnEnd mv lowest s
  | .undervoltage mv => Sys2Proof.Machine.execUndervoltage mv s
  | .overvoltage mv => Sys2Proof.Machine.execOvervoltage mv s
  | .crystalLoss => Sys2Proof.Machine.execCrystalLoss s
  | .crystalConfirmed => Sys2Proof.Machine.execCrystalConfirmed s
  | .modResetN => Sys2Proof.Machine.execModResetN s
  | .modResetNRelease => Sys2Proof.Machine.execModResetNRelease s
  | .perstAssert p => Sys2Proof.Machine.execPerstAssert p s
  | .perstDeassert p => Sys2Proof.Machine.execPerstDeassert p s
  | .hotReset p => Sys2Proof.Machine.execHotReset p s
  | .flrPf p => Sys2Proof.Machine.execFlrPf p s
  | .flrVf p f => Sys2Proof.Machine.execFlrVf p f s
  | .vfDisable p num enable => Sys2Proof.Machine.execVfDisable p num enable s
  | .corePllLockLoss c => Sys2Proof.Machine.execCorePllLockLoss c s
  | .basePllLockLoss pll => Sys2Proof.Machine.execBasePllLockLoss pll s
  | .serdesPllLockLoss pll => Sys2Proof.Machine.execSerdesPllLockLoss pll s
  | .resetRelease pll => Sys2Proof.Machine.execResetRelease pll s
  | .thermal100 mc => Sys2Proof.Machine.execThermal100 mc s
  | .protectiveStop mc => Sys2Proof.Machine.execProtectiveStop mc s
  | .protectHoldEnd mc => Sys2Proof.Machine.execProtectHoldEnd mc s
  | .resetComplete t => Sys2Proof.Machine.execResetComplete t s
  | .resetEscalation t => Sys2Proof.Machine.execResetEscalation t s
  | .cxlExpanderReady e frames => Sys2Proof.Machine.execCxlExpanderReady e frames s
  | .cxlX16Timeout => Sys2Proof.Machine.execCxlX16Timeout s
  | .cxlLinkDown e => Sys2Proof.Machine.execCxlLinkDown e s
  | .blockIdle b => Sys2Proof.Machine.execBlockIdle b s
  | .blockSleep b => Sys2Proof.Machine.execBlockSleep b s
  | .blockWakeDone b => Sys2Proof.Machine.execBlockWakeDone b s
  | .blockLeaveOff b => Sys2Proof.Machine.execBlockLeaveOff b s
  | .coreOffTimer c => Sys2Proof.Machine.execCoreOffTimer c s
  | .configRequest p f op => Sys2Proof.Machine.execConfigRequest p f op s
  | .d3hotEntry p f => Sys2Proof.Machine.execD3hotEntry p f s
  | .d0Return p f => Sys2Proof.Machine.execD0Return p f s
  | .bar4Resize p f size => Sys2Proof.Machine.execBar4Resize p f size s
  | .bar4Write p f offset bytes => Sys2Proof.Machine.execBar4Write p f offset bytes s
  | .bar4Read p f offset len => Sys2Proof.Machine.execBar4Read p f offset len s
  | .registerWrite p f offset wide value => Sys2Proof.Machine.execRegisterWrite p f offset wide value s
  | .registerReadLatch p f offset wide => Sys2Proof.Machine.execRegisterReadLatch p f offset wide s
  | .sqEnable p f q ctrl => Sys2Proof.Machine.execSqEnable p f q ctrl s
  | .sqDisable p f q ctrl => Sys2Proof.Machine.execSqDisable p f q ctrl s
  | .sqIrqEnable p f q ctrl => Sys2Proof.Machine.execSqIrqEnable p f q ctrl s
  | .sqTailDb p f q value => Sys2Proof.Machine.execSqTailDb p f q value s
  | .cqHeadDb p f q value => Sys2Proof.Machine.execCqHeadDb p f q value s
  | .cqIrqDelay p f q => Sys2Proof.Machine.execCqIrqDelay p f q s
  | .eventEnable p f ctrl => Sys2Proof.Machine.execEventEnable p f ctrl s
  | .eventDisable p f ctrl => Sys2Proof.Machine.execEventDisable p f ctrl s
  | .ringHead p f value => Sys2Proof.Machine.execRingHead p f value s
  | .bar4Va p f value => Sys2Proof.Machine.execBar4Va p f value s
  | .twinAliasWrite p f value => Sys2Proof.Machine.execTwinAliasWrite p f value s
  | .go p f ch ctrl => Sys2Proof.Machine.execGo p f ch ctrl s
  | .abort p f ch => Sys2Proof.Machine.execAbort p f ch s
  | .mboxDeliver p f ch => Sys2Proof.Machine.execMboxDeliver p f ch s
  | .rxAck p f ch value => Sys2Proof.Machine.execRxAck p f ch value s
  | .recordFetch p f q record => Sys2Proof.Machine.execRecordFetch p f q record s
  | .admitRecord writeOk => Sys2Proof.Machine.execAdmitRecord writeOk s
  | .nop id => Sys2Proof.Machine.execNop id s
  | .tokenReset id => Sys2Proof.Machine.execTokenReset id s
  | .tileRun id => Sys2Proof.Machine.execTileRun id s
  | .passStart c sub read => Sys2Proof.Machine.execPassStart c sub read s
  | .bankRun id => Sys2Proof.Machine.execBankRun id s
  | .gather id count => Sys2Proof.Machine.execGather id count s
  | .dmaCopy id count host => Sys2Proof.Machine.execDmaCopy id count host s
  | .alloc id => Sys2Proof.Machine.execAlloc id s
  | .free id => Sys2Proof.Machine.execFree id s
  | .tierDeclare id => Sys2Proof.Machine.execTierDeclare id s
  | .flowOpen id => Sys2Proof.Machine.execFlowOpen id s
  | .flowClose id => Sys2Proof.Machine.execFlowClose id s
  | .collective id => Sys2Proof.Machine.execCollective id s
  | .vote id => Sys2Proof.Machine.execVote id s
  | .resolve id => Sys2Proof.Machine.execResolve id s
  | .update id => Sys2Proof.Machine.execUpdate id s
  | .rowMode id => Sys2Proof.Machine.execRowMode id s
  | .mirrorTx id => Sys2Proof.Machine.execMirrorTx id s
  | .mirrorRx id => Sys2Proof.Machine.execMirrorRx id s
  | .feedChunk id first count => Sys2Proof.Machine.execFeedChunk id first count s
  | .stepResync id => Sys2Proof.Machine.execStepResync id s
  | .flip id => Sys2Proof.Machine.execFlip id s
  | .revert id => Sys2Proof.Machine.execRevert id s
  | .twin id => Sys2Proof.Machine.execTwin id s
  | .untwin id => Sys2Proof.Machine.execUntwin id s
  | .weightLoad id headers => Sys2Proof.Machine.execWeightLoad id headers s
  | .ckptWrite id => Sys2Proof.Machine.execCkptWrite id s
  | .molt id => Sys2Proof.Machine.execMolt id s
  | .moltPhaseTimeout id => Sys2Proof.Machine.execMoltPhaseTimeout id s
  | .scrub id => Sys2Proof.Machine.execScrub id s
  | .zero id => Sys2Proof.Machine.execZero id s
  | .longopSuspend id host => Sys2Proof.Machine.execLongopSuspend id host s
  | .longopResume id headers => Sys2Proof.Machine.execLongopResume id headers s
  | .longopCancel id host => Sys2Proof.Machine.execLongopCancel id host s
  | .longopUnitDone k h host => Sys2Proof.Machine.execLongopUnitDone k h host s
  | .commandComplete id writeOk => Sys2Proof.Machine.execCommandComplete id writeOk s
  | .overrun id => Sys2Proof.Machine.execOverrun id s
  | .hostReadError id addr => Sys2Proof.Machine.execHostReadError id addr s
  | .hostReadDeadline id => Sys2Proof.Machine.execHostReadDeadline id s
  | .completionTimeout r => Sys2Proof.Machine.execCompletionTimeout r s
  | .cocoonSave c id => Sys2Proof.Machine.execCocoonSave c id s
  | .cocoonSaveDone saved id => Sys2Proof.Machine.execCocoonSaveDone saved id s
  | .cocoonRestore c id => Sys2Proof.Machine.execCocoonRestore c id s
  | .cocoonRestoreDone c id => Sys2Proof.Machine.execCocoonRestoreDone c id s
  | .requestIssue c => Sys2Proof.Machine.execRequestIssue c s
  | .memoryReply c index ecc => Sys2Proof.Machine.execMemoryReply c index ecc s
  | .streamRowFetch c stream => Sys2Proof.Machine.execStreamRowFetch c stream s
  | .patrolScrub line ecc => Sys2Proof.Machine.execPatrolScrub line ecc s
  | .frameRetireCopy frame => Sys2Proof.Machine.execFrameRetireCopy frame s
  | .memoryZeroDone cxl frame => Sys2Proof.Machine.execMemoryZeroDone cxl frame s
  | .scratchScrub c bank word ecc => Sys2Proof.Machine.execScratchScrub c bank word ecc s
  | .uopEnd c b => Sys2Proof.Machine.execUopEnd c b s
  | .uopLd c b ecc => Sys2Proof.Machine.execUopLd c b ecc s
  | .uopSt c b => Sys2Proof.Machine.execUopSt c b s
  | .uopLdw c b ecc => Sys2Proof.Machine.execUopLdw c b ecc s
  | .uopStn c b => Sys2Proof.Machine.execUopStn c b s
  | .uopLds c b ecc => Sys2Proof.Machine.execUopLds c b ecc s
  | .uopSts c b => Sys2Proof.Machine.execUopSts c b s
  | .uopAinc c b => Sys2Proof.Machine.execUopAinc c b s
  | .uopMovk c b => Sys2Proof.Machine.execUopMovk c b s
  | .uopFadd c b => Sys2Proof.Machine.execUopFadd c b s
  | .uopFsub c b => Sys2Proof.Machine.execUopFsub c b s
  | .uopFmul c b => Sys2Proof.Machine.execUopFmul c b s
  | .uopFma c b => Sys2Proof.Machine.execUopFma c b s
  | .uopFmak c b => Sys2Proof.Machine.execUopFmak c b s
  | .uopFmax c b => Sys2Proof.Machine.execUopFmax c b s
  | .uopFmin c b => Sys2Proof.Machine.execUopFmin c b s
  | .uopFabs c b => Sys2Proof.Machine.execUopFabs c b s
  | .uopFsqrt c b => Sys2Proof.Machine.execUopFsqrt c b s
  | .uopFrcp c b => Sys2Proof.Machine.execUopFrcp c b s
  | .uopFrsq c b => Sys2Proof.Machine.execUopFrsq c b s
  | .uopHfma c b => Sys2Proof.Machine.execUopHfma c b s
  | .uopMxq c b => Sys2Proof.Machine.execUopMxq c b s
  | .uopMxd c b => Sys2Proof.Machine.execUopMxd c b s
  | .uopLsum c b => Sys2Proof.Machine.execUopLsum c b s
  | .uopGsum c b => Sys2Proof.Machine.execUopGsum c b s
  | .uopGmax c b => Sys2Proof.Machine.execUopGmax c b s
  | .uopLoop c b => Sys2Proof.Machine.execUopLoop c b s
  | .vEnd c => Sys2Proof.Machine.execVEnd c s
  | .vLoop c => Sys2Proof.Machine.execVLoop c s
  | .vMovk c => Sys2Proof.Machine.execVMovk c s
  | .vXset c => Sys2Proof.Machine.execVXset c s
  | .vXadd c => Sys2Proof.Machine.execVXadd c s
  | .vLd c errs => Sys2Proof.Machine.execVLd c errs s
  | .vLdh c errs => Sys2Proof.Machine.execVLdh c errs s
  | .vLdb c errs => Sys2Proof.Machine.execVLdb c errs s
  | .vSt read => Sys2Proof.Machine.execVSt read s
  | .vSth read => Sys2Proof.Machine.execVSth read s
  | .vSta read => Sys2Proof.Machine.execVSta read s
  | .vTqr read => Sys2Proof.Machine.execVTqr read s
  | .vTqwait c => Sys2Proof.Machine.execVTqwait c s
  | .vTqdrop c => Sys2Proof.Machine.execVTqdrop c s
  | .vFadd c => Sys2Proof.Machine.execVFadd c s
  | .vFsub c => Sys2Proof.Machine.execVFsub c s
  | .vFmul c => Sys2Proof.Machine.execVFmul c s
  | .vFma c => Sys2Proof.Machine.execVFma c s
  | .vFnma c => Sys2Proof.Machine.execVFnma c s
  | .vFaddk c => Sys2Proof.Machine.execVFaddk c s
  | .vFmulk c => Sys2Proof.Machine.execVFmulk c s
  | .vFmak c => Sys2Proof.Machine.execVFmak c s
  | .vFmax c => Sys2Proof.Machine.execVFmax c s
  | .vFmin c => Sys2Proof.Machine.execVFmin c s
  | .vFmaxk c => Sys2Proof.Machine.execVFmaxk c s
  | .vFabs c => Sys2Proof.Machine.execVFabs c s
  | .vFdiv c => Sys2Proof.Machine.execVFdiv c s
  | .vFsel c => Sys2Proof.Machine.execVFsel c s
  | .vVmov c => Sys2Proof.Machine.execVVmov c s
  | .vFcmplt c => Sys2Proof.Machine.execVFcmplt c s
  | .vFcmpeq c => Sys2Proof.Machine.execVFcmpeq c s
  | .vFcmpun c => Sys2Proof.Machine.execVFcmpun c s
  | .vFcmpltk c => Sys2Proof.Machine.execVFcmpltk c s
  | .vMand c => Sys2Proof.Machine.execVMand c s
  | .vMor c => Sys2Proof.Machine.execVMor c s
  | .vFsqrt c => Sys2Proof.Machine.execVFsqrt c s
  | .vFrcp c => Sys2Proof.Machine.execVFrcp c s
  | .vFrsq c => Sys2Proof.Machine.execVFrsq c s
  | .vFexp c => Sys2Proof.Machine.execVFexp c s
  | .vFexp2 c => Sys2Proof.Machine.execVFexp2 c s
  | .vFlog c => Sys2Proof.Machine.execVFlog c s
  | .vFtanh c => Sys2Proof.Machine.execVFtanh c s
  | .vFsigm c => Sys2Proof.Machine.execVFsigm c s
  | .vFerf c => Sys2Proof.Machine.execVFerf c s
  | .vFsin c => Sys2Proof.Machine.execVFsin c s
  | .vFcos c => Sys2Proof.Machine.execVFcos c s
  | .vF2i c => Sys2Proof.Machine.execVF2i c s
  | .vI2f c => Sys2Proof.Machine.execVI2f c s
  | .vRsum c => Sys2Proof.Machine.execVRsum c s
  | .vRmax c => Sys2Proof.Machine.execVRmax c s
  | .vSexp c => Sys2Proof.Machine.execVSexp c s
  | .vBcast c => Sys2Proof.Machine.execVBcast c s
  | .vPswap c => Sys2Proof.Machine.execVPswap c s
  | .linkDown down => Sys2Proof.Machine.execLinkDown down s
  | .linkUp up => Sys2Proof.Machine.execLinkUp up s
  | .arpRequest p target sender => Sys2Proof.Machine.execArpRequest p target sender s
  | .neighborSolicitation p target sender => Sys2Proof.Machine.execNeighborSolicitation p target sender s
  | .echoRequest p v6 target data => Sys2Proof.Machine.execEchoRequest p v6 target data s
  | .nextHopResolved hop => Sys2Proof.Machine.execNextHopResolved hop s
  | .nextHopRetry flow => Sys2Proof.Machine.execNextHopRetry flow s
  | .nonSilkFrame lane => Sys2Proof.Machine.execNonSilkFrame lane s
  | .pauseFrame p => Sys2Proof.Machine.execPauseFrame p s
  | .pfcFrame p pcp xoff => Sys2Proof.Machine.execPfcFrame p pcp xoff s
  | .data pkt => Sys2Proof.Machine.execData pkt s
  | .ack pkt => Sys2Proof.Machine.execAck pkt s
  | .keepalive pkt => Sys2Proof.Machine.execKeepalive pkt s
  | .depart pkt => Sys2Proof.Machine.execDepart pkt s
  | .openPkt pkt => Sys2Proof.Machine.execOpenPkt pkt s
  | .openAck pkt => Sys2Proof.Machine.execOpenAck pkt s
  | .closePkt pkt => Sys2Proof.Machine.execClosePkt pkt s
  | .dataSend p => Sys2Proof.Machine.execDataSend p s
  | .openResend flow => Sys2Proof.Machine.execOpenResend flow s
  | .keepaliveTimer flow => Sys2Proof.Machine.execKeepaliveTimer flow s
  | .peerTimeout flow => Sys2Proof.Machine.execPeerTimeout flow s
  | .flowHoldExpiry flow => Sys2Proof.Machine.execFlowHoldExpiry flow s
  | .rtoExpiry flow => Sys2Proof.Machine.execRtoExpiry flow s
  | .ackDelay flow => Sys2Proof.Machine.execAckDelay flow s
  | .ccRound flow => Sys2Proof.Machine.execCcRound flow s
  | .flowOpenTimeout id => Sys2Proof.Machine.execFlowOpenTimeout id s
  | .flowCloseDeadline id => Sys2Proof.Machine.execFlowCloseDeadline id s
  | .chunkServe id => Sys2Proof.Machine.execChunkServe id s
  | .collTimeout id => Sys2Proof.Machine.execCollTimeout id s
  | .voteResult id => Sys2Proof.Machine.execVoteResult id s
  | .weightScrubPass k => Sys2Proof.Machine.execWeightScrubPass k s
  | .hangDetected d unit lastProgress => Sys2Proof.Machine.execHangDetected d unit lastProgress s
  | .fenceDrainExpiry d => Sys2Proof.Machine.execFenceDrainExpiry d s
  | .healthUpdate => Sys2Proof.Machine.execHealthUpdate s
  | .divergenceCheck => Sys2Proof.Machine.execDivergenceCheck s
  | .persistCommit => Sys2Proof.Machine.execPersistCommit s
  | .pribyRead r => Sys2Proof.Machine.execPribyRead r s
  | .pribyWrite r commitOk => Sys2Proof.Machine.execPribyWrite r commitOk s
  | .coreState r => Sys2Proof.Machine.execCoreState r s
  | .fieldBadGroups r commitOk => Sys2Proof.Machine.execFieldBadGroups r commitOk s
  | .resetCmd r => Sys2Proof.Machine.execResetCmd r s
  | .retireCore r => Sys2Proof.Machine.execRetireCore r s
  | .restoreDefaults r => Sys2Proof.Machine.execRestoreDefaults r s
  | .alertClear r => Sys2Proof.Machine.execAlertClear r s
  | .protectClear r => Sys2Proof.Machine.execProtectClear r s
  | .dumpCancel r => Sys2Proof.Machine.execDumpCancel r s
  | .dumpSuspend r => Sys2Proof.Machine.execDumpSuspend r s
  | .dumpResume r => Sys2Proof.Machine.execDumpResume r s
  | .fwActivate r => Sys2Proof.Machine.execFwActivate r s
  | .fwConfirm r => Sys2Proof.Machine.execFwConfirm r s
  | .fwTrialAbandon r => Sys2Proof.Machine.execFwTrialAbandon r s
  | .stageSuspend r => Sys2Proof.Machine.execStageSuspend r s
  | .stageResume r => Sys2Proof.Machine.execStageResume r s
  | .stageCancel r => Sys2Proof.Machine.execStageCancel r s
  | .entdaa addr => Sys2Proof.Machine.execEntdaa addr s
  | .setdasa static dynamic => Sys2Proof.Machine.execSetdasa static dynamic s
  | .getstatus => Sys2Proof.Machine.execGetstatus s
  | .setEndpointId eid => Sys2Proof.Machine.execSetEndpointId eid s
  | .getEndpointId => Sys2Proof.Machine.execGetEndpointId s
  | .getMctpVersionSupport msgType => Sys2Proof.Machine.execGetMctpVersionSupport msgType s
  | .getMessageTypeSupport => Sys2Proof.Machine.execGetMessageTypeSupport s
  | .getVendorDefinedSupport selector => Sys2Proof.Machine.execGetVendorDefinedSupport selector s
  | .doeDiscovery p index => Sys2Proof.Machine.execDoeDiscovery p index s
  | .getVersion t request => Sys2Proof.Machine.execGetVersion t request s
  | .getCapabilities t request => Sys2Proof.Machine.execGetCapabilities t request s
  | .negotiateAlgorithms t request => Sys2Proof.Machine.execNegotiateAlgorithms t request s
  | .getDigests t request => Sys2Proof.Machine.execGetDigests t request s
  | .getCertificate t request => Sys2Proof.Machine.execGetCertificate t request s
  | .challenge t request => Sys2Proof.Machine.execChallenge t request s
  | .getMeasurements t request => Sys2Proof.Machine.execGetMeasurements t request s
  | .creifBegin packet => Sys2Proof.Machine.execCreifBegin packet s
  | .creifData packet flashOk => Sys2Proof.Machine.execCreifData packet flashOk s
  | .creifEnd packet v => Sys2Proof.Machine.execCreifEnd packet v s
  | .creifAck packet => Sys2Proof.Machine.execCreifAck packet s
  | .creifAbort packet => Sys2Proof.Machine.execCreifAbort packet s
  | .creifResend session => Sys2Proof.Machine.execCreifResend session s
  | .creifSessionTimeout session => Sys2Proof.Machine.execCreifSessionTimeout session s
  | .stageVerifyDone v => Sys2Proof.Machine.execStageVerifyDone v s
  | .selftestDone pass detail => Sys2Proof.Machine.execSelftestDone pass detail s
  | .thermalRearm mc => Sys2Proof.Machine.execThermalRearm mc s
  | .vinLost mv => Sys2Proof.Machine.execVinLost mv s
  | .supervisorMemoryError => Sys2Proof.Machine.execSupervisorMemoryError s
  | .hostLinkTrained p => Sys2Proof.Machine.execHostLinkTrained p s

end Sys2Proof.Machine
end

