-- ==== Sys2Proof/Machine/Tick.lean ====
section
/-!
DEFINITION. One device µs with no command waiting (log 7): the clock, the regulators, what counts by the device µs, and
what the device finishes on its own.
-/
namespace Sys2Proof.Machine

/-- Every regulator of a slot refilled (R244); an unlisted bucket is full. -/
def State.refillSlot (s : State) (i : Nat) : State :=
  ((s.part i).regs.map (·.1)).foldl (fun s x => s.refill i x) s

/-- Bank groups that awaited zeroing are zeroed and enter OFF (R87, R220). -/
def State.groupsZeroed (s : State) : State :=
  s.cores.foldl (fun s e => (maskList e.2.groupsZeroing.toNat 80).foldl (fun s g =>
    let s1 := s.setCore e.1 { s.core e.1 with groupsZeroing := (s.core e.1).groupsZeroing &&& ~~~(BitVec.ofNat 80 (2 ^ g)) }
    s1.setBlock (groupBlock e.1 g) { st := .off, since := s.time }) s) s

/-- A queue that waits for completion-ring room counts (R152). -/
def Queue.stallTick (q : Queue) : Queue :=
  if q.active && q.enable && !q.doorbells.isEmpty && decide (2 ^ q.lCqLog2 - 1 < q.outstanding + (q.cqTail + 2 ^ q.lCqLog2 - q.cqHead) % 2 ^ q.lCqLog2 + 1)
  then { q with fetchStallUs := q.fetchStallUs + 1 } else q

/-- A long operation in diapause counts its time (R214). -/
def LongOp.tick (h : LongOp) : LongOp :=
  if h.state = .diapause then { h with diapauseUs := sat (2 ^ 32 - 1) (h.diapauseUs + 1) } else h

/-- The slots and resources with a request that waits for tokens: queued lines, BAR4 accesses, packets, copies and tier moves that
found none, and bytes of the engines that wait. -/
def State.tokenWaits (s : State) : List (Nat × Nat) :=
  let none_ := fun (i x n : Nat) => !s.floorHas i x n && !s.ceilHas i x n
  (s.cores.flatMap fun e => (e.2.issue.filter fun r => none_ r.slot r.res lineBytes).map fun r => (r.slot, r.res)) ++
  ([0, 1].flatMap fun p => ((s.port p).bar4.filter fun a => !s.ceilHas a.slot (3 + p) (if a.write then a.bytes.length else a.len)).map
    fun a => (a.slot, 3 + p)) ++
  (s.flows.filterMap fun e => match e.2.holder with
    | some i => if (s.canSend e.1 && none_ i 5 e.2.nextBytes) || e.2.txOut.any (·.due) then some (i, 5) else none
    | none => none) ++
  (s.cmds.filterMap fun c => c.waits.map fun x => (c.slot, x)) ++
  (s.parts.flatMap fun e => (e.2.regs.filter fun r => match r.2.owed with
      | [] => false
      | o :: _ => !s.floorHas e.1 r.1 1 && (o.floor || !s.ceilHas e.1 r.1 1)).map fun r => (e.1, r.1))

/-- A slot and resource with a request that waits for tokens count (R249). -/
def State.waitTick (s : State) : State :=
  ((s.tokenWaits.map fun e => 6 * e.1 + e.2 + 1).eraseDups).foldl (fun s k => s.count 0x3022 k 1) s

/-- Received data has left a port's buffer for its rings; a class that had sent XOFF sends XON (R455). -/
def State.bufferTick (s : State) : State :=
  s.ethPorts.foldl (fun s e =>
    let xon := (e.2.xoff.map (·.1))
    let s1 := s.setEth e.1 { s.eth e.1 with bufUse := [], xoff := [] }
    { s1 with out := s1.out ++ xon.map fun q => Out.pfc e.1 (s.entry 0x6009 (q + 1)) false }) s

/-- A free reading of VIN that no event has told of: from 40.0 V to 61.0 V, and not below 44.0 V outside a warning (R55, R95). -/
def State.vinReading (s : State) (x : W32) : State :=
  let v := x.toNat
  if 40000 ≤ v ∧ v ≤ 61000 ∧ (s.power.warnActive = true ∨ 44000 ≤ v) then { s with pins := { s.pins with vinMv := v } } else s

/-- A free reading of the hottest junction that no event has told of: below 110 °C, and below 100 °C while THERMAL_100 is armed
(R100 to R102). -/
def State.junctionReading (s : State) (x : W32) : State :=
  if x.toInt < (if s.power.thermalArmed then 100000 else 110000) then s.junction x else s

/-- The sensors read anew once a millisecond, for as long as the supervisor has its firmware, the service-only state included: their
values are the environment's (R65, R131, log 1). A reading that an event would have told of first is not taken. -/
def State.sensorTick (s : State) : State :=
  if s.time % 1000 ≠ 0 ∨ !s.supRuns then s else
  let (v, s0) := s.fresh
  let (j, s0) := s0.fresh
  let (a, s1) := ((s0.vinReading (BitVec.ofNat 32 v.toNat)).junctionReading (BitVec.ofNat 32 j.toNat)).fresh
  let (b, s2) := s1.fresh
  let (c, s3) := s2.fresh
  let (d, s4) := s3.fresh
  let s5 := (((s4.dictSet (dk 0x4001 2) (a.toNat % 2 ^ 32)).dictSet (dk 0x4001 3) (b.toNat % 2 ^ 32)).dictSet
    (dk 0x4001 5) (c.toNat % 2 ^ 32)).dictSet (dk 0x4001 6) (d.toNat % 2 ^ 32)
  if s5.entry 0x4001 4 < b.toNat % 2 ^ 32 then s5.dictSet (dk 0x4001 4) (b.toNat % 2 ^ 32) else s5

/-- Everything that counts by the device µs. -/
def State.countTick (s : State) : State :=
  let s1 : State := { s with
    fns := s.fns.map fun e => (e.1, { e.2 with queues := e.2.queues.map fun q => (q.1, q.2.stallTick) })
    parts := s.parts.map fun e => (e.1, { e.2 with longops := e.2.longops.map fun h => (h.1, h.2.tick) }) }
  let loading := s1.parts.any fun e => e.2.longops.any fun h => (h.2.opcode == 0x60 || h.2.opcode == 0x63) &&
    (h.2.state == .running || h.2.state == .suspending || h.2.state == .cancelling)
  let s2 := if loading then s1.count 0x7085 1 1 else s1
  let s3 := if s2.ethPorts.any fun e => e.2.paused.any (·.2) then s2.count 0x6031 5 1 else s2
  s3.waitTick

/-- One device µs. -/
def State.tick (s : State) : State :=
  if !s.slowClock then s else
  let s0 := s.decideHeld
  let s1 : State := { s0 with time := s0.time + 1, fabric := { s0.fabric with served := [] } }
  let s2 := ((s1.parts.map (·.1)).foldl (fun s i => s.refillSlot i) s1).serveEngines.countTick
  (((s2.collTick.groupsZeroed).longopTick.bufferTick.bar4Retry 0).bar4Retry 1).sensorTick.loopRound

end Sys2Proof.Machine
end

