-- ==== Sys2Proof/Machine/Pins.lean ====
section
/-!
DEFINITION. The level of every pin group of the module, as R66 tables it by module state, with the output pins of R43, R47 to
R49, R71 and R72. A level is a function of the state: what drives a pin is held where the rules that move it hold it.
-/
namespace Sys2Proof.Machine

/-- The pin groups of R66. -/
inductive PinGroup
  | hostTx | hostRx | cxlTx | cxlRx | cxlRefclk | cxlPerstN | ethTx | ethRx | lanes | i3c | modReady | alertN | protectN | inputs
deriving DecidableEq, Repr

/-- What a pin group shows. -/
inductive PinState
  | off | unterminated | terminated | hiZ | low | high | clock | perLink | trained | idle | held | sensed
deriving DecidableEq, Repr

/-- The CXL port stays off once the profile in force has CXL_ENABLE clear (R171); every halt before step 6 leaves it so too. -/
def State.cxlOff (s : State) : Bool := (decide (6 ≤ s.boot.stage) || s.boot.halt != 0) && !s.boot.cxlEnable

/-- A host port is enabled: R131 and R133 leave the others with their receivers unterminated. -/
def State.anyPort (s : State) : Bool := (s.port 0).enabled || (s.port 1).enabled

/-- CXL_PERST_N. It rises once the expanders may leave reset and CXL_REFCLK has run for 100 µs; before a cold reset of the module's
own takes effect at the pin, it is low for 10 µs (R71). A warm reset that runs in place of boot steps before the pin has first risen
leaves it low, the state it had, where R66's table says held high (DESIGN CHOICE, log 107). -/
def State.cxlPerstPin (s : State) : PinState :=
  match s.moduleState with
  | .unpowered => .hiZ
  | .coldReset => if s.power.cxlPerst && decide (s.time < s.power.coldFrom + 10) then .low else .hiZ
  | _ =>
    if s.cxlOff then .hiZ
    else if s.power.cxlPerst then .low
    else match s.power.refclkFrom with
      | some t => if s.time < t + 100 then .low else .high
      | none => .low

/-- MOD_READY: high while the rails are in regulation and the module is not in cold reset (R48). -/
def State.modReady (s : State) : PinState :=
  match s.moduleState with
  | .unpowered | .coldReset => .hiZ
  | _ => .high

/-- An open-drain alert pin: low while asserted, released otherwise, and released for as long as the module is unpowered or in cold
reset (R49, R66). -/
def State.openDrain (s : State) (asserted : Bool) : PinState :=
  match s.moduleState with
  | .unpowered | .coldReset => .hiZ
  | _ => if asserted then .low else .hiZ

/-- ALERT_N: asserted while any event routed to it is pending, as ALERT_PENDING has it (R49, R643), in a warm reset too, where R66's
table has it hold its state (DESIGN CHOICE, log 107). -/
def State.alertPin (s : State) : PinState := s.openDrain (s.entry 0x8030 2 != 0)
/-- PROTECT_N: asserted from a protective stop until a cold reset or PROTECT_CLEAR (R49). -/
def State.protectPin (s : State) : PinState := s.openDrain s.pins.protectLow

/-- CXL_REFCLK: it runs from step 3 of a cold reset until the next one takes effect at the pins, 10 µs after CXL_PERST_N went low
for it (R66, R71). -/
def State.refclkPin (s : State) : PinState :=
  match s.moduleState with
  | .unpowered => .hiZ
  | .coldReset => if s.power.cxlPerst && decide (s.time < s.power.coldFrom + 10) then .clock else .hiZ
  | _ => if s.cxlOff then .hiZ else if s.power.refclkFrom.isSome then .clock else .off

/-- The level of a pin group in the state the module is in (R66). -/
def State.pin (s : State) (g : PinGroup) : PinState :=
  let m := s.moduleState
  let dark := m == .unpowered || m == .coldReset
  let warm := m == .warmReset
  match g with
  | .hostTx => if dark || !s.anyPort then .off else if warm then .trained else .perLink
  | .hostRx => if dark || !s.anyPort then .unterminated else if warm then .terminated else .perLink
  | .cxlTx => if dark || s.cxlOff then .off else if warm then .trained else .perLink
  | .cxlRx => if dark || s.cxlOff then .unterminated else if warm then .terminated else .perLink
  | .cxlRefclk => s.refclkPin
  | .cxlPerstN => s.cxlPerstPin
  | .ethTx => if dark then .off else if warm then .idle else .perLink
  | .ethRx => if dark then .unterminated else .terminated
  | .lanes => if dark then .off else if warm then .trained else .perLink
  | .i3c => if s.power.state = .running then (if warm then .held else .perLink) else .hiZ
  | .modReady => s.modReady
  | .alertN => s.alertPin
  | .protectN => s.protectPin
  | .inputs => if m = .unpowered then .hiZ else .sensed

end Sys2Proof.Machine
end

