-- ==== Sys2Proof/Safety.lean ====
section
/-!
DEFINITION. What a safe state and a safe run are, in the terms the statements use.
-/
namespace Sys2Proof.Safety

open Sys2Proof.Machine

/-- The byte memories keep their canonical form. -/
def memWf (s : State) : Prop :=
  tabWf 0 s.hbm = true ∧ tabWf 0 s.cxl = true ∧ tabWf 0 s.scratch = true ∧ tabWf 0 s.hostMem = true ∧ tabWf 0xFF s.flash = true

/-- A run of n steps ends in a next state: no fault and no refusal. -/
def runs (s : State) : Nat → Prop
  | 0 => True
  | n + 1 => ∃ t, step s = .next t ∧ runs t n

/-- A command answers a next state of which P holds: exec completes it, whatever else the statement then says of the state. Every
statement that says so has hypotheses on the state and the operands alone, so it says where the command COMPLETES. -/
def answers (c : Instr) (s : State) (P : State → Prop) : Prop := ∃ t, exec c s = .next t ∧ P t

/-- A reset of a target has been recognised for a cause: the run it began is in progress. -/
def resetBegun (target : ResetTarget) (cause : Nat) (s t : State) : Prop :=
  ∃ r ∈ t.resets, r.target = target ∧ BitVec.ofNat 16 cause ∈ r.causes ∧ r.began = s.time

/-- A cold reset has been recognised for a cause, and the always-on record says so (R111). -/
def coldBegun (cause : Nat) (s t : State) : Prop :=
  (∃ r ∈ t.resets, r.target = .cold ∧ BitVec.ofNat 16 cause ∈ r.causes) ∧
  t.resetRec = { kind := 1, cause := BitVec.ofNat 16 cause, time := s.time, target := 0xFFFF }

/-- Steps 2 and 3 of R113 done at once and step 4 begun: the trim is valid, device time is 0, the base-die and HBM PHY PLLs run, and
MOD_READY is high (R48). -/
def bootBegun (s t : State) : Prop :=
  t.power.state = .running ∧ t.time = 0 ∧ t.boot.stage = 4 ∧ t.boot.trimValid = true ∧ t.boot.slotId = s.pins.slotStrap ∧
  (∀ n : Fin 12, (t.pll (basePll n)).running = true) ∧ t.pin .modReady = .high ∧ t.fuses = s.fuses

/-- Every byte of the device's memories reads as before. -/
def sameMemory (s t : State) : Prop :=
  (∀ a, memByte t.hbm a = memByte s.hbm a) ∧ (∀ a, memByte t.cxl a = memByte s.cxl a) ∧ (∀ a, memByte t.scratch a = memByte s.scratch a)

/-- How fuses may change while the part is in service: the enabled cores, the firmware key hash and the fused bad groups
never change (R5, R350, R651), the anti-rollback count only upward and to 64 at most (R658), the dual-signature fuse only from
clear to set (R653), and the profile key hash only while it is blank. -/
structure fusesRise (a b : Fuses) : Prop where
  cores : b.enabledCores = a.enabledCores
  fwKey : b.fwKeyHash = a.fwKeyHash
  groups : b.badGroups = a.badGroups
  floor : a.rollback ≤ 64 → a.rollback ≤ b.rollback ∧ b.rollback ≤ 64
  dual : a.dualSig = true → b.dualSig = true
  profile : a.profileKeyFused = true → b.profileKeyFused = true ∧ b.profileKeyHash = a.profileKeyHash

/-- A waiting command of an opcode that can start now (R179, R232 to R234). Whatever its start does, the IDLE blocks it needs are ACTIVE after it. -/
def ready (s : State) (id op : Nat) (c : Cmd) : Prop := s.cmd id = some c ∧ c.opcode = op ∧ s.canStart c = true

/-- A command that has met no poison and no late status (R257, R293). -/
def clean (c : Cmd) : Prop := c.poisoned = none ∧ c.late = none

/-- A command whose work has ended with a status and a DETAIL; its completion record is a later command (R198). -/
def endedAs (t : State) (id st d : Nat) : Prop := ∃ c, t.cmd id = some c ∧ c.phase = .ended st d

/-- A command that has begun and runs. -/
def running (t : State) (id : Nat) : Prop := ∃ c, t.cmd id = some c ∧ c.phase = .running

/-- A bank engine has issued a micro-op: rd holds v with poison p, the bank run's flags take fl, n draws were made, and every other register of the
engine, scratch and memory are as before. -/
def uopDone (s t : State) (u : Uop) (v : BitVec 128) (p : Bool) (fl : Flags) (n : Nat) : Prop :=
  (∃ e, tabFind (t.core u.core).bank.engines (u.index * 5120 + u.bank) = some e ∧ e.reg (uopRd u.w) = (v, p) ∧
    (∀ r, r ≠ uopRd u.w → e.reg r = u.eng.reg r) ∧ e.a = u.eng.a ∧ e.s = u.eng.s ∧ e.sPoison = u.eng.sPoison ∧ e.draws = u.eng.draws + n ∧
    e.issued = u.eng.issued + 1 ∧ (e.pc, e.loops) = loopBack (u.eng.pc + 1) u.eng.loops) ∧
  (t.core u.core).bank.flags = (s.core u.core).bank.flags ||| fl ∧ sameMemory s t ∧ t.cmds = s.cmds

/-- A port micro-op has issued: the engine is e past it, its address register moved by its signed count of words. -/
def portDone (t : State) (u : Uop) (e : BankEngine) : Prop :=
  tabFind (t.core u.core).bank.engines (u.index * 5120 + u.bank) = some (u.past e)

/-- The scratch byte at a bank's position k of a port micro-op's address. -/
def portKey (u : Uop) : Nat := scratchKey u.core u.bank u.addr

/-- Every scratch byte outside n bytes from a key reads as before. -/
def scratchFrame (s t : State) (key n : Nat) : Prop := ∀ a, a < key ∨ key + n ≤ a → memByte t.scratch a = memByte s.scratch a

/-- The vector engine has written the elements es of vd as g gives them, poisoned where g or the mask says; every other element, the masks, the constants,
the index registers, scratch and memory are as before, and the engine is past the instruction. -/
def vecDone (s t : State) (u : Vop) (es : List Nat) (g : Nat → W32 × Bool) : Prop :=
  (∀ e, e ∈ es → (t.core u.core).tile.vec.elem (vVd u.w) e = ((g e).1, (g e).2 || u.maskBad)) ∧
  (∀ r e, e < 8192 → (r ≠ vVd u.w ∨ e ∉ es) → (t.core u.core).tile.vec.elem r e = u.run.vec.elem r e) ∧
  (t.core u.core).tile.vec.m = u.run.vec.m ∧ (t.core u.core).tile.vec.mPoison = u.run.vec.mPoison ∧
  (t.core u.core).tile.vec.k = u.run.vec.k ∧ (t.core u.core).tile.vec.x = u.run.vec.x ∧
  ((t.core u.core).tile.vec.pc, (t.core u.core).tile.vec.loops) = loopBack (u.run.vec.pc + 1) u.run.vec.loops ∧ sameMemory s t ∧ t.cmds = s.cmds

/-- The vector engine has written the bits es of mask vd as g gives them; every other bit, the registers, scratch and memory are as before. -/
def maskDone (s t : State) (u : Vop) (es : List Nat) (g : Nat → Bool × Bool) : Prop :=
  (∀ e, e ∈ es → vVd u.w % 8 ≠ 0 → (t.core u.core).tile.vec.maskElem (vVd u.w % 8) e = g e) ∧
  (∀ r e, r ≠ 0 → e < 8192 → (r ≠ vVd u.w % 8 ∨ e ∉ es) → (t.core u.core).tile.vec.maskElem r e = u.run.vec.maskElem r e) ∧
  (t.core u.core).tile.vec.v = u.run.vec.v ∧ (t.core u.core).tile.vec.vPoison = u.run.vec.vPoison ∧
  ((t.core u.core).tile.vec.pc, (t.core u.core).tile.vec.loops) = loopBack (u.run.vec.pc + 1) u.run.vec.loops ∧ sameMemory s t ∧ t.cmds = s.cmds

/-- The vector programs of the parts of a command are read in turn, with no fault. -/
def vecsRead (id slot : Nat) : State → List (Nat × List Byte) → State → Prop
  | s, [], t => t = s
  | s, e :: l, t => ∃ s1 ws, s.readVec id slot e.2 = (s1, some (.ok ws)) ∧ vecsRead id slot s1 l t

/-- Only what commands hold of themselves has changed, and blocks that a start reached (R83). -/
def onlyWork (s t : State) : Prop := t = { s with cmds := t.cmds, power := t.power }

/-- Only what commands hold of themselves has changed. -/
def onlyCmds (s t : State) : Prop := t = { s with cmds := t.cmds }

/-- A Priby request that the supervisor runs: it answers, nothing like it is kept, the packet is of one operation and entry, its fields are as R633
and R634 ask, and a command has its 8 argument bytes. -/
def asked (s : State) (r : PribyReq) (op index sub : Nat) : Prop :=
  s.supRuns = true ∧ s.serviceOnly = false ∧ 10 ≤ s.boot.stage ∧ s.sup.replies = [] ∧ pribyIs r op index sub = true ∧ pribyReserved r.bytes = false ∧
  field r.bytes 7 1 = 0 ∧ field r.bytes 8 4 = 0 ∧ (op = 3 → r.bytes.length = 48)

/-- The value of a write, or the argument of a command. -/
def asks (r : PribyReq) : Nat := natOfBytes (r.bytes.drop 40)

/-- A reply to a request has been sent, with a STATUS of R635. -/
def replied (s t : State) (r : PribyReq) (st : Nat) : Prop :=
  ∃ l reply, t.out = s.out ++ l ∧ Out.priby r.mctp r.source reply ∈ l ∧ field reply 0x0E 2 = st

/-- A reset asked for has begun: the cold reset's record says so, any other is in progress. -/
def resetAsked (target : ResetTarget) (cause : Nat) (s t : State) : Prop :=
  if target = .cold then coldBegun cause s t else resetBegun target cause s t

/-- A Creif packet the service lane takes: it answers, and the packet is well formed and of an operation. -/
def laneTakes (s : State) (p : List Byte) (op : Nat) : Prop := s.laneRuns = true ∧ creifOk p = true ∧ field p 1 1 = op

/-- A packet of a flow has left: on the wire of its port, or on the loopback where its remote address is one of the module's own (R454). -/
def sends (s t : State) (f : Nat) (h : Silk) (payload : List Byte) : Prop :=
  (s.isLocal (s.flow f) = false → t.out = s.out ++ [Out.packet (s.flow f).port f h.word payload (s.frameOf f h payload)] ∧ t.loopback = s.loopback) ∧
  (s.isLocal (s.flow f) = true → t.loopback = s.loopback ++ [s.loopPkt f h payload] ∧ t.out = s.out)

/-- No CKPT_WRITE of a partition that has started is at its last unit, which a change of the live side would find being read (R525). -/
def noLastCkpt (s : State) (slot : Nat) : Prop :=
  ∀ h, (s.longop slot h).opcode = 0x61 → (s.longop slot h).started = true → (s.longop slot h).doneUnits + 1 ≠ (s.longop slot h).totalUnits

end Sys2Proof.Safety
end

