-- ==== Sys2Proof/Certificates/Slice0/Obligations.lean ====
section
/-!
DEFINITION. The statements for the provers.
-/
open Sys2Proof Sys2Proof.Machine Sys2Proof.Safety

/-! ## The machine as a whole -/

/-- A step takes the command at the front of the queue and runs it on the state with the queue's rest. -/
def Obligations.StepRunsFront : Prop :=
  ∀ (s : State) (c : Instr) (rest : List Instr), s.pending = c :: rest → step s = exec c { s with pending := rest }

/-- A step on an empty queue is one device µs of a module that counts time (R76; the tick itself is log 7, the model's choice). -/
def Obligations.IdleStepCountsTime : Prop :=
  ∀ s : State, s.pending = [] → s.power.state ≠ .unpowered → s.power.state ≠ .coldReset → s.power.crystalHold = false →
    ∃ t, step s = .next t ∧ t.time = s.time + 1 ∧ t.pending = []

/-- R653, R658: no step changes the fuses but upward. Every state, reached or not. -/
def Obligations.FusesOnlyRise : Prop :=
  ∀ s t : State, step s = .next t → fusesRise s.fuses t.fuses

/-- R658: the anti-rollback count never falls and never exceeds 64; boot step 7 raises it to the security version of a valid active package, and so does a FW_CONFIRM that succeeds; a package
below it fails its check.
Completes: `.fwConfirm`. -/
def Obligations.AntiRollback : Prop :=
  (∀ s t : State, s.fuses.rollback ≤ 64 → step s = .next t → s.fuses.rollback ≤ t.fuses.rollback ∧ t.fuses.rollback ≤ 64) ∧
  (∀ (s : State) (k : Nat), k = s.pickFirmware.sup.bootCtl.activeSlot → s.pickFirmware.boot.halt ≠ 3 → s.pickFirmware.slotValid k = true →
    s.bootFirmware.fuses.rollback = max s.fuses.rollback (min 64 (securityVer (s.bootFirmware.manifest k)))) ∧
  (∀ (s : State) (r : PribyReq), asked s r 3 0xA006 2 → s.boot.onTrial = true → s.entry 0xA005 1 = 2 → answers (.fwConfirm r) s fun t =>
    t.fuses.rollback = max s.fuses.rollback (min 64 (securityVer (t.manifest t.sup.bootCtl.activeSlot)))) ∧
  (∀ (s : State) (k : Nat) (e m : Bool), securityVer (s.manifest k) < s.fuses.rollback → s.slotStatus k e m ≠ 0)

/-- Every command of the table, whatever the state, answers a next state and leaves the queue of waiting commands to step. -/
def Obligations.EveryCommandAnswers : Prop :=
  ∀ (c : Instr) (s : State), ∃ t, exec c s = .next t ∧ t.pending = s.pending

/-! ## Module, clocks, power and reset -/

/-- R104, R111: each supply, crystal, pin and base-PLL source begins a cold reset with its cause, which the always-on record
keeps; the supply, the crystal and the pin hold the module in it (R74, R78, R99), with MOD_READY high-impedance (R48).
R113, R76, R78, R99: a module held in cold reset by one source goes on when that source lifts: the trim loads, device
time is 0, SLOT_ID is taken from its straps, the twelve base-die and HBM PHY PLLs start, and MOD_READY is high.
Completes: `.vinQualified`, `.modResetN`, `.undervoltage`, `.overvoltage`, `.crystalLoss`, `.basePllLockLoss`, `.vinRecovered`, `.crystalConfirmed`,
`.modResetNRelease`. -/
def Obligations.ColdResets : Prop :=
  (∀ s : State,
     (∀ mv : W32, s.power.state = .unpowered → 46000 < mv.toNat → answers (.vinQualified mv) s fun t => coldBegun 1 s t ∧ t.fuses = s.fuses) ∧
     (s.power.state ≠ .unpowered →
       answers .modResetN s (fun t => coldBegun 2 s t ∧ t.pins.modResetLow = true ∧ t.power.state = .coldReset ∧ t.pin .modReady = .hiZ) ∧
       (∀ mv : W32, mv.toNat < 40000 →
         answers (.undervoltage mv) s fun t => coldBegun 3 s t ∧ t.power.vinHold = true ∧ t.power.state = .coldReset ∧ t.pins.vinMv = mv.toNat) ∧
       (∀ mv : W32, 61000 < mv.toNat →
         answers (.overvoltage mv) s fun t => coldBegun 4 s t ∧ t.power.vinHold = true ∧ t.power.state = .coldReset ∧ t.pins.vinMv = mv.toNat) ∧
       answers .crystalLoss s (fun t => coldBegun 5 s t ∧ t.power.crystalHold = true ∧ t.power.state = .coldReset ∧ t.pin .modReady = .hiZ) ∧
       (∀ n : Fin 12, (s.pll (basePll n)).released = true → answers (.basePllLockLoss n) s fun t => coldBegun 6 s t))) ∧
  (∀ s : State, s.power.state = .coldReset → s.boot.halt = 0 → s.boot.stage < 3 → s.phys.trimFails < 3 →
     (∀ mv : W32, s.power.vinHold = true → s.power.crystalHold = false → s.pins.modResetLow = false →
       46000 ≤ mv.toNat → mv.toNat ≤ 60000 → s.power.vinClear ≤ s.time → answers (.vinRecovered mv) s (bootBegun s)) ∧
     (s.power.crystalHold = true → s.power.vinHold = false → s.pins.modResetLow = false → answers .crystalConfirmed s (bootBegun s)) ∧
     (s.power.vinHold = false → s.power.crystalHold = false → answers .modResetNRelease s (bootBegun s)))

/-- R95 to R98: a supply warning counts and keeps its beginning; a dip within one restarts the 2,000 µs it ends after; its end records its
length and lowest VIN.
R79, R89, R91, R104: a core PLL that loses lock resets its core with cause 0x0031; a management PLL's clock stops until it is released
again; a PCI Express PLL takes its port's link down and a PLL of Ethernet lanes the ports on them; a running PLL is released after 64 lock
cycles; the boot ROM halts where SFDP is unreadable.
R100 to R103: the 100 °C event arms once and is armed again below 95 °C; at 110 °C PROTECT_N goes low and a warm reset begins, whose hold
ends once no junction has been at 100 °C for 1,000 µs.
Completes: `.supplyWarnBegin`, `.supplyWarnEnd`, `.corePllLockLoss`, `.serdesPllLockLoss`, `.resetRelease`, `.thermal100`, `.thermalRearm`,
`.protectiveStop`, `.protectHoldEnd`. -/
def Obligations.SupplyClocksAndHeat : Prop :=
  (∀ s : State,
     (∀ mv : W32, s.power.state ≠ .unpowered → mv.toNat < 44000 → s.power.warnActive = false →
       answers (.supplyWarnBegin mv) s fun t =>
         t.power = { s.power with warnActive := true, warnBegan := s.time, warnCarry := 0, warnMinMv := mv.toNat, warnClear := s.time + 2000,
                                  vinClear := s.time + 2000 } ∧
         t.dictGet (dk 0x4002 2) = s.dictGet (dk 0x4002 2) + 1 ∧ t.pins.vinMv = mv.toNat) ∧
     (∀ mv : W32, s.power.state ≠ .unpowered → mv.toNat < 44000 → s.power.warnActive = true →
       answers (.supplyWarnBegin mv) s fun t =>
         t = { s with power := { s.power with warnMinMv := min s.power.warnMinMv mv.toNat, warnClear := s.time + 2000, vinClear := s.time + 2000 }
                      pins := { s.pins with vinMv := mv.toNat } }) ∧
     (∀ mv low : W32, s.power.warnActive = true → 44000 ≤ mv.toNat → s.power.warnClear ≤ s.time →
       answers (.supplyWarnEnd mv low) s fun t => t.power.warnActive = false ∧
         t.dictGet (dk 0x4002 3) = (s.power.warnCarry + (s.time - s.power.warnBegan)) % 2 ^ 32 ∧
         t.dictGet (dk 0x4002 4) = min s.power.warnMinMv low.toNat)) ∧
  (∀ s : State, s.power.state ≠ .unpowered →
     (∀ c : CoreNo, s.resets = [] → (s.pll (.core c)).released = true →
       answers (.corePllLockLoss c) s (resetBegun (.core c) 0x31 s)) ∧
     (∀ k : PllId, k = .mgmt ∨ k = .svc → (s.pll k).released = true →
       answers (.serdesPllLockLoss k) s fun t => t.pll k = { running := true, released := false } ∧
         t = { s with power := { s.power with plls := t.power.plls } }) ∧
     (∀ p : PortNo, (s.pll (.pcie p)).released = true →
       answers (.serdesPllLockLoss (.pcie p)) s fun t => (t.port p.val).linkUp = false ∧ t.sup.linkRetrains = s.sup.linkRetrains + 1 ∧
         t.fns = s.fns ∧ t.parts = s.parts) ∧
     (∀ g : Fin 4, (s.pll (.eth g)).released = true →
       answers (.serdesPllLockLoss (.eth g)) s fun t => (∀ p, p ∈ s.groupPorts g.val → (t.eth p).up = false) ∧
         (∀ p, p ∉ s.groupPorts g.val → t.eth p = s.eth p)) ∧
     ((s.pll .cxl).released = true → answers (.serdesPllLockLoss .cxl) s fun t => (∀ e : Fin 2, (t.expander e.val).linkUp = false) ∧ sameMemory s t) ∧
     (∀ k : PllId, k ≠ .base 0 → s.boot.trimValid = true →
       (s.pll k).running = true → (s.pll k).released = false → (s.pll (.base 0)).released = false →
       answers (.resetRelease k) s fun t => t.pll k = { running := true, released := true } ∧ t = { s with power := { s.power with plls := t.power.plls } }) ∧
     (s.boot.stage = 4 → s.boot.halt = 0 → s.boot.trimValid = true → (s.pll (.base 0)).running = true → (s.pll (.base 0)).released = false →
       s.inReset .warm = false → s.phys.sfdpOk = false → answers (.resetRelease (.base 0)) s fun t => t.boot.halt = 2 ∧ t.fns = s.fns ∧ t.parts = s.parts)) ∧
  (∀ (s : State) (mc : W32), s.power.state = .running →
     (100000 ≤ mc.toInt → s.power.thermalArmed = true → answers (.thermal100 mc) s fun t =>
       t.power = { s.power with thermalArmed := false, hotAt := s.time } ∧ t.dictGet (dk 0x4001 7) = mc.toNat) ∧
     (mc.toInt < 95000 → answers (.thermalRearm mc) s fun t => t.power = { s.power with thermalArmed := true } ∧ t.dictGet (dk 0x4001 7) = mc.toNat) ∧
     (110000 ≤ mc.toInt → s.resets = [] → answers (.protectiveStop mc) s fun t =>
       t.pins.protectLow = true ∧ t.pin .protectN = .low ∧ resetBegun .warm 0x50 s t ∧ t.stopped = true) ∧
     (mc.toInt < 100000 → s.stopped = true → s.power.hotAt + 1000 ≤ s.time →
       answers (.protectHoldEnd mc) s fun t => t.stopped = false ∧ t.resets.map (·.target) = s.resets.map (·.target)))

/-- R104, R139: with no reset in progress and the boot past step 10, PERST, a hot reset and an FLR of a physical function begin
the host-port reset of that port with their causes, and an FLR of a bound virtual function its partition's reset; an FLR of an unbound
one resets the function alone.
R70, R116: a released PERST lets an enabled port train, training makes its link ready; R137: virtual functions are enabled as
the host writes them within the profile's count.
Completes: `.perstAssert`, `.hotReset`, `.flrPf`, `.flrVf`, `.perstDeassert`, `.hostLinkTrained`, `.vfDisable`. -/
def Obligations.HostPorts : Prop :=
  (∀ (s : State) (p : PortNo), s.resets = [] → s.power.state ≠ .unpowered → s.boot.stage = 10 → (s.port p.val).enabled = true →
     (s.perstIgnored p = false → answers (.perstAssert p) s (resetBegun (.hostPort p) (0x10 + p.val) s)) ∧
     answers (.hotReset p) s (resetBegun (.hostPort p) (0x12 + p.val) s) ∧
     (s.boot.halt = 0 → answers (.flrPf p) s (resetBegun (.hostPort p) 0x14 s)) ∧
     (∀ (f : FnNo) (i : Nat), s.boot.halt = 0 → f.val ≠ 0 → s.fnPresent (fnKey p.val f.val) = true →
       s.fnSlot (fnKey p.val f.val) = some i → answers (.flrVf p f) s (resetBegun (.partition (Fin.ofNat 16 i)) 0x14 s)) ∧
     (∀ f : FnNo, s.boot.halt = 0 → f.val ≠ 0 → s.fnPresent (fnKey p.val f.val) = true → s.fnSlot (fnKey p.val f.val) = none →
       answers (.flrVf p f) s fun t => (t.fn (fnKey p.val f.val)).msixEnable = false ∧ (t.fn (fnKey p.val f.val)).held = [] ∧ t.resets = [] ∧ t.parts = s.parts)) ∧
  (∀ (s : State) (p : PortNo),
     ((s.port p.val).enabled = true → (s.port p.val).linkUp = false →
       answers (.perstDeassert p) s fun t => t.port p.val = { s.port p.val with perst := false, linkUp := false, training := true } ∧
         t = { s with ports := t.ports }) ∧
     (s.power.state ≠ .unpowered → (s.port p.val).enabled = true → (s.port p.val).training = true →
       answers (.hostLinkTrained p) s fun t => t.port p.val = { s.port p.val with linkUp := true, training := false } ∧
         t = { s with ports := t.ports }) ∧
     (∀ (n : Fin 16) (e : Bool), s.hostOpen = true → (s.port p.val).enabled = true → n.val ≤ tabGet 0 s.boot.vfCount p.val →
       answers (.vfDisable p n e) s fun t => (t.port p.val).numVfs = n.val ∧ (t.port p.val).vfEnable = e))

/-- R171 to R175, R261: an expander whose lanes are there joins the tier, a port splits where no x16 link forms, a lost link poisons every
page mapped on it.
R82 to R90, R227: the block power states.
Completes: `.cxlExpanderReady`, `.cxlX16Timeout`, `.cxlLinkDown`, `.blockIdle`, `.blockSleep`, `.blockWakeDone`, `.blockLeaveOff`, `.coreOffTimer`. -/
def Obligations.CxlLinksAndBlocks : Prop :=
  (∀ s : State,
     (∀ (e : Fin 2) (n : Nat), 8 ≤ s.boot.stage → s.boot.cxlEnable = true → s.expander e.val = {} → 0 < n → (e.val = 1 → s.power.cxlSplit = true) →
       answers (.cxlExpanderReady e n) s fun t => (t.expander e.val).ready = true ∧ (t.expander e.val).linkUp = true ∧ (t.expander e.val).total = n ∧ t.cxl = s.cxl) ∧
     (s.power.state ≠ .unpowered → s.boot.cxlEnable = true → (s.expanders.all fun e => !e.2.linkUp) = true →
       answers .cxlX16Timeout s fun t => t = { s with power := { s.power with cxlSplit := true } }) ∧
     (∀ e : Fin 2, (s.expander e.val).linkUp = true →
       answers (.cxlLinkDown e) s fun t => (t.expander e.val).ready = false ∧ (t.expander e.val).linkUp = false ∧ sameMemory s t ∧
         ∀ (i pg : Nat), ((s.part i).leaf false pg).valid = true → ((s.part i).leaf false pg).tier = .cxl →
           (s.expander e.val).base ≤ ((s.part i).leaf false pg).frame → ((s.part i).leaf false pg).frame < (s.expander e.val).base + (s.expander e.val).frames →
           ((t.part i).leaf false pg).poison = true)) ∧
  (∀ (s : State) (b : BlockNo),
     ((s.block b.val).st = .active → b.val < 1568 → s.blockBusy b.val = false →
       answers (.blockIdle b) s fun t => t = s.setBlock b.val { s.block b.val with st := .idle, since := s.time }) ∧
     ((s.block b.val).st = .idle → (s.block b.val).waking = false → s.blockHeld b.val = false →
       (s.block b.val).since + s.sleepAfter b.val ≤ s.time →
       answers (.blockSleep b) s fun t => t.block b.val = { st := .sleep, since := s.time } ∧ t = { s with power := t.power }) ∧
     ((s.block b.val).st = .sleep → (s.block b.val).waking = true →
       answers (.blockWakeDone b) s fun t => t.block b.val = { st := (s.block b.val).after, since := s.time } ∧
         t.dictGet (dk 0x4013 1) = s.dictGet (dk 0x4013 1) + 1 ∧ sameMemory s t) ∧
     ((s.block b.val).st = .off → (s.block b.val).leavingOff = true →
       answers (.blockLeaveOff b) s fun t => t.block b.val = { st := (s.block b.val).after, since := s.time } ∧
         ∀ c ∈ t.cmds, b.val ∉ c.awaits) ∧
     (∀ c : CoreNo, (s.core c.val).holder = none → (s.core c.val).unheldSince + 1000000 ≤ s.time → (s.block (matrixBlock c.val)).st ≠ .off →
       answers (.coreOffTimer c) s fun t => (t.block (matrixBlock c.val)).st = .off ∧ (t.block (vectorBlock c.val)).st = .off ∧ t.pll (.core c) = {}))

/-! ## Host interface -/

/-- R116, R134, R136, R137, R142: configuration requests are answered once boot step 10 opens the ports, with the class code the rule fixes; a
write keeps its word, VF Enable and the MSI-X masks act; D3hot keeps a function's messages and D0 delivers them; a resized BAR4 keeps its size.
R144, R145, R245, R247: a BAR4 access of a bound function whose port's regulator has the tokens reaches the partition's memory through its
page tables, and one that finds none waits at its port.
Completes: `.configRequest`, `.d3hotEntry`, `.d0Return`, `.bar4Resize`, `.bar4Write`, `.bar4Read`. -/
def Obligations.ConfigurationSpace : Prop :=
  (∀ (s : State) (p : PortNo) (f : FnNo), s.hostOpen = true → (s.port p.val).linkUp = true → s.fnPresent (fnKey p.val f.val) = true →
     (∀ o : BitVec 12, answers (.configRequest p f (.read o)) s fun t =>
       t = { s with out := s.out ++ [Out.cfgReply (fnKey p.val f.val) 0 (s.cfgWord (fnKey p.val f.val) o)] } ∧
       bits (s.cfgWord (fnKey p.val f.val) 8).toNat 8 24 = 0x120000) ∧
     (∀ (o : BitVec 12) (v : W32), answers (.configRequest p f (.write o v)) s fun t =>
       tabFind (t.fn (fnKey p.val f.val)).cfg o.toNat = some v ∧ t = { s with out := t.out, fns := t.fns }) ∧
     (∀ e m : Bool, answers (.configRequest p f (.setMsix e m)) s fun t => (t.fn (fnKey p.val f.val)).msixEnable = e ∧
       (t.fn (fnKey p.val f.val)).msixMask = m ∧ t = { s with out := t.out, fns := t.fns }) ∧
     (∀ (n : Fin 16) (e : Bool), f.val = 0 → n.val ≤ tabGet 0 s.boot.vfCount p.val → answers (.configRequest p f (.setVfs n e)) s fun t =>
       (t.port p.val).numVfs = n.val ∧ (t.port p.val).vfEnable = e) ∧
     ((s.fn (fnKey p.val f.val)).d3hot = false → answers (.d3hotEntry p f) s fun t =>
       t = s.setFn (fnKey p.val f.val) { s.fn (fnKey p.val f.val) with d3hot := true }) ∧
     ((s.fn (fnKey p.val f.val)).d3hot = true → (s.fn (fnKey p.val f.val)).held = [] → answers (.d0Return p f) s fun t =>
       (t.fn (fnKey p.val f.val)).d3hot = false ∧ (t.fn (fnKey p.val f.val)).held = [] ∧ t = { s with out := t.out, fns := t.fns }) ∧
     (∀ n : Fin 7, answers (.bar4Resize p f n) s fun t =>
       (t.fn (fnKey p.val f.val)).bar4Log2 = 30 + n.val ∧ t = { s with fns := t.fns })) ∧
  (∀ (s s1 : State) (p : PortNo) (f : FnNo) (i : Nat) (off : W64), s.reachable (fnKey p.val f.val) = true →
     s.fnSlot (fnKey p.val f.val) = some i → ((s.port p.val).bar4.any fun b => b.slot == i) = false →
     (∀ (bs : List Byte) (t : State), s.regServe i (3 + p.val) bs.length false (s.hostTurn i (3 + p.val)) true = some s1 →
       s1.vwrite none i ((s.fn (fnKey p.val f.val)).bar4Base + off.toNat % 2 ^ (s.fn (fnKey p.val f.val)).bar4Log2) bs = (t, none) →
       exec (.bar4Write p f off bs) s = .next (t.blurTrackers i ((s.fn (fnKey p.val f.val)).bar4Base + off.toNat % 2 ^ (s.fn (fnKey p.val f.val)).bar4Log2)
         bs.length)) ∧
     (∀ bs : List Byte, s.regServe i (3 + p.val) bs.length false (s.hostTurn i (3 + p.val)) true = none →
       exec (.bar4Write p f off bs) s = .next (s.setPort p.val { s.port p.val with
         bar4 := (s.port p.val).bar4 ++ [s.bar4Access (fnKey p.val f.val) i off true bs 0] })) ∧
     (∀ (n : Nat) (r : ReadOut), s.regServe i (3 + p.val) n true (s.hostTurn i (3 + p.val)) true = some s1 →
       s1.vread i ((s.fn (fnKey p.val f.val)).bar4Base + off.toNat % 2 ^ (s.fn (fnKey p.val f.val)).bar4Log2) n = .ok r →
       answers (.bar4Read p f off n) s fun t => t = { s1 with power := t.power, out := s1.out ++
         [Out.hostReply (fnKey p.val f.val) (if r.poison.isSome then 3 else 0) r.bytes] }))

/-- R675: a 64-bit write reaches a register whole, a 32-bit write of the low half waits for the high half, and a 32-bit read of a
low half latches the high half. SQ_BASE of queue q stands for them. R143: an access of another size writes nothing and reads 0.
R147 to R156: a queue of a bound function starts, takes doorbells within its ring, hands its records on in order, counts what it ignores, and stops.
Completes: `.registerWrite`, `.registerReadLatch`, `.sqEnable`, `.sqDisable`, `.sqIrqEnable`, `.sqTailDb`, `.cqHeadDb`. -/
def Obligations.SlotAndQueueRegisters : Prop :=
  (∀ (s : State) (p : PortNo) (f : FnNo) (q : QueueNo) (v : W64), s.reachable (fnKey p.val f.val) = true →
     (s.queue (fnKey p.val f.val) q.val).active = false →
     answers (.registerWrite p f (BitVec.ofNat 23 (0x10000 + 0x40 * q.val)) 8 v) s (fun t =>
       (t.queue (fnKey p.val f.val) q.val).sqBase = BitVec.ofNat 64 (v.toNat / 4096 * 4096) ∧ t = { s with fns := t.fns }) ∧
     answers (.registerWrite p f (BitVec.ofNat 23 (0x10000 + 0x40 * q.val)) 4 v) s (fun t =>
       (t.fn (fnKey p.val f.val)).heldLow = some (0x10000 + 0x40 * q.val, BitVec.ofNat 32 v.toNat) ∧
       (t.queue (fnKey p.val f.val) q.val) = s.queue (fnKey p.val f.val) q.val) ∧
     answers (.registerReadLatch p f (BitVec.ofNat 23 (0x10000 + 0x40 * q.val)) 4) s (fun t =>
       (t.fn (fnKey p.val f.val)).latch = some (0x10004 + 0x40 * q.val, BitVec.ofNat 32 ((s.queue (fnKey p.val f.val) q.val).sqBase.toNat / 2 ^ 32)) ∧
       t.out = s.out ++ [Out.hostReply (fnKey p.val f.val) 0 (bytesOfNat ((s.queue (fnKey p.val f.val) q.val).sqBase.toNat % 2 ^ 32) 4)])) ∧
  (∀ (s : State) (p : PortNo) (f : FnNo) (o : BitVec 23) (n : Nat) (v : W64), s.reachable (fnKey p.val f.val) = true → n ≠ 4 → n ≠ 8 →
     exec (.registerWrite p f o n v) s = .next s ∧
     exec (.registerReadLatch p f o n) s = .next { s with out := s.out ++ [Out.hostReply (fnKey p.val f.val) 0 (bytesOfNat 0 n)] }) ∧
  (∀ (s : State) (p : PortNo) (f : FnNo) (q : QueueNo), s.reachable (fnKey p.val f.val) = true →
     (∀ ctrl : W32, bitAt ctrl.toNat 0 = true → bitAt ctrl.toNat 1 = false → (s.queue (fnKey p.val f.val) q.val).active = false →
       (s.queue (fnKey p.val f.val) q.val).irqEn = false →
       s.enableFault (fnKey p.val f.val) q.val (ctrl.toNat / 2 ^ 16 % 32) (ctrl.toNat / 2 ^ 21 % 32) = 0 →
       answers (.sqEnable p f q ctrl) s fun t => (t.queue (fnKey p.val f.val) q.val).active = true ∧
         (t.queue (fnKey p.val f.val) q.val).lSqBase = (s.queue (fnKey p.val f.val) q.val).sqBase ∧
         (t.queue (fnKey p.val f.val) q.val).lSqLog2 = ctrl.toNat / 2 ^ 16 % 32 ∧ (t.queue (fnKey p.val f.val) q.val).sqTail = 0 ∧
         (t.queue (fnKey p.val f.val) q.val).cqHead = 0 ∧ (t.queue (fnKey p.val f.val) q.val).faulted = false) ∧
     (∀ ctrl : W32, bitAt ctrl.toNat 0 = false → bitAt ctrl.toNat 1 = false → (s.queue (fnKey p.val f.val) q.val).irqEn = false →
       (s.queue (fnKey p.val f.val) q.val).outstanding = 0 →
       answers (.sqDisable p f q ctrl) s fun t => (t.queue (fnKey p.val f.val) q.val).enable = false ∧ (t.queue (fnKey p.val f.val) q.val).active = false) ∧
     (∀ ctrl : W32, bitAt ctrl.toNat 1 = true → bitAt ctrl.toNat 0 = true → (s.queue (fnKey p.val f.val) q.val).active = true →
       (s.queue (fnKey p.val f.val) q.val).unsignalled = 0 →
       answers (.sqIrqEnable p f q ctrl) s fun t => (t.queue (fnKey p.val f.val) q.val).irqEn = true ∧
         (t.queue (fnKey p.val f.val) q.val).vector = BitVec.ofNat 7 (ctrl.toNat / 4)) ∧
     (∀ v : W32, s.fnReset (fnKey p.val f.val) = false → (s.queue (fnKey p.val f.val) q.val).active = true → v.toNat < 2 ^ 16 →
       (s.queue (fnKey p.val f.val) q.val).tailOk v.toNat = true → v.toNat ≠ (s.queue (fnKey p.val f.val) q.val).sqTail →
       answers (.sqTailDb p f q v) s fun t => (t.queue (fnKey p.val f.val) q.val).sqTail = v.toNat ∧
         (t.queue (fnKey p.val f.val) q.val).doorbells = (s.queue (fnKey p.val f.val) q.val).doorbells ++
           [((v.toNat + 2 ^ (s.queue (fnKey p.val f.val) q.val).lSqLog2 - (s.queue (fnKey p.val f.val) q.val).sqTail) %
             2 ^ (s.queue (fnKey p.val f.val) q.val).lSqLog2, s.time)] ∧ t = { s with fns := t.fns }) ∧
     (∀ v : W32, s.fnReset (fnKey p.val f.val) = false → (s.queue (fnKey p.val f.val) q.val).active = true → v.toNat < 2 ^ 16 →
       (s.queue (fnKey p.val f.val) q.val).headOk v.toNat = true →
       answers (.cqHeadDb p f q v) s fun t => (t.queue (fnKey p.val f.val) q.val).cqHead = v.toNat ∧ t = { s with fns := t.fns }) ∧
     (∀ v : W32, (s.queue (fnKey p.val f.val) q.val).takes s.time = false →
       answers (.sqTailDb p f q v) s fun t => t = s.setQueue (fnKey p.val f.val) q.val
         { s.queue (fnKey p.val f.val) q.val with doorbellDrops := (s.queue (fnKey p.val f.val) q.val).doorbellDrops + 1 }))

/-- R146, R152, R154: a record read joins those that wait for admission with its doorbell's time, and an unsignalled record's interrupt leaves
after its delay.
Completes: `.recordFetch`, `.cqIrqDelay`. -/
def Obligations.RecordsAndInterrupts : Prop :=
  ∀ (s : State) (p : PortNo) (f : FnNo) (q : QueueNo),
    (∀ (r : Rec) (n t0 : Nat) (l : List (Nat × Nat)), (s.queue (fnKey p.val f.val) q.val).active = true → (s.queue (fnKey p.val f.val) q.val).enable = true →
      (s.queue (fnKey p.val f.val) q.val).room = true → s.fnReset (fnKey p.val f.val) = false → (s.port p.val).linkUp = true →
      (s.port p.val).tagFree = true → (s.queue (fnKey p.val f.val) q.val).doorbells = (n, t0) :: l → s.bar4Before (fnKey p.val f.val) t0 = false →
      answers (.recordFetch p f q (some r)) s fun t =>
        t.waiting = s.waiting ++ [{ fn := fnKey p.val f.val, queue := q.val, record := r, doorbell := t0 }] ∧
        (t.queue (fnKey p.val f.val) q.val).outstanding = (s.queue (fnKey p.val f.val) q.val).outstanding + 1 ∧
        t = { s with fns := t.fns, waiting := t.waiting }) ∧
    ((s.queue (fnKey p.val f.val) q.val).irqEn = true → 0 < (s.queue (fnKey p.val f.val) q.val).unsignalled →
      (s.queue (fnKey p.val f.val) q.val).delayFrom + (s.queue (fnKey p.val f.val) q.val).delayUs.toNat ≤ s.time →
      (s.fn (fnKey p.val f.val)).d3hot = false → (s.fn (fnKey p.val f.val)).msixEnable = true → (s.fn (fnKey p.val f.val)).msixMask = false →
      bitAt ((s.fn (fnKey p.val f.val)).msixEntry (s.queue (fnKey p.val f.val) q.val).vector.toNat).toNat 96 = false →
      answers (.cqIrqDelay p f q) s fun t => t.out = s.out ++ [Out.irq (fnKey p.val f.val) (s.queue (fnKey p.val f.val) q.val).vector.toNat] ∧
        (t.queue (fnKey p.val f.val) q.val).unsignalled = 0)

/-- R679, R158, R678: the event ring starts and stops with ENABLE and keeps its head inside the ring; BAR4_VA keeps the bits above the
window's size; TWIN_ALIAS of a partition with no twinned region takes EN 0.
R163 to R170: a message is captured at GO with its destination, may be withdrawn while PENDING, arrives at a receive half that is not
full, and is acknowledged with the code the receiver wrote.
Completes: `.eventEnable`, `.eventDisable`, `.ringHead`, `.bar4Va`, `.twinAliasWrite`, `.go`, `.abort`, `.mboxDeliver`, `.rxAck`. -/
def Obligations.RingsAndMailboxes : Prop :=
  (∀ (s : State) (p : PortNo) (f : FnNo), s.reachable (fnKey p.val f.val) = true →
     (∀ c : W32, bitAt c.toNat 31 = true → (s.fn (fnKey p.val f.val)).ring.active = false → 4 ≤ c.toNat % 32 → c.toNat % 32 ≤ 16 →
       answers (.eventEnable p f c) s fun t => (t.fn (fnKey p.val f.val)).ring.active = true ∧ (t.fn (fnKey p.val f.val)).ring.head = 0 ∧
         (t.fn (fnKey p.val f.val)).ring.tail = 0 ∧ (t.fn (fnKey p.val f.val)).ring.lost = 0 ∧
         (t.fn (fnKey p.val f.val)).ring.lBase = (s.fn (fnKey p.val f.val)).ring.base ∧ (t.fn (fnKey p.val f.val)).ring.lLog2 = c.toNat % 32 ∧
         t = { s with fns := t.fns }) ∧
     (∀ c : W32, bitAt c.toNat 31 = false → answers (.eventDisable p f c) s fun t =>
       (t.fn (fnKey p.val f.val)).ring.active = false ∧ t = { s with fns := t.fns }) ∧
     (∀ v : W32, v.toNat % 2 ^ 16 < 2 ^ (s.fn (fnKey p.val f.val)).ring.lLog2 →
       (v.toNat % 2 ^ 16 + 2 ^ (s.fn (fnKey p.val f.val)).ring.lLog2 - (s.fn (fnKey p.val f.val)).ring.head) % 2 ^ (s.fn (fnKey p.val f.val)).ring.lLog2 ≤
         ((s.fn (fnKey p.val f.val)).ring.tail + 2 ^ (s.fn (fnKey p.val f.val)).ring.lLog2 - (s.fn (fnKey p.val f.val)).ring.head) %
           2 ^ (s.fn (fnKey p.val f.val)).ring.lLog2 →
       answers (.ringHead p f v) s fun t => (t.fn (fnKey p.val f.val)).ring.head = v.toNat % 2 ^ 16 ∧ t = { s with fns := t.fns }) ∧
     (∀ (v : W64) (i : Nat), s.fnSlot (fnKey p.val f.val) = some i → answers (.bar4Va p f v) s fun t =>
       (t.fn (fnKey p.val f.val)).bar4Va.toNat = v.toNat / 2 ^ (s.fn (fnKey p.val f.val)).bar4Log2 * 2 ^ (s.fn (fnKey p.val f.val)).bar4Log2 % 2 ^ 52 ∧
       t = { s with fns := t.fns }) ∧
     (∀ (v : W32) (i : Nat), s.fnSlot (fnKey p.val f.val) = some i → v.toNat < 2 ^ 31 → (s.part i).twins = [] →
       answers (.twinAliasWrite p f v) s fun t => (t.part i).twinAlias.toNat = 2 ^ 16 * bits v.toNat 16 14 + bits v.toNat 0 14 ∧
         t = { s with parts := t.parts })) ∧
  (∀ (s : State) (p : PortNo) (f : FnNo) (ch : ChanNo),
     (∀ c : W32, s.reachable (fnKey p.val f.val) = true → bitAt c.toNat 31 = true → bitAt c.toNat 30 = false →
       (s.chan (fnKey p.val f.val) ch.val).state = .idle ∨ (s.chan (fnKey p.val f.val) ch.val).state = .done →
       s.routeOk (fnKey p.val f.val) (fnKey (bits c.toNat 12 1) (bits c.toNat 8 4)) = true →
       s.fnPresent (fnKey (bits c.toNat 12 1) (bits c.toNat 8 4)) = true → s.fnReset (fnKey (bits c.toNat 12 1) (bits c.toNat 8 4)) = false →
       answers (.go p f ch c) s fun t => (t.chan (fnKey p.val f.val) ch.val).state = .pending ∧
         (t.chan (fnKey p.val f.val) ch.val).capDest = (bits c.toNat 12 1, bits c.toNat 8 4, bits c.toNat 0 4) ∧
         (t.chan (fnKey p.val f.val) ch.val).seq = (s.chan (fnKey p.val f.val) ch.val).seq + 1 ∧ t = { s with fns := t.fns }) ∧
     (s.reachable (fnKey p.val f.val) = true → (s.chan (fnKey p.val f.val) ch.val).state = .pending → (s.chan (fnKey p.val f.val) ch.val).irqEn = false →
       answers (.abort p f ch) s fun t => (t.chan (fnKey p.val f.val) ch.val).state = .done ∧ (t.chan (fnKey p.val f.val) ch.val).ackCode = 0xFF04) ∧
     (∀ (g0 a b : Nat), (s.chan (fnKey p.val f.val) ch.val).full = false → (s.chan (fnKey p.val f.val) ch.val).tokenEn = false →
       (s.chan (fnKey p.val f.val) ch.val).rxIrqEn = false → minBy (·.1) (s.senders (fnKey p.val f.val) ch.val) = some (g0, a, b) →
       answers (.mboxDeliver p f ch) s fun t => (t.chan a b).state = .delivered ∧ (t.chan (fnKey p.val f.val) ch.val).full = true ∧
         (t.chan (fnKey p.val f.val) ch.val).rxMsg = (s.chan a b).capMsg) ∧
     (∀ (v : W32) (x a b : Nat), s.reachable (fnKey p.val f.val) = true → (s.chan (fnKey p.val f.val) ch.val).full = true → v.toNat % 2 ^ 16 < 0xFF00 →
       (s.chan (fnKey p.val f.val) ch.val).rxFrom = some (x, a, b) → (s.chan (fnKey x a) b).irqEn = false →
       answers (.rxAck p f ch v) s fun t => (t.chan (fnKey p.val f.val) ch.val).full = false ∧ (t.chan (fnKey x a) b).state = .done ∧
         (t.chan (fnKey x a) b).ackCode = BitVec.ofNat 16 (v.toNat % 2 ^ 16)))

/-! ## Admission, commands without a unit and copies -/

/-- R190, R196, R197: the record that came first is decided. One that passes every check is accepted, with the next number and
its placement, and refused ones get their completion record at once: 0x0106 for a bad field, 0x0103 while out of service, 0x0104
during a supply warning, and the status of the first check of the rest that fails. R215: one whose token a running command may yet raise in this device µs is
kept for its end (log 96, the model's choice).
Completes: `.admitRecord`. -/
def Obligations.RecordsDecided : Prop :=
  ∀ (s : State) (w : Waiting) (l : List Waiting) (i : Nat), s.waiting = w :: l → s.deviceReset = false → s.fnSlot w.fn = some i →
    (s.decidedUs = s.time → s.decided < 8) → s.tokenComing i w = false →
    (∀ ok : Bool, s.tokenLikely i w = true → answers (.admitRecord ok) s fun t => t = { s with admitHeld := some ok }) ∧
    (∀ (me : Cmd) (ok : Bool), s.tokenLikely i w = false → recordBad w.record = none → s.entry 0x8000 1 = 0 → s.boot.admitOpen = true →
      s.power.warnActive = false → s.failedWait i w.record = none → s.decideRest i w = .ok (.ok me) →
      answers (.admitRecord ok) s fun t => t.waiting = l ∧ me ∈ t.cmds ∧ t.cmds.length = s.cmds.length + 1 ∧ t.nextId = s.nextId + 1 ∧
        t.out = s.out ∧ sameMemory s t) ∧
    (∀ st d : Nat, s.tokenLikely i w = false → (s.queue w.fn w.queue).discard = false → (s.queue w.fn w.queue).irqEn = false → (s.fn w.fn).d3hot = false →
      (recordBad w.record = some d ∧ st = 0x0106) ∨
        (recordBad w.record = none ∧ d = 0 ∧ (((s.entry 0x8000 1 ≠ 0 ∨ s.boot.admitOpen = false) ∧ st = 0x0103) ∨
          (s.entry 0x8000 1 = 0 ∧ s.boot.admitOpen = true ∧ s.power.warnActive = true ∧ st = 0x0104))) ∨
        (recordBad w.record = none ∧ s.entry 0x8000 1 = 0 ∧ s.boot.admitOpen = true ∧ s.power.warnActive = false ∧
          s.failedWait i w.record = none ∧ s.decideRest i w = .error (st, d)) →
      answers (.admitRecord true) s fun t => t.waiting = l ∧ t.cmds.length = s.cmds.length ∧
        memRead t.hostMem (w.fn / 16 * 2 ^ 64 + ((s.queue w.fn w.queue).lCqBase.toNat + 32 * (s.queue w.fn w.queue).cqTail)) 32 =
          completionRecord (recSeq w.record) st 0xFF s.time d 0 (s.time - w.doorbell))

/-- R189: TOKEN_RESET sets its token to VALUE, clears the failed mark and leaves every other token, and each wait on that token is met or not by the new
counter. NOP ends with no effect (R183). A start makes the IDLE blocks it needs ACTIVE (R83).
Completes: `.nop`, `.tokenReset`. -/
def Obligations.ControlCommands : Prop :=
  ∀ (s : State) (id : Nat) (c : Cmd), clean c →
    (ready s id 0x01 c → answers (.nop id) s fun t => endedAs t id 0 0 ∧ onlyWork s t) ∧
    (ready s id 0x02 c → answers (.tokenReset id) s fun t => endedAs t id 0 0 ∧ t = { s with parts := t.parts, cmds := t.cmds, power := t.power } ∧
      (t.part c.slot).token (recField c.record 0x68 2 % 4096) = { count := BitVec.ofNat 32 (recField c.record 0x6C 4), failed := false } ∧
      (∀ k, k ≠ recField c.record 0x68 2 % 4096 → (t.part c.slot).token k = (s.part c.slot).token k) ∧
      ∀ d ∈ t.cmds, d.slot = c.slot → ∀ j ∈ recWaits d.record, waitToken d.record j = recField c.record 0x68 2 % 4096 →
        t.waitMet d.slot d.record j = ({ count := BitVec.ofNat 32 (recField c.record 0x6C 4) } : Token).met (waitTarget d.record j))

/-- R221 to R225, R250: an ALLOC whose turn it is gives the slot what it picks, by kind: cores, bank groups of a core, frames mapped at its pages,
flow numbers. It ends OK at once, or once the OFF blocks of the grant have left OFF.
R223, R226, R220: a FREE that no bound work holds up gives back what it names and ends OK.
R276 to R280: a TIER_DECLARE whose checks pass takes target frames for the pages of its range that lie in the other tier and sets the first in
motion; a leaf is copied whole once its bytes pass; a page copied with nothing left to copy again is mapped at its new frames, counted by
direction; the last one ends OK.
Completes: `.alloc`, `.free`, `.tierDeclare`. -/
def Obligations.Allocation : Prop :=
  (∀ (s : State) (id : Nat) (c : Cmd) (a : AllocArgs), ready s id 0x30 c → clean c → a = allocArgs c.record → s.allocBefore id = false →
     s.allocStatus c.slot a c.payload = none → (a.kind ∈ [1, 2, 3, 4, 5]) →
     answers (.alloc id) s fun t =>
       (a.kind = 1 → ∀ k ∈ s.allocPick c.slot a, (t.core k).holder = some c.slot ∧ (t.core k).flags = 0) ∧
       (a.kind = 2 → (t.core a.core).groups = (s.core a.core).groups ||| BitVec.ofNat 80 (maskOf (s.allocPick c.slot a))) ∧
       (a.kind = 3 ∨ a.kind = 4 → ∀ e ∈ (pageList (a.arg % 2 ^ 64) a.count a.big).zip
           (if a.big then (s.allocPick c.slot a).flatMap fun f => (List.range 32).map (f + ·) else s.allocPick c.slot a),
         (t.frame (a.kind == 4) e.2).owner = some c.slot) ∧
       (a.kind = 5 → ∀ f ∈ s.allocPick c.slot a, (t.flow f).holder = some c.slot) ∧
       (s.allocOff c.slot a = [] → ∃ d, endedAs t id 0 d) ∧
       (s.allocOff c.slot a ≠ [] → running t id ∧ ∀ b ∈ s.allocOff c.slot a, (t.block b).leavingOff = true)) ∧
  (∀ (s : State) (id : Nat) (c : Cmd) (a : AllocArgs), ready s id 0x31 c → clean c → a = allocArgs c.record → s.drainBusy c = false →
     s.freeStatus c.slot a c.payload = none → (a.kind ∈ [1, 2, 3, 4, 5]) →
     answers (.free id) s fun t => (∃ d, endedAs t id 0 d) ∧
       (a.kind = 1 → ∀ k ∈ maskList a.arg 16, (t.core k).holder = none ∧ (t.core k).draining = false) ∧
       (a.kind = 2 → (t.core a.core).groups = (s.core a.core).groups &&& ~~~(BitVec.ofNat 80 (maskOf (maskList a.arg 80)))) ∧
       (a.kind = 3 ∨ a.kind = 4 → ∀ pg ∈ pageList (a.arg % 2 ^ 64) a.count a.big, ((t.part c.slot).liveLeaf pg).valid = false) ∧
       (a.kind = 5 → ∀ r, s.vread c.slot c.payload (2 * a.count) = .ok r → ∀ f ∈ flowNumbers r.bytes, t.flow f = {})) ∧
  (∀ (s : State) (id : Nat) (c : Cmd) (a : TierArgs), s.cmd id = some c → clean c → a = tierArgs c.record → s.tierAhead c = false →
     (ready s id 0x32 c → s.tierStatus c.slot a = none → a.moving (s.part c.slot) = [] →
       answers (.tierDeclare id) s fun t => endedAs t id 0 0 ∧ onlyWork s t) ∧
     (ready s id 0x32 c → s.tierStatus c.slot a = none → a.moving (s.part c.slot) ≠ [] →
       answers (.tierDeclare id) s fun t => running t id ∧ sameMemory s t ∧
         (∃ d, t.cmd id = some d ∧ d.tier.pages = (a.moving (s.part c.slot)).zip (s.freeBlocks a.toCxl a.leaves (a.moving (s.part c.slot)).length)) ∧
         ∀ e ∈ (a.moving (s.part c.slot)).zip (s.freeBlocks a.toCxl a.leaves (a.moving (s.part c.slot)).length), ∀ i, i < a.leaves →
           (t.frame a.toCxl (e.2 + i)).owner = some c.slot) ∧
     (∀ (e : Nat × Nat) (l : List (Nat × Nat)) (s1 : State), s.runningOp id 0x32 = some c → c.tier.pages = e :: l → c.tier.copied < a.leaves →
       (∀ i, i < a.leaves → ((s.part c.slot).liveLeaf (e.1 + i)).poison = false) → s.tierServe c frameBytes a.toCxl = some s1 → memWf s →
       answers (.tierDeclare id) s fun t => (∃ d, t.cmd id = some d ∧ d.tier = { c.tier with copied := c.tier.copied + 1 }) ∧
         ∀ k, k < frameBytes → memByte (t.tierMem a.toCxl) ((e.2 + c.tier.copied) * frameBytes + k) =
           memByte (s.tierMem (((s.part c.slot).liveLeaf (e.1 + c.tier.copied)).tier == .cxl))
             (((s.part c.slot).liveLeaf (e.1 + c.tier.copied)).frame * frameBytes + k)) ∧
     (∀ (e : Nat × Nat) (l : List (Nat × Nat)), s.runningOp id 0x32 = some c → c.tier.pages = e :: l → a.leaves ≤ c.tier.copied → c.tier.dirty = [] →
       (∀ i, i < a.leaves → ((s.part c.slot).liveLeaf (e.1 + i)).poison = false) →
       answers (.tierDeclare id) s fun t => running t id ∧ sameMemory s t ∧
         (∀ i, i < a.leaves → ((t.part c.slot).liveLeaf (e.1 + i)).tier = (if a.toCxl then .cxl else .hbm) ∧
           ((t.part c.slot).liveLeaf (e.1 + i)).frame = e.2 + i) ∧
         t.entry (if a.toCxl then 0x5031 else 0x5030) (c.slot + 1) = s.entry (if a.toCxl then 0x5031 else 0x5030) (c.slot + 1) + a.leaves * frameBytes) ∧
     (s.runningOp id 0x32 = some c → c.tier.pages = [] → answers (.tierDeclare id) s fun t => endedAs t id 0 0 ∧ onlyCmds s t))

/-- R182, R203, R245, R257, R685: DMA_COPY starts with LENGTH as the whole it is measured against, once its core's queue has room; a piece of it moves the
bytes of one line of the destination, and a copy from host to host leaves the bytes read in host memory; when every byte has moved it ends OK.
Completes: `.dmaCopy`. -/
def Obligations.DmaCopies : Prop :=
  ∀ (s : State) (id : Nat) (c : Cmd) (a : DmaArgs), a = dmaArgs c.record → clean c →
    (ready s id 0x20 c → c.done = 0 → 0 < a.length → s.issueRoom (c.dmaCore.getD 0) 4 = true → answers (.dmaCopy id 0 []) s fun t =>
      ∃ d, t.cmd id = some d ∧ d.phase = .running ∧ d.whole = a.length) ∧
    (∀ (n : Nat) (host : List Byte) (s1 : State) (d : Cmd), s.runningOp id 0x20 = some c → c.done < a.length →
      n = min (256 - (a.dst + c.done) % 256) (a.length - c.done) → (a.srcHost = true → n ≤ host.length) →
      s.dmaPiece c a c.done n host = some s1 → s1.cmd id = some d →
      answers (.dmaCopy id n host) s fun t => t.hbm = s1.hbm ∧ t.cxl = s1.cxl ∧ t.hostMem = s1.hostMem ∧
        ∃ e, t.cmd id = some e ∧ e.done = c.done + n) ∧
    (∀ (n : Nat) (host : List Byte) (s1 : State), s.runningOp id 0x20 = some c → a.srcHost = true → a.dstHost = true → c.done < a.length →
      n = min (256 - (a.dst + c.done) % 256) (a.length - c.done) → n ≤ host.length → s.issueRoom (c.dmaCore.getD 0) 4 = true →
      (s.port (c.fn / 16)).tagFree = true → s.hostServe c (2 * n) true = some s1 →
      answers (.dmaCopy id n host) s fun t =>
        memRead t.hostMem (c.fn / 16 * 2 ^ 64 + (a.dst + c.done) % 2 ^ 64) n = host.take n ∧
        (c.done + n = a.length → endedAs t id 0 0)) ∧
    (s.runningOp id 0x20 = some c → a.length ≤ c.done → answers (.dmaCopy id 0 []) s fun t => endedAs t id 0 0 ∧ onlyCmds s t)

/-- R289 to R293: GATHER stands at the start of its list on its core; the row of an index goes to its place in scratch; with SUM the last row of a bag
writes the bag's sum; a row out of range is zeros and leaves 0x030A with the index's position; after the last index it ends with the flags its
sums raised.
Completes: `.gather`. -/
def Obligations.GatherRows : Prop :=
  ∀ (s : State) (id : Nat) (c : Cmd), clean c →
    (∀ (s1 : State) (bs : List Byte), ready s id 0x12 c → s.gatherRoom id = true → (s.beginCmd c).descRead id c.slot c.payload 64 = (s1, some bs) →
      gatherBad bs = false → running s1 id → answers (.gather id 0) s fun t => running t id ∧
        (t.core (c.cores.headD 0)).gather = { gatherOf bs with cmd := some id }) ∧
    (∀ (g : GatherRun) (s1 s2 : State) (bs : List TByte) (r : List Elem) (d : Cmd), s.runningOp id 0x12 = some c → g = (s.core (c.cores.headD 0)).gather →
      g.cmd = some id → g.done < g.count → s.issueRoom (c.cores.headD 0) (g.rowBytes / 256 + 4) = true → s.gatherThreads (c.cores.headD 0) < 64 →
      s.gatherRow (c.cores.headD 0) c g g.done = (s1, some bs) →
      (g.sum = false ∧ r = elems32 bs) ∨
        (g.sum = true ∧ (g.done + 1) % g.bag = 0 ∧ r = if g.done % g.bag = 0 then g.elems bs else (addElems g.acc (g.elems bs)).1) →
      s1.cmdScratchWrite id c.slot (c.cores.headD 0) (s.core (c.cores.headD 0)).groups
        (g.dest + (if g.sum then g.done / g.bag else g.done) * g.destStride) (r.flatMap Elem.bytes) = (s2, true) → s2.cmd id = some d →
      answers (.gather id 1) s fun t => t.scratch = s2.scratch ∧ (t.core (c.cores.headD 0)).gather.done = g.done + 1 ∧
        ∃ e, t.cmd id = some e ∧ e.work = g.done + 1) ∧
    (∀ (s1 : State) (ib : List TByte) (i : Nat) (d : Cmd) (g : GatherRun), (s.indexLine (c.cores.headD 0) c g i).cmdTagged id c.slot
        (g.index + (if g.wideIndex then 8 else 4) * i) (if g.wideIndex then 8 else 4) = (s1, some ib) → g.rowLimit ≤ natOfBytes (ib.map (·.1)) →
      s1.cmd id = some d → d.late = none → c.id = id →
      ∃ t bs, s.gatherRow (c.cores.headD 0) c g i = (t, some bs) ∧ bs.map (·.1) = List.replicate g.rowBytes 0 ∧
        ∃ e, t.cmd id = some e ∧ e.late = some (0x030A, i)) ∧
    (∀ g : GatherRun, s.runningOp id 0x12 = some c → g = (s.core (c.cores.headD 0)).gather → g.cmd = some id → g.count ≤ g.done →
      answers (.gather id 0) s fun t => endedAs t id 0 0 ∧ onlyCmds s t)

/-- R198, R29, R30, R154: a command whose work has ended, whose writes are all out and whose reads have all come leaves, and is found no more. One of
no unit with status OK writes its 32-byte completion record at its queue's tail and raises its SIGNAL_TOKEN.
Completes: `.commandComplete`. -/
def Obligations.CommandCompletes : Prop :=
  ∀ (s : State) (id st d : Nat) (c : Cmd), s.cmd id = some c → c.phase = .ended st d → s.writesOut id = false → s.awaitsReads c st = false →
    s.mayYield c = false →
    (∀ ok : Bool, answers (.commandComplete id ok) s fun t => t.cmd id = none) ∧
    (∀ tok : Nat, c.opcode = 0x01 → st = 0 → c.poisoned = none → c.cores = [] → c.dmaCore = none →
      s.colls = [] → s.molts = [] → s.upds = [] → s.flowsOf id = [] → recErrorOnly c.record = false → recSignal c.record = some tok →
      (s.queue c.fn c.queue).discard = false → (s.queue c.fn c.queue).irqEn = false → (s.fn c.fn).d3hot = false →
      answers (.commandComplete id true) s fun t =>
        memRead t.hostMem (c.fn / 16 * 2 ^ 64 + ((s.queue c.fn c.queue).lCqBase.toNat + 32 * (s.queue c.fn c.queue).cqTail)) 32 =
          completionRecord (recSeq c.record) 0 c.ranOn s.time d (s.usedPermille c) (c.admitted - c.doorbell) ∧
        (t.queue c.fn c.queue).cqTail = ((s.queue c.fn c.queue).cqTail + 1) % 2 ^ (s.queue c.fn c.queue).lCqLog2 ∧
        ((t.part c.slot).token tok).count = ((s.part c.slot).token tok).count + 1)

/-- R200 to R202, R205, R134, R135: a command that has reached a declared budget stops with OVERRUN and the work it has done; one whose host read
fails, is unanswered 4 µs before its deadline or is 10,000 µs old, stops with SOURCE_ERROR and the bus address; a ring read of that age faults its
queue, and a read already stopped frees its tag. A load whose header read fails stops as its segment begins.
Completes: `.overrun`, `.hostReadError`, `.hostReadDeadline`, `.completionTimeout`. -/
def Obligations.CommandsStopped : Prop :=
  ∀ (s : State) (id : Nat) (c : Cmd), s.cmd id = some c →
    (∀ code : Nat, c.phase = .running → s.overrunCode c = some code → s.coll id = none → s.molt id = none →
      answers (.overrun id) s fun t => endedAs t id 0x0202 (s.overrunDetail c code)) ∧
    (∀ a : W64, s.readsHost c = true → answers (.hostReadError id a) s fun t => endedAs t id 0x0205 a.toNat ∧
      t = { s with cmds := t.cmds, sup := { s.sup with errs := t.sup.errs } }) ∧
    (s.readsHost c = true → s.nearDeadline c = true → answers (.hostReadDeadline id) s fun t => endedAs t id 0x0205 (s.hostAddr c) ∧
      ∃ x : LateTag, (t.port (c.fn / 16)).lateTags = (s.port (c.fn / 16)).lateTags ++ [x] ∧ x.cmd = id ∧ x.since = c.started) ∧
    (∀ a : W64, s.readsHost c = true → c.started + 10000 ≤ s.time →
      answers (.completionTimeout (.source id a)) s fun t => endedAs t id 0x0205 a.toNat ∧
        t = { s with cmds := t.cmds, fns := t.fns, sup := { s.sup with errs := t.sup.errs } }) ∧
    (∀ a : W64, s.headerWait c = true → answers (.hostReadError id a) s fun t => endedAs t id 0x0205 a.toNat ∧ sameMemory s t) ∧
    (∀ (p : PortNo) (f : FnNo) (q : QueueNo) (n t0 : Nat) (l : List (Nat × Nat)), (s.queue (fnKey p.val f.val) q.val).active = true →
      (s.queue (fnKey p.val f.val) q.val).enable = true → (s.queue (fnKey p.val f.val) q.val).doorbells = (n, t0) :: l → t0 + 10000 ≤ s.time →
      answers (.completionTimeout (.ring p f q)) s fun t =>
        (t.queue (fnKey p.val f.val) q.val).faulted = true ∧ (t.queue (fnKey p.val f.val) q.val).enable = false ∧
        (t.queue (fnKey p.val f.val) q.val).fault = 3) ∧
    (∀ p : PortNo, answers (.completionTimeout (.late p)) s fun t =>
      t = s.setPort p.val { s.port p.val with lateTags := (s.port p.val).lateTags.filter fun x => !decide (x.since + 10000 ≤ s.time) })

/-- R236 to R243: a running command yields its cores to one with an earlier deadline. Its save marks it SAVING; saved, it is displaced and counted; its
restore, when its turn comes, marks it RESTORING; restored, it runs on from now.
Completes: `.cocoonSave`, `.cocoonSaveDone`, `.cocoonRestore`, `.cocoonRestoreDone`. -/
def Obligations.Cocoons : Prop :=
  ∀ (s : State) (k : CoreNo) (id : Nat) (b : Cmd), s.cmd id = some b →
    (∀ a : Cmd, b.phase = .running → s.displacer k.val b = some a → s.moverFree b = true → s.moverTurn b (saveJob a) = true →
      (∀ j ∈ b.cores, (s.core j).cocoons.length < 4) →
      answers (.cocoonSave k id) s fun t => t.cmd id = some { b with phase := .saving, ranUs := s.ranSoFar b, savedFor := some a.id }) ∧
    (∀ errs : List CoreReads, b.phase = .saving → b.cores = [k.val] → s.readsOut id = false →
      answers (.cocoonSaveDone ⟨k, errs⟩ id) s fun t => t.cmd id = some { b with phase := .displaced } ∧
      (t.core k.val).cocoons.length = (s.core k.val).cocoons.length + 1 ∧
      t.entry 0x3014 (b.slot + 1) = s.entry 0x3014 (b.slot + 1) + 1 ∧ t.scratch = s.scratch) ∧
    (b.cores.contains k.val = true → s.restorable b = true → s.moverFree b = true → s.moverTurn b (restoreJob 0 b) = true →
      answers (.cocoonRestore k id) s fun t => t = s.setCmd { b with phase := .restoring } ∧ t.cmd id = some { b with phase := .restoring }) ∧
    (b.phase = .restoring → b.cores.contains k.val = true →
      answers (.cocoonRestoreDone k id) s fun t => t.cmd id = some { b with phase := .running, resumed := s.time, savedFor := none })

/-! ## Long operations, weights and molts -/

/-- R206, R207, R521, R583, R592, R685: a long operation whose checks pass begins its first segment: its handle is RUNNING, the segment is counted,
and TOTAL_UNITS counts the units of what it is to do; a checkpoint torn before it began, and a load whose descriptor is misaligned, end at once.
Completes: `.zero`, `.ckptWrite`, `.scrub`, `.weightLoad`. -/
def Obligations.LongOpStarts : Prop :=
  ∀ (s s0 : State) (id : Nat) (c : Cmd), clean c → s0 = (s.beginCmd c).openSegment c.slot c.handle id →
    (ready s id 0x64 c → answers (.zero id) s fun t => running t id ∧ sameMemory s t ∧
      t.longop c.slot c.handle = { s.longop c.slot c.handle with state := .running, segment := some id, segments := (s.longop c.slot c.handle).segments + 1,
                                                                   started := true, totalUnits := unitsOf (zeroLength c.record) }) ∧
    (∀ (s1 : State) (bs : List Byte) (n : Nat), ready s id 0x61 c → (s.longop c.slot c.handle).torn = false → n = ckptCount c.record → 0 < n → n ≤ 4096 →
      s0.descRead id c.slot c.payload (32 * n) = (s1, some bs) → (∀ i, i < n → (s1.part c.slot).ckptBad bs i = false) →
      answers (.ckptWrite id) s fun t => tabGet [] t.ckpts (handleKey c.slot c.handle) = (List.range n).map (ckptRange bs) ∧
        t.longop c.slot c.handle = { s1.longop c.slot c.handle with
          started := true, totalUnits := ((List.range n).map fun i => unitsOf (ckptRange bs i).length).foldl (· + ·) 0 }) ∧
    (ready s id 0x61 c → (s.longop c.slot c.handle).opcode = 0x61 → (s.longop c.slot c.handle).torn = true →
      answers (.ckptWrite id) s fun t => endedAs t id 0x0606 (s.longop c.slot c.handle).doneUnits ∧ (t.longop c.slot c.handle).state = .free) ∧
    (ready s id 0x63 c → (s.part c.slot).scrubList ≠ [] → answers (.scrub id) s fun t => running t id ∧ sameMemory s t ∧
      tabGet [] t.loads (handleKey c.slot c.handle) = (s.part c.slot).scrubList ∧ (t.longop c.slot c.handle).state = .running ∧
      (t.longop c.slot c.handle).segments = (s.longop c.slot c.handle).segments + 1) ∧
    (ready s id 0x63 c → (s.part c.slot).scrubList = [] → answers (.scrub id) s fun t => endedAs t id 0 0) ∧
    (∀ headers : List Byte, ready s id 0x60 c → c.payload % 64 ≠ 0 → answers (.weightLoad id headers) s fun t => endedAs t id 0x0504 0 ∧ sameMemory s t) ∧
    (∀ (s1 s2 s3 : State) (d es headers : List Byte) (hs : List (List Byte)), ready s id 0x60 c → c.payload % 64 = 0 →
      s0.descRead id c.slot c.payload 64 = (s1, some d) → s1.descRead id c.slot (c.payload + 64) (64 * loadCount d) = (s2, some es) →
      loadBad (d ++ es) = none → (s2.part c.slot).loadStatus (d ++ es) = none →
      s2.loadHeaders c (d ++ es) (List.range (loadCount (d ++ es))) headers [] = (s3, some hs) →
      headersBad (s3.part c.slot) (d ++ es) (hs.zipIdx.map fun x => (x.2, x.1)) [] = none →
      answers (.weightLoad id headers) s fun t => (t.longop c.slot c.handle).started = true ∧
        (t.part c.slot).chrysalisImage.imageId.toNat = field (d ++ es) 0 16 ∧
        (tabGet [] t.loads (handleKey c.slot c.handle)).map (·.shard) = (List.range hs.length).map fun i => field (d ++ es) (64 + 64 * i + 0x0C) 4)

/-- R206, R207, R208, R210, R525: a unit of an operation that is ready is counted in DONE_UNITS; the segment goes on, or rests in DIAPAUSE when a SUSPEND of an earlier
device µs waits, or, after the last unit of a ZERO, ends OK and frees its handle. A CKPT_WRITE whose last unit was read in the device µs of a change of the live side ends OK in it.
Completes: `.longopUnitDone`. -/
def Obligations.LongOpUnits : Prop :=
  (∀ (s : State) (i : Fin 16) (h : Fin 64) (host : Mem) (c : Cmd) (o : LongOp), s.segmentCmd i.val h.val = some c → s.unitReady c h.val = true →
    o = s.longop i.val h.val → o.preread = some s.time → o.opcode = 0x61 → o.state = .running → o.segment = some c.id → o.totalUnits ≤ o.doneUnits + 1 → s.cmd c.id = some c → clean c →
    c.phase = .running → answers (.longopUnitDone i h host) s fun t => endedAs t c.id 0 0 ∧ (t.longop i.val h.val).state = .free) ∧
  ∀ (s s1 : State) (i : Fin 16) (h : Fin 64) (host : Mem) (c d : Cmd) (o : LongOp), s.segmentCmd i.val h.val = some c → s.unitReady c h.val = true →
    (s.longop i.val h.val).preread ≠ some s.time → s.unitStep c h.val (s.unitBytes i.val h.val) host = (s1, true) → s1.cmd c.id = some d → d.phase = .running → o = s1.longop i.val h.val → o.torn = false →
    o.segment = some c.id →
    (o.state = .running → o.doneUnits + 1 < o.totalUnits → answers (.longopUnitDone i h host) s fun t =>
      t.longop i.val h.val = { o with doneUnits := o.doneUnits + 1 } ∧
      t.cmd c.id = some { d with work := d.work + s.unitBytes i.val h.val } ∧ t.hbm = s1.hbm ∧ t.cxl = s1.cxl ∧ t.hostMem = s1.hostMem) ∧
    (o.state = .suspending → o.doneUnits + 1 < o.totalUnits → o.resumer = none → o.stopBy ≠ s1.time + 100 → answers (.longopUnitDone i h host) s fun t =>
      (t.longop i.val h.val).state = .diapause ∧ (t.longop i.val h.val).doneUnits = o.doneUnits + 1 ∧ (t.longop i.val h.val).lastStatus = 0x0602 ∧
      endedAs t c.id 0x0602 (o.doneUnits + 1)) ∧
    (o.state = .running → o.opcode = 0x64 → o.totalUnits ≤ o.doneUnits + 1 → clean d → answers (.longopUnitDone i h host) s fun t =>
      (t.longop i.val h.val).state = .free ∧ (t.longop i.val h.val).lastStatus = 0 ∧ endedAs t c.id 0 0)

/-- R207 to R211, R214, R215: SUSPEND asks a running operation to stop within 100 µs, and rests it in a later device µs when its unit is left undone; RESUME opens
the next segment of one at rest, or ends one that a change of the live side tore (R522, R593); CANCEL frees a handle, with LAST_STATUS CANCELLED where it stopped a segment; each meets LONGOP_BAD_STATE with the state's code where
it has no effect, and a molt's SUSPEND 0x0604.
Completes: `.longopSuspend`, `.longopResume`, `.longopCancel`. -/
def Obligations.LongOpControl : Prop :=
  ∀ (s : State) (id : Nat) (c : Cmd) (o : LongOp), o = s.longop c.slot c.handle →
    (∀ host : Mem, ready s id 0x70 c → o.cancelled ≠ some s.time →
      (o.state = .running → o.opcode ≠ 0x62 → answers (.longopSuspend id host) s fun t => running t id ∧ sameMemory s t ∧
        t.longop c.slot c.handle = { o with state := .suspending, suspender := some id, stopBy := s.time + 100 }) ∧
      (o.state = .waiting → o.opcode ≠ 0x62 → o.toRest = false → answers (.longopSuspend id host) s fun t => running t id ∧ sameMemory s t ∧
        t.longop c.slot c.handle = { o with suspender := some id, toRest := true, stopBy := s.time + 100 }) ∧
      (o.state = .running ∨ o.state = .waiting → o.opcode = 0x62 → answers (.longopSuspend id host) s fun t => endedAs t id 0x0604 c.handle ∧ onlyWork s t) ∧
      (o.state ≠ .running → o.state ≠ .waiting → answers (.longopSuspend id host) s fun t => endedAs t id 0x0605 o.state.number ∧ onlyWork s t)) ∧
    (∀ (host : Mem) (s1 : State) (e : Cmd) (g : Nat), s.runningOp id 0x70 = some c → o.state = .suspending → o.suspender = some id → o.toRest = false →
      o.stopBy < s.time + 100 →
      (s.segmentCmd c.slot c.handle).isSome = true → s1 = s.unitUndone c.slot c.handle host → (s1.segmentCmd c.slot c.handle).isSome = true →
      (s1.longop c.slot c.handle).suspender = some id → (s1.longop c.slot c.handle).resumer = none → (s1.longop c.slot c.handle).segment = some g → g ≠ id →
      s1.cmd id = some e → e.phase = .running →
      answers (.longopSuspend id host) s fun t => endedAs t id 0 0 ∧ (t.longop c.slot c.handle).state = .diapause ∧
        (t.longop c.slot c.handle).lastStatus = 0x0602 ∧ (t.longop c.slot c.handle).doneUnits = (s1.longop c.slot c.handle).doneUnits) ∧
    (∀ headers : List Byte, ready s id 0x71 c →
      (o.state = .diapause → o.torn = false → o.started = true → answers (.longopResume id headers) s fun t => running t id ∧ sameMemory s t ∧
        t.longop c.slot c.handle = { o with state := .running, segment := some id, segments := o.segments + 1 }) ∧
      (o.state = .diapause → o.torn = true → clean c → answers (.longopResume id headers) s fun t => (t.longop c.slot c.handle).state = .free ∧
        endedAs t id (if o.opcode = 0x61 then 0x0606 else 0x0506) o.doneUnits) ∧
      (o.state = .suspending → o.resumer = none → answers (.longopResume id headers) s fun t => running t id ∧
        t.longop c.slot c.handle = { o with resumer := some id, headers := headers }) ∧
      (o.state ≠ .diapause → o.state ≠ .suspending → (o.state = .waiting → o.toRest = false) →
        answers (.longopResume id headers) s fun t => endedAs t id 0x0605 o.state.number ∧ onlyWork s t)) ∧
    (∀ host : Mem, ready s id 0x72 c → o.suspender = none → o.resumer = none →
      (o.state = .diapause ∨ o.state = .waiting → o.segment ≠ some id → answers (.longopCancel id host) s fun t => endedAs t id 0 0 ∧
        (t.longop c.slot c.handle).state = .free ∧ (t.longop c.slot c.handle).lastStatus = if o.segment.isSome then 0x0601 else o.lastStatus) ∧
      (o.state = .running → o.opcode ≠ 0x62 → (o.segment.bind s.molt) = none → answers (.longopCancel id host) s fun t => running t id ∧ sameMemory s t ∧
        t.longop c.slot c.handle = { o with state := .cancelling, canceller := some id, stopBy := s.time + 100, toRest := false, cancelled := some s.time }) ∧
      (o.state = .free ∨ o.state = .cancelling → answers (.longopCancel id host) s fun t => endedAs t id 0x0605 o.state.number ∧ onlyWork s t)) ∧
    (∀ (host : Mem) (s1 : State) (e : Cmd) (p : LongOp), s.runningOp id 0x72 = some c → o.state = .cancelling → o.canceller = some id →
      s1 = s.unitUndone c.slot c.handle host → p = s1.longop c.slot c.handle → p.canceller = some id → p.suspender = none → p.resumer = none →
      p.segment ≠ some id → s1.cmd id = some e → e.phase = .running →
      answers (.longopCancel id host) s fun t => endedAs t id 0 0 ∧ (t.longop c.slot c.handle).state = .free ∧
        (t.longop c.slot c.handle).lastStatus = if p.segment.isSome then 0x0601 else p.lastStatus)

/-- R549, R587 to R590, R575, R576, R592: a FLIP whose checks pass turns the live side and begins hardening; a REVERT, or a mismatch found by a scrub pass in hardening,
turns it back and is counted; a pass that finds none ends hardening; TWIN and UNTWIN mark and unmark their regions.
R590, R592, R594: a background pass of a live record whose time has come: with every VERIFIED shard matching, hardening ends and the live side stays;
with one that does not match in hardening, the live side goes back. No checkpoint of the partition is at its last unit here: what the change of the live side does
to one is LongOpUnits' (R525).
Completes: `.flip`, `.revert`, `.twin`, `.untwin`, `.weightScrubPass`. -/
def Obligations.WeightFlipsAndScrubs : Prop :=
  (∀ (s : State) (id : Nat) (c : Cmd), clean c → ready s id 0x54 c → c.slot < 16 → flipBad (s.part c.slot) c.record = none → noLastCkpt s c.slot →
     ((flipArgs c.record).action = 1 → s.flipStatus c.slot = none → answers (.flip id) s fun t => endedAs t id 0 0 ∧
       (t.part c.slot).liveSide1 = !(s.part c.slot).liveSide1 ∧ (t.part c.slot).scrubDue = true ∧
       ((t.part c.slot).hardening = true ↔ (s.part c.slot).liveImage.imageId ≠ 0) ∧
       t.entry 0x7083 (c.slot + 1) = s.entry 0x7083 (c.slot + 1) + 1 ∧ sameMemory s t) ∧
     ((flipArgs c.record).action = 2 → (s.part c.slot).hardening = true → answers (.revert id) s fun t => endedAs t id 0 0 ∧
       (t.part c.slot).liveSide1 = !(s.part c.slot).liveSide1 ∧ (t.part c.slot).hardening = false ∧
       t.entry 0x7084 (c.slot + 1) = s.entry 0x7084 (c.slot + 1) + 1) ∧
     ((flipArgs c.record).action = 2 → (s.part c.slot).hardening = false → answers (.revert id) s fun t => endedAs t id 0x0505 0 ∧ onlyWork s t) ∧
     ((flipArgs c.record).action = 3 → s.twinStatus c.slot (flipArgs c.record) = none → answers (.twin id) s fun t => endedAs t id 0 0 ∧
       ∀ r ∈ (flipArgs c.record).regions, (tabGet {} (t.part c.slot).twins r).twinned = true) ∧
     ((flipArgs c.record).action = 4 → s.untwinStatus c.slot (flipArgs c.record) = none → answers (.untwin id) s fun t => endedAs t id 0 0 ∧
       ∀ r ∈ (flipArgs c.record).regions, (tabGet {} (t.part c.slot).twins r).twinned = false)) ∧
  (∀ (s : State) (i : Fin 16) (p : Part), p = s.part i.val → p.liveImage.imageId ≠ 0 → p.scrubDue = true → s.loaderFree i.val = true → s.partReset i.val = false →
     p.hardening = true → noLastCkpt s i.val →
     ((∀ e ∈ p.scrubList, s.shardMatches i.val e = true) → answers (.weightScrubPass i) s fun t =>
       (t.part i.val).hardening = false ∧ (t.part i.val).scrubDue = false ∧ (t.part i.val).scrubFrom = s.time ∧ (t.part i.val).liveSide1 = p.liveSide1) ∧
     ((∃ e ∈ p.scrubList, s.shardMatches i.val e = false) → answers (.weightScrubPass i) s fun t =>
       (t.part i.val).hardening = false ∧ (t.part i.val).liveSide1 = !p.liveSide1 ∧
       t.entry 0x7084 (i.val + 1) = s.entry 0x7084 (i.val + 1) + 1))

/-- R556, R559 to R563, R567: a MOLT whose layouts, tables and checks are good enters its boundary and waits there while a VOTE is VOTING; from its commit phase it ends
with the record it holds, opening the partition again; a phase past its limit fails it with 0x040A.
Completes: `.molt`, `.moltPhaseTimeout`. -/
def Obligations.Molts : Prop :=
  ∀ (s : State) (id : Nat) (c : Cmd), s.nicLive = true → s.cmd id = some c →
    (∀ (s0 s1 s2 s3 s4 s5 : State) (bs vt rt : List Byte) (o n : Layout) (x : Molt), ready s id 0x62 c → s.molt id = none →
      s0 = (s.beginCmd c).openSegment c.slot c.handle id → s0.descRead id c.slot c.payload 128 = (s1, some bs) →
      s1.readLayout c (field bs 0x10 8) true = (s2, some (.ok o)) → s2.readLayout c (field bs 0x18 8) false = (s3, some (.ok n)) →
      o.self ≠ noIndex → moltBad bs false = none → layoutsBad bs o n = none → o.orphan = none → recExternal c.record ≠ [] →
      s3.descRead id c.slot (field bs 0x20 8) (8 * field bs 0x28 4) = (s4, some vt) →
      s4.descRead id c.slot (field bs 0x30 8) (8 * field bs 0x38 4) = (s5, some rt) →
      memberBad vt (field bs 0x28 4) = none → memberBad rt (field bs 0x38 4) = none →
      x = { cmd := id, slot := c.slot, forced := bitAt (field bs 0 1) 0, alg := field bs 1 1, tag := field bs 2 1
            newInstar := BitVec.ofNat 32 (field bs 4 4), step := BitVec.ofNat 64 (field bs 8 8), old := o, new := n
            vgroup := membersOf vt (field bs 0x28 4), vn := field bs 0x28 4, vself := field bs 0x2C 4
            rgroup := membersOf rt (field bs 0x38 4), rn := field bs 0x38 4, rself := field bs 0x3C 4
            limit := if field bs 0x40 4 = 0 then s5.entry 0x6040 4 else field bs 0x40 4, result := field bs 0x48 8, phaseFrom := s5.time } →
      x.forced = false → s5.moltFault x = none → (s5.part c.slot).stepState = .voting →
      answers (.molt id) s fun t => t.molts = s5.molts ++ [x] ∧ (t.part c.slot).stepState = .voting) ∧
    (∀ (m : Molt) (x : Coll), s.molt id = some m → m.cmd = id → s.coll id = some x → m.phase = .commit → x.acts = [] → c.phase = .running → noLastCkpt s m.slot →
      answers (.molt id) s fun t => endedAs t id (if recordClean x.record then 0 else 0x0415) 0 ∧ t.molt id = none ∧ t.coll id = none ∧
        (t.part m.slot).stepState = .opened ∧ (t.part m.slot).doubt = none ∧
        (t.part m.slot).lastPoint = some { step := m.step, instar := m.newInstar, committed := recordClean x.record, molt := true, record := x.record }) ∧
    (∀ (m : Molt) (x : Coll), s.molt id = some m → s.coll id = some x → m.phase ≠ .boundary → m.phaseFrom + m.limit ≤ s.time → c.phase = .running →
      x.cmd = id → answers (.moltPhaseTimeout id) s fun t => endedAs t id 0x040A 0 ∧ t.molt id = none ∧ t.coll id = none)

/-! ## Memory requests, errors and scrubbing -/

/-- R246, R257, R270 to R275, R612: an issued request takes a slot and leaves the queue; a reply whose turn it is frees its slot; one of an older generation, or with no
slot, counts as late; a read whose check bits fail poisons its line, marks its command and tags the device lines its data went to.
Completes: `.requestIssue`, `.memoryReply`. -/
def Obligations.RequestsAndReplies : Prop :=
  ∀ (s : State) (c : CoreNo),
    ((s.core c.val).issue = [] → answers (.requestIssue c) s fun t => t = s) ∧
    (∀ (i : Nat) (r : MemReq) (s1 : State),
      (s.noteHot c.val).pickIssue ((s.noteHot c.val).issuable c.val [] ((s.noteHot c.val).core c.val).issue 0) = some (i, r, s1) →
      answers (.requestIssue c) s fun t =>
        (t.core c.val).slots = (s.core c.val).slots ++ [{ r with order := 1 + s1.allSlots.foldl (fun n q => max n q.order) 0 }] ∧
        (t.core c.val).issue = (s.core c.val).issue.eraseIdx i ∧ sameMemory s t ∧ t.cmds = s.cmds) ∧
    (∀ (i : Nat) (e : Ecc) (r : MemReq), (s.core c.val).slots[i]? = some r → s.replyDue r = true →
      (r.gen ≠ (s.core c.val).gen → answers (.memoryReply c i e) s fun t => (t.core c.val).slots = (s.core c.val).slots.eraseIdx i ∧
        t.entry 0x8013 (c.val + 1) = s.entry 0x8013 (c.val + 1) + 1 ∧ t.cmds = s.cmds ∧ sameMemory s t) ∧
      (r.gen = (s.core c.val).gen → (r.write = true ∨ e = .clean) → answers (.memoryReply c i e) s fun t =>
        (t.core c.val).slots = (s.core c.val).slots.eraseIdx i ∧ t.cmds = s.cmds ∧ sameMemory s t) ∧
      (∀ d : Cmd, r.gen = (s.core c.val).gen → r.write = false → e = .uncorrectable → s.cmd r.cmd = some d → d.poisoned = none → d.phase = .running →
        answers (.memoryReply c i e) s fun t => (t.core c.val).slots = (s.core c.val).slots.eraseIdx i ∧
          t.linePoisoned (r.tier == .cxl) (r.line * 256) = true ∧ t.cmd r.cmd = some { d with poisoned := some r.va } ∧
          ∀ va n, MemDest.device va n ∈ r.dests → ∀ x ∈ lineSpans va n, ∀ w, s.translate r.slot x.1 = some w → t.linePoisoned w.cxl w.dpa = true)) ∧
    (∀ (i : Nat) (e : Ecc), (s.core c.val).slots[i]? = none → 0 < (s.core c.val).lateReplies → answers (.memoryReply c i e) s fun t =>
      (t.core c.val).lateReplies + 1 = (s.core c.val).lateReplies ∧ t.entry 0x8013 (c.val + 1) = s.entry 0x8013 (c.val + 1) + 1)

/-- R254 to R259, R281: the patrol scrubber counts a corrected line and poisons an uncorrectable one; a frame to be retired is copied to the next good spare byte for
byte; a freed frame is zeroed before it is free. The memories are in their canonical form, an invariant of its own.
Completes: `.patrolScrub`, `.frameRetireCopy`, `.memoryZeroDone`. -/
def Obligations.FramesAndLines : Prop :=
  ∀ s : State, memWf s →
    (∀ (l : BitVec 31) (e : Ecc), s.powered = true → 7 ≤ s.boot.stage →
      (e = .clean → answers (.patrolScrub l e) s fun t => t = s) ∧
      (e = .corrected → answers (.patrolScrub l e) s fun t =>
        t.entry 0x5001 (hbmStack (l.toNat * 256) + 1) = s.entry 0x5001 (hbmStack (l.toNat * 256) + 1) + 1 ∧ sameMemory s t) ∧
      (e = .uncorrectable → s.linePoisoned false (l.toNat * 256) = false → answers (.patrolScrub l e) s fun t =>
        t.linePoisoned false (l.toNat * 256) = true ∧ sameMemory s t ∧
        t.entry 0x5002 (hbmStack (l.toNat * 256) + 1) = s.entry 0x5002 (hbmStack (l.toNat * 256) + 1) + 1)) ∧
    (∀ f n : Nat, (s.frame false f).retiring = true → s.nextSpare (s.hbmFrames.length + 1) s.spareNext = some n → s.inMove f = false →
      answers (.frameRetireCopy f) s fun t =>
      t.frame false f = { retired := true } ∧ t.spareNext = n + 1 ∧
      ∀ k, k < 65536 → memByte t.hbm (spareFrame n * 65536 + k) = memByte s.hbm (f * 65536 + k)) ∧
    (∀ (x : Bool) (f : Nat), (s.frame x f).zeroing = true → answers (.memoryZeroDone x f) s fun t =>
      t.frame x f = { s.frame x f with zeroing := false } ∧ (∀ k, k < 65536 → memByte (t.tierMem x) (f * 65536 + k) = 0) ∧
      (∀ a, a < f * 65536 ∨ f * 65536 + 65536 ≤ a → memByte (t.tierMem x) a = memByte (s.tierMem x) a) ∧
      ∀ k, k < 256 → t.linePoisoned x (f * 65536 + 256 * k) = false)

/-- R306, R308, R283 to R288: the scratch scrubber reads the next word of an awake bank and poisons one it cannot correct; a stream row that arrives whole is in scratch
and counted, as fetched or as fetched again.
Completes: `.scratchScrub`, `.streamRowFetch`. -/
def Obligations.ScratchAndStreams : Prop :=
  ∀ (s : State) (c : CoreNo),
    (∀ (b : BankNo) (w : Fin 1024) (e : Ecc), s.groupAwake c.val (b.val / 64) = true → s.scrubOver c.val = false →
      tabGet 0 (s.core c.val).scrubNext b.val = w.val →
      answers (.scratchScrub c b w e) s fun t => sameMemory s t ∧ t.cmds = s.cmds ∧
        (e = .uncorrectable → tabGet false t.scratchPoison (scratchPoisonKey c.val b.val w.val) = true) ∧
        (e = .clean → t.scratchPoison = s.scratchPoison ∧ t.sup = s.sup)) ∧
    (∀ (k : Fin 8) (r : TileRun) (d : Cmd) (x : Stream) (s1 s2 : State) (bs : List TByte) (row : Nat) (again : Bool), s.tileOf c.val = some (r, d) →
      r.streams[k.val]? = some x → x.nextRow (r.reached k.val) = some (row, again) → s.issueRoom c.val (lineSpans (x.rowVa row) x.rowBytes).length = true →
      (s.pushLines c.val d.id d.slot .stream false (x.rowVa row) x.rowBytes (fun o m => [.scratch (x.dest + row % x.lead * x.rowBytes + o) m])
        (8 * row + k.val)).cmdTagged d.id d.slot (x.rowVa row) x.rowBytes = (s1, some bs) →
      s1.cmdScratchWrite d.id d.slot c.val (s1.core c.val).tile.foot (x.dest + row % x.lead * x.rowBytes) bs = (s2, true) →
      answers (.streamRowFetch c k) s fun t => t.scratch = s2.scratch ∧
        (∃ y, (t.core c.val).tile.streams[k.val]? = some y ∧ y.fetched = max x.fetched (row + 1) ∧ y.consumed = x.consumed) ∧
        t.entry (if again then 0x5022 else 0x5020) (c.val + 1) = s.entry (if again then 0x5022 else 0x5020) (c.val + 1) + x.rowBytes)

/-! ## Bank programs -/

/-- R312: a BANK_RUN whose checks pass stands at the start of its program on each of its cores; one with a bad field ends with 0x0206 and its byte offset, 0 where its
descriptor is misaligned (log 69, the model's choice), one that
names a group not held with 0x0207, one that stores outside FOOTPRINT with 0x0209, and one whose CHECK_STEP does not match with 0x0403.
Completes: `.bankRun`. -/
def Obligations.BankRunStarts : Prop :=
  ∀ (s s1 : State) (id : Nat) (c d : Cmd) (bs : List Byte), ready s id 0x11 c →
    (c.payload % 64 ≠ 0 → answers (.bankRun id) s fun t => endedAs t id 0x0206 0 ∧ sameMemory s t) ∧
    (c.payload % 64 = 0 → (s.beginCmd c).readBankDesc id c.slot c.payload = (s1, some bs) → s1.cmd id = some d → d.phase = .running →
    (∀ o, bankBad bs = some o → answers (.bankRun id) s fun t => endedAs t id 0x0206 o) ∧
    (∀ g, bankBad bs = none → s1.bankUnheld c.slot c.cores (bankRunOf bs) = some g → answers (.bankRun id) s fun t => endedAs t id 0x0207 g) ∧
    (∀ g, bankBad bs = none → s1.bankUnheld c.slot c.cores (bankRunOf bs) = none → (bankRunOf bs).outside = some g →
      answers (.bankRun id) s fun t => endedAs t id 0x0209 g) ∧
    (bankBad bs = none → s1.bankUnheld c.slot c.cores (bankRunOf bs) = none → (bankRunOf bs).outside = none → s1.stepSkew c.slot bs = true →
      answers (.bankRun id) s fun t => endedAs t id 0x0403 0) ∧
    (bankBad bs = none → s1.bankUnheld c.slot c.cores (bankRunOf bs) = none → (bankRunOf bs).outside = none → s1.stepSkew c.slot bs = false →
      answers (.bankRun id) s fun t => running t id ∧ sameMemory s1 t ∧
        ∀ k ∈ c.cores, (t.core k).bank.cmd = some id ∧ (t.core k).bank.engines = [] ∧ (t.core k).bank.stripes = (bankRunOf bs).stripes))

/-- R315, R320, R404 to R413: the register micro-ops compute their lanes from ra, rb, rc and the program's constants into rd.
Completes: `.uopMovk`, `.uopFadd`, `.uopFsub`, `.uopFmul`, `.uopFma`, `.uopFmak`, `.uopFmax`, `.uopFmin`, `.uopFabs`, `.uopFsqrt`, `.uopFrcp`,
`.uopFrsq`, `.uopHfma`, `.uopLsum`. -/
def Obligations.BankArithmetic : Prop :=
  ∀ (s : State) (c : CoreNo) (b : BankNo) (u : Uop) (x y z : BitVec 128 × Bool) (sr : Bool) (n : Nat) (rnd : Nat → Option Nat),
    x = u.eng.reg (uopRa u.w) → y = u.eng.reg (uopRb u.w) → z = u.eng.reg (uopRc u.w) →
    sr = (uopSra u.w && (s.core u.core).bank.stochastic) → n = (if sr then 1 else 0) →
    rnd = (fun i => if sr then some (drawLane (draw (s.core u.core).bank.srStep (bankEngineId u.core u.bank) (s.core u.core).bank.accIndex u.eng.draws) i)
      else none) →
    (s.uopAt c.val b.val 0x08 = some u → answers (.uopMovk c b) s fun t =>
      uopDone s t u (ofLanes (List.replicate 4 ((s.core u.core).bank.k.getD (uopImm8 u.w % 8) 0))) false
        (flWritten ((s.core u.core).bank.k.getD (uopImm8 u.w % 8) 0)) 0) ∧
    (s.uopAt c.val b.val 0x10 = some u → answers (.uopFadd c b) s fun t => ∃ r, r = gather32 ((List.range 4).map fun i =>
      written (addVal (rnd i) (laneOf x i) (laneOf y i))) (x.2 || y.2) ∧ uopDone s t u r.1 (x.2 || y.2) r.2 n) ∧
    (s.uopAt c.val b.val 0x11 = some u → answers (.uopFsub c b) s fun t => ∃ r, r = gather32 ((List.range 4).map fun i =>
      written (addVal (rnd i) (laneOf x i) (laneOf y i).negate)) (x.2 || y.2) ∧ uopDone s t u r.1 (x.2 || y.2) r.2 n) ∧
    (s.uopAt c.val b.val 0x12 = some u → answers (.uopFmul c b) s fun t => ∃ r, r = gather32 (List.zipWith fmul (lanesOf x.1) (lanesOf y.1))
      (x.2 || y.2) ∧ uopDone s t u r.1 (x.2 || y.2) r.2 0) ∧
    (s.uopAt c.val b.val 0x13 = some u → answers (.uopFma c b) s fun t => ∃ r, r = gather32 ((List.range 4).map fun i =>
      written (fmaVal (rnd i) (laneOf x i) (laneOf y i) (laneOf z i))) (x.2 || y.2 || z.2) ∧ uopDone s t u r.1 (x.2 || y.2 || z.2) r.2 n) ∧
    (s.uopAt c.val b.val 0x14 = some u → answers (.uopFmak c b) s fun t => ∃ r, r = gather32 ((List.range 4).map fun i =>
      written (fmaVal (rnd i) (laneOf x i) (decode32 ((s.core u.core).bank.k.getD (uopImm8 u.w % 8) 0)) (laneOf y i))) (x.2 || y.2) ∧
      uopDone s t u r.1 (x.2 || y.2) r.2 n) ∧
    (s.uopAt c.val b.val 0x15 = some u → answers (.uopFmax c b) s fun t => ∃ r, r = gather32 (List.zipWith fmax (lanesOf x.1) (lanesOf y.1))
      (x.2 || y.2) ∧ uopDone s t u r.1 (x.2 || y.2) r.2 0) ∧
    (s.uopAt c.val b.val 0x16 = some u → answers (.uopFmin c b) s fun t => ∃ r, r = gather32 (List.zipWith fmin (lanesOf x.1) (lanesOf y.1))
      (x.2 || y.2) ∧ uopDone s t u r.1 (x.2 || y.2) r.2 0) ∧
    (s.uopAt c.val b.val 0x17 = some u → answers (.uopFabs c b) s fun t => ∃ r, r = gather32 ((lanesOf x.1).map fabs) x.2 ∧ uopDone s t u r.1 x.2 r.2 0) ∧
    (s.uopAt c.val b.val 0x18 = some u → answers (.uopFsqrt c b) s fun t => ∃ r, r = gather32 ((lanesOf x.1).map fsqrt) x.2 ∧ uopDone s t u r.1 x.2 r.2 0) ∧
    (s.uopAt c.val b.val 0x19 = some u → answers (.uopFrcp c b) s fun t => ∃ r, r = gather32 ((lanesOf x.1).map (fdiv 0x3F800000)) x.2 ∧
      uopDone s t u r.1 x.2 r.2 0) ∧
    (s.uopAt c.val b.val 0x1A = some u → answers (.uopFrsq c b) s fun t => ∃ r, r = gather32 ((lanesOf x.1).map fun v => written (rsqNear 0x1A v)) x.2 ∧
      uopDone s t u r.1 x.2 r.2 0) ∧
    (s.uopAt c.val b.val 0x1B = some u → answers (.uopHfma c b) s fun t => ∃ fl, uopDone s t u
      (ofLanes16 ((List.range 8).map fun i => (hfma (x.1.extractLsb' (16 * i) 16) (y.1.extractLsb' (16 * i) 16) (z.1.extractLsb' (16 * i) 16)).1))
      (x.2 || y.2 || z.2) fl 0) ∧
    (s.uopAt c.val b.val 0x22 = some u → answers (.uopLsum c b) s fun t => ∃ fl, uopDone s t u
      (ofLanes [(fadd (fadd (x.1.extractLsb' 0 32) (x.1.extractLsb' 32 32)).1 (fadd (x.1.extractLsb' 64 32) (x.1.extractLsb' 96 32)).1).1, 0, 0, 0]) x.2 fl 0)

/-- R298, R307, R315, R318, R321: the port micro-ops move one word between the engine and its bank at an address register, which then moves by its signed count of
words, and change no other byte of scratch; LD and ST raise NONFINITE of the lanes they write; outside the stripe's window the command stops with 0x0208.
Completes: `.uopLd`, `.uopLdw`, `.uopLds`, `.uopSt`, `.uopStn`, `.uopSts`. -/
def Obligations.BankPort : Prop :=
  ∀ (s : State) (c : CoreNo) (b : BankNo) (u : Uop),
    (u.inWindow = true →
      (∀ (e : Ecc) (bs : List TByte), bs = (s.scratchEcc u.core u.bank (u.addr / 16) e).bankRead u.core u.bank u.addr 16 →
        (s.uopAt c.val b.val 0x01 = some u → answers (.uopLd c b e) s fun t =>
          portDone t u (u.eng.setReg (uopRd u.w) (wordOf (bs.map (·.1))) (bs.any (·.2))) ∧ sameMemory s t ∧
          (t.core u.core).bank.flags = (s.core u.core).bank.flags ||| wordFlags (wordOf (bs.map (·.1))) (bs.any (·.2))) ∧
        (s.uopAt c.val b.val 0x03 = some u → answers (.uopLdw c b e) s fun t => sameMemory s t ∧
          portDone t u ((u.eng.setReg (uopRd u.w) (ofLanes (((lanes16Of (wordOf (bs.map (·.1)))).map widenBf16).take 4)) (bs.any (·.2))).setReg
            (uopRd u.w + 1) (ofLanes (((lanes16Of (wordOf (bs.map (·.1)))).map widenBf16).drop 4)) (bs.any (·.2)))) ∧
        (s.uopAt c.val b.val 0x05 = some u → answers (.uopLds c b e) s fun t =>
          portDone t u { u.eng with s := wordOf (bs.map (·.1)), sPoison := bs.any (·.2) } ∧ sameMemory s t)) ∧
      (s.uopAt c.val b.val 0x02 = some u → answers (.uopSt c b) s fun t => portDone t u u.eng ∧ scratchFrame s t (portKey u) 16 ∧
        memRead t.scratch (portKey u) 16 = bytesOfNat (u.eng.reg (uopRd u.w)).1.toNat 16 ∧
        (t.core u.core).bank.flags = (s.core u.core).bank.flags ||| wordFlags (u.eng.reg (uopRd u.w)).1 (u.eng.reg (uopRd u.w)).2) ∧
      (s.uopAt c.val b.val 0x04 = some u → answers (.uopStn c b) s fun t => portDone t u u.eng ∧ scratchFrame s t (portKey u) 16 ∧
        memRead t.scratch (portKey u) 16 = bytesOfNat (ofLanes16 ((lanesOf (u.eng.reg (uopRd u.w)).1 ++ lanesOf (u.eng.reg (uopRd u.w + 1)).1).map
          fun v => (narrowBf16 v).1)).toNat 16) ∧
      (s.uopAt c.val b.val 0x06 = some u → answers (.uopSts c b) s fun t => portDone t u { u.eng with s := 0, sPoison := false } ∧
        scratchFrame s t (portKey u) 16 ∧ memRead t.scratch (portKey u) 16 = bytesOfNat u.eng.s.toNat 16)) ∧
    (u.inWindow = false →
      (∀ e : Ecc, (s.uopAt c.val b.val 0x01 = some u → answers (.uopLd c b e) s fun t => endedAs t u.id 0x0208 u.range ∧ onlyCmds s t) ∧
        (s.uopAt c.val b.val 0x03 = some u → answers (.uopLdw c b e) s fun t => endedAs t u.id 0x0208 u.range ∧ onlyCmds s t) ∧
        (s.uopAt c.val b.val 0x05 = some u → answers (.uopLds c b e) s fun t => endedAs t u.id 0x0208 u.range ∧ onlyCmds s t)) ∧
      (s.uopAt c.val b.val 0x02 = some u → answers (.uopSt c b) s fun t => endedAs t u.id 0x0208 u.range ∧ onlyCmds s t) ∧
      (s.uopAt c.val b.val 0x04 = some u → answers (.uopStn c b) s fun t => endedAs t u.id 0x0208 u.range ∧ onlyCmds s t) ∧
      (s.uopAt c.val b.val 0x06 = some u → answers (.uopSts c b) s fun t => endedAs t u.id 0x0208 u.range ∧ onlyCmds s t))

/-- R313, R315, R316, R319, R406, R407: END stops the engine, lets its group's tree go on and, with the last one, ends the command; AINC moves an address register;
LOOP opens its body or skips it; MXQ and MXD pass 32 elements through one scale; GSUM and GMAX wait for every active bank of their group and give each of them one
result, an inactive bank counting as +0 in a sum and not at all in a maximum.
Completes: `.uopEnd`, `.uopAinc`, `.uopLoop`, `.uopMxq`, `.uopMxd`, `.uopGsum`, `.uopGmax`. -/
def Obligations.BankControl : Prop :=
  ∀ (s : State) (c : CoreNo) (b : BankNo) (u : Uop) (key : Nat), key = u.index * 5120 + u.bank →
    (∀ (s1 : State) (d : Cmd), s.uopAt c.val b.val 0x00 = some u →
      s1 = (s.putEngine u { u.eng with ended := true, issued := u.eng.issued + 1 } 0).treeTry u →
      s.cmd u.id = some d → clean d → answers (.uopEnd c b) s fun t =>
        (∃ e, tabFind (t.core u.core).bank.engines key = some e ∧ e.ended = true) ∧ sameMemory s t ∧
        ((∀ k ∈ d.cores, (s1.core k).bank.allEnded = true) → ∃ fl, endedAs t u.id 0 fl) ∧
        ((∃ k ∈ d.cores, (s1.core k).bank.allEnded = false) → t.cmds = s.cmds)) ∧
    (s.uopAt c.val b.val 0x07 = some u → answers (.uopAinc c b) s fun t => sameMemory s t ∧ t.cmds = s.cmds ∧
      ∃ e, tabFind (t.core u.core).bank.engines key = some e ∧ e.b = u.eng.b ∧ e.s = u.eng.s ∧
        tabGet 0 e.a (uopRa u.w % 8) = (((u.addr : Int) + signed 14 (uopImm14 u.w)) % 2 ^ 32).toNat ∧
        ∀ k, k ≠ uopRa u.w % 8 → tabGet 0 e.a k = tabGet 0 u.eng.a k) ∧
    (s.uopAt c.val b.val 0x30 = some u → answers (.uopLoop c b) s fun t => sameMemory s t ∧ t.cmds = s.cmds ∧
      ∃ e, tabFind (t.core u.core).bank.engines key = some e ∧ e.a = u.eng.a ∧ e.b = u.eng.b ∧
        (u.count = 0 → (e.pc, e.loops) = loopBack (u.eng.pc + loopBody u.w + 1) u.eng.loops) ∧
        (u.count ≠ 0 → e.pc = u.eng.pc + 1 ∧ e.loops = (u.eng.pc + 1, u.eng.pc + 1 + loopBody u.w, u.count) :: u.eng.loops)) ∧
    (∀ (vs : List W32) (p : Bool), vs = ((List.range 8).flatMap fun i => lanesOf (u.eng.reg (uopRa u.w + i)).1) →
      p = ((List.range 8).any fun i => (u.eng.reg (uopRa u.w + i)).2) → s.uopAt c.val b.val 0x20 = some u →
      answers (.uopMxq c b) s fun t => sameMemory s t ∧ ∃ e, tabFind (t.core u.core).bank.engines key = some e ∧
        e.reg (uopRd u.w) = (wordOf (((mxQuant (uopFmt u.w) vs).1.map (BitVec.ofNat 8)).take 16), p) ∧
        e.reg (uopRd u.w + 1) = (wordOf (((mxQuant (uopFmt u.w) vs).1.map (BitVec.ofNat 8)).drop 16), p) ∧
        e.s = setByte u.eng.s (uopImm8 u.w % 16) (mxQuant (uopFmt u.w) vs).2.1 ∧ e.sPoison = (u.eng.sPoison || p)) ∧
    (∀ (l : List Byte) (scale : Nat), l = bytesOfNat (u.eng.reg (uopRa u.w)).1.toNat 16 ++ bytesOfNat (u.eng.reg (uopRa u.w + 1)).1.toNat 16 →
      scale = ((bytesOfNat u.eng.s.toNat 16).getD (uopImm8 u.w % 16) 0).toNat → s.uopAt c.val b.val 0x21 = some u →
      answers (.uopMxd c b) s fun t => sameMemory s t ∧ ∃ e, tabFind (t.core u.core).bank.engines key = some e ∧ e.s = u.eng.s ∧
        ∀ i, i < 8 → e.reg (uopRd u.w + i) = (ofLanes (((l.drop (4 * i)).take 4).map fun v => (mxDecode (uopFmt u.w) scale v.toNat).1),
          (u.eng.reg (uopRa u.w)).2 || (u.eng.reg (uopRa u.w + 1)).2 || u.eng.sPoison)) ∧
    (∀ (s1 : State) (banks : List (Nat × Nat × Stripe × BankEngine)) (p : Bool) (lane : Nat → Nat → Option W32),
      s1 = s.putEngine u { u.eng with inTree := true } 0 → banks = (s1.core u.core).bank.active (u.bank / 64) →
      p = (banks.any fun x => (x.2.2.2.reg (uopRa u.w)).2) →
      lane = (fun i j => (banks.find? fun x => x.1 % 64 == j).map fun x => (x.2.2.2.reg (uopRa u.w)).1.extractLsb' (32 * i) 32) →
      ((∃ x ∈ banks, x.2.2.2.inTree = false) →
        (s.uopAt c.val b.val 0x28 = some u → answers (.uopGsum c b) s fun t => sameMemory s t ∧
          tabFind (t.core u.core).bank.engines key = some { u.eng with inTree := true }) ∧
        (s.uopAt c.val b.val 0x29 = some u → answers (.uopGmax c b) s fun t => sameMemory s t ∧
          tabFind (t.core u.core).bank.engines key = some { u.eng with inTree := true })) ∧
      ((∀ x ∈ banks, x.2.2.2.inTree = true ∧ x.2.2.2.pc = u.eng.pc ∧ ((s1.core u.core).bank.uops x.2.2.1)[u.eng.pc]? = some u.w) →
        (s.uopAt c.val b.val 0x28 = some u → answers (.uopGsum c b) s fun t => sameMemory s t ∧ ∀ x ∈ banks, ∃ e,
          tabFind (t.core u.core).bank.engines (x.2.1 * 5120 + x.1) = some e ∧ e.inTree = false ∧ e.reg (uopRd u.w) =
            (ofLanes ((List.range 4).map fun i => (pairTree fadd 7 ((List.range 64).map fun j => (lane i j).getD 0)).1), p)) ∧
        (s.uopAt c.val b.val 0x29 = some u → answers (.uopGmax c b) s fun t => sameMemory s t ∧ ∀ x ∈ banks, ∃ e,
          tabFind (t.core u.core).bank.engines (x.2.1 * 5120 + x.1) = some e ∧ e.inTree = false ∧ e.reg (uopRd u.w) =
            (ofLanes ((List.range 4).map fun i => (pairTree (extremum false) 7 ((List.range 64).filterMap fun j => lane i j)).1), p))))

/-! ## Tile programs: the matrix and vector engines -/

/-- R343 to R349, R387: a TILE_RUN whose descriptors, groups, trackers and vector programs pass their checks stands at its first pass on each of its cores; a bad
field ends it with 0x020A and its byte offset, and a misaligned descriptor with 0 (log 69, the model's choice).
R336 to R342: a pass of a sub-array that is ready runs, whatever errors the words it reads show, and the next one follows it; a pass of one row that neither loads,
accumulates nor emits sets each column's sum of products in its accumulator row. R288: a pass whose stream rows have not all arrived waits, and is counted late once.
Completes: `.tileRun`, `.passStart`. -/
def Obligations.TilePrograms : Prop :=
  (∀ (s s1 s2 : State) (id : Nat) (c d : Cmd) (h : List Byte) (parts : List (Nat × List Byte)), ready s id 0x10 c →
     (c.payload % 64 ≠ 0 → answers (.tileRun id) s fun t => endedAs t id 0x020A 0 ∧ sameMemory s t) ∧
     (c.payload % 64 = 0 → (s.beginCmd c).descRead id c.slot c.payload 64 = (s1, some h) →
     s1.readParts id c.slot c.payload (field h 0x20 4) (c.cores.zipIdx.map fun e => (e.2, e.1)) = (s2, some parts) →
     s2.cmd id = some d → d.phase = .running →
     (∀ o, (parts.findSome? fun e => tileBad e.2) = some o → answers (.tileRun id) s fun t => endedAs t id 0x020A o) ∧
     (∀ g, (parts.findSome? fun e => tileBad e.2) = none → s2.tileUnheld c.slot parts = some g → answers (.tileRun id) s fun t => endedAs t id 0x0207 g) ∧
     (∀ s3, (∀ e ∈ parts, tileBad e.2 = none) → s2.tileUnheld c.slot parts = none →
       (∀ e ∈ parts, ∀ n ∈ tileTrackers e.2, (s2.tracker c.slot n).isSome = true) → vecsRead id c.slot s2 parts s3 → (parts.map (·.1)).Nodup →
       answers (.tileRun id) s fun t => sameMemory s3 t ∧ t.cmds = s3.cmds ∧ ∀ e ∈ parts, (t.core e.1).tile.cmd = some id ∧
         (t.core e.1).tile.passes = tilePasses e.2 ∧ (t.core e.1).tile.footprint = BitVec.ofNat 80 (field e.2 8 10) ∧ (t.core e.1).tile.queue = []))) ∧
  (∀ (s : State) (c : CoreNo) (q : Fin 16) (r : TileRun) (d : Cmd) (ix : Nat) (p : Pass) (bad : Option ColumnFault) (errs : EccReads),
     s.tileOf c.val = some (r, d) → r.nextPass q.val = some (ix, p) → s.rowsHere c.val d.id r p = false →
     ((r.sub q.val).late = true → answers (.passStart c q ⟨bad, errs⟩) s fun t => t = s) ∧
     ((r.sub q.val).late = false → answers (.passStart c q ⟨bad, errs⟩) s fun t => sameMemory s t ∧ t.cmds = s.cmds ∧
       (t.core c.val).tile = r.setSub q.val { r.sub q.val with late := true } ∧ t.entry 0x5023 (c.val + 1) = s.entry 0x5023 (c.val + 1) + 1)) ∧
  (∀ (s : State) (c : CoreNo) (q : Fin 16) (r : TileRun) (d : Cmd) (ix : Nat) (p : Pass) (errs : EccReads), s.tileOf c.val = some (r, d) →
     r.nextPass q.val = some (ix, p) → s.rowsHere c.val d.id r p = true → r.credit q.val p = true →
     ((p.load = false ∨ ∃ s1 pl, (s.scratchErrs d.slot c.val errs).loadPlane d.id d.slot c.val r.mode p = (s1, some pl)) →
       answers (.passStart c q ⟨none, errs⟩) s fun t =>
         ((t.core c.val).tile.sub q.val).next = ix + 1 ∧ (t.core c.val).tile.passes = r.passes ∧ (t.core c.val).tile.cmd = r.cmd) ∧
     (∀ (s1 : State) (m : MovRow), p.load = false → p.acc = false → p.emit = false → p.reuse = false → p.mRows = 1 →
       (s.scratchErrs d.slot c.val errs).movingRow d.id d.slot c.val p 0 = (s1, some m) → answers (.passStart c q ⟨none, errs⟩) s fun t => sameMemory s t ∧
         ∀ j, j < p.nCols → j < 2048 → tabGet 0 ((t.core c.val).tile.sub q.val).acc (2048 * p.accBase + j) =
           (colSum p ((m.vals.zip (List.range p.kRows)).map fun e =>
             (e.1, elemVal p.sFmt p.mx (tabGet 0 (r.sub q.val).plane.elems (2048 * e.2 + j)))) m.scales
             ((List.range (ceilDiv p.kRows 32)).map fun b => (tabGet 0 (r.sub q.val).plane.scales (2048 * b + j)).toNat)).1))

/-- R376 to R380, R389 to R393, R400 to R405: the vector instructions of two or three operands write each element the mask selects below COUNT with the result on the
elements of va, vb, vc and kB, poisoned where one of them or the mask is.
Completes: `.vFadd`, `.vFsub`, `.vFmul`, `.vFma`, `.vFnma`, `.vFaddk`, `.vFmulk`, `.vFmak`, `.vFmax`, `.vFmin`, `.vFmaxk`, `.vFdiv`, `.vFsel`. -/
def Obligations.VectorArithmetic : Prop :=
  ∀ (s : State) (c : CoreNo) (u : Vop),
    (s.vecAt c.val 0x20 = some u → answers (.vFadd c) s fun t => vecDone s t u u.picked fun e => ((fadd (u.a e).1 (u.b e).1).1, (u.a e).2 || (u.b e).2)) ∧
    (s.vecAt c.val 0x21 = some u → answers (.vFsub c) s fun t => vecDone s t u u.picked fun e => ((fsub (u.a e).1 (u.b e).1).1, (u.a e).2 || (u.b e).2)) ∧
    (s.vecAt c.val 0x22 = some u → answers (.vFmul c) s fun t => vecDone s t u u.picked fun e => ((fmul (u.a e).1 (u.b e).1).1, (u.a e).2 || (u.b e).2)) ∧
    (s.vecAt c.val 0x23 = some u → answers (.vFma c) s fun t => vecDone s t u u.picked fun e =>
      ((ffma (u.a e).1 (u.b e).1 (u.c e).1).1, (u.a e).2 || (u.b e).2 || (u.c e).2)) ∧
    (s.vecAt c.val 0x24 = some u → answers (.vFnma c) s fun t => vecDone s t u u.picked fun e =>
      ((written (fmaVal none (decode32 (u.a e).1).negate (decode32 (u.b e).1) (decode32 (u.c e).1))).1, (u.a e).2 || (u.b e).2 || (u.c e).2)) ∧
    (s.vecAt c.val 0x25 = some u → answers (.vFaddk c) s fun t => vecDone s t u u.picked fun e => ((fadd (u.a e).1 u.k).1, (u.a e).2)) ∧
    (s.vecAt c.val 0x26 = some u → answers (.vFmulk c) s fun t => vecDone s t u u.picked fun e => ((fmul (u.a e).1 u.k).1, (u.a e).2)) ∧
    (s.vecAt c.val 0x27 = some u → answers (.vFmak c) s fun t => vecDone s t u u.picked fun e =>
      ((ffma (u.a e).1 u.k (u.c e).1).1, (u.a e).2 || (u.c e).2)) ∧
    (s.vecAt c.val 0x28 = some u → answers (.vFmax c) s fun t => vecDone s t u u.picked fun e => ((fmax (u.a e).1 (u.b e).1).1, (u.a e).2 || (u.b e).2)) ∧
    (s.vecAt c.val 0x29 = some u → answers (.vFmin c) s fun t => vecDone s t u u.picked fun e => ((fmin (u.a e).1 (u.b e).1).1, (u.a e).2 || (u.b e).2)) ∧
    (s.vecAt c.val 0x2A = some u → answers (.vFmaxk c) s fun t => vecDone s t u u.picked fun e => ((fmax (u.a e).1 u.k).1, (u.a e).2)) ∧
    (s.vecAt c.val 0x2C = some u → answers (.vFdiv c) s fun t => vecDone s t u u.picked fun e => ((fdiv (u.a e).1 (u.b e).1).1, (u.a e).2 || (u.b e).2)) ∧
    (s.vecAt c.val 0x2D = some u → answers (.vFsel c) s fun t => vecDone s t u (List.range (vCount u.w)) fun e =>
      ((if u.sel e then u.a e else u.b e).1, (u.a e).2 || (u.b e).2))

/-- R380, R394: the vector instructions of one operand, each the correctly rounded result or the model's value within the stated error (log 2).
Completes: `.vFabs`, `.vVmov`, `.vFsqrt`, `.vFrcp`, `.vFrsq`, `.vFexp`, `.vFexp2`, `.vFlog`, `.vFtanh`, `.vFsigm`, `.vFerf`, `.vFsin`, `.vFcos`,
`.vF2i`, `.vI2f`. -/
def Obligations.VectorFunctions : Prop :=
  ∀ (s : State) (c : CoreNo) (u : Vop),
    (s.vecAt c.val 0x2B = some u → answers (.vFabs c) s fun t => vecDone s t u u.picked fun e => ((fabs (u.a e).1).1, (u.a e).2)) ∧
    (s.vecAt c.val 0x2E = some u → answers (.vVmov c) s fun t => vecDone s t u u.picked u.a) ∧
    (s.vecAt c.val 0x40 = some u → answers (.vFsqrt c) s fun t => vecDone s t u u.picked fun e => ((fsqrt (u.a e).1).1, (u.a e).2)) ∧
    (s.vecAt c.val 0x41 = some u → answers (.vFrcp c) s fun t => vecDone s t u u.picked fun e => ((written (rcpNear 0x41 (u.a e).1)).1, (u.a e).2)) ∧
    (s.vecAt c.val 0x42 = some u → answers (.vFrsq c) s fun t => vecDone s t u u.picked fun e => ((written (rsqNear 0x42 (u.a e).1)).1, (u.a e).2)) ∧
    (s.vecAt c.val 0x43 = some u → answers (.vFexp c) s fun t => vecDone s t u u.picked fun e => ((written (vecFunc 0x43 (u.a e).1)).1, (u.a e).2)) ∧
    (s.vecAt c.val 0x44 = some u → answers (.vFexp2 c) s fun t => vecDone s t u u.picked fun e => ((written (vecFunc 0x44 (u.a e).1)).1, (u.a e).2)) ∧
    (s.vecAt c.val 0x45 = some u → answers (.vFlog c) s fun t => vecDone s t u u.picked fun e => ((written (vecFunc 0x45 (u.a e).1)).1, (u.a e).2)) ∧
    (s.vecAt c.val 0x46 = some u → answers (.vFtanh c) s fun t => vecDone s t u u.picked fun e => ((written (vecFunc 0x46 (u.a e).1)).1, (u.a e).2)) ∧
    (s.vecAt c.val 0x47 = some u → answers (.vFsigm c) s fun t => vecDone s t u u.picked fun e => ((written (vecFunc 0x47 (u.a e).1)).1, (u.a e).2)) ∧
    (s.vecAt c.val 0x48 = some u → answers (.vFerf c) s fun t => vecDone s t u u.picked fun e => ((written (vecFunc 0x48 (u.a e).1)).1, (u.a e).2)) ∧
    (s.vecAt c.val 0x49 = some u → answers (.vFsin c) s fun t => vecDone s t u u.picked fun e => ((written (vecFunc 0x49 (u.a e).1)).1, (u.a e).2)) ∧
    (s.vecAt c.val 0x4A = some u → answers (.vFcos c) s fun t => vecDone s t u u.picked fun e => ((written (vecFunc 0x4A (u.a e).1)).1, (u.a e).2)) ∧
    (s.vecAt c.val 0x50 = some u → answers (.vF2i c) s fun t => vecDone s t u u.picked fun e => ((f2i (u.a e).1).1, (u.a e).2)) ∧
    (s.vecAt c.val 0x51 = some u → answers (.vI2f c) s fun t => vecDone s t u u.picked fun e => ((i2f (u.a e).1).1, (u.a e).2))

/-- R377, R380: comparisons write the mask bits their own mask selects below COUNT; MAND and MOR those of all 8,192.
R380, R381: RSUM and RMAX reduce each segment with a pairwise tree into the first elements of vd; SEXP, BCAST and PSWAP take each element from its place.
Completes: `.vFcmplt`, `.vFcmpeq`, `.vFcmpun`, `.vFcmpltk`, `.vMand`, `.vMor`, `.vRsum`, `.vRmax`, `.vSexp`, `.vBcast`, `.vPswap`. -/
def Obligations.VectorMasksAndShapes : Prop :=
  (∀ (s : State) (c : CoreNo) (u : Vop),
     (s.vecAt c.val 0x30 = some u → answers (.vFcmplt c) s fun t => maskDone s t u u.picked fun e =>
       (lessThan (u.a e).1 (u.b e).1, (u.a e).2 || (u.b e).2 || u.maskBad)) ∧
     (s.vecAt c.val 0x31 = some u → answers (.vFcmpeq c) s fun t => maskDone s t u u.picked fun e =>
       (equalTo (u.a e).1 (u.b e).1, (u.a e).2 || (u.b e).2 || u.maskBad)) ∧
     (s.vecAt c.val 0x32 = some u → answers (.vFcmpun c) s fun t => maskDone s t u u.picked fun e =>
       ((decode32 (u.a e).1).isNan || (decode32 (u.b e).1).isNan, (u.a e).2 || (u.b e).2 || u.maskBad)) ∧
     (s.vecAt c.val 0x33 = some u → answers (.vFcmpltk c) s fun t => maskDone s t u u.picked fun e =>
       (lessThan (u.a e).1 u.k, (u.a e).2 || u.maskBad)) ∧
     (∀ (es : List Nat) (p q : Nat → Bool × Bool) (bad : Bool), es = (List.range 8192).filter u.sel → p = u.run.vec.maskElem (vVa u.w % 8) →
       q = u.run.vec.maskElem (vVb u.w % 8) →
       bad = (u.run.vec.maskPoisoned (vMask u.w) 8192 || u.run.vec.maskPoisoned (vVa u.w % 8) 8192 || u.run.vec.maskPoisoned (vVb u.w % 8) 8192) →
       (s.vecAt c.val 0x34 = some u → answers (.vMand c) s fun t => maskDone s t u es fun e =>
         ((p e).1 && (q e).1, bad)) ∧
       (s.vecAt c.val 0x35 = some u → answers (.vMor c) s fun t => maskDone s t u es fun e =>
         ((p e).1 || (q e).1, bad)))) ∧
  (∀ (s : State) (c : CoreNo) (u : Vop),
     (s.vecAt c.val 0x60 = some u → answers (.vRsum c) s fun t => sameMemory s t ∧ ∀ i, i < vCount u.w / 2 ^ bits u.w 0 4 →
       (t.core u.core).tile.vec.elem (vVd u.w) i = ((u.segment fadd (some 0) 0 i).1.1, (u.segment fadd (some 0) 0 i).2.1)) ∧
     (s.vecAt c.val 0x61 = some u → answers (.vRmax c) s fun t => sameMemory s t ∧ ∀ i, i < vCount u.w / 2 ^ bits u.w 0 4 →
       (t.core u.core).tile.vec.elem (vVd u.w) i = ((u.segment (extremum false) none nan32 i).1.1, (u.segment (extremum false) none nan32 i).2.1)) ∧
     (s.vecAt c.val 0x62 = some u → answers (.vSexp c) s fun t => vecDone s t u u.picked fun e => u.a (e / 2 ^ bits u.w 0 4)) ∧
     (s.vecAt c.val 0x63 = some u → answers (.vBcast c) s fun t => vecDone s t u u.picked fun _ => u.a (bits u.w 0 13)) ∧
     (s.vecAt c.val 0x64 = some u → answers (.vPswap c) s fun t => vecDone s t u u.picked fun e => u.a (if e % 2 = 0 then e + 1 else e - 1)))

/-- R382, R383, R391, R398: loads fill the selected elements from scratch and move xX; a store whose words can all be written changes only its own bytes, and one element comes back
as stored; an access beyond the scratch stops the command with 0x020D, and a store that stops midway keeps the flags of what it wrote.
Completes: `.vLd`, `.vLdh`, `.vLdb`, `.vSt`, `.vSth`, `.vSta`. -/
def Obligations.VectorMemory : Prop :=
  ∀ (s : State) (c : CoreNo) (u : Vop) (x : W32), x = tabGet 0 u.run.vec.x (bits u.w 15 4) + BitVec.ofInt 32 (64 * signed 15 (bits u.w 0 15)) →
    (∀ (bs : List TByte) (n : Nat) (g : Nat → Elem) (errs : EccReads), u.x + n ≤ scratchLimit →
      (s.scratchErrs u.slot u.core errs).sread u.slot u.core u.x n = .ok bs →
      ((n = 4 * vCount u.w ∧ s.vecAt c.val 0x10 = some u ∧ g = fun e => (elems32 bs).getD e (0, false)) →
        answers (.vLd c errs) s fun t => sameMemory s t ∧ tabGet 0 (t.core u.core).tile.vec.x (bits u.w 15 4) = x ∧
          ∀ e ∈ u.picked, (t.core u.core).tile.vec.elem (vVd u.w) e = ((g e).1, (g e).2 || u.maskBad)) ∧
      ((n = 2 * vCount u.w ∧ s.vecAt c.val 0x11 = some u ∧ g = fun e => (widenBf16 ((elems16 bs).getD e (0, false)).1, ((elems16 bs).getD e (0, false)).2)) →
        answers (.vLdh c errs) s fun t => sameMemory s t ∧ tabGet 0 (t.core u.core).tile.vec.x (bits u.w 15 4) = x ∧
          ∀ e ∈ u.picked, (t.core u.core).tile.vec.elem (vVd u.w) e = ((g e).1, (g e).2 || u.maskBad)) ∧
      ((n = 4 ∧ s.vecAt c.val 0x12 = some u ∧ g = fun _ => (elems32 bs).getD 0 (0, false)) →
        answers (.vLdb c errs) s fun t => sameMemory s t ∧ tabGet 0 (t.core u.core).tile.vec.x (bits u.w 15 4) = x ∧
          ∀ e ∈ u.picked, (t.core u.core).tile.vec.elem (vVd u.w) e = ((g e).1, (g e).2 || u.maskBad))) ∧
    (∀ (size : Nat) (g : Nat → List TByte) (fx : Nat → Flags) (row : Instr) (errs : EccReads) (s1 : State) (r : Option (Nat × Stop)),
      ((size = 4 ∧ s.vecAt c.val 0x13 = some u ∧ row = .vSt ⟨c, errs⟩ ∧ (g = fun e => (u.a e).bytes) ∧ fx = fun e => flWritten (u.a e).1) ∨
        (size = 2 ∧ s.vecAt c.val 0x14 = some u ∧ row = .vSth ⟨c, errs⟩ ∧ (g = fun e => bytes16 ((narrowBf16 (u.a e).1).1, (u.a e).2)) ∧
          fx = fun e => (narrowBf16 (u.a e).1).2)) →
      u.x + size * vCount u.w ≤ scratchLimit →
      (s.scratchErrs u.slot u.core errs).vecStores u (storePieces size
        (if u.x % size = 0 then pieces 4 u.x (size * vCount u.w) else (List.range (vCount u.w)).map fun i => (u.x + size * i, size))
        ((List.range (vCount u.w)).map fun e => if u.sel e then some ((g e).map fun b => (b.1, b.2 || u.maskBad)) else none)) = (s1, r) →
      (∀ x st d, r = some (x, st, d) → answers row s fun t => endedAs t u.id st d ∧ t.scratch = s1.scratch ∧ t.hbm = s.hbm ∧ t.cxl = s.cxl ∧
        (t.core u.core).tile.flags = (s.core u.core).tile.flags ||| (u.storeFlags fx fun i => decide (u.x + size * i < x)).1) ∧
      (r = none → answers row s fun t => t.scratch = s1.scratch ∧ tabGet 0 (t.core u.core).tile.vec.x (bits u.w 15 4) = x ∧ t.hbm = s.hbm ∧ t.cxl = s.cxl ∧
        (∀ a, (∀ y, u.x ≤ y → y < u.x + size * vCount u.w → a ≠ scratchKey u.core (scratchLoc y).1 (scratchLoc y).2) →
          memByte t.scratch a = memByte s.scratch a) ∧
        (vCount u.w = 1 → u.sel 0 = true → u.x % size = 0 →
          memRead t.scratch (scratchKey u.core (scratchLoc u.x).1 (scratchLoc u.x).2) size = (g 0).map (·.1)))) ∧
    (∀ (o : AccOut) (m : AccMode) (errs : EccReads), u.x + 4 * vCount u.w ≤ scratchLimit →
      m = { sr := u.run.sr && decide (u.run.beSrAfter < u.run.accIndex), seed := u.run.srStep, index := u.run.accIndex } →
      o = ({ st := s.scratchErrs u.slot u.core errs, draws := u.run.accDraws } : AccOut).run u.slot u.core u.run.foot m (elemPieces u.x (vCount u.w))
        ((List.range (vCount u.w)).map fun e => if u.sel e then some ((u.a e).1, (u.a e).2 || u.maskBad) else none) →
      o.stop = none → s.vecAt c.val 0x15 = some u → answers (.vSta ⟨c, errs⟩) s fun t => t.scratch = o.st.scratch ∧
        tabGet 0 (t.core u.core).tile.vec.x (bits u.w 15 4) = x ∧ (t.core u.core).tile.accDraws = o.draws) ∧
    (scratchLimit < u.x + 4 * vCount u.w →
      ∀ (e : EccReads) (row : Instr), (s.vecAt c.val 0x10 = some u ∧ row = .vLd c e ∨ s.vecAt c.val 0x13 = some u ∧ row = .vSt ⟨c, e⟩ ∨
        s.vecAt c.val 0x15 = some u ∧ row = .vSta ⟨c, e⟩) → answers row s fun t => endedAs t u.id 0x020D u.rangeDetail ∧ sameMemory s t ∧
          (t.core u.core).tile = (s.core u.core).tile ∧ t.entry 0x7020 (u.core + 1) = s.entry 0x7020 (u.core + 1) + 1)

/-- R384 to R386: LOOP, MOVK, XSET and XADD; END stops the program and discards what is left in the tile queue.
R366 to R370, R386: TQR takes whole words from the tile queue, some of them with a stored bit changed, each element poisoned where its word's parity fails; TQWAIT goes on once enough packets stand there
and otherwise waits; TQDROP discards to the end of the packet; an empty closed queue stops the program.
Completes: `.vLoop`, `.vMovk`, `.vXset`, `.vXadd`, `.vEnd`, `.vTqr`, `.vTqwait`, `.vTqdrop`. -/
def Obligations.VectorSequence : Prop :=
  (∀ (s : State) (c : CoreNo) (u : Vop),
     (s.vecAt c.val 0x01 = some u → answers (.vLoop c) s fun t => sameMemory s t ∧ t.cmds = s.cmds ∧
       (bits u.w 16 16 = 0 → (t.core u.core).tile.vec = u.run.vec.advance (bits u.w 8 8 + 1)) ∧
       (bits u.w 16 16 ≠ 0 → (t.core u.core).tile.vec = { u.run.vec with
         pc := u.run.vec.pc + 1, loops := (u.run.vec.pc + 1, u.run.vec.pc + 1 + bits u.w 8 8, bits u.w 16 16) :: u.run.vec.loops })) ∧
     (s.vecAt c.val 0x02 = some u → answers (.vMovk c) s fun t => sameMemory s t ∧ t.cmds = s.cmds ∧
       (t.core u.core).tile.vec = { u.run.vec with k := tabSet 0 u.run.vec.k (vVd u.w) (BitVec.ofNat 32 (vImm u.w)) }.advance 1) ∧
     (s.vecAt c.val 0x03 = some u → answers (.vXset c) s fun t => sameMemory s t ∧ t.cmds = s.cmds ∧
       tabGet 0 (t.core u.core).tile.vec.x (vVd u.w) = BitVec.ofNat 32 (bits u.w 0 27) ∧ (t.core u.core).tile.vec.v = u.run.vec.v ∧
       ∀ k, k ≠ vVd u.w → tabGet 0 (t.core u.core).tile.vec.x k = tabGet 0 u.run.vec.x k) ∧
     (s.vecAt c.val 0x04 = some u → answers (.vXadd c) s fun t => sameMemory s t ∧ t.cmds = s.cmds ∧
       tabGet 0 (t.core u.core).tile.vec.x (vVd u.w) = tabGet 0 u.run.vec.x (vVd u.w) + BitVec.ofNat 32 (vImm u.w) ∧ (t.core u.core).tile.vec.v = u.run.vec.v ∧
       ∀ k, k ≠ vVd u.w → tabGet 0 (t.core u.core).tile.vec.x k = tabGet 0 u.run.vec.x k) ∧
     (s.vecAt c.val 0x00 = some u → answers (.vEnd c) s fun t => sameMemory s t ∧ (t.core u.core).tile.vec.active = false ∧ (t.core u.core).tile.queue = [])) ∧
  (∀ (s : State) (c : CoreNo) (u : Vop) (k : Nat) (flips : List (Fin 512)) (es : List Elem), k = ceilDiv (vCount u.w) 16 →
     es = ((u.run.queue.take k).zipIdx.map fun e => (e.1.flipped (flips.any fun i => i.val == e.2)).taken).flatMap QWord.elems →
     (s.vecAt c.val 0x18 = some u → k ≤ u.run.queue.length → answers (.vTqr ⟨c, flips⟩) s fun t => sameMemory s t ∧ ∀ e ∈ u.picked,
       (t.core u.core).tile.vec.elem (vVd u.w) e = ((es.getD e (0, false)).1, (es.getD e (0, false)).2 || u.maskBad)) ∧
     (s.vecAt c.val 0x18 = some u → u.run.queue.length < k → u.run.closed = false → answers (.vTqr ⟨c, flips⟩) s fun t => t = s) ∧
     (s.vecAt c.val 0x18 = some u → u.run.queue.length < k → u.run.closed = true → answers (.vTqr ⟨c, flips⟩) s fun t =>
       (t.core u.core).tile.vec.active = false ∧ sameMemory s t) ∧
     (s.vecAt c.val 0x19 = some u → bits u.w 0 11 ≤ u.run.packets → answers (.vTqwait c) s fun t =>
       (t.core u.core).tile.vec = u.run.vec.advance 1 ∧ (t.core u.core).tile.queue = u.run.queue ∧ sameMemory s t ∧ t.cmds = s.cmds) ∧
     (s.vecAt c.val 0x19 = some u → u.run.packets < bits u.w 0 11 → u.run.closed = false → answers (.vTqwait c) s fun t => t = s) ∧
     (s.vecAt c.val 0x19 = some u → u.run.packets < bits u.w 0 11 → u.run.closed = true → u.run.queue = [] → answers (.vTqwait c) s fun t =>
       (t.core u.core).tile.vec.active = false ∧ sameMemory s t) ∧
     (∀ l, s.vecAt c.val 0x1A = some u → u.run.queue = l → (∀ w ∈ l, w.endMark = false) → u.run.closed = true → answers (.vTqdrop c) s fun t =>
       (t.core u.core).tile.vec = u.run.vec.advance 1 ∧ (t.core u.core).tile.drops ≤ u.run.drops ∧ sameMemory s t ∧ t.cmds = s.cmds) ∧
     (∀ l, s.vecAt c.val 0x1A = some u → u.run.queue = l → (∀ w ∈ l, w.endMark = false) → u.run.closed = false → answers (.vTqdrop c) s fun t =>
       (t.core u.core).tile.vec = u.run.vec.advance 1 ∧ (t.core u.core).tile.drops ≤ u.run.drops + 1 ∧ sameMemory s t ∧ t.cmds = s.cmds ∧
         t.entry 0x7024 (u.core + 1) ≥ s.entry 0x7024 (u.core + 1) + l.length) ∧
     (∀ l w m, s.vecAt c.val 0x1A = some u → u.run.queue = l ++ w :: m → (∀ x ∈ l, x.endMark = false) → w.endMark = true → (u.run.closed = true) →
       answers (.vTqdrop c) s fun t => (t.core u.core).tile.vec = u.run.vec.advance 1 ∧ sameMemory s t ∧ t.cmds = s.cmds ∧
         t.entry 0x7024 (u.core + 1) ≥ s.entry 0x7024 (u.core + 1) + l.length + 1))

/-! ## Ethernet ports and Silk flows -/

/-- R427, R428, R430, R446, R460, R461: a port whose link goes down counts the FEC codewords of its link, pauses its OPEN and SILENT flows and drops what its buffer holds; a link that comes up reopens a paused flow whose
hold has not run out.
R429, R431, R432, R436, R437, R455: the frames a port or a lane answers or obeys, and those it drops and counts.
Completes: `.linkDown`, `.linkUp`, `.arpRequest`, `.neighborSolicitation`, `.echoRequest`, `.nonSilkFrame`, `.pauseFrame`, `.pfcFrame`. -/
def Obligations.EthernetFrames : Prop :=
  (∀ (s : State) (p : EthNo),
     (s.power.state = .running → s.portExists p.val = true → (s.eth p.val).up = true → ∀ a b, answers (.linkDown ⟨p, a, b⟩) s fun t =>
       t.entry 0x6022 (p.val + 1) = s.entry 0x6022 (p.val + 1) + a ∧ t.entry 0x6023 (p.val + 1) = s.entry 0x6023 (p.val + 1) + b ∧
       t.eth p.val = { s.eth p.val with up := false, downSince := s.time, bufUse := [], xoff := [], paused := [] } ∧
       (∀ f, t.flow f = if (s.flow f).port = p.val ∧ ((s.flow f).state = .opened ∨ (s.flow f).state = .silent) then
         { s.flow f with state := .paused, stateSince := s.time } else s.flow f) ∧
       t.entry 0x6021 (p.val + 1) = s.entry 0x6021 (p.val + 1) + 1) ∧
     (s.power.state = .running → 8 ≤ s.boot.stage → s.boot.halt = 0 → s.portExists p.val = true → (s.eth p.val).up = false →
       ((∀ e ∈ s.flows, e.2.port = p.val → e.2.state ≠ .paused) → ∀ kr : Bool, answers (.linkUp ⟨p, kr⟩) s fun t =>
         t.eth p.val = { s.eth p.val with up := true, phy := some (if tabGet 0 s.portPhy p.val = 1 then .c2m else if kr then .kr else .cr) } ∧ t.flows = s.flows) ∧
       (∀ (kr : Bool) (f : Nat) (fl : Flow), s.flows = [(f, fl)] → fl.port = p.val → fl.state = .paused → s.holdOver fl = false →
         answers (.linkUp ⟨p, kr⟩) s fun t => (t.flow f).state = .opened ∧ (t.flow f).lastRx = s.time ∧ (t.eth p.val).up = true))) ∧
  (∀ (s : State) (p : LaneNo) (mine : Bool → Nat → Prop), s.laneUp p = true →
     (mine = fun v6 a => a ≠ 0 ∧ if p.val < 16 then s.portAddr p.val v6 = a else a ∈ s.laneAddrs p.val v6) →
     (∀ a b : W32, (mine false a.toNat → answers (.arpRequest p a b) s fun t => t = { s with out := s.out ++ [Out.arpReply p.val b] }) ∧
       (¬ mine false a.toNat → answers (.arpRequest p a b) s fun t => t = s.count 0x6030 9 1)) ∧
     (∀ a b : BitVec 128, (mine true a.toNat → answers (.neighborSolicitation p a b) s fun t => t = { s with out := s.out ++ [Out.ndReply p.val b] }) ∧
       (¬ mine true a.toNat → answers (.neighborSolicitation p a b) s fun t => t = s.count 0x6030 9 1)) ∧
     (∀ (v6 : Bool) (a : BitVec 128) (l : List Byte) (n : Nat), n = ((s.eth p.val).echoTimes.filter fun x => decide (s.time < x + 1000000)).length →
       (mine v6 a.toNat → p.val < 16 → n < 100 → answers (.echoRequest p v6 a l) s fun t =>
         t.out = s.out ++ [Out.echoReply p.val v6 l] ∧ (t.eth p.val).echoTimes.length = n + 1 ∧ t.dict = s.dict) ∧
       (mine v6 a.toNat → 16 ≤ p.val → answers (.echoRequest p v6 a l) s fun t => t = { s with out := s.out ++ [Out.echoReply p.val v6 l] }) ∧
       (¬ mine v6 a.toNat ∨ p.val < 16 ∧ 100 ≤ n → answers (.echoRequest p v6 a l) s fun t => t = s.count 0x6030 9 1))) ∧
  (∀ (s : State) (p : EthNo), s.portUp p.val = true →
     (∀ lane : Fin 18, (lane.val < 16 ∧ lane.val * s.portCount / 16 = p.val) ∨ (16 ≤ lane.val ∧ s.slowClock = true) → answers (.nonSilkFrame lane) s fun t => t = s.count 0x6030 9 1) ∧
     answers (.pauseFrame p) s (fun t => t = s.count 0x6030 10 1) ∧
     (∀ (k : Fin 8) (x : Bool), (s.pfcClasses p.val k.val = [] → answers (.pfcFrame p k x) s fun t => t = s.count 0x6030 9 1) ∧
       (s.pfcClasses p.val k.val ≠ [] → answers (.pfcFrame p k x) s fun t => t.out = s.out ∧
         (∀ q ∈ s.pfcClasses p.val k.val, tabGet false (t.eth p.val).paused q = x) ∧
         ∀ q, q ∉ s.pfcClasses p.val k.val → tabGet false (t.eth p.val).paused q = tabGet false (s.eth p.val).paused q)))

/-- R432, R444, R454: a resolved next hop lets an active flow send OPEN; an unresolved one is asked for again after 100 µs, and OPEN is sent again.
R443 to R447, R457: an OPEN or an OPEN_ACK opens an opening flow with the peer's credit; DEPART fails a flow; CLOSE ends a closing flow and fails an open or a paused one. A packet
of a flow whose remote address is one of the module's own ports goes to the port's loopback and not to the wire (R454). No
exchange or molt is under way here: what a lost flow does to one is a statement of its own.
Completes: `.nextHopResolved`, `.nextHopRetry`, `.openResend`, `.openPkt`, `.openAck`, `.depart`, `.closePkt`. -/
def Obligations.SilkOpening : Prop :=
  (∀ (s : State) (f : FlowNo) (fl : Flow), fl = s.flow f.val → s.portUp fl.port = true →
     (fl.state ≠ .closed → fl.resolved = false →
       ∀ mac, (fl.state ≠ .opening ∨ fl.passive = true → answers (.nextHopResolved ⟨f, mac⟩) s fun t =>
         t.flow f.val = { fl with resolved := true, hop := mac } ∧ t.out = s.out) ∧
       (fl.state = .opening → fl.passive = false → answers (.nextHopResolved ⟨f, mac⟩) s fun t => (t.flow f.val).resolved = true ∧
         (t.flow f.val).hop = mac ∧ (t.flow f.val).state = .opening ∧
         sends (s.setFlow f.val { fl with resolved := true, hop := mac }) t f.val { fl.header 0 with ty := 4, vote := fl.credit } [])) ∧
     (fl.state = .opening → fl.resolved = false → fl.lastOpen + 100 ≤ s.time → answers (.nextHopRetry f) s fun t =>
       t.flow f.val = { fl with lastOpen := s.time } ∧ t.out = s.out ++ [Out.arpAsk fl.port (s.nextHop fl)]) ∧
     (fl.state = .opening → fl.passive = false → fl.resolved = true → fl.lastOpen + 100 ≤ s.time → answers (.openResend f) s fun t =>
       (t.flow f.val).lastOpen = s.time ∧ (t.flow f.val).state = .opening ∧
         sends s t f.val { fl.header 0 with ty := 4, vote := fl.credit } [])) ∧
  (∀ (s : State) (k : SilkPkt) (h : Silk) (fl : Flow), h = silkOf k.hdr → fl = s.flow h.flow → s.canHear k = true → s.isSilk k = true → silkPktOk k = true →
     s.dropCause k = none → s.colls = [] → s.molts = [] →
     (fl.state = .opening → s.portUp k.port.val = true →
       (h.ty = 4 → answers (.openPkt k) s fun t => (t.flow h.flow).state = .opened ∧ (t.flow h.flow).peerCredit = h.vote ∧
         ∃ x : Silk, x.ty = 5 ∧ sends s t h.flow x []) ∧
       (h.ty = 5 → answers (.openAck k) s fun t => (t.flow h.flow).state = .opened ∧ (t.flow h.flow).peerCredit = h.vote ∧ t.out = s.out ∧ t.loopback = s.loopback)) ∧
     (h.ty = 3 → answers (.depart k) s fun t => (t.flow h.flow).state = .failed ∧ t.entry 0x6031 7 = s.entry 0x6031 7 + 1) ∧
     (h.ty = 6 → (fl.state = .closing → answers (.closePkt k) s fun t => t.flow h.flow = { holder := fl.holder }) ∧
       (fl.state = .opened ∨ fl.state = .paused → answers (.closePkt k) s fun t => (t.flow h.flow).state = .failed)))

/-- R441, R448, R449, R455: a DATA packet that passes every check is held by its sequence number, its payload in its ring slot, and one in order is acknowledged;
a packet whose header is bad, or that fails a later check, is dropped and counted under the first check it fails, and one that is not Silk at the port's address as other
traffic (R432).
R439, R445, R450, R456: an ACK or a KEEPALIVE that passes every check takes every packet it acknowledges off an open flow and its credit if that is newer;
a closing flow with nothing left unacknowledged sends CLOSE, and is CLOSED once that is acknowledged.
Completes: `.data`, `.ack`, `.keepalive`. -/
def Obligations.SilkPackets : Prop :=
  (∀ (s : State) (k : SilkPkt) (h : Silk) (fl : Flow), h = silkOf k.hdr → fl = s.flow h.flow → s.portUp k.port.val = true →
     (s.isSilk k = false → answers (.data k) s fun t => t = s.count 0x6030 9 1) ∧
     (s.isSilk k = true → silkPktOk k = true → h.ty = 0 → s.dropCause k = none → answers (.data k) s fun t =>
       (tabGet none (t.flow h.flow).rxHave h.psn).isSome = true ∧ (t.flow h.flow).txOut = fl.txOut ∧
       (∀ i, fl.holder = some i → t.hbm = (((s.heard h.flow).bufferTake k.port.val fl.prio k.payload.length).vwrite none i
         (fl.rxRing + (h.psn % fl.rxSlots) * psizeBytes fl.psize) k.payload (bitAt h.flags 2)).1.hbm) ∧
       (fl.rxHave = [] → h.psn = psnNext fl.rxAck → (t.flow h.flow).rxAck = h.psn)) ∧
     (s.isSilk k = true → silkPktOk k = false → answers (.data k) s fun t => t = s.count 0x6030 1 1) ∧
     (∀ n, s.isSilk k = true → silkPktOk k = true → h.ty = 0 → s.dropCause k = some n → answers (.data k) s fun t =>
       t.entry 0x6030 n = s.entry 0x6030 n + 1 ∧ (t.flow h.flow).rxHave = fl.rxHave ∧ sameMemory s t)) ∧
  (∀ (s : State) (k : SilkPkt) (h : Silk) (fl : Flow), h = silkOf k.hdr → fl = s.flow h.flow → s.portUp k.port.val = true → s.isSilk k = true → silkPktOk k = true →
     s.dropCause k = none →
     (fl.state = .opened → (h.ty = 1 → answers (.ack k) s fun t => (∀ x ∈ (t.flow h.flow).txOut, psnAfter x.psn h.ackPsn = true) ∧
         (t.flow h.flow).state = .opened ∧ (t.flow h.flow).peerCredit = (if psnAfter h.vote fl.peerCredit then h.vote else fl.peerCredit)) ∧
       (h.ty = 2 → answers (.keepalive k) s fun t => (∀ x ∈ (t.flow h.flow).txOut, psnAfter x.psn h.ackPsn = true) ∧
         (t.flow h.flow).state = .opened ∧ (t.flow h.flow).lastRx = s.time)) ∧
     (fl.state = .closing → h.ty = 1 → (∀ x ∈ fl.txOut, psnAfter x.psn h.ackPsn = false) →
       (fl.closePsn = none → answers (.ack k) s fun t => (t.flow h.flow).state = .closing ∧ (t.flow h.flow).closePsn = some fl.txNext) ∧
       (fl.closePsn ≠ none → answers (.ack k) s fun t => t.flow h.flow = { holder := fl.holder })))

/-- R246, R450, R453, R454: a port's next packet goes out with the next sequence number, is kept until acknowledged, and leaves every other flow as it was; a packet that is to be sent
again goes in its flow's turn of the spare class, and is counted.
R446, R449, R450, R452, R456: what each timer of a flow does when its time has come.
Completes: `.dataSend`, `.keepaliveTimer`, `.ackDelay`, `.ccRound`, `.rtoExpiry`, `.peerTimeout`, `.flowHoldExpiry`. -/
def Obligations.SilkTimers : Prop :=
  (∀ (s : State) (p : EthNo) (floor : Bool) (i f : Nat) (x : TxPkt) (l : List TxPkt), s.portUp p.val = true → s.pickSend p.val floor = some (i, f) →
     (floor = false → s.pickSend p.val true = none ∧ s.couldResend p.val i f = false) → (s.flow f).txQueue = x :: l → x.close = false → answers (.dataSend p) s fun t =>
       (t.flow f).txQueue = l ∧ (t.flow f).txNext = psnNext (s.flow f).txNext ∧
       (t.flow f).txOut = (s.flow f).txOut ++ [{ x with psn := (s.flow f).txNext, sentAt := s.time }] ∧
       (∃ h bs, sends s t f h bs ∧ h.ty = 0) ∧ ∀ g, g ≠ f → t.flow g = s.flow g) ∧
  (∀ (s : State) (p : EthNo) (i f : Nat) (k : TxPkt), s.portUp p.val = true → s.pickSend p.val true = none → s.pickSend p.val false = some (i, f) →
     s.couldResend p.val i f = true → (s.flow f).duePkt = some k → (s.flow f).txOut.find? (fun d => d.psn == k.psn) = some k → k.close = false → answers (.dataSend p) s fun t =>
       (t.flow f).txQueue = (s.flow f).txQueue ∧ t.entry 0x6031 1 = s.entry 0x6031 1 + 1 ∧ (∃ h bs, sends s t f h bs ∧ h.ty = 0) ∧
       (t.flow f).txOut = (s.flow f).txOut.map (fun d => if d.psn == k.psn then { d with retransmitted := true, fastAt := some s.time, due := false } else d)) ∧
  (∀ (s : State) (f : FlowNo) (fl : Flow), fl = s.flow f.val →
     (s.portUp fl.port = true →
       (fl.state = .opened ∨ fl.state = .silent → fl.lastTx + s.entry 0x6010 2 ≤ s.time → answers (.keepaliveTimer f) s fun t =>
         (t.flow f.val).lastTx = s.time ∧ (t.flow f.val).state = fl.state ∧ ∃ h, sends s t f.val h [] ∧ h.ty = 2) ∧
       (fl.state ≠ .closed → fl.state ≠ .failed → 0 < fl.sinceAck → fl.firstUnacked + s.entry 0x6010 10 ≤ s.time → answers (.ackDelay f) s fun t =>
         (t.flow f.val).sinceAck = 0 ∧ (t.flow f.val).creditSent = fl.credit ∧ ∃ h, sends s t f.val h [] ∧ h.ty = 1) ∧
       (fl.state = .opened → fl.roundStart + fl.srtt8 / 8 ≤ s.time → answers (.ccRound f) s fun t =>
         t.flow f.val = fl.round (s.entry 0x6010 11) s.time ∧ t = { s with flows := t.flows }) ∧
       (fl.state = .opened → fl.oldest.isSome = true → fl.rtoFrom + fl.rto ≤ s.time → fl.retries + 1 < s.entry 0x6010 7 → (∀ i, fl.holder = some i → i < 16) →
         answers (.rtoExpiry f) s fun t =>
         (t.flow f.val).window = 1 ∧ (t.flow f.val).retries = fl.retries + 1 ∧ (t.flow f.val).state = .opened ∧
         (t.flow f.val).rto = max (s.entry 0x6010 5) (min (s.entry 0x6010 6) (2 * fl.rto)) ∧ t.entry 0x6031 2 = s.entry 0x6031 2 + 1) ∧
       (fl.state = .opened → fl.oldest.isSome = true → fl.rtoFrom + fl.rto ≤ s.time → s.entry 0x6010 7 ≤ fl.retries + 1 → s.colls = [] → s.molts = [] →
         answers (.rtoExpiry f) s fun t => (t.flow f.val).state = .failed)) ∧
     (s.nicLive = true → s.colls = [] → s.molts = [] →
       (fl.state = .opened → fl.lastRx + s.entry 0x6010 3 ≤ s.time → answers (.peerTimeout f) s fun t =>
         t.flow f.val = { fl with state := .silent, stateSince := s.time }) ∧
       (fl.state = .paused ∨ fl.state = .silent → fl.stateSince + 1000 * s.entry 0x6010 4 ≤ s.time → answers (.flowHoldExpiry f) s fun t =>
         (t.flow f.val).state = .failed)))

/-- R442 to R445: FLOW_OPEN puts every flow of a good list in OPENING, with its slot as holder, and ends a bad one with FLOW_INVALID; FLOW_CLOSE closes failed flows at once
and puts the rest in CLOSING; each gives up its flows when its time has come.
Completes: `.flowOpen`, `.flowClose`, `.flowOpenTimeout`, `.flowCloseDeadline`. -/
def Obligations.FlowsOpenAndClose : Prop :=
  ∀ (s : State) (id : Nat) (c : Cmd), s.nicLive = true → clean c →
    (∀ (s1 : State) (n : Nat) (bs : List Byte) (d : Cmd), ready s id 0x40 c → n = flowCount c.record → 0 < n → n ≤ 4096 →
      (s.beginCmd c).descRead id c.slot c.payload (64 * n) = (s1, some bs) → s1.cmd id = some d → d.phase = .running →
      (s1.flowListBad c.slot ((List.range n).map fun i => (bs.drop (64 * i)).take 64) 0 [] = none → answers (.flowOpen id) s fun t => running t id ∧
        ∀ i, i < n → (t.flow (field ((bs.drop (64 * i)).take 64) 0 2)).state = .opening ∧ (t.flow (field ((bs.drop (64 * i)).take 64) 0 2)).holder = some c.slot) ∧
      (∀ e, s1.flowListBad c.slot ((List.range n).map fun i => (bs.drop (64 * i)).take 64) 0 [] = some e →
        answers (.flowOpen id) s fun t => endedAs t id 0x0407 e ∧ t.flows = s1.flows)) ∧
    (∀ (s1 : State) (n : Nat) (bs : List Byte), ready s id 0x41 c → n = flowCount c.record → 0 < n → n ≤ 4096 →
      (s.beginCmd c).descRead id c.slot c.payload (2 * n) = (s1, some bs) → (∀ i, i < n → s1.closeBad c.slot (field bs (2 * i) 2) = false) →
      answers (.flowClose id) s fun t => ∀ i, i < n → ((s1.flow (field bs (2 * i) 2)).state = .failed → (t.flow (field bs (2 * i) 2)).state = .closed) ∧
        ((s1.flow (field bs (2 * i) 2)).state ≠ .failed → (t.flow (field bs (2 * i) 2)).state = .closing)) ∧
    (s.runningOp id 0x40 = some c → s.nearEnd c = true → answers (.flowOpenTimeout id) s fun t => (∃ d, endedAs t id 0x0405 d) ∧
      ∀ f ∈ s.flowsOf id, t.flow f = { holder := (s.flow f).holder }) ∧
    (s.runningOp id 0x41 = some c → s.nearEnd c = true → answers (.flowCloseDeadline id) s fun t =>
      endedAs t id 0 ((s.flowsOf id).filter fun f => (s.flow f).txOut.any fun k => !k.close).length ∧
      ∀ f ∈ s.flowsOf id, t.flow f = { holder := (s.flow f).holder })

/-! ## Collectives, votes and updates -/

/-- R462 to R466, R472 to R474, R482 to R486: a COLLECTIVE whose descriptor, members and ranges pass takes a running place with the chunks its algorithm plans; a bad descriptor ends
it with 0x0408; CHUNK_SERVE puts a chunk of memory into its flow as one packet of the next CSEQ, frees the ring slots of a chunk it takes, and fails the exchange as R486 says; past its wait
limit an exchange whose chunks or credit have not all come fails with 0x040A.
Completes: `.collective`, `.chunkServe`, `.collTimeout`. -/
def Obligations.Collectives : Prop :=
  ∀ (s : State) (id : Nat) (c : Cmd), s.cmd id = some c →
    (s.nicLive = true → ready s id 0x50 c → s.placeFor c = true → c.payload % 64 ≠ 0 → answers (.collective id) s fun t => endedAs t id 0x0408 0) ∧
    (∀ (s0 s1 : State) (bs : List Byte), s.nicLive = true → ready s id 0x50 c → s.placeFor c = true → c.payload % 64 = 0 →
      (s.beginCmd c).descRead id c.slot c.payload 128 = (s0, some bs) → s1 = s0.aimAlias id c.slot (collOf bs).dst → running s1 id →
      (∀ o, collBad bs = some o → answers (.collective id) s fun t => endedAs t id 0x0408 o) ∧
      (collBad bs = none → 1 < (collOf bs).n → recExternal c.record = [] → answers (.collective id) s fun t => endedAs t id 0x0408 0x80) ∧
      (∀ (s2 s3 : State) (tbl cs : List Byte), collBad bs = none → (1 < (collOf bs).n → recExternal c.record ≠ []) →
        s1.descRead id c.slot (field bs 0x28 8) (8 * (collOf bs).n) = (s2, some tbl) → s2.collFault c bs tbl = none →
        (if (collOf bs).op = 3 then s2.descRead id c.slot (field bs 0x48 8) (4 * (collOf bs).n) else (s2, some [])) = (s3, some cs) → running s3 id →
        answers (.collective id) s fun t => (∃ d, t.cmd id = some d ∧ d.place = true ∧ d.phase = .running) ∧
          ∃ x : Coll, t.colls = s3.colls ++ [x] ∧ x.cmd = id ∧ x.kind = .collective ∧ x.n = (collOf bs).n ∧ x.self = (collOf bs).self ∧
            x.chunk = field bs 0x0C 1 * x.pkt ∧ x.members = membersOf tbl x.n ∧ x.waitUntil = s2.waitEnd c (field bs 0x44 4) ∧
            x.acts = x.plan (field bs 1 1) (countsOf cs x.n))) ∧
    (∀ x : Coll, s.coll id = some x → s.nicLive = true → s.firstInOrder c = true → s.engineWaits c.slot = false → c.phase = .running → x.slot < 16 →
      (∀ f n st d r : Nat, s.work x = some (.failed f n st d r) → x.kind = .collective → answers (.chunkServe id) s fun t => endedAs t id st d ∧ t.coll id = none ∧
        t.entry 0x7044 (x.slot + 1) = s.entry 0x7044 (x.slot + 1) + 1) ∧
      (∀ (a : Act) (bs : List TByte) (f : Nat), s.work x = some (.act a) → a.kind = .move → a.head = [] → f = (x.member a.peer).flow →
        s.rawTagged x.slot (lineSpans a.va a.n) [] = .ok bs → bs.length ≤ s.pktTo x a.peer →
        answers (.chunkServe id) s fun t => (t.flow f).txQueue = (s.flow f).txQueue ++
          [{ chunk := chunkField x.tag (tabGet 0 x.txSeq f), step := x.step, last := true, poison := bs.any (·.2), cmd := x.cmd
             vote := voteField (if x.kind = .collective ∧ x.op = 2 then x.n else 1) (anyNonfinite a.fmt (bs.map (·.1)) || x.folded a) false false
             counted := x.tallied, source := some (a.va, bs.length)
             payload := padTo (psizeBytes (s.flow f).psize) (bs.map (·.1)) }]) ∧
      (∀ (f : Nat) (a : Act) (l : List (Nat × RxPkt)), s.work x = some (.take f a l) → (∀ e ∈ l, (s.ringRead f e.1 e.2).isSome = true) →
        answers (.chunkServe id) s fun t => (t.flow f).rxFree = l.foldl (fun p _ => psnNext p) (s.flow f).rxFree)) ∧
    (∀ x : Coll, s.coll id = some x → x.slot < 16 → c.peer = true → s.quiet x = false → x.waitUntil ≤ s.time → c.phase = .running → (x.kind = .collective ∨ x.kind = .stepVote) →
      answers (.collTimeout id) s fun t => endedAs t id 0x040A 0 ∧ t.coll id = none ∧ t.entry 0x7044 (x.slot + 1) = s.entry 0x7044 (x.slot + 1) + 1 ∧
        (x.kind = .stepVote → (t.part x.slot).stepState = .inDoubt)) ∧
    (s.coll id = none → s.wantsPlace c = true → c.phase = .waiting → c.deadline = none → s.limitOf c ≤ s.time →
      answers (.collTimeout id) s fun t => endedAs t id 0x040A 0 ∧ t.colls = s.colls ∧ sameMemory s t ∧
        (c.slot < 16 → t.entry 0x7044 (c.slot + 1) = s.entry 0x7044 (c.slot + 1) + 1))

/-- R544 to R548, R553 to R556: a VOTE whose checks pass samples its partition, clears the sampled registers and enters VOTING with its record and the acts of its algorithm; a RESOLVE begins
with what the member has decided; at the result a clean record commits by turning the live side, any other discards with VOTE_NO, and the point is recorded; a RESOLVE decides an undecided
point as the record says, and answers 0x0412 of one decided and 0x0413 of a contradiction.
Completes: `.vote`, `.resolve`, `.voteResult`. -/
def Obligations.Votes : Prop :=
  ∀ (s : State) (id : Nat) (c : Cmd), s.cmd id = some c → s.nicLive = true →
    (∀ (mode : Nat) (s1 s2 : State) (bs tbl : List Byte), ready s id 0x51 c → s.placeFor c = true → s.voteMode c = some mode → field bs 0 1 = mode → c.payload % 64 = 0 →
      (s.beginCmd c).descRead id c.slot c.payload 128 = (s1, some bs) → voteBad bs = none → (1 < field bs 4 4 → recExternal c.record ≠ []) →
      s1.descRead id c.slot (field bs 0x20 8) (8 * field bs 4 4) = (s2, some tbl) → s2.voteFault c.slot bs tbl = none → running s2 id →
      (mode = 0 → answers (.vote id) s fun t => (∃ d, t.cmd id = some d ∧ d.place = true ∧ d.phase = .running) ∧
        (∃ x : Coll, t.colls = s2.colls ++ [x] ∧ x.cmd = id ∧ x.kind = .stepVote ∧ x.record = s2.stepRecord c.slot bs ∧
          x.step = (votePoint bs).1 ∧ x.acts = voteActs (field bs 1 1) (field bs 4 4) (field bs 8 4)) ∧
        (t.part c.slot).stepState = .voting ∧ (t.part c.slot).doubt = some { step := (votePoint bs).1, instar := (votePoint bs).2 } ∧
        (t.part c.slot).collFlags = 0 ∧ (t.part c.slot).updateFault = false ∧ ∀ k ∈ s2.heldCores c.slot, (t.core k).flags = 0) ∧
      (mode = 1 → (s.part c.slot).stepState ≠ .voting → answers (.resolve id) s fun t =>
        (∃ x : Coll, t.colls = s2.colls ++ [x] ∧ x.cmd = id ∧ x.kind = .resolve ∧ x.record = (s2.part c.slot).resolveRecord (votePoint bs) ∧
          x.acts = voteActs (field bs 1 1) (field bs 4 4) (field bs 8 4)) ∧
        (t.part c.slot).stepState = (s2.part c.slot).stepState ∧ (t.part c.slot).lastPoint = (s2.part c.slot).lastPoint)) ∧
    (∀ (mode o : Nat) (s1 : State) (bs : List Byte), ready s id 0x51 c → s.placeFor c = true → s.voteMode c = some mode → mode ≠ 1 →
      c.payload % 64 = 0 → (s.beginCmd c).descRead id c.slot c.payload 128 = (s1, some bs) → voteBad bs = some o → running s1 id →
      answers (.vote id) s fun t => endedAs t id 0x0408 o) ∧
    (ready s id 0x51 c → s.placeFor c = true → s.voteMode c ≠ some 1 → c.payload % 64 ≠ 0 → answers (.vote id) s fun t => endedAs t id 0x0408 0) ∧
    (∀ x : Coll, s.coll id = some x → x.slot < 16 → x.acts = [] → c.phase = .running → noLastCkpt s x.slot →
      (x.kind = .stepVote → answers (.voteResult id) s fun t => endedAs t id (if recordClean x.record then 0 else 0x0404) 0 ∧ t.coll id = none ∧
        (t.part x.slot).stepState = .opened ∧ (t.part x.slot).doubt = none ∧
        (t.part x.slot).lastPoint = some { step := x.step, instar := x.instar, committed := recordClean x.record, molt := false, record := x.record } ∧
        (t.part x.slot).liveSide1 = (if recordClean x.record then !(s.part x.slot).liveSide1 else (s.part x.slot).liveSide1) ∧
        t.entry (if recordClean x.record then 0x7070 else 0x7071) (x.slot + 1) =
          s.entry (if recordClean x.record then 0x7070 else 0x7071) (x.slot + 1) + 1) ∧
      (x.kind = .resolve → resolveConflict x.record = true → answers (.voteResult id) s fun t => endedAs t id 0x0413 0 ∧
        (t.part x.slot).stepState = (s.part x.slot).stepState ∧ t.entry 0x7073 (x.slot + 1) = s.entry 0x7073 (x.slot + 1) + 1) ∧
      (x.kind = .resolve → resolveConflict x.record = false → (s.part x.slot).decided (x.step, x.instar) = true →
        answers (.voteResult id) s fun t => endedAs t id 0x0412 (if (s.part x.slot).lastPoint.any (·.committed) then 1 else 2) ∧
          (t.part x.slot).lastPoint = (s.part x.slot).lastPoint) ∧
      (∀ commit : Bool, x.kind = .resolve → resolveConflict x.record = false → (s.part x.slot).decided (x.step, x.instar) = false →
        commit = bitAt (field x.record 4 4) 2 → (commit = true → (s.part x.slot).holdsPoint (x.step, x.instar) = true) →
        bitAt (field x.record 4 4) 5 = false → (∀ q, (s.part x.slot).doubt = some q → q.molt = false) →
        answers (.voteResult id) s fun t => endedAs t id (if commit then 0 else 0x0404) 0 ∧ (t.part x.slot).stepState = .opened ∧
          (t.part x.slot).liveSide1 = (if commit then !(s.part x.slot).liveSide1 else (s.part x.slot).liveSide1)))

/-- R555: what a member contributes to a RESOLVE, field by field, decided and undecided. -/
def Obligations.ResolveRecords : Prop :=
  ∀ (p : Part) (step : W64) (instar : W32) (r : List Byte), r = p.resolveRecord (step, instar) →
    field r 0x10 8 = step.toNat ∧ field r 0x18 8 = (~~~step).toNat ∧ field r 0x20 4 = instar.toNat ∧ field r 0x24 4 = (~~~instar).toNat ∧
    (∀ q : Point, p.lastPoint = some q → q.step = step → q.instar = instar → q.record.length = 64 →
      field r 0 4 = field q.record 0 4 ∧ field r 4 4 = 2 + (if q.committed then 4 else 8) + (if q.molt then 32 else 0) ∧
      field r 8 4 = field q.record 8 4 ∧ r.drop 0x28 = q.record.drop 0x28) ∧
    (p.decided (step, instar) = false →
      field r 0 4 = 3 ∧ field r 8 4 = 0 ∧ r.drop 0x28 = List.replicate 24 0 ∧
      field r 4 4 = 2 + (if p.stepState = .inDoubt ∧ ∃ q, p.doubt = some q ∧ q.step = step ∧ q.instar = instar ∧ q.molt = true then 32 else 0))

/-- R504 to R520: an UPDATE or ROW_MODE whose checks pass treats every element it covers, adds its flags to COLL_FLAGS and its count to the elements updated, and ends OK; one of a frozen group or of no
element ends OK at once; one with FEED waits for its collective and treats a chunk once it is written; a mirror takes a running place with its transfer; STEP_RESYNC writes the STEP of its groups.
Completes: `.update`, `.rowMode`, `.feedChunk`, `.mirrorTx`, `.mirrorRx`, `.stepResync`. -/
def Obligations.Updates : Prop :=
  ∀ (s : State) (id : Nat) (c : Cmd), s.cmd id = some c → s.nicLive = true → s.upd id = none ∨ ¬ ready s id 0x52 c →
    (∀ (rule : Nat) (row : Instr) (s1 s2 s3 : State) (bs : List Byte) (u u1 : Upd) (d : Cmd), ready s id 0x52 c → s.updRule c = some rule → field bs 0 1 = rule →
      (rule = 0 ∧ row = .update id ∨ rule = 1 ∧ row = .rowMode id) → c.payload % 16 = 0 →
      (s.beginCmd c).descRead id c.slot c.payload 80 = (s1, some bs) → updBad bs = none → updWaits bs c.record = true →
      s1.updFault c.slot (updOf bs) = none → s1.updEnter c (updOf bs) = (s2, u) → c.slot < 16 →
      (u.frozen = true ∨ u.count = 0 → s2.cmd id = some d → clean d → d.phase = .running → answers row s fun t => endedAs t id 0 0 ∧ t.hbm = s1.hbm ∧ t.cxl = s1.cxl) ∧
      (u.frozen = false → u.count ≠ 0 → u.feed = true → s2.feedSource u = none → running s2 id → answers row s fun t => t = s2 ∧ t.upds = s1.upds ++ [u] ∧ running t id) ∧
      (u.frozen = false → u.count ≠ 0 → u.feed = false →
        (if rule = 1 then s2.rowRange u [] 0 u.count else s2.updRange u (s2.updCover u) 0 u.count) = (s3, u1, true) →
        s3.cmd id = some d → clean d → d.phase = .running → answers row s fun t =>
          endedAs t id (if u1.firstRange = none then 0 else 0x030A) (u1.firstRange.getD 0) ∧ t.upd id = none ∧
          (t.part c.slot).collFlags = (s3.part c.slot).collFlags ||| u1.flags ∧
          t.entry 0x7050 (c.slot + 1) = s3.entry 0x7050 (c.slot + 1) + u1.elements)) ∧
    (∀ (s1 : State) (bs : List Byte) (o : Nat), ready s id 0x52 c → s.updRule c = some 0 → c.payload % 16 = 0 →
      (s.beginCmd c).descRead id c.slot c.payload 80 = (s1, some bs) → updBad bs = some o → running s1 id →
      answers (.update id) s fun t => endedAs t id 0x040C o) ∧
    (∀ row : Instr, ready s id 0x52 c → c.payload % 16 ≠ 0 → (s.updRule c = some 0 ∧ row = .update id ∨ s.updRule c = some 1 ∧ row = .rowMode id) →
      answers row s fun t => endedAs t id 0x040C 0) ∧
    (∀ (u u1 : Upd) (s1 : State) (d : Cmd) (first n : Nat), s.upd id = some u → s.runningOp id 0x52 = some c → s.engineWaits u.slot = false → u.feed = true → u.fed.isSome = true → 0 < n → first + n ≤ u.count →
      (∀ e ∈ u.done, e.1 + e.2 ≤ first ∨ first + n ≤ e.1) →
      s.fedReady u (u.grad + (if u.gbf16 then 2 else 4) * first) (u.grad + (if u.gbf16 then 2 else 4) * (first + n)) = true →
      s.updRange u (s.updCover u) first n = (s1, u1, true) → s1.cmd id = some d → clean d → d.phase = .running → u1.firstRange = none →
      answers (.feedChunk id first n) s fun t =>
        (u.count ≤ u.treated + n → endedAs t id 0 0 ∧ t.upd id = none) ∧
        (u.treated + n < u.count → t.upd id = some { u1 with done := u1.done ++ [(first, n)] } ∧ t.hbm = s1.hbm ∧ t.cxl = s1.cxl)) ∧
    (∀ (tx : Bool) (row : Instr) (s1 s2 : State) (bs : List Byte) (x : Coll), ready s id 0x52 c → (tx = true ∧ row = .mirrorTx id ∨ tx = false ∧ row = .mirrorRx id) →
      s.updRule c = some (if tx then 2 else 3) → s.placeFor c = true → c.payload % 16 = 0 → (s.beginCmd c).descRead id c.slot c.payload 80 = (s1, some bs) → updBad bs = none →
      updWaits bs c.record = true → s1.mirrorFault c.slot bs = none → s1.mirrorColl c bs tx = (s2, x) → running s2 id →
      answers row s fun t => t.colls = s2.colls ++ [x] ∧ (∃ d, t.cmd id = some d ∧ d.place = true ∧ d.phase = .running) ∧
        x.acts = (if tx then sendActs x.chunk (actKey 2 0 0 0) 1 (field bs 0x28 8) (field bs 0x10 4) 0 (bytesOfNat (field bs 0x10 4) 8)
          else [recvAct (actKey 3 0 0 0) 1 (field bs 0x28 8) (field bs 0x10 4) 0 (bytesOfNat (field bs 0x10 4) 8)])) ∧
    (ready s id 0x53 c → clean c → (s.beginCmd c).resyncBad c.slot c.record = false → answers (.stepResync id) s fun t => endedAs t id 0 0 ∧
      onlyCmds ((s.beginCmd c).resyncGroups c.slot (recField c.record 0x68 2) (recField c.record 0x6A 2) (recField c.record 0x70 8)) t) ∧
    (ready s id 0x53 c → (s.beginCmd c).resyncBad c.slot c.record = true → answers (.stepResync id) s fun t => ∃ d, endedAs t id 0x040C d)

/-! ## Faults, resets and the supervisor -/

/-- R600, R604, R605, R612, R613: a unit without progress for its EYESPOT_TICKS is a hang: it is counted and its domain's reset begins with cause 0x0030; a supervisor memory error
begins the cold reset; the edge of a fenced core frees its remaining slots and answers them with 0x0211.
Completes: `.hangDetected`, `.supervisorMemoryError`, `.fenceDrainExpiry`. -/
def Obligations.Hangs : Prop :=
  ∀ s : State,
    (∀ (d : Fin 21) (unit : W16) (last : Nat), s.resets = [] → s.domainLive d.val = true → (s.domainUnits d.val).contains unit.toNat = true →
      last + s.entry 0x8010 (eyespotSub d.val) ≤ s.time → answers (.hangDetected d unit last) s fun t => resetAsked (hangTarget d.val) 0x30 s t ∧
        (d.val < 20 → t.entry 0x8015 (d.val + 1) = s.entry 0x8015 (d.val + 1) + 1)) ∧
    (s.supRuns = true → s.deviceReset = false → answers .supervisorMemoryError s (coldBegun 0x30 s)) ∧
    (∀ (d : Fin 17) (r : ResetRun), d.val < 16 → s.resets.find? (fun r => r.target == hangTarget d.val) = some r → r.fence = true →
      r.began + s.entry 0x8012 1 ≤ s.time → answers (.fenceDrainExpiry d) s fun t =>
        (t.core d.val).slots = [] ∧ (t.core d.val).lateReplies = (s.core d.val).lateReplies + (s.core d.val).slots.length ∧
        t.entry 0x8014 (d.val + 1) = s.entry 0x8014 (d.val + 1) + (s.core d.val).slots.length ∧
        ∀ q ∈ (s.core d.val).slots, running s q.cmd → endedAs t q.cmd 0x0211 d.val)

/-- R108 to R110, R113, R615: a reset that can end is over; the cold reset's end opens admission at step 10, a warm one's opens it again, a core's end leaves the core unhung, or out of service when
its retirement was asked for, as does the end of a partition's or host port's reset with the cores whose resets it absorbed; one past its bound is taken over by the next wider reset with cause 0x0040.
Completes: `.resetComplete`, `.resetEscalation`. -/
def Obligations.ResetsEnd : Prop :=
  ∀ (s : State) (tg : ResetTarget) (r : ResetRun), s.resets.find? (fun r => r.target == tg) = some r →
    (s.canEnd r = true → (tg = .warm → s.boot.stage = 10) → answers (.resetComplete tg) s fun t =>
      t.resets = s.resets.filter (fun x => x.target != tg) ∧ (tg = .nic → t.nicHung = false) ∧
      (tg = .cold ∨ tg = .warm → t.boot.stage = 10 ∧ t.boot.admitOpen = true) ∧
      (∀ c ∈ r.cores, ((∃ i, tg = .partition i) ∨ ∃ p, tg = .hostPort p) → (t.core c).hung = false) ∧
      (∀ c : CoreNo, tg = .core c → (t.core c.val).hung = false ∧ (r.retire = true → (t.core c.val).retired = 1 ∧ (t.core c.val).holder = none))) ∧
    (s.resets = [r] → tg ≠ .cold → r.hold = false → r.began + resetBound tg < s.time → answers (.resetEscalation tg) s fun t =>
      resetAsked (if tg = .warm then .cold else .warm) 0x40 s t)

/-- R619 to R623, R631, R664: at the end of a health period each source's count loses an eighth and takes what its total rose by, and the score is at most 1,000; a mirror that lags more than
100 µs is rewritten and counted; PERSIST_COMMIT writes every persistent value; the self-test's result is shown.
R66, R75, R76, R105: at the loss of VIN nothing of the module goes on but its flash, its fuses and what is outside it: memory, scratch, commands and queues are empty and the module is unpowered.
Completes: `.healthUpdate`, `.divergenceCheck`, `.persistCommit`, `.selftestDone`, `.vinLost`. -/
def Obligations.SupervisorAndPowerLoss : Prop :=
  (∀ s : State, s.supRuns = true →
     (s.sup.healthFrom + 1000000 * s.entry 0x2040 3 ≤ s.time → answers .healthUpdate s fun t => t.sup.healthFrom = s.time ∧ t.entry 0x2040 1 ≤ 1000 ∧
       ∀ i, 1 ≤ i → i ≤ 12 → t.entry 0x2042 i =
         sat (2 ^ 32 - 1) (s.entry 0x2042 i - s.entry 0x2042 i / 8 + ((s.healthTotal i : Int) - tabGet 0 s.sup.healthPrev i).toNat)) ∧
     (∀ l : Nat × Nat × Nat, s.sup.divergeFrom + s.entry 0x2050 1 ≤ s.time → s.sup.lag = [l] → l.2.2 + 100 < s.time →
       s.entryValue (l.1 / 256) (l.1 % 256) ≠ l.2.1 → l.1 / 256 ≠ 0x2050 → answers .divergenceCheck s fun t => t.sup.lag = [] ∧ t.sup.divergeFrom = s.time ∧
         t.entry 0x2050 2 = s.entry 0x2050 2 + 1 ∧ t.entry 0x2050 3 = l.1) ∧
     answers .persistCommit s (fun t => t.persist = t.dict.filter (fun e => dictPersistent e.1) ∧ t.entry 0x2060 6 = s.entry 0x2060 6 + 1 ∧ t.sup.commitFrom = s.time) ∧
     (∀ d : W32, s.entry 0xA005 1 = 1 →
       answers (.selftestDone true d) s (fun t => t.entry 0xA005 1 = 2) ∧
       answers (.selftestDone false d) s (fun t => t.entry 0xA005 1 = 3 ∧ t.entry 0xA005 2 = d.toNat))) ∧
  (∀ (s : State) (mv : W32), s.power.state ≠ .unpowered → answers (.vinLost mv) s fun t => t.power.state = .unpowered ∧ t.pins.vinMv = mv.toNat ∧
     t.flash = s.flash ∧ t.fuses = s.fuses ∧ t.hostMem = s.hostMem ∧ t.hbm = [] ∧ t.cxl = [] ∧ t.scratch = [] ∧ t.cmds = [] ∧ t.waiting = [] ∧ t.resets = [] ∧
     (mv.toNat ≤ 30000 → t.resetRec = {}) ∧ (30000 < mv.toNat → t.resetRec = s.resetRec))

/-- R627 to R637, R88, R362: a read answers the entry's value; a message that is no packet is counted and not answered; a write of an RW entry in range sets it; CORE_STATE puts both engines
of a core without a holder in OFF; a bad-group bit once set stays set.
Completes: `.pribyRead`, `.pribyWrite`, `.coreState`, `.fieldBadGroups`. -/
def Obligations.PribyEntries : Prop :=
  ∀ (s : State) (r : PribyReq),
    (s.supRuns = true → pribyOk r.bytes = false → answers (.pribyRead r) s fun t => t.entry 0x2060 3 = s.entry 0x2060 3 + 1 ∧ t.out = s.out) ∧
    (∀ (index sub : Nat) (e : Entry), asked s r 1 index sub → index ≠ 0x2060 → sub ≠ 0 → entryAt index sub = some e → (e.access = .ro ∨ e.access = .rw) → e.ty ≠ .str → e.ty ≠ .blob →
      s.unitReset index sub = false → r.bytes.length = 40 → answers (.pribyRead r) s fun t => replied s t r 0 ∧
        ∃ reply, Out.priby r.mctp r.source reply ∈ t.out ∧ reply.drop 40 = bytesOfNat (s.shown index sub) (min 1024 (e.bytes (s.shown index sub)))) ∧
    (∀ (index sub : Nat) (e : Entry), asked s r 2 index sub → index ≠ 0x2060 → index ≠ 0x4011 → index ≠ 0x2032 → sub ≠ 0 → ¬ ((index = 0x6050 ∨ index = 0x6051) ∧ sub = 1) →
      entryAt index sub = some e → e.access = .rw → s.unitReset index sub = false →
      r.bytes.length = 40 + e.bytes (s.shown index sub) → s.rangeOk e sub (asks r) = true → answers (.pribyWrite r true) s fun t =>
        replied s t r 0 ∧ t.entry index sub = asks r) ∧
    (∀ c : CoreNo, asked s r 2 0x4011 (c.val + 1) → s.resets = [] → s.coreUsable c.val = true → (s.core c.val).retiring = false → (s.core c.val).holder = none →
      r.bytes.length = 41 → asks r = 15 → (∀ b, b = matrixBlock c.val ∨ b = vectorBlock c.val → (s.block b).st = .active ∧ s.blockHeld b = false ∧ s.blockBusy b = false) →
      answers (.coreState r) s fun t => replied s t r 0 ∧ (t.block (matrixBlock c.val)).st = .off ∧ (t.block (vectorBlock c.val)).st = .off) ∧
    (∀ (c : CoreNo) (e : Entry), asked s r 2 0x2032 (c.val + 1) → entryAt 0x2032 (c.val + 1) = some e → r.bytes.length = 40 + e.bytes (s.shown 0x2032 (c.val + 1)) →
      (s.rangeOk e (c.val + 1) (asks r) = true → answers (.fieldBadGroups r true) s fun t => replied s t r 0 ∧ t.entry 0x2032 (c.val + 1) = asks r ∧
        s.entry 0x2032 (c.val + 1) &&& t.entry 0x2032 (c.val + 1) = s.entry 0x2032 (c.val + 1)) ∧
      (s.entry 0x2032 (c.val + 1) &&& asks r ≠ s.entry 0x2032 (c.val + 1) → answers (.fieldBadGroups r true) s fun t => replied s t r 6 ∧
        t.entry 0x2032 (c.val + 1) = s.entry 0x2032 (c.val + 1)))

/-- R643 to R646: RESET begins the reset its argument names after its reply; RETIRE_CORE begins that core's reset and holds its reply; RESTORE_DEFAULTS puts each RW persistent entry but the addresses
back; ALERT_CLEAR clears the bits it names; PROTECT_CLEAR lets PROTECT go high unless the die is at 110 °C.
Completes: `.resetCmd`, `.retireCore`, `.restoreDefaults`, `.alertClear`, `.protectClear`. -/
def Obligations.PribyCommands : Prop :=
  ∀ (s : State) (r : PribyReq), s.resets = [] →
    (∀ tg : ResetTarget, asked s r 3 0x9000 1 → s.resetArg (asks r) = (0, tg) → answers (.resetCmd r) s fun t => resetAsked tg 0x20 s t) ∧
    (∀ c : CoreNo, asked s r 3 0x9000 2 → asks r % 16 = c.val → s.sup.retireWait = [] → s.coreUsable c.val = true → answers (.retireCore r) s fun t =>
      resetBegun (.core c) 0x20 s t ∧ (t.core c.val).retiring = true ∧ t.sup.retireWait = [(c.val, r)]) ∧
    (asked s r 3 0x9000 3 → asks r = 0 → answers (.restoreDefaults r) s fun t => replied s t r 0 ∧
      ∀ (index sub : Nat) (e : Entry), sub < 256 → entryAt index sub = some e → e.access = .rw → e.persistent = true → index ≠ 0x2060 →
        ¬ (0x6001 ≤ index ∧ index ≤ 0x6006) → index ≠ 0x6050 → index ≠ 0x6051 → t.entry index sub = e.dflt) ∧
    (asked s r 3 0x8030 3 → answers (.alertClear r) s fun t => replied s t r 0 ∧ t.entry 0x8030 2 = s.entry 0x8030 2 - (s.entry 0x8030 2 &&& asks r)) ∧
    (asked s r 3 0x4001 8 → (110000 ≤ s.entry 0x4001 7 ∧ s.entry 0x4001 7 < 2 ^ 31 → answers (.protectClear r) s fun t => replied s t r 7 ∧ t.pins = s.pins) ∧
      (s.entry 0x4001 7 < 110000 → answers (.protectClear r) s fun t => replied s t r 0 ∧ t.pins = { s.pins with protectLow := false }))

/-- R636: a request that repeats a kept one byte for byte within 1,000,000 device µs is answered with the kept reply and is not run again: it is counted, and nothing else of the machine changes.
Completes: `.pribyRead`, `.coreState`, `.resetCmd`, `.retireCore`, `.fwActivate`. -/
def Obligations.RepeatedRequests : Prop :=
  ∀ (s : State) (r : PribyReq) (k : KeptReply), s.supRuns = true → s.sup.replies = [k] → k.mctp = r.mctp → k.source = r.source → k.request = r.bytes →
    k.tag = field r.bytes 2 2 → s.time ≤ k.time + 1000000 → pribyOk r.bytes = true →
    ∀ row : Instr, (field r.bytes 1 1 = 1 ∧ row = .pribyRead r ∨ field r.bytes 1 1 = 2 ∧ field r.bytes 4 2 = 0x4011 ∧ row = .coreState r ∨
      pribyIs r 3 0x9000 1 = true ∧ row = .resetCmd r ∨ pribyIs r 3 0x9000 2 = true ∧ row = .retireCore r ∨ pribyIs r 3 0xA006 1 = true ∧ row = .fwActivate r) →
      answers row s fun t => t.entry 0x2060 4 = s.entry 0x2060 4 + 1 ∧
        t = { s with dict := t.dict, out := s.out ++ [Out.priby r.mctp r.source k.reply] ++ (if r.mctp then [Out.i3cIbi] else []) } ∧
        ∀ x, x ≠ dk 0x2060 4 → t.dictGet x = s.dictGet x

/-- R610, R618, R658, R660, R662, R665, R666: a dump is cancelled, rests and goes on; a staged package begins its trial of three boots, a trial under a passed self-test is confirmed and blows the anti-rollback
count up to the package's version, a trial is abandoned; staging rests, goes on and is cancelled.
Completes: `.dumpCancel`, `.dumpSuspend`, `.dumpResume`, `.fwActivate`, `.fwConfirm`, `.fwTrialAbandon`, `.stageSuspend`, `.stageResume`,
`.stageCancel`. -/
def Obligations.DumpsAndTrials : Prop :=
  ∀ (s : State) (r : PribyReq),
    (∀ k : Nat, k < 4 →
      (asked s r 3 0x8022 (k + 1) → (s.dump k).state = .held → answers (.dumpCancel r) s fun t => replied s t r 0 ∧ t.dump k = {}) ∧
      (asked s r 3 0x8023 (k + 1) → (s.dump k).state = .exporting → answers (.dumpSuspend r) s fun t => replied s t r 0 ∧ t.dump k = { s.dump k with state := .diapause }) ∧
      (asked s r 3 0x8024 (k + 1) → (s.dump k).state = .diapause → answers (.dumpResume r) s fun t => replied s t r 0 ∧ t.dump k = { s.dump k with state := .exporting }) ∧
      (asked s r 3 0x8022 (k + 1) → (s.dump k).state = .free → answers (.dumpCancel r) s fun t => replied s t r 7 ∧ t.sup.dumps = s.sup.dumps)) ∧
    (asked s r 3 0xA006 1 → s.sup.staging = .staged → s.fuses.rollback ≤ securityVer (s.manifest s.stageSlot) → bitAt (asks r) 0 = false → answers (.fwActivate r) s fun t =>
      replied s t r 0 ∧ t.sup.staging = .free ∧ t.sup.bootCtl.trialSlot = s.stageSlot ∧ t.sup.bootCtl.trialLeft = 3 ∧ t.sup.bootCtl.activeSlot = s.sup.bootCtl.activeSlot) ∧
    (asked s r 3 0xA006 1 → s.sup.staging ≠ .staged → answers (.fwActivate r) s fun t => replied s t r 8 ∧ t.sup.bootCtl = s.sup.bootCtl) ∧
    (asked s r 3 0xA006 2 → s.boot.onTrial = true → s.entry 0xA005 1 = 2 → answers (.fwConfirm r) s fun t => replied s t r 0 ∧ t.boot.onTrial = false ∧
      t.sup.bootCtl.activeSlot = s.boot.fwSlot ∧ t.sup.bootCtl.trialSlot = 0xFF ∧ s.fuses.rollback ≤ t.fuses.rollback ∧
      min 64 (securityVer (t.manifest s.boot.fwSlot)) ≤ t.fuses.rollback) ∧
    (asked s r 3 0xA006 2 → s.boot.onTrial = false → answers (.fwConfirm r) s fun t => replied s t r 7 ∧ t.fuses = s.fuses) ∧
    (asked s r 3 0xA006 3 → s.onTrialNow = true → answers (.fwTrialAbandon r) s fun t => replied s t r 0 ∧ t.boot.onTrial = false ∧ t.sup.bootCtl.trialSlot = 0xFF ∧ t.fuses = s.fuses) ∧
    (asked s r 3 0xA007 3 → s.sup.staging = .receiving → answers (.stageSuspend r) s fun t => replied s t r 0 ∧ t.sup.staging = .diapause) ∧
    (asked s r 3 0xA007 4 → s.sup.staging = .diapause → answers (.stageResume r) s fun t => replied s t r 0 ∧ t.sup.staging = .receiving) ∧
    (asked s r 3 0xA007 5 → s.sup.staging = .staged → answers (.stageCancel r) s fun t => replied s t r 0 ∧ t.sup.staging = .free)

/-- R655 to R662: BEGIN opens a session of its kind or clears the out-of-service state, or is refused with a status; a DATA packet in order is taken; END of a whole PROVISION blows the dual-signature fuse,
and of a whole package starts its check, whose result is STAGED or FREE with a status; an export is acknowledged, resent and ended; ABORT and 10 s of silence end a session.
Completes: `.creifBegin`, `.creifData`, `.creifEnd`, `.creifAck`, `.creifAbort`, `.creifResend`, `.creifSessionTimeout`, `.stageVerifyDone`. -/
def Obligations.CreifTransfers : Prop :=
  ∀ (s : State) (p : List Byte),
    (laneTakes s p 1 →
      (s.beginStatus (field p 2 1) (field p 3 1) (field p 0x18 4) ≠ 0 → answers (.creifBegin p) s fun t =>
        t = s.creifAckOut (field p 2 1) (field p 3 1) 0 0 (s.beginStatus (field p 2 1) (field p 3 1) (field p 0x18 4)) 0) ∧
      (s.beginStatus (field p 2 1) (field p 3 1) (field p 0x18 4) = 0 → answers (.creifBegin p) s fun t => t.sup.nextSession = s.sup.nextSession + 1 ∧
        (field p 2 1 = 4 → t.entry 0x8000 1 = 0) ∧
        (field p 2 1 = 1 → t.sup.staging = .receiving ∧ t.sup.stageSession = some s.sup.nextSession) ∧
        (field p 2 1 = 3 → (t.dump (field p 3 1)).state = .exporting) ∧
        (field p 2 1 = 1 ∨ field p 2 1 = 2 ∨ field p 2 1 = 5 → t.sup.sessions = s.sup.sessions ++
          [{ id := s.sup.nextSession, kind := field p 2 1, arg := field p 3 1, total := field p 0x18 4, lastValid := s.time }]))) ∧
    (∀ x : Session, s.session (field p 4 4) = some x →
      (laneTakes s p 2 → (x.kind = 2 ∨ x.kind = 5) → x.ended = false → x.ahead = [] → field p 8 4 = x.seqDone + 1 → field p 0x10 8 = x.seqDone * 1024 →
        x.seqDone * 1024 + field p 0x0C 2 ≤ x.total → answers (.creifData p true) s fun t =>
          t.session x.id = some { x with lastValid := s.time, seqDone := x.seqDone + 1, buffer := x.buffer ++ p.drop 32 }) ∧
      (∀ v : Verify, laneTakes s p 3 → x.ended = false → x.total ≤ 1024 * x.seqDone →
        (x.kind = 5 → x.arg = 2 → s.fuses.dualSig = false → answers (.creifEnd p v) s fun t => t.fuses = { s.fuses with dualSig := true } ∧ t.session x.id = none) ∧
        (x.kind = 1 → s.sup.staging = .receiving → answers (.creifEnd p v) s fun t => t.sup.staging = .verifying ∧ t.fuses = s.fuses)) ∧
      (laneTakes s p 4 → x.kind = 3 → x.seqDone < field p 8 4 → field p 8 4 ≤ x.seqSent → (s.dump x.arg).size ≤ 1024 * field p 8 4 → answers (.creifAck p) s fun t =>
        t.session x.id = none ∧ t.dump x.arg = {}) ∧
      (laneTakes s p 5 → x.ended = false → s.resting x = false → answers (.creifAbort p) s fun t => t.session x.id = none ∧ t.out = s.out ∧
        (x.kind = 1 → t.sup.staging = .free) ∧ (x.kind = 3 → (t.dump x.arg).state = .held))) ∧
    (∀ (n : Nat) (x : Session), s.session n = some x → x.kind = 3 → (s.dump x.arg).state = .exporting → x.seqSent ≠ x.seqDone → x.sentAt + 20000 ≤ s.time →
      (x.resends < 50 → answers (.creifResend n) s fun t => t.session n = some { x with resends := x.resends + 1, sentAt := s.time } ∧
        t.out = s.out ++ [Out.creif (creifPacket 2 3 x.arg n (x.seqDone + 1) 0 (1024 * x.seqDone) 0 ((s.dump x.arg).read (1024 * x.seqDone) 1024))]) ∧
      (50 ≤ x.resends → answers (.creifResend n) s fun t => t.session n = none ∧ (t.dump x.arg).state = .held)) ∧
    (∀ (n : Nat) (x : Session), s.session n = some x → x.ended = false → s.resting x = false → x.lastValid + 10000000 ≤ s.time →
      answers (.creifSessionTimeout n) s fun t => t.session n = none) ∧
    (∀ v : Verify, s.sup.staging = .verifying → v.flashOk = true → s.slotStatus s.stageSlot v.ecdsa v.mldsa = 0 → answers (.stageVerifyDone v) s fun t =>
      t.sup.staging = .staged ∧ t.entry 0xA007 6 = 0) ∧
    (∀ (v : Verify) (st : Nat), s.sup.staging = .verifying → st = (if v.flashOk then s.slotStatus s.stageSlot v.ecdsa v.mldsa else 9) → st ≠ 0 →
      answers (.stageVerifyDone v) s fun t => t.sup.staging = .free ∧ t.entry 0xA007 6 = st)

/-- R46, R66, R73, R130, R162, R640: where the I3C target runs, outside a cold reset's pin states, ENTDAA and SETDASA give the dynamic address, GETSTATUS answers the halt code and the boot stage, the MCTP control requests answer as R640 states, and a
DOE discovery names its object.
Completes: `.entdaa`, `.setdasa`, `.getstatus`, `.setEndpointId`, `.getEndpointId`, `.getMctpVersionSupport`, `.getMessageTypeSupport`,
`.getVendorDefinedSupport`, `.doeDiscovery`. -/
def Obligations.ManagementBus : Prop :=
  ∀ s : State,
    (∀ a : BitVec 7, s.i3cRuns = true → s.sup.i3cDynamic = none →
      answers (.entdaa a) s (fun t => t = { s with sup := { s.sup with i3cDynamic := some a } }) ∧
      (∀ st : BitVec 7, st.toNat = 0x48 + s.boot.slotId.val → answers (.setdasa st a) s fun t => t = { s with sup := { s.sup with i3cDynamic := some a } })) ∧
    (s.i3cRuns = true → s.boot.halt < 16 → answers .getstatus s fun t => ∃ w : BitVec 16, t = { s with out := s.out ++ [Out.i3c w] } ∧
      bits w.toNat 8 4 = s.boot.halt ∧ (s.boot.stage < 16 → bits w.toNat 12 4 = s.boot.stage)) ∧
    (s.supRuns = true →
      (∀ eid : Byte, eid ≠ 0 → eid ≠ 0xFF → answers (.setEndpointId eid) s fun t => t.entry 0x2060 5 = eid.toNat ∧ t.out = s.out ++ [Out.mctp [0#8, 0#8, eid, 0#8], Out.i3cIbi]) ∧
      answers .getEndpointId s (fun t => t = { s with out := s.out ++ [Out.mctp [0#8, BitVec.ofNat 8 (s.entry 0x2060 5), 0#8, 0#8], Out.i3cIbi] }) ∧
      answers (.getMctpVersionSupport 0x7E) s (fun t => t = { s with out := s.out ++ [Out.mctp [0#8, 1#8, 0xF1#8, 0xF3#8, 0xF1#8, 0#8], Out.i3cIbi] }) ∧
      answers .getMessageTypeSupport s (fun t => t = { s with out := s.out ++ [Out.mctp [0#8, 3#8, 0#8, 5#8, 0x7E#8], Out.i3cIbi] }) ∧
      answers (.getVendorDefinedSupport 0) s (fun t => t = { s with out := s.out ++
        [Out.mctp ([0#8, 0xFF#8, 0#8] ++ (bytesOfNat (s.entry 0x1000 1) 2).reverse ++ [0#8, 0#8]), Out.i3cIbi] })) ∧
    (∀ p : PortNo, s.hostOpen = true → s.fnPresent (fnKey p.val 0) = true →
      answers (.doeDiscovery p 0) s (fun t => t = { s with out := s.out ++ [Out.doe (fnKey p.val 0) [1#8, 0#8, 0#8, 1#8]] }) ∧
      answers (.doeDiscovery p 1) s (fun t => t = { s with out := s.out ++ [Out.doe (fnKey p.val 0) [1#8, 0#8, 1#8, 0#8]] }))

/-- R667 to R670: SPDM answers in the order GET_VERSION, GET_CAPABILITIES, NEGOTIATE_ALGORITHMS, then digests, certificate, challenge and measurements of slot 0; a request before its turn is
answered with ERROR 0x04. The capability fields and the nonces are free values (log 1).
Completes: `.getVersion`, `.getCapabilities`, `.negotiateAlgorithms`, `.getDigests`, `.getCertificate`, `.challenge`, `.getMeasurements`. -/
def Obligations.Attestation : Prop :=
  ∀ (s : State) (x : Fin 3) (q : List Byte) (c : Spdm), s.spdmRuns x = true → c = s.spdmOf x.val →
    answers (.getVersion x q) s (fun t => (t.spdmOf x.val).version = true ∧ (t.spdmOf x.val).caps = false ∧
      t.out = s.out ++ spdmOut x.val ([0x10#8, 4#8, 0#8, 0#8, 0#8, 1#8] ++ bytesOfNat 0x1300 2)) ∧
    (c.version = true → answers (.getCapabilities x q) s fun t => (t.spdmOf x.val).caps = true ∧
      ∃ l, t.out = s.out ++ spdmOut x.val ([0x13#8, 0x61#8, 0#8, 0#8, 0#8, 16#8, 0#8, 0#8] ++ bytesOfNat 0x16 4 ++ l) ∧ l.length = 8) ∧
    (c.version = false → answers (.getCapabilities x q) s fun t => t.out = s.out ++ spdmOut x.val [0x13#8, 0x7F#8, 4#8, 0#8] ∧ t.spdmOf x.val = c) ∧
    (c.caps = true → answers (.negotiateAlgorithms x q) s fun t => (t.spdmOf x.val).algs = true ∧
      ∃ reply, t.out = s.out ++ spdmOut x.val reply ∧ reply.length = 36 ∧ reply.take 2 = [0x13#8, 0x63#8] ∧ field reply 12 4 = 0x10 ∧ field reply 16 4 = 1) ∧
    (c.algs = true →
      (s.sup.certOk = true → answers (.getDigests x q) s fun t => t.out = s.out ++ spdmOut x.val ([0x13#8, 1#8, 1#8, 1#8] ++ Sha.sha256 s.certChain)) ∧
      (s.sup.certOk = true → field q 2 1 = 0 → field q 4 2 < s.certChain.length → answers (.getCertificate x q) s fun t =>
        ∃ part, part = (s.certChain.drop (field q 4 2)).take (field q 6 2) ∧ t.out = s.out ++ spdmOut x.val ([0x13#8, 2#8, 0#8, 0#8] ++ bytesOfNat part.length 2 ++
          bytesOfNat (s.certChain.length - field q 4 2 - part.length) 2 ++ part)) ∧
      (s.sup.certOk = true → field q 2 1 = 0 → answers (.challenge x q) s fun t => ∃ body, body.take 36 = [0x13#8, 3#8, 0#8, 1#8] ++ Sha.sha256 s.certChain ∧
        t.out = s.out ++ spdmOut x.val (body ++ Config.signature 1 (c.transcript ++ q ++ body))) ∧
      (field q 3 1 = 0 → bitAt (field q 2 1) 0 = false → answers (.getMeasurements x q) s fun t => ∃ l, t.out = s.out ++ spdmOut x.val ([0x13#8, 0x60#8, 9#8, 0#8, 0#8, 0#8, 0#8, 0#8] ++ l))) ∧
    (c.algs = false → answers (.challenge x q) s fun t => t.out = s.out ++ spdmOut x.val [0x13#8, 0x7F#8, 4#8, 0#8])

/-! ## Reset -/

/-- The machine right after reset: an unpowered module, nothing waiting and nothing in memory. That its values stand where the spec states none is the model's choice (log 3, log 4). -/
def Obligations.ResetState : Prop :=
  State.reset.pending = [] ∧ State.reset.power.state = .unpowered ∧ State.reset.time = 0 ∧ State.reset.cmds = [] ∧ State.reset.fuses.rollback ≤ 64 ∧ memWf State.reset ∧
  (∀ a, memByte State.reset.hbm a = 0) ∧ (∀ k : Nat, (State.reset.core k).holder = none) ∧ (∀ i : Nat, (State.reset.part i).stepState = .opened)

/-- The byte memories keep their canonical form through every step. -/
def Obligations.MemoryKeepsForm : Prop :=
  ∀ s t : State, memWf s → step s = .next t → memWf t
end

