-- ==== Sys2Proof/Laws/Table.lean ====
section
/-!
SUPPORT. The laws of the sparse tables and byte memories: what a read gives after a write, and that every operation keeps
the canonical form.
-/
namespace Sys2Proof.Machine

open Sys2Proof

variable {α : Type}

@[simp] theorem tabFind_put_same (t : Tab α) (k : Nat) (v : α) : tabFind (tabPut t k v) k = some v := by
  induction t with
  | nil => simp [tabPut, tabFind]
  | cons e t ih =>
    obtain ⟨j, w⟩ := e
    simp only [tabPut]
    split
    · simp [tabFind]
    · split
      · simp [tabFind]
      · rename_i h
        simp [tabFind, Ne.symm h, ih]

theorem tabFind_put_other (t : Tab α) {k j : Nat} (v : α) (h : j ≠ k) : tabFind (tabPut t k v) j = tabFind t j := by
  induction t with
  | nil => simp [tabPut, tabFind, Ne.symm h]
  | cons e t ih =>
    obtain ⟨i, w⟩ := e
    simp only [tabPut]
    split
    · simp [tabFind, Ne.symm h]
    · split
      · subst_vars; simp [tabFind, Ne.symm h]
      · simp [tabFind, ih]

@[simp] theorem tabFind_del_same (t : Tab α) (k : Nat) : tabFind (tabDel t k) k = none := by
  induction t with
  | nil => rfl
  | cons e t ih =>
    obtain ⟨j, w⟩ := e
    simp only [tabDel]
    split
    · exact ih
    · rename_i h
      simp [tabFind, h, ih]

theorem tabFind_del_other (t : Tab α) {k j : Nat} (h : j ≠ k) : tabFind (tabDel t k) j = tabFind t j := by
  induction t with
  | nil => rfl
  | cons e t ih =>
    obtain ⟨i, w⟩ := e
    simp only [tabDel]
    split
    · subst_vars; simp [tabFind, Ne.symm h, ih]
    · simp [tabFind, ih]

theorem tabFind_filter (p : Nat → Bool) (t : Tab α) (k : Nat) :
    tabFind (t.filter fun e => p e.1) k = if p k then tabFind t k else none := by
  induction t with
  | nil => simp [tabFind]
  | cons e t ih =>
    obtain ⟨j, x⟩ := e
    rw [List.filter_cons]
    by_cases h : p j = true
    · simp only [h, if_true, tabFind, ih]
      by_cases e : j = k
      · subst e; simp [h]
      · simp [e]
    · simp only [h, Bool.false_eq_true, if_false, tabFind, ih]
      by_cases e : j = k
      · subst e; simp [h]
      · simp [e]

variable [DecidableEq α]

/-- A table reads at a key what was last set there. -/
@[simp] theorem tabGet_set_same (d : α) (t : Tab α) (k : Nat) (v : α) : tabGet d (tabSet d t k v) k = v := by
  unfold tabGet tabSet
  split
  · subst_vars; simp
  · simp

/-- Setting one key leaves every other. -/
theorem tabGet_set_other (d : α) (t : Tab α) {k j : Nat} (v : α) (h : j ≠ k) : tabGet d (tabSet d t k v) j = tabGet d t j := by
  unfold tabGet tabSet
  split
  · rw [tabFind_del_other _ h]
  · rw [tabFind_put_other _ _ h]

/-! ## The canonical form -/

/-- A bound that a key lies above. -/
def aboveBound (b : Option Nat) (k : Nat) : Prop := ∀ m, b = some m → m < k

theorem tabWfAbove_cons (d : α) (b : Option Nat) (k : Nat) (v : α) (t : Tab α) :
    tabWfAbove d b ((k, v) :: t) = true ↔ aboveBound b k ∧ v ≠ d ∧ tabWfAbove d (some k) t = true := by
  cases b <;> simp [tabWfAbove, aboveBound, and_assoc]

theorem tabWfAbove_mono (d : α) {b c : Option Nat} (t : Tab α) (h : ∀ k, aboveBound c k → aboveBound b k)
    (w : tabWfAbove d c t = true) : tabWfAbove d b t = true := by
  cases t with
  | nil => rfl
  | cons e t =>
    obtain ⟨k, v⟩ := e
    rw [tabWfAbove_cons] at w ⊢
    exact ⟨h _ w.1, w.2⟩

theorem tabWfAbove_tail (d : α) (b : Option Nat) (k : Nat) (v : α) (t : Tab α) (w : tabWfAbove d b ((k, v) :: t) = true) :
    tabWfAbove d b t = true := by
  rw [tabWfAbove_cons] at w
  refine tabWfAbove_mono d t (fun j h m e => ?_) w.2.2
  exact Nat.lt_trans (w.1 m e) (h k rfl)

theorem tabPut_wfAbove (d : α) (t : Tab α) (k : Nat) (v : α) (hv : v ≠ d) (b : Option Nat) (hb : aboveBound b k)
    (w : tabWfAbove d b t = true) : tabWfAbove d b (tabPut t k v) = true := by
  induction t generalizing b with
  | nil => simp only [tabPut]; rw [tabWfAbove_cons]; exact ⟨hb, hv, rfl⟩
  | cons e t ih =>
    obtain ⟨j, x⟩ := e
    simp only [tabPut]
    rw [tabWfAbove_cons] at w
    split
    · rename_i h
      rw [tabWfAbove_cons, tabWfAbove_cons]
      exact ⟨hb, hv, fun m e => by cases e; exact h, w.2⟩
    · split
      · subst_vars; rw [tabWfAbove_cons]; exact ⟨hb, hv, w.2.2⟩
      · rw [tabWfAbove_cons]
        exact ⟨w.1, w.2.1, ih _ (fun m e => by cases e; omega) w.2.2⟩

theorem tabDel_wfAbove (d : α) (t : Tab α) (k : Nat) (b : Option Nat) (w : tabWfAbove d b t = true) :
    tabWfAbove d b (tabDel t k) = true := by
  induction t generalizing b with
  | nil => exact w
  | cons e t ih =>
    obtain ⟨j, x⟩ := e
    simp only [tabDel]
    split
    · exact ih _ (tabWfAbove_tail d b j x t w)
    · rw [tabWfAbove_cons] at w ⊢
      exact ⟨w.1, w.2.1, ih _ w.2.2⟩

theorem tabFilter_wfAbove (d : α) (p : Nat × α → Bool) (t : Tab α) (b : Option Nat) (w : tabWfAbove d b t = true) :
    tabWfAbove d b (t.filter p) = true := by
  induction t generalizing b with
  | nil => exact w
  | cons e t ih =>
    obtain ⟨j, x⟩ := e
    rw [List.filter_cons]
    split
    · rw [tabWfAbove_cons] at w ⊢
      exact ⟨w.1, w.2.1, ih _ w.2.2⟩
    · exact ih _ (tabWfAbove_tail d b j x t w)

/-- Setting a key keeps the canonical form. -/
theorem tabSet_wf (d : α) (t : Tab α) (k : Nat) (v : α) (w : tabWf d t = true) : tabWf d (tabSet d t k v) = true := by
  unfold tabSet
  split
  · exact tabDel_wfAbove d t k none w
  · rename_i h
    exact tabPut_wfAbove d t k v h none (fun _ e => by cases e) w

/-- Clearing a range keeps it. -/
theorem tabClear_wf (d : α) (t : Tab α) (lo n : Nat) (w : tabWf d t = true) : tabWf d (tabClear t lo n) = true :=
  tabFilter_wfAbove d _ t none w

/-- Pasting a slice keeps it. -/
theorem tabPaste_wf (d : α) (t : Tab α) (lo : Nat) (s : Tab α) (w : tabWf d t = true) : tabWf d (tabPaste d t lo s) = true := by
  unfold tabPaste
  induction s generalizing t with
  | nil => exact w
  | cons e s ih => exact ih _ (tabSet_wf d t _ _ w)

/-- Copying a range keeps it. -/
theorem tabCopy_wf (d : α) (t : Tab α) (dst : Nat) (u : Tab α) (src n : Nat) (w : tabWf d t = true) :
    tabWf d (tabCopy d t dst u src n) = true :=
  tabPaste_wf d _ dst _ (tabClear_wf d t dst n w)

/-- The canonical form: keys rising, no value the default. -/
theorem tabWfAbove_iff {α : Type} [DecidableEq α] (d : α) (b : Option Nat) (t : Tab α) :
    tabWfAbove d b t = true ↔ (∀ e ∈ t, aboveBound b e.1) ∧ t.Pairwise (fun x y => x.1 < y.1) ∧ ∀ e ∈ t, e.2 ≠ d := by
  induction t generalizing b with
  | nil => simp [tabWfAbove]
  | cons e t ih =>
    obtain ⟨k, v⟩ := e
    rw [tabWfAbove_cons, ih]
    simp only [List.pairwise_cons, List.mem_cons, forall_eq_or_imp]
    constructor
    · rintro ⟨h1, h2, h3, h4, h5⟩
      have h3' : ∀ e ∈ t, k < e.1 := fun e he => h3 e he k rfl
      exact ⟨⟨h1, fun e he m hm => Nat.lt_trans (h1 m hm) (h3' e he)⟩, ⟨h3', h4⟩, h2, h5⟩
    · rintro ⟨⟨h1, _⟩, ⟨h3, h4⟩, h2, h5⟩
      exact ⟨h1, h2, fun e he m hm => by cases hm; exact h3 e he, h4, h5⟩
theorem tabWf_iff {α : Type} [DecidableEq α] (d : α) (t : Tab α) :
    tabWf d t = true ↔ t.Pairwise (fun x y => x.1 < y.1) ∧ ∀ e ∈ t, e.2 ≠ d := by
  rw [tabWf, tabWfAbove_iff]
  exact ⟨fun h => h.2, fun h => ⟨fun _ _ _ e => (by cases e), h⟩⟩
/-- The entries of a sorted table from the first key at a bound on lie at the bound or above. -/
theorem dropWhile_ge {α : Type} (t : Tab α) (lo : Nat) (h : t.Pairwise (fun x y => x.1 < y.1)) :
    ∀ e ∈ t.dropWhile (fun e => decide (e.1 < lo)), lo ≤ e.1 := by
  induction t with
  | nil => simp
  | cons a t ih =>
    have hc := List.pairwise_cons.mp h
    intro e he
    rw [List.dropWhile_cons] at he
    split at he
    · exact ih hc.2 e he
    · rename_i hn
      have ha : lo ≤ a.1 := by simpa using hn
      rcases List.mem_cons.mp he with rfl | he
      · exact ha
      · exact Nat.le_trans ha (Nat.le_of_lt (hc.1 e he))

/-- Listed bytes of a range, in order, put in place of what a table lists there, keep it. -/
theorem splice_wf (d : Byte) (t : Mem) (lo n : Nat) (f : Nat → Byte) (w : tabWf d t = true) :
    tabWf d ((tabClear t lo n).takeWhile (fun e => decide (e.1 < lo)) ++
      (List.range n).filterMap (fun i => if f i = d then none else some (lo + i, f i)) ++
      (tabClear t lo n).dropWhile (fun e => decide (e.1 < lo))) = true := by
  obtain ⟨hp, hv⟩ := (tabWf_iff d _).mp (tabClear_wf d t lo n w)
  have ht : ∀ e ∈ (tabClear t lo n).takeWhile (fun e => decide (e.1 < lo)), e.1 < lo := fun e he => by
    simpa using List.mem_takeWhile_imp he
  have hb : ∀ e ∈ (List.range n).filterMap (fun i => if f i = d then none else some (lo + i, f i)), lo ≤ e.1 ∧ e.1 < lo + n ∧ e.2 ≠ d := by
    intro e he
    obtain ⟨i, hi, h⟩ := List.mem_filterMap.mp he
    split at h
    · cases h
    · rename_i hd
      cases h
      exact ⟨Nat.le_add_right _ _, Nat.add_lt_add_left (List.mem_range.mp hi) _, hd⟩
  have hd : ∀ e ∈ (tabClear t lo n).dropWhile (fun e => decide (e.1 < lo)), lo + n ≤ e.1 := by
    intro e he
    have h1 := dropWhile_ge _ lo hp e he
    have h2 := (List.mem_filter.mp ((List.dropWhile_sublist _).subset he)).2
    simp only [Bool.not_eq_true', Bool.and_eq_false_imp, decide_eq_true_eq, decide_eq_false_iff_not] at h2
    exact Nat.le_of_not_lt (h2 h1)
  refine (tabWf_iff d _).mpr ⟨?_, ?_⟩
  · refine List.pairwise_append.mpr ⟨List.pairwise_append.mpr ⟨hp.sublist (List.takeWhile_sublist _), ?_, ?_⟩, hp.sublist (List.dropWhile_sublist _), ?_⟩
    · refine List.Pairwise.filterMap _ (R := (· < ·)) ?_ List.pairwise_lt_range
      intro i j hij x hx y hy
      split at hx <;> split at hy <;> simp_all
      obtain rfl := hx; obtain rfl := hy
      exact Nat.add_lt_add_left hij _
    · exact fun x hx y hy => Nat.lt_of_lt_of_le (ht x hx) (hb y hy).1
    · intro x hx y hy
      rcases List.mem_append.mp hx with h | h
      · exact Nat.lt_of_lt_of_le (ht x h) (Nat.le_trans (Nat.le_add_right _ _) (hd y hy))
      · exact Nat.lt_of_lt_of_le (hb x h).2.1 (hd y hy)
  · intro e he
    rcases List.mem_append.mp he with h | h
    · rcases List.mem_append.mp h with h | h
      · exact hv e ((List.takeWhile_sublist _).subset h)
      · exact (hb e h).2.2
    · exact hv e ((List.dropWhile_sublist _).subset h)

/-! ## Byte memories -/

@[simp] theorem memByte_put_same (m : Mem) (a : Nat) (b : Byte) : memByte (memPut m a b) a = b := tabGet_set_same 0 m a b

theorem memByte_put_other (m : Mem) {a x : Nat} (b : Byte) (h : x ≠ a) : memByte (memPut m a b) x = memByte m x :=
  tabGet_set_other 0 m b h

/-- A write leaves every byte outside it. -/
theorem memByte_write_other (m : Mem) (a : Nat) (bs : List Byte) {x : Nat} (h : x < a ∨ a + bs.length ≤ x) :
    memByte (memWrite m a bs) x = memByte m x := by
  induction bs generalizing m a with
  | nil => rfl
  | cons b bs ih =>
    simp only [memWrite, List.length_cons] at *
    rw [ih _ _ (by omega), memByte_put_other _ _ (by omega)]

/-- A read gives the bytes last written there. -/
theorem memByte_write_same (m : Mem) (a : Nat) (bs : List Byte) (i : Nat) (h : i < bs.length) :
    memByte (memWrite m a bs) (a + i) = bs[i] := by
  induction bs generalizing m a i with
  | nil => exact absurd h (Nat.not_lt_zero _)
  | cons b bs ih =>
    simp only [memWrite]
    cases i with
    | zero => rw [memByte_write_other _ _ _ (by omega)]; simp
    | succ j =>
      have e : a + (j + 1) = a + 1 + j := by omega
      rw [e, ih (memPut m a b) (a + 1) j (by simpa using h)]
      simp

/-- A write keeps the canonical form. -/
theorem memWrite_wf (m : Mem) (a : Nat) (bs : List Byte) (w : tabWf 0 m = true) : tabWf 0 (memWrite m a bs) = true := by
  induction bs generalizing m a with
  | nil => exact w
  | cons b bs ih => exact ih _ _ (tabSet_wf 0 m a b w)

/-- So do bytes put one after another. -/
theorem puts_wf (m : Mem) (a : Nat) (f : Nat → Byte) (l : List Nat) (w : tabWf 0 m = true) :
    tabWf 0 (l.foldl (fun m i => memPut m (a + i) (f i)) m) = true := by
  induction l generalizing m with
  | nil => exact w
  | cons i l ih => exact ih _ (tabSet_wf 0 m _ _ w)

/-- Zeroing a range keeps it. -/
theorem memZero_wf (m : Mem) (a n : Nat) (w : tabWf 0 m = true) : tabWf 0 (memZero m a n) = true := tabClear_wf 0 m a n w

/-- A zeroed byte reads 0, every other as before. -/
theorem memByte_zero (m : Mem) (a n x : Nat) : memByte (memZero m a n) x = if a ≤ x ∧ x < a + n then 0 else memByte m x := by
  unfold memByte memZero tabClear tabGet
  rw [tabFind_filter (fun k => !(decide (a ≤ k) && decide (k < a + n)))]
  by_cases h : a ≤ x ∧ x < a + n
  · simp [h.1, h.2]
  · simp only [h, if_false]
    rw [if_pos]
    simp only [Bool.not_eq_true', Bool.and_eq_false_imp, decide_eq_true_eq, decide_eq_false_iff_not]
    exact fun h1 h2 => h ⟨h1, h2⟩

end Sys2Proof.Machine
end

