-- ==== Sys2Proof/Laws/State.lean ====
section
/-!
SUPPORT. For each update of State one lemma that names every field it leaves, and what reads what it wrote, so that no
later proof unfolds a record update.
-/
namespace Sys2Proof.Machine

open Sys2Proof

@[simp] theorem State.setPort_rest (s : State) (p : Nat) (v : Port) :
    (s.setPort p v).pending = s.pending ∧ (s.setPort p v).out = s.out ∧ (s.setPort p v).freeCtr = s.freeCtr ∧
    (s.setPort p v).time = s.time ∧ (s.setPort p v).power = s.power ∧ (s.setPort p v).pins = s.pins ∧
    (s.setPort p v).phys = s.phys ∧ (s.setPort p v).fuses = s.fuses ∧ (s.setPort p v).boot = s.boot ∧
    (s.setPort p v).flash = s.flash ∧ (s.setPort p v).persist = s.persist ∧ (s.setPort p v).resets = s.resets ∧
    (s.setPort p v).resetRec = s.resetRec ∧ (s.setPort p v).resetLog = s.resetLog ∧ (s.setPort p v).fns = s.fns ∧
    (s.setPort p v).parts = s.parts ∧ (s.setPort p v).cores = s.cores ∧ (s.setPort p v).cmds = s.cmds ∧
    (s.setPort p v).waiting = s.waiting ∧ (s.setPort p v).decided = s.decided ∧
    (s.setPort p v).decidedUs = s.decidedUs ∧ (s.setPort p v).nextId = s.nextId ∧ (s.setPort p v).dict = s.dict ∧
    (s.setPort p v).hbm = s.hbm ∧ (s.setPort p v).hbmPoison = s.hbmPoison ∧
    (s.setPort p v).hbmFrames = s.hbmFrames ∧ (s.setPort p v).spareNext = s.spareNext ∧
    (s.setPort p v).cxl = s.cxl ∧ (s.setPort p v).cxlPoison = s.cxlPoison ∧
    (s.setPort p v).cxlFrames = s.cxlFrames ∧ (s.setPort p v).cxlDrops = s.cxlDrops ∧
    (s.setPort p v).fabric = s.fabric ∧
    (s.setPort p v).expanders = s.expanders ∧ (s.setPort p v).scratch = s.scratch ∧
    (s.setPort p v).scratchPoison = s.scratchPoison ∧ (s.setPort p v).hostMem = s.hostMem ∧
    (s.setPort p v).flows = s.flows ∧ (s.setPort p v).ethPorts = s.ethPorts ∧ (s.setPort p v).nicGen = s.nicGen ∧
    (s.setPort p v).nicHung = s.nicHung ∧ (s.setPort p v).portMode = s.portMode ∧ (s.setPort p v).portPhy = s.portPhy ∧
    (s.setPort p v).loopback = s.loopback ∧ (s.setPort p v).admitHeld = s.admitHeld ∧ (s.setPort p v).colls = s.colls ∧
    (s.setPort p v).upds = s.upds ∧ (s.setPort p v).molts = s.molts ∧ (s.setPort p v).loads = s.loads ∧
    (s.setPort p v).loadDigests = s.loadDigests ∧ (s.setPort p v).ckpts = s.ckpts ∧ (s.setPort p v).sup = s.sup := by
  and_intros <;> rfl

@[simp] theorem State.setFn_rest (s : State) (f : Nat) (v : Fn) :
    (s.setFn f v).pending = s.pending ∧ (s.setFn f v).out = s.out ∧ (s.setFn f v).freeCtr = s.freeCtr ∧
    (s.setFn f v).time = s.time ∧ (s.setFn f v).power = s.power ∧ (s.setFn f v).pins = s.pins ∧
    (s.setFn f v).phys = s.phys ∧ (s.setFn f v).fuses = s.fuses ∧ (s.setFn f v).boot = s.boot ∧
    (s.setFn f v).flash = s.flash ∧ (s.setFn f v).persist = s.persist ∧ (s.setFn f v).resets = s.resets ∧
    (s.setFn f v).resetRec = s.resetRec ∧ (s.setFn f v).resetLog = s.resetLog ∧ (s.setFn f v).ports = s.ports ∧
    (s.setFn f v).parts = s.parts ∧ (s.setFn f v).cores = s.cores ∧ (s.setFn f v).cmds = s.cmds ∧
    (s.setFn f v).waiting = s.waiting ∧ (s.setFn f v).decided = s.decided ∧ (s.setFn f v).decidedUs = s.decidedUs ∧
    (s.setFn f v).nextId = s.nextId ∧ (s.setFn f v).dict = s.dict ∧ (s.setFn f v).hbm = s.hbm ∧
    (s.setFn f v).hbmPoison = s.hbmPoison ∧ (s.setFn f v).hbmFrames = s.hbmFrames ∧
    (s.setFn f v).spareNext = s.spareNext ∧ (s.setFn f v).cxl = s.cxl ∧ (s.setFn f v).cxlPoison = s.cxlPoison ∧
    (s.setFn f v).cxlFrames = s.cxlFrames ∧ (s.setFn f v).cxlDrops = s.cxlDrops ∧ (s.setFn f v).fabric = s.fabric ∧
    (s.setFn f v).expanders = s.expanders ∧ (s.setFn f v).scratch = s.scratch ∧
    (s.setFn f v).scratchPoison = s.scratchPoison ∧ (s.setFn f v).hostMem = s.hostMem ∧
    (s.setFn f v).flows = s.flows ∧ (s.setFn f v).ethPorts = s.ethPorts ∧ (s.setFn f v).nicGen = s.nicGen ∧
    (s.setFn f v).nicHung = s.nicHung ∧ (s.setFn f v).portMode = s.portMode ∧ (s.setFn f v).portPhy = s.portPhy ∧
    (s.setFn f v).loopback = s.loopback ∧ (s.setFn f v).admitHeld = s.admitHeld ∧ (s.setFn f v).colls = s.colls ∧
    (s.setFn f v).upds = s.upds ∧ (s.setFn f v).molts = s.molts ∧ (s.setFn f v).loads = s.loads ∧
    (s.setFn f v).loadDigests = s.loadDigests ∧ (s.setFn f v).ckpts = s.ckpts ∧ (s.setFn f v).sup = s.sup := by
  and_intros <;> rfl

@[simp] theorem State.setPart_rest (s : State) (i : Nat) (v : Part) :
    (s.setPart i v).pending = s.pending ∧ (s.setPart i v).out = s.out ∧ (s.setPart i v).freeCtr = s.freeCtr ∧
    (s.setPart i v).time = s.time ∧ (s.setPart i v).power = s.power ∧ (s.setPart i v).pins = s.pins ∧
    (s.setPart i v).phys = s.phys ∧ (s.setPart i v).fuses = s.fuses ∧ (s.setPart i v).boot = s.boot ∧
    (s.setPart i v).flash = s.flash ∧ (s.setPart i v).persist = s.persist ∧ (s.setPart i v).resets = s.resets ∧
    (s.setPart i v).resetRec = s.resetRec ∧ (s.setPart i v).resetLog = s.resetLog ∧
    (s.setPart i v).ports = s.ports ∧ (s.setPart i v).fns = s.fns ∧ (s.setPart i v).cores = s.cores ∧
    (s.setPart i v).cmds = s.cmds ∧ (s.setPart i v).waiting = s.waiting ∧ (s.setPart i v).decided = s.decided ∧
    (s.setPart i v).decidedUs = s.decidedUs ∧ (s.setPart i v).nextId = s.nextId ∧ (s.setPart i v).dict = s.dict ∧
    (s.setPart i v).hbm = s.hbm ∧ (s.setPart i v).hbmPoison = s.hbmPoison ∧
    (s.setPart i v).hbmFrames = s.hbmFrames ∧ (s.setPart i v).spareNext = s.spareNext ∧
    (s.setPart i v).cxl = s.cxl ∧ (s.setPart i v).cxlPoison = s.cxlPoison ∧
    (s.setPart i v).cxlFrames = s.cxlFrames ∧ (s.setPart i v).cxlDrops = s.cxlDrops ∧
    (s.setPart i v).fabric = s.fabric ∧
    (s.setPart i v).expanders = s.expanders ∧ (s.setPart i v).scratch = s.scratch ∧
    (s.setPart i v).scratchPoison = s.scratchPoison ∧ (s.setPart i v).hostMem = s.hostMem ∧
    (s.setPart i v).flows = s.flows ∧ (s.setPart i v).ethPorts = s.ethPorts ∧ (s.setPart i v).nicGen = s.nicGen ∧
    (s.setPart i v).nicHung = s.nicHung ∧ (s.setPart i v).portMode = s.portMode ∧ (s.setPart i v).portPhy = s.portPhy ∧
    (s.setPart i v).loopback = s.loopback ∧ (s.setPart i v).admitHeld = s.admitHeld ∧ (s.setPart i v).colls = s.colls ∧
    (s.setPart i v).upds = s.upds ∧ (s.setPart i v).molts = s.molts ∧ (s.setPart i v).loads = s.loads ∧
    (s.setPart i v).loadDigests = s.loadDigests ∧ (s.setPart i v).ckpts = s.ckpts ∧ (s.setPart i v).sup = s.sup := by
  and_intros <;> rfl

@[simp] theorem State.setCore_rest (s : State) (c : Nat) (v : Core) :
    (s.setCore c v).pending = s.pending ∧ (s.setCore c v).out = s.out ∧ (s.setCore c v).freeCtr = s.freeCtr ∧
    (s.setCore c v).time = s.time ∧ (s.setCore c v).power = s.power ∧ (s.setCore c v).pins = s.pins ∧
    (s.setCore c v).phys = s.phys ∧ (s.setCore c v).fuses = s.fuses ∧ (s.setCore c v).boot = s.boot ∧
    (s.setCore c v).flash = s.flash ∧ (s.setCore c v).persist = s.persist ∧ (s.setCore c v).resets = s.resets ∧
    (s.setCore c v).resetRec = s.resetRec ∧ (s.setCore c v).resetLog = s.resetLog ∧
    (s.setCore c v).ports = s.ports ∧ (s.setCore c v).fns = s.fns ∧ (s.setCore c v).parts = s.parts ∧
    (s.setCore c v).cmds = s.cmds ∧ (s.setCore c v).waiting = s.waiting ∧ (s.setCore c v).decided = s.decided ∧
    (s.setCore c v).decidedUs = s.decidedUs ∧ (s.setCore c v).nextId = s.nextId ∧ (s.setCore c v).dict = s.dict ∧
    (s.setCore c v).hbm = s.hbm ∧ (s.setCore c v).hbmPoison = s.hbmPoison ∧
    (s.setCore c v).hbmFrames = s.hbmFrames ∧ (s.setCore c v).spareNext = s.spareNext ∧
    (s.setCore c v).cxl = s.cxl ∧ (s.setCore c v).cxlPoison = s.cxlPoison ∧
    (s.setCore c v).cxlFrames = s.cxlFrames ∧ (s.setCore c v).cxlDrops = s.cxlDrops ∧
    (s.setCore c v).fabric = s.fabric ∧
    (s.setCore c v).expanders = s.expanders ∧ (s.setCore c v).scratch = s.scratch ∧
    (s.setCore c v).scratchPoison = s.scratchPoison ∧ (s.setCore c v).hostMem = s.hostMem ∧
    (s.setCore c v).flows = s.flows ∧ (s.setCore c v).ethPorts = s.ethPorts ∧ (s.setCore c v).nicGen = s.nicGen ∧
    (s.setCore c v).nicHung = s.nicHung ∧ (s.setCore c v).portMode = s.portMode ∧ (s.setCore c v).portPhy = s.portPhy ∧
    (s.setCore c v).loopback = s.loopback ∧ (s.setCore c v).admitHeld = s.admitHeld ∧ (s.setCore c v).colls = s.colls ∧
    (s.setCore c v).upds = s.upds ∧ (s.setCore c v).molts = s.molts ∧ (s.setCore c v).loads = s.loads ∧
    (s.setCore c v).loadDigests = s.loadDigests ∧ (s.setCore c v).ckpts = s.ckpts ∧ (s.setCore c v).sup = s.sup := by
  and_intros <;> rfl

@[simp] theorem State.setFlow_rest (s : State) (f : Nat) (v : Flow) :
    (s.setFlow f v).pending = s.pending ∧ (s.setFlow f v).out = s.out ∧ (s.setFlow f v).freeCtr = s.freeCtr ∧
    (s.setFlow f v).time = s.time ∧ (s.setFlow f v).power = s.power ∧ (s.setFlow f v).pins = s.pins ∧
    (s.setFlow f v).phys = s.phys ∧ (s.setFlow f v).fuses = s.fuses ∧ (s.setFlow f v).boot = s.boot ∧
    (s.setFlow f v).flash = s.flash ∧ (s.setFlow f v).persist = s.persist ∧ (s.setFlow f v).resets = s.resets ∧
    (s.setFlow f v).resetRec = s.resetRec ∧ (s.setFlow f v).resetLog = s.resetLog ∧
    (s.setFlow f v).ports = s.ports ∧ (s.setFlow f v).fns = s.fns ∧ (s.setFlow f v).parts = s.parts ∧
    (s.setFlow f v).cores = s.cores ∧ (s.setFlow f v).cmds = s.cmds ∧ (s.setFlow f v).waiting = s.waiting ∧
    (s.setFlow f v).decided = s.decided ∧ (s.setFlow f v).decidedUs = s.decidedUs ∧
    (s.setFlow f v).nextId = s.nextId ∧ (s.setFlow f v).dict = s.dict ∧ (s.setFlow f v).hbm = s.hbm ∧
    (s.setFlow f v).hbmPoison = s.hbmPoison ∧ (s.setFlow f v).hbmFrames = s.hbmFrames ∧
    (s.setFlow f v).spareNext = s.spareNext ∧ (s.setFlow f v).cxl = s.cxl ∧
    (s.setFlow f v).cxlPoison = s.cxlPoison ∧ (s.setFlow f v).cxlFrames = s.cxlFrames ∧
    (s.setFlow f v).cxlDrops = s.cxlDrops ∧
    (s.setFlow f v).fabric = s.fabric ∧ (s.setFlow f v).expanders = s.expanders ∧
    (s.setFlow f v).scratch = s.scratch ∧ (s.setFlow f v).scratchPoison = s.scratchPoison ∧
    (s.setFlow f v).hostMem = s.hostMem ∧ (s.setFlow f v).ethPorts = s.ethPorts ∧
    (s.setFlow f v).nicGen = s.nicGen ∧ (s.setFlow f v).nicHung = s.nicHung ∧
    (s.setFlow f v).portMode = s.portMode ∧ (s.setFlow f v).portPhy = s.portPhy ∧
    (s.setFlow f v).loopback = s.loopback ∧ (s.setFlow f v).admitHeld = s.admitHeld ∧ (s.setFlow f v).colls = s.colls ∧ (s.setFlow f v).upds = s.upds ∧
    (s.setFlow f v).molts = s.molts ∧ (s.setFlow f v).loads = s.loads ∧
    (s.setFlow f v).loadDigests = s.loadDigests ∧ (s.setFlow f v).ckpts = s.ckpts ∧ (s.setFlow f v).sup = s.sup := by
  and_intros <;> rfl

@[simp] theorem State.setEth_rest (s : State) (p : Nat) (v : EthPort) :
    (s.setEth p v).pending = s.pending ∧ (s.setEth p v).out = s.out ∧ (s.setEth p v).freeCtr = s.freeCtr ∧
    (s.setEth p v).time = s.time ∧ (s.setEth p v).power = s.power ∧ (s.setEth p v).pins = s.pins ∧
    (s.setEth p v).phys = s.phys ∧ (s.setEth p v).fuses = s.fuses ∧ (s.setEth p v).boot = s.boot ∧
    (s.setEth p v).flash = s.flash ∧ (s.setEth p v).persist = s.persist ∧ (s.setEth p v).resets = s.resets ∧
    (s.setEth p v).resetRec = s.resetRec ∧ (s.setEth p v).resetLog = s.resetLog ∧ (s.setEth p v).ports = s.ports ∧
    (s.setEth p v).fns = s.fns ∧ (s.setEth p v).parts = s.parts ∧ (s.setEth p v).cores = s.cores ∧
    (s.setEth p v).cmds = s.cmds ∧ (s.setEth p v).waiting = s.waiting ∧ (s.setEth p v).decided = s.decided ∧
    (s.setEth p v).decidedUs = s.decidedUs ∧ (s.setEth p v).nextId = s.nextId ∧ (s.setEth p v).dict = s.dict ∧
    (s.setEth p v).hbm = s.hbm ∧ (s.setEth p v).hbmPoison = s.hbmPoison ∧ (s.setEth p v).hbmFrames = s.hbmFrames ∧
    (s.setEth p v).spareNext = s.spareNext ∧ (s.setEth p v).cxl = s.cxl ∧ (s.setEth p v).cxlPoison = s.cxlPoison ∧
    (s.setEth p v).cxlFrames = s.cxlFrames ∧ (s.setEth p v).cxlDrops = s.cxlDrops ∧ (s.setEth p v).fabric = s.fabric ∧
    (s.setEth p v).expanders = s.expanders ∧ (s.setEth p v).scratch = s.scratch ∧
    (s.setEth p v).scratchPoison = s.scratchPoison ∧ (s.setEth p v).hostMem = s.hostMem ∧
    (s.setEth p v).flows = s.flows ∧ (s.setEth p v).nicGen = s.nicGen ∧ (s.setEth p v).nicHung = s.nicHung ∧
    (s.setEth p v).portMode = s.portMode ∧ (s.setEth p v).portPhy = s.portPhy ∧
    (s.setEth p v).loopback = s.loopback ∧ (s.setEth p v).admitHeld = s.admitHeld ∧ (s.setEth p v).colls = s.colls ∧ (s.setEth p v).upds = s.upds ∧
    (s.setEth p v).molts = s.molts ∧ (s.setEth p v).loads = s.loads ∧ (s.setEth p v).loadDigests = s.loadDigests ∧
    (s.setEth p v).ckpts = s.ckpts ∧ (s.setEth p v).sup = s.sup := by
  and_intros <;> rfl

@[simp] theorem State.setExpander_rest (s : State) (e : Nat) (v : Expander) :
    (s.setExpander e v).pending = s.pending ∧ (s.setExpander e v).out = s.out ∧
    (s.setExpander e v).freeCtr = s.freeCtr ∧ (s.setExpander e v).time = s.time ∧
    (s.setExpander e v).power = s.power ∧ (s.setExpander e v).pins = s.pins ∧ (s.setExpander e v).phys = s.phys ∧
    (s.setExpander e v).fuses = s.fuses ∧ (s.setExpander e v).boot = s.boot ∧ (s.setExpander e v).flash = s.flash ∧
    (s.setExpander e v).persist = s.persist ∧ (s.setExpander e v).resets = s.resets ∧
    (s.setExpander e v).resetRec = s.resetRec ∧ (s.setExpander e v).resetLog = s.resetLog ∧
    (s.setExpander e v).ports = s.ports ∧ (s.setExpander e v).fns = s.fns ∧ (s.setExpander e v).parts = s.parts ∧
    (s.setExpander e v).cores = s.cores ∧ (s.setExpander e v).cmds = s.cmds ∧
    (s.setExpander e v).waiting = s.waiting ∧ (s.setExpander e v).decided = s.decided ∧
    (s.setExpander e v).decidedUs = s.decidedUs ∧ (s.setExpander e v).nextId = s.nextId ∧
    (s.setExpander e v).dict = s.dict ∧ (s.setExpander e v).hbm = s.hbm ∧
    (s.setExpander e v).hbmPoison = s.hbmPoison ∧ (s.setExpander e v).hbmFrames = s.hbmFrames ∧
    (s.setExpander e v).spareNext = s.spareNext ∧ (s.setExpander e v).cxl = s.cxl ∧
    (s.setExpander e v).cxlPoison = s.cxlPoison ∧ (s.setExpander e v).cxlFrames = s.cxlFrames ∧
    (s.setExpander e v).cxlDrops = s.cxlDrops ∧
    (s.setExpander e v).fabric = s.fabric ∧ (s.setExpander e v).scratch = s.scratch ∧
    (s.setExpander e v).scratchPoison = s.scratchPoison ∧ (s.setExpander e v).hostMem = s.hostMem ∧
    (s.setExpander e v).flows = s.flows ∧ (s.setExpander e v).ethPorts = s.ethPorts ∧
    (s.setExpander e v).nicGen = s.nicGen ∧ (s.setExpander e v).nicHung = s.nicHung ∧
    (s.setExpander e v).portMode = s.portMode ∧ (s.setExpander e v).portPhy = s.portPhy ∧
    (s.setExpander e v).loopback = s.loopback ∧ (s.setExpander e v).admitHeld = s.admitHeld ∧ (s.setExpander e v).colls = s.colls ∧
    (s.setExpander e v).upds = s.upds ∧ (s.setExpander e v).molts = s.molts ∧ (s.setExpander e v).loads = s.loads ∧
    (s.setExpander e v).loadDigests = s.loadDigests ∧ (s.setExpander e v).ckpts = s.ckpts ∧
    (s.setExpander e v).sup = s.sup := by
  and_intros <;> rfl

@[simp] theorem State.setQueue_rest (s : State) (f q : Nat) (v : Queue) :
    (s.setQueue f q v).pending = s.pending ∧ (s.setQueue f q v).out = s.out ∧
    (s.setQueue f q v).freeCtr = s.freeCtr ∧ (s.setQueue f q v).time = s.time ∧
    (s.setQueue f q v).power = s.power ∧ (s.setQueue f q v).pins = s.pins ∧ (s.setQueue f q v).phys = s.phys ∧
    (s.setQueue f q v).fuses = s.fuses ∧ (s.setQueue f q v).boot = s.boot ∧ (s.setQueue f q v).flash = s.flash ∧
    (s.setQueue f q v).persist = s.persist ∧ (s.setQueue f q v).resets = s.resets ∧
    (s.setQueue f q v).resetRec = s.resetRec ∧ (s.setQueue f q v).resetLog = s.resetLog ∧
    (s.setQueue f q v).ports = s.ports ∧ (s.setQueue f q v).parts = s.parts ∧ (s.setQueue f q v).cores = s.cores ∧
    (s.setQueue f q v).cmds = s.cmds ∧ (s.setQueue f q v).waiting = s.waiting ∧
    (s.setQueue f q v).decided = s.decided ∧ (s.setQueue f q v).decidedUs = s.decidedUs ∧
    (s.setQueue f q v).nextId = s.nextId ∧ (s.setQueue f q v).dict = s.dict ∧ (s.setQueue f q v).hbm = s.hbm ∧
    (s.setQueue f q v).hbmPoison = s.hbmPoison ∧ (s.setQueue f q v).hbmFrames = s.hbmFrames ∧
    (s.setQueue f q v).spareNext = s.spareNext ∧ (s.setQueue f q v).cxl = s.cxl ∧
    (s.setQueue f q v).cxlPoison = s.cxlPoison ∧ (s.setQueue f q v).cxlFrames = s.cxlFrames ∧
    (s.setQueue f q v).cxlDrops = s.cxlDrops ∧
    (s.setQueue f q v).fabric = s.fabric ∧ (s.setQueue f q v).expanders = s.expanders ∧
    (s.setQueue f q v).scratch = s.scratch ∧ (s.setQueue f q v).scratchPoison = s.scratchPoison ∧
    (s.setQueue f q v).hostMem = s.hostMem ∧ (s.setQueue f q v).flows = s.flows ∧
    (s.setQueue f q v).ethPorts = s.ethPorts ∧ (s.setQueue f q v).nicGen = s.nicGen ∧
    (s.setQueue f q v).nicHung = s.nicHung ∧ (s.setQueue f q v).portMode = s.portMode ∧ (s.setQueue f q v).portPhy = s.portPhy ∧
    (s.setQueue f q v).loopback = s.loopback ∧ (s.setQueue f q v).admitHeld = s.admitHeld ∧
    (s.setQueue f q v).colls = s.colls ∧ (s.setQueue f q v).upds = s.upds ∧ (s.setQueue f q v).molts = s.molts ∧
    (s.setQueue f q v).loads = s.loads ∧ (s.setQueue f q v).loadDigests = s.loadDigests ∧
    (s.setQueue f q v).ckpts = s.ckpts ∧ (s.setQueue f q v).sup = s.sup := by
  and_intros <;> rfl

@[simp] theorem State.setChan_rest (s : State) (f c : Nat) (v : Chan) :
    (s.setChan f c v).pending = s.pending ∧ (s.setChan f c v).out = s.out ∧ (s.setChan f c v).freeCtr = s.freeCtr ∧
    (s.setChan f c v).time = s.time ∧ (s.setChan f c v).power = s.power ∧ (s.setChan f c v).pins = s.pins ∧
    (s.setChan f c v).phys = s.phys ∧ (s.setChan f c v).fuses = s.fuses ∧ (s.setChan f c v).boot = s.boot ∧
    (s.setChan f c v).flash = s.flash ∧ (s.setChan f c v).persist = s.persist ∧
    (s.setChan f c v).resets = s.resets ∧ (s.setChan f c v).resetRec = s.resetRec ∧
    (s.setChan f c v).resetLog = s.resetLog ∧ (s.setChan f c v).ports = s.ports ∧
    (s.setChan f c v).parts = s.parts ∧ (s.setChan f c v).cores = s.cores ∧ (s.setChan f c v).cmds = s.cmds ∧
    (s.setChan f c v).waiting = s.waiting ∧ (s.setChan f c v).decided = s.decided ∧
    (s.setChan f c v).decidedUs = s.decidedUs ∧ (s.setChan f c v).nextId = s.nextId ∧
    (s.setChan f c v).dict = s.dict ∧ (s.setChan f c v).hbm = s.hbm ∧ (s.setChan f c v).hbmPoison = s.hbmPoison ∧
    (s.setChan f c v).hbmFrames = s.hbmFrames ∧ (s.setChan f c v).spareNext = s.spareNext ∧
    (s.setChan f c v).cxl = s.cxl ∧ (s.setChan f c v).cxlPoison = s.cxlPoison ∧
    (s.setChan f c v).cxlFrames = s.cxlFrames ∧ (s.setChan f c v).cxlDrops = s.cxlDrops ∧
    (s.setChan f c v).fabric = s.fabric ∧
    (s.setChan f c v).expanders = s.expanders ∧ (s.setChan f c v).scratch = s.scratch ∧
    (s.setChan f c v).scratchPoison = s.scratchPoison ∧ (s.setChan f c v).hostMem = s.hostMem ∧
    (s.setChan f c v).flows = s.flows ∧ (s.setChan f c v).ethPorts = s.ethPorts ∧
    (s.setChan f c v).nicGen = s.nicGen ∧ (s.setChan f c v).nicHung = s.nicHung ∧
    (s.setChan f c v).portMode = s.portMode ∧ (s.setChan f c v).portPhy = s.portPhy ∧
    (s.setChan f c v).loopback = s.loopback ∧ (s.setChan f c v).admitHeld = s.admitHeld ∧ (s.setChan f c v).colls = s.colls ∧ (s.setChan f c v).upds = s.upds ∧
    (s.setChan f c v).molts = s.molts ∧ (s.setChan f c v).loads = s.loads ∧
    (s.setChan f c v).loadDigests = s.loadDigests ∧ (s.setChan f c v).ckpts = s.ckpts ∧
    (s.setChan f c v).sup = s.sup := by
  and_intros <;> rfl

@[simp] theorem State.setLongop_rest (s : State) (i h : Nat) (v : LongOp) :
    (s.setLongop i h v).pending = s.pending ∧ (s.setLongop i h v).out = s.out ∧
    (s.setLongop i h v).freeCtr = s.freeCtr ∧ (s.setLongop i h v).time = s.time ∧
    (s.setLongop i h v).power = s.power ∧ (s.setLongop i h v).pins = s.pins ∧ (s.setLongop i h v).phys = s.phys ∧
    (s.setLongop i h v).fuses = s.fuses ∧ (s.setLongop i h v).boot = s.boot ∧ (s.setLongop i h v).flash = s.flash ∧
    (s.setLongop i h v).persist = s.persist ∧ (s.setLongop i h v).resets = s.resets ∧
    (s.setLongop i h v).resetRec = s.resetRec ∧ (s.setLongop i h v).resetLog = s.resetLog ∧
    (s.setLongop i h v).ports = s.ports ∧ (s.setLongop i h v).fns = s.fns ∧ (s.setLongop i h v).cores = s.cores ∧
    (s.setLongop i h v).cmds = s.cmds ∧ (s.setLongop i h v).waiting = s.waiting ∧
    (s.setLongop i h v).decided = s.decided ∧ (s.setLongop i h v).decidedUs = s.decidedUs ∧
    (s.setLongop i h v).nextId = s.nextId ∧ (s.setLongop i h v).dict = s.dict ∧ (s.setLongop i h v).hbm = s.hbm ∧
    (s.setLongop i h v).hbmPoison = s.hbmPoison ∧ (s.setLongop i h v).hbmFrames = s.hbmFrames ∧
    (s.setLongop i h v).spareNext = s.spareNext ∧ (s.setLongop i h v).cxl = s.cxl ∧
    (s.setLongop i h v).cxlPoison = s.cxlPoison ∧ (s.setLongop i h v).cxlFrames = s.cxlFrames ∧
    (s.setLongop i h v).cxlDrops = s.cxlDrops ∧
    (s.setLongop i h v).fabric = s.fabric ∧ (s.setLongop i h v).expanders = s.expanders ∧
    (s.setLongop i h v).scratch = s.scratch ∧ (s.setLongop i h v).scratchPoison = s.scratchPoison ∧
    (s.setLongop i h v).hostMem = s.hostMem ∧ (s.setLongop i h v).flows = s.flows ∧
    (s.setLongop i h v).ethPorts = s.ethPorts ∧ (s.setLongop i h v).nicGen = s.nicGen ∧
    (s.setLongop i h v).nicHung = s.nicHung ∧ (s.setLongop i h v).portMode = s.portMode ∧ (s.setLongop i h v).portPhy = s.portPhy ∧
    (s.setLongop i h v).loopback = s.loopback ∧ (s.setLongop i h v).admitHeld = s.admitHeld ∧
    (s.setLongop i h v).colls = s.colls ∧ (s.setLongop i h v).upds = s.upds ∧ (s.setLongop i h v).molts = s.molts ∧
    (s.setLongop i h v).loads = s.loads ∧ (s.setLongop i h v).loadDigests = s.loadDigests ∧
    (s.setLongop i h v).ckpts = s.ckpts ∧ (s.setLongop i h v).sup = s.sup := by
  and_intros <;> rfl

@[simp] theorem State.setBlock_rest (s : State) (b : Nat) (v : Block) :
    (s.setBlock b v).pending = s.pending ∧ (s.setBlock b v).out = s.out ∧ (s.setBlock b v).freeCtr = s.freeCtr ∧
    (s.setBlock b v).time = s.time ∧ (s.setBlock b v).pins = s.pins ∧ (s.setBlock b v).phys = s.phys ∧
    (s.setBlock b v).fuses = s.fuses ∧ (s.setBlock b v).boot = s.boot ∧ (s.setBlock b v).flash = s.flash ∧
    (s.setBlock b v).persist = s.persist ∧ (s.setBlock b v).resets = s.resets ∧
    (s.setBlock b v).resetRec = s.resetRec ∧ (s.setBlock b v).resetLog = s.resetLog ∧
    (s.setBlock b v).ports = s.ports ∧ (s.setBlock b v).fns = s.fns ∧ (s.setBlock b v).parts = s.parts ∧
    (s.setBlock b v).cores = s.cores ∧ (s.setBlock b v).cmds = s.cmds ∧ (s.setBlock b v).waiting = s.waiting ∧
    (s.setBlock b v).decided = s.decided ∧ (s.setBlock b v).decidedUs = s.decidedUs ∧
    (s.setBlock b v).nextId = s.nextId ∧ (s.setBlock b v).dict = s.dict ∧ (s.setBlock b v).hbm = s.hbm ∧
    (s.setBlock b v).hbmPoison = s.hbmPoison ∧ (s.setBlock b v).hbmFrames = s.hbmFrames ∧
    (s.setBlock b v).spareNext = s.spareNext ∧ (s.setBlock b v).cxl = s.cxl ∧
    (s.setBlock b v).cxlPoison = s.cxlPoison ∧ (s.setBlock b v).cxlFrames = s.cxlFrames ∧
    (s.setBlock b v).cxlDrops = s.cxlDrops ∧
    (s.setBlock b v).fabric = s.fabric ∧ (s.setBlock b v).expanders = s.expanders ∧
    (s.setBlock b v).scratch = s.scratch ∧ (s.setBlock b v).scratchPoison = s.scratchPoison ∧
    (s.setBlock b v).hostMem = s.hostMem ∧ (s.setBlock b v).flows = s.flows ∧
    (s.setBlock b v).ethPorts = s.ethPorts ∧ (s.setBlock b v).nicGen = s.nicGen ∧
    (s.setBlock b v).nicHung = s.nicHung ∧ (s.setBlock b v).portMode = s.portMode ∧ (s.setBlock b v).portPhy = s.portPhy ∧
    (s.setBlock b v).loopback = s.loopback ∧ (s.setBlock b v).admitHeld = s.admitHeld ∧
    (s.setBlock b v).colls = s.colls ∧ (s.setBlock b v).upds = s.upds ∧ (s.setBlock b v).molts = s.molts ∧
    (s.setBlock b v).loads = s.loads ∧ (s.setBlock b v).loadDigests = s.loadDigests ∧
    (s.setBlock b v).ckpts = s.ckpts ∧ (s.setBlock b v).sup = s.sup := by
  and_intros <;> rfl

@[simp] theorem State.setPll_rest (s : State) (i : PllId) (v : Pll) :
    (s.setPll i v).pending = s.pending ∧ (s.setPll i v).out = s.out ∧ (s.setPll i v).freeCtr = s.freeCtr ∧
    (s.setPll i v).time = s.time ∧ (s.setPll i v).pins = s.pins ∧ (s.setPll i v).phys = s.phys ∧
    (s.setPll i v).fuses = s.fuses ∧ (s.setPll i v).boot = s.boot ∧ (s.setPll i v).flash = s.flash ∧
    (s.setPll i v).persist = s.persist ∧ (s.setPll i v).resets = s.resets ∧ (s.setPll i v).resetRec = s.resetRec ∧
    (s.setPll i v).resetLog = s.resetLog ∧ (s.setPll i v).ports = s.ports ∧ (s.setPll i v).fns = s.fns ∧
    (s.setPll i v).parts = s.parts ∧ (s.setPll i v).cores = s.cores ∧ (s.setPll i v).cmds = s.cmds ∧
    (s.setPll i v).waiting = s.waiting ∧ (s.setPll i v).decided = s.decided ∧
    (s.setPll i v).decidedUs = s.decidedUs ∧ (s.setPll i v).nextId = s.nextId ∧ (s.setPll i v).dict = s.dict ∧
    (s.setPll i v).hbm = s.hbm ∧ (s.setPll i v).hbmPoison = s.hbmPoison ∧ (s.setPll i v).hbmFrames = s.hbmFrames ∧
    (s.setPll i v).spareNext = s.spareNext ∧ (s.setPll i v).cxl = s.cxl ∧ (s.setPll i v).cxlPoison = s.cxlPoison ∧
    (s.setPll i v).cxlFrames = s.cxlFrames ∧ (s.setPll i v).cxlDrops = s.cxlDrops ∧ (s.setPll i v).fabric = s.fabric ∧
    (s.setPll i v).expanders = s.expanders ∧ (s.setPll i v).scratch = s.scratch ∧
    (s.setPll i v).scratchPoison = s.scratchPoison ∧ (s.setPll i v).hostMem = s.hostMem ∧
    (s.setPll i v).flows = s.flows ∧ (s.setPll i v).ethPorts = s.ethPorts ∧ (s.setPll i v).nicGen = s.nicGen ∧
    (s.setPll i v).nicHung = s.nicHung ∧ (s.setPll i v).portMode = s.portMode ∧ (s.setPll i v).portPhy = s.portPhy ∧
    (s.setPll i v).loopback = s.loopback ∧ (s.setPll i v).admitHeld = s.admitHeld ∧ (s.setPll i v).colls = s.colls ∧
    (s.setPll i v).upds = s.upds ∧ (s.setPll i v).molts = s.molts ∧ (s.setPll i v).loads = s.loads ∧
    (s.setPll i v).loadDigests = s.loadDigests ∧ (s.setPll i v).ckpts = s.ckpts ∧ (s.setPll i v).sup = s.sup := by
  and_intros <;> rfl

@[simp] theorem State.setCmd_rest (s : State) (c : Cmd) :
    (s.setCmd c).pending = s.pending ∧ (s.setCmd c).out = s.out ∧ (s.setCmd c).freeCtr = s.freeCtr ∧
    (s.setCmd c).time = s.time ∧ (s.setCmd c).power = s.power ∧ (s.setCmd c).pins = s.pins ∧
    (s.setCmd c).phys = s.phys ∧ (s.setCmd c).fuses = s.fuses ∧ (s.setCmd c).boot = s.boot ∧
    (s.setCmd c).flash = s.flash ∧ (s.setCmd c).persist = s.persist ∧ (s.setCmd c).resets = s.resets ∧
    (s.setCmd c).resetRec = s.resetRec ∧ (s.setCmd c).resetLog = s.resetLog ∧ (s.setCmd c).ports = s.ports ∧
    (s.setCmd c).fns = s.fns ∧ (s.setCmd c).parts = s.parts ∧ (s.setCmd c).cores = s.cores ∧
    (s.setCmd c).waiting = s.waiting ∧ (s.setCmd c).decided = s.decided ∧ (s.setCmd c).decidedUs = s.decidedUs ∧
    (s.setCmd c).nextId = s.nextId ∧ (s.setCmd c).dict = s.dict ∧ (s.setCmd c).hbm = s.hbm ∧
    (s.setCmd c).hbmPoison = s.hbmPoison ∧ (s.setCmd c).hbmFrames = s.hbmFrames ∧
    (s.setCmd c).spareNext = s.spareNext ∧ (s.setCmd c).cxl = s.cxl ∧ (s.setCmd c).cxlPoison = s.cxlPoison ∧
    (s.setCmd c).cxlFrames = s.cxlFrames ∧ (s.setCmd c).cxlDrops = s.cxlDrops ∧ (s.setCmd c).fabric = s.fabric ∧
    (s.setCmd c).expanders = s.expanders ∧ (s.setCmd c).scratch = s.scratch ∧
    (s.setCmd c).scratchPoison = s.scratchPoison ∧ (s.setCmd c).hostMem = s.hostMem ∧
    (s.setCmd c).flows = s.flows ∧ (s.setCmd c).ethPorts = s.ethPorts ∧ (s.setCmd c).nicGen = s.nicGen ∧
    (s.setCmd c).nicHung = s.nicHung ∧ (s.setCmd c).portMode = s.portMode ∧ (s.setCmd c).portPhy = s.portPhy ∧
    (s.setCmd c).loopback = s.loopback ∧ (s.setCmd c).admitHeld = s.admitHeld ∧ (s.setCmd c).colls = s.colls ∧
    (s.setCmd c).upds = s.upds ∧ (s.setCmd c).molts = s.molts ∧ (s.setCmd c).loads = s.loads ∧
    (s.setCmd c).loadDigests = s.loadDigests ∧ (s.setCmd c).ckpts = s.ckpts ∧ (s.setCmd c).sup = s.sup := by
  and_intros <;> rfl

@[simp] theorem State.dictSet_rest (s : State) (key v : Nat) :
    (s.dictSet key v).pending = s.pending ∧ (s.dictSet key v).out = s.out ∧ (s.dictSet key v).freeCtr = s.freeCtr ∧
    (s.dictSet key v).time = s.time ∧ (s.dictSet key v).power = s.power ∧ (s.dictSet key v).pins = s.pins ∧
    (s.dictSet key v).phys = s.phys ∧ (s.dictSet key v).fuses = s.fuses ∧ (s.dictSet key v).boot = s.boot ∧
    (s.dictSet key v).flash = s.flash ∧ (s.dictSet key v).persist = s.persist ∧
    (s.dictSet key v).resets = s.resets ∧ (s.dictSet key v).resetRec = s.resetRec ∧
    (s.dictSet key v).resetLog = s.resetLog ∧ (s.dictSet key v).ports = s.ports ∧ (s.dictSet key v).fns = s.fns ∧
    (s.dictSet key v).parts = s.parts ∧ (s.dictSet key v).cores = s.cores ∧ (s.dictSet key v).cmds = s.cmds ∧
    (s.dictSet key v).waiting = s.waiting ∧ (s.dictSet key v).decided = s.decided ∧
    (s.dictSet key v).decidedUs = s.decidedUs ∧ (s.dictSet key v).nextId = s.nextId ∧
    (s.dictSet key v).hbm = s.hbm ∧ (s.dictSet key v).hbmPoison = s.hbmPoison ∧
    (s.dictSet key v).hbmFrames = s.hbmFrames ∧ (s.dictSet key v).spareNext = s.spareNext ∧
    (s.dictSet key v).cxl = s.cxl ∧ (s.dictSet key v).cxlPoison = s.cxlPoison ∧
    (s.dictSet key v).cxlFrames = s.cxlFrames ∧ (s.dictSet key v).cxlDrops = s.cxlDrops ∧
    (s.dictSet key v).fabric = s.fabric ∧
    (s.dictSet key v).expanders = s.expanders ∧ (s.dictSet key v).scratch = s.scratch ∧
    (s.dictSet key v).scratchPoison = s.scratchPoison ∧ (s.dictSet key v).hostMem = s.hostMem ∧
    (s.dictSet key v).flows = s.flows ∧ (s.dictSet key v).ethPorts = s.ethPorts ∧
    (s.dictSet key v).nicGen = s.nicGen ∧ (s.dictSet key v).nicHung = s.nicHung ∧
    (s.dictSet key v).portMode = s.portMode ∧ (s.dictSet key v).portPhy = s.portPhy ∧
    (s.dictSet key v).loopback = s.loopback ∧ (s.dictSet key v).admitHeld = s.admitHeld ∧ (s.dictSet key v).colls = s.colls ∧ (s.dictSet key v).upds = s.upds ∧
    (s.dictSet key v).molts = s.molts ∧ (s.dictSet key v).loads = s.loads ∧
    (s.dictSet key v).loadDigests = s.loadDigests ∧ (s.dictSet key v).ckpts = s.ckpts ∧
    (s.dictSet key v).sup = s.sup := by
  and_intros <;> rfl

@[simp] theorem State.port_setPort (s : State) (p : Nat) (v : Port) : (s.setPort p v).port p = v := tabGet_set_same ..

theorem State.port_setPort_other (s : State) {p q : Nat} (v : Port) (h : q ≠ p) : (s.setPort p v).port q = s.port q :=
  tabGet_set_other _ _ _ h

@[simp] theorem State.fn_setFn (s : State) (p : Nat) (v : Fn) : (s.setFn p v).fn p = v := tabGet_set_same ..

theorem State.fn_setFn_other (s : State) {p q : Nat} (v : Fn) (h : q ≠ p) : (s.setFn p v).fn q = s.fn q :=
  tabGet_set_other _ _ _ h

@[simp] theorem State.part_setPart (s : State) (p : Nat) (v : Part) : (s.setPart p v).part p = v := tabGet_set_same ..

theorem State.part_setPart_other (s : State) {p q : Nat} (v : Part) (h : q ≠ p) : (s.setPart p v).part q = s.part q :=
  tabGet_set_other _ _ _ h

@[simp] theorem State.core_setCore (s : State) (p : Nat) (v : Core) : (s.setCore p v).core p = v := tabGet_set_same ..

theorem State.core_setCore_other (s : State) {p q : Nat} (v : Core) (h : q ≠ p) : (s.setCore p v).core q = s.core q :=
  tabGet_set_other _ _ _ h

@[simp] theorem State.flow_setFlow (s : State) (p : Nat) (v : Flow) : (s.setFlow p v).flow p = v := tabGet_set_same ..

theorem State.flow_setFlow_other (s : State) {p q : Nat} (v : Flow) (h : q ≠ p) : (s.setFlow p v).flow q = s.flow q :=
  tabGet_set_other _ _ _ h

@[simp] theorem State.eth_setEth (s : State) (p : Nat) (v : EthPort) : (s.setEth p v).eth p = v := tabGet_set_same ..

theorem State.eth_setEth_other (s : State) {p q : Nat} (v : EthPort) (h : q ≠ p) : (s.setEth p v).eth q = s.eth q :=
  tabGet_set_other _ _ _ h

@[simp] theorem State.expander_setExpander (s : State) (p : Nat) (v : Expander) : (s.setExpander p v).expander p = v := tabGet_set_same ..

theorem State.expander_setExpander_other (s : State) {p q : Nat} (v : Expander) (h : q ≠ p) : (s.setExpander p v).expander q = s.expander q :=
  tabGet_set_other _ _ _ h

@[simp] theorem State.block_setBlock (s : State) (p : Nat) (v : Block) : (s.setBlock p v).block p = v := tabGet_set_same ..

theorem State.block_setBlock_other (s : State) {p q : Nat} (v : Block) (h : q ≠ p) : (s.setBlock p v).block q = s.block q :=
  tabGet_set_other _ _ _ h

@[simp] theorem Fn.queue_setQueue (f : Fn) (q : Nat) (v : Queue) : (f.setQueue q v).queue q = v := tabGet_set_same ..

@[simp] theorem Fn.chan_setChan (f : Fn) (c : Nat) (v : Chan) : (f.setChan c v).chan c = v := tabGet_set_same ..

@[simp] theorem Part.token_setToken (p : Part) (t : Nat) (v : Token) : (p.setToken t v).token t = v := tabGet_set_same ..

@[simp] theorem Part.longop_setLongop (p : Part) (h : Nat) (v : LongOp) : (p.setLongop h v).longop h = v := tabGet_set_same ..

@[simp] theorem State.queue_setQueue (s : State) (f q : Nat) (v : Queue) : (s.setQueue f q v).queue f q = v := by
  simp [State.queue, State.setQueue]

@[simp] theorem State.chan_setChan (s : State) (f c : Nat) (v : Chan) : (s.setChan f c v).chan f c = v := by
  simp [State.chan, State.setChan]

@[simp] theorem State.longop_setLongop (s : State) (i h : Nat) (v : LongOp) : (s.setLongop i h v).longop i h = v := by
  simp [State.longop, State.setLongop]

/-- A dictionary value reads as it was last set. -/
@[simp] theorem State.dictGet_set (s : State) (key v : Nat) : (s.dictSet key v).dictGet key = v := by
  unfold State.dictGet State.dictSet
  dsimp only
  split
  · rename_i h; simp [h]
  · simp

/-- A counter raised by n reads n more. -/
theorem State.dictGet_count (s : State) (index sub n : Nat) :
    (s.count index sub n).dictGet (dk index sub) = s.dictGet (dk index sub) + n := by
  unfold State.count
  split
  · rename_i h; simp [h]
  · simp

end Sys2Proof.Machine
end

