-- ==== Sys2Proof/Laws/Cmd.lean ====
section
/-!
SUPPORT. What starting, changing and ending a command do: the command that is found again, and the fields that stay.
-/
namespace Sys2Proof.Machine

open Sys2Proof Sys2Proof.Safety

/-- The command found under a number has that number. -/
theorem State.cmd_id {s : State} {id : Nat} {c : Cmd} (h : s.cmd id = some c) : c.id = id := by
  have := List.find?_some h
  simpa using this

/-- A command replaced is the one found under its number. -/
theorem State.cmd_setCmd {s : State} {c d : Cmd} (h : s.cmd c.id = some d) : (s.setCmd c).cmd c.id = some c := by
  unfold State.cmd State.setCmd at *
  dsimp only
  revert h
  generalize s.cmds = l
  induction l with
  | nil => simp
  | cons a l ih =>
    by_cases e : a.id = c.id
    · simp [e]
    · have h' : (a.id == c.id) = false := by simpa using e
      simp only [List.map_cons, List.find?_cons, h', Bool.false_eq_true, if_false]
      exact ih

/-- Every other command stays as it was. -/
theorem State.cmd_setCmd_other {s : State} {c : Cmd} {id : Nat} (h : id ≠ c.id) : (s.setCmd c).cmd id = s.cmd id := by
  unfold State.cmd State.setCmd
  dsimp only
  generalize s.cmds = l
  induction l with
  | nil => rfl
  | cons a l ih =>
    simp only [List.map_cons, List.find?_cons]
    by_cases e : a.id = c.id
    · have h1 : (c.id == id) = false := by simpa using fun x => h x.symm
      simp only [e, beq_self_eq_true, if_true, h1]
      exact ih
    · have h' : (a.id == c.id) = false := by simpa using e
      simp only [h', Bool.false_eq_true, if_false]
      rw [ih]

/-- A command begun. -/
def Cmd.begun (c : Cmd) (now epoch : Nat) (t : Tables) : Cmd :=
  { c with phase := .running, started := now, resumed := now, startEpoch := epoch, tables := t }

/-- Work that reaches blocks changes the power state alone. -/
theorem State.workReaches_rest (s : State) (bs : List Nat) : s.workReaches bs = { s with power := (s.workReaches bs).power } := by
  unfold State.workReaches
  induction bs generalizing s with
  | nil => rfl
  | cons b bs ih =>
    rw [List.foldl_cons, ih]
    split <;> rfl

theorem State.workReaches_cmd (s : State) (bs : List Nat) (id : Nat) : (s.workReaches bs).cmd id = s.cmd id := by
  rw [State.workReaches_rest]
  rfl

theorem State.beginCmd_cmd {s : State} {id : Nat} {c : Cmd} (h : s.cmd id = some c) :
    (s.beginCmd c).cmd id = some (c.begun s.time (s.part c.slot).epoch (s.tablesOf c.slot)) := by
  have e := State.cmd_id h
  subst e
  exact State.cmd_setCmd (c := c.begun s.time (s.part c.slot).epoch (s.tablesOf c.slot)) (d := c) ((State.workReaches_cmd ..).trans h)

theorem State.beginCmd_rest (s : State) (c : Cmd) :
    s.beginCmd c = { s with cmds := (s.beginCmd c).cmds, power := (s.beginCmd c).power } := by
  have h := State.workReaches_rest s (s.pendingBlocks c)
  unfold State.beginCmd State.setCmd
  rw [h]

/-- A command that is ready starts and does its work. -/
theorem State.startOp_ready {s : State} {id op : Nat} {c : Cmd} (h : ready s id op c) (f : Cmd → State → State) :
    s.startOp id op f = f c (s.beginCmd c) := by
  unfold State.startOp
  rw [h.1]
  simp [h.2.1, h.2.2]

theorem State.endCmd_rest (s : State) (id st d : Nat) : s.endCmd id st d = { s with cmds := (s.endCmd id st d).cmds } := by
  unfold State.endCmd
  split
  · rfl
  · split <;> rfl

/-- A command that has not ended ends with the status given. -/
theorem State.endCmd_cmd {s : State} {id : Nat} {c : Cmd} (st d : Nat) (h : s.cmd id = some c) (n : ∀ a b, c.phase ≠ .ended a b) :
    (s.endCmd id st d).cmd id =
      some { c with phase := .ended st d, ranUs := c.ranUs + (if c.phase = .running then s.time - c.resumed else 0) } := by
  have e := State.cmd_id h
  subst e
  unfold State.endCmd
  rw [h]
  dsimp only
  split
  · rename_i a b e; exact absurd e (n a b)
  · exact State.cmd_setCmd (c := { c with phase := .ended st d, ranUs := c.ranUs + (if c.phase = .running then s.time - c.resumed else 0) }) h

theorem State.endCmd_ends {s : State} {id : Nat} {c : Cmd} (st d : Nat) (h : s.cmd id = some c) (n : ∀ a b, c.phase ≠ .ended a b) :
    endedAs (s.endCmd id st d) id st d := ⟨_, State.endCmd_cmd st d h n, rfl⟩

theorem State.endCmd_other {s : State} {id k : Nat} (st d : Nat) (h : k ≠ id) : (s.endCmd id st d).cmd k = s.cmd k := by
  unfold State.endCmd
  split
  · rfl
  · rename_i c hc
    have e := State.cmd_id hc
    split
    · rfl
    · exact State.cmd_setCmd_other (by simpa [e] using h)

/-- A clean command ends OK. -/
theorem State.finishCmd_clean {s : State} {id : Nat} {c : Cmd} (d : Nat) (h : s.cmd id = some c) (k : clean c) :
    s.finishCmd id d = s.endCmd id 0 d := by
  unfold State.finishCmd
  rw [h]
  simp [k.1, k.2]

theorem State.finishCmd_rest (s : State) (id d : Nat) : s.finishCmd id d = { s with cmds := (s.finishCmd id d).cmds } := by
  unfold State.finishCmd
  split
  · rfl
  · split
    · exact State.endCmd_rest ..
    · exact State.endCmd_rest ..
    · exact State.endCmd_rest ..

/-- A change that leaves every command its number is a change of the command found. -/
theorem find_map (l : List Cmd) (id : Nat) (f : Cmd → Cmd) (hf : ∀ d, (f d).id = d.id) :
    (l.map f).find? (fun d => d.id == id) = (l.find? fun d => d.id == id).map f := by
  induction l with
  | nil => rfl
  | cons a l ih =>
    simp only [List.map_cons, List.find?_cons, hf]
    cases a.id == id
    · exact ih
    · rfl

/-- What noting waits makes of one command. -/
def State.noted (s : State) (slot : Nat) (c : Cmd) : Cmd :=
  if c.slot = slot ∧ c.phase = .waiting then
    match s.failedWait slot c.record with
    | some j => { s.noteCmd c with phase := .ended 0x0204 j }
    | none => s.noteCmd c
  else c

theorem State.noteWaits_cmd (s : State) (slot id : Nat) : (s.noteWaits slot).cmd id = (s.cmd id).map (s.noted slot) := by
  refine find_map s.cmds id (s.noted slot) fun d => ?_
  unfold State.noted
  split
  · split <;> rfl
  · rfl

/-- Waits noted leave a command that has started or ended as it was. -/
theorem State.noteWaits_started {s : State} {slot id : Nat} {c : Cmd} (h : s.cmd id = some c) (n : c.phase ≠ .waiting) :
    (s.noteWaits slot).cmd id = some c := by
  rw [State.noteWaits_cmd, h]
  simp [State.noted, n]

theorem State.noteWaits_rest (s : State) (slot : Nat) : s.noteWaits slot = { s with cmds := (s.noteWaits slot).cmds } := rfl

end Sys2Proof.Machine
end

