-- ==== Sys2Proof/Laws/Event.lean ====
section
/-!
SUPPORT. What an interrupt, an event and a completion of a command can change: everything they can do, said once.
-/
namespace Sys2Proof.Machine

open Sys2Proof

/-- t differs from s at most in what tells a host: messages sent, a function's records and rings, bytes in host memory. -/
def Tells (s t : State) : Prop := ∃ o f h, t = { s with out := o, fns := f, hostMem := h }

theorem Tells.refl (s : State) : Tells s s := ⟨s.out, s.fns, s.hostMem, rfl⟩

theorem Tells.trans {s t u : State} (h : Tells s t) (k : Tells t u) : Tells s u := by
  obtain ⟨o, f, m, rfl⟩ := h
  obtain ⟨o', f', m', rfl⟩ := k
  exact ⟨o', f', m', rfl⟩

theorem Tells.fold {α : Type} (f : State → α → State) (l : List α) (s : State) (h : ∀ x a, Tells x (f x a)) : Tells s (l.foldl f s) := by
  induction l generalizing s with
  | nil => exact .refl s
  | cons a l ih => exact (h s a).trans (ih _)

theorem Tells.setFn (s : State) (f : Nat) (v : Fn) : Tells s (s.setFn f v) := ⟨s.out, _, s.hostMem, rfl⟩

theorem State.interrupt_tells (s : State) (f v : Nat) : Tells s (s.interrupt f v) := by
  unfold State.interrupt
  dsimp only
  split
  · exact Tells.setFn ..
  · split
    · exact .refl s
    · split
      · exact Tells.setFn ..
      · exact ⟨_, s.fns, s.hostMem, rfl⟩

theorem State.ringWrite_tells (s : State) (f code detail time : Nat) : Tells s (s.ringWrite f code detail time) := by
  unfold State.ringWrite
  dsimp only
  split
  · exact Tells.setFn ..
  · split
    · split
      · exact Tells.trans ⟨s.out, _, _, rfl⟩ (State.interrupt_tells ..)
      · exact ⟨s.out, _, _, rfl⟩
    · exact Tells.setFn ..

theorem State.eventTo_tells (s : State) (code detail f : Nat) : Tells s (s.eventTo code detail f) := by
  unfold State.eventTo
  split
  · exact .refl s
  · split
    · exact Tells.setFn ..
    · exact State.ringWrite_tells ..

/-- An event changes at most ALERT_PENDING and what tells the hosts. -/
theorem State.event_form (s : State) (code detail : Nat) (l : List Nat) :
    ∃ v t, (t = s ∨ t = s.dictSet (dk 0x8030 2) v) ∧ Tells t (s.event code detail l) := by
  have h : ∃ v, s.alert code = s ∨ s.alert code = s.dictSet (dk 0x8030 2) v := by
    unfold State.alert
    dsimp only
    split
    · exact ⟨_, .inr rfl⟩
    · exact ⟨0, .inl rfl⟩
  obtain ⟨v, h⟩ := h
  exact ⟨v, s.alert code, h, Tells.fold _ _ _ fun x a => State.eventTo_tells x code detail a⟩

/-- The fields an event leaves. -/
theorem State.event_rest (s : State) (code detail : Nat) (l : List Nat) :
    ∃ o f h d, s.event code detail l = { s with out := o, fns := f, hostMem := h, dict := d } := by
  obtain ⟨v, t, h, o, f, m, e⟩ := State.event_form s code detail l
  rcases h with rfl | rfl
  · exact ⟨o, f, m, t.dict, e⟩
  · exact ⟨o, f, m, (s.dictSet (dk 0x8030 2) v).dict, e⟩

/-- Every dictionary value but ALERT_PENDING reads as before an event. -/
theorem State.event_dict (s : State) (code detail : Nat) (l : List Nat) (key : Nat) (h : key ≠ dk 0x8030 2) :
    (s.event code detail l).dictGet key = s.dictGet key := by
  obtain ⟨v, t, ht, o, f, m, e⟩ := State.event_form s code detail l
  have hd : (s.event code detail l).dict = t.dict := by rw [e]
  rcases ht with rfl | rfl
  · simp only [State.dictGet, hd]
  · unfold State.dictGet
    rw [hd]
    unfold State.dictSet
    dsimp only
    split
    · rw [tabFind_del_other _ h]
    · rw [tabFind_put_other _ _ h]

/-- Setting one dictionary value leaves every other. -/
theorem State.dictGet_set_other (s : State) {key k : Nat} (v : Nat) (h : k ≠ key) : (s.dictSet key v).dictGet k = s.dictGet k := by
  unfold State.dictGet State.dictSet
  dsimp only
  split
  · rw [tabFind_del_other _ h]
  · rw [tabFind_put_other _ _ h]

/-- A counter raised changes the dictionary alone. -/
theorem State.count_rest (s : State) (index sub n : Nat) : ∃ d, s.count index sub n = { s with dict := d } := by
  unfold State.count
  split
  · exact ⟨s.dict, rfl⟩
  · exact ⟨_, rfl⟩

theorem State.dictGet_count_other (s : State) {index sub : Nat} (n : Nat) {k : Nat} (h : k ≠ dk index sub) :
    (s.count index sub n).dictGet k = s.dictGet k := by
  unfold State.count
  split
  · rfl
  · exact State.dictGet_set_other s _ h

end Sys2Proof.Machine
end

