-- ==== Sys2Proof/Laws/Keep.lean ====
section
/-!
SUPPORT. What it is for one state to keep the fuses, the command queue and the canonical form of the memories of another,
and how that passes through the forms a meaning is written in.
-/
namespace Sys2Proof.Machine

open Sys2Proof Sys2Proof.Safety

/-- t has the fuses and the waiting commands of s, and memories in canonical form if s has. -/
structure Keeps (s t : State) : Prop where
  fuses : t.fuses = s.fuses
  pending : t.pending = s.pending
  mem : memWf s → memWf t
/-- An outcome that is a next state which keeps the fuses, the queue and the form of the memories. -/
abbrev KeepsOut (s : State) (o : Host.Outcome State Fault Refusal) : Prop := ∃ t, o = .next t ∧ Keeps s t
theorem Keeps.refl (s : State) : Keeps s s := ⟨rfl, rfl, id⟩
theorem Keeps.trans {s t u : State} (h : Keeps s t) (k : Keeps t u) : Keeps s u := ⟨k.1.trans h.1, k.2.trans h.2, k.3 ∘ h.3⟩
theorem keeps_foldl {α : Type} (f : State → α → State) (l : List α) (s : State) (h : ∀ x a, Keeps x (f x a)) : Keeps s (l.foldl f s) := by
  induction l generalizing s with
  | nil => exact .refl s
  | cons a l ih => exact (h s a).trans (ih _)
theorem keeps_when (s : State) (b : Bool) (t : State) (h : Keeps s t) : KeepsOut s (when s b t) := by
  cases b
  · exact ⟨s, rfl, .refl s⟩
  · exact ⟨t, rfl, h⟩
theorem keeps_issueVec (s : State) (c op : Nat) (f : Vop → State) (h : ∀ u, Keeps s (f u)) : KeepsOut s (s.issueVec c op f) := by
  unfold State.issueVec
  split
  · exact ⟨s, rfl, .refl s⟩
  · exact ⟨_, rfl, h _⟩
theorem keeps_issueUop (s : State) (c b op : Nat) (f : Uop → State) (h : ∀ u, Keeps s (f u)) : KeepsOut s (s.issueUop c b op f) := by
  unfold State.issueUop
  split
  · exact ⟨s, rfl, .refl s⟩
  · exact ⟨_, rfl, h _⟩

theorem keeps_mk {s x : State} (a2 : List Out) (a3 : Nat) (a4 : Nat) (a5 : Power) (a6 : Pins) (a7 : Phys) (a9 : Boot) (a11 : Tab Nat) (a12 : List ResetRun) (a13 : ResetRec) (a14 : List ResetRec) (a15 : Tab Port) (a16 : Tab Fn) (a17 : Tab Part) (a18 : Tab Core) (a19 : List Cmd) (a20 : List Waiting) (a21 : Nat) (a22 : Nat) (a23 : Option Bool) (a24 : Nat) (a25 : Tab Nat) (a27 : Tab Bool) (a28 : Tab Frame) (a29 : Nat) (a31 : Tab Bool) (a32 : Tab Frame) (a33 : Nat) (a34 : Fabric) (a35 : Tab Expander) (a37 : Tab Bool) (a39 : Tab Flow) (a40 : Tab EthPort) (a41 : Nat) (a42 : Bool) (a43 : Nat) (a44 : Tab Nat) (a45 : List SilkPkt) (a46 : List Coll) (a47 : List Upd) (a48 : List Molt) (a49 : Tab (List LoadEntry)) (a50 : Tab (List (BitVec 256))) (a51 : Tab (List CkptRange)) (a52 : Sup) (h : Keeps s x) : Keeps s (State.mk x.pending a2 a3 a4 a5 a6 a7 x.fuses a9 x.flash a11 a12 a13 a14 a15 a16 a17 a18 a19 a20 a21 a22 a23 a24 a25 x.hbm a27 a28 a29 x.cxl a31 a32 a33 a34 a35 x.scratch a37 x.hostMem a39 a40 a41 a42 a43 a44 a45 a46 a47 a48 a49 a50 a51 a52) := ⟨h.1, h.2, h.3⟩
theorem keeps_mkFlash {s x : State} (a2 : List Out) (a3 : Nat) (a4 : Nat) (a5 : Power) (a6 : Pins) (a7 : Phys) (a9 : Boot) (a11 : Tab Nat) (a12 : List ResetRun) (a13 : ResetRec) (a14 : List ResetRec) (a15 : Tab Port) (a16 : Tab Fn) (a17 : Tab Part) (a18 : Tab Core) (a19 : List Cmd) (a20 : List Waiting) (a21 : Nat) (a22 : Nat) (a23 : Option Bool) (a24 : Nat) (a25 : Tab Nat) (a27 : Tab Bool) (a28 : Tab Frame) (a29 : Nat) (a31 : Tab Bool) (a32 : Tab Frame) (a33 : Nat) (a34 : Fabric) (a35 : Tab Expander) (a37 : Tab Bool) (a39 : Tab Flow) (a40 : Tab EthPort) (a41 : Nat) (a42 : Bool) (a43 : Nat) (a44 : Tab Nat) (a45 : List SilkPkt) (a46 : List Coll) (a47 : List Upd) (a48 : List Molt) (a49 : Tab (List LoadEntry)) (a50 : Tab (List (BitVec 256))) (a51 : Tab (List CkptRange)) (a52 : Sup) (z : Mem) (hz : tabWf 0xFF x.flash = true → tabWf 0xFF z = true) (h : Keeps s x) : Keeps s (State.mk x.pending a2 a3 a4 a5 a6 a7 x.fuses a9 z a11 a12 a13 a14 a15 a16 a17 a18 a19 a20 a21 a22 a23 a24 a25 x.hbm a27 a28 a29 x.cxl a31 a32 a33 a34 a35 x.scratch a37 x.hostMem a39 a40 a41 a42 a43 a44 a45 a46 a47 a48 a49 a50 a51 a52) := ⟨h.1, h.2, fun w => ⟨(h.3 w).1, (h.3 w).2.1, (h.3 w).2.2.1, (h.3 w).2.2.2.1, hz (h.3 w).2.2.2.2⟩⟩
theorem keeps_mkScratch {s x : State} (a2 : List Out) (a3 : Nat) (a4 : Nat) (a5 : Power) (a6 : Pins) (a7 : Phys) (a9 : Boot) (a11 : Tab Nat) (a12 : List ResetRun) (a13 : ResetRec) (a14 : List ResetRec) (a15 : Tab Port) (a16 : Tab Fn) (a17 : Tab Part) (a18 : Tab Core) (a19 : List Cmd) (a20 : List Waiting) (a21 : Nat) (a22 : Nat) (a23 : Option Bool) (a24 : Nat) (a25 : Tab Nat) (a27 : Tab Bool) (a28 : Tab Frame) (a29 : Nat) (a31 : Tab Bool) (a32 : Tab Frame) (a33 : Nat) (a34 : Fabric) (a35 : Tab Expander) (a37 : Tab Bool) (a39 : Tab Flow) (a40 : Tab EthPort) (a41 : Nat) (a42 : Bool) (a43 : Nat) (a44 : Tab Nat) (a45 : List SilkPkt) (a46 : List Coll) (a47 : List Upd) (a48 : List Molt) (a49 : Tab (List LoadEntry)) (a50 : Tab (List (BitVec 256))) (a51 : Tab (List CkptRange)) (a52 : Sup) (z : Mem) (hz : tabWf 0 x.scratch = true → tabWf 0 z = true) (h : Keeps s x) : Keeps s (State.mk x.pending a2 a3 a4 a5 a6 a7 x.fuses a9 x.flash a11 a12 a13 a14 a15 a16 a17 a18 a19 a20 a21 a22 a23 a24 a25 x.hbm a27 a28 a29 x.cxl a31 a32 a33 a34 a35 z a37 x.hostMem a39 a40 a41 a42 a43 a44 a45 a46 a47 a48 a49 a50 a51 a52) := ⟨h.1, h.2, fun w => ⟨(h.3 w).1, (h.3 w).2.1, hz (h.3 w).2.2.1, (h.3 w).2.2.2⟩⟩
theorem keeps_mkNoHbm {s x : State} (a2 : List Out) (a3 : Nat) (a4 : Nat) (a5 : Power) (a6 : Pins) (a7 : Phys) (a9 : Boot) (a11 : Tab Nat) (a12 : List ResetRun) (a13 : ResetRec) (a14 : List ResetRec) (a15 : Tab Port) (a16 : Tab Fn) (a17 : Tab Part) (a18 : Tab Core) (a19 : List Cmd) (a20 : List Waiting) (a21 : Nat) (a22 : Nat) (a23 : Option Bool) (a24 : Nat) (a25 : Tab Nat) (a27 : Tab Bool) (a28 : Tab Frame) (a29 : Nat) (a31 : Tab Bool) (a32 : Tab Frame) (a33 : Nat) (a34 : Fabric) (a35 : Tab Expander) (a37 : Tab Bool) (a39 : Tab Flow) (a40 : Tab EthPort) (a41 : Nat) (a42 : Bool) (a43 : Nat) (a44 : Tab Nat) (a45 : List SilkPkt) (a46 : List Coll) (a47 : List Upd) (a48 : List Molt) (a49 : Tab (List LoadEntry)) (a50 : Tab (List (BitVec 256))) (a51 : Tab (List CkptRange)) (a52 : Sup) (h : Keeps s x) : Keeps s (State.mk x.pending a2 a3 a4 a5 a6 a7 x.fuses a9 x.flash a11 a12 a13 a14 a15 a16 a17 a18 a19 a20 a21 a22 a23 a24 a25 [] a27 a28 a29 x.cxl a31 a32 a33 a34 a35 x.scratch a37 x.hostMem a39 a40 a41 a42 a43 a44 a45 a46 a47 a48 a49 a50 a51 a52) := ⟨h.1, h.2, fun w => ⟨rfl, (h.3 w).2⟩⟩
theorem keeps_ite {s x y : State} {p : Prop} [Decidable p] (h : Keeps s x) (k : Keeps s y) : Keeps s (if p then x else y) := by split <;> assumption
theorem keeps_dite {s : State} {p : Prop} [Decidable p] {f : p → State} {g : ¬p → State} (h : ∀ z, Keeps s (f z)) (k : ∀ z, Keeps s (g z)) : Keeps s (dite p f g) := by 
  by_cases z : p
  · rw [dif_pos z]; exact h z
  · rw [dif_neg z]; exact k z
theorem keeps_cond {s x y : State} {b : Bool} (h : Keeps s x) (k : Keeps s y) : Keeps s (bif b then x else y) := by cases b <;> assumption
theorem keeps_fold {α : Type} {s i : State} {f : State → α → State} {l : List α} (hi : Keeps s i) (h : ∀ x a, Keeps x (f x a)) : Keeps s (l.foldl f i) := hi.trans (keeps_foldl f l i h)
theorem keeps_fold2 {α β : Type} {s : State} {i : State × β} {f : State × β → α → State × β} {l : List α} (hi : Keeps s i.1) (h : ∀ x a, Keeps x.1 (f x a).1) : Keeps s (l.foldl f i).1 := by
  induction l generalizing i with
  | nil => exact hi
  | cons a l ih => exact ih (hi.trans (h i a))
theorem keepsOut_next {s t : State} (h : Keeps s t) : KeepsOut s (.next t) := ⟨t, rfl, h⟩
theorem keepsOut_when {s t : State} {b : Bool} (h : Keeps s t) : KeepsOut s (when s b t) := keeps_when s b t h
theorem keepsOut_ite {s : State} {x y : Host.Outcome State Fault Refusal} {p : Prop} [Decidable p] (h : KeepsOut s x) (k : KeepsOut s y) : KeepsOut s (if p then x else y) := by split <;> assumption
theorem keepsOut_trans {s x : State} {o : Host.Outcome State Fault Refusal} (h : Keeps s x) (k : KeepsOut x o) : KeepsOut s o := by
  obtain ⟨t, e, kt⟩ := k
  exact ⟨t, e, h.trans kt⟩

theorem Keeps.after {s t u : State} (k : Keeps t u) (h : Keeps s t) : Keeps s u := h.trans k
theorem keeps_fst {α : Type} {s a : State} {p : State × α} {b : α} (e : p = (a, b)) (h : Keeps s p.1) : Keeps s a := by rw [e] at h; exact h
theorem keeps_snd {α : Type} {s a : State} {p : α × State} {b : α} (e : p = (b, a)) (h : Keeps s p.2) : Keeps s a := by rw [e] at h; exact h
theorem keeps_trd {α β : Type} {s a : State} {p : α × β × State} {b : α} {c : β} (e : p = (b, c, a)) (h : Keeps s p.2.2) : Keeps s a := by rw [e] at h; exact h
theorem keeps_ite1 {α : Type} {s : State} {x y : State × α} {p : Prop} [Decidable p] (h : Keeps s x.1) (k : Keeps s y.1) : Keeps s (if p then x else y).1 := by split <;> assumption
theorem keeps_ite2 {α : Type} {s : State} {x y : α × State} {p : Prop} [Decidable p] (h : Keeps s x.2) (k : Keeps s y.2) : Keeps s (if p then x else y).2 := by split <;> assumption

end Sys2Proof.Machine
end

