-- ==== Sys2Proof/Laws/KeepMem.lean ====
section
/-!
SUPPORT. Each operation of the shared operations, the regulators, memory, allocation, commands and the flows
keeps the fuses, the command queue and the canonical form of the memories, but those of Laws/Rises.lean, which raise fuses.
-/
namespace Sys2Proof.Machine

open Sys2Proof Sys2Proof.Safety

theorem State.fresh_kept (s : State) : Keeps s (State.fresh s).2 := ⟨rfl, rfl, fun w => w⟩

theorem State.setPort_kept (s : State) (p : Nat) (v : Port) : Keeps s (State.setPort s p v) := ⟨rfl, rfl, fun w => w⟩

theorem State.setFn_kept (s : State) (f : Nat) (v : Fn) : Keeps s (State.setFn s f v) := ⟨rfl, rfl, fun w => w⟩

theorem State.setPart_kept (s : State) (i : Nat) (v : Part) : Keeps s (State.setPart s i v) := ⟨rfl, rfl, fun w => w⟩

theorem State.setCore_kept (s : State) (c : Nat) (v : Core) : Keeps s (State.setCore s c v) := ⟨rfl, rfl, fun w => w⟩

theorem State.setFlow_kept (s : State) (f : Nat) (v : Flow) : Keeps s (State.setFlow s f v) := ⟨rfl, rfl, fun w => w⟩

theorem State.setEth_kept (s : State) (p : Nat) (v : EthPort) : Keeps s (State.setEth s p v) := ⟨rfl, rfl, fun w => w⟩

theorem State.setExpander_kept (s : State) (e : Nat) (v : Expander) : Keeps s (State.setExpander s e v) := ⟨rfl, rfl, fun w => w⟩

theorem State.setQueue_kept (s : State) (f : Nat) (q : Nat) (v : Queue) : Keeps s (State.setQueue s f q v) := ⟨rfl, rfl, fun w => w⟩

theorem State.setChan_kept (s : State) (f : Nat) (c : Nat) (v : Chan) : Keeps s (State.setChan s f c v) := ⟨rfl, rfl, fun w => w⟩

theorem State.setLongop_kept (s : State) (i : Nat) (h : Nat) (v : LongOp) : Keeps s (State.setLongop s i h v) := ⟨rfl, rfl, fun w => w⟩

theorem State.setBlock_kept (s : State) (b : Nat) (v : Block) : Keeps s (State.setBlock s b v) := ⟨rfl, rfl, fun w => w⟩

theorem State.setFrame_kept (s : State) (cxl : Bool) (f : Nat) (v : Frame) : Keeps s (State.setFrame s cxl f v) := by
  unfold State.setFrame
  repeat' (first
    | with_reducible exact Keeps.refl _
    | with_reducible apply keeps_ite
    | fail_if_no_progress (with_reducible apply keeps_mk))

theorem State.setPll_kept (s : State) (i : PllId) (v : Pll) : Keeps s (State.setPll s i v) := ⟨rfl, rfl, fun w => w⟩

theorem State.setCmd_kept (s : State) (c : Cmd) : Keeps s (State.setCmd s c) := ⟨rfl, rfl, fun w => w⟩

theorem State.dictSet_kept (s : State) (key : Nat) (v : Nat) : Keeps s (State.dictSet s key v) := ⟨rfl, rfl, fun w => w⟩

theorem State.count_kept (s : State) (index : Nat) (sub : Nat) (n : Nat) : Keeps s (State.count s index sub n) := by
  unfold State.count
  repeat' (first
    | with_reducible exact Keeps.refl _
    | with_reducible apply Keeps.trans ?_ (State.dictSet_kept ..)
    | with_reducible apply keeps_ite)

theorem State.interrupt_kept (s : State) (f : Nat) (vec : Nat) : Keeps s (State.interrupt s f vec) := by
  unfold State.interrupt
  repeat' (first
    | with_reducible exact Keeps.refl _
    | with_reducible apply Keeps.trans ?_ (State.setFn_kept ..)
    | with_reducible apply keeps_ite
    | fail_if_no_progress (with_reducible apply keeps_mk))

theorem State.hostWrite_kept (s : State) (p : Nat) (addr : Nat) (bs : List Byte) :
    Keeps s (State.hostWrite s p addr bs) :=
  ⟨rfl, rfl, fun w => ⟨w.1, w.2.1, w.2.2.1, memWrite_wf _ _ _ w.2.2.2.1, w.2.2.2.2⟩⟩

theorem State.ringWrite_kept (s : State) (f : Nat) (code : Nat) (detail : Nat) (time : Nat) :
    Keeps s (State.ringWrite s f code detail time) := by
  unfold State.ringWrite
  repeat' (first
    | with_reducible exact Keeps.refl _
    | with_reducible apply Keeps.trans ?_ (State.hostWrite_kept ..)
    | with_reducible apply Keeps.trans ?_ (State.interrupt_kept ..)
    | with_reducible apply Keeps.trans ?_ (State.setFn_kept ..)
    | with_reducible apply keeps_ite)

theorem State.eventTo_kept (s : State) (code : Nat) (detail : Nat) (f : Nat) : Keeps s (State.eventTo s code detail f) := by
  unfold State.eventTo
  repeat' (first
    | with_reducible exact Keeps.refl _
    | with_reducible apply Keeps.trans ?_ (State.ringWrite_kept ..)
    | with_reducible apply Keeps.trans ?_ (State.setFn_kept ..)
    | with_reducible apply keeps_ite)

theorem State.alert_kept (s : State) (code : Nat) : Keeps s (State.alert s code) := by
  unfold State.alert
  repeat' (first
    | with_reducible exact Keeps.refl _
    | with_reducible apply Keeps.trans ?_ (State.dictSet_kept ..)
    | with_reducible apply keeps_ite)

theorem State.event_kept (s : State) (code : Nat) (detail : Nat) (fns : List Nat) :
    Keeps s (State.event s code detail fns) := by
  unfold State.event
  repeat' (first
    | with_reducible exact Keeps.refl _
    | with_reducible apply Keeps.trans ?_ (State.alert_kept ..)
    | with_reducible apply Keeps.trans ?_ (State.eventTo_kept ..)
    | with_reducible apply keeps_fold
    | intro _)

theorem State.noteFaults_kept (s : State) (unit : Nat) (cls : Nat) (n : Nat) : Keeps s (State.noteFaults s unit cls n) := by
  unfold State.noteFaults
  split <;> exact ⟨rfl, rfl, fun w => w⟩

theorem State.noteFault_kept (s : State) (unit : Nat) (cls : Nat) : Keeps s (State.noteFault s unit cls) := State.noteFaults_kept ..

theorem State.noteProgress_kept (s : State) (unit : Nat) (n : Nat) : Keeps s (State.noteProgress s unit n) := ⟨rfl, rfl, fun w => w⟩

theorem State.clearErrs_kept (s : State) (gone : Nat → Bool) : Keeps s (State.clearErrs s gone) := ⟨rfl, rfl, fun w => w⟩

theorem State.tokenRaise_kept (s : State) (i : Nat) (t : Nat) : Keeps s (State.tokenRaise s i t) := ⟨rfl, rfl, fun w => w⟩

theorem State.tokenFail_kept (s : State) (i : Nat) (t : Nat) : Keeps s (State.tokenFail s i t) := ⟨rfl, rfl, fun w => w⟩

theorem State.endCmd_kept (s : State) (id : Nat) (status : Nat) (detail : Nat) :
    Keeps s (State.endCmd s id status detail) := by
  unfold State.endCmd
  repeat' (first
    | with_reducible exact Keeps.refl _
    | with_reducible apply Keeps.trans ?_ (State.setCmd_kept ..)
    | split)

theorem State.finishCmd_kept (s : State) (id : Nat) (detail : Nat) : Keeps s (State.finishCmd s id detail) := by
  unfold State.finishCmd
  repeat' (first
    | with_reducible exact Keeps.refl _
    | with_reducible apply Keeps.trans ?_ (State.endCmd_kept ..)
    | split)

theorem State.notePoison_kept (s : State) (id : Nat) (addr : Nat) : Keeps s (State.notePoison s id addr) := by
  unfold State.notePoison
  repeat' (first
    | with_reducible exact Keeps.refl _
    | with_reducible apply Keeps.trans ?_ (State.setCmd_kept ..)
    | with_reducible apply keeps_ite
    | split)

theorem State.setRegulator_kept (s : State) (i : Nat) (x : Nat) (r : Regulator) : Keeps s (State.setRegulator s i x r) := ⟨rfl, rfl, fun w => w⟩

theorem State.noteServed_kept (s : State) (x : Nat) (n : Nat) (out : Bool) : Keeps s (State.noteServed s x n out) := ⟨rfl, rfl, fun w => w⟩

theorem State.serveFloor_kept (s : State) (i : Nat) (x : Nat) (n : Nat) (out : Bool) :
    Keeps s (State.serveFloor s i x n out) := by
  unfold State.serveFloor
  repeat' (first
    | with_reducible exact Keeps.refl _
    | with_reducible apply Keeps.trans ?_ (State.count_kept ..)
    | with_reducible apply Keeps.trans ?_ (State.setRegulator_kept ..)
    | with_reducible apply Keeps.trans ?_ (State.noteServed_kept ..))

theorem State.serveSpare_kept (s : State) (i : Nat) (x : Nat) (n : Nat) (out : Bool) :
    Keeps s (State.serveSpare s i x n out) := by
  unfold State.serveSpare
  repeat' (first
    | with_reducible exact Keeps.refl _
    | with_reducible apply Keeps.trans ?_ (State.count_kept ..)
    | with_reducible apply Keeps.trans ?_ (State.setRegulator_kept ..)
    | with_reducible apply Keeps.trans ?_ (State.noteServed_kept ..)
    | fail_if_no_progress (with_reducible apply keeps_mk))

theorem State.regServe_kept (s : State) (i : Nat) (x : Nat) (n : Nat) (out : Bool) (turn : Bool) (spareOnly : Bool) :
    ∀ r0, (State.regServe s i x n out turn spareOnly) = some r0 → Keeps s r0 := by
  intro r0 h
  unfold State.regServe at h
  split at h
  · cases h; exact State.serveFloor_kept ..
  · split at h
    · cases h; exact State.serveSpare_kept ..
    · cases h

theorem State.owedFloor_kept (s : State) (i : Nat) (x : Nat) (z4 : Nat) :
    Keeps s (State.owedFloor s i x z4) := by
  fun_induction State.owedFloor s i x z4
  all_goals repeat' (first
    | with_reducible exact Keeps.refl _
    | with_reducible apply Keeps.trans ?_ (State.serveFloor_kept ..)
    | with_reducible apply Keeps.trans ?_ (State.setRegulator_kept ..)
    | with_reducible apply keeps_ite
    | fail_if_no_progress (with_reducible apply keeps_mk)
    | fail_if_no_progress extract_lets
    | split
    | with_reducible refine Keeps.after (by assumption) ?_)

theorem State.drawTokens_kept (s : State) (i : Nat) (x : Nat) (n : Nat) (out : Bool) (floor : Bool) :
    Keeps s (State.drawTokens s i x n out floor) := by
  unfold State.drawTokens
  repeat' (first
    | with_reducible exact Keeps.refl _
    | with_reducible apply Keeps.trans ?_ (State.owedFloor_kept ..)
    | with_reducible apply Keeps.trans ?_ (State.setRegulator_kept ..)
    | with_reducible apply keeps_ite
    | fail_if_no_progress (with_reducible apply keeps_mk)
    | fail_if_no_progress extract_lets)

theorem State.refill_kept (s : State) (i : Nat) (x : Nat) : Keeps s (State.refill s i x) := ⟨rfl, rfl, fun w => w⟩

theorem State.tierMem_wf {s : State} (cxl : Bool) (w : memWf s) : tabWf 0 (s.tierMem cxl) = true := by
  cases cxl
  · exact w.1
  · exact w.2.1

/-- A tier's memory replaced by one in canonical form. -/
theorem State.setTierMem_kept (s : State) (cxl : Bool) (m : Mem) (h : memWf s → tabWf 0 m = true) : Keeps s (State.setTierMem s cxl m) := by
  cases cxl
  · exact ⟨rfl, rfl, fun w => ⟨h w, w.2⟩⟩
  · exact ⟨rfl, rfl, fun w => ⟨w.1, h w, w.2.2⟩⟩

theorem State.zeroTier_kept (s : State) (cxl : Bool) (a n : Nat) : Keeps s (s.setTierMem cxl (memZero (s.tierMem cxl) a n)) :=
  s.setTierMem_kept cxl _ fun w => memZero_wf _ _ _ (tierMem_wf cxl w)
theorem State.writeTier_kept (s : State) (cxl : Bool) (a : Nat) (bs : List Byte) : Keeps s (s.setTierMem cxl (memWrite (s.tierMem cxl) a bs)) :=
  s.setTierMem_kept cxl _ fun w => memWrite_wf _ _ _ (tierMem_wf cxl w)
theorem State.copiedTier_kept (s : State) (cxl : Bool) (dst : Nat) (m : Mem) (src n : Nat) : Keeps s (s.setTierMem cxl (tabCopy 0 (s.tierMem cxl) dst m src n)) :=
  s.setTierMem_kept cxl _ fun w => tabCopy_wf 0 _ _ _ _ _ (tierMem_wf cxl w)
theorem State.filledTier_kept (s : State) (cxl : Bool) (a : Nat) (f : Nat → Byte) (l : List Nat) :
    Keeps s (s.setTierMem cxl (l.foldl (fun m i => memPut m (a + i) (f i)) (s.tierMem cxl))) :=
  s.setTierMem_kept cxl _ fun w => puts_wf _ _ _ _ (tierMem_wf cxl w)

theorem State.setTierPoison_kept (s : State) (cxl : Bool) (t : Tab Bool) : Keeps s (State.setTierPoison s cxl t) := by
  unfold State.setTierPoison
  repeat' (first
    | with_reducible exact Keeps.refl _
    | with_reducible apply keeps_ite
    | fail_if_no_progress (with_reducible apply keeps_mk))

theorem State.setLinePoison_kept (s : State) (cxl : Bool) (dpa : Nat) (b : Bool) :
    Keeps s (State.setLinePoison s cxl dpa b) := by
  unfold State.setLinePoison
  repeat' (first
    | with_reducible exact Keeps.refl _
    | with_reducible apply Keeps.trans ?_ (State.setTierPoison_kept ..))

theorem State.fillFree_kept (s : State) (cxl : Bool) (dpa : Nat) (n : Nat) : Keeps s (State.fillFree s cxl dpa n) := by
  unfold State.fillFree
  repeat' (first
    | with_reducible exact Keeps.refl _
    | with_reducible apply Keeps.trans ?_ (State.zeroTier_kept ..)
    | with_reducible apply Keeps.trans ?_ (State.writeTier_kept ..)
    | with_reducible apply Keeps.trans ?_ (State.copiedTier_kept ..)
    | with_reducible apply Keeps.trans ?_ (State.filledTier_kept ..)
    | fail_if_no_progress (with_reducible apply keeps_mk))

theorem State.copyTier_kept (s : State) (toCxl : Bool) (dst : Nat) (fromCxl : Bool) (src : Nat) (n : Nat) :
    Keeps s (State.copyTier s toCxl dst fromCxl src n) := by
  unfold State.copyTier
  repeat' (first
    | with_reducible exact Keeps.refl _
    | with_reducible apply Keeps.trans ?_ (State.zeroTier_kept ..)
    | with_reducible apply Keeps.trans ?_ (State.writeTier_kept ..)
    | with_reducible apply Keeps.trans ?_ (State.copiedTier_kept ..)
    | with_reducible apply Keeps.trans ?_ (State.filledTier_kept ..)
    | with_reducible apply Keeps.trans ?_ (State.setTierPoison_kept ..))

theorem State.zeroFrame_kept (s : State) (cxl : Bool) (f : Nat) : Keeps s (State.zeroFrame s cxl f) := by
  unfold State.zeroFrame
  repeat' (first
    | with_reducible exact Keeps.refl _
    | with_reducible apply Keeps.trans ?_ (State.zeroTier_kept ..)
    | with_reducible apply Keeps.trans ?_ (State.writeTier_kept ..)
    | with_reducible apply Keeps.trans ?_ (State.copiedTier_kept ..)
    | with_reducible apply Keeps.trans ?_ (State.filledTier_kept ..)
    | with_reducible apply Keeps.trans ?_ (State.setTierPoison_kept ..))

theorem State.charge_kept (s : State) (id : Option Nat) (res : Nat) (n : Nat) (out : Bool) (floor : Bool) :
    Keeps s (State.charge s id res n out floor) := by
  unfold State.charge
  repeat' (first
    | with_reducible exact Keeps.refl _
    | with_reducible apply Keeps.trans ?_ (State.drawTokens_kept ..)
    | with_reducible apply Keeps.trans ?_ (State.setCmd_kept ..)
    | with_reducible apply keeps_ite
    | fail_if_no_progress (with_reducible apply keeps_mk)
    | fail_if_no_progress extract_lets
    | split)

theorem State.reachLine_kept (s : State) (cxl : Bool) (dpa : Nat) :
    Keeps s (State.reachLine s cxl dpa) := by
  unfold State.reachLine
  repeat' (first
    | with_reducible exact Keeps.refl _
    | with_reducible apply Keeps.trans ?_ (State.setBlock_kept ..)
    | with_reducible apply keeps_ite
    | fail_if_no_progress (with_reducible apply keeps_mk)
    | fail_if_no_progress extract_lets
    | split)

theorem State.reachSpans_kept (s : State) (slot : Nat) (z3 : List (Nat × Nat)) :
    Keeps s (State.reachSpans s slot z3) := by
  fun_induction State.reachSpans s slot z3
  all_goals repeat' (first
    | with_reducible exact Keeps.refl _
    | with_reducible apply Keeps.trans ?_ (State.reachLine_kept ..)
    | with_reducible apply keeps_ite
    | fail_if_no_progress (with_reducible apply keeps_mk)
    | split
    | with_reducible refine Keeps.after (by assumption) ?_)

theorem State.chargeRead_kept (s : State) (id : Option Nat) (slot : Nat) (z4 : List (Nat × Nat)) :
    Keeps s (State.chargeRead s id slot z4) := by
  fun_induction State.chargeRead s id slot z4
  all_goals repeat' (first
    | with_reducible exact Keeps.refl _
    | with_reducible apply Keeps.trans ?_ (State.charge_kept ..)
    | with_reducible apply Keeps.trans ?_ (State.reachLine_kept ..)
    | with_reducible apply keeps_ite
    | fail_if_no_progress (with_reducible apply keeps_mk)
    | with_reducible refine Keeps.after (by assumption) ?_)

theorem State.drawSpans_kept (s : State) (slot : Nat) (write : Bool) (z3 : List (Nat × Nat)) :
    Keeps s (State.drawSpans s slot write z3) := by
  fun_induction State.drawSpans s slot write z3
  all_goals repeat' (first
    | with_reducible exact Keeps.refl _
    | with_reducible apply Keeps.trans ?_ (State.drawTokens_kept ..)
    | with_reducible refine Keeps.after (by assumption) ?_)

theorem State.markStale_kept (s : State) (cxl : Bool) (dpa : Nat) (n : Nat) : Keeps s (State.markStale s cxl dpa n) := ⟨rfl, rfl, fun w => w⟩

theorem State.noteDirty_kept (s : State) (slot : Nat) (w : Where) : Keeps s (State.noteDirty s slot w) := by
  unfold State.noteDirty
  repeat' (first
    | with_reducible exact Keeps.refl _
    | with_reducible apply keeps_ite
    | fail_if_no_progress (with_reducible apply keeps_mk))

theorem State.cowLeaf_kept (s : State) (slot : Nat) (copy : Bool) (page : Nat) :
    Keeps s (State.cowLeaf s slot copy page) := by
  unfold State.cowLeaf
  repeat' (first
    | with_reducible exact Keeps.refl _
    | with_reducible apply Keeps.trans ?_ (State.copyTier_kept ..)
    | with_reducible apply Keeps.trans ?_ (State.fillFree_kept ..)
    | with_reducible apply Keeps.trans ?_ (State.setFrame_kept ..)
    | with_reducible apply Keeps.trans ?_ (State.setPart_kept ..)
    | with_reducible apply Keeps.trans ?_ (State.zeroFrame_kept ..)
    | with_reducible apply keeps_ite
    | fail_if_no_progress (with_reducible apply keeps_mk)
    | fail_if_no_progress extract_lets
    | split)

theorem State.cow_kept (s : State) (id : Option Nat) (slot : Nat) (w : Where) (whole : Bool) :
    Keeps s (State.cow s id slot w whole) := by
  unfold State.cow
  repeat' (first
    | with_reducible exact Keeps.refl _
    | with_reducible apply Keeps.trans ?_ (State.charge_kept ..)
    | with_reducible apply Keeps.trans ?_ (State.count_kept ..)
    | with_reducible apply Keeps.trans ?_ (State.cowLeaf_kept ..)
    | with_reducible apply keeps_ite
    | with_reducible apply keeps_fold
    | intro _
    | fail_if_no_progress extract_lets)

theorem State.noteAlias_kept (s : State) (id : Option Nat) (slot : Nat) (va : Nat) (n : Nat) :
    Keeps s (State.noteAlias s id slot va n) := by
  unfold State.noteAlias
  repeat' (first
    | with_reducible exact Keeps.refl _
    | with_reducible apply Keeps.trans ?_ (State.setCmd_kept ..)
    | with_reducible apply Keeps.trans ?_ (State.setPart_kept ..)
    | with_reducible apply keeps_ite
    | split)

theorem State.writeSpans_kept (s : State) (id : Option Nat) (slot : Nat) (cover : List (Nat × Nat)) (bad : Bool) (z6 : List (Nat × Nat)) (z7 : List Byte) :
    Keeps s (State.writeSpans s id slot cover bad z6 z7).1 := by
  fun_induction State.writeSpans s id slot cover bad z6 z7
  all_goals repeat' (first
    | with_reducible exact Keeps.refl _
    | with_reducible apply Keeps.trans ?_ (State.charge_kept ..)
    | with_reducible apply Keeps.trans ?_ (State.cow_kept ..)
    | with_reducible apply Keeps.trans ?_ (State.markStale_kept ..)
    | with_reducible apply Keeps.trans ?_ (State.noteAlias_kept ..)
    | with_reducible apply Keeps.trans ?_ (State.noteDirty_kept ..)
    | with_reducible apply Keeps.trans ?_ (State.reachLine_kept ..)
    | with_reducible apply Keeps.trans ?_ (State.setLinePoison_kept ..)
    | with_reducible apply Keeps.trans ?_ (State.zeroTier_kept ..)
    | with_reducible apply Keeps.trans ?_ (State.writeTier_kept ..)
    | with_reducible apply Keeps.trans ?_ (State.copiedTier_kept ..)
    | with_reducible apply Keeps.trans ?_ (State.filledTier_kept ..)
    | with_reducible apply keeps_ite
    | fail_if_no_progress (with_reducible apply keeps_mk)
    | fail_if_no_progress extract_lets
    | with_reducible refine Keeps.after (by assumption) ?_)

theorem State.vwrite_kept (s : State) (id : Option Nat) (slot : Nat) (va : Nat) (bs : List Byte) (bad : Bool) (cover : (List (Nat × Nat))) :
    Keeps s (State.vwrite s id slot va bs bad cover).1 := by
  unfold State.vwrite
  repeat' (first
    | with_reducible exact Keeps.refl _
    | with_reducible apply Keeps.trans ?_ (State.writeSpans_kept ..))

theorem State.cmdRead_kept (s : State) (id : Nat) (slot : Nat) (va : Nat) (n : Nat) :
    Keeps s (State.cmdRead s id slot va n).1 := by
  unfold State.cmdRead
  repeat' (first
    | with_reducible exact Keeps.refl _
    | with_reducible apply Keeps.trans ?_ (State.endCmd_kept ..)
    | with_reducible apply Keeps.trans ?_ (State.notePoison_kept ..)
    | with_reducible apply Keeps.trans ?_ (State.chargeRead_kept ..)
    | with_reducible apply Keeps.trans ?_ (State.drawSpans_kept ..)
    | with_reducible apply keeps_ite
    | fail_if_no_progress extract_lets
    | dsimp -zeta only
    | split)

theorem State.cmdWrite_kept (s : State) (id : Nat) (slot : Nat) (va : Nat) (bs : List Byte) (bad : Bool) (cover : (List (Nat × Nat))) :
    Keeps s (State.cmdWrite s id slot va bs bad cover).1 := by
  unfold State.cmdWrite
  repeat' (first
    | with_reducible exact Keeps.refl _
    | with_reducible apply Keeps.trans ?_ (State.endCmd_kept ..)
    | with_reducible apply Keeps.trans ?_ (State.vwrite_kept ..)
    | with_reducible refine keeps_fst (by assumption) ?_
    | split)

theorem State.tlbTouch_kept (s : State) (c : Nat) (slot : Nat) (va : Nat) : Keeps s (State.tlbTouch s c slot va) := by
  unfold State.tlbTouch
  repeat' (first
    | with_reducible exact Keeps.refl _
    | with_reducible apply Keeps.trans ?_ (State.fresh_kept ..)
    | with_reducible apply Keeps.trans ?_ (State.setCore_kept ..)
    | with_reducible apply Keeps.trans ?_ (State.count_kept ..)
    | with_reducible apply keeps_ite
    | with_reducible apply keeps_ite2
    | split)

theorem State.zeroGroup_kept (s : State) (c : Nat) (g : Nat) : Keeps s (State.zeroGroup s c g) :=
  ⟨rfl, rfl, fun w => ⟨w.1, w.2.1, memZero_wf _ _ _ w.2.2.1, w.2.2.2⟩⟩

theorem State.zeroCore_kept (s : State) (c : Nat) : Keeps s (State.zeroCore s c) :=
  ⟨rfl, rfl, fun w => ⟨w.1, w.2.1, memZero_wf _ _ _ w.2.2.1, w.2.2.2⟩⟩

theorem State.grantCore_kept (s : State) (i : Nat) (c : Nat) : Keeps s (State.grantCore s i c) := ⟨rfl, rfl, fun w => w⟩

theorem State.startLeaveOff_kept (s : State) (b : Nat) (after : PowerState) : Keeps s (State.startLeaveOff s b after) := by
  unfold State.startLeaveOff
  repeat' (first
    | with_reducible exact Keeps.refl _
    | with_reducible apply Keeps.trans ?_ (State.setBlock_kept ..)
    | with_reducible apply keeps_ite)

theorem State.releaseGroups_kept (s : State) (c : Nat) (gs : List Nat) : Keeps s (State.releaseGroups s c gs) := by
  unfold State.releaseGroups
  repeat' (first
    | with_reducible exact Keeps.refl _
    | with_reducible apply Keeps.trans ?_ (State.setCore_kept ..)
    | with_reducible apply Keeps.trans ?_ (State.zeroGroup_kept ..)
    | with_reducible apply keeps_fold
    | intro _)

theorem State.releaseCore_kept (s : State) (c : Nat) : Keeps s (State.releaseCore s c) := by
  unfold State.releaseCore
  repeat' (first
    | with_reducible exact Keeps.refl _
    | with_reducible apply Keeps.trans ?_ (State.releaseGroups_kept ..)
    | with_reducible apply Keeps.trans ?_ (State.setCore_kept ..))

theorem State.releaseFrame_kept (s : State) (cxl : Bool) (f : Nat) : Keeps s (State.releaseFrame s cxl f) := by
  unfold State.releaseFrame
  repeat' (first
    | with_reducible exact Keeps.refl _
    | with_reducible apply Keeps.trans ?_ (State.setFrame_kept ..))

theorem State.releaseFrames_kept (s : State) (cxl : Bool) (i : Nat) : Keeps s (State.releaseFrames s cxl i) := by
  unfold State.releaseFrames
  repeat' (first
    | with_reducible exact Keeps.refl _
    | with_reducible apply Keeps.trans ?_ (State.releaseFrame_kept ..)
    | with_reducible apply keeps_fold
    | intro _)

theorem State.releaseFlow_kept (s : State) (f : Nat) : Keeps s (State.releaseFlow s f) := ⟨rfl, rfl, fun w => w⟩

theorem State.tlbDrop_kept (s : State) (slot : Nat) (lo : Nat) (n : Nat) :
    Keeps s (State.tlbDrop s slot lo n) := by
  unfold State.tlbDrop
  repeat' (first
    | with_reducible exact Keeps.refl _
    | with_reducible apply keeps_ite
    | fail_if_no_progress (with_reducible apply keeps_mk))

theorem State.releaseAll_kept (s : State) (i : Nat) :
    Keeps s (State.releaseAll s i) := by
  unfold State.releaseAll
  repeat' (first
    | with_reducible exact Keeps.refl _
    | with_reducible apply Keeps.trans ?_ (State.releaseCore_kept ..)
    | with_reducible apply Keeps.trans ?_ (State.releaseFlow_kept ..)
    | with_reducible apply Keeps.trans ?_ (State.releaseFrames_kept ..)
    | with_reducible apply Keeps.trans ?_ (State.setPart_kept ..)
    | with_reducible apply Keeps.trans ?_ (State.tlbDrop_kept ..)
    | with_reducible apply keeps_ite
    | with_reducible apply keeps_fold
    | intro _
    | fail_if_no_progress (with_reducible apply keeps_mk)
    | fail_if_no_progress extract_lets)

theorem State.mapLeaf_kept (s : State) (i : Nat) (page : Nat) (cxl : Bool) (big : Bool) (f : Nat) :
    Keeps s (State.mapLeaf s i page cxl big f) := by
  unfold State.mapLeaf
  repeat' (first
    | with_reducible exact Keeps.refl _
    | with_reducible apply Keeps.trans ?_ (State.setFrame_kept ..)
    | with_reducible apply Keeps.trans ?_ (State.setPart_kept ..))

theorem State.unmapLeaf_kept (s : State) (i : Nat) (page : Nat) :
    Keeps s (State.unmapLeaf s i page) := by
  unfold State.unmapLeaf
  repeat' (first
    | with_reducible exact Keeps.refl _
    | with_reducible apply Keeps.trans ?_ (State.releaseFrame_kept ..)
    | with_reducible apply Keeps.trans ?_ (State.setPart_kept ..)
    | with_reducible apply Keeps.trans ?_ (State.tlbDrop_kept ..)
    | with_reducible apply keeps_ite
    | fail_if_no_progress extract_lets)

theorem State.allocGrant_kept (s : State) (id : Nat) (i : Nat) (a : AllocArgs) (payload : Nat) :
    Keeps s (State.allocGrant s id i a payload) := by
  unfold State.allocGrant
  repeat' (first
    | with_reducible exact Keeps.refl _
    | with_reducible apply Keeps.trans ?_ (State.grantCore_kept ..)
    | with_reducible apply Keeps.trans ?_ (State.mapLeaf_kept ..)
    | with_reducible apply Keeps.trans ?_ (State.setCore_kept ..)
    | with_reducible apply Keeps.trans ?_ (State.setFlow_kept ..)
    | with_reducible apply Keeps.trans ?_ (State.vwrite_kept ..)
    | with_reducible apply keeps_fold
    | intro _
    | fail_if_no_progress extract_lets
    | split)

theorem State.freeApply_kept (s : State) (i : Nat) (a : AllocArgs) (payload : Nat) :
    Keeps s (State.freeApply s i a payload) := by
  unfold State.freeApply
  repeat' (first
    | with_reducible exact Keeps.refl _
    | with_reducible apply Keeps.trans ?_ (State.releaseCore_kept ..)
    | with_reducible apply Keeps.trans ?_ (State.releaseFlow_kept ..)
    | with_reducible apply Keeps.trans ?_ (State.releaseGroups_kept ..)
    | with_reducible apply Keeps.trans ?_ (State.unmapLeaf_kept ..)
    | with_reducible apply keeps_fold
    | intro _
    | split)

theorem State.peerEvent_kept (s : State) (id : Nat) (last : Bool) : Keeps s (State.peerEvent s id last) := by
  unfold State.peerEvent
  repeat' (first
    | with_reducible exact Keeps.refl _
    | with_reducible apply Keeps.trans ?_ (State.setCmd_kept ..)
    | with_reducible apply keeps_ite
    | split)

theorem State.noteWaits_kept (s : State) (slot : Nat) : Keeps s (State.noteWaits s slot) := ⟨rfl, rfl, fun w => w⟩

theorem State.raiseToken_kept (s : State) (slot : Nat) (t : Nat) : Keeps s (State.raiseToken s slot t) := ⟨rfl, rfl, fun w => w⟩

theorem State.failToken_kept (s : State) (slot : Nat) (t : Nat) : Keeps s (State.failToken s slot t) := ⟨rfl, rfl, fun w => w⟩

theorem State.workReaches_kept (s : State) (bs : List Nat) : Keeps s (State.workReaches s bs) := by
  unfold State.workReaches
  repeat' (first
    | with_reducible exact Keeps.refl _
    | with_reducible apply Keeps.trans ?_ (State.setBlock_kept ..)
    | with_reducible apply keeps_ite
    | with_reducible apply keeps_fold
    | intro _)

theorem State.beginCmd_kept (s : State) (c : Cmd) : Keeps s (State.beginCmd s c) := by
  unfold State.beginCmd
  repeat' (first
    | with_reducible exact Keeps.refl _
    | with_reducible apply Keeps.trans ?_ (State.setCmd_kept ..)
    | with_reducible apply Keeps.trans ?_ (State.workReaches_kept ..))

theorem State.queueFault_kept (s : State) (f : Nat) (q : Nat) (code : Nat) : Keeps s (State.queueFault s f q code) := by
  unfold State.queueFault
  repeat' (first
    | with_reducible exact Keeps.refl _
    | with_reducible apply Keeps.trans ?_ (State.noteFault_kept ..)
    | with_reducible apply Keeps.trans ?_ (State.event_kept ..)
    | with_reducible apply Keeps.trans ?_ (State.setQueue_kept ..))

theorem State.queueIrq_kept (s : State) (f : Nat) (q : Nat) : Keeps s (State.queueIrq s f q) := by
  unfold State.queueIrq
  repeat' (first
    | with_reducible exact Keeps.refl _
    | with_reducible apply Keeps.trans ?_ (State.interrupt_kept ..)
    | with_reducible apply Keeps.trans ?_ (State.setQueue_kept ..))

theorem State.moderate_kept (s : State) (f : Nat) (q : Nat) : Keeps s (State.moderate s f q) := by
  unfold State.moderate
  repeat' (first
    | with_reducible exact Keeps.refl _
    | with_reducible apply Keeps.trans ?_ (State.queueIrq_kept ..)
    | with_reducible apply keeps_ite)

theorem State.putCompletion_kept (s : State) (f : Nat) (q : Nat) (bs : List Byte) :
    Keeps s (State.putCompletion s f q bs) := by
  unfold State.putCompletion
  repeat' (first
    | with_reducible exact Keeps.refl _
    | with_reducible apply Keeps.trans ?_ (State.hostWrite_kept ..)
    | with_reducible apply Keeps.trans ?_ (State.moderate_kept ..)
    | with_reducible apply Keeps.trans ?_ (State.setQueue_kept ..))

theorem State.settleNow_kept (s : State) (f : Nat) (q : Nat) (record : Option (List Byte)) (writeOk : Bool) :
    Keeps s (State.settleNow s f q record writeOk) := by
  unfold State.settleNow
  repeat' (first
    | with_reducible exact Keeps.refl _
    | with_reducible apply Keeps.trans ?_ (State.setQueue_kept ..)
    | with_reducible apply Keeps.trans ?_ (State.queueFault_kept ..)
    | with_reducible apply Keeps.trans ?_ (State.putCompletion_kept ..)
    | with_reducible apply keeps_ite
    | fail_if_no_progress extract_lets
    | split)

theorem State.settle_kept (s : State) (f : Nat) (q : Nat) (record : Option (List Byte)) (writeOk : Bool) :
    Keeps s (State.settle s f q record writeOk) := by
  unfold State.settle
  repeat' (first
    | with_reducible exact Keeps.refl _
    | with_reducible apply Keeps.trans ?_ (State.setFn_kept ..)
    | with_reducible apply Keeps.trans ?_ (State.settleNow_kept ..)
    | with_reducible apply keeps_ite
    | fail_if_no_progress extract_lets
    | split)

theorem State.signal_kept (s : State) (slot : Nat) (r : Rec) (status : Nat) : Keeps s (State.signal s slot r status) := by
  unfold State.signal
  repeat' (first
    | with_reducible exact Keeps.refl _
    | with_reducible apply Keeps.trans ?_ (State.failToken_kept ..)
    | with_reducible apply Keeps.trans ?_ (State.raiseToken_kept ..)
    | with_reducible apply keeps_ite
    | split)

theorem State.discardSlot_kept (s : State) (i : Nat) : Keeps s (State.discardSlot s i) := ⟨rfl, rfl, fun w => w⟩

theorem State.reseed_kept (s : State) (slot : Nat) :
    Keeps s (State.reseed s slot) := by
  unfold State.reseed
  repeat' (first
    | with_reducible exact Keeps.refl _
    | with_reducible apply Keeps.trans ?_ (State.count_kept ..)
    | with_reducible apply Keeps.trans ?_ (State.setFrame_kept ..)
    | with_reducible apply Keeps.trans ?_ (State.setPart_kept ..)
    | with_reducible apply Keeps.trans ?_ (State.tlbDrop_kept ..)
    | with_reducible apply keeps_ite
    | with_reducible apply keeps_fold
    | intro _
    | fail_if_no_progress (with_reducible apply keeps_mk)
    | fail_if_no_progress extract_lets)

theorem State.discard_kept (s : State) (slot : Nat) : Keeps s (State.discard s slot) := by
  unfold State.discard
  repeat' (first
    | with_reducible exact Keeps.refl _
    | with_reducible apply Keeps.trans ?_ (State.reseed_kept ..)
    | with_reducible apply Keeps.trans ?_ (State.setPart_kept ..))

theorem State.toDoubt_kept (s : State) (slot : Nat) : Keeps s (State.toDoubt s slot) := by
  unfold State.toDoubt
  repeat' (first
    | with_reducible exact Keeps.refl _
    | with_reducible apply Keeps.trans ?_ (State.count_kept ..)
    | with_reducible apply Keeps.trans ?_ (State.event_kept ..)
    | with_reducible apply Keeps.trans ?_ (State.setPart_kept ..)
    | fail_if_no_progress extract_lets
    | split)

theorem State.moltUndone_kept (s : State) (slot : Nat) : Keeps s (State.moltUndone s slot) := by
  unfold State.moltUndone
  repeat' (first
    | with_reducible exact Keeps.refl _
    | with_reducible apply Keeps.trans ?_ (State.discard_kept ..)
    | with_reducible apply Keeps.trans ?_ (State.setPart_kept ..)
    | with_reducible apply keeps_ite)

theorem State.emit_kept (s : State) (f : Nat) (h : Silk) (payload : List Byte) : Keeps s (State.emit s f h payload) := by
  unfold State.emit
  repeat' (first
    | with_reducible exact Keeps.refl _
    | with_reducible apply Keeps.trans ?_ (State.setFlow_kept ..)
    | with_reducible apply keeps_ite
    | fail_if_no_progress (with_reducible apply keeps_mk))

theorem State.sendAck_kept (s : State) (f : Nat) (ty : Nat) : Keeps s (State.sendAck s f ty) := by
  unfold State.sendAck
  repeat' (first
    | with_reducible exact Keeps.refl _
    | with_reducible apply Keeps.trans ?_ (State.emit_kept ..)
    | with_reducible apply Keeps.trans ?_ (State.setFlow_kept ..))

theorem State.sendOpen_kept (s : State) (f : Nat) (ty : Nat) : Keeps s (State.sendOpen s f ty) := by
  unfold State.sendOpen
  repeat' (first
    | with_reducible exact Keeps.refl _
    | with_reducible apply Keeps.trans ?_ (State.emit_kept ..)
    | with_reducible apply Keeps.trans ?_ (State.setFlow_kept ..))

theorem State.sendDepart_kept (s : State) (f : Nat) : Keeps s (State.sendDepart s f) := by
  unfold State.sendDepart
  repeat' (first
    | with_reducible exact Keeps.refl _
    | with_reducible apply Keeps.trans ?_ (State.count_kept ..)
    | with_reducible apply Keeps.trans ?_ (State.emit_kept ..)
    | with_reducible apply keeps_ite)

theorem State.sendClose_kept (s : State) (f : Nat) : Keeps s (State.sendClose s f) := by
  unfold State.sendClose
  repeat' (first
    | with_reducible exact Keeps.refl _
    | with_reducible apply Keeps.trans ?_ (State.emit_kept ..)
    | with_reducible apply Keeps.trans ?_ (State.setFlow_kept ..))

theorem State.emitTx_kept (s : State) (f : Nat) (k : TxPkt) (retx : Bool) : Keeps s (State.emitTx s f k retx) := by
  unfold State.emitTx
  repeat' (first
    | with_reducible exact Keeps.refl _
    | with_reducible apply Keeps.trans ?_ (State.emit_kept ..)
    | with_reducible apply keeps_ite)

theorem State.markDue_kept (s : State) (f : Nat) (psn : Nat) :
    Keeps s (State.markDue s f psn) := by
  unfold State.markDue
  repeat' (first
    | with_reducible exact Keeps.refl _
    | with_reducible apply Keeps.trans ?_ (State.emitTx_kept ..)
    | with_reducible apply Keeps.trans ?_ (State.setFlow_kept ..)
    | with_reducible apply keeps_ite
    | fail_if_no_progress (with_reducible apply keeps_mk)
    | fail_if_no_progress extract_lets
    | split)

theorem State.resend_kept (s : State) (f : Nat) (psn : Nat) :
    Keeps s (State.resend s f psn) := by
  unfold State.resend
  repeat' (first
    | with_reducible exact Keeps.refl _
    | with_reducible apply Keeps.trans ?_ (State.count_kept ..)
    | with_reducible apply Keeps.trans ?_ (State.emitTx_kept ..)
    | with_reducible apply Keeps.trans ?_ (State.markDue_kept ..)
    | with_reducible apply Keeps.trans ?_ (State.serveSpare_kept ..)
    | with_reducible apply Keeps.trans ?_ (State.setFlow_kept ..)
    | with_reducible apply keeps_ite
    | fail_if_no_progress (with_reducible apply keeps_mk)
    | fail_if_no_progress extract_lets
    | split)

theorem State.bufferTake_kept (s : State) (p : Nat) (prio : Nat) (n : Nat) : Keeps s (State.bufferTake s p prio n) := by
  unfold State.bufferTake
  repeat' (first
    | with_reducible exact Keeps.refl _
    | with_reducible apply Keeps.trans ?_ (State.count_kept ..)
    | with_reducible apply Keeps.trans ?_ (State.setEth_kept ..)
    | with_reducible apply keeps_ite
    | fail_if_no_progress (with_reducible apply keeps_mk))

theorem State.acceptData_kept (s : State) (f : Nat) (h : Silk) (ce : Bool) (payload : List Byte) :
    Keeps s (State.acceptData s f h ce payload) := by
  unfold State.acceptData
  repeat' (first
    | with_reducible exact Keeps.refl _
    | with_reducible apply Keeps.trans ?_ (State.setFlow_kept ..)
    | with_reducible apply Keeps.trans ?_ (State.drawSpans_kept ..)
    | with_reducible apply Keeps.trans ?_ (State.vwrite_kept ..)
    | with_reducible apply Keeps.trans ?_ (State.sendAck_kept ..)
    | with_reducible apply keeps_ite
    | split)

theorem State.freeSlot_kept (s : State) (f : Nat) : Keeps s (State.freeSlot s f) := by
  unfold State.freeSlot
  repeat' (first
    | with_reducible exact Keeps.refl _
    | with_reducible apply Keeps.trans ?_ (State.sendAck_kept ..)
    | with_reducible apply Keeps.trans ?_ (State.setFlow_kept ..)
    | with_reducible apply keeps_ite)

theorem State.ackFlow_kept (s : State) (f : Nat) (h : Silk) :
    Keeps s (State.ackFlow s f h) := by
  unfold State.ackFlow
  repeat' (first
    | with_reducible exact Keeps.refl _
    | with_reducible apply Keeps.trans ?_ (State.count_kept ..)
    | with_reducible apply Keeps.trans ?_ (State.markDue_kept ..)
    | with_reducible apply Keeps.trans ?_ (State.setFlow_kept ..)
    | with_reducible apply keeps_ite
    | with_reducible apply keeps_fold
    | intro _
    | fail_if_no_progress (with_reducible apply keeps_mk)
    | fail_if_no_progress extract_lets
    | split)

theorem State.sendFirst_kept (s : State) (f : Nat) : Keeps s (State.sendFirst s f) := by
  unfold State.sendFirst
  repeat' (first
    | with_reducible exact Keeps.refl _
    | with_reducible apply Keeps.trans ?_ (State.charge_kept ..)
    | with_reducible apply Keeps.trans ?_ (State.emitTx_kept ..)
    | with_reducible apply Keeps.trans ?_ (State.setFlow_kept ..)
    | fail_if_no_progress extract_lets
    | split)

theorem State.closeFlow_kept (s : State) (f : Nat) : Keeps s (State.closeFlow s f) := ⟨rfl, rfl, fun w => w⟩

theorem State.closeFlows_kept (s : State) (slot : Option Nat) (depart : Bool) :
    Keeps s (State.closeFlows s slot depart) := by
  unfold State.closeFlows
  repeat' (first
    | with_reducible exact Keeps.refl _
    | with_reducible apply Keeps.trans ?_ (State.closeFlow_kept ..)
    | with_reducible apply Keeps.trans ?_ (State.sendDepart_kept ..)
    | with_reducible apply keeps_ite
    | with_reducible apply keeps_fold
    | intro _)

theorem State.queueTx_kept (s : State) (f : Nat) (ks : List TxPkt) : Keeps s (State.queueTx s f ks) := ⟨rfl, rfl, fun w => w⟩

end Sys2Proof.Machine
end

