-- ==== Sys2Proof/Laws/KeepBoot.lean ====
section
/-!
SUPPORT. Each operation of resets, boot, power, scratch operands, trackers and tile programs
keeps the fuses, the command queue and the canonical form of the memories, but those of Laws/Rises.lean, which raise fuses.
-/
namespace Sys2Proof.Machine

open Sys2Proof

theorem State.setColl_kept (s : State) (c : Coll) : Keeps s (State.setColl s c) := ⟨rfl, rfl, fun w => w⟩

theorem State.addColl_kept (s : State) (c : Coll) : Keeps s (State.addColl s c) := ⟨rfl, rfl, fun w => w⟩

theorem State.countHandoff_kept (s : State) (c : Coll) : Keeps s (State.countHandoff s c) := by
  unfold State.countHandoff
  repeat' (first
    | with_reducible exact Keeps.refl _
    | with_reducible apply Keeps.trans ?_ (State.count_kept ..)
    | with_reducible apply Keeps.trans ?_ (State.dictSet_kept ..)
    | with_reducible apply keeps_ite)

theorem State.dropColl_kept (s : State) (id : Nat) : Keeps s (State.dropColl s id) := by
  unfold State.dropColl
  repeat' (first
    | with_reducible exact Keeps.refl _
    | with_reducible apply Keeps.trans ?_ (State.countHandoff_kept ..)
    | with_reducible apply Keeps.trans ?_ (State.setPart_kept ..)
    | fail_if_no_progress (with_reducible apply keeps_mk)
    | split)

theorem State.freeChunk_kept (s : State) (f : Nat) (n : Nat) : Keeps s (State.freeChunk s f n) := by
  unfold State.freeChunk
  repeat' (first
    | with_reducible exact Keeps.refl _
    | with_reducible apply Keeps.trans ?_ (State.freeSlot_kept ..)
    | with_reducible apply keeps_fold
    | intro _)

theorem State.sendChunk_kept (s : State) (c : Coll) (f : Nat) (payloads : List (List Byte × Bool)) (vote : W32) (from_ : Option (Nat × Nat)) :
    Keeps s (State.sendChunk s c f payloads vote from_).1 := by
  unfold State.sendChunk
  repeat' (first
    | with_reducible exact Keeps.refl _
    | with_reducible apply Keeps.trans ?_ (State.queueTx_kept ..)
    | with_reducible apply keeps_ite
    | fail_if_no_progress (with_reducible apply keeps_mk)
    | fail_if_no_progress extract_lets)

theorem State.peerTouch_kept (s : State) (id : Nat) : Keeps s (State.peerTouch s id) := by
  unfold State.peerTouch
  repeat' (first
    | with_reducible exact Keeps.refl _
    | with_reducible apply Keeps.trans ?_ (State.setCmd_kept ..)
    | with_reducible apply keeps_ite
    | split)

theorem State.peerDone_kept (s : State) (id : Nat) : Keeps s (State.peerDone s id) := by
  unfold State.peerDone
  repeat' (first
    | with_reducible exact Keeps.refl _
    | with_reducible apply Keeps.trans ?_ (State.setCmd_kept ..)
    | with_reducible apply keeps_ite
    | split)

theorem State.settlePeer_kept (s : State) (id : Nat) : Keeps s (State.settlePeer s id) := by
  unfold State.settlePeer
  repeat' (first
    | with_reducible exact Keeps.refl _
    | with_reducible apply Keeps.trans ?_ (State.peerDone_kept ..)
    | with_reducible apply keeps_ite
    | split)

theorem State.sendAborts_kept (s : State) (c : Coll) (rank : Nat) (status : Nat) :
    Keeps s (State.sendAborts s c rank status) := by
  unfold State.sendAborts
  repeat' (first
    | with_reducible exact Keeps.refl _
    | with_reducible apply Keeps.trans ?_ (State.sendChunk_kept ..)
    | with_reducible apply Keeps.trans ?_ (State.setFlow_kept ..)
    | with_reducible apply keeps_ite
    | with_reducible apply keeps_fold
    | intro _
    | fail_if_no_progress (with_reducible apply keeps_mk)
    | fail_if_no_progress extract_lets)

theorem State.collUndone_kept (s : State) (c : Coll) : Keeps s (State.collUndone s c) := by
  unfold State.collUndone
  repeat' (first
    | with_reducible exact Keeps.refl _
    | with_reducible apply Keeps.trans ?_ (State.moltUndone_kept ..)
    | with_reducible apply Keeps.trans ?_ (State.toDoubt_kept ..)
    | split)

theorem State.collAborted_kept (s : State) (id : Nat) (slot : Nat) (status : Nat) (detail : Nat) (rank : Nat) :
    Keeps s (State.collAborted s id slot status detail rank) := by
  unfold State.collAborted
  repeat' (first
    | with_reducible exact Keeps.refl _
    | with_reducible apply Keeps.trans ?_ (State.count_kept ..)
    | with_reducible apply Keeps.trans ?_ (State.event_kept ..)
    | with_reducible apply Keeps.trans ?_ (State.endCmd_kept ..))

theorem State.collFail_kept (s : State) (c : Coll) (status : Nat) (detail : Nat) (rank : Nat) :
    Keeps s (State.collFail s c status detail rank) := by
  unfold State.collFail
  repeat' (first
    | with_reducible exact Keeps.refl _
    | with_reducible apply Keeps.trans ?_ (State.dropColl_kept ..)
    | with_reducible apply Keeps.trans ?_ (State.sendAborts_kept ..)
    | with_reducible apply Keeps.trans ?_ (State.collUndone_kept ..)
    | with_reducible apply Keeps.trans ?_ (State.collAborted_kept ..)
    | fail_if_no_progress (with_reducible apply keeps_mk))

theorem State.collStop_kept (s : State) (c : Coll) (status : Nat) (detail : Nat) :
    Keeps s (State.collStop s c status detail) := by
  unfold State.collStop
  repeat' (first
    | with_reducible exact Keeps.refl _
    | with_reducible apply Keeps.trans ?_ (State.collUndone_kept ..)
    | with_reducible apply Keeps.trans ?_ (State.dropColl_kept ..)
    | with_reducible apply Keeps.trans ?_ (State.endCmd_kept ..)
    | with_reducible apply Keeps.trans ?_ (State.setFlow_kept ..)
    | with_reducible apply keeps_fold
    | fail_if_no_progress (with_reducible apply keeps_mk)
    | intro _)

theorem State.flowOwnersFail_kept (s : State) (f : Nat) : Keeps s (State.flowOwnersFail s f) := by
  unfold State.flowOwnersFail
  repeat' (first
    | with_reducible exact Keeps.refl _
    | with_reducible apply Keeps.trans ?_ (State.endCmd_kept ..)
    | with_reducible apply keeps_ite
    | split)

theorem State.moltFail_kept (s : State) (m : Molt) (status : Nat) (detail : Nat) :
    Keeps s (State.moltFail s m status detail) := by
  unfold State.moltFail
  repeat' (first
    | with_reducible exact Keeps.refl _
    | with_reducible apply Keeps.trans ?_ (State.endCmd_kept ..)
    | with_reducible apply Keeps.trans ?_ (State.moltUndone_kept ..)
    | fail_if_no_progress (with_reducible apply keeps_mk))

theorem State.flowLost_kept (s : State) (f : Nat) : Keeps s (State.flowLost s f) := by
  unfold State.flowLost
  repeat' (first
    | with_reducible exact Keeps.refl _
    | with_reducible apply Keeps.trans ?_ (State.collFail_kept ..)
    | with_reducible apply Keeps.trans ?_ (State.moltFail_kept ..)
    | with_reducible apply keeps_ite
    | with_reducible apply keeps_fold
    | intro _
    | split)

theorem State.collTick_kept (s : State) : Keeps s (State.collTick s) := by
  unfold State.collTick
  repeat' (first
    | with_reducible exact Keeps.refl _
    | with_reducible apply Keeps.trans ?_ (State.count_kept ..)
    | with_reducible apply keeps_ite
    | with_reducible apply keeps_fold
    | fail_if_no_progress (with_reducible apply keeps_mk)
    | intro _)

theorem State.setWordPoison_kept (s : State) (c : Nat) (bank : Nat) (word : Nat) (b : Bool) :
    Keeps s (State.setWordPoison s c bank word b) := by
  unfold State.setWordPoison
  repeat' (first
    | with_reducible exact Keeps.refl _
    | with_reducible apply Keeps.trans ?_ (State.event_kept ..)
    | with_reducible apply keeps_ite
    | fail_if_no_progress (with_reducible apply keeps_mk))

theorem State.bankWriteWord_kept (s : State) (c : Nat) (bank : Nat) (pos : Nat) (bs : List TByte) :
    Keeps s (State.bankWriteWord s c bank pos bs) := by
  unfold State.bankWriteWord
  exact Keeps.trans (t := { s with scratch := memWrite s.scratch (scratchKey c bank pos) (bs.map (·.1)) })
    ⟨rfl, rfl, fun w => ⟨w.1, w.2.1, memWrite_wf _ _ _ w.2.2.1, w.2.2.2⟩⟩ (State.setWordPoison_kept ..)

theorem State.bankWrite_kept (s : State) (c : Nat) (bank : Nat) (z3 : List (Nat × Nat)) (z4 : List TByte) :
    Keeps s (State.bankWrite s c bank z3 z4) := by
  fun_induction State.bankWrite s c bank z3 z4
  all_goals repeat' (first
    | with_reducible exact Keeps.refl _
    | with_reducible apply Keeps.trans ?_ (State.bankWriteWord_kept ..)
    | with_reducible refine Keeps.after (by assumption) ?_)

theorem State.scratchEcc_kept (s : State) (c : Nat) (bank : Nat) (word : Nat) (ecc : Ecc) :
    Keeps s (State.scratchEcc s c bank word ecc) := by
  unfold State.scratchEcc
  repeat' (first
    | with_reducible exact Keeps.refl _
    | with_reducible apply Keeps.trans ?_ (State.count_kept ..)
    | with_reducible apply Keeps.trans ?_ (State.noteFault_kept ..)
    | with_reducible apply Keeps.trans ?_ (State.setWordPoison_kept ..)
    | fail_if_no_progress extract_lets
    | split)

theorem State.scratchErrs_kept (s : State) (slot : Nat) (c : Nat) (errs : EccReads) :
    Keeps s (State.scratchErrs s slot c errs) := by
  unfold State.scratchErrs
  repeat' (first
    | with_reducible exact Keeps.refl _
    | with_reducible apply Keeps.trans ?_ (State.scratchEcc_kept ..)
    | with_reducible apply keeps_ite
    | with_reducible apply keeps_fold
    | intro _)

theorem State.offsetWrite_kept (s : State) (slot : Nat) (c : Nat) (foot : BitVec 80) (z4 : List (Nat × Nat)) (z5 : List TByte) :
    Keeps s (State.offsetWrite s slot c foot z4 z5).1 := by
  fun_induction State.offsetWrite s slot c foot z4 z5
  all_goals repeat' (first
    | with_reducible exact Keeps.refl _
    | with_reducible apply Keeps.trans ?_ (State.bankWrite_kept ..)
    | with_reducible refine Keeps.after (by assumption) ?_)

theorem State.swrite_kept (s : State) (slot : Nat) (c : Nat) (foot : BitVec 80) (x : Nat) (bs : List TByte) :
    Keeps s (State.swrite s slot c foot x bs).1 := by
  unfold State.swrite
  repeat' (first
    | with_reducible exact Keeps.refl _
    | with_reducible apply Keeps.trans ?_ (State.offsetWrite_kept ..))

theorem AccOut.word_kept (o : AccOut) (slot : Nat) (c : Nat) (foot : BitVec 80) (m : AccMode) (x : Nat) (es : List (Option Elem)) :
    Keeps o.st (AccOut.word o slot c foot m x es).st := by
  unfold AccOut.word
  repeat' (first
    | with_reducible exact Keeps.refl _
    | with_reducible apply Keeps.trans ?_ (State.count_kept ..)
    | with_reducible apply Keeps.trans ?_ (State.swrite_kept ..)
    | with_reducible apply keeps_ite
    | fail_if_no_progress extract_lets
    | split)

theorem AccOut.run_kept (o : AccOut) (slot : Nat) (c : Nat) (foot : BitVec 80) (m : AccMode) (z5 : List (Nat × Nat)) (z6 : List (Option Elem)) :
    Keeps o.st (AccOut.run o slot c foot m z5 z6).st := by
  fun_induction AccOut.run o slot c foot m z5 z6
  all_goals repeat' (first
    | with_reducible exact Keeps.refl _
    | with_reducible apply Keeps.trans ?_ (AccOut.word_kept ..)
    | with_reducible refine Keeps.after (by assumption) ?_)

theorem State.cmdScratch_kept (s : State) (id : Nat) (slot : Nat) (c : Nat) (x : Nat) (n : Nat) :
    Keeps s (State.cmdScratch s id slot c x n).1 := by
  unfold State.cmdScratch
  repeat' (first
    | with_reducible exact Keeps.refl _
    | with_reducible apply Keeps.trans ?_ (State.endCmd_kept ..)
    | with_reducible apply Keeps.trans ?_ (State.notePoison_kept ..)
    | split)

theorem State.cmdScratchWrite_kept (s : State) (id : Nat) (slot : Nat) (c : Nat) (foot : BitVec 80) (x : Nat) (bs : List TByte) :
    Keeps s (State.cmdScratchWrite s id slot c foot x bs).1 := by
  unfold State.cmdScratchWrite
  repeat' (first
    | with_reducible exact Keeps.refl _
    | with_reducible apply Keeps.trans ?_ (State.endCmd_kept ..)
    | with_reducible apply Keeps.trans ?_ (State.swrite_kept ..)
    | with_reducible refine keeps_fst (by assumption) ?_
    | split)

theorem State.tlbRange_kept (s : State) (c : Nat) (slot : Nat) (va : Nat) (n : Nat) :
    Keeps s (State.tlbRange s c slot va n) := by
  unfold State.tlbRange
  repeat' (first
    | with_reducible exact Keeps.refl _
    | with_reducible apply Keeps.trans ?_ (State.tlbTouch_kept ..)
    | with_reducible apply keeps_ite
    | with_reducible apply keeps_fold
    | intro _)

theorem State.pushLines_kept (s : State) (c : Nat) (id : Nat) (slot : Nat) (unit : ReqUnit) (write : Bool) (va : Nat) (n : Nat) (dest : Nat → Nat → List MemDest) (tag : Nat) :
    Keeps s (State.pushLines s c id slot unit write va n dest tag) := by
  unfold State.pushLines
  repeat' (first
    | with_reducible exact Keeps.refl _
    | with_reducible apply Keeps.trans ?_ (State.setCore_kept ..)
    | with_reducible apply Keeps.trans ?_ (State.tlbRange_kept ..)
    | with_reducible apply keeps_ite
    | fail_if_no_progress (with_reducible apply keeps_mk)
    | fail_if_no_progress extract_lets)

theorem State.taggedSpans_kept (s : State) (id : Nat) (slot : Nat) (z3 : List (Nat × Nat)) (z4 : List TByte) :
    Keeps s (State.taggedSpans s id slot z3 z4).1 := by
  fun_induction State.taggedSpans s id slot z3 z4
  all_goals repeat' (first
    | with_reducible exact Keeps.refl _
    | with_reducible apply Keeps.trans ?_ (State.chargeRead_kept ..)
    | with_reducible apply Keeps.trans ?_ (State.endCmd_kept ..)
    | with_reducible apply Keeps.trans ?_ (State.notePoison_kept ..)
    | with_reducible refine Keeps.after (by assumption) ?_
    | split
    | dsimp +zetaDelta -zeta only)

theorem State.cmdTagged_kept (s : State) (id : Nat) (slot : Nat) (va : Nat) (n : Nat) :
    Keeps s (State.cmdTagged s id slot va n).1 := by
  unfold State.cmdTagged
  repeat' (first
    | with_reducible exact Keeps.refl _
    | with_reducible apply Keeps.trans ?_ (State.taggedSpans_kept ..))

theorem State.descTouch_kept (s : State) (id : Nat) (slot : Nat) (va : Nat) (n : Nat) :
    Keeps s (State.descTouch s id slot va n) := by
  unfold State.descTouch
  repeat' (first
    | with_reducible exact Keeps.refl _
    | with_reducible apply Keeps.trans ?_ (State.tlbRange_kept ..)
    | with_reducible apply keeps_ite
    | fail_if_no_progress (with_reducible apply keeps_mk)
    | with_reducible refine keeps_fst (by assumption) ?_
    | split)

theorem State.descRead_kept (s : State) (id : Nat) (slot : Nat) (va : Nat) (n : Nat) :
    Keeps s (State.descRead s id slot va n).1 := by
  unfold State.descRead
  repeat' (first
    | with_reducible exact Keeps.refl _
    | with_reducible apply Keeps.trans ?_ (State.cmdRead_kept ..)
    | with_reducible apply Keeps.trans ?_ (State.descTouch_kept ..)
    | with_reducible apply Keeps.trans ?_ (State.endCmd_kept ..)
    | with_reducible apply keeps_ite
    | fail_if_no_progress (with_reducible apply keeps_mk)
    | with_reducible refine keeps_fst (by assumption) ?_
    | split)

theorem State.setTracker_kept (s : State) (slot : Nat) (t : Nat) (e : TrackerEntry) :
    Keeps s (State.setTracker s slot t e) := by
  unfold State.setTracker
  repeat' (first
    | with_reducible exact Keeps.refl _
    | with_reducible apply Keeps.trans ?_ (State.vwrite_kept ..))

theorem State.mergeTracker_kept (s : State) (slot : Nat) (t : Nat) (u : TrackerUse) :
    Keeps s (State.mergeTracker s slot t u) := by
  unfold State.mergeTracker
  repeat' (first
    | with_reducible exact Keeps.refl _
    | with_reducible apply Keeps.trans ?_ (State.setTracker_kept ..)
    | split)

theorem State.stepTrackers_kept (s : State) (slot : Nat) (ovfs : Nat) (finite : Bool) :
    Keeps s (State.stepTrackers s slot ovfs finite) := by
  unfold State.stepTrackers
  repeat' (first
    | with_reducible exact Keeps.refl _
    | with_reducible apply Keeps.trans ?_ (State.count_kept ..)
    | with_reducible apply Keeps.trans ?_ (State.setTracker_kept ..)
    | with_reducible apply keeps_ite
    | with_reducible apply keeps_fold
    | intro _
    | split)

theorem State.setGroup_kept (s : State) (slot : Nat) (t : Nat) (g : Group) : Keeps s (State.setGroup s slot t g) := by
  unfold State.setGroup
  repeat' (first
    | with_reducible exact Keeps.refl _
    | with_reducible apply Keeps.trans ?_ (State.vwrite_kept ..))

theorem State.resyncGroups_kept (s : State) (slot : Nat) (first : Nat) (n : Nat) (value : Nat) :
    Keeps s (State.resyncGroups s slot first n value) := by
  unfold State.resyncGroups
  repeat' (first
    | with_reducible exact Keeps.refl _
    | with_reducible apply Keeps.trans ?_ (State.vwrite_kept ..)
    | with_reducible apply keeps_fold
    | intro _)

theorem State.stepGroup_kept (s : State) (slot : Nat) (t : Nat) (step : Nat) (ok : Bool) :
    Keeps s (State.stepGroup s slot t step ok) := by
  unfold State.stepGroup
  repeat' (first
    | with_reducible exact Keeps.refl _
    | with_reducible apply Keeps.trans ?_ (State.event_kept ..)
    | with_reducible apply Keeps.trans ?_ (State.setGroup_kept ..)
    | with_reducible apply keeps_ite
    | split)

theorem State.stepGroups_kept (s : State) (slot : Nat) (step : Nat) (ok : Bool) :
    Keeps s (State.stepGroups s slot step ok) := by
  unfold State.stepGroups
  repeat' (first
    | with_reducible exact Keeps.refl _
    | with_reducible apply Keeps.trans ?_ (State.stepGroup_kept ..)
    | with_reducible apply keeps_ite
    | with_reducible apply keeps_fold
    | intro _)

theorem State.addSums_kept (s : State) (slot : Nat) (t : Nat) (dsq : W32) (wsq : W32) (n : Nat) :
    Keeps s (State.addSums s slot t dsq wsq n) := by
  unfold State.addSums
  repeat' (first
    | with_reducible exact Keeps.refl _
    | with_reducible apply Keeps.trans ?_ (State.setGroup_kept ..)
    | with_reducible apply keeps_ite
    | split)

theorem State.readTileDesc_kept (s : State) (id : Nat) (slot : Nat) (va : Nat) :
    Keeps s (State.readTileDesc s id slot va).1 := by
  unfold State.readTileDesc
  repeat' (first
    | with_reducible exact Keeps.refl _
    | with_reducible apply Keeps.trans ?_ (State.descRead_kept ..)
    | fail_if_no_progress extract_lets
    | with_reducible refine keeps_fst (by assumption) ?_
    | split)

theorem State.readParts_kept (s : State) (id : Nat) (slot : Nat) (payload : Nat) (stride : Nat) (z5 : List (Nat × Nat)) :
    Keeps s (State.readParts s id slot payload stride z5).1 := by
  fun_induction State.readParts s id slot payload stride z5
  all_goals repeat' (first
    | with_reducible exact Keeps.refl _
    | with_reducible apply Keeps.trans ?_ (State.readTileDesc_kept ..)
    | with_reducible refine keeps_fst (by assumption) ?_
    | with_reducible refine Keeps.after (by assumption) ?_)

theorem State.readVec_kept (s : State) (id : Nat) (slot : Nat) (bs : List Byte) :
    Keeps s (State.readVec s id slot bs).1 := by
  unfold State.readVec
  repeat' (first
    | with_reducible exact Keeps.refl _
    | with_reducible apply Keeps.trans ?_ (State.descRead_kept ..)
    | with_reducible apply keeps_ite1
    | fail_if_no_progress extract_lets
    | with_reducible refine keeps_fst (by assumption) ?_
    | split)

theorem State.startParts_kept (s : State) (id : Nat) (slot : Nat) (z3 : List (Nat × List Byte)) (z4 : List (Nat × TileRun)) :
    Keeps s (State.startParts s id slot z3 z4) := by
  fun_induction State.startParts s id slot z3 z4
  all_goals repeat' (first
    | with_reducible exact Keeps.refl _
    | with_reducible apply Keeps.trans ?_ (State.endCmd_kept ..)
    | with_reducible apply Keeps.trans ?_ (State.readVec_kept ..)
    | with_reducible apply Keeps.trans ?_ (State.setCore_kept ..)
    | with_reducible apply keeps_fold
    | intro _
    | with_reducible refine keeps_fst (by assumption) ?_
    | with_reducible refine Keeps.after (by assumption) ?_)

theorem State.tileStart_kept (s : State) (id : Nat) (slot : Nat) (parts : List (Nat × List Byte)) :
    Keeps s (State.tileStart s id slot parts) := by
  unfold State.tileStart
  repeat' (first
    | with_reducible exact Keeps.refl _
    | with_reducible apply Keeps.trans ?_ (State.endCmd_kept ..)
    | with_reducible apply Keeps.trans ?_ (State.startParts_kept ..)
    | split)

theorem execTileRun_kept (id : Nat) (s : State) : KeepsOut s (execTileRun id s) := by
  unfold execTileRun
  repeat' (first
    | with_reducible exact Keeps.refl _
    | with_reducible apply Keeps.trans ?_ (State.endCmd_kept ..)
    | with_reducible apply Keeps.trans ?_ (State.beginCmd_kept ..)
    | with_reducible apply Keeps.trans ?_ (State.descRead_kept ..)
    | with_reducible apply Keeps.trans ?_ (State.readParts_kept ..)
    | with_reducible apply Keeps.trans ?_ (State.tileStart_kept ..)
    | with_reducible apply keepsOut_next
    | with_reducible apply keepsOut_ite
    | with_reducible refine keeps_fst (by assumption) ?_
    | split)

theorem State.putTile_kept (s : State) (c : Nat) (r : TileRun) : Keeps s (State.putTile s c r) := ⟨rfl, rfl, fun w => w⟩

theorem State.pumpTile_kept (s : State) (c : Nat) (r : TileRun) : Keeps s (State.pumpTile s c r) := by
  unfold State.pumpTile
  repeat' (first
    | with_reducible exact Keeps.refl _
    | with_reducible apply Keeps.trans ?_ (State.count_kept ..)
    | with_reducible apply Keeps.trans ?_ (State.putTile_kept ..))

theorem State.tileFinish_kept (s : State) (id : Nat) : Keeps s (State.tileFinish s id) := by
  unfold State.tileFinish
  repeat' (first
    | with_reducible exact Keeps.refl _
    | with_reducible apply Keeps.trans ?_ (State.finishCmd_kept ..)
    | with_reducible apply Keeps.trans ?_ (State.notePoison_kept ..)
    | with_reducible apply Keeps.trans ?_ (State.setCmd_kept ..)
    | with_reducible apply keeps_ite
    | with_reducible apply keeps_fold
    | intro _
    | split)

theorem State.consume_kept (s : State) (c : Coll) (f : Nat) (n : Nat) :
    Keeps s (State.consume s c f n) := by
  unfold State.consume
  repeat' (first
    | with_reducible exact Keeps.refl _
    | with_reducible apply Keeps.trans ?_ (State.count_kept ..)
    | with_reducible apply Keeps.trans ?_ (State.freeChunk_kept ..)
    | with_reducible apply keeps_ite)

theorem State.consumeRows_kept (s : State) (c : Nat) (k : Nat) (row : Nat) : Keeps s (State.consumeRows s c k row) := by
  unfold State.consumeRows
  repeat' (first
    | with_reducible exact Keeps.refl _
    | with_reducible apply Keeps.trans ?_ (State.count_kept ..)
    | with_reducible apply Keeps.trans ?_ (State.putTile_kept ..)
    | fail_if_no_progress extract_lets
    | split)

theorem State.closeStreams_kept (s : State) (c : Nat) : Keeps s (State.closeStreams s c) := by
  unfold State.closeStreams
  repeat' (first
    | with_reducible exact Keeps.refl _
    | with_reducible apply Keeps.trans ?_ (State.count_kept ..)
    | with_reducible apply Keeps.trans ?_ (State.putTile_kept ..))

theorem State.fetchRow_kept (s0 : State) (c : Nat) (d : Cmd) (n : Nat) (t : Stream) (row : Nat) (again : Bool) :
    Keeps s0 (State.fetchRow s0 c d n t row again) := by
  unfold State.fetchRow
  repeat' (first
    | with_reducible exact Keeps.refl _
    | with_reducible apply Keeps.trans ?_ (State.cmdScratchWrite_kept ..)
    | with_reducible apply Keeps.trans ?_ (State.cmdTagged_kept ..)
    | with_reducible apply Keeps.trans ?_ (State.count_kept ..)
    | with_reducible apply Keeps.trans ?_ (State.pushLines_kept ..)
    | with_reducible apply Keeps.trans ?_ (State.putTile_kept ..)
    | with_reducible apply keeps_ite
    | fail_if_no_progress extract_lets
    | with_reducible refine keeps_fst (by assumption) ?_
    | split)

theorem execStreamRowFetch_kept (c : CoreNo) (stream : Fin 8) (s : State) : KeepsOut s (execStreamRowFetch c stream s) := by
  unfold execStreamRowFetch
  repeat' (first
    | with_reducible exact Keeps.refl _
    | with_reducible apply Keeps.trans ?_ (State.fetchRow_kept ..)
    | with_reducible apply keepsOut_next
    | with_reducible apply keepsOut_ite
    | split)

theorem State.mboxDone_kept (s : State) (f : Nat) (c : Nat) (code : Nat) : Keeps s (State.mboxDone s f c code) := by
  unfold State.mboxDone
  repeat' (first
    | with_reducible exact Keeps.refl _
    | with_reducible apply Keeps.trans ?_ (State.interrupt_kept ..)
    | with_reducible apply Keeps.trans ?_ (State.setChan_kept ..)
    | with_reducible apply keeps_ite)

theorem State.mboxReset_kept (s : State) (g : Nat) : Keeps s (State.mboxReset s g) := by
  unfold State.mboxReset
  repeat' (first
    | with_reducible exact Keeps.refl _
    | with_reducible apply Keeps.trans ?_ (State.mboxDone_kept ..)
    | with_reducible apply keeps_fold
    | fail_if_no_progress (with_reducible apply keeps_mk)
    | intro _)

theorem State.dropBar4_kept (s : State) (f : Nat) : Keeps s (State.dropBar4 s f) := ⟨rfl, rfl, fun w => w⟩

theorem State.resetFn_kept (s : State) (hard : Bool) (f : Nat) : Keeps s (State.resetFn s hard f) := by
  unfold State.resetFn
  repeat' (first
    | with_reducible exact Keeps.refl _
    | with_reducible apply Keeps.trans ?_ (State.setFn_kept ..)
    | with_reducible apply Keeps.trans ?_ (State.mboxReset_kept ..)
    | with_reducible apply Keeps.trans ?_ (State.dropBar4_kept ..))

theorem State.writeFnRec_kept (s : State) (t : ResetTarget) (cause : Nat) (f : Nat) :
    Keeps s (State.writeFnRec s t cause f) := ⟨rfl, rfl, fun w => w⟩

theorem State.clearKeys_kept (s : State) (ks : List Nat) : Keeps s (State.clearKeys s ks) := by
  unfold State.clearKeys
  repeat' (first
    | with_reducible exact Keeps.refl _
    | with_reducible apply Keeps.trans ?_ (State.dictSet_kept ..)
    | with_reducible apply keeps_fold
    | intro _)

theorem State.clearSlotCounters_kept (s : State) (i : Nat) : Keeps s (State.clearSlotCounters s i) := by
  unfold State.clearSlotCounters
  repeat' (first
    | with_reducible exact Keeps.refl _
    | with_reducible apply Keeps.trans ?_ (State.clearKeys_kept ..))

theorem State.clearCoreCounters_kept (s : State) (c : Nat) : Keeps s (State.clearCoreCounters s c) := by
  unfold State.clearCoreCounters
  repeat' (first
    | with_reducible exact Keeps.refl _
    | with_reducible apply Keeps.trans ?_ (State.clearKeys_kept ..)
    | with_reducible apply Keeps.trans ?_ (State.setCore_kept ..))

theorem State.reachPartition_kept (s : State) (i : Nat) (depart : Bool) (hard : Bool) :
    Keeps s (State.reachPartition s i depart hard) := by
  unfold State.reachPartition
  repeat' (first
    | with_reducible exact Keeps.refl _
    | with_reducible apply Keeps.trans ?_ (State.clearCoreCounters_kept ..)
    | with_reducible apply Keeps.trans ?_ (State.clearSlotCounters_kept ..)
    | with_reducible apply Keeps.trans ?_ (State.closeFlows_kept ..)
    | with_reducible apply Keeps.trans ?_ (State.discardSlot_kept ..)
    | with_reducible apply Keeps.trans ?_ (State.releaseAll_kept ..)
    | with_reducible apply Keeps.trans ?_ (State.resetFn_kept ..)
    | with_reducible apply Keeps.trans ?_ (State.setCore_kept ..)
    | with_reducible apply Keeps.trans ?_ (State.setPart_kept ..)
    | with_reducible apply keeps_fold
    | intro _
    | fail_if_no_progress extract_lets
    | split)

theorem State.reachCore_kept (s : State) (c : Nat) (cause : Nat) : Keeps s (State.reachCore s c cause) := by
  unfold State.reachCore
  repeat' (first
    | with_reducible exact Keeps.refl _
    | with_reducible apply Keeps.trans ?_ (State.clearCoreCounters_kept ..)
    | with_reducible apply Keeps.trans ?_ (State.clearErrs_kept ..)
    | with_reducible apply Keeps.trans ?_ (State.endCmd_kept ..)
    | with_reducible apply Keeps.trans ?_ (State.setCore_kept ..)
    | with_reducible apply Keeps.trans ?_ (State.zeroCore_kept ..)
    | with_reducible apply keeps_fold
    | fail_if_no_progress (with_reducible apply keeps_mk)
    | intro _)

theorem State.setTables_kept (s : State) (slot : Nat) (t : Tables) :
    Keeps s (State.setTables s slot t) := by
  unfold State.setTables
  repeat' (first
    | with_reducible exact Keeps.refl _
    | with_reducible apply Keeps.trans ?_ (State.setPart_kept ..)
    | with_reducible apply keeps_ite
    | fail_if_no_progress (with_reducible apply keeps_mk))

theorem State.dropUpd_kept (s : State) (id : Nat) :
    Keeps s (State.dropUpd s id) := by
  unfold State.dropUpd
  repeat' (first
    | with_reducible exact Keeps.refl _
    | with_reducible apply Keeps.trans ?_ (State.addSums_kept ..)
    | with_reducible apply Keeps.trans ?_ (State.count_kept ..)
    | with_reducible apply Keeps.trans ?_ (State.setPart_kept ..)
    | with_reducible apply Keeps.trans ?_ (State.setTables_kept ..)
    | with_reducible apply keeps_ite
    | fail_if_no_progress (with_reducible apply keeps_mk)
    | fail_if_no_progress extract_lets
    | with_reducible refine keeps_fst (by assumption) ?_
    | split)

theorem State.reachNic_kept (s : State) (cause : Nat) (depart : Bool) :
    Keeps s (State.reachNic s cause depart) := by
  unfold State.reachNic
  repeat' (first
    | with_reducible exact Keeps.refl _
    | with_reducible apply Keeps.trans ?_ (State.clearErrs_kept ..)
    | with_reducible apply Keeps.trans ?_ (State.clearKeys_kept ..)
    | with_reducible apply Keeps.trans ?_ (State.closeFlows_kept ..)
    | with_reducible apply Keeps.trans ?_ (State.dropColl_kept ..)
    | with_reducible apply Keeps.trans ?_ (State.dropUpd_kept ..)
    | with_reducible apply Keeps.trans ?_ (State.endCmd_kept ..)
    | with_reducible apply Keeps.trans ?_ (State.moltUndone_kept ..)
    | with_reducible apply Keeps.trans ?_ (State.toDoubt_kept ..)
    | with_reducible apply keeps_ite
    | with_reducible apply keeps_fold
    | intro _
    | fail_if_no_progress (with_reducible apply keeps_mk)
    | fail_if_no_progress extract_lets)

theorem State.healthMoved_kept (t : State) (s : State) :
    Keeps t (State.healthMoved t s) := by
  unfold State.healthMoved
  repeat' (first
    | with_reducible exact Keeps.refl _
    | with_reducible apply keeps_ite
    | with_reducible apply keeps_fold
    | intro _
    | fail_if_no_progress (with_reducible apply keeps_mk))

theorem State.reachWarm_kept (s : State) (depart : Bool) : Keeps s (State.reachWarm s depart) := by
  unfold State.reachWarm
  repeat' (first
    | with_reducible exact Keeps.refl _
    | with_reducible apply Keeps.trans ?_ (State.clearCoreCounters_kept ..)
    | with_reducible apply Keeps.trans ?_ (State.clearErrs_kept ..)
    | with_reducible apply Keeps.trans ?_ (State.clearKeys_kept ..)
    | with_reducible apply Keeps.trans ?_ (State.clearSlotCounters_kept ..)
    | with_reducible apply Keeps.trans ?_ (State.closeFlows_kept ..)
    | with_reducible apply Keeps.trans ?_ (State.discardSlot_kept ..)
    | with_reducible apply Keeps.trans ?_ (State.setCore_kept ..)
    | with_reducible apply Keeps.trans ?_ (State.setFn_kept ..)
    | with_reducible apply Keeps.trans ?_ (State.dropBar4_kept ..)
    | with_reducible apply Keeps.trans ?_ (State.zeroCore_kept ..)
    | with_reducible apply keeps_fold
    | fail_if_no_progress (with_reducible apply keeps_mk)
    | intro _)

theorem State.reachCold_kept (s : State) (depart : Bool) : Keeps s (State.reachCold s depart) := by
  refine Keeps.trans (t := if depart then (s.flows.map (fun e : Nat × Flow => e.1)).foldl (fun (x : State) f => x.sendDepart f) s else s) ?_
    ⟨rfl, rfl, fun w => ⟨rfl, rfl, rfl, w.2.2.2.1, w.2.2.2.2⟩⟩
  exact keeps_ite (keeps_foldl _ _ _ fun _ _ => State.sendDepart_kept ..) (.refl s)

theorem State.recordReset_kept (s : State) (t : ResetTarget) (cause : Nat) (counts : Bool) :
    Keeps s (State.recordReset s t cause counts) := by
  unfold State.recordReset
  repeat' (first
    | with_reducible exact Keeps.refl _
    | with_reducible apply Keeps.trans ?_ (State.count_kept ..)
    | with_reducible apply keeps_ite
    | fail_if_no_progress (with_reducible apply keeps_mk)
    | fail_if_no_progress extract_lets
    | dsimp -zeta only
    | split)

theorem State.countReset_kept (s : State) (t : ResetTarget) (cause : Nat) : Keeps s (State.countReset s t cause).1 := by
  unfold State.countReset
  repeat' (first
    | with_reducible exact Keeps.refl _
    | with_reducible apply Keeps.trans ?_ (State.setCore_kept ..)
    | with_reducible apply keeps_ite1
    | fail_if_no_progress (with_reducible apply keeps_mk)
    | fail_if_no_progress extract_lets
    | split)

theorem State.reach_kept (s : State) (t : ResetTarget) (cause : Nat) (hard : Bool) :
    Keeps s (State.reach s t cause hard) := by
  unfold State.reach
  repeat' (first
    | with_reducible exact Keeps.refl _
    | with_reducible apply Keeps.trans ?_ (State.healthMoved_kept ..)
    | with_reducible apply Keeps.trans ?_ (State.reachCold_kept ..)
    | with_reducible apply Keeps.trans ?_ (State.reachCore_kept ..)
    | with_reducible apply Keeps.trans ?_ (State.reachNic_kept ..)
    | with_reducible apply Keeps.trans ?_ (State.reachPartition_kept ..)
    | with_reducible apply Keeps.trans ?_ (State.reachWarm_kept ..)
    | with_reducible apply Keeps.trans ?_ (State.resetFn_kept ..)
    | with_reducible apply Keeps.trans ?_ (State.setPort_kept ..)
    | with_reducible apply keeps_ite
    | with_reducible apply keeps_fold
    | intro _
    | fail_if_no_progress (with_reducible apply keeps_mk)
    | fail_if_no_progress extract_lets
    | with_reducible refine keeps_fst (by assumption) ?_
    | split
    | dsimp +zetaDelta -zeta only)

theorem State.keepRetiring_kept (s : State) (cs : List Nat) : Keeps s (State.keepRetiring s cs) := by
  unfold State.keepRetiring
  repeat' (first
    | with_reducible exact Keeps.refl _
    | with_reducible apply Keeps.trans ?_ (State.setCore_kept ..)
    | with_reducible apply keeps_fold
    | intro _)

theorem State.raiseReset_kept (s : State) (t : ResetTarget) (cause : Nat) (hard : Bool) (retire : Bool) (hold : Bool) (again : Bool) :
    Keeps s (State.raiseReset s t cause hard retire hold again) := by
  unfold State.raiseReset
  repeat' (first
    | with_reducible exact Keeps.refl _
    | with_reducible apply Keeps.trans ?_ (State.event_kept ..)
    | with_reducible apply Keeps.trans ?_ (State.writeFnRec_kept ..)
    | with_reducible apply Keeps.trans ?_ (State.recordReset_kept ..)
    | with_reducible apply Keeps.trans ?_ (State.countReset_kept ..)
    | with_reducible apply Keeps.trans ?_ (State.reach_kept ..)
    | with_reducible apply Keeps.trans ?_ (State.keepRetiring_kept ..)
    | with_reducible apply keeps_ite
    | with_reducible apply keeps_fold
    | fail_if_no_progress (with_reducible apply keeps_mk)
    | intro _
    | fail_if_no_progress extract_lets
    | dsimp -zeta only
    | split)

theorem State.setCoreBlocks_kept (s : State) (c : Nat) (st : PowerState) : Keeps s (State.setCoreBlocks s c st) := by
  unfold State.setCoreBlocks
  repeat' (first
    | with_reducible exact Keeps.refl _
    | with_reducible apply Keeps.trans ?_ (State.setBlock_kept ..)
    | with_reducible apply keeps_fold
    | intro _)

theorem State.allocArrived_kept (s : State) (bs : List Nat) : Keeps s (State.allocArrived s bs) := by
  unfold State.allocArrived
  repeat' (first
    | with_reducible exact Keeps.refl _
    | with_reducible apply Keeps.trans ?_ (State.endCmd_kept ..)
    | with_reducible apply keeps_fold
    | fail_if_no_progress (with_reducible apply keeps_mk)
    | intro _)

theorem State.retireCore_kept (s : State) (c : Nat) (cause : Nat) :
    Keeps s (State.retireCore s c cause) := by
  unfold State.retireCore
  repeat' (first
    | with_reducible exact Keeps.refl _
    | with_reducible apply Keeps.trans ?_ (State.allocArrived_kept ..)
    | with_reducible apply Keeps.trans ?_ (State.endCmd_kept ..)
    | with_reducible apply Keeps.trans ?_ (State.event_kept ..)
    | with_reducible apply Keeps.trans ?_ (State.releaseCore_kept ..)
    | with_reducible apply Keeps.trans ?_ (State.setCore_kept ..)
    | with_reducible apply Keeps.trans ?_ (State.setCoreBlocks_kept ..)
    | with_reducible apply Keeps.trans ?_ (State.setPll_kept ..)
    | with_reducible apply keeps_ite
    | with_reducible apply keeps_fold
    | intro _
    | fail_if_no_progress (with_reducible apply keeps_mk)
    | fail_if_no_progress extract_lets
    | split)

/-- Flash bytes written keep the canonical form. -/
theorem flashWrite_wf (m : Mem) (a : Nat) (bs : List Byte) (w : tabWf 0xFF m = true) : tabWf 0xFF (flashWrite m a bs) = true := by
  induction bs generalizing m a with
  | nil => exact w
  | cons b bs ih => exact ih _ _ (tabSet_wf 0xFF m a b w)
/-- So does a region erased. -/
theorem flashErase_wf (m : Mem) (a n : Nat) (w : tabWf 0xFF m = true) : tabWf 0xFF (flashErase m a n) = true := tabClear_wf 0xFF m a n w

theorem State.commitBootCtl_kept (s : State) (b : BootCtl) : Keeps s (State.commitBootCtl s b) :=
  ⟨rfl, rfl, fun w => ⟨w.1, w.2.1, w.2.2.1, w.2.2.2.1, flashWrite_wf _ _ _ w.2.2.2.2⟩⟩

theorem State.invalidateSlot_kept (s : State) (k : Nat) : Keeps s (State.invalidateSlot s k) :=
  ⟨rfl, rfl, fun w => ⟨w.1, w.2.1, w.2.2.1, w.2.2.2.1, flashErase_wf _ _ _ w.2.2.2.2⟩⟩

theorem State.presentCores_kept (s : State) : Keeps s (State.presentCores s) := by
  unfold State.presentCores
  repeat' (first
    | with_reducible exact Keeps.refl _
    | with_reducible apply Keeps.trans ?_ (State.setCore_kept ..)
    | with_reducible apply Keeps.trans ?_ (State.setPll_kept ..)
    | with_reducible apply Keeps.trans ?_ (State.releaseCore_kept ..)
    | with_reducible apply Keeps.trans ?_ (State.setCoreBlocks_kept ..)
    | with_reducible apply keeps_ite
    | with_reducible apply keeps_fold
    | intro _)

theorem State.haltBoot_kept (s : State) (code : Nat) : Keeps s (State.haltBoot s code) := ⟨rfl, rfl, fun w => w⟩

theorem State.coldTrim_kept (s : State) : Keeps s (State.coldTrim s) := by
  unfold State.coldTrim
  repeat' (first
    | with_reducible exact Keeps.refl _
    | with_reducible apply Keeps.trans ?_ (State.haltBoot_kept ..)
    | with_reducible apply keeps_ite
    | fail_if_no_progress (with_reducible apply keeps_mk))

theorem State.coldReset_kept (s : State) (cause : Nat) : Keeps s (State.coldReset s cause) := by
  unfold State.coldReset
  repeat' (first
    | with_reducible exact Keeps.refl _
    | with_reducible apply Keeps.trans ?_ (State.coldTrim_kept ..)
    | with_reducible apply Keeps.trans ?_ (State.raiseReset_kept ..)
    | fail_if_no_progress (with_reducible apply keeps_mk))

theorem State.slotEntries_kept (s : State) (k : Nat) : Keeps s (State.slotEntries s k) := by
  unfold State.slotEntries
  repeat' (first
    | with_reducible exact Keeps.refl _
    | with_reducible apply Keeps.trans ?_ (State.dictSet_kept ..)
    | with_reducible apply keeps_ite
    | with_reducible apply keeps_fold
    | intro _)

theorem State.measure_kept (s : State) : Keeps s (State.measure s) := ⟨rfl, rfl, fun w => w⟩

theorem State.pickFirmware_kept (s : State) : Keeps s (State.pickFirmware s) := by
  unfold State.pickFirmware
  repeat' (first
    | with_reducible exact Keeps.refl _
    | with_reducible apply Keeps.trans ?_ (State.commitBootCtl_kept ..)
    | with_reducible apply Keeps.trans ?_ (State.event_kept ..)
    | with_reducible apply Keeps.trans ?_ (State.haltBoot_kept ..)
    | with_reducible apply keeps_ite
    | fail_if_no_progress (with_reducible apply keeps_mk))

theorem State.copyToFlashLog_kept (s : State) : Keeps s (State.copyToFlashLog s) := ⟨rfl, rfl, fun w => w⟩

theorem State.disablePort_kept (s : State) (p : Nat) : Keeps s (State.disablePort s p) := ⟨rfl, rfl, fun w => w⟩

theorem State.cxlShort_kept (s : State) : Keeps s (State.cxlShort s) := ⟨rfl, rfl, fun w => w⟩

theorem State.bootMemory_kept (s : State) : Keeps s (State.bootMemory s) := by
  unfold State.bootMemory
  repeat' (first
    | with_reducible exact Keeps.refl _
    | with_reducible apply Keeps.trans ?_ (State.setBlock_kept ..)
    | with_reducible apply Keeps.trans ?_ (State.setPll_kept ..)
    | with_reducible apply Keeps.trans ?_ (State.presentCores_kept ..)
    | with_reducible apply Keeps.trans ?_ (State.haltBoot_kept ..)
    | with_reducible apply Keeps.trans ?_ (State.disablePort_kept ..)
    | with_reducible apply Keeps.trans ?_ (State.cxlShort_kept ..)
    | with_reducible apply keeps_mkNoHbm
    | with_reducible apply keeps_ite
    | with_reducible apply keeps_fold
    | fail_if_no_progress (with_reducible apply keeps_mk)
    | intro _)

theorem State.hostReadyEvent_kept (s : State) : Keeps s (State.hostReadyEvent s) := by
  unfold State.hostReadyEvent
  repeat' (first
    | with_reducible exact Keeps.refl _
    | with_reducible apply Keeps.trans ?_ (State.setFn_kept ..)
    | with_reducible apply keeps_fold
    | intro _)

theorem State.bootReady_kept (s : State) : Keeps s (State.bootReady s) := by
  unfold State.bootReady
  repeat' (first
    | with_reducible exact Keeps.refl _
    | with_reducible apply Keeps.trans ?_ (State.setFn_kept ..)
    | with_reducible apply Keeps.trans ?_ (State.dictSet_kept ..)
    | with_reducible apply Keeps.trans ?_ (State.hostReadyEvent_kept ..)
    | with_reducible apply keeps_fold
    | fail_if_no_progress (with_reducible apply keeps_mk)
    | intro _)

theorem State.reapplyProfile_kept (s : State) : Keeps s (State.reapplyProfile s) := by
  unfold State.reapplyProfile
  repeat' (first
    | with_reducible exact Keeps.refl _
    | with_reducible apply Keeps.trans ?_ (State.cxlShort_kept ..)
    | with_reducible apply Keeps.trans ?_ (State.presentCores_kept ..)
    | with_reducible apply Keeps.trans ?_ (State.releaseAll_kept ..)
    | with_reducible apply Keeps.trans ?_ (State.setPart_kept ..)
    | with_reducible apply keeps_ite
    | with_reducible apply keeps_fold
    | fail_if_no_progress (with_reducible apply keeps_mk)
    | intro _
    | split)

theorem State.warmReset_kept (s : State) (cause : Nat) (hold : Bool) : Keeps s (State.warmReset s cause hold) := by
  unfold State.warmReset
  repeat' (first
    | with_reducible exact Keeps.refl _
    | with_reducible apply Keeps.trans ?_ (State.raiseReset_kept ..)
    | with_reducible apply Keeps.trans ?_ (State.reapplyProfile_kept ..)
    | with_reducible apply keeps_ite
    | fail_if_no_progress (with_reducible apply keeps_mk))

theorem State.doReset_kept (s : State) (t : ResetTarget) (cause : Nat) (hard : Bool) (retire : Bool) :
    Keeps s (State.doReset s t cause hard retire) := by
  unfold State.doReset
  repeat' (first
    | with_reducible exact Keeps.refl _
    | with_reducible apply Keeps.trans ?_ (State.coldReset_kept ..)
    | with_reducible apply Keeps.trans ?_ (State.raiseReset_kept ..)
    | with_reducible apply Keeps.trans ?_ (State.warmReset_kept ..)
    | split)

theorem State.vin_kept (s : State) (mv : Nat) : Keeps s (State.vin s mv) := ⟨rfl, rfl, fun w => w⟩

theorem execVinQualified_kept (mv : W32) (s : State) : KeepsOut s (execVinQualified mv s) := by
  unfold execVinQualified
  repeat' (first
    | with_reducible exact Keeps.refl _
    | with_reducible apply Keeps.trans ?_ (State.coldReset_kept ..)
    | with_reducible apply Keeps.trans ?_ (State.vin_kept ..)
    | fail_if_no_progress (with_reducible apply keeps_mk)
    | with_reducible apply keepsOut_when)

theorem execVinRecovered_kept (mv : W32) (s : State) : KeepsOut s (execVinRecovered mv s) := by
  unfold execVinRecovered
  repeat' (first
    | with_reducible exact Keeps.refl _
    | with_reducible apply Keeps.trans ?_ (State.coldTrim_kept ..)
    | with_reducible apply Keeps.trans ?_ (State.vin_kept ..)
    | fail_if_no_progress (with_reducible apply keeps_mk)
    | with_reducible apply keepsOut_when)

theorem State.warnBegin_kept (s : State) (mv : Nat) : Keeps s (State.warnBegin s mv) := by
  unfold State.warnBegin
  repeat' (first
    | with_reducible exact Keeps.refl _
    | with_reducible apply Keeps.trans ?_ (State.count_kept ..)
    | with_reducible apply Keeps.trans ?_ (State.event_kept ..)
    | with_reducible apply Keeps.trans ?_ (State.vin_kept ..)
    | with_reducible apply keeps_ite
    | fail_if_no_progress (with_reducible apply keeps_mk))

theorem execSupplyWarnBegin_kept (mv : W32) (s : State) : KeepsOut s (execSupplyWarnBegin mv s) := by
  unfold execSupplyWarnBegin
  repeat' (first
    | with_reducible exact Keeps.refl _
    | with_reducible apply Keeps.trans ?_ (State.warnBegin_kept ..)
    | with_reducible apply keepsOut_when)

theorem State.warnEnd_kept (s : State) (mv : Nat) (lowest : Nat) : Keeps s (State.warnEnd s mv lowest) := by
  unfold State.warnEnd
  repeat' (first
    | with_reducible exact Keeps.refl _
    | with_reducible apply Keeps.trans ?_ (State.count_kept ..)
    | with_reducible apply Keeps.trans ?_ (State.dictSet_kept ..)
    | with_reducible apply Keeps.trans ?_ (State.event_kept ..)
    | with_reducible apply Keeps.trans ?_ (State.vin_kept ..)
    | fail_if_no_progress (with_reducible apply keeps_mk))

theorem execSupplyWarnEnd_kept (mv : W32) (lowest : W32) (s : State) : KeepsOut s (execSupplyWarnEnd mv lowest s) := by
  unfold execSupplyWarnEnd
  repeat' (first
    | with_reducible exact Keeps.refl _
    | with_reducible apply Keeps.trans ?_ (State.warnEnd_kept ..)
    | with_reducible apply keepsOut_when)

theorem State.supplyReset_kept (s : State) (mv : Nat) (cause : Nat) : Keeps s (State.supplyReset s mv cause) := by
  unfold State.supplyReset
  repeat' (first
    | with_reducible exact Keeps.refl _
    | with_reducible apply Keeps.trans ?_ (State.coldReset_kept ..)
    | with_reducible apply Keeps.trans ?_ (State.vin_kept ..)
    | fail_if_no_progress (with_reducible apply keeps_mk))

theorem execUndervoltage_kept (mv : W32) (s : State) : KeepsOut s (execUndervoltage mv s) := by
  unfold execUndervoltage
  repeat' (first
    | with_reducible exact Keeps.refl _
    | with_reducible apply Keeps.trans ?_ (State.supplyReset_kept ..)
    | with_reducible apply keepsOut_when)

theorem execOvervoltage_kept (mv : W32) (s : State) : KeepsOut s (execOvervoltage mv s) := by
  unfold execOvervoltage
  repeat' (first
    | with_reducible exact Keeps.refl _
    | with_reducible apply Keeps.trans ?_ (State.supplyReset_kept ..)
    | with_reducible apply keepsOut_when)

theorem execCrystalLoss_kept (s : State) : KeepsOut s (execCrystalLoss s) := by
  unfold execCrystalLoss
  repeat' (first
    | with_reducible exact Keeps.refl _
    | with_reducible apply Keeps.trans ?_ (State.coldReset_kept ..)
    | fail_if_no_progress (with_reducible apply keeps_mk)
    | with_reducible apply keepsOut_when)

theorem execCrystalConfirmed_kept (s : State) : KeepsOut s (execCrystalConfirmed s) := by
  unfold execCrystalConfirmed
  repeat' (first
    | with_reducible exact Keeps.refl _
    | with_reducible apply Keeps.trans ?_ (State.coldTrim_kept ..)
    | fail_if_no_progress (with_reducible apply keeps_mk)
    | with_reducible apply keepsOut_when)

theorem execModResetN_kept (s : State) : KeepsOut s (execModResetN s) := by
  unfold execModResetN
  repeat' (first
    | with_reducible exact Keeps.refl _
    | with_reducible apply Keeps.trans ?_ (State.coldReset_kept ..)
    | with_reducible apply keeps_ite
    | fail_if_no_progress (with_reducible apply keeps_mk)
    | with_reducible apply keepsOut_next)

theorem execModResetNRelease_kept (s : State) : KeepsOut s (execModResetNRelease s) := by
  unfold execModResetNRelease
  repeat' (first
    | with_reducible exact Keeps.refl _
    | with_reducible apply Keeps.trans ?_ (State.coldTrim_kept ..)
    | fail_if_no_progress (with_reducible apply keeps_mk)
    | with_reducible apply keepsOut_next)

theorem State.retrain_kept (s : State) (p : Nat) : Keeps s (State.retrain s p) := ⟨rfl, rfl, fun w => w⟩

theorem State.portReset_kept (s : State) (p : PortNo) (cause : Nat) (link : Bool) :
    Keeps s (State.portReset s p cause link) := by
  unfold State.portReset
  repeat' (first
    | with_reducible exact Keeps.refl _
    | with_reducible apply Keeps.trans ?_ (State.doReset_kept ..)
    | with_reducible apply Keeps.trans ?_ (State.retrain_kept ..)
    | with_reducible apply keeps_ite)

theorem execPerstAssert_kept (p : PortNo) (s : State) : KeepsOut s (execPerstAssert p s) := by
  unfold execPerstAssert
  repeat' (first
    | with_reducible exact Keeps.refl _
    | with_reducible apply Keeps.trans ?_ (State.portReset_kept ..)
    | with_reducible apply Keeps.trans ?_ (State.setPort_kept ..)
    | with_reducible apply keeps_ite
    | with_reducible apply keepsOut_next)

theorem execPerstDeassert_kept (p : PortNo) (s : State) : KeepsOut s (execPerstDeassert p s) := by
  unfold execPerstDeassert
  repeat' (first
    | with_reducible exact Keeps.refl _
    | with_reducible apply Keeps.trans ?_ (State.retrain_kept ..)
    | with_reducible apply Keeps.trans ?_ (State.setPort_kept ..)
    | with_reducible apply keeps_ite
    | with_reducible apply keepsOut_next)

theorem execHotReset_kept (p : PortNo) (s : State) : KeepsOut s (execHotReset p s) := by
  unfold execHotReset
  repeat' (first
    | with_reducible exact Keeps.refl _
    | with_reducible apply Keeps.trans ?_ (State.portReset_kept ..)
    | with_reducible apply keepsOut_when)

theorem execFlrPf_kept (p : PortNo) (s : State) : KeepsOut s (execFlrPf p s) := by
  unfold execFlrPf
  repeat' (first
    | with_reducible exact Keeps.refl _
    | with_reducible apply Keeps.trans ?_ (State.portReset_kept ..)
    | with_reducible apply keepsOut_when)

theorem State.flrVf_kept (s : State) (p : Nat) (f : Nat) : Keeps s (State.flrVf s p f) := by
  unfold State.flrVf
  repeat' (first
    | with_reducible exact Keeps.refl _
    | with_reducible apply Keeps.trans ?_ (State.doReset_kept ..)
    | with_reducible apply Keeps.trans ?_ (State.resetFn_kept ..)
    | split)

theorem execFlrVf_kept (p : PortNo) (f : FnNo) (s : State) : KeepsOut s (execFlrVf p f s) := by
  unfold execFlrVf
  repeat' (first
    | with_reducible exact Keeps.refl _
    | with_reducible apply Keeps.trans ?_ (State.flrVf_kept ..)
    | with_reducible apply keepsOut_when)

theorem State.setVfs_kept (s : State) (p : Nat) (num : Nat) (enable : Bool) : Keeps s (State.setVfs s p num enable) := by
  unfold State.setVfs
  repeat' (first
    | with_reducible exact Keeps.refl _
    | with_reducible apply Keeps.trans ?_ (State.flrVf_kept ..)
    | with_reducible apply Keeps.trans ?_ (State.setPort_kept ..)
    | with_reducible apply keeps_ite
    | with_reducible apply keeps_fold
    | intro _)

theorem execVfDisable_kept (p : PortNo) (num : Fin 16) (enable : Bool) (s : State) :
    KeepsOut s (execVfDisable p num enable s) := by
  unfold execVfDisable
  repeat' (first
    | with_reducible exact Keeps.refl _
    | with_reducible apply Keeps.trans ?_ (State.setVfs_kept ..)
    | with_reducible apply keepsOut_when)

theorem State.ethLinkDown_kept (s : State) (p : Nat) : Keeps s (State.ethLinkDown s p) := by
  unfold State.ethLinkDown
  repeat' (first
    | with_reducible exact Keeps.refl _
    | with_reducible apply Keeps.trans ?_ (State.noteFault_kept ..)
    | with_reducible apply Keeps.trans ?_ (State.count_kept ..)
    | with_reducible apply Keeps.trans ?_ (State.event_kept ..)
    | with_reducible apply Keeps.trans ?_ (State.setEth_kept ..)
    | fail_if_no_progress (with_reducible apply keeps_mk))

theorem execCorePllLockLoss_kept (c : CoreNo) (s : State) : KeepsOut s (execCorePllLockLoss c s) := by
  unfold execCorePllLockLoss
  repeat' (first
    | with_reducible exact Keeps.refl _
    | with_reducible apply Keeps.trans ?_ (State.doReset_kept ..)
    | with_reducible apply Keeps.trans ?_ (State.setPll_kept ..)
    | with_reducible apply keepsOut_when)

theorem execBasePllLockLoss_kept (n : Fin 12) (s : State) : KeepsOut s (execBasePllLockLoss n s) := by
  unfold execBasePllLockLoss
  repeat' (first
    | with_reducible exact Keeps.refl _
    | with_reducible apply Keeps.trans ?_ (State.coldReset_kept ..)
    | with_reducible apply keepsOut_when)

theorem State.cxlDown_kept (s : State) (e : Nat) : Keeps s (State.cxlDown s e) := by
  unfold State.cxlDown
  repeat' (first
    | with_reducible exact Keeps.refl _
    | with_reducible apply Keeps.trans ?_ (State.event_kept ..)
    | with_reducible apply Keeps.trans ?_ (State.setExpander_kept ..)
    | fail_if_no_progress (with_reducible apply keeps_mk))

theorem execSerdesPllLockLoss_kept (pll : PllId) (s : State) : KeepsOut s (execSerdesPllLockLoss pll s) := by
  unfold execSerdesPllLockLoss
  repeat' (first
    | with_reducible exact Keeps.refl _
    | with_reducible apply Keeps.trans ?_ (State.cxlDown_kept ..)
    | with_reducible apply Keeps.trans ?_ (State.ethLinkDown_kept ..)
    | with_reducible apply Keeps.trans ?_ (State.retrain_kept ..)
    | with_reducible apply Keeps.trans ?_ (State.setPll_kept ..)
    | with_reducible apply keeps_ite
    | with_reducible apply keeps_fold
    | fail_if_no_progress (with_reducible apply keeps_mk)
    | with_reducible apply keepsOut_next
    | intro _
    | fail_if_no_progress extract_lets
    | split)

theorem State.junction_kept (s : State) (mc : W32) : Keeps s (State.junction s mc) := by
  unfold State.junction
  repeat' (first
    | with_reducible exact Keeps.refl _
    | with_reducible apply Keeps.trans ?_ (State.dictSet_kept ..)
    | with_reducible apply keeps_ite
    | fail_if_no_progress (with_reducible apply keeps_mk))

theorem execThermal100_kept (mc : W32) (s : State) : KeepsOut s (execThermal100 mc s) := by
  unfold execThermal100
  repeat' (first
    | with_reducible exact Keeps.refl _
    | with_reducible apply Keeps.trans ?_ (State.event_kept ..)
    | with_reducible apply Keeps.trans ?_ (State.junction_kept ..)
    | with_reducible apply keeps_ite
    | fail_if_no_progress (with_reducible apply keeps_mk)
    | with_reducible apply keepsOut_when)

theorem execThermalRearm_kept (mc : W32) (s : State) : KeepsOut s (execThermalRearm mc s) := by
  unfold execThermalRearm
  repeat' (first
    | with_reducible exact Keeps.refl _
    | with_reducible apply Keeps.trans ?_ (State.junction_kept ..)
    | fail_if_no_progress (with_reducible apply keeps_mk)
    | with_reducible apply keepsOut_when)

theorem State.tripAgain_kept (s : State) : Keeps s (State.tripAgain s) := ⟨rfl, rfl, fun w => w⟩

theorem execProtectiveStop_kept (mc : W32) (s : State) : KeepsOut s (execProtectiveStop mc s) := by
  unfold execProtectiveStop
  repeat' (first
    | with_reducible exact Keeps.refl _
    | with_reducible apply Keeps.trans ?_ (State.warmReset_kept ..)
    | with_reducible apply Keeps.trans ?_ (State.junction_kept ..)
    | with_reducible apply Keeps.trans ?_ (State.tripAgain_kept ..)
    | with_reducible apply keeps_ite
    | fail_if_no_progress (with_reducible apply keeps_mk)
    | with_reducible apply keepsOut_when)

theorem execProtectHoldEnd_kept (mc : W32) (s : State) : KeepsOut s (execProtectHoldEnd mc s) := by
  unfold execProtectHoldEnd
  repeat' (first
    | with_reducible exact Keeps.refl _
    | with_reducible apply Keeps.trans ?_ (State.junction_kept ..)
    | fail_if_no_progress (with_reducible apply keeps_mk)
    | with_reducible apply keepsOut_when)

theorem execCxlExpanderReady_kept (e : Fin 2) (frames : Nat) (s : State) :
    KeepsOut s (execCxlExpanderReady e frames s) := by
  unfold execCxlExpanderReady
  repeat' (first
    | with_reducible exact Keeps.refl _
    | with_reducible apply Keeps.trans ?_ (State.cxlShort_kept ..)
    | with_reducible apply Keeps.trans ?_ (State.setExpander_kept ..)
    | with_reducible apply keepsOut_when)

theorem execCxlX16Timeout_kept (s : State) : KeepsOut s (execCxlX16Timeout s) := by
  unfold execCxlX16Timeout
  repeat' (first
    | with_reducible exact Keeps.refl _
    | fail_if_no_progress (with_reducible apply keeps_mk)
    | with_reducible apply keepsOut_when)

theorem execCxlLinkDown_kept (e : Fin 2) (s : State) : KeepsOut s (execCxlLinkDown e s) := by
  unfold execCxlLinkDown
  repeat' (first
    | with_reducible exact Keeps.refl _
    | with_reducible apply Keeps.trans ?_ (State.cxlDown_kept ..)
    | with_reducible apply keepsOut_when)

theorem execBlockIdle_kept (b : BlockNo) (s : State) : KeepsOut s (execBlockIdle b s) := by
  unfold execBlockIdle
  repeat' (first
    | with_reducible exact Keeps.refl _
    | with_reducible apply Keeps.trans ?_ (State.setBlock_kept ..)
    | with_reducible apply keepsOut_when)

theorem State.pllFollow_kept (s : State) (c : Nat) : Keeps s (State.pllFollow s c) := by
  unfold State.pllFollow
  repeat' (first
    | with_reducible exact Keeps.refl _
    | with_reducible apply Keeps.trans ?_ (State.setPll_kept ..)
    | with_reducible apply keeps_ite)

theorem execBlockSleep_kept (b : BlockNo) (s : State) : KeepsOut s (execBlockSleep b s) := by
  unfold execBlockSleep
  repeat' (first
    | with_reducible exact Keeps.refl _
    | with_reducible apply Keeps.trans ?_ (State.pllFollow_kept ..)
    | with_reducible apply Keeps.trans ?_ (State.setBlock_kept ..)
    | with_reducible apply keeps_ite
    | with_reducible apply keepsOut_when)

theorem State.wakeTo_kept (s : State) (b : Nat) (goal : PowerState) : Keeps s (State.wakeTo s b goal) := by
  unfold State.wakeTo
  repeat' (first
    | with_reducible exact Keeps.refl _
    | with_reducible apply Keeps.trans ?_ (State.setBlock_kept ..)
    | with_reducible apply Keeps.trans ?_ (State.setPll_kept ..)
    | with_reducible apply keeps_ite)

theorem State.pllUp_kept (s : State) (b : Nat) : Keeps s (State.pllUp s b) := by
  unfold State.pllUp
  repeat' (first
    | with_reducible exact Keeps.refl _
    | with_reducible apply Keeps.trans ?_ (State.setPll_kept ..)
    | with_reducible apply keeps_ite)

theorem State.scrubRestart_kept (s : State) (b : Nat) : Keeps s (State.scrubRestart s b) := by
  unfold State.scrubRestart
  repeat' (first
    | with_reducible exact Keeps.refl _
    | with_reducible apply Keeps.trans ?_ (State.setCore_kept ..)
    | split)

theorem execBlockWakeDone_kept (b : BlockNo) (s : State) : KeepsOut s (execBlockWakeDone b s) := by
  unfold execBlockWakeDone
  repeat' (first
    | with_reducible exact Keeps.refl _
    | with_reducible apply Keeps.trans ?_ (State.setBlock_kept ..)
    | with_reducible apply Keeps.trans ?_ (State.count_kept ..)
    | with_reducible apply Keeps.trans ?_ (State.pllUp_kept ..)
    | with_reducible apply Keeps.trans ?_ (State.scrubRestart_kept ..)
    | with_reducible apply keepsOut_when)

theorem execBlockLeaveOff_kept (b : BlockNo) (s : State) : KeepsOut s (execBlockLeaveOff b s) := by
  unfold execBlockLeaveOff
  repeat' (first
    | with_reducible exact Keeps.refl _
    | with_reducible apply Keeps.trans ?_ (State.setBlock_kept ..)
    | with_reducible apply Keeps.trans ?_ (State.zeroGroup_kept ..)
    | with_reducible apply Keeps.trans ?_ (State.allocArrived_kept ..)
    | with_reducible apply Keeps.trans ?_ (State.pllFollow_kept ..)
    | with_reducible apply Keeps.trans ?_ (State.pllUp_kept ..)
    | with_reducible apply Keeps.trans ?_ (State.scrubRestart_kept ..)
    | with_reducible apply keeps_ite
    | with_reducible apply keepsOut_when
    | split)

theorem execCoreOffTimer_kept (c : CoreNo) (s : State) : KeepsOut s (execCoreOffTimer c s) := by
  unfold execCoreOffTimer
  repeat' (first
    | with_reducible exact Keeps.refl _
    | with_reducible apply Keeps.trans ?_ (State.setCoreBlocks_kept ..)
    | with_reducible apply Keeps.trans ?_ (State.setPll_kept ..)
    | with_reducible apply keepsOut_when)

end Sys2Proof.Machine
end

