-- ==== Sys2Proof/Laws/KeepNet.lean ====
section
/-!
SUPPORT. Each operation of the copy commands, Silk and the collectives
keeps the fuses, the command queue and the canonical form of the memories, but those of Laws/Rises.lean, which raise fuses.
-/
namespace Sys2Proof.Machine

open Sys2Proof

theorem State.startOp_kept (s : State) (id : Nat) (op : Nat) (f : Cmd → State → State) (hf : ∀ (a0 : Cmd) (a1 : State), Keeps a1 (f a0 a1)) :
    Keeps s (State.startOp s id op f) := by
  unfold State.startOp
  repeat' (first
    | with_reducible exact Keeps.refl _
    | with_reducible apply Keeps.trans ?_ (hf _ _)
    | with_reducible apply Keeps.trans ?_ (State.beginCmd_kept ..)
    | with_reducible apply keeps_ite
    | split)

theorem execNop_kept (id : Nat) (s : State) : KeepsOut s (execNop id s) := by
  unfold execNop
  repeat' (first
    | with_reducible exact Keeps.refl _
    | with_reducible apply Keeps.trans ?_ (State.finishCmd_kept ..)
    | with_reducible apply Keeps.trans ?_ (State.startOp_kept _ _ _ _ ?_)
    | with_reducible apply keepsOut_next
    | intro _)

theorem execTokenReset_kept (id : Nat) (s : State) : KeepsOut s (execTokenReset id s) := by
  unfold execTokenReset
  repeat' (first
    | with_reducible exact Keeps.refl _
    | with_reducible apply Keeps.trans ?_ (State.finishCmd_kept ..)
    | with_reducible apply Keeps.trans ?_ (State.noteWaits_kept ..)
    | with_reducible apply Keeps.trans ?_ (State.setPart_kept ..)
    | with_reducible apply Keeps.trans ?_ (State.startOp_kept _ _ _ _ ?_)
    | with_reducible apply keepsOut_next
    | intro _)

theorem State.allocRun_kept (s : State) (c : Cmd) : Keeps s (State.allocRun s c) := by
  unfold State.allocRun
  repeat' (first
    | with_reducible exact Keeps.refl _
    | with_reducible apply Keeps.trans ?_ (State.allocGrant_kept ..)
    | with_reducible apply Keeps.trans ?_ (State.endCmd_kept ..)
    | with_reducible apply Keeps.trans ?_ (State.finishCmd_kept ..)
    | with_reducible apply Keeps.trans ?_ (State.setCmd_kept ..)
    | with_reducible apply Keeps.trans ?_ (State.startLeaveOff_kept ..)
    | with_reducible apply keeps_ite
    | with_reducible apply keeps_fold
    | intro _
    | fail_if_no_progress extract_lets
    | split)

theorem execAlloc_kept (id : Nat) (s : State) : KeepsOut s (execAlloc id s) := by
  unfold execAlloc
  repeat' (first
    | with_reducible exact Keeps.refl _
    | with_reducible apply Keeps.trans ?_ (State.startOp_kept _ _ _ _ ?_)
    | with_reducible apply Keeps.trans ?_ (State.allocRun_kept ..)
    | with_reducible apply keepsOut_when
    | intro _)

theorem State.freeRun_kept (s : State) (c : Cmd) : Keeps s (State.freeRun s c) := by
  unfold State.freeRun
  repeat' (first
    | with_reducible exact Keeps.refl _
    | with_reducible apply Keeps.trans ?_ (State.endCmd_kept ..)
    | with_reducible apply Keeps.trans ?_ (State.finishCmd_kept ..)
    | with_reducible apply Keeps.trans ?_ (State.freeApply_kept ..)
    | with_reducible apply Keeps.trans ?_ (State.setCore_kept ..)
    | with_reducible apply keeps_fold
    | intro _
    | fail_if_no_progress extract_lets
    | split)

theorem execFree_kept (id : Nat) (s : State) : KeepsOut s (execFree id s) := by
  unfold execFree
  repeat' (first
    | with_reducible exact Keeps.refl _
    | with_reducible apply Keeps.trans ?_ (State.freeRun_kept ..)
    | with_reducible apply Keeps.trans ?_ (State.startOp_kept _ _ _ _ ?_)
    | with_reducible apply keepsOut_next
    | with_reducible apply keepsOut_ite
    | intro _
    | split)

theorem State.mapLeaves_kept (s : State) (slot : Nat) (page : Nat) (n : Nat) (f : Nat → Leaf → Leaf) :
    Keeps s (State.mapLeaves s slot page n f) := ⟨rfl, rfl, fun w => w⟩

theorem State.setMigrating_kept (s : State) (slot : Nat) (page : Nat) (n : Nat) (b : Bool) :
    Keeps s (State.setMigrating s slot page n b) := ⟨rfl, rfl, fun w => w⟩

theorem State.setTier_kept (s : State) (id : Nat) (t : TierMove) : Keeps s (State.setTier s id t) := by
  unfold State.setTier
  repeat' (first
    | with_reducible exact Keeps.refl _
    | with_reducible apply Keeps.trans ?_ (State.setCmd_kept ..)
    | split)

theorem State.tierBegin_kept (s : State) (c : Cmd) (a : TierArgs) (pages : List (Nat × Nat)) :
    Keeps s (State.tierBegin s c a pages) := by
  unfold State.tierBegin
  repeat' (first
    | with_reducible exact Keeps.refl _
    | with_reducible apply Keeps.trans ?_ (State.setMigrating_kept ..)
    | with_reducible apply Keeps.trans ?_ (State.setTier_kept ..)
    | fail_if_no_progress extract_lets
    | split)

theorem State.tierStart_kept (s : State) (c : Cmd) (a : TierArgs) : Keeps s (State.tierStart s c a) := by
  unfold State.tierStart
  repeat' (first
    | with_reducible exact Keeps.refl _
    | with_reducible apply Keeps.trans ?_ (State.setFrame_kept ..)
    | with_reducible apply Keeps.trans ?_ (State.setCmd_kept ..)
    | with_reducible apply Keeps.trans ?_ (State.tierBegin_kept ..)
    | with_reducible apply keeps_fold
    | intro _
    | split)

theorem State.tierServe_kept (s : State) (c : Cmd) (n : Nat) (toCxl : Bool) :
    ∀ r0, (State.tierServe s c n toCxl) = some r0 → Keeps s r0 := by
  intro r0 h
  unfold State.tierServe at h
  extract_lets s1? at h
  have hs : ∀ t, s1? = some t → Keeps s t := by
    intro t e
    dsimp only [s1?] at e
    split at e
    · split at e
      · cases e; exact .refl _
      · cases e
    · split at e
      · cases e
        split
        · exact (State.setCmd_kept ..).trans (State.serveFloor_kept ..)
        · exact .refl _
      · cases e
  obtain ⟨t, e, rfl⟩ := Option.map_eq_some_iff.mp h
  refine (hs t e).trans ?_
  split
  · exact State.setCmd_kept ..
  · exact .refl _

theorem State.tierWait_kept (s : State) (c : Cmd) : Keeps s (State.tierWait s c) := by
  unfold State.tierWait
  repeat' (first
    | with_reducible exact Keeps.refl _
    | with_reducible apply Keeps.trans ?_ (State.setCmd_kept ..)
    | with_reducible apply keeps_ite
    | split)

theorem State.tierDrop_kept (s : State) (c : Cmd) (a : TierArgs) (e : Nat × Nat) : Keeps s (State.tierDrop s c a e) := by
  unfold State.tierDrop
  repeat' (first
    | with_reducible exact Keeps.refl _
    | with_reducible apply Keeps.trans ?_ (State.releaseFrame_kept ..)
    | with_reducible apply Keeps.trans ?_ (State.setMigrating_kept ..)
    | with_reducible apply keeps_fold
    | intro _)

theorem State.tierSwitch_kept (s : State) (c : Cmd) (a : TierArgs) (e : Nat × Nat) :
    Keeps s (State.tierSwitch s c a e) := by
  unfold State.tierSwitch
  repeat' (first
    | with_reducible exact Keeps.refl _
    | with_reducible apply Keeps.trans ?_ (State.count_kept ..)
    | with_reducible apply Keeps.trans ?_ (State.releaseFrame_kept ..)
    | with_reducible apply Keeps.trans ?_ (State.mapLeaves_kept ..)
    | with_reducible apply keeps_fold
    | intro _)

theorem State.tierRecopy_kept (s : State) (c : Cmd) (a : TierArgs) (e : Nat × Nat) (lines : List Nat) :
    Keeps s (State.tierRecopy s c a e lines) := by
  unfold State.tierRecopy
  repeat' (first
    | with_reducible exact Keeps.refl _
    | with_reducible apply Keeps.trans ?_ (State.copyTier_kept ..)
    | with_reducible apply keeps_fold
    | intro _)

theorem State.tierStep_kept (s : State) (c : Cmd) (a : TierArgs) : Keeps s (State.tierStep s c a) := by
  unfold State.tierStep
  repeat' (first
    | with_reducible exact Keeps.refl _
    | with_reducible apply Keeps.trans ?_ (State.count_kept ..)
    | with_reducible apply Keeps.trans ?_ (State.finishCmd_kept ..)
    | with_reducible apply Keeps.trans ?_ (State.notePoison_kept ..)
    | with_reducible apply Keeps.trans ?_ (State.copyTier_kept ..)
    | with_reducible apply Keeps.trans ?_ (State.setTier_kept ..)
    | with_reducible apply Keeps.trans ?_ (State.tierBegin_kept ..)
    | with_reducible refine Keeps.trans ?_ (State.tierServe_kept _ _ _ _ _ (by assumption))
    | with_reducible apply Keeps.trans ?_ (State.tierWait_kept ..)
    | with_reducible apply Keeps.trans ?_ (State.tierDrop_kept ..)
    | with_reducible apply Keeps.trans ?_ (State.tierSwitch_kept ..)
    | with_reducible apply Keeps.trans ?_ (State.tierRecopy_kept ..)
    | with_reducible apply keeps_ite
    | fail_if_no_progress extract_lets
    | split)

theorem State.tierCleanup_kept (s : State) (c : Cmd) : Keeps s (State.tierCleanup s c) := by
  unfold State.tierCleanup
  repeat' (first
    | with_reducible exact Keeps.refl _
    | with_reducible apply Keeps.trans ?_ (State.tierDrop_kept ..)
    | with_reducible apply keeps_ite
    | with_reducible apply keeps_fold
    | intro _)

theorem execTierDeclare_kept (id : Nat) (s : State) : KeepsOut s (execTierDeclare id s) := by
  unfold execTierDeclare
  repeat' (first
    | with_reducible exact Keeps.refl _
    | with_reducible apply Keeps.trans ?_ (State.endCmd_kept ..)
    | with_reducible apply Keeps.trans ?_ (State.finishCmd_kept ..)
    | with_reducible apply Keeps.trans ?_ (State.startOp_kept _ _ _ _ ?_)
    | with_reducible apply Keeps.trans ?_ (State.tierStart_kept ..)
    | with_reducible apply Keeps.trans ?_ (State.tierStep_kept ..)
    | with_reducible apply keeps_ite
    | with_reducible apply keepsOut_next
    | with_reducible apply keepsOut_ite
    | intro _
    | split)

theorem State.hostServe_kept (s : State) (c : Cmd) (n : Nat) (out : Bool) :
    ∀ r0, (State.hostServe s c n out) = some r0 → Keeps s r0 := by
  intro r0 h
  unfold State.hostServe at h
  obtain ⟨t, e, rfl⟩ := Option.map_eq_some_iff.mp h
  exact (State.regServe_kept _ _ _ _ _ _ _ _ e).trans (State.charge_kept ..)

theorem State.hostWriteTagged_kept (s : State) (p : Nat) (addr : Nat) (bs : List TByte) :
    Keeps s (State.hostWriteTagged s p addr bs) := by
  unfold State.hostWriteTagged
  repeat' (first
    | with_reducible exact Keeps.refl _
    | with_reducible apply Keeps.trans ?_ (State.hostWrite_kept ..)
    | with_reducible apply keeps_ite
    | fail_if_no_progress (with_reducible apply keeps_mk))

theorem State.dmaWrite_kept (s : State) (c : Cmd) (a : DmaArgs) (at_ : Nat) (bs : List TByte) :
    Keeps s (State.dmaWrite s c a at_ bs) := by
  unfold State.dmaWrite
  repeat' (first
    | with_reducible exact Keeps.refl _
    | with_reducible apply Keeps.trans ?_ (State.cmdWrite_kept ..)
    | with_reducible apply Keeps.trans ?_ (State.hostWriteTagged_kept ..)
    | with_reducible apply keeps_ite)

theorem State.dmaPiece_kept (s : State) (c : Cmd) (a : DmaArgs) (at_ : Nat) (n : Nat) (host : List Byte) :
    ∀ r0, (State.dmaPiece s c a at_ n host) = some r0 → Keeps s r0 := by
  intro r0 h
  unfold State.dmaPiece at h
  extract_lets k at h
  split at h
  · cases h
  rename_i s0 hb
  clear hb
  have hs : ∀ t, s0 = some t → Keeps s t := by
    intro t e
    dsimp only [s0] at e
    split at e
    · exact State.hostServe_kept _ _ _ _ _ e
    · cases e; exact .refl _
  clear_value s0
  cases s0 with
  | none => cases h
  | some s1 =>
  have h1 := hs s1 rfl
  dsimp -zeta only at h
  refine h1.trans ?_
  split at h
  · extract_lets s2 at h
    cases h
    have h2 : Keeps s1 s2 := State.dmaWrite_kept ..
    split
    · exact h2
    · exact h2.trans (State.pushLines_kept ..)
  extract_lets s2 at h
  have h2 : Keeps s1 s2 := State.pushLines_kept ..
  clear_value s2
  refine h2.trans ?_
  split at h
  · rename_i s3 bs e3
    have h3 : Keeps s2 s3 := keeps_fst e3 (State.cmdTagged_kept ..)
    extract_lets s4 at h
    cases h
    have h4 : Keeps s2 s4 := h3.trans (State.dmaWrite_kept ..)
    split
    · exact h4
    · exact h4.trans (State.pushLines_kept ..)
  · split at h
    · cases h; exact .refl _
    · split at h
      · rename_i s3 bs e3
        have h3 : Keeps s2 s3 := keeps_fst e3 (State.cmdTagged_kept ..)
        cases h
        refine Keeps.trans ?_ (State.endCmd_kept ..)
        split
        · exact h3
        · exact h3.trans (State.dmaWrite_kept ..)
      · rename_i s3 e3
        cases h
        exact keeps_fst e3 (State.cmdTagged_kept ..)

theorem State.dmaMove_kept (s : State) (id : Nat) (a : DmaArgs) (host : List Byte) (z4 : Nat) (z5 : Nat) :
    Keeps s (State.dmaMove s id a host z4 z5) := by
  fun_induction State.dmaMove s id a host z4 z5
  all_goals repeat' (first
    | with_reducible exact Keeps.refl _
    | with_reducible refine Keeps.trans ?_ (State.dmaPiece_kept _ _ _ _ _ _ _ (by assumption))
    | with_reducible apply Keeps.trans ?_ (State.finishCmd_kept ..)
    | with_reducible apply Keeps.trans ?_ (State.setCmd_kept ..)
    | with_reducible refine Keeps.after (by assumption) ?_)

theorem State.aimAlias_kept (s : State) (id : Nat) (slot : Nat) (va : Nat) :
    Keeps s (State.aimAlias s id slot va) := by
  unfold State.aimAlias
  repeat' (first
    | with_reducible exact Keeps.refl _
    | with_reducible apply Keeps.trans ?_ (State.setCmd_kept ..)
    | with_reducible apply keeps_ite
    | fail_if_no_progress (with_reducible apply keeps_mk)
    | fail_if_no_progress extract_lets
    | split)

theorem State.lateDone_kept (s : State) (which : LateTag → Bool) :
    Keeps s (State.lateDone s which) := by
  unfold State.lateDone
  repeat' (first
    | with_reducible exact Keeps.refl _
    | with_reducible apply Keeps.trans ?_ (State.setPort_kept ..)
    | with_reducible apply keeps_ite
    | with_reducible apply keeps_fold
    | intro _
    | fail_if_no_progress (with_reducible apply keeps_mk)
    | split)

theorem execDmaCopy_kept (id : Nat) (count : Nat) (host : List Byte) (s : State) :
    KeepsOut s (execDmaCopy id count host s) := by
  unfold execDmaCopy
  repeat' (first
    | with_reducible exact Keeps.refl _
    | with_reducible apply keepsOut_when
    | with_reducible apply keepsOut_next
    | with_reducible apply keepsOut_ite
    | with_reducible apply Keeps.trans ?_ (State.aimAlias_kept ..)
    | with_reducible apply Keeps.trans ?_ (State.count_kept ..)
    | with_reducible apply Keeps.trans ?_ (State.dmaMove_kept ..)
    | with_reducible apply Keeps.trans ?_ (State.lateDone_kept ..)
    | with_reducible apply Keeps.trans ?_ (State.setCmd_kept ..)
    | with_reducible apply Keeps.trans ?_ (State.startOp_kept _ _ _ _ ?_)
    | with_reducible apply keeps_ite
    | intro _
    | fail_if_no_progress (with_reducible apply keeps_mk)
    | fail_if_no_progress extract_lets
    | with_reducible refine keeps_fst (by assumption) ?_
    | split)

theorem State.gatherInvalid_kept (s : State) (id : Nat) : Keeps s (State.gatherInvalid s id) := by
  unfold State.gatherInvalid
  repeat' (first
    | with_reducible exact Keeps.refl _
    | with_reducible apply Keeps.trans ?_ (State.endCmd_kept ..)
    | with_reducible apply Keeps.trans ?_ (State.fresh_kept ..))

theorem State.gatherStart_kept (s : State) (c : Cmd) : Keeps s (State.gatherStart s c) := by
  unfold State.gatherStart
  repeat' (first
    | with_reducible exact Keeps.refl _
    | with_reducible apply Keeps.trans ?_ (State.descRead_kept ..)
    | with_reducible apply Keeps.trans ?_ (State.gatherInvalid_kept ..)
    | with_reducible apply Keeps.trans ?_ (State.setCmd_kept ..)
    | with_reducible apply Keeps.trans ?_ (State.setCore_kept ..)
    | with_reducible apply keeps_ite
    | fail_if_no_progress extract_lets
    | with_reducible refine keeps_fst (by assumption) ?_
    | split)

theorem State.gatherLines_kept (s : State) (k : Nat) (c : Cmd) (merge : Bool) (pos : Nat) (va : Nat) (z6 : List (Nat × Nat)) :
    Keeps s (State.gatherLines s k c merge pos va z6) := by
  fun_induction State.gatherLines s k c merge pos va z6
  all_goals repeat' (first
    | with_reducible exact Keeps.refl _
    | with_reducible apply Keeps.trans ?_ (State.setCore_kept ..)
    | with_reducible apply Keeps.trans ?_ (State.count_kept ..)
    | with_reducible apply Keeps.trans ?_ (State.charge_kept ..)
    | with_reducible apply Keeps.trans ?_ (State.pushLines_kept ..)
    | with_reducible apply keeps_ite
    | with_reducible refine Keeps.after (by assumption) ?_)

theorem State.indexLine_kept (s : State) (k : Nat) (c : Cmd) (g : GatherRun) (i : Nat) :
    Keeps s (State.indexLine s k c g i) := by
  unfold State.indexLine
  repeat' (first
    | with_reducible exact Keeps.refl _
    | with_reducible apply Keeps.trans ?_ (State.pushLines_kept ..)
    | with_reducible apply keeps_ite)

theorem State.gatherRow_kept (s : State) (k : Nat) (c : Cmd) (g : GatherRun) (i : Nat) :
    Keeps s (State.gatherRow s k c g i).1 := by
  unfold State.gatherRow
  repeat' (first
    | with_reducible exact Keeps.refl _
    | with_reducible apply Keeps.trans ?_ (State.setCmd_kept ..)
    | with_reducible apply Keeps.trans ?_ (State.count_kept ..)
    | with_reducible apply Keeps.trans ?_ (State.endCmd_kept ..)
    | with_reducible apply Keeps.trans ?_ (State.notePoison_kept ..)
    | with_reducible apply Keeps.trans ?_ (State.cmdTagged_kept ..)
    | with_reducible apply Keeps.trans ?_ (State.gatherLines_kept ..)
    | with_reducible apply Keeps.trans ?_ (State.indexLine_kept ..)
    | with_reducible apply keeps_ite
    | with_reducible apply keeps_ite1
    | fail_if_no_progress extract_lets
    | with_reducible refine keeps_fst (by assumption) ?_
    | dsimp -zeta only
    | split
    | dsimp +zetaDelta -zeta only)

theorem State.gatherOne_kept (s : State) (k : Nat) (c : Cmd) (g : GatherRun) : Keeps s (State.gatherOne s k c g) := by
  unfold State.gatherOne
  repeat' (first
    | with_reducible exact Keeps.refl _
    | with_reducible apply Keeps.trans ?_ (State.cmdScratchWrite_kept ..)
    | with_reducible apply Keeps.trans ?_ (State.gatherRow_kept ..)
    | with_reducible apply Keeps.trans ?_ (State.setCmd_kept ..)
    | with_reducible apply Keeps.trans ?_ (State.setCore_kept ..)
    | with_reducible apply keeps_ite
    | with_reducible apply keeps_ite1
    | fail_if_no_progress extract_lets
    | with_reducible refine keeps_fst (by assumption) ?_
    | split)

theorem State.gatherMove_kept (s : State) (id : Nat) (k : Nat) (z3 : Nat) (z4 : Nat) :
    Keeps s (State.gatherMove s id k z3 z4) := by
  fun_induction State.gatherMove s id k z3 z4
  all_goals repeat' (first
    | with_reducible exact Keeps.refl _
    | with_reducible apply Keeps.trans ?_ (State.finishCmd_kept ..)
    | with_reducible apply Keeps.trans ?_ (State.gatherOne_kept ..)
    | with_reducible refine Keeps.after (by assumption) ?_)

theorem execGather_kept (id : Nat) (count : Nat) (s : State) :
    KeepsOut s (execGather id count s) := by
  unfold execGather
  repeat' (first
    | with_reducible exact Keeps.refl _
    | with_reducible apply keepsOut_when
    | with_reducible apply keepsOut_next
    | with_reducible apply keepsOut_ite
    | with_reducible apply Keeps.trans ?_ (State.count_kept ..)
    | with_reducible apply Keeps.trans ?_ (State.gatherMove_kept ..)
    | with_reducible apply Keeps.trans ?_ (State.gatherStart_kept ..)
    | with_reducible apply Keeps.trans ?_ (State.startOp_kept _ _ _ _ ?_)
    | with_reducible apply keeps_ite
    | intro _
    | fail_if_no_progress (with_reducible apply keeps_mk)
    | fail_if_no_progress extract_lets
    | with_reducible refine keeps_fst (by assumption) ?_
    | split)

theorem State.holdTag_kept (s : State) (c : Cmd) : Keeps s (State.holdTag s c) := ⟨rfl, rfl, fun w => w⟩

theorem State.sourceError_kept (s : State) (c : Cmd) (addr : Nat) (tagHeld : Bool) :
    Keeps s (State.sourceError s c addr tagHeld) := by
  unfold State.sourceError
  repeat' (first
    | with_reducible exact Keeps.refl _
    | with_reducible apply Keeps.trans ?_ (State.noteFault_kept ..)
    | with_reducible apply Keeps.trans ?_ (State.endCmd_kept ..)
    | with_reducible apply Keeps.trans ?_ (State.holdTag_kept ..)
    | with_reducible apply keeps_ite)

theorem State.noteAer_kept (s : State) (f : Nat) (n : Nat) :
    Keeps s (State.noteAer s f n) := by
  unfold State.noteAer
  repeat' (first
    | with_reducible exact Keeps.refl _
    | with_reducible apply Keeps.trans ?_ (State.setFn_kept ..)
    | with_reducible apply keeps_ite
    | fail_if_no_progress (with_reducible apply keeps_mk))

theorem State.fillSaves_kept (s : State) (k : Nat) : Keeps s (State.fillSaves s k) := by
  refine keeps_foldl _ _ _ fun x g => ⟨rfl, rfl, fun w => ⟨w.1, w.2.1, ?_, w.2.2.2⟩⟩
  exact splice_wf 0 x.scratch _ _ (fun i => Config.freeByte x.freeCtr i) w.2.2.1

theorem State.beginSave_kept (s : State) (a : Cmd) (b : Cmd) :
    Keeps s (State.beginSave s a b) := by
  unfold State.beginSave
  repeat' (first
    | with_reducible exact Keeps.refl _
    | with_reducible apply Keeps.trans ?_ (State.fillSaves_kept ..)
    | with_reducible apply Keeps.trans ?_ (State.putTile_kept ..)
    | with_reducible apply Keeps.trans ?_ (State.setCmd_kept ..)
    | with_reducible apply keeps_ite
    | with_reducible apply keeps_fold
    | intro _
    | fail_if_no_progress (with_reducible apply keeps_mk)
    | fail_if_no_progress extract_lets)

theorem execCocoonSave_kept (c : CoreNo) (id : Nat) (s : State) : KeepsOut s (execCocoonSave c id s) := by
  unfold execCocoonSave
  repeat' (first
    | with_reducible exact Keeps.refl _
    | with_reducible apply Keeps.trans ?_ (State.beginSave_kept ..)
    | with_reducible apply keepsOut_when
    | with_reducible apply keepsOut_next
    | split)

theorem State.saveCore_kept (s : State) (id : Nat) (k : Nat) : Keeps s (State.saveCore s id k) := ⟨rfl, rfl, fun w => w⟩

theorem execCocoonSaveDone_kept (saved : GangReads) (id : Nat) (s : State) :
    KeepsOut s (execCocoonSaveDone saved id s) := by
  unfold execCocoonSaveDone
  repeat' (first
    | with_reducible exact Keeps.refl _
    | with_reducible apply keepsOut_when
    | with_reducible apply keepsOut_next
    | with_reducible apply keepsOut_ite
    | with_reducible apply Keeps.trans ?_ (State.count_kept ..)
    | with_reducible apply Keeps.trans ?_ (State.saveCore_kept ..)
    | with_reducible apply Keeps.trans ?_ (State.scratchErrs_kept ..)
    | with_reducible apply Keeps.trans ?_ (State.setCmd_kept ..)
    | with_reducible apply keeps_ite
    | with_reducible apply keeps_fold
    | intro _
    | fail_if_no_progress (with_reducible apply keeps_mk)
    | with_reducible refine keeps_fst (by assumption) ?_
    | split)

theorem execCocoonRestore_kept (c : CoreNo) (id : Nat) (s : State) : KeepsOut s (execCocoonRestore c id s) := by
  unfold execCocoonRestore
  repeat' (first
    | with_reducible exact Keeps.refl _
    | with_reducible apply Keeps.trans ?_ (State.setCmd_kept ..)
    | with_reducible apply keepsOut_when
    | with_reducible apply keepsOut_next
    | split)

theorem clears_wf {α : Type} (d : Byte) (l : List α) (lo : α → Nat) (n : Nat) (m : Mem) (w : tabWf d m = true) :
    tabWf d (l.foldl (fun m g => tabClear m (lo g) n) m) = true := by
  induction l generalizing m with
  | nil => exact w
  | cons g l ih => exact ih _ (tabClear_wf d m _ n w)

theorem State.restoreCore_kept (s : State) (id : Nat) (k : Nat) : Keeps s (State.restoreCore s id k) := by
  unfold State.restoreCore
  extract_lets e
  split
  · exact .refl s
  · extract_lets gs m p s1
    have h : Keeps s s1 := ⟨rfl, rfl, fun w => ⟨w.1, w.2.1, tabPaste_wf 0 m _ _ (clears_wf 0 gs _ _ _ w.2.2.1), w.2.2.2⟩⟩
    exact h.trans (State.setCore_kept ..)

theorem execCocoonRestoreDone_kept (c : CoreNo) (id : Nat) (s : State) :
    KeepsOut s (execCocoonRestoreDone c id s) := by
  unfold execCocoonRestoreDone
  repeat' (first
    | with_reducible exact Keeps.refl _
    | with_reducible apply keepsOut_when
    | with_reducible apply keepsOut_next
    | with_reducible apply keepsOut_ite
    | with_reducible apply Keeps.trans ?_ (State.restoreCore_kept ..)
    | with_reducible apply Keeps.trans ?_ (State.setCmd_kept ..)
    | with_reducible apply Keeps.trans ?_ (State.workReaches_kept ..)
    | with_reducible apply keeps_ite
    | with_reducible apply keeps_fold
    | intro _
    | fail_if_no_progress (with_reducible apply keeps_mk)
    | with_reducible refine keeps_fst (by assumption) ?_
    | split)

theorem State.flowTo_kept (s : State) (f : Nat) (st : FlowState) : Keeps s (State.flowTo s f st) := ⟨rfl, rfl, fun w => w⟩

theorem State.flowFail_kept (s : State) (f : Nat) (cause : Nat) : Keeps s (State.flowFail s f cause) := by
  unfold State.flowFail
  repeat' (first
    | with_reducible exact Keeps.refl _
    | with_reducible apply Keeps.trans ?_ (State.event_kept ..)
    | with_reducible apply Keeps.trans ?_ (State.flowLost_kept ..)
    | with_reducible apply Keeps.trans ?_ (State.flowOwnersFail_kept ..)
    | with_reducible apply Keeps.trans ?_ (State.flowTo_kept ..))

theorem State.forgetFlows_kept (s : State) (id : Nat) : Keeps s (State.forgetFlows s id) := by
  unfold State.forgetFlows
  repeat' (first
    | with_reducible exact Keeps.refl _
    | with_reducible apply Keeps.trans ?_ (State.setFlow_kept ..)
    | with_reducible apply keeps_fold
    | intro _)

theorem State.flowOpened_kept (s : State) (f : Nat) : Keeps s (State.flowOpened s f) := by
  unfold State.flowOpened
  repeat' (first
    | with_reducible exact Keeps.refl _
    | with_reducible apply Keeps.trans ?_ (State.finishCmd_kept ..)
    | with_reducible apply Keeps.trans ?_ (State.forgetFlows_kept ..)
    | with_reducible apply keeps_ite
    | split)

theorem State.openFlow_kept (s : State) (f : Nat) (credit : Nat) : Keeps s (State.openFlow s f credit) := by
  unfold State.openFlow
  repeat' (first
    | with_reducible exact Keeps.refl _
    | with_reducible apply Keeps.trans ?_ (State.flowOpened_kept ..)
    | with_reducible apply Keeps.trans ?_ (State.setFlow_kept ..))

theorem State.flowClosed_kept (s : State) (f : Nat) : Keeps s (State.flowClosed s f) := by
  unfold State.flowClosed
  repeat' (first
    | with_reducible exact Keeps.refl _
    | with_reducible apply Keeps.trans ?_ (State.closeFlow_kept ..)
    | with_reducible apply Keeps.trans ?_ (State.finishCmd_kept ..)
    | with_reducible apply keeps_ite
    | fail_if_no_progress extract_lets
    | split
    | dsimp +zetaDelta -zeta only)

theorem execLinkDown_kept (down : PortDown) (s : State) :
    KeepsOut s (execLinkDown down s) := by
  unfold execLinkDown
  repeat' (first
    | with_reducible exact Keeps.refl _
    | with_reducible apply Keeps.trans ?_ (State.count_kept ..)
    | with_reducible apply Keeps.trans ?_ (State.ethLinkDown_kept ..)
    | with_reducible apply Keeps.trans ?_ (State.noteFaults_kept ..)
    | with_reducible apply keepsOut_when)

theorem State.flowResume_kept (s : State) (f : Nat) :
    Keeps s (State.flowResume s f) := by
  unfold State.flowResume
  repeat' (first
    | with_reducible exact Keeps.refl _
    | with_reducible apply Keeps.trans ?_ (State.flowOpened_kept ..)
    | with_reducible apply Keeps.trans ?_ (State.resend_kept ..)
    | with_reducible apply Keeps.trans ?_ (State.sendAck_kept ..)
    | with_reducible apply Keeps.trans ?_ (State.setFlow_kept ..)
    | with_reducible apply keeps_ite
    | fail_if_no_progress (with_reducible apply keeps_mk)
    | fail_if_no_progress extract_lets
    | with_reducible refine keeps_fst (by assumption) ?_
    | split)

theorem State.ethLinkUp_kept (s : State) (up : PortUp) :
    Keeps s (State.ethLinkUp s up) := by
  unfold State.ethLinkUp
  repeat' (first
    | with_reducible exact Keeps.refl _
    | with_reducible apply Keeps.trans ?_ (State.event_kept ..)
    | with_reducible apply Keeps.trans ?_ (State.flowFail_kept ..)
    | with_reducible apply Keeps.trans ?_ (State.flowResume_kept ..)
    | with_reducible apply Keeps.trans ?_ (State.setEth_kept ..)
    | with_reducible apply keeps_ite
    | with_reducible apply keeps_fold
    | intro _
    | fail_if_no_progress (with_reducible apply keeps_mk)
    | fail_if_no_progress extract_lets)

theorem execLinkUp_kept (up : PortUp) (s : State) :
    KeepsOut s (execLinkUp up s) := by
  unfold execLinkUp
  repeat' (first
    | with_reducible exact Keeps.refl _
    | with_reducible apply keepsOut_when
    | with_reducible apply keepsOut_next
    | with_reducible apply keepsOut_ite
    | with_reducible apply Keeps.trans ?_ (State.ethLinkUp_kept ..)
    | with_reducible apply keeps_ite
    | fail_if_no_progress extract_lets)

theorem State.notSilk_kept (s : State) :
    Keeps s (State.notSilk s) := by
  unfold State.notSilk
  repeat' (first
    | with_reducible exact Keeps.refl _
    | with_reducible apply Keeps.trans ?_ (State.count_kept ..)
    | with_reducible apply keeps_ite)

theorem execArpRequest_kept (p : LaneNo) (target : W32) (sender : W32) (s : State) :
    KeepsOut s (execArpRequest p target sender s) := by
  unfold execArpRequest
  repeat' (first
    | with_reducible exact Keeps.refl _
    | with_reducible apply keepsOut_when
    | with_reducible apply keepsOut_next
    | with_reducible apply keepsOut_ite
    | with_reducible apply Keeps.trans ?_ (State.notSilk_kept ..)
    | with_reducible apply keeps_ite
    | fail_if_no_progress (with_reducible apply keeps_mk))

theorem execNeighborSolicitation_kept (p : LaneNo) (target : BitVec 128) (sender : BitVec 128) (s : State) :
    KeepsOut s (execNeighborSolicitation p target sender s) := by
  unfold execNeighborSolicitation
  repeat' (first
    | with_reducible exact Keeps.refl _
    | with_reducible apply keepsOut_when
    | with_reducible apply keepsOut_next
    | with_reducible apply keepsOut_ite
    | with_reducible apply Keeps.trans ?_ (State.notSilk_kept ..)
    | with_reducible apply keeps_ite
    | fail_if_no_progress (with_reducible apply keeps_mk))

theorem execEchoRequest_kept (p : LaneNo) (v6 : Bool) (target : BitVec 128) (data : List Byte) (s : State) :
    KeepsOut s (execEchoRequest p v6 target data s) := by
  unfold execEchoRequest
  repeat' (first
    | with_reducible exact Keeps.refl _
    | with_reducible apply keepsOut_when
    | with_reducible apply keepsOut_next
    | with_reducible apply keepsOut_ite
    | with_reducible apply Keeps.trans ?_ (State.notSilk_kept ..)
    | with_reducible apply Keeps.trans ?_ (State.setEth_kept ..)
    | with_reducible apply keeps_ite
    | fail_if_no_progress (with_reducible apply keeps_mk)
    | fail_if_no_progress extract_lets)

theorem execNonSilkFrame_kept (lane : Fin 18) (s : State) : KeepsOut s (execNonSilkFrame lane s) := by
  unfold execNonSilkFrame
  repeat' (first
    | with_reducible exact Keeps.refl _
    | with_reducible apply Keeps.trans ?_ (State.notSilk_kept ..)
    | with_reducible apply keepsOut_when)

theorem execPauseFrame_kept (p : EthNo) (s : State) : KeepsOut s (execPauseFrame p s) := by
  unfold execPauseFrame
  repeat' (first
    | with_reducible exact Keeps.refl _
    | with_reducible apply Keeps.trans ?_ (State.count_kept ..)
    | with_reducible apply keepsOut_when)

theorem execPfcFrame_kept (p : EthNo) (pcp : Fin 8) (xoff : Bool) (s : State) : KeepsOut s (execPfcFrame p pcp xoff s) := by
  unfold execPfcFrame
  repeat' (first
    | with_reducible exact Keeps.refl _
    | with_reducible apply Keeps.trans ?_ (State.notSilk_kept ..)
    | with_reducible apply Keeps.trans ?_ (State.setEth_kept ..)
    | with_reducible apply keeps_ite
    | with_reducible apply keepsOut_when)

theorem State.askHop_kept (s : State) (f : Nat) : Keeps s (State.askHop s f) := by
  unfold State.askHop
  repeat' (first
    | with_reducible exact Keeps.refl _
    | with_reducible apply Keeps.trans ?_ (State.setFlow_kept ..)
    | with_reducible apply keeps_ite
    | fail_if_no_progress (with_reducible apply keeps_mk))

theorem State.tryOpen_kept (s : State) (f : Nat) : Keeps s (State.tryOpen s f) := by
  unfold State.tryOpen
  repeat' (first
    | with_reducible exact Keeps.refl _
    | with_reducible apply Keeps.trans ?_ (State.sendOpen_kept ..)
    | with_reducible apply keeps_ite)

theorem execNextHopResolved_kept (hop : NextHop) (s : State) :
    KeepsOut s (execNextHopResolved hop s) := by
  unfold execNextHopResolved
  repeat' (first
    | with_reducible exact Keeps.refl _
    | with_reducible apply Keeps.trans ?_ (State.setFlow_kept ..)
    | with_reducible apply Keeps.trans ?_ (State.tryOpen_kept ..)
    | with_reducible apply keepsOut_when)

theorem execNextHopRetry_kept (flow : FlowNo) (s : State) : KeepsOut s (execNextHopRetry flow s) := by
  unfold execNextHopRetry
  repeat' (first
    | with_reducible exact Keeps.refl _
    | with_reducible apply Keeps.trans ?_ (State.askHop_kept ..)
    | with_reducible apply keepsOut_when)

theorem State.dropPkt_kept (s : State) (h : Silk) (n : Nat) : Keeps s (State.dropPkt s h n) := by
  unfold State.dropPkt
  repeat' (first
    | with_reducible exact Keeps.refl _
    | with_reducible apply Keeps.trans ?_ (State.count_kept ..)
    | with_reducible apply Keeps.trans ?_ (State.sendAck_kept ..)
    | with_reducible apply keeps_ite
    | split)

theorem State.heard_kept (s : State) (f : Nat) :
    Keeps s (State.heard s f) := by
  unfold State.heard
  repeat' (first
    | with_reducible exact Keeps.refl _
    | with_reducible apply Keeps.trans ?_ (State.event_kept ..)
    | with_reducible apply Keeps.trans ?_ (State.flowOpened_kept ..)
    | with_reducible apply Keeps.trans ?_ (State.flowTo_kept ..)
    | with_reducible apply Keeps.trans ?_ (State.setFlow_kept ..)
    | with_reducible apply keeps_ite
    | fail_if_no_progress (with_reducible apply keeps_mk)
    | fail_if_no_progress extract_lets)

theorem State.receive_kept (s : State) (ty : Nat) (k : SilkPkt) (f : Silk → State → State) (hf : ∀ (a0 : Silk) (a1 : State), Keeps a1 (f a0 a1)) :
    Keeps s (State.receive s ty k f) := by
  unfold State.receive
  repeat' (first
    | with_reducible exact Keeps.refl _
    | with_reducible apply Keeps.trans ?_ (State.notSilk_kept ..)
    | with_reducible apply Keeps.trans ?_ (hf _ _)
    | with_reducible apply Keeps.trans ?_ (State.count_kept ..)
    | with_reducible apply Keeps.trans ?_ (State.dropPkt_kept ..)
    | with_reducible apply Keeps.trans ?_ (State.heard_kept ..)
    | with_reducible apply keeps_ite
    | split)

theorem execData_kept (k : SilkPkt) (s : State) : KeepsOut s (execData k s) := by
  unfold execData
  repeat' (first
    | with_reducible exact Keeps.refl _
    | with_reducible apply Keeps.trans ?_ (State.settlePeer_kept ..)
    | with_reducible apply Keeps.trans ?_ (State.acceptData_kept ..)
    | with_reducible apply Keeps.trans ?_ (State.bufferTake_kept ..)
    | with_reducible apply Keeps.trans ?_ (State.peerTouch_kept ..)
    | with_reducible apply Keeps.trans ?_ (State.receive_kept _ _ _ _ ?_)
    | with_reducible apply keeps_ite
    | with_reducible apply keepsOut_next
    | intro _
    | split)

theorem State.afterAck_kept (s : State) (old : Flow) (f : Nat) :
    Keeps s (State.afterAck s old f) := by
  unfold State.afterAck
  repeat' (first
    | with_reducible exact Keeps.refl _
    | with_reducible apply Keeps.trans ?_ (State.flowClosed_kept ..)
    | with_reducible apply Keeps.trans ?_ (State.peerTouch_kept ..)
    | with_reducible apply Keeps.trans ?_ (State.sendClose_kept ..)
    | with_reducible apply Keeps.trans ?_ (State.settlePeer_kept ..)
    | with_reducible apply keeps_ite
    | with_reducible apply keeps_fold
    | intro _
    | fail_if_no_progress extract_lets)

theorem execAck_kept (k : SilkPkt) (s : State) : KeepsOut s (execAck k s) := by
  unfold execAck
  repeat' (first
    | with_reducible exact Keeps.refl _
    | with_reducible apply Keeps.trans ?_ (State.ackFlow_kept ..)
    | with_reducible apply Keeps.trans ?_ (State.afterAck_kept ..)
    | with_reducible apply Keeps.trans ?_ (State.receive_kept _ _ _ _ ?_)
    | with_reducible apply keepsOut_next
    | intro _)

theorem execKeepalive_kept (k : SilkPkt) (s : State) : KeepsOut s (execKeepalive k s) := by
  unfold execKeepalive
  repeat' (first
    | with_reducible exact Keeps.refl _
    | with_reducible apply Keeps.trans ?_ (State.ackFlow_kept ..)
    | with_reducible apply Keeps.trans ?_ (State.afterAck_kept ..)
    | with_reducible apply Keeps.trans ?_ (State.receive_kept _ _ _ _ ?_)
    | with_reducible apply keepsOut_next
    | intro _)

theorem execDepart_kept (k : SilkPkt) (s : State) : KeepsOut s (execDepart k s) := by
  unfold execDepart
  repeat' (first
    | with_reducible exact Keeps.refl _
    | with_reducible apply Keeps.trans ?_ (State.count_kept ..)
    | with_reducible apply Keeps.trans ?_ (State.flowFail_kept ..)
    | with_reducible apply Keeps.trans ?_ (State.receive_kept _ _ _ _ ?_)
    | with_reducible apply keepsOut_next
    | intro _)

theorem execOpenPkt_kept (k : SilkPkt) (s : State) : KeepsOut s (execOpenPkt k s) := by
  unfold execOpenPkt
  repeat' (first
    | with_reducible exact Keeps.refl _
    | with_reducible apply Keeps.trans ?_ (State.openFlow_kept ..)
    | with_reducible apply Keeps.trans ?_ (State.receive_kept _ _ _ _ ?_)
    | with_reducible apply Keeps.trans ?_ (State.sendOpen_kept ..)
    | with_reducible apply keepsOut_next
    | intro _
    | split)

theorem execOpenAck_kept (k : SilkPkt) (s : State) : KeepsOut s (execOpenAck k s) := by
  unfold execOpenAck
  repeat' (first
    | with_reducible exact Keeps.refl _
    | with_reducible apply Keeps.trans ?_ (State.openFlow_kept ..)
    | with_reducible apply Keeps.trans ?_ (State.receive_kept _ _ _ _ ?_)
    | with_reducible apply keeps_ite
    | with_reducible apply keepsOut_next
    | intro _)

theorem execClosePkt_kept (k : SilkPkt) (s : State) : KeepsOut s (execClosePkt k s) := by
  unfold execClosePkt
  repeat' (first
    | with_reducible exact Keeps.refl _
    | with_reducible apply Keeps.trans ?_ (State.flowClosed_kept ..)
    | with_reducible apply Keeps.trans ?_ (State.flowFail_kept ..)
    | with_reducible apply Keeps.trans ?_ (State.receive_kept _ _ _ _ ?_)
    | with_reducible apply Keeps.trans ?_ (State.sendAck_kept ..)
    | with_reducible apply Keeps.trans ?_ (State.setFlow_kept ..)
    | with_reducible apply keeps_ite
    | with_reducible apply keepsOut_next
    | intro _)

theorem State.takeTurn_kept (s : State) (p : Nat) (slot : Nat) (f : Nat) (floor : Bool) :
    Keeps s (State.takeTurn s p slot f floor) := by
  unfold State.takeTurn
  repeat' (first
    | with_reducible exact Keeps.refl _
    | with_reducible apply Keeps.trans ?_ (State.setEth_kept ..)
    | with_reducible apply keeps_ite
    | fail_if_no_progress (with_reducible apply keeps_mk)
    | fail_if_no_progress extract_lets)

theorem State.sendNew_kept (s : State) (slot : Nat) (f : Nat) (floor : Bool) :
    Keeps s (State.sendNew s slot f floor) := by
  unfold State.sendNew
  repeat' (first
    | with_reducible exact Keeps.refl _
    | with_reducible apply Keeps.trans ?_ (State.count_kept ..)
    | with_reducible apply Keeps.trans ?_ (State.sendFirst_kept ..)
    | with_reducible apply Keeps.trans ?_ (State.serveFloor_kept ..)
    | with_reducible apply Keeps.trans ?_ (State.serveSpare_kept ..)
    | with_reducible apply Keeps.trans ?_ (State.settlePeer_kept ..)
    | with_reducible apply keeps_ite
    | fail_if_no_progress (with_reducible apply keeps_mk)
    | fail_if_no_progress extract_lets
    | with_reducible refine keeps_fst (by assumption) ?_
    | split)

theorem State.sendOne_kept (s : State) (p : Nat) (slot : Nat) (f : Nat) (floor : Bool) :
    Keeps s (State.sendOne s p slot f floor) := by
  unfold State.sendOne
  repeat' (first
    | with_reducible exact Keeps.refl _
    | with_reducible apply Keeps.trans ?_ (State.resend_kept ..)
    | with_reducible apply Keeps.trans ?_ (State.sendNew_kept ..)
    | with_reducible apply Keeps.trans ?_ (State.takeTurn_kept ..)
    | with_reducible apply keeps_ite
    | fail_if_no_progress (with_reducible apply keeps_mk)
    | fail_if_no_progress extract_lets
    | with_reducible refine keeps_fst (by assumption) ?_
    | split)

theorem execDataSend_kept (p : EthNo) (s : State) : KeepsOut s (execDataSend p s) := by
  unfold execDataSend
  repeat' (first
    | with_reducible exact Keeps.refl _
    | with_reducible apply Keeps.trans ?_ (State.resend_kept ..)
    | with_reducible apply Keeps.trans ?_ (State.sendOne_kept ..)
    | with_reducible apply keepsOut_next
    | with_reducible apply keepsOut_ite
    | split)

theorem execOpenResend_kept (flow : FlowNo) (s : State) : KeepsOut s (execOpenResend flow s) := by
  unfold execOpenResend
  repeat' (first
    | with_reducible exact Keeps.refl _
    | with_reducible apply Keeps.trans ?_ (State.tryOpen_kept ..)
    | with_reducible apply keepsOut_when)

theorem execKeepaliveTimer_kept (flow : FlowNo) (s : State) : KeepsOut s (execKeepaliveTimer flow s) := by
  unfold execKeepaliveTimer
  repeat' (first
    | with_reducible exact Keeps.refl _
    | with_reducible apply Keeps.trans ?_ (State.sendAck_kept ..)
    | with_reducible apply keepsOut_when)

theorem execPeerTimeout_kept (flow : FlowNo) (s : State) : KeepsOut s (execPeerTimeout flow s) := by
  unfold execPeerTimeout
  repeat' (first
    | with_reducible exact Keeps.refl _
    | with_reducible apply Keeps.trans ?_ (State.event_kept ..)
    | with_reducible apply Keeps.trans ?_ (State.flowLost_kept ..)
    | with_reducible apply Keeps.trans ?_ (State.flowTo_kept ..)
    | with_reducible apply keepsOut_when)

theorem execFlowHoldExpiry_kept (flow : FlowNo) (s : State) : KeepsOut s (execFlowHoldExpiry flow s) := by
  unfold execFlowHoldExpiry
  repeat' (first
    | with_reducible exact Keeps.refl _
    | with_reducible apply Keeps.trans ?_ (State.flowFail_kept ..)
    | with_reducible apply keepsOut_when)

theorem State.rtoFire_kept (s : State) (f : Nat) :
    Keeps s (State.rtoFire s f) := by
  unfold State.rtoFire
  repeat' (first
    | with_reducible exact Keeps.refl _
    | with_reducible apply Keeps.trans ?_ (State.count_kept ..)
    | with_reducible apply Keeps.trans ?_ (State.flowFail_kept ..)
    | with_reducible apply Keeps.trans ?_ (State.markDue_kept ..)
    | with_reducible apply Keeps.trans ?_ (State.setFlow_kept ..)
    | with_reducible apply keeps_ite
    | fail_if_no_progress (with_reducible apply keeps_mk)
    | fail_if_no_progress extract_lets
    | with_reducible refine keeps_fst (by assumption) ?_
    | split)

theorem execRtoExpiry_kept (flow : FlowNo) (s : State) : KeepsOut s (execRtoExpiry flow s) := by
  unfold execRtoExpiry
  repeat' (first
    | with_reducible exact Keeps.refl _
    | with_reducible apply Keeps.trans ?_ (State.rtoFire_kept ..)
    | with_reducible apply keepsOut_when)

theorem execAckDelay_kept (flow : FlowNo) (s : State) : KeepsOut s (execAckDelay flow s) := by
  unfold execAckDelay
  repeat' (first
    | with_reducible exact Keeps.refl _
    | with_reducible apply Keeps.trans ?_ (State.sendAck_kept ..)
    | with_reducible apply keepsOut_when)

theorem execCcRound_kept (flow : FlowNo) (s : State) : KeepsOut s (execCcRound flow s) := by
  unfold execCcRound
  repeat' (first
    | with_reducible exact Keeps.refl _
    | with_reducible apply Keeps.trans ?_ (State.setFlow_kept ..)
    | with_reducible apply keepsOut_when)

theorem State.startFlow_kept (s : State) (id : Nat) (slot : Nat) (i : Nat) (d : List Byte) :
    Keeps s (State.startFlow s id slot i d) := by
  unfold State.startFlow
  repeat' (first
    | with_reducible exact Keeps.refl _
    | with_reducible apply Keeps.trans ?_ (State.askHop_kept ..)
    | with_reducible apply Keeps.trans ?_ (State.setFlow_kept ..)
    | with_reducible apply Keeps.trans ?_ (State.tryOpen_kept ..)
    | with_reducible apply keeps_ite)

theorem execFlowOpen_kept (id : Nat) (s : State) : KeepsOut s (execFlowOpen id s) := by
  unfold execFlowOpen
  repeat' (first
    | with_reducible exact Keeps.refl _
    | with_reducible apply Keeps.trans ?_ (State.descRead_kept ..)
    | with_reducible apply Keeps.trans ?_ (State.endCmd_kept ..)
    | with_reducible apply Keeps.trans ?_ (State.startFlow_kept ..)
    | with_reducible apply Keeps.trans ?_ (State.startOp_kept _ _ _ _ ?_)
    | with_reducible apply keeps_ite
    | with_reducible apply keeps_fold
    | with_reducible apply keepsOut_next
    | with_reducible apply keepsOut_ite
    | intro _
    | fail_if_no_progress extract_lets
    | with_reducible refine keeps_fst (by assumption) ?_
    | split)

theorem State.openTimeout_kept (s : State) (id : Nat) : Keeps s (State.openTimeout s id) := by
  unfold State.openTimeout
  repeat' (first
    | with_reducible exact Keeps.refl _
    | with_reducible apply Keeps.trans ?_ (State.closeFlow_kept ..)
    | with_reducible apply Keeps.trans ?_ (State.endCmd_kept ..)
    | with_reducible apply Keeps.trans ?_ (State.sendClose_kept ..)
    | with_reducible apply keeps_fold
    | intro _)

theorem execFlowOpenTimeout_kept (id : Nat) (s : State) : KeepsOut s (execFlowOpenTimeout id s) := by
  unfold execFlowOpenTimeout
  repeat' (first
    | with_reducible exact Keeps.refl _
    | with_reducible apply Keeps.trans ?_ (State.openTimeout_kept ..)
    | with_reducible apply keepsOut_when
    | with_reducible apply keepsOut_next
    | split)

theorem State.startClose_kept (s : State) (id : Nat) (i : Nat) (f : Nat) : Keeps s (State.startClose s id i f) := by
  unfold State.startClose
  repeat' (first
    | with_reducible exact Keeps.refl _
    | with_reducible apply Keeps.trans ?_ (State.closeFlow_kept ..)
    | with_reducible apply Keeps.trans ?_ (State.sendClose_kept ..)
    | with_reducible apply Keeps.trans ?_ (State.setFlow_kept ..)
    | with_reducible apply keeps_ite
    | fail_if_no_progress extract_lets
    | split)

theorem execFlowClose_kept (id : Nat) (s : State) : KeepsOut s (execFlowClose id s) := by
  unfold execFlowClose
  repeat' (first
    | with_reducible exact Keeps.refl _
    | with_reducible apply Keeps.trans ?_ (State.descRead_kept ..)
    | with_reducible apply Keeps.trans ?_ (State.endCmd_kept ..)
    | with_reducible apply Keeps.trans ?_ (State.finishCmd_kept ..)
    | with_reducible apply Keeps.trans ?_ (State.startClose_kept ..)
    | with_reducible apply Keeps.trans ?_ (State.startOp_kept _ _ _ _ ?_)
    | with_reducible apply keeps_ite
    | with_reducible apply keeps_fold
    | with_reducible apply keepsOut_next
    | with_reducible apply keepsOut_ite
    | intro _
    | fail_if_no_progress extract_lets
    | with_reducible refine keeps_fst (by assumption) ?_
    | split)

theorem State.closeDeadline_kept (s : State) (id : Nat) : Keeps s (State.closeDeadline s id) := by
  unfold State.closeDeadline
  repeat' (first
    | with_reducible exact Keeps.refl _
    | with_reducible apply Keeps.trans ?_ (State.closeFlow_kept ..)
    | with_reducible apply Keeps.trans ?_ (State.finishCmd_kept ..)
    | with_reducible apply keeps_fold
    | intro _)

theorem execFlowCloseDeadline_kept (id : Nat) (s : State) : KeepsOut s (execFlowCloseDeadline id s) := by
  unfold execFlowCloseDeadline
  repeat' (first
    | with_reducible exact Keeps.refl _
    | with_reducible apply Keeps.trans ?_ (State.closeDeadline_kept ..)
    | with_reducible apply keepsOut_when
    | with_reducible apply keepsOut_next
    | split)

theorem State.noteLowest_kept (s : State) (id : Nat) (addr : Nat) : Keeps s (State.noteLowest s id addr) := by
  unfold State.noteLowest
  repeat' (first
    | with_reducible exact Keeps.refl _
    | with_reducible apply Keeps.trans ?_ (State.setCmd_kept ..)
    | split)

theorem State.chargeOwn_kept (s : State) (c : Coll) (lo : Nat) (n : Nat) : Keeps s (State.chargeOwn s c lo n) := by
  unfold State.chargeOwn
  repeat' (first
    | with_reducible exact Keeps.refl _
    | with_reducible apply Keeps.trans ?_ (State.chargeRead_kept ..))

theorem State.putOut_kept (s : State) (c : Coll) (va : Nat) (bs : List Byte) (bad : Bool) :
    Keeps s (State.putOut s c va bs bad).1 := by
  unfold State.putOut
  repeat' (first
    | with_reducible exact Keeps.refl _
    | with_reducible apply Keeps.trans ?_ (State.cmdWrite_kept ..)
    | with_reducible apply Keeps.trans ?_ (State.noteLowest_kept ..)
    | with_reducible apply keeps_ite)

theorem State.putFinals_kept (s : State) (c : Coll) (lo : Nat) (vals : List W32) (bad : Bool) :
    Keeps s (State.putFinals s c lo vals bad).1 := by
  unfold State.putFinals
  repeat' (first
    | with_reducible exact Keeps.refl _
    | with_reducible apply Keeps.trans ?_ (State.putOut_kept ..))

theorem State.sumPackets_kept (s : State) (c : Coll) (a : Act) (hd : RxPkt) (i : Nat) (z5 : List (List Byte × Bool)) :
    Keeps s (State.sumPackets s c a hd i z5).1 := by
  fun_induction State.sumPackets s c a hd i z5
  all_goals repeat' (first
    | with_reducible exact Keeps.refl _
    | with_reducible apply Keeps.trans ?_ (State.chargeOwn_kept ..)
    | with_reducible apply Keeps.trans ?_ (State.count_kept ..)
    | with_reducible apply Keeps.trans ?_ (State.endCmd_kept ..)
    | with_reducible apply Keeps.trans ?_ (State.putFinals_kept ..)
    | with_reducible apply keeps_ite
    | with_reducible refine keeps_fst (by assumption) ?_
    | with_reducible refine Keeps.after (by assumption) ?_)

theorem State.rxSum_kept (s : State) (c : Coll) (a : Act) (hd : RxPkt) (ps : List (List Byte × Bool)) :
    Keeps s (State.rxSum s c a hd ps).1 := by
  unfold State.rxSum
  repeat' (first
    | with_reducible exact Keeps.refl _
    | with_reducible apply Keeps.trans ?_ (State.sumPackets_kept ..)
    | fail_if_no_progress (with_reducible apply keeps_mk))

theorem State.headWrong_kept (s : State) (c : Coll) (a : Act) : Keeps s (State.headWrong s c a) := by
  unfold State.headWrong
  repeat' (first
    | with_reducible exact Keeps.refl _
    | with_reducible apply Keeps.trans ?_ (State.collFail_kept ..)
    | with_reducible apply keeps_ite)

theorem State.movePacket_kept (s : State) (c : Coll) (a : Act) (p : List Byte × Bool) :
    Keeps s (State.movePacket s c a p).1 := by
  unfold State.movePacket
  repeat' (first
    | with_reducible exact Keeps.refl _
    | with_reducible apply Keeps.trans ?_ (State.headWrong_kept ..)
    | with_reducible apply Keeps.trans ?_ (State.putOut_kept ..)
    | with_reducible apply keeps_ite1)

theorem State.movePackets_kept (s : State) (c : Coll) (a : Act) (z3 : List (List Byte × Bool)) :
    Keeps s (State.movePackets s c a z3).1 := by
  fun_induction State.movePackets s c a z3
  all_goals repeat' (first
    | with_reducible exact Keeps.refl _
    | with_reducible apply Keeps.trans ?_ (State.movePacket_kept ..)
    | with_reducible refine keeps_fst (by assumption) ?_
    | with_reducible refine Keeps.after (by assumption) ?_)

theorem State.countMoved_kept (s : State) (c : Coll) (n : Nat) (tx : Bool) : Keeps s (State.countMoved s c n tx) := by
  unfold State.countMoved
  repeat' (first
    | with_reducible exact Keeps.refl _
    | with_reducible apply Keeps.trans ?_ (State.count_kept ..)
    | with_reducible apply keeps_ite
    | split)

theorem State.rxMove_kept (s : State) (c : Coll) (a : Act) (ps : List (List Byte × Bool)) :
    Keeps s (State.rxMove s c a ps).1 := by
  unfold State.rxMove
  repeat' (first
    | with_reducible exact Keeps.refl _
    | with_reducible apply Keeps.trans ?_ (State.cmdWrite_kept ..)
    | with_reducible apply Keeps.trans ?_ (State.countMoved_kept ..)
    | with_reducible apply Keeps.trans ?_ (State.movePackets_kept ..)
    | with_reducible apply keeps_ite1)

theorem State.applySync_kept (s : State) (slot : Nat) (r : List Byte) : Keeps s (State.applySync s slot r).1 := by
  unfold State.applySync
  repeat' (first
    | with_reducible exact Keeps.refl _
    | with_reducible apply Keeps.trans ?_ (State.vwrite_kept ..)
    | with_reducible apply keeps_ite1
    | with_reducible apply keeps_fold2
    | intro _
    | with_reducible refine keeps_fst (by assumption) ?_
    | split)

theorem State.rxSync_kept (s : State) (c : Coll) (a : Act) (ps : List (List Byte × Bool)) :
    Keeps s (State.rxSync s c a ps).1 := by
  unfold State.rxSync
  repeat' (first
    | with_reducible exact Keeps.refl _
    | with_reducible apply Keeps.trans ?_ (State.setTables_kept ..)
    | fail_if_no_progress extract_lets
    | with_reducible apply Keeps.trans ?_ (State.applySync_kept ..)
    | with_reducible apply keeps_ite1)

theorem State.takeChunk_kept (s : State) (c : Coll) (f : Nat) (a : Act) (l : List (Nat × RxPkt)) :
    Keeps s (State.takeChunk s c f a l) := by
  unfold State.takeChunk
  repeat' (first
    | with_reducible exact Keeps.refl _
    | with_reducible apply Keeps.trans ?_ (State.collStop_kept ..)
    | with_reducible apply Keeps.trans ?_ (State.consume_kept ..)
    | with_reducible apply Keeps.trans ?_ (State.rxMove_kept ..)
    | with_reducible apply Keeps.trans ?_ (State.rxSum_kept ..)
    | with_reducible apply Keeps.trans ?_ (State.rxSync_kept ..)
    | with_reducible apply Keeps.trans ?_ (State.setColl_kept ..)
    | with_reducible apply keeps_ite
    | fail_if_no_progress (with_reducible apply keeps_mk)
    | fail_if_no_progress extract_lets
    | with_reducible refine keeps_fst (by assumption) ?_
    | split)

theorem State.sendAct_kept (s : State) (c : Coll) (a : Act) (ps : List (List Byte × Bool)) (contrib : Nat) (nf : Bool) (record : Bool) :
    Keeps s (State.sendAct s c a ps contrib nf record) := ⟨rfl, rfl, fun w => w⟩

theorem State.txSum_kept (s : State) (c : Coll) (a : Act) : Keeps s (State.txSum s c a) := by
  unfold State.txSum
  repeat' (first
    | with_reducible exact Keeps.refl _
    | with_reducible apply Keeps.trans ?_ (State.chargeOwn_kept ..)
    | with_reducible apply Keeps.trans ?_ (State.collStop_kept ..)
    | with_reducible apply Keeps.trans ?_ (State.sendAct_kept ..)
    | with_reducible apply keeps_ite
    | fail_if_no_progress (with_reducible apply keeps_mk)
    | fail_if_no_progress extract_lets
    | split)

theorem State.txMove_kept (s : State) (c : Coll) (a : Act) : Keeps s (State.txMove s c a) := by
  unfold State.txMove
  repeat' (first
    | with_reducible exact Keeps.refl _
    | with_reducible apply Keeps.trans ?_ (State.chargeRead_kept ..)
    | with_reducible apply Keeps.trans ?_ (State.collStop_kept ..)
    | with_reducible apply Keeps.trans ?_ (State.countMoved_kept ..)
    | with_reducible apply Keeps.trans ?_ (State.sendAct_kept ..)
    | fail_if_no_progress extract_lets
    | split)

theorem State.copyLines_kept (s : State) (c : Coll) (a : Act) (z3 : List (Nat × Nat)) :
    Keeps s (State.copyLines s c a z3).1 := by
  fun_induction State.copyLines s c a z3
  all_goals repeat' (first
    | with_reducible exact Keeps.refl _
    | with_reducible apply Keeps.trans ?_ (State.chargeRead_kept ..)
    | with_reducible apply Keeps.trans ?_ (State.endCmd_kept ..)
    | with_reducible apply Keeps.trans ?_ (State.putOut_kept ..)
    | with_reducible refine keeps_fst (by assumption) ?_
    | with_reducible refine Keeps.after (by assumption) ?_)

theorem State.doCopy_kept (s : State) (c : Coll) (a : Act) : Keeps s (State.doCopy s c a) := by
  unfold State.doCopy
  repeat' (first
    | with_reducible exact Keeps.refl _
    | with_reducible apply Keeps.trans ?_ (State.cmdWrite_kept ..)
    | with_reducible apply Keeps.trans ?_ (State.copyLines_kept ..)
    | with_reducible apply Keeps.trans ?_ (State.setColl_kept ..)
    | with_reducible apply keeps_ite
    | with_reducible apply keeps_ite1)

theorem State.formFrom_kept (s : State) (c : Coll) (a : Act) (z3 : Nat) (z4 : Nat) :
    Keeps s (State.formFrom s c a z3 z4).1 := by
  fun_induction State.formFrom s c a z3 z4
  all_goals repeat' (first
    | with_reducible exact Keeps.refl _
    | with_reducible apply Keeps.trans ?_ (State.chargeOwn_kept ..)
    | with_reducible apply Keeps.trans ?_ (State.endCmd_kept ..)
    | with_reducible apply Keeps.trans ?_ (State.putFinals_kept ..)
    | with_reducible refine keeps_fst (by assumption) ?_
    | with_reducible refine Keeps.after (by assumption) ?_)

theorem State.doAct_kept (s : State) (c : Coll) (a : Act) : Keeps s (State.doAct s c a) := by
  unfold State.doAct
  repeat' (first
    | with_reducible exact Keeps.refl _
    | with_reducible apply Keeps.trans ?_ (State.doCopy_kept ..)
    | with_reducible apply Keeps.trans ?_ (State.formFrom_kept ..)
    | with_reducible apply Keeps.trans ?_ (State.sendAct_kept ..)
    | with_reducible apply Keeps.trans ?_ (State.setColl_kept ..)
    | with_reducible apply Keeps.trans ?_ (State.txMove_kept ..)
    | with_reducible apply Keeps.trans ?_ (State.txSum_kept ..)
    | dsimp -zeta only
    | split)

theorem State.moltUnits_kept (s : State) (c : Coll) : Keeps s (State.moltUnits s c) := by
  unfold State.moltUnits
  repeat' (first
    | with_reducible exact Keeps.refl _
    | with_reducible apply Keeps.trans ?_ (State.setLongop_kept ..)
    | with_reducible apply keeps_ite
    | fail_if_no_progress extract_lets
    | split)

theorem State.collEnd_kept (s : State) (id : Nat) :
    Keeps s (State.collEnd s id) := by
  unfold State.collEnd
  repeat' (first
    | with_reducible exact Keeps.refl _
    | with_reducible apply Keeps.trans ?_ (State.collStop_kept ..)
    | with_reducible apply Keeps.trans ?_ (State.dropColl_kept ..)
    | with_reducible apply Keeps.trans ?_ (State.endCmd_kept ..)
    | with_reducible apply Keeps.trans ?_ (State.finishCmd_kept ..)
    | with_reducible apply Keeps.trans ?_ (State.fresh_kept ..)
    | with_reducible apply Keeps.trans ?_ (State.moltUnits_kept ..)
    | with_reducible apply Keeps.trans ?_ (State.settlePeer_kept ..)
    | with_reducible apply keeps_ite
    | fail_if_no_progress (with_reducible apply keeps_mk)
    | fail_if_no_progress extract_lets
    | with_reducible refine keeps_fst (by assumption) ?_
    | split)

theorem State.feedTouch_kept (s : State) (old : Coll) : Keeps s (State.feedTouch s old) := by
  unfold State.feedTouch
  repeat' (first
    | with_reducible exact Keeps.refl _
    | with_reducible apply Keeps.trans ?_ (State.peerDone_kept ..)
    | with_reducible apply Keeps.trans ?_ (State.peerTouch_kept ..)
    | with_reducible apply keeps_ite
    | with_reducible apply keeps_fold
    | intro _
    | fail_if_no_progress extract_lets
    | split)

theorem State.serve_kept (s : State) (c : Coll) :
    Keeps s (State.serve s c) := by
  unfold State.serve
  repeat' (first
    | with_reducible exact Keeps.refl _
    | with_reducible apply Keeps.trans ?_ (State.collEnd_kept ..)
    | with_reducible apply Keeps.trans ?_ (State.collFail_kept ..)
    | with_reducible apply Keeps.trans ?_ (State.consume_kept ..)
    | with_reducible apply Keeps.trans ?_ (State.doAct_kept ..)
    | with_reducible apply Keeps.trans ?_ (State.feedTouch_kept ..)
    | with_reducible apply Keeps.trans ?_ (State.takeChunk_kept ..)
    | with_reducible apply keeps_ite
    | fail_if_no_progress (with_reducible apply keeps_mk)
    | with_reducible refine keeps_fst (by assumption) ?_
    | split)

theorem execChunkServe_kept (id : Nat) (s : State) : KeepsOut s (execChunkServe id s) := by
  unfold execChunkServe
  repeat' (first
    | with_reducible exact Keeps.refl _
    | with_reducible apply Keeps.trans ?_ (State.serve_kept ..)
    | with_reducible apply keepsOut_next
    | with_reducible apply keepsOut_ite
    | split)

theorem State.takePlace_kept (s : State) (id : Nat) (c : Coll) :
    Keeps s (State.takePlace s id c) := by
  unfold State.takePlace
  repeat' (first
    | with_reducible exact Keeps.refl _
    | with_reducible apply Keeps.trans ?_ (State.addColl_kept ..)
    | with_reducible apply Keeps.trans ?_ (State.setCmd_kept ..)
    | with_reducible apply Keeps.trans ?_ (State.settlePeer_kept ..)
    | with_reducible apply keeps_ite
    | fail_if_no_progress (with_reducible apply keeps_mk)
    | fail_if_no_progress extract_lets
    | with_reducible refine keeps_fst (by assumption) ?_
    | split)

theorem State.collStart_kept (s : State) (c : Cmd) : Keeps s (State.collStart s c) := by
  unfold State.collStart
  repeat' (first
    | with_reducible exact Keeps.refl _
    | with_reducible apply Keeps.trans ?_ (State.aimAlias_kept ..)
    | with_reducible apply Keeps.trans ?_ (State.descRead_kept ..)
    | with_reducible apply Keeps.trans ?_ (State.endCmd_kept ..)
    | with_reducible apply Keeps.trans ?_ (State.takePlace_kept ..)
    | with_reducible apply keeps_ite
    | with_reducible apply keeps_ite1
    | fail_if_no_progress extract_lets
    | with_reducible refine keeps_fst (by assumption) ?_
    | split
    | simp_all only
    | dsimp +zetaDelta -zeta only)

theorem execCollective_kept (id : Nat) (s : State) : KeepsOut s (execCollective id s) := by
  unfold execCollective
  repeat' (first
    | with_reducible exact Keeps.refl _
    | with_reducible apply Keeps.trans ?_ (State.collStart_kept ..)
    | with_reducible apply Keeps.trans ?_ (State.startOp_kept _ _ _ _ ?_)
    | with_reducible apply keepsOut_next
    | with_reducible apply keepsOut_ite
    | intro _
    | split)

theorem execCollTimeout_kept (id : Nat) (s : State) : KeepsOut s (execCollTimeout id s) := by
  unfold execCollTimeout
  repeat' (first
    | with_reducible exact Keeps.refl _
    | with_reducible apply Keeps.trans ?_ (State.collAborted_kept ..)
    | with_reducible apply Keeps.trans ?_ (State.collFail_kept ..)
    | with_reducible apply keepsOut_when
    | with_reducible apply keepsOut_next
    | split)

end Sys2Proof.Machine
end

