-- ==== Sys2Proof/Laws/KeepPart.lean ====
section
/-!
SUPPORT. Each operation of long operations, votes, updates, molts and weights
keeps the fuses, the command queue and the canonical form of the memories, but those of Laws/Rises.lean, which raise fuses.
-/
namespace Sys2Proof.Machine

open Sys2Proof

theorem State.onHandle_kept (s : State) (slot : Nat) (h : Nat) (f : LongOp → LongOp) :
    Keeps s (State.onHandle s slot h f) := ⟨rfl, rfl, fun w => w⟩

theorem State.openSegment_kept (s : State) (slot : Nat) (h : Nat) (id : Nat) : Keeps s (State.openSegment s slot h id) := ⟨rfl, rfl, fun w => w⟩

theorem State.endSome_kept (s : State) (id : Option Nat) (status : Nat) (detail : Nat) :
    Keeps s (State.endSome s id status detail) := by
  unfold State.endSome
  repeat' (first
    | with_reducible exact Keeps.refl _
    | with_reducible apply Keeps.trans ?_ (State.endCmd_kept ..)
    | split)

theorem State.freeHandle_kept (s : State) (slot : Nat) (h : Nat) (status : Nat) :
    Keeps s (State.freeHandle s slot h status) := by
  unfold State.freeHandle
  repeat' (first
    | with_reducible exact Keeps.refl _
    | with_reducible apply Keeps.trans ?_ (State.endSome_kept ..)
    | with_reducible apply Keeps.trans ?_ (State.event_kept ..)
    | with_reducible apply Keeps.trans ?_ (State.setLongop_kept ..)
    | fail_if_no_progress (with_reducible apply keeps_mk))

theorem State.endSegment_kept (s : State) (slot : Nat) (h : Nat) (id : Nat) (status : Nat) (detail : Nat) :
    Keeps s (State.endSegment s slot h id status detail) := by
  unfold State.endSegment
  repeat' (first
    | with_reducible exact Keeps.refl _
    | with_reducible apply Keeps.trans ?_ (State.endCmd_kept ..)
    | with_reducible apply Keeps.trans ?_ (State.freeHandle_kept ..))

theorem State.toDiapause_kept (s : State) (slot : Nat) (h : Nat) : Keeps s (State.toDiapause s slot h) := by
  unfold State.toDiapause
  repeat' (first
    | with_reducible exact Keeps.refl _
    | with_reducible apply Keeps.trans ?_ (State.endSome_kept ..)
    | with_reducible apply Keeps.trans ?_ (State.event_kept ..)
    | with_reducible apply Keeps.trans ?_ (State.setLongop_kept ..))

theorem State.tear_kept (s : State) (slot : Nat) (scrubs : Bool) (except : Option Nat) :
    Keeps s (State.tear s slot scrubs except) := ⟨rfl, rfl, fun w => w⟩

theorem State.ckptPut_kept (s : State) (c : Cmd) (r : CkptRange) (off : Nat) (bs : List TByte) :
    Keeps s (State.ckptPut s c r off bs).1 := by
  unfold State.ckptPut
  repeat' (first
    | with_reducible exact Keeps.refl _
    | with_reducible apply Keeps.trans ?_ (State.charge_kept ..)
    | with_reducible apply Keeps.trans ?_ (State.cmdWrite_kept ..)
    | with_reducible apply Keeps.trans ?_ (State.hostWriteTagged_kept ..)
    | with_reducible apply keeps_ite1)

theorem State.ckptPieces_kept (s : State) (c : Cmd) (r : CkptRange) (z3 : List (Nat × Nat)) :
    Keeps s (State.ckptPieces s c r z3).1 := by
  fun_induction State.ckptPieces s c r z3
  all_goals repeat' (first
    | with_reducible exact Keeps.refl _
    | with_reducible apply Keeps.trans ?_ (State.ckptPut_kept ..)
    | with_reducible apply Keeps.trans ?_ (State.cmdTagged_kept ..)
    | with_reducible apply Keeps.trans ?_ (State.count_kept ..)
    | with_reducible refine keeps_fst (by assumption) ?_
    | with_reducible refine Keeps.after (by assumption) ?_)

theorem State.ckptUnit_kept (s : State) (c : Cmd) (h : Nat) (u : Nat) (limit : Nat) :
    Keeps s (State.ckptUnit s c h u limit).1 := by
  unfold State.ckptUnit
  repeat' (first
    | with_reducible exact Keeps.refl _
    | with_reducible apply Keeps.trans ?_ (State.ckptPieces_kept ..)
    | fail_if_no_progress extract_lets
    | split)

theorem State.preread_kept (s : State) (slot : Nat) (h : Nat) :
    Keeps s (State.preread s slot h) := by
  unfold State.preread
  repeat' (first
    | with_reducible exact Keeps.refl _
    | with_reducible apply Keeps.trans ?_ (State.ckptUnit_kept ..)
    | with_reducible apply Keeps.trans ?_ (State.onHandle_kept ..)
    | with_reducible apply keeps_ite
    | fail_if_no_progress (with_reducible apply keeps_mk)
    | fail_if_no_progress extract_lets
    | with_reducible refine keeps_fst (by assumption) ?_
    | split
    | dsimp +zetaDelta -zeta only)

theorem State.writeLiveSide_kept (s : State) (slot : Nat) (scrubs : Bool) (except : Option Nat) :
    Keeps s (State.writeLiveSide s slot scrubs except) := by
  unfold State.writeLiveSide
  repeat' (first
    | with_reducible exact Keeps.refl _
    | with_reducible apply Keeps.trans ?_ (State.preread_kept ..)
    | with_reducible apply Keeps.trans ?_ (State.setPart_kept ..)
    | with_reducible apply Keeps.trans ?_ (State.tear_kept ..)
    | with_reducible apply keeps_ite
    | with_reducible apply keeps_fold
    | intro _
    | fail_if_no_progress (with_reducible apply keeps_mk)
    | fail_if_no_progress extract_lets)

theorem State.rollback_kept (s : State) (slot : Nat) (detail : Nat) (except : Option Nat) :
    Keeps s (State.rollback s slot detail except) := by
  unfold State.rollback
  repeat' (first
    | with_reducible exact Keeps.refl _
    | with_reducible apply Keeps.trans ?_ (State.count_kept ..)
    | with_reducible apply Keeps.trans ?_ (State.event_kept ..)
    | with_reducible apply Keeps.trans ?_ (State.reseed_kept ..)
    | with_reducible apply Keeps.trans ?_ (State.setPart_kept ..)
    | with_reducible apply Keeps.trans ?_ (State.writeLiveSide_kept ..))

theorem State.firm_kept (s : State) (slot : Nat) : Keeps s (State.firm s slot) := by
  unfold State.firm
  repeat' (first
    | with_reducible exact Keeps.refl _
    | with_reducible apply Keeps.trans ?_ (State.event_kept ..)
    | with_reducible apply Keeps.trans ?_ (State.reseed_kept ..)
    | with_reducible apply Keeps.trans ?_ (State.setPart_kept ..))

theorem State.clearSampled_kept (s : State) (slot : Nat) : Keeps s (State.clearSampled s slot) := by
  unfold State.clearSampled
  repeat' (first
    | with_reducible exact Keeps.refl _
    | with_reducible apply Keeps.trans ?_ (State.setCore_kept ..)
    | with_reducible apply Keeps.trans ?_ (State.setPart_kept ..)
    | with_reducible apply keeps_fold
    | intro _)

theorem State.joinBrood_kept (s : State) (slot : Nat) (b : W32) :
    Keeps s (State.joinBrood s slot b) := by
  unfold State.joinBrood
  repeat' (first
    | with_reducible exact Keeps.refl _
    | with_reducible apply Keeps.trans ?_ (State.setPart_kept ..)
    | with_reducible apply keeps_ite
    | fail_if_no_progress (with_reducible apply keeps_mk))

theorem State.setBrood_kept (s : State) (slot : Nat) (flows : List Nat) :
    Keeps s (State.setBrood s slot flows) := by
  unfold State.setBrood
  repeat' (first
    | with_reducible exact Keeps.refl _
    | with_reducible apply Keeps.trans ?_ (State.joinBrood_kept ..)
    | with_reducible apply keeps_ite
    | fail_if_no_progress (with_reducible apply keeps_mk)
    | with_reducible refine keeps_fst (by assumption) ?_
    | split)

theorem State.voteBegin_kept (s : State) (c : Cmd) (bs : List Byte) (tbl : List Byte) :
    Keeps s (State.voteBegin s c bs tbl) := by
  unfold State.voteBegin
  repeat' (first
    | with_reducible exact Keeps.refl _
    | with_reducible apply Keeps.trans ?_ (State.clearSampled_kept ..)
    | with_reducible apply Keeps.trans ?_ (State.setBrood_kept ..)
    | with_reducible apply Keeps.trans ?_ (State.setPart_kept ..)
    | with_reducible apply Keeps.trans ?_ (State.takePlace_kept ..)
    | with_reducible apply keeps_ite)

theorem State.voteStart_kept (s : State) (c : Cmd) : Keeps s (State.voteStart s c) := by
  unfold State.voteStart
  repeat' (first
    | with_reducible exact Keeps.refl _
    | with_reducible apply Keeps.trans ?_ (State.descRead_kept ..)
    | with_reducible apply Keeps.trans ?_ (State.endCmd_kept ..)
    | with_reducible apply Keeps.trans ?_ (State.voteBegin_kept ..)
    | with_reducible apply keeps_ite
    | with_reducible refine keeps_fst (by assumption) ?_
    | split)

theorem execVote_kept (id : Nat) (s : State) : KeepsOut s (execVote id s) := by
  unfold execVote
  repeat' (first
    | with_reducible exact Keeps.refl _
    | with_reducible apply Keeps.trans ?_ (State.startOp_kept _ _ _ _ ?_)
    | with_reducible apply Keeps.trans ?_ (State.voteStart_kept ..)
    | with_reducible apply keepsOut_next
    | with_reducible apply keepsOut_ite
    | intro _
    | split)

theorem execResolve_kept (id : Nat) (s : State) : KeepsOut s (execResolve id s) := by
  unfold execResolve
  repeat' (first
    | with_reducible exact Keeps.refl _
    | with_reducible apply Keeps.trans ?_ (State.startOp_kept _ _ _ _ ?_)
    | with_reducible apply Keeps.trans ?_ (State.voteStart_kept ..)
    | with_reducible apply keepsOut_next
    | with_reducible apply keepsOut_ite
    | intro _
    | split)

theorem State.eclose_kept (s : State) (slot : Nat) (commit : Bool) : Keeps s (State.eclose s slot commit) := by
  unfold State.eclose
  repeat' (first
    | with_reducible exact Keeps.refl _
    | with_reducible apply Keeps.trans ?_ (State.discard_kept ..)
    | with_reducible apply Keeps.trans ?_ (State.reseed_kept ..)
    | with_reducible apply Keeps.trans ?_ (State.writeLiveSide_kept ..)
    | with_reducible apply keeps_ite)

theorem State.passStep_kept (s : State) (slot : Nat) (step : W64) (r : List Byte) (commit : Bool) :
    Keeps s (State.passStep s slot step r commit) := by
  unfold State.passStep
  repeat' (first
    | with_reducible exact Keeps.refl _
    | with_reducible apply Keeps.trans ?_ (State.setPart_kept ..)
    | with_reducible apply Keeps.trans ?_ (State.stepGroups_kept ..)
    | with_reducible apply Keeps.trans ?_ (State.stepTrackers_kept ..))

theorem State.passMolt_kept (s : State) (slot : Nat) (step : W64) : Keeps s (State.passMolt s slot step) := by
  unfold State.passMolt
  repeat' (first
    | with_reducible exact Keeps.refl _
    | with_reducible apply Keeps.trans ?_ (State.setGroup_kept ..)
    | with_reducible apply Keeps.trans ?_ (State.setPart_kept ..)
    | with_reducible apply keeps_ite
    | with_reducible apply keeps_fold
    | intro _
    | split)

theorem State.recordPoint_kept (s : State) (slot : Nat) (pt : Point) (st : StepState) :
    Keeps s (State.recordPoint s slot pt st) := ⟨rfl, rfl, fun w => w⟩

theorem State.applyPoint_kept (s : State) (slot : Nat) (step : W64) (instar : W32) (molt : Bool) (commit : Bool) (r : List Byte) (st : StepState) :
    Keeps s (State.applyPoint s slot step instar molt commit r st) := by
  unfold State.applyPoint
  repeat' (first
    | with_reducible exact Keeps.refl _
    | with_reducible apply Keeps.trans ?_ (State.eclose_kept ..)
    | with_reducible apply Keeps.trans ?_ (State.event_kept ..)
    | with_reducible apply Keeps.trans ?_ (State.passMolt_kept ..)
    | with_reducible apply Keeps.trans ?_ (State.passStep_kept ..)
    | with_reducible apply Keeps.trans ?_ (State.recordPoint_kept ..)
    | with_reducible apply keeps_ite)

theorem State.putRecord_kept (s : State) (slot : Nat) (va : Nat) (r : List Byte) :
    Keeps s (State.putRecord s slot va r) := by
  unfold State.putRecord
  repeat' (first
    | with_reducible exact Keeps.refl _
    | with_reducible apply Keeps.trans ?_ (State.vwrite_kept ..))

theorem State.applyPointOf_kept (s : State) (id : Nat) (slot : Nat) (step : W64) (instar : W32) (molt : Bool) (commit : Bool) (r : List Byte) (st : StepState) :
    Keeps s (State.applyPointOf s id slot step instar molt commit r st) := by
  unfold State.applyPointOf
  repeat' (first
    | with_reducible exact Keeps.refl _
    | with_reducible apply Keeps.trans ?_ (State.applyPoint_kept ..)
    | with_reducible apply Keeps.trans ?_ (State.setTables_kept ..)
    | with_reducible apply keeps_ite)

theorem State.stepResult_kept (s : State) (c : Coll) :
    Keeps s (State.stepResult s c) := by
  unfold State.stepResult
  repeat' (first
    | with_reducible exact Keeps.refl _
    | with_reducible apply Keeps.trans ?_ (State.applyPointOf_kept ..)
    | with_reducible apply Keeps.trans ?_ (State.count_kept ..)
    | with_reducible apply Keeps.trans ?_ (State.dropColl_kept ..)
    | with_reducible apply Keeps.trans ?_ (State.endCmd_kept ..)
    | with_reducible apply Keeps.trans ?_ (State.peerDone_kept ..)
    | with_reducible apply Keeps.trans ?_ (State.putRecord_kept ..)
    | with_reducible apply keeps_ite
    | fail_if_no_progress extract_lets)

theorem State.resolveResult_kept (s : State) (c : Coll) :
    Keeps s (State.resolveResult s c) := by
  unfold State.resolveResult
  repeat' (first
    | with_reducible exact Keeps.refl _
    | with_reducible apply Keeps.trans ?_ (State.applyPointOf_kept ..)
    | with_reducible apply Keeps.trans ?_ (State.count_kept ..)
    | with_reducible apply Keeps.trans ?_ (State.dropColl_kept ..)
    | with_reducible apply Keeps.trans ?_ (State.endCmd_kept ..)
    | with_reducible apply Keeps.trans ?_ (State.peerDone_kept ..)
    | with_reducible apply Keeps.trans ?_ (State.putRecord_kept ..)
    | with_reducible apply keeps_ite
    | fail_if_no_progress extract_lets)

theorem execVoteResult_kept (id : Nat) (s : State) : KeepsOut s (execVoteResult id s) := by
  unfold execVoteResult
  repeat' (first
    | with_reducible exact Keeps.refl _
    | with_reducible apply Keeps.trans ?_ (State.resolveResult_kept ..)
    | with_reducible apply Keeps.trans ?_ (State.stepResult_kept ..)
    | with_reducible apply keepsOut_next
    | with_reducible apply keepsOut_ite
    | split)

theorem State.updRead_kept (s : State) (u : Upd) (va : Nat) (n : Nat) : Keeps s (State.updRead s u va n).1 := by
  unfold State.updRead
  repeat' (first
    | with_reducible exact Keeps.refl _
    | with_reducible apply Keeps.trans ?_ (State.chargeRead_kept ..)
    | with_reducible apply Keeps.trans ?_ (State.endCmd_kept ..)
    | split)

theorem State.setUpd_kept (s : State) (u : Upd) : Keeps s (State.setUpd s u) := ⟨rfl, rfl, fun w => w⟩

theorem State.updOne_kept (s : State) (u : Upd) (cover : List (Nat × Nat)) (e : Nat) :
    Keeps s (State.updOne s u cover e).1 := by
  unfold State.updOne
  repeat' (first
    | with_reducible exact Keeps.refl _
    | with_reducible apply Keeps.trans ?_ (State.cmdWrite_kept ..)
    | with_reducible apply Keeps.trans ?_ (State.noteLowest_kept ..)
    | with_reducible apply Keeps.trans ?_ (State.updRead_kept ..)
    | with_reducible apply keeps_ite
    | with_reducible apply keeps_ite1
    | fail_if_no_progress extract_lets
    | with_reducible refine keeps_fst (by assumption) ?_
    | split)

theorem State.updRange_kept (s : State) (u : Upd) (cover : List (Nat × Nat)) (first : Nat) (z4 : Nat) :
    Keeps s (State.updRange s u cover first z4).1 := by
  fun_induction State.updRange s u cover first z4
  all_goals repeat' (first
    | with_reducible exact Keeps.refl _
    | with_reducible apply Keeps.trans ?_ (State.updOne_kept ..)
    | with_reducible refine keeps_fst (by assumption) ?_
    | with_reducible refine Keeps.after (by assumption) ?_)

theorem State.rowRead_kept (s : State) (u : Upd) (va : Nat) : Keeps s (State.rowRead s u va).1 := by
  unfold State.rowRead
  repeat' (first
    | with_reducible exact Keeps.refl _
    | with_reducible apply Keeps.trans ?_ (State.chargeRead_kept ..)
    | with_reducible apply Keeps.trans ?_ (State.endCmd_kept ..)
    | split)

theorem State.rowWrite_kept (s : State) (u : Upd) (va : Nat) (z3 : List (W32 × Bool × W32 × W32)) :
    Keeps s (State.rowWrite s u va z3).1 := by
  induction z3 generalizing s va with
  | nil => rw [State.rowWrite]; exact .refl _
  | cons e l ih =>
    rw [State.rowWrite]
    split
    · refine Keeps.trans ?_ (ih ..)
      split
      · exact (State.cmdWrite_kept ..).trans (State.noteLowest_kept ..)
      · exact State.cmdWrite_kept ..
    · exact State.cmdWrite_kept ..

theorem State.rowOne_kept (s : State) (u : Upd) (k : Nat) (i : Nat) (again : Bool) :
    Keeps s (State.rowOne s u k i again).1 := by
  unfold State.rowOne
  repeat' (first
    | with_reducible exact Keeps.refl _
    | with_reducible apply Keeps.trans ?_ (State.cmdWrite_kept ..)
    | with_reducible apply Keeps.trans ?_ (State.count_kept ..)
    | with_reducible apply Keeps.trans ?_ (State.rowRead_kept ..)
    | with_reducible apply Keeps.trans ?_ (State.rowWrite_kept ..)
    | with_reducible apply Keeps.trans ?_ (State.updRead_kept ..)
    | fail_if_no_progress extract_lets
    | with_reducible refine keeps_fst (by assumption) ?_
    | split)

theorem State.rowRange_kept (s : State) (u : Upd) (seen : List Nat) (k : Nat) (z4 : Nat) :
    Keeps s (State.rowRange s u seen k z4).1 := by
  fun_induction State.rowRange s u seen k z4
  all_goals repeat' (first
    | with_reducible exact Keeps.refl _
    | with_reducible apply Keeps.trans ?_ (State.rowOne_kept ..)
    | with_reducible apply Keeps.trans ?_ (State.updRead_kept ..)
    | with_reducible refine keeps_fst (by assumption) ?_
    | with_reducible refine Keeps.after (by assumption) ?_)

theorem State.updEnd_kept (s : State) (u : Upd) : Keeps s (State.updEnd s u) := by
  unfold State.updEnd
  repeat' (first
    | with_reducible exact Keeps.refl _
    | with_reducible apply Keeps.trans ?_ (State.dropUpd_kept ..)
    | with_reducible apply Keeps.trans ?_ (State.finishCmd_kept ..)
    | with_reducible apply Keeps.trans ?_ (State.setCmd_kept ..)
    | with_reducible apply Keeps.trans ?_ (State.setUpd_kept ..)
    | fail_if_no_progress extract_lets
    | split)

theorem State.updEnter_kept (s : State) (c : Cmd) (u : Upd) : Keeps s (State.updEnter s c u).1 := ⟨rfl, rfl, fun w => w⟩

theorem State.updStart_kept (s : State) (c : Cmd) : Keeps s (State.updStart s c) := by
  unfold State.updStart
  repeat' (first
    | with_reducible exact Keeps.refl _
    | with_reducible apply Keeps.trans ?_ (State.descRead_kept ..)
    | with_reducible apply Keeps.trans ?_ (State.dropUpd_kept ..)
    | with_reducible apply Keeps.trans ?_ (State.endCmd_kept ..)
    | with_reducible apply Keeps.trans ?_ (State.rowRange_kept ..)
    | with_reducible apply Keeps.trans ?_ (State.setUpd_kept ..)
    | with_reducible apply Keeps.trans ?_ (State.updEnd_kept ..)
    | with_reducible apply Keeps.trans ?_ (State.updEnter_kept ..)
    | with_reducible apply Keeps.trans ?_ (State.updRange_kept ..)
    | with_reducible apply keeps_ite
    | with_reducible apply keeps_ite1
    | with_reducible refine keeps_fst (by assumption) ?_
    | dsimp -zeta only
    | split)

theorem State.bind_kept (s : State) (u : Upd) :
    Keeps s (State.bind s u) := by
  unfold State.bind
  repeat' (first
    | with_reducible exact Keeps.refl _
    | with_reducible apply Keeps.trans ?_ (State.dropUpd_kept ..)
    | with_reducible apply Keeps.trans ?_ (State.endCmd_kept ..)
    | with_reducible apply Keeps.trans ?_ (State.peerDone_kept ..)
    | with_reducible apply Keeps.trans ?_ (State.setUpd_kept ..)
    | with_reducible apply keeps_ite
    | fail_if_no_progress (with_reducible apply keeps_mk)
    | fail_if_no_progress extract_lets
    | with_reducible refine keeps_fst (by assumption) ?_
    | split)

theorem State.feedChunk_kept (s : State) (u : Upd) (first : Nat) (n : Nat) : Keeps s (State.feedChunk s u first n) := by
  unfold State.feedChunk
  repeat' (first
    | with_reducible exact Keeps.refl _
    | with_reducible apply Keeps.trans ?_ (State.dropUpd_kept ..)
    | with_reducible apply Keeps.trans ?_ (State.peerDone_kept ..)
    | with_reducible apply Keeps.trans ?_ (State.setUpd_kept ..)
    | with_reducible apply Keeps.trans ?_ (State.updEnd_kept ..)
    | with_reducible apply Keeps.trans ?_ (State.updRange_kept ..)
    | with_reducible apply keeps_ite
    | with_reducible refine keeps_fst (by assumption) ?_
    | split)

theorem execFeedChunk_kept (id : Nat) (first : Nat) (count : Nat) (s : State) :
    KeepsOut s (execFeedChunk id first count s) := by
  unfold execFeedChunk
  repeat' (first
    | with_reducible exact Keeps.refl _
    | with_reducible apply Keeps.trans ?_ (State.bind_kept ..)
    | with_reducible apply Keeps.trans ?_ (State.feedChunk_kept ..)
    | with_reducible apply keepsOut_next
    | with_reducible apply keepsOut_ite
    | fail_if_no_progress extract_lets
    | split)

theorem execUpdate_kept (id : Nat) (s : State) : KeepsOut s (execUpdate id s) := by
  unfold execUpdate
  repeat' (first
    | with_reducible exact Keeps.refl _
    | with_reducible apply Keeps.trans ?_ (State.bind_kept ..)
    | with_reducible apply Keeps.trans ?_ (State.startOp_kept _ _ _ _ ?_)
    | with_reducible apply Keeps.trans ?_ (State.updStart_kept ..)
    | with_reducible apply keepsOut_next
    | with_reducible apply keepsOut_ite
    | intro _
    | fail_if_no_progress extract_lets
    | split)

theorem execRowMode_kept (id : Nat) (s : State) : KeepsOut s (execRowMode id s) := by
  unfold execRowMode
  repeat' (first
    | with_reducible exact Keeps.refl _
    | with_reducible apply Keeps.trans ?_ (State.startOp_kept _ _ _ _ ?_)
    | with_reducible apply Keeps.trans ?_ (State.updStart_kept ..)
    | with_reducible apply keepsOut_next
    | with_reducible apply keepsOut_ite
    | intro _
    | split)

theorem State.mirrorColl_kept (s : State) (c : Cmd) (bs : List Byte) (tx : Bool) :
    Keeps s (State.mirrorColl s c bs tx).1 := ⟨rfl, rfl, fun w => w⟩

theorem State.mirrorStart_kept (s : State) (c : Cmd) (tx : Bool) : Keeps s (State.mirrorStart s c tx) := by
  unfold State.mirrorStart
  repeat' (first
    | with_reducible exact Keeps.refl _
    | with_reducible apply Keeps.trans ?_ (State.descRead_kept ..)
    | with_reducible apply Keeps.trans ?_ (State.endCmd_kept ..)
    | with_reducible apply Keeps.trans ?_ (State.mirrorColl_kept ..)
    | with_reducible apply Keeps.trans ?_ (State.takePlace_kept ..)
    | with_reducible apply keeps_ite
    | with_reducible refine keeps_fst (by assumption) ?_
    | dsimp -zeta only
    | split)

theorem State.mirrorRow_kept (s : State) (id : Nat) (rule : Nat) : Keeps s (State.mirrorRow s id rule) := by
  unfold State.mirrorRow
  repeat' (first
    | with_reducible exact Keeps.refl _
    | with_reducible apply Keeps.trans ?_ (State.mirrorStart_kept ..)
    | with_reducible apply Keeps.trans ?_ (State.startOp_kept _ _ _ _ ?_)
    | with_reducible apply keeps_ite
    | intro _
    | split)

theorem execMirrorTx_kept (id : Nat) (s : State) : KeepsOut s (execMirrorTx id s) := by
  unfold execMirrorTx
  repeat' (first
    | with_reducible exact Keeps.refl _
    | with_reducible apply Keeps.trans ?_ (State.mirrorRow_kept ..)
    | with_reducible apply keepsOut_next)

theorem execMirrorRx_kept (id : Nat) (s : State) : KeepsOut s (execMirrorRx id s) := by
  unfold execMirrorRx
  repeat' (first
    | with_reducible exact Keeps.refl _
    | with_reducible apply Keeps.trans ?_ (State.mirrorRow_kept ..)
    | with_reducible apply keepsOut_next)

theorem execStepResync_kept (id : Nat) (s : State) : KeepsOut s (execStepResync id s) := by
  unfold execStepResync
  repeat' (first
    | with_reducible exact Keeps.refl _
    | with_reducible apply Keeps.trans ?_ (State.endCmd_kept ..)
    | with_reducible apply Keeps.trans ?_ (State.finishCmd_kept ..)
    | with_reducible apply Keeps.trans ?_ (State.fresh_kept ..)
    | with_reducible apply Keeps.trans ?_ (State.resyncGroups_kept ..)
    | with_reducible apply Keeps.trans ?_ (State.startOp_kept _ _ _ _ ?_)
    | with_reducible apply keeps_ite
    | with_reducible apply keepsOut_next
    | with_reducible apply keepsOut_ite
    | intro _)

theorem State.readLayout_kept (s : State) (c : Cmd) (va : Nat) (old : Bool) : Keeps s (State.readLayout s c va old).1 := by
  unfold State.readLayout
  repeat' (first
    | with_reducible exact Keeps.refl _
    | with_reducible apply Keeps.trans ?_ (State.descRead_kept ..)
    | with_reducible apply keeps_ite1
    | with_reducible refine keeps_fst (by assumption) ?_
    | split)

theorem State.setMolt_kept (s : State) (m : Molt) : Keeps s (State.setMolt s m) := ⟨rfl, rfl, fun w => w⟩

theorem State.dropMolt_kept (s : State) (id : Nat) : Keeps s (State.dropMolt s id) := ⟨rfl, rfl, fun w => w⟩

theorem State.moltEnd_kept (s : State) (m : Molt) (status : Nat) (detail : Nat) :
    Keeps s (State.moltEnd s m status detail) := by
  unfold State.moltEnd
  repeat' (first
    | with_reducible exact Keeps.refl _
    | with_reducible apply Keeps.trans ?_ (State.dropMolt_kept ..)
    | with_reducible apply Keeps.trans ?_ (State.endSegment_kept ..)
    | with_reducible apply Keeps.trans ?_ (State.peerDone_kept ..))

theorem State.abandon_kept (s : State) (slot : Nat) : Keeps s (State.abandon s slot) := by
  unfold State.abandon
  repeat' (first
    | with_reducible exact Keeps.refl _
    | with_reducible apply Keeps.trans ?_ (State.collFail_kept ..)
    | with_reducible apply Keeps.trans ?_ (State.dropUpd_kept ..)
    | with_reducible apply Keeps.trans ?_ (State.endCmd_kept ..)
    | with_reducible apply keeps_fold
    | intro _)

theorem State.retag_kept (s : State) (m : Molt) : Keeps s (State.retag s m) := by
  unfold State.retag
  repeat' (first
    | with_reducible exact Keeps.refl _
    | with_reducible apply Keeps.trans ?_ (State.setFlow_kept ..)
    | with_reducible apply keeps_fold
    | fail_if_no_progress (with_reducible apply keeps_mk)
    | intro _)

theorem State.recordExchange_kept (s : State) (m : Molt) (kind : CollKind) (t : Tab Member) (n : Nat) (self : Nat) (instar : W32) (r : List Byte) :
    Keeps s (State.recordExchange s m kind t n self instar r) := ⟨rfl, rfl, fun w => w⟩

theorem State.startMove_kept (s : State) (m : Molt) : Keeps s (State.startMove s m) := ⟨rfl, rfl, fun w => w⟩

theorem State.afterResolve_kept (s : State) (m : Molt) : Keeps s (State.afterResolve s m) := by
  unfold State.afterResolve
  repeat' (first
    | with_reducible exact Keeps.refl _
    | with_reducible apply Keeps.trans ?_ (State.reseed_kept ..)
    | with_reducible apply Keeps.trans ?_ (State.setCmd_kept ..)
    | with_reducible apply Keeps.trans ?_ (State.startMove_kept ..)
    | split)

theorem State.moltBoundary_kept (s : State) (m : Molt) : Keeps s (State.moltBoundary s m) := by
  unfold State.moltBoundary
  repeat' (first
    | with_reducible exact Keeps.refl _
    | with_reducible apply Keeps.trans ?_ (State.afterResolve_kept ..)
    | with_reducible apply Keeps.trans ?_ (State.moltEnd_kept ..)
    | with_reducible apply Keeps.trans ?_ (State.recordExchange_kept ..)
    | with_reducible apply Keeps.trans ?_ (State.retag_kept ..)
    | with_reducible apply Keeps.trans ?_ (State.setMolt_kept ..)
    | with_reducible apply Keeps.trans ?_ (State.setPart_kept ..)
    | with_reducible apply keeps_ite
    | fail_if_no_progress extract_lets
    | split)

theorem State.moltResolved_kept (s : State) (m : Molt) (c : Coll) :
    Keeps s (State.moltResolved s m c) := by
  unfold State.moltResolved
  repeat' (first
    | with_reducible exact Keeps.refl _
    | with_reducible apply Keeps.trans ?_ (State.afterResolve_kept ..)
    | with_reducible apply Keeps.trans ?_ (State.applyPointOf_kept ..)
    | with_reducible apply Keeps.trans ?_ (State.count_kept ..)
    | with_reducible apply Keeps.trans ?_ (State.dropColl_kept ..)
    | with_reducible apply Keeps.trans ?_ (State.moltEnd_kept ..)
    | with_reducible apply Keeps.trans ?_ (State.moltUndone_kept ..)
    | with_reducible apply Keeps.trans ?_ (State.putRecord_kept ..)
    | with_reducible apply keeps_ite
    | fail_if_no_progress extract_lets)

theorem State.moltMoved_kept (s : State) (m : Molt) (c : Coll) : Keeps s (State.moltMoved s m c) := by
  unfold State.moltMoved
  repeat' (first
    | with_reducible exact Keeps.refl _
    | with_reducible apply Keeps.trans ?_ (State.dropColl_kept ..)
    | with_reducible apply Keeps.trans ?_ (State.recordExchange_kept ..)
    | with_reducible apply Keeps.trans ?_ (State.setMolt_kept ..)
    | with_reducible apply Keeps.trans ?_ (State.setPart_kept ..))

theorem State.moltCommitted_kept (s : State) (m : Molt) (c : Coll) :
    Keeps s (State.moltCommitted s m c) := by
  unfold State.moltCommitted
  repeat' (first
    | with_reducible exact Keeps.refl _
    | with_reducible apply Keeps.trans ?_ (State.applyPointOf_kept ..)
    | with_reducible apply Keeps.trans ?_ (State.dropColl_kept ..)
    | with_reducible apply Keeps.trans ?_ (State.moltEnd_kept ..)
    | with_reducible apply Keeps.trans ?_ (State.onHandle_kept ..)
    | with_reducible apply Keeps.trans ?_ (State.putRecord_kept ..)
    | with_reducible apply keeps_ite
    | fail_if_no_progress (with_reducible apply keeps_mk)
    | fail_if_no_progress extract_lets)

theorem State.moltGo_kept (s : State) (m : Molt) : Keeps s (State.moltGo s m) := by
  unfold State.moltGo
  repeat' (first
    | with_reducible exact Keeps.refl _
    | with_reducible apply Keeps.trans ?_ (State.moltBoundary_kept ..)
    | with_reducible apply Keeps.trans ?_ (State.moltCommitted_kept ..)
    | with_reducible apply Keeps.trans ?_ (State.moltMoved_kept ..)
    | with_reducible apply Keeps.trans ?_ (State.moltResolved_kept ..)
    | with_reducible apply keeps_ite
    | split)

theorem State.moltEnter_kept (s : State) (c : Cmd) (bs : List Byte) (o : Layout) (n : Layout) (vt : List Byte) (rt : List Byte) :
    Keeps s (State.moltEnter s c bs o n vt rt) := by
  unfold State.moltEnter
  repeat' (first
    | with_reducible exact Keeps.refl _
    | with_reducible apply Keeps.trans ?_ (State.abandon_kept ..)
    | with_reducible apply Keeps.trans ?_ (State.count_kept ..)
    | with_reducible apply Keeps.trans ?_ (State.endSegment_kept ..)
    | with_reducible apply Keeps.trans ?_ (State.joinBrood_kept ..)
    | with_reducible apply Keeps.trans ?_ (State.moltBoundary_kept ..)
    | with_reducible apply Keeps.trans ?_ (State.onHandle_kept ..)
    | with_reducible apply Keeps.trans ?_ (State.setCmd_kept ..)
    | with_reducible apply keeps_ite
    | fail_if_no_progress (with_reducible apply keeps_mk)
    | fail_if_no_progress extract_lets
    | with_reducible refine keeps_fst (by assumption) ?_
    | split
    | dsimp +zetaDelta -zeta only)

theorem State.moltCheck_kept (s : State) (c : Cmd) (bs : List Byte) (o : Layout) (n : Layout) :
    Keeps s (State.moltCheck s c bs o n) := by
  unfold State.moltCheck
  repeat' (first
    | with_reducible exact Keeps.refl _
    | with_reducible apply Keeps.trans ?_ (State.descRead_kept ..)
    | with_reducible apply Keeps.trans ?_ (State.endSegment_kept ..)
    | with_reducible apply Keeps.trans ?_ (State.moltEnter_kept ..)
    | with_reducible apply keeps_ite
    | with_reducible apply keeps_ite1
    | fail_if_no_progress extract_lets
    | with_reducible refine keeps_fst (by assumption) ?_
    | split)

theorem State.moltStart_kept (s : State) (c : Cmd) : Keeps s (State.moltStart s c) := by
  unfold State.moltStart
  repeat' (first
    | with_reducible exact Keeps.refl _
    | with_reducible apply Keeps.trans ?_ (State.descRead_kept ..)
    | with_reducible apply Keeps.trans ?_ (State.endSegment_kept ..)
    | with_reducible apply Keeps.trans ?_ (State.moltCheck_kept ..)
    | with_reducible apply Keeps.trans ?_ (State.openSegment_kept ..)
    | with_reducible apply Keeps.trans ?_ (State.readLayout_kept ..)
    | fail_if_no_progress extract_lets
    | with_reducible refine keeps_fst (by assumption) ?_
    | split)

theorem execMolt_kept (id : Nat) (s : State) : KeepsOut s (execMolt id s) := by
  unfold execMolt
  repeat' (first
    | with_reducible exact Keeps.refl _
    | with_reducible apply Keeps.trans ?_ (State.moltGo_kept ..)
    | with_reducible apply Keeps.trans ?_ (State.moltStart_kept ..)
    | with_reducible apply Keeps.trans ?_ (State.startOp_kept _ _ _ _ ?_)
    | with_reducible apply keepsOut_next
    | with_reducible apply keepsOut_ite
    | intro _
    | split)

theorem execMoltPhaseTimeout_kept (id : Nat) (s : State) : KeepsOut s (execMoltPhaseTimeout id s) := by
  unfold execMoltPhaseTimeout
  repeat' (first
    | with_reducible exact Keeps.refl _
    | with_reducible apply Keeps.trans ?_ (State.collFail_kept ..)
    | with_reducible apply keepsOut_when
    | with_reducible apply keepsOut_next
    | split)

theorem State.moltCancel_kept (s : State) (m : Molt) : Keeps s (State.moltCancel s m) := by
  unfold State.moltCancel
  repeat' (first
    | with_reducible exact Keeps.refl _
    | with_reducible apply Keeps.trans ?_ (State.collFail_kept ..)
    | with_reducible apply Keeps.trans ?_ (State.moltFail_kept ..)
    | split)

theorem State.flipOp_kept (s : State) (id : Nat) (mine : Nat → Bool) (f : Cmd → State → State) (hf : ∀ (a0 : Cmd) (a1 : State), Keeps a1 (f a0 a1)) :
    Keeps s (State.flipOp s id mine f) := by
  unfold State.flipOp
  repeat' (first
    | with_reducible exact Keeps.refl _
    | with_reducible apply Keeps.trans ?_ (hf _ _)
    | with_reducible apply Keeps.trans ?_ (State.endCmd_kept ..)
    | with_reducible apply Keeps.trans ?_ (State.startOp_kept _ _ _ _ ?_)
    | with_reducible apply keeps_ite
    | intro _
    | split)

theorem State.flip_kept (s : State) (slot : Nat) : Keeps s (State.flip s slot) := by
  unfold State.flip
  repeat' (first
    | with_reducible exact Keeps.refl _
    | with_reducible apply Keeps.trans ?_ (State.count_kept ..)
    | with_reducible apply Keeps.trans ?_ (State.event_kept ..)
    | with_reducible apply Keeps.trans ?_ (State.reseed_kept ..)
    | with_reducible apply Keeps.trans ?_ (State.setPart_kept ..)
    | with_reducible apply Keeps.trans ?_ (State.writeLiveSide_kept ..)
    | with_reducible apply keeps_ite)

theorem execFlip_kept (id : Nat) (s : State) : KeepsOut s (execFlip id s) := by
  unfold execFlip
  repeat' (first
    | with_reducible exact Keeps.refl _
    | with_reducible apply Keeps.trans ?_ (State.endCmd_kept ..)
    | with_reducible apply Keeps.trans ?_ (State.finishCmd_kept ..)
    | with_reducible apply Keeps.trans ?_ (State.flip_kept ..)
    | with_reducible apply Keeps.trans ?_ (State.flipOp_kept _ _ _ _ ?_)
    | with_reducible apply keepsOut_next
    | intro _
    | split)

theorem execRevert_kept (id : Nat) (s : State) : KeepsOut s (execRevert id s) := by
  unfold execRevert
  repeat' (first
    | with_reducible exact Keeps.refl _
    | with_reducible apply Keeps.trans ?_ (State.endCmd_kept ..)
    | with_reducible apply Keeps.trans ?_ (State.finishCmd_kept ..)
    | with_reducible apply Keeps.trans ?_ (State.flipOp_kept _ _ _ _ ?_)
    | with_reducible apply Keeps.trans ?_ (State.rollback_kept ..)
    | with_reducible apply keeps_ite
    | with_reducible apply keepsOut_next
    | intro _)

theorem State.grantSpares_kept (s : State) (slot : Nat) (region : Nat) (cxl : Bool) (m : Nat) (n : Nat) :
    Keeps s (State.grantSpares s slot region cxl m n) := by
  unfold State.grantSpares
  repeat' (first
    | with_reducible exact Keeps.refl _
    | with_reducible apply Keeps.trans ?_ (State.setFrame_kept ..)
    | with_reducible apply Keeps.trans ?_ (State.setPart_kept ..)
    | with_reducible apply keeps_fold
    | intro _)

theorem State.twinRegion_kept (s : State) (slot : Nat) (region : Nat) :
    Keeps s (State.twinRegion s slot region) := by
  unfold State.twinRegion
  repeat' (first
    | with_reducible exact Keeps.refl _
    | with_reducible apply Keeps.trans ?_ (State.grantSpares_kept ..)
    | with_reducible apply Keeps.trans ?_ (State.setPart_kept ..)
    | with_reducible apply Keeps.trans ?_ (State.tlbDrop_kept ..)
    | with_reducible apply keeps_ite
    | fail_if_no_progress (with_reducible apply keeps_mk)
    | fail_if_no_progress extract_lets)

theorem execTwin_kept (id : Nat) (s : State) : KeepsOut s (execTwin id s) := by
  unfold execTwin
  repeat' (first
    | with_reducible exact Keeps.refl _
    | with_reducible apply Keeps.trans ?_ (State.endCmd_kept ..)
    | with_reducible apply Keeps.trans ?_ (State.finishCmd_kept ..)
    | with_reducible apply Keeps.trans ?_ (State.flipOp_kept _ _ _ _ ?_)
    | with_reducible apply Keeps.trans ?_ (State.twinRegion_kept ..)
    | with_reducible apply keeps_fold
    | with_reducible apply keepsOut_next
    | intro _
    | split)

theorem State.untwinRegion_kept (s : State) (slot : Nat) (region : Nat) :
    Keeps s (State.untwinRegion s slot region) := by
  unfold State.untwinRegion
  repeat' (first
    | with_reducible exact Keeps.refl _
    | with_reducible apply Keeps.trans ?_ (State.releaseFrame_kept ..)
    | with_reducible apply Keeps.trans ?_ (State.setPart_kept ..)
    | with_reducible apply Keeps.trans ?_ (State.tlbDrop_kept ..)
    | with_reducible apply keeps_ite
    | with_reducible apply keeps_fold
    | intro _
    | fail_if_no_progress (with_reducible apply keeps_mk)
    | fail_if_no_progress extract_lets)

theorem execUntwin_kept (id : Nat) (s : State) : KeepsOut s (execUntwin id s) := by
  unfold execUntwin
  repeat' (first
    | with_reducible exact Keeps.refl _
    | with_reducible apply Keeps.trans ?_ (State.endCmd_kept ..)
    | with_reducible apply Keeps.trans ?_ (State.finishCmd_kept ..)
    | with_reducible apply Keeps.trans ?_ (State.flipOp_kept _ _ _ _ ?_)
    | with_reducible apply Keeps.trans ?_ (State.untwinRegion_kept ..)
    | with_reducible apply keeps_fold
    | with_reducible apply keepsOut_next
    | intro _
    | split)

theorem State.loadHeaders_kept (s : State) (c : Cmd) (bs : List Byte) (z3 : List Nat) (z4 : List Byte) (z5 : List (List Byte)) :
    Keeps s (State.loadHeaders s c bs z3 z4 z5).1 := by
  fun_induction State.loadHeaders s c bs z3 z4 z5
  all_goals repeat' (first
    | with_reducible exact Keeps.refl _
    | with_reducible apply Keeps.trans ?_ (State.charge_kept ..)
    | with_reducible apply Keeps.trans ?_ (State.descRead_kept ..)
    | with_reducible refine keeps_fst (by assumption) ?_
    | with_reducible refine Keeps.after (by assumption) ?_)

theorem State.loadBegin_kept (s : State) (c : Cmd) (bs : List Byte) (hs : List (List Byte)) :
    Keeps s (State.loadBegin s c bs hs) := by
  unfold State.loadBegin
  repeat' (first
    | with_reducible exact Keeps.refl _
    | with_reducible apply Keeps.trans ?_ (State.onHandle_kept ..)
    | with_reducible apply Keeps.trans ?_ (State.setCmd_kept ..)
    | with_reducible apply Keeps.trans ?_ (State.setPart_kept ..)
    | fail_if_no_progress (with_reducible apply keeps_mk)
    | fail_if_no_progress extract_lets
    | split)

theorem State.loadStart_kept (s : State) (c : Cmd) (payload : Nat) (headers : List Byte) :
    Keeps s (State.loadStart s c payload headers) := by
  unfold State.loadStart
  repeat' (first
    | with_reducible exact Keeps.refl _
    | with_reducible apply Keeps.trans ?_ (State.descRead_kept ..)
    | with_reducible apply Keeps.trans ?_ (State.endCmd_kept ..)
    | with_reducible apply Keeps.trans ?_ (State.loadBegin_kept ..)
    | with_reducible apply Keeps.trans ?_ (State.loadHeaders_kept ..)
    | fail_if_no_progress extract_lets
    | with_reducible refine keeps_fst (by assumption) ?_
    | split)

theorem execWeightLoad_kept (id : Nat) (headers : List Byte) (s : State) : KeepsOut s (execWeightLoad id headers s) := by
  unfold execWeightLoad
  repeat' (first
    | with_reducible exact Keeps.refl _
    | with_reducible apply Keeps.trans ?_ (State.loadStart_kept ..)
    | with_reducible apply Keeps.trans ?_ (State.openSegment_kept ..)
    | with_reducible apply Keeps.trans ?_ (State.startOp_kept _ _ _ _ ?_)
    | with_reducible apply keepsOut_next
    | intro _)

theorem State.onShard_kept (s : State) (slot : Nat) (i : Nat) (f : Shard → Shard) : Keeps s (State.onShard s slot i f) := ⟨rfl, rfl, fun w => w⟩

theorem State.landShard_kept (s : State) (slot : Nat) (h : Nat) (e : LoadEntry) : Keeps s (State.landShard s slot h e) := by
  unfold State.landShard
  repeat' (first
    | with_reducible exact Keeps.refl _
    | with_reducible apply Keeps.trans ?_ (State.count_kept ..)
    | with_reducible apply Keeps.trans ?_ (State.onHandle_kept ..)
    | with_reducible apply Keeps.trans ?_ (State.onShard_kept ..)
    | with_reducible apply keeps_ite
    | fail_if_no_progress (with_reducible apply keeps_mk))

theorem State.loadUnit_kept (s : State) (c : Cmd) (h : Nat) (u : Nat) (limit : Nat) (host : Mem) :
    Keeps s (State.loadUnit s c h u limit host).1 := by
  unfold State.loadUnit
  repeat' (first
    | with_reducible exact Keeps.refl _
    | with_reducible apply Keeps.trans ?_ (State.charge_kept ..)
    | with_reducible apply Keeps.trans ?_ (State.cmdWrite_kept ..)
    | with_reducible apply Keeps.trans ?_ (State.count_kept ..)
    | with_reducible apply Keeps.trans ?_ (State.descRead_kept ..)
    | with_reducible apply Keeps.trans ?_ (State.landShard_kept ..)
    | with_reducible apply Keeps.trans ?_ (State.onShard_kept ..)
    | with_reducible apply keeps_ite
    | with_reducible apply keeps_ite1
    | fail_if_no_progress (with_reducible apply keeps_mk)
    | fail_if_no_progress extract_lets
    | with_reducible refine keeps_fst (by assumption) ?_
    | split
    | simp_all only
    | dsimp +zetaDelta -zeta only)

theorem State.shardPoisoned_kept (s : State) (slot : Nat) (i : Nat) : Keeps s (State.shardPoisoned s slot i) := by
  unfold State.shardPoisoned
  repeat' (first
    | with_reducible exact Keeps.refl _
    | with_reducible apply Keeps.trans ?_ (State.event_kept ..)
    | with_reducible apply Keeps.trans ?_ (State.setPart_kept ..))

theorem State.passActs_kept (s : State) (slot : Nat) (bad : List Nat) (except : Option Nat) :
    Keeps s (State.passActs s slot bad except) := by
  unfold State.passActs
  repeat' (first
    | with_reducible exact Keeps.refl _
    | with_reducible apply Keeps.trans ?_ (State.count_kept ..)
    | with_reducible apply Keeps.trans ?_ (State.firm_kept ..)
    | with_reducible apply Keeps.trans ?_ (State.rollback_kept ..)
    | with_reducible apply Keeps.trans ?_ (State.shardPoisoned_kept ..)
    | with_reducible apply keeps_ite
    | with_reducible apply keeps_fold
    | intro _
    | split)

theorem State.scrubPassOf_kept (s : State) (slot : Nat) : Keeps s (State.scrubPassOf s slot) := by
  unfold State.scrubPassOf
  repeat' (first
    | with_reducible exact Keeps.refl _
    | with_reducible apply Keeps.trans ?_ (State.count_kept ..)
    | with_reducible apply Keeps.trans ?_ (State.passActs_kept ..)
    | with_reducible apply Keeps.trans ?_ (State.setPart_kept ..))

theorem execWeightScrubPass_kept (i : Fin 16) (s : State) : KeepsOut s (execWeightScrubPass i s) := by
  unfold execWeightScrubPass
  repeat' (first
    | with_reducible exact Keeps.refl _
    | with_reducible apply Keeps.trans ?_ (State.scrubPassOf_kept ..)
    | with_reducible apply keepsOut_when)

theorem State.scrubStart_kept (s : State) (c : Cmd) : Keeps s (State.scrubStart s c) := by
  unfold State.scrubStart
  repeat' (first
    | with_reducible exact Keeps.refl _
    | with_reducible apply Keeps.trans ?_ (State.finishCmd_kept ..)
    | with_reducible apply Keeps.trans ?_ (State.onHandle_kept ..)
    | with_reducible apply Keeps.trans ?_ (State.passActs_kept ..)
    | with_reducible apply Keeps.trans ?_ (State.setCmd_kept ..)
    | with_reducible apply keeps_ite
    | fail_if_no_progress (with_reducible apply keeps_mk)
    | split)

theorem execScrub_kept (id : Nat) (s : State) :
    KeepsOut s (execScrub id s) := by
  unfold execScrub
  repeat' (first
    | with_reducible exact Keeps.refl _
    | with_reducible apply keepsOut_when
    | with_reducible apply keepsOut_next
    | with_reducible apply keepsOut_ite
    | with_reducible apply Keeps.trans ?_ (State.endSegment_kept ..)
    | with_reducible apply Keeps.trans ?_ (State.openSegment_kept ..)
    | with_reducible apply Keeps.trans ?_ (State.scrubStart_kept ..)
    | with_reducible apply Keeps.trans ?_ (State.startOp_kept _ _ _ _ ?_)
    | with_reducible apply keeps_ite
    | intro _
    | fail_if_no_progress extract_lets)

theorem State.scrubUnit_kept (s : State) (c : Cmd) (h : Nat) (u : Nat) : Keeps s (State.scrubUnit s c h u).1 := by
  unfold State.scrubUnit
  repeat' (first
    | with_reducible exact Keeps.refl _
    | with_reducible apply Keeps.trans ?_ (State.chargeRead_kept ..)
    | with_reducible apply Keeps.trans ?_ (State.count_kept ..)
    | with_reducible apply Keeps.trans ?_ (State.endCmd_kept ..)
    | with_reducible apply Keeps.trans ?_ (State.onHandle_kept ..)
    | with_reducible apply keeps_ite
    | with_reducible apply keeps_ite1
    | fail_if_no_progress (with_reducible apply keeps_mk)
    | fail_if_no_progress extract_lets
    | split)

theorem State.scrubEnd_kept (s : State) (slot : Nat) (h : Nat) : Keeps s (State.scrubEnd s slot h).1 := by
  unfold State.scrubEnd
  repeat' (first
    | with_reducible exact Keeps.refl _
    | with_reducible apply Keeps.trans ?_ (State.passActs_kept ..))

theorem State.hostFail_kept (s : State) (c : Cmd) (addr : Nat) (tagHeld : Bool) :
    Keeps s (State.hostFail s c addr tagHeld) := by
  unfold State.hostFail
  repeat' (first
    | with_reducible exact Keeps.refl _
    | with_reducible apply Keeps.trans ?_ (State.beginCmd_kept ..)
    | with_reducible apply Keeps.trans ?_ (State.openSegment_kept ..)
    | with_reducible apply Keeps.trans ?_ (State.sourceError_kept ..)
    | with_reducible apply keeps_ite)

theorem execHostReadError_kept (id : Nat) (addr : W64) (s : State) :
    KeepsOut s (execHostReadError id addr s) := by
  unfold execHostReadError
  repeat' (first
    | with_reducible exact Keeps.refl _
    | with_reducible apply keepsOut_when
    | with_reducible apply keepsOut_next
    | with_reducible apply keepsOut_ite
    | with_reducible apply Keeps.trans ?_ (State.hostFail_kept ..)
    | with_reducible apply keeps_ite
    | fail_if_no_progress (with_reducible apply keeps_mk)
    | with_reducible refine keeps_fst (by assumption) ?_
    | split)

theorem execHostReadDeadline_kept (id : Nat) (s : State) :
    KeepsOut s (execHostReadDeadline id s) := by
  unfold execHostReadDeadline
  repeat' (first
    | with_reducible exact Keeps.refl _
    | with_reducible apply keepsOut_when
    | with_reducible apply keepsOut_next
    | with_reducible apply keepsOut_ite
    | with_reducible apply Keeps.trans ?_ (State.hostFail_kept ..)
    | with_reducible apply keeps_ite
    | fail_if_no_progress (with_reducible apply keeps_mk)
    | with_reducible refine keeps_fst (by assumption) ?_
    | split)

theorem execCompletionTimeout_kept (r : HostReadOf) (s : State) :
    KeepsOut s (execCompletionTimeout r s) := by
  unfold execCompletionTimeout
  repeat' (first
    | with_reducible exact Keeps.refl _
    | with_reducible apply keepsOut_when
    | with_reducible apply keepsOut_next
    | with_reducible apply keepsOut_ite
    | with_reducible apply Keeps.trans ?_ (State.hostFail_kept ..)
    | with_reducible apply Keeps.trans ?_ (State.noteAer_kept ..)
    | with_reducible apply Keeps.trans ?_ (State.queueFault_kept ..)
    | with_reducible apply Keeps.trans ?_ (State.setPort_kept ..)
    | with_reducible apply keeps_ite
    | fail_if_no_progress (with_reducible apply keeps_mk)
    | fail_if_no_progress extract_lets
    | with_reducible refine keeps_fst (by assumption) ?_
    | split)

end Sys2Proof.Machine
end

