-- ==== Sys2Proof/Laws/KeepEngine.lean ====
section
/-!
SUPPORT. Each operation of admission, completion, the bank engines and the firmware
keeps the fuses, the command queue and the canonical form of the memories, but those of Laws/Rises.lean, which raise fuses.
-/
namespace Sys2Proof.Machine

open Sys2Proof

theorem State.ckptBegin_kept (s : State) (c : Cmd) (r : Rec) : Keeps s (State.ckptBegin s c r) := by
  unfold State.ckptBegin
  repeat' (first
    | with_reducible exact Keeps.refl _
    | with_reducible apply Keeps.trans ?_ (State.descRead_kept ..)
    | with_reducible apply Keeps.trans ?_ (State.endCmd_kept ..)
    | with_reducible apply Keeps.trans ?_ (State.fresh_kept ..)
    | with_reducible apply Keeps.trans ?_ (State.onHandle_kept ..)
    | with_reducible apply keeps_ite
    | fail_if_no_progress (with_reducible apply keeps_mk)
    | fail_if_no_progress extract_lets
    | with_reducible refine keeps_fst (by assumption) ?_
    | split)

theorem State.undefine_kept (s : State) (slot : Nat) (z2 : List (Nat × Nat)) : Keeps s (State.undefine s slot z2) := by
  fun_induction State.undefine s slot z2
  all_goals repeat' (first
    | with_reducible exact Keeps.refl _
    | with_reducible apply Keeps.trans ?_ (State.fillFree_kept ..)
    | with_reducible refine Keeps.after (by assumption) ?_
    | split)

theorem State.undefineHost_kept (s : State) (port : Nat) (addr : Nat) (n : Nat) :
    Keeps s (State.undefineHost s port addr n) := ⟨rfl, rfl, fun w => (State.hostWrite_kept ..).mem w⟩

theorem State.ckptLost_kept (s : State) (slot : Nat) (h : Nat) : Keeps s (State.ckptLost s slot h) := by
  unfold State.ckptLost
  repeat' (first
    | with_reducible exact Keeps.refl _
    | with_reducible apply Keeps.trans ?_ (State.undefine_kept ..)
    | with_reducible apply Keeps.trans ?_ (State.undefineHost_kept ..)
    | with_reducible apply keeps_ite
    | with_reducible apply keeps_fold
    | intro _
    | split)

theorem State.setWhole_kept (s : State) (id : Nat) (n : Nat) : Keeps s (State.setWhole s id n) := by
  unfold State.setWhole
  repeat' (first
    | with_reducible exact Keeps.refl _
    | with_reducible apply Keeps.trans ?_ (State.setCmd_kept ..)
    | split)

theorem State.zeroBegin_kept (s : State) (c : Cmd) (r : Rec) : Keeps s (State.zeroBegin s c r) := by
  unfold State.zeroBegin
  repeat' (first
    | with_reducible exact Keeps.refl _
    | with_reducible apply Keeps.trans ?_ (State.onHandle_kept ..)
    | with_reducible apply Keeps.trans ?_ (State.setWhole_kept ..))

theorem State.zeroUnit_kept (s : State) (c : Cmd) (r : Rec) (u : Nat) (limit : Nat) :
    Keeps s (State.zeroUnit s c r u limit).1 := by
  unfold State.zeroUnit
  repeat' (first
    | with_reducible exact Keeps.refl _
    | with_reducible apply Keeps.trans ?_ (State.cmdWrite_kept ..)
    | split)

theorem execZero_kept (id : Nat) (s : State) : KeepsOut s (execZero id s) := by
  unfold execZero
  repeat' (first
    | with_reducible exact Keeps.refl _
    | with_reducible apply Keeps.trans ?_ (State.openSegment_kept ..)
    | with_reducible apply Keeps.trans ?_ (State.startOp_kept _ _ _ _ ?_)
    | with_reducible apply Keeps.trans ?_ (State.zeroBegin_kept ..)
    | with_reducible apply keepsOut_next
    | intro _)

theorem State.unitStep_kept (s : State) (c : Cmd) (h : Nat) (limit : Nat) (host : Mem) :
    Keeps s (State.unitStep s c h limit host).1 := by
  unfold State.unitStep
  repeat' (first
    | with_reducible exact Keeps.refl _
    | with_reducible apply Keeps.trans ?_ (State.ckptUnit_kept ..)
    | with_reducible apply Keeps.trans ?_ (State.loadUnit_kept ..)
    | with_reducible apply Keeps.trans ?_ (State.scrubUnit_kept ..)
    | with_reducible apply Keeps.trans ?_ (State.zeroUnit_kept ..)
    | with_reducible apply keeps_ite1)

theorem State.unitUndone_kept (s : State) (slot : Nat) (h : Nat) (host : Mem) :
    Keeps s (State.unitUndone s slot h host) := by
  unfold State.unitUndone
  repeat' (first
    | with_reducible exact Keeps.refl _
    | with_reducible apply Keeps.trans ?_ (State.fresh_kept ..)
    | with_reducible apply Keeps.trans ?_ (State.unitStep_kept ..)
    | dsimp -zeta only
    | split)

theorem State.tornEnd_kept (s : State) (slot : Nat) (h : Nat) (id : Nat) : Keeps s (State.tornEnd s slot h id) := by
  unfold State.tornEnd
  repeat' (first
    | with_reducible exact Keeps.refl _
    | with_reducible apply Keeps.trans ?_ (State.ckptLost_kept ..)
    | with_reducible apply Keeps.trans ?_ (State.endSegment_kept ..)
    | with_reducible apply keeps_ite)

theorem execCkptWrite_kept (id : Nat) (s : State) :
    KeepsOut s (execCkptWrite id s) := by
  unfold execCkptWrite
  repeat' (first
    | with_reducible exact Keeps.refl _
    | with_reducible apply keepsOut_when
    | with_reducible apply keepsOut_next
    | with_reducible apply keepsOut_ite
    | with_reducible apply Keeps.trans ?_ (State.ckptBegin_kept ..)
    | with_reducible apply Keeps.trans ?_ (State.openSegment_kept ..)
    | with_reducible apply Keeps.trans ?_ (State.startOp_kept _ _ _ _ ?_)
    | with_reducible apply Keeps.trans ?_ (State.tornEnd_kept ..)
    | with_reducible apply keeps_ite
    | intro _
    | fail_if_no_progress extract_lets)

theorem State.lastUnit_kept (s : State) (slot : Nat) (h : Nat) (id : Nat) : Keeps s (State.lastUnit s slot h id) := by
  unfold State.lastUnit
  repeat' (first
    | with_reducible exact Keeps.refl _
    | with_reducible apply Keeps.trans ?_ (State.endCmd_kept ..)
    | with_reducible apply Keeps.trans ?_ (State.finishCmd_kept ..)
    | with_reducible apply Keeps.trans ?_ (State.freeHandle_kept ..)
    | with_reducible apply Keeps.trans ?_ (State.scrubEnd_kept ..)
    | with_reducible apply keeps_ite
    | with_reducible apply keeps_ite1)

theorem State.resumeNow_kept (s : State) (slot : Nat) (h : Nat) (id : Nat) (headers : List Byte) :
    Keeps s (State.resumeNow s slot h id headers) := by
  unfold State.resumeNow
  repeat' (first
    | with_reducible exact Keeps.refl _
    | with_reducible apply Keeps.trans ?_ (State.ckptBegin_kept ..)
    | with_reducible apply Keeps.trans ?_ (State.loadStart_kept ..)
    | with_reducible apply Keeps.trans ?_ (State.openSegment_kept ..)
    | with_reducible apply Keeps.trans ?_ (State.scrubStart_kept ..)
    | with_reducible apply Keeps.trans ?_ (State.setWhole_kept ..)
    | with_reducible apply Keeps.trans ?_ (State.tornEnd_kept ..)
    | with_reducible apply Keeps.trans ?_ (State.zeroBegin_kept ..)
    | with_reducible apply keeps_ite
    | fail_if_no_progress extract_lets
    | split)

theorem State.rest_kept (s : State) (slot : Nat) (h : Nat) : Keeps s (State.rest s slot h) := by
  unfold State.rest
  repeat' (first
    | with_reducible exact Keeps.refl _
    | with_reducible apply Keeps.trans ?_ (State.onHandle_kept ..)
    | with_reducible apply Keeps.trans ?_ (State.resumeNow_kept ..)
    | with_reducible apply Keeps.trans ?_ (State.setCmd_kept ..)
    | with_reducible apply Keeps.trans ?_ (State.toDiapause_kept ..)
    | fail_if_no_progress extract_lets
    | split)

theorem State.resumeWait_kept (s : State) (c : Cmd) (o : LongOp) (headers : List Byte) :
    Keeps s (State.resumeWait s c o headers) := by
  unfold State.resumeWait
  repeat' (first
    | with_reducible exact Keeps.refl _
    | with_reducible apply Keeps.trans ?_ (State.endCmd_kept ..)
    | with_reducible apply Keeps.trans ?_ (State.onHandle_kept ..)
    | with_reducible apply keeps_ite
    | fail_if_no_progress (with_reducible apply keeps_mk))

theorem execLongopResume_kept (id : Nat) (headers : List Byte) (s : State) :
    KeepsOut s (execLongopResume id headers s) := by
  unfold execLongopResume
  repeat' (first
    | with_reducible exact Keeps.refl _
    | with_reducible apply keepsOut_when
    | with_reducible apply keepsOut_next
    | with_reducible apply keepsOut_ite
    | with_reducible apply Keeps.trans ?_ (State.endCmd_kept ..)
    | with_reducible apply Keeps.trans ?_ (State.resumeNow_kept ..)
    | with_reducible apply Keeps.trans ?_ (State.resumeWait_kept ..)
    | with_reducible apply Keeps.trans ?_ (State.startOp_kept _ _ _ _ ?_)
    | with_reducible apply keeps_ite
    | intro _
    | fail_if_no_progress (with_reducible apply keeps_mk)
    | fail_if_no_progress extract_lets
    | with_reducible refine keeps_fst (by assumption) ?_
    | split
    | dsimp +zetaDelta -zeta only)

theorem State.suspendStart_kept (s : State) (c : Cmd) : Keeps s (State.suspendStart s c) := by
  unfold State.suspendStart
  repeat' (first
    | with_reducible exact Keeps.refl _
    | with_reducible apply Keeps.trans ?_ (State.endCmd_kept ..)
    | with_reducible apply Keeps.trans ?_ (State.onHandle_kept ..)
    | with_reducible apply Keeps.trans ?_ (State.rest_kept ..)
    | with_reducible apply keeps_ite
    | fail_if_no_progress extract_lets
    | split)

theorem State.suspendEnd_kept (s : State) (slot : Nat) (h : Nat) (host : Mem) :
    Keeps s (State.suspendEnd s slot h host) := by
  unfold State.suspendEnd
  repeat' (first
    | with_reducible exact Keeps.refl _
    | with_reducible apply Keeps.trans ?_ (State.unitUndone_kept ..)
    | with_reducible apply Keeps.trans ?_ (State.rest_kept ..)
    | with_reducible apply keeps_ite)

theorem execLongopSuspend_kept (id : Nat) (host : Mem) (s : State) : KeepsOut s (execLongopSuspend id host s) := by
  unfold execLongopSuspend
  repeat' (first
    | with_reducible exact Keeps.refl _
    | with_reducible apply Keeps.trans ?_ (State.startOp_kept _ _ _ _ ?_)
    | with_reducible apply Keeps.trans ?_ (State.suspendStart_kept ..)
    | with_reducible apply Keeps.trans ?_ (State.suspendEnd_kept ..)
    | with_reducible apply keepsOut_when
    | with_reducible apply keepsOut_next
    | intro _
    | split)

theorem State.release_kept (s : State) (slot : Nat) (h : Nat) : Keeps s (State.release s slot h) := by
  unfold State.release
  repeat' (first
    | with_reducible exact Keeps.refl _
    | with_reducible apply Keeps.trans ?_ (State.ckptLost_kept ..)
    | with_reducible apply Keeps.trans ?_ (State.endSome_kept ..)
    | with_reducible apply Keeps.trans ?_ (State.freeHandle_kept ..)
    | with_reducible apply Keeps.trans ?_ (State.reseed_kept ..)
    | with_reducible apply keeps_ite)

theorem State.suspendYields_kept (s : State) (slot : Nat) (h : Nat) : Keeps s (State.suspendYields s slot h) := ⟨rfl, rfl, fun w => w⟩

theorem State.cancelStart_kept (s : State) (c : Cmd) : Keeps s (State.cancelStart s c) := by
  unfold State.cancelStart
  repeat' (first
    | with_reducible exact Keeps.refl _
    | with_reducible apply Keeps.trans ?_ (State.endCmd_kept ..)
    | with_reducible apply Keeps.trans ?_ (State.onHandle_kept ..)
    | with_reducible apply Keeps.trans ?_ (State.endSome_kept ..)
    | with_reducible apply Keeps.trans ?_ (State.freeHandle_kept ..)
    | with_reducible apply Keeps.trans ?_ (State.moltCancel_kept ..)
    | with_reducible apply Keeps.trans ?_ (State.release_kept ..)
    | with_reducible apply Keeps.trans ?_ (State.suspendYields_kept ..)
    | with_reducible apply keeps_ite
    | fail_if_no_progress extract_lets
    | split)

theorem execLongopCancel_kept (id : Nat) (host : Mem) (s : State) : KeepsOut s (execLongopCancel id host s) := by
  unfold execLongopCancel
  repeat' (first
    | with_reducible exact Keeps.refl _
    | with_reducible apply Keeps.trans ?_ (State.cancelStart_kept ..)
    | with_reducible apply Keeps.trans ?_ (State.release_kept ..)
    | with_reducible apply Keeps.trans ?_ (State.startOp_kept _ _ _ _ ?_)
    | with_reducible apply Keeps.trans ?_ (State.unitUndone_kept ..)
    | with_reducible apply keepsOut_when
    | with_reducible apply keepsOut_next
    | intro _
    | split)

theorem State.afterUnit_kept (s : State) (slot : Nat) (h : Nat) (id : Nat) : Keeps s (State.afterUnit s slot h id) := by
  unfold State.afterUnit
  repeat' (first
    | with_reducible exact Keeps.refl _
    | with_reducible apply Keeps.trans ?_ (State.onHandle_kept ..)
    | with_reducible apply Keeps.trans ?_ (State.tornEnd_kept ..)
    | with_reducible apply Keeps.trans ?_ (State.lastUnit_kept ..)
    | with_reducible apply Keeps.trans ?_ (State.rest_kept ..)
    | with_reducible apply Keeps.trans ?_ (State.release_kept ..)
    | with_reducible apply keeps_ite)

theorem State.longopLimit_kept (s : State) (slot : Nat) (h : Nat) : Keeps s (State.longopLimit s slot h) := by
  unfold State.longopLimit
  repeat' (first
    | with_reducible exact Keeps.refl _
    | with_reducible apply Keeps.trans ?_ (State.unitUndone_kept ..)
    | with_reducible apply Keeps.trans ?_ (State.suspendEnd_kept ..)
    | with_reducible apply Keeps.trans ?_ (State.release_kept ..)
    | with_reducible apply keeps_ite
    | split)

theorem State.longopTick_kept (s : State) : Keeps s (State.longopTick s) := by
  unfold State.longopTick
  repeat' (first
    | with_reducible exact Keeps.refl _
    | with_reducible apply Keeps.trans ?_ (State.longopLimit_kept ..)
    | with_reducible apply keeps_fold
    | intro _)

theorem execLongopUnitDone_kept (i : Fin 16) (h : Fin 64) (host : Mem) (s : State) :
    KeepsOut s (execLongopUnitDone i h host s) := by
  unfold execLongopUnitDone
  repeat' (first
    | with_reducible exact Keeps.refl _
    | with_reducible apply keepsOut_when
    | with_reducible apply keepsOut_next
    | with_reducible apply keepsOut_ite
    | with_reducible apply Keeps.trans ?_ (State.afterUnit_kept ..)
    | with_reducible apply Keeps.trans ?_ (State.lateDone_kept ..)
    | with_reducible apply Keeps.trans ?_ (State.onHandle_kept ..)
    | with_reducible apply Keeps.trans ?_ (State.preread_kept ..)
    | with_reducible apply Keeps.trans ?_ (State.setCmd_kept ..)
    | with_reducible apply Keeps.trans ?_ (State.unitStep_kept ..)
    | with_reducible apply keeps_ite
    | fail_if_no_progress (with_reducible apply keeps_mk)
    | fail_if_no_progress extract_lets
    | with_reducible refine keeps_fst (by assumption) ?_
    | split
    | dsimp +zetaDelta -zeta only)

theorem State.stopOverrun_kept (s : State) (c : Cmd) (code : Nat) : Keeps s (State.stopOverrun s c code) := by
  unfold State.stopOverrun
  repeat' (first
    | with_reducible exact Keeps.refl _
    | with_reducible apply Keeps.trans ?_ (State.endCmd_kept ..)
    | with_reducible apply Keeps.trans ?_ (State.dropColl_kept ..)
    | with_reducible apply Keeps.trans ?_ (State.sendAborts_kept ..)
    | with_reducible apply Keeps.trans ?_ (State.collUndone_kept ..)
    | with_reducible apply Keeps.trans ?_ (State.moltFail_kept ..)
    | with_reducible apply Keeps.trans ?_ (State.holdTag_kept ..)
    | with_reducible apply Keeps.trans ?_ (State.dropUpd_kept ..)
    | with_reducible apply Keeps.trans ?_ (State.dropMolt_kept ..)
    | with_reducible apply keeps_ite
    | fail_if_no_progress extract_lets
    | split)

theorem execOverrun_kept (id : Nat) (s : State) : KeepsOut s (execOverrun id s) := by
  unfold execOverrun
  repeat' (first
    | with_reducible exact Keeps.refl _
    | with_reducible apply Keeps.trans ?_ (State.stopOverrun_kept ..)
    | with_reducible apply keepsOut_next
    | with_reducible apply keepsOut_ite
    | split)

theorem State.leaveCore_kept (s : State) (slot : Nat) (id : Nat) (c : Nat) :
    Keeps s (State.leaveCore s slot id c) := by
  unfold State.leaveCore
  repeat' (first
    | with_reducible exact Keeps.refl _
    | with_reducible apply Keeps.trans ?_ (State.closeStreams_kept ..)
    | with_reducible apply Keeps.trans ?_ (State.mergeTracker_kept ..)
    | with_reducible apply Keeps.trans ?_ (State.setCore_kept ..)
    | with_reducible apply Keeps.trans ?_ (State.setTables_kept ..)
    | with_reducible apply keeps_ite
    | with_reducible apply keeps_fold
    | intro _
    | fail_if_no_progress (with_reducible apply keeps_mk)
    | fail_if_no_progress extract_lets)

theorem State.leaveEngines_kept (s : State) (id : Nat) : Keeps s (State.leaveEngines s id) := by
  unfold State.leaveEngines
  repeat' (first
    | with_reducible exact Keeps.refl _
    | with_reducible apply Keeps.trans ?_ (State.collStop_kept ..)
    | with_reducible apply Keeps.trans ?_ (State.dropUpd_kept ..)
    | with_reducible apply Keeps.trans ?_ (State.forgetFlows_kept ..)
    | with_reducible apply Keeps.trans ?_ (State.moltFail_kept ..)
    | split)

theorem State.fedDone_kept (s : State) (id : Nat) (st : Nat) (d : Nat) : Keeps s (State.fedDone s id st d) := by
  unfold State.fedDone
  repeat' (first
    | with_reducible exact Keeps.refl _
    | with_reducible apply Keeps.trans ?_ (State.dropUpd_kept ..)
    | with_reducible apply Keeps.trans ?_ (State.endCmd_kept ..)
    | with_reducible apply Keeps.trans ?_ (State.setUpd_kept ..)
    | with_reducible apply keeps_ite
    | with_reducible apply keeps_fold
    | intro _)

theorem State.countDone_kept (s : State) (c : Cmd) (st : Nat) : Keeps s (State.countDone s c st) := by
  unfold State.countDone
  repeat' (first
    | with_reducible exact Keeps.refl _
    | with_reducible apply Keeps.trans ?_ (State.count_kept ..)
    | with_reducible apply keeps_ite)

theorem State.faultUpdate_kept (s : State) (c : Cmd) (st : Nat) : Keeps s (State.faultUpdate s c st) := by
  unfold State.faultUpdate
  repeat' (first
    | with_reducible exact Keeps.refl _
    | with_reducible apply Keeps.trans ?_ (State.setPart_kept ..)
    | with_reducible apply keeps_ite)

theorem State.leaveHandle_kept (s : State) (c : Cmd) (st : Nat) : Keeps s (State.leaveHandle s c st) := by
  unfold State.leaveHandle
  repeat' (first
    | with_reducible exact Keeps.refl _
    | with_reducible apply Keeps.trans ?_ (State.freeHandle_kept ..)
    | with_reducible apply keeps_ite)

theorem State.endDrain_kept (s : State) (c : Cmd) (st : Nat) : Keeps s (State.endDrain s c st) := by
  unfold State.endDrain
  repeat' (first
    | with_reducible exact Keeps.refl _
    | with_reducible apply Keeps.trans ?_ (State.setCore_kept ..)
    | with_reducible apply keeps_ite
    | with_reducible apply keeps_fold
    | intro _)

theorem State.forgetCmd_kept (s : State) (id : Nat) : Keeps s (State.forgetCmd s id) := ⟨rfl, rfl, fun w => w⟩

theorem State.complete_kept (s : State) (c : Cmd) (st : Nat) (d : Nat) (writeOk : Bool) :
    Keeps s (State.complete s c st d writeOk) := by
  unfold State.complete
  repeat' (first
    | with_reducible exact Keeps.refl _
    | with_reducible apply Keeps.trans ?_ (State.setCore_kept ..)
    | with_reducible apply Keeps.trans ?_ (State.settle_kept ..)
    | with_reducible apply Keeps.trans ?_ (State.signal_kept ..)
    | with_reducible apply Keeps.trans ?_ (State.tierCleanup_kept ..)
    | with_reducible apply Keeps.trans ?_ (State.leaveCore_kept ..)
    | with_reducible apply Keeps.trans ?_ (State.leaveEngines_kept ..)
    | with_reducible apply Keeps.trans ?_ (State.fedDone_kept ..)
    | with_reducible apply Keeps.trans ?_ (State.countDone_kept ..)
    | with_reducible apply Keeps.trans ?_ (State.faultUpdate_kept ..)
    | with_reducible apply Keeps.trans ?_ (State.leaveHandle_kept ..)
    | with_reducible apply Keeps.trans ?_ (State.endDrain_kept ..)
    | with_reducible apply Keeps.trans ?_ (State.forgetCmd_kept ..)
    | with_reducible apply keeps_fold
    | intro _
    | split)

theorem execCommandComplete_kept (id : Nat) (writeOk : Bool) (s : State) :
    KeepsOut s (execCommandComplete id writeOk s) := by
  unfold execCommandComplete
  repeat' (first
    | with_reducible exact Keeps.refl _
    | with_reducible apply Keeps.trans ?_ (State.complete_kept ..)
    | with_reducible apply keepsOut_when
    | with_reducible apply keepsOut_next
    | split)

theorem State.withNew_kept (s : State) (me : Cmd) : Keeps s (State.withNew s me) := ⟨rfl, rfl, fun w => w⟩

theorem State.wakeBlock_kept (s : State) (b : Nat) :
    Keeps s (State.wakeBlock s b) := by
  unfold State.wakeBlock
  repeat' (first
    | with_reducible exact Keeps.refl _
    | with_reducible apply Keeps.trans ?_ (State.setBlock_kept ..)
    | with_reducible apply Keeps.trans ?_ (State.wakeTo_kept ..)
    | with_reducible apply keeps_ite
    | fail_if_no_progress (with_reducible apply keeps_mk)
    | fail_if_no_progress extract_lets)

theorem State.openHandle_kept (s : State) (c : Cmd) : Keeps s (State.openHandle s c) := by
  unfold State.openHandle
  repeat' (first
    | with_reducible exact Keeps.refl _
    | with_reducible apply Keeps.trans ?_ (State.setLongop_kept ..)
    | with_reducible apply keeps_ite)

theorem State.startDrain_kept (s : State) (c : Cmd) : Keeps s (State.startDrain s c) := by
  unfold State.startDrain
  repeat' (first
    | with_reducible exact Keeps.refl _
    | with_reducible apply Keeps.trans ?_ (State.setCore_kept ..)
    | with_reducible apply keeps_ite
    | with_reducible apply keeps_fold
    | intro _)

theorem State.accept_kept (s : State) (me : Cmd) : Keeps s (State.accept s me) := by
  unfold State.accept
  repeat' (first
    | with_reducible exact Keeps.refl _
    | with_reducible apply Keeps.trans ?_ (State.openHandle_kept ..)
    | with_reducible apply Keeps.trans ?_ (State.startDrain_kept ..)
    | with_reducible apply Keeps.trans ?_ (State.wakeBlock_kept ..)
    | with_reducible apply Keeps.trans ?_ (State.withNew_kept ..)
    | with_reducible apply keeps_fold
    | fail_if_no_progress (with_reducible apply keeps_mk)
    | intro _)

theorem State.refuse_kept (s : State) (slot : Nat) (w : Waiting) (status : Nat) (detail : Nat) (writeOk : Bool) :
    Keeps s (State.refuse s slot w status detail writeOk) := by
  unfold State.refuse
  repeat' (first
    | with_reducible exact Keeps.refl _
    | with_reducible apply Keeps.trans ?_ (State.setPart_kept ..)
    | with_reducible apply Keeps.trans ?_ (State.settle_kept ..)
    | with_reducible apply Keeps.trans ?_ (State.signal_kept ..)
    | with_reducible apply keeps_ite
    | fail_if_no_progress (with_reducible apply keeps_mk)
    | fail_if_no_progress extract_lets)

theorem State.decideRecord_kept (s : State) (slot : Nat) (w : Waiting) (writeOk : Bool) :
    Keeps s (State.decideRecord s slot w writeOk) := by
  unfold State.decideRecord
  repeat' (first
    | with_reducible exact Keeps.refl _
    | with_reducible apply Keeps.trans ?_ (State.accept_kept ..)
    | with_reducible apply Keeps.trans ?_ (State.fresh_kept ..)
    | with_reducible apply Keeps.trans ?_ (State.refuse_kept ..)
    | with_reducible apply keeps_ite
    | fail_if_no_progress (with_reducible apply keeps_mk)
    | fail_if_no_progress extract_lets
    | split)

theorem State.decideFront_kept (s : State) (writeOk : Bool) :
    Keeps s (State.decideFront s writeOk) := by
  unfold State.decideFront
  repeat' (first
    | with_reducible exact Keeps.refl _
    | with_reducible apply Keeps.trans ?_ (State.decideRecord_kept ..)
    | with_reducible apply keeps_ite
    | fail_if_no_progress (with_reducible apply keeps_mk)
    | fail_if_no_progress extract_lets
    | with_reducible refine keeps_fst (by assumption) ?_
    | split
    | dsimp +zetaDelta -zeta only)

theorem execAdmitRecord_kept (writeOk : Bool) (s : State) :
    KeepsOut s (execAdmitRecord writeOk s) := by
  unfold execAdmitRecord
  repeat' (first
    | with_reducible exact Keeps.refl _
    | with_reducible apply keepsOut_when
    | with_reducible apply keepsOut_next
    | with_reducible apply keepsOut_ite
    | with_reducible apply Keeps.trans ?_ (State.decideFront_kept ..)
    | with_reducible apply keeps_ite
    | fail_if_no_progress (with_reducible apply keeps_mk)
    | with_reducible refine keeps_fst (by assumption) ?_
    | split)

theorem State.readBankDesc_kept (s : State) (id : Nat) (slot : Nat) (va : Nat) :
    Keeps s (State.readBankDesc s id slot va).1 := by
  unfold State.readBankDesc
  repeat' (first
    | with_reducible exact Keeps.refl _
    | with_reducible apply Keeps.trans ?_ (State.descRead_kept ..)
    | fail_if_no_progress extract_lets
    | with_reducible refine keeps_fst (by assumption) ?_
    | split)

theorem State.bankStart_kept (s : State) (c : Cmd) (bs : List Byte) : Keeps s (State.bankStart s c bs) := by
  unfold State.bankStart
  repeat' (first
    | with_reducible exact Keeps.refl _
    | with_reducible apply Keeps.trans ?_ (State.endCmd_kept ..)
    | with_reducible apply Keeps.trans ?_ (State.setCmd_kept ..)
    | with_reducible apply Keeps.trans ?_ (State.setCore_kept ..)
    | with_reducible apply keeps_ite
    | with_reducible apply keeps_fold
    | intro _
    | fail_if_no_progress extract_lets
    | split)

theorem execBankRun_kept (id : Nat) (s : State) : KeepsOut s (execBankRun id s) := by
  unfold execBankRun
  repeat' (first
    | with_reducible exact Keeps.refl _
    | with_reducible apply Keeps.trans ?_ (State.endCmd_kept ..)
    | with_reducible apply Keeps.trans ?_ (State.bankStart_kept ..)
    | with_reducible apply Keeps.trans ?_ (State.beginCmd_kept ..)
    | with_reducible apply Keeps.trans ?_ (State.readBankDesc_kept ..)
    | with_reducible apply keepsOut_next
    | with_reducible apply keepsOut_ite
    | with_reducible refine keeps_fst (by assumption) ?_
    | split)

theorem State.putEngine_kept (s : State) (u : Uop) (e : BankEngine) (fl : Flags) : Keeps s (State.putEngine s u e fl) := ⟨rfl, rfl, fun w => w⟩

theorem State.issueUop_kept (s : State) (c : Nat) (b : Nat) (op : Nat) (f : Uop → State) (hf : ∀ (a0 : Uop), Keeps s (f a0)) :
    KeepsOut s (State.issueUop s c b op f) := by
  unfold State.issueUop
  repeat' (first
    | with_reducible exact Keeps.refl _
    | with_reducible apply Keeps.trans ?_ (hf _)
    | with_reducible apply keepsOut_next
    | split)

theorem State.putLanes_kept (s : State) (u : Uop) (e : BankEngine) (l : List FRes) (p : Bool) :
    Keeps s (State.putLanes s u e l p) := ⟨rfl, rfl, fun w => w⟩

theorem State.lane1_kept (s : State) (u : Uop) (f : W32 → FRes) : Keeps s (State.lane1 s u f) := ⟨rfl, rfl, fun w => w⟩

theorem State.lane2_kept (s : State) (u : Uop) (f : W32 → W32 → FRes) : Keeps s (State.lane2 s u f) := ⟨rfl, rfl, fun w => w⟩

theorem State.sraDraw_kept (s : State) (u : Uop) : Keeps s (State.sraDraw s u).2.2 := by
  unfold State.sraDraw
  repeat' (first
    | with_reducible exact Keeps.refl _
    | with_reducible apply Keeps.trans ?_ (State.count_kept ..)
    | fail_if_no_progress extract_lets
    | split)

theorem State.laneSra_kept (s : State) (u : Uop) (f : Option Nat → Nat → FRes) (p : Bool) :
    Keeps s (State.laneSra s u f p) := by
  unfold State.laneSra
  repeat' (first
    | with_reducible exact Keeps.refl _
    | with_reducible apply Keeps.trans ?_ (State.putLanes_kept ..)
    | with_reducible apply Keeps.trans ?_ (State.sraDraw_kept ..))

theorem State.uopLoad_kept (s : State) (u : Uop) (ecc : Ecc) (f : State → BitVec 128 → Bool → State) (hf : ∀ (a0 : State) (a1 : BitVec 128) (a2 : Bool), Keeps a0 (f a0 a1 a2)) :
    Keeps s (State.uopLoad s u ecc f) := by
  unfold State.uopLoad
  repeat' (first
    | with_reducible exact Keeps.refl _
    | with_reducible apply Keeps.trans ?_ (hf _ _ _)
    | with_reducible apply Keeps.trans ?_ (State.endCmd_kept ..)
    | with_reducible apply Keeps.trans ?_ (State.notePoison_kept ..)
    | with_reducible apply Keeps.trans ?_ (State.scratchEcc_kept ..)
    | with_reducible apply keeps_ite)

theorem State.uopStore_kept (s : State) (u : Uop) (v : BitVec 128) (p : Bool) (e : BankEngine) (fl : Flags) :
    Keeps s (State.uopStore s u v p e fl) := by
  unfold State.uopStore
  repeat' (first
    | with_reducible exact Keeps.refl _
    | with_reducible apply Keeps.trans ?_ (State.bankWriteWord_kept ..)
    | with_reducible apply Keeps.trans ?_ (State.endCmd_kept ..)
    | with_reducible apply Keeps.trans ?_ (State.putEngine_kept ..)
    | with_reducible apply keeps_ite)

theorem State.countSat_kept (s : State) (c : Nat) (n : Nat) : Keeps s (State.countSat s c n) := by
  unfold State.countSat
  repeat' (first
    | with_reducible exact Keeps.refl _
    | with_reducible apply Keeps.trans ?_ (State.count_kept ..))

theorem State.bankFinish_kept (s : State) (id : Nat) : Keeps s (State.bankFinish s id) := by
  unfold State.bankFinish
  repeat' (first
    | with_reducible exact Keeps.refl _
    | with_reducible apply Keeps.trans ?_ (State.finishCmd_kept ..)
    | with_reducible apply keeps_ite
    | split)

theorem State.treeRun_kept (s : State) (u : Uop) (banks : List (Nat × Nat × Stripe × BankEngine)) (w : Nat) (op : W32 → W32 → FRes) (rest : Option W32) :
    Keeps s (State.treeRun s u banks w op rest) := by
  unfold State.treeRun
  repeat' (first
    | with_reducible exact Keeps.refl _
    | with_reducible apply Keeps.trans ?_ (State.putEngine_kept ..)
    | with_reducible apply keeps_fold
    | intro _)

theorem State.treeTry_kept (s : State) (u : Uop) : Keeps s (State.treeTry s u) := by
  unfold State.treeTry
  repeat' (first
    | with_reducible exact Keeps.refl _
    | with_reducible apply Keeps.trans ?_ (State.treeRun_kept ..)
    | with_reducible apply keeps_ite
    | fail_if_no_progress extract_lets
    | split)

theorem execUopEnd_kept (c : CoreNo) (b : BankNo) (s : State) : KeepsOut s (execUopEnd c b s) := by
  unfold execUopEnd
  repeat' (first
    | with_reducible exact Keeps.refl _
    | with_reducible apply Keeps.trans ?_ (State.putEngine_kept ..)
    | with_reducible apply Keeps.trans ?_ (State.bankFinish_kept ..)
    | with_reducible apply Keeps.trans ?_ (State.treeTry_kept ..)
    | with_reducible apply keeps_issueUop
    | intro _)

theorem execUopLd_kept (c : CoreNo) (b : BankNo) (ecc : Ecc) (s : State) : KeepsOut s (execUopLd c b ecc s) := by
  unfold execUopLd
  repeat' (first
    | with_reducible exact Keeps.refl _
    | with_reducible apply Keeps.trans ?_ (State.putEngine_kept ..)
    | with_reducible apply Keeps.trans ?_ (State.uopLoad_kept _ _ _ _ ?_)
    | with_reducible apply keeps_issueUop
    | intro _)

theorem execUopSt_kept (c : CoreNo) (b : BankNo) (s : State) : KeepsOut s (execUopSt c b s) := by
  unfold execUopSt
  repeat' (first
    | with_reducible exact Keeps.refl _
    | with_reducible apply Keeps.trans ?_ (State.uopStore_kept ..)
    | with_reducible apply keeps_issueUop
    | intro _)

theorem execUopLdw_kept (c : CoreNo) (b : BankNo) (ecc : Ecc) (s : State) : KeepsOut s (execUopLdw c b ecc s) := by
  unfold execUopLdw
  repeat' (first
    | with_reducible exact Keeps.refl _
    | with_reducible apply Keeps.trans ?_ (State.putEngine_kept ..)
    | with_reducible apply Keeps.trans ?_ (State.uopLoad_kept _ _ _ _ ?_)
    | with_reducible apply keeps_issueUop
    | intro _)

theorem execUopStn_kept (c : CoreNo) (b : BankNo) (s : State) : KeepsOut s (execUopStn c b s) := by
  unfold execUopStn
  repeat' (first
    | with_reducible exact Keeps.refl _
    | with_reducible apply Keeps.trans ?_ (State.countSat_kept ..)
    | with_reducible apply Keeps.trans ?_ (State.uopStore_kept ..)
    | with_reducible apply keeps_ite
    | with_reducible apply keeps_issueUop
    | intro _)

theorem execUopLds_kept (c : CoreNo) (b : BankNo) (ecc : Ecc) (s : State) : KeepsOut s (execUopLds c b ecc s) := by
  unfold execUopLds
  repeat' (first
    | with_reducible exact Keeps.refl _
    | with_reducible apply Keeps.trans ?_ (State.putEngine_kept ..)
    | with_reducible apply Keeps.trans ?_ (State.uopLoad_kept _ _ _ _ ?_)
    | with_reducible apply keeps_issueUop
    | intro _)

theorem execUopSts_kept (c : CoreNo) (b : BankNo) (s : State) : KeepsOut s (execUopSts c b s) := by
  unfold execUopSts
  repeat' (first
    | with_reducible exact Keeps.refl _
    | with_reducible apply Keeps.trans ?_ (State.uopStore_kept ..)
    | with_reducible apply keeps_issueUop
    | intro _)

theorem execUopAinc_kept (c : CoreNo) (b : BankNo) (s : State) : KeepsOut s (execUopAinc c b s) := by
  unfold execUopAinc
  repeat' (first
    | with_reducible exact Keeps.refl _
    | with_reducible apply Keeps.trans ?_ (State.putEngine_kept ..)
    | with_reducible apply keeps_issueUop
    | intro _)

theorem execUopMovk_kept (c : CoreNo) (b : BankNo) (s : State) : KeepsOut s (execUopMovk c b s) := by
  unfold execUopMovk
  repeat' (first
    | with_reducible exact Keeps.refl _
    | with_reducible apply Keeps.trans ?_ (State.putEngine_kept ..)
    | with_reducible apply keeps_issueUop
    | intro _)

theorem execUopFadd_kept (c : CoreNo) (b : BankNo) (s : State) : KeepsOut s (execUopFadd c b s) := by
  unfold execUopFadd
  repeat' (first
    | with_reducible exact Keeps.refl _
    | with_reducible apply Keeps.trans ?_ (State.laneSra_kept ..)
    | with_reducible apply keeps_issueUop
    | intro _)

theorem execUopFsub_kept (c : CoreNo) (b : BankNo) (s : State) : KeepsOut s (execUopFsub c b s) := by
  unfold execUopFsub
  repeat' (first
    | with_reducible exact Keeps.refl _
    | with_reducible apply Keeps.trans ?_ (State.laneSra_kept ..)
    | with_reducible apply keeps_issueUop
    | intro _)

theorem execUopFmul_kept (c : CoreNo) (b : BankNo) (s : State) : KeepsOut s (execUopFmul c b s) := by
  unfold execUopFmul
  repeat' (first
    | with_reducible exact Keeps.refl _
    | with_reducible apply Keeps.trans ?_ (State.lane2_kept ..)
    | with_reducible apply keeps_issueUop
    | intro _)

theorem execUopFma_kept (c : CoreNo) (b : BankNo) (s : State) : KeepsOut s (execUopFma c b s) := by
  unfold execUopFma
  repeat' (first
    | with_reducible exact Keeps.refl _
    | with_reducible apply Keeps.trans ?_ (State.laneSra_kept ..)
    | with_reducible apply keeps_issueUop
    | intro _)

theorem execUopFmak_kept (c : CoreNo) (b : BankNo) (s : State) : KeepsOut s (execUopFmak c b s) := by
  unfold execUopFmak
  repeat' (first
    | with_reducible exact Keeps.refl _
    | with_reducible apply Keeps.trans ?_ (State.laneSra_kept ..)
    | with_reducible apply keeps_issueUop
    | intro _)

theorem execUopFmax_kept (c : CoreNo) (b : BankNo) (s : State) : KeepsOut s (execUopFmax c b s) := by
  unfold execUopFmax
  repeat' (first
    | with_reducible exact Keeps.refl _
    | with_reducible apply Keeps.trans ?_ (State.lane2_kept ..)
    | with_reducible apply keeps_issueUop
    | intro _)

theorem execUopFmin_kept (c : CoreNo) (b : BankNo) (s : State) : KeepsOut s (execUopFmin c b s) := by
  unfold execUopFmin
  repeat' (first
    | with_reducible exact Keeps.refl _
    | with_reducible apply Keeps.trans ?_ (State.lane2_kept ..)
    | with_reducible apply keeps_issueUop
    | intro _)

theorem execUopFabs_kept (c : CoreNo) (b : BankNo) (s : State) : KeepsOut s (execUopFabs c b s) := by
  unfold execUopFabs
  repeat' (first
    | with_reducible exact Keeps.refl _
    | with_reducible apply Keeps.trans ?_ (State.lane1_kept ..)
    | with_reducible apply keeps_issueUop
    | intro _)

theorem execUopFsqrt_kept (c : CoreNo) (b : BankNo) (s : State) : KeepsOut s (execUopFsqrt c b s) := by
  unfold execUopFsqrt
  repeat' (first
    | with_reducible exact Keeps.refl _
    | with_reducible apply Keeps.trans ?_ (State.lane1_kept ..)
    | with_reducible apply keeps_issueUop
    | intro _)

theorem execUopFrcp_kept (c : CoreNo) (b : BankNo) (s : State) : KeepsOut s (execUopFrcp c b s) := by
  unfold execUopFrcp
  repeat' (first
    | with_reducible exact Keeps.refl _
    | with_reducible apply Keeps.trans ?_ (State.lane1_kept ..)
    | with_reducible apply keeps_issueUop
    | intro _)

theorem execUopFrsq_kept (c : CoreNo) (b : BankNo) (s : State) : KeepsOut s (execUopFrsq c b s) := by
  unfold execUopFrsq
  repeat' (first
    | with_reducible exact Keeps.refl _
    | with_reducible apply Keeps.trans ?_ (State.lane1_kept ..)
    | with_reducible apply keeps_issueUop
    | intro _)

theorem execUopHfma_kept (c : CoreNo) (b : BankNo) (s : State) : KeepsOut s (execUopHfma c b s) := by
  unfold execUopHfma
  repeat' (first
    | with_reducible exact Keeps.refl _
    | with_reducible apply Keeps.trans ?_ (State.putEngine_kept ..)
    | with_reducible apply keeps_issueUop
    | intro _)

theorem execUopMxq_kept (c : CoreNo) (b : BankNo) (s : State) : KeepsOut s (execUopMxq c b s) := by
  unfold execUopMxq
  repeat' (first
    | with_reducible exact Keeps.refl _
    | with_reducible apply Keeps.trans ?_ (State.countSat_kept ..)
    | with_reducible apply Keeps.trans ?_ (State.putEngine_kept ..)
    | with_reducible apply keeps_issueUop
    | intro _)

theorem execUopMxd_kept (c : CoreNo) (b : BankNo) (s : State) : KeepsOut s (execUopMxd c b s) := by
  unfold execUopMxd
  repeat' (first
    | with_reducible exact Keeps.refl _
    | with_reducible apply Keeps.trans ?_ (State.putEngine_kept ..)
    | with_reducible apply keeps_issueUop
    | intro _)

theorem execUopLsum_kept (c : CoreNo) (b : BankNo) (s : State) : KeepsOut s (execUopLsum c b s) := by
  unfold execUopLsum
  repeat' (first
    | with_reducible exact Keeps.refl _
    | with_reducible apply Keeps.trans ?_ (State.putLanes_kept ..)
    | with_reducible apply keeps_issueUop
    | intro _)

theorem State.tree_kept (s : State) (u : Uop) : Keeps s (State.tree s u) := by
  unfold State.tree
  repeat' (first
    | with_reducible exact Keeps.refl _
    | with_reducible apply Keeps.trans ?_ (State.putEngine_kept ..)
    | with_reducible apply Keeps.trans ?_ (State.treeTry_kept ..))

theorem execUopGsum_kept (c : CoreNo) (b : BankNo) (s : State) : KeepsOut s (execUopGsum c b s) := by
  unfold execUopGsum
  repeat' (first
    | with_reducible exact Keeps.refl _
    | with_reducible apply Keeps.trans ?_ (State.tree_kept ..)
    | with_reducible apply keeps_issueUop
    | intro _)

theorem execUopGmax_kept (c : CoreNo) (b : BankNo) (s : State) : KeepsOut s (execUopGmax c b s) := by
  unfold execUopGmax
  repeat' (first
    | with_reducible exact Keeps.refl _
    | with_reducible apply Keeps.trans ?_ (State.tree_kept ..)
    | with_reducible apply keeps_issueUop
    | intro _)

theorem execUopLoop_kept (c : CoreNo) (b : BankNo) (s : State) : KeepsOut s (execUopLoop c b s) := by
  unfold execUopLoop
  repeat' (first
    | with_reducible exact Keeps.refl _
    | with_reducible apply Keeps.trans ?_ (State.putEngine_kept ..)
    | with_reducible apply keeps_ite
    | with_reducible apply keeps_issueUop
    | intro _)

theorem State.sendCreif_kept (s : State) (p : List Byte) : Keeps s (State.sendCreif s p) := ⟨rfl, rfl, fun w => w⟩

theorem State.creifAckOut_kept (s : State) (kind : Nat) (arg : Nat) (session : Nat) (seq : Nat) (status : Nat) (total : Nat) :
    Keeps s (State.creifAckOut s kind arg session seq status total) := ⟨rfl, rfl, fun w => w⟩

theorem State.setSession_kept (s : State) (x : Session) : Keeps s (State.setSession s x) := ⟨rfl, rfl, fun w => w⟩

theorem State.dropSession_kept (s : State) (id : Nat) : Keeps s (State.dropSession s id) := ⟨rfl, rfl, fun w => w⟩

theorem State.setStaging_kept (s : State) (st : StageState) : Keeps s (State.setStaging s st) := ⟨rfl, rfl, fun w => w⟩

theorem State.setDump_kept (s : State) (k : Nat) (d : Dump) : Keeps s (State.setDump s k d) := ⟨rfl, rfl, fun w => w⟩

theorem State.exportMore_kept (s : State) (id : Nat) (z2 : Nat) : Keeps s (State.exportMore s id z2) := by
  fun_induction State.exportMore s id z2
  all_goals repeat' (first
    | with_reducible exact Keeps.refl _
    | with_reducible apply Keeps.trans ?_ (State.sendCreif_kept ..)
    | with_reducible apply Keeps.trans ?_ (State.setSession_kept ..)
    | with_reducible refine Keeps.after (by assumption) ?_)

theorem State.freeDump_kept (s : State) (k : Nat) : Keeps s (State.freeDump s k) := ⟨rfl, rfl, fun w => w⟩

theorem State.endExport_kept (s : State) (k : Nat) : Keeps s (State.endExport s k) := ⟨rfl, rfl, fun w => w⟩

theorem State.dumpCancel_kept (s : State) (k : Nat) : Keeps s (State.dumpCancel s k).1 := by
  unfold State.dumpCancel
  repeat' (first
    | with_reducible exact Keeps.refl _
    | with_reducible apply Keeps.trans ?_ (State.endExport_kept ..)
    | with_reducible apply Keeps.trans ?_ (State.freeDump_kept ..)
    | split)

theorem State.dumpSuspend_kept (s : State) (k : Nat) : Keeps s (State.dumpSuspend s k).1 := by
  unfold State.dumpSuspend
  repeat' (first
    | with_reducible exact Keeps.refl _
    | with_reducible apply Keeps.trans ?_ (State.setDump_kept ..)
    | with_reducible apply keeps_ite1)

theorem State.dumpResume_kept (s : State) (k : Nat) : Keeps s (State.dumpResume s k).1 := by
  unfold State.dumpResume
  repeat' (first
    | with_reducible exact Keeps.refl _
    | with_reducible apply Keeps.trans ?_ (State.exportMore_kept ..)
    | with_reducible apply Keeps.trans ?_ (State.setDump_kept ..)
    | with_reducible apply Keeps.trans ?_ (State.setSession_kept ..)
    | with_reducible apply keeps_ite1
    | with_reducible apply keeps_fold
    | intro _
    | split)

theorem State.clearOos_kept (s : State) : Keeps s (State.clearOos s) := ⟨rfl, rfl, fun w => w⟩

theorem State.creifStart_kept (s : State) (kind : Nat) (arg : Nat) (total : Nat) :
    Keeps s (State.creifStart s kind arg total) := by
  unfold State.creifStart
  repeat' (first
    | with_reducible exact Keeps.refl _
    | with_reducible apply Keeps.trans ?_ (State.clearOos_kept ..)
    | with_reducible apply Keeps.trans ?_ (State.count_kept ..)
    | with_reducible apply Keeps.trans ?_ (State.creifAckOut_kept ..)
    | with_reducible apply Keeps.trans ?_ (State.dictSet_kept ..)
    | with_reducible apply Keeps.trans ?_ (State.exportMore_kept ..)
    | with_reducible apply Keeps.trans ?_ (State.invalidateSlot_kept ..)
    | with_reducible apply Keeps.trans ?_ (State.setDump_kept ..)
    | with_reducible apply Keeps.trans ?_ (State.setStaging_kept ..)
    | with_reducible apply keeps_ite
    | fail_if_no_progress (with_reducible apply keeps_mk)
    | fail_if_no_progress extract_lets
    | split)

theorem State.creifBegin_kept (s : State) (p : List Byte) : Keeps s (State.creifBegin s p) := by
  unfold State.creifBegin
  repeat' (first
    | with_reducible exact Keeps.refl _
    | with_reducible apply Keeps.trans ?_ (State.count_kept ..)
    | with_reducible apply Keeps.trans ?_ (State.creifAckOut_kept ..)
    | with_reducible apply Keeps.trans ?_ (State.creifStart_kept ..)
    | with_reducible apply keeps_ite)

theorem execCreifBegin_kept (packet : List Byte) (s : State) : KeepsOut s (execCreifBegin packet s) := by
  unfold execCreifBegin
  repeat' (first
    | with_reducible exact Keeps.refl _
    | with_reducible apply Keeps.trans ?_ (State.creifBegin_kept ..)
    | with_reducible apply keepsOut_when)

theorem State.takeData_kept (s : State) (x : Session) (p : List Byte) : Keeps s (State.takeData s x p) := by
  unfold State.takeData
  repeat' (first
    | with_reducible exact Keeps.refl _
    | with_reducible apply Keeps.trans ?_ (State.creifAckOut_kept ..)
    | with_reducible apply Keeps.trans ?_ (State.dictSet_kept ..)
    | with_reducible apply Keeps.trans ?_ (State.setSession_kept ..)
    | with_reducible apply keeps_ite
    | fail_if_no_progress (with_reducible apply keeps_mk)
    | (refine fun w => flashWrite_wf _ _ _ ?_; exact w)
    | with_reducible apply keeps_mkFlash)

theorem State.creifData_kept (s : State) (p : List Byte) (flashOk : Bool) : Keeps s (State.creifData s p flashOk) := by
  unfold State.creifData
  repeat' (first
    | with_reducible exact Keeps.refl _
    | with_reducible apply Keeps.trans ?_ (State.count_kept ..)
    | with_reducible apply Keeps.trans ?_ (State.creifAckOut_kept ..)
    | with_reducible apply Keeps.trans ?_ (State.setSession_kept ..)
    | with_reducible apply Keeps.trans ?_ (State.takeData_kept ..)
    | with_reducible apply keeps_ite
    | split)

theorem execCreifData_kept (packet : List Byte) (flashOk : Bool) (s : State) :
    KeepsOut s (execCreifData packet flashOk s) := by
  unfold execCreifData
  repeat' (first
    | with_reducible exact Keeps.refl _
    | with_reducible apply Keeps.trans ?_ (State.creifData_kept ..)
    | with_reducible apply keepsOut_when)

theorem State.putProfile_kept (s : State) (bs : List Byte) (v : Verify) : Keeps s (State.putProfile s bs v).1 := by
  unfold State.putProfile
  repeat' (first
    | with_reducible exact Keeps.refl _
    | with_reducible apply keeps_ite1
    | fail_if_no_progress (with_reducible apply keeps_mk)
    | (refine fun w => flashWrite_wf _ _ _ (flashErase_wf _ _ _ ?_); exact w)
    | with_reducible apply keeps_mkFlash)

theorem State.finishUpload_kept (s : State) (x : Session) (status : Nat) : Keeps s (State.finishUpload s x status) := by
  unfold State.finishUpload
  repeat' (first
    | with_reducible exact Keeps.refl _
    | with_reducible apply Keeps.trans ?_ (State.count_kept ..)
    | with_reducible apply Keeps.trans ?_ (State.creifAckOut_kept ..)
    | with_reducible apply Keeps.trans ?_ (State.dropSession_kept ..)
    | with_reducible apply keeps_ite)

theorem State.stageVerified_kept (s : State) (v : Verify) : Keeps s (State.stageVerified s v) := by
  unfold State.stageVerified
  repeat' (first
    | with_reducible exact Keeps.refl _
    | with_reducible apply Keeps.trans ?_ (State.dictSet_kept ..)
    | with_reducible apply Keeps.trans ?_ (State.event_kept ..)
    | with_reducible apply Keeps.trans ?_ (State.finishUpload_kept ..)
    | with_reducible apply Keeps.trans ?_ (State.invalidateSlot_kept ..)
    | with_reducible apply Keeps.trans ?_ (State.setStaging_kept ..)
    | with_reducible apply Keeps.trans ?_ (State.slotEntries_kept ..)
    | with_reducible apply keeps_ite
    | fail_if_no_progress (with_reducible apply keeps_mk)
    | fail_if_no_progress extract_lets
    | split)

theorem execStageVerifyDone_kept (v : Verify) (s : State) : KeepsOut s (execStageVerifyDone v s) := by
  unfold execStageVerifyDone
  repeat' (first
    | with_reducible exact Keeps.refl _
    | with_reducible apply Keeps.trans ?_ (State.stageVerified_kept ..)
    | with_reducible apply keepsOut_when)

theorem State.exportAck_kept (s : State) (p : List Byte) : Keeps s (State.exportAck s p) := by
  unfold State.exportAck
  repeat' (first
    | with_reducible exact Keeps.refl _
    | with_reducible apply Keeps.trans ?_ (State.count_kept ..)
    | with_reducible apply Keeps.trans ?_ (State.dropSession_kept ..)
    | with_reducible apply Keeps.trans ?_ (State.exportMore_kept ..)
    | with_reducible apply Keeps.trans ?_ (State.freeDump_kept ..)
    | with_reducible apply Keeps.trans ?_ (State.setSession_kept ..)
    | with_reducible apply keeps_ite
    | fail_if_no_progress extract_lets
    | split)

theorem execCreifAck_kept (packet : List Byte) (s : State) : KeepsOut s (execCreifAck packet s) := by
  unfold execCreifAck
  repeat' (first
    | with_reducible exact Keeps.refl _
    | with_reducible apply Keeps.trans ?_ (State.exportAck_kept ..)
    | with_reducible apply keepsOut_when)

theorem State.abortSession_kept (s : State) (x : Session) : Keeps s (State.abortSession s x) := by
  unfold State.abortSession
  repeat' (first
    | with_reducible exact Keeps.refl _
    | with_reducible apply Keeps.trans ?_ (State.dropSession_kept ..)
    | with_reducible apply Keeps.trans ?_ (State.setDump_kept ..)
    | with_reducible apply Keeps.trans ?_ (State.setStaging_kept ..)
    | with_reducible apply keeps_ite)

theorem State.creifAbort_kept (s : State) (p : List Byte) : Keeps s (State.creifAbort s p) := by
  unfold State.creifAbort
  repeat' (first
    | with_reducible exact Keeps.refl _
    | with_reducible apply Keeps.trans ?_ (State.abortSession_kept ..)
    | with_reducible apply Keeps.trans ?_ (State.count_kept ..)
    | with_reducible apply keeps_ite
    | split)

theorem execCreifAbort_kept (packet : List Byte) (s : State) : KeepsOut s (execCreifAbort packet s) := by
  unfold execCreifAbort
  repeat' (first
    | with_reducible exact Keeps.refl _
    | with_reducible apply Keeps.trans ?_ (State.creifAbort_kept ..)
    | with_reducible apply keepsOut_when)

theorem State.creifResend_kept (s : State) (id : Nat) : Keeps s (State.creifResend s id) := by
  unfold State.creifResend
  repeat' (first
    | with_reducible exact Keeps.refl _
    | with_reducible apply Keeps.trans ?_ (State.abortSession_kept ..)
    | with_reducible apply Keeps.trans ?_ (State.sendCreif_kept ..)
    | with_reducible apply Keeps.trans ?_ (State.setSession_kept ..)
    | with_reducible apply keeps_ite
    | split)

theorem execCreifResend_kept (session : Nat) (s : State) : KeepsOut s (execCreifResend session s) := by
  unfold execCreifResend
  repeat' (first
    | with_reducible exact Keeps.refl _
    | with_reducible apply Keeps.trans ?_ (State.creifResend_kept ..)
    | with_reducible apply keepsOut_next)

theorem execCreifSessionTimeout_kept (session : Nat) (s : State) : KeepsOut s (execCreifSessionTimeout session s) := by
  unfold execCreifSessionTimeout
  repeat' (first
    | with_reducible exact Keeps.refl _
    | with_reducible apply Keeps.trans ?_ (State.abortSession_kept ..)
    | with_reducible apply Keeps.trans ?_ (State.creifAckOut_kept ..)
    | with_reducible apply keeps_ite
    | with_reducible apply keepsOut_next
    | split)

theorem State.fwActivate_kept (s : State) : Keeps s (State.fwActivate s).1 := by
  unfold State.fwActivate
  repeat' (first
    | with_reducible exact Keeps.refl _
    | with_reducible apply Keeps.trans ?_ (State.commitBootCtl_kept ..)
    | with_reducible apply Keeps.trans ?_ (State.dictSet_kept ..)
    | with_reducible apply Keeps.trans ?_ (State.setStaging_kept ..)
    | with_reducible apply keeps_ite1)

theorem State.fwAbandon_kept (s : State) : Keeps s (State.fwAbandon s).1 := by
  unfold State.fwAbandon
  repeat' (first
    | with_reducible exact Keeps.refl _
    | with_reducible apply Keeps.trans ?_ (State.commitBootCtl_kept ..)
    | with_reducible apply keeps_ite1
    | fail_if_no_progress (with_reducible apply keeps_mk))

theorem State.stageSuspend_kept (s : State) : Keeps s (State.stageSuspend s).1 := by
  unfold State.stageSuspend
  repeat' (first
    | with_reducible exact Keeps.refl _
    | with_reducible apply Keeps.trans ?_ (State.setStaging_kept ..)
    | with_reducible apply keeps_ite1)

theorem State.stageResume_kept (s : State) : Keeps s (State.stageResume s).1 := by
  unfold State.stageResume
  repeat' (first
    | with_reducible exact Keeps.refl _
    | with_reducible apply Keeps.trans ?_ (State.setStaging_kept ..)
    | with_reducible apply keeps_ite1)

theorem State.stageCancel_kept (s : State) : Keeps s (State.stageCancel s).1 := by
  unfold State.stageCancel
  repeat' (first
    | with_reducible exact Keeps.refl _
    | with_reducible apply Keeps.trans ?_ (State.dropSession_kept ..)
    | with_reducible apply Keeps.trans ?_ (State.setStaging_kept ..)
    | with_reducible apply keeps_ite1
    | fail_if_no_progress extract_lets
    | dsimp -zeta only
    | split)

theorem execSelftestDone_kept (pass : Bool) (detail : W32) (s : State) : KeepsOut s (execSelftestDone pass detail s) := by
  unfold execSelftestDone
  repeat' (first
    | with_reducible exact Keeps.refl _
    | with_reducible apply Keeps.trans ?_ (State.dictSet_kept ..)
    | with_reducible apply Keeps.trans ?_ (State.event_kept ..)
    | with_reducible apply keeps_ite
    | with_reducible apply keepsOut_when)

theorem execEntdaa_kept (addr : BitVec 7) (s : State) : KeepsOut s (execEntdaa addr s) := by
  unfold execEntdaa
  repeat' (first
    | with_reducible exact Keeps.refl _
    | fail_if_no_progress (with_reducible apply keeps_mk)
    | with_reducible apply keepsOut_when)

theorem execSetdasa_kept (static : BitVec 7) (dynamic : BitVec 7) (s : State) :
    KeepsOut s (execSetdasa static dynamic s) := by
  unfold execSetdasa
  repeat' (first
    | with_reducible exact Keeps.refl _
    | fail_if_no_progress (with_reducible apply keeps_mk)
    | with_reducible apply keepsOut_when)

theorem execGetstatus_kept (s : State) : KeepsOut s (execGetstatus s) := by
  unfold execGetstatus
  repeat' (first
    | with_reducible exact Keeps.refl _
    | fail_if_no_progress (with_reducible apply keeps_mk)
    | with_reducible apply keepsOut_when)

theorem State.mctpReply_kept (s : State) (bs : List Byte) : Keeps s (State.mctpReply s bs) := ⟨rfl, rfl, fun w => w⟩

theorem execSetEndpointId_kept (eid : Byte) (s : State) : KeepsOut s (execSetEndpointId eid s) := by
  unfold execSetEndpointId
  repeat' (first
    | with_reducible exact Keeps.refl _
    | with_reducible apply Keeps.trans ?_ (State.dictSet_kept ..)
    | with_reducible apply Keeps.trans ?_ (State.mctpReply_kept ..)
    | with_reducible apply keeps_ite
    | with_reducible apply keepsOut_when)

theorem execGetEndpointId_kept (s : State) : KeepsOut s (execGetEndpointId s) := by
  unfold execGetEndpointId
  repeat' (first
    | with_reducible exact Keeps.refl _
    | with_reducible apply Keeps.trans ?_ (State.mctpReply_kept ..)
    | with_reducible apply keepsOut_when)

theorem execGetMctpVersionSupport_kept (msgType : Byte) (s : State) : KeepsOut s (execGetMctpVersionSupport msgType s) := by
  unfold execGetMctpVersionSupport
  repeat' (first
    | with_reducible exact Keeps.refl _
    | with_reducible apply Keeps.trans ?_ (State.mctpReply_kept ..)
    | with_reducible apply keeps_ite
    | with_reducible apply keepsOut_when)

theorem execGetMessageTypeSupport_kept (s : State) : KeepsOut s (execGetMessageTypeSupport s) := by
  unfold execGetMessageTypeSupport
  repeat' (first
    | with_reducible exact Keeps.refl _
    | with_reducible apply Keeps.trans ?_ (State.mctpReply_kept ..)
    | with_reducible apply keepsOut_when)

theorem execGetVendorDefinedSupport_kept (selector : Byte) (s : State) :
    KeepsOut s (execGetVendorDefinedSupport selector s) := by
  unfold execGetVendorDefinedSupport
  repeat' (first
    | with_reducible exact Keeps.refl _
    | with_reducible apply Keeps.trans ?_ (State.mctpReply_kept ..)
    | with_reducible apply keeps_ite
    | with_reducible apply keepsOut_when)

theorem execDoeDiscovery_kept (p : PortNo) (index : Byte) (s : State) : KeepsOut s (execDoeDiscovery p index s) := by
  unfold execDoeDiscovery
  repeat' (first
    | with_reducible exact Keeps.refl _
    | fail_if_no_progress (with_reducible apply keeps_mk)
    | with_reducible apply keepsOut_when)

theorem State.spdmReply_kept (s : State) (t : Nat) (c : Spdm) (request : List Byte) (reply : List Byte) :
    Keeps s (State.spdmReply s t c request reply) := ⟨rfl, rfl, fun w => w⟩

theorem State.spdmError_kept (s : State) (t : Nat) (code : Nat) : Keeps s (State.spdmError s t code) := ⟨rfl, rfl, fun w => w⟩

theorem execGetVersion_kept (t : Fin 3) (request : List Byte) (s : State) : KeepsOut s (execGetVersion t request s) := by
  unfold execGetVersion
  repeat' (first
    | with_reducible exact Keeps.refl _
    | with_reducible apply Keeps.trans ?_ (State.spdmReply_kept ..)
    | with_reducible apply keepsOut_when)

theorem execGetCapabilities_kept (t : Fin 3) (request : List Byte) (s : State) :
    KeepsOut s (execGetCapabilities t request s) := by
  unfold execGetCapabilities
  repeat' (first
    | with_reducible exact Keeps.refl _
    | with_reducible apply Keeps.trans ?_ (State.fresh_kept ..)
    | with_reducible apply Keeps.trans ?_ (State.spdmError_kept ..)
    | with_reducible apply Keeps.trans ?_ (State.spdmReply_kept ..)
    | with_reducible apply keeps_ite
    | with_reducible apply keepsOut_when)

theorem execNegotiateAlgorithms_kept (t : Fin 3) (request : List Byte) (s : State) :
    KeepsOut s (execNegotiateAlgorithms t request s) := by
  unfold execNegotiateAlgorithms
  repeat' (first
    | with_reducible exact Keeps.refl _
    | with_reducible apply Keeps.trans ?_ (State.spdmError_kept ..)
    | with_reducible apply Keeps.trans ?_ (State.spdmReply_kept ..)
    | with_reducible apply keeps_ite
    | with_reducible apply keepsOut_when)

theorem execGetDigests_kept (t : Fin 3) (request : List Byte) (s : State) : KeepsOut s (execGetDigests t request s) := by
  unfold execGetDigests
  repeat' (first
    | with_reducible exact Keeps.refl _
    | with_reducible apply Keeps.trans ?_ (State.spdmError_kept ..)
    | with_reducible apply Keeps.trans ?_ (State.spdmReply_kept ..)
    | with_reducible apply keeps_ite
    | with_reducible apply keepsOut_when)

theorem execGetCertificate_kept (t : Fin 3) (request : List Byte) (s : State) :
    KeepsOut s (execGetCertificate t request s) := by
  unfold execGetCertificate
  repeat' (first
    | with_reducible exact Keeps.refl _
    | with_reducible apply Keeps.trans ?_ (State.spdmError_kept ..)
    | with_reducible apply Keeps.trans ?_ (State.spdmReply_kept ..)
    | with_reducible apply keeps_ite
    | with_reducible apply keepsOut_when)

theorem execChallenge_kept (t : Fin 3) (request : List Byte) (s : State) : KeepsOut s (execChallenge t request s) := by
  unfold execChallenge
  repeat' (first
    | with_reducible exact Keeps.refl _
    | with_reducible apply Keeps.trans ?_ (State.spdmError_kept ..)
    | with_reducible apply Keeps.trans ?_ (State.spdmReply_kept ..)
    | with_reducible apply keeps_ite
    | fail_if_no_progress (with_reducible apply keeps_mk)
    | with_reducible apply keepsOut_when)

theorem execGetMeasurements_kept (t : Fin 3) (request : List Byte) (s : State) :
    KeepsOut s (execGetMeasurements t request s) := by
  unfold execGetMeasurements
  repeat' (first
    | with_reducible exact Keeps.refl _
    | with_reducible apply Keeps.trans ?_ (State.spdmError_kept ..)
    | with_reducible apply Keeps.trans ?_ (State.spdmReply_kept ..)
    | with_reducible apply keeps_ite
    | fail_if_no_progress (with_reducible apply keeps_mk)
    | with_reducible apply keepsOut_when)

end Sys2Proof.Machine
end

