-- ==== Sys2Proof/Laws/KeepSup.lean ====
section
/-!
SUPPORT. Each operation of the dictionary, faults, the host interface and the matrix engine
keeps the fuses, the command queue and the canonical form of the memories, but those of Laws/Rises.lean, which raise fuses.
-/
namespace Sys2Proof.Machine

open Sys2Proof

theorem State.touchMirror_kept (s : State) (index : Nat) (sub : Nat) : Keeps s (State.touchMirror s index sub) := by
  unfold State.touchMirror
  repeat' (first
    | with_reducible exact Keeps.refl _
    | with_reducible apply keeps_ite
    | fail_if_no_progress (with_reducible apply keeps_mk))

theorem State.commitEntry_kept (s : State) (k : Nat) : Keeps s (State.commitEntry s k) := ⟨rfl, rfl, fun w => w⟩

theorem State.commitAll_kept (s : State) : Keeps s (State.commitAll s) := ⟨rfl, rfl, fun w => w⟩

theorem execPersistCommit_kept (s : State) : KeepsOut s (execPersistCommit s) := by
  unfold execPersistCommit
  repeat' (first
    | with_reducible exact Keeps.refl _
    | with_reducible apply Keeps.trans ?_ (State.commitAll_kept ..)
    | fail_if_no_progress (with_reducible apply keeps_mk)
    | with_reducible apply keepsOut_when)

theorem State.blockEnter_kept (s : State) (b : Nat) (want : Nat) : Keeps s (State.blockEnter s b want) := by
  unfold State.blockEnter
  repeat' (first
    | with_reducible exact Keeps.refl _
    | with_reducible apply Keeps.trans ?_ (State.setBlock_kept ..)
    | with_reducible apply Keeps.trans ?_ (State.wakeTo_kept ..)
    | with_reducible apply keeps_ite
    | split)

theorem State.coreRequest_kept (s : State) (c : Nat) (v : Nat) : Keeps s (State.coreRequest s c v).1 := by
  unfold State.coreRequest
  repeat' (first
    | with_reducible exact Keeps.refl _
    | with_reducible apply Keeps.trans ?_ (State.blockEnter_kept ..)
    | with_reducible apply Keeps.trans ?_ (State.count_kept ..)
    | with_reducible apply Keeps.trans ?_ (State.pllFollow_kept ..)
    | with_reducible apply keeps_ite1)

theorem State.putEntry_kept (s : State) (e : Entry) (sub : Nat) (v : Nat) (commitOk : Bool) :
    Keeps s (State.putEntry s e sub v commitOk).1 := by
  unfold State.putEntry
  repeat' (first
    | with_reducible exact Keeps.refl _
    | with_reducible apply Keeps.trans ?_ (State.commitEntry_kept ..)
    | with_reducible apply Keeps.trans ?_ (State.coreRequest_kept ..)
    | with_reducible apply Keeps.trans ?_ (State.dictSet_kept ..)
    | with_reducible apply keeps_ite
    | with_reducible apply keeps_ite1)

theorem State.restoreDefaults_kept (s : State) : Keeps s (State.restoreDefaults s) := by
  unfold State.restoreDefaults
  repeat' (first
    | with_reducible exact Keeps.refl _
    | with_reducible apply Keeps.trans ?_ (State.count_kept ..)
    | with_reducible apply keeps_fold
    | fail_if_no_progress (with_reducible apply keeps_mk)
    | intro _)

theorem State.pribyReply_kept (s : State) (r : PribyReq) (reply : List Byte) : Keeps s (State.pribyReply s r reply) := ⟨rfl, rfl, fun w => w⟩

theorem State.pribyFinish_kept (s : State) (r : PribyReq) (p : Ran) : Keeps s (State.pribyFinish s r p) := by
  unfold State.pribyFinish
  repeat' (first
    | with_reducible exact Keeps.refl _
    | with_reducible apply Keeps.trans ?_ (State.doReset_kept ..)
    | with_reducible apply Keeps.trans ?_ (State.pribyReply_kept ..)
    | with_reducible apply Keeps.trans ?_ (State.setCore_kept ..)
    | fail_if_no_progress (with_reducible apply keeps_mk)
    | fail_if_no_progress extract_lets
    | split
    | dsimp +zetaDelta -zeta only)

theorem execDivergenceCheck_kept (s : State) : KeepsOut s (execDivergenceCheck s) := by
  unfold execDivergenceCheck
  repeat' (first
    | with_reducible exact Keeps.refl _
    | with_reducible apply Keeps.trans ?_ (State.count_kept ..)
    | with_reducible apply Keeps.trans ?_ (State.dictSet_kept ..)
    | with_reducible apply Keeps.trans ?_ (State.event_kept ..)
    | with_reducible apply keeps_fold
    | fail_if_no_progress (with_reducible apply keeps_mk)
    | with_reducible apply keepsOut_when
    | intro _)

theorem State.captureDump_kept (s : State) (d : Nat) (unit : Nat) (progress : Nat) :
    Keeps s (State.captureDump s d unit progress) := by
  unfold State.captureDump
  repeat' (first
    | with_reducible exact Keeps.refl _
    | with_reducible apply Keeps.trans ?_ (State.count_kept ..)
    | with_reducible apply Keeps.trans ?_ (State.event_kept ..)
    | with_reducible apply keeps_ite
    | fail_if_no_progress (with_reducible apply keeps_mk)
    | fail_if_no_progress extract_lets
    | split)

theorem State.hang_kept (s : State) (d : Nat) (unit : Nat) (progress : Nat) : Keeps s (State.hang s d unit progress) := by
  unfold State.hang
  repeat' (first
    | with_reducible exact Keeps.refl _
    | with_reducible apply Keeps.trans ?_ (State.captureDump_kept ..)
    | with_reducible apply Keeps.trans ?_ (State.count_kept ..)
    | with_reducible apply Keeps.trans ?_ (State.doReset_kept ..)
    | with_reducible apply Keeps.trans ?_ (State.event_kept ..)
    | with_reducible apply Keeps.trans ?_ (State.setCore_kept ..)
    | with_reducible apply keeps_ite
    | fail_if_no_progress (with_reducible apply keeps_mk))

theorem execHangDetected_kept (d : Fin 21) (unit : W16) (lastProgress : Nat) (s : State) :
    KeepsOut s (execHangDetected d unit lastProgress s) := by
  unfold execHangDetected
  repeat' (first
    | with_reducible exact Keeps.refl _
    | with_reducible apply Keeps.trans ?_ (State.hang_kept ..)
    | with_reducible apply keepsOut_when)

theorem execSupervisorMemoryError_kept (s : State) : KeepsOut s (execSupervisorMemoryError s) := by
  unfold execSupervisorMemoryError
  repeat' (first
    | with_reducible exact Keeps.refl _
    | with_reducible apply Keeps.trans ?_ (State.hang_kept ..)
    | with_reducible apply Keeps.trans ?_ (State.noteFault_kept ..)
    | with_reducible apply keepsOut_when)

theorem State.retest_kept (s : State) (t : Timeline) (z2 : Nat) : Keeps s (State.retest s t z2) := by
  fun_induction State.retest s t z2
  all_goals repeat' (first
    | with_reducible exact Keeps.refl _
    | with_reducible apply Keeps.trans ?_ (State.endCmd_kept ..)
    | with_reducible refine Keeps.after (by assumption) ?_)

theorem State.retireReplies_kept (s : State) (c : Nat) : Keeps s (State.retireReplies s c) := by
  unfold State.retireReplies
  repeat' (first
    | with_reducible exact Keeps.refl _
    | with_reducible apply Keeps.trans ?_ (State.pribyReply_kept ..)
    | with_reducible apply keeps_fold
    | fail_if_no_progress (with_reducible apply keeps_mk)
    | intro _)

theorem State.retireDone_kept (s : State) (c : Nat) (cause : Nat) : Keeps s (State.retireDone s c cause) := by
  unfold State.retireDone
  repeat' (first
    | with_reducible exact Keeps.refl _
    | with_reducible apply Keeps.trans ?_ (State.retireCore_kept ..)
    | with_reducible apply Keeps.trans ?_ (State.retireReplies_kept ..))

theorem State.absorbedDone_kept (s : State) (r : ResetRun) : Keeps s (State.absorbedDone s r) := by
  unfold State.absorbedDone
  repeat' (first
    | with_reducible exact Keeps.refl _
    | with_reducible apply Keeps.trans ?_ (State.setCore_kept ..)
    | with_reducible apply Keeps.trans ?_ (State.retireDone_kept ..)
    | with_reducible apply keeps_ite
    | with_reducible apply keeps_fold
    | intro _)

theorem State.coreDone_kept (s : State) (c : Nat) (r : ResetRun) : Keeps s (State.coreDone s c r) := by
  unfold State.coreDone
  repeat' (first
    | with_reducible exact Keeps.refl _
    | with_reducible apply Keeps.trans ?_ (State.retest_kept ..)
    | with_reducible apply Keeps.trans ?_ (State.retireDone_kept ..)
    | with_reducible apply Keeps.trans ?_ (State.setCore_kept ..)
    | with_reducible apply keeps_ite)

theorem State.corePlls_kept (s : State) : Keeps s (State.corePlls s) := by
  unfold State.corePlls
  repeat' (first
    | with_reducible exact Keeps.refl _
    | with_reducible apply Keeps.trans ?_ (State.pllUp_kept ..)
    | with_reducible apply keeps_ite
    | with_reducible apply keeps_fold
    | intro _)

theorem State.outOfService_kept (s : State) : Keeps s (State.outOfService s) := by
  unfold State.outOfService
  repeat' (first
    | with_reducible exact Keeps.refl _
    | with_reducible apply Keeps.trans ?_ (State.dictSet_kept ..)
    | with_reducible apply Keeps.trans ?_ (State.event_kept ..)
    | fail_if_no_progress (with_reducible apply keeps_mk))

theorem execResetEscalation_kept (t : ResetTarget) (s : State) : KeepsOut s (execResetEscalation t s) := by
  unfold execResetEscalation
  repeat' (first
    | with_reducible exact Keeps.refl _
    | with_reducible apply Keeps.trans ?_ (State.doReset_kept ..)
    | with_reducible apply keepsOut_when
    | with_reducible apply keepsOut_next
    | split)

theorem execFenceDrainExpiry_kept (d : Fin 17) (s : State) : KeepsOut s (execFenceDrainExpiry d s) := by
  unfold execFenceDrainExpiry
  repeat' (first
    | with_reducible exact Keeps.refl _
    | with_reducible apply Keeps.trans ?_ (State.count_kept ..)
    | with_reducible apply Keeps.trans ?_ (State.endCmd_kept ..)
    | with_reducible apply Keeps.trans ?_ (State.setCore_kept ..)
    | with_reducible apply keeps_ite
    | with_reducible apply keeps_fold
    | with_reducible apply keepsOut_when
    | with_reducible apply keepsOut_next
    | intro _
    | fail_if_no_progress extract_lets
    | split)

theorem State.decay_kept (s : State) (i : Nat) : Keeps s (State.decay s i) := ⟨rfl, rfl, fun w => w⟩

theorem State.healthUpdate_kept (s : State) : Keeps s (State.healthUpdate s) := by
  unfold State.healthUpdate
  repeat' (first
    | with_reducible exact Keeps.refl _
    | with_reducible apply Keeps.trans ?_ (State.decay_kept ..)
    | with_reducible apply Keeps.trans ?_ (State.dictSet_kept ..)
    | with_reducible apply Keeps.trans ?_ (State.event_kept ..)
    | with_reducible apply keeps_ite
    | with_reducible apply keeps_fold
    | fail_if_no_progress (with_reducible apply keeps_mk)
    | intro _)

theorem execHealthUpdate_kept (s : State) : KeepsOut s (execHealthUpdate s) := by
  unfold execHealthUpdate
  repeat' (first
    | with_reducible exact Keeps.refl _
    | with_reducible apply Keeps.trans ?_ (State.healthUpdate_kept ..)
    | with_reducible apply keepsOut_when)

theorem State.unpower_kept (s : State) (mv : Nat) : Keeps s (State.unpower s mv) := ⟨rfl, rfl, fun w => ⟨rfl, rfl, rfl, w.2.2.2.1, w.2.2.2.2⟩⟩

theorem execVinLost_kept (mv : W32) (s : State) : KeepsOut s (execVinLost mv s) := by
  unfold execVinLost
  repeat' (first
    | with_reducible exact Keeps.refl _
    | with_reducible apply Keeps.trans ?_ (State.healthMoved_kept ..)
    | with_reducible apply Keeps.trans ?_ (State.unpower_kept ..)
    | with_reducible apply keepsOut_when)

theorem State.hostReply_kept (s : State) (f : Nat) (status : Nat) (data : List Byte) :
    Keeps s (State.hostReply s f status data) := by
  unfold State.hostReply
  repeat' (first
    | with_reducible exact Keeps.refl _
    | with_reducible apply Keeps.trans ?_ (State.noteAer_kept ..)
    | with_reducible apply keeps_ite
    | fail_if_no_progress (with_reducible apply keeps_mk)
    | fail_if_no_progress extract_lets)

theorem State.cfgReply_kept (s : State) (f : Nat) (status : Nat) (data : W32) :
    Keeps s (State.cfgReply s f status data) := ⟨rfl, rfl, fun w => w⟩

theorem State.sendPending_kept (s : State) (f : Nat) : Keeps s (State.sendPending s f) := by
  unfold State.sendPending
  repeat' (first
    | with_reducible exact Keeps.refl _
    | with_reducible apply Keeps.trans ?_ (State.setFn_kept ..)
    | with_reducible apply keeps_ite
    | fail_if_no_progress (with_reducible apply keeps_mk))

theorem State.cfgWrite_kept (s : State) (k : Nat) (o : BitVec 12) (v : W32) :
    Keeps s (State.cfgWrite s k o v) := by
  unfold State.cfgWrite
  repeat' (first
    | with_reducible exact Keeps.refl _
    | with_reducible apply Keeps.trans ?_ (State.setFn_kept ..)
    | with_reducible apply keeps_ite
    | fail_if_no_progress (with_reducible apply keeps_mk)
    | fail_if_no_progress extract_lets)

theorem State.config_kept (s : State) (p : Nat) (f : Nat) (op : CfgOp) :
    Keeps s (State.config s p f op) := by
  unfold State.config
  repeat' (first
    | with_reducible exact Keeps.refl _
    | with_reducible apply Keeps.trans ?_ (State.cfgReply_kept ..)
    | with_reducible apply Keeps.trans ?_ (State.cfgWrite_kept ..)
    | with_reducible apply Keeps.trans ?_ (State.sendPending_kept ..)
    | with_reducible apply Keeps.trans ?_ (State.setFn_kept ..)
    | with_reducible apply Keeps.trans ?_ (State.setVfs_kept ..)
    | with_reducible apply keeps_ite
    | fail_if_no_progress (with_reducible apply keeps_mk)
    | fail_if_no_progress extract_lets
    | with_reducible refine keeps_fst (by assumption) ?_
    | split
    | dsimp +zetaDelta -zeta only)

theorem execConfigRequest_kept (p : PortNo) (f : FnNo) (op : CfgOp) (s : State) :
    KeepsOut s (execConfigRequest p f op s) := by
  unfold execConfigRequest
  repeat' (first
    | with_reducible exact Keeps.refl _
    | with_reducible apply Keeps.trans ?_ (State.config_kept ..)
    | with_reducible apply keepsOut_when)

theorem execD3hotEntry_kept (p : PortNo) (f : FnNo) (s : State) : KeepsOut s (execD3hotEntry p f s) := by
  unfold execD3hotEntry
  repeat' (first
    | with_reducible exact Keeps.refl _
    | with_reducible apply Keeps.trans ?_ (State.setFn_kept ..)
    | with_reducible apply keepsOut_when)

theorem State.deliverHeld_kept (s : State) (f : Nat) (z2 : HeldMsg) : Keeps s (State.deliverHeld s f z2) := by
  unfold State.deliverHeld
  repeat' (first
    | with_reducible exact Keeps.refl _
    | with_reducible apply Keeps.trans ?_ (State.interrupt_kept ..)
    | with_reducible apply Keeps.trans ?_ (State.ringWrite_kept ..)
    | with_reducible apply Keeps.trans ?_ (State.settleNow_kept ..)
    | split)

theorem execD0Return_kept (p : PortNo) (f : FnNo) (s : State) : KeepsOut s (execD0Return p f s) := by
  unfold execD0Return
  repeat' (first
    | with_reducible exact Keeps.refl _
    | with_reducible apply Keeps.trans ?_ (State.setFn_kept ..)
    | with_reducible apply Keeps.trans ?_ (State.sendPending_kept ..)
    | with_reducible apply Keeps.trans ?_ (State.deliverHeld_kept ..)
    | with_reducible apply keeps_fold
    | with_reducible apply keepsOut_when
    | intro _)

theorem execBar4Resize_kept (p : PortNo) (f : FnNo) (size : Fin 7) (s : State) :
    KeepsOut s (execBar4Resize p f size s) := by
  unfold execBar4Resize
  repeat' (first
    | with_reducible exact Keeps.refl _
    | with_reducible apply Keeps.trans ?_ (State.setFn_kept ..)
    | with_reducible apply keepsOut_when)

theorem State.bar4Unmapped_kept (s : State) (f : Nat) (off : Nat) : Keeps s (State.bar4Unmapped s f off) := by
  unfold State.bar4Unmapped
  repeat' (first
    | with_reducible exact Keeps.refl _
    | with_reducible apply Keeps.trans ?_ (State.event_kept ..)
    | with_reducible apply Keeps.trans ?_ (State.setFn_kept ..))

theorem State.blurTrackers_kept (s : State) (slot : Nat) (lo : Nat) (n : Nat) :
    Keeps s (State.blurTrackers s slot lo n) := by
  unfold State.blurTrackers
  repeat' (first
    | with_reducible exact Keeps.refl _
    | with_reducible apply Keeps.trans ?_ (State.vwrite_kept ..)
    | with_reducible apply keeps_ite
    | with_reducible apply keeps_fold
    | intro _
    | fail_if_no_progress (with_reducible apply keeps_mk)
    | fail_if_no_progress extract_lets)

theorem State.bar4Store_kept (s : State) (a : Bar4Access) :
    Keeps s (State.bar4Store s a) := by
  unfold State.bar4Store
  repeat' (first
    | with_reducible exact Keeps.refl _
    | with_reducible apply Keeps.trans ?_ (State.bar4Unmapped_kept ..)
    | with_reducible apply Keeps.trans ?_ (State.blurTrackers_kept ..)
    | with_reducible apply Keeps.trans ?_ (State.vwrite_kept ..)
    | with_reducible apply keeps_ite
    | fail_if_no_progress (with_reducible apply keeps_mk)
    | fail_if_no_progress extract_lets
    | with_reducible refine keeps_fst (by assumption) ?_
    | split
    | dsimp +zetaDelta -zeta only)

theorem State.bar4Load_kept (s : State) (a : Bar4Access) :
    Keeps s (State.bar4Load s a) := by
  unfold State.bar4Load
  repeat' (first
    | with_reducible exact Keeps.refl _
    | with_reducible apply Keeps.trans ?_ (State.bar4Unmapped_kept ..)
    | with_reducible apply Keeps.trans ?_ (State.hostReply_kept ..)
    | with_reducible apply Keeps.trans ?_ (State.reachSpans_kept ..)
    | with_reducible apply keeps_ite
    | fail_if_no_progress (with_reducible apply keeps_mk)
    | fail_if_no_progress extract_lets
    | with_reducible refine keeps_fst (by assumption) ?_
    | split
    | dsimp +zetaDelta -zeta only)

theorem State.bar4Arrive_kept (s : State) (p : Nat) (a : Bar4Access) : Keeps s (State.bar4Arrive s p a) := by
  unfold State.bar4Arrive
  repeat' (first
    | with_reducible exact Keeps.refl _
    | with_reducible apply Keeps.trans ?_ (State.setPort_kept ..)
    | with_reducible refine Keeps.trans ?_ (State.regServe_kept _ _ _ _ _ _ _ _ (by assumption))
    | with_reducible apply Keeps.trans ?_ (State.bar4Store_kept ..)
    | with_reducible apply Keeps.trans ?_ (State.bar4Load_kept ..)
    | with_reducible apply keeps_ite
    | fail_if_no_progress extract_lets
    | split)

theorem State.bar4Serve_kept (s : State) (p : Nat) (z2 : Nat) : Keeps s (State.bar4Serve s p z2) := by
  fun_induction State.bar4Serve s p z2
  · exact .refl _
  · exact .refl _
  · rename_i s fuel a t h s1 ih
    obtain ⟨b, -, e⟩ := List.exists_of_findSome?_eq_some h
    split at e
    · cases e
    obtain ⟨u, g, e⟩ := Option.map_eq_some_iff.mp e
    cases e
    have h1 : Keeps s s1 := (State.regServe_kept _ _ _ _ _ _ _ _ g).trans (State.setPort_kept ..)
    refine (h1.trans ?_).trans ih
    split
    · exact State.bar4Store_kept ..
    · exact State.bar4Load_kept ..

theorem State.bar4Retry_kept (s : State) (p : Nat) : Keeps s (State.bar4Retry s p) := by
  unfold State.bar4Retry
  repeat' (first
    | with_reducible exact Keeps.refl _
    | with_reducible apply Keeps.trans ?_ (State.bar4Serve_kept ..))

theorem execBar4Write_kept (p : PortNo) (f : FnNo) (offset : W64) (bytes : List Byte) (s : State) :
    KeepsOut s (execBar4Write p f offset bytes s) := by
  unfold execBar4Write
  repeat' (first
    | with_reducible exact Keeps.refl _
    | with_reducible apply Keeps.trans ?_ (State.bar4Arrive_kept ..)
    | with_reducible apply keeps_ite
    | with_reducible apply keepsOut_next
    | split)

theorem execBar4Read_kept (p : PortNo) (f : FnNo) (offset : W64) (len : Nat) (s : State) :
    KeepsOut s (execBar4Read p f offset len s) := by
  unfold execBar4Read
  repeat' (first
    | with_reducible exact Keeps.refl _
    | with_reducible apply Keeps.trans ?_ (State.hostReply_kept ..)
    | with_reducible apply Keeps.trans ?_ (State.bar4Arrive_kept ..)
    | with_reducible apply keeps_ite
    | with_reducible apply keepsOut_next
    | split)

theorem State.writeSqCtrl_kept (s : State) (f : Nat) (q : Nat) (v : Nat) : Keeps s (State.writeSqCtrl s f q v) := by
  unfold State.writeSqCtrl
  repeat' (first
    | with_reducible exact Keeps.refl _
    | with_reducible apply Keeps.trans ?_ (State.moderate_kept ..)
    | with_reducible apply Keeps.trans ?_ (State.queueFault_kept ..)
    | with_reducible apply Keeps.trans ?_ (State.setQueue_kept ..)
    | with_reducible apply keeps_ite)

theorem execSqEnable_kept (p : PortNo) (f : FnNo) (q : QueueNo) (ctrl : W32) (s : State) :
    KeepsOut s (execSqEnable p f q ctrl s) := by
  unfold execSqEnable
  repeat' (first
    | with_reducible exact Keeps.refl _
    | with_reducible apply Keeps.trans ?_ (State.writeSqCtrl_kept ..)
    | with_reducible apply keepsOut_when)

theorem execSqDisable_kept (p : PortNo) (f : FnNo) (q : QueueNo) (ctrl : W32) (s : State) :
    KeepsOut s (execSqDisable p f q ctrl s) := by
  unfold execSqDisable
  repeat' (first
    | with_reducible exact Keeps.refl _
    | with_reducible apply Keeps.trans ?_ (State.writeSqCtrl_kept ..)
    | with_reducible apply keepsOut_when)

theorem execSqIrqEnable_kept (p : PortNo) (f : FnNo) (q : QueueNo) (ctrl : W32) (s : State) :
    KeepsOut s (execSqIrqEnable p f q ctrl s) := by
  unfold execSqIrqEnable
  repeat' (first
    | with_reducible exact Keeps.refl _
    | with_reducible apply Keeps.trans ?_ (State.writeSqCtrl_kept ..)
    | with_reducible apply keepsOut_when)

theorem State.dropDoorbell_kept (s : State) (f : Nat) (q : Nat) : Keeps s (State.dropDoorbell s f q) := ⟨rfl, rfl, fun w => w⟩

theorem State.tailDoorbell_kept (s : State) (f : Nat) (q : Nat) (v : Nat) : Keeps s (State.tailDoorbell s f q v) := by
  unfold State.tailDoorbell
  repeat' (first
    | with_reducible exact Keeps.refl _
    | with_reducible apply Keeps.trans ?_ (State.dropDoorbell_kept ..)
    | with_reducible apply Keeps.trans ?_ (State.queueFault_kept ..)
    | with_reducible apply Keeps.trans ?_ (State.setQueue_kept ..)
    | with_reducible apply keeps_ite)

theorem State.headDoorbell_kept (s : State) (f : Nat) (q : Nat) (v : Nat) :
    Keeps s (State.headDoorbell s f q v) := by
  unfold State.headDoorbell
  repeat' (first
    | with_reducible exact Keeps.refl _
    | with_reducible apply Keeps.trans ?_ (State.dropDoorbell_kept ..)
    | with_reducible apply Keeps.trans ?_ (State.setQueue_kept ..)
    | with_reducible apply keeps_ite
    | fail_if_no_progress (with_reducible apply keeps_mk)
    | fail_if_no_progress extract_lets)

theorem State.bar2Write_kept (s : State) (f : Nat) (off : Nat) (size : Nat) (v : Nat) :
    Keeps s (State.bar2Write s f off size v) := by
  unfold State.bar2Write
  repeat' (first
    | with_reducible exact Keeps.refl _
    | with_reducible apply Keeps.trans ?_ (State.headDoorbell_kept ..)
    | with_reducible apply Keeps.trans ?_ (State.tailDoorbell_kept ..)
    | with_reducible apply keeps_ite)

theorem execSqTailDb_kept (p : PortNo) (f : FnNo) (q : QueueNo) (value : W32) (s : State) :
    KeepsOut s (execSqTailDb p f q value s) := by
  unfold execSqTailDb
  repeat' (first
    | with_reducible exact Keeps.refl _
    | with_reducible apply keepsOut_when
    | with_reducible apply keepsOut_next
    | with_reducible apply keepsOut_ite
    | with_reducible apply Keeps.trans ?_ (State.bar2Write_kept ..)
    | with_reducible apply keeps_ite)

theorem execCqHeadDb_kept (p : PortNo) (f : FnNo) (q : QueueNo) (value : W32) (s : State) :
    KeepsOut s (execCqHeadDb p f q value s) := by
  unfold execCqHeadDb
  repeat' (first
    | with_reducible exact Keeps.refl _
    | with_reducible apply keepsOut_when
    | with_reducible apply keepsOut_next
    | with_reducible apply keepsOut_ite
    | with_reducible apply Keeps.trans ?_ (State.bar2Write_kept ..)
    | with_reducible apply keeps_ite)

theorem execCqIrqDelay_kept (p : PortNo) (f : FnNo) (q : QueueNo) (s : State) : KeepsOut s (execCqIrqDelay p f q s) := by
  unfold execCqIrqDelay
  repeat' (first
    | with_reducible exact Keeps.refl _
    | with_reducible apply Keeps.trans ?_ (State.queueIrq_kept ..)
    | with_reducible apply keepsOut_when)

theorem execRecordFetch_kept (p : PortNo) (f : FnNo) (q : QueueNo) (record : Option Rec) (s : State) :
    KeepsOut s (execRecordFetch p f q record s) := by
  unfold execRecordFetch
  repeat' (first
    | with_reducible exact Keeps.refl _
    | with_reducible apply Keeps.trans ?_ (State.queueFault_kept ..)
    | with_reducible apply Keeps.trans ?_ (State.setQueue_kept ..)
    | with_reducible apply keeps_ite
    | fail_if_no_progress (with_reducible apply keeps_mk)
    | with_reducible apply keepsOut_next
    | fail_if_no_progress extract_lets
    | split)

theorem State.writeRingCtrl_kept (s : State) (f : Nat) (v : Nat) : Keeps s (State.writeRingCtrl s f v) := ⟨rfl, rfl, fun w => w⟩

theorem execEventEnable_kept (p : PortNo) (f : FnNo) (ctrl : W32) (s : State) :
    KeepsOut s (execEventEnable p f ctrl s) := by
  unfold execEventEnable
  repeat' (first
    | with_reducible exact Keeps.refl _
    | with_reducible apply Keeps.trans ?_ (State.writeRingCtrl_kept ..)
    | with_reducible apply keepsOut_when)

theorem execEventDisable_kept (p : PortNo) (f : FnNo) (ctrl : W32) (s : State) :
    KeepsOut s (execEventDisable p f ctrl s) := by
  unfold execEventDisable
  repeat' (first
    | with_reducible exact Keeps.refl _
    | with_reducible apply Keeps.trans ?_ (State.writeRingCtrl_kept ..)
    | with_reducible apply keepsOut_when)

theorem State.writeRingHead_kept (s : State) (f : Nat) (v : Nat) : Keeps s (State.writeRingHead s f v) := by
  unfold State.writeRingHead
  repeat' (first
    | with_reducible exact Keeps.refl _
    | with_reducible apply Keeps.trans ?_ (State.setFn_kept ..)
    | with_reducible apply keeps_ite)

theorem execRingHead_kept (p : PortNo) (f : FnNo) (value : W32) (s : State) : KeepsOut s (execRingHead p f value s) := by
  unfold execRingHead
  repeat' (first
    | with_reducible exact Keeps.refl _
    | with_reducible apply Keeps.trans ?_ (State.writeRingHead_kept ..)
    | with_reducible apply keepsOut_when)

theorem State.writeBar4Va_kept (s : State) (f : Nat) (v : Nat) : Keeps s (State.writeBar4Va s f v) := ⟨rfl, rfl, fun w => w⟩

theorem execBar4Va_kept (p : PortNo) (f : FnNo) (value : W64) (s : State) : KeepsOut s (execBar4Va p f value s) := by
  unfold execBar4Va
  repeat' (first
    | with_reducible exact Keeps.refl _
    | with_reducible apply Keeps.trans ?_ (State.writeBar4Va_kept ..)
    | with_reducible apply keepsOut_when)

theorem execTwinAliasWrite_kept (p : PortNo) (f : FnNo) (value : W32) (s : State) :
    KeepsOut s (execTwinAliasWrite p f value s) := by
  unfold execTwinAliasWrite
  repeat' (first
    | with_reducible exact Keeps.refl _
    | with_reducible apply Keeps.trans ?_ (State.setPart_kept ..)
    | with_reducible apply keeps_ite
    | with_reducible apply keepsOut_next
    | split)

theorem State.mboxGo_kept (s : State) (f : Nat) (c : Nat) : Keeps s (State.mboxGo s f c) := by
  unfold State.mboxGo
  repeat' (first
    | with_reducible exact Keeps.refl _
    | with_reducible apply Keeps.trans ?_ (State.mboxDone_kept ..)
    | with_reducible apply Keeps.trans ?_ (State.setChan_kept ..)
    | with_reducible apply keeps_ite)

theorem State.mboxAbort_kept (s : State) (f : Nat) (c : Nat) : Keeps s (State.mboxAbort s f c) := by
  unfold State.mboxAbort
  repeat' (first
    | with_reducible exact Keeps.refl _
    | with_reducible apply Keeps.trans ?_ (State.mboxDone_kept ..)
    | with_reducible apply keeps_ite)

theorem State.writeTxCtrl_kept (s : State) (f : Nat) (c : Nat) (v : Nat) : Keeps s (State.writeTxCtrl s f c v) := by
  unfold State.writeTxCtrl
  repeat' (first
    | with_reducible exact Keeps.refl _
    | with_reducible apply Keeps.trans ?_ (State.mboxAbort_kept ..)
    | with_reducible apply Keeps.trans ?_ (State.mboxGo_kept ..)
    | with_reducible apply Keeps.trans ?_ (State.setChan_kept ..)
    | with_reducible apply keeps_ite)

theorem execGo_kept (p : PortNo) (f : FnNo) (ch : ChanNo) (ctrl : W32) (s : State) : KeepsOut s (execGo p f ch ctrl s) := by
  unfold execGo
  repeat' (first
    | with_reducible exact Keeps.refl _
    | with_reducible apply Keeps.trans ?_ (State.writeTxCtrl_kept ..)
    | with_reducible apply keepsOut_when)

theorem execAbort_kept (p : PortNo) (f : FnNo) (ch : ChanNo) (s : State) : KeepsOut s (execAbort p f ch s) := by
  unfold execAbort
  repeat' (first
    | with_reducible exact Keeps.refl _
    | with_reducible apply Keeps.trans ?_ (State.mboxAbort_kept ..)
    | with_reducible apply keepsOut_when)

theorem State.mboxArrive_kept (s : State) (g : Nat) (c : Nat) (f : Nat) (d : Nat) :
    Keeps s (State.mboxArrive s g c f d) := by
  unfold State.mboxArrive
  repeat' (first
    | with_reducible exact Keeps.refl _
    | with_reducible apply Keeps.trans ?_ (State.interrupt_kept ..)
    | with_reducible apply Keeps.trans ?_ (State.raiseToken_kept ..)
    | with_reducible apply Keeps.trans ?_ (State.setChan_kept ..)
    | with_reducible apply keeps_ite
    | fail_if_no_progress extract_lets
    | split)

theorem execMboxDeliver_kept (p : PortNo) (f : FnNo) (ch : ChanNo) (s : State) : KeepsOut s (execMboxDeliver p f ch s) := by
  unfold execMboxDeliver
  repeat' (first
    | with_reducible exact Keeps.refl _
    | with_reducible apply Keeps.trans ?_ (State.mboxArrive_kept ..)
    | with_reducible apply keeps_ite
    | with_reducible apply keepsOut_next
    | split)

theorem State.writeRxAck_kept (s : State) (f : Nat) (c : Nat) (v : Nat) : Keeps s (State.writeRxAck s f c v) := by
  unfold State.writeRxAck
  repeat' (first
    | with_reducible exact Keeps.refl _
    | with_reducible apply Keeps.trans ?_ (State.mboxDone_kept ..)
    | with_reducible apply Keeps.trans ?_ (State.setChan_kept ..)
    | with_reducible apply keeps_ite
    | fail_if_no_progress extract_lets
    | split)

theorem execRxAck_kept (p : PortNo) (f : FnNo) (ch : ChanNo) (value : W32) (s : State) :
    KeepsOut s (execRxAck p f ch value s) := by
  unfold execRxAck
  repeat' (first
    | with_reducible exact Keeps.refl _
    | with_reducible apply Keeps.trans ?_ (State.writeRxAck_kept ..)
    | with_reducible apply keepsOut_when)

theorem State.write64_kept (s : State) (f : Nat) (off : Nat) (v : Nat) : Keeps s (State.write64 s f off v) := by
  unfold State.write64
  repeat' (first
    | with_reducible exact Keeps.refl _
    | with_reducible apply Keeps.trans ?_ (State.setFn_kept ..)
    | with_reducible apply Keeps.trans ?_ (State.setPart_kept ..)
    | with_reducible apply Keeps.trans ?_ (State.setQueue_kept ..)
    | with_reducible apply Keeps.trans ?_ (State.writeBar4Va_kept ..)
    | with_reducible apply keeps_ite
    | split)

theorem State.writeMsix_kept (s : State) (f : Nat) (off : Nat) (v : Nat) : Keeps s (State.writeMsix s f off v) := by
  unfold State.writeMsix
  repeat' (first
    | with_reducible exact Keeps.refl _
    | with_reducible apply Keeps.trans ?_ (State.sendPending_kept ..)
    | with_reducible apply Keeps.trans ?_ (State.setFn_kept ..))

theorem State.write32_kept (s : State) (f : Nat) (off : Nat) (v : Nat) : Keeps s (State.write32 s f off v) := by
  unfold State.write32
  repeat' (first
    | with_reducible exact Keeps.refl _
    | with_reducible apply Keeps.trans ?_ (State.moderate_kept ..)
    | with_reducible apply Keeps.trans ?_ (State.setChan_kept ..)
    | with_reducible apply Keeps.trans ?_ (State.setFn_kept ..)
    | with_reducible apply Keeps.trans ?_ (State.setPart_kept ..)
    | with_reducible apply Keeps.trans ?_ (State.setQueue_kept ..)
    | with_reducible apply Keeps.trans ?_ (State.writeMsix_kept ..)
    | with_reducible apply Keeps.trans ?_ (State.writeRingCtrl_kept ..)
    | with_reducible apply Keeps.trans ?_ (State.writeRingHead_kept ..)
    | with_reducible apply Keeps.trans ?_ (State.writeRxAck_kept ..)
    | with_reducible apply Keeps.trans ?_ (State.writeSqCtrl_kept ..)
    | with_reducible apply Keeps.trans ?_ (State.writeTxCtrl_kept ..)
    | with_reducible apply keeps_ite
    | split)

theorem State.writeWord_kept (s : State) (f : Nat) (off : Nat) (v : Nat) : Keeps s (State.writeWord s f off v) := by
  unfold State.writeWord
  repeat' (first
    | with_reducible exact Keeps.refl _
    | with_reducible apply Keeps.trans ?_ (State.setFn_kept ..)
    | with_reducible apply Keeps.trans ?_ (State.write32_kept ..)
    | with_reducible apply Keeps.trans ?_ (State.write64_kept ..)
    | with_reducible apply keeps_ite
    | fail_if_no_progress extract_lets
    | split)

theorem State.regWrite_kept (s : State) (f : Nat) (off : Nat) (size : Nat) (v : Nat) :
    Keeps s (State.regWrite s f off size v) := by
  unfold State.regWrite
  repeat' (first
    | with_reducible exact Keeps.refl _
    | with_reducible apply Keeps.trans ?_ (State.write64_kept ..)
    | with_reducible apply Keeps.trans ?_ (State.write32_kept ..)
    | with_reducible apply Keeps.trans ?_ (State.writeWord_kept ..)
    | with_reducible apply keeps_ite)

theorem execRegisterWrite_kept (p : PortNo) (f : FnNo) (offset : BitVec 23) (size : Nat) (value : W64) (s : State) :
    KeepsOut s (execRegisterWrite p f offset size value s) := by
  unfold execRegisterWrite
  repeat' (first
    | with_reducible exact Keeps.refl _
    | with_reducible apply Keeps.trans ?_ (State.regWrite_kept ..)
    | with_reducible apply keepsOut_when)

theorem State.readWord_kept (s : State) (f : Nat) (off : Nat) : Keeps s (State.readWord s f off).1 := by
  unfold State.readWord
  repeat' (first
    | with_reducible exact Keeps.refl _
    | with_reducible apply Keeps.trans ?_ (State.setFn_kept ..)
    | with_reducible apply keeps_ite1
    | fail_if_no_progress extract_lets
    | split)

theorem State.regRead_kept (s : State) (f : Nat) (off : Nat) (size : Nat) : Keeps s (State.regRead s f off size) := by
  unfold State.regRead
  repeat' (first
    | with_reducible exact Keeps.refl _
    | with_reducible apply Keeps.trans ?_ (State.hostReply_kept ..)
    | with_reducible apply Keeps.trans ?_ (State.readWord_kept ..)
    | with_reducible apply keeps_ite)

theorem execRegisterReadLatch_kept (p : PortNo) (f : FnNo) (offset : BitVec 23) (size : Nat) (s : State) :
    KeepsOut s (execRegisterReadLatch p f offset size s) := by
  unfold execRegisterReadLatch
  repeat' (first
    | with_reducible exact Keeps.refl _
    | with_reducible apply Keeps.trans ?_ (State.hostReply_kept ..)
    | with_reducible apply Keeps.trans ?_ (State.regRead_kept ..)
    | with_reducible apply keeps_ite
    | with_reducible apply keepsOut_next)

theorem execHostLinkTrained_kept (p : PortNo) (s : State) : KeepsOut s (execHostLinkTrained p s) := by
  unfold execHostLinkTrained
  repeat' (first
    | with_reducible exact Keeps.refl _
    | with_reducible apply Keeps.trans ?_ (State.setPort_kept ..)
    | with_reducible apply keepsOut_when)

theorem State.loadRows_kept (s : State) (id : Nat) (slot : Nat) (c : Nat) (p : Pass) (z5 : List Nat) (z6 : Plane) :
    Keeps s (State.loadRows s id slot c p z5 z6).1 := by
  fun_induction State.loadRows s id slot c p z5 z6
  all_goals repeat' (first
    | with_reducible exact Keeps.refl _
    | with_reducible apply Keeps.trans ?_ (State.cmdScratch_kept ..)
    | with_reducible refine keeps_fst (by assumption) ?_
    | with_reducible refine Keeps.after (by assumption) ?_)

theorem State.loadScales_kept (s : State) (id : Nat) (slot : Nat) (c : Nat) (p : Pass) (step : Nat) (z6 : List Nat) (z7 : Plane) :
    Keeps s (State.loadScales s id slot c p step z6 z7).1 := by
  fun_induction State.loadScales s id slot c p step z6 z7
  all_goals repeat' (first
    | with_reducible exact Keeps.refl _
    | with_reducible apply Keeps.trans ?_ (State.cmdScratch_kept ..)
    | with_reducible refine keeps_fst (by assumption) ?_
    | with_reducible refine Keeps.after (by assumption) ?_)

theorem State.loadPlane_kept (s : State) (id : Nat) (slot : Nat) (c : Nat) (mode : Nat) (p : Pass) :
    Keeps s (State.loadPlane s id slot c mode p).1 := by
  unfold State.loadPlane
  repeat' (first
    | with_reducible exact Keeps.refl _
    | with_reducible apply Keeps.trans ?_ (State.loadRows_kept ..)
    | with_reducible apply Keeps.trans ?_ (State.loadScales_kept ..)
    | with_reducible apply keeps_ite1
    | with_reducible refine keeps_fst (by assumption) ?_
    | split)

theorem State.movingRow_kept (s : State) (id : Nat) (slot : Nat) (c : Nat) (p : Pass) (m : Nat) :
    Keeps s (State.movingRow s id slot c p m).1 := by
  unfold State.movingRow
  repeat' (first
    | with_reducible exact Keeps.refl _
    | with_reducible apply Keeps.trans ?_ (State.cmdScratch_kept ..)
    | with_reducible apply keeps_ite1
    | fail_if_no_progress extract_lets
    | with_reducible refine keeps_fst (by assumption) ?_
    | dsimp -zeta only
    | split)

theorem State.movingBands_kept (s : State) (id : Nat) (slot : Nat) (c : Nat) (p : Pass) (z5 : List Nat) (z6 : MovRow) :
    Keeps s (State.movingBands s id slot c p z5 z6).1 := by
  fun_induction State.movingBands s id slot c p z5 z6
  all_goals repeat' (first
    | with_reducible exact Keeps.refl _
    | with_reducible apply Keeps.trans ?_ (State.movingRow_kept ..)
    | with_reducible refine keeps_fst (by assumption) ?_
    | with_reducible refine Keeps.after (by assumption) ?_)

theorem PassRun.output_kept (o : PassRun) (id : Nat) (slot : Nat) (c : Nat) (p : Pass) (j : Nat) (l : List (Elem × Flags)) :
    Keeps o.st (PassRun.output o id slot c p j l).st := by
  unfold PassRun.output
  repeat' (first
    | with_reducible exact Keeps.refl _
    | with_reducible apply Keeps.trans ?_ (AccOut.run_kept ..)
    | with_reducible apply Keeps.trans ?_ (State.cmdScratchWrite_kept ..)
    | with_reducible apply Keeps.trans ?_ (State.count_kept ..)
    | with_reducible apply Keeps.trans ?_ (State.endCmd_kept ..)
    | with_reducible apply Keeps.trans ?_ (State.notePoison_kept ..)
    | fail_if_no_progress extract_lets
    | dsimp -zeta only
    | split
    | dsimp +zetaDelta -zeta only)

theorem PassRun.enter_kept (o : PassRun) (id slot c : Nat) (p : Pass) (rows : List Nat) : Keeps o.st (o.enter id slot c p rows).st := by
  unfold PassRun.enter
  split
  · exact .refl _
  · exact State.movingBands_kept ..

theorem PassRun.row_kept (o : PassRun) (id : Nat) (slot : Nat) (c : Nat) (q : Nat) (p : Pass) (lost : Nat → List Nat) (j : Nat) :
    Keeps o.st (PassRun.row o id slot c q p lost j).st := by
  unfold PassRun.row
  repeat' (first
    | with_reducible exact Keeps.refl _
    | with_reducible apply Keeps.trans ?_ (State.count_kept ..)
    | with_reducible apply Keeps.trans ?_ (State.movingBands_kept ..)
    | with_reducible apply Keeps.trans ?_ (PassRun.output_kept ..)
    | with_reducible apply keeps_ite
    | fail_if_no_progress extract_lets
    | with_reducible refine keeps_fst (by assumption) ?_
    | split
    | dsimp +zetaDelta -zeta only)

theorem State.noteLate_kept (s : State) (c : Nat) (q : Nat) (r : TileRun) : Keeps s (State.noteLate s c q r) := by
  unfold State.noteLate
  repeat' (first
    | with_reducible exact Keeps.refl _
    | with_reducible apply Keeps.trans ?_ (State.count_kept ..)
    | with_reducible apply Keeps.trans ?_ (State.putTile_kept ..)
    | with_reducible apply keeps_ite)

theorem State.columnError_kept (s : State) (c : Nat) (g : Nat) : Keeps s (State.columnError s c g) := by
  unfold State.columnError
  repeat' (first
    | with_reducible exact Keeps.refl _
    | with_reducible apply Keeps.trans ?_ (State.count_kept ..)
    | with_reducible apply Keeps.trans ?_ (State.dictSet_kept ..)
    | with_reducible apply Keeps.trans ?_ (State.event_kept ..)
    | with_reducible apply Keeps.trans ?_ (State.noteFault_kept ..)
    | with_reducible apply Keeps.trans ?_ (State.setCore_kept ..)
    | with_reducible apply keeps_ite)

theorem State.countPass_kept (s : State) (c : Nat) (mode : Nat) (q : Nat) (p : Pass) :
    Keeps s (State.countPass s c mode q p) := by
  unfold State.countPass
  repeat' (first
    | with_reducible exact Keeps.refl _
    | with_reducible apply Keeps.trans ?_ (State.count_kept ..)
    | with_reducible apply Keeps.trans ?_ (State.noteProgress_kept ..))

theorem State.runPass_kept (s : State) (d : Cmd) (c : Nat) (q : Nat) (ix : Nat) (r : TileRun) (p : Pass) (mismatch : Option ColumnFault) :
    Keeps s (State.runPass s d c q ix r p mismatch) := by
  unfold State.runPass
  extract_lets a loaded
  have hl : Keeps s loaded.1 := by
    dsimp -zeta only [loaded]
    split
    · split
      · rename_i e; exact keeps_fst e (State.loadPlane_kept ..)
      · rename_i e; exact keeps_fst e (State.loadPlane_kept ..)
    · exact .refl _
  clear_value loaded
  obtain ⟨s1, oa⟩ := loaded
  have h1 : Keeps s s1 := hl
  cases oa with
  | none => exact h1
  | some a1 =>
  dsimp -zeta only
  extract_lets lost o src run s2 s3
  have ho : ∀ (l : List Nat) (x : PassRun), Keeps s x.st → Keeps s (l.foldl (fun (o : PassRun) j =>
      (o.enter d.id d.slot c p (p.gapRows j)).row d.id d.slot c q p lost j) x).st := by
    intro l
    induction l with
    | nil => exact fun _ h => h
    | cons j l ih => exact fun x h => ih _ ((h.trans (PassRun.enter_kept ..)).trans (PassRun.row_kept ..))
  have h2 : Keeps s s2 := (((ho _ _ h1).trans (PassRun.enter_kept ..)).trans (State.pumpTile_kept ..)).trans (State.countPass_kept ..)
  have h3 : Keeps s s3 := by
    dsimp -zeta only [s3]
    split
    · exact h2.trans (State.consumeRows_kept ..)
    · exact h2
  split
  · split
    · exact h3.trans (State.tileFinish_kept ..)
    · exact (h3.trans (State.columnError_kept ..)).trans (State.endCmd_kept ..)
  · exact h3.trans (State.tileFinish_kept ..)

theorem execPassStart_kept (c : CoreNo) (sub : Fin 16) (read : PassReads) (s : State) :
    KeepsOut s (execPassStart c sub read s) := by
  unfold execPassStart
  repeat' (first
    | with_reducible exact Keeps.refl _
    | with_reducible apply Keeps.trans ?_ (State.scratchErrs_kept ..)
    | with_reducible apply Keeps.trans ?_ (State.noteLate_kept ..)
    | with_reducible apply Keeps.trans ?_ (State.runPass_kept ..)
    | with_reducible apply keepsOut_next
    | with_reducible apply keepsOut_ite
    | split)

end Sys2Proof.Machine
end

