-- ==== Sys2Proof/Laws/KeepRow.lean ====
section
/-!
SUPPORT. Each operation of memory rows, the vector engine and the tick
keeps the fuses, the command queue and the canonical form of the memories, but those of Laws/Rises.lean, which raise fuses.
-/
namespace Sys2Proof.Machine

open Sys2Proof

theorem State.pickIssue_kept (s : State) (z1 : List (Nat × MemReq)) :
    ∀ r0, (State.pickIssue s z1) = some r0 → Keeps s r0.2.2 := by
  fun_induction State.pickIssue s z1 with
  | case1 => intro r0 h; cases h
  | case2 i r l t ht => intro r0 h; cases h; exact State.regServe_kept _ _ _ _ _ _ _ _ ht
  | case3 i r l ht ih => exact ih

theorem State.noteHot_kept (s : State) (c : Nat) : Keeps s (State.noteHot s c) := by
  unfold State.noteHot
  repeat' (first
    | with_reducible exact Keeps.refl _
    | with_reducible apply Keeps.trans ?_ (State.dictSet_kept ..)
    | with_reducible apply Keeps.trans ?_ (State.setCore_kept ..)
    | with_reducible apply keeps_ite
    | fail_if_no_progress extract_lets
    | split)

theorem State.issueAt_kept (s0 : State) (c : Nat) (i : Nat) (r0 : MemReq) :
    Keeps s0 (State.issueAt s0 c i r0) := by
  unfold State.issueAt
  repeat' (first
    | with_reducible exact Keeps.refl _
    | with_reducible apply Keeps.trans ?_ (State.dictSet_kept ..)
    | with_reducible apply Keeps.trans ?_ (State.reachLine_kept ..)
    | with_reducible apply Keeps.trans ?_ (State.setCore_kept ..)
    | with_reducible apply keeps_ite
    | with_reducible apply keeps_fold
    | intro _
    | fail_if_no_progress (with_reducible apply keeps_mk)
    | fail_if_no_progress extract_lets)

theorem execRequestIssue_kept (c : CoreNo) (s : State) : KeepsOut s (execRequestIssue c s) := by
  unfold execRequestIssue
  repeat' (first
    | with_reducible exact Keeps.refl _
    | with_reducible refine Keeps.trans ?_ (State.pickIssue_kept _ _ _ (by assumption))
    | with_reducible apply Keeps.trans ?_ (State.noteHot_kept ..)
    | with_reducible apply Keeps.trans ?_ (State.issueAt_kept ..)
    | with_reducible apply keepsOut_next
    | fail_if_no_progress extract_lets
    | split)

theorem State.retireFrame_kept (s : State) (line : Nat) : Keeps s (State.retireFrame s line) := by
  unfold State.retireFrame
  repeat' (first
    | with_reducible exact Keeps.refl _
    | with_reducible apply Keeps.trans ?_ (State.event_kept ..)
    | with_reducible apply Keeps.trans ?_ (State.setFrame_kept ..)
    | with_reducible apply keeps_ite
    | fail_if_no_progress (with_reducible apply keeps_mk))

theorem State.lineCorrected_kept (s : State) (line : Nat) : Keeps s (State.lineCorrected s line) := by
  unfold State.lineCorrected
  repeat' (first
    | with_reducible exact Keeps.refl _
    | with_reducible apply Keeps.trans ?_ (State.count_kept ..)
    | with_reducible apply Keeps.trans ?_ (State.retireFrame_kept ..)
    | with_reducible apply Keeps.trans ?_ (State.setFrame_kept ..)
    | with_reducible apply keeps_ite)

theorem State.linePoison_kept (s : State) (cxl : Bool) (line : Nat) : Keeps s (State.linePoison s cxl line) := by
  unfold State.linePoison
  repeat' (first
    | with_reducible exact Keeps.refl _
    | with_reducible apply Keeps.trans ?_ (State.count_kept ..)
    | with_reducible apply Keeps.trans ?_ (State.event_kept ..)
    | with_reducible apply Keeps.trans ?_ (State.retireFrame_kept ..)
    | with_reducible apply Keeps.trans ?_ (State.setLinePoison_kept ..)
    | with_reducible apply keeps_ite)

theorem State.lineEcc_kept (s : State) (cxl : Bool) (line : Nat) (ecc : Ecc) : Keeps s (State.lineEcc s cxl line ecc) := by
  unfold State.lineEcc
  repeat' (first
    | with_reducible exact Keeps.refl _
    | with_reducible apply Keeps.trans ?_ (State.lineCorrected_kept ..)
    | with_reducible apply Keeps.trans ?_ (State.linePoison_kept ..)
    | with_reducible apply keeps_ite
    | split)

theorem State.latePoison_kept (s : State) (id : Nat) (addr : Nat) : Keeps s (State.latePoison s id addr) := by
  unfold State.latePoison
  repeat' (first
    | with_reducible exact Keeps.refl _
    | with_reducible apply Keeps.trans ?_ (State.setCmd_kept ..)
    | with_reducible apply keeps_ite
    | split)

theorem State.poisonScratch_kept (s : State) (c : Nat) (x : Nat) (n : Nat) : Keeps s (State.poisonScratch s c x n) := by
  unfold State.poisonScratch
  repeat' (first
    | with_reducible exact Keeps.refl _
    | with_reducible apply Keeps.trans ?_ (State.setWordPoison_kept ..)
    | with_reducible apply keeps_fold
    | intro _)

theorem State.poisonGather_kept (s : State) (c : Nat) (id : Nat) (pos : Nat) (off : Nat) (n : Nat) :
    Keeps s (State.poisonGather s c id pos off n) := by
  unfold State.poisonGather
  repeat' (first
    | with_reducible exact Keeps.refl _
    | with_reducible apply Keeps.trans ?_ (State.setCore_kept ..)
    | with_reducible apply Keeps.trans ?_ (State.poisonScratch_kept ..)
    | with_reducible apply keeps_ite)

theorem State.poisonDest_kept (s : State) (c : Nat) (r : MemReq) (d : MemDest) : Keeps s (State.poisonDest s c r d) := by
  unfold State.poisonDest
  repeat' (first
    | with_reducible exact Keeps.refl _
    | with_reducible apply Keeps.trans ?_ (State.setLinePoison_kept ..)
    | with_reducible apply Keeps.trans ?_ (State.latePoison_kept ..)
    | with_reducible apply Keeps.trans ?_ (State.poisonScratch_kept ..)
    | with_reducible apply Keeps.trans ?_ (State.poisonGather_kept ..)
    | with_reducible apply keeps_ite
    | with_reducible apply keeps_fold
    | fail_if_no_progress (with_reducible apply keeps_mk)
    | intro _
    | split)

theorem State.replyTo_kept (s : State) (c : Nat) (r : MemReq) (ecc : Ecc) : Keeps s (State.replyTo s c r ecc) := by
  unfold State.replyTo
  repeat' (first
    | with_reducible exact Keeps.refl _
    | with_reducible apply Keeps.trans ?_ (State.lineEcc_kept ..)
    | with_reducible apply Keeps.trans ?_ (State.latePoison_kept ..)
    | with_reducible apply Keeps.trans ?_ (State.poisonDest_kept ..)
    | with_reducible apply keeps_ite
    | with_reducible apply keeps_fold
    | intro _)

theorem State.bankServed_kept (s : State) (r : MemReq) : Keeps s (State.bankServed s r) := by
  unfold State.bankServed
  repeat' (first
    | with_reducible exact Keeps.refl _
    | with_reducible apply keeps_ite
    | fail_if_no_progress (with_reducible apply keeps_mk))

theorem execMemoryReply_kept (c : CoreNo) (index : Nat) (ecc : Ecc) (s : State) :
    KeepsOut s (execMemoryReply c index ecc s) := by
  unfold execMemoryReply
  repeat' (first
    | with_reducible exact Keeps.refl _
    | with_reducible apply Keeps.trans ?_ (State.setCore_kept ..)
    | with_reducible apply Keeps.trans ?_ (State.count_kept ..)
    | with_reducible apply Keeps.trans ?_ (State.noteProgress_kept ..)
    | with_reducible apply Keeps.trans ?_ (State.replyTo_kept ..)
    | with_reducible apply Keeps.trans ?_ (State.bankServed_kept ..)
    | with_reducible apply keepsOut_when
    | with_reducible apply keepsOut_next
    | with_reducible apply keepsOut_ite
    | fail_if_no_progress extract_lets
    | split)

theorem execPatrolScrub_kept (line : BitVec 31) (ecc : Ecc) (s : State) : KeepsOut s (execPatrolScrub line ecc s) := by
  unfold execPatrolScrub
  repeat' (first
    | with_reducible exact Keeps.refl _
    | with_reducible apply Keeps.trans ?_ (State.lineEcc_kept ..)
    | with_reducible apply keepsOut_when)

theorem State.copyRetired_kept (s : State) (f : Nat) (n : Nat) : Keeps s (State.copyRetired s f n) := by
  unfold State.copyRetired
  repeat' (first
    | with_reducible exact Keeps.refl _
    | with_reducible apply Keeps.trans ?_ (State.setPart_kept ..)
    | with_reducible apply Keeps.trans ?_ (State.setFrame_kept ..)
    | with_reducible apply Keeps.trans ?_ (State.copyTier_kept ..)
    | fail_if_no_progress (with_reducible apply keeps_mk)
    | fail_if_no_progress extract_lets
    | split)

theorem execFrameRetireCopy_kept (frame : Nat) (s : State) : KeepsOut s (execFrameRetireCopy frame s) := by
  unfold execFrameRetireCopy
  repeat' (first
    | with_reducible exact Keeps.refl _
    | with_reducible apply Keeps.trans ?_ (State.copyRetired_kept ..)
    | with_reducible apply keepsOut_when
    | with_reducible apply keepsOut_next
    | split)

theorem execMemoryZeroDone_kept (cxl : Bool) (frame : Nat) (s : State) : KeepsOut s (execMemoryZeroDone cxl frame s) := by
  unfold execMemoryZeroDone
  repeat' (first
    | with_reducible exact Keeps.refl _
    | with_reducible apply Keeps.trans ?_ (State.setFrame_kept ..)
    | with_reducible apply Keeps.trans ?_ (State.zeroFrame_kept ..)
    | with_reducible apply keepsOut_when)

theorem State.endPass_kept (s : State) (c : Nat) : Keeps s (State.endPass s c) := by
  unfold State.endPass
  repeat' (first
    | with_reducible exact Keeps.refl _
    | with_reducible apply Keeps.trans ?_ (State.setCore_kept ..)
    | with_reducible apply Keeps.trans ?_ (State.count_kept ..)
    | with_reducible apply keeps_ite)

theorem State.scrubWord_kept (s : State) (c : Nat) (bank : Nat) (word : Nat) (ecc : Ecc) :
    Keeps s (State.scrubWord s c bank word ecc) := by
  unfold State.scrubWord
  repeat' (first
    | with_reducible exact Keeps.refl _
    | with_reducible apply Keeps.trans ?_ (State.setCore_kept ..)
    | with_reducible apply Keeps.trans ?_ (State.scratchEcc_kept ..)
    | with_reducible apply Keeps.trans ?_ (State.endPass_kept ..))

theorem execScratchScrub_kept (c : CoreNo) (bank : BankNo) (word : Fin 1024) (ecc : Ecc) (s : State) :
    KeepsOut s (execScratchScrub c bank word ecc s) := by
  unfold execScratchScrub
  extract_lets s1
  have h1 : Keeps s s1 := keeps_ite (State.endPass_kept ..) (.refl s)
  exact keepsOut_trans h1 (keepsOut_when (State.scrubWord_kept ..))

theorem State.issueVec_kept (s : State) (c : Nat) (op : Nat) (f : Vop → State) (hf : ∀ (a0 : Vop), Keeps s (f a0)) :
    KeepsOut s (State.issueVec s c op f) := by
  unfold State.issueVec
  repeat' (first
    | with_reducible exact Keeps.refl _
    | with_reducible apply Keeps.trans ?_ (hf _)
    | with_reducible apply keepsOut_next
    | split)

theorem State.putVec_kept (s : State) (u : Vop) (v : VecEngine) (fl : Flags) (lanes : Nat) :
    Keeps s (State.putVec s u v fl lanes) := by
  unfold State.putVec
  repeat' (first
    | with_reducible exact Keeps.refl _
    | with_reducible apply Keeps.trans ?_ (State.count_kept ..)
    | with_reducible apply Keeps.trans ?_ (State.noteProgress_kept ..)
    | with_reducible apply Keeps.trans ?_ (State.putTile_kept ..))

theorem State.vecWrite_kept (s : State) (u : Vop) (es : List Nat) (g : Nat → FRes × Bool) (cycles : Nat) (int : Bool) :
    Keeps s (State.vecWrite s u es g cycles int) := by
  unfold State.vecWrite
  repeat' (first
    | with_reducible exact Keeps.refl _
    | with_reducible apply Keeps.trans ?_ (State.putVec_kept ..))

theorem State.vec1_kept (s : State) (u : Vop) (cycles : Nat) (f : W32 → FRes) : Keeps s (State.vec1 s u cycles f) := by
  unfold State.vec1
  repeat' (first
    | with_reducible exact Keeps.refl _
    | with_reducible apply Keeps.trans ?_ (State.vecWrite_kept ..))

theorem State.vec2_kept (s : State) (u : Vop) (cycles : Nat) (f : W32 → W32 → FRes) :
    Keeps s (State.vec2 s u cycles f) := by
  unfold State.vec2
  repeat' (first
    | with_reducible exact Keeps.refl _
    | with_reducible apply Keeps.trans ?_ (State.vecWrite_kept ..))

theorem State.vecCompare_kept (s : State) (u : Vop) (f : Nat → (Bool × Flags) × Bool) :
    Keeps s (State.vecCompare s u f) := by
  unfold State.vecCompare
  repeat' (first
    | with_reducible exact Keeps.refl _
    | with_reducible apply Keeps.trans ?_ (State.putVec_kept ..))

theorem State.vecMasks_kept (s : State) (u : Vop) (f : Bool → Bool → Bool) : Keeps s (State.vecMasks s u f) := by
  unfold State.vecMasks
  repeat' (first
    | with_reducible exact Keeps.refl _
    | with_reducible apply Keeps.trans ?_ (State.putVec_kept ..))

theorem State.vecStop_kept (s : State) (u : Vop) (fl : Flags) (e : Stop) :
    Keeps s (State.vecStop s u fl e) := by
  unfold State.vecStop
  repeat' (first
    | with_reducible exact Keeps.refl _
    | with_reducible apply Keeps.trans ?_ (State.count_kept ..)
    | with_reducible apply Keeps.trans ?_ (State.endCmd_kept ..)
    | with_reducible apply Keeps.trans ?_ (State.putTile_kept ..)
    | with_reducible apply keeps_ite
    | fail_if_no_progress (with_reducible apply keeps_mk)
    | fail_if_no_progress extract_lets)

theorem State.vecLoad_kept (s : State) (u : Vop) (errs : EccReads) (n : Nat) (f : State → Vop → List TByte → State) (hf : ∀ (a0 : State) (a1 : Vop) (a2 : List TByte), Keeps a0 (f a0 a1 a2)) :
    Keeps s (State.vecLoad s u errs n f) := by
  unfold State.vecLoad
  repeat' (first
    | with_reducible exact Keeps.refl _
    | with_reducible apply Keeps.trans ?_ (State.vecStop_kept ..)
    | with_reducible apply Keeps.trans ?_ (hf _ _ _)
    | with_reducible apply Keeps.trans ?_ (State.endCmd_kept ..)
    | with_reducible apply Keeps.trans ?_ (State.scratchErrs_kept ..)
    | with_reducible apply keeps_ite
    | fail_if_no_progress extract_lets
    | split)

theorem State.vecLoaded_kept (s : State) (u : Vop) (g : Nat → Elem) : Keeps s (State.vecLoaded s u g) := ⟨rfl, rfl, fun w => w⟩

theorem State.vecStores_kept (s : State) (u : Vop) (z3 : List (Nat × List TByte)) :
    Keeps s (State.vecStores s u z3).1 := by
  fun_induction State.vecStores s u z3
  all_goals repeat' (first
    | with_reducible exact Keeps.refl _
    | with_reducible apply Keeps.trans ?_ (State.swrite_kept ..)
    | with_reducible apply keeps_ite
    | fail_if_no_progress (with_reducible apply keeps_mk)
    | with_reducible refine keeps_fst (by assumption) ?_
    | with_reducible refine Keeps.after (by assumption) ?_)

theorem State.vecStore_kept (s0 : State) (u : Vop) (errs : EccReads) (size : Nat) (g : Nat → List TByte) (fx : Nat → Flags) :
    Keeps s0 (State.vecStore s0 u errs size g fx) := by
  unfold State.vecStore
  repeat' (first
    | with_reducible exact Keeps.refl _
    | with_reducible apply Keeps.trans ?_ (State.count_kept ..)
    | with_reducible apply Keeps.trans ?_ (State.putVec_kept ..)
    | with_reducible apply Keeps.trans ?_ (State.scratchErrs_kept ..)
    | with_reducible apply Keeps.trans ?_ (State.vecStop_kept ..)
    | with_reducible apply Keeps.trans ?_ (State.vecStores_kept ..)
    | with_reducible apply keeps_ite
    | fail_if_no_progress (with_reducible apply keeps_mk)
    | fail_if_no_progress extract_lets
    | with_reducible refine keeps_fst (by assumption) ?_
    | split
    | dsimp +zetaDelta -zeta only)

theorem State.underflow_kept (s : State) (u : Vop) : Keeps s (State.underflow s u) := by
  unfold State.underflow
  repeat' (first
    | with_reducible exact Keeps.refl _
    | with_reducible apply Keeps.trans ?_ (State.putTile_kept ..)
    | with_reducible apply Keeps.trans ?_ (State.setCmd_kept ..)
    | with_reducible apply Keeps.trans ?_ (State.tileFinish_kept ..)
    | with_reducible apply keeps_ite
    | fail_if_no_progress extract_lets
    | split)

theorem State.afterQueue_kept (s : State) (u : Vop) : Keeps s (State.afterQueue s u) := by
  unfold State.afterQueue
  repeat' (first
    | with_reducible exact Keeps.refl _
    | with_reducible apply Keeps.trans ?_ (State.pumpTile_kept ..))

theorem State.vecReduce_kept (s : State) (u : Vop) (op : W32 → W32 → FRes) (rest : Option W32) (empty : W32) :
    Keeps s (State.vecReduce s u op rest empty) := by
  unfold State.vecReduce
  repeat' (first
    | with_reducible exact Keeps.refl _
    | with_reducible apply Keeps.trans ?_ (State.putVec_kept ..))

theorem execVEnd_kept (c : CoreNo) (s : State) : KeepsOut s (execVEnd c s) := by
  unfold execVEnd
  repeat' (first
    | with_reducible exact Keeps.refl _
    | with_reducible apply Keeps.trans ?_ (State.count_kept ..)
    | with_reducible apply Keeps.trans ?_ (State.pumpTile_kept ..)
    | with_reducible apply Keeps.trans ?_ (State.putTile_kept ..)
    | with_reducible apply Keeps.trans ?_ (State.tileFinish_kept ..)
    | with_reducible apply keeps_issueVec
    | intro _)

theorem execVLoop_kept (c : CoreNo) (s : State) : KeepsOut s (execVLoop c s) := by
  unfold execVLoop
  repeat' (first
    | with_reducible exact Keeps.refl _
    | with_reducible apply Keeps.trans ?_ (State.putVec_kept ..)
    | with_reducible apply keeps_ite
    | with_reducible apply keeps_issueVec
    | intro _)

theorem execVMovk_kept (c : CoreNo) (s : State) : KeepsOut s (execVMovk c s) := by
  unfold execVMovk
  repeat' (first
    | with_reducible exact Keeps.refl _
    | with_reducible apply Keeps.trans ?_ (State.putVec_kept ..)
    | with_reducible apply keeps_issueVec
    | intro _)

theorem execVXset_kept (c : CoreNo) (s : State) : KeepsOut s (execVXset c s) := by
  unfold execVXset
  repeat' (first
    | with_reducible exact Keeps.refl _
    | with_reducible apply Keeps.trans ?_ (State.putVec_kept ..)
    | with_reducible apply keeps_issueVec
    | intro _)

theorem execVXadd_kept (c : CoreNo) (s : State) : KeepsOut s (execVXadd c s) := by
  unfold execVXadd
  repeat' (first
    | with_reducible exact Keeps.refl _
    | with_reducible apply Keeps.trans ?_ (State.putVec_kept ..)
    | with_reducible apply keeps_issueVec
    | intro _)

theorem execVLd_kept (c : CoreNo) (errs : EccReads) (s : State) : KeepsOut s (execVLd c errs s) := by
  unfold execVLd
  repeat' (first
    | with_reducible exact Keeps.refl _
    | with_reducible apply Keeps.trans ?_ (State.vecLoad_kept _ _ _ _ _ ?_)
    | with_reducible apply Keeps.trans ?_ (State.vecLoaded_kept ..)
    | with_reducible apply keeps_issueVec
    | intro _)

theorem execVLdh_kept (c : CoreNo) (errs : EccReads) (s : State) : KeepsOut s (execVLdh c errs s) := by
  unfold execVLdh
  repeat' (first
    | with_reducible exact Keeps.refl _
    | with_reducible apply Keeps.trans ?_ (State.vecLoad_kept _ _ _ _ _ ?_)
    | with_reducible apply Keeps.trans ?_ (State.vecLoaded_kept ..)
    | with_reducible apply keeps_issueVec
    | intro _)

theorem execVLdb_kept (c : CoreNo) (errs : EccReads) (s : State) : KeepsOut s (execVLdb c errs s) := by
  unfold execVLdb
  repeat' (first
    | with_reducible exact Keeps.refl _
    | with_reducible apply Keeps.trans ?_ (State.vecLoad_kept _ _ _ _ _ ?_)
    | with_reducible apply Keeps.trans ?_ (State.vecLoaded_kept ..)
    | with_reducible apply keeps_issueVec
    | intro _)

theorem execVSt_kept (read : CoreReads) (s : State) : KeepsOut s (execVSt read s) := by
  unfold execVSt
  repeat' (first
    | with_reducible exact Keeps.refl _
    | with_reducible apply Keeps.trans ?_ (State.vecStore_kept ..)
    | with_reducible apply keeps_issueVec
    | intro _)

theorem execVSth_kept (read : CoreReads) (s : State) : KeepsOut s (execVSth read s) := by
  unfold execVSth
  repeat' (first
    | with_reducible exact Keeps.refl _
    | with_reducible apply Keeps.trans ?_ (State.vecStore_kept ..)
    | with_reducible apply keeps_issueVec
    | intro _)

theorem execVSta_kept (read : CoreReads) (s0 : State) : KeepsOut s0 (execVSta read s0) := by
  unfold execVSta
  repeat' (first
    | with_reducible exact Keeps.refl _
    | with_reducible apply Keeps.trans ?_ (State.vecStop_kept ..)
    | with_reducible apply Keeps.trans ?_ (State.endCmd_kept ..)
    | with_reducible apply Keeps.trans ?_ (State.scratchErrs_kept ..)
    | with_reducible apply Keeps.trans ?_ (AccOut.run_kept ..)
    | with_reducible apply Keeps.trans ?_ (State.putTile_kept ..)
    | with_reducible apply Keeps.trans ?_ (State.putVec_kept ..)
    | with_reducible apply keeps_ite
    | with_reducible apply keeps_issueVec
    | intro _
    | fail_if_no_progress extract_lets
    | split)

theorem execVTqr_kept (read : QueueReads) (s : State) : KeepsOut s (execVTqr read s) := by
  unfold execVTqr
  repeat' (first
    | with_reducible exact Keeps.refl _
    | with_reducible apply Keeps.trans ?_ (State.count_kept ..)
    | with_reducible apply Keeps.trans ?_ (State.noteFault_kept ..)
    | with_reducible apply Keeps.trans ?_ (State.putTile_kept ..)
    | with_reducible apply Keeps.trans ?_ (State.vecWrite_kept ..)
    | with_reducible apply Keeps.trans ?_ (State.underflow_kept ..)
    | with_reducible apply Keeps.trans ?_ (State.afterQueue_kept ..)
    | with_reducible apply keeps_ite
    | with_reducible apply keeps_issueVec
    | intro _)

theorem execVTqwait_kept (c : CoreNo) (s : State) : KeepsOut s (execVTqwait c s) := by
  unfold execVTqwait
  repeat' (first
    | with_reducible exact Keeps.refl _
    | with_reducible apply Keeps.trans ?_ (State.putVec_kept ..)
    | with_reducible apply Keeps.trans ?_ (State.underflow_kept ..)
    | with_reducible apply keeps_ite
    | with_reducible apply keeps_issueVec
    | intro _)

theorem execVTqdrop_kept (c : CoreNo) (s : State) : KeepsOut s (execVTqdrop c s) := by
  unfold execVTqdrop
  repeat' (first
    | with_reducible exact Keeps.refl _
    | with_reducible apply Keeps.trans ?_ (State.afterQueue_kept ..)
    | with_reducible apply Keeps.trans ?_ (State.count_kept ..)
    | with_reducible apply Keeps.trans ?_ (State.putTile_kept ..)
    | with_reducible apply Keeps.trans ?_ (State.putVec_kept ..)
    | with_reducible apply keeps_issueVec
    | intro _)

theorem execVFadd_kept (c : CoreNo) (s : State) : KeepsOut s (execVFadd c s) := by
  unfold execVFadd
  repeat' (first
    | with_reducible exact Keeps.refl _
    | with_reducible apply Keeps.trans ?_ (State.vec2_kept ..)
    | with_reducible apply keeps_issueVec
    | intro _)

theorem execVFsub_kept (c : CoreNo) (s : State) : KeepsOut s (execVFsub c s) := by
  unfold execVFsub
  repeat' (first
    | with_reducible exact Keeps.refl _
    | with_reducible apply Keeps.trans ?_ (State.vec2_kept ..)
    | with_reducible apply keeps_issueVec
    | intro _)

theorem execVFmul_kept (c : CoreNo) (s : State) : KeepsOut s (execVFmul c s) := by
  unfold execVFmul
  repeat' (first
    | with_reducible exact Keeps.refl _
    | with_reducible apply Keeps.trans ?_ (State.vec2_kept ..)
    | with_reducible apply keeps_issueVec
    | intro _)

theorem execVFma_kept (c : CoreNo) (s : State) : KeepsOut s (execVFma c s) := by
  unfold execVFma
  repeat' (first
    | with_reducible exact Keeps.refl _
    | with_reducible apply Keeps.trans ?_ (State.vecWrite_kept ..)
    | with_reducible apply keeps_issueVec
    | intro _)

theorem execVFnma_kept (c : CoreNo) (s : State) : KeepsOut s (execVFnma c s) := by
  unfold execVFnma
  repeat' (first
    | with_reducible exact Keeps.refl _
    | with_reducible apply Keeps.trans ?_ (State.vecWrite_kept ..)
    | with_reducible apply keeps_issueVec
    | intro _)

theorem execVFaddk_kept (c : CoreNo) (s : State) : KeepsOut s (execVFaddk c s) := by
  unfold execVFaddk
  repeat' (first
    | with_reducible exact Keeps.refl _
    | with_reducible apply Keeps.trans ?_ (State.vec1_kept ..)
    | with_reducible apply keeps_issueVec
    | intro _)

theorem execVFmulk_kept (c : CoreNo) (s : State) : KeepsOut s (execVFmulk c s) := by
  unfold execVFmulk
  repeat' (first
    | with_reducible exact Keeps.refl _
    | with_reducible apply Keeps.trans ?_ (State.vec1_kept ..)
    | with_reducible apply keeps_issueVec
    | intro _)

theorem execVFmak_kept (c : CoreNo) (s : State) : KeepsOut s (execVFmak c s) := by
  unfold execVFmak
  repeat' (first
    | with_reducible exact Keeps.refl _
    | with_reducible apply Keeps.trans ?_ (State.vecWrite_kept ..)
    | with_reducible apply keeps_issueVec
    | intro _)

theorem execVFmax_kept (c : CoreNo) (s : State) : KeepsOut s (execVFmax c s) := by
  unfold execVFmax
  repeat' (first
    | with_reducible exact Keeps.refl _
    | with_reducible apply Keeps.trans ?_ (State.vec2_kept ..)
    | with_reducible apply keeps_issueVec
    | intro _)

theorem execVFmin_kept (c : CoreNo) (s : State) : KeepsOut s (execVFmin c s) := by
  unfold execVFmin
  repeat' (first
    | with_reducible exact Keeps.refl _
    | with_reducible apply Keeps.trans ?_ (State.vec2_kept ..)
    | with_reducible apply keeps_issueVec
    | intro _)

theorem execVFmaxk_kept (c : CoreNo) (s : State) : KeepsOut s (execVFmaxk c s) := by
  unfold execVFmaxk
  repeat' (first
    | with_reducible exact Keeps.refl _
    | with_reducible apply Keeps.trans ?_ (State.vec1_kept ..)
    | with_reducible apply keeps_issueVec
    | intro _)

theorem execVFabs_kept (c : CoreNo) (s : State) : KeepsOut s (execVFabs c s) := by
  unfold execVFabs
  repeat' (first
    | with_reducible exact Keeps.refl _
    | with_reducible apply Keeps.trans ?_ (State.vec1_kept ..)
    | with_reducible apply keeps_issueVec
    | intro _)

theorem execVFdiv_kept (c : CoreNo) (s : State) : KeepsOut s (execVFdiv c s) := by
  unfold execVFdiv
  repeat' (first
    | with_reducible exact Keeps.refl _
    | with_reducible apply Keeps.trans ?_ (State.vec2_kept ..)
    | with_reducible apply keeps_issueVec
    | intro _)

theorem execVFsel_kept (c : CoreNo) (s : State) : KeepsOut s (execVFsel c s) := by
  unfold execVFsel
  repeat' (first
    | with_reducible exact Keeps.refl _
    | with_reducible apply Keeps.trans ?_ (State.vecWrite_kept ..)
    | with_reducible apply keeps_issueVec
    | intro _)

theorem execVVmov_kept (c : CoreNo) (s : State) : KeepsOut s (execVVmov c s) := by
  unfold execVVmov
  repeat' (first
    | with_reducible exact Keeps.refl _
    | with_reducible apply Keeps.trans ?_ (State.vec1_kept ..)
    | with_reducible apply keeps_issueVec
    | intro _)

theorem execVFcmplt_kept (c : CoreNo) (s : State) : KeepsOut s (execVFcmplt c s) := by
  unfold execVFcmplt
  repeat' (first
    | with_reducible exact Keeps.refl _
    | with_reducible apply Keeps.trans ?_ (State.vecCompare_kept ..)
    | with_reducible apply keeps_issueVec
    | intro _)

theorem execVFcmpeq_kept (c : CoreNo) (s : State) : KeepsOut s (execVFcmpeq c s) := by
  unfold execVFcmpeq
  repeat' (first
    | with_reducible exact Keeps.refl _
    | with_reducible apply Keeps.trans ?_ (State.vecCompare_kept ..)
    | with_reducible apply keeps_issueVec
    | intro _)

theorem execVFcmpun_kept (c : CoreNo) (s : State) : KeepsOut s (execVFcmpun c s) := by
  unfold execVFcmpun
  repeat' (first
    | with_reducible exact Keeps.refl _
    | with_reducible apply Keeps.trans ?_ (State.vecCompare_kept ..)
    | with_reducible apply keeps_issueVec
    | intro _)

theorem execVFcmpltk_kept (c : CoreNo) (s : State) : KeepsOut s (execVFcmpltk c s) := by
  unfold execVFcmpltk
  repeat' (first
    | with_reducible exact Keeps.refl _
    | with_reducible apply Keeps.trans ?_ (State.vecCompare_kept ..)
    | with_reducible apply keeps_issueVec
    | intro _)

theorem execVMand_kept (c : CoreNo) (s : State) : KeepsOut s (execVMand c s) := by
  unfold execVMand
  repeat' (first
    | with_reducible exact Keeps.refl _
    | with_reducible apply Keeps.trans ?_ (State.vecMasks_kept ..)
    | with_reducible apply keeps_issueVec
    | intro _)

theorem execVMor_kept (c : CoreNo) (s : State) : KeepsOut s (execVMor c s) := by
  unfold execVMor
  repeat' (first
    | with_reducible exact Keeps.refl _
    | with_reducible apply Keeps.trans ?_ (State.vecMasks_kept ..)
    | with_reducible apply keeps_issueVec
    | intro _)

theorem execVFsqrt_kept (c : CoreNo) (s : State) : KeepsOut s (execVFsqrt c s) := by
  unfold execVFsqrt
  repeat' (first
    | with_reducible exact Keeps.refl _
    | with_reducible apply Keeps.trans ?_ (State.vec1_kept ..)
    | with_reducible apply keeps_issueVec
    | intro _)

theorem execVFrcp_kept (c : CoreNo) (s : State) : KeepsOut s (execVFrcp c s) := by
  unfold execVFrcp
  repeat' (first
    | with_reducible exact Keeps.refl _
    | with_reducible apply Keeps.trans ?_ (State.vec1_kept ..)
    | with_reducible apply keeps_issueVec
    | intro _)

theorem execVFrsq_kept (c : CoreNo) (s : State) : KeepsOut s (execVFrsq c s) := by
  unfold execVFrsq
  repeat' (first
    | with_reducible exact Keeps.refl _
    | with_reducible apply Keeps.trans ?_ (State.vec1_kept ..)
    | with_reducible apply keeps_issueVec
    | intro _)

theorem execVFexp_kept (c : CoreNo) (s : State) : KeepsOut s (execVFexp c s) := by
  unfold execVFexp
  repeat' (first
    | with_reducible exact Keeps.refl _
    | with_reducible apply Keeps.trans ?_ (State.vec1_kept ..)
    | with_reducible apply keeps_issueVec
    | intro _)

theorem execVFexp2_kept (c : CoreNo) (s : State) : KeepsOut s (execVFexp2 c s) := by
  unfold execVFexp2
  repeat' (first
    | with_reducible exact Keeps.refl _
    | with_reducible apply Keeps.trans ?_ (State.vec1_kept ..)
    | with_reducible apply keeps_issueVec
    | intro _)

theorem execVFlog_kept (c : CoreNo) (s : State) : KeepsOut s (execVFlog c s) := by
  unfold execVFlog
  repeat' (first
    | with_reducible exact Keeps.refl _
    | with_reducible apply Keeps.trans ?_ (State.vec1_kept ..)
    | with_reducible apply keeps_issueVec
    | intro _)

theorem execVFtanh_kept (c : CoreNo) (s : State) : KeepsOut s (execVFtanh c s) := by
  unfold execVFtanh
  repeat' (first
    | with_reducible exact Keeps.refl _
    | with_reducible apply Keeps.trans ?_ (State.vec1_kept ..)
    | with_reducible apply keeps_issueVec
    | intro _)

theorem execVFsigm_kept (c : CoreNo) (s : State) : KeepsOut s (execVFsigm c s) := by
  unfold execVFsigm
  repeat' (first
    | with_reducible exact Keeps.refl _
    | with_reducible apply Keeps.trans ?_ (State.vec1_kept ..)
    | with_reducible apply keeps_issueVec
    | intro _)

theorem execVFerf_kept (c : CoreNo) (s : State) : KeepsOut s (execVFerf c s) := by
  unfold execVFerf
  repeat' (first
    | with_reducible exact Keeps.refl _
    | with_reducible apply Keeps.trans ?_ (State.vec1_kept ..)
    | with_reducible apply keeps_issueVec
    | intro _)

theorem execVFsin_kept (c : CoreNo) (s : State) : KeepsOut s (execVFsin c s) := by
  unfold execVFsin
  repeat' (first
    | with_reducible exact Keeps.refl _
    | with_reducible apply Keeps.trans ?_ (State.vec1_kept ..)
    | with_reducible apply keeps_issueVec
    | intro _)

theorem execVFcos_kept (c : CoreNo) (s : State) : KeepsOut s (execVFcos c s) := by
  unfold execVFcos
  repeat' (first
    | with_reducible exact Keeps.refl _
    | with_reducible apply Keeps.trans ?_ (State.vec1_kept ..)
    | with_reducible apply keeps_issueVec
    | intro _)

theorem execVF2i_kept (c : CoreNo) (s : State) : KeepsOut s (execVF2i c s) := by
  unfold execVF2i
  repeat' (first
    | with_reducible exact Keeps.refl _
    | with_reducible apply Keeps.trans ?_ (State.vecWrite_kept ..)
    | with_reducible apply keeps_issueVec
    | intro _)

theorem execVI2f_kept (c : CoreNo) (s : State) : KeepsOut s (execVI2f c s) := by
  unfold execVI2f
  repeat' (first
    | with_reducible exact Keeps.refl _
    | with_reducible apply Keeps.trans ?_ (State.vec1_kept ..)
    | with_reducible apply keeps_issueVec
    | intro _)

theorem execVRsum_kept (c : CoreNo) (s : State) : KeepsOut s (execVRsum c s) := by
  unfold execVRsum
  repeat' (first
    | with_reducible exact Keeps.refl _
    | with_reducible apply Keeps.trans ?_ (State.vecReduce_kept ..)
    | with_reducible apply keeps_issueVec
    | intro _)

theorem execVRmax_kept (c : CoreNo) (s : State) : KeepsOut s (execVRmax c s) := by
  unfold execVRmax
  repeat' (first
    | with_reducible exact Keeps.refl _
    | with_reducible apply Keeps.trans ?_ (State.vecReduce_kept ..)
    | with_reducible apply keeps_issueVec
    | intro _)

theorem execVSexp_kept (c : CoreNo) (s : State) : KeepsOut s (execVSexp c s) := by
  unfold execVSexp
  repeat' (first
    | with_reducible exact Keeps.refl _
    | with_reducible apply Keeps.trans ?_ (State.vecWrite_kept ..)
    | with_reducible apply keeps_issueVec
    | intro _)

theorem execVBcast_kept (c : CoreNo) (s : State) : KeepsOut s (execVBcast c s) := by
  unfold execVBcast
  repeat' (first
    | with_reducible exact Keeps.refl _
    | with_reducible apply Keeps.trans ?_ (State.vecWrite_kept ..)
    | with_reducible apply keeps_issueVec
    | intro _)

theorem execVPswap_kept (c : CoreNo) (s : State) : KeepsOut s (execVPswap c s) := by
  unfold execVPswap
  repeat' (first
    | with_reducible exact Keeps.refl _
    | with_reducible apply Keeps.trans ?_ (State.vecWrite_kept ..)
    | with_reducible apply keeps_issueVec
    | intro _)

theorem State.refillSlot_kept (s : State) (i : Nat) : Keeps s (State.refillSlot s i) := by
  unfold State.refillSlot
  repeat' (first
    | with_reducible exact Keeps.refl _
    | with_reducible apply Keeps.trans ?_ (State.refill_kept ..)
    | with_reducible apply keeps_fold
    | intro _)

theorem State.groupsZeroed_kept (s : State) : Keeps s (State.groupsZeroed s) := by
  unfold State.groupsZeroed
  repeat' (first
    | with_reducible exact Keeps.refl _
    | with_reducible apply Keeps.trans ?_ (State.setBlock_kept ..)
    | with_reducible apply Keeps.trans ?_ (State.setCore_kept ..)
    | with_reducible apply keeps_fold
    | intro _)

theorem State.waitTick_kept (s : State) : Keeps s (State.waitTick s) := by
  unfold State.waitTick
  repeat' (first
    | with_reducible exact Keeps.refl _
    | with_reducible apply Keeps.trans ?_ (State.count_kept ..)
    | with_reducible apply keeps_fold
    | intro _)

theorem State.bufferTick_kept (s : State) : Keeps s (State.bufferTick s) := by
  unfold State.bufferTick
  repeat' (first
    | with_reducible exact Keeps.refl _
    | with_reducible apply Keeps.trans ?_ (State.setEth_kept ..)
    | with_reducible apply keeps_fold
    | fail_if_no_progress (with_reducible apply keeps_mk)
    | intro _)

theorem State.vinReading_kept (s : State) (x : W32) : Keeps s (State.vinReading s x) := by
  unfold State.vinReading
  repeat' (first
    | with_reducible exact Keeps.refl _
    | with_reducible apply keeps_ite
    | fail_if_no_progress (with_reducible apply keeps_mk))

theorem State.junctionReading_kept (s : State) (x : W32) : Keeps s (State.junctionReading s x) := by
  unfold State.junctionReading
  repeat' (first
    | with_reducible exact Keeps.refl _
    | with_reducible apply Keeps.trans ?_ (State.junction_kept ..)
    | with_reducible apply keeps_ite)

theorem State.sensorTick_kept (s : State) : Keeps s (State.sensorTick s) := by
  unfold State.sensorTick
  repeat' (first
    | with_reducible exact Keeps.refl _
    | with_reducible apply Keeps.trans ?_ (State.fresh_kept ..)
    | with_reducible apply Keeps.trans ?_ (State.dictSet_kept ..)
    | with_reducible apply Keeps.trans ?_ (State.vinReading_kept ..)
    | with_reducible apply Keeps.trans ?_ (State.junctionReading_kept ..)
    | with_reducible apply keeps_ite)

theorem State.countTick_kept (s : State) : Keeps s (State.countTick s) := by
  unfold State.countTick
  repeat' (first
    | with_reducible exact Keeps.refl _
    | with_reducible apply Keeps.trans ?_ (State.count_kept ..)
    | with_reducible apply Keeps.trans ?_ (State.waitTick_kept ..)
    | with_reducible apply keeps_ite
    | fail_if_no_progress (with_reducible apply keeps_mk))

theorem State.owedSpare_kept (s : State) (x : Nat) (z3 : Nat) :
    Keeps s (State.owedSpare s x z3) := by
  fun_induction State.owedSpare s x z3
  all_goals repeat' (first
    | with_reducible exact Keeps.refl _
    | with_reducible apply Keeps.trans ?_ (State.serveSpare_kept ..)
    | with_reducible apply Keeps.trans ?_ (State.setRegulator_kept ..)
    | with_reducible apply keeps_ite
    | fail_if_no_progress (with_reducible apply keeps_mk)
    | fail_if_no_progress extract_lets
    | with_reducible refine keeps_fst (by assumption) ?_
    | with_reducible refine Keeps.after (by assumption) ?_)

theorem State.serveEngines_kept (s : State) :
    Keeps s (State.serveEngines s) := by
  unfold State.serveEngines
  repeat' (first
    | with_reducible exact Keeps.refl _
    | with_reducible apply Keeps.trans ?_ (State.owedSpare_kept ..)
    | with_reducible apply Keeps.trans ?_ (State.owedFloor_kept ..)
    | with_reducible apply keeps_ite
    | with_reducible apply keeps_fold
    | intro _
    | fail_if_no_progress extract_lets)

theorem State.decideHeld_kept (s : State) :
    Keeps s (State.decideHeld s) := by
  unfold State.decideHeld
  repeat' (first
    | with_reducible exact Keeps.refl _
    | with_reducible apply Keeps.trans ?_ (State.decideFront_kept ..)
    | with_reducible apply keeps_ite
    | fail_if_no_progress (with_reducible apply keeps_mk)
    | fail_if_no_progress extract_lets
    | with_reducible refine keeps_fst (by assumption) ?_
    | split
    | dsimp +zetaDelta -zeta only)

theorem State.deliver_kept (s : State) (k : SilkPkt) : Keeps s (State.deliver s k) := by
  have taken : ∀ o, KeepsOut s o → Keeps s (match o with | .next t => t | _ => s) := by
    rintro _ ⟨t, rfl, h⟩
    exact h
  unfold State.deliver
  refine taken _ ?_
  split
  · exact execData_kept k s
  · exact execAck_kept k s
  · exact execKeepalive_kept k s
  · exact execDepart_kept k s
  · exact execOpenPkt_kept k s
  · exact execOpenAck_kept k s
  · exact execClosePkt_kept k s

theorem State.loopRound_kept (s : State) :
    Keeps s (State.loopRound s) := by
  unfold State.loopRound
  repeat' (first
    | with_reducible exact Keeps.refl _
    | with_reducible apply Keeps.trans ?_ (State.deliver_kept ..)
    | with_reducible apply keeps_ite
    | with_reducible apply keeps_fold
    | intro _
    | fail_if_no_progress (with_reducible apply keeps_mk))

theorem State.tick_kept (s : State) : Keeps s (State.tick s) := by
  unfold State.tick
  repeat' (first
    | with_reducible exact Keeps.refl _
    | with_reducible apply Keeps.trans ?_ (State.decideHeld_kept ..)
    | with_reducible apply Keeps.trans ?_ (State.serveEngines_kept ..)
    | with_reducible apply Keeps.trans ?_ (State.loopRound_kept ..)
    | with_reducible apply Keeps.trans ?_ (State.collTick_kept ..)
    | with_reducible apply Keeps.trans ?_ (State.longopTick_kept ..)
    | with_reducible apply Keeps.trans ?_ (State.bar4Retry_kept ..)
    | with_reducible apply Keeps.trans ?_ (State.refillSlot_kept ..)
    | with_reducible apply Keeps.trans ?_ (State.groupsZeroed_kept ..)
    | with_reducible apply Keeps.trans ?_ (State.bufferTick_kept ..)
    | with_reducible apply Keeps.trans ?_ (State.sensorTick_kept ..)
    | with_reducible apply Keeps.trans ?_ (State.countTick_kept ..)
    | with_reducible apply keeps_ite
    | with_reducible apply keeps_fold
    | fail_if_no_progress (with_reducible apply keeps_mk)
    | intro _)

end Sys2Proof.Machine
end

