-- ==== Sys2Proof/Laws/Rises.lean ====
section
/-!
SUPPORT. The operations that blow fuses (boot step 7, FW_CONFIRM, PROVISION: R653, R658) and those that call them: the
fuses only rise, the command queue stays, and so does the canonical form of the memories.
-/
namespace Sys2Proof.Machine

open Sys2Proof Sys2Proof.Safety

theorem fusesRise_refl (f : Fuses) : fusesRise f f := ⟨rfl, rfl, rfl, fun h => ⟨Nat.le_refl _, h⟩, id, fun h => ⟨h, rfl⟩⟩
theorem fusesRise_trans {f g h : Fuses} (a : fusesRise f g) (b : fusesRise g h) : fusesRise f h :=
  ⟨b.cores.trans a.cores, b.fwKey.trans a.fwKey, b.groups.trans a.groups,
   fun l => ⟨(a.floor l).1.trans (b.floor (a.floor l).2).1, (b.floor (a.floor l).2).2⟩,
   fun d => b.dual (a.dual d), fun p => ⟨(b.profile (a.profile p).1).1, (b.profile (a.profile p).1).2.trans (a.profile p).2⟩⟩
/-- The fuses of t may follow those of s, the queue is as it was, and the memories keep their canonical form. -/
structure Rises (s t : State) : Prop where
  fuses : fusesRise s.fuses t.fuses
  pending : t.pending = s.pending
  mem : memWf s → memWf t
theorem Rises.refl (s : State) : Rises s s := ⟨fusesRise_refl _, rfl, id⟩
theorem Rises.trans {s t u : State} (h : Rises s t) (k : Rises t u) : Rises s u := ⟨fusesRise_trans h.1 k.1, k.2.trans h.2, k.3 ∘ h.3⟩
theorem Keeps.rises {s t : State} (h : Keeps s t) : Rises s t := ⟨h.1 ▸ fusesRise_refl _, h.2, h.3⟩
/-- An outcome that is a next state whose fuses may follow those of s, with the queue and the form of the memories as they were. -/
def RisesOut (s : State) (o : Host.Outcome State Fault Refusal) : Prop := ∃ t, o = .next t ∧ Rises s t
theorem risesOut_when {s t : State} {b : Bool} (h : Rises s t) : RisesOut s (when s b t) := by
  cases b
  · exact ⟨s, rfl, .refl s⟩
  · exact ⟨t, rfl, h⟩
theorem risesOut_next {s t : State} (h : Rises s t) : RisesOut s (.next t) := ⟨t, rfl, h⟩
theorem risesOut_ite {s : State} {x y : Host.Outcome State Fault Refusal} {p : Prop} [Decidable p] (h : RisesOut s x) (k : RisesOut s y) : RisesOut s (if p then x else y) := by split <;> assumption
theorem rises_mk {s x : State} (a2 : List Out) (a3 : Nat) (a4 : Nat) (a5 : Power) (a6 : Pins) (a7 : Phys) (a9 : Boot) (a11 : Tab Nat) (a12 : List ResetRun) (a13 : ResetRec) (a14 : List ResetRec) (a15 : Tab Port) (a16 : Tab Fn) (a17 : Tab Part) (a18 : Tab Core) (a19 : List Cmd) (a20 : List Waiting) (a21 : Nat) (a22 : Nat) (a23 : Option Bool) (a24 : Nat) (a25 : Tab Nat) (a27 : Tab Bool) (a28 : Tab Frame) (a29 : Nat) (a31 : Tab Bool) (a32 : Tab Frame) (a33 : Nat) (a34 : Fabric) (a35 : Tab Expander) (a37 : Tab Bool) (a39 : Tab Flow) (a40 : Tab EthPort) (a41 : Nat) (a42 : Bool) (a43 : Nat) (a44 : Tab Nat) (a45 : List SilkPkt) (a46 : List Coll) (a47 : List Upd) (a48 : List Molt) (a49 : Tab (List LoadEntry)) (a50 : Tab (List (BitVec 256))) (a51 : Tab (List CkptRange)) (a52 : Sup) (h : Rises s x) : Rises s (State.mk x.pending a2 a3 a4 a5 a6 a7 x.fuses a9 x.flash a11 a12 a13 a14 a15 a16 a17 a18 a19 a20 a21 a22 a23 a24 a25 x.hbm a27 a28 a29 x.cxl a31 a32 a33 a34 a35 x.scratch a37 x.hostMem a39 a40 a41 a42 a43 a44 a45 a46 a47 a48 a49 a50 a51 a52) := ⟨h.1, h.2, h.3⟩
theorem rises_ite {s x y : State} {p : Prop} [Decidable p] (h : Rises s x) (k : Rises s y) : Rises s (if p then x else y) := by split <;> assumption
theorem rises_cond {s x y : State} {b : Bool} (h : Rises s x) (k : Rises s y) : Rises s (bif b then x else y) := by cases b <;> assumption
theorem rises_fold {α : Type} {s i : State} {f : State → α → State} {l : List α} (hi : Rises s i) (h : ∀ x a, Rises x (f x a)) : Rises s (l.foldl f i) := by
  induction l generalizing i with
  | nil => exact hi
  | cons a l ih => exact ih (hi.trans (h i a))
theorem rises_fst {α : Type} {s a : State} {p : State × α} {b : α} (e : p = (a, b)) (h : Rises s p.1) : Rises s a := by rw [e] at h; exact h
theorem rises_ite1 {α : Type} {s : State} {x y : State × α} {p : Prop} [Decidable p] (h : Rises s x.1) (k : Rises s y.1) : Rises s (if p then x else y).1 := by split <;> assumption

theorem State.blowTo_rise (s : State) (sv : Nat) : Rises s (State.blowTo s sv) := by
  exact ⟨⟨rfl, rfl, rfl, fun h => ⟨Nat.le_max_left _ _, Nat.max_le.mpr ⟨h, Nat.min_le_left _ _⟩⟩, id, fun h => ⟨h, rfl⟩⟩, rfl, id⟩

theorem State.bootFirmware_rise (s : State) : Rises s (State.bootFirmware s) := by
  unfold State.bootFirmware
  repeat' (first
    | with_reducible exact Rises.refl _
    | with_reducible apply Rises.trans ?_ (State.copyToFlashLog_kept ..).rises
    | with_reducible apply Rises.trans ?_ (State.setPll_kept ..).rises
    | with_reducible apply Rises.trans ?_ (State.slotEntries_kept ..).rises
    | with_reducible apply Rises.trans ?_ (State.measure_kept ..).rises
    | with_reducible apply Rises.trans ?_ (State.pickFirmware_kept ..).rises
    | with_reducible apply Rises.trans ?_ (State.blowTo_rise ..)
    | with_reducible apply rises_ite
    | fail_if_no_progress (with_reducible apply rises_mk))

theorem State.bootRom_rise (s : State) : Rises s (State.bootRom s) := by
  unfold State.bootRom
  repeat' (first
    | with_reducible exact Rises.refl _
    | with_reducible apply Rises.trans ?_ (State.disablePort_kept ..).rises
    | with_reducible apply Rises.trans ?_ (State.setPort_kept ..).rises
    | with_reducible apply Rises.trans ?_ (State.setPll_kept ..).rises
    | with_reducible apply Rises.trans ?_ (State.haltBoot_kept ..).rises
    | with_reducible apply Rises.trans ?_ (State.bootFirmware_rise ..)
    | with_reducible apply rises_ite
    | fail_if_no_progress (with_reducible apply rises_mk)
    | fail_if_no_progress extract_lets
    | dsimp -zeta only
    | split
    | dsimp +zetaDelta -zeta only)

theorem execResetRelease_rise (pll : PllId) (s : State) : RisesOut s (execResetRelease pll s) := by
  unfold execResetRelease
  repeat' (first
    | with_reducible exact Rises.refl _
    | with_reducible apply Rises.trans ?_ (State.setPll_kept ..).rises
    | with_reducible apply Rises.trans ?_ (State.bootRom_rise ..)
    | with_reducible apply Rises.trans ?_ (State.bootMemory_kept ..).rises
    | with_reducible apply rises_ite
    | with_reducible apply risesOut_next)

theorem State.provision_rise (s : State) (arg : Nat) (bs : List Byte) : Rises s (State.provision s arg bs).1 := by
  unfold State.provision
  split
  · exact .refl _
  rename_i hb
  simp only [Bool.or_eq_true, Bool.and_eq_true, not_or, not_and] at hb
  refine ⟨⟨?_, ?_, ?_, ?_, ?_, ?_⟩, rfl, id⟩ <;> dsimp only
  · split <;> split <;> rfl
  · split <;> split <;> rfl
  · split <;> split <;> rfl
  · intro h
    refine ⟨?_, ?_⟩ <;> split <;> split <;> first | exact h | exact Nat.le_refl _
  · intro h
    split <;> split <;> first | exact h | rfl
  · intro h
    refine ⟨?_, ?_⟩ <;> split <;> split <;> first | exact h | rfl | (rename_i k; exact absurd h (hb.1 k))

theorem State.creifFinish_rise (s : State) (x : Session) (v : Verify) : Rises s (State.creifFinish s x v) := by
  unfold State.creifFinish
  repeat' (first
    | with_reducible exact Rises.refl _
    | with_reducible apply Rises.trans ?_ (State.dictSet_kept ..).rises
    | with_reducible apply Rises.trans ?_ (State.setSession_kept ..).rises
    | with_reducible apply Rises.trans ?_ (State.setStaging_kept ..).rises
    | with_reducible apply Rises.trans ?_ (State.putProfile_kept ..).rises
    | with_reducible apply Rises.trans ?_ (State.provision_rise ..)
    | with_reducible apply Rises.trans ?_ (State.finishUpload_kept ..).rises
    | with_reducible apply rises_ite
    | fail_if_no_progress extract_lets
    | split)

theorem State.creifEnd_rise (s : State) (p : List Byte) (v : Verify) : Rises s (State.creifEnd s p v) := by
  unfold State.creifEnd
  repeat' (first
    | with_reducible exact Rises.refl _
    | with_reducible apply Rises.trans ?_ (State.count_kept ..).rises
    | with_reducible apply Rises.trans ?_ (State.creifFinish_rise ..)
    | with_reducible apply rises_ite
    | split)

theorem execCreifEnd_rise (packet : List Byte) (v : Verify) (s : State) : RisesOut s (execCreifEnd packet v s) := by
  unfold execCreifEnd
  repeat' (first
    | with_reducible exact Rises.refl _
    | with_reducible apply Rises.trans ?_ (State.creifEnd_rise ..)
    | with_reducible apply risesOut_when)

theorem State.fwConfirm_rise (s : State) : Rises s (State.fwConfirm s).1 := by
  unfold State.fwConfirm
  repeat' (first
    | with_reducible exact Rises.refl _
    | with_reducible apply Rises.trans ?_ (State.event_kept ..).rises
    | with_reducible apply Rises.trans ?_ (State.commitBootCtl_kept ..).rises
    | with_reducible apply Rises.trans ?_ (State.blowTo_rise ..)
    | with_reducible apply rises_ite1
    | fail_if_no_progress (with_reducible apply rises_mk))

theorem State.execEntry_rise (s : State) (index : Nat) (sub : Nat) (arg : Nat) :
    Rises s (State.execEntry s index sub arg).1 := by
  unfold State.execEntry
  repeat' (first
    | with_reducible exact Rises.refl _
    | with_reducible apply Rises.trans ?_ (State.dictSet_kept ..).rises
    | with_reducible apply Rises.trans ?_ (State.dumpCancel_kept ..).rises
    | with_reducible apply Rises.trans ?_ (State.dumpSuspend_kept ..).rises
    | with_reducible apply Rises.trans ?_ (State.dumpResume_kept ..).rises
    | with_reducible apply Rises.trans ?_ (State.fwActivate_kept ..).rises
    | with_reducible apply Rises.trans ?_ (State.fwConfirm_rise ..)
    | with_reducible apply Rises.trans ?_ (State.fwAbandon_kept ..).rises
    | with_reducible apply Rises.trans ?_ (State.stageSuspend_kept ..).rises
    | with_reducible apply Rises.trans ?_ (State.stageResume_kept ..).rises
    | with_reducible apply Rises.trans ?_ (State.stageCancel_kept ..).rises
    | with_reducible apply Rises.trans ?_ (State.restoreDefaults_kept ..).rises
    | with_reducible apply rises_ite1
    | fail_if_no_progress (with_reducible apply rises_mk)
    | fail_if_no_progress extract_lets
    | split)

theorem State.operate_rise (s : State) (p : List Byte) (e : Entry) (commitOk : Bool) :
    Rises s (State.operate s p e commitOk).state := by
  unfold State.operate
  repeat' (first
    | with_reducible exact Rises.refl _
    | with_reducible apply Rises.trans ?_ (State.touchMirror_kept ..).rises
    | with_reducible apply Rises.trans ?_ (State.putEntry_kept ..).rises
    | with_reducible apply Rises.trans ?_ (State.execEntry_rise ..)
    | fail_if_no_progress extract_lets
    | split)

theorem State.runRequest_rise (s : State) (p : List Byte) (commitOk : Bool) :
    Rises s (State.runRequest s p commitOk).state := by
  unfold State.runRequest
  repeat' (first
    | with_reducible exact Rises.refl _
    | with_reducible apply Rises.trans ?_ (State.count_kept ..).rises
    | with_reducible apply Rises.trans ?_ (State.touchMirror_kept ..).rises
    | with_reducible apply Rises.trans ?_ (State.operate_rise ..)
    | fail_if_no_progress (with_reducible apply rises_mk)
    | fail_if_no_progress extract_lets
    | split)

theorem State.priby_rise (s : State) (r : PribyReq) (commitOk : Bool) : Rises s (State.priby s r commitOk) := by
  unfold State.priby
  repeat' (first
    | with_reducible exact Rises.refl _
    | with_reducible apply Rises.trans ?_ (State.count_kept ..).rises
    | with_reducible apply Rises.trans ?_ (State.runRequest_rise ..)
    | with_reducible apply Rises.trans ?_ (State.pribyFinish_kept ..).rises
    | with_reducible apply rises_ite
    | fail_if_no_progress (with_reducible apply rises_mk)
    | fail_if_no_progress extract_lets
    | split)

theorem execPribyRead_rise (r : PribyReq) (s : State) : RisesOut s (execPribyRead r s) := by
  unfold execPribyRead
  repeat' (first
    | with_reducible exact Rises.refl _
    | with_reducible apply Rises.trans ?_ (State.priby_rise ..)
    | with_reducible apply risesOut_when)

theorem execPribyWrite_rise (r : PribyReq) (commitOk : Bool) (s : State) : RisesOut s (execPribyWrite r commitOk s) := by
  unfold execPribyWrite
  repeat' (first
    | with_reducible exact Rises.refl _
    | with_reducible apply Rises.trans ?_ (State.priby_rise ..)
    | with_reducible apply risesOut_when)

theorem execCoreState_rise (r : PribyReq) (s : State) : RisesOut s (execCoreState r s) := by
  unfold execCoreState
  repeat' (first
    | with_reducible exact Rises.refl _
    | with_reducible apply Rises.trans ?_ (State.priby_rise ..)
    | with_reducible apply risesOut_when)

theorem execFieldBadGroups_rise (r : PribyReq) (commitOk : Bool) (s : State) :
    RisesOut s (execFieldBadGroups r commitOk s) := by
  unfold execFieldBadGroups
  repeat' (first
    | with_reducible exact Rises.refl _
    | with_reducible apply Rises.trans ?_ (State.priby_rise ..)
    | with_reducible apply risesOut_when)

theorem execResetCmd_rise (r : PribyReq) (s : State) : RisesOut s (execResetCmd r s) := by
  unfold execResetCmd
  repeat' (first
    | with_reducible exact Rises.refl _
    | with_reducible apply Rises.trans ?_ (State.priby_rise ..)
    | with_reducible apply risesOut_when)

theorem execRetireCore_rise (r : PribyReq) (s : State) : RisesOut s (execRetireCore r s) := by
  unfold execRetireCore
  repeat' (first
    | with_reducible exact Rises.refl _
    | with_reducible apply Rises.trans ?_ (State.priby_rise ..)
    | with_reducible apply risesOut_when)

theorem execRestoreDefaults_rise (r : PribyReq) (s : State) : RisesOut s (execRestoreDefaults r s) := by
  unfold execRestoreDefaults
  repeat' (first
    | with_reducible exact Rises.refl _
    | with_reducible apply Rises.trans ?_ (State.priby_rise ..)
    | with_reducible apply risesOut_when)

theorem execAlertClear_rise (r : PribyReq) (s : State) : RisesOut s (execAlertClear r s) := by
  unfold execAlertClear
  repeat' (first
    | with_reducible exact Rises.refl _
    | with_reducible apply Rises.trans ?_ (State.priby_rise ..)
    | with_reducible apply risesOut_when)

theorem execProtectClear_rise (r : PribyReq) (s : State) : RisesOut s (execProtectClear r s) := by
  unfold execProtectClear
  repeat' (first
    | with_reducible exact Rises.refl _
    | with_reducible apply Rises.trans ?_ (State.priby_rise ..)
    | with_reducible apply risesOut_when)

theorem execDumpCancel_rise (r : PribyReq) (s : State) : RisesOut s (execDumpCancel r s) := by
  unfold execDumpCancel
  repeat' (first
    | with_reducible exact Rises.refl _
    | with_reducible apply Rises.trans ?_ (State.priby_rise ..)
    | with_reducible apply risesOut_when)

theorem execDumpSuspend_rise (r : PribyReq) (s : State) : RisesOut s (execDumpSuspend r s) := by
  unfold execDumpSuspend
  repeat' (first
    | with_reducible exact Rises.refl _
    | with_reducible apply Rises.trans ?_ (State.priby_rise ..)
    | with_reducible apply risesOut_when)

theorem execDumpResume_rise (r : PribyReq) (s : State) : RisesOut s (execDumpResume r s) := by
  unfold execDumpResume
  repeat' (first
    | with_reducible exact Rises.refl _
    | with_reducible apply Rises.trans ?_ (State.priby_rise ..)
    | with_reducible apply risesOut_when)

theorem execFwActivate_rise (r : PribyReq) (s : State) : RisesOut s (execFwActivate r s) := by
  unfold execFwActivate
  repeat' (first
    | with_reducible exact Rises.refl _
    | with_reducible apply Rises.trans ?_ (State.priby_rise ..)
    | with_reducible apply risesOut_when)

theorem execFwConfirm_rise (r : PribyReq) (s : State) : RisesOut s (execFwConfirm r s) := by
  unfold execFwConfirm
  repeat' (first
    | with_reducible exact Rises.refl _
    | with_reducible apply Rises.trans ?_ (State.priby_rise ..)
    | with_reducible apply risesOut_when)

theorem execFwTrialAbandon_rise (r : PribyReq) (s : State) : RisesOut s (execFwTrialAbandon r s) := by
  unfold execFwTrialAbandon
  repeat' (first
    | with_reducible exact Rises.refl _
    | with_reducible apply Rises.trans ?_ (State.priby_rise ..)
    | with_reducible apply risesOut_when)

theorem execStageSuspend_rise (r : PribyReq) (s : State) : RisesOut s (execStageSuspend r s) := by
  unfold execStageSuspend
  repeat' (first
    | with_reducible exact Rises.refl _
    | with_reducible apply Rises.trans ?_ (State.priby_rise ..)
    | with_reducible apply risesOut_when)

theorem execStageResume_rise (r : PribyReq) (s : State) : RisesOut s (execStageResume r s) := by
  unfold execStageResume
  repeat' (first
    | with_reducible exact Rises.refl _
    | with_reducible apply Rises.trans ?_ (State.priby_rise ..)
    | with_reducible apply risesOut_when)

theorem execStageCancel_rise (r : PribyReq) (s : State) : RisesOut s (execStageCancel r s) := by
  unfold execStageCancel
  repeat' (first
    | with_reducible exact Rises.refl _
    | with_reducible apply Rises.trans ?_ (State.priby_rise ..)
    | with_reducible apply risesOut_when)

theorem State.resumeBoot_rise (s : State) : Rises s (State.resumeBoot s) := by
  unfold State.resumeBoot
  repeat' (first
    | with_reducible exact Rises.refl _
    | with_reducible apply Rises.trans ?_ (State.bootRom_rise ..)
    | with_reducible apply Rises.trans ?_ (State.bootMemory_kept ..).rises
    | with_reducible apply Rises.trans ?_ (State.bootReady_kept ..).rises
    | with_reducible apply Rises.trans ?_ (State.setPll_kept ..).rises
    | with_reducible apply rises_fold
    | intro _
    | with_reducible apply rises_ite)

theorem State.warmDone_rise (s : State) (r : ResetRun) : Rises s (State.warmDone s r) := by
  unfold State.warmDone
  repeat' (first
    | with_reducible exact Rises.refl _
    | with_reducible apply Rises.trans ?_ (State.retireDone_kept ..).rises
    | with_reducible apply Rises.trans ?_ (State.corePlls_kept ..).rises
    | with_reducible apply Rises.trans ?_ (State.outOfService_kept ..).rises
    | with_reducible apply Rises.trans ?_ (State.resumeBoot_rise ..)
    | with_reducible apply rises_ite
    | with_reducible apply rises_fold
    | fail_if_no_progress (with_reducible apply rises_mk)
    | intro _)

theorem State.finishReset_rise (s : State) (r : ResetRun) : Rises s (State.finishReset s r) := by
  unfold State.finishReset
  repeat' (first
    | with_reducible exact Rises.refl _
    | with_reducible apply Rises.trans ?_ (State.absorbedDone_kept ..).rises
    | with_reducible apply Rises.trans ?_ (State.event_kept ..).rises
    | with_reducible apply Rises.trans ?_ (State.bootReady_kept ..).rises
    | with_reducible apply Rises.trans ?_ (State.retest_kept ..).rises
    | with_reducible apply Rises.trans ?_ (State.coreDone_kept ..).rises
    | with_reducible apply Rises.trans ?_ (State.warmDone_rise ..)
    | with_reducible apply rises_ite
    | fail_if_no_progress (with_reducible apply rises_mk)
    | fail_if_no_progress extract_lets
    | split)

theorem execResetComplete_rise (t : ResetTarget) (s : State) : RisesOut s (execResetComplete t s) := by
  unfold execResetComplete
  repeat' (first
    | with_reducible exact Rises.refl _
    | with_reducible apply Rises.trans ?_ (State.finishReset_rise ..)
    | with_reducible apply risesOut_when
    | with_reducible apply risesOut_next
    | split)

end Sys2Proof.Machine
end

