-- ==== Sys2Proof/Laws/Serve.lean ====
section
/-!
SUPPORT. Everything a regulator's service, the choice of a request to issue, and the choice of a spare frame can answer.
-/
namespace Sys2Proof.Machine

open Sys2Proof

/-- A request served is served in the floor class, or in the spare class in its turn with capacity left (R245). -/
theorem State.regServe_cases {s t : State} {i x n : Nat} {out turn spareOnly : Bool} (h : s.regServe i x n out turn spareOnly = some t) :
    (spareOnly = false ∧ s.floorHas i x n = true ∧ t = s.serveFloor i x n out) ∨
    (s.ceilHas i x n = true ∧ turn = true ∧ s.capacityLeft x n out = true ∧ t = s.serveSpare i x n out) := by
  unfold State.regServe at h
  split at h
  · rename_i g
    simp only [Bool.and_eq_true, Bool.not_eq_true'] at g
    exact .inl ⟨g.1, g.2, (Option.some.inj h).symm⟩
  · split at h
    · rename_i g
      simp only [Bool.and_eq_true] at g
      exact .inr ⟨g.1.1, g.1.2, g.2, (Option.some.inj h).symm⟩
    · cases h

/-- The request that issues is one of those offered, and its regulator serves it (R246). -/
theorem State.pickIssue_cases {s t : State} {l : List (Nat × MemReq)} {i : Nat} {r : MemReq} (h : s.pickIssue l = some (i, r, t)) :
    ∃ q, (i, q) ∈ l ∧ r = { q with floor := s.floorHas q.slot q.res lineBytes } ∧
      s.regServe q.slot q.res lineBytes q.write (s.lineTurn q.slot q.res) = some t := by
  induction l with
  | nil => cases h
  | cons e l ih =>
    obtain ⟨j, q⟩ := e
    unfold State.pickIssue at h
    split at h
    · rename_i u hu
      simp only [Option.some.injEq, Prod.mk.injEq] at h
      obtain ⟨rfl, rfl, rfl⟩ := h
      exact ⟨q, List.mem_cons_self, rfl, hu⟩
    · obtain ⟨p, hp, hr, ht⟩ := ih h
      exact ⟨p, List.mem_cons_of_mem _ hp, hr, ht⟩

/-- A request offered to the regulators is in the queue, and its slot and its thread have room (R271 to R275, R289). -/
theorem State.issuable_mem {s : State} {c : Nat} {seen l : List MemReq} {k i : Nat} {r : MemReq} (h : (i, r) ∈ s.issuable c seen l k) :
    k ≤ i ∧ l[i - k]? = some r ∧ s.mayIssue c r = true ∧ s.threadRoom c r = true := by
  induction l generalizing seen k with
  | nil => cases h
  | cons q l ih =>
    have tail : (i, r) ∈ s.issuable c (seen ++ [q]) l (k + 1) → k ≤ i ∧ (q :: l)[i - k]? = some r ∧ s.mayIssue c r = true ∧ s.threadRoom c r = true := by
      intro g
      obtain ⟨h1, h2, h3⟩ := ih g
      have e : i - k = (i - (k + 1)) + 1 := by omega
      exact ⟨by omega, by rw [e]; simpa using h2, h3⟩
    unfold State.issuable at h
    dsimp only at h
    split at h
    · rename_i g
      simp only [Bool.and_eq_true] at g
      rcases List.mem_cons.mp h with e | h
      · obtain ⟨rfl, rfl⟩ := Prod.mk.inj e
        exact ⟨Nat.le_refl _, by simp, g.1.2, g.2⟩
      · exact tail h
    · exact tail h

end Sys2Proof.Machine
end

