-- ==== Sys2Proof/Laws/Walk.lean ====
section
/-!
SUPPORT. The walk of a partition's page tables finds the leaves they are made from, and an entry word says the leaf it was made from.
-/
namespace Sys2Proof.Machine

open Sys2Proof

/-- A leaf word holds every field of its leaf. -/
theorem Leaf.word_leaf (l : Leaf) (h : l.frame < 2 ^ 32) : leafOfWord l.big l.word = l := by
  obtain ⟨v, b, t, f, ro, p, sh, m⟩ := l
  simp only at h
  cases v <;> cases t <;> cases ro <;> cases p <;> cases sh <;> cases m <;>
    simp [leafOfWord, Leaf.word, bitVal, bitAt, bits] <;> omega

/-- A valid leaf is listed on its side. -/
theorem tabGet_mem {t : Tab Leaf} {page : Nat} (h : (tabGet {} t page).valid = true) : (page, tabGet {} t page) ∈ t := by
  induction t with
  | nil => simp [tabGet, tabFind] at h
  | cons e t ih =>
    obtain ⟨k, l⟩ := e
    by_cases hk : k = page
    · subst hk; simp [tabGet, tabFind]
    · have e1 : tabGet {} ((k, l) :: t) page = tabGet {} t page := by simp [tabGet, tabFind, hk]
      rw [e1] at h ⊢
      exact List.mem_cons_of_mem _ (ih h)

/-- The tables above a valid leaf are there. -/
theorem Part.anyLeaf_of (p : Part) (side1 : Bool) (page lo n : Nat) (h : (p.leaf side1 page).valid = true) (h1 : lo ≤ page) (h2 : page < lo + n) :
    p.anyLeaf side1 lo n = true := by
  unfold Part.anyLeaf
  rw [List.any_eq_true]
  exact ⟨_, tabGet_mem h, by simpa [h1, h2, Part.leaf] using h⟩

theorem Part.anyLeaf_level (p : Part) (side1 : Bool) (page n : Nat) (hn : 0 < n) (h : (p.leaf side1 page).valid = true) :
    p.anyLeaf side1 (page / n * n) n = true :=
  p.anyLeaf_of side1 page _ _ h (Nat.div_mul_le_self page n) (by
    have h1 := Nat.div_add_mod page n
    have h2 := Nat.mod_lt page hn
    rw [Nat.mul_comm] at h1; omega)

/-- The walk of a mapped page ends at its leaf (R263, R266). -/
theorem Part.walkLeaf_mapped (slot : Nat) (p : Part) (side1 : Bool) (page : Nat) (h : (p.leaf side1 page).valid = true) :
    p.walkLeaf slot side1 page = some (p.leaf side1 page) := by
  have h0 : (p.anyLeaf false (page / levelPages 0 * levelPages 0) (levelPages 0) || p.anyLeaf true (page / levelPages 0 * levelPages 0) (levelPages 0)) = true := by
    cases side1 <;> simp [p.anyLeaf_level _ page (levelPages 0) (by decide) h]
  have h1 : (p.anyLeaf false (page / levelPages 1 * levelPages 1) (levelPages 1) || p.anyLeaf true (page / levelPages 1 * levelPages 1) (levelPages 1)) = true := by
    cases side1 <;> simp [p.anyLeaf_level _ page (levelPages 1) (by decide) h]
  have h2 := p.anyLeaf_level side1 page (levelPages 2) (by decide) h
  have e0 : ∃ x, p.entryAt slot side1 0 page = .table x ∧ x.valid = true := ⟨_, rfl, h0⟩
  have e1 : ∃ x, p.entryAt slot side1 1 page = .table x ∧ x.valid = true := ⟨_, rfl, h1⟩
  obtain ⟨x0, e0, v0⟩ := e0
  obtain ⟨x1, e1, v1⟩ := e1
  unfold Part.walkLeaf Part.walk
  by_cases hb : ((p.leaf side1 (page / levelPages 2 * levelPages 2)).valid && (p.leaf side1 (page / levelPages 2 * levelPages 2)).big) = true
  · have e2 : p.entryAt slot side1 2 page = .leaf (p.leaf side1 (page / levelPages 2 * levelPages 2)) := if_pos hb
    have hv := (Bool.and_eq_true _ _ ▸ hb).1
    simp [Part.walkFrom, e0, v0, e1, v1, e2, hv, List.getLast?_cons]
  · have e2 : ∃ x, p.entryAt slot side1 2 page = .table x ∧ x.valid = true := ⟨_, if_neg hb, h2⟩
    obtain ⟨x2, e2, v2⟩ := e2
    have e3 : p.entryAt slot side1 3 page = .leaf (p.leaf side1 page) := rfl
    simp [Part.walkFrom, e0, v0, e1, v1, e2, v2, e3, h, List.getLast?_cons]

/-- A walk makes at most four reads (R266). -/
theorem Part.walkFrom_length (slot : Nat) (p : Part) (side1 : Bool) (page : Nat) (fuel level table : Nat) :
    (p.walkFrom slot side1 page fuel level table).length ≤ fuel := by
  induction fuel generalizing level table with
  | zero => simp [Part.walkFrom]
  | succ n ih =>
    unfold Part.walkFrom
    dsimp only
    split
    · simp
    · split
      · simpa using ih _ _
      · simp

end Sys2Proof.Machine
end

