-- ==== Sys2Proof/WellFormed.lean ====
section
/-!
DEFINITION. What an event can carry: lengths a bus or a packet allows. An event outside these cannot arrive at the block;
exec gives it an effect all the same.
-/
namespace Sys2Proof

/-- A BAR4 write carries at most the 512 bytes of R134's largest payload, and at least one. -/
def wfWrite (bs : List Byte) : Bool := decide (0 < bs.length) && decide (bs.length ≤ 512)
/-- A BAR4 read asks for at most the 4,096 bytes of a PCI Express read request, and at least one. -/
def wfRead (n : Nat) : Bool := decide (0 < n) && decide (n ≤ 4096)
/-- A Silk payload is at most 8,192 bytes (R438). -/
def wfSilk (p : SilkPkt) : Bool := decide (p.payload.length ≤ 8192)
/-- A data object of R162 holds at most 65,536 bytes. -/
def wfObject (bs : List Byte) : Bool := decide (bs.length ≤ 65536)
/-- A datagram of the management or service lane holds at most the bytes of an IP MTU of 1,500 (R436). -/
def wfDatagram (bs : List Byte) : Bool := decide (bs.length ≤ 1472)

/-- The check of a command's operands. -/
def Instr.wellFormed : Instr → Bool
  | .bar4Write _ _ _ bs => wfWrite bs
  | .bar4Read _ _ _ n => wfRead n
  | .data p => wfSilk p
  | .ack p => wfSilk p
  | .keepalive p => wfSilk p
  | .depart p => wfSilk p
  | .openPkt p => wfSilk p
  | .openAck p => wfSilk p
  | .closePkt p => wfSilk p
  | .getVersion _ r => wfObject r
  | .getCapabilities _ r => wfObject r
  | .negotiateAlgorithms _ r => wfObject r
  | .getDigests _ r => wfObject r
  | .getCertificate _ r => wfObject r
  | .challenge _ r => wfObject r
  | .getMeasurements _ r => wfObject r
  | .pribyRead r => wfDatagram r.bytes
  | .pribyWrite r _ => wfDatagram r.bytes
  | .creifBegin p => wfDatagram p
  | .creifData p _ => wfDatagram p
  | .creifEnd p _ => wfDatagram p
  | .creifAck p => wfDatagram p
  | .creifAbort p => wfDatagram p
  | _ => true

end Sys2Proof
end

