-- ==== Sys2Proof/Tests/Slice0.lean ====
section
/-!
SUPPORT. Tests: the operand checks, small steps and values worked out by hand, and for each statement with hypotheses a
state and operands that meet them.
-/
namespace Sys2Proof.Tests
set_option Elab.async false
open Sys2Proof Sys2Proof.Machine Sys2Proof.Safety

/-- A module in service: boot done, host ports up, every function bound to slot 0. -/
def up : State := { State.reset with
  power := { state := .running }
  boot := { stage := 10, envelopeLock := true, admitOpen := true, trimValid := true, cxlEnable := true }
  ports := [(0, { enabled := true, linkUp := true }), (1, { enabled := true, linkUp := true })] }

theorem ok_of {α ε : Type} {x : Except ε α} {r : α} (h : x.toOption = some r) : x = .ok r := by cases x <;> simp_all [Except.toOption]
theorem err_of {α ε : Type} {x : Except ε α} {e : ε} (h : (match x with | .error y => some y | .ok _ => none) = some e) : x = .error e := by
  cases x <;> simp_all

/-! ## Operand checks: one ill-formed term for each, refused -/

theorem test_wf_write : (Instr.bar4Write 0 0 0 []).wellFormed = false ∧ (Instr.bar4Write 0 0 0 (List.replicate 513 1)).wellFormed = false := by decide +kernel
theorem test_wf_read : (Instr.bar4Read 0 0 0 4097).wellFormed = false ∧ (Instr.bar4Read 0 0 0 0).wellFormed = false := by decide
theorem test_wf_silk (k : SilkPkt) (h : k.payload = List.replicate 8193 0) : (Instr.data k).wellFormed = false := by
  rw [Instr.wellFormed, wfSilk, h, List.length_replicate]; decide
theorem test_wf_object : (Instr.getVersion 0 (List.replicate 65537 0)).wellFormed = false := by simp only [Instr.wellFormed, wfObject, List.length_replicate]; decide
theorem test_wf_datagram : (Instr.creifBegin (List.replicate 1473 0)).wellFormed = false := by simp only [Instr.wellFormed, wfDatagram, List.length_replicate]; decide

/-! ## Witnesses: the machine as a whole, power and reset -/

/-- The module with a supply, not yet out of cold reset. -/
def held : State := { State.reset with power := { state := .coldReset }, fuses := {} }

theorem witness_StepRunsFront : ({ up with pending := [.getstatus, .crystalLoss] } : State).pending = [.getstatus, .crystalLoss] := by decide +kernel
theorem witness_IdleStepCountsTime : up.pending = [] ∧ up.power.state ≠ .unpowered ∧ up.power.state ≠ .coldReset ∧ up.power.crystalHold = false := by
  decide +kernel
theorem witness_FusesOnlyRise : ∃ t, step { up with fuses := { up.fuses with rollback := 63 } } = .next t ∧ t.fuses.rollback = 63 := ⟨_, rfl, rfl⟩

theorem witness_ColdResets_start : State.reset.power.state = .unpowered ∧ 46000 < (46001 : W32).toNat := by decide +kernel
theorem witness_ColdResets_sources : up.power.state ≠ .unpowered ∧ (39999 : W32).toNat < 40000 ∧ 61000 < (61001 : W32).toNat := by decide +kernel
theorem witness_ColdResets_basePll :
    let s := up.setPll (.base 0) { running := true, released := true }
    s.power.state ≠ .unpowered ∧ (s.pll (basePll 0)).released = true := by decide +kernel
theorem witness_ColdResets_held : held.power.state = .coldReset ∧ held.boot.halt = 0 ∧ held.boot.stage < 3 ∧ held.phys.trimFails < 3 ∧
    held.power.vinHold = false ∧ held.power.crystalHold = false := by decide +kernel
theorem witness_ColdResets_vin :
    let s : State := { held with power := { held.power with vinHold := true } }
    s.power.state = .coldReset ∧ s.boot.halt = 0 ∧ s.boot.stage < 3 ∧ s.phys.trimFails < 3 ∧ s.power.vinHold = true ∧ s.power.crystalHold = false ∧
      s.pins.modResetLow = false ∧ 46000 ≤ (46000 : W32).toNat ∧ (60000 : W32).toNat ≤ 60000 ∧ s.power.vinClear ≤ s.time := by decide +kernel
theorem witness_ColdResets_crystal :
    let s : State := { held with power := { held.power with crystalHold := true } }
    s.power.state = .coldReset ∧ s.boot.halt = 0 ∧ s.boot.stage < 3 ∧ s.phys.trimFails < 3 ∧ s.power.crystalHold = true ∧ s.power.vinHold = false ∧
      s.pins.modResetLow = false := by decide +kernel

theorem witness_SupplyClocksAndHeat_supply :
    (up.power.state ≠ .unpowered ∧ (43999 : W32).toNat < 44000 ∧ up.power.warnActive = false) ∧
    (let s : State := { up with time := 2000, power := { up.power with warnActive := true, warnClear := 2000 } }
     s.power.state ≠ .unpowered ∧ s.power.warnActive = true ∧ 44000 ≤ (44000 : W32).toNat ∧ s.power.warnClear ≤ s.time) := by decide +kernel
theorem witness_SupplyClocksAndHeat_plls :
    let s := (((((up.setPll (.core 15) { running := true, released := true }).setPll .mgmt { running := true, released := true }).setPll
      (.pcie 1) { running := true, released := true }).setPll (.eth 2) { running := true, released := true }).setPll .cxl { running := true, released := true }).setPll
        (.eth 3) { running := true, released := false }
    s.power.state ≠ .unpowered ∧ s.resets = [] ∧ (s.pll (.core 15)).released = true ∧ (s.pll .mgmt).released = true ∧ (s.pll (.pcie 1)).released = true ∧
      (s.pll (.eth 2)).released = true ∧ (s.pll .cxl).released = true ∧ s.groupPorts 2 = [2] ∧
      s.boot.trimValid = true ∧ (s.pll (.eth 3)).running = true ∧ (s.pll (.eth 3)).released = false ∧ (s.pll (.base 0)).released = false := by decide +kernel
theorem witness_SupplyClocksAndHeat_sfdp :
    let s0 : State := { up with boot := { up.boot with stage := 4 }, phys := { up.phys with sfdpOk := false } }
    let s := s0.setPll (.base 0) { running := true, released := false }
    s.power.state ≠ .unpowered ∧ s.boot.stage = 4 ∧ s.boot.halt = 0 ∧ s.boot.trimValid = true ∧ (s.pll (.base 0)).running = true ∧
      (s.pll (.base 0)).released = false ∧ s.inReset .warm = false ∧ s.phys.sfdpOk = false := by decide +kernel
theorem witness_SupplyClocksAndHeat_heat :
    up.power.state = .running ∧ 100000 ≤ (100000 : W32).toInt ∧ up.power.thermalArmed = true ∧ (94999 : W32).toInt < 95000 ∧ 110000 ≤ (110000 : W32).toInt ∧
      up.resets = [] ∧ (99999 : W32).toInt < 100000 ∧
      (let s : State := { up with time := 1000, resets := [{ target := .warm, causes := [0x50], hold := true }] }
       s.power.state = .running ∧ s.stopped = true ∧ s.power.hotAt + 1000 ≤ s.time) := by decide +kernel

theorem witness_HostPorts_resets :
    up.resets = [] ∧ up.power.state ≠ .unpowered ∧ up.boot.stage = 10 ∧ (up.port 1).enabled = true ∧ up.perstIgnored 1 = false ∧ up.boot.halt = 0 := by
  decide +kernel

/-- The module with virtual functions of port 0 allowed. -/
def vfUp : State := { up with
  boot := { up.boot with vfCount := [(0, 15)], env := [(32, 0x0F00)] }
  ports := [(0, { enabled := true, linkUp := true, numVfs := 15, vfEnable := true }), (1, { enabled := true, training := true })] }

theorem witness_HostPorts_vf :
    vfUp.resets = [] ∧ vfUp.power.state ≠ .unpowered ∧ vfUp.boot.stage = 10 ∧ (vfUp.port 0).enabled = true ∧ vfUp.boot.halt = 0 ∧ (15 : FnNo).val ≠ 0 ∧
      vfUp.fnPresent (fnKey 0 15) = true ∧ vfUp.fnSlot (fnKey 0 15) = some 1 ∧ (14 : FnNo).val ≠ 0 ∧ vfUp.fnPresent (fnKey 0 14) = true ∧
      vfUp.fnSlot (fnKey 0 14) = none := by decide +kernel
theorem witness_HostPorts_link :
    ((vfUp.port 1).enabled = true ∧ (vfUp.port 1).linkUp = false) ∧ (vfUp.power.state ≠ .unpowered ∧ (vfUp.port 1).training = true) ∧
    (vfUp.hostOpen = true ∧ (vfUp.port 0).enabled = true ∧ (15 : Fin 16).val ≤ tabGet 0 vfUp.boot.vfCount 0) := by decide +kernel

theorem witness_CxlLinksAndBlocks_cxl :
    (let s : State := { up with power := { up.power with cxlSplit := true } }
     8 ≤ s.boot.stage ∧ s.boot.cxlEnable = true ∧ s.expander 1 = {} ∧ 0 < 1 ∧ s.power.cxlSplit = true) ∧
    (up.power.state ≠ .unpowered ∧ up.boot.cxlEnable = true ∧ (up.expanders.all fun e => !e.2.linkUp) = true) ∧
    ((up.setExpander 1 { ready := true, linkUp := true, frames := 1, total := 1 }).expander 1).linkUp = true := by decide +kernel
theorem witness_CxlLinksAndBlocks_idle :
    let s := up.setBlock 1567 { st := .active }
    (s.block 1567).st = .active ∧ 1567 < 1568 ∧ s.blockBusy 1567 = false := by decide +kernel
theorem witness_CxlLinksAndBlocks_sleep :
    let s : State := { up.setBlock 0 { st := .idle, since := 5 } with time := 5 + up.sleepAfter 0 }
    (s.block 0).st = .idle ∧ (s.block 0).waking = false ∧ s.blockHeld 0 = false ∧ (s.block 0).since + s.sleepAfter 0 ≤ s.time := by decide +kernel
theorem witness_CxlLinksAndBlocks_wake :
    let s := (up.setBlock 16 { st := .sleep, waking := true }).setBlock 1583 { st := .off, leavingOff := true }
    (s.block 16).st = .sleep ∧ (s.block 16).waking = true ∧ (s.block 1583).st = .off ∧ (s.block 1583).leavingOff = true := by decide +kernel
theorem witness_CxlLinksAndBlocks_coreOff :
    let s : State := { up.setBlock (matrixBlock 15) { st := .sleep } with time := 1000000 }
    (s.core 15).holder = none ∧ (s.core 15).unheldSince + 1000000 ≤ s.time ∧ (s.block (matrixBlock 15)).st ≠ .off := by decide +kernel

/-! ## Witnesses: the host interface -/

theorem witness_ConfigurationSpace :
    (up.hostOpen = true ∧ (up.port 1).linkUp = true ∧ up.fnPresent (fnKey 1 0) = true ∧ (up.fn (fnKey 1 0)).d3hot = false) ∧
    (vfUp.hostOpen = true ∧ (vfUp.port 0).linkUp = true ∧ vfUp.fnPresent (fnKey 0 0) = true ∧ (0 : FnNo).val = 0 ∧
      (15 : Fin 16).val ≤ tabGet 0 vfUp.boot.vfCount 0) := by decide +kernel
theorem witness_ConfigurationSpace_d0 :
    let s := up.setFn 0 { up.fn 0 with d3hot := true }
    s.hostOpen = true ∧ (s.port 0).linkUp = true ∧ s.fnPresent (fnKey 0 0) = true ∧ (s.fn 0).d3hot = true ∧ (s.fn 0).held = [] := by decide +kernel

/-- Slot 0 with an envelope: 16 cores, 64 queues, memory, flows, and floors on every regulator; its page at 64 KiB mapped to a frame
of HBM, core 0 with two bank groups held, and one expander of two frames ready. -/
def mapped : State := { up with
  boot := { up.boot with env := [(1, 0x00400010), (2, 0x10000), (4, 0x10000), (6, 0x400), (8, 0xFFFF03E8), (9, 0xFFFF03E8), (10, 0xFFFF03E8),
    (11, 0xFFFF03E8), (12, 0xFFFF03E8), (13, 0xFFFF03E8)] }
  hbmFrames := [(7, { owner := some 0 })]
  power := { up.power with blocks := [(0, { st := .active }), (16, { st := .active }), (32, { st := .active }), (33, { st := .active })] }
  expanders := [(0, { ready := true, linkUp := true, base := 0, frames := 2, total := 2 })]
  cores := [(0, { holder := some 0, groups := 3 })]
  parts := [(0, { side0 := [(1, { valid := true, frame := 7 })] })] }
theorem witness_ConfigurationSpace_bar4 : mapped.reachable (fnKey 0 0) = true ∧ mapped.fnSlot (fnKey 0 0) = some 0 ∧
    ((mapped.port 0).bar4.any fun b => b.slot == 0) = false ∧
    ∃ s1 t, mapped.regServe 0 3 2 false (mapped.hostTurn 0 3) true = some s1 ∧
      s1.vwrite none 0 ((mapped.fn (fnKey 0 0)).bar4Base + (131070 : W64).toNat % 2 ^ (mapped.fn (fnKey 0 0)).bar4Log2) [1, 2] = (t, none) ∧
      memRead t.hbm (7 * 65536 + 65534) 2 = [1, 2] := by
  refine ⟨by decide +kernel, by decide +kernel, by decide +kernel, (mapped.regServe 0 3 2 false (mapped.hostTurn 0 3) true).getD up,
    (((mapped.regServe 0 3 2 false (mapped.hostTurn 0 3) true).getD up).vwrite none 0 131070 [1, 2]).1, by decide +kernel, by decide +kernel, by decide +kernel⟩
theorem witness_ConfigurationSpace_bar4Read : ∃ s1 r, mapped.regServe 0 3 4 true (mapped.hostTurn 0 3) true = some s1 ∧ s1.vread 0 131068 4 = .ok r ∧
    r.bytes = [0, 0, 0, 0] := by
  exact ⟨(mapped.regServe 0 3 4 true (mapped.hostTurn 0 3) true).getD up, { bytes := [0, 0, 0, 0], poison := none }, by decide +kernel, ok_of (by decide +kernel), rfl⟩
/-- Slot 0 with both buckets of its host port empty. -/
theorem witness_ConfigurationSpace_bar4Wait :
    let s := { up with boot := { up.boot with env := [(11, 0x10001)] } : State }.setRegulator 0 3 { floorUsed := 262144, ceilUsed := 262144 }
    s.reachable (fnKey 0 0) = true ∧ s.fnSlot (fnKey 0 0) = some 0 ∧ ((s.port 0).bar4.any fun b => b.slot == 0) = false ∧
      (s.regServe 0 3 2 false (s.hostTurn 0 3) true).isNone = true := by decide +kernel

theorem witness_SlotAndQueueRegisters : up.reachable (fnKey 0 0) = true ∧ (up.queue (fnKey 0 0) 63).active = false ∧ 2 ≠ 4 ∧ 2 ≠ 8 := by decide +kernel

/-- Queue 0 of the function enabled: 64 records, 64 completion records at 0x200000 of host memory. -/
def queued : State := up.setQueue 0 0 { enable := true, active := true, lSqBase := 0x100000, lCqBase := 0x200000, lSqLog2 := 6, lCqLog2 := 6 }

theorem witness_SlotAndQueueRegisters_enable :
    let s0 : State := { up with boot := { up.boot with env := [(1, 0x400000)] } }
    let s := s0.setQueue 0 63 { sqBase := 0x100000, cqBase := 0x200000 }
    let ctrl : W32 := 0x02040001
    s.reachable (fnKey 0 0) = true ∧ bitAt ctrl.toNat 0 = true ∧ bitAt ctrl.toNat 1 = false ∧ (s.queue (fnKey 0 0) 63).active = false ∧
      (s.queue (fnKey 0 0) 63).irqEn = false ∧ s.enableFault (fnKey 0 0) 63 (ctrl.toNat / 2 ^ 16 % 32) (ctrl.toNat / 2 ^ 21 % 32) = 0 := by decide +kernel
theorem witness_SlotAndQueueRegisters_running :
    queued.reachable (fnKey 0 0) = true ∧
    (bitAt (0 : W32).toNat 0 = false ∧ bitAt (0 : W32).toNat 1 = false ∧ (queued.queue (fnKey 0 0) 0).irqEn = false ∧
      (queued.queue (fnKey 0 0) 0).outstanding = 0) ∧
    (bitAt (0x1FF : W32).toNat 1 = true ∧ bitAt (0x1FF : W32).toNat 0 = true ∧ (queued.queue (fnKey 0 0) 0).active = true ∧
      (queued.queue (fnKey 0 0) 0).unsignalled = 0) ∧
    queued.fnReset (fnKey 0 0) = false ∧
    ((63 : W32).toNat < 2 ^ 16 ∧ (queued.queue (fnKey 0 0) 0).tailOk (63 : W32).toNat = true ∧ (63 : W32).toNat ≠ (queued.queue (fnKey 0 0) 0).sqTail) ∧
    (queued.queue (fnKey 0 0) 0).headOk (0 : W32).toNat = true ∧ (queued.queue (fnKey 0 0) 1).takes queued.time = false := by decide +kernel

theorem witness_RecordsAndInterrupts :
    (let s := queued.setQueue 0 0 { queued.queue 0 0 with doorbells := [(2, 0)], sqTail := 2 }
     (s.queue (fnKey 0 0) 0).active = true ∧ (s.queue (fnKey 0 0) 0).enable = true ∧ (s.queue (fnKey 0 0) 0).room = true ∧ s.fnReset (fnKey 0 0) = false ∧
       (s.port 0).linkUp = true ∧ (s.port 0).tagFree = true ∧ (s.queue (fnKey 0 0) 0).doorbells = [(2, 0)] ∧ s.bar4Before (fnKey 0 0) 0 = false) ∧
    (let s : State := { (queued.setQueue 0 0 { queued.queue 0 0 with irqEn := true, vector := 127, delayUs := 3, unsignalled := 1, delayFrom := 2 }) with time := 5 }
     let s := s.setFn 0 { s.fn 0 with msixEnable := true, msixTable := [(127, 0)] }
     (s.queue (fnKey 0 0) 0).irqEn = true ∧ 0 < (s.queue (fnKey 0 0) 0).unsignalled ∧
       (s.queue (fnKey 0 0) 0).delayFrom + (s.queue (fnKey 0 0) 0).delayUs.toNat ≤ s.time ∧ (s.fn (fnKey 0 0)).d3hot = false ∧
       (s.fn (fnKey 0 0)).msixEnable = true ∧ (s.fn (fnKey 0 0)).msixMask = false ∧
       bitAt ((s.fn (fnKey 0 0)).msixEntry (s.queue (fnKey 0 0) 0).vector.toNat).toNat 96 = false) := by decide +kernel

theorem witness_RingsAndMailboxes_rings :
    up.reachable (fnKey 0 0) = true ∧
    (bitAt (0x80000004 : W32).toNat 31 = true ∧ (up.fn (fnKey 0 0)).ring.active = false ∧ 4 ≤ (0x80000004 : W32).toNat % 32 ∧
      (0x80000010 : W32).toNat % 32 ≤ 16) ∧
    bitAt (0x7FFFFFFF : W32).toNat 31 = false ∧ up.fnSlot (fnKey 0 0) = some 0 ∧ (0x7FFFFFFF : W32).toNat < 2 ^ 31 ∧ (up.part 0).twins = [] ∧
    (let r : EvRing := { active := true, lLog2 := 4, head := 14, tail := 2 }
     let s := up.setFn 0 { up.fn 0 with ring := r }
     s.reachable (fnKey 0 0) = true ∧ (2 : W32).toNat % 2 ^ 16 < 2 ^ r.lLog2 ∧
       ((2 : W32).toNat % 2 ^ 16 + 2 ^ r.lLog2 - r.head) % 2 ^ r.lLog2 ≤ (r.tail + 2 ^ r.lLog2 - r.head) % 2 ^ r.lLog2) := by decide +kernel
/-- A channel of function 1 that function 0's channel 2 has a message for. -/
def mail : State := { up with
  boot := { up.boot with vfCount := [(0, 15)] }
  ports := [(0, { enabled := true, linkUp := true, numVfs := 15, vfEnable := true })]
  fns := [(0, { chans := [(2, { state := .pending, capMsg := [(1, 7)], capDest := (0, 1, 3), goTime := 9 }), (5, { full := true, rxFrom := some (0, 1, 6) })] }),
    (1, { chans := [(6, { state := .delivered })] })] }
theorem witness_RingsAndMailboxes_go :
    let c : W32 := 0x80000103
    mail.reachable (fnKey 0 0) = true ∧ bitAt c.toNat 31 = true ∧ bitAt c.toNat 30 = false ∧ (mail.chan (fnKey 0 0) 15).state = .idle ∧
      mail.routeOk (fnKey 0 0) (fnKey (bits c.toNat 12 1) (bits c.toNat 8 4)) = true ∧ mail.fnPresent (fnKey (bits c.toNat 12 1) (bits c.toNat 8 4)) = true ∧
      mail.fnReset (fnKey (bits c.toNat 12 1) (bits c.toNat 8 4)) = false := by decide +kernel
theorem witness_RingsAndMailboxes_messages :
    (mail.reachable (fnKey 0 0) = true ∧ (mail.chan (fnKey 0 0) 2).state = .pending ∧ (mail.chan (fnKey 0 0) 2).irqEn = false) ∧
    ((mail.chan (fnKey 0 1) 3).full = false ∧ (mail.chan (fnKey 0 1) 3).tokenEn = false ∧ (mail.chan (fnKey 0 1) 3).rxIrqEn = false ∧
      minBy (·.1) (mail.senders (fnKey 0 1) 3) = some (9, 0, 2)) ∧
    ((mail.chan (fnKey 0 0) 5).full = true ∧ (0xFEFF : W32).toNat % 2 ^ 16 < 0xFF00 ∧ (mail.chan (fnKey 0 0) 5).rxFrom = some (0, 1, 6) ∧
      (mail.chan (fnKey 0 1) 6).irqEn = false) := by decide +kernel

theorem ok_some {α ε : Type} {x : Except ε α} (h : x.toOption.isSome = true) : ∃ r, x = .ok r := by
  cases x <;> simp_all [Except.toOption]
theorem ok_get {α ε : Type} {x : Except ε α} (h : x.toOption.isSome = true) : x = .ok (x.toOption.get h) := by
  cases x with
  | error => exact absurd h (by simp [Except.toOption])
  | ok => rfl
theorem okok_some {α ε φ : Type} {x : Except ε (Except φ α)} (h : (x.toOption.bind Except.toOption).isSome = true) : ∃ r, x = .ok (.ok r) := by
  rcases x with _ | _ | r <;> simp_all [Except.toOption]
theorem some_get {α : Type} {x : Option α} (h : x.isSome = true) : x = some (x.get h) := by cases x <;> simp_all
theorem pair_of {α β : Type} {x : α × Option β} (d : β) (h : x.2.isSome = true) : x = (x.1, some (x.2.getD d)) := by
  rcases x with ⟨a, _ | b⟩ <;> simp_all
theorem pair_get {α β : Type} {x : α × Option β} {b : β} (h : x.2 = some b) : x = (x.1, some b) := by rcases x with ⟨a, _⟩; simp_all
theorem pair_true {α β : Type} {x : α × β} {b : β} (h : x.2 = b) : x = (x.1, b) := by rcases x with ⟨a, _⟩; simp_all
theorem pair_ok {α β ε : Type} {x : α × Option (Except ε β)} (h : (x.2.bind Except.toOption).isSome = true) :
    x = (x.1, some (.ok ((x.2.bind Except.toOption).get h))) := by
  rcases x with ⟨a, _ | _ | b⟩
  · exact absurd h (by simp)
  · exact absurd h (by simp [Except.toOption])
  · rfl
theorem ready_of {s : State} {id op : Nat} {c : Cmd} (h : s.cmd id = some c ∧ c.opcode = op ∧ s.canStart c = true) : ready s id op c := h
theorem clean_of {c : Cmd} (h : c.poisoned = none ∧ c.late = none) : clean c := h
theorem running_of {s : State} {id : Nat} {c : Cmd} (h : s.cmd id = some c ∧ c.phase = .running) : running s id := ⟨c, h⟩
theorem running_get {s : State} {id : Nat} (h : ((s.cmd id).any fun c => c.phase == .running) = true) : running s id := by
  cases e : s.cmd id with
  | none => simp [e] at h
  | some c => exact ⟨c, e, by simpa [e] using h⟩

/-- A record: its opcode, a deadline of 1,000 µs, and fields at byte offsets. -/
def recOf (op : Nat) (fields : List (Nat × Nat)) : Rec := BitVec.ofNat 1024 (op + 1000 * 2 ^ 64 + fields.foldl (fun n e => n + e.2 * 2 ^ (8 * e.1)) 0)
/-- Command 0 of slot 0, waiting. -/
def given (op : Nat) (fields : List (Nat × Nat)) : Cmd :=
  { id := 0, slot := 0, fn := 0, queue := 0, record := recOf op fields, doorbell := 0, admitted := 0, deadline := some 1000 }
/-- A state with that command alone. -/
def holding (s : State) (c : Cmd) : State := { s with cmds := [c] }
/-- Bytes placed at an offset of slot 0's page, above those already there. -/
def placed (s : State) (off : Nat) (bs : List Byte) : State :=
  { s with hbm := s.hbm ++ (bs.zipIdx.map fun e => (7 * 65536 + off + e.2, e.1)).filter fun e => e.2 != 0 }

/-! ## Witnesses: admission and commands without a unit -/

/-- A NOP and a record with a bad deadline, read and not decided. -/
def asking : State := { queued with waiting := [{ fn := 0, queue := 0, record := recOf 0x01 [], doorbell := 0 }] }
theorem witness_RecordsDecided_accepted :
    asking.deviceReset = false ∧ asking.fnSlot 0 = some 0 ∧ (asking.decidedUs = asking.time → asking.decided < 8) ∧
    asking.tokenComing 0 { fn := 0, queue := 0, record := recOf 0x01 [], doorbell := 0 } = false ∧
    asking.tokenLikely 0 { fn := 0, queue := 0, record := recOf 0x01 [], doorbell := 0 } = false ∧ recordBad (recOf 0x01 []) = none ∧
    asking.entry 0x8000 1 = 0 ∧ asking.boot.admitOpen = true ∧ asking.power.warnActive = false ∧ asking.failedWait 0 (recOf 0x01 []) = none ∧
    ∃ me, asking.decideRest 0 { fn := 0, queue := 0, record := recOf 0x01 [], doorbell := 0 } = .ok (.ok me) := by
  refine ⟨?_, ?_, ?_, ?_, ?_, ?_, ?_, ?_, ?_, ?_, okok_some (by decide +kernel)⟩ <;> decide +kernel
/-- A NOP that waits for token 4095, which a running command is to raise. -/
theorem witness_RecordsDecided_held :
    let w : Waiting := { fn := 0, queue := 0, record := recOf 0x01 [(0x10, 0x8FFF), (0x14, 1)], doorbell := 0 }
    let s : State := { queued with waiting := [w], cmds := [{ given 0x11 [(0x0C, 0x8FFF)] with phase := .running }] }
    s.waiting = [w] ∧ s.deviceReset = false ∧ s.fnSlot w.fn = some 0 ∧ (s.decidedUs = s.time → s.decided < 8) ∧ s.tokenComing 0 w = false ∧
      s.tokenLikely 0 w = true := by decide +kernel
/-- A ZERO whose handle 63 is at rest, refused with LONGOP_BUSY. -/
theorem witness_RecordsDecided_rest :
    let w : Waiting := { fn := 0, queue := 0, record := recOf 0x64 [(0x58, 63), (0x60, 0x10000), (0x68, 65536)], doorbell := 0 }
    let s : State := { mapped.setPart 0 { mapped.part 0 with longops := [(63, { state := .diapause })] } with waiting := [w] }
    s.deviceReset = false ∧ s.fnSlot 0 = some 0 ∧ (s.decidedUs = s.time → s.decided < 8) ∧ s.tokenComing 0 w = false ∧ s.tokenLikely 0 w = false ∧ (s.queue 0 0).discard = false ∧
      (s.queue 0 0).irqEn = false ∧ (s.fn 0).d3hot = false ∧ recordBad w.record = none ∧ s.entry 0x8000 1 = 0 ∧ s.boot.admitOpen = true ∧
      s.power.warnActive = false ∧ s.failedWait 0 w.record = none ∧ s.decideRest 0 w = .error (0x0603, 63) := by
  refine ⟨?_, ?_, ?_, ?_, ?_, ?_, ?_, ?_, ?_, ?_, ?_, ?_, ?_, err_of (by decide +kernel)⟩ <;> decide +kernel
theorem witness_RecordsDecided_refused :
    asking.tokenComing 0 { fn := 0, queue := 0, record := recOf 0x03 [], doorbell := 0 } = false ∧
    asking.tokenLikely 0 { fn := 0, queue := 0, record := recOf 0x03 [], doorbell := 0 } = false ∧
    (asking.queue 0 0).discard = false ∧ (asking.queue 0 0).irqEn = false ∧ (asking.fn 0).d3hot = false ∧ recordBad (recOf 0x03 []) = some 0 ∧
    (let s : State := { asking with boot := { asking.boot with admitOpen := false } }
     recordBad (recOf 0x01 []) = none ∧ s.boot.admitOpen = false ∧ s.fnSlot 0 = some 0) ∧
    (let s : State := { asking with power := { asking.power with warnActive := true } }
     s.entry 0x8000 1 = 0 ∧ s.boot.admitOpen = true ∧ s.power.warnActive = true ∧ s.deviceReset = false ∧ s.fnSlot 0 = some 0) := by decide +kernel

theorem witness_ControlCommands :
    (ready (holding up (given 0x01 [])) 0 0x01 (given 0x01 []) ∧ clean (given 0x01 [])) ∧
    ready (holding up (given 0x02 [(0x68, 4095), (0x6C, 7)])) 0 0x02 (given 0x02 [(0x68, 4095), (0x6C, 7)]) ∧ clean (given 0x02 [(0x68, 4095), (0x6C, 7)]) :=
  ⟨⟨ready_of (by decide +kernel), clean_of (by decide +kernel)⟩, ready_of (by decide +kernel), clean_of (by decide +kernel)⟩


/-- ALLOC of each kind as the first work of slot 0. -/
theorem witness_Allocation_alloc (f : List (Nat × Nat))
    (h : f = [(0x68, 1), (0x6C, 15)] ∨ f = [(0x68, 3), (0x6C, 1), (0x72, 3)] ∨ f = [(0x68, 4), (0x6C, 2), (0x72, 3)] ∨ f = [(0x60, 0x10000), (0x68, 5), (0x6C, 1)]) :
    ready (holding mapped (given 0x30 f)) 0 0x30 (given 0x30 f) ∧ clean (given 0x30 f) ∧ (holding mapped (given 0x30 f)).allocBefore 0 = false ∧
      (holding mapped (given 0x30 f)).allocStatus 0 (allocArgs (given 0x30 f).record) (given 0x30 f).payload = none ∧
      (allocArgs (given 0x30 f).record).kind ∈ [1, 2, 3, 4, 5] := by
  rcases h with h | h | h | h <;> subst h <;>
    exact ⟨ready_of (by decide +kernel), clean_of (by decide +kernel), by decide +kernel, by decide +kernel, by decide +kernel⟩
/-- An ALLOC of core 1, whose engines and first groups are OFF. -/
theorem witness_Allocation_off :
    let c := given 0x30 [(0x68, 1), (0x6C, 1)]
    let s := (holding mapped c).setBlock (matrixBlock 1) { st := .off }
    ready s 0 0x30 c ∧ clean c ∧ s.allocBefore 0 = false ∧ s.allocStatus 0 (allocArgs c.record) c.payload = none ∧ s.allocOff 0 (allocArgs c.record) ≠ [] :=
  ⟨ready_of (by decide +kernel), clean_of (by decide +kernel), by decide +kernel, by decide +kernel, by decide +kernel⟩
/-- FREE of the held core, of its groups, and of the mapped page. -/
theorem witness_Allocation_free (f : List (Nat × Nat)) (h : f = [(0x68, 1), (0x70, 1)] ∨ f = [(0x68, 2), (0x70, 3)] ∨ f = [(0x68, 3), (0x6C, 1), (0x72, 1)]) :
    ready (holding mapped (given 0x31 f)) 0 0x31 (given 0x31 f) ∧ clean (given 0x31 f) ∧ (holding mapped (given 0x31 f)).drainBusy (given 0x31 f) = false ∧
      (holding mapped (given 0x31 f)).freeStatus 0 (allocArgs (given 0x31 f).record) (given 0x31 f).payload = none ∧
      (allocArgs (given 0x31 f).record).kind ∈ [1, 2, 3, 4, 5] := by
  rcases h with h | h | h <;> subst h <;>
    exact ⟨ready_of (by decide +kernel), clean_of (by decide +kernel), by decide +kernel, by decide +kernel, by decide +kernel⟩
theorem witness_Allocation_freeFlow :
    let c := given 0x31 [(0x60, 0x10000), (0x68, 5), (0x6C, 1)]
    let s := (holding mapped c).setFlow 0 { holder := some 0 }
    ready s 0 0x31 c ∧ clean c ∧ s.drainBusy c = false ∧ s.freeStatus 0 (allocArgs c.record) c.payload = none ∧ (allocArgs c.record).kind = 5 :=
  ⟨ready_of (by decide +kernel), clean_of (by decide +kernel), by decide +kernel, by decide +kernel, by decide +kernel⟩
/-- A TIER_DECLARE of slot 0's page, to the tier it is in and to CXL. -/
theorem witness_Allocation_tier (k : Nat) (h : k = 1 ∨ k = 2) :
    let c := given 0x32 [(0x68, k), (0x6C, 1), (0x70, 0x10000)]
    let s := holding mapped c
    let a := tierArgs c.record
    ready s 0 0x32 c ∧ clean c ∧ s.tierAhead c = false ∧ s.tierStatus 0 a = none ∧ a.moving (s.part 0) = if k = 1 then [] else [1] := by
  rcases h with rfl | rfl <;>
    exact ⟨ready_of (by decide +kernel), clean_of (by decide +kernel), by decide +kernel, by decide +kernel, by decide +kernel⟩
/-- The move to CXL under way: its page to copy, copied, and gone. -/
def tiering (t : TierMove) : Cmd := { given 0x32 [(0x68, 2), (0x6C, 1), (0x70, 0x10000)] with phase := .running, tier := t }
theorem witness_Allocation_tierCopy :
    let c := tiering { pages := [(1, 0)] }
    let s : State := { holding mapped c with time := 66 }
    let a := tierArgs c.record
    s.cmd 0 = some c ∧ clean c ∧ s.tierAhead c = false ∧ s.runningOp 0 0x32 = some c ∧ c.tier.pages = [(1, 0)] ∧ c.tier.copied < a.leaves ∧
      (∀ i, i < a.leaves → ((s.part 0).liveLeaf (1 + i)).poison = false) ∧ (∃ s1, s.tierServe c frameBytes a.toCxl = some s1) ∧ memWf s := by
  refine ⟨by decide +kernel, clean_of (by decide +kernel), by decide +kernel, by decide +kernel, by decide +kernel, by decide +kernel, by decide +kernel,
    ⟨_, some_get (by decide +kernel)⟩, ?_⟩
  unfold memWf
  decide +kernel
theorem witness_Allocation_tierSwitch :
    (let c := tiering { pages := [(1, 0)], copied := 1 }
     let s := holding mapped c
     let a := tierArgs c.record
     s.runningOp 0 0x32 = some c ∧ c.tier.pages = [(1, 0)] ∧ a.leaves ≤ c.tier.copied ∧ c.tier.dirty = [] ∧
       ∀ i, i < a.leaves → ((s.part 0).liveLeaf (1 + i)).poison = false) ∧
    ((holding mapped (tiering {})).runningOp 0 0x32 = some (tiering {}) ∧ (tiering {}).tier.pages = []) := by decide +kernel

/-- DMA_COPY of 300 bytes within slot 0's page, and of 4 bytes from host to host, each running with nothing moved. -/
def copy : Cmd := given 0x20 [(0x60, 0x10000), (0x68, 0x11001), (0x70, 300)]
def hostCopy : Cmd := { given 0x20 [(0x60, 0x100), (0x68, 0x200), (0x70, 4), (0x78, 3)] with phase := .running, whole := 4 }
theorem witness_DmaCopies_start : ready (holding mapped { copy with dmaCore := some 0 }) 0 0x20 { copy with dmaCore := some 0 } ∧ clean copy ∧ copy.done = 0 ∧
    0 < (dmaArgs copy.record).length ∧ (holding mapped { copy with dmaCore := some 0 }).issueRoom 0 4 = true :=
  ⟨ready_of (by decide +kernel), clean_of (by decide +kernel), by decide +kernel, by decide +kernel, by decide +kernel⟩
theorem witness_DmaCopies_piece :
    let c : Cmd := { copy with dmaCore := some 0, phase := .running, whole := 300 }
    let s := holding mapped c
    let a := dmaArgs c.record
    s.runningOp 0 0x20 = some c ∧ c.done < a.length ∧ 255 = min (256 - (a.dst + c.done) % 256) (a.length - c.done) ∧ a.srcHost = false ∧
      ∃ s1 d, s.dmaPiece c a c.done 255 [] = some s1 ∧ s1.cmd 0 = some d := by
  refine ⟨by decide +kernel, by decide +kernel, by decide +kernel, by decide +kernel, ?_⟩
  exact ⟨_, _, some_get (by decide +kernel), some_get (by decide +kernel)⟩
theorem witness_DmaCopies_host :
    let s := holding mapped hostCopy
    let a := dmaArgs hostCopy.record
    s.runningOp 0 0x20 = some hostCopy ∧ a.srcHost = true ∧ a.dstHost = true ∧ hostCopy.done < a.length ∧
      4 = min (256 - (a.dst + hostCopy.done) % 256) (a.length - hostCopy.done) ∧ 4 ≤ [1, 2, 3, 4].length ∧
      s.issueRoom (hostCopy.dmaCore.getD 0) 4 = true ∧ (s.port (hostCopy.fn / 16)).tagFree = true ∧ (s.hostServe hostCopy 8 true).isSome = true := by
  decide +kernel
theorem witness_DmaCopies_end : (holding mapped { hostCopy with done := 4 }).runningOp 0 0x20 = some { hostCopy with done := 4 } ∧
    (dmaArgs hostCopy.record).length ≤ 4 := by decide +kernel

/-- A gather list of two rows of 64 bytes, indices 0 and 5 of a table of two. -/
def gatherList : List Byte := bytesOfNat 0x11000 8 ++ bytesOfNat 64 4 ++ bytesOfNat 2 4 ++ bytesOfNat 0x12000 8 ++ bytesOfNat 2 4 ++ bytesOfNat 0 4 ++
  bytesOfNat 64 4 ++ List.replicate 28 0
def gatherCmd : Cmd := { given 0x12 [(0x60, 0x10000)] with cores := [0] }
def gathering : State := placed (placed mapped 0 gatherList) 0x2004 [5]
/-- The same, begun. -/
def gatherRun : Cmd := { gatherCmd with phase := .running, whole := 2 }
def gathered (done : Nat) : State :=
  let s := holding gathering gatherRun
  s.setCore 0 { s.core 0 with gather := { gatherOf gatherList with cmd := some 0, done := done } }

theorem witness_GatherRows_start :
    let s := holding gathering gatherCmd
    ready s 0 0x12 gatherCmd ∧ clean gatherCmd ∧ s.gatherRoom 0 = true ∧ ∃ s1, (s.beginCmd gatherCmd).descRead 0 0 gatherCmd.payload 64 = (s1, some gatherList) ∧
      gatherBad gatherList = false ∧ running s1 0 := by
  refine ⟨ready_of (by decide +kernel), clean_of (by decide +kernel), by decide +kernel, _, pair_get (by decide +kernel), by decide +kernel,
    running_get (by decide +kernel)⟩
theorem witness_GatherRows_row :
    let s := gathered 0
    let g := (s.core 0).gather
    s.runningOp 0 0x12 = some gatherRun ∧ g.cmd = some 0 ∧ g.done < g.count ∧ g.sum = false ∧ s.issueRoom 0 (g.rowBytes / 256 + 4) = true ∧
      s.gatherThreads 0 < 64 ∧ ∃ s1 bs s2 d, s.gatherRow 0 gatherRun g 0 = (s1, some bs) ∧
        s1.cmdScratchWrite 0 0 0 (s.core 0).groups (g.dest + 0 * g.destStride) ((elems32 bs).flatMap Elem.bytes) = (s2, true) ∧ s2.cmd 0 = some d := by
  refine ⟨by decide +kernel, by decide +kernel, by decide +kernel, by decide +kernel, by decide +kernel, by decide +kernel, _, _, _, _,
    pair_of [] (by decide +kernel), pair_true (by decide +kernel), some_get (by decide +kernel)⟩
/-- The last row of a bag of two with SUM. -/
theorem witness_GatherRows_sum :
    let s := (gathered 1).setCore 0 { (gathered 1).core 0 with gather := { ((gathered 1).core 0).gather with sum := true, bag := 2, acc := [(0x3F800000, false)] } }
    let g := (s.core 0).gather
    s.runningOp 0 0x12 = some gatherRun ∧ g.cmd = some 0 ∧ g.done < g.count ∧ g.sum = true ∧ (g.done + 1) % g.bag = 0 ∧
      s.issueRoom 0 (g.rowBytes / 256 + 4) = true ∧ s.gatherThreads 0 < 64 ∧ ∃ s1 bs s2 d, s.gatherRow 0 gatherRun g 1 = (s1, some bs) ∧
        s1.cmdScratchWrite 0 0 0 (s.core 0).groups (g.dest + 1 / g.bag * g.destStride) ((addElems g.acc (g.elems bs)).1.flatMap Elem.bytes) = (s2, true) ∧
        s2.cmd 0 = some d := by
  refine ⟨by decide +kernel, by decide +kernel, by decide +kernel, by decide +kernel, by decide +kernel, by decide +kernel, by decide +kernel, _, _, _, _,
    pair_of [] (by decide +kernel), pair_true (by decide +kernel), some_get (by decide +kernel)⟩
theorem witness_GatherRows_range :
    let s := gathered 1
    let g := (s.core 0).gather
    ∃ s1 ib d, (s.indexLine 0 gatherRun g 1).cmdTagged 0 0 (g.index + (if g.wideIndex then 8 else 4) * 1) (if g.wideIndex then 8 else 4) = (s1, some ib) ∧
      g.rowLimit ≤ natOfBytes (ib.map (·.1)) ∧ s1.cmd 0 = some d ∧ d.late = none ∧ gatherRun.id = 0 := by
  refine ⟨_, _, _, pair_of [] (by decide +kernel), by decide +kernel, some_get (by decide +kernel), by decide +kernel, by decide +kernel⟩
theorem witness_GatherRows_end : (gathered 2).runningOp 0 0x12 = some gatherRun ∧ ((gathered 2).core 0).gather.cmd = some 0 ∧
    ((gathered 2).core 0).gather.count ≤ ((gathered 2).core 0).gather.done := by decide +kernel

theorem witness_CommandCompletes :
    let c : Cmd := { given 0x01 [(0x0C, 0x8FFF)] with phase := .ended 0 0 }
    let s := holding queued c
    s.cmd 0 = some c ∧ c.phase = .ended 0 0 ∧ s.writesOut 0 = false ∧ s.awaitsReads c 0 = false ∧ s.mayYield c = false ∧ c.opcode = 0x01 ∧ c.poisoned = none ∧ c.cores = [] ∧ c.dmaCore = none ∧ s.colls = [] ∧
      s.molts = [] ∧ s.upds = [] ∧ s.flowsOf 0 = [] ∧ recErrorOnly c.record = false ∧ recSignal c.record = some 4095 ∧ (s.queue c.fn c.queue).discard = false ∧
      (s.queue c.fn c.queue).irqEn = false ∧ (s.fn c.fn).d3hot = false := by decide +kernel

theorem witness_CommandsStopped :
    (let c : Cmd := { copy with phase := .running, dmaCore := some 0, bytes := [(0, 4096)], used := [(0, 4096 + 65536)] }
     let s := holding mapped c
     s.cmd 0 = some c ∧ c.phase = .running ∧ s.overrunCode c = some 2 ∧ s.coll 0 = none ∧ s.molt 0 = none) ∧
    (let s : State := { holding mapped hostCopy with time := 996 }
     s.cmd 0 = some hostCopy ∧ s.readsHost hostCopy = true ∧ s.nearDeadline hostCopy = true) ∧
    (let s : State := { queued.setQueue 0 0 { queued.queue 0 0 with doorbells := [(1, 0)] } with time := 10000 }
     (holding s hostCopy).cmd 0 = some hostCopy ∧ (holding s hostCopy).readsHost hostCopy = true ∧ hostCopy.started + 10000 ≤ s.time ∧
       (s.queue (fnKey 0 0) 0).active = true ∧ (s.queue (fnKey 0 0) 0).enable = true ∧ (s.queue (fnKey 0 0) 0).doorbells = [(1, 0)] ∧
       0 + 10000 ≤ s.time) := by decide +kernel

/-- A command that runs on core 0 and one that displaces it. -/
def older : Cmd := { given 0x11 [] with cores := [0], phase := .running, displacedBy := [1] }
def newer : Cmd := { given 0x11 [] with id := 1, cores := [0], deadline := some 500, displaces := [0] }
theorem witness_Cocoons_save :
    let s : State := { mapped with cmds := [older, newer] }
    s.cmd 0 = some older ∧ older.phase = .running ∧ s.displacer 0 older = some newer ∧ s.moverFree older = true ∧ s.moverTurn older (saveJob newer) = true ∧
      ∀ j ∈ older.cores, (s.core j).cocoons.length < 4 := by decide +kernel
theorem witness_Cocoons_phases :
    (({ older with phase := .saving } : Cmd).cores = [0] ∧ (holding mapped { older with phase := .saving }).readsOut 0 = false) ∧
    (let b : Cmd := { older with phase := .displaced, displacedBy := [] }
     let s := (holding mapped b).setCore 0 { mapped.core 0 with cocoons := [{ cmd := 0 }] }
     s.cmd 0 = some b ∧ b.cores.contains 0 = true ∧ s.restorable b = true ∧ s.moverFree b = true ∧ s.moverTurn b (restoreJob 0 b) = true) ∧
    (let b : Cmd := { older with phase := .restoring }
     (holding mapped b).cmd 0 = some b ∧ b.cores.contains 0 = true) := by decide +kernel

/-! ## Witnesses: long operations, weights and molts -/

def zeroCmd : Cmd := given 0x64 [(0x58, 63), (0x60, 0x10000), (0x68, 65536)]
def ckptCmd : Cmd := given 0x61 [(0x58, 1), (0x60, 0x10000), (0x68, 1)]
/-- One range of 1 MiB to host memory. -/
def ckptList : List Byte := bytesOfNat 0x10000 8 ++ bytesOfNat 0x300000 8 ++ bytesOfNat 1048576 8 ++ bytesOfNat 1 8
/-- The record of an image of one VERIFIED shard on the live side of slot 0. -/
def imaged (st : ShardState) : State := mapped.setPart 0 { mapped.part 0 with image0 :=
  { imageId := 1, base := 0x10000, bytes := 65536, count := 1, shards := [(0, { length := 65536, root := 1, st := st })] } }
def scrubCmd : Cmd := given 0x63 [(0x58, 2)]

/-- Slot 0 with handle 1 in a state. -/
def handled (s : State) (o : LongOp) : State := s.setPart 0 { s.part 0 with longops := [(1, o)] }
theorem witness_LongOpStarts_zero : ready (holding mapped zeroCmd) 0 0x64 zeroCmd ∧ clean zeroCmd ∧ zeroCmd.handle = 63 :=
  ⟨ready_of (by decide +kernel), clean_of (by decide +kernel), by decide +kernel⟩
theorem witness_LongOpStarts_ckpt :
    let s := holding (placed mapped 0 ckptList) ckptCmd
    ready s 0 0x61 ckptCmd ∧ (s.longop 0 ckptCmd.handle).torn = false ∧ 1 = ckptCount ckptCmd.record ∧ ∃ s1 bs,
      ((s.beginCmd ckptCmd).openSegment 0 ckptCmd.handle 0).descRead 0 0 ckptCmd.payload (32 * 1) = (s1, some bs) ∧
      ∀ i, i < 1 → (s1.part 0).ckptBad bs i = false :=
  ⟨ready_of (by decide +kernel), by decide +kernel, by decide +kernel, _, _, pair_of [] (by decide +kernel), by decide +kernel⟩
theorem witness_LongOpStarts_scrub :
    (ready (holding (imaged .verified) scrubCmd) 0 0x63 scrubCmd ∧ ((imaged .verified).part 0).scrubList ≠ []) ∧
    (ready (holding mapped scrubCmd) 0 0x63 scrubCmd ∧ (mapped.part 0).scrubList = []) :=
  ⟨⟨ready_of (by decide +kernel), by decide +kernel⟩, ⟨ready_of (by decide +kernel), by decide +kernel⟩⟩
/-- A CKPT_WRITE torn while its segment waited; a load whose descriptor stands at 0x10004. -/
theorem witness_LongOpStarts_ends :
    let s := handled (holding mapped ckptCmd) { opcode := 0x61, state := .waiting, segment := some 0, torn := true }
    ready s 0 0x61 ckptCmd ∧ clean ckptCmd ∧ (s.longop 0 ckptCmd.handle).opcode = 0x61 ∧ (s.longop 0 ckptCmd.handle).torn = true :=
  ⟨ready_of (by decide +kernel), clean_of (by decide +kernel), by decide +kernel, by decide +kernel⟩
theorem witness_LongOpStarts_misaligned : let c := given 0x60 [(0x58, 3), (0x60, 0x10004)]
    ready (holding mapped c) 0 0x60 c ∧ clean c ∧ c.payload % 64 ≠ 0 := ⟨ready_of (by decide +kernel), clean_of (by decide +kernel), by decide +kernel⟩

/-- A load descriptor of one shard of 64 KiB at 0 of the twin zone, its header in host memory. -/
def loadCmd : Cmd := given 0x60 [(0x58, 3), (0x60, 0x10000)]
def loadList : List Byte := bytesOfNat 5 16 ++ bytesOfNat 0 8 ++ bytesOfNat 65536 8 ++ bytesOfNat 1 4 ++ bytesOfNat 1 4 ++ List.replicate 24 0
def loadEntry : List Byte := bytesOfNat 0x400000 8 ++ bytesOfNat 1 4 ++ bytesOfNat 0 4 ++ bytesOfNat 9 32 ++ List.replicate 16 0
def shardHead : List Byte := [0x42, 0x58, 0x57, 0x53] ++ bytesOfNat 1 2 ++ bytesOfNat 0 2 ++ bytesOfNat 5 16 ++ bytesOfNat 0 4 ++ bytesOfNat 1 4 ++
  bytesOfNat 65536 8 ++ bytesOfNat 0 8 ++ bytesOfNat 65536 8 ++ List.replicate 40 0 ++ bytesOfNat 9 32 ++ List.replicate 96 0
def loading : State :=
  let s := placed mapped 0 (loadList ++ loadEntry)
  s.setPart 0 { s.part 0 with twinAlias := 0x80010000, twins := [(0, { twinned := true })] }
def shardHeader : List Byte := shardHead ++ Sha.sha256 shardHead
theorem witness_LongOpStarts_load :
    let s := holding loading loadCmd
    ready s 0 0x60 loadCmd ∧ loadCmd.payload % 64 = 0 ∧ ∃ s1 s2 s3,
      ((s.beginCmd loadCmd).openSegment 0 loadCmd.handle 0).descRead 0 0 loadCmd.payload 64 = (s1, some loadList) ∧
      s1.descRead 0 0 (loadCmd.payload + 64) (64 * loadCount loadList) = (s2, some loadEntry) ∧ loadBad (loadList ++ loadEntry) = none ∧
      (s2.part 0).loadStatus (loadList ++ loadEntry) = none ∧
      s2.loadHeaders loadCmd (loadList ++ loadEntry) (List.range (loadCount (loadList ++ loadEntry))) shardHeader [] = (s3, some [shardHeader]) ∧
      headersBad (s3.part 0) (loadList ++ loadEntry) ([shardHeader].zipIdx.map fun x => (x.2, x.1)) [] = none :=
  ⟨ready_of (by decide +kernel), by decide +kernel, _, _, _, pair_get (by decide +kernel), pair_get (by decide +kernel), by decide +kernel, by decide +kernel,
    pair_get (by decide +kernel), by decide +kernel⟩
/-- That load waits for the header of its shard. -/
theorem witness_CommandsStopped_header : (holding loading loadCmd).cmd 0 = some loadCmd ∧ (holding loading loadCmd).headerWait loadCmd = true := by decide +kernel

/-- Two units of a CKPT_WRITE to host memory, 256 bytes each; the last 256 bytes of a ZERO. -/
def segment (op : Nat) (f : List (Nat × Nat)) : Cmd := { given op ((0x58, 1) :: f) with phase := .running }
def ckptOp (st : LongState) (sus : Option Nat) : LongOp :=
  { opcode := 0x61, state := st, started := true, totalUnits := 2, segments := 1, segment := some 0, suspender := sus }
def ckptState (st : LongState) (sus : Option Nat) : State :=
  { handled (holding mapped (segment 0x61 [])) (ckptOp st sus) with
    ckpts := [(1, [{ src := 0x10000, dst := 0x300000, length := 256, host := true }, { src := 0x10100, dst := 0x300100, length := 256, host := true }])] }

theorem witness_LongOpUnits (st : LongState) (sus : Option Nat) (h : st = .running ∧ sus = none ∨ st = .suspending ∧ sus = some 9) :
    let s := ckptState st sus
    s.segmentCmd 0 1 = some (segment 0x61 []) ∧ s.unitReady (segment 0x61 []) 1 = true ∧ (s.longop 0 1).preread ≠ some s.time ∧
      ∃ s1 d, s.unitStep (segment 0x61 []) 1 (s.unitBytes 0 1) [] = (s1, true) ∧ s1.cmd 0 = some d ∧ d.phase = .running ∧ (s1.longop 0 1).torn = false ∧
        (s1.longop 0 1).state = st ∧ (s1.longop 0 1).doneUnits + 1 < (s1.longop 0 1).totalUnits ∧ (s1.longop 0 1).segment = some 0 ∧
        (s1.longop 0 1).resumer = none ∧ (s1.longop 0 1).stopBy ≠ s1.time + 100 := by
  rcases h with ⟨rfl, rfl⟩ | ⟨rfl, rfl⟩ <;>
    exact ⟨by decide +kernel, by decide +kernel, by decide +kernel, _, _, pair_true (by decide +kernel), some_get (by decide +kernel), by decide +kernel, by decide +kernel,
      by decide +kernel, by decide +kernel, by decide +kernel, by decide +kernel, by decide +kernel⟩
/-- Its last unit, read in this device µs while the live side changed. -/
theorem witness_LongOpUnits_preread :
    let c := segment 0x61 []
    let s0 := handled (holding mapped c) { ckptOp .running none with doneUnits := 1, preread := some 0 }
    let s : State := { s0 with ckpts := [(1, [{ src := 0x10000, dst := 0x300000, length := 256, host := true }])] }
    let o := s.longop 0 1
    s.segmentCmd 0 1 = some c ∧ s.unitReady c 1 = true ∧ o.preread = some s.time ∧ o.opcode = 0x61 ∧ o.state = .running ∧ o.segment = some c.id ∧
      o.totalUnits ≤ o.doneUnits + 1 ∧ s.cmd c.id = some c ∧ clean c ∧ c.phase = .running :=
  ⟨by decide +kernel, by decide +kernel, by decide +kernel, by decide +kernel, by decide +kernel, by decide +kernel, by decide +kernel, by decide +kernel,
    clean_of (by decide +kernel), by decide +kernel⟩

/-- A ZERO of 1 MiB and 256 bytes whose first unit is done; its last bytes lie in the page at 0x110000. -/
def zeroState : State :=
  let s := handled (holding mapped (segment 0x64 [])) { opcode := 0x64, state := .running, started := true, totalUnits := 2, doneUnits := 1, segments := 1
                                                        segment := some 0, startRec := recOf 0x64 [(0x60, 0x10000), (0x68, 1048576 + 256)] }
  s.setPart 0 { s.part 0 with side0 := [(17, { valid := true, frame := 7 })] }
theorem witness_LongOpUnits_last :
    let s := zeroState
    s.segmentCmd 0 1 = some (segment 0x64 []) ∧ s.unitReady (segment 0x64 []) 1 = true ∧ (s.longop 0 1).preread ≠ some s.time ∧ ∃ s1 d, s.unitStep (segment 0x64 []) 1 (s.unitBytes 0 1) [] = (s1, true) ∧ s1.cmd 0 = some d ∧ d.phase = .running ∧ (s1.longop 0 1).torn = false ∧
        (s1.longop 0 1).state = .running ∧ (s1.longop 0 1).opcode = 0x64 ∧ (s1.longop 0 1).totalUnits ≤ (s1.longop 0 1).doneUnits + 1 ∧
        (s1.longop 0 1).segment = some 0 ∧ clean d :=
  ⟨by decide +kernel, by decide +kernel, by decide +kernel, _, _, pair_true (by decide +kernel), some_get (by decide +kernel), by decide +kernel, by decide +kernel,
    by decide +kernel, by decide +kernel, by decide +kernel, by decide +kernel, clean_of (by decide +kernel)⟩

/-- SUSPEND, RESUME and CANCEL of handle 1 find it in a state. -/
def control (op : Nat) : Cmd := given op [(0x58, 1)]
def controlled (op : Nat) (o : LongOp) : State := handled (holding mapped (control op)) o
theorem witness_LongOpControl_suspend (o : LongOp) (h : o = { opcode := 0x64, state := .running } ∨ o = { opcode := 0x62, state := .running } ∨ o = {} ∨
      o = { opcode := 0x64, state := .waiting }) :
    ready (controlled 0x70 o) 0 0x70 (control 0x70) ∧ (controlled 0x70 o).longop 0 (control 0x70).handle = o ∧ o.cancelled ≠ some (controlled 0x70 o).time ∧
      o.toRest = false := by
  rcases h with rfl | rfl | rfl | rfl <;> exact ⟨ready_of (by decide +kernel), by decide +kernel, by decide +kernel, by decide +kernel⟩
theorem witness_LongOpControl_undone :
    let c : Cmd := { control 0x70 with phase := .running }
    let g : Cmd := { segment 0x60 [] with id := 5 }
    let s : State := handled { mapped with cmds := [c, g] } { opcode := 0x60, state := .suspending, segment := some 5, suspender := some 0, started := true }
    let s1 := s.unitUndone 0 1 []
    s.runningOp 0 0x70 = some c ∧ (s.longop 0 1).state = .suspending ∧ (s.longop 0 1).suspender = some 0 ∧ (s.longop 0 1).toRest = false ∧
      (s.longop 0 1).stopBy < s.time + 100 ∧ (s.segmentCmd 0 1).isSome = true ∧
      (s1.segmentCmd 0 1).isSome = true ∧ (s1.longop 0 1).suspender = some 0 ∧ (s1.longop 0 1).resumer = none ∧ (s1.longop 0 1).segment = some 5 ∧ 5 ≠ 0 ∧
      ∃ e, s1.cmd 0 = some e ∧ e.phase = .running := by
  refine ⟨?_, ?_, ?_, ?_, ?_, ?_, ?_, ?_, ?_, ?_, ?_, _, some_get (by decide +kernel), by decide +kernel⟩ <;> decide +kernel
theorem witness_LongOpControl_cancelling :
    let c : Cmd := { control 0x72 with phase := .running }
    let g : Cmd := { segment 0x60 [] with id := 5 }
    let s : State := handled { mapped with cmds := [c, g] } { opcode := 0x60, state := .cancelling, segment := some 5, canceller := some 0, started := true }
    let s1 := s.unitUndone 0 1 []
    s.runningOp 0 0x72 = some c ∧ (s.longop 0 1).state = .cancelling ∧ (s.longop 0 1).canceller = some 0 ∧ (s1.longop 0 1).canceller = some 0 ∧
      (s1.longop 0 1).suspender = none ∧ (s1.longop 0 1).resumer = none ∧ (s1.longop 0 1).segment ≠ some 0 ∧ ∃ e, s1.cmd 0 = some e ∧ e.phase = .running :=
  ⟨by decide +kernel, by decide +kernel, by decide +kernel, by decide +kernel, by decide +kernel, by decide +kernel, by decide +kernel, _,
    some_get (by decide +kernel), by decide +kernel⟩
theorem witness_LongOpControl_resume (o : LongOp)
    (h : o = { opcode := 0x64, state := .diapause, started := true } ∨ o = { opcode := 0x64, state := .suspending } ∨ o = { state := .cancelling }) :
    ready (controlled 0x71 o) 0 0x71 (control 0x71) ∧ (controlled 0x71 o).longop 0 (control 0x71).handle = o ∧ o.torn = false ∧ o.resumer = none := by
  rcases h with rfl | rfl | rfl <;> exact ⟨ready_of (by decide +kernel), by decide +kernel, by decide +kernel, by decide +kernel⟩
/-- A CKPT_WRITE and a SCRUB that rest torn. -/
theorem witness_LongOpControl_torn (op : Nat) (h : op = 0x61 ∨ op = 0x63) : let o : LongOp := { opcode := op, state := .diapause, started := true, torn := true }
    ready (controlled 0x71 o) 0 0x71 (control 0x71) ∧ (controlled 0x71 o).longop 0 (control 0x71).handle = o ∧ clean (control 0x71) := by
  rcases h with rfl | rfl <;> exact ⟨ready_of (by decide +kernel), by decide +kernel, clean_of (by decide +kernel)⟩
theorem witness_LongOpControl_cancel (o : LongOp)
    (h : o = { opcode := 0x64, state := .diapause } ∨ o = { opcode := 0x64, state := .waiting } ∨ o = { opcode := 0x64, state := .running } ∨ o = {} ∨
      o = { state := .cancelling }) :
    ready (controlled 0x72 o) 0 0x72 (control 0x72) ∧ (controlled 0x72 o).longop 0 (control 0x72).handle = o ∧ o.suspender = none ∧ o.resumer = none ∧
      o.segment ≠ some 0 ∧ o.segment.bind (controlled 0x72 o).molt = none := by
  rcases h with rfl | rfl | rfl | rfl | rfl <;>
    exact ⟨ready_of (by decide +kernel), by decide +kernel, by decide +kernel, by decide +kernel, by decide +kernel, by decide +kernel⟩

/-! ### Weights -/

def flipCmd (action : Nat) (f : List (Nat × Nat)) : Cmd := given 0x54 ((0x68, action) :: f)
/-- An image of one VERIFIED shard on the chrysalis side; the live side hardening. -/
def chrysalid : State := mapped.setPart 0 { mapped.part 0 with
  image1 := { imageId := 1, base := 0x10000, bytes := 65536, count := 1, shards := [(0, { length := 65536, root := 1, st := .verified })] } }
def hardened (h : Bool) : State := mapped.setPart 0 { mapped.part 0 with hardening := h, image0 := { imageId := 1 } }
theorem noLast_of {s : State} {i : Nat} (h : (s.part i).longops = []) : noLastCkpt s i := by
  intro k e
  have : (s.longop i k).opcode = 0 := by rw [State.longop, Part.longop, h]; rfl
  omega
theorem witness_WeightFlipsAndScrubs_flip : let s := holding chrysalid (flipCmd 1 [])
    noLastCkpt s 0 ∧ clean (flipCmd 1 []) ∧ ready s 0 0x54 (flipCmd 1 []) ∧ (flipCmd 1 []).slot < 16 ∧ flipBad (s.part 0) (flipCmd 1 []).record = none ∧
      (flipArgs (flipCmd 1 []).record).action = 1 ∧ s.flipStatus 0 = none :=
  ⟨noLast_of (by decide +kernel), clean_of (by decide +kernel), ready_of (by decide +kernel), by decide +kernel, by decide +kernel, by decide +kernel, by decide +kernel⟩
theorem witness_WeightFlipsAndScrubs_revert (h : Bool) : let s := holding (hardened h) (flipCmd 2 [])
    noLastCkpt s 0 ∧ clean (flipCmd 2 []) ∧ ready s 0 0x54 (flipCmd 2 []) ∧ flipBad (s.part 0) (flipCmd 2 []).record = none ∧ (flipArgs (flipCmd 2 []).record).action = 2 ∧
      (s.part 0).hardening = h := by
  cases h <;> exact ⟨noLast_of (by decide +kernel), clean_of (by decide +kernel), ready_of (by decide +kernel), by decide +kernel, by decide +kernel, by decide +kernel⟩

/-- A whole region mapped page by page. -/
def pagesFrom (v : Leaf) : Nat → Nat → Tab Leaf
  | _, 0 => []
  | b, n + 1 => (b, v) :: pagesFrom v (b + 1) n
theorem tabFind_pagesFrom (v : Leaf) (n b k : Nat) (h : b ≤ k ∧ k < b + n) : tabFind (pagesFrom v b n) k = some v := by
  induction n generalizing b with
  | zero => omega
  | succ n ih =>
    unfold pagesFrom tabFind
    by_cases e : b = k
    · simp [e]
    · simp only [e, if_false]; exact ih (b + 1) (by omega)
def twinPart : Part := { twinAlias := 0x80010000, side0 := pagesFrom { valid := true, frame := 7 } 8192 8192 }
def twinning : State := mapped.setPart 0 twinPart
theorem twinPart_leaf (b i : Nat) (hb : b = 8192) (h : i < 8192) : twinPart.liveLeaf (b + i) = { valid := true, frame := 7 } := by
  subst hb
  have e : twinPart.liveSideOf (8192 + i) = false := by simp [Part.liveSideOf, twinPart]
  rw [Part.liveLeaf, e]
  simp [Part.leaf, tabGet, twinPart, tabFind_pagesFrom _ 8192 8192 (8192 + i) (by omega)]
theorem twinPart_hole : twinPart.regionHole 1 = none := by
  have h0 := twinPart_leaf (1 * regionPages) 0 rfl (by omega)
  rw [Nat.add_zero] at h0
  simp only [Part.regionHole, h0, Option.map_eq_none_iff, List.find?_eq_none, List.mem_range]
  intro i hi
  rw [twinPart_leaf (1 * regionPages) i rfl hi]
  decide
theorem twinPart_leaves (cxl : Bool) : twinPart.regionLeaves 1 cxl = if cxl then 0 else 8192 := by
  unfold Part.regionLeaves
  rw [List.filter_congr (q := fun _ => !cxl) (by intro i hi; rw [twinPart_leaf (1 * regionPages) i rfl (List.mem_range.mp hi)]; cases cxl <;> rfl)]
  cases cxl
  · rw [List.filter_eq_self.mpr (by simp)]; simp [regionPages]
  · simp
theorem witness_WeightFlipsAndScrubs_twin : let c := flipCmd 3 [(0x6C, 1), (0x70, 0x20000000)]; let s := holding twinning c
    noLastCkpt s 0 ∧ clean c ∧ ready s 0 0x54 c ∧ flipBad (s.part 0) c.record = none ∧ (flipArgs c.record).action = 3 ∧ s.twinStatus 0 (flipArgs c.record) = none := by
  refine ⟨noLast_of (by decide +kernel), clean_of (by decide +kernel), ready_of (by decide +kernel), by decide +kernel, by decide +kernel, ?_⟩
  have hr : (flipArgs (flipCmd 3 [(0x6C, 1), (0x70, 0x20000000)]).record).regions = [1] := by decide +kernel
  have hp : (holding twinning (flipCmd 3 [(0x6C, 1), (0x70, 0x20000000)])).part 0 = twinPart := rfl
  have hn (x : Bool) : (holding twinning (flipCmd 3 [(0x6C, 1), (0x70, 0x20000000)])).twinNeeds 0
      (flipArgs (flipCmd 3 [(0x6C, 1), (0x70, 0x20000000)]).record) x = if x then 0 else 8192 := by
    simp [State.twinNeeds, hr, hp, twinPart_leaves]
  have hm : ¬ (holding twinning (flipCmd 3 [(0x6C, 1), (0x70, 0x20000000)])).maxOf 3 0 <
      (holding twinning (flipCmd 3 [(0x6C, 1), (0x70, 0x20000000)])).heldOf 3 0 + 8192 := by decide +kernel
  have hg : (holding twinning (flipCmd 3 [(0x6C, 1), (0x70, 0x20000000)])).grantOk 3 0 8192 = true := by decide +kernel
  have ht : twinPart.twinEn = true := by decide +kernel
  have hz : (tabGet {} twinPart.twins 1).twinned = false := by decide +kernel
  simp [State.twinStatus, hr, hp, hn, ht, hz, twinPart_hole, hm, hg]
theorem witness_WeightFlipsAndScrubs_untwin : let c := flipCmd 4 [(0x6C, 1), (0x70, 0)]; let s := holding loading c
    noLastCkpt s 0 ∧ clean c ∧ ready s 0 0x54 c ∧ flipBad (s.part 0) c.record = none ∧ (flipArgs c.record).action = 4 ∧ s.untwinStatus 0 (flipArgs c.record) = none :=
  ⟨noLast_of (by decide +kernel), clean_of (by decide +kernel), ready_of (by decide +kernel), by decide +kernel, by decide +kernel, by decide +kernel⟩

/-- A live image in hardening whose one shard matches, of no bytes, or does not, its page being unmapped. -/
def scrubbed (e : Shard) : State := mapped.setPart 0 { mapped.part 0 with
  hardening := true, scrubDue := true, image0 := { imageId := 1, base := 0x40000000, count := 1, shards := [(0, e)] } }
theorem witness_WeightFlipsAndScrubs_pass :
    (let s := scrubbed { st := .verified, root := rootOf [] }
     (s.part 0).liveImage.imageId ≠ 0 ∧ (s.part 0).scrubDue = true ∧ s.loaderFree 0 = true ∧ s.partReset 0 = false ∧ (s.part 0).hardening = true ∧
       (s.part 0).scrubList ≠ [] ∧ ∀ e ∈ (s.part 0).scrubList, s.shardMatches 0 e = true) ∧
    (let s := scrubbed { st := .verified, length := 65536 }
     (s.part 0).scrubDue = true ∧ s.loaderFree 0 = true ∧ s.partReset 0 = false ∧ (s.part 0).hardening = true ∧
       ∃ e ∈ (s.part 0).scrubList, s.shardMatches 0 e = false) := by decide +kernel
theorem witness_WeightFlipsAndScrubs_quiet (e : Shard) : noLastCkpt (scrubbed e) 0 := noLast_of rfl

/-! ### Molts -/

/-- A layout of one rank and one slice of 64 KiB, its header at an offset of slot 0's page, its tables after it. -/
def layoutAt (instar at_ : Nat) : List Byte :=
  bytesOfNat 7 4 ++ bytesOfNat instar 4 ++ bytesOfNat 1 4 ++ bytesOfNat 0 4 ++ bytesOfNat 1 4 ++ bytesOfNat 0 4 ++ bytesOfNat 65536 8 ++
  bytesOfNat (at_ + 64) 8 ++ bytesOfNat (at_ + 128) 8 ++ List.replicate 16 0 ++
  (bytesOfNat 0 4 ++ bytesOfNat 0xFFFF 2 ++ List.replicate 58 0) ++
  (bytesOfNat 0 8 ++ bytesOfNat 1 4 ++ bytesOfNat 0 4 ++ bytesOfNat 0xFFFFFFFF 4 ++ bytesOfNat 0 4 ++ bytesOfNat 0x10000 8)
/-- A molt to INSTAR 4 at step 9, with groups of one. -/
def moltDesc : List Byte :=
  bytesOfNat 0 1 ++ bytesOfNat 1 1 ++ bytesOfNat 0 2 ++ bytesOfNat 4 4 ++ bytesOfNat 9 8 ++ bytesOfNat 0x11000 8 ++ bytesOfNat 0x12000 8 ++
  bytesOfNat 0x13000 8 ++ bytesOfNat 1 4 ++ bytesOfNat 0 4 ++ bytesOfNat 0x13000 8 ++ bytesOfNat 1 4 ++ bytesOfNat 0 4 ++ List.replicate 64 0
def alone : List Byte := bytesOfNat 0 4 ++ bytesOfNat 0xFFFF 2 ++ [0, 0]
def moltCmd : Cmd := given 0x62 [(0x10, 0xC000), (0x58, 4), (0x60, 0x10000)]
def molting : State :=
  let s := placed (placed (placed (placed mapped 0 moltDesc) 0x1000 (layoutAt 3 0x11000)) 0x2000 (layoutAt 4 0x12000)) 0x3000 alone
  holding (s.setPart 0 { s.part 0 with
    twinAlias := 0x80010000, twins := [(0, { twinned := true })], stepState := .voting, lastPoint := some { step := 9 } }) moltCmd
theorem witness_Molts_boundary :
    let s := molting
    let c := moltCmd
    let bs := moltDesc
    s.nicLive = true ∧ ready s 0 0x62 c ∧ s.molt 0 = none ∧ recExternal c.record ≠ [] ∧ moltBad bs false = none ∧ ∃ s1 s2 s3 s4 s5 o n,
      ((s.beginCmd c).openSegment 0 c.handle 0).descRead 0 0 c.payload 128 = (s1, some bs) ∧
      s1.readLayout c (field bs 0x10 8) true = (s2, some (.ok o)) ∧ s2.readLayout c (field bs 0x18 8) false = (s3, some (.ok n)) ∧ o.self ≠ noIndex ∧
      layoutsBad bs o n = none ∧ o.orphan = none ∧ s3.descRead 0 0 (field bs 0x20 8) (8 * field bs 0x28 4) = (s4, some alone) ∧
      s4.descRead 0 0 (field bs 0x30 8) (8 * field bs 0x38 4) = (s5, some alone) ∧ memberBad alone (field bs 0x28 4) = none ∧
      memberBad alone (field bs 0x38 4) = none ∧ (s5.part 0).stepState = .voting ∧
      ∃ x : Molt, x =
        { cmd := 0, slot := 0, forced := bitAt (field bs 0 1) 0, alg := field bs 1 1, tag := field bs 2 1
          newInstar := BitVec.ofNat 32 (field bs 4 4), step := BitVec.ofNat 64 (field bs 8 8), old := o, new := n
          vgroup := membersOf alone (field bs 0x28 4), vn := field bs 0x28 4, vself := field bs 0x2C 4
          rgroup := membersOf alone (field bs 0x38 4), rn := field bs 0x38 4, rself := field bs 0x3C 4
          limit := if field bs 0x40 4 = 0 then s5.entry 0x6040 4 else field bs 0x40 4, result := field bs 0x48 8, phaseFrom := s5.time } ∧
        x.forced = false ∧ s5.moltFault x = none := by
  refine ⟨by decide +kernel, ready_of (by decide +kernel), by decide +kernel, by decide +kernel, by decide +kernel, _, _, _, _, _, _, _,
    pair_get (by decide +kernel), pair_ok (by decide +kernel), pair_ok (by decide +kernel), by decide +kernel, by decide +kernel, by decide +kernel,
    pair_get (by decide +kernel), pair_get (by decide +kernel), by decide +kernel, by decide +kernel, by decide +kernel, _, rfl, by decide +kernel,
    by decide +kernel⟩
theorem witness_Molts_phases :
    let c : Cmd := { moltCmd with phase := .running }
    let s : State := { holding mapped c with molts := [{ cmd := 0, phase := .commit, limit := 100 }], colls := [{ cmd := 0, kind := .moltCommit }], time := 100 }
    s.nicLive = true ∧ s.cmd 0 = some c ∧ c.phase = .running ∧
    ∃ m x, s.molt 0 = some m ∧ noLastCkpt s m.slot ∧ m.cmd = 0 ∧ s.coll 0 = some x ∧ m.phase = .commit ∧ x.acts = [] ∧ m.phase ≠ .boundary ∧ m.phaseFrom + m.limit ≤ s.time ∧ x.cmd = 0 :=
  ⟨by decide +kernel, by decide +kernel, by decide +kernel, _, _, some_get (by decide +kernel), noLast_of (by decide +kernel), by decide +kernel, some_get (by decide +kernel),
    by decide +kernel, by decide +kernel, by decide +kernel, by decide +kernel, by decide +kernel⟩

/-! ## Witnesses: memory requests, errors and scrubbing -/

/-- Core 0 with a read to issue and one request out, of its generation 1 or older, to the slot's page of HBM. -/
def requests (r : MemReq) : State := (holding mapped { gatherCmd with phase := .running }).setCore 0 { mapped.core 0 with
  gen := 1, issue := [{ line := 3 }], slots := [r], lateReplies := 1 }
/-- A read of the page's first line to its second. -/
def lineRead : MemReq := { gen := 1, line := 7 * 256, va := 0x10000, dests := [.device 0x10100 256] }
theorem witness_RequestsAndReplies :
    ((up.core 0).issue = []) ∧
    (∃ i r s1, (((requests lineRead).noteHot 0).pickIssue
      (((requests lineRead).noteHot 0).issuable 0 [] (((requests lineRead).noteHot 0).core 0).issue 0)) = some (i, r, s1)) ∧
    ((requests { gen := 0 }).replyDue { gen := 0 } = true ∧ ((requests { gen := 0 }).core 0).slots[0]? = some { gen := 0 } ∧ (0 : Nat) ≠ ((requests { gen := 0 }).core 0).gen) ∧
    (∀ w, (requests { gen := 1, write := w }).replyDue { gen := 1, write := w } = true) ∧
    ((requests lineRead).replyDue lineRead = true ∧ ((requests lineRead).core 0).slots[0]? = some lineRead ∧ lineRead.gen = ((requests lineRead).core 0).gen ∧
      ∃ d w, (requests lineRead).cmd lineRead.cmd = some d ∧ d.poisoned = none ∧ d.phase = .running ∧ (requests lineRead).translate 0 0x10100 = some w) ∧
    ((requests { gen := 0 }).core 0).slots[1]? = none ∧ 0 < ((requests { gen := 0 }).core 0).lateReplies :=
  ⟨by decide +kernel, ⟨_, _, _, some_get (by decide +kernel)⟩, by decide +kernel, by decide +kernel,
    ⟨by decide +kernel, by decide +kernel, by decide +kernel, _, _, some_get (by decide +kernel), by decide +kernel, by decide +kernel, some_get (by decide +kernel)⟩,
    by decide +kernel, by decide +kernel⟩

theorem memWf_of {s : State} (h : tabWf 0 s.hbm = true ∧ tabWf 0 s.cxl = true ∧ tabWf 0 s.scratch = true ∧ tabWf 0 s.hostMem = true ∧
    tabWf 0xFF s.flash = true) : memWf s := h
theorem witness_FramesAndLines : let s := placed mapped 0 [1]
    memWf s ∧ s.powered = true ∧ 7 ≤ s.boot.stage ∧ s.linePoisoned false ((2 ^ 31 - 1 : BitVec 31).toNat * 256) = false :=
  ⟨memWf_of (by decide +kernel), by decide +kernel, by decide +kernel, by decide +kernel⟩
/-- A frame to retire while the first spare is itself retired. -/
theorem witness_FramesAndLines_frames :
    let s := (((placed mapped 0 [1]).setFrame false 9 { retiring := true }).setFrame true 1 { zeroing := true }).setFrame false (spareFrame 0) { retired := true }
    memWf s ∧ (s.frame false 9).retiring = true ∧ s.nextSpare (s.hbmFrames.length + 1) s.spareNext = some 1 ∧ s.inMove 9 = false ∧ (s.frame true 1).zeroing = true :=
  ⟨memWf_of (by decide +kernel), by decide +kernel, by decide +kernel, by decide +kernel, by decide +kernel⟩
theorem witness_ScratchAndStreams_scrub : mapped.groupAwake 0 ((64 : BankNo).val / 64) = true ∧ mapped.scrubOver 0 = false ∧
    tabGet 0 (mapped.core 0).scrubNext (64 : BankNo).val = (0 : Fin 1024).val := by decide +kernel

/-- One stream of two rows of 64 bytes, none fetched. -/
def streamOne : List Stream := [{ base := 0x10000, rowBytes := 64, rows := 2, stride := 64, lead := 2, valid := true }]
/-- A tile program on core 0 with that stream. -/
def streaming : State :=
  let s := holding mapped { given 0x10 [] with cores := [0], phase := .running }
  s.setCore 0 { s.core 0 with tile := { cmd := some 0, footprint := 3, streams := streamOne } }
theorem witness_ScratchAndStreams_row : ∃ r d x s1 s2 bs, streaming.tileOf 0 = some (r, d) ∧ r.streams[(0 : Fin 8).val]? = some x ∧ x.nextRow (r.reached 0) = some (0, false) ∧
    streaming.issueRoom 0 (lineSpans (x.rowVa 0) x.rowBytes).length = true ∧
    (streaming.pushLines 0 d.id d.slot .stream false (x.rowVa 0) x.rowBytes (fun o m => [.scratch (x.dest + 0 % x.lead * x.rowBytes + o) m]) (8 * 0 + 0)).cmdTagged d.id d.slot (x.rowVa 0) x.rowBytes = (s1, some bs) ∧
    s1.cmdScratchWrite d.id d.slot 0 (s1.core 0).tile.foot (x.dest + 0 % x.lead * x.rowBytes) bs = (s2, true) :=
  ⟨_, _, _, _, _, _, some_get (by decide +kernel), some_get (by decide +kernel), by decide +kernel, by decide +kernel, pair_of [] (by decide +kernel),
    pair_true (by decide +kernel)⟩

/-! ## Witnesses: bank programs -/

/-- A BANK_RUN of library program lib over group g, banks 0 and 1, with a FOOTPRINT. -/
def bankDesc (lib g foot : Nat) : List Byte :=
  bytesOfNat lib 2 ++ bytesOfNat 0 1 ++ bytesOfNat 1 1 ++ List.replicate 12 0 ++ bytesOfNat foot 10 ++ List.replicate 38 0 ++
  bytesOfNat g 1 ++ bytesOfNat 1 1 ++ bytesOfNat 0 2 ++ bytesOfNat 3 8 ++ bytesOfNat 0 2 ++ bytesOfNat 16384 2 ++ List.replicate 16 0 ++
  bytesOfNat 1 4 ++ List.replicate 12 0
def bankCmd : Cmd := { given 0x11 [(0x60, 0x10000)] with cores := [0] }
def bankAsked (lib g foot : Nat) : State := holding (placed mapped 0 (bankDesc lib g foot)) bankCmd
theorem witness_BankRunStarts (lib g foot : Nat) (h : lib = 1 ∧ g = 1 ∧ foot = 3 ∨ lib = 5 ∧ g = 1 ∧ foot = 3 ∨ lib = 1 ∧ g = 79 ∧ foot = 3) :
    ready (bankAsked lib g foot) 0 0x11 bankCmd ∧ bankCmd.payload % 64 = 0 ∧ ∃ s1 bs d,
      ((bankAsked lib g foot).beginCmd bankCmd).readBankDesc 0 0 bankCmd.payload = (s1, some bs) ∧ s1.cmd 0 = some d ∧ d.phase = .running ∧
      (lib = 5 → bankBad bs = some 0) ∧ (g = 79 → bankBad bs = none ∧ s1.bankUnheld 0 bankCmd.cores (bankRunOf bs) = some 79) ∧
      (lib = 1 ∧ g = 1 → bankBad bs = none ∧ s1.bankUnheld 0 bankCmd.cores (bankRunOf bs) = none ∧ (bankRunOf bs).outside = none ∧ s1.stepSkew 0 bs = false) := by
  rcases h with ⟨rfl, rfl, rfl⟩ | ⟨rfl, rfl, rfl⟩ | ⟨rfl, rfl, rfl⟩ <;>
    exact ⟨ready_of (by decide +kernel), by decide +kernel, _, _, _, pair_of [] (by decide +kernel), some_get (by decide +kernel), by decide +kernel, by decide +kernel,
      by decide +kernel, by decide +kernel⟩
/-- A BANK_RUN and a TILE_RUN whose descriptor stands at 0x10020. -/
theorem witness_misaligned (op : Nat) (h : op = 0x10 ∨ op = 0x11) : let c := { given op [(0x60, 0x10020)] with cores := [0] }
    ready (holding mapped c) 0 op c ∧ c.payload % 64 ≠ 0 := by
  rcases h with rfl | rfl <;> exact ⟨ready_of (by decide +kernel), by decide +kernel⟩

/-- A bank program of one micro-op and END on banks of group 0, its window the first hi bytes, its address registers at 16. -/
def bankAt (mask : W64) (hi w : Nat) : State :=
  let s := holding mapped { bankCmd with phase := .running }
  s.setCore 0 { s.core 0 with bank := { cmd := some 0, program := [BitVec.ofNat 32 w, 0], footprint := 1, k := [1, 2, 3, 4, 5, 6, 7, 8]
                                        stripes := [{ groups := 1, mask := mask, winHi := hi, aInit := List.replicate 8 16 }] } }
theorem witness_BankArithmetic :
    ∀ op ∈ [0x08, 0x10, 0x11, 0x12, 0x13, 0x14, 0x15, 0x16, 0x17, 0x18, 0x19, 0x1A, 0x1B, 0x22], ((bankAt 3 16384 (uop op 1 0 0 0 0)).uopAt 0 1 op).isSome = true := by
  decide +kernel
theorem witness_BankPort : ∀ op ∈ [1, 2, 3, 4, 5, 6],
    ((bankAt 3 32 (uop op 0 0 0 0 1)).uopAt 0 1 op).any (fun u => u.inWindow) = true ∧
    ((bankAt 3 16 (uop op 0 0 0 0 1)).uopAt 0 1 op).any (fun u => !u.inWindow) = true := by decide +kernel
theorem witness_BankControl_end (mask : W64) (h : mask = 1 ∨ mask = 3) : ∃ u d, (bankAt mask 32 0).uopAt 0 0 0 = some u ∧ (bankAt mask 32 0).cmd u.id = some d ∧ clean d ∧
    (mask = 1 → ∀ k ∈ d.cores, (((bankAt mask 32 0).putEngine u { u.eng with ended := true, issued := u.eng.issued + 1 } 0).core k).bank.allEnded = true) ∧
    (mask = 3 → ∃ k ∈ d.cores, (((bankAt mask 32 0).putEngine u { u.eng with ended := true, issued := u.eng.issued + 1 } 0).core k).bank.allEnded = false) := by
  rcases h with rfl | rfl <;>
    exact ⟨_, _, some_get (by decide +kernel), some_get (by decide +kernel), clean_of (by decide +kernel), by decide +kernel, by decide +kernel⟩
theorem witness_BankControl : (∀ op ∈ [0x07, 0x20, 0x21], ((bankAt 3 32 (uop op 0 0 0 0 0)).uopAt 0 0 op).isSome = true) ∧
    (((bankAt 3 32 (0x30 * 2 ^ 26 + 2 * 2 ^ 20 + 2 ^ 14)).uopAt 0 0 0x30).any fun u => u.count == 0) = true ∧
    (((bankAt 3 32 (0x30 * 2 ^ 26 + 2 * 2 ^ 20 + 2 ^ 14 + 9)).uopAt 0 0 0x30).any fun u => u.count == 9) = true := by decide +kernel
theorem witness_BankControl_trees : ∀ op ∈ [0x28, 0x29],
    ((bankAt 3 32 (uop op 0 0 0 0 0)).uopAt 0 0 op).any (fun u =>
      ((((bankAt 3 32 (uop op 0 0 0 0 0)).putEngine u { u.eng with inTree := true } 0).core u.core).bank.active (u.bank / 64)).any fun x => !x.2.2.2.inTree) = true ∧
    ((bankAt 1 32 (uop op 0 0 0 0 0)).uopAt 0 0 op).any (fun u =>
      let k := (((bankAt 1 32 (uop op 0 0 0 0 0)).putEngine u { u.eng with inTree := true } 0).core u.core).bank
      (k.active (u.bank / 64)).length == 1 && (k.active (u.bank / 64)).all fun x =>
        x.2.2.2.inTree && x.2.2.2.pc == u.eng.pc && (k.uops x.2.2.1)[u.eng.pc]? == some u.w) = true := by
  decide +kernel

/-! ## Witnesses: tile programs -/

/-- A TILE_RUN of one pass of one row and one column: its MODE, its FOOTPRINT. -/
def tileDesc (mode foot : Nat) : List Byte :=
  bytesOfNat mode 1 ++ bytesOfNat 0 1 ++ bytesOfNat 1 2 ++ bytesOfNat 0 4 ++ bytesOfNat foot 10 ++ List.replicate 46 0 ++ List.replicate 256 0 ++
  (bytesOfNat 1 2 ++ bytesOfNat 1 2 ++ bytesOfNat 1 2 ++ bytesOfNat 0 2 ++ bytesOfNat 1 2 ++ List.replicate 54 0)
def tileCmd : Cmd := { given 0x10 [(0x60, 0x10000)] with cores := [0] }
def tileAsked (mode foot : Nat) : State := holding (placed mapped 0 (tileDesc mode foot)) tileCmd
theorem witness_TilePrograms_checks (mode foot : Nat) (h : mode = 4 ∧ foot = 3 ∨ mode = 0 ∧ foot = 7 ∨ mode = 0 ∧ foot = 3) :
    ready (tileAsked mode foot) 0 0x10 tileCmd ∧ tileCmd.payload % 64 = 0 ∧ ∃ s1 s2 hd parts d,
      ((tileAsked mode foot).beginCmd tileCmd).descRead 0 0 tileCmd.payload 64 = (s1, some hd) ∧
      s1.readParts 0 0 tileCmd.payload (field hd 0x20 4) (tileCmd.cores.zipIdx.map fun e => (e.2, e.1)) = (s2, some parts) ∧ s2.cmd 0 = some d ∧
      d.phase = .running ∧ (mode = 4 → (parts.findSome? fun e => tileBad e.2) = some 0) ∧
      (foot = 7 → (parts.findSome? fun e => tileBad e.2) = none ∧ s2.tileUnheld 0 parts = some 2) ∧
      (mode = 0 ∧ foot = 3 → (∀ e ∈ parts, tileBad e.2 = none) ∧ s2.tileUnheld 0 parts = none ∧
        (∀ e ∈ parts, ∀ n ∈ tileTrackers e.2, (s2.tracker 0 n).isSome = true) ∧ (parts.map (·.1)).Nodup) := by
  rcases h with ⟨rfl, rfl⟩ | ⟨rfl, rfl⟩ | ⟨rfl, rfl⟩ <;>
    exact ⟨ready_of (by decide +kernel), by decide +kernel, _, _, _, _, _, pair_of [] (by decide +kernel), pair_of [] (by decide +kernel), some_get (by decide +kernel),
      by decide +kernel, by decide +kernel, by decide +kernel, by decide +kernel⟩
theorem witness_TilePrograms_vecs : ∃ s3, vecsRead 0 0 (tileAsked 0 3) [(0, tileDesc 0 3)] s3 := ⟨_, _, _, pair_ok (by decide +kernel), rfl⟩

/-- A tile program of one pass on core 0. -/
def tiling (p : Pass) : State :=
  let s := holding mapped { tileCmd with phase := .running }
  s.setCore 0 { s.core 0 with tile := { cmd := some 0, footprint := 3, passes := [p] } }
theorem witness_TilePrograms_load : let p : Pass := { load := true, mRows := 2 }
    ∃ r d s1 pl, (tiling p).tileOf 0 = some (r, d) ∧ r.nextPass 0 = some (0, p) ∧ (tiling p).rowsHere 0 d.id r p = true ∧ r.credit 0 p = true ∧
      ((tiling p).scratchErrs d.slot 0 []).loadPlane d.id d.slot 0 r.mode p = (s1, some pl) :=
  ⟨_, _, _, _, some_get (by decide +kernel), by decide +kernel, by decide +kernel, by decide +kernel, pair_of {} (by decide +kernel)⟩
theorem witness_TilePrograms_set : let p : Pass := {}
    ∃ r d s1 m, (tiling p).tileOf 0 = some (r, d) ∧ r.nextPass 0 = some (0, p) ∧ (tiling p).rowsHere 0 d.id r p = true ∧ r.credit 0 p = true ∧ p.load = false ∧
      p.acc = false ∧ p.emit = false ∧ p.reuse = false ∧ p.mRows = 1 ∧ ((tiling p).scratchErrs d.slot 0 []).movingRow d.id d.slot 0 p 0 = (s1, some m) :=
  ⟨_, _, _, _, some_get (by decide +kernel), by decide +kernel, by decide +kernel, by decide +kernel, rfl, rfl, rfl, rfl, rfl, pair_of {} (by decide +kernel)⟩
/-- A pass that waits for row 0 of stream 0, none of which is fetched; not yet counted, and counted. -/
theorem witness_TilePrograms_late : ∀ l : Bool,
    let p : Pass := { wait := some 0 }
    let s := tiling p
    let s := s.setCore 0 { s.core 0 with tile := { (s.core 0).tile with streams := streamOne, subs := [(0, { late := l })] } }
    (s.tileOf 0).any (fun e => e.1.nextPass 0 == some (0, p) && !s.rowsHere 0 e.2.id e.1 p && (e.1.sub 0).late == l) = true := by decide +kernel

/-! ## Witnesses: the vector engine -/

/-- A vector program of one instruction and END on core 0, with words in the tile queue. -/
def vectoring (q : List QWord) (closed : Bool) (w : Nat) : State :=
  let s := holding mapped { tileCmd with phase := .running }
  s.setCore 0 { s.core 0 with tile := { cmd := some 0, footprint := 3, queue := q, closed := closed, vprog := [BitVec.ofNat 64 w, 0], vec := { active := true } } }
/-- An instruction word: opcode, vd, va, COUNT − 1. -/
def vecWord (op vd va n low : Nat) : Nat := op * 2 ^ 56 + vd * 2 ^ 51 + va * 2 ^ 46 + n * 2 ^ 19 + low
/-- The same with index register 1 at x and four bank groups. -/
def vectorAt (x : W32) (w : Nat) : State :=
  let s := vectoring [] false w
  s.setCore 0 { s.core 0 with groups := 15, tile := { (s.core 0).tile with footprint := 15, vec := { active := true, x := [(1, x)] } } }

theorem witness_VectorArithmetic : ∀ op ∈ [0x20, 0x21, 0x22, 0x23, 0x24, 0x25, 0x26, 0x27, 0x28, 0x29, 0x2A, 0x2C, 0x2D],
    ((vectoring [] false (vecWord op 3 3 8191 0)).vecAt 0 op).any (fun u => vCount u.w == 8192) = true := by decide +kernel
theorem witness_VectorFunctions : ∀ op ∈ [0x2B, 0x2E, 0x40, 0x41, 0x42, 0x43, 0x44, 0x45, 0x46, 0x47, 0x48, 0x49, 0x4A, 0x50, 0x51],
    ((vectoring [] false (vecWord op 3 3 0 0)).vecAt 0 op).any (fun u => vCount u.w == 1) = true := by decide +kernel
theorem witness_VectorMasksAndShapes : ∀ op ∈ [0x30, 0x31, 0x32, 0x33, 0x34, 0x35, 0x60, 0x61, 0x62, 0x63, 0x64],
    ((vectoring [] false (vecWord op 3 3 0 0)).vecAt 0 op).isSome = true := by decide +kernel

theorem witness_VectorMemory_loads : ∀ e ∈ [(0x10, 4), (0x11, 2), (0x12, 4)],
    ((vectorAt (BitVec.ofNat 32 (scratchLimit - 4)) (vecWord e.1 3 0 0 (2 ^ 15))).vecAt 0 e.1).any (fun u =>
      decide (u.x + e.2 ≤ scratchLimit) && decide (vCount u.w = 1)) = true := by decide +kernel
theorem witness_VectorMemory_reads : ∃ u bs, (vectorAt 0 (vecWord 0x10 3 0 0 (2 ^ 15))).vecAt 0 0x10 = some u ∧ u.x + 4 ≤ scratchLimit ∧ 4 = 4 * vCount u.w ∧
    ((vectorAt 0 (vecWord 0x10 3 0 0 (2 ^ 15))).scratchErrs u.slot u.core []).sread u.slot u.core u.x 4 = .ok bs := by
  exact ⟨_, _, some_get (by decide +kernel), by decide +kernel, by decide +kernel, ok_get (by decide +kernel)⟩
theorem witness_VectorMemory_stores (op size : Nat) (h : op = 0x13 ∧ size = 4 ∨ op = 0x14 ∧ size = 2) :
    ∃ u s1, (vectorAt 64 (vecWord op 0 3 0 (2 ^ 15))).vecAt 0 op = some u ∧ u.x + size * vCount u.w ≤ scratchLimit ∧ vCount u.w = 1 ∧ u.sel 0 = true ∧ u.x % size = 0 ∧
      ((vectorAt 64 (vecWord op 0 3 0 (2 ^ 15))).scratchErrs u.slot u.core []).vecStores u (storePieces size (if u.x % size = 0 then pieces 4 u.x (size * vCount u.w)
          else (List.range (vCount u.w)).map fun i => (u.x + size * i, size))
        ((List.range (vCount u.w)).map fun e => if u.sel e then some (((if size = 4 then (u.a e).bytes else
          bytes16 ((narrowBf16 (u.a e).1).1, (u.a e).2))).map fun b => (b.1, b.2 || u.maskBad)) else none)) = (s1, none) := by
  rcases h with ⟨rfl, rfl⟩ | ⟨rfl, rfl⟩ <;>
    exact ⟨_, _, some_get (by decide +kernel), by decide +kernel, by decide +kernel, by decide +kernel, by decide +kernel, pair_true (by decide +kernel)⟩
/-- A store of two elements across bank groups 1 and 2; group 2 is a save group of the vector program. -/
theorem witness_VectorMemory_midway :
    let s := vectorAt 124 (vecWord 0x13 0 3 1 (2 ^ 15))
    ∃ u s1, s.vecAt 0 0x13 = some u ∧ u.x + 4 * vCount u.w ≤ scratchLimit ∧
      (s.scratchErrs u.slot u.core []).vecStores u (storePieces 4
        (if u.x % 4 = 0 then pieces 4 u.x (4 * vCount u.w) else (List.range (vCount u.w)).map fun i => (u.x + 4 * i, 4))
        ((List.range (vCount u.w)).map fun e => if u.sel e then some ((u.a e).bytes.map fun b => (b.1, b.2 || u.maskBad)) else none)) =
          (s1, some (128, 0x0209, 2)) :=
  ⟨_, _, some_get (by decide +kernel), by decide +kernel, pair_true (by decide +kernel)⟩
theorem witness_VectorMemory_accumulate :
    let s := vectorAt 64 (vecWord 0x15 0 3 0 (2 ^ 15))
    ∃ u, s.vecAt 0 0x15 = some u ∧ u.x + 4 * vCount u.w ≤ scratchLimit ∧
      (({ st := s.scratchErrs u.slot u.core [], draws := u.run.accDraws } : AccOut).run u.slot u.core u.run.foot
        { sr := u.run.sr && decide (u.run.beSrAfter < u.run.accIndex), seed := u.run.srStep, index := u.run.accIndex } (elemPieces u.x (vCount u.w))
        ((List.range (vCount u.w)).map fun e => if u.sel e then some ((u.a e).1, (u.a e).2 || u.maskBad) else none)).stop = none :=
  ⟨_, some_get (by decide +kernel), by decide +kernel, by decide +kernel⟩
theorem witness_VectorMemory_range : ∀ op ∈ [0x10, 0x13, 0x15],
    ((vectorAt (BitVec.ofNat 32 (scratchLimit - 3)) (vecWord op 3 3 0 (2 ^ 15))).vecAt 0 op).any (fun u => decide (scratchLimit < u.x + 4 * vCount u.w)) = true := by
  decide +kernel

theorem witness_VectorSequence_control :
    (∀ op ∈ [0x00, 0x02, 0x03, 0x04], ((vectoring [] false (vecWord op 3 0 0 0)).vecAt 0 op).isSome = true) ∧
    ((vectoring [] false (vecWord 0x01 0 0 0 0)).vecAt 0 0x01).any (fun u => bits u.w 16 16 == 0) = true ∧
    ((vectoring [] false (vecWord 0x01 0 0 0 (7 * 65536))).vecAt 0 0x01).any (fun u => bits u.w 16 16 != 0) = true := by decide +kernel
theorem witness_VectorSequence_queue :
    let w : QWord := { endMark := true }
    ((vectoring [w] true (vecWord 0x18 3 0 15 0)).vecAt 0 0x18).any (fun u => decide (ceilDiv (vCount u.w) 16 ≤ u.run.queue.length)) = true ∧
    ((vectoring [w] false (vecWord 0x18 3 0 16 0)).vecAt 0 0x18).any (fun u => decide (u.run.queue.length < ceilDiv (vCount u.w) 16) && !u.run.closed) = true ∧
    ((vectoring [w] true (vecWord 0x18 3 0 16 0)).vecAt 0 0x18).any (fun u => decide (u.run.queue.length < ceilDiv (vCount u.w) 16) && u.run.closed) = true ∧
    ((vectoring [w] false (vecWord 0x19 0 0 0 1)).vecAt 0 0x19).any (fun u => decide (bits u.w 0 11 ≤ u.run.packets)) = true ∧
    ((vectoring [w] false (vecWord 0x19 0 0 0 2)).vecAt 0 0x19).any (fun u => decide (u.run.packets < bits u.w 0 11) && !u.run.closed) = true ∧
    ((vectoring [{}] true (vecWord 0x1A 0 0 0 0)).vecAt 0 0x1A).any (fun u => decide (u.run.queue = [({} : QWord)]) && u.run.closed) = true ∧
    ((vectoring [{}] false (vecWord 0x1A 0 0 0 0)).vecAt 0 0x1A).any (fun u => decide (u.run.queue = [({} : QWord)]) && !u.run.closed) = true ∧
    ((vectoring [{}, w, {}] true (vecWord 0x1A 0 0 0 0)).vecAt 0 0x1A).any (fun u => decide (u.run.queue = [({} : QWord)] ++ w :: [{}]) && u.run.closed) = true := by
  decide +kernel

/-! ## Witnesses: Ethernet ports and Silk flows -/

/-- Port 0's link up, with an IPv4 and an IPv6 address and flow control of class 2 on PCP 5; port 1's link down. -/
def lan : State := { mapped with
  ethPorts := [(0, { up := true })]
  dict := [(dk 0x6002 1, 0x0A000001), (dk 0x6003 1, 1), (dk 0x6008 1, 4), (dk 0x6009 3, 5)] }
theorem witness_EthernetFrames_links :
    (lan.power.state = .running ∧ lan.portExists 0 = true ∧ (lan.eth 0).up = true) ∧ (lan.power.state = .running ∧ 8 ≤ lan.boot.stage ∧ lan.boot.halt = 0 ∧ lan.portExists 1 = true ∧ (lan.eth 1).up = false ∧
      ∀ e ∈ lan.flows, e.2.port = 1 → e.2.state ≠ .paused) ∧
    (let fl : Flow := { holder := some 0, state := .paused, port := 1 }
     let s : State := { lan with flows := [(16383, fl)] }
     s.portExists 1 = true ∧ (s.eth 1).up = false ∧ s.flows = [(16383, fl)] ∧ fl.port = 1 ∧ fl.state = .paused ∧ s.holdOver fl = false) := by decide +kernel
theorem witness_EthernetFrames_frames :
    lan.portUp 0 = true ∧ lan.laneUp 0 = true ∧
    (let mine : Bool → Nat → Prop := fun v6 a => a ≠ 0 ∧ if (0 : LaneNo).val < 16 then lan.portAddr 0 v6 = a else a ∈ lan.laneAddrs 0 v6
     mine false (0x0A000001 : W32).toNat ∧ ¬ mine false (2 : W32).toNat ∧ mine true (1 : BitVec 128).toNat ∧ ¬ mine true (2 : BitVec 128).toNat) ∧
    (let s : State := { lan with dict := (dk 0x6051 2, 7) :: lan.dict }
     let mine : Bool → Nat → Prop := fun v6 a => a ≠ 0 ∧ if (17 : LaneNo).val < 16 then s.portAddr 17 v6 = a else a ∈ s.laneAddrs 17 v6
     s.laneUp 17 = true ∧ mine false (7 : W32).toNat ∧ ¬ mine false (2 : W32).toNat ∧ 16 ≤ (17 : LaneNo).val) ∧
    (((lan.eth 0).echoTimes.filter fun x => decide (lan.time < x + 1000000)).length < 100) ∧
    (100 ≤ (((lan.setEth 0 { up := true, echoTimes := List.replicate 100 0 }).eth 0).echoTimes.filter fun x => decide (lan.time < x + 1000000)).length) ∧
    ((0 : Fin 18).val < 16 ∧ (0 : Fin 18).val * lan.portCount / 16 = 0) ∧ (16 ≤ (17 : Fin 18).val ∧ lan.slowClock = true) ∧
    lan.pfcClasses 0 5 = [2] ∧ lan.pfcClasses 0 4 = [] := by decide +kernel

/-- Flow 0 of slot 0 on port 0. -/
def flowed (fl : Flow) : State := { lan with flows := [(0, fl)], time := 1000000 }
def opening : Flow := { holder := some 0, state := .opening, addr := 9, passive := false, rxSlots := 16, rxRing := 0x10000 }
theorem witness_SilkOpening_hops :
    ((flowed opening).flow 0 = opening ∧ (flowed opening).portUp opening.port = true ∧ opening.state = .opening ∧ opening.resolved = false ∧
      opening.passive = false ∧ opening.lastOpen + 100 ≤ (flowed opening).time) ∧
    ((flowed { opening with passive := true }).portUp 0 = true ∧ (flowed { opening with passive := true }).flow 0 = { opening with passive := true }) ∧
    (flowed { opening with resolved := true }).flow 0 = { opening with resolved := true } := by decide +kernel

/-- A packet of a type for flow 0, to port 0's address and to SILK_UDP_PORT. -/
def pktOf (ty flags psn ack vote : Nat) (payload : List Byte) : SilkPkt :=
  { port := 0, v6 := false, src := 9, dst := 0x0A000001, sport := 0xC000, dport := 52410, plainIp := true, udpOk := true, ce := false
    hdr := ({ ver := 1, ty := ty, flags := flags, psn := psn, ackPsn := ack, vote := vote } : Silk).word, payload := payload }
def opened : Flow := { opening with state := .opened, resolved := true, creditSent := 16, txOut := [{ psn := 1 }], txNext := 2 }
theorem witness_SilkOpening_packets (ty : Nat) (fl : Flow)
    (h : ty = 4 ∧ fl = opening ∨ ty = 5 ∧ fl = opening ∨ ty = 3 ∧ fl = opened ∨ ty = 6 ∧ fl = opened ∨ ty = 6 ∧ fl = { opened with state := .closing }) :
    let k := pktOf ty 0 0 0 5 []
    (silkOf k.hdr).flow = 0 ∧ (silkOf k.hdr).ty = ty ∧ (flowed fl).flow 0 = fl ∧ (flowed fl).portUp k.port.val = true ∧ (flowed fl).canHear k = true ∧
      (flowed fl).isSilk k = true ∧ silkPktOk k = true ∧ (flowed fl).dropCause k = none ∧ (flowed fl).colls = [] ∧ (flowed fl).molts = [] := by
  rcases h with ⟨rfl, rfl⟩ | ⟨rfl, rfl⟩ | ⟨rfl, rfl⟩ | ⟨rfl, rfl⟩ | ⟨rfl, rfl⟩ <;> decide +kernel

/-- A DEPART and a CLOSE that a PAUSED flow still hears, its port being down. -/
theorem witness_SilkOpening_paused (ty : Nat) (h : ty = 3 ∨ ty = 6) :
    let k := pktOf ty 0 0 0 5 []
    let s : State := { flowed { opened with state := .paused } with ethPorts := [] }
    s.portUp k.port.val = false ∧ (s.flow 0).state = .paused ∧ s.canHear k = true ∧ s.isSilk k = true ∧ silkPktOk k = true ∧ s.dropCause k = none := by
  rcases h with rfl | rfl <;> decide +kernel
/-- A flow to the module's own port, and one that is not. -/
theorem witness_sends : (flowed opening).isLocal opening = false ∧ (flowed opening).isLocal { opening with addr := 0x0A000001 } = true := by decide +kernel

theorem witness_SilkPackets_data :
    let k := pktOf 0 16 1 0 5 (List.replicate 1024 7)
    (flowed opened).portUp k.port.val = true ∧ (flowed opened).isSilk k = true ∧ (flowed opened).isSilk { k with dport := 1 } = false ∧ silkPktOk k = true ∧ (silkOf k.hdr).ty = 0 ∧ (flowed opened).dropCause k = none ∧ opened.holder = some 0 ∧
      opened.rxHave = [] ∧ (silkOf k.hdr).psn = psnNext opened.rxAck := by decide +kernel
theorem witness_SilkPackets_drops :
    (let k := { pktOf 0 16 1 0 5 (List.replicate 1024 7) with udpOk := false }
     (flowed opened).isSilk k = true ∧ silkPktOk k = false) ∧
    (let k := pktOf 0 16 17 0 5 (List.replicate 1024 7)
     (flowed opened).isSilk k = true ∧ silkPktOk k = true ∧ (silkOf k.hdr).ty = 0 ∧ (flowed opened).dropCause k = some 8) := by decide +kernel
theorem witness_SilkPackets_acks (ty : Nat) (fl : Flow) (h : ty = 1 ∧ fl = opened ∨ ty = 2 ∧ fl = opened ∨ ty = 1 ∧ fl = { opened with state := .closing } ∨
      ty = 1 ∧ fl = { opened with state := .closing, closePsn := some 1 }) :
    let k := pktOf ty 0 0 1 5 []
    (flowed fl).flow (silkOf k.hdr).flow = fl ∧ (flowed fl).portUp k.port.val = true ∧ (flowed fl).isSilk k = true ∧ silkPktOk k = true ∧ (flowed fl).dropCause k = none ∧ (silkOf k.hdr).ty = ty ∧
      ∀ x ∈ fl.txOut, psnAfter x.psn (silkOf k.hdr).ackPsn = false := by
  rcases h with ⟨rfl, rfl⟩ | ⟨rfl, rfl⟩ | ⟨rfl, rfl⟩ | ⟨rfl, rfl⟩ <;> decide +kernel

theorem witness_SilkTimers_send :
    let s := flowed { opened with txQueue := [{ payload := [1] }], peerCredit := 9 }
    s.portUp 0 = true ∧ s.pickSend 0 true = some (0, 0) ∧ ∃ x l, (s.flow 0).txQueue = x :: l ∧ x.close = false := ⟨by decide +kernel, by decide +kernel, _, _, rfl, rfl⟩
/-- The slot's floor bucket of egress is empty: its packet goes in the spare class. -/
theorem witness_SilkTimers_spare :
    let s0 := flowed { opened with txQueue := [{ payload := [1] }], peerCredit := 9 }
    let s := s0.setRegulator 0 5 { floorUsed := bucketDepth (s0.floorOf 0 5) }
    s.portUp 0 = true ∧ s.pickSend 0 false = some (0, 0) ∧ s.pickSend 0 true = none ∧ s.couldResend 0 0 0 = false ∧ ∃ x l, (s.flow 0).txQueue = x :: l ∧ x.close = false :=
  ⟨by decide +kernel, by decide +kernel, by decide +kernel, by decide +kernel, _, _, rfl, rfl⟩
/-- The flow's packet 1 is to be sent again. -/
theorem witness_SilkTimers_again :
    let k : TxPkt := { psn := 1, due := true }
    let s := flowed { opened with txOut := [k] }
    s.portUp 0 = true ∧ s.pickSend 0 true = none ∧ s.pickSend 0 false = some (0, 0) ∧ s.couldResend 0 0 0 = true ∧ (s.flow 0).duePkt = some k ∧
      (s.flow 0).txOut.find? (fun d => d.psn == k.psn) = some k ∧ k.close = false := by decide +kernel
theorem witness_SilkTimers_live :
    (flowed opened).portUp opened.port = true ∧ (opened.lastTx + (flowed opened).entry 0x6010 2 ≤ (flowed opened).time) ∧
    (let fl := { opened with sinceAck := 1 }
     fl.state ≠ .closed ∧ fl.state ≠ .failed ∧ 0 < fl.sinceAck ∧ fl.firstUnacked + (flowed fl).entry 0x6010 10 ≤ (flowed fl).time) ∧
    opened.roundStart + opened.srtt8 / 8 ≤ (flowed opened).time ∧
    (opened.oldest.isSome = true ∧ opened.rtoFrom + opened.rto ≤ (flowed opened).time ∧ opened.retries + 1 < (flowed opened).entry 0x6010 7 ∧
      ∀ i, opened.holder = some i → i < 16) ∧
    (let fl := { opened with retries := (flowed opened).entry 0x6010 7 - 1 }
     fl.oldest.isSome = true ∧ (flowed fl).entry 0x6010 7 ≤ fl.retries + 1 ∧ (flowed fl).colls = [] ∧ (flowed fl).molts = []) :=
  ⟨by decide +kernel, by decide +kernel, by decide +kernel, by decide +kernel, ⟨by decide +kernel, by decide +kernel, by decide +kernel, by
    intro i h; cases h; decide⟩, by decide +kernel⟩
theorem witness_SilkTimers_holds :
    let s := { flowed { opened with state := .paused } with time := 1000 * (flowed opened).entry 0x6010 4 }
    (flowed opened).nicLive = true ∧ opened.lastRx + (flowed opened).entry 0x6010 3 ≤ (flowed opened).time ∧ s.nicLive = true ∧
      (s.flow 0).state = .paused ∧ (s.flow 0).stateSince + 1000 * s.entry 0x6010 4 ≤ s.time := by decide +kernel

/-! ## Witnesses: FLOW_OPEN and FLOW_CLOSE -/

/-- Bytes of fields at rising offsets, each (offset, size, value). -/
def bytesAt (n : Nat) (l : List (Nat × Nat × Nat)) : List Byte := bytesOfNat (l.foldl (fun v e => v + e.2.2 * 2 ^ (8 * e.1)) 0) n
/-- Flow 0 of slot 0, closed. -/
def closed0 (s : State) : State := { s with flows := [(0, { holder := some 0 })], ethPorts := lan.ethPorts, dict := lan.dict }
/-- FLOW_OPEN of flow 0, of ring size n, its list at the page's foot. -/
def flowCmd : Cmd := given 0x40 [(0x60, 0x10000), (0x68, 1)]
def flowAsk (n : Nat) : State := closed0 (placed (holding mapped flowCmd) 0 (bytesAt 64 [(4, 1, 0), (5, 1, 4), (6, 2, 7), (8, 1, 9), (0x20, 8, 0x10000), (0x28, 4, n)]))
theorem witness_FlowsOpenAndClose_open (n : Nat) (hn : n = 16 ∨ n = 17) :
    (flowAsk n).nicLive = true ∧ clean flowCmd ∧ ready (flowAsk n) 0 0x40 flowCmd ∧ flowCount flowCmd.record = 1 ∧
    ∃ s1 bs d, ((flowAsk n).beginCmd flowCmd).descRead 0 0 flowCmd.payload 64 = (s1, some bs) ∧ s1.cmd 0 = some d ∧ d.phase = .running ∧
      s1.flowListBad 0 ((List.range 1).map fun i => (bs.drop (64 * i)).take 64) 0 [] = (if n = 16 then none else some (2 ^ 16 * 0x28)) := by
  rcases hn with rfl | rfl <;>
    exact ⟨by decide +kernel, clean_of (by decide +kernel), ready_of (by decide +kernel), by decide +kernel, _, _, _, pair_of [] (by decide +kernel),
      some_get (by decide +kernel), by decide +kernel, by decide +kernel⟩
/-- FLOW_CLOSE of flow 0, which is open or failed. -/
def closeCmd : Cmd := given 0x41 [(0x60, 0x10000), (0x68, 1)]
def closeAsk (st : FlowState) : State := { closed0 (holding mapped closeCmd) with flows := [(0, { holder := some 0, state := st })] }
theorem witness_FlowsOpenAndClose_close (st : FlowState) (h : st = .opened ∨ st = .failed) :
    (closeAsk st).nicLive = true ∧ clean closeCmd ∧ ready (closeAsk st) 0 0x41 closeCmd ∧ flowCount closeCmd.record = 1 ∧
    ∃ s1 bs, ((closeAsk st).beginCmd closeCmd).descRead 0 0 closeCmd.payload 2 = (s1, some bs) ∧ (∀ i, i < 1 → s1.closeBad 0 (field bs (2 * i) 2) = false) := by
  rcases h with rfl | rfl <;>
    exact ⟨by decide +kernel, clean_of (by decide +kernel), ready_of (by decide +kernel), by decide +kernel, _, _, pair_of [] (by decide +kernel), by decide +kernel⟩
theorem witness_FlowsOpenAndClose_ends (op : Nat) (h : op = 0x40 ∨ op = 0x41) :
    let c : Cmd := { given op [(0x60, 0x10000), (0x68, 1)] with phase := .running }
    let s : State := { holding mapped c with time := 998, flows := [(0, { holder := some 0, state := .opening, cmd := some 0 })] }
    s.nicLive = true ∧ clean c ∧ s.runningOp 0 op = some c ∧ s.nearEnd c = true ∧ s.flowsOf 0 = [0] := by
  rcases h with rfl | rfl <;> exact ⟨by decide +kernel, clean_of (by decide +kernel), by decide +kernel, by decide +kernel, by decide +kernel⟩

/-! ## Witnesses: collectives -/

/-- COLLECTIVE with its descriptor at the page's foot, and with a wait on token 0 of the slot, marked external or not. -/
def collCmd (wait : Nat) : Cmd := given 0x50 [(0x10, wait), (0x60, 0x10000)]
/-- ALL_GATHER by RING, or ALL_TO_ALL, of n members with blocks of 64 bytes; the member table at 0x400 of the page. -/
def collDesc (op alg n : Nat) : List Byte := bytesAt 128 [(0, 1, op), (1, 1, alg), (4, 4, n), (0x0C, 1, 1), (0x10, 8, 64), (0x18, 8, 0x10000), (0x20, 8, 0x11000), (0x28, 8, 0x10400),
  (0x48, 8, if op = 3 then 0x10500 else 0), (0x50, 8, if op = 3 then 0x10600 else 0)]
def collAsk (wait op alg n : Nat) : State := { placed (holding mapped (collCmd wait)) 0 (collDesc op alg n) with flows := [(0, opened)] }
theorem witness_Collectives_begin (wait op alg n : Nat) (h : wait = 0 ∧ op = 4 ∧ alg = 0 ∧ n = 1 ∨ wait = 0x8000 ∧ op = 1 ∧ alg = 0 ∧ n = 2) :
    (collAsk wait op alg n).cmd 0 = some (collCmd wait) ∧ (collAsk wait op alg n).nicLive = true ∧ ready (collAsk wait op alg n) 0 0x50 (collCmd wait) ∧
    (collAsk wait op alg n).placeFor (collCmd wait) = true ∧ (collCmd wait).payload % 64 = 0 ∧
    ∃ s0 s1 bs, ((collAsk wait op alg n).beginCmd (collCmd wait)).descRead 0 0 (collCmd wait).payload 128 = (s0, some bs) ∧
      s1 = s0.aimAlias 0 0 (collOf bs).dst ∧ running s1 0 ∧
      (if n = 1 then collBad bs = some 0 else collBad bs = none ∧ 1 < (collOf bs).n ∧ recExternal (collCmd wait).record = []) := by
  rcases h with ⟨rfl, rfl, rfl, rfl⟩ | ⟨rfl, rfl, rfl, rfl⟩ <;>
    exact ⟨by decide +kernel, by decide +kernel, ready_of (by decide +kernel), by decide +kernel, by decide +kernel, _, _, _, pair_of [] (by decide +kernel), rfl,
      running_get (by decide +kernel), by decide +kernel⟩
theorem witness_Collectives_misaligned : let c := given 0x50 [(0x60, 0x10020)]
    (holding mapped c).cmd 0 = some c ∧ (holding mapped c).nicLive = true ∧ ready (holding mapped c) 0 0x50 c ∧ (holding mapped c).placeFor c = true ∧ c.payload % 64 ≠ 0 :=
  ⟨by decide +kernel, by decide +kernel, ready_of (by decide +kernel), by decide +kernel, by decide +kernel⟩
theorem witness_Collectives_starts (wait op alg n : Nat) (h : wait = 0 ∧ op = 1 ∧ alg = 0 ∧ n = 1 ∨ wait = 0 ∧ op = 3 ∧ alg = 3 ∧ n = 1 ∨ wait = 0xC000 ∧ op = 1 ∧ alg = 0 ∧ n = 2) :
    (collAsk wait op alg n).nicLive = true ∧ ready (collAsk wait op alg n) 0 0x50 (collCmd wait) ∧ (collAsk wait op alg n).placeFor (collCmd wait) = true ∧
    ∃ s0 s1 s2 s3 bs tbl cs, ((collAsk wait op alg n).beginCmd (collCmd wait)).descRead 0 0 (collCmd wait).payload 128 = (s0, some bs) ∧
      s1 = s0.aimAlias 0 0 (collOf bs).dst ∧ running s1 0 ∧ collBad bs = none ∧ (1 < (collOf bs).n → recExternal (collCmd wait).record ≠ []) ∧
      s1.descRead 0 0 (field bs 0x28 8) (8 * (collOf bs).n) = (s2, some tbl) ∧ s2.collFault (collCmd wait) bs tbl = none ∧
      (if (collOf bs).op = 3 then s2.descRead 0 0 (field bs 0x48 8) (4 * (collOf bs).n) else (s2, some [])) = (s3, some cs) ∧ running s3 0 := by
  rcases h with ⟨rfl, rfl, rfl, rfl⟩ | ⟨rfl, rfl, rfl, rfl⟩ | ⟨rfl, rfl, rfl, rfl⟩ <;>
    exact ⟨by decide +kernel, ready_of (by decide +kernel), by decide +kernel, _, _, _, _, _, _, _, pair_of [] (by decide +kernel), rfl, running_get (by decide +kernel),
      by decide +kernel, by decide +kernel, pair_of [] (by decide +kernel), by decide +kernel, pair_of [] (by decide +kernel), running_get (by decide +kernel)⟩

/-- Member 0 of an ALL_GATHER of two, running: one chunk of 64 bytes to send on flow 0 and one to receive; what its flow has received. -/
def movingColl : Coll := { n := 2, op := 1, pkt := 1024, members := [(1, { rank := 1, flow := 0 })], flows := [0]
                           acts := [{ key := 1, peer := 1, kind := .move, n := 64, va := 0x10000 }, { key := 2, tx := false, peer := 1, kind := .move, n := 64, va := 0x10040 }] }
def moving (rx : Tab (Option RxPkt)) : State :=
  { holding mapped { collCmd 0 with phase := .running, place := true, peer := true } with flows := [(0, { opened with rxHave := rx, peerCredit := 9 })], colls := [movingColl] }
theorem witness_Collectives_serve (rx : Tab (Option RxPkt)) (h : rx = [] ∨ rx = [(1, some { last := true })] ∨ rx = [(1, some { last := true, vote := 0x40000 })]) :
    (moving rx).coll 0 = some movingColl ∧ (moving rx).nicLive = true ∧ (moving rx).firstInOrder { collCmd 0 with phase := .running, place := true, peer := true } = true ∧
      (moving rx).engineWaits 0 = false := by
  rcases h with rfl | rfl | rfl <;> decide +kernel
theorem witness_Collectives_work :
    ((moving [(1, some { last := true, vote := 0x40000 })]).work movingColl).any (fun w => match w with | .failed _ _ _ _ _ => true | _ => false) = true ∧
    (∃ a bs, (moving []).work movingColl = some (.act a) ∧ a.kind = .move ∧ a.head = [] ∧ (moving []).rawTagged 0 (lineSpans a.va a.n) [] = .ok bs ∧
      bs.length ≤ (moving []).pktTo movingColl a.peer) ∧
    (let s := moving [(1, some { last := true })]
     ∃ a l, s.work movingColl = some (.take 0 a l) ∧ ∀ e ∈ l, (s.ringRead 0 e.1 e.2).isSome = true) := by
  refine ⟨by decide +kernel, ⟨{ key := 1, peer := 1, kind := .move, n := 64, va := 0x10000 }, _, by decide +kernel, by decide +kernel, by decide +kernel,
    ok_get (by decide +kernel), by decide +kernel⟩, { key := 2, tx := false, peer := 1, kind := .move, n := 64, va := 0x10040 }, [(1, { last := true })], ?_, ?_⟩ <;> decide +kernel
theorem witness_Collectives_timeout (kind : CollKind) (h : kind = .collective ∨ kind = .stepVote) :
    let s : State := { moving [] with colls := [{ movingColl with kind := kind, waitUntil := 5 }], time := 5 }
    s.coll 0 = some { movingColl with kind := kind, waitUntil := 5 } ∧ s.quiet { movingColl with kind := kind, waitUntil := 5 } = false ∧
      s.cmd 0 = some { collCmd 0 with phase := .running, place := true, peer := true } := by
  rcases h with rfl | rfl <;> decide +kernel
theorem witness_Collectives_waiting :
    let c : Cmd := { collCmd 0xC000 with deadline := none }
    let s : State := { holding mapped c with time := 100000000 }
    s.cmd 0 = some c ∧ s.coll 0 = none ∧ s.wantsPlace c = true ∧ c.phase = .waiting ∧ c.deadline = none ∧ s.limitOf c ≤ s.time := by decide +kernel

/-! ## Witnesses: votes -/

/-- VOTE with its descriptor at the page's foot: one member, TREE, point (1, 7), its record written at 0x10080. -/
def voteCmd : Cmd := given 0x51 [(0x60, 0x10000)]
def voteAsk (mode alg : Nat) : State :=
  placed (holding mapped voteCmd) 0 (bytesAt 128 [(0, 1, mode), (1, 1, alg), (4, 4, 1), (0x10, 8, 1), (0x0C, 4, 7), (0x18, 4, 7), (0x20, 8, 0x10400), (0x28, 8, 0x10080)])
theorem witness_Votes_starts (mode : Nat) (h : mode = 0 ∨ mode = 1) :
    (voteAsk mode 1).cmd 0 = some voteCmd ∧ (voteAsk mode 1).nicLive = true ∧ ready (voteAsk mode 1) 0 0x51 voteCmd ∧ (voteAsk mode 1).placeFor voteCmd = true ∧
    (voteAsk mode 1).voteMode voteCmd = some mode ∧ voteCmd.payload % 64 = 0 ∧ ((voteAsk mode 1).part 0).stepState ≠ .voting ∧
    ∃ s1 s2 bs tbl, ((voteAsk mode 1).beginCmd voteCmd).descRead 0 0 voteCmd.payload 128 = (s1, some bs) ∧ field bs 0 1 = mode ∧ voteBad bs = none ∧
      (1 < field bs 4 4 → recExternal voteCmd.record ≠ []) ∧ s1.descRead 0 0 (field bs 0x20 8) (8 * field bs 4 4) = (s2, some tbl) ∧
      s2.voteFault 0 bs tbl = none ∧ running s2 0 := by
  rcases h with rfl | rfl <;>
    exact ⟨by decide +kernel, by decide +kernel, ready_of (by decide +kernel), by decide +kernel, by decide +kernel, by decide +kernel, by decide +kernel, _, _, _, _,
      pair_of [] (by decide +kernel), by decide +kernel, by decide +kernel, by decide +kernel, pair_of [] (by decide +kernel), by decide +kernel,
      running_get (by decide +kernel)⟩
theorem witness_Votes_misaligned : let c := given 0x51 [(0x60, 0x10020)]
    (holding mapped c).cmd 0 = some c ∧ (holding mapped c).nicLive = true ∧ ready (holding mapped c) 0 0x51 c ∧ (holding mapped c).placeFor c = true ∧
      (holding mapped c).voteMode c ≠ some 1 ∧ c.payload % 64 ≠ 0 :=
  ⟨by decide +kernel, by decide +kernel, ready_of (by decide +kernel), by decide +kernel, by decide +kernel, by decide +kernel⟩
theorem witness_Votes_bad (mode alg o : Nat) (h : mode = 0 ∧ alg = 0 ∧ o = 1 ∨ mode = 2 ∧ alg = 1 ∧ o = 0) :
    (voteAsk mode alg).nicLive = true ∧ ready (voteAsk mode alg) 0 0x51 voteCmd ∧ (voteAsk mode alg).placeFor voteCmd = true ∧ (voteAsk mode alg).voteMode voteCmd = some mode ∧
    ∃ s1 bs, ((voteAsk mode alg).beginCmd voteCmd).descRead 0 0 voteCmd.payload 128 = (s1, some bs) ∧ voteBad bs = some o ∧ running s1 0 := by
  rcases h with ⟨rfl, rfl, rfl⟩ | ⟨rfl, rfl, rfl⟩ <;>
    exact ⟨by decide +kernel, ready_of (by decide +kernel), by decide +kernel, by decide +kernel, _, _, pair_of [] (by decide +kernel), by decide +kernel, running_get (by decide +kernel)⟩

/-- An exchange of records of slot 0 with nothing left to do, its record of the point (1, 7), and the point its partition is in doubt on. -/
def voted (kind : CollKind) (low flags : Nat) : Coll :=
  { kind := kind, step := 1, instar := 7, dst := 0x10080, record := pointRecord low flags 0 1 7 (List.replicate 16 0) (List.replicate 8 0) }
def voting (x : Coll) (last : Option Point) : State :=
  let s : State := { holding mapped { voteCmd with phase := .running, place := true } with colls := [x] }
  s.setPart 0 { s.part 0 with stepState := .inDoubt, doubt := some { step := 1, instar := 7 }, doubtKept := true, lastPoint := last }
theorem witness_Votes_results (x : Coll) (h : x = voted .stepVote 3 1 ∨ x = voted .stepVote 2 1 ∨ x = voted .resolve 3 14 ∨ x = voted .resolve 3 6 ∨ x = voted .resolve 3 10) :
    noLastCkpt (voting x none) x.slot ∧ (voting x none).coll 0 = some x ∧ (voting x none).nicLive = true ∧ x.slot < 16 ∧ x.acts = [] ∧
    (voting x none).cmd 0 = some { voteCmd with phase := .running, place := true } := by
  rcases h with rfl | rfl | rfl | rfl | rfl <;> exact ⟨noLast_of (by decide +kernel), by decide +kernel⟩
theorem witness_Votes_records :
    recordClean (voted .stepVote 3 1).record = true ∧ recordClean (voted .stepVote 2 1).record = false ∧ resolveConflict (voted .resolve 3 14).record = true ∧
    (let s := voting (voted .resolve 3 6) (some { step := 1, instar := 7, committed := true })
     resolveConflict (voted .resolve 3 6).record = false ∧ (s.part 0).decided (1, 7) = true) ∧
    (∀ e ∈ [(6, true), (10, false)], resolveConflict (voted .resolve 3 e.1).record = false ∧ ((voting (voted .resolve 3 e.1) none).part 0).decided (1, 7) = false ∧
      e.2 = bitAt (field (voted .resolve 3 e.1).record 4 4) 2 ∧ (e.2 = true → ((voting (voted .resolve 3 e.1) none).part 0).holdsPoint (1, 7) = true) ∧
      bitAt (field (voted .resolve 3 e.1).record 4 4) 5 = false) ∧
    ∀ q, ((voting (voted .resolve 3 6) none).part 0).doubt = some q → q.molt = false := by
  refine ⟨by decide +kernel, by decide +kernel, by decide +kernel, by decide +kernel, by decide +kernel, ?_⟩
  intro q h
  have e : ((voting (voted .resolve 3 6) none).part 0).doubt = some { step := 1, instar := 7 } := by decide +kernel
  rw [e] at h; cases h; rfl
theorem witness_ResolveRecords :
    (let q : Point := { step := 1, instar := 7, committed := true, molt := true, record := List.replicate 64 5 }
     ({ lastPoint := some q } : Part).lastPoint = some q ∧ q.step = 1 ∧ q.instar = 7 ∧ q.record.length = 64) ∧
    (({} : Part).decided (1, 7) = false) ∧
    (let q : Point := { step := 1, instar := 7, molt := true }
     ({ stepState := .inDoubt, doubt := some q } : Part).decided (1, 7) = false) := by decide +kernel

/-! ## Witnesses: updates -/

/-- UPDATE with a wait on token 0, marked external or not; its descriptor lies at the page's foot. -/
def updCmd (wait : Nat) : Cmd := given 0x52 [(0x10, wait), (0x60, 0x10000)]
def aliased (p : Part) : Part := { p with twinAlias := 0x80010000, twins := [(0, { twinned := true })], side1 := [(1, { valid := true, frame := 8 })], tgroupBase := 0x10400 }
/-- Group 1 with ETA 0.5, EPS 1.0 and FLAGS f, all of slot 0's page twinned, and a descriptor: W at 0x10800, R at 0x10A00, the index list at 0x10B00, the gradient at 0x10C00, one element or one row of two. -/
def updAsk (wait rule flags gflags count : Nat) : State :=
  let s := placed (placed (holding mapped (updCmd wait)) 0 (bytesAt 80 [(0, 1, rule), (1, 1, flags), (4, 2, 1), (0x10, 4, count), (0x14, 4, if rule = 1 then 2 else 0),
    (0x18, 4, if rule = 1 then 1 else 0), (0x20, 8, 0x10C00), (0x28, 8, 0x10800), (0x30, 8, if rule = 1 then 0x10A00 else 0), (0x40, 8, if rule = 1 then 0x10B00 else 0)]))
    0x440 (bytesAt 64 [(8, 4, 0x3F000000), (0x0C, 4, 0x3F800000), (0x12, 1, gflags)])
  { (s.setPart 0 (aliased (s.part 0))) with hbmFrames := [(7, { owner := some 0 }), (8, { owner := some 0 })] }

theorem witness_Updates_quiet (rule gflags count : Nat) (h : rule = 0 ∧ gflags = 3 ∧ count = 1 ∨ rule = 1 ∧ gflags = 1 ∧ count = 0) :
    let s := updAsk 0 rule 0 gflags count
    s.cmd 0 = some (updCmd 0) ∧ s.nicLive = true ∧ s.upd 0 = none ∧ ready s 0 0x52 (updCmd 0) ∧ s.updRule (updCmd 0) = some rule ∧ (updCmd 0).payload % 16 = 0 ∧
    ∃ s1 s2 bs u d, (s.beginCmd (updCmd 0)).descRead 0 0 (updCmd 0).payload 80 = (s1, some bs) ∧ field bs 0 1 = rule ∧ updBad bs = none ∧
      updWaits bs (updCmd 0).record = true ∧ s1.updFault 0 (updOf bs) = none ∧ s1.updEnter (updCmd 0) (updOf bs) = (s2, u) ∧
      (u.frozen = true ∨ u.count = 0) ∧ s2.cmd 0 = some d ∧ clean d ∧ d.phase = .running := by
  rcases h with ⟨rfl, rfl, rfl⟩ | ⟨rfl, rfl, rfl⟩ <;>
    exact ⟨by decide +kernel, by decide +kernel, by decide +kernel, ready_of (by decide +kernel), by decide +kernel, by decide +kernel, _, _, _, _, _, pair_of [] (by decide +kernel),
      by decide +kernel, by decide +kernel, by decide +kernel, by decide +kernel, rfl, by decide +kernel, some_get (by decide +kernel), clean_of (by decide +kernel), by decide +kernel⟩
theorem witness_Updates_misaligned (rule : Nat) (h : rule = 0 ∨ rule = 1) : let c := given 0x52 [(0x60, 0x10008)]
    let s := placed (holding mapped c) 8 [BitVec.ofNat 8 rule]
    ready s 0 0x52 c ∧ s.nicLive = true ∧ c.payload % 16 ≠ 0 ∧ s.updRule c = some rule := by
  rcases h with rfl | rfl <;> exact ⟨ready_of (by decide +kernel), by decide +kernel, by decide +kernel, by decide +kernel⟩
theorem witness_Updates_feed :
    let s := updAsk 0xC000 0 1 1 1
    s.cmd 0 = some (updCmd 0xC000) ∧ s.nicLive = true ∧ s.upd 0 = none ∧ ready s 0 0x52 (updCmd 0xC000) ∧ s.updRule (updCmd 0xC000) = some 0 ∧
    ∃ s1 s2 bs u, (s.beginCmd (updCmd 0xC000)).descRead 0 0 (updCmd 0xC000).payload 80 = (s1, some bs) ∧ field bs 0 1 = 0 ∧ updBad bs = none ∧
      updWaits bs (updCmd 0xC000).record = true ∧ s1.updFault 0 (updOf bs) = none ∧ s1.updEnter (updCmd 0xC000) (updOf bs) = (s2, u) ∧
      u.frozen = false ∧ u.count ≠ 0 ∧ u.feed = true ∧ s2.feedSource u = none ∧ running s2 0 :=
  ⟨by decide +kernel, by decide +kernel, by decide +kernel, ready_of (by decide +kernel), by decide +kernel, _, _, _, _, pair_of [] (by decide +kernel), by decide +kernel,
    by decide +kernel, by decide +kernel, by decide +kernel, rfl, by decide +kernel, by decide +kernel, by decide +kernel, by decide +kernel, running_get (by decide +kernel)⟩

theorem triple_true {α β : Type} {x : α × β × Bool} (h : x.2.2 = true) : x = (x.1, x.2.1, true) := by rcases x with ⟨a, b, c⟩; simp_all
theorem witness_Updates_run (rule : Nat) (h : rule = 0 ∨ rule = 1) :
    let s := updAsk 0 rule 0 1 1
    s.cmd 0 = some (updCmd 0) ∧ s.nicLive = true ∧ s.upd 0 = none ∧ ready s 0 0x52 (updCmd 0) ∧ s.updRule (updCmd 0) = some rule ∧
    ∃ s1 s2 s3 bs u u1 d, (s.beginCmd (updCmd 0)).descRead 0 0 (updCmd 0).payload 80 = (s1, some bs) ∧ field bs 0 1 = rule ∧ updBad bs = none ∧
      updWaits bs (updCmd 0).record = true ∧ s1.updFault 0 (updOf bs) = none ∧ s1.updEnter (updCmd 0) (updOf bs) = (s2, u) ∧
      u.frozen = false ∧ u.count ≠ 0 ∧ u.feed = false ∧
      (if rule = 1 then s2.rowRange u [] 0 u.count else s2.updRange u (s2.updCover u) 0 u.count) = (s3, u1, true) ∧
      s3.cmd 0 = some d ∧ clean d ∧ d.phase = .running := by
  rcases h with rfl | rfl <;>
    exact ⟨by decide +kernel, by decide +kernel, by decide +kernel, ready_of (by decide +kernel), by decide +kernel, _, _, _, _, _, _, _, pair_of [] (by decide +kernel), by decide +kernel,
      by decide +kernel, by decide +kernel, by decide +kernel, rfl, by decide +kernel, by decide +kernel, by decide +kernel, triple_true (by decide +kernel),
      some_get (by decide +kernel), clean_of (by decide +kernel), by decide +kernel⟩
theorem witness_Updates_bad :
    let s := updAsk 0 0 8 1 1
    ready s 0 0x52 (updCmd 0) ∧ s.nicLive = true ∧ s.updRule (updCmd 0) = some 0 ∧
    ∃ s1 bs, (s.beginCmd (updCmd 0)).descRead 0 0 (updCmd 0).payload 80 = (s1, some bs) ∧ updBad bs = some 1 ∧ running s1 0 :=
  ⟨ready_of (by decide +kernel), by decide +kernel, by decide +kernel, _, _, pair_of [] (by decide +kernel), by decide +kernel, running_get (by decide +kernel)⟩

/-- A fed update of two elements in the engine, bound to a collective that has written all of its output. -/
def fedUpd : Upd := { cmd := 0, slot := 0, feed := true, tgroup := 1, count := 2, grad := 0x10C00, w := 0x10800, eta := 0x3F000000, eps := 0x3F800000, fed := some 5 }
def feeding : State :=
  let s := updAsk 0 0 0 1 2
  { s with cmds := [{ updCmd 0 with phase := .running }], upds := [fedUpd], colls := [{ cmd := 5, dst := 0x10C00, outBytes := 8 }] }
theorem witness_Updates_chunks (n : Nat) (h : n = 1 ∨ n = 2) :
    ¬ ready feeding 0 0x52 { updCmd 0 with phase := .running } ∧ feeding.nicLive = true ∧ feeding.engineWaits fedUpd.slot = false ∧ fedUpd.done = [] ∧
    ∃ s1 u1 d, feeding.upd 0 = some fedUpd ∧ feeding.runningOp 0 0x52 = some { updCmd 0 with phase := .running } ∧ fedUpd.fed.isSome = true ∧ 0 + n ≤ fedUpd.count ∧
      feeding.fedReady fedUpd (fedUpd.grad + (if fedUpd.gbf16 then 2 else 4) * 0) (fedUpd.grad + (if fedUpd.gbf16 then 2 else 4) * (0 + n)) = true ∧
      feeding.updRange fedUpd (feeding.updCover fedUpd) 0 n = (s1, u1, true) ∧ s1.cmd 0 = some d ∧ clean d ∧ d.phase = .running ∧ u1.firstRange = none := by
  rcases h with rfl | rfl <;>
    exact ⟨fun h => absurd h.2.2 (by decide +kernel), by decide +kernel, by decide +kernel, rfl, _, _, _, by decide +kernel, by decide +kernel, by decide +kernel, by decide +kernel, by decide +kernel,
      triple_true (by decide +kernel), some_get (by decide +kernel), clean_of (by decide +kernel), by decide +kernel, by decide +kernel⟩
/-- A mirror of 64 bytes at the alias of W on flow 0. -/
def mirrorAsk (rule : Nat) : State :=
  let s := placed (holding mapped (updCmd 0xC000)) 0 (bytesAt 80 [(0, 1, rule), (2, 1, 9), (0x10, 4, 64), (0x28, 8, 2 ^ 38 + 0x10800)])
  { (s.setPart 0 (aliased (s.part 0))) with hbmFrames := [(7, { owner := some 0 }), (8, { owner := some 0 })], flows := [(0, opened)] }
theorem witness_Updates_mirrors (tx : Bool) :
    let s := mirrorAsk (if tx then 2 else 3)
    s.nicLive = true ∧ ready s 0 0x52 (updCmd 0xC000) ∧ s.updRule (updCmd 0xC000) = some (if tx then 2 else 3) ∧ s.placeFor (updCmd 0xC000) = true ∧
    (updCmd 0xC000).payload % 16 = 0 ∧
    ∃ s1 s2 bs x, (s.beginCmd (updCmd 0xC000)).descRead 0 0 (updCmd 0xC000).payload 80 = (s1, some bs) ∧ updBad bs = none ∧ updWaits bs (updCmd 0xC000).record = true ∧
      s1.mirrorFault 0 bs = none ∧ s1.mirrorColl (updCmd 0xC000) bs tx = (s2, x) ∧ running s2 0 := by
  cases tx <;>
    exact ⟨by decide +kernel, ready_of (by decide +kernel), by decide +kernel, by decide +kernel, by decide +kernel, _, _, _, _, pair_of [] (by decide +kernel), by decide +kernel,
      by decide +kernel, by decide +kernel, rfl, running_get (by decide +kernel)⟩
theorem witness_Updates_resync (first : Nat) (h : first = 1 ∨ first = 2) :
    let c := given 0x53 [(0x68, first), (0x6A, 1), (0x70, 9)]
    let s : State := { updAsk 0 0 0 1 1 with cmds := [c] }
    s.cmd 0 = some c ∧ s.nicLive = true ∧ ready s 0 0x53 c ∧ clean c ∧ (s.beginCmd c).resyncBad 0 c.record = decide (first = 2) := by
  rcases h with rfl | rfl <;> exact ⟨by decide +kernel, by decide +kernel, ready_of (by decide +kernel), clean_of (by decide +kernel), by decide +kernel⟩

/-! ## Witnesses: faults, resets and the supervisor -/

theorem witness_Hangs_detected : ∀ e ∈ [(0, 0), (16, unitId 6 0 3), (17, unitId 7 0 3), (20, unitId 9 0 0)],
    let d := Fin.ofNat 21 e.1
    let unit := BitVec.ofNat 16 e.2
    let s : State := { up with time := up.entry 0x8010 (eyespotSub d.val) }
    s.resets = [] ∧ s.domainLive d.val = true ∧ (s.domainUnits d.val).contains unit.toNat = true ∧ 0 + s.entry 0x8010 (eyespotSub d.val) ≤ s.time := by decide +kernel
theorem witness_Hangs_memory : up.supRuns = true ∧ up.deviceReset = false := by decide +kernel
/-- Core 0 in its reset, fenced, with one slot of an EMIT that is still out. -/
def fenced : State := { mapped with
  cmds := [{ given 0x10 [] with phase := .running, cores := [0] }], resets := [{ target := .core 0, fence := true }], cores := [(0, { holder := some 0, slots := [{ cmd := 0 }] })] }
theorem witness_Hangs_fence :
    let s : State := { fenced with time := fenced.entry 0x8012 1 }
    ∃ r, s.resets.find? (fun r => r.target == hangTarget (0 : Fin 17).val) = some r ∧ r.fence = true ∧ r.began + s.entry 0x8012 1 ≤ s.time ∧
      ∃ q ∈ (s.core 0).slots, running s q.cmd :=
  ⟨{ target := .core 0, fence := true }, by decide +kernel, rfl, by decide +kernel, _, List.mem_cons_self .., running_get (by decide +kernel)⟩

def resetting (tg : ResetTarget) (stage : Nat) : State := { up with boot := { up.boot with stage := stage }, resets := [{ target := tg, retire := true, cores := [3] }], time := 600000 }
theorem witness_ResetsEnd_complete : ∀ e ∈ [(ResetTarget.cold, 9), (.warm, 10), (.nic, 10), (.core 15, 10), (.partition 15, 10), (.hostPort 1, 10)],
    (resetting e.1 e.2).resets.find? (fun r => r.target == e.1) = some { target := e.1, retire := true, cores := [3] } ∧
      (resetting e.1 e.2).canEnd { target := e.1, retire := true, cores := [3] } = true ∧ (e.1 = .warm → (resetting e.1 e.2).boot.stage = 10) := by decide +kernel
theorem witness_ResetsEnd_escalates : ∀ tg ∈ [ResetTarget.warm, .nic, .core 15, .partition 15, .hostPort 1],
    (resetting tg 10).resets = [{ target := tg, retire := true, cores := [3] }] ∧ tg ≠ .cold ∧ 0 + resetBound tg < (resetting tg 10).time := by decide +kernel

theorem witness_SupervisorAndPowerLoss :
    (let s : State := { up with time := 1000000 * up.entry 0x2040 3 }
     s.supRuns = true ∧ s.sup.healthFrom + 1000000 * s.entry 0x2040 3 ≤ s.time) ∧
    (let l := (dk 0x8000 1, 1, 0)
     let s : State := { up with time := up.entry 0x2050 1 + 101, sup := { up.sup with lag := [l] } }
     s.supRuns = true ∧ s.sup.divergeFrom + s.entry 0x2050 1 ≤ s.time ∧ s.sup.lag = [l] ∧ l.2.2 + 100 < s.time ∧ s.entryValue (l.1 / 256) (l.1 % 256) ≠ l.2.1 ∧ l.1 / 256 ≠ 0x2050) ∧
    (let s : State := { up with dict := [(dk 0xA005 1, 1)] }
     s.supRuns = true ∧ s.entry 0xA005 1 = 1) ∧
    up.power.state ≠ .unpowered ∧ (30000 : W32).toNat ≤ 30000 ∧ 30000 < (30001 : W32).toNat := by decide +kernel

/-! ## Witnesses: Priby -/

/-- A request packet: OP, INDEX, SUB and its value. -/
def pribyOf (op index sub : Nat) (value : List Byte) : PribyReq :=
  { mctp := false, source := 0, bytes := bytesAt 40 [(0, 1, 1), (1, 1, op), (4, 2, index), (6, 1, sub), (0x0C, 2, value.length)] ++ value }
theorem asked_of {s : State} {r : PribyReq} {op index sub : Nat} (h : s.supRuns = true ∧ s.serviceOnly = false ∧ 10 ≤ s.boot.stage ∧ s.sup.replies = [] ∧
    pribyIs r op index sub = true ∧ pribyReserved r.bytes = false ∧ field r.bytes 7 1 = 0 ∧ field r.bytes 8 4 = 0 ∧ (op = 3 → r.bytes.length = 48)) : asked s r op index sub := h
/-- A command of one argument. -/
def pribyCmd (index sub arg : Nat) : PribyReq := pribyOf 3 index sub (bytesOfNat arg 8)

theorem witness_PribyEntries_reads :
    (up.supRuns = true ∧ pribyOk ([] : List Byte) = false) ∧
    asked up (pribyOf 1 0x2040 3 []) 1 0x2040 3 ∧ (∃ e, entryAt 0x2040 3 = some e ∧ (e.access = .ro ∨ e.access = .rw) ∧ e.ty ≠ .str ∧ e.ty ≠ .blob) ∧
    up.unitReset 0x2040 3 = false ∧ (pribyOf 1 0x2040 3 []).bytes.length = 40 :=
  ⟨by decide +kernel, asked_of (by decide +kernel), ⟨_, some_get (by decide +kernel), by decide +kernel, by decide +kernel, by decide +kernel⟩, by decide +kernel, by decide +kernel⟩
/-- FLOW_RETRY_MAX at both ends of its range. -/
theorem witness_PribyEntries_writes (v : Nat) (h : v = 3 ∨ v = 32) :
    let r := pribyOf 2 0x6010 7 (bytesOfNat v 1)
    asked up r 2 0x6010 7 ∧ up.unitReset 0x6010 7 = false ∧ asks r = v ∧
    ∃ e, entryAt 0x6010 7 = some e ∧ e.access = .rw ∧ r.bytes.length = 40 + e.bytes (up.shown 0x6010 7) ∧ up.rangeOk e 7 (asks r) = true := by
  rcases h with rfl | rfl <;>
    exact ⟨asked_of (by decide +kernel), by decide +kernel, by decide +kernel, _, some_get (by decide +kernel), by decide +kernel, by decide +kernel, by decide +kernel⟩
/-- Core 15, whose engines are awake and which no partition holds. -/
theorem witness_PribyEntries_coreState :
    let s : State := { up with power := { up.power with blocks := [(15, { st := .active }), (31, { st := .active })] } }
    let r := pribyOf 2 0x4011 16 [15]
    asked s r 2 0x4011 ((15 : CoreNo).val + 1) ∧ s.resets = [] ∧ s.coreUsable 15 = true ∧ (s.core 15).retiring = false ∧ (s.core 15).holder = none ∧ r.bytes.length = 41 ∧ asks r = 15 ∧
      ∀ b, b = matrixBlock 15 ∨ b = vectorBlock 15 → (s.block b).st = .active ∧ s.blockHeld b = false ∧ s.blockBusy b = false := by
  refine ⟨asked_of (by decide +kernel), by decide +kernel, by decide +kernel, by decide +kernel, by decide +kernel, by decide +kernel, by decide +kernel, ?_⟩
  rintro b (rfl | rfl) <;> decide +kernel
theorem witness_PribyEntries_badGroups (v : Nat) (h : v = 2 ^ 64 - 1 ∨ v = 4) :
    let s : State := { up with dict := [(dk 0x2032 16, 3)] }
    let r := pribyOf 2 0x2032 16 (bytesOfNat v 8)
    asked s r 2 0x2032 ((15 : CoreNo).val + 1) ∧ ∃ e, entryAt 0x2032 16 = some e ∧ r.bytes.length = 40 + e.bytes (s.shown 0x2032 16) ∧
      (v = 2 ^ 64 - 1 → s.rangeOk e 16 (asks r) = true) ∧ (v = 4 → s.entry 0x2032 16 &&& asks r ≠ s.entry 0x2032 16) := by
  rcases h with rfl | rfl <;> exact ⟨asked_of (by decide +kernel), _, some_get (by decide +kernel), by decide +kernel, by decide +kernel, by decide +kernel⟩

theorem witness_PribyCommands_reset : ∀ e ∈ [(1, ResetTarget.cold), (2, .warm), (4, .partition 0), (0xF05, .core 15), (6, .nic)],
    up.supRuns = true ∧ pribyIs (pribyCmd 0x9000 1 e.1) 3 0x9000 1 = true ∧ pribyReserved (pribyCmd 0x9000 1 e.1).bytes = false ∧ (pribyCmd 0x9000 1 e.1).bytes.length = 48 ∧
      mapped.resetArg (asks (pribyCmd 0x9000 1 e.1)) = (0, e.2) := by decide +kernel
theorem witness_PribyCommands_asked : up.resets = [] ∧ mapped.resets = [] ∧ asked mapped (pribyCmd 0x9000 1 6) 3 0x9000 1 ∧
    (asked up (pribyCmd 0x9000 2 15) 3 0x9000 2 ∧ asks (pribyCmd 0x9000 2 15) % 16 = 15 ∧ up.sup.retireWait = [] ∧ up.coreUsable 15 = true) ∧
    (asked up (pribyCmd 0x9000 3 0) 3 0x9000 3 ∧ asks (pribyCmd 0x9000 3 0) = 0) ∧
    asked up (pribyCmd 0x8030 3 5) 3 0x8030 3 ∧
    (asked up (pribyCmd 0x4001 8 0) 3 0x4001 8 ∧ up.entry 0x4001 7 < 110000) :=
  ⟨by decide +kernel, by decide +kernel, asked_of (by decide +kernel), ⟨asked_of (by decide +kernel), by decide +kernel, by decide +kernel, by decide +kernel⟩,
    ⟨asked_of (by decide +kernel), by decide +kernel⟩, asked_of (by decide +kernel), asked_of (by decide +kernel), by decide +kernel⟩
theorem witness_PribyCommands_hot :
    let s : State := { up with dict := [(dk 0x4001 7, 110000)] }
    asked s (pribyCmd 0x4001 8 0) 3 0x4001 8 ∧ 110000 ≤ s.entry 0x4001 7 ∧ s.entry 0x4001 7 < 2 ^ 31 := ⟨asked_of (by decide +kernel), by decide +kernel, by decide +kernel⟩

theorem witness_RepeatedRequests : ∀ r ∈ [pribyOf 1 0x2040 3 [], pribyOf 2 0x4011 16 [15], pribyCmd 0x9000 1 6, pribyCmd 0x9000 2 15, pribyCmd 0xA006 1 0],
    let k : KeptReply := { mctp := r.mctp, source := r.source, tag := field r.bytes 2 2, request := r.bytes, reply := [1], time := 5 }
    let s : State := { up with time := 1000005, sup := { up.sup with replies := [k] } }
    s.supRuns = true ∧ s.sup.replies = [k] ∧ k.mctp = r.mctp ∧ k.source = r.source ∧ k.request = r.bytes ∧ k.tag = field r.bytes 2 2 ∧ s.time ≤ k.time + 1000000 ∧
      pribyOk r.bytes = true ∧ (field r.bytes 1 1 = 1 ∨ field r.bytes 1 1 = 2 ∧ field r.bytes 4 2 = 0x4011 ∨ pribyIs r 3 0x9000 1 = true ∨ pribyIs r 3 0x9000 2 = true ∨
        pribyIs r 3 0xA006 1 = true) := by decide +kernel

/-! ## Witnesses: firmware, dumps, Creif and attestation -/

/-- SHA-256 of sixteen bytes of 0xFF. -/
def onesDigest : List Byte := bytesOfNat 0x1b46654029731ae8e43c38fe246fa087b3a84b98299121110950165f94a5c65a 32
/-- Firmware slot 0: a manifest of security version 3 with its five parts, each 16 bytes of 0xFF with their SHA-256, and erased flash besides. -/
def manifestHead : List Byte :=
  [0x43, 0x52, 0x46, 0x50] ++ bytesOfNat 1 2 ++ bytesOfNat 5 2 ++ bytesOfNat 3 1 ++ bytesOfNat 0 3 ++ bytesOfNat 0x10000 4 ++ bytesOfNat 0x31 16 ++ bytesOfNat 0 32 ++
  ((List.range 5).flatMap fun j => bytesOfNat (j + 1) 1 ++ bytesOfNat 0 3 ++ bytesOfNat 7 4 ++ bytesOfNat (0x2000 + 0x1000 * j) 4 ++ bytesOfNat 16 4 ++ bytesOfNat 0 16 ++
    onesDigest)
def manifestAll : List Byte := manifestHead ++ List.replicate 5389 0xFF
/-- Bytes listed from an address up. -/
def bytesFrom : Nat → List Byte → Mem
  | _, [] => []
  | a, b :: l => (a, b) :: bytesFrom (a + 1) l
theorem bytesFrom_lt (l : List Byte) (a : Nat) : ∀ e ∈ bytesFrom a l, e.1 < a + l.length := by
  induction l generalizing a with
  | nil => simp [bytesFrom]
  | cons b l ih =>
    intro e h
    rcases List.mem_cons.mp h with rfl | h
    · simp
    · have := ih (a + 1) e h
      simp only [List.length_cons]; omega
theorem tabFind_bytesFrom (l : List Byte) (a i : Nat) : tabFind (bytesFrom a l) (a + i) = l[i]? := by
  induction l generalizing a i with
  | nil => rfl
  | cons b l ih =>
    cases i with
    | zero => simp [bytesFrom, tabFind]
    | succ i => rw [bytesFrom, tabFind, if_neg (by omega), show a + (i + 1) = a + 1 + i by omega, ih]; rfl
def stocked : State := { up with
  flash := bytesFrom 0x10000 manifestHead
  fuses := { up.fuses with rollback := 2, fwKeyHash := Sha.sha256 ((manifestAll.drop 0x180).take 64 ++ (manifestAll.drop 0x200).take 1952) }
  phys := { up.phys with slotEcdsa := [(0, true)] } }
theorem flashRead_add (s : State) (a n m : Nat) : s.flashRead a (n + m) = s.flashRead a n ++ s.flashRead (a + n) m := by
  induction n generalizing a with
  | zero => simp [State.flashRead]
  | succ n ih => rw [Nat.add_right_comm, State.flashRead, ih, State.flashRead, List.cons_append, Nat.add_assoc a 1 n, Nat.add_comm 1 n]
theorem tabFind_below {α : Type} {b : Nat} : ∀ {t : Tab α}, (∀ e ∈ t, e.1 < b) → ∀ {k}, b ≤ k → tabFind t k = none
  | [], _, _, _ => rfl
  | (j, v) :: t, h, k, hk => by
    have hj := h (j, v) List.mem_cons_self
    simp only at hj
    rw [tabFind, if_neg (by omega), tabFind_below (fun e he => h e (List.mem_cons_of_mem _ he)) hk]
theorem flashRead_erased (s : State) (b : Nat) (h : ∀ e ∈ s.flash, e.1 < b) (n a : Nat) (ha : b ≤ a) : s.flashRead a n = List.replicate n 0xFF := by
  induction n generalizing a with
  | zero => rfl
  | succ n ih => rw [State.flashRead, ih (a + 1) (by omega), State.flashByte, tabGet, tabFind_below h ha, List.replicate_succ]; rfl
theorem flashRead_from (s : State) (a : Nat) (l : List Byte) (h : s.flash = bytesFrom a l) (n i : Nat) (hl : l.length = i + n) : s.flashRead (a + i) n = l.drop i := by
  induction n generalizing i with
  | zero => rw [List.drop_eq_nil_of_le (by omega)]; rfl
  | succ n ih =>
    have hi : i < l.length := by omega
    rw [State.flashRead, Nat.add_assoc, ih (i + 1) (by omega), State.flashByte, tabGet, h, tabFind_bytesFrom, List.getElem?_eq_getElem hi, List.drop_eq_getElem_cons hi]; rfl
theorem flashRead_whole (s : State) (a n j : Nat) (l : List Byte) (h : s.flash = bytesFrom a l) (hn : n = l.length + j) : s.flashRead a n = l ++ List.replicate j 0xFF := by
  have h0 := flashRead_from s a l h l.length 0 (by omega)
  rw [Nat.add_zero, List.drop_zero] at h0
  rw [hn, flashRead_add, h0, flashRead_erased s (a + l.length) (by rw [h]; exact bytesFrom_lt l a) j _ (Nat.le_refl _)]
theorem manifestHead_length : (0x168D : Nat) = manifestHead.length + 5389 := by decide +kernel
/-- A state with that flash and those fuses. -/
def Stocked (s : State) : Prop := s.flash = bytesFrom 0x10000 manifestHead ∧ s.fuses = stocked.fuses
theorem stocked_manifest {s : State} (h : s.flash = bytesFrom 0x10000 manifestHead) : s.manifest 0 = manifestAll :=
  flashRead_whole s 0x10000 0x168D 5389 manifestHead h manifestHead_length
theorem stocked_status {s : State} (h : Stocked s) (m : Bool) : s.slotStatus 0 true m = 0 := by
  have hf : manifestForm manifestAll = true := by decide +kernel
  have hk : keyMatches ((manifestAll.drop 0x180).take 64) ((manifestAll.drop 0x200).take 1952) stocked.fuses.fwKeyHash = true := by
    rw [keyMatches]; simp only [stocked, beq_self_eq_true]
  have hd : stocked.fuses.dualSig = false := rfl
  have hp : ∀ j ∈ List.range 5, 0x180 ≤ (partRec manifestAll j).2.2.1 ∧ (partRec manifestAll j).2.2.2.1 = 16 ∧ (partRec manifestAll j).2.2.2.2 = onesDigest := by decide +kernel
  have ho : Sha.sha256 (List.replicate 16 0xFF) = onesDigest := by decide +kernel
  have hs : (List.range 5).all (fun j => let p := partRec manifestAll j
      Sha.sha256 (s.flashRead (slotBase 0 + p.2.2.1) p.2.2.2.1) == p.2.2.2.2) = true := by
    refine List.all_eq_true.mpr fun j hj => ?_
    obtain ⟨h1, h2, h3⟩ := hp j hj
    have hb : 0x10000 + manifestHead.length ≤ slotBase 0 + (partRec manifestAll j).2.2.1 := Nat.add_le_add_left (by have := manifestHead_length; omega) _
    show (Sha.sha256 (s.flashRead (slotBase 0 + (partRec manifestAll j).2.2.1) (partRec manifestAll j).2.2.2.1) == (partRec manifestAll j).2.2.2.2) = true
    rw [h2, h3, flashRead_erased s _ (by rw [h.1]; exact bytesFrom_lt _ _) 16 _ hb, ho]
    exact beq_self_eq_true _
  have hv : ¬ securityVer manifestAll < stocked.fuses.rollback := by decide +kernel
  unfold State.slotStatus
  simp only [stocked_manifest h.1, h.2, hf, hk, hd, hv]
  simp only [hs]
  simp
theorem stocked_valid {s : State} (h : Stocked s) (hp : s.phys = stocked.phys) : s.slotValid 0 = true := by
  have e : tabGet false stocked.phys.slotEcdsa 0 = true := rfl
  rw [State.slotValid, hp, e, stocked_status h]; rfl
theorem stocked_newest : stocked.bootCtlNewest = none := by decide +kernel
theorem pick_valid {s : State} (hn : s.bootCtlNewest = none) (hc : s.sup.bootCtl = {})
    (hv : ∀ t : State, t.flash = s.flash → t.fuses = s.fuses → t.phys = s.phys → t.slotValid 0 = true) :
    s.pickFirmware = { s with sup := { s.sup with bootCtl := {} }, boot := { s.boot with stage := 7, fwSlot := 0, onTrial := false } } := by
  unfold State.pickFirmware
  simp only [hn, hc]
  simp [hv]
theorem witness_AntiRollback_boot :
    0 = stocked.pickFirmware.sup.bootCtl.activeSlot ∧ stocked.pickFirmware.boot.halt ≠ 3 ∧ stocked.pickFirmware.slotValid 0 = true := by
  rw [pick_valid stocked_newest rfl (fun t h1 h2 h3 => stocked_valid ⟨h1, h2⟩ h3)]
  exact ⟨rfl, by decide, stocked_valid ⟨rfl, rfl⟩ rfl⟩
theorem stocked_version {s : State} (h : s.flash = bytesFrom 0x10000 manifestHead) (k : Nat) (hk : k = 0) : securityVer (s.manifest k) = 3 := by subst hk; rw [stocked_manifest h]; decide +kernel
theorem witness_AntiRollback_low :
    let s : State := { stocked with fuses := { stocked.fuses with rollback := 4 } }
    securityVer (s.manifest 0) < s.fuses.rollback := by
  intro s
  rw [stocked_version (s := s) rfl 0 rfl]
  exact (by decide : 3 < 4)
theorem witness_AntiRollback_fuses : up.fuses.rollback ≤ 64 := by decide
theorem witness_AntiRollback_confirm :
    let s : State := { up with boot := { up.boot with onTrial := true }, dict := [(dk 0xA005 1, 2)] }
    asked s (pribyCmd 0xA006 2 0) 3 0xA006 2 ∧ s.boot.onTrial = true ∧ s.entry 0xA005 1 = 2 := ⟨asked_of (by decide +kernel), rfl, by decide +kernel⟩

theorem witness_DumpsAndTrials_dumps : ∀ k ∈ [0, 3], ∀ e ∈ [(0x8022, DumpState.held), (0x8023, .exporting), (0x8024, .diapause), (0x8022, .free)],
    let r := pribyCmd e.1 (k + 1) 0
    let s := up.setDump k { state := e.2 }
    s.supRuns = true ∧ s.serviceOnly = false ∧ 10 ≤ s.boot.stage ∧ s.sup.replies = [] ∧ pribyIs r 3 e.1 (k + 1) = true ∧ pribyReserved r.bytes = false ∧
      field r.bytes 7 1 = 0 ∧ field r.bytes 8 4 = 0 ∧ r.bytes.length = 48 ∧ (s.dump k).state = e.2 := by decide +kernel
theorem witness_DumpsAndTrials_staging : ∀ e ∈ [(0xA006, 1, StageState.free), (0xA007, 3, .receiving), (0xA007, 4, .diapause), (0xA007, 5, .staged)],
    let r := pribyCmd e.1 e.2.1 0
    let s : State := { up with sup := { up.sup with staging := e.2.2 } }
    s.supRuns = true ∧ s.serviceOnly = false ∧ 10 ≤ s.boot.stage ∧ s.sup.replies = [] ∧ pribyIs r 3 e.1 e.2.1 = true ∧ pribyReserved r.bytes = false ∧
      field r.bytes 7 1 = 0 ∧ field r.bytes 8 4 = 0 ∧ r.bytes.length = 48 ∧ s.sup.staging = e.2.2 ∧ s.boot.onTrial = false := by decide +kernel
theorem witness_DumpsAndTrials_activate :
    let s : State := { stocked with sup := { stocked.sup with staging := .staged, bootCtl := { activeSlot := 1 } } }
    asked s (pribyCmd 0xA006 1 0) 3 0xA006 1 ∧ s.sup.staging = .staged ∧ s.fuses.rollback ≤ securityVer (s.manifest s.stageSlot) ∧ bitAt (asks (pribyCmd 0xA006 1 0)) 0 = false := by
  intro s
  have h0 : s.stageSlot = 0 := by decide +kernel
  have h1 : securityVer (s.manifest s.stageSlot) = 3 := stocked_version (s := s) rfl _ h0
  exact ⟨asked_of (by decide +kernel), rfl, by rw [h1]; exact (by decide : 2 ≤ 3), by decide +kernel⟩
theorem witness_DumpsAndTrials_trials :
    (asked up (pribyCmd 0xA006 2 0) 3 0xA006 2 ∧ up.boot.onTrial = false) ∧
    (let s : State := { up with sup := { up.sup with bootCtl := { trialSlot := 1 } } }
     asked s (pribyCmd 0xA006 3 0) 3 0xA006 3 ∧ s.onTrialNow = true) := ⟨⟨asked_of (by decide +kernel), rfl⟩, asked_of (by decide +kernel), by decide +kernel⟩

theorem laneTakes_of {s : State} {p : List Byte} {op : Nat} (h : s.laneRuns = true ∧ creifOk p = true ∧ field p 1 1 = op) : laneTakes s p op := h
theorem witness_CreifTransfers_begin : ∀ e ∈ [(1, 0, 50331648, 0), (1, 0, 50331649, 3), (2, 0, 7501, 0), (3, 3, 0, 0), (4, 0, 0, 0), (5, 1, 32, 0), (6, 0, 0, 2)],
    let p := creifPacket 1 e.1 e.2.1 0 0 0 0 e.2.2.1 []
    let s : State := { up with dict := [(dk 0x8000 1, 1)], sup := { up.sup with dumps := [(3, { state := .held })] } }
    s.laneRuns = true ∧ creifOk p = true ∧ field p 1 1 = 1 ∧ s.beginStatus (field p 2 1) (field p 3 1) (field p 0x18 4) = e.2.2.2 := by decide +kernel
def session (x : Session) (st : StageState) (d : Dump) : State :=
  { up with time := 10000000, sup := { up.sup with staging := st, sessions := [x], dumps := [(3, d)] } }
theorem witness_CreifTransfers_data :
    let x : Session := { id := 7, kind := 5, arg := 1, total := 32 }
    let p := creifPacket 2 5 1 7 1 0 0 0 (List.replicate 32 9)
    let s := session x .free {}
    s.session (field p 4 4) = some x ∧ laneTakes s p 2 ∧ field p 8 4 = x.seqDone + 1 ∧ field p 0x10 8 = x.seqDone * 1024 ∧ x.seqDone * 1024 + field p 0x0C 2 ≤ x.total :=
  ⟨by decide +kernel, laneTakes_of (by decide +kernel), by decide +kernel, by decide +kernel, by decide +kernel⟩
theorem witness_CreifTransfers_end (x : Session) (h : x = { id := 7, kind := 5, arg := 2, total := 32, seqDone := 1 } ∨ x = { id := 7, kind := 1, total := 1024, seqDone := 1 }) :
    let p := creifPacket 3 x.kind x.arg 7 0 0 0 0 []
    let s := session x .receiving {}
    s.session (field p 4 4) = some x ∧ laneTakes s p 3 ∧ x.ended = false ∧ x.total ≤ 1024 * x.seqDone ∧ s.fuses.dualSig = false ∧ s.sup.staging = .receiving := by
  rcases h with rfl | rfl <;> exact ⟨by decide +kernel, laneTakes_of (by decide +kernel), by decide +kernel, by decide +kernel, by decide +kernel, rfl⟩
theorem witness_CreifTransfers_export :
    let d : Dump := { state := .exporting, bytes := 100 }
    let x : Session := { id := 7, kind := 3, arg := 3, seqDone := 0, seqSent := 1 }
    let p := creifPacket 4 3 3 7 1 0 0 0 []
    let s := session x .free d
    s.session (field p 4 4) = some x ∧ laneTakes s p 4 ∧ x.seqDone < field p 8 4 ∧ field p 8 4 ≤ x.seqSent ∧ (s.dump x.arg).size ≤ 1024 * field p 8 4 :=
  ⟨by decide +kernel, laneTakes_of (by decide +kernel), by decide +kernel, by decide +kernel, by decide +kernel⟩
theorem witness_CreifTransfers_abort (x : Session) (h : x = { id := 7, kind := 1 } ∨ x = { id := 7, kind := 3, arg := 3 }) :
    let p := creifPacket 5 x.kind x.arg 7 0 0 0 0 []
    let s := session x .receiving { state := .exporting }
    s.session (field p 4 4) = some x ∧ laneTakes s p 5 ∧ x.ended = false ∧ s.resting x = false := by
  rcases h with rfl | rfl <;> exact ⟨by decide +kernel, laneTakes_of (by decide +kernel), by decide +kernel, by decide +kernel⟩
theorem witness_CreifTransfers_timers (n : Nat) (h : n = 49 ∨ n = 50) :
    let x : Session := { id := 7, kind := 3, arg := 3, seqSent := 1, resends := n, sentAt := 9980000 }
    let s := session x .free { state := .exporting }
    s.session 7 = some x ∧ (s.dump x.arg).state = .exporting ∧ x.seqSent ≠ x.seqDone ∧ x.sentAt + 20000 ≤ s.time ∧ x.ended = false ∧ s.resting x = false ∧
      x.lastValid + 10000000 ≤ s.time := by
  rcases h with rfl | rfl <;> decide +kernel
theorem witness_CreifTransfers_verify :
    let s : State := { stocked with sup := { stocked.sup with staging := .verifying, bootCtl := { activeSlot := 1 } } }
    let v : Verify := { ecdsa := true, mldsa := false, flashOk := true }
    s.sup.staging = .verifying ∧ v.flashOk = true ∧ s.slotStatus s.stageSlot v.ecdsa v.mldsa = 0 ∧
      (9 : Nat) = (if ({ v with flashOk := false } : Verify).flashOk then s.slotStatus s.stageSlot true false else 9) := by
  intro s v
  have h0 : s.stageSlot = 0 := by decide +kernel
  have h1 : s.slotStatus 0 true false = 0 := stocked_status (s := s) ⟨rfl, rfl⟩ false
  exact ⟨rfl, rfl, by rw [h0]; exact h1, rfl⟩

theorem witness_ManagementBus :
    (up.i3cRuns = true ∧ up.sup.i3cDynamic = none ∧ (0x48 : BitVec 7).toNat = 0x48 + up.boot.slotId.val) ∧
    (up.boot.halt < 16 ∧ up.boot.stage < 16) ∧ up.supRuns = true ∧ ((1 : Byte) ≠ 0 ∧ (1 : Byte) ≠ 0xFF) ∧ ((0xFE : Byte) ≠ 0 ∧ (0xFE : Byte) ≠ 0xFF) ∧
    (up.hostOpen = true ∧ ∀ p : PortNo, up.fnPresent (fnKey p.val 0) = true) := by decide +kernel
/-- Three connections in a state. -/
def attesting (c : Spdm) : State := { up with sup := { up.sup with spdm := [(0, c), (1, c), (2, c)] } }
theorem witness_Attestation : ∀ c ∈ [({} : Spdm), { version := true }, { version := true, caps := true }, { version := true, caps := true, algs := true }], ∀ x : Fin 3,
    (attesting c).spdmRuns x = true ∧ c = (attesting c).spdmOf x.val := by decide +kernel
theorem witness_Attestation_requests :
    up.sup.certOk = true ∧ (let q := bytesAt 8 [(4, 2, 0), (6, 2, 16)]
      field q 2 1 = 0 ∧ field q 4 2 < up.certChain.length ∧ field q 3 1 = 0 ∧ bitAt (field q 2 1) 0 = false) := by decide +kernel

/-! ## Witnesses: reset -/

/-- A byte of each memory listed and a command waiting, in canonical form. -/
theorem witness_MemoryKeepsForm :
    let s : State := { mapped with hbm := [(7 * 65536, 1)], cxl := [(0, 2)], scratch := [(5, 3)], hostMem := [(6, 4)], flash := [(0, 0)], pending := [.vinQualified 48000] }
    memWf s ∧ ∃ t, step s = .next t := ⟨⟨by decide +kernel, by decide +kernel, by decide +kernel, by decide +kernel, by decide +kernel⟩, _, rfl⟩

/-! ## Small steps and values worked out by hand -/

/-- What a test reads of a step's next state. -/
def after {α : Type} (c : Instr) (s : State) (f : State → α) : Option α :=
  match exec c s with
  | .next t => some (f t)
  | _ => none

/-- 1.0 + 2.0 is 3.0; 1.0 / 3.0 to nearest is 0x3EAAAAAB; √2 is 0x3FB504F3. -/
theorem test_binary32 : (fadd 0x3F800000 0x40000000).1 = 0x40400000 ∧ (fdiv 0x3F800000 0x40400000).1 = 0x3EAAAAAB ∧ (fsqrt 0x40000000).1 = 0x3FB504F3 := by decide +kernel
/-- Halfway cases of a narrowing to bfloat16 go to the even code. -/
theorem test_bf16_ties : (narrowBf16 0x3F808000).1 = 0x3F80 ∧ (narrowBf16 0x3F818000).1 = 0x3F82 := by decide +kernel
/-- The published check values: CRC32C of 123456789, and the first bytes of SHA-256 of abc. -/
theorem test_crc32c : crc32c [0x31, 0x32, 0x33, 0x34, 0x35, 0x36, 0x37, 0x38, 0x39] = 0xE3069283 := by decide +kernel
theorem test_sha256 : (Sha.sha256 [0x61, 0x62, 0x63]).take 4 = [0xBA, 0x78, 0x16, 0xBF] := by decide +kernel
/-- R440: packet numbers wrap. -/
theorem test_psn_wraps : psnNext (2 ^ 32 - 1) = 0 ∧ psnAfter 0 (2 ^ 32 - 1) = true ∧ psnAfter (2 ^ 31) 0 = false := by decide
/-- A NOP ends OK with DETAIL 0. -/
theorem test_nop : after (.nop 0) (holding up (given 0x01 [])) (fun t => (t.cmd 0).map (·.phase)) = some (some (.ended 0 0)) := by decide +kernel
/-- R380: FADD over 3 elements of which element 2 is a carry into a new exponent, the destination one of the sources; element 3 stays. -/
def addends (n : Nat) : State :=
  let s := vectoring [] false (vecWord 0x20 3 3 n (4 * 2 ^ 41))
  s.setCore 0 { s.core 0 with tile := { (s.core 0).tile with vec := { active := true, v := [(3 * 8192, 0x3F800000), (3 * 8192 + 2, 0x3FC00000), (3 * 8192 + 3, 5), (4 * 8192, 0x40000000), (4 * 8192 + 2, 0x3FC00000)] } } }
theorem test_vFadd : after (.vFadd 0) (addends 2) (fun t => (List.range 4).map fun e => tabGet 0 (t.core 0).tile.vec.v (3 * 8192 + e)) = some [0x40400000, 0, 0x40400000, 5] := by decide +kernel
/-- R640: SET_ENDPOINT_ID answers completion code 0, accepted, the EID, and an in-band interrupt follows. -/
theorem test_setEndpointId : after (.setEndpointId 9) up (·.out) = some [Out.mctp [0, 0, 9, 0], Out.i3cIbi] := by decide +kernel
/-- R669, R73: VERSION names one version, 1.3, and an in-band interrupt follows it over the management bus. -/
theorem test_getVersion : after (.getVersion 0 []) up (·.out) = some [Out.spdm 0 [0x10, 4, 0, 0, 0, 1, 0, 0x13], Out.i3cIbi] := by decide +kernel
/-- A supply above 46 V begins the cold reset; 46 V does not. -/
theorem test_vinQualified : after (.vinQualified 46001) State.reset (fun t => t.resetRec.kind) = some 1 ∧ after (.vinQualified 46000) State.reset (·.power.state) = some .unpowered := by decide +kernel
/-- Four bytes of a page written and one of them cleared again: the memory lists the other three. -/
theorem test_write_back : memWrite (memWrite [] 65534 [1, 2, 3, 4]) 65535 [0] = [(65534, 1), (65536, 3), (65537, 4)] := by decide
/-- No row of the table has a word. -/
theorem test_no_words : decodeTableWord 32 0 = none := rfl

end Sys2Proof.Tests
end

/-!
# The machine right after reset
-/
namespace Sys2Proof.Machine

open Sys2Proof Sys2Proof.Safety

/-- A table that lists nothing reads as its default everywhere. -/
@[simp] theorem tabGet_nil {α : Type} (d : α) (k : Nat) : tabGet d [] k = d := rfl

/-- A table that lists nothing is in canonical form. -/
@[simp] theorem tabWf_nil {α : Type} [DecidableEq α] (d : α) : tabWf d [] = true := rfl

/-- A memory that lists no byte reads 0 everywhere (log 4). -/
@[simp] theorem memByte_nil (a : Nat) : memByte [] a = 0 := tabGet_nil 0 a

theorem memWf_reset : memWf State.reset :=
  ⟨tabWf_nil 0, tabWf_nil 0, tabWf_nil 0, tabWf_nil 0, tabWf_nil 0xFF⟩

@[simp] theorem State.core_reset (k : Nat) : State.reset.core k = {} := tabGet_nil ({} : Core) k

@[simp] theorem State.part_reset (i : Nat) : State.reset.part i = {} := tabGet_nil ({} : Part) i

/-- Settles O59: the scalar fields are those of `State.reset` itself, and every table of it is empty. -/
theorem resetState : Obligations.ResetState := by
  unfold Obligations.ResetState
  refine ⟨rfl, rfl, rfl, rfl, ?fuses, memWf_reset, ?memory, ?cores, ?partitions⟩
  case fuses => decide
  case memory => exact memByte_nil
  case cores => intro k; rw [State.core_reset]
  case partitions => intro i; rw [State.part_reset]

end Sys2Proof.Machine

/-!
# The management bus: I3C, MCTP control messages and DOE discovery

One equation for each row says what it does where its condition holds; the replies' bytes are log 22's (PRESUMED).
-/
namespace Sys2Proof.Machine

open Sys2Proof Sys2Proof.Safety

section
variable {s : State}

/-- A row whose condition holds goes to its next state. -/
theorem when_of_true {b : Bool} (h : b = true) (t : State) : when s b t = .next t := by
  rw [when, if_pos h]

/-- A row that goes to t answers whatever holds of t. -/
theorem answers_of_exec {c : Instr} {t : State} {P : State → Prop} (h : exec c s = .next t) (hP : P t) :
    answers c s P := ⟨t, h, hP⟩

/-! ## I3C (R46, R73, R130) -/

theorem exec_entdaa (a : BitVec 7) (hrun : s.i3cRuns = true) (hfree : s.sup.i3cDynamic = none) :
    exec (.entdaa a) s = .next { s with sup := { s.sup with i3cDynamic := some a } } :=
  when_of_true (by simp [hrun, hfree]) _

theorem exec_setdasa {st : BitVec 7} (a : BitVec 7) (hrun : s.i3cRuns = true) (hfree : s.sup.i3cDynamic = none)
    (hst : st.toNat = 0x48 + s.boot.slotId.val) :
    exec (.setdasa st a) s = .next { s with sup := { s.sup with i3cDynamic := some a } } :=
  when_of_true (by simp [hrun, hfree, hst]) _

/-- The word GETSTATUS replies with. -/
def statusWord (halt stage : Nat) : BitVec 16 := BitVec.ofNat 16 (2 ^ 8 * halt + 2 ^ 12 * stage)

/-- R130: bits [11:8] of the status word are the halt code, whatever the stage. -/
theorem statusWord_halt {halt : Nat} (stage : Nat) (h : halt < 16) : bits (statusWord halt stage).toNat 8 4 = halt := by
  simp only [bits, statusWord, BitVec.toNat_ofNat]
  omega

/-- R130: bits [15:12] of the status word are the boot stage. -/
theorem statusWord_stage {halt stage : Nat} (h : halt < 16) (hs : stage < 16) :
    bits (statusWord halt stage).toNat 12 4 = stage := by
  simp only [bits, statusWord, BitVec.toNat_ofNat]
  omega

theorem exec_getstatus (hrun : s.i3cRuns = true) :
    exec .getstatus s = .next { s with out := s.out ++ [Out.i3c (statusWord s.boot.halt s.boot.stage)] } :=
  when_of_true hrun _

/-! ## MCTP control messages (R640) -/

@[simp] theorem State.mctpReply_out (s : State) (bs : List Byte) : (s.mctpReply bs).out = s.out ++ [Out.mctp bs, Out.i3cIbi] := rfl

@[simp] theorem State.mctpReply_entry (s : State) (bs : List Byte) (index sub : Nat) :
    (s.mctpReply bs).entry index sub = s.entry index sub := rfl

theorem exec_setEndpointId {eid : Byte} (hrun : s.supRuns = true) (h0 : eid ≠ 0) (hff : eid ≠ 0xFF) :
    exec (.setEndpointId eid) s = .next ((s.dictSet (dk 0x2060 5) eid.toNat).mctpReply [0#8, 0#8, eid, 0#8]) := by
  have hvalid : ¬ (eid = 0 ∨ eid = 0xFF) := not_or.mpr ⟨h0, hff⟩
  rw [exec, execSetEndpointId, when_of_true hrun, if_neg hvalid]

theorem exec_getEndpointId (hrun : s.supRuns = true) :
    exec .getEndpointId s = .next (s.mctpReply [0#8, BitVec.ofNat 8 (s.entry 0x2060 5), 0#8, 0#8]) :=
  when_of_true hrun _

theorem exec_getMctpVersionSupport_pci (hrun : s.supRuns = true) :
    exec (.getMctpVersionSupport 0x7E) s = .next (s.mctpReply [0#8, 1#8, 0xF1#8, 0xF3#8, 0xF1#8, 0#8]) :=
  when_of_true hrun _

theorem exec_getMessageTypeSupport (hrun : s.supRuns = true) :
    exec .getMessageTypeSupport s = .next (s.mctpReply [0#8, 3#8, 0#8, 5#8, 0x7E#8]) :=
  when_of_true hrun _

theorem exec_getVendorDefinedSupport_zero (hrun : s.supRuns = true) :
    exec (.getVendorDefinedSupport 0) s =
      .next (s.mctpReply ([0#8, 0xFF#8, 0#8] ++ (bytesOfNat (s.entry 0x1000 1) 2).reverse ++ [0#8, 0#8])) :=
  when_of_true hrun _

/-- SET_ENDPOINT_ID: the endpoint ID is kept in entry 0x2060:05 and the reply accepts it. -/
theorem answers_setEndpointId {eid : Byte} (hrun : s.supRuns = true) (h0 : eid ≠ 0) (hff : eid ≠ 0xFF) :
    answers (.setEndpointId eid) s fun t =>
      t.entry 0x2060 5 = eid.toNat ∧ t.out = s.out ++ [Out.mctp [0#8, 0#8, eid, 0#8], Out.i3cIbi] := by
  refine answers_of_exec (exec_setEndpointId hrun h0 hff) ⟨?_, ?_⟩
  · rw [State.mctpReply_entry, State.entry, State.dictGet_set]
  · simp

/-! ## DOE discovery (R162) -/

theorem exec_doeDiscovery_zero {p : PortNo} (hopen : s.hostOpen = true) (hfn : s.fnPresent (fnKey p.val 0) = true) :
    exec (.doeDiscovery p 0) s = .next { s with out := s.out ++ [Out.doe (fnKey p.val 0) [1#8, 0#8, 0#8, 1#8]] } :=
  when_of_true (by rw [hopen, hfn, Bool.and_self]) _

theorem exec_doeDiscovery_one {p : PortNo} (hopen : s.hostOpen = true) (hfn : s.fnPresent (fnKey p.val 0) = true) :
    exec (.doeDiscovery p 1) s = .next { s with out := s.out ++ [Out.doe (fnKey p.val 0) [1#8, 0#8, 1#8, 0#8]] } :=
  when_of_true (by rw [hopen, hfn, Bool.and_self]) _

end

/-- Settles O57: row by row, each from the equation that says what the row does. -/
theorem managementBus : Obligations.ManagementBus := by
  unfold Obligations.ManagementBus
  intro s
  refine ⟨?address, ?status, ?control, ?discovery⟩
  case address =>
    intro a hrun hfree
    exact ⟨answers_of_exec (exec_entdaa a hrun hfree) rfl,
      fun _ hst => answers_of_exec (exec_setdasa a hrun hfree hst) rfl⟩
  case status =>
    intro hrun hhalt
    exact answers_of_exec (exec_getstatus hrun)
      ⟨_, rfl, statusWord_halt _ hhalt, statusWord_stage hhalt⟩
  case control =>
    intro hrun
    exact ⟨fun _ h0 hff => answers_setEndpointId hrun h0 hff,
      answers_of_exec (exec_getEndpointId hrun) rfl,
      answers_of_exec (exec_getMctpVersionSupport_pci hrun) rfl,
      answers_of_exec (exec_getMessageTypeSupport hrun) rfl,
      answers_of_exec (exec_getVendorDefinedSupport_zero hrun) rfl⟩
  case discovery =>
    intro p hopen hfn
    exact ⟨answers_of_exec (exec_doeDiscovery_zero hopen hfn) rfl,
      answers_of_exec (exec_doeDiscovery_one hopen hfn) rfl⟩

end Sys2Proof.Machine

/-!
# Resets recognised: how one begins, and how far a cold one goes

R104, R109, R111 and R113 as lemmas about raiseReset, coldReset and coldTrim, for the statements about the sources of resets.
-/
namespace Sys2Proof.Machine

open Sys2Proof Sys2Proof.Safety

/-! ## What a fold keeps -/

/-- What every step of a fold keeps, the fold keeps. -/
theorem State.foldl_keeps {α β : Type} (g : State → β) {f : State → α → State} (h : ∀ x a, g (f x a) = g x) (l : List α) (s : State) :
    g (l.foldl f s) = g s := by
  induction l generalizing s with
  | nil => rfl
  | cons a l ih => exact (ih _).trans (h s a)

/-! ## Rows and sources -/

section
variable {s : State}

theorem State.powered_of (h : s.power.state ≠ .unpowered) : s.powered = true := by simp [State.powered, h]

/-! ## MOD_READY -/

/-- MOD_READY in a cold reset (R48). -/
theorem State.pin_modReady_cold (h : s.power.state = .coldReset) : s.pin .modReady = .hiZ := by
  simp [State.pin, State.modReady, State.moduleState, h]

/-- MOD_READY of a module that runs (R48). -/
theorem State.pin_modReady_running (h : s.power.state = .running) : s.pin .modReady = .high := by
  by_cases hw : s.inReset .warm = true <;> simp [State.pin, State.modReady, State.moduleState, h, hw]

/-! ## Which resets in progress take in another (R109) -/

theorem State.takesIn_cold (s : State) (r : ResetRun) : s.takesIn r .cold = (r.target == .cold) := by
  cases h : r.target <;> simp [State.takesIn, State.contains, coreTarget, h]

theorem State.takesIn_warm (s : State) (r : ResetRun) : s.takesIn r .warm = (r.target == .warm || r.target == .cold) := by
  cases h : r.target <;> simp [State.takesIn, State.contains, coreTarget, h]

/-- A reset that none in progress takes in begins: its run is in progress, with its cause and its hold, from now on. -/
theorem State.raiseReset_begins {t : ResetTarget} (cause : Nat) (hard retire hold again : Bool)
    (h : ∀ r ∈ s.resets, s.takesIn r t = false) :
    ∃ r ∈ (s.raiseReset t cause hard retire hold again).resets,
      r.target = t ∧ BitVec.ofNat 16 cause ∈ r.causes ∧ r.began = s.time ∧ r.hold = hold := by
  have hnone : s.resets.find? (fun r => s.takesIn r t) = none := List.find?_eq_none.mpr fun r hr => by simp [h r hr]
  unfold State.raiseReset
  rw [hnone]
  have hmem : ∀ (p : Prop) [Decidable p] (l : List ResetRun) (r : ResetRun), r ∈ if p then [r] else l ++ [r] := fun p _ l r => by
    split <;> simp
  exact ⟨_, hmem .., rfl, List.mem_append_right _ (List.mem_singleton_self _), rfl, rfl⟩

/-- With no reset in progress, a reset of any target but the two of the whole device begins. -/
theorem State.doReset_begins {t : ResetTarget} (cause : Nat) (hard : Bool) (h : s.resets = []) (hc : t ≠ .cold) (hw : t ≠ .warm) :
    resetBegun t cause s (s.doReset t cause hard) := by
  have e : s.doReset t cause hard = s.raiseReset t cause hard := by
    cases t with
    | cold => exact absurd rfl hc
    | warm => exact absurd rfl hw
    | _ => rfl
  obtain ⟨r, hr, ht, hk, hb, -⟩ := s.raiseReset_begins (t := t) cause hard false false false (by simp [h])
  exact e ▸ ⟨r, hr, ht, hk, hb⟩

/-! ## The cold reset recognised (R109, R111, R113 step 1) -/

/-- A DEPART sent changes what has left, the flows and a counter. -/
theorem State.sendDepart_form (s : State) (f : Nat) :
    ∃ o l fl d, s.sendDepart f = { s with out := o, loopback := l, flows := fl, dict := d } := by
  unfold State.sendDepart State.emit
  dsimp only
  split
  · exact ⟨s.out, s.loopback, s.flows, s.dict, rfl⟩
  · split
    · exact ⟨_, _, _, _, rfl⟩
    · split
      · exact ⟨_, _, _, _, rfl⟩
      · exact ⟨_, _, _, _, rfl⟩

/-- What a cold reset keeps of the module reads as before the DEPARTs that precede it. -/
theorem State.departs_keep (s : State) (l : List Nat) :
    (l.foldl (fun s f => s.sendDepart f) s).power = s.power ∧ (l.foldl (fun s f => s.sendDepart f) s).pins = s.pins ∧
    (l.foldl (fun s f => s.sendDepart f) s).resetRec = s.resetRec := by
  have h : ∀ (x : State) (f : Nat), ((x.sendDepart f).power, (x.sendDepart f).pins, (x.sendDepart f).resetRec) = (x.power, x.pins, x.resetRec) := by
    intro x f
    obtain ⟨o, l, fl, d, e⟩ := x.sendDepart_form f
    rw [e]
  simpa using State.foldl_keeps (fun x => (x.power, x.pins, x.resetRec)) h l s

/-- What the reach of a cold reset leaves: the module in it, with its holds, its pins and its record. -/
theorem State.reachCold_module (s : State) (d : Bool) :
    (s.reachCold d).power.state = .coldReset ∧ (s.reachCold d).power.vinHold = s.power.vinHold ∧
    (s.reachCold d).power.crystalHold = s.power.crystalHold ∧ (s.reachCold d).pins = { s.pins with protectLow := false } ∧
    (s.reachCold d).boot = {} ∧ (s.reachCold d).resetRec = s.resetRec := by
  obtain ⟨hpower, hpins, hrec⟩ := s.departs_keep (s.flows.map (·.1))
  unfold State.reachCold
  cases d <;> simp [hpower, hpins, hrec]

/-- Cores marked to be retired change the cores alone. -/
theorem State.keepRetiring_rest (s : State) (cs : List Nat) : s.keepRetiring cs = { s with cores := (s.keepRetiring cs).cores } := by
  unfold State.keepRetiring
  induction cs generalizing s with
  | nil => rfl
  | cons c cs ih => rw [List.foldl_cons, ih]; rfl

/-- The state in which a recognised cold reset takes its first step (R113). -/
def State.coldBegin (s : State) (cause : Nat) : State :=
  let old := (s.resets.filter fun r => r.target == .cold).flatMap (·.causes)
  let s1 := ({ s with resets := s.resets.filter fun r => r.target != .cold } : State).raiseReset .cold cause
    (again := s.inReset .cold && s.boot.halt == 0)
  { s1 with boot := { s1.boot with stage := 1 }, resets := s1.resets.map fun r => { r with causes := old ++ r.causes } }

theorem State.coldReset_eq (s : State) (cause : Nat) : s.coldReset cause = (s.coldBegin cause).coldTrim := rfl

theorem State.recordReset_cold (s : State) (cause : Nat) (counts : Bool) :
    ∃ d p l, s.recordReset .cold cause counts =
      { s with resetRec := { kind := 1, cause := BitVec.ofNat 16 cause, time := s.time, target := 0xFFFF }, resetLog := l, dict := d, persist := p } := by
  cases counts
  · exact ⟨s.dict, s.persist, _, rfl⟩
  · exact ⟨_, _, _, rfl⟩

/-- A cold reset that none in progress takes in: its record, then its reach. -/
theorem State.raiseCold_form (cause : Nat) (again : Bool) (h : ∀ r ∈ s.resets, r.target ≠ .cold) :
    ∃ cores sup rs, s.raiseReset .cold cause (again := again) =
      { (s.recordReset .cold cause (!again)).reachCold (departCause .cold cause) with cores := cores, sup := sup, resets := rs } := by
  have hnone : s.resets.find? (fun r => s.takesIn r .cold) = none :=
    List.find?_eq_none.mpr fun r hr => by simp [State.takesIn_cold, h r hr]
  unfold State.raiseReset
  rw [hnone]
  dsimp only
  rw [State.keepRetiring_rest]
  exact ⟨_, _, _, rfl⟩

/-- The first step of a cold reset: the module is in it, with its holds and pins, and its record says so. -/
theorem State.coldBegin_module (s : State) (cause : Nat) :
    (s.coldBegin cause).power.state = .coldReset ∧ (s.coldBegin cause).power.vinHold = s.power.vinHold ∧
    (s.coldBegin cause).power.crystalHold = s.power.crystalHold ∧ (s.coldBegin cause).pins = { s.pins with protectLow := false } ∧
    (s.coldBegin cause).boot = { stage := 1 } ∧
    (s.coldBegin cause).resetRec = { kind := 1, cause := BitVec.ofNat 16 cause, time := s.time, target := 0xFFFF } := by
  let s0 : State := { s with resets := s.resets.filter fun r => r.target != .cold }
  let again := s.inReset .cold && s.boot.halt == 0
  obtain ⟨c, u, rs, hraise⟩ := s0.raiseCold_form cause again (by simp [s0])
  obtain ⟨d, p, l, hrecord⟩ := s0.recordReset_cold cause (!again)
  obtain ⟨h1, h2, h3, h4, h5, h6⟩ := (s0.recordReset .cold cause (!again)).reachCold_module (departCause .cold cause)
  rw [hrecord] at hraise h1 h2 h3 h4 h5 h6
  unfold State.coldBegin
  dsimp only
  rw [hraise]
  exact ⟨h1, h2, h3, h4, by dsimp only; rw [h5], h6⟩

/-- The run of the cold reset recognised is in progress, with its cause. -/
theorem State.coldBegin_run (s : State) (cause : Nat) :
    ∃ r ∈ (s.coldBegin cause).resets, r.target = .cold ∧ BitVec.ofNat 16 cause ∈ r.causes := by
  obtain ⟨r, hr, ht, hc, -⟩ := State.raiseReset_begins (s := { s with resets := s.resets.filter fun r => r.target != .cold }) (t := .cold)
    cause false false false (s.inReset .cold && s.boot.halt == 0) (by simp [State.takesIn_cold])
  exact ⟨_, List.mem_map_of_mem hr, ht, List.mem_append_right _ hc⟩

/-! ## Steps 2 and 3 (R113) -/

/-- The trim leaves the record, and every cold reset in progress goes on with its causes. -/
theorem State.coldTrim_begun {cause : Nat} {now : State} (hrec : s.resetRec = { kind := 1, cause := BitVec.ofNat 16 cause, time := now.time, target := 0xFFFF })
    (hrun : ∃ r ∈ s.resets, r.target = .cold ∧ BitVec.ofNat 16 cause ∈ r.causes) : coldBegun cause now s.coldTrim := by
  obtain ⟨r, hr, ht, hc⟩ := hrun
  unfold State.coldTrim
  split
  · exact ⟨⟨r, hr, ht, hc⟩, hrec⟩
  split
  · exact ⟨⟨r, hr, ht, hc⟩, hrec⟩
  split
  · exact ⟨⟨r, hr, ht, hc⟩, hrec⟩
  split
  · obtain ⟨d, e⟩ := State.count_rest
      { s with boot := { s.boot with stage := 3, trimAttempts := 3 }, phys := { s.phys with trimFails := s.phys.trimFails - 3 } } 0x2000 8 1
    unfold State.haltBoot
    rw [e]
    exact ⟨⟨r, hr, ht, hc⟩, hrec⟩
  · exact ⟨⟨{ r with began := 0 }, List.mem_map.mpr ⟨r, hr, by simp [ht]⟩, ht, hc⟩, hrec⟩

/-- A module that VIN, MOD_RESET_N or the crystal holds gets no further than its stage. -/
theorem State.coldTrim_held (h : s.coldHeld = true ∨ s.power.crystalHold = true) :
    ∃ n, s.coldTrim = { s with boot := { s.boot with stage := n } } := by
  unfold State.coldTrim
  split
  · exact ⟨s.boot.stage, rfl⟩
  split
  · exact ⟨1, rfl⟩
  split
  · exact ⟨2, rfl⟩
  · rcases h with h | h <;> contradiction

/-- The PLLs that step 3 starts (R113). -/
theorem basePll_started (n : Fin 12) :
    (((List.range 4).map fun d => (PllId.base (Fin.ofNat 4 d), ({ running := true } : Pll))) ++
      (List.range 8).map fun d => (PllId.hbm (Fin.ofNat 8 d), ({ running := true } : Pll))).find? (fun e => e.1 == basePll n) =
        some (basePll n, { running := true }) := by
  revert n; decide

/-- Where nothing holds the module and the trim loads, steps 2 and 3 are done at once. -/
theorem State.coldTrim_boots (hstate : s.power.state = .coldReset) (hhalt : s.boot.halt = 0) (hstage : s.boot.stage < 3)
    (hheld : s.coldHeld = false) (hcrystal : s.power.crystalHold = false) (htrim : s.phys.trimFails < 3) : bootBegun s s.coldTrim := by
  have hgo : ¬ (s.power.state ≠ .coldReset ∨ s.boot.halt ≠ 0 ∨ 3 ≤ s.boot.stage) := by simp [hstate, hhalt]; omega
  unfold State.coldTrim
  rw [if_neg hgo, if_neg (by simp [hheld]), if_neg (by simp [hcrystal]), if_neg (by omega)]
  refine ⟨rfl, rfl, rfl, rfl, rfl, fun n => ?_, ?_, rfl⟩
  · unfold State.pll
    rw [basePll_started]
  · exact State.pin_modReady_running rfl

/-! ## Cold resets -/

/-- A cold reset recognised is begun, and the always-on record says so (R104, R111). -/
theorem State.coldReset_begun (s : State) (cause : Nat) : coldBegun cause s (s.coldReset cause) := by
  obtain ⟨-, -, -, -, -, hrec⟩ := s.coldBegin_module cause
  exact State.coldTrim_begun hrec (s.coldBegin_run cause)

/-- A cold reset of a module that is held stays in it, with its pins as they are. -/
theorem State.coldReset_held (cause : Nat) (h : s.power.vinHold = true ∨ s.pins.modResetLow = true ∨ s.power.crystalHold = true) :
    (s.coldReset cause).power.state = .coldReset ∧ (s.coldReset cause).power.vinHold = s.power.vinHold ∧
    (s.coldReset cause).power.crystalHold = s.power.crystalHold ∧ (s.coldReset cause).pins = { s.pins with protectLow := false } := by
  obtain ⟨hstate, hvin, hcrystal, hpins, -, -⟩ := s.coldBegin_module cause
  obtain ⟨n, e⟩ := State.coldTrim_held (s := s.coldBegin cause) (by
    rcases h with h | h | h <;> simp [State.coldHeld, hvin, hcrystal, hpins, h])
  rw [State.coldReset_eq, e]
  exact ⟨hstate, hvin, hcrystal, hpins⟩

/-! ## The rows -/

section
variable (hpow : s.power.state ≠ .unpowered)
include hpow

theorem exec_undervoltage {mv : W32} (h : mv.toNat < 40000) : exec (.undervoltage mv) s = .next (s.supplyReset mv.toNat 3) :=
  when_of_true (by simp [State.powered_of hpow, h]) _

theorem exec_overvoltage {mv : W32} (h : 61000 < mv.toNat) : exec (.overvoltage mv) s = .next (s.supplyReset mv.toNat 4) :=
  when_of_true (by simp [State.powered_of hpow, h]) _

theorem exec_crystalLoss :
    exec .crystalLoss s = .next (({ s with power := { s.power with crystalHold := true } } : State).coldReset 5) :=
  when_of_true (State.powered_of hpow) _

theorem exec_modResetN :
    exec .modResetN s = .next (({ s with pins := { s.pins with modResetLow := true } } : State).coldReset 2) := by
  show Host.Outcome.next (if s.powered then _ else _) = _
  rw [if_pos (State.powered_of hpow)]

theorem exec_basePllLockLoss {n : Fin 12} (h : (s.pll (basePll n)).released = true) :
    exec (.basePllLockLoss n) s = .next (s.coldReset 6) :=
  when_of_true (by simp [State.powered_of hpow, h]) _

end

/-- A supply reset holds the module until VIN recovers (R95, R99). -/
theorem State.supplyReset_held (s : State) (mv cause : Nat) :
    coldBegun cause s (s.supplyReset mv cause) ∧ (s.supplyReset mv cause).power.vinHold = true ∧
    (s.supplyReset mv cause).power.state = .coldReset ∧ (s.supplyReset mv cause).pins.vinMv = mv := by
  obtain ⟨hstate, hvin, -, hpins⟩ :=
    State.coldReset_held (s := ({ s with power := { s.power with vinHold := true } } : State).vin mv) cause (.inl rfl)
  exact ⟨State.coldReset_begun _ cause, hvin, hstate, congrArg Pins.vinMv hpins⟩

theorem exec_vinQualified {mv : W32} (hpow : s.power.state = .unpowered) (h : 46000 < mv.toNat) :
    exec (.vinQualified mv) s =
      .next ((({ s with power := { s.power with state := .coldReset } } : State).vin mv.toNat).coldReset 1) :=
  when_of_true (by simp [State.powered, hpow, h]) _

theorem exec_vinRecovered {mv : W32} (hpow : s.power.state ≠ .unpowered) (hhold : s.power.vinHold = true) (hlo : 46000 ≤ mv.toNat)
    (hhi : mv.toNat ≤ 60000) (hclear : s.power.vinClear ≤ s.time) :
    exec (.vinRecovered mv) s = .next (({ s with power := { s.power with vinHold := false } } : State).vin mv.toNat).coldTrim :=
  when_of_true (by simp [State.powered_of hpow, hhold, hlo, hhi, hclear]) _

theorem exec_crystalConfirmed (hpow : s.power.state ≠ .unpowered) (hhold : s.power.crystalHold = true) :
    exec .crystalConfirmed s = .next ({ s with power := { s.power with crystalHold := false } } : State).coldTrim :=
  when_of_true (by simp [State.powered_of hpow, hhold]) _

end

/-- Settles O6: each source through what a cold reset does, each lifted hold through steps 2 and 3 of the boot. -/
theorem coldResets : Obligations.ColdResets := by
  unfold Obligations.ColdResets
  refine ⟨fun s => ⟨?qualified, fun hpow => ⟨?pin, ?low, ?high, ?crystal, ?pll⟩⟩, fun s hstate hhalt hstage htrim => ?lifted⟩
  case qualified =>
    intro mv hpow hmv
    exact answers_of_exec (exec_vinQualified hpow hmv) ⟨State.coldReset_begun _ 1, (State.coldReset_kept ..).fuses⟩
  case pin =>
    obtain ⟨hstate, -, -, hpins⟩ :=
      State.coldReset_held (s := { s with pins := { s.pins with modResetLow := true } }) 2 (.inr (.inl rfl))
    exact answers_of_exec (exec_modResetN hpow)
      ⟨State.coldReset_begun _ 2, congrArg Pins.modResetLow hpins, hstate, State.pin_modReady_cold hstate⟩
  case low => exact fun mv h => answers_of_exec (exec_undervoltage hpow h) (s.supplyReset_held mv.toNat 3)
  case high => exact fun mv h => answers_of_exec (exec_overvoltage hpow h) (s.supplyReset_held mv.toNat 4)
  case crystal =>
    obtain ⟨hstate, -, hcrystal, -⟩ :=
      State.coldReset_held (s := { s with power := { s.power with crystalHold := true } }) 5 (.inr (.inr rfl))
    exact answers_of_exec (exec_crystalLoss hpow) ⟨State.coldReset_begun _ 5, hcrystal, hstate, State.pin_modReady_cold hstate⟩
  case pll => exact fun n h => answers_of_exec (exec_basePllLockLoss hpow h) (s.coldReset_begun 6)
  case lifted =>
    have hpow : s.power.state ≠ .unpowered := by simp [hstate]
    refine ⟨fun mv hvin hcrystal hpin hlo hhi hclear => ?vin, fun hcrystal hvin hpin => ?crystal, fun hvin hcrystal => ?pin⟩
    case vin => exact answers_of_exec (exec_vinRecovered hpow hvin hlo hhi hclear) (State.coldTrim_boots hstate hhalt hstage hpin hcrystal htrim)
    case crystal =>
      exact answers_of_exec (exec_crystalConfirmed hpow hcrystal)
        (State.coldTrim_boots hstate hhalt hstage (by simp [State.coldHeld, hvin, hpin]) rfl htrim)
    case pin =>
      exact answers_of_exec (c := .modResetNRelease) rfl
        (State.coldTrim_boots hstate hhalt hstage (by simp [State.coldHeld, hvin]) hcrystal htrim)

end Sys2Proof.Machine

/-!
# What work leaves of the module

The lemmas that say, for each operation a reset or its end is made of, that the clock, the module's mode, its pins, its boot and the
resets in progress are as before, and the cores too where it does not reach them. They are a simp set: a later proof reads these
fields through an operation without unfolding it.
-/
namespace Sys2Proof.Machine

open Sys2Proof Sys2Proof.Safety

@[simp] theorem State.time_ite {p : Prop} [Decidable p] (x y : State) :
    (if p then x else y).time = if p then x.time else y.time := apply_ite ..
@[simp] theorem State.power_ite {p : Prop} [Decidable p] (x y : State) :
    (if p then x else y).power = if p then x.power else y.power := apply_ite ..
@[simp] theorem State.pins_ite {p : Prop} [Decidable p] (x y : State) :
    (if p then x else y).pins = if p then x.pins else y.pins := apply_ite ..
@[simp] theorem State.boot_ite {p : Prop} [Decidable p] (x y : State) :
    (if p then x else y).boot = if p then x.boot else y.boot := apply_ite ..
@[simp] theorem State.resets_ite {p : Prop} [Decidable p] (x y : State) :
    (if p then x else y).resets = if p then x.resets else y.resets := apply_ite ..
@[simp] theorem State.nicHung_ite {p : Prop} [Decidable p] (x y : State) :
    (if p then x else y).nicHung = if p then x.nicHung else y.nicHung := apply_ite ..
@[simp] theorem State.cores_ite {p : Prop} [Decidable p] (x y : State) :
    (if p then x else y).cores = if p then x.cores else y.cores := apply_ite ..
@[simp] theorem State.parts_ite {p : Prop} [Decidable p] (x y : State) :
    (if p then x else y).parts = if p then x.parts else y.parts := apply_ite ..
@[simp] theorem State.ethPorts_ite {p : Prop} [Decidable p] (x y : State) :
    (if p then x else y).ethPorts = if p then x.ethPorts else y.ethPorts := apply_ite ..
@[simp] theorem State.expanders_ite {p : Prop} [Decidable p] (x y : State) :
    (if p then x else y).expanders = if p then x.expanders else y.expanders := apply_ite ..
@[simp] theorem State.hbm_ite {p : Prop} [Decidable p] (x y : State) :
    (if p then x else y).hbm = if p then x.hbm else y.hbm := apply_ite ..
@[simp] theorem State.cxl_ite {p : Prop} [Decidable p] (x y : State) :
    (if p then x else y).cxl = if p then x.cxl else y.cxl := apply_ite ..
@[simp] theorem State.scratch_ite {p : Prop} [Decidable p] (x y : State) :
    (if p then x else y).scratch = if p then x.scratch else y.scratch := apply_ite ..
@[simp] theorem Power.state_ite {p : Prop} [Decidable p] (x y : Power) :
    (if p then x else y).state = if p then x.state else y.state := apply_ite ..

section
variable {α : Type} {f : State → α → State} {l : List α} {s : State}

@[simp] theorem State.time_foldl (h : ∀ x a, (f x a).time = x.time) : (l.foldl f s).time = s.time :=
  State.foldl_keeps (fun s => s.time) h l s
@[simp] theorem State.state_foldl (h : ∀ x a, (f x a).power.state = x.power.state) : (l.foldl f s).power.state = s.power.state :=
  State.foldl_keeps (fun s => s.power.state) h l s
@[simp] theorem State.pins_foldl (h : ∀ x a, (f x a).pins = x.pins) : (l.foldl f s).pins = s.pins :=
  State.foldl_keeps (fun s => s.pins) h l s
@[simp] theorem State.boot_foldl (h : ∀ x a, (f x a).boot = x.boot) : (l.foldl f s).boot = s.boot :=
  State.foldl_keeps (fun s => s.boot) h l s
@[simp] theorem State.resets_foldl (h : ∀ x a, (f x a).resets = x.resets) : (l.foldl f s).resets = s.resets :=
  State.foldl_keeps (fun s => s.resets) h l s
@[simp] theorem State.nicHung_foldl (h : ∀ x a, (f x a).nicHung = x.nicHung) : (l.foldl f s).nicHung = s.nicHung :=
  State.foldl_keeps (fun s => s.nicHung) h l s
@[simp] theorem State.cores_foldl (h : ∀ x a, (f x a).cores = x.cores) : (l.foldl f s).cores = s.cores :=
  State.foldl_keeps (fun s => s.cores) h l s
@[simp] theorem State.parts_foldl (h : ∀ x a, (f x a).parts = x.parts) : (l.foldl f s).parts = s.parts :=
  State.foldl_keeps (fun s => s.parts) h l s

end

/-! ## Events, counters and commands -/

@[simp] theorem State.setBlock_state (s : State) (b : Nat) (v : Block) : (s.setBlock b v).power.state = s.power.state := by simp [State.setBlock]

@[simp] theorem State.setPll_state (s : State) (i : PllId) (v : Pll) : (s.setPll i v).power.state = s.power.state := by simp [State.setPll]

@[simp] theorem State.event_module (s : State) (code detail : Nat) (l : List Nat) :
    (s.event code detail l).time = s.time ∧ (s.event code detail l).pins = s.pins ∧ (s.event code detail l).boot = s.boot ∧
    (s.event code detail l).resets = s.resets ∧ (s.event code detail l).nicHung = s.nicHung ∧ (s.event code detail l).power = s.power ∧
    (s.event code detail l).cores = s.cores ∧ (s.event code detail l).parts = s.parts ∧ (s.event code detail l).ethPorts = s.ethPorts ∧
    (s.event code detail l).expanders = s.expanders ∧ (s.event code detail l).hbm = s.hbm ∧ (s.event code detail l).cxl = s.cxl ∧
    (s.event code detail l).scratch = s.scratch := by
  obtain ⟨o, f, h, d, e⟩ := s.event_rest code detail l
  simp [e]

@[simp] theorem State.count_module (s : State) (index sub n : Nat) :
    (s.count index sub n).time = s.time ∧ (s.count index sub n).pins = s.pins ∧ (s.count index sub n).boot = s.boot ∧
    (s.count index sub n).resets = s.resets ∧ (s.count index sub n).nicHung = s.nicHung ∧ (s.count index sub n).power = s.power ∧
    (s.count index sub n).cores = s.cores ∧ (s.count index sub n).parts = s.parts ∧ (s.count index sub n).ethPorts = s.ethPorts ∧
    (s.count index sub n).expanders = s.expanders ∧ (s.count index sub n).hbm = s.hbm ∧ (s.count index sub n).cxl = s.cxl ∧
    (s.count index sub n).scratch = s.scratch := by
  simp [State.count]

@[simp] theorem State.endCmd_module (s : State) (id st d : Nat) :
    (s.endCmd id st d).time = s.time ∧ (s.endCmd id st d).power.state = s.power.state ∧ (s.endCmd id st d).pins = s.pins ∧
    (s.endCmd id st d).boot = s.boot ∧ (s.endCmd id st d).resets = s.resets ∧ (s.endCmd id st d).nicHung = s.nicHung ∧
    (s.endCmd id st d).cores = s.cores := by
  rw [State.endCmd_rest]; simp

@[simp] theorem State.sendDepart_module (s : State) (f : Nat) :
    (s.sendDepart f).time = s.time ∧ (s.sendDepart f).power.state = s.power.state ∧ (s.sendDepart f).pins = s.pins ∧
    (s.sendDepart f).boot = s.boot ∧ (s.sendDepart f).resets = s.resets ∧ (s.sendDepart f).nicHung = s.nicHung ∧
    (s.sendDepart f).cores = s.cores := by
  obtain ⟨o, l, fl, d, e⟩ := s.sendDepart_form f
  simp [e]

@[simp] theorem State.setFrame_module (s : State) (cxl : Bool) (f : Nat) (v : Frame) :
    (s.setFrame cxl f v).time = s.time ∧ (s.setFrame cxl f v).power.state = s.power.state ∧ (s.setFrame cxl f v).pins = s.pins ∧
    (s.setFrame cxl f v).boot = s.boot ∧ (s.setFrame cxl f v).resets = s.resets ∧ (s.setFrame cxl f v).nicHung = s.nicHung ∧
    (s.setFrame cxl f v).cores = s.cores := by
  simp [State.setFrame]

/-! ## Holdings released -/

@[simp] theorem State.releaseGroups_module (s : State) (c : Nat) (gs : List Nat) :
    (s.releaseGroups c gs).time = s.time ∧ (s.releaseGroups c gs).power.state = s.power.state ∧ (s.releaseGroups c gs).pins = s.pins ∧
    (s.releaseGroups c gs).boot = s.boot ∧ (s.releaseGroups c gs).resets = s.resets ∧ (s.releaseGroups c gs).nicHung = s.nicHung := by
  simp [State.releaseGroups, State.zeroGroup]

@[simp] theorem State.releaseCore_module (s : State) (c : Nat) :
    (s.releaseCore c).time = s.time ∧ (s.releaseCore c).power.state = s.power.state ∧ (s.releaseCore c).pins = s.pins ∧
    (s.releaseCore c).boot = s.boot ∧ (s.releaseCore c).resets = s.resets ∧ (s.releaseCore c).nicHung = s.nicHung := by
  simp [State.releaseCore]

@[simp] theorem State.releaseFrames_module (s : State) (cxl : Bool) (i : Nat) :
    (s.releaseFrames cxl i).time = s.time ∧ (s.releaseFrames cxl i).power.state = s.power.state ∧ (s.releaseFrames cxl i).pins = s.pins ∧
    (s.releaseFrames cxl i).boot = s.boot ∧ (s.releaseFrames cxl i).resets = s.resets ∧ (s.releaseFrames cxl i).nicHung = s.nicHung := by
  simp [State.releaseFrames, State.releaseFrame]

@[simp] theorem State.releaseAll_module (s : State) (i : Nat) :
    (s.releaseAll i).time = s.time ∧ (s.releaseAll i).power.state = s.power.state ∧ (s.releaseAll i).pins = s.pins ∧
    (s.releaseAll i).boot = s.boot ∧ (s.releaseAll i).resets = s.resets ∧ (s.releaseAll i).nicHung = s.nicHung := by
  simp [State.releaseAll, State.releaseFlow, State.tlbDrop]

@[simp] theorem State.closeFlows_module (s : State) (slot : Option Nat) (depart : Bool) :
    (s.closeFlows slot depart).time = s.time ∧ (s.closeFlows slot depart).power.state = s.power.state ∧
    (s.closeFlows slot depart).pins = s.pins ∧ (s.closeFlows slot depart).boot = s.boot ∧ (s.closeFlows slot depart).resets = s.resets ∧
    (s.closeFlows slot depart).nicHung = s.nicHung ∧ (s.closeFlows slot depart).cores = s.cores := by
  simp [State.closeFlows, State.closeFlow]

@[simp] theorem State.setCoreBlocks_module (s : State) (c : Nat) (st : PowerState) :
    (s.setCoreBlocks c st).time = s.time ∧ (s.setCoreBlocks c st).power.state = s.power.state ∧ (s.setCoreBlocks c st).pins = s.pins ∧
    (s.setCoreBlocks c st).boot = s.boot ∧ (s.setCoreBlocks c st).resets = s.resets ∧ (s.setCoreBlocks c st).nicHung = s.nicHung ∧
    (s.setCoreBlocks c st).cores = s.cores := by
  simp [State.setCoreBlocks]

/-! ## The reach of a warm reset, and the profile reapplied (R105, R129) -/

@[simp] theorem State.clearKeys_module (s : State) (ks : List Nat) :
    (s.clearKeys ks).time = s.time ∧ (s.clearKeys ks).power.state = s.power.state ∧ (s.clearKeys ks).pins = s.pins ∧
    (s.clearKeys ks).boot = s.boot ∧ (s.clearKeys ks).resets = s.resets ∧ (s.clearKeys ks).nicHung = s.nicHung ∧
    (s.clearKeys ks).cores = s.cores := by
  simp [State.clearKeys]

@[simp] theorem State.clearCoreCounters_module (s : State) (c : Nat) :
    (s.clearCoreCounters c).time = s.time ∧ (s.clearCoreCounters c).power.state = s.power.state ∧ (s.clearCoreCounters c).pins = s.pins ∧
    (s.clearCoreCounters c).boot = s.boot ∧ (s.clearCoreCounters c).resets = s.resets ∧ (s.clearCoreCounters c).nicHung = s.nicHung := by
  simp [State.clearCoreCounters]

theorem State.reachWarm_module (s : State) (depart : Bool) :
    (s.reachWarm depart).power.state = s.power.state ∧ (s.reachWarm depart).pins = s.pins := by
  simp [State.reachWarm, State.clearErrs, State.dropBar4, State.zeroCore, State.clearSlotCounters, State.discardSlot]

@[simp] theorem State.presentCores_module (s : State)  :
    s.presentCores.time = s.time ∧ s.presentCores.power.state = s.power.state ∧ s.presentCores.pins = s.pins ∧
    s.presentCores.boot = s.boot ∧ s.presentCores.resets = s.resets ∧ s.presentCores.nicHung = s.nicHung := by
  simp [State.presentCores]

/-- The profile reapplied changes the boot's facts and holdings. -/
theorem State.reapplyProfile_module (s : State) :
    s.reapplyProfile.power.state = s.power.state ∧ s.reapplyProfile.pins = s.pins ∧ s.reapplyProfile.resets = s.resets := by
  cases h : s.selectCopy with
  | none => simp [State.reapplyProfile, State.cxlShort, h]
  | some k => simp [State.reapplyProfile, State.cxlShort, h]

@[simp] theorem State.keepRetiring_module (s : State) (cs : List Nat) :
    (s.keepRetiring cs).time = s.time ∧ (s.keepRetiring cs).power.state = s.power.state ∧ (s.keepRetiring cs).pins = s.pins ∧
    (s.keepRetiring cs).boot = s.boot ∧ (s.keepRetiring cs).resets = s.resets ∧ (s.keepRetiring cs).nicHung = s.nicHung := by
  simp [State.keepRetiring]

/-- A recognition recorded and counted leaves the module's mode and its pins. -/
@[simp] theorem State.recordReset_module (s : State) (t : ResetTarget) (cause : Nat) (counts : Bool) :
    (s.recordReset t cause counts).power.state = s.power.state ∧ (s.recordReset t cause counts).pins = s.pins := by
  cases counts <;> cases t <;> simp [State.recordReset]

@[simp] theorem State.countReset_module (s : State) (t : ResetTarget) (cause : Nat) :
    (s.countReset t cause).1.power.state = s.power.state ∧ (s.countReset t cause).1.pins = s.pins := by
  unfold State.countReset
  cases t <;> split <;> simp

/-- A warm reset that none in progress takes in leaves the module's mode and its pins. -/
theorem State.raiseWarm_module {s : State} (cause : Nat) (hold : Bool) (h : ∀ r ∈ s.resets, s.takesIn r .warm = false) :
    (s.raiseReset .warm cause (hold := hold)).power.state = s.power.state ∧
    (s.raiseReset .warm cause (hold := hold)).pins = s.pins := by
  have hnone : s.resets.find? (fun r => s.takesIn r .warm) = none := List.find?_eq_none.mpr fun r hr => by simp [h r hr]
  unfold State.raiseReset
  rw [hnone]
  simp [State.reach, State.reachWarm_module, State.writeFnRec]

/-- A warm reset recognised with none of the whole device in progress begins, and the module runs on with its pins. -/
theorem State.warmReset_begins {s : State} (cause : Nat) (hold : Bool) (h : ∀ r ∈ s.resets, r.target ≠ .warm ∧ r.target ≠ .cold) :
    (∃ r ∈ (s.warmReset cause hold).resets,
      r.target = .warm ∧ BitVec.ofNat 16 cause ∈ r.causes ∧ r.began = s.time ∧ r.hold = hold) ∧
    (s.warmReset cause hold).power.state = s.power.state ∧ (s.warmReset cause hold).pins = s.pins := by
  have htakes : ∀ r ∈ s.resets, s.takesIn r .warm = false := fun r hr => by simp [State.takesIn_warm, h r hr]
  have hfresh : (!s.deviceReset) = true := by
    simpa [State.deviceReset, State.inReset] using ⟨fun r hr => (h r hr).2, fun r hr => (h r hr).1⟩
  obtain ⟨hstate, hpins⟩ := State.raiseWarm_module cause hold htakes
  unfold State.warmReset
  simp only [hfresh, if_true]
  obtain ⟨hstate', hpins', hresets⟩ := State.reapplyProfile_module
    { s.raiseReset .warm cause (hold := hold) with boot := { (s.raiseReset .warm cause (hold := hold)).boot with admitOpen := false } }
  rw [hstate', hpins', hresets]
  exact ⟨State.raiseReset_begins cause false false hold false htakes, hstate, hpins⟩

/-! ## The end of a reset (R108, R110, R615) -/

@[simp] theorem State.allocArrived_module (s : State) (bs : List Nat) :
    (s.allocArrived bs).time = s.time ∧ (s.allocArrived bs).power.state = s.power.state ∧ (s.allocArrived bs).pins = s.pins ∧
    (s.allocArrived bs).boot = s.boot ∧ (s.allocArrived bs).resets = s.resets ∧ (s.allocArrived bs).nicHung = s.nicHung ∧
    (s.allocArrived bs).cores = s.cores := by
  simp [State.allocArrived]

@[simp] theorem State.retireCore_module (s : State) (c cause : Nat) :
    (s.retireCore c cause).time = s.time ∧ (s.retireCore c cause).power.state = s.power.state ∧ (s.retireCore c cause).pins = s.pins ∧
    (s.retireCore c cause).boot = s.boot ∧ (s.retireCore c cause).resets = s.resets ∧ (s.retireCore c cause).nicHung = s.nicHung := by
  simp [State.retireCore]

@[simp] theorem State.retireReplies_module (s : State) (c : Nat) :
    (s.retireReplies c).time = s.time ∧ (s.retireReplies c).power.state = s.power.state ∧ (s.retireReplies c).pins = s.pins ∧
    (s.retireReplies c).boot = s.boot ∧ (s.retireReplies c).resets = s.resets ∧ (s.retireReplies c).nicHung = s.nicHung ∧
    (s.retireReplies c).cores = s.cores := by
  simp [State.retireReplies, State.pribyReply]

@[simp] theorem State.retireDone_module (s : State) (c cause : Nat) :
    (s.retireDone c cause).time = s.time ∧ (s.retireDone c cause).power.state = s.power.state ∧ (s.retireDone c cause).pins = s.pins ∧
    (s.retireDone c cause).boot = s.boot ∧ (s.retireDone c cause).resets = s.resets ∧ (s.retireDone c cause).nicHung = s.nicHung := by
  simp [State.retireDone]

@[simp] theorem State.retest_module (s : State) (t : Timeline) (n : Nat) :
    (s.retest t n).time = s.time ∧ (s.retest t n).power.state = s.power.state ∧ (s.retest t n).pins = s.pins ∧
    (s.retest t n).boot = s.boot ∧ (s.retest t n).resets = s.resets ∧ (s.retest t n).nicHung = s.nicHung ∧ (s.retest t n).cores = s.cores := by
  induction n generalizing s with
  | zero => simp [State.retest]
  | succ n ih =>
    unfold State.retest
    dsimp only
    split
    · simp
    · split
      · simp
      · simp [ih]

@[simp] theorem State.absorbedDone_module (s : State) (r : ResetRun) :
    (s.absorbedDone r).time = s.time ∧ (s.absorbedDone r).power.state = s.power.state ∧ (s.absorbedDone r).pins = s.pins ∧
    (s.absorbedDone r).boot = s.boot ∧ (s.absorbedDone r).resets = s.resets ∧ (s.absorbedDone r).nicHung = s.nicHung := by
  simp [State.absorbedDone]

@[simp] theorem State.coreDone_module (s : State) (c : Nat) (r : ResetRun) :
    (s.coreDone c r).time = s.time ∧ (s.coreDone c r).power.state = s.power.state ∧ (s.coreDone c r).pins = s.pins ∧
    (s.coreDone c r).boot = s.boot ∧ (s.coreDone c r).resets = s.resets ∧ (s.coreDone c r).nicHung = s.nicHung := by
  simp [State.coreDone]

@[simp] theorem State.corePlls_module (s : State)  :
    s.corePlls.time = s.time ∧ s.corePlls.power.state = s.power.state ∧ s.corePlls.pins = s.pins ∧ s.corePlls.boot = s.boot ∧
    s.corePlls.resets = s.resets ∧ s.corePlls.nicHung = s.nicHung ∧ s.corePlls.cores = s.cores := by
  simp [State.corePlls, State.pllUp]

@[simp] theorem State.outOfService_module (s : State)  :
    s.outOfService.time = s.time ∧ s.outOfService.power.state = s.power.state ∧ s.outOfService.pins = s.pins ∧
    s.outOfService.boot = s.boot ∧ s.outOfService.resets = s.resets ∧ s.outOfService.nicHung = s.nicHung ∧ s.outOfService.cores = s.cores := by
  simp [State.outOfService]

end Sys2Proof.Machine

/-!
# The supply, the clocks and the thermal limits

The rows of R79, R89, R91 and R95 to R103: an equation for each says what it does where its condition holds.
-/
namespace Sys2Proof.Machine

open Sys2Proof Sys2Proof.Safety

section
variable {s : State}

/-! ## Supply warnings (R95 to R98) -/

theorem exec_supplyWarnBegin {mv : W32} (hpow : s.power.state ≠ .unpowered) (h : mv.toNat < 44000) :
    exec (.supplyWarnBegin mv) s = .next (s.warnBegin mv.toNat) :=
  when_of_true (by simp [State.powered_of hpow, h]) _

/-- VIN below 46.0 V restarts the recovery a supply reset waits for (R99). -/
theorem State.vin_low {mv : Nat} (h : mv < 46000) :
    s.vin mv = { s with pins := { s.pins with vinMv := mv }, power := { s.power with vinClear := s.time + 2000 } } := by
  rw [State.vin, if_neg (by omega)]
  rfl

/-- A warning begins: it is counted, and its beginning kept (R95, R96). -/
theorem State.warnBegin_first {mv : Nat} (hmv : mv < 44000) (hwarn : s.power.warnActive = false) :
    (s.warnBegin mv).power = { s.power with warnActive := true, warnBegan := s.time, warnCarry := 0, warnMinMv := mv,
                                            warnClear := s.time + 2000, vinClear := s.time + 2000 } ∧
    (s.warnBegin mv).dictGet (dk 0x4002 2) = s.dictGet (dk 0x4002 2) + 1 ∧ (s.warnBegin mv).pins.vinMv = mv := by
  have hkey : dk 0x4002 2 ≠ dk 0x8030 2 := by decide
  unfold State.warnBegin
  rw [State.vin_low (by omega)]
  simp only [hwarn, Bool.false_eq_true, if_false]
  refine ⟨by simp [warnRecovery], ?_, by simp⟩
  rw [State.event_dict _ _ _ _ _ hkey, State.dictGet_count]
  rfl

/-- A dip within a warning restarts the 2,000 µs it ends after (R97). -/
theorem State.warnBegin_again {mv : Nat} (hmv : mv < 44000) (hwarn : s.power.warnActive = true) :
    s.warnBegin mv = { s with power := { s.power with warnMinMv := min s.power.warnMinMv mv, warnClear := s.time + 2000, vinClear := s.time + 2000 }
                              pins := { s.pins with vinMv := mv } } := by
  unfold State.warnBegin
  rw [State.vin_low (by omega)]
  simp [hwarn, warnRecovery]

theorem exec_supplyWarnEnd {mv low : W32} (hwarn : s.power.warnActive = true) (h : 44000 ≤ mv.toNat) (hclear : s.power.warnClear ≤ s.time) :
    exec (.supplyWarnEnd mv low) s = .next (s.warnEnd mv.toNat low.toNat) :=
  when_of_true (by simp [hwarn, h, hclear]) _

/-- A warning ends: its length and its lowest VIN are kept (R97, R98). -/
theorem State.warnEnd_ends (s : State) (mv low : Nat) :
    (s.warnEnd mv low).power.warnActive = false ∧
    (s.warnEnd mv low).dictGet (dk 0x4002 3) = (s.power.warnCarry + (s.time - s.power.warnBegan)) % 2 ^ 32 ∧
    (s.warnEnd mv low).dictGet (dk 0x4002 4) = min s.power.warnMinMv low := by
  unfold State.warnEnd
  refine ⟨by simp [State.vin], ?_, ?_⟩
  · rw [State.event_dict _ _ _ _ _ (by decide), State.dictGet_count_other _ _ (by decide), State.dictGet_set_other _ _ (by decide),
      State.dictGet_set]
  · rw [State.event_dict _ _ _ _ _ (by decide), State.dictGet_count_other _ _ (by decide), State.dictGet_set]

/-! ## PLLs (R79, R89, R91) -/

@[simp] theorem State.pll_setPll (s : State) (k : PllId) (v : Pll) : (s.setPll k v).pll k = v := by
  have hgone : (s.power.plls.filter fun e => !(e.1 == k)).find? (fun e => e.1 == k) = none := by
    simp [List.find?_eq_none]
  unfold State.pll State.setPll
  dsimp only
  split_ifs with h
  · rw [hgone, h]
  · simp

theorem State.pll_setPll_other (s : State) {k j : PllId} (v : Pll) (h : j ≠ k) : (s.setPll k v).pll j = s.pll j := by
  have hstays : (s.power.plls.filter fun e => !(e.1 == k)).find? (fun e => e.1 == j) = s.power.plls.find? (fun e => e.1 == j) := by
    rw [List.find?_filter]
    congr 1
    funext e
    by_cases he : e.1 = j <;> simp [he, h]
  unfold State.pll State.setPll
  dsimp only
  split_ifs
  · rw [hstays]
  · rw [List.find?_cons_of_neg (by simpa using Ne.symm h), hstays]

theorem exec_corePllLockLoss {c : CoreNo} (hpow : s.power.state ≠ .unpowered) (h : (s.pll (.core c)).released = true) :
    exec (.corePllLockLoss c) s = .next ((s.setPll (.core c) { running := true, released := false }).doReset (.core c) 0x31) :=
  when_of_true (by simp [State.powered_of hpow, h]) _

/-- What the loss of lock of a PLL outside the cores and the base dies makes of the module (R91). -/
def State.serdesLost (s : State) : PllId → State
  | .pcie p => { s.retrain p.val with sup := { s.sup with linkRetrains := s.sup.linkRetrains + 1 } }
  | .cxl => [0, 1].foldl (fun s e => if (s.expander e).linkUp then s.cxlDown e else s) s
  | .eth g => (s.groupPorts g.val).foldl (fun s p => if (s.eth p).up then s.ethLinkDown p else s) s
  | .mgmt => s.setPll .mgmt { running := true, released := false }
  | .svc => s.setPll .svc { running := true, released := false }
  | _ => s

theorem exec_serdesPllLockLoss {k : PllId} (hpow : s.power.state ≠ .unpowered) (h : (s.pll k).released = true) :
    exec (.serdesPllLockLoss k) s = .next (s.serdesLost k) := by
  have hlost : ¬ (!(s.powered && (s.pll k).released)) = true := by simp [State.powered_of hpow, h]
  refine congrArg Host.Outcome.next ((if_neg hlost).trans ?_)
  cases k <;> rfl

theorem State.setEth_eth (s : State) (p q : Nat) (v : EthPort) : (s.setEth p v).eth q = if q = p then v else s.eth q := by
  split
  · subst q; simp
  · exact State.eth_setEth_other s v ‹_›

/-- An Ethernet link lost takes its port down and leaves every other. -/
theorem State.ethLinkDown_eth (s : State) (p q : Nat) :
    (s.ethLinkDown p).eth q = if q = p then { s.eth p with up := false, downSince := s.time, bufUse := [], xoff := [], paused := [] } else s.eth q := by
  rw [← State.setEth_eth]
  simp [State.ethLinkDown, State.noteFault, State.noteFaults, State.eth, State.setEth]

/-- Links lost one after another: the ports listed are down, and so is every port that was; every other port is as it was. -/
theorem State.ethLinksDown_eth (l : List Nat) (s : State) (q : Nat) :
    (q ∈ l ∨ (s.eth q).up = false → ((l.foldl (fun s p => if (s.eth p).up then s.ethLinkDown p else s) s).eth q).up = false) ∧
    (q ∉ l → (l.foldl (fun s p => if (s.eth p).up then s.ethLinkDown p else s) s).eth q = s.eth q) := by
  induction l generalizing s with
  | nil => simp
  | cons p l ih =>
    obtain ⟨hdown, hstay⟩ := ih (if (s.eth p).up then s.ethLinkDown p else s)
    refine ⟨fun h => hdown ?_, fun h => ?_⟩
    · by_cases hq : q = p
      · subst q
        by_cases hup : (s.eth p).up = true <;> simp [hup, State.ethLinkDown_eth]
      · by_cases hup : (s.eth p).up = true <;> simpa [hup, State.ethLinkDown_eth, hq] using h
    · obtain ⟨hq, hl⟩ := by simpa using h
      rw [List.foldl_cons, hstay hl]
      split
      · rw [State.ethLinkDown_eth, if_neg hq]
      · rfl

theorem State.setExpander_expander (s : State) (e d : Nat) (v : Expander) :
    (s.setExpander e v).expander d = if d = e then v else s.expander d := by
  split
  · subst d; simp
  · exact State.expander_setExpander_other s v ‹_›

/-- A CXL link lost takes its expander down and leaves the other. -/
theorem State.cxlDown_expander (s : State) (e d : Nat) :
    (s.cxlDown e).expander d = if d = e then { s.expander e with ready := false, linkUp := false } else s.expander d := by
  rw [← State.setExpander_expander]
  simp [State.cxlDown, State.expander, State.setExpander]

/-- Every byte of memory reads as before a CXL link is lost (R261). -/
@[simp] theorem State.cxlDown_memory (s : State) (e : Nat) :
    (s.cxlDown e).hbm = s.hbm ∧ (s.cxlDown e).cxl = s.cxl ∧ (s.cxlDown e).scratch = s.scratch := by
  simp [State.cxlDown]

/-- The loss of the CXL PLL takes both links down (R91). -/
theorem State.serdesLost_cxl (s : State) :
    (∀ e : Fin 2, ((s.serdesLost .cxl).expander e.val).linkUp = false) ∧ sameMemory s (s.serdesLost .cxl) := by
  have hcase : ∀ (x : State) (e d : Nat), ((if (x.expander e).linkUp then x.cxlDown e else x).expander d).linkUp =
      if d = e then false else (x.expander d).linkUp := by
    intro x e d
    by_cases hup : (x.expander e).linkUp = true <;> by_cases hd : d = e <;> simp_all [State.cxlDown_expander]
  refine ⟨fun e => ?_, ?_⟩
  · rw [State.serdesLost, List.foldl_cons, List.foldl_cons, List.foldl_nil, hcase, hcase]
    have he : e.val = 1 ∨ e.val = 0 := by omega
    rcases he with he | he <;> simp [he]
  · simp [sameMemory, State.serdesLost]

/-- The loss of a PCI Express PLL takes its port's link down (R91). -/
theorem State.serdesLost_pcie (s : State) (p : PortNo) :
    ((s.serdesLost (.pcie p)).port p.val).linkUp = false ∧ (s.serdesLost (.pcie p)).sup.linkRetrains = s.sup.linkRetrains + 1 ∧
    (s.serdesLost (.pcie p)).fns = s.fns ∧ (s.serdesLost (.pcie p)).parts = s.parts := by
  refine ⟨?_, rfl, rfl, rfl⟩
  show ((s.setPort p.val _).port p.val).linkUp = false
  rw [State.port_setPort]

/-! ## Reset release (R89, R113) -/

theorem exec_resetRelease {k : PllId} (htrim : s.boot.trimValid = true) (hrun : (s.pll k).running = true) (hrel : (s.pll k).released = false) :
    exec (.resetRelease k) s = .next (
      let s1 := s.setPll k { running := true, released := true }
      if s1.inReset .warm then s1 else
      let s2 := if (s1.pll (.base 0)).released then s1.bootRom else s1
      if s2.basesReleased then s2.bootMemory else s2) :=
  congrArg Host.Outcome.next (if_neg (by simp [htrim, hrun, hrel]))

theorem State.basesReleased_base {x : State} (h : (x.pll (.base 0)).released = false) : x.basesReleased = false := by
  rw [State.basesReleased, List.all_eq_false]
  have hbase : basePll (Fin.ofNat 12 0) = .base 0 := rfl
  exact ⟨0, by decide, by rw [hbase, h]; decide⟩

/-- A PLL released while the base-die PLL of BD0 is not lets nothing of the boot go on. -/
theorem exec_resetRelease_waits {k : PllId} (hk : k ≠ .base 0) (htrim : s.boot.trimValid = true) (hrun : (s.pll k).running = true)
    (hrel : (s.pll k).released = false) (hbase : (s.pll (.base 0)).released = false) :
    exec (.resetRelease k) s = .next (s.setPll k { running := true, released := true }) := by
  have hbase' : ((s.setPll k { running := true, released := true }).pll (.base 0)).released = false := by
    rw [State.pll_setPll_other s _ hk.symm, hbase]
  rw [exec_resetRelease htrim hrun hrel]
  simp only [hbase', Bool.false_eq_true, if_false, State.basesReleased_base hbase', ite_self]

/-- Where SFDP cannot be read the boot ROM halts at step 5 (R113, R130). -/
theorem State.bootRom_sfdp (hstage : s.boot.stage = 4) (hhalt : s.boot.halt = 0) (hsfdp : s.phys.sfdpOk = false) :
    s.bootRom.boot.halt = 2 ∧ s.bootRom.boot.stage = 5 ∧ s.bootRom.fns = s.fns ∧ s.bootRom.parts = s.parts := by
  unfold State.bootRom
  rw [if_neg (by simp [hstage, hhalt]), if_pos (by simp [hsfdp])]
  obtain ⟨d, e⟩ := State.count_rest { s with boot := { s.boot with stage := 5 } } 0x2000 8 1
  rw [State.haltBoot, e]
  exact ⟨rfl, rfl, rfl, rfl⟩

/-- The step 8 of a boot that is elsewhere does nothing. -/
theorem State.bootMemory_other (h : s.boot.stage ≠ 8) : s.bootMemory = s := by
  rw [State.bootMemory, if_pos (.inl h)]

/-! ## Thermal limits (R100 to R103) -/

/-- A reading of the hottest junction is kept, and its time where it is at or above 100 °C (R65, R102). -/
theorem State.junction_hot {mc : W32} (h : 100000 ≤ mc.toInt) :
    s.junction mc = { s.dictSet (dk 0x4001 7) mc.toNat with power := { s.power with hotAt := s.time } } := if_pos h

theorem State.junction_cool {mc : W32} (h : mc.toInt < 100000) : s.junction mc = s.dictSet (dk 0x4001 7) mc.toNat := if_neg (by omega)

theorem exec_thermal100 {mc : W32} (hrun : s.power.state = .running) (hhot : 100000 ≤ mc.toInt) (harmed : s.power.thermalArmed = true) :
    exec (.thermal100 mc) s = .next (({ s.junction mc with power := { (s.junction mc).power with thermalArmed := false } } : State).event
      0x0103 mc.toNat s.presentFns) := by
  refine (when_of_true (by simp [State.powered, hrun, hhot]) _).trans ?_
  rw [if_pos (by simp [harmed, hrun])]

theorem exec_thermalRearm {mc : W32} (hrun : s.power.state = .running) (hcool : mc.toInt < 95000) :
    exec (.thermalRearm mc) s = .next (({ s with power := { s.power with thermalArmed := true } } : State).junction mc) :=
  when_of_true (by simp [State.powered, hrun, hcool]) _

theorem exec_protectiveStop {mc : W32} (hrun : s.power.state = .running) (hhot : 110000 ≤ mc.toInt) (hresets : s.resets = []) :
    exec (.protectiveStop mc) s =
      .next (({ s.junction mc with pins := { (s.junction mc).pins with protectLow := true },
                                   resets := (s.junction mc).resets.filter fun r => r.target != .cold } : State).warmReset 0x50 (hold := true)) := by
  refine (when_of_true (by simp [State.powered, hrun, hhot]) _).trans ?_
  rw [if_neg (by simp [hrun]), if_neg (by simp [State.stopRuns, hresets])]

/-- PROTECT_N of a module out of cold reset (R49). -/
theorem State.pin_protectN (hrun : s.power.state = .running) (hlow : s.pins.protectLow = true) : s.pin .protectN = .low := by
  by_cases hw : s.inReset .warm = true <;> simp [State.pin, State.protectPin, State.openDrain, State.moduleState, hrun, hw, hlow]

/-- A protective stop: PROTECT_N goes low, and a warm reset begins with its hold on (R102). -/
theorem State.protectiveStop_stops {x : State} (hrun : x.power.state = .running) (hlow : x.pins.protectLow = true) (hresets : x.resets = []) :
    (x.warmReset 0x50 true).pins.protectLow = true ∧ (x.warmReset 0x50 true).pin .protectN = .low ∧
    resetBegun .warm 0x50 x (x.warmReset 0x50 true) ∧ (x.warmReset 0x50 true).stopped = true := by
  obtain ⟨⟨r, hr, ht, hc, hb, hh⟩, hstate, hpins⟩ := State.warmReset_begins (s := x) 0x50 true (by simp [hresets])
  have hlow' : (x.warmReset 0x50 true).pins.protectLow = true := by rw [hpins, hlow]
  refine ⟨hlow', State.pin_protectN (hstate.trans hrun) hlow', ⟨r, hr, ht, hc, hb⟩, ?_⟩
  exact List.any_eq_true.mpr ⟨r, hr, by simp [ht, hh]⟩

/-- The resets in progress once the hold of a stop is over (R102, R103). -/
def State.heldEnded (s : State) : List ResetRun :=
  s.resets.map fun r => if r.target == .warm then r.endHold s.time else r

theorem ResetRun.endHold_target (r : ResetRun) (now : Nat) : (r.endHold now).target = r.target := by
  unfold ResetRun.endHold; split <;> rfl

theorem ResetRun.endHold_hold (r : ResetRun) (now : Nat) : (r.endHold now).hold = false := by
  unfold ResetRun.endHold
  split
  · rfl
  · next h => simpa using h

theorem State.heldEnded_targets (s : State) : s.heldEnded.map (·.target) = s.resets.map (·.target) := by
  simp only [State.heldEnded, List.map_map]
  refine List.map_congr_left fun r _ => ?_
  by_cases h : r.target = .warm <;> simp [h, ResetRun.endHold_target]

theorem State.heldEnded_stopped (s : State) : (s.heldEnded.any fun r => r.target == .warm && r.hold) = false := by
  simp only [State.heldEnded, List.any_map, List.any_eq_false]
  intro r _
  by_cases h : r.target = .warm <;> simp [h, ResetRun.endHold_hold]

theorem exec_protectHoldEnd {mc : W32} (hcool : mc.toInt < 100000) (hstop : s.stopped = true) (hclear : s.power.hotAt + 1000 ≤ s.time) :
    exec (.protectHoldEnd mc) s = .next (({ s with resets := s.heldEnded } : State).junction mc) :=
  when_of_true (by simp [hcool, hstop, hclear]) _

end

/-- Settles O7: the supply, the PLLs and the thermal limits, row by row. -/
theorem supplyClocksAndHeat : Obligations.SupplyClocksAndHeat := by
  unfold Obligations.SupplyClocksAndHeat
  refine ⟨fun s => ⟨?first, ?again, ?ends⟩, fun s hpow => ⟨?core, ?management, ?pcie, ?eth, ?cxl, ?release, ?sfdp⟩,
    fun s mc hrun => ⟨?hot, ?rearm, ?stop, ?hold⟩⟩
  case first => exact fun mv hpow hmv hwarn => answers_of_exec (exec_supplyWarnBegin hpow hmv) (State.warnBegin_first hmv hwarn)
  case again => exact fun mv hpow hmv hwarn => answers_of_exec (exec_supplyWarnBegin hpow hmv) (State.warnBegin_again hmv hwarn)
  case ends => exact fun mv low hwarn hmv hclear => answers_of_exec (exec_supplyWarnEnd hwarn hmv hclear) (s.warnEnd_ends mv.toNat low.toNat)
  case core =>
    exact fun c hresets hrel => answers_of_exec (exec_corePllLockLoss hpow hrel) (State.doReset_begins 0x31 false hresets nofun nofun)
  case management =>
    rintro k (rfl | rfl) hrel <;>
      exact answers_of_exec (exec_serdesPllLockLoss hpow hrel) ⟨State.pll_setPll .., rfl⟩
  case pcie => exact fun p hrel => answers_of_exec (exec_serdesPllLockLoss hpow hrel) (s.serdesLost_pcie p)
  case eth =>
    intro g hrel
    exact answers_of_exec (exec_serdesPllLockLoss hpow hrel)
      ⟨fun p hp => (State.ethLinksDown_eth _ s p).1 (.inl hp), fun p hp => (State.ethLinksDown_eth _ s p).2 hp⟩
  case cxl => exact fun hrel => answers_of_exec (exec_serdesPllLockLoss hpow hrel) s.serdesLost_cxl
  case release =>
    exact fun k hk htrim hrun hrel hbase =>
      answers_of_exec (exec_resetRelease_waits hk htrim hrun hrel hbase) ⟨State.pll_setPll .., rfl⟩
  case sfdp =>
    intro hstage hhalt htrim hrun hrel hwarm hsfdp
    refine answers_of_exec (exec_resetRelease htrim hrun hrel) ?_
    obtain ⟨hhalt', hstage', hfns, hparts⟩ :=
      State.bootRom_sfdp (s := s.setPll (.base 0) { running := true, released := true }) hstage hhalt hsfdp
    have hwarm' : (s.setPll (.base 0) { running := true, released := true }).inReset .warm = false := hwarm
    simp only [hwarm', Bool.false_eq_true, if_false, State.pll_setPll, if_true]
    rw [State.bootMemory_other (by rw [hstage']; decide), ite_self]
    exact ⟨hhalt', hfns, hparts⟩
  case hot =>
    intro hhot harmed
    refine answers_of_exec (exec_thermal100 hrun hhot harmed) ⟨?_, ?_⟩
    · simp [State.junction_hot hhot]
    · rw [State.event_dict _ _ _ _ _ (by decide), State.junction_hot hhot]
      exact State.dictGet_set ..
  case rearm =>
    intro hcool
    refine answers_of_exec (exec_thermalRearm hrun hcool) ?_
    rw [State.junction_cool (by omega)]
    exact ⟨rfl, State.dictGet_set ..⟩
  case stop =>
    intro hhot hresets
    refine answers_of_exec (exec_protectiveStop hrun hhot hresets) ?_
    rw [State.junction_hot (by omega)]
    exact State.protectiveStop_stops hrun rfl (by simp [hresets])
  case hold =>
    intro hcool hstop hclear
    refine answers_of_exec (exec_protectHoldEnd hcool hstop hclear) ?_
    rw [State.junction_cool hcool]
    exact ⟨s.heldEnded_stopped, s.heldEnded_targets⟩

end Sys2Proof.Machine

/-!
# Host ports: their resets, their links and their virtual functions

The rows of R70, R104, R116, R137 and R139.
-/
namespace Sys2Proof.Machine

open Sys2Proof Sys2Proof.Safety

section
variable {s : State} {p : PortNo}

/-- A host-port reset of an enabled port of a module past step 10 begins, whether its link retrains or not (R104, R119). -/
theorem State.portReset_begins (cause : Nat) (link : Bool) (hresets : s.resets = []) (hstage : s.boot.stage = 10)
    (hport : (s.port p.val).enabled = true) : resetBegun (.hostPort p) cause s (s.portReset p cause link) := by
  unfold State.portReset
  rw [if_pos ⟨hstage, hport⟩]
  cases link
  · exact State.doReset_begins cause true hresets nofun nofun
  · exact State.doReset_begins (s := s.retrain p.val) cause true hresets nofun nofun

theorem exec_perstAssert (hpow : s.power.state ≠ .unpowered) (hheard : s.perstIgnored p = false) :
    exec (.perstAssert p) s =
      .next ((s.setPort p.val { s.port p.val with perst := true }).portReset p (0x10 + p.val) true) :=
  congrArg Host.Outcome.next (if_neg (by simp [State.powered_of hpow, hheard]))

theorem exec_hotReset (hpow : s.power.state ≠ .unpowered) (hport : (s.port p.val).enabled = true) :
    exec (.hotReset p) s = .next (s.portReset p (0x12 + p.val) true) :=
  when_of_true (by simp [State.powered_of hpow, hport]) _

theorem State.hostOpen_of (hpow : s.power.state ≠ .unpowered) (hstage : s.boot.stage = 10) (hhalt : s.boot.halt = 0) :
    s.hostOpen = true := by
  simp [State.hostOpen, hpow, hstage, hhalt]

/-- The physical function of an enabled port is present (R133). -/
theorem State.fnPresent_physical (hport : (s.port p.val).enabled = true) : s.fnPresent (fnKey p.val 0) = true := by
  simp [State.fnPresent, fnKey, hport]

theorem exec_flrPf (hopen : s.hostOpen = true) (hport : (s.port p.val).enabled = true) :
    exec (.flrPf p) s = .next (s.portReset p 0x14 false) :=
  when_of_true (by rw [hopen, State.fnPresent_physical hport, Bool.and_self]) _

theorem exec_flrVf {f : FnNo} (hopen : s.hostOpen = true) (hvf : f.val ≠ 0) (hfn : s.fnPresent (fnKey p.val f.val) = true) :
    exec (.flrVf p f) s = .next (s.flrVf p.val f.val) :=
  when_of_true (by simp [hopen, hvf, hfn]) _

/-- An interrupt leaves the resets in progress and the partitions. -/
@[simp] theorem State.interrupt_resets (s : State) (f v : Nat) : (s.interrupt f v).resets = s.resets ∧ (s.interrupt f v).parts = s.parts := by
  obtain ⟨o, fns, h, e⟩ := s.interrupt_tells f v
  simp [e]

/-- A function reset alone takes its reset values; no reset begins, and no partition changes (R139). -/
theorem State.resetFn_hard (s : State) (f : Nat) :
    ((s.resetFn true f).fn f).msixEnable = false ∧ ((s.resetFn true f).fn f).held = [] ∧ (s.resetFn true f).resets = s.resets ∧
    (s.resetFn true f).parts = s.parts := by
  refine ⟨by simp [State.resetFn, Fn.hardReset], by simp [State.resetFn, Fn.hardReset], ?_, ?_⟩
  · simp [State.resetFn, State.dropBar4, State.mboxReset, State.mboxDone]
  · simp [State.resetFn, State.dropBar4, State.mboxReset, State.mboxDone]

theorem exec_perstDeassert (hport : (s.port p.val).enabled = true) (hlink : (s.port p.val).linkUp = false) :
    exec (.perstDeassert p) s = .next ((s.setPort p.val { s.port p.val with perst := false }).retrain p.val) :=
  congrArg Host.Outcome.next (if_pos (by simp [hport, hlink]))

theorem exec_hostLinkTrained (hpow : s.power.state ≠ .unpowered) (hport : (s.port p.val).enabled = true)
    (htraining : (s.port p.val).training = true) :
    exec (.hostLinkTrained p) s = .next (s.setPort p.val { s.port p.val with linkUp := true, training := false }) :=
  when_of_true (by simp [State.powered_of hpow, hport, htraining]) _

theorem exec_vfDisable {n : Fin 16} {e : Bool} (hopen : s.hostOpen = true) (hport : (s.port p.val).enabled = true) :
    exec (.vfDisable p n e) s = .next (s.setVfs p.val n.val e) :=
  when_of_true (by rw [hopen, hport, Bool.and_self]) _

/-- Virtual functions within the profile's count are enabled as the host writes them (R137). -/
theorem State.setVfs_port (s : State) {p n : Nat} (e : Bool) (h : n ≤ tabGet 0 s.boot.vfCount p) :
    ((s.setVfs p n e).port p).numVfs = n ∧ ((s.setVfs p n e).port p).vfEnable = e := by
  unfold State.setVfs
  rw [if_neg (Nat.not_lt.mpr h)]
  simp

end

/-- Settles O8: the resets a host asks for, then the rows of its ports. -/
theorem hostPorts : Obligations.HostPorts := by
  unfold Obligations.HostPorts
  refine ⟨fun s p hresets hpow hstage hport => ⟨?perst, ?hot, ?flrPf, ?flrVf, ?unbound⟩, fun s p => ⟨?release, ?trained, ?vfs⟩⟩
  case perst =>
    intro hheard
    exact answers_of_exec (exec_perstAssert hpow hheard)
      (State.portReset_begins (s := s.setPort p.val { s.port p.val with perst := true }) _ true hresets hstage (by simp [hport]))
  case hot => exact answers_of_exec (exec_hotReset hpow hport) (State.portReset_begins _ true hresets hstage hport)
  case flrPf =>
    intro hhalt
    exact answers_of_exec (exec_flrPf (State.hostOpen_of hpow hstage hhalt) hport) (State.portReset_begins _ false hresets hstage hport)
  case flrVf =>
    intro f i hhalt hvf hfn hslot
    refine answers_of_exec (exec_flrVf (State.hostOpen_of hpow hstage hhalt) hvf hfn) ?_
    rw [State.flrVf, hslot]
    exact State.doReset_begins 0x14 true hresets nofun nofun
  case unbound =>
    intro f hhalt hvf hfn hslot
    refine answers_of_exec (exec_flrVf (State.hostOpen_of hpow hstage hhalt) hvf hfn) ?_
    rw [State.flrVf, hslot, ← hresets]
    exact s.resetFn_hard (fnKey p.val f.val)
  case release =>
    intro hport hlink
    refine answers_of_exec (exec_perstDeassert hport hlink) ⟨?_, rfl⟩
    simp [State.retrain, hport]
  case trained =>
    intro hpow hport htraining
    exact answers_of_exec (exec_hostLinkTrained hpow hport htraining) ⟨State.port_setPort .., rfl⟩
  case vfs => exact fun n e hopen hport hn => answers_of_exec (exec_vfDisable hopen hport) (s.setVfs_port e hn)

end Sys2Proof.Machine

/-!
# The end of a reset, and its escalation

R108 to R110, R113, R615, R645: what the end of a reset leaves of its cores, of the resets in progress and of the boot.
-/
namespace Sys2Proof.Machine

open Sys2Proof Sys2Proof.Safety

/-! ## Cores through a change of the table -/

/-- A change of every entry that leaves the default is a change of what is read. -/
theorem tabGet_map_snd {α : Type} {d : α} {g : α → α} (hg : g d = d) (t : Tab α) (k : Nat) :
    tabGet d (t.map fun e => (e.1, g e.2)) k = g (tabGet d t k) := by
  induction t with
  | nil => exact hg.symm
  | cons e t ih =>
    by_cases h : e.1 = k
    · simp [tabGet, tabFind, h]
    · simpa [tabGet, tabFind, h] using ih

section
variable {s t : State}

theorem State.core_congr (h : t.cores = s.cores) (k : Nat) : t.core k = s.core k := by
  rw [State.core, State.core, h]

theorem State.setCore_core (s : State) (c k : Nat) (v : Core) : (s.setCore c v).core k = if k = c then v else s.core k := by
  split
  · subst k; simp
  · exact State.core_setCore_other s v ‹_›

/-- A core written with the hang it had leaves every core's hang. -/
theorem State.setCore_hung {c : Nat} {v : Core} (h : v.hung = (s.core c).hung) (k : Nat) :
    ((s.setCore c v).core k).hung = (s.core k).hung := by
  rw [State.setCore_core]
  split
  · subst k; exact h
  · rfl

theorem State.releaseGroups_hung (s : State) (c : Nat) (gs : List Nat) (k : Nat) :
    ((s.releaseGroups c gs).core k).hung = (s.core k).hung := by
  have hzero : (gs.foldl (fun s g => s.zeroGroup c g) s).cores = s.cores := State.cores_foldl fun _ _ => rfl
  unfold State.releaseGroups
  dsimp only
  rw [State.setCore_hung (by rfl), State.core_congr hzero]

/-- A core released keeps its hang, and no slot holds it (R217, R227). -/
theorem State.releaseCore_hung (s : State) (c k : Nat) : ((s.releaseCore c).core k).hung = (s.core k).hung := by
  unfold State.releaseCore
  dsimp only
  rw [State.setCore_hung (by rfl), State.releaseGroups_hung]

theorem State.releaseCore_holder (s : State) (c : Nat) : ((s.releaseCore c).core c).holder = none := by
  simp [State.releaseCore]

/-- A core retired leaves service and its partition; no core's hang changes (R615, R624). -/
theorem State.retireCore_core (s : State) (c cause : Nat) :
    (∀ k, ((s.retireCore c cause).core k).hung = (s.core k).hung) ∧ ((s.retireCore c cause).core c).retired = 1 ∧
    ((s.retireCore c cause).core c).holder = none := by
  unfold State.retireCore
  extract_lets ids fns s1 s2 s3 core s4 s5
  have hcmds : s1.cores = s.cores := State.cores_foldl fun _ _ => by simp
  have hmerged : ∀ k, (s2.core k).hung = (s.core k).hung := by
    intro k
    refine (congrArg Core.hung (tabGet_map_snd (g := fun v : Core =>
      { v with cocoons := v.cocoons.map fun o => if ids.contains o.cmd then o.mergeOnly else o }) rfl s1.cores k)).trans ?_
    rw [hcmds]
    rfl
  have hreleased : (∀ k, (s3.core k).hung = (s.core k).hung) ∧ (s3.core c).holder = none := by
    by_cases h : (s2.core c).holder.isSome = true
    · have e : s3 = s2.releaseCore c := if_pos h
      rw [e]
      exact ⟨fun k => (s2.releaseCore_hung c k).trans (hmerged k), s2.releaseCore_holder c⟩
    · have e : s3 = s2 := if_neg h
      rw [e]
      exact ⟨hmerged, by simpa using h⟩
  have hrest : ∀ k, ((s5.allocArrived (coreBlocks c)).event 0x0803 (c + 16 * s4.uncoveredCores) fns).core k = s4.core k :=
    fun k => State.core_congr (by simp [s5]) k
  obtain ⟨hhung, hholder⟩ := hreleased
  simp only [hrest]
  refine ⟨fun k => (State.setCore_hung (by rfl) k).trans (hhung k), ?_, ?_⟩
  · simp [s4]
  · simp [s4, core, hholder]

/-- The same, once the requests that waited for it are answered (R645). -/
theorem State.retireDone_core (s : State) (c cause : Nat) :
    (∀ k, ((s.retireDone c cause).core k).hung = (s.core k).hung) ∧ ((s.retireDone c cause).core c).retired = 1 ∧
    ((s.retireDone c cause).core c).holder = none := by
  have hreplies : ∀ k, (s.retireDone c cause).core k = (s.retireCore c cause).core k := State.core_congr (by simp [State.retireDone])
  simpa only [hreplies] using s.retireCore_core c cause

/-! ## Core resets that end -/

/-- A core whose reset ends is not hung, and is out of service where its retirement was asked for (R615, R687). -/
theorem State.coreDone_core (s : State) (c : Nat) (r : ResetRun) :
    ((s.coreDone c r).core c).hung = false ∧
    (r.retire = true → ((s.coreDone c r).core c).retired = 1 ∧ ((s.coreDone c r).core c).holder = none) := by
  unfold State.coreDone
  extract_lets core s1 s2
  have hhung : (s1.core c).hung = false := by simp [s1]
  have hdone : (s2.core c).hung = false ∧ (r.retire = true → (s2.core c).retired = 1 ∧ (s2.core c).holder = none) := by
    obtain ⟨hkeep, hout⟩ := s1.retireDone_core c r.cause.toNat
    by_cases h : r.retire = true ∨ (s1.core c).retiring = true
    · have e : s2 = s1.retireDone c r.cause.toNat := if_pos h
      rw [e]
      exact ⟨(hkeep c).trans hhung, fun _ => hout⟩
    · have e : s2 = s1 := if_neg h
      rw [e]
      exact ⟨hhung, fun hr => absurd (.inl hr) h⟩
  split
  · rw [State.core_congr (t := (s2.retest (.core c) s2.cmds.length).retest (.dma c) s2.cmds.length) (s := s2) (by simp)]
    exact hdone
  · exact hdone

/-- The core resets that another absorbed end with it: their cores are not hung, and no other core begins to hang (R109, R687). -/
theorem State.absorbedDone_hung (s : State) (r : ResetRun) :
    ∀ k, k ∈ r.cores ∨ (s.core k).hung = false → ((s.absorbedDone r).core k).hung = false := by
  unfold State.absorbedDone
  generalize r.cores = cs
  induction cs generalizing s with
  | nil => simp
  | cons c cs ih =>
    intro k hk
    refine ih _ k ?_
    have hnow : k = c ∨ (s.core k).hung = false → ((s.setCore c { s.core c with hung := false }).core k).hung = false := by
      rw [State.setCore_core]
      split <;> simp_all
    have hstep : ∀ t : State, ((if (t.core c).retiring = true then t.retireDone c r.cause.toNat else t).core k).hung = (t.core k).hung := by
      intro t
      split
      · exact (t.retireDone_core c _).1 k
      · rfl
    rw [hstep]
    rcases hk with hk | hk
    · rcases List.mem_cons.mp hk with hk | hk
      · exact .inr (hnow (.inl hk))
      · exact .inl hk
    · exact .inr (hnow (.inr hk))

/-! ## The boot once a reset of the whole device ends -/

/-- Step 10 of the boot opens admission, and no cold reset is in progress (R113). -/
theorem State.bootReady_module (s : State) :
    s.bootReady.resets = s.resets.filter (fun r => r.target != .cold) ∧ s.bootReady.boot.stage = 10 ∧ s.bootReady.boot.admitOpen = true := by
  simp [State.bootReady, State.hostReadyEvent]

/-- A warm reset of a module whose boot is over opens admission again (R110). -/
theorem State.warmDone_module (s : State) (r : ResetRun) (h : s.boot.stage = 10) :
    (s.warmDone r).resets = s.resets ∧ (s.warmDone r).boot.stage = 10 ∧ (s.warmDone r).boot.admitOpen = true := by
  simp [State.warmDone, State.resumeBoot, h]

/-! ## The rows -/

/-- The end of a reset of `tg` leaves the other resets in progress, and of its target what R108 to R113 and R687 say. -/
theorem State.finishReset_ends (s : State) (r : ResetRun) (hwarm : r.target = .warm → s.boot.stage = 10) :
    (s.finishReset r).resets = s.resets.filter (fun x => x.target != r.target) ∧
    (r.target = .nic → (s.finishReset r).nicHung = false) ∧
    (r.target = .cold ∨ r.target = .warm → (s.finishReset r).boot.stage = 10 ∧ (s.finishReset r).boot.admitOpen = true) := by
  generalize htg : r.target = tg at *
  cases tg with
  | cold => simp [State.finishReset, htg, State.bootReady_module]
  | warm => simp [State.finishReset, htg, State.warmDone_module, hwarm]
  | nic => simp [State.finishReset, htg]
  | core c => simp [State.finishReset, htg]
  | partition i => simp [State.finishReset, htg]
  | hostPort p => simp [State.finishReset, htg]

/-- The cores of core resets that a partition's or a host port's reset absorbed are not hung at its end (R109, R687). -/
theorem State.finishReset_absorbed (s : State) (r : ResetRun) (h : (∃ i, r.target = .partition i) ∨ ∃ p, r.target = .hostPort p) {c : Nat}
    (hc : c ∈ r.cores) : ((s.finishReset r).core c).hung = false := by
  have e : ∀ k, (s.finishReset r).core k =
      (State.absorbedDone { s with resets := s.resets.filter fun x => x.target != r.target } r).core k := by
    rcases h with ⟨i, h⟩ | ⟨p, h⟩ <;> exact State.core_congr (by simp [State.finishReset, h])
  rw [e]
  exact State.absorbedDone_hung _ r c (.inl hc)

/-- The core of a core reset is not hung at its end, and is out of service where its retirement was asked for (R615, R687). -/
theorem State.finishReset_core (s : State) (r : ResetRun) {c : CoreNo} (h : r.target = .core c) :
    ((s.finishReset r).core c.val).hung = false ∧
    (r.retire = true → ((s.finishReset r).core c.val).retired = 1 ∧ ((s.finishReset r).core c.val).holder = none) := by
  have e : (s.finishReset r).core c.val =
      (State.coreDone { s with resets := s.resets.filter fun x => x.target != r.target } c.val r).core c.val :=
    State.core_congr (by simp [State.finishReset, h]) _
  rw [e]
  exact State.coreDone_core _ c.val r

variable {tg : ResetTarget} {r : ResetRun}

theorem exec_resetComplete (hfind : s.resets.find? (fun r => r.target == tg) = some r) (hend : s.canEnd r = true) :
    exec (.resetComplete tg) s = .next (s.finishReset r) := by
  show execResetComplete tg s = _
  rw [execResetComplete, hfind]
  exact when_of_true hend _

theorem exec_resetEscalation (hfind : s.resets.find? (fun r => r.target == tg) = some r) (hcold : tg ≠ .cold) (hhold : r.hold = false)
    (hbound : r.began + resetBound tg < s.time) :
    exec (.resetEscalation tg) s = .next (s.doReset (if tg = .warm then .cold else .warm) 0x40) := by
  show execResetEscalation tg s = _
  rw [execResetEscalation, hfind]
  exact when_of_true (by simp [hcold, hhold, hbound]) _

/-- One reset past its bound is taken over: a warm one by a cold one, any other by a warm one (R109). -/
theorem State.doReset_wider (h : s.resets = [r]) (htg : r.target = tg) (hcold : tg ≠ .cold) :
    resetAsked (if tg = .warm then .cold else .warm) 0x40 s (s.doReset (if tg = .warm then .cold else .warm) 0x40) := by
  by_cases hwarm : tg = .warm
  · simpa [resetAsked, hwarm, State.doReset] using s.coldReset_begun 0x40
  · obtain ⟨⟨x, hx, ht, hc, hb, -⟩, -⟩ := State.warmReset_begins (s := s) 0x40 false (by simp [h, htg, hwarm, hcold])
    simpa [resetAsked, hwarm, State.doReset] using ⟨x, hx, ht, hc, hb⟩

end

/-- Settles O50: the end of a reset goes by its target, and the lemma of each target says what is left; a reset past its bound is
recognised again as the next wider one. -/
theorem resetsEnd : Obligations.ResetsEnd := by
  intro s tg r hfind
  have htg : r.target = tg := by simpa using List.find?_some hfind
  subst htg
  constructor
  · intro hend hwarm
    obtain ⟨hresets, hnic, hboot⟩ := s.finishReset_ends r hwarm
    exact answers_of_exec (exec_resetComplete hfind hend)
      ⟨hresets, hnic, hboot, fun c hc hpart => s.finishReset_absorbed r hpart hc, fun c hcore => s.finishReset_core r hcore⟩
  · intro hone hcold hhold hbound
    exact answers_of_exec (exec_resetEscalation hfind hcold hhold hbound) (State.doReset_wider hone rfl hcold)

end Sys2Proof.Machine

/-!
# An idle step

R76, log 7: a device µs of a module that counts time. The work of a tick reaches most of the model's operations, and none of them sets
device time: each has here the lemma that says so, proved from the lemmas of what it calls. Only the tick itself counts.
-/
namespace Sys2Proof.Machine

open Sys2Proof Sys2Proof.Safety

section
variable {s t : State}

/-- The state of a pair known by an equation has the time of the pair's state. -/
theorem State.time_of_fst {α : Type} {x : State × α} {a : α} (h : x = (t, a)) : t.time = x.1.time := by rw [h]

/-! ## Counts, events and ends of commands -/

theorem State.count_time (s : State) (index sub n : Nat) : (s.count index sub n).time = s.time := by simp

theorem State.endCmd_time (s : State) (id status detail : Nat) : (s.endCmd id status detail).time = s.time := by simp

@[simp] theorem State.fresh_time (s : State) : s.fresh.2.time = s.time := rfl

@[simp] theorem State.interrupt_time (s : State) (f vec : Nat) : (s.interrupt f vec).time = s.time := by simp [State.interrupt]

@[simp] theorem State.hostWrite_time (s : State) (p addr : Nat) (bs : List Byte) : (s.hostWrite p addr bs).time = s.time := rfl

@[simp] theorem State.noteFaults_time (s : State) (unit cls n : Nat) : (s.noteFaults unit cls n).time = s.time := by simp [State.noteFaults]

@[simp] theorem State.noteFault_time (s : State) (unit cls : Nat) : (s.noteFault unit cls).time = s.time := s.noteFaults_time ..

@[simp] theorem State.finishCmd_time (s : State) (id detail : Nat) : (s.finishCmd id detail).time = s.time := by
  unfold State.finishCmd
  repeat' split
  all_goals simp

@[simp] theorem State.notePoison_time (s : State) (id addr : Nat) : (s.notePoison id addr).time = s.time := by
  unfold State.notePoison
  split <;> simp

@[simp] theorem State.setRegulator_time (s : State) (i x : Nat) (r : Regulator) : (s.setRegulator i x r).time = s.time := rfl

@[simp] theorem State.noteServed_time (s : State) (x n : Nat) (out : Bool) : (s.noteServed x n out).time = s.time := rfl

/-! ## Bandwidth, memory and copies (R206 to R280) -/

@[simp] theorem State.serveFloor_time (s : State) (i x n : Nat) (out : Bool) : (s.serveFloor i x n out).time = s.time := by simp [State.serveFloor]

@[simp] theorem State.serveSpare_time (s : State) (i x n : Nat) (out : Bool) : (s.serveSpare i x n out).time = s.time := by simp [State.serveSpare]

theorem State.regServe_time {i x n : Nat} {out turn spareOnly : Bool} (h : s.regServe i x n out turn spareOnly = some t) : t.time = s.time := by
  unfold State.regServe at h
  split at h
  · cases h
    simp
  · split at h <;> cases h
    simp

@[simp] theorem State.owedFloor_time (s : State) (i x fuel : Nat) : (s.owedFloor i x fuel).time = s.time := by
  fun_induction State.owedFloor s i x fuel <;> simp_all +zetaDelta

@[simp] theorem State.drawTokens_time (s : State) (i x n : Nat) (out floor : Bool) : (s.drawTokens i x n out floor).time = s.time := by simp [State.drawTokens]

@[simp] theorem State.refill_time (s : State) (i x : Nat) : (s.refill i x).time = s.time := by simp [State.refill]

@[simp] theorem State.setTierMem_time (s : State) (cxl : Bool) (m : Mem) : (s.setTierMem cxl m).time = s.time := by cases cxl <;> rfl

@[simp] theorem State.setTierPoison_time (s : State) (cxl : Bool) (t : Tab Bool) : (s.setTierPoison cxl t).time = s.time := by simp [State.setTierPoison]

@[simp] theorem State.setLinePoison_time (s : State) (cxl : Bool) (dpa : Nat) (b : Bool) : (s.setLinePoison cxl dpa b).time = s.time := by
  simp [State.setLinePoison]

@[simp] theorem State.fillFree_time (s : State) (cxl : Bool) (dpa n : Nat) : (s.fillFree cxl dpa n).time = s.time := by simp [State.fillFree]

@[simp] theorem State.copyTier_time (s : State) (toCxl : Bool) (dst : Nat) (fromCxl : Bool) (src n : Nat) :
    (s.copyTier toCxl dst fromCxl src n).time = s.time := by simp [State.copyTier]

@[simp] theorem State.zeroFrame_time (s : State) (cxl : Bool) (f : Nat) : (s.zeroFrame cxl f).time = s.time := by simp [State.zeroFrame]

@[simp] theorem State.charge_time (s : State) (id : Option Nat) (res n : Nat) (out floor : Bool) : (s.charge id res n out floor).time = s.time := by
  unfold State.charge
  repeat' split
  all_goals simp

@[simp] theorem State.reachLine_time (s : State) (cxl : Bool) (dpa : Nat) : (s.reachLine cxl dpa).time = s.time := by
  unfold State.reachLine
  split
  · rfl
  · dsimp only
    split
    · simp
    · split <;> simp
    · rfl

@[simp] theorem State.reachSpans_time (s : State) (slot : Nat) (l : List (Nat × Nat)) : (s.reachSpans slot l).time = s.time := by
  fun_induction State.reachSpans s slot l <;> simp_all

@[simp] theorem State.chargeRead_time (s : State) (id : Option Nat) (slot : Nat) (l : List (Nat × Nat)) : (s.chargeRead id slot l).time = s.time := by
  fun_induction State.chargeRead s id slot l <;> simp_all

@[simp] theorem State.drawSpans_time (s : State) (slot : Nat) (write : Bool) (l : List (Nat × Nat)) : (s.drawSpans slot write l).time = s.time := by
  fun_induction State.drawSpans s slot write l <;> simp_all

@[simp] theorem State.markStale_time (s : State) (cxl : Bool) (dpa n : Nat) : (s.markStale cxl dpa n).time = s.time := rfl

@[simp] theorem State.noteDirty_time (s : State) (slot : Nat) (w : Where) : (s.noteDirty slot w).time = s.time := by simp [State.noteDirty]

@[simp] theorem State.cowLeaf_time (s : State) (slot : Nat) (copy : Bool) (page : Nat) : (s.cowLeaf slot copy page).time = s.time := by
  unfold State.cowLeaf
  dsimp only
  split <;> simp

@[simp] theorem State.cow_time (s : State) (id : Option Nat) (slot : Nat) (w : Where) (whole : Bool) : (s.cow id slot w whole).time = s.time := by
  simp [State.cow]

@[simp] theorem State.noteAlias_time (s : State) (id : Option Nat) (slot va n : Nat) : (s.noteAlias id slot va n).time = s.time := by
  unfold State.noteAlias
  dsimp only
  split <;> simp

@[simp] theorem State.writeSpans_time (s : State) (id : Option Nat) (slot : Nat) (cover : List (Nat × Nat)) (bad : Bool) (l : List (Nat × Nat))
    (bs : List Byte) : (s.writeSpans id slot cover bad l bs).1.time = s.time := by
  fun_induction State.writeSpans s id slot cover bad l bs <;> simp_all +zetaDelta [State.time_ite]

@[simp] theorem State.vwrite_time (s : State) (id : Option Nat) (slot va : Nat) (bs : List Byte) (bad : Bool) (cover : List (Nat × Nat)) :
    (s.vwrite id slot va bs bad cover).1.time = s.time := by
  simp [State.vwrite]

@[simp] theorem State.cmdRead_time (s : State) (id slot va n : Nat) : (s.cmdRead id slot va n).1.time = s.time := by
  unfold State.cmdRead
  repeat' split
  all_goals simp

@[simp] theorem State.cmdWrite_time (s : State) (id slot va : Nat) (bs : List Byte) (bad : Bool) (cover : List (Nat × Nat)) :
    (s.cmdWrite id slot va bs bad cover).1.time = s.time := by
  unfold State.cmdWrite
  split <;> simp [State.time_of_fst ‹_›]

/-! ## Translations, queues and their completions (R147 to R170) -/

@[simp] theorem State.tlbTouch_time (s : State) (c slot va : Nat) : (s.tlbTouch c slot va).time = s.time := by
  unfold State.tlbTouch
  split
  · rfl
  · simp [apply_ite Prod.snd]

@[simp] theorem State.tlbDrop_time (s : State) (slot lo n : Nat) : (s.tlbDrop slot lo n).time = s.time := by simp [State.tlbDrop]

@[simp] theorem State.raiseToken_time (s : State) (slot t : Nat) : (s.raiseToken slot t).time = s.time := rfl

@[simp] theorem State.failToken_time (s : State) (slot t : Nat) : (s.failToken slot t).time = s.time := rfl

@[simp] theorem State.queueFault_time (s : State) (f q code : Nat) : (s.queueFault f q code).time = s.time := by simp [State.queueFault]

@[simp] theorem State.queueIrq_time (s : State) (f q : Nat) : (s.queueIrq f q).time = s.time := by simp [State.queueIrq]

@[simp] theorem State.moderate_time (s : State) (f q : Nat) : (s.moderate f q).time = s.time := by simp [State.moderate]

@[simp] theorem State.putCompletion_time (s : State) (f q : Nat) (bs : List Byte) : (s.putCompletion f q bs).time = s.time := by simp [State.putCompletion]

@[simp] theorem State.settleNow_time (s : State) (f q : Nat) (record : Option (List Byte)) (writeOk : Bool) :
    (s.settleNow f q record writeOk).time = s.time := by
  unfold State.settleNow
  split <;> simp

@[simp] theorem State.settle_time (s : State) (f q : Nat) (record : Option (List Byte)) (writeOk : Bool) : (s.settle f q record writeOk).time = s.time := by
  unfold State.settle
  split <;> simp

@[simp] theorem State.signal_time (s : State) (slot : Nat) (r : Rec) (status : Nat) : (s.signal slot r status).time = s.time := by
  unfold State.signal
  split <;> simp

@[simp] theorem State.reseed_time (s : State) (slot : Nat) : (s.reseed slot).time = s.time := by simp [State.reseed]

/-! ## Flows, collectives and molts (R432 to R457, R549 to R567) -/

@[simp] theorem State.discard_time (s : State) (slot : Nat) : (s.discard slot).time = s.time := by simp [State.discard]

@[simp] theorem State.toDoubt_time (s : State) (slot : Nat) : (s.toDoubt slot).time = s.time := by
  unfold State.toDoubt
  dsimp only
  split <;> simp

@[simp] theorem State.moltUndone_time (s : State) (slot : Nat) : (s.moltUndone slot).time = s.time := by simp [State.moltUndone]

@[simp] theorem State.emit_time (s : State) (f : Nat) (h : Silk) (payload : List Byte) : (s.emit f h payload).time = s.time := by simp [State.emit]

@[simp] theorem State.sendAck_time (s : State) (f ty : Nat) : (s.sendAck f ty).time = s.time := by simp [State.sendAck]

@[simp] theorem State.sendOpen_time (s : State) (f ty : Nat) : (s.sendOpen f ty).time = s.time := by simp [State.sendOpen]

@[simp] theorem State.sendClose_time (s : State) (f : Nat) : (s.sendClose f).time = s.time := by simp [State.sendClose]

@[simp] theorem State.emitTx_time (s : State) (f : Nat) (k : TxPkt) (retx : Bool) : (s.emitTx f k retx).time = s.time := by simp [State.emitTx]

@[simp] theorem State.markDue_time (s : State) (f psn : Nat) : (s.markDue f psn).time = s.time := by
  unfold State.markDue
  dsimp only
  split <;> simp

@[simp] theorem State.bufferTake_time (s : State) (p prio n : Nat) : (s.bufferTake p prio n).time = s.time := by simp [State.bufferTake]

@[simp] theorem State.acceptData_time (s : State) (f : Nat) (h : Silk) (ce : Bool) (payload : List Byte) :
    (s.acceptData f h ce payload).time = s.time := by
  unfold State.acceptData
  extract_lets fl slotVa s1 rx have_ ack gap n core s2
  have hplaced : s1.time = s.time := by
    unfold s1
    split <;> simp
  split
  · exact (s2.sendAck_time f 1).trans hplaced
  · exact hplaced

@[simp] theorem State.ackFlow_time (s : State) (f : Nat) (h : Silk) : (s.ackFlow f h).time = s.time := by
  refine (State.time_foldl fun x (k : TxPkt) => x.markDue_time f k.psn).trans ?_
  split
  · dsimp only
    split <;> simp
  · rfl

@[simp] theorem State.closeFlow_time (s : State) (f : Nat) : (s.closeFlow f).time = s.time := rfl

@[simp] theorem State.countHandoff_time (s : State) (c : Coll) : (s.countHandoff c).time = s.time := by simp [State.countHandoff]

@[simp] theorem State.dropColl_time (s : State) (id : Nat) : (s.dropColl id).time = s.time := by
  unfold State.dropColl
  split <;> simp

@[simp] theorem State.sendChunk_time (s : State) (c : Coll) (f : Nat) (payloads : List (List Byte × Bool)) (vote : W32) (from_ : Option (Nat × Nat)) :
    (s.sendChunk c f payloads vote from_).1.time = s.time := rfl

@[simp] theorem State.peerTouch_time (s : State) (id : Nat) : (s.peerTouch id).time = s.time := by
  unfold State.peerTouch
  split <;> simp

@[simp] theorem State.peerDone_time (s : State) (id : Nat) : (s.peerDone id).time = s.time := by
  unfold State.peerDone
  split <;> simp

@[simp] theorem State.settlePeer_time (s : State) (id : Nat) : (s.settlePeer id).time = s.time := by
  unfold State.settlePeer
  split <;> simp

@[simp] theorem State.sendAborts_time (s : State) (c : Coll) (rank status : Nat) : (s.sendAborts c rank status).time = s.time := by simp [State.sendAborts]

@[simp] theorem State.collUndone_time (s : State) (c : Coll) : (s.collUndone c).time = s.time := by
  unfold State.collUndone
  split <;> simp

@[simp] theorem State.collAborted_time (s : State) (id slot status detail rank : Nat) : (s.collAborted id slot status detail rank).time = s.time := by
  simp [State.collAborted]

@[simp] theorem State.collFail_time (s : State) (c : Coll) (status detail rank : Nat) : (s.collFail c status detail rank).time = s.time := by
  simp [State.collFail]

@[simp] theorem State.flowOwnersFail_time (s : State) (f : Nat) : (s.flowOwnersFail f).time = s.time := by
  unfold State.flowOwnersFail
  split <;> simp

@[simp] theorem State.moltFail_time (s : State) (m : Molt) (status detail : Nat) : (s.moltFail m status detail).time = s.time := by simp [State.moltFail]

@[simp] theorem State.flowLost_time (s : State) (f : Nat) : (s.flowLost f).time = s.time := by
  refine (State.time_foldl fun x m => ?_).trans (State.time_foldl fun x c => x.collFail_time c ..)
  split
  · split <;> simp
  · rfl

@[simp] theorem State.collTick_time (s : State) : s.collTick.time = s.time := by simp [State.collTick]

/-! ## Descriptors, blocks and what the wire brings -/

@[simp] theorem State.tlbRange_time (s : State) (c slot va n : Nat) : (s.tlbRange c slot va n).time = s.time := by simp [State.tlbRange]

@[simp] theorem State.taggedSpans_time (s : State) (id slot : Nat) (l : List (Nat × Nat)) (r : List TByte) :
    (s.taggedSpans id slot l r).1.time = s.time := by
  fun_induction State.taggedSpans s id slot l r with
  | case1 => rfl
  | case2 => simp
  | case3 s l r a n out hread read noted ih =>
    have hnoted : noted.time = s.time := by
      unfold noted
      split <;> simp [read]
    exact ih.trans hnoted

@[simp] theorem State.cmdTagged_time (s : State) (id slot va n : Nat) : (s.cmdTagged id slot va n).1.time = s.time := by simp [State.cmdTagged]

@[simp] theorem State.descTouch_time (s : State) (id slot va n : Nat) : (s.descTouch id slot va n).time = s.time := by
  unfold State.descTouch
  split <;> simp

@[simp] theorem State.descRead_time (s : State) (id slot va n : Nat) : (s.descRead id slot va n).1.time = s.time := by
  unfold State.descRead
  split
  · simp [State.time_of_fst ‹_›]
  · split <;> simp [State.time_of_fst ‹_›]

@[simp] theorem State.junction_time (s : State) (mc : W32) : (s.junction mc).time = s.time := by simp [State.junction]

@[simp] theorem State.wakeTo_time (s : State) (b : Nat) (goal : PowerState) : (s.wakeTo b goal).time = s.time := by simp [State.wakeTo]

@[simp] theorem State.hostWriteTagged_time (s : State) (p addr : Nat) (bs : List TByte) : (s.hostWriteTagged p addr bs).time = s.time := by
  simp [State.hostWriteTagged]

@[simp] theorem State.noteAer_time (s : State) (f n : Nat) : (s.noteAer f n).time = s.time := by simp [State.noteAer]

@[simp] theorem State.flowTo_time (s : State) (f : Nat) (st : FlowState) : (s.flowTo f st).time = s.time := rfl

@[simp] theorem State.flowFail_time (s : State) (f cause : Nat) : (s.flowFail f cause).time = s.time := by simp [State.flowFail]

@[simp] theorem State.forgetFlows_time (s : State) (id : Nat) : (s.forgetFlows id).time = s.time := by simp [State.forgetFlows]

@[simp] theorem State.flowOpened_time (s : State) (f : Nat) : (s.flowOpened f).time = s.time := by
  unfold State.flowOpened
  split <;> simp

@[simp] theorem State.openFlow_time (s : State) (f credit : Nat) : (s.openFlow f credit).time = s.time := by simp [State.openFlow]

@[simp] theorem State.flowClosed_time (s : State) (f : Nat) : (s.flowClosed f).time = s.time := by
  unfold State.flowClosed
  dsimp only
  split <;> simp

@[simp] theorem State.notSilk_time (s : State) : s.notSilk.time = s.time := rfl

@[simp] theorem State.dropPkt_time (s : State) (h : Silk) (n : Nat) : (s.dropPkt h n).time = s.time := by
  unfold State.dropPkt
  repeat' split
  all_goals simp

@[simp] theorem State.heard_time (s : State) (f : Nat) : (s.heard f).time = s.time := by simp [State.heard]

@[simp] theorem State.receive_time {f : Silk → State → State} (ty : Nat) (k : SilkPkt) (hf : ∀ h x, (f h x).time = x.time) :
    (s.receive ty k f).time = s.time := by
  unfold State.receive
  (repeat' split) <;> simp [hf]

theorem execData_time (s : State) (k : SilkPkt) : ∃ t, execData k s = .next t ∧ t.time = s.time := by
  refine ⟨_, rfl, State.receive_time 0 k fun h x => ?_⟩
  dsimp only
  split
  · simp
  · split <;> simp

@[simp] theorem State.afterAck_time (s : State) (old : Flow) (f : Nat) : (s.afterAck old f).time = s.time := by simp [State.afterAck]

theorem execAck_time (s : State) (k : SilkPkt) : ∃ t, execAck k s = .next t ∧ t.time = s.time :=
  ⟨_, rfl, State.receive_time 1 k (by simp)⟩

theorem execKeepalive_time (s : State) (k : SilkPkt) : ∃ t, execKeepalive k s = .next t ∧ t.time = s.time :=
  ⟨_, rfl, State.receive_time 2 k (by simp)⟩

theorem execDepart_time (s : State) (k : SilkPkt) : ∃ t, execDepart k s = .next t ∧ t.time = s.time :=
  ⟨_, rfl, State.receive_time 3 k (by simp)⟩

theorem execOpenPkt_time (s : State) (k : SilkPkt) : ∃ t, execOpenPkt k s = .next t ∧ t.time = s.time := by
  refine ⟨_, rfl, State.receive_time 4 k fun h x => ?_⟩
  split <;> simp

theorem execOpenAck_time (s : State) (k : SilkPkt) : ∃ t, execOpenAck k s = .next t ∧ t.time = s.time :=
  ⟨_, rfl, State.receive_time 5 k (by simp)⟩

theorem execClosePkt_time (s : State) (k : SilkPkt) : ∃ t, execClosePkt k s = .next t ∧ t.time = s.time :=
  ⟨_, rfl, State.receive_time 6 k (by simp)⟩

/-! ## Long operations (R203 to R211, R236 to R249) -/

@[simp] theorem State.onHandle_time (s : State) (slot h : Nat) (f : LongOp → LongOp) : (s.onHandle slot h f).time = s.time := rfl

@[simp] theorem State.openSegment_time (s : State) (slot h id : Nat) : (s.openSegment slot h id).time = s.time := rfl

@[simp] theorem State.endSome_time (s : State) (id : Option Nat) (status detail : Nat) : (s.endSome id status detail).time = s.time := by
  unfold State.endSome
  split <;> simp

@[simp] theorem State.freeHandle_time (s : State) (slot h status : Nat) : (s.freeHandle slot h status).time = s.time := by simp [State.freeHandle]

@[simp] theorem State.endSegment_time (s : State) (slot h id status detail : Nat) : (s.endSegment slot h id status detail).time = s.time := by
  simp [State.endSegment]

@[simp] theorem State.toDiapause_time (s : State) (slot h : Nat) : (s.toDiapause slot h).time = s.time := by simp [State.toDiapause]

@[simp] theorem State.tear_time (s : State) (slot : Nat) (scrubs : Bool) (except : Option Nat) : (s.tear slot scrubs except).time = s.time := rfl

@[simp] theorem State.ckptPut_time (s : State) (c : Cmd) (r : CkptRange) (off : Nat) (bs : List TByte) : (s.ckptPut c r off bs).1.time = s.time := by
  unfold State.ckptPut
  split <;> simp

@[simp] theorem State.ckptPieces_time (s : State) (c : Cmd) (r : CkptRange) (l : List (Nat × Nat)) : (s.ckptPieces c r l).1.time = s.time := by
  fun_induction State.ckptPieces s c r l <;> grind [State.cmdTagged_time, State.ckptPut_time, State.count_time]

@[simp] theorem State.ckptUnit_time (s : State) (c : Cmd) (h u limit : Nat) : (s.ckptUnit c h u limit).1.time = s.time := by
  unfold State.ckptUnit
  dsimp only
  split
  · rfl
  · split <;> simp

@[simp] theorem State.preread_time (s : State) (slot h : Nat) : (s.preread slot h).time = s.time := by
  unfold State.preread
  dsimp only
  split
  · rfl
  · split
    · rfl
    · split
      · simp [State.time_of_fst ‹_›]
      · rfl

@[simp] theorem State.writeLiveSide_time (s : State) (slot : Nat) (scrubs : Bool) (except : Option Nat) :
    (s.writeLiveSide slot scrubs except).time = s.time := by
  simp [State.writeLiveSide]

@[simp] theorem State.rollback_time (s : State) (slot detail : Nat) (except : Option Nat) : (s.rollback slot detail except).time = s.time := by
  simp [State.rollback]

@[simp] theorem State.firm_time (s : State) (slot : Nat) : (s.firm slot).time = s.time := by simp [State.firm]

/-! ## Loads, scrubs and checkpoints (R575 to R594) -/

@[simp] theorem State.loadHeaders_time (s : State) (c : Cmd) (bs : List Byte) (l : List Nat) (host : List Byte) (r : List (List Byte)) :
    (s.loadHeaders c bs l host r).1.time = s.time := by
  fun_induction State.loadHeaders s c bs l host r <;> grind [State.descRead_time, State.charge_time]

@[simp] theorem State.loadBegin_time (s : State) (c : Cmd) (bs : List Byte) (hs : List (List Byte)) : (s.loadBegin c bs hs).time = s.time := by
  unfold State.loadBegin
  dsimp only
  split <;> simp

@[simp] theorem State.loadStart_time (s : State) (c : Cmd) (payload : Nat) (headers : List Byte) : (s.loadStart c payload headers).time = s.time := by
  unfold State.loadStart
  split
  · simp
  · split
    case h_1 hread => simp [State.time_of_fst hread]
    case h_2 hread =>
      split
      case h_1 hmore => simp [State.time_of_fst hmore, State.time_of_fst hread]
      case h_2 hmore =>
        have hboth := (State.time_of_fst hmore).trans ((State.descRead_time ..).trans ((State.time_of_fst hread).trans (State.descRead_time ..)))
        clear hread hmore
        grind [State.endCmd_time, State.loadHeaders_time, State.loadBegin_time]

@[simp] theorem State.onShard_time (s : State) (slot i : Nat) (f : Shard → Shard) : (s.onShard slot i f).time = s.time := rfl

@[simp] theorem State.landShard_time (s : State) (slot h : Nat) (e : LoadEntry) : (s.landShard slot h e).time = s.time := by simp [State.landShard]

@[simp] theorem State.loadUnit_time (s : State) (c : Cmd) (h u limit : Nat) (host : Mem) : (s.loadUnit c h u limit host).1.time = s.time := by
  unfold State.loadUnit
  grind [State.descRead_time, State.charge_time, State.cmdWrite_time, State.onShard_time, State.count_time, State.landShard_time]

@[simp] theorem State.shardPoisoned_time (s : State) (slot i : Nat) : (s.shardPoisoned slot i).time = s.time := by simp [State.shardPoisoned]

@[simp] theorem State.passActs_time (s : State) (slot : Nat) (bad : List Nat) (except : Option Nat) : (s.passActs slot bad except).time = s.time := by
  unfold State.passActs
  split <;> simp

@[simp] theorem State.scrubStart_time (s : State) (c : Cmd) : (s.scrubStart c).time = s.time := by
  unfold State.scrubStart
  dsimp only
  split <;> split <;> simp

@[simp] theorem State.scrubUnit_time (s : State) (c : Cmd) (h u : Nat) : (s.scrubUnit c h u).1.time = s.time := by
  unfold State.scrubUnit
  grind [State.endCmd_time, State.chargeRead_time, State.count_time, State.onHandle_time]

@[simp] theorem State.ckptBegin_time (s : State) (c : Cmd) (r : Rec) : (s.ckptBegin c r).time = s.time := by
  unfold State.ckptBegin
  grind [State.descRead_time, State.endCmd_time, State.fresh_time, State.onHandle_time]

@[simp] theorem State.undefine_time (s : State) (slot : Nat) (l : List (Nat × Nat)) : (s.undefine slot l).time = s.time := by
  fun_induction State.undefine s slot l with
  | case1 => rfl
  | case2 s a n l ih =>
    refine ih.trans ?_
    split <;> simp

@[simp] theorem State.undefineHost_time (s : State) (port addr n : Nat) : (s.undefineHost port addr n).time = s.time := rfl

@[simp] theorem State.ckptLost_time (s : State) (slot h : Nat) : (s.ckptLost slot h).time = s.time := by
  refine State.time_foldl fun x r => ?_
  split
  · split <;> simp
  · simp

@[simp] theorem State.setWhole_time (s : State) (id n : Nat) : (s.setWhole id n).time = s.time := by
  unfold State.setWhole
  split <;> simp

@[simp] theorem State.zeroBegin_time (s : State) (c : Cmd) (r : Rec) : (s.zeroBegin c r).time = s.time := by simp [State.zeroBegin]

@[simp] theorem State.zeroUnit_time (s : State) (c : Cmd) (r : Rec) (u limit : Nat) : (s.zeroUnit c r u limit).1.time = s.time := by
  unfold State.zeroUnit
  split <;> simp

/-! ## The turn of a long operation -/

@[simp] theorem State.unitStep_time (s : State) (c : Cmd) (h limit : Nat) (host : Mem) : (s.unitStep c h limit host).1.time = s.time := by
  unfold State.unitStep
  dsimp only
  (repeat' split) <;> simp

@[simp] theorem State.unitUndone_time (s : State) (slot h : Nat) (host : Mem) : (s.unitUndone slot h host).time = s.time := by
  unfold State.unitUndone
  split <;> simp

@[simp] theorem State.tornEnd_time (s : State) (slot h id : Nat) : (s.tornEnd slot h id).time = s.time := by simp [State.tornEnd]

@[simp] theorem State.resumeNow_time (s : State) (slot h id : Nat) (headers : List Byte) : (s.resumeNow slot h id headers).time = s.time := by
  unfold State.resumeNow
  dsimp only
  split <;> simp

@[simp] theorem State.rest_time (s : State) (slot h : Nat) : (s.rest slot h).time = s.time := by
  unfold State.rest
  dsimp only
  split <;> simp

@[simp] theorem State.suspendEnd_time (s : State) (slot h : Nat) (host : Mem) : (s.suspendEnd slot h host).time = s.time := by simp [State.suspendEnd]

@[simp] theorem State.release_time (s : State) (slot h : Nat) : (s.release slot h).time = s.time := by simp [State.release]

@[simp] theorem State.longopLimit_time (s : State) (slot h : Nat) : (s.longopLimit slot h).time = s.time := by
  unfold State.longopLimit
  dsimp only
  split
  · rfl
  · split <;> simp

@[simp] theorem State.longopTick_time (s : State) : s.longopTick.time = s.time := by simp [State.longopTick]

@[simp] theorem State.withNew_time (s : State) (me : Cmd) : (s.withNew me).time = s.time := rfl

/-! ## Admission and BAR4 (R143 to R189) -/

@[simp] theorem State.wakeBlock_time (s : State) (b : Nat) : (s.wakeBlock b).time = s.time := by simp [State.wakeBlock]

@[simp] theorem State.openHandle_time (s : State) (c : Cmd) : (s.openHandle c).time = s.time := by simp [State.openHandle]

@[simp] theorem State.startDrain_time (s : State) (c : Cmd) : (s.startDrain c).time = s.time := by simp [State.startDrain]

@[simp] theorem State.accept_time (s : State) (me : Cmd) : (s.accept me).time = s.time := by simp [State.accept]

@[simp] theorem State.refuse_time (s : State) (slot : Nat) (w : Waiting) (status detail : Nat) (writeOk : Bool) :
    (s.refuse slot w status detail writeOk).time = s.time := by
  simp [State.refuse]

@[simp] theorem State.decideRecord_time (s : State) (slot : Nat) (w : Waiting) (writeOk : Bool) : (s.decideRecord slot w writeOk).time = s.time := by
  unfold State.decideRecord
  repeat' split
  all_goals simp

@[simp] theorem State.decideFront_time (s : State) (writeOk : Bool) : (s.decideFront writeOk).time = s.time := by
  unfold State.decideFront
  repeat' split
  all_goals simp

@[simp] theorem State.hostReply_time (s : State) (f status : Nat) (data : List Byte) : (s.hostReply f status data).time = s.time := by simp [State.hostReply]

@[simp] theorem State.bar4Unmapped_time (s : State) (f off : Nat) : (s.bar4Unmapped f off).time = s.time := by simp [State.bar4Unmapped]

@[simp] theorem State.blurTrackers_time (s : State) (slot lo n : Nat) : (s.blurTrackers slot lo n).time = s.time := by simp [State.blurTrackers]

@[simp] theorem State.bar4Store_time (s : State) (a : Bar4Access) : (s.bar4Store a).time = s.time := by
  unfold State.bar4Store
  dsimp only
  split <;> simp

@[simp] theorem State.bar4Load_time (s : State) (a : Bar4Access) : (s.bar4Load a).time = s.time := by
  unfold State.bar4Load
  split <;> simp

@[simp] theorem State.bar4Serve_time (s : State) (p fuel : Nat) : (s.bar4Serve p fuel).time = s.time := by
  fun_induction State.bar4Serve s p fuel with
  | case1 => rfl
  | case2 => rfl
  | case3 s fuel a t hfound served ih =>
    obtain ⟨b, -, hb⟩ := List.exists_of_findSome?_eq_some hfound
    have hserved : t.time = s.time := by
      split at hb
      · cases hb
      · obtain ⟨u, hu, he⟩ := Option.map_eq_some_iff.mp hb
        cases he
        exact State.regServe_time hu
    refine ih.trans (Eq.trans ?_ hserved)
    split <;> simp [served]

@[simp] theorem State.bar4Retry_time (s : State) (p : Nat) : (s.bar4Retry p).time = s.time := by simp [State.bar4Retry]

/-! ## The sensors, the counts and the loopback -/

@[simp] theorem State.refillSlot_time (s : State) (i : Nat) : (s.refillSlot i).time = s.time := by simp [State.refillSlot]

@[simp] theorem State.groupsZeroed_time (s : State) : s.groupsZeroed.time = s.time := by simp [State.groupsZeroed]

@[simp] theorem State.waitTick_time (s : State) : s.waitTick.time = s.time := by simp [State.waitTick]

@[simp] theorem State.bufferTick_time (s : State) : s.bufferTick.time = s.time := by simp [State.bufferTick]

@[simp] theorem State.vinReading_time (s : State) (x : W32) : (s.vinReading x).time = s.time := by simp [State.vinReading]

@[simp] theorem State.junctionReading_time (s : State) (x : W32) : (s.junctionReading x).time = s.time := by simp [State.junctionReading]

@[simp] theorem State.sensorTick_time (s : State) : s.sensorTick.time = s.time := by simp [State.sensorTick]

@[simp] theorem State.countTick_time (s : State) : s.countTick.time = s.time := by simp [State.countTick]

@[simp] theorem State.owedSpare_time (s : State) (x fuel : Nat) : (s.owedSpare x fuel).time = s.time := by
  fun_induction State.owedSpare s x fuel <;> simp_all +zetaDelta

@[simp] theorem State.serveEngines_time (s : State) : s.serveEngines.time = s.time := by simp [State.serveEngines]

@[simp] theorem State.decideHeld_time (s : State) : s.decideHeld.time = s.time := by
  unfold State.decideHeld
  repeat' split
  all_goals simp

@[simp] theorem State.deliver_time (s : State) (k : SilkPkt) : (s.deliver k).time = s.time := by
  unfold State.deliver
  have hrest : ∀ o : Host.Outcome State Fault Refusal, (∃ t, o = .next t ∧ t.time = s.time) →
      (match o with | .next t => t | _ => s).time = s.time := by
    rintro _ ⟨t, rfl, h⟩
    exact h
  refine hrest _ ?_
  split
  · exact execData_time s k
  · exact execAck_time s k
  · exact execKeepalive_time s k
  · exact execDepart_time s k
  · exact execOpenPkt_time s k
  · exact execOpenAck_time s k
  · exact execClosePkt_time s k

@[simp] theorem State.loopRound_time (s : State) : s.loopRound.time = s.time := by simp [State.loopRound]

/-! ## A device µs -/

/-- The module counts time wherever it is powered and its crystal runs (R74, R76). -/
theorem State.slowClock_of (hpow : s.power.state ≠ .unpowered) (hcrystal : s.power.crystalHold = false) : s.slowClock = true := by
  simp [State.slowClock, hpow, hcrystal]

/-- The work of a device µs leaves device time at the µs it counted. -/
theorem State.tick_time (h : s.slowClock = true) : s.tick.time = s.time + 1 := by
  simp [State.tick, h]

end

/-- Settles O2: the tick counts one µs, and what it does besides leaves device time and the queue. -/
theorem idleStepCountsTime : Obligations.IdleStepCountsTime := by
  intro s hidle hpow _ hcrystal
  have hclock : s.slowClock = true := State.slowClock_of hpow hcrystal
  refine ⟨s.tick, by rw [step, hidle], State.tick_time hclock, ?_⟩
  rw [(State.tick_kept s).pending, hidle]

end Sys2Proof.Machine

/-!
# Configuration requests, D3hot, and the BAR4 window

R116, R134, R136, R137 and R142: what a configuration request, a return to D0 and a resize leave of a function. R144, R145, R245 and
R247: a BAR4 access that finds its tokens, and one that waits at its port. The class code's register is log 81's (PRESUMED).
-/
namespace Sys2Proof.Machine

open Sys2Proof Sys2Proof.Safety

section
variable {s t : State} {p : PortNo} {f : FnNo}

/-! ## Reaching a function -/

/-- The port of a function, from its key. -/
theorem fnKey_div (p : Nat) (f : FnNo) : fnKey p f.val / 16 = p := by
  have hf := f.isLt
  unfold fnKey
  omega

theorem State.enabled_of_fnPresent (hfn : s.fnPresent (fnKey p.val f.val) = true) : (s.port p.val).enabled = true := by
  rw [State.fnPresent, fnKey_div, Bool.and_eq_true] at hfn
  exact hfn.1

theorem State.powered_of_hostOpen (hopen : s.hostOpen = true) : s.powered = true := by
  rw [State.hostOpen, Bool.and_eq_true] at hopen
  exact hopen.2

/-- A present function in D0 behind a trained link is reached (R116, R136). -/
theorem State.reachable_of (hopen : s.hostOpen = true) (hlink : (s.port p.val).linkUp = true)
    (hfn : s.fnPresent (fnKey p.val f.val) = true) (hd0 : (s.fn (fnKey p.val f.val)).d3hot = false) :
    s.reachable (fnKey p.val f.val) = true := by
  simp [State.reachable, fnKey_div, hopen, hlink, hfn, hd0]

/-! ## The class code (R134) -/

/-- The bits that setBits writes read back as written. -/
theorem bits_setBits_same (w : W32) {lo n : Nat} (v : Nat) (h : lo + n ≤ 32) : bits (setBits w lo n v).toNat lo n = v % 2 ^ n := by
  have hsplit : 2 ^ 32 = 2 ^ lo * 2 ^ (32 - lo) := by rw [← Nat.pow_add, Nat.add_sub_cancel' (by omega)]
  have hdvd : 2 ^ n ∣ 2 ^ (32 - lo) := Nat.pow_dvd_pow 2 (by omega)
  have hcleared : (w.toNat - bits w.toNat lo n * 2 ^ lo) / 2 ^ lo = 2 ^ n * (w.toNat / 2 ^ lo / 2 ^ n) := by
    rw [Nat.mul_comm (bits ..), Nat.sub_mul_div, bits]
    have := Nat.div_add_mod (w.toNat / 2 ^ lo) (2 ^ n)
    omega
  rw [bits, setBits, BitVec.toNat_ofNat, hsplit, Nat.mod_mul_right_div_self, Nat.mod_mod_of_dvd _ hdvd,
    Nat.add_mul_div_right _ _ (Nat.two_pow_pos lo), hcleared, Nat.mul_add_mod, Nat.mod_mod]

/-- Class 0x12 and subclass 0x00 (R134), with programming interface 0 (log 81). -/
theorem State.cfgWord_classCode (s : State) (k : Nat) : bits (s.cfgWord k 8).toNat 8 24 = 0x120000 :=
  bits_setBits_same _ 0x120000 (Nat.le_refl 32)

/-! ## Interrupts sent once nothing stops them (R136, R157) -/

/-- Pending interrupts that are sent change the messages sent and the functions alone. -/
theorem State.sendPending_rest (s : State) (k : Nat) :
    s.sendPending k = { s with out := (s.sendPending k).out, fns := (s.sendPending k).fns } := by
  unfold State.sendPending
  dsimp only
  split <;> rfl

/-- Pending interrupts that are sent leave the function's power state, the messages it holds and its masks. -/
@[simp] theorem State.sendPending_fn (s : State) (k : Nat) :
    ((s.sendPending k).fn k).d3hot = (s.fn k).d3hot ∧ ((s.sendPending k).fn k).held = (s.fn k).held ∧
    ((s.sendPending k).fn k).msixEnable = (s.fn k).msixEnable ∧ ((s.sendPending k).fn k).msixMask = (s.fn k).msixMask := by
  unfold State.sendPending
  dsimp only
  split
  · exact ⟨rfl, rfl, rfl, rfl⟩
  · simp [State.fn, State.setFn]

/-! ## Configuration requests (R116, R134, R137) -/

/-- A configuration reply leaves every function. -/
@[simp] theorem State.cfgReply_fn (s : State) (k status : Nat) (data : W32) (j : Nat) : (s.cfgReply k status data).fn j = s.fn j := rfl

@[simp] theorem State.cfgWrite_cfg (s : State) (k : Nat) (o : BitVec 12) (v : W32) :
    tabFind ((s.cfgWrite k o v).fn k).cfg o.toNat = some v := by
  simp [State.cfgWrite]

theorem exec_configRequest (op : CfgOp) (hopen : s.hostOpen = true) (hlink : (s.port p.val).linkUp = true)
    (hfn : s.fnPresent (fnKey p.val f.val) = true) : exec (.configRequest p f op) s = .next (s.config p.val f.val op) :=
  when_of_true (by rw [State.powered_of_hostOpen hopen, State.enabled_of_fnPresent hfn, hlink]; rfl) _

/-- Past step 10 a read of a present function's register is answered with the register's word. -/
theorem State.config_read (o : BitVec 12) (hopen : s.hostOpen = true) (hfn : s.fnPresent (fnKey p.val f.val) = true) :
    s.config p.val f.val (.read o) = s.cfgReply (fnKey p.val f.val) 0 (s.cfgWord (fnKey p.val f.val) o) := by
  simp [State.config, hopen, hfn]

theorem State.config_write (o : BitVec 12) (v : W32) (hopen : s.hostOpen = true) (hfn : s.fnPresent (fnKey p.val f.val) = true) :
    s.config p.val f.val (.write o v) = (s.cfgWrite (fnKey p.val f.val) o v).cfgReply (fnKey p.val f.val) 0 0 := by
  simp [State.config, hopen, hfn]

theorem State.config_setVfs (n : Fin 16) (e : Bool) (hopen : s.hostOpen = true) (hfn : s.fnPresent (fnKey p.val f.val) = true)
    (hpf : f.val = 0) : s.config p.val f.val (.setVfs n e) = (s.setVfs p.val n.val e).cfgReply (fnKey p.val f.val) 0 0 := by
  rw [State.config, hopen, hfn]
  exact if_pos hpf

/-- The MSI-X masks of a function as a request writes them. -/
def State.setMsix (s : State) (k : Nat) (e m : Bool) : State := s.setFn k { s.fn k with msixEnable := e, msixMask := m }

theorem State.config_setMsix (e m : Bool) (hopen : s.hostOpen = true) (hfn : s.fnPresent (fnKey p.val f.val) = true) :
    s.config p.val f.val (.setMsix e m) =
      ((s.setMsix (fnKey p.val f.val) e m).sendPending (fnKey p.val f.val)).cfgReply (fnKey p.val f.val) 0 0 := by
  simp [State.config, State.setMsix, hopen, hfn]

/-- The masks hold as written, and the interrupts they let go change the messages sent and the functions alone. -/
theorem answers_setMsix (e m : Bool) (hopen : s.hostOpen = true) (hlink : (s.port p.val).linkUp = true)
    (hfn : s.fnPresent (fnKey p.val f.val) = true) :
    answers (.configRequest p f (.setMsix e m)) s fun t => (t.fn (fnKey p.val f.val)).msixEnable = e ∧
      (t.fn (fnKey p.val f.val)).msixMask = m ∧ t = { s with out := t.out, fns := t.fns } := by
  refine answers_of_exec (exec_configRequest _ hopen hlink hfn) ?_
  rw [State.config_setMsix e m hopen hfn]
  refine ⟨?_, ?_, ?_⟩
  · simp [State.setMsix]
  · simp [State.setMsix]
  · rw [State.sendPending_rest]
    rfl

/-! ## D3hot and D0 (R136) -/

theorem exec_d3hotEntry (hreach : s.reachable (fnKey p.val f.val) = true) :
    exec (.d3hotEntry p f) s = .next (s.setFn (fnKey p.val f.val) { s.fn (fnKey p.val f.val) with d3hot := true }) :=
  when_of_true hreach _

/-- A function back in D0, its held messages taken out to be delivered. -/
def State.toD0 (s : State) (k : Nat) : State := s.setFn k { s.fn k with d3hot := false, held := [] }

theorem exec_d0Return (hopen : s.hostOpen = true) (hfn : s.fnPresent (fnKey p.val f.val) = true)
    (hd3 : (s.fn (fnKey p.val f.val)).d3hot = true) :
    exec (.d0Return p f) s = .next ((s.fn (fnKey p.val f.val)).held.foldl (fun s h => s.deliverHeld (fnKey p.val f.val) h)
      ((s.toD0 (fnKey p.val f.val)).sendPending (fnKey p.val f.val))) :=
  when_of_true (by rw [hopen, hfn, hd3]; rfl) _

/-- A function that holds no message returns to D0 with the interrupts that its masks no longer stop. -/
theorem answers_d0Return (hopen : s.hostOpen = true) (hfn : s.fnPresent (fnKey p.val f.val) = true)
    (hd3 : (s.fn (fnKey p.val f.val)).d3hot = true) (hheld : (s.fn (fnKey p.val f.val)).held = []) :
    answers (.d0Return p f) s fun t => (t.fn (fnKey p.val f.val)).d3hot = false ∧ (t.fn (fnKey p.val f.val)).held = [] ∧
      t = { s with out := t.out, fns := t.fns } := by
  refine answers_of_exec (exec_d0Return hopen hfn hd3) ?_
  rw [hheld, List.foldl_nil]
  refine ⟨?_, ?_, ?_⟩
  · simp [State.toD0]
  · simp [State.toD0]
  · rw [State.sendPending_rest]
    rfl

/-! ## The BAR4 window (R142, R144, R145, R245, R247) -/

/-- A function with its window resized to 2^log2 bytes, its base kept down to a multiple of the new size. -/
def Fn.resized (fn : Fn) (log2 : Nat) : Fn :=
  { fn with bar4Log2 := log2, bar4Va := BitVec.ofNat 64 (Fn.bar4Base { fn with bar4Log2 := log2 }) }

theorem exec_bar4Resize (n : Fin 7) (hopen : s.hostOpen = true) (hfn : s.fnPresent (fnKey p.val f.val) = true) :
    exec (.bar4Resize p f n) s = .next (s.setFn (fnKey p.val f.val) ((s.fn (fnKey p.val f.val)).resized (30 + n.val))) :=
  when_of_true (by rw [hopen, hfn]; rfl) _

/-- An access that finds no tokens at the port's regulator joins those that wait there (R247). -/
theorem State.bar4Arrive_waits {p : Nat} {a : Bar4Access}
    (h : s.regServe a.slot (3 + p) (if a.write then a.bytes.length else a.len) (!a.write) (s.hostTurn a.slot (3 + p)) true = none) :
    s.bar4Arrive p a = s.setPort p { s.port p with bar4 := (s.port p).bar4 ++ [a] } := by
  simp [State.bar4Arrive, h]

/-- An access behind none of its slot that finds the tokens is served at once. -/
theorem State.bar4Arrive_served {p : Nat} {a : Bar4Access} (hfirst : ((s.port p).bar4.any fun b => b.slot == a.slot) = false)
    (h : s.regServe a.slot (3 + p) (if a.write then a.bytes.length else a.len) (!a.write) (s.hostTurn a.slot (3 + p)) true = some t) :
    s.bar4Arrive p a = if a.write then t.bar4Store a else t.bar4Load a := by
  simp [State.bar4Arrive, hfirst, h]

/-- A write whose pages are all mapped is made, and leaves undefined the tracker entries in use that it meets (R145, R426). -/
theorem State.bar4Store_mapped {a : Bar4Access} (h : s.vwrite none a.slot (a.base + a.off) a.bytes = (t, none)) :
    s.bar4Store a = t.blurTrackers a.slot (a.base + a.off) a.bytes.length := by
  simp [State.bar4Store, h]

/-- A read whose pages are all mapped is answered with its bytes, the EP bit set where they are poisoned (R145). -/
theorem State.bar4Load_mapped {a : Bar4Access} {r : ReadOut} (h : s.vread a.slot (a.base + a.off) a.len = .ok r) :
    s.bar4Load a = (s.reachSpans a.slot (lineSpans (a.base + a.off) a.len)).hostReply a.fn (if r.poison.isSome then 3 else 0) r.bytes := by
  simp [State.bar4Load, h]

/-- An access that reaches a channel changes the power states alone. -/
theorem State.reachLine_rest (s : State) (cxl : Bool) (dpa : Nat) : s.reachLine cxl dpa = { s with power := (s.reachLine cxl dpa).power } := by
  unfold State.reachLine
  split
  · rfl
  · dsimp only
    split
    · rfl
    · split <;> rfl
    · rfl

theorem State.reachSpans_rest (s : State) (slot : Nat) (l : List (Nat × Nat)) :
    s.reachSpans slot l = { s with power := (s.reachSpans slot l).power } := by
  fun_induction State.reachSpans s slot l with
  | case1 => rfl
  | case2 => rfl
  | case3 s a n l w hw ih =>
    rw [ih, State.reachLine_rest]

/-- A reply that reports no error changes the messages sent alone. -/
theorem State.hostReply_ok (s : State) (k : Nat) {status : Nat} (data : List Byte) (h1 : status ≠ 1) (h2 : status ≠ 2) :
    s.hostReply k status data = { s with out := s.out ++ [Out.hostReply k status data] } := by
  rw [State.hostReply, if_neg h1, if_neg h2]

/-- A write to the window of a bound function arrives at its port (R144). -/
theorem exec_bar4Write {i : Nat} (off : W64) (bs : List Byte) (hreach : s.reachable (fnKey p.val f.val) = true)
    (hslot : s.fnSlot (fnKey p.val f.val) = some i) :
    exec (.bar4Write p f off bs) s = .next (s.bar4Arrive p.val (s.bar4Access (fnKey p.val f.val) i off true bs 0)) := by
  simp [exec, execBar4Write, hreach, hslot]

theorem exec_bar4Read {i : Nat} (off : W64) (n : Nat) (hreach : s.reachable (fnKey p.val f.val) = true)
    (hslot : s.fnSlot (fnKey p.val f.val) = some i) :
    exec (.bar4Read p f off n) s = .next (s.bar4Arrive p.val (s.bar4Access (fnKey p.val f.val) i off false [] n)) := by
  simp [exec, execBar4Read, hreach, hslot]

/-- A read served changes the power states and the messages sent alone. -/
theorem State.bar4Load_rest {a : Bar4Access} {r : ReadOut} (h : s.vread a.slot (a.base + a.off) a.len = .ok r) :
    s.bar4Load a = { s with power := (s.bar4Load a).power,
                            out := s.out ++ [Out.hostReply a.fn (if r.poison.isSome then 3 else 0) r.bytes] } := by
  have hok : (if r.poison.isSome then 3 else 0) ≠ 1 ∧ (if r.poison.isSome then 3 else 0) ≠ 2 := by split <;> decide
  rw [State.bar4Load_mapped h, State.hostReply_ok _ _ _ hok.1 hok.2, State.reachSpans_rest]

end

/-- Settles O10: the configuration of a present function clause by clause, then the BAR4 accesses served and waiting. -/
theorem configurationSpace : Obligations.ConfigurationSpace := by
  unfold Obligations.ConfigurationSpace
  refine ⟨fun s p f hopen hlink hfn => ⟨?read, ?write, ?msix, ?vfs, ?d3hot, ?d0, ?resize⟩,
    fun s s1 p f i off hreach hslot hfirst => ⟨?stored, ?waits, ?loaded⟩⟩
  case read =>
    intro o
    exact answers_of_exec (exec_configRequest _ hopen hlink hfn) ⟨State.config_read o hopen hfn, s.cfgWord_classCode _⟩
  case write =>
    intro o v
    refine answers_of_exec (exec_configRequest _ hopen hlink hfn) ?_
    rw [State.config_write o v hopen hfn]
    exact ⟨s.cfgWrite_cfg .., rfl⟩
  case msix => exact fun e m => answers_setMsix e m hopen hlink hfn
  case vfs =>
    intro n e hpf hn
    refine answers_of_exec (exec_configRequest _ hopen hlink hfn) ?_
    rw [State.config_setVfs n e hopen hfn hpf]
    exact s.setVfs_port e hn
  case d3hot => exact fun hd0 => answers_of_exec (exec_d3hotEntry (State.reachable_of hopen hlink hfn hd0)) rfl
  case d0 => exact fun hd3 hheld => answers_d0Return hopen hfn hd3 hheld
  case resize =>
    intro n
    refine answers_of_exec (exec_bar4Resize n hopen hfn) ⟨?_, rfl⟩
    rw [State.fn_setFn, Fn.resized]
  case stored =>
    intro bs t hserve hwrite
    rw [exec_bar4Write off bs hreach hslot,
      State.bar4Arrive_served (a := s.bar4Access (fnKey p.val f.val) i off true bs 0) hfirst hserve]
    exact congrArg Host.Outcome.next (State.bar4Store_mapped hwrite)
  case waits =>
    intro bs hserve
    rw [exec_bar4Write off bs hreach hslot,
      State.bar4Arrive_waits (a := s.bar4Access (fnKey p.val f.val) i off true bs 0) hserve]
  case loaded =>
    intro n r hserve hread
    refine answers_of_exec (exec_bar4Read off n hreach hslot) ?_
    rw [State.bar4Arrive_served (a := s.bar4Access (fnKey p.val f.val) i off false [] n) hfirst hserve]
    exact State.bar4Load_rest hread

end Sys2Proof.Machine

/-!
# CXL links, and the power states of blocks

R118, R171 to R175 and R261: an expander that joins late, lanes that split, and what a lost link makes of the pages mapped on it.
R79, R82 to R90, R223 and R227: blocks that sleep, wake, leave OFF and go OFF, each by the block and the core PLL it leaves.
-/
namespace Sys2Proof.Machine

open Sys2Proof Sys2Proof.Safety

section
variable {s : State}

/-! ## Expanders and lanes (R118, R171 to R174) -/

/-- An expander whose lanes are there joins the tier, numbered from a base that the frames already there fix (log 15). -/
theorem exec_cxlExpanderReady {e : Fin 2} {n : Nat} (hstage : 8 ≤ s.boot.stage) (hcxl : s.boot.cxlEnable = true)
    (hnew : s.expander e.val = {}) (hn : 0 < n) (hlane : s.cxlLane e = true) :
    ∃ base, exec (.cxlExpanderReady e n) s = .next (s.setExpander e.val
      { ready := true, linkUp := true, base := base, frames := min (67108864 - base) n, total := n }).cxlShort :=
  ⟨_, when_of_true (by simp [hstage, hcxl, hnew, hn, hlane]) _⟩

/-- Lanes 8 to 15 are there for expander 1 once the port has split; expander 0 needs no split (R171). -/
theorem State.cxlLane_of {e : Fin 2} (h : e.val = 1 → s.power.cxlSplit = true) : s.cxlLane e = true := by
  have he : e.val = 0 ∨ e.val = 1 := by omega
  rcases he with he | he
  · simp [State.cxlLane, he]
  · simp [State.cxlLane, h he]

/-- CXL_SHORT worked out again changes no expander. -/
@[simp] theorem State.expander_cxlShort (s : State) (e : Nat) : s.cxlShort.expander e = s.expander e := rfl

theorem exec_cxlX16Timeout (hpow : s.power.state ≠ .unpowered) (hcxl : s.boot.cxlEnable = true)
    (hdown : (s.expanders.all fun e => !e.2.linkUp) = true) :
    exec .cxlX16Timeout s = .next { s with power := { s.power with cxlSplit := true } } :=
  when_of_true (by rw [State.powered_of hpow, hcxl, hdown]; rfl) _

/-! ## A CXL link lost (R175, R261) -/

theorem exec_cxlLinkDown {e : Fin 2} (hup : (s.expander e.val).linkUp = true) : exec (.cxlLinkDown e) s = .next (s.cxlDown e.val) :=
  when_of_true hup _

/-- A leaf once the link of expander x is lost: poisoned where it maps a page on x. -/
def Leaf.lostWith (x : Expander) (l : Leaf) : Leaf :=
  if l.valid ∧ l.tier = .cxl ∧ (decide (x.base ≤ l.frame) && decide (l.frame < x.base + x.frames)) then { l with poison := true } else l

theorem Leaf.lostWith_poison {x : Expander} {l : Leaf} (hvalid : l.valid = true) (htier : l.tier = .cxl) (hlo : x.base ≤ l.frame)
    (hhi : l.frame < x.base + x.frames) : (l.lostWith x).poison = true := by
  rw [Leaf.lostWith, if_pos (by simp [hvalid, htier, hlo, hhi])]

/-- A partition with every leaf of both sides changed. -/
def Part.mapLeaves (g : Leaf → Leaf) (p : Part) : Part :=
  { p with side0 := p.side0.map fun l => (l.1, g l.2), side1 := p.side1.map fun l => (l.1, g l.2) }

theorem Part.leaf_mapLeaves {g : Leaf → Leaf} (hg : g {} = {}) (p : Part) (side1 : Bool) (page : Nat) :
    (p.mapLeaves g).leaf side1 page = g (p.leaf side1 page) := by
  cases side1 <;> exact tabGet_map_snd hg _ page

theorem State.cxlDown_parts (s : State) (e : Nat) :
    (s.cxlDown e).parts = s.parts.map fun k => (k.1, k.2.mapLeaves (Leaf.lostWith (s.expander e))) := by
  simp [State.cxlDown, Part.mapLeaves, Leaf.lostWith]

/-- A CXL link lost poisons the pages mapped on its expander and leaves every other leaf (R261). -/
theorem State.cxlDown_leaf (s : State) (e i page : Nat) (side1 : Bool) :
    ((s.cxlDown e).part i).leaf side1 page = ((s.part i).leaf side1 page).lostWith (s.expander e) := by
  have hblank : Part.mapLeaves (Leaf.lostWith (s.expander e)) {} = {} := rfl
  rw [State.part, State.cxlDown_parts, tabGet_map_snd hblank, Part.leaf_mapLeaves rfl]
  rfl

theorem State.cxlDown_linkDown (s : State) (e : Nat) :
    ((s.cxlDown e).expander e).ready = false ∧ ((s.cxlDown e).expander e).linkUp = false := by
  rw [State.cxlDown_expander, if_pos rfl]
  exact ⟨rfl, rfl⟩

/-! ## What the PLL of a core and the scrub of a bank group follow (R79, R82, R308) -/

/-- The PLL that follows its core's engines down changes the PLLs alone. -/
theorem State.pllFollow_rest (s : State) (c : Nat) :
    s.pllFollow c = { s with power := { s.power with plls := (s.pllFollow c).power.plls } } := by
  unfold State.pllFollow
  dsimp only
  split <;> rfl

/-- The PLL of an engine that wakes changes the PLLs alone. -/
theorem State.pllUp_rest (s : State) (b : Nat) : s.pllUp b = { s with power := { s.power with plls := (s.pllUp b).power.plls } } := by
  unfold State.pllUp
  split <;> rfl

/-- A scrub that starts over changes the cores alone. -/
theorem State.scrubRestart_rest (s : State) (b : Nat) : s.scrubRestart b = { s with cores := (s.scrubRestart b).cores } := by
  unfold State.scrubRestart
  split <;> rfl

@[simp] theorem State.block_setPll (s : State) (k : PllId) (v : Pll) (b : Nat) : (s.setPll k v).block b = s.block b := rfl

@[simp] theorem State.block_pllFollow (s : State) (c b : Nat) : (s.pllFollow c).block b = s.block b := by
  rw [State.pllFollow_rest]
  rfl

@[simp] theorem State.block_pllUp (s : State) (a b : Nat) : (s.pllUp a).block b = s.block b := by
  rw [State.pllUp_rest]
  rfl

@[simp] theorem State.block_scrubRestart (s : State) (a b : Nat) : (s.scrubRestart a).block b = s.block b := by
  rw [State.scrubRestart_rest]
  rfl

@[simp] theorem State.block_count (s : State) (index sub n b : Nat) : (s.count index sub n).block b = s.block b := by
  simp [State.block]

/-! ## IDLE, SLEEP and back (R82 to R84, R88, R90) -/

theorem exec_blockIdle {b : BlockNo} (hst : (s.block b.val).st = .active) (hb : b.val < 1568) (hbusy : s.blockBusy b.val = false) :
    exec (.blockIdle b) s = .next (s.setBlock b.val { s.block b.val with st := .idle, since := s.time }) :=
  when_of_true (by simp [hst, hb, hbusy]) _

/-- A block falls asleep; where it is an engine, its core's PLL may follow (R79). -/
theorem exec_blockSleep {b : BlockNo} (hst : (s.block b.val).st = .idle) (hwake : (s.block b.val).waking = false)
    (hheld : s.blockHeld b.val = false) (hafter : (s.block b.val).since + s.sleepAfter b.val ≤ s.time) :
    exec (.blockSleep b) s = .next (if b.val < 32 then (s.setBlock b.val { st := .sleep, since := s.time }).pllFollow (b.val % 16)
      else s.setBlock b.val { st := .sleep, since := s.time }) :=
  when_of_true (by simp [hst, hwake, hheld, hafter]) _

/-- A block enters the state its wake names, and the wake is counted (R88, R90). -/
theorem exec_blockWakeDone {b : BlockNo} (hst : (s.block b.val).st = .sleep) (hwake : (s.block b.val).waking = true) :
    exec (.blockWakeDone b) s =
      .next ((((s.setBlock b.val { st := (s.block b.val).after, since := s.time }).pllUp b.val).scrubRestart b.val).count 0x4013 1 1) :=
  when_of_true (by simp [hst, hwake]) _

/-! ## Leaving OFF (R82, R85, R87, R223) -/

/-- A command replaced by one that does not wait for a block leaves none waiting for it. -/
theorem State.setCmd_awaits {b : Nat} {c : Cmd} (hc : b ∉ c.awaits) (h : ∀ x ∈ s.cmds, b ∉ x.awaits) :
    ∀ x ∈ (s.setCmd c).cmds, b ∉ x.awaits := by
  intro x hx
  obtain ⟨y, hy, rfl⟩ := List.mem_map.mp hx
  split
  · exact hc
  · exact h y hy

/-- A command that ends waits for no block it did not wait for before. -/
theorem State.endCmd_awaits {b : Nat} (id st d : Nat) (h : ∀ c ∈ s.cmds, b ∉ c.awaits) : ∀ c ∈ (s.endCmd id st d).cmds, b ∉ c.awaits := by
  unfold State.endCmd
  split
  · exact h
  · next c hc =>
    split
    · exact h
    · exact State.setCmd_awaits (h c (List.mem_of_find?_eq_some hc)) h

/-- No command waits for a block that has arrived (R85, R223). -/
theorem State.allocArrived_awaits (s : State) {bs : List Nat} {b : Nat} (hb : b ∈ bs) : ∀ c ∈ (s.allocArrived bs).cmds, b ∉ c.awaits := by
  unfold State.allocArrived
  refine List.foldlRecOn (motive := fun t : State => ∀ c ∈ t.cmds, b ∉ c.awaits) _ _ ?_ fun t ht c _ => State.endCmd_awaits _ _ _ ht
  intro c hc
  obtain ⟨d, -, rfl⟩ := List.mem_map.mp hc
  simp [hb]

/-- Blocks that have arrived leave the power state of every block. -/
@[simp] theorem State.block_allocArrived (s : State) (bs : List Nat) (b : Nat) : (s.allocArrived bs).block b = s.block b :=
  State.foldl_keeps (fun t => t.block b) (fun t c => by rw [State.endCmd_rest]; rfl) _ _

/-- A block leaves OFF for the state its wake names, before the commands hear that it has arrived. -/
theorem exec_blockLeaveOff {b : BlockNo} (hst : (s.block b.val).st = .off) (hleaves : (s.block b.val).leavingOff = true) :
    ∃ t, exec (.blockLeaveOff b) s = .next (State.allocArrived t [b.val]) ∧
      t.block b.val = { st := (s.block b.val).after, since := s.time } := by
  refine ⟨_, when_of_true (by simp [hst, hleaves]) _, ?_⟩
  rw [State.block_scrubRestart]
  split <;> simp

/-! ## A core's blocks OFF (R227) -/

theorem State.setBlock_block (s : State) (b k : Nat) (v : Block) : (s.setBlock b v).block k = if k = b then v else s.block k := by
  split
  · subst k; simp
  · exact State.block_setBlock_other s v ‹_›

/-- Blocks put in a power state one after another are in it, and so is every block that was. -/
theorem State.setBlocks_st (l : List Nat) (s : State) {st : PowerState} {k : Nat} (h : k ∈ l ∨ (s.block k).st = st) :
    ((l.foldl (fun s b => s.setBlock b { st := st, since := s.time }) s).block k).st = st := by
  induction l generalizing s with
  | nil => simpa using h
  | cons b l ih =>
    refine ih _ ?_
    rw [State.setBlock_block]
    split
    · exact .inr rfl
    · next hk => simpa [hk] using h

theorem State.setCoreBlocks_st (s : State) {c k : Nat} (st : PowerState) (h : k ∈ coreBlocks c) : ((s.setCoreBlocks c st).block k).st = st :=
  State.setBlocks_st _ s (.inl h)

theorem matrixBlock_mem_coreBlocks (c : Nat) : matrixBlock c ∈ coreBlocks c := by simp [coreBlocks]

theorem vectorBlock_mem_coreBlocks (c : Nat) : vectorBlock c ∈ coreBlocks c := by simp [coreBlocks]

theorem exec_coreOffTimer {c : CoreNo} (hfree : (s.core c.val).holder = none) (hlong : (s.core c.val).unheldSince + 1000000 ≤ s.time)
    (hst : (s.block (matrixBlock c.val)).st ≠ .off) :
    exec (.coreOffTimer c) s = .next ((s.setCoreBlocks c.val .off).setPll (.core c) {}) :=
  when_of_true (by simp [hfree, hlong, hst]) _

end

/-- Settles O9: the expanders and their links, then the blocks from IDLE to OFF. -/
theorem cxlLinksAndBlocks : Obligations.CxlLinksAndBlocks := by
  unfold Obligations.CxlLinksAndBlocks
  refine ⟨fun s => ⟨?joins, ?splits, ?lost⟩, fun s b => ⟨?idle, ?sleep, ?wake, ?leaves, ?off⟩⟩
  case joins =>
    intro e n hstage hcxl hnew hn hsplit
    obtain ⟨base, hexec⟩ := exec_cxlExpanderReady hstage hcxl hnew hn (State.cxlLane_of hsplit)
    refine answers_of_exec hexec ?_
    rw [State.expander_cxlShort, State.expander_setExpander]
    exact ⟨rfl, rfl, rfl, rfl⟩
  case splits => exact fun hpow hcxl hdown => answers_of_exec (exec_cxlX16Timeout hpow hcxl hdown) rfl
  case lost =>
    intro e hup
    obtain ⟨hready, hlink⟩ := s.cxlDown_linkDown e.val
    refine answers_of_exec (exec_cxlLinkDown hup) ⟨hready, hlink, by simp [sameMemory], fun i page hvalid htier hlo hhi => ?_⟩
    rw [State.cxlDown_leaf]
    exact Leaf.lostWith_poison hvalid htier hlo hhi
  case idle => exact fun hst hb hbusy => answers_of_exec (exec_blockIdle hst hb hbusy) rfl
  case sleep =>
    intro hst hwake hheld hafter
    refine answers_of_exec (exec_blockSleep hst hwake hheld hafter) ?_
    split
    · refine ⟨by simp, ?_⟩
      rw [State.pllFollow_rest]
      rfl
    · exact ⟨State.block_setBlock .., rfl⟩
  case wake =>
    intro hst hwake
    refine answers_of_exec (exec_blockWakeDone hst hwake) ⟨by simp, ?_, ?_⟩
    · rw [State.dictGet_count, State.scrubRestart_rest, State.pllUp_rest]
      rfl
    · rw [State.scrubRestart_rest, State.pllUp_rest]
      simp [sameMemory]
  case leaves =>
    intro hst hleaves
    obtain ⟨t, hexec, hblock⟩ := exec_blockLeaveOff hst hleaves
    exact answers_of_exec hexec ⟨(t.block_allocArrived ..).trans hblock, t.allocArrived_awaits (List.mem_singleton_self _)⟩
  case off =>
    intro c hfree hlong hst
    refine answers_of_exec (exec_coreOffTimer hfree hlong hst) ?_
    rw [State.block_setPll, State.block_setPll, State.pll_setPll]
    exact ⟨s.setCoreBlocks_st .off (matrixBlock_mem_coreBlocks _), s.setCoreBlocks_st .off (vectorBlock_mem_coreBlocks _), rfl⟩

end Sys2Proof.Machine

/-!
# Records read from a ring, and moderated interrupts

R146, R152, R154 and R157: a record read joins those that wait for admission; an interrupt whose delay is over is sent.
-/
namespace Sys2Proof.Machine

open Sys2Proof Sys2Proof.Safety

section
variable {s : State} {p : PortNo} {f : FnNo} {q : QueueNo}

/-- The queue once its first doorbell's record has been read (R152). -/
def Queue.fetched (q : Queue) : Queue :=
  { q with sqHead := (q.sqHead + 1) % 2 ^ q.lSqLog2, outstanding := q.outstanding + 1, doorbells := popDoorbell q.doorbells }

/-- A record read where a queue may be read and no earlier BAR4 write waits joins those that wait, with its doorbell's time. -/
theorem exec_recordFetch {r : Rec} {n t0 : Nat} {l : List (Nat × Nat)} (hactive : (s.queue (fnKey p.val f.val) q.val).active = true)
    (henable : (s.queue (fnKey p.val f.val) q.val).enable = true) (hroom : (s.queue (fnKey p.val f.val) q.val).room = true)
    (hreset : s.fnReset (fnKey p.val f.val) = false) (hlink : (s.port p.val).linkUp = true) (htag : (s.port p.val).tagFree = true)
    (hdoorbell : (s.queue (fnKey p.val f.val) q.val).doorbells = (n, t0) :: l) (hwrites : s.bar4Before (fnKey p.val f.val) t0 = false) :
    exec (.recordFetch p f q (some r)) s =
      .next { s.setQueue (fnKey p.val f.val) q.val (s.queue (fnKey p.val f.val) q.val).fetched with
        waiting := s.waiting ++ [{ fn := fnKey p.val f.val, queue := q.val, record := r, doorbell := t0 }] } := by
  simp [exec, execRecordFetch, Queue.fetched, hactive, henable, hroom, hreset, hlink, htag, hdoorbell, hwrites]

theorem exec_cqIrqDelay (hirq : (s.queue (fnKey p.val f.val) q.val).irqEn = true)
    (hrecords : 0 < (s.queue (fnKey p.val f.val) q.val).unsignalled)
    (hdelay : (s.queue (fnKey p.val f.val) q.val).delayFrom + (s.queue (fnKey p.val f.val) q.val).delayUs.toNat ≤ s.time) :
    exec (.cqIrqDelay p f q) s = .next (s.queueIrq (fnKey p.val f.val) q.val) :=
  when_of_true (by simp [hirq, hrecords, hdelay]) _

/-- An interrupt of a function in D0 that no mask stops is sent, and nothing else changes (R136, R157). -/
theorem State.interrupt_sent {k vec : Nat} (hd0 : (s.fn k).d3hot = false) (hen : (s.fn k).msixEnable = true)
    (hmask : (s.fn k).msixMask = false) (hentry : bitAt ((s.fn k).msixEntry vec).toNat 96 = false) :
    s.interrupt k vec = { s with out := s.out ++ [Out.irq k vec] } := by
  simp [State.interrupt, hd0, hen, hmask, hentry]

/-- A queue written is a change of its function alone. -/
theorem State.fn_setQueue (s : State) (k q : Nat) (v : Queue) : (s.setQueue k q v).fn k = (s.fn k).setQueue q v := State.fn_setFn ..

/-- The interrupt of a queue whose function is in D0 with nothing masked is sent on its vector; no record stays unsignalled (R154). -/
theorem State.queueIrq_sent {k q : Nat} (hd0 : (s.fn k).d3hot = false) (hen : (s.fn k).msixEnable = true) (hmask : (s.fn k).msixMask = false)
    (hentry : bitAt ((s.fn k).msixEntry (s.queue k q).vector.toNat).toNat 96 = false) :
    s.queueIrq k q = { s.setQueue k q { s.queue k q with unsignalled := 0 } with
      out := s.out ++ [Out.irq k (s.queue k q).vector.toNat] } := by
  rw [State.queueIrq]
  refine State.interrupt_sent ?_ ?_ ?_ ?_
  all_goals rw [State.fn_setQueue]; assumption

end

/-- Settles O12: the record that joins, then the interrupt that leaves. -/
theorem recordsAndInterrupts : Obligations.RecordsAndInterrupts := by
  unfold Obligations.RecordsAndInterrupts
  refine fun s p f q => ⟨?fetch, ?delay⟩
  case fetch =>
    intro r n t0 l hactive henable hroom hreset hlink htag hdoorbell hwrites
    refine answers_of_exec (exec_recordFetch hactive henable hroom hreset hlink htag hdoorbell hwrites) ⟨rfl, ?_, rfl⟩
    exact congrArg Queue.outstanding (State.queue_setQueue ..)
  case delay =>
    intro hirq hrecords hdelay hd0 hen hmask hentry
    refine answers_of_exec (exec_cqIrqDelay hirq hrecords hdelay) ?_
    rw [State.queueIrq_sent hd0 hen hmask hentry]
    exact ⟨rfl, congrArg Queue.unsignalled (State.queue_setQueue ..)⟩

end Sys2Proof.Machine

/-!
# What a command's work leaves of it, and of the handles

A command that starts, runs and ends, read through the operations on long-operation handles, on tokens and on the two sides of a
partition: which command is found after each, and which handle (R183, R189, R207).
-/
namespace Sys2Proof.Machine

open Sys2Proof Sys2Proof.Safety

section
variable {s t : State} {id op : Nat} {c : Cmd}

/-! ## Commands found, running and ended -/

/-- Which command is found under a number depends on the list of commands alone. -/
theorem State.cmd_congr (h : t.cmds = s.cmds) (id : Nat) : t.cmd id = s.cmd id := by
  simp only [State.cmd, h]

theorem endedAs_congr {st d : Nat} (h : t.cmds = s.cmds) (k : endedAs s id st d) : endedAs t id st d := by
  rwa [endedAs, State.cmd_congr h]

theorem not_ended_of_running (h : c.phase = .running) (a b : Nat) : c.phase ≠ .ended a b := by simp [h]

theorem phase_of_canStart (h : s.canStart c = true) : c.phase = .waiting := by
  simp only [State.canStart, State.eligible, Bool.and_eq_true, beq_iff_eq] at h
  obtain ⟨⟨⟨⟨⟨⟨⟨hphase, -⟩, -⟩, -⟩, -⟩, -⟩, -⟩, -⟩ := h
  exact hphase

/-- A command that has not started is none that runs. -/
theorem ready_runningOp (h : ready s id op c) (op' : Nat) : s.runningOp id op' = none := by
  obtain ⟨hcmd, -, hstart⟩ := h
  simp [State.runningOp, hcmd, phase_of_canStart hstart]

theorem ready_id (h : ready s id op c) : c.id = id := State.cmd_id h.1

theorem State.runningOp_eq_some (h : s.runningOp id op = some c) : s.cmd id = some c ∧ c.opcode = op ∧ c.phase = .running := by
  unfold State.runningOp at h
  split at h
  · cases h
  · rename_i d hd
    split at h
    · rename_i hop
      cases h
      exact ⟨hd, hop⟩
    · cases h

/-- A command that has started does not start again. -/
theorem State.startOp_started (h : s.cmd id = some c) (hp : c.phase ≠ .waiting) (op : Nat) (f : Cmd → State → State) :
    s.startOp id op f = s := by
  have hstart : s.canStart c = false := by
    by_contra hne
    exact hp (phase_of_canStart (by simpa using hne))
  simp [State.startOp, h, hstart]

/-! ## A command that starts -/

@[simp] theorem State.beginCmd_parts (s : State) (c : Cmd) : (s.beginCmd c).parts = s.parts := by rw [State.beginCmd_rest]

@[simp] theorem State.beginCmd_time (s : State) (c : Cmd) : (s.beginCmd c).time = s.time := by rw [State.beginCmd_rest]

@[simp] theorem State.part_beginCmd (s : State) (c : Cmd) (i : Nat) : (s.beginCmd c).part i = s.part i := by
  simp only [State.part, State.beginCmd_parts]

@[simp] theorem State.longop_beginCmd (s : State) (c : Cmd) (i h : Nat) : (s.beginCmd c).longop i h = s.longop i h := by
  simp only [State.longop, State.part_beginCmd]

theorem State.beginCmd_onlyWork (s : State) (c : Cmd) : onlyWork s (s.beginCmd c) := State.beginCmd_rest s c

theorem onlyWork_memory (h : onlyWork s t) : sameMemory s t := by
  rw [h]
  exact ⟨fun _ => rfl, fun _ => rfl, fun _ => rfl⟩

/-- A command just begun. -/
theorem ready_begun (h : ready s id op c) :
    (s.beginCmd c).cmd id = some (c.begun s.time (s.part c.slot).epoch (s.tablesOf c.slot)) := State.beginCmd_cmd h.1

theorem ready_running_beginCmd (h : ready s id op c) : running (s.beginCmd c) id := ⟨_, ready_begun h, rfl⟩

/-! ## A command that ends -/

/-- A command that has ended keeps its status. -/
theorem endedAs_endCmd {st d : Nat} (h : endedAs s id st d) (k a b : Nat) : endedAs (s.endCmd k a b) id st d := by
  by_cases e : id = k
  · subst e
    obtain ⟨c, hc, hp⟩ := h
    exact ⟨c, by simp [State.endCmd, hc, hp], hp⟩
  · rwa [endedAs, State.endCmd_other a b e]

theorem endedAs_endSome {st d : Nat} (h : endedAs s id st d) (o : Option Nat) (a b : Nat) : endedAs (s.endSome o a b) id st d := by
  cases o with
  | none => exact h
  | some k => exact endedAs_endCmd h k a b

@[simp] theorem State.endSome_none (s : State) (a b : Nat) : s.endSome none a b = s := rfl

theorem State.endSome_other {o : Option Nat} (a b : Nat) (h : o ≠ some id) : (s.endSome o a b).cmd id = s.cmd id := by
  cases o with
  | none => rfl
  | some k => exact State.endCmd_other a b fun e => h (congrArg some e.symm)

theorem State.endSome_rest (s : State) (o : Option Nat) (a b : Nat) : s.endSome o a b = { s with cmds := (s.endSome o a b).cmds } := by
  cases o with
  | none => rfl
  | some k => exact State.endCmd_rest s k a b

@[simp] theorem State.longop_endSome (s : State) (o : Option Nat) (a b i h : Nat) : (s.endSome o a b).longop i h = s.longop i h := by
  rw [State.endSome_rest]; rfl

theorem State.endCmd_onlyCmds (s : State) (k a b : Nat) : onlyCmds s (s.endCmd k a b) := State.endCmd_rest s k a b

theorem onlyWork_onlyCmds {u : State} (h : onlyWork s t) (k : onlyCmds t u) : onlyWork s u := by
  rw [onlyWork, k, h]

/-- A command that has just begun ends with the status given. -/
theorem ready_endCmd (h : ready s id op c) (st d : Nat) :
    endedAs ((s.beginCmd c).endCmd id st d) id st d ∧ onlyWork s ((s.beginCmd c).endCmd id st d) :=
  ⟨State.endCmd_ends st d (ready_begun h) (not_ended_of_running rfl),
    onlyWork_onlyCmds (State.beginCmd_onlyWork s c) (State.endCmd_onlyCmds ..)⟩

/-- A clean command that runs ends OK. -/
theorem State.finishCmd_ends {d : Nat} (h : s.cmd id = some c) (k : clean c) (hp : c.phase = .running) :
    endedAs (s.finishCmd id d) id 0 d := by
  rw [State.finishCmd_clean d h k]
  exact State.endCmd_ends 0 d h (not_ended_of_running hp)

/-! ## Events and the two sides leave commands and handles -/

@[simp] theorem State.event_cmds (s : State) (code detail : Nat) (l : List Nat) : (s.event code detail l).cmds = s.cmds := by
  obtain ⟨o, f, h, d, e⟩ := s.event_rest code detail l
  rw [e]

@[simp] theorem State.longop_event (s : State) (code detail : Nat) (l : List Nat) (i h : Nat) :
    (s.event code detail l).longop i h = s.longop i h := by simp [State.longop, State.part]

@[simp] theorem State.count_cmds (s : State) (index sub n : Nat) : (s.count index sub n).cmds = s.cmds := by
  obtain ⟨d, e⟩ := s.count_rest index sub n
  rw [e]

@[simp] theorem State.longop_count (s : State) (index sub n i h : Nat) : (s.count index sub n).longop i h = s.longop i h := by
  simp [State.longop, State.part]

@[simp] theorem State.longop_setCmd (s : State) (d : Cmd) (i h : Nat) : (s.setCmd d).longop i h = s.longop i h := rfl

@[simp] theorem State.longop_onHandle (s : State) (i h : Nat) (f : LongOp → LongOp) :
    (s.onHandle i h f).longop i h = f (s.longop i h) := State.longop_setLongop ..

@[simp] theorem State.cmd_onHandle (s : State) (i h : Nat) (f : LongOp → LongOp) (k : Nat) : (s.onHandle i h f).cmd k = s.cmd k := rfl

end

/-! ## NOP and TOKEN_RESET (R183, R189) -/

section
variable {s : State} {id : Nat} {c : Cmd}

theorem exec_nop (h : ready s id 0x01 c) : exec (.nop id) s = .next ((s.beginCmd c).finishCmd id 0) :=
  congrArg Host.Outcome.next (State.startOp_ready h _)

/-- TOKEN VALUE of a TOKEN_RESET, its failed mark cleared. -/
def resetToken (c : Cmd) : Token := { count := BitVec.ofNat 32 (recField c.record 0x6C 4), failed := false }

/-- The token that a TOKEN_RESET names, set. -/
def State.tokenSet (s : State) (c : Cmd) : State :=
  s.setPart c.slot ((s.part c.slot).setToken (recField c.record 0x68 2 % 4096) (resetToken c))

theorem exec_tokenReset (h : ready s id 0x02 c) :
    exec (.tokenReset id) s = .next ((((s.beginCmd c).tokenSet c).finishCmd id 0).noteWaits c.slot) :=
  congrArg Host.Outcome.next (State.startOp_ready h _)

theorem Part.token_setToken_other (p : Part) {k j : Nat} (v : Token) (h : j ≠ k) : (p.setToken k v).token j = p.token j :=
  tabGet_set_other _ _ _ h

/-- The part of a slot after a TOKEN_RESET: the one token set. -/
theorem State.part_tokenReset (s : State) (c : Cmd) (id : Nat) :
    ((((s.beginCmd c).tokenSet c).finishCmd id 0).noteWaits c.slot).part c.slot =
      (s.part c.slot).setToken (recField c.record 0x68 2 % 4096) (resetToken c) := by
  rw [State.noteWaits_rest, State.finishCmd_rest]
  exact (State.part_setPart ..).trans (by rw [State.part_beginCmd])

theorem endedAs_noteWaits {st d : Nat} (h : endedAs s id st d) (slot : Nat) : endedAs (s.noteWaits slot) id st d := by
  obtain ⟨e, he, hp⟩ := h
  exact ⟨e, State.noteWaits_started he (by simp [hp]), hp⟩

end

/-- Settles O15: NOP and TOKEN_RESET start and end at once; the token set is what every wait on it is compared with. -/
theorem controlCommands : Obligations.ControlCommands := by
  unfold Obligations.ControlCommands
  refine fun s id c hclean => ⟨fun hready => ?nop, fun hready => ?reset⟩
  case nop =>
    have hfinish := State.finishCmd_clean 0 (ready_begun hready) hclean
    exact answers_of_exec (exec_nop hready) (hfinish ▸ ready_endCmd hready 0 0)
  case reset =>
    have hends : endedAs (((s.beginCmd c).tokenSet c).finishCmd id 0) id 0 0 :=
      State.finishCmd_ends (s := (s.beginCmd c).tokenSet c) (ready_begun hready) hclean rfl
    have hpart := State.part_tokenReset s c id
    refine answers_of_exec (exec_tokenReset hready) ⟨endedAs_noteWaits hends c.slot, ?_, ?_, fun k hk => ?_, fun d _ hslot j _ htok => ?_⟩
    · rw [State.noteWaits_rest, State.finishCmd_rest, State.tokenSet, State.setPart, State.beginCmd_rest]
    · rw [hpart]; exact Part.token_setToken ..
    · rw [hpart]; exact Part.token_setToken_other _ _ hk
    · rw [State.waitMet, hslot, hpart, htok, Part.token_setToken]; rfl

end Sys2Proof.Machine

/-!
# Long-operation handles

What a handle is left as when it returns to FREE or rests, whom that answers, and that the parts of a long operation's work leave
commands and handles alone (R206 to R214, R499, R522).
-/
namespace Sys2Proof.Machine

open Sys2Proof Sys2Proof.Safety

section
variable {s : State} {id slot h : Nat} {c : Cmd}

/-! ## A handle that returns to FREE (R207, R213, R214) -/

/-- A handle as it returns to FREE with a status. -/
def LongOp.freed (o : LongOp) (st : Nat) : LongOp :=
  { o with state := .free, lastStatus := if o.segment.isSome then st else o.lastStatus, segment := none, suspender := none, resumer := none,
           canceller := none, stopBy := 0, toRest := false }

/-- The commands that wait on a handle answered as it returns to FREE with a status. -/
def State.answerWaiting (s : State) (o : LongOp) (st : Nat) : State :=
  ((s.endSome o.suspender 0x0605 0).endSome o.resumer 0x0605 0).endSome o.canceller (if st = 0x0601 then 0 else 0x0605) 0

@[simp] theorem State.longop_freeHandle (s : State) (slot h st : Nat) :
    (s.freeHandle slot h st).longop slot h = (s.longop slot h).freed st := by
  rw [State.freeHandle, State.longop_event]
  exact (State.longop_endSome ..).trans ((State.longop_endSome ..).trans ((State.longop_endSome ..).trans (State.longop_setLongop ..)))

/-- The commands found once a handle is FREE are those found once the ones that waited on it are answered. -/
theorem State.freeHandle_cmds (s : State) (slot h st : Nat) :
    (s.freeHandle slot h st).cmds = ((s.setLongop slot h ((s.longop slot h).freed st)).answerWaiting (s.longop slot h) st).cmds := by
  rw [State.freeHandle, State.event_cmds]
  rfl

theorem endedAs_freeHandle {st d : Nat} (k : endedAs s id st d) (slot h x : Nat) : endedAs (s.freeHandle slot h x) id st d :=
  endedAs_congr (State.freeHandle_cmds s slot h x)
    (endedAs_endSome (endedAs_endSome (endedAs_endSome (s := s.setLongop slot h _) k _ _ _) _ _ _) _ _ _)

/-- A CANCEL that alone waits on a handle is answered OK when the work is released. -/
theorem State.freeHandle_answers (hsus : (s.longop slot h).suspender = none) (hres : (s.longop slot h).resumer = none)
    (hcan : (s.longop slot h).canceller = some id) (hcmd : s.cmd id = some c) (hrun : c.phase = .running) :
    endedAs (s.freeHandle slot h 0x0601) id 0 0 := by
  refine endedAs_congr (State.freeHandle_cmds s slot h 0x0601) ?_
  rw [State.answerWaiting, hsus, hres, hcan]
  exact State.endCmd_ends (s := s.setLongop slot h _) 0 0 hcmd (not_ended_of_running hrun)

/-- A segment that runs ends with a status, and its handle is FREE. -/
theorem State.endSegment_ends {st d : Nat} (hcmd : s.cmd id = some c) (hrun : c.phase = .running) :
    endedAs (s.endSegment slot h id st d) id st d ∧ ((s.endSegment slot h id st d).longop slot h).state = .free :=
  ⟨endedAs_freeHandle (State.endCmd_ends st d hcmd (not_ended_of_running hrun)) slot h st,
    by rw [State.endSegment, State.longop_freeHandle]; rfl⟩

/-! ## An operation that rests (R207, R213) -/

/-- A handle at rest. -/
def LongOp.rested (o : LongOp) : LongOp :=
  { o with state := .diapause, lastStatus := 0x0602, segment := none, suspender := none, stopBy := 0, toRest := false }

@[simp] theorem State.longop_toDiapause (s : State) (slot h : Nat) : (s.toDiapause slot h).longop slot h = (s.longop slot h).rested := by
  rw [State.toDiapause, State.longop_event]
  exact State.longop_setLongop ..

theorem State.toDiapause_cmds (s : State) (slot h : Nat) :
    (s.toDiapause slot h).cmds =
      ((s.endSome (s.longop slot h).segment 0x0602 (s.longop slot h).doneUnits).endSome (s.longop slot h).suspender 0 0).cmds := by
  rw [State.toDiapause, State.event_cmds]
  rfl

/-- An operation that no RESUME waits for rests. -/
theorem State.rest_quiet (hres : (s.longop slot h).resumer = none) :
    s.rest slot h = (s.toDiapause slot h).onHandle slot h fun o => { o with resumer := none, headers := [] } := by
  rw [State.rest, hres]
  rfl

theorem State.longop_rest (hres : (s.longop slot h).resumer = none) :
    (s.rest slot h).longop slot h = { (s.longop slot h).rested with resumer := none, headers := [] } := by
  rw [State.rest_quiet hres, State.longop_onHandle, State.longop_toDiapause]

theorem State.rest_cmds (hres : (s.longop slot h).resumer = none) :
    (s.rest slot h).cmds =
      ((s.endSome (s.longop slot h).segment 0x0602 (s.longop slot h).doneUnits).endSome (s.longop slot h).suspender 0 0).cmds := by
  rw [State.rest_quiet hres]
  exact State.toDiapause_cmds s slot h

/-- The segment of an operation that rests completes SUSPENDED. -/
theorem State.rest_segment (hres : (s.longop slot h).resumer = none) (hseg : (s.longop slot h).segment = some id)
    (hcmd : s.cmd id = some c) (hrun : c.phase = .running) : endedAs (s.rest slot h) id 0x0602 (s.longop slot h).doneUnits := by
  refine endedAs_congr (State.rest_cmds hres) (endedAs_endSome ?_ _ _ _)
  rw [hseg]
  exact State.endCmd_ends _ _ hcmd (not_ended_of_running hrun)

/-- The SUSPEND of an operation that rests completes OK. -/
theorem State.rest_suspender (hres : (s.longop slot h).resumer = none) (hsus : (s.longop slot h).suspender = some id)
    (hseg : (s.longop slot h).segment ≠ some id) (hcmd : s.cmd id = some c) (hrun : c.phase = .running) : endedAs (s.rest slot h) id 0 0 := by
  refine endedAs_congr (State.rest_cmds hres) ?_
  rw [hsus]
  exact State.endCmd_ends 0 0 ((State.endSome_other _ _ hseg).trans hcmd) (not_ended_of_running hrun)

/-! ## Bytes left undefined, and the chrysalis side made like the live one (R211, R499, R522) -/

@[simp] theorem State.fillFree_work (s : State) (cxl : Bool) (dpa n : Nat) :
    (s.fillFree cxl dpa n).cmds = s.cmds ∧ (s.fillFree cxl dpa n).parts = s.parts := by
  cases cxl <;> exact ⟨rfl, rfl⟩

theorem State.undefine_work (s : State) (slot : Nat) (l : List (Nat × Nat)) :
    (s.undefine slot l).cmds = s.cmds ∧ (s.undefine slot l).parts = s.parts := by
  fun_induction State.undefine s slot l with
  | case1 => exact ⟨rfl, rfl⟩
  | case2 s a n l ih =>
    rw [ih.1, ih.2]
    split <;> simp

/-- A destination that becomes undefined leaves commands and partitions alone. -/
@[simp] theorem State.ckptLost_work (s : State) (slot h : Nat) :
    (s.ckptLost slot h).cmds = s.cmds ∧ (s.ckptLost slot h).parts = s.parts := by
  refine Prod.mk.inj (State.foldl_keeps (fun s => (s.cmds, s.parts)) (fun x r => ?_) _ s)
  split
  · split <;> rfl
  · exact Prod.ext (State.undefine_work ..).1 (State.undefine_work ..).2

@[simp] theorem State.longop_ckptLost (s : State) (slot h i k : Nat) : (s.ckptLost slot h).longop i k = s.longop i k := by
  simp [State.longop, State.part]

theorem State.cmds_foldl {α : Type} {f : State → α → State} {l : List α} (h : ∀ x a, (f x a).cmds = x.cmds) :
    (l.foldl f s).cmds = s.cmds := State.foldl_keeps State.cmds h l s

@[simp] theorem State.setFrame_cmds (s : State) (cxl : Bool) (f : Nat) (v : Frame) : (s.setFrame cxl f v).cmds = s.cmds := by
  cases cxl <;> rfl

@[simp] theorem State.tlbDrop_cmds (s : State) (slot lo n : Nat) : (s.tlbDrop slot lo n).cmds = s.cmds := rfl

@[simp] theorem State.reseed_cmds (s : State) (slot : Nat) : (s.reseed slot).cmds = s.cmds := by
  rw [State.reseed, State.count_cmds]
  change (List.foldl _ (List.foldl _ s _) _).cmds = s.cmds
  rw [State.cmds_foldl fun _ _ => State.tlbDrop_cmds .., State.cmds_foldl fun _ _ => State.setFrame_cmds ..]

theorem Part.longops_setChrysalisImage (p : Part) (r : ImageRec) : (p.setChrysalisImage r).longops = p.longops := by
  unfold Part.setChrysalisImage
  split <;> rfl

theorem Part.longops_reseedRegions (l : List Nat) (p : Part) :
    (l.foldl (fun (q : Part) r => q.reseedRegion r) p).longops = p.longops := by
  induction l generalizing p with
  | nil => rfl
  | cons r l ih => exact ih (p.reseedRegion r)

@[simp] theorem State.longop_reseed (s : State) (slot h : Nat) : (s.reseed slot).longop slot h = s.longop slot h := by
  rw [State.reseed, State.longop_count, State.longop, State.part_setPart]
  refine congrArg (fun t => tabGet {} t h) ((Part.longops_setChrysalisImage ..).trans (Part.longops_reseedRegions ..))

/-- The segment of a torn operation ends, and its handle is FREE (R522, R593). -/
theorem State.tornEnd_ends (hcmd : s.cmd id = some c) (hrun : c.phase = .running) :
    endedAs (s.tornEnd slot h id) id (if (s.longop slot h).opcode = 0x61 then 0x0606 else 0x0506) (s.longop slot h).doneUnits ∧
      ((s.tornEnd slot h id).longop slot h).state = .free := by
  unfold State.tornEnd
  dsimp only
  split
  · exact State.endSegment_ends ((State.cmd_congr (State.ckptLost_work s slot h).1 id).trans hcmd) hrun
  · exact State.endSegment_ends hcmd hrun

/-! ## A segment that begins (R206, R207) -/

/-- A handle whose next segment has begun. -/
def LongOp.opened (o : LongOp) (id : Nat) : LongOp := { o with state := .running, segment := some id, segments := o.segments + 1 }

/-- A command begun as the next segment of its handle. -/
def State.beginSegment (s : State) (c : Cmd) (id : Nat) : State := (s.beginCmd c).openSegment c.slot c.handle id

@[simp] theorem State.longop_beginSegment (s : State) (c : Cmd) (id : Nat) :
    (s.beginSegment c id).longop c.slot c.handle = (s.longop c.slot c.handle).opened id := by
  rw [State.beginSegment, State.openSegment, State.longop_onHandle, State.longop_beginCmd]
  rfl

theorem ready_beginSegment {op : Nat} (k : ready s id op c) :
    (s.beginSegment c id).cmd id = some (c.begun s.time (s.part c.slot).epoch (s.tablesOf c.slot)) := (ready_begun k)

theorem State.beginSegment_memory (s : State) (c : Cmd) (id : Nat) : sameMemory s (s.beginSegment c id) :=
  have k : sameMemory s (s.beginCmd c) := onlyWork_memory (State.beginCmd_onlyWork s c)
  k

/-- The part of a slot whose command begins a segment: its handle alone changed. -/
theorem State.part_beginSegment (s : State) (c : Cmd) (id : Nat) :
    (s.beginSegment c id).part c.slot = (s.part c.slot).setLongop c.handle ((s.longop c.slot c.handle).opened id) := by
  refine (State.part_setPart ..).trans ?_
  rw [State.part_beginCmd, State.longop_beginCmd]
  rfl

theorem State.setWhole_rest (s : State) (id n : Nat) : s.setWhole id n = { s with cmds := (s.setWhole id n).cmds } := by
  unfold State.setWhole
  split <;> rfl

@[simp] theorem State.longop_setWhole (s : State) (id n i k : Nat) : (s.setWhole id n).longop i k = s.longop i k := by
  rw [State.setWhole_rest]; rfl

theorem State.setWhole_cmd (n : Nat) (hcmd : s.cmd id = some c) : (s.setWhole id n).cmd id = some { c with whole := n } := by
  have e := State.cmd_id hcmd
  subst e
  rw [State.setWhole, hcmd]
  exact State.cmd_setCmd (c := { c with whole := n }) hcmd

theorem State.setWhole_running (n : Nat) (hcmd : s.cmd id = some c) (hrun : c.phase = .running) : running (s.setWhole id n) id :=
  ⟨_, State.setWhole_cmd n hcmd, hrun⟩

theorem State.setWhole_memory (s : State) (id n : Nat) : sameMemory s (s.setWhole id n) := by
  rw [State.setWhole_rest]
  exact ⟨fun _ => rfl, fun _ => rfl, fun _ => rfl⟩

theorem sameMemory_trans {t u : State} (k : sameMemory s t) (l : sameMemory t u) : sameMemory s u :=
  ⟨fun a => (l.1 a).trans (k.1 a), fun a => (l.2.1 a).trans (k.2.1 a), fun a => (l.2.2 a).trans (k.2.2 a)⟩

end

end Sys2Proof.Machine

/-!
# How long operations start

ZERO, CKPT_WRITE, SCRUB and WEIGHT_LOAD up to their first unit (R206, R207, R521, R583, R592, R685).
-/
namespace Sys2Proof.Machine

open Sys2Proof Sys2Proof.Safety

section
variable {s s1 s2 s3 : State} {id : Nat} {c d : Cmd}

/-! ## ZERO -/

theorem exec_zero (h : ready s id 0x64 c) : exec (.zero id) s = .next ((s.beginSegment c id).zeroBegin c c.record) :=
  congrArg Host.Outcome.next (State.startOp_ready h _)

theorem State.zeroBegin_memory (s : State) (c : Cmd) (r : Rec) : sameMemory s (s.zeroBegin c r) := by
  rw [State.zeroBegin, State.setWhole_rest]
  exact ⟨fun _ => rfl, fun _ => rfl, fun _ => rfl⟩

theorem State.longop_zeroBegin (s : State) (c : Cmd) (r : Rec) :
    (s.zeroBegin c r).longop c.slot c.handle =
      { s.longop c.slot c.handle with started := true, totalUnits := unitsOf (zeroLength r) } := by
  rw [State.zeroBegin, State.longop_setWhole, State.longop_onHandle]

/-! ## CKPT_WRITE -/

theorem exec_ckptWrite (h : ready s id 0x61 c) :
    exec (.ckptWrite id) s = .next (if ((s.beginSegment c id).longop c.slot c.handle).torn then
      (s.beginSegment c id).tornEnd c.slot c.handle id else (s.beginSegment c id).ckptBegin c c.record) :=
  congrArg Host.Outcome.next (State.startOp_ready h _)

/-- The ranges of a CKPT_WRITE set up as the operation of its handle. -/
def State.ckptSet (s : State) (c : Cmd) (rs : List CkptRange) : State :=
  ({ s with ckpts := tabSet [] s.ckpts (handleKey c.slot c.handle) rs } : State).onHandle c.slot c.handle fun o =>
    { o with started := true, totalUnits := rs.foldl (fun m x => m + unitsOf x.length) 0 }

/-- A CKPT_WRITE whose COUNT, records and ranges pass their checks is set up. -/
theorem State.ckptBegin_ok {n : Nat} {bs : List Byte} (hn : n = ckptCount c.record) (hlo : 0 < n) (hhi : n ≤ 4096)
    (hread : s.descRead c.id c.slot c.payload (32 * n) = (s1, some bs)) (hgood : ∀ i, i < n → (s1.part c.slot).ckptBad bs i = false) :
    s.ckptBegin c c.record = s1.ckptSet c ((List.range n).map (ckptRange bs)) := by
  have hread' : s.descRead c.id c.slot (recPayload c.record) (32 * n) = (s1, some bs) := hread
  have hfind : (List.range n).find? (fun i => (s1.part c.slot).ckptBad bs i) = none :=
    List.find?_eq_none.mpr fun i hi => by simp [hgood i (List.mem_range.mp hi)]
  have hcount : ¬ (n = 0 ∨ 4096 < n) := by omega
  simp only [State.ckptBegin, ← hn, hcount, if_false, hread', hfind]
  rfl

/-! ## SCRUB -/

theorem exec_scrub (h : ready s id 0x63 c) : exec (.scrub id) s = .next ((s.beginSegment c id).scrubStart c) :=
  congrArg Host.Outcome.next (State.startOp_ready h _)

/-- The pass of a SCRUB set up as the operation of its handle. -/
def State.scrubSet (s : State) (c : Cmd) (es : List LoadEntry) : State :=
  (({ s with loads := tabSet [] s.loads (handleKey c.slot c.handle) es } : State).onHandle c.slot c.handle fun o =>
    { o with started := true, totalUnits := es.foldl (fun n e => n + unitsOf e.length) 0 }).setWhole c.id
    (es.foldl (fun n e => n + e.length) 0)

theorem State.scrubSet_memory (s : State) (c : Cmd) (es : List LoadEntry) : sameMemory s (s.scrubSet c es) := by
  rw [State.scrubSet, State.setWhole_rest]
  exact ⟨fun _ => rfl, fun _ => rfl, fun _ => rfl⟩

/-- What a SCRUB set up leaves: the command that runs on, the handle, and the entries of its pass. -/
theorem State.scrubSet_sets (es : List LoadEntry) (hcmd : s.cmd c.id = some d) (hrun : d.phase = .running) (hclean : clean d) :
    (∃ e, (s.scrubSet c es).cmd c.id = some e ∧ e.phase = .running ∧ clean e) ∧
    ((s.scrubSet c es).longop c.slot c.handle).state = (s.longop c.slot c.handle).state ∧
    ((s.scrubSet c es).longop c.slot c.handle).segments = (s.longop c.slot c.handle).segments ∧
    tabGet [] (s.scrubSet c es).loads (handleKey c.slot c.handle) = es := by
  refine ⟨⟨_, State.setWhole_cmd (s := State.onHandle ..) _ hcmd, hrun, hclean⟩, ?_, ?_, ?_⟩
  · rw [State.scrubSet, State.longop_setWhole, State.longop_onHandle]; rfl
  · rw [State.scrubSet, State.longop_setWhole, State.longop_onHandle]; rfl
  · rw [State.scrubSet, State.setWhole_rest]; exact tabGet_set_same ..

/-- A SCRUB sets its pass up; one that finds no VERIFIED shard ends at once. -/
theorem State.scrubStart_eq (s : State) (c : Cmd) :
    s.scrubStart c = if (s.part c.slot).scrubList.isEmpty then
      ((s.scrubSet c (s.part c.slot).scrubList).passActs c.slot [] (some c.handle)).finishCmd c.id 0
      else s.scrubSet c (s.part c.slot).scrubList := rfl

theorem State.scrubList_beginSegment (s : State) (c : Cmd) (id : Nat) :
    ((s.beginSegment c id).part c.slot).scrubList = (s.part c.slot).scrubList := by
  rw [State.part_beginSegment]
  rfl

/-- A clean pass changes no command. -/
theorem State.passActs_clean_cmds (s : State) (slot : Nat) (except : Option Nat) : (s.passActs slot [] except).cmds = s.cmds := by
  unfold State.passActs
  dsimp only
  split
  · rw [State.firm, State.event_cmds]
    exact (State.reseed_cmds ..).trans (State.count_cmds ..)
  · exact State.count_cmds ..

/-! ## WEIGHT_LOAD -/

theorem exec_weightLoad (headers : List Byte) (h : ready s id 0x60 c) :
    exec (.weightLoad id headers) s = .next ((s.beginSegment c id).loadStart c c.payload headers) :=
  congrArg Host.Outcome.next (State.startOp_ready h _)

/-- The entries of a load, from its descriptor and its headers. -/
def loadEntries (bs : List Byte) (hs : List (List Byte)) : List LoadEntry :=
  hs.zipIdx.map fun x =>
    { src := (field bs (64 + 64 * x.2) 8 + 256) % 2 ^ 64, host := bitAt (field bs (64 + 64 * x.2 + 8) 1) 0,
      shard := field bs (64 + 64 * x.2 + 0x0C) 4, root := BitVec.ofNat 256 (field bs (64 + 64 * x.2 + 0x10) 32),
      offset := field x.1 0x28 8, length := field x.1 0x30 8 }

theorem loadEntries_shards (bs : List Byte) (hs : List (List Byte)) :
    (loadEntries bs hs).map (·.shard) = (List.range hs.length).map fun i => field bs (64 + 64 * i + 0x0C) 4 := by
  rw [List.range_eq_range', ← List.zipIdx_map_snd, List.map_map, loadEntries, List.map_map]
  rfl

/-- The record of the image a load builds: the chrysalis record of the same image, or a new one. -/
def loadImage (p : Part) (bs : List Byte) : ImageRec :=
  if p.chrysalisImage.imageId.toNat = field bs 0 16 then p.chrysalisImage else
    { imageId := BitVec.ofNat 128 (field bs 0 16), base := field bs 0x10 8, bytes := field bs 0x18 8, count := field bs 0x20 4 }

theorem natOfBytes_lt (l : List Byte) : natOfBytes l < 256 ^ l.length := by
  induction l with
  | nil => simp [natOfBytes]
  | cons b l ih =>
    have hb := b.isLt
    rw [natOfBytes, List.length_cons, pow_succ]
    omega

theorem field_lt (bs : List Byte) (off len : Nat) : field bs off len < 256 ^ len :=
  (natOfBytes_lt _).trans_le (Nat.pow_le_pow_right (by decide) (List.length_take_le ..))

theorem loadImage_imageId (p : Part) (bs : List Byte) : (loadImage p bs).imageId.toNat = field bs 0 16 := by
  unfold loadImage
  split
  · assumption
  · rw [BitVec.toNat_ofNat]
    exact Nat.mod_eq_of_lt (field_lt bs 0 16)

theorem Part.chrysalisImage_set (p : Part) (r : ImageRec) : (p.setChrysalisImage r).chrysalisImage = r := by
  unfold Part.setChrysalisImage Part.chrysalisImage
  split <;> simp [*]

theorem State.loadBegin_eq (s : State) (c : Cmd) (bs : List Byte) (hs : List (List Byte)) :
    s.loadBegin c bs hs =
      (({ s.setPart c.slot ((s.part c.slot).setChrysalisImage (loadImage (s.part c.slot) bs)) with
          loads := tabSet [] s.loads (handleKey c.slot c.handle) (loadEntries bs hs) } : State).onHandle c.slot c.handle fun o =>
        { o with started := true, totalUnits := (loadEntries bs hs).foldl (fun n e => n + unitsOf e.length) 0 }).setWhole c.id
        ((loadEntries bs hs).foldl (fun n e => n + e.length) 0) := rfl

/-- What a load set up leaves: a handle that has started, the record of its image, and its entries. -/
theorem State.loadBegin_sets (s : State) (c : Cmd) (bs : List Byte) (hs : List (List Byte)) :
    ((s.loadBegin c bs hs).longop c.slot c.handle).started = true ∧
    ((s.loadBegin c bs hs).part c.slot).chrysalisImage.imageId.toNat = field bs 0 16 ∧
    tabGet [] (s.loadBegin c bs hs).loads (handleKey c.slot c.handle) = loadEntries bs hs := by
  rw [State.loadBegin_eq]
  refine ⟨by rw [State.longop_setWhole, State.longop_onHandle], ?_, ?_⟩
  · rw [State.setWhole_rest]
    refine (congrArg (fun p : Part => p.chrysalisImage.imageId.toNat) (State.part_setPart ..)).trans ?_
    refine (congrArg (fun p : Part => p.chrysalisImage.imageId.toNat) (State.part_setPart ..)).trans ?_
    rw [Part.chrysalisImage_set]
    exact loadImage_imageId ..
  · rw [State.setWhole_rest]
    exact tabGet_set_same ..

/-- A load whose descriptor, partition and headers pass their checks is set up. -/
theorem State.loadStart_ok {d es headers : List Byte} {hs : List (List Byte)} (halign : c.payload % 64 = 0)
    (hdesc : s.descRead c.id c.slot c.payload 64 = (s1, some d))
    (hentries : s1.descRead c.id c.slot (c.payload + 64) (64 * loadCount d) = (s2, some es)) (hgood : loadBad (d ++ es) = none)
    (hstatus : (s2.part c.slot).loadStatus (d ++ es) = none)
    (hread : s2.loadHeaders c (d ++ es) (List.range (loadCount (d ++ es))) headers [] = (s3, some hs))
    (hheaders : headersBad (s3.part c.slot) (d ++ es) (hs.zipIdx.map fun x => (x.2, x.1)) [] = none) :
    s.loadStart c c.payload headers = s3.loadBegin c (d ++ es) hs := by
  simp only [State.loadStart, halign, hdesc, hentries, hgood, hstatus, hread, hheaders, ne_eq, not_true_eq_false, if_false]

end

/-- Settles O22: each start through what it sets up, and the two that end as they begin. -/
theorem longOpStarts : Obligations.LongOpStarts := by
  unfold Obligations.LongOpStarts
  intro s s0 id c hclean hs0
  refine ⟨fun hready => ?zero, fun s1 bs n hready htorn hn hlo hhi hread hgood => ?ckpt, fun hready hop htorn => ?torn,
    fun hready hlist => ?scrub, fun hready hlist => ?scrubNone, fun headers hready halign => ?misaligned,
    fun s1 s2 s3 d es headers hs hready halign hdesc hentries hgood hstatus hheads hheaders => ?load⟩
  all_goals
    obtain rfl := (ready_id hready)
    replace hs0 : s0 = s.beginSegment c c.id := hs0
    subst hs0
  case zero =>
    refine answers_of_exec (exec_zero hready) ⟨?_, sameMemory_trans (s.beginSegment_memory c c.id) (State.zeroBegin_memory ..), ?_⟩
    · exact State.setWhole_running (s := State.onHandle ..) _ (ready_beginSegment hready) rfl
    · rw [State.longop_zeroBegin, State.longop_beginSegment]; rfl
  case ckpt =>
    refine answers_of_exec (exec_ckptWrite hready) ?_
    rw [State.longop_beginSegment, LongOp.opened, htorn, if_neg (by simp), State.ckptBegin_ok hn hlo hhi hread hgood]
    refine ⟨tabGet_set_same .., ?_⟩
    rw [State.ckptSet, State.longop_onHandle, List.foldl_map, List.foldl_map]
    rfl
  case torn =>
    refine answers_of_exec (exec_ckptWrite hready) ?_
    have hends := State.tornEnd_ends (slot := c.slot) (h := c.handle) (ready_beginSegment hready) rfl
    rw [State.longop_beginSegment] at hends ⊢
    rw [LongOp.opened, hop] at hends
    rwa [LongOp.opened, htorn, if_pos rfl]
  case scrub =>
    refine answers_of_exec (exec_scrub hready) ?_
    have hsome : (s.part c.slot).scrubList.isEmpty = false := by simpa using hlist
    obtain ⟨⟨e, he, hrun, -⟩, hstate, hsegments, hloads⟩ :=
      State.scrubSet_sets (s.part c.slot).scrubList (ready_beginSegment hready) rfl hclean
    rw [State.longop_beginSegment] at hstate hsegments
    rw [State.scrubStart_eq, State.scrubList_beginSegment, hsome, if_neg (by simp)]
    exact ⟨⟨e, he, hrun⟩, sameMemory_trans (s.beginSegment_memory c c.id) (State.scrubSet_memory ..), hloads, hstate, hsegments⟩
  case scrubNone =>
    refine answers_of_exec (exec_scrub hready) ?_
    obtain ⟨⟨e, he, hrun, heclean⟩, -⟩ := State.scrubSet_sets (c := c) [] (ready_beginSegment hready) rfl hclean
    rw [State.scrubStart_eq, State.scrubList_beginSegment, hlist, if_pos List.isEmpty_nil]
    exact State.finishCmd_ends ((State.cmd_congr (State.passActs_clean_cmds ..) _).trans he) heclean hrun
  case misaligned =>
    refine answers_of_exec (exec_weightLoad headers hready) ?_
    rw [State.loadStart, if_pos halign]
    refine ⟨State.endCmd_ends _ _ (ready_beginSegment hready) (not_ended_of_running rfl), sameMemory_trans (s.beginSegment_memory c c.id) ?_⟩
    rw [State.endCmd_rest]
    exact ⟨fun _ => rfl, fun _ => rfl, fun _ => rfl⟩
  case load =>
    refine answers_of_exec (exec_weightLoad headers hready) ?_
    rw [State.loadStart_ok halign hdesc hentries hgood hstatus hheads hheaders]
    obtain ⟨hstarted, himage, hloads⟩ := s3.loadBegin_sets c (d ++ es) hs
    exact ⟨hstarted, himage, by rw [hloads, loadEntries_shards]⟩

end Sys2Proof.Machine

/-!
# The units of a long operation, and its control

What a unit that is done leads to, and what SUSPEND, RESUME and CANCEL do by the state they find (R206 to R211, R214, R215, R522, R525,
R593).
-/
namespace Sys2Proof.Machine

open Sys2Proof Sys2Proof.Safety

section
variable {s s1 : State} {id slot h n : Nat} {c d : Cmd} {i : Fin 16} {hd : Fin 64} {host : Mem}

/-! ## A unit done -/

/-- A unit of n bytes counted, in the handle and in the command of its segment. -/
def State.unitCounted (s : State) (slot h n : Nat) (d : Cmd) : State :=
  (s.onHandle slot h fun o => { o with doneUnits := o.doneUnits + 1 }).setCmd { d with work := d.work + n }

theorem State.longop_unitCounted (s : State) (slot h n : Nat) (d : Cmd) :
    (s.unitCounted slot h n d).longop slot h = { s.longop slot h with doneUnits := (s.longop slot h).doneUnits + 1 } := by
  rw [State.unitCounted, State.longop_setCmd, State.longop_onHandle]

theorem State.cmd_unitCounted (slot h n : Nat) (hcmd : s.cmd id = some d) :
    (s.unitCounted slot h n d).cmd id = some { d with work := d.work + n } := by
  have e := State.cmd_id hcmd
  subst e
  exact State.cmd_setCmd (s := s.onHandle slot h _) (c := { d with work := d.work + n }) hcmd

/-- A unit that is ready and done, read now or in this device µs already, is counted; what follows depends on the handle. -/
theorem exec_longopUnitDone (hseg : s.segmentCmd i.val hd.val = some c) (hready : s.unitReady c hd.val = true)
    (hstep : (if (s.longop i.val hd.val).preread = some s.time then (s, true)
      else s.unitStep c hd.val (s.unitBytes i.val hd.val) host) = (s1, true)) (hcmd : s1.cmd c.id = some d) :
    exec (.longopUnitDone i hd host) s =
      .next ((s1.unitCounted i.val hd.val (s.unitBytes i.val hd.val) d).afterUnit i.val hd.val c.id) := by
  change execLongopUnitDone i hd host s = _
  simp only [execLongopUnitDone, hseg, hready, hstep, State.cmd_onHandle, hcmd, Bool.not_true, Bool.false_eq_true, if_false]
  rfl

/-- A running operation with units left to do goes on. -/
theorem State.afterUnit_goes (hst : (s.longop slot h).state = .running) (htorn : (s.longop slot h).torn = false)
    (hmore : (s.longop slot h).doneUnits < (s.longop slot h).totalUnits) : s.afterUnit slot h id = s := by
  simp [State.afterUnit, hst, htorn, Nat.not_le.mpr hmore]

/-- A suspending operation with units left to do rests in a later device µs than that of its SUSPEND. -/
theorem State.afterUnit_rests (hst : (s.longop slot h).state = .suspending) (htorn : (s.longop slot h).torn = false)
    (hmore : (s.longop slot h).doneUnits < (s.longop slot h).totalUnits) (hstop : (s.longop slot h).stopBy ≠ s.time + 100) :
    s.afterUnit slot h id = s.rest slot h := by
  simp [State.afterUnit, hst, htorn, Nat.not_le.mpr hmore, hstop]

/-- After the last unit the segment completes, even of an operation torn in this device µs once its bytes were read (R525). -/
theorem State.afterUnit_last (hst : (s.longop slot h).state = .running)
    (hwhole : (s.longop slot h).torn = false ∨ (s.longop slot h).preread = some s.time)
    (hlast : (s.longop slot h).totalUnits ≤ (s.longop slot h).doneUnits) : s.afterUnit slot h id = s.lastUnit slot h id := by
  have htorn : ((s.longop slot h).torn && (s.longop slot h).preread != some s.time) = false := by
    rcases hwhole with e | e <;> simp [e]
  simp [State.afterUnit, hst, htorn, hlast]

/-- A clean command that ended OK completes with status OK. -/
theorem State.endedWith_clean (hcmd : s.cmd id = some c) (hp : c.phase = .ended 0 0) (hclean : clean c) : s.endedWith id = 0 := by
  obtain ⟨hpoison, -⟩ := hclean
  simp [State.endedWith, hcmd, hp, State.finalStop, hpoison, Part.shardStop]

/-- The last unit of a ZERO or a CKPT_WRITE that met no poison: the segment ends OK and its handle is FREE with that status. -/
theorem State.lastUnit_ends (hload : (s.longop slot h).opcode ≠ 0x60) (hscrub : (s.longop slot h).opcode ≠ 0x63)
    (hcmd : s.cmd id = some c) (hrun : c.phase = .running) (hclean : clean c) :
    endedAs (s.lastUnit slot h id) id 0 0 ∧ (s.lastUnit slot h id).longop slot h = (s.longop slot h).freed 0 := by
  have hends := State.endCmd_cmd 0 0 hcmd (not_ended_of_running hrun)
  have hlast : s.lastUnit slot h id = (s.endCmd id 0 0).freeHandle slot h 0 := by
    simp only [State.lastUnit, hload, hscrub, if_false, if_true, State.finishCmd_clean 0 hcmd hclean, State.endedWith_clean hends rfl hclean]
  rw [hlast, State.longop_freeHandle]
  exact ⟨endedAs_freeHandle ⟨_, hends, rfl⟩ slot h 0,
    congrArg (LongOp.freed · 0) (State.longop_endSome s (some id) 0 0 slot h)⟩

end

/-- Settles O23: the unit counted, then what the handle's state makes follow. -/
theorem longOpUnits : Obligations.LongOpUnits := by
  unfold Obligations.LongOpUnits
  refine ⟨fun s i h host c o hseg hready ho hpre hop hst _ hlast hcmd hclean hrun => ?preread,
    fun s s1 i h host c d o hseg hready hpre hstep hcmd hrun ho htorn hsegment => ?units⟩
  case preread =>
    subst ho
    refine answers_of_exec (exec_longopUnitDone hseg hready (if_pos hpre) hcmd) ?_
    have hcounted := s.longop_unitCounted i.val h.val (s.unitBytes i.val h.val) c
    rw [State.afterUnit_last (by rw [hcounted]; exact hst) (.inr (by rw [hcounted]; exact hpre)) (by rw [hcounted]; exact hlast)]
    obtain ⟨hends, hfree⟩ := State.lastUnit_ends (by rw [hcounted]; simp [hop]) (by rw [hcounted]; simp [hop])
      (State.cmd_unitCounted i.val h.val (s.unitBytes i.val h.val) hcmd) hrun hclean
    exact ⟨hends, by rw [hfree]; rfl⟩
  case units =>
    subst ho
    have hexec := exec_longopUnitDone (host := host) hseg hready ((if_neg hpre).trans hstep) hcmd
    have hcounted := s1.longop_unitCounted i.val h.val (s.unitBytes i.val h.val) d
    have hfound := State.cmd_unitCounted i.val h.val (s.unitBytes i.val h.val) hcmd
    refine ⟨fun hst hmore => ?goes, fun hst hmore hres hstop => ?rests, fun hst hop hlast hclean => ?last⟩
    case goes =>
      refine answers_of_exec hexec ?_
      rw [State.afterUnit_goes (by rw [hcounted]; exact hst) (by rw [hcounted]; exact htorn) (by rw [hcounted]; exact hmore)]
      exact ⟨hcounted, hfound, rfl, rfl, rfl⟩
    case rests =>
      refine answers_of_exec hexec ?_
      rw [State.afterUnit_rests (by rw [hcounted]; exact hst) (by rw [hcounted]; exact htorn) (by rw [hcounted]; exact hmore)
        (by rw [hcounted]; exact hstop)]
      have hquiet : ((s1.unitCounted i.val h.val (s.unitBytes i.val h.val) d).longop i.val h.val).resumer = none := by
        rw [hcounted]; exact hres
      have hends := State.rest_segment hquiet (by rw [hcounted]; exact hsegment) hfound hrun
      rw [State.longop_rest hquiet]
      rw [hcounted] at hends ⊢
      exact ⟨rfl, rfl, rfl, hends⟩
    case last =>
      refine answers_of_exec hexec ?_
      rw [State.afterUnit_last (by rw [hcounted]; exact hst) (.inl (by rw [hcounted]; exact htorn)) (by rw [hcounted]; exact hlast)]
      obtain ⟨hends, hfree⟩ := State.lastUnit_ends (by rw [hcounted]; simp [hop]) (by rw [hcounted]; simp [hop]) hfound hrun hclean
      rw [hfree, hcounted]
      exact ⟨rfl, by simp [LongOp.freed, hsegment], hends⟩

section
variable {s s1 : State} {id slot h : Nat} {c : Cmd} {host : Mem}

/-! ## SUSPEND (R207 to R209) -/

theorem exec_longopSuspend_start (host : Mem) (k : ready s id 0x70 c) :
    exec (.longopSuspend id host) s = .next ((s.beginCmd c).suspendStart c) := by
  change execLongopSuspend id host s = _
  simp only [execLongopSuspend, (ready_runningOp k), State.startOp_ready k]

/-- The second row of a SUSPEND brings the operation to rest. -/
theorem exec_longopSuspend_end (k : s.runningOp id 0x70 = some c) (hst : (s.longop c.slot c.handle).state = .suspending)
    (hsus : (s.longop c.slot c.handle).suspender = some id) (hstop : (s.longop c.slot c.handle).stopBy < s.time + 100)
    (hseg : (s.segmentCmd c.slot c.handle).isSome = true) :
    exec (.longopSuspend id host) s = .next (s.suspendEnd c.slot c.handle host) := by
  change execLongopSuspend id host s = _
  simp only [execLongopSuspend, k]
  exact when_of_true (by simp [hst, hsus, hstop, hseg]) _

section
variable (hcan : (s.longop c.slot c.handle).cancelled ≠ some s.time)
include hcan

theorem State.suspendStart_running (hst : (s.longop c.slot c.handle).state = .running) (hop : (s.longop c.slot c.handle).opcode ≠ 0x62) :
    s.suspendStart c = s.onHandle c.slot c.handle fun o =>
      { o with state := .suspending, suspender := some c.id, stopBy := s.time + 100 } := by
  simp [State.suspendStart, hcan, hst, hop]

theorem State.suspendStart_waiting (hst : (s.longop c.slot c.handle).state = .waiting) (hop : (s.longop c.slot c.handle).opcode ≠ 0x62)
    (hrest : (s.longop c.slot c.handle).toRest = false) :
    s.suspendStart c = s.onHandle c.slot c.handle fun o => { o with suspender := some c.id, toRest := true, stopBy := s.time + 100 } := by
  simp [State.suspendStart, hcan, hst, hop, hrest]

/-- A molt is not suspended. -/
theorem State.suspendStart_molt (hst : (s.longop c.slot c.handle).state = .running ∨ (s.longop c.slot c.handle).state = .waiting)
    (hop : (s.longop c.slot c.handle).opcode = 0x62) : s.suspendStart c = s.endCmd c.id 0x0604 c.handle := by
  rcases hst with hst | hst <;> simp [State.suspendStart, hcan, hst, hop]

/-- An operation that neither runs nor waits is not suspended. -/
theorem State.suspendStart_bad (hrun : (s.longop c.slot c.handle).state ≠ .running) (hwait : (s.longop c.slot c.handle).state ≠ .waiting) :
    s.suspendStart c = s.endCmd c.id 0x0605 (s.longop c.slot c.handle).state.number := by
  rw [State.suspendStart, if_neg hcan]
  split
  · exact absurd ‹_› hwait
  · exact absurd ‹_› hrun
  · rfl

end

/-- A unit left undone, and the operation rests unless its segment has ended meanwhile. -/
theorem State.suspendEnd_undone (hrest : (s.longop slot h).toRest = false)
    (hseg : ((s.unitUndone slot h host).segmentCmd slot h).isSome = true) :
    s.suspendEnd slot h host = (s.unitUndone slot h host).rest slot h := by
  simp [State.suspendEnd, hrest, hseg]

/-! ## RESUME (R207, R209, R210) -/

/-- What a RESUME that starts does, by the state of its handle. -/
def State.resumeStart (s : State) (c : Cmd) (headers : List Byte) : State :=
  match (s.longop c.slot c.handle).state with
  | .diapause => s.resumeNow c.slot c.handle c.id headers
  | .suspending => s.resumeWait c (s.longop c.slot c.handle) headers
  | .waiting => if (s.longop c.slot c.handle).toRest then s.resumeWait c (s.longop c.slot c.handle) headers else s.endCmd c.id 0x0605 1
  | st => s.endCmd c.id 0x0605 st.number

theorem exec_longopResume (headers : List Byte) (k : ready s id 0x71 c) :
    exec (.longopResume id headers) s = .next ((s.beginCmd c).resumeStart c headers) := by
  obtain rfl := (ready_id k)
  exact congrArg Host.Outcome.next (State.startOp_ready k _)

/-- The next segment of an operation that has started goes on with the bytes still to do. -/
theorem State.resumeNow_started {headers : List Byte} (hcmd : s.cmd id = some c) (htorn : (s.longop slot h).torn = false)
    (hstarted : (s.longop slot h).started = true) :
    s.resumeNow slot h id headers = (s.openSegment slot h id).setWhole id ((s.openSegment slot h id).restBytes slot h) := by
  have hcmd' : (s.openSegment slot h id).cmd id = some c := hcmd
  have hopen : (s.openSegment slot h id).longop slot h = (s.longop slot h).opened id := State.longop_onHandle ..
  simp [State.resumeNow, hcmd', hopen, LongOp.opened, htorn, hstarted]

theorem State.resumeNow_torn {headers : List Byte} (hcmd : s.cmd id = some c) (htorn : (s.longop slot h).torn = true) :
    s.resumeNow slot h id headers = (s.openSegment slot h id).tornEnd slot h id := by
  have hcmd' : (s.openSegment slot h id).cmd id = some c := hcmd
  have hopen : (s.openSegment slot h id).longop slot h = (s.longop slot h).opened id := State.longop_onHandle ..
  simp [State.resumeNow, hcmd', hopen, LongOp.opened, htorn]

/-- A RESUME of an operation that neither rests nor comes to rest is turned away. -/
theorem State.resumeStart_bad {headers : List Byte} (hrest : (s.longop c.slot c.handle).state ≠ .diapause)
    (hsus : (s.longop c.slot c.handle).state ≠ .suspending)
    (hwait : (s.longop c.slot c.handle).state = .waiting → (s.longop c.slot c.handle).toRest = false) :
    s.resumeStart c headers = s.endCmd c.id 0x0605 (s.longop c.slot c.handle).state.number := by
  unfold State.resumeStart
  split
  · exact absurd ‹_› hrest
  · exact absurd ‹_› hsus
  · rename_i hst
    rw [hwait hst, hst]
    rfl
  · rfl

/-! ## CANCEL (R207, R208, R211) -/

theorem exec_longopCancel_start (host : Mem) (k : ready s id 0x72 c) :
    exec (.longopCancel id host) s = .next ((s.beginCmd c).cancelStart c) := by
  change execLongopCancel id host s = _
  simp only [execLongopCancel, (ready_runningOp k), State.startOp_ready k]

/-- The second row of a CANCEL leaves the unit undone and releases the work. -/
theorem exec_longopCancel_end (k : s.runningOp id 0x72 = some c) (hst : (s.longop c.slot c.handle).state = .cancelling)
    (hcan : (s.longop c.slot c.handle).canceller = some id) :
    exec (.longopCancel id host) s = .next ((s.unitUndone c.slot c.handle host).release c.slot c.handle) := by
  change execLongopCancel id host s = _
  simp only [execLongopCancel, k]
  exact when_of_true (by simp [hst, hcan]) _

/-- A handle that a CANCEL has taken. -/
def LongOp.taken (o : LongOp) (id now : Nat) : LongOp :=
  { o with state := .cancelling, canceller := some id, suspender := none, resumer := none, stopBy := now + 100, toRest := false,
           cancelled := some now }

/-- A CANCEL takes a handle on which no SUSPEND or RESUME waits. -/
def State.cancelTakes (s : State) (c : Cmd) : State :=
  (s.suspendYields c.slot c.handle).onHandle c.slot c.handle fun o => o.taken c.id s.time

@[simp] theorem State.longop_cancelTakes (s : State) (c : Cmd) :
    (s.cancelTakes c).longop c.slot c.handle = (s.longop c.slot c.handle).taken c.id s.time := State.longop_onHandle ..

/-- A command that runs is not one that a CANCEL finds turned away. -/
theorem State.cancelTakes_cmd {e : Cmd} (hcmd : s.cmd id = some e) (hrun : e.phase = .running) (c : Cmd) :
    (s.cancelTakes c).cmd id = some e := by
  have hid : ∀ d : Cmd, (if d.opcode = 0x70 ∧ d.slot = c.slot ∧ d.handle = c.handle ∧ d.started = s.time ∧ d.phase.turnedAway then
      { d with phase := .ended 0x0605 5 } else d).id = d.id := fun d => by split <;> rfl
  refine (find_map s.cmds id _ hid).trans ?_
  rw [State.cmd] at hcmd
  simp [hcmd, hrun, Phase.turnedAway]

section
variable (hsus : (s.longop c.slot c.handle).suspender = none) (hres : (s.longop c.slot c.handle).resumer = none)
include hsus hres

/-- An operation with no unit at work is released at once. -/
theorem State.cancelStart_releases (hst : (s.longop c.slot c.handle).state = .diapause ∨ (s.longop c.slot c.handle).state = .waiting) :
    s.cancelStart c = (s.cancelTakes c).release c.slot c.handle := by
  rcases hst with hst | hst <;> simp only [State.cancelStart, hsus, hres, hst, State.endSome_none] <;> rfl

/-- A running operation other than a molt is taken. -/
theorem State.cancelStart_takes (hst : (s.longop c.slot c.handle).state = .running) (hop : (s.longop c.slot c.handle).opcode ≠ 0x62)
    (hmolt : (s.longop c.slot c.handle).segment.bind s.molt = none) : s.cancelStart c = s.cancelTakes c := by
  simp only [State.cancelStart, hsus, hres, hst, hmolt, hop, State.endSome_none, if_false]
  rfl

end

/-- A CANCEL of a handle with no operation to cancel is turned away. -/
theorem State.cancelStart_bad (hst : (s.longop c.slot c.handle).state = .free ∨ (s.longop c.slot c.handle).state = .cancelling) :
    s.cancelStart c = s.endCmd c.id 0x0605 (s.longop c.slot c.handle).state.number := by
  rcases hst with hst | hst <;> simp only [State.cancelStart, hst, LongState.number]

/-- What the opcode of a released operation undoes of its work. -/
def State.undoWork (s : State) (slot h : Nat) (o : LongOp) : State :=
  if o.opcode = 0x60 ∧ o.started then s.reseed slot else if o.opcode = 0x61 ∧ o.started then s.ckptLost slot h else s

@[simp] theorem State.undoWork_cmds (s : State) (slot h : Nat) (o : LongOp) : (s.undoWork slot h o).cmds = s.cmds := by
  unfold State.undoWork
  split
  · exact State.reseed_cmds ..
  · split
    · exact (State.ckptLost_work ..).1
    · rfl

@[simp] theorem State.longop_undoWork (s : State) (slot h : Nat) (o : LongOp) : (s.undoWork slot h o).longop slot h = s.longop slot h := by
  unfold State.undoWork
  split
  · exact State.longop_reseed ..
  · split
    · exact State.longop_ckptLost ..
    · rfl

theorem State.release_eq (s : State) (slot h : Nat) :
    s.release slot h = ((s.endSome (s.longop slot h).segment 0x0601 (s.longop slot h).doneUnits).undoWork slot h
      (s.longop slot h)).freeHandle slot h 0x0601 := rfl

@[simp] theorem State.longop_release (s : State) (slot h : Nat) : (s.release slot h).longop slot h = (s.longop slot h).freed 0x0601 := by
  rw [State.release_eq, State.longop_freeHandle, State.longop_undoWork, State.longop_endSome]

/-- The CANCEL of work that is released completes OK. -/
theorem State.release_ends {e : Cmd} (hsus : (s.longop slot h).suspender = none) (hres : (s.longop slot h).resumer = none)
    (hcan : (s.longop slot h).canceller = some id) (hseg : (s.longop slot h).segment ≠ some id) (hcmd : s.cmd id = some e)
    (hrun : e.phase = .running) : endedAs (s.release slot h) id 0 0 := by
  rw [State.release_eq]
  refine State.freeHandle_answers (c := e) ?_ ?_ ?_ ?_ hrun
  · simpa using hsus
  · simpa using hres
  · simpa using hcan
  · exact (State.cmd_congr (State.undoWork_cmds ..) id).trans ((State.endSome_other _ _ hseg).trans hcmd)

end

/-- Settles O24: SUSPEND, RESUME and CANCEL as they start, by the state of the handle, and the second rows of SUSPEND and CANCEL. -/
theorem longOpControl : Obligations.LongOpControl := by
  unfold Obligations.LongOpControl
  intro s id c o ho
  subst ho
  refine ⟨fun host hready hcan => ?suspend,
    fun host s1 e g hrun hst hsus htoRest hstop hseg hs1 hseg1 hsus1 hres1 hsegment hne hcmd he => ?undone,
    fun headers hready => ?resume, fun host hready hsus hres => ?cancel,
    fun host s1 e p hrun hst hcan hs1 hp hcan1 hsus1 hres1 hseg1 hcmd he => ?cancelled⟩
  case suspend =>
    obtain rfl := (ready_id hready)
    have hexec := exec_longopSuspend_start host hready
    have hlong := s.longop_beginCmd c c.slot c.handle
    have hcan' : ((s.beginCmd c).longop c.slot c.handle).cancelled ≠ some (s.beginCmd c).time := by rwa [hlong, State.beginCmd_time]
    have hmem := onlyWork_memory (s.beginCmd_onlyWork c)
    refine ⟨fun hst hop => ?running, fun hst hop htoRest => ?waiting, fun hst hop => ?molt, fun hnrun hnwait => ?bad⟩ <;>
      refine answers_of_exec hexec ?_
    case running =>
      rw [State.suspendStart_running hcan' (by rwa [hlong]) (by rwa [hlong])]
      exact ⟨(ready_running_beginCmd hready), hmem, by rw [State.longop_onHandle, hlong, State.beginCmd_time]⟩
    case waiting =>
      rw [State.suspendStart_waiting hcan' (by rwa [hlong]) (by rwa [hlong]) (by rwa [hlong])]
      exact ⟨(ready_running_beginCmd hready), hmem, by rw [State.longop_onHandle, hlong, State.beginCmd_time]⟩
    case molt =>
      rw [State.suspendStart_molt hcan' (by rwa [hlong]) (by rwa [hlong])]
      exact ready_endCmd hready _ _
    case bad =>
      rw [State.suspendStart_bad hcan' (by rwa [hlong]) (by rwa [hlong]), hlong]
      exact ready_endCmd hready _ _
  case undone =>
    subst hs1
    refine answers_of_exec (exec_longopSuspend_end hrun hst hsus hstop hseg) ?_
    rw [State.suspendEnd_undone htoRest hseg1, State.longop_rest hres1]
    refine ⟨State.rest_suspender hres1 hsus1 ?_ hcmd he, rfl, rfl, rfl⟩
    rw [hsegment]
    exact fun e => hne (Option.some.inj e)
  case resume =>
    obtain rfl := (ready_id hready)
    have hexec := exec_longopResume headers hready
    have hlong := s.longop_beginCmd c c.slot c.handle
    refine ⟨fun hst htorn hstarted => ?started, fun hst htorn _ => ?torn, fun hst hres => ?wait, fun hnrest hnsus hwait => ?turned⟩ <;>
      refine answers_of_exec hexec ?_
    case started =>
      rw [State.resumeStart, hlong, hst]
      dsimp only
      rw [State.resumeNow_started (ready_begun hready) (by rwa [hlong]) (by rwa [hlong])]
      refine ⟨State.setWhole_running (s := s.beginSegment c c.id) _ (ready_beginSegment hready) rfl,
        sameMemory_trans (s.beginSegment_memory c c.id) (State.setWhole_memory ..), ?_⟩
      rw [State.longop_setWhole]
      exact State.longop_beginSegment ..
    case torn =>
      rw [State.resumeStart, hlong, hst]
      dsimp only
      rw [State.resumeNow_torn (ready_begun hready) (by rwa [hlong])]
      have hends := State.tornEnd_ends (slot := c.slot) (h := c.handle) (ready_beginSegment hready) rfl
      rw [State.longop_beginSegment] at hends
      exact hends.symm
    case wait =>
      rw [State.resumeStart, hlong, hst]
      dsimp only
      rw [State.resumeWait, hres, if_neg (by simp)]
      exact ⟨(ready_running_beginCmd hready), by rw [State.longop_onHandle, hlong, ← hst]⟩
    case turned =>
      rw [State.resumeStart_bad (by rwa [hlong]) (by rwa [hlong]) (by rwa [hlong]), hlong]
      exact ready_endCmd hready _ _
  case cancel =>
    obtain rfl := (ready_id hready)
    have hexec := exec_longopCancel_start host hready
    have hlong := s.longop_beginCmd c c.slot c.handle
    have htaken := State.cancelTakes_cmd (ready_begun hready) rfl c
    refine ⟨fun hst hseg => ?releases, fun hst hop hmolt => ?takes, fun hst => ?bad⟩ <;> refine answers_of_exec hexec ?_
    case releases =>
      rw [State.cancelStart_releases (by rwa [hlong]) (by rwa [hlong]) (by rwa [hlong])]
      refine ⟨State.release_ends ?_ ?_ ?_ ?_ htaken rfl, ?_, ?_⟩
      · rw [State.longop_cancelTakes]; rfl
      · rw [State.longop_cancelTakes]; rfl
      · rw [State.longop_cancelTakes]; rfl
      · rw [State.longop_cancelTakes, hlong]; exact hseg
      · rw [State.longop_release]; rfl
      · rw [State.longop_release, State.longop_cancelTakes, hlong]; rfl
    case takes =>
      have hmolt' : ((s.beginCmd c).longop c.slot c.handle).segment.bind (s.beginCmd c).molt = none := by
        rw [hlong, State.beginCmd_rest]; exact hmolt
      rw [State.cancelStart_takes (by rwa [hlong]) (by rwa [hlong]) (by rwa [hlong]) (by rwa [hlong]) hmolt']
      have hmem : sameMemory s (s.beginCmd c) := onlyWork_memory (s.beginCmd_onlyWork c)
      refine ⟨⟨_, htaken, rfl⟩, hmem, ?_⟩
      rw [State.longop_cancelTakes, hlong, State.beginCmd_time, LongOp.taken, hsus, hres]
    case bad =>
      rw [State.cancelStart_bad (by rwa [hlong]), hlong]
      exact ready_endCmd hready _ _
  case cancelled =>
    subst hp hs1
    refine answers_of_exec (exec_longopCancel_end hrun hst hcan) ⟨State.release_ends hsus1 hres1 hcan1 hseg1 hcmd he, ?_, ?_⟩
    · rw [State.longop_release]; rfl
    · rw [State.longop_release]; rfl

end Sys2Proof.Machine

/-!
# Commands stopped

OVERRUN and host reads that fail, are late or time out (R134, R135, R200 to R202, R205, R601), with what a write that no command makes
leaves of the commands, and what an event leaves of the queues.
-/
namespace Sys2Proof.Machine

open Sys2Proof Sys2Proof.Safety

section
variable {s t : State} {id : Nat} {c : Cmd}

/-! ## Writes of no command leave every phase -/

/-- The phase of the command found under a number. -/
def State.phaseOf (s : State) (k : Nat) : Option Phase := (s.cmd k).map Cmd.phase

theorem endedAs_iff_phaseOf (s : State) (id st d : Nat) : endedAs s id st d ↔ s.phaseOf id = some (.ended st d) := by
  simp [endedAs, State.phaseOf]

theorem endedAs_of_phaseOf {st d : Nat} (h : t.phaseOf id = s.phaseOf id) (k : endedAs s id st d) : endedAs t id st d :=
  (endedAs_iff_phaseOf ..).mpr (h.trans ((endedAs_iff_phaseOf ..).mp k))

theorem State.phaseOf_congr (h : t.cmds = s.cmds) (k : Nat) : t.phaseOf k = s.phaseOf k := by
  rw [State.phaseOf, State.cmd_congr h, State.phaseOf]

@[simp] theorem State.noteAlias_none_cmds (s : State) (slot va n : Nat) : (s.noteAlias none slot va n).cmds = s.cmds := rfl

@[simp] theorem State.setTierMem_cmds (s : State) (cxl : Bool) (m : Mem) : (s.setTierMem cxl m).cmds = s.cmds := by cases cxl <;> rfl

@[simp] theorem State.setTierPoison_cmds (s : State) (cxl : Bool) (p : Tab Bool) : (s.setTierPoison cxl p).cmds = s.cmds := by
  cases cxl <;> rfl

@[simp] theorem State.setLinePoison_cmds (s : State) (cxl : Bool) (dpa : Nat) (b : Bool) : (s.setLinePoison cxl dpa b).cmds = s.cmds :=
  State.setTierPoison_cmds ..

@[simp] theorem State.copyTier_cmds (s : State) (toCxl : Bool) (dst : Nat) (fromCxl : Bool) (src n : Nat) :
    (s.copyTier toCxl dst fromCxl src n).cmds = s.cmds := by simp [State.copyTier]

@[simp] theorem State.zeroFrame_cmds (s : State) (cxl : Bool) (f : Nat) : (s.zeroFrame cxl f).cmds = s.cmds := by simp [State.zeroFrame]

@[simp] theorem State.cowLeaf_cmds (s : State) (slot : Nat) (copy : Bool) (page : Nat) : (s.cowLeaf slot copy page).cmds = s.cmds := by
  unfold State.cowLeaf
  dsimp only
  split
  · rfl
  · cases copy <;> simp

@[simp] theorem State.cow_none_cmds (s : State) (slot : Nat) (w : Where) (whole : Bool) : (s.cow none slot w whole).cmds = s.cmds := by
  have hfold : ∀ b l, (List.foldl (fun x pg => State.cowLeaf x slot b pg) s l).cmds = s.cmds :=
    fun b l => State.cmds_foldl fun x a => State.cowLeaf_cmds ..
  unfold State.cow
  cases whole <;> simp [State.charge, hfold, apply_ite State.cmds]

@[simp] theorem State.reachLine_cmds (s : State) (cxl : Bool) (dpa : Nat) : (s.reachLine cxl dpa).cmds = s.cmds := by
  rw [State.reachLine_rest]

/-- A line noted as written changes what a page in motion has still to copy, and no phase. -/
theorem State.noteDirty_phaseOf (s : State) (slot : Nat) (w : Where) (k : Nat) : (s.noteDirty slot w).phaseOf k = s.phaseOf k := by
  unfold State.noteDirty
  split
  · rfl
  · refine (congrArg (Option.map Cmd.phase) (find_map s.cmds k _ fun d => by split <;> rfl)).trans ?_
    rw [Option.map_map]
    refine congrFun (congrArg Option.map (funext fun d => ?_)) _
    simp only [Function.comp]
    split <;> rfl

/-- One piece of a write put in its line, dropped where the line's page is lost. -/
def State.linePut (s : State) (slot : Nat) (v : Where) (n : Nat) (bs : List Byte) (bad : Bool) : State :=
  if v.leaf.poison then { s with cxlDrops := s.cxlDrops + 1 } else
  let m := s.setTierMem v.cxl (memWrite (s.tierMem v.cxl) v.dpa (bs.take n))
  let q := if bad then m.setLinePoison v.cxl v.dpa true else if n = 256 then m.setLinePoison v.cxl v.dpa false else m
  ((q.markStale v.cxl v.dpa n).noteDirty slot v).reachLine v.cxl v.dpa

theorem State.linePut_phaseOf (s : State) (slot : Nat) (v : Where) (n : Nat) (bs : List Byte) (bad : Bool) (k : Nat) :
    (s.linePut slot v n bs bad).phaseOf k = s.phaseOf k := by
  unfold State.linePut
  dsimp only
  split
  · rfl
  · refine (State.phaseOf_congr (State.reachLine_cmds ..) k).trans ((State.noteDirty_phaseOf ..).trans (State.phaseOf_congr ?_ k))
    change (State.cmds (ite _ _ _)) = _
    split
    · simp
    · split <;> simp

theorem State.writeSpans_none_phaseOf (slot : Nat) (cover : List (Nat × Nat)) (bad : Bool) (k : Nat) (l : List (Nat × Nat)) :
    ∀ (s : State) (bs : List Byte), (s.writeSpans none slot cover bad l bs).1.phaseOf k = s.phaseOf k := by
  induction l with
  | nil => intro s bs; rfl
  | cons e l ih =>
    intro s bs
    rw [State.writeSpans]
    cases s.translate slot e.1 with
    | none => rfl
    | some w =>
      have hnoted : ∀ x n, (if w.alias_ = true then s.noteAlias none slot x n else s).cmds = s.cmds := fun x n => by split <;> simp
      dsimp only
      split
      · rfl
      · split
        · exact State.phaseOf_congr (hnoted _ _) k
        · split
          · exact State.phaseOf_congr (hnoted _ _) k
          · split
            · exact State.phaseOf_congr (by simp [hnoted]) k
            · exact (ih _ _).trans ((State.linePut_phaseOf ..).trans (State.phaseOf_congr ((State.cow_none_cmds ..).trans (hnoted _ _)) k))

theorem State.vwrite_none_phaseOf (s : State) (slot va : Nat) (bs : List Byte) (k : Nat) :
    (s.vwrite none slot va bs).1.phaseOf k = s.phaseOf k := State.writeSpans_none_phaseOf ..

theorem State.addSums_phaseOf (s : State) (slot g : Nat) (dsq wsq : W32) (n k : Nat) :
    (s.addSums slot g dsq wsq n).phaseOf k = s.phaseOf k := by
  unfold State.addSums
  split
  · rfl
  · dsimp only
    split
    · rfl
    · exact State.vwrite_none_phaseOf ..

/-- An update that leaves its engine leaves every command's phase. -/
theorem State.dropUpd_phaseOf (s : State) (id k : Nat) : (s.dropUpd id).phaseOf k = s.phaseOf k := by
  unfold State.dropUpd
  split
  · rfl
  · exact (State.phaseOf_congr (State.count_cmds ..) k).trans (State.addSums_phaseOf ..)

/-! ## Events leave the queues -/

theorem State.queues_setFn {k : Nat} {v : Fn} (h : v.queues = (s.fn k).queues) (j : Nat) :
    ((s.setFn k v).fn j).queues = (s.fn j).queues := by
  by_cases e : j = k
  · subst e; rw [State.fn_setFn, h]
  · rw [State.fn_setFn_other _ _ e]

theorem State.fn_hostWrite (s : State) (p addr : Nat) (bs : List Byte) (j : Nat) : (s.hostWrite p addr bs).fn j = s.fn j := rfl

theorem State.queues_interrupt (s : State) (f v j : Nat) : ((s.interrupt f v).fn j).queues = (s.fn j).queues := by
  unfold State.interrupt
  dsimp only
  split
  · exact State.queues_setFn (by rfl) j
  · split
    · rfl
    · split
      · exact State.queues_setFn (by rfl) j
      · rfl

theorem State.queues_ringWrite (s : State) (f code detail time j : Nat) :
    ((s.ringWrite f code detail time).fn j).queues = (s.fn j).queues := by
  unfold State.ringWrite
  dsimp only
  split
  · exact State.queues_setFn (by rfl) j
  · split
    · split
      · rw [State.queues_interrupt, State.queues_setFn (by rfl), State.fn_hostWrite]
      · rw [State.queues_setFn (by rfl), State.fn_hostWrite]
    · exact State.queues_setFn (by rfl) j

theorem State.queues_eventTo (s : State) (code detail f j : Nat) : ((s.eventTo code detail f).fn j).queues = (s.fn j).queues := by
  unfold State.eventTo
  split
  · rfl
  · split
    · exact State.queues_setFn (by rfl) j
    · exact State.queues_ringWrite ..

/-- An event changes no queue. -/
theorem State.queue_event (s : State) (code detail : Nat) (l : List Nat) (f q : Nat) :
    (s.event code detail l).queue f q = s.queue f q := by
  have halert : (s.alert code).fns = s.fns := by
    unfold State.alert
    dsimp only
    split <;> rfl
  have hqueues : ((s.event code detail l).fn f).queues = (s.fn f).queues :=
    (State.foldl_keeps (fun s => (s.fn f).queues) (fun x a => State.queues_eventTo x code detail a f) _ _).trans
      (congrArg (fun t => (tabGet ({} : Fn) t f).queues) halert)
  exact congrArg (fun t => tabGet {} t q) hqueues

/-! ## A queue that faults (R148, R156) -/

theorem Queue.drain_rest (q : Queue) : q.drain = { q with active := q.drain.active } := by
  unfold Queue.drain
  split <;> rfl

theorem State.noteFault_rest (s : State) (unit cls : Nat) :
    s.noteFault unit cls = { s with sup := { s.sup with errs := (s.noteFault unit cls).sup.errs } } := by
  simp [State.noteFault, State.noteFaults]

theorem State.noteFault_cmds (s : State) (unit cls : Nat) : (s.noteFault unit cls).cmds = s.cmds := by rw [State.noteFault_rest]

theorem State.noteAer_rest (s : State) (f n : Nat) : s.noteAer f n = { s with fns := (s.noteAer f n).fns } := by
  unfold State.noteAer
  split <;> rfl

/-- A queue that faults is disabled and shows its fault. -/
theorem State.queueFault_shows (s : State) (f q code : Nat) :
    ((s.queueFault f q code).queue f q).faulted = true ∧ ((s.queueFault f q code).queue f q).enable = false ∧
      ((s.queueFault f q code).queue f q).fault = BitVec.ofNat 8 code := by
  have hqueue : (s.queueFault f q code).queue f q =
      ({ s.queue f q with enable := false, faulted := true, fault := BitVec.ofNat 8 code } : Queue).drain := by
    rw [State.queueFault, State.noteFault_rest]
    exact (State.queue_event ..).trans (State.queue_setQueue ..)
  rw [hqueue, Queue.drain_rest]
  exact ⟨rfl, rfl, rfl⟩

/-! ## OVERRUN (R200 to R202) -/

theorem exec_overrun {code : Nat} (hcmd : s.cmd id = some c) (hrun : c.phase = .running) (hcode : s.overrunCode c = some code) :
    exec (.overrun id) s = .next (s.stopOverrun c code) := by
  change execOverrun id s = _
  simp [execOverrun, hcmd, hrun, hcode]

theorem State.holdTag_cmds (s : State) (c : Cmd) : (s.holdTag c).cmds = s.cmds := rfl

theorem State.holdTag_lateTags (s : State) (c : Cmd) :
    ∃ x : LateTag, ((s.holdTag c).port (c.fn / 16)).lateTags = (s.port (c.fn / 16)).lateTags ++ [x] ∧ x.cmd = c.id ∧
      x.since = if c.phase = .waiting then c.admitted else c.started :=
  ⟨_, congrArg Port.lateTags (State.port_setPort ..), rfl, rfl⟩

/-- A command with no exchange and no molt that is stopped has ended with OVERRUN. -/
theorem State.stopOverrun_ends (code : Nat) (hcmd : s.cmd c.id = some c) (hrun : c.phase = .running) (hcoll : s.coll c.id = none)
    (hmolt : s.molt c.id = none) : endedAs (s.stopOverrun c code) c.id 0x0202 (s.overrunDetail c code) := by
  have hstop : s.stopOverrun c code =
      ((if s.readsHost c then s.holdTag c else s).endCmd c.id 0x0202 (s.overrunDetail c code)).dropUpd c.id := by
    have hcoll' : (if s.readsHost c then s.holdTag c else s).coll c.id = none := by split <;> exact hcoll
    have hmolt' : (if s.readsHost c then s.holdTag c else s).molt c.id = none := by split <;> exact hmolt
    simp only [State.stopOverrun, hcoll', hmolt']
  have hcmd' : (if s.readsHost c then s.holdTag c else s).cmd c.id = some c := by split <;> exact hcmd
  rw [hstop]
  exact endedAs_of_phaseOf (State.dropUpd_phaseOf ..) (State.endCmd_ends _ _ hcmd' (not_ended_of_running hrun))

/-! ## Host reads that fail (R134, R205) -/

theorem State.running_of_readsHost (h : s.readsHost c = true) : c.phase = .running := by
  simp only [State.readsHost, Bool.and_eq_true, beq_iff_eq] at h
  exact h.1

/-- A command that runs waits for no header. -/
theorem State.headerWait_of_running (s : State) (h : c.phase = .running) : s.headerWait c = false := by
  simp [State.headerWait, h]

theorem State.hostFail_of_running (s : State) (h : c.phase = .running) (addr : Nat) (held : Bool) :
    s.hostFail c addr held = s.sourceError c addr held := by
  rw [State.hostFail, s.headerWait_of_running h, if_neg (by simp)]

/-- A read that failed and holds no tag: its command and its reader's error state alone have changed. -/
theorem State.sourceError_rest (s : State) (c : Cmd) (addr : Nat) :
    s.sourceError c addr false = { s with cmds := (s.sourceError c addr false).cmds
                                          sup := { s.sup with errs := (s.sourceError c addr false).sup.errs } } := by
  have h : s.sourceError c addr false = (s.endCmd c.id 0x0205 addr).noteFault (s.readerUnit c) 2 := rfl
  rw [h, State.noteFault_rest, State.endCmd_rest]

theorem State.sourceError_ends {d : Cmd} (addr : Nat) (held : Bool) (hcmd : s.cmd c.id = some d) (hrun : d.phase = .running) :
    endedAs (s.sourceError c addr held) c.id 0x0205 addr := by
  have h : (s.sourceError c addr held).cmds = (s.endCmd c.id 0x0205 addr).cmds := by
    cases held
    · exact State.noteFault_cmds ..
    · exact (State.holdTag_cmds ..).trans (State.noteFault_cmds ..)
  exact endedAs_congr h (State.endCmd_ends _ _ hcmd (not_ended_of_running hrun))

/-- A read that no completion has answered holds its tag from the start of its command. -/
theorem State.sourceError_tag (s : State) (addr : Nat) (hrun : c.phase = .running) :
    ∃ x : LateTag, ((s.sourceError c addr true).port (c.fn / 16)).lateTags = (s.port (c.fn / 16)).lateTags ++ [x] ∧
      x.cmd = c.id ∧ x.since = c.started := by
  have hports : ((s.endCmd c.id 0x0205 addr).noteFault (s.readerUnit c) 2).port (c.fn / 16) = s.port (c.fn / 16) := by
    rw [State.noteFault_rest, State.endCmd_rest]; rfl
  obtain ⟨x, htags, hx, hsince⟩ := ((s.endCmd c.id 0x0205 addr).noteFault (s.readerUnit c) 2).holdTag_lateTags c
  rw [hports] at htags
  exact ⟨x, htags, hx, by simpa [hrun] using hsince⟩

theorem exec_hostReadError (hcmd : s.cmd id = some c) (hwait : s.hostWait c = true) (a : W64) :
    exec (.hostReadError id a) s = .next (s.hostFail c a.toNat false) := by
  change execHostReadError id a s = _
  simp only [execHostReadError, hcmd, hwait]
  rfl

theorem exec_hostReadDeadline (hcmd : s.cmd id = some c) (hreads : s.readsHost c = true) (hnear : s.nearDeadline c = true) :
    exec (.hostReadDeadline id) s = .next (s.sourceError c (s.hostAddr c) true) := by
  have hrun := State.running_of_readsHost hreads
  change execHostReadDeadline id s = _
  simp only [execHostReadDeadline, hcmd, State.hostWait, hreads, hnear, s.headerWait_of_running hrun, s.hostFail_of_running hrun]
  rfl

theorem exec_completionTimeout_source (hcmd : s.cmd id = some c) (hreads : s.readsHost c = true) (hold : c.started + 10000 ≤ s.time) (a : W64) :
    exec (.completionTimeout (.source id a)) s = .next ((s.noteAer c.fn 14).sourceError c a.toNat false) := by
  have hrun := State.running_of_readsHost hreads
  change execCompletionTimeout (.source id a) s = _
  simp only [execCompletionTimeout, hcmd, (s.noteAer c.fn 14).hostFail_of_running hrun]
  exact when_of_true (by simp [State.hostWait, hreads, State.timedOut, hrun, hold]) _

theorem exec_completionTimeout_ring {p : PortNo} {f : FnNo} {q : QueueNo} {n t0 : Nat} {l : List (Nat × Nat)}
    (hactive : (s.queue (fnKey p.val f.val) q.val).active = true) (henable : (s.queue (fnKey p.val f.val) q.val).enable = true)
    (hbells : (s.queue (fnKey p.val f.val) q.val).doorbells = (n, t0) :: l) (hold : t0 + 10000 ≤ s.time) :
    exec (.completionTimeout (.ring p f q)) s = .next ((s.noteAer (fnKey p.val f.val) 14).queueFault (fnKey p.val f.val) q.val 3) := by
  change execCompletionTimeout (.ring p f q) s = _
  simp only [execCompletionTimeout]
  exact when_of_true (by simp [hactive, henable, hbells, State.timedOut, hold]) _

/-- A change of functions, then one of commands and errors, together. -/
theorem eq_of_noteAer_sourceError {u : State} (hfault : u = { t with cmds := u.cmds, sup := { t.sup with errs := u.sup.errs } })
    (haer : t = { s with fns := t.fns }) : u = { s with cmds := u.cmds, fns := u.fns, sup := { s.sup with errs := u.sup.errs } } := by
  rw [hfault, haer]

end

/-- Settles O20: OVERRUN, then the rows of failed host reads, each through what stops the command or faults the queue. -/
theorem commandsStopped : Obligations.CommandsStopped := by
  unfold Obligations.CommandsStopped
  intro s id c hcmd
  obtain rfl := State.cmd_id hcmd
  refine ⟨fun code hrun hcode hcoll hmolt => ?overrun, fun a hreads => ?failed, fun hreads hnear => ?late, fun a hreads hold => ?timeout,
    fun a hwait => ?header, fun p f q n t0 l hactive henable hbells hold => ?ring, fun p => ?tags⟩
  case overrun => exact answers_of_exec (exec_overrun hcmd hrun hcode) (State.stopOverrun_ends code hcmd hrun hcoll hmolt)
  case failed =>
    have hrun := State.running_of_readsHost hreads
    refine answers_of_exec (exec_hostReadError hcmd (by simp [State.hostWait, hreads]) a) ?_
    rw [s.hostFail_of_running hrun]
    exact ⟨State.sourceError_ends _ _ hcmd hrun, State.sourceError_rest ..⟩
  case late =>
    have hrun := State.running_of_readsHost hreads
    exact answers_of_exec (exec_hostReadDeadline hcmd hreads hnear) ⟨State.sourceError_ends _ _ hcmd hrun, State.sourceError_tag s _ hrun⟩
  case timeout =>
    have hrun := State.running_of_readsHost hreads
    have hcmd' : (s.noteAer c.fn 14).cmd c.id = some c := by rw [State.noteAer_rest]; exact hcmd
    exact answers_of_exec (exec_completionTimeout_source hcmd hreads hold a)
      ⟨State.sourceError_ends _ _ hcmd' hrun, eq_of_noteAer_sourceError (State.sourceError_rest ..) (State.noteAer_rest ..)⟩
  case header =>
    refine answers_of_exec (exec_hostReadError hcmd (by simp [State.hostWait, hwait]) a) ?_
    rw [State.hostFail, if_pos hwait]
    have hends : endedAs ((s.beginSegment c c.id).sourceError c a.toNat false) c.id 0x0205 a.toNat :=
      State.sourceError_ends _ _ (State.beginCmd_cmd hcmd) rfl
    have hmem : sameMemory (s.beginSegment c c.id) ((s.beginSegment c c.id).sourceError c a.toNat false) := by
      rw [State.sourceError_rest]
      exact ⟨fun _ => rfl, fun _ => rfl, fun _ => rfl⟩
    exact ⟨hends, sameMemory_trans (s.beginSegment_memory c c.id) hmem⟩
  case ring => exact answers_of_exec (exec_completionTimeout_ring hactive henable hbells hold) (State.queueFault_shows ..)
  case tags => exact answers_of_exec (c := .completionTimeout (.late p)) rfl rfl

end Sys2Proof.Machine

/-!
# DMA_COPY

How a copy starts, moves one line's worth of its destination, and ends (R182, R203, R245, R257, R685).
-/
namespace Sys2Proof.Machine

open Sys2Proof Sys2Proof.Safety

/-! ## Bytes written and read back -/

theorem memRead_length (m : Mem) (a n : Nat) : (memRead m a n).length = n := by
  induction n generalizing a with
  | zero => rfl
  | succ n ih => rw [memRead, List.length_cons, ih]

theorem memRead_getElem (m : Mem) (a n i : Nat) (h : i < (memRead m a n).length) : (memRead m a n)[i] = memByte m (a + i) := by
  induction n generalizing a i with
  | zero => exact absurd h (Nat.not_lt_zero i)
  | succ n ih =>
    cases i with
    | zero => rfl
    | succ i =>
      have hi : i < (memRead m (a + 1) n).length := Nat.lt_of_succ_lt_succ h
      rw [show a + (i + 1) = a + 1 + i by omega]
      exact ih (a + 1) i hi

/-- Bytes written are read back. -/
theorem memRead_memWrite (m : Mem) (a : Nat) (bs : List Byte) : memRead (memWrite m a bs) a bs.length = bs := by
  refine List.ext_getElem (memRead_length ..) fun i hi hb => ?_
  rw [memRead_getElem, memByte_write_same _ _ _ _ hb]

section
variable {s s1 : State} {id n fuel count : Nat} {c d : Cmd} {a : DmaArgs} {host : List Byte}

/-! ## Rows of a copy -/

theorem State.runningOp_of {op : Nat} (hcmd : s.cmd id = some c) (hop : c.opcode = op) (hrun : c.phase = .running) :
    s.runningOp id op = some c := by simp [State.runningOp, hcmd, hop, hrun]

/-- A copy that runs goes on. -/
theorem exec_dmaCopy_running (hrun : s.runningOp id 0x20 = some c) :
    exec (.dmaCopy id n host) s = .next (s.dmaMove id (dmaArgs c.record) host (ceilDiv n 256 + 3) n) := by
  obtain ⟨hcmd, -, hphase⟩ := State.runningOp_eq_some hrun
  have hstart : ∀ f, s.startOp id 0x20 f = s := State.startOp_started hcmd (by simp [hphase]) 0x20
  change execDmaCopy id n host s = _
  simp only [execDmaCopy, hstart, ite_self, hrun]

/-- A copy that has begun: its output noted where it goes to the side that is not live, and LENGTH as its whole. -/
def State.dmaBegin (s : State) (c : Cmd) (a : DmaArgs) : State :=
  (if a.dstHost then s.beginCmd c else (s.beginCmd c).aimAlias c.id c.slot a.dst).setWhole c.id a.length

theorem State.aimAlias_cmd (slot va : Nat) (hcmd : s.cmd id = some c) :
    ∃ w, (s.aimAlias id slot va).cmd id = some { c with aliasWriter := w } := by
  have e := State.cmd_id hcmd
  subst e
  unfold State.aimAlias
  dsimp only
  split
  · exact ⟨c.aliasWriter, hcmd⟩
  · rw [hcmd]
    exact ⟨true, State.cmd_setCmd (c := { c with aliasWriter := true }) hcmd⟩

theorem State.dmaBegin_cmd (hready : ready s c.id 0x20 c) (a : DmaArgs) :
    ∃ w, (s.dmaBegin c a).cmd c.id =
      some { c.begun s.time (s.part c.slot).epoch (s.tablesOf c.slot) with aliasWriter := w, whole := a.length } := by
  unfold State.dmaBegin
  split
  · exact ⟨c.aliasWriter, State.setWhole_cmd _ (ready_begun hready)⟩
  · obtain ⟨w, hw⟩ := State.aimAlias_cmd c.slot a.dst (ready_begun hready)
    exact ⟨w, State.setWhole_cmd _ hw⟩

/-- A copy starts once its core's queue has room. -/
theorem exec_dmaCopy_start (hready : ready s c.id 0x20 c) (hroom : s.issueRoom (c.dmaCore.getD 0) 4 = true)
    (hd : (s.dmaBegin c (dmaArgs c.record)).runningOp c.id 0x20 = some d) :
    exec (.dmaCopy c.id n host) s =
      .next ((s.dmaBegin c (dmaArgs c.record)).dmaMove c.id (dmaArgs d.record) host (ceilDiv n 256 + 3) n) := by
  have hcredit : s.dmaCredit c.id = true := by simp only [State.dmaCredit, hready.1, hroom]
  change execDmaCopy c.id n host s = _
  simp only [execDmaCopy, hcredit, State.startOp_ready hready, Bool.not_true, Bool.false_eq_true, if_false]
  change (match (s.dmaBegin c (dmaArgs c.record)).runningOp c.id 0x20 with | none => _ | some e => _) = _
  rw [hd]
  rfl

/-! ## Pieces -/

/-- A copy with every byte moved ends. -/
theorem State.dmaMove_whole (hrun : s.runningOp id 0x20 = some c) (hwhole : a.length ≤ c.done) :
    s.dmaMove id a host (fuel + 1) count = s.finishCmd id 0 := by
  simp only [State.dmaMove, hrun, hwhole, if_true]

/-- A copy with bytes to move waits for the next row. -/
theorem State.dmaMove_waits (hrun : s.runningOp id 0x20 = some c) (hmore : c.done < a.length) :
    s.dmaMove id a host (fuel + 1) 0 = s := by
  simp only [State.dmaMove, hrun, Nat.not_le.mpr hmore, if_false, if_true]

/-- A command with its copy at a byte. -/
def Cmd.moved (d : Cmd) (x : Nat) : Cmd := { d with done := x, work := x, waits := none }

/-- A piece moved is counted, and the copy goes on. -/
theorem State.dmaMove_piece (hrun : s.runningOp id 0x20 = some c) (hmore : c.done < a.length) (hcount : count ≠ 0)
    (hn : n = min (256 - (a.dst + c.done) % 256) (a.length - c.done)) (hhost : a.srcHost = true → n ≤ host.length)
    (hpiece : s.dmaPiece c a c.done n host = some s1) (hcmd : s1.cmd id = some d) :
    s.dmaMove id a host (fuel + 1) count = (s1.setCmd (d.moved (c.done + n))).dmaMove id a (host.drop n) fuel (count - n) := by
  have hlong : ¬ (a.srcHost = true ∧ host.length < n) := fun ⟨h, k⟩ => absurd (hhost h) (by omega)
  simp only [State.dmaMove, hrun, Nat.not_le.mpr hmore, hcount, ← hn, hlong, hpiece, hcmd, if_false]
  rfl

/-- A command that ends keeps what it has moved. -/
theorem State.endCmd_done (st x : Nat) (hcmd : s.cmd id = some c) : ∃ e, (s.endCmd id st x).cmd id = some e ∧ e.done = c.done := by
  by_cases h : ∃ a b, c.phase = .ended a b
  · obtain ⟨a, b, h⟩ := h
    exact ⟨c, by simp [State.endCmd, hcmd, h], rfl⟩
  · exact ⟨_, State.endCmd_cmd st x hcmd fun a b e => h ⟨a, b, e⟩, rfl⟩

theorem State.finishCmd_done (x : Nat) (hcmd : s.cmd id = some c) : ∃ e, (s.finishCmd id x).cmd id = some e ∧ e.done = c.done := by
  unfold State.finishCmd
  rw [hcmd]
  dsimp only
  split <;> exact State.endCmd_done _ _ hcmd

/-- A row with no more bytes to move leaves memory and what has been moved. -/
theorem State.dmaMove_none_left (hcmd : s.cmd id = some c) :
    onlyCmds s (s.dmaMove id a host (fuel + 1) 0) ∧ ∃ e, (s.dmaMove id a host (fuel + 1) 0).cmd id = some e ∧ e.done = c.done := by
  cases hrun : s.runningOp id 0x20 with
  | none => simp only [State.dmaMove, hrun]; exact ⟨rfl, c, hcmd, rfl⟩
  | some d =>
    obtain rfl : c = d := Option.some.inj (hcmd.symm.trans (State.runningOp_eq_some hrun).1)
    by_cases hwhole : a.length ≤ c.done
    · rw [State.dmaMove_whole hrun hwhole]
      exact ⟨State.finishCmd_rest .., State.finishCmd_done 0 hcmd⟩
    · rw [State.dmaMove_waits hrun (Nat.not_le.mp hwhole)]
      exact ⟨rfl, c, hcmd, rfl⟩

/-- A row that changes its commands alone leaves the memories. -/
theorem onlyCmds_mems (h : onlyCmds s s1) : s1.hbm = s.hbm ∧ s1.cxl = s.cxl ∧ s1.hostMem = s.hostMem := by
  rw [show s1 = { s with cmds := s1.cmds } from h]
  exact ⟨rfl, rfl, rfl⟩

/-- What a row of one piece leaves: the memories as the piece left them, and the piece counted. -/
theorem State.dmaMove_row (hcmd : s1.cmd id = some d) (x : Nat) :
    onlyCmds s1 ((s1.setCmd (d.moved x)).dmaMove id a host (fuel + 1) 0) ∧
      ∃ e, ((s1.setCmd (d.moved x)).dmaMove id a host (fuel + 1) 0).cmd id = some e ∧ e.done = x := by
  have e := State.cmd_id hcmd
  subst e
  obtain ⟨honly, hdone⟩ := State.dmaMove_none_left (a := a) (host := host) (fuel := fuel)
    (State.cmd_setCmd (c := d.moved x) hcmd)
  exact ⟨honly, hdone⟩

/-- A row that moved the last byte ends the copy. -/
theorem State.dmaMove_row_ends (hcmd : s1.cmd id = some d) (hop : d.opcode = 0x20) (hrun : d.phase = .running) (hclean : clean d)
    {x : Nat} (hall : a.length ≤ x) : endedAs ((s1.setCmd (d.moved x)).dmaMove id a host (fuel + 1) 0) id 0 0 := by
  have e := State.cmd_id hcmd
  subst e
  have hmoved : (s1.setCmd (d.moved x)).cmd d.id = some (d.moved x) := State.cmd_setCmd (c := d.moved x) hcmd
  rw [State.dmaMove_whole (State.runningOp_of hmoved hop hrun) hall]
  exact State.finishCmd_ends hmoved hclean hrun

/-! ## Host bytes (R245) -/

theorem State.serveFloor_cmds (s : State) (i x n : Nat) (out : Bool) : (s.serveFloor i x n out).cmds = s.cmds := State.count_cmds ..

theorem State.serveSpare_cmds (s : State) (i x n : Nat) (out : Bool) : (s.serveSpare i x n out).cmds = s.cmds := State.count_cmds ..

theorem State.regServe_cmds {i x : Nat} {out turn spare : Bool} (h : s.regServe i x n out turn spare = some s1) : s1.cmds = s.cmds := by
  unfold State.regServe at h
  split at h
  · cases h; exact State.serveFloor_cmds ..
  · split at h
    · cases h; exact State.serveSpare_cmds ..
    · cases h

/-- Host bytes of a copy that are served are counted as used by it, and change nothing else of it. -/
theorem State.hostServe_cmd {out : Bool} (hcmd : s.cmd c.id = some c) (hop : c.opcode = 0x20) (h : s.hostServe c n out = some s1) :
    ∃ u, s1.cmd c.id = some { c with used := u } := by
  obtain ⟨t, ht, rfl⟩ := Option.map_eq_some_iff.mp h
  have hcmd' : t.cmd c.id = some c := (State.cmd_congr (State.regServe_cmds ht) c.id).trans hcmd
  simp only [State.charge, hcmd', hop]
  exact ⟨_, State.cmd_setCmd (c := { c with used := _ }) hcmd'⟩

/-- Bytes with no poison are written as they are. -/
theorem State.hostWriteTagged_clean (s : State) (p x : Nat) (bs : List Byte) :
    s.hostWriteTagged p x (bs.map fun b => (b, false)) = s.hostWrite p x bs := by
  have hclean : (bs.map fun b => (b, false)).any (·.2) = false := by simp
  have hbytes : (bs.map fun b => (b, false)).map (·.1) = bs := by simp [Function.comp_def]
  simp only [State.hostWriteTagged, hclean, hbytes, Bool.false_eq_true, if_false]

/-- A piece from host memory to host memory writes the bytes that were read, and its bytes are served. -/
theorem State.dmaPiece_host (hsrc : a.srcHost = true) (hdst : a.dstHost = true) (hroom : s.issueRoom (c.dmaCore.getD 0) 4 = true)
    (htag : (s.port (c.fn / 16)).tagFree = true) (hserve : s.hostServe c (2 * n) true = some s1) (x : Nat) :
    s.dmaPiece c a x n host = some (s1.hostWrite (c.fn / 16) ((a.dst + x) % 2 ^ 64) (host.take n)) := by
  simp only [State.dmaPiece, hsrc, hdst, hroom, htag, hserve, State.dmaWrite, State.hostWriteTagged_clean, Bool.not_true,
    Bool.and_false, Bool.or_self, Bool.and_self, Bool.false_eq_true, if_true, if_false]

end

/-- Settles O17: the start, a piece, a piece between hosts, and the end. -/
theorem dmaCopies : Obligations.DmaCopies := by
  unfold Obligations.DmaCopies
  intro s id c a ha hclean
  subst ha
  refine ⟨fun hready hdone hlen hroom => ?start, fun n host s1 d hrun hmore hn hhost hpiece hcmd => ?piece,
    fun n host s1 hrun hsrc hdst hmore hn hhost hroom htag hserve => ?hosts, fun hrun hwhole => ?ends⟩
  case start =>
    obtain rfl := ready_id hready
    obtain ⟨w, hw⟩ := State.dmaBegin_cmd hready (dmaArgs c.record)
    have hrun := State.runningOp_of (op := 0x20) hw hready.2.1 rfl
    have hmore : c.done < (dmaArgs c.record).length := by omega
    have hstays := State.dmaMove_waits (host := []) (fuel := 2) hrun hmore
    exact answers_of_exec ((exec_dmaCopy_start hready hroom hrun).trans (congrArg Host.Outcome.next hstays)) ⟨_, hw, rfl, rfl⟩
  case piece =>
    have hpos : n ≠ 0 := by omega
    refine answers_of_exec (exec_dmaCopy_running hrun) ?_
    rw [State.dmaMove_piece hrun hmore hpos hn hhost hpiece hcmd, Nat.sub_self]
    obtain ⟨honly, hmoved⟩ := State.dmaMove_row (a := dmaArgs c.record) (host := host.drop n) (fuel := ceilDiv n 256 + 1) hcmd (c.done + n)
    obtain ⟨hhbm, hcxl, hmem⟩ := onlyCmds_mems honly
    exact ⟨hhbm, hcxl, hmem, hmoved⟩
  case hosts =>
    obtain ⟨hfound, hop, hphase⟩ := State.runningOp_eq_some hrun
    obtain rfl := State.cmd_id hfound
    have hpos : n ≠ 0 := by omega
    obtain ⟨u, hu⟩ := State.hostServe_cmd hfound hop hserve
    have hwritten : (s1.hostWrite (c.fn / 16) (((dmaArgs c.record).dst + c.done) % 2 ^ 64) (host.take n)).cmd c.id =
      some { c with used := u } := hu
    have hpiece := State.dmaPiece_host (host := host) hsrc hdst hroom htag hserve c.done
    refine answers_of_exec (exec_dmaCopy_running hrun) ?_
    rw [State.dmaMove_piece hrun hmore hpos hn (fun _ => hhost) hpiece hwritten, Nat.sub_self]
    refine ⟨?_, fun hall => State.dmaMove_row_ends hwritten hop hphase hclean hall.ge⟩
    have honly := (State.dmaMove_row (a := dmaArgs c.record) (host := host.drop n) (fuel := ceilDiv n 256 + 1) hwritten (c.done + n)).1
    rw [(onlyCmds_mems honly).2.2]
    have hread := memRead_memWrite s1.hostMem (c.fn / 16 * 2 ^ 64 + ((dmaArgs c.record).dst + c.done) % 2 ^ 64) (host.take n)
    rwa [List.length_take, Nat.min_eq_left hhost] at hread
  case ends =>
    obtain ⟨hcmd, -, hphase⟩ := State.runningOp_eq_some hrun
    refine answers_of_exec (exec_dmaCopy_running hrun) ?_
    rw [State.dmaMove_whole hrun hwhole]
    exact ⟨State.finishCmd_ends hcmd hclean hphase, State.finishCmd_rest ..⟩

end Sys2Proof.Machine

/-!
# Completion records and COMMAND_COMPLETE

What a completion record written to its queue leaves (R152, R154), what a completion does to its token (R29, R30), and how a
command leaves (R198).
-/
namespace Sys2Proof.Machine

open Sys2Proof Sys2Proof.Safety

theorem bytesOfNat_length (x n : Nat) : (bytesOfNat x n).length = n := by
  induction n generalizing x with
  | zero => rfl
  | succ n ih => exact congrArg Nat.succ (ih _)

theorem completionRecord_length (seq status core finish detail permille admitUs : Nat) :
    (completionRecord seq status core finish detail permille admitUs).length = 32 := by
  simp [completionRecord, bytesOfNat_length]

section
variable {s t : State} {c : Cmd} {id f q st d : Nat} {bs : List Byte}

/-! ## What the queue of a record shows -/

/-- A change of what tells the hosts leaves the commands. -/
theorem Tells.cmds (h : Tells s t) : t.cmds = s.cmds := by
  obtain ⟨o, fs, m, rfl⟩ := h
  rfl

/-- A change of what tells the hosts leaves the partitions. -/
theorem Tells.part (h : Tells s t) (i : Nat) : t.part i = s.part i := by
  obtain ⟨o, fs, m, rfl⟩ := h
  rfl

theorem Tells.setQueue (s : State) (f q : Nat) (v : Queue) : Tells s (s.setQueue f q v) := Tells.setFn s f _

theorem Tells.hostWrite (s : State) (p addr : Nat) (bs : List Byte) : Tells s (s.hostWrite p addr bs) := ⟨s.out, s.fns, _, rfl⟩

theorem State.queueIrq_tells (s : State) (f q : Nat) : Tells s (s.queueIrq f q) :=
  (Tells.setQueue s f q _).trans (State.interrupt_tells ..)

theorem State.moderate_tells (s : State) (f q : Nat) : Tells s (s.moderate f q) := by
  unfold State.moderate
  dsimp only
  split
  · exact State.queueIrq_tells ..
  · exact .refl s

theorem State.putCompletion_tells (s : State) (f q : Nat) (bs : List Byte) : Tells s (s.putCompletion f q bs) :=
  ((Tells.hostWrite s _ _ bs).trans (Tells.setQueue _ f q _)).trans (State.moderate_tells ..)

theorem State.queueFault_cmds (s : State) (f q code : Nat) : (s.queueFault f q code).cmds = s.cmds :=
  (State.noteFault_cmds ..).trans ((State.event_cmds ..).trans (Tells.setQueue s f q _).cmds)

theorem State.settleNow_cmds (s : State) (f q : Nat) (record : Option (List Byte)) (ok : Bool) : (s.settleNow f q record ok).cmds = s.cmds := by
  unfold State.settleNow
  refine (Tells.setQueue _ f q _).cmds.trans ?_
  cases record with
  | none => exact (Tells.setQueue s f q _).cmds
  | some bs =>
    dsimp only
    split
    · exact (Tells.setQueue s f q _).cmds
    · split
      · exact (State.putCompletion_tells ..).cmds.trans (Tells.setQueue s f q _).cmds
      · exact (State.queueFault_cmds ..).trans ((Tells.setQueue _ f q _).cmds.trans (Tells.setQueue s f q _).cmds)

/-- Settling a record leaves the commands. -/
theorem State.settle_cmds (s : State) (f q : Nat) (record : Option (List Byte)) (ok : Bool) : (s.settle f q record ok).cmds = s.cmds := by
  unfold State.settle
  split
  · split
    · exact (Tells.setFn s f _).cmds
    · exact State.settleNow_cmds ..
  · exact State.settleNow_cmds ..

/-- A queue after a record was put at its tail. -/
def Queue.wrote (v : Queue) (time : Nat) : Queue :=
  { v with
    cqTail := (v.cqTail + 1) % 2 ^ v.lCqLog2, unsignalled := v.unsignalled + 1
    delayFrom := if v.unsignalled = 0 then time else v.delayFrom }

/-- A queue with no interrupts takes a record and nothing else happens. -/
theorem State.putCompletion_quiet (hirq : (s.queue f q).irqEn = false) (bs : List Byte) :
    s.putCompletion f q bs =
      (s.hostWrite (f / 16) ((s.queue f q).lCqBase.toNat + 32 * (s.queue f q).cqTail) bs).setQueue f q ((s.queue f q).wrote s.time) := by
  have hquiet (u : State) (h : (u.queue f q).irqEn = false) : u.moderate f q = u := by simp [State.moderate, h]
  unfold State.putCompletion
  exact hquiet _ ((congrArg Queue.irqEn (State.queue_setQueue ..)).trans hirq)

/-- A queue owed one record fewer. -/
def State.paid (s : State) (f q : Nat) : State := s.setQueue f q { s.queue f q with outstanding := (s.queue f q).outstanding - 1 }

theorem State.settleNow_written (hdis : (s.queue f q).discard = false) (bs : List Byte) :
    s.settleNow f q (some bs) true =
      ((s.paid f q).putCompletion f q bs).setQueue f q (((s.paid f q).putCompletion f q bs).queue f q).drain := by
  unfold State.settleNow
  dsimp only
  rw [if_neg (by simp [hdis]), if_pos rfl]
  rfl

theorem Queue.drain_cqTail (v : Queue) : v.drain.cqTail = v.cqTail := by
  unfold Queue.drain
  split <;> rfl

/-- A record settled to a queue that takes it: its bytes at the tail, the tail one further, and no more than what tells the hosts. -/
theorem State.settle_written (hd3 : (s.fn f).d3hot = false) (hdis : (s.queue f q).discard = false) (hirq : (s.queue f q).irqEn = false)
    (bs : List Byte) :
    Tells s (s.settle f q (some bs) true) ∧
      (s.settle f q (some bs) true).hostMem =
        memWrite s.hostMem (f / 16 * 2 ^ 64 + ((s.queue f q).lCqBase.toNat + 32 * (s.queue f q).cqTail)) bs ∧
      ((s.settle f q (some bs) true).queue f q).cqTail = ((s.queue f q).cqTail + 1) % 2 ^ (s.queue f q).lCqLog2 := by
  have hnow : s.settle f q (some bs) true = s.settleNow f q (some bs) true := by simp [State.settle, hd3]
  have howed : (s.paid f q).queue f q = { s.queue f q with outstanding := (s.queue f q).outstanding - 1 } := State.queue_setQueue ..
  have hquiet : ((s.paid f q).queue f q).irqEn = false := by rw [howed]; exact hirq
  rw [hnow, State.settleNow_written hdis, State.putCompletion_quiet hquiet, howed, State.queue_setQueue, State.queue_setQueue,
    Queue.drain_cqTail]
  refine ⟨?_, rfl, rfl⟩
  exact (((Tells.setQueue s f q _).trans (Tells.hostWrite ..)).trans (Tells.setQueue ..)).trans (Tells.setQueue ..)

/-! ## A command that leaves -/

theorem State.cmd_none (h : ∀ c ∈ s.cmds, c.id ≠ id) : s.cmd id = none := by
  simpa [State.cmd, List.find?_eq_none] using h

theorem State.forgetCmd_cmd (s : State) (id : Nat) : (s.forgetCmd id).cmd id = none := by
  refine State.cmd_none fun c hc => ?_
  obtain ⟨e, he, rfl⟩ := List.mem_map.mp hc
  simpa using (List.mem_filter.mp he).2

/-- A completion's effect on its token brings no command back. -/
theorem State.signal_cmd_none (slot : Nat) (r : Rec) (h : s.cmd id = none) : (s.signal slot r st).cmd id = none := by
  have hnone (u : State) (hu : u.cmds = s.cmds) : (u.noteWaits slot).cmd id = none := by
    rw [State.noteWaits_cmd, State.cmd_congr hu, h]
    rfl
  unfold State.signal
  split
  · exact h
  · split
    · exact hnone _ rfl
    · exact hnone _ rfl

/-- A command that completes is found no more. -/
theorem State.complete_cmd (s : State) (c : Cmd) (st d : Nat) (ok : Bool) : (s.complete c st d ok).cmd c.id = none :=
  State.signal_cmd_none _ _ ((State.cmd_congr (State.settle_cmds ..) c.id).trans (State.forgetCmd_cmd _ c.id))

theorem exec_commandComplete (hcmd : s.cmd id = some c) (hend : c.phase = .ended st d) (hwrites : s.writesOut id = false)
    (hreads : s.awaitsReads c st = false) (hyield : s.mayYield c = false) (ok : Bool) :
    exec (.commandComplete id ok) s = .next (s.complete c (s.finalStop c st d).1 (s.finalStop c st d).2 ok) := by
  change execCommandComplete id ok s = _
  simp only [execCommandComplete, hcmd, hend]
  exact when_of_true (by simp [hwrites, hreads, hyield]) _

/-! ## A command of no unit -/

/-- A command with no exchange, molt, update or flow leaves no engine. -/
theorem State.leaveEngines_none (hcolls : s.colls = []) (hmolts : s.molts = []) (hupds : s.upds = []) (hflows : s.flowsOf id = []) :
    s.leaveEngines id = s := by
  have hupd : s.dropUpd id = s := by simp [State.dropUpd, State.upd, hupds]
  simp [State.leaveEngines, State.coll, State.molt, hcolls, hmolts, hupd, State.forgetFlows, hflows]

/-- A NOP that completes OK leaves nothing but its record and its token. -/
theorem State.complete_nop (hop : c.opcode = 0x01) (hcores : c.cores = []) (hdma : c.dmaCore = none) (hcolls : s.colls = [])
    (hmolts : s.molts = []) (hupds : s.upds = []) (hflows : s.flowsOf c.id = []) (d : Nat) (ok : Bool) :
    s.complete c 0 d ok = ((s.forgetCmd c.id).settle c.fn c.queue (s.recordOf c 0 d) ok).signal c.slot c.record 0 := by
  have hengines := State.leaveEngines_none hcolls hmolts hupds hflows
  have htier : s.tierCleanup c = s := by simp [State.tierCleanup, hop]
  have hfed : s.fedDone c.id 0 d = s := by simp [State.fedDone, hupds]
  have hcount : s.countDone c 0 = s := by simp [State.countDone, hop]
  have hupdate : s.faultUpdate c 0 = s := if_neg fun h => h.1 rfl
  have hhandle : s.leaveHandle c 0 = s := by simp [State.leaveHandle, hop, opLongStart]
  have hdrain : s.endDrain c 0 = s := if_pos rfl
  simp only [State.complete, hcores, hdma, List.foldl_nil, hengines, htier, hfed, hcount, hupdate, hhandle, hdrain]

theorem State.finalStop_clean (hpoison : c.poisoned = none) (d : Nat) : s.finalStop c 0 d = (0, d) := by
  simp [State.finalStop, hpoison, Part.shardStop]

/-- A completion with status OK raises its token by 1. -/
theorem State.signal_ok {slot tok : Nat} {r : Rec} (h : recSignal r = some tok) : s.signal slot r 0 = s.raiseToken slot tok := by
  simp [State.signal, h]

theorem State.raiseToken_count (s : State) (slot tok : Nat) :
    (((s.raiseToken slot tok).part slot).token tok).count = ((s.part slot).token tok).count + 1 := by
  have hpart : (s.raiseToken slot tok).part slot = (s.tokenRaise slot tok).part slot := rfl
  rw [hpart, State.tokenRaise, State.part_setPart, Part.token_setToken]

end

/-- Settles O19: every command that completes is gone; a NOP's record, tail and token. -/
theorem commandCompletes : Obligations.CommandCompletes := by
  unfold Obligations.CommandCompletes
  intro s id st d c hcmd hend hwrites hreads hyield
  obtain rfl := State.cmd_id hcmd
  have hexec := exec_commandComplete hcmd hend hwrites hreads hyield
  refine ⟨fun ok => answers_of_exec (hexec ok) (State.complete_cmd ..),
    fun tok hop hst hpoison hcores hdma hcolls hmolts hupds hflows hall htok hdis hirq hd3 => ?_⟩
  subst hst
  have hrecord : s.recordOf c 0 d =
      some (completionRecord (recSeq c.record) 0 c.ranOn s.time d (s.usedPermille c) (c.admitted - c.doorbell)) := by
    simp [State.recordOf, hall]
  obtain ⟨htells, hmem, htail⟩ := State.settle_written (s := s.forgetCmd c.id) hd3 hdis hirq
    (completionRecord (recSeq c.record) 0 c.ranOn s.time d (s.usedPermille c) (c.admitted - c.doorbell))
  refine answers_of_exec (hexec true) ?_
  rw [State.finalStop_clean hpoison, State.complete_nop hop hcores hdma hcolls hmolts hupds hflows, hrecord, State.signal_ok htok]
  refine ⟨?_, htail, ?_⟩
  · refine (congrArg (memRead · _ 32) hmem).trans ?_
    have hread := memRead_memWrite s.hostMem (c.fn / 16 * 2 ^ 64 + ((s.queue c.fn c.queue).lCqBase.toNat + 32 * (s.queue c.fn c.queue).cqTail))
      (completionRecord (recSeq c.record) 0 c.ranOn s.time d (s.usedPermille c) (c.admitted - c.doorbell))
    rwa [completionRecord_length] at hread
  · have hpart : ((s.forgetCmd c.id).settle c.fn c.queue
        (some (completionRecord (recSeq c.record) 0 c.ranOn s.time d (s.usedPermille c) (c.admitted - c.doorbell))) true).part c.slot =
        s.part c.slot := htells.part c.slot
    rw [State.raiseToken_count, hpart]

end Sys2Proof.Machine

/-!
# The decision of a record

A record is decided on the state with the record taken off the list of those that wait; what it is decided on reads nothing of that list
(R190, R196, R197).
-/
namespace Sys2Proof.Machine

open Sys2Proof Sys2Proof.Safety

/-! ## A record taken from those that wait -/

/-- The state with other records waiting and another count of those decided. -/
def State.aside (s : State) (l : List Waiting) (n u : Nat) : State := { s with waiting := l, decided := n, decidedUs := u }

section
variable (s : State) (l : List Waiting) (n u : Nat)

theorem State.translate_aside (slot va : Nat) : (s.aside l n u).translate slot va = s.translate slot va := rfl
theorem State.readSpans_aside (slot : Nat) (l' : List (Nat × Nat)) (r : ReadOut) :
    (s.aside l n u).readSpans slot l' r = s.readSpans slot l' r := by
  induction l' generalizing r with
  | nil => rfl
  | cons e l' ih =>
    simp only [State.readSpans, ih]
    rfl

theorem State.vread_aside (slot va k : Nat) : (s.aside l n u).vread slot va k = s.vread slot va k := State.readSpans_aside ..

theorem State.peek_aside (slot va k : Nat) : (s.aside l n u).peek slot va k = s.peek slot va k := by
  simp only [State.peek, State.vread_aside]
theorem State.slicesBad_aside (slot : Nat) (y : Layout) (bs : List Byte) : (s.aside l n u).slicesBad slot y bs = s.slicesBad slot y bs := rfl

/-! What reads no waiting record reads the same; what writes none writes beside it. -/

theorem State.cmd_aside (id : Nat) : (s.aside l n u).cmd id = s.cmd id := rfl
theorem State.core_aside (k : Nat) : (s.aside l n u).core k = s.core k := rfl
theorem State.part_aside (k : Nat) : (s.aside l n u).part k = s.part k := rfl
theorem State.regulator_aside (i x : Nat) : (s.aside l n u).regulator i x = s.regulator i x := rfl
theorem State.floorOf_aside (i x : Nat) : (s.aside l n u).floorOf i x = s.floorOf i x := rfl
theorem State.setCmd_aside (c : Cmd) : (s.aside l n u).setCmd c = (s.setCmd c).aside l n u := rfl
theorem State.setCore_aside (k : Nat) (v : Core) : (s.aside l n u).setCore k v = (s.setCore k v).aside l n u := rfl
theorem State.setRegulator_aside (i x : Nat) (r : Regulator) : (s.aside l n u).setRegulator i x r = (s.setRegulator i x r).aside l n u := rfl
theorem State.noteServed_aside (x k : Nat) (out : Bool) : (s.aside l n u).noteServed x k out = (s.noteServed x k out).aside l n u := rfl
theorem State.ceilDebit_aside (i x k : Nat) (r : Regulator) : (s.aside l n u).ceilDebit i x k r = s.ceilDebit i x k r := rfl
theorem State.fresh_aside : (s.aside l n u).fresh = (s.fresh.1, s.fresh.2.aside l n u) := rfl

theorem State.count_aside (i x k : Nat) : (s.aside l n u).count i x k = (s.count i x k).aside l n u := by
  unfold State.count
  split <;> rfl

theorem State.reachLine_aside (cxl : Bool) (dpa : Nat) : (s.aside l n u).reachLine cxl dpa = (s.reachLine cxl dpa).aside l n u := by
  have hblock : (s.aside l n u).block (channelOf dpa) = s.block (channelOf dpa) := rfl
  unfold State.reachLine
  simp only [hblock]
  split
  · rfl
  · split
    · rfl
    · split <;> rfl
    · rfl

theorem State.serveFloor_aside (i x k : Nat) (out : Bool) : (s.aside l n u).serveFloor i x k out = (s.serveFloor i x k out).aside l n u := by
  simp only [State.serveFloor, State.regulator_aside, State.ceilDebit_aside, State.setRegulator_aside, State.noteServed_aside,
    State.count_aside]

theorem State.owedFloor_aside (i x fuel : Nat) : (s.aside l n u).owedFloor i x fuel = (s.owedFloor i x fuel).aside l n u := by
  induction fuel generalizing s with
  | zero => rfl
  | succ fuel ih =>
    simp only [State.owedFloor, State.regulator_aside, State.floorOf_aside, State.serveFloor_aside, State.setRegulator_aside, ih]
    cases (s.regulator i x).owed with
    | nil => rfl
    | cons o os =>
      simp only [apply_ite (State.aside · l n u)]
      rfl

theorem State.drawTokens_aside (i x k : Nat) (out floor : Bool) :
    (s.aside l n u).drawTokens i x k out floor = (s.drawTokens i x k out floor).aside l n u := by
  simp only [State.drawTokens, State.regulator_aside, State.floorOf_aside, State.setRegulator_aside, State.owedFloor_aside,
    apply_ite (State.aside · l n u)]
  rfl

theorem State.charge_aside (id : Option Nat) (x k : Nat) (out floor : Bool) :
    (s.aside l n u).charge id x k out floor = (s.charge id x k out floor).aside l n u := by
  cases id with
  | none => rfl
  | some i =>
    simp only [State.charge, State.cmd_aside, State.setCmd_aside, State.drawTokens_aside]
    cases s.cmd i with
    | none => rfl
    | some c => simp only [apply_ite (State.aside · l n u)]

theorem State.chargeRead_aside (id : Option Nat) (slot : Nat) (es : List (Nat × Nat)) :
    (s.aside l n u).chargeRead id slot es = (s.chargeRead id slot es).aside l n u := by
  induction es generalizing s with
  | nil => rfl
  | cons e es ih =>
    simp only [State.chargeRead, State.translate_aside]
    split
    · rfl
    · rw [State.reachLine_aside, State.charge_aside, ih]

theorem State.drawSpans_aside (slot : Nat) (write : Bool) (es : List (Nat × Nat)) :
    (s.aside l n u).drawSpans slot write es = (s.drawSpans slot write es).aside l n u := by
  induction es generalizing s with
  | nil => rfl
  | cons e es ih =>
    simp only [State.drawSpans, State.translate_aside]
    split
    · rfl
    · rw [State.drawTokens_aside, ih]

theorem State.notePoison_aside (id a : Nat) : (s.aside l n u).notePoison id a = (s.notePoison id a).aside l n u := by
  unfold State.notePoison
  rw [State.cmd_aside]
  split
  · rfl
  · split <;> rfl

theorem State.endCmd_aside (id st d : Nat) : (s.aside l n u).endCmd id st d = (s.endCmd id st d).aside l n u := by
  unfold State.endCmd
  rw [State.cmd_aside]
  split
  · rfl
  · split <;> rfl

theorem State.tlbTouch_aside (k slot va : Nat) : (s.aside l n u).tlbTouch k slot va = (s.tlbTouch k slot va).aside l n u := by
  unfold State.tlbTouch
  rw [State.translate_aside]
  cases s.translate slot va with
  | none => rfl
  | some w =>
    simp only [State.core_aside, State.part_aside, State.fresh_aside]
    generalize (if w.leaf.big = true then w.page / 32 * 32 else w.page) = page
    by_cases hheld : (s.core k).tlb.contains { slot := slot, side1 := w.side1, page := page, leaf := (s.part slot).leaf w.side1 page } = true
    · simp only [hheld, if_true]
    · by_cases hfull : tlbEntries ≤ ((s.core k).tlb.filter fun x => !(x.slot == slot && x.side1 == w.side1 && x.page == page)).length
      · simp only [hheld, hfull, Bool.false_eq_true, if_true, if_false, State.core_aside, State.setCore_aside, State.count_aside]
      · simp only [hheld, hfull, Bool.false_eq_true, if_false, State.core_aside, State.setCore_aside, State.count_aside]

theorem State.tlbRange_aside (k slot va len : Nat) : (s.aside l n u).tlbRange k slot va len = (s.tlbRange k slot va len).aside l n u := by
  unfold State.tlbRange
  induction pieces 16 va len generalizing s with
  | nil => rfl
  | cons e es ih => rw [List.foldl_cons, State.tlbTouch_aside, ih, List.foldl_cons]

theorem State.descTouch_aside (id slot va k : Nat) : (s.aside l n u).descTouch id slot va k = (s.descTouch id slot va k).aside l n u := by
  unfold State.descTouch
  rw [State.cmd_aside]
  split
  · exact State.tlbRange_aside ..
  · rfl

theorem State.cmdRead_aside (id slot va k : Nat) :
    (s.aside l n u).cmdRead id slot va k = ((s.cmdRead id slot va k).1.aside l n u, (s.cmdRead id slot va k).2) := by
  unfold State.cmdRead
  rw [State.vread_aside]
  split
  · rw [State.endCmd_aside]
  · simp only [State.chargeRead_aside, State.cmd_aside, State.drawSpans_aside, State.notePoison_aside, ← apply_ite (State.aside · l n u)]
    split <;> rfl

theorem State.descRead_aside (id slot va k : Nat) :
    (s.aside l n u).descRead id slot va k = ((s.descRead id slot va k).1.aside l n u, (s.descRead id slot va k).2) := by
  simp only [State.descRead, State.descTouch_aside, State.cmdRead_aside]
  rcases (s.descTouch id slot va k).cmdRead id slot va k with ⟨t, _ | bs⟩
  · rfl
  · simp only [State.cmd_aside, State.endCmd_aside]
    split <;> rfl

theorem State.readLayout_aside (c : Cmd) (va : Nat) (old : Bool) :
    (s.aside l n u).readLayout c va old = ((s.readLayout c va old).1.aside l n u, (s.readLayout c va old).2) := by
  simp only [State.readLayout, State.descRead_aside]
  rcases s.descRead c.id c.slot va 64 with ⟨s1, _ | h⟩
  · rfl
  · dsimp only
    split
    · rfl
    · simp only [State.descRead_aside]
      rcases s1.descRead c.id c.slot (field h 0x20 8) (8 * field h 8 4) with ⟨s2, _ | rk⟩
      · rfl
      · simp only [State.descRead_aside]
        rcases s2.descRead c.id c.slot (field h 0x28 8) (32 * field h 0x10 4) with ⟨s3, _ | sl⟩
        · rfl
        · simp only [State.slicesBad_aside]
          split
          · rfl
          · by_cases hbad : s3.slicesBad c.slot (layoutOf h rk sl) sl = true
            · simp only [hbad, if_true]
            · simp only [hbad, Bool.false_eq_true, if_false]

theorem State.moltOccupancy_aside (c : Cmd) (k : Nat) : (s.aside l n u).moltOccupancy c k = s.moltOccupancy c k := by
  have hcmds : ({ s.aside l n u with cmds := (s.aside l n u).cmds ++ [c] } : State) = State.aside { s with cmds := s.cmds ++ [c] } l n u := rfl
  simp only [State.moltOccupancy, hcmds, State.readLayout_aside, State.peek_aside]

/-! The decision reads through `peek` and `moltOccupancy`; all else of it reads the fields themselves. -/

theorem State.copiedBytes_aside (slot : Nat) (es cover : List (Nat × Nat)) :
    (s.aside l n u).copiedBytes slot es cover = s.copiedBytes slot es cover := by
  have htranslate (a : Nat) : (s.aside l n u).translate slot a = s.translate slot a := State.translate_aside ..
  have hpart : (s.aside l n u).part slot = s.part slot := State.part_aside ..
  simp only [State.copiedBytes, hpart, htranslate]

theorem State.frozenAt_aside (v : Upd) (e : Nat) : (s.aside l n u).frozenAt v e = s.frozenAt v e := by
  simp only [State.frozenAt, State.vread_aside]

theorem State.updCover_aside (v : Upd) : (s.aside l n u).updCover v = s.updCover v := by
  simp only [State.updCover, State.part_aside, State.frozenAt_aside]

theorem State.group_aside (slot g : Nat) : (s.aside l n u).group slot g = s.group slot g := by
  have hbytes : (s.aside l n u).groupBytes slot g = s.groupBytes slot g := by
    simp only [State.groupBytes, State.part_aside, State.vread_aside]
  have htracker (k : Nat) : (s.aside l n u).tracker slot k = s.tracker slot k := by
    simp only [State.tracker, State.part_aside, State.vread_aside]
  have hbad (bs : List Byte) : (s.aside l n u).groupBad slot bs = s.groupBad slot bs := by
    simp only [State.groupBad, htracker]
  simp only [State.group, hbytes, hbad]

theorem State.hasPeers_aside (slot : Nat) (r : Rec) : (s.aside l n u).hasPeers slot r = s.hasPeers slot r := by
  simp only [State.hasPeers, State.peek_aside]

theorem State.noteCmd_aside (c : Cmd) : (s.aside l n u).noteCmd c = s.noteCmd c := rfl

theorem State.asCmd_aside (slot : Nat) (w : Waiting) (rel : Nat) (cost : Cost) :
    (s.aside l n u).asCmd slot w rel cost = s.asCmd slot w rel cost := by
  simp only [State.asCmd, State.hasPeers_aside, State.noteCmd_aside]
  rfl

theorem State.loaderOccupancy_aside (slot f : Nat) (r : Rec) (c : Cost) :
    (s.aside l n u).loaderOccupancy slot f r c = s.loaderOccupancy slot f r c := by
  simp only [State.loaderOccupancy, State.peek_aside]
  rfl

theorem State.collBytes_aside (slot payload : Nat) : (s.aside l n u).collBytes slot payload = s.collBytes slot payload := by
  simp only [State.collBytes, State.peek_aside]
  rfl

theorem State.updBytes_aside (slot payload : Nat) : (s.aside l n u).updBytes slot payload = s.updBytes slot payload := by
  simp only [State.updBytes, State.peek_aside, State.group_aside, State.copiedBytes_aside, State.updCover_aside, State.frozenAt_aside]

theorem State.nicOccupancy_aside (c : Cmd) : (s.aside l n u).nicOccupancy c = s.nicOccupancy c := by
  simp only [State.nicOccupancy, State.collBytes_aside, State.updBytes_aside, State.moltOccupancy_aside]
  rfl

theorem State.unitOccupancy_aside (c : Cmd) (cost : Cost) (k : UnitClass) :
    (s.aside l n u).unitOccupancy c cost k = s.unitOccupancy c cost k := by
  simp only [State.unitOccupancy, State.loaderOccupancy_aside, State.nicOccupancy_aside]
  rfl

theorem State.fitOn_aside (e : Timeline) (c : Cmd) : (s.aside l n u).fitOn e c = s.fitOn e c := rfl

theorem State.bindControl_aside (c : Cmd) (cost : Cost) : (s.aside l n u).bindControl c cost = s.bindControl c cost := by
  simp only [State.bindControl, State.unitOccupancy_aside, State.fitOn_aside]
  rfl

theorem State.takeDma_aside (c : Cmd) (ks : List Nat) (e : Option Unfit) : (s.aside l n u).takeDma c ks e = s.takeDma c ks e := by
  induction ks generalizing e with
  | nil => rfl
  | cons k ks ih => simp only [State.takeDma, State.fitOn_aside, ih]

theorem State.bindDma_aside (c : Cmd) : (s.aside l n u).bindDma c = s.bindDma c := by
  have hcan : (s.aside l n u).candidates c.slot c.record = s.candidates c.slot c.record := rfl
  simp only [State.bindDma, State.takeDma_aside, hcan]

theorem State.takeCores_aside (c : Cmd) (k : Nat) (ks got : List Nat) (e : Option Unfit) :
    (s.aside l n u).takeCores c k ks got e = s.takeCores c k ks got e := by
  have hbound (js : List Nat) : (s.aside l n u).boundCmd c js = s.boundCmd c js := rfl
  have hunfit (me : Cmd) (js : List Nat) : (s.aside l n u).coresUnfit me js = s.coresUnfit me js := rfl
  induction ks generalizing got e with
  | nil => rfl
  | cons k ks ih => simp only [State.takeCores, hbound, hunfit, ih]

theorem State.bindCores_aside (c : Cmd) : (s.aside l n u).bindCores c = s.bindCores c := by
  have hcan : (s.aside l n u).candidates c.slot c.record = s.candidates c.slot c.record := rfl
  simp only [State.bindCores, State.takeCores_aside, hcan]

theorem State.place_aside (c : Cmd) (cost : Cost) : (s.aside l n u).place c cost = s.place c cost := by
  have hnone : (s.aside l n u).bindNone c = s.bindNone c := rfl
  simp only [State.place, State.bindControl_aside, State.unitOccupancy_aside, State.bindCores_aside, State.bindDma_aside,
    State.fitOn_aside]
  rfl

/-- What a record is decided on reads nothing of the records that wait. -/
theorem State.decideRest_aside (slot : Nat) (w : Waiting) : (s.aside l n u).decideRest slot w = s.decideRest slot w := by
  have henv (f : Nat) (r : Rec) : (s.aside l n u).envelopeBad slot f r = s.envelopeBad slot f r := rfl
  have hop (h : Nat) : (s.aside l n u).longop slot h = s.longop slot h := rfl
  have hbound : (s.aside l n u).releaseBound slot w = s.releaseBound slot w := rfl
  have hcost (r : Rec) : (s.aside l n u).costOf slot r = s.costOf slot r := rfl
  have hbytes (me : Cmd) : (s.aside l n u).bytesUnfit me = s.bytesUnfit me := rfl
  simp only [State.decideRest, henv, hop, hbound, hcost, hbytes, State.asCmd_aside, State.place_aside]

end

/-! ## A record accepted (R84, R196, R207, R226) -/

section
variable {s : State} {w : Waiting} {l : List Waiting} {me : Cmd} {slot st d : Nat} {ok : Bool}

theorem State.wakeTo_rest (s : State) (b : Nat) (goal : PowerState) : s.wakeTo b goal = { s with power := (s.wakeTo b goal).power } := by
  unfold State.wakeTo
  dsimp only
  split <;> rfl

theorem State.wakeBlock_rest (s : State) (b : Nat) : s.wakeBlock b = { s with power := (s.wakeBlock b).power } := by
  unfold State.wakeBlock
  dsimp only
  split
  · rfl
  · split
    · rfl
    · rw [State.wakeTo_rest]
      rfl

theorem State.wakeBlocks_rest (s : State) (bs : List Nat) : ∃ p, bs.foldl (fun s b => s.wakeBlock b) s = { s with power := p } := by
  induction bs generalizing s with
  | nil => exact ⟨s.power, rfl⟩
  | cons b bs ih =>
    obtain ⟨p, hp⟩ := ih (s.wakeBlock b)
    refine ⟨p, hp.trans ?_⟩
    rw [State.wakeBlock_rest]

theorem State.openHandle_rest (s : State) (c : Cmd) : ∃ p, s.openHandle c = { s with parts := p } := by
  unfold State.openHandle
  split
  · exact ⟨_, rfl⟩
  · exact ⟨s.parts, rfl⟩

theorem State.startDrain_rest (s : State) (c : Cmd) : ∃ k, s.startDrain c = { s with cores := k } := by
  unfold State.startDrain
  dsimp only
  split
  · induction drainCores (allocArgs c.record) generalizing s with
    | nil => exact ⟨s.cores, rfl⟩
    | cons k ks ih =>
      rw [List.foldl_cons]
      split
      · exact ih _
      · exact ih s
  · exact ⟨s.cores, rfl⟩

/-- Acceptance puts the command after those accepted, takes the next number, and changes besides only handles, cores and power. -/
theorem State.accept_rest (s : State) (me : Cmd) : ∃ p k e,
    s.accept me = { s with cmds := s.cmds.map (me.paired ·) ++ [me], nextId := s.nextId + 1, parts := p, cores := k, power := e } := by
  unfold State.accept
  dsimp only
  obtain ⟨p, hp⟩ := State.openHandle_rest { s.withNew me with nextId := s.nextId + 1 } me
  rw [hp]
  obtain ⟨k, hk⟩ := State.startDrain_rest { s.withNew me with nextId := s.nextId + 1, parts := p } me
  rw [hk]
  obtain ⟨e, he⟩ := State.wakeBlocks_rest { s.withNew me with nextId := s.nextId + 1, parts := p, cores := k }
    (State.pendingBlocks { s.withNew me with nextId := s.nextId + 1, parts := p, cores := k } me)
  exact ⟨p, k, e, he⟩

/-! ## A record refused (R197, R198) -/

/-- A completion's effect on its token changes partitions and commands alone, and no command's place. -/
theorem State.signal_rest (s : State) (slot : Nat) (r : Rec) (st : Nat) :
    ∃ p cs, cs.length = s.cmds.length ∧ s.signal slot r st = { s with parts := p, cmds := cs } := by
  unfold State.signal
  split
  · exact ⟨s.parts, s.cmds, rfl, rfl⟩
  · split
    · exact ⟨_, _, List.length_map _, rfl⟩
    · exact ⟨_, _, List.length_map _, rfl⟩

/-- A record settled and its token seen to: the record stands at its queue's tail, and no command comes or goes. -/
theorem State.settle_signal_shows {f q : Nat} (hd3 : (s.fn f).d3hot = false) (hdis : (s.queue f q).discard = false)
    (hirq : (s.queue f q).irqEn = false) (bs : List Byte) (slot : Nat) (r : Rec) (st : Nat) :
    ((s.settle f q (some bs) true).signal slot r st).waiting = s.waiting ∧
      ((s.settle f q (some bs) true).signal slot r st).cmds.length = s.cmds.length ∧
      memRead ((s.settle f q (some bs) true).signal slot r st).hostMem
        (f / 16 * 2 ^ 64 + ((s.queue f q).lCqBase.toNat + 32 * (s.queue f q).cqTail)) bs.length = bs := by
  obtain ⟨htells, hmem, -⟩ := State.settle_written hd3 hdis hirq bs
  obtain ⟨p, cs, hlen, hsignal⟩ := State.signal_rest (s.settle f q (some bs) true) slot r st
  have hwaiting : (s.settle f q (some bs) true).waiting = s.waiting := by
    obtain ⟨o, fs, m, e⟩ := htells
    rw [e]
  rw [hsignal]
  refine ⟨hwaiting, hlen.trans (congrArg List.length htells.cmds), ?_⟩
  rw [show ({ s.settle f q (some bs) true with parts := p, cmds := cs } : State).hostMem = _ from hmem]
  exact memRead_memWrite ..

/-- A refused record is answered at its queue's tail, and nothing is accepted or left waiting for it. -/
theorem State.refuse_shows (hd3 : (s.fn w.fn).d3hot = false) (hdis : (s.queue w.fn w.queue).discard = false)
    (hirq : (s.queue w.fn w.queue).irqEn = false) (slot st d : Nat) :
    (s.refuse slot w st d true).waiting = s.waiting ∧ (s.refuse slot w st d true).cmds.length = s.cmds.length ∧
      memRead (s.refuse slot w st d true).hostMem
        (w.fn / 16 * 2 ^ 64 + ((s.queue w.fn w.queue).lCqBase.toNat + 32 * (s.queue w.fn w.queue).cqTail)) 32 =
        completionRecord (recSeq w.record) st 0xFF s.time d 0 (s.time - w.doorbell) := by
  unfold State.refuse
  dsimp only
  split
  · exact State.settle_signal_shows (s := s.setPart slot _) hd3 hdis hirq
      (completionRecord (recSeq w.record) st 0xFF s.time d 0 (s.time - w.doorbell)) slot w.record st
  · exact State.settle_signal_shows hd3 hdis hirq
      (completionRecord (recSeq w.record) st 0xFF s.time d 0 (s.time - w.doorbell)) slot w.record st

/-! ## Which way a record goes -/

theorem State.decideRecord_bad {x : Nat} (h : recordBad w.record = some x) : s.decideRecord slot w ok = s.refuse slot w 0x0106 x ok := by
  simp only [State.decideRecord, h]

theorem State.decideRecord_closed (h : recordBad w.record = none) (hclosed : s.entry 0x8000 1 ≠ 0 ∨ s.boot.admitOpen = false) :
    s.decideRecord slot w ok = s.refuse slot w 0x0103 0 ok := by
  have hc : s.entry 0x8000 1 ≠ 0 ∨ (!s.boot.admitOpen) = true := hclosed.imp id fun h => by rw [h]; rfl
  simp only [State.decideRecord, h]
  rw [if_pos hc]

theorem State.inService (hentry : s.entry 0x8000 1 = 0) (hopen : s.boot.admitOpen = true) :
    ¬(s.entry 0x8000 1 ≠ 0 ∨ (!s.boot.admitOpen) = true) := by simp [hentry, hopen]

theorem State.decideRecord_warned (h : recordBad w.record = none) (hentry : s.entry 0x8000 1 = 0) (hopen : s.boot.admitOpen = true)
    (hwarn : s.power.warnActive = true) : s.decideRecord slot w ok = s.refuse slot w 0x0104 0 ok := by
  simp only [State.decideRecord, h]
  rw [if_neg (State.inService hentry hopen), if_pos hwarn]

theorem State.decideRecord_failed (h : recordBad w.record = none) (hentry : s.entry 0x8000 1 = 0) (hopen : s.boot.admitOpen = true)
    (hwarn : s.power.warnActive = false) (hwait : s.failedWait slot w.record = none) (hrest : s.decideRest slot w = .error (st, d)) :
    s.decideRecord slot w ok = s.refuse slot w st d ok := by
  have hcalm : ¬s.power.warnActive = true := by simp [hwarn]
  simp only [State.decideRecord, h, hwait, hrest]
  rw [if_neg (State.inService hentry hopen), if_neg hcalm]

theorem State.decideRecord_accepted (h : recordBad w.record = none) (hentry : s.entry 0x8000 1 = 0) (hopen : s.boot.admitOpen = true)
    (hwarn : s.power.warnActive = false) (hwait : s.failedWait slot w.record = none) (hrest : s.decideRest slot w = .ok (.ok me)) :
    s.decideRecord slot w ok = s.accept me := by
  have hcalm : ¬s.power.warnActive = true := by simp [hwarn]
  simp only [State.decideRecord, h, hwait, hrest]
  rw [if_neg (State.inService hentry hopen), if_neg hcalm]

/-! ## ADMIT_RECORD -/

/-- Records decided in this device µs, with this one. -/
def State.decidedNow (s : State) : Nat := (if s.decidedUs = s.time then s.decided else 0) + 1

theorem State.decided_room (hroom : s.decidedUs = s.time → s.decided < 8) : ¬8 ≤ if s.decidedUs = s.time then s.decided else 0 := by
  split
  · next heq => exact Nat.not_le.mpr (hroom heq)
  · decide

theorem exec_admitRecord_held (hfront : s.waiting = w :: l) (hreset : s.deviceReset = false) (hslot : s.fnSlot w.fn = some slot)
    (hroom : s.decidedUs = s.time → s.decided < 8) (hcoming : s.tokenComing slot w = false) (hlikely : s.tokenLikely slot w = true)
    (ok : Bool) : exec (.admitRecord ok) s = .next { s with admitHeld := some ok } := by
  change execAdmitRecord ok s = _
  simp only [execAdmitRecord, hfront, hreset, hslot, State.decided_room hroom, hcoming, hlikely, decide_false, Bool.or_false,
    Bool.false_eq_true, if_true, if_false]

theorem exec_admitRecord_decides (hfront : s.waiting = w :: l) (hreset : s.deviceReset = false) (hslot : s.fnSlot w.fn = some slot)
    (hroom : s.decidedUs = s.time → s.decided < 8) (hcoming : s.tokenComing slot w = false) (hlikely : s.tokenLikely slot w = false)
    (ok : Bool) : exec (.admitRecord ok) s = .next ((s.aside l s.decidedNow s.time).decideRecord slot w ok) := by
  have hkept : (s.aside l s.decidedNow s.time).fnSlot w.fn = some slot := hslot
  have hdecide : s.decideFront ok = (s.aside l s.decidedNow s.time).decideRecord slot w ok := by
    simp only [State.decideFront, hfront]
    split
    · next hnone => exact absurd (hkept.symm.trans hnone) (by simp)
    · next k hsome =>
      obtain rfl : slot = k := Option.some.inj (hkept.symm.trans hsome)
      rfl
  change execAdmitRecord ok s = _
  simp only [execAdmitRecord, hfront, hreset, hslot, State.decided_room hroom, hcoming, hlikely, decide_false, Bool.or_false,
    Bool.false_eq_true, if_false, hdecide]

end

/-- Settles O14: a record held, accepted, and refused. -/
theorem recordsDecided : Obligations.RecordsDecided := by
  unfold Obligations.RecordsDecided
  intro s w l i hfront hreset hslot hroom hcoming
  refine ⟨fun ok hlikely => answers_of_exec (exec_admitRecord_held hfront hreset hslot hroom hcoming hlikely ok) rfl,
    fun me ok hlikely hform hentry hopen hwarn hwait hrest => ?accepted, fun st d hlikely hdis hirq hd3 hcase => ?refused⟩
  case accepted =>
    have hrest' := (State.decideRest_aside s l s.decidedNow s.time i w).trans hrest
    refine answers_of_exec (exec_admitRecord_decides hfront hreset hslot hroom hcoming hlikely ok) ?_
    rw [State.decideRecord_accepted (s := s.aside l s.decidedNow s.time) hform hentry hopen hwarn hwait hrest']
    obtain ⟨p, k, e, haccept⟩ := State.accept_rest (s.aside l s.decidedNow s.time) me
    rw [haccept]
    exact ⟨rfl, by simp, by simp [State.aside], rfl, rfl, fun _ => rfl, fun _ => rfl, fun _ => rfl⟩
  case refused =>
    have hrefuse : (s.aside l s.decidedNow s.time).decideRecord i w true = (s.aside l s.decidedNow s.time).refuse i w st d true := by
      rcases hcase with ⟨hform, rfl⟩ | ⟨hform, rfl, ⟨hclosed, rfl⟩ | ⟨hentry, hopen, hwarn, rfl⟩⟩ |
        ⟨hform, hentry, hopen, hwarn, hwait, hrest⟩
      · exact State.decideRecord_bad hform
      · exact State.decideRecord_closed hform hclosed
      · exact State.decideRecord_warned hform hentry hopen hwarn
      · exact State.decideRecord_failed (s := s.aside l s.decidedNow s.time) hform hentry hopen hwarn hwait
          ((State.decideRest_aside s l s.decidedNow s.time i w).trans hrest)
    refine answers_of_exec (exec_admitRecord_decides hfront hreset hslot hroom hcoming hlikely true) ?_
    rw [hrefuse]
    exact State.refuse_shows (s := s.aside l s.decidedNow s.time) hd3 hdis hirq i st d

end Sys2Proof.Machine

/-!
# Cocoons: a displacement counted twice

R238, R249, R306: what COCOON_SAVE_DONE counts. COCOONS (0x3014) of a slot and SCRATCH_CE_COUNT (0x5050) of a core are dictionary
entries, whose keys are 256 × index + subindex. Slots are 0 to 15 (R120), so no two of these keys meet in the device; O21 speaks of every
state, where the slot number of a command is any number, and for one far beyond the sixteen the two counters have one key.
-/
namespace Sys2Proof.Machine

open Sys2Proof Sys2Proof.Safety

section
variable {s t : State} {id : Nat} {b : Cmd}

theorem State.dictGet_congr (h : t.dict = s.dict) (key : Nat) : t.dictGet key = s.dictGet key := by
  rw [State.dictGet, State.dictGet, h]

@[simp] theorem State.noteFault_dict (s : State) (unit cls : Nat) : (s.noteFault unit cls).dict = s.dict := by rw [State.noteFault_rest]

/-- A cocoon written leaves the dictionary (R238). -/
@[simp] theorem State.saveCore_dict (s : State) (id k : Nat) : (s.saveCore id k).dict = s.dict := rfl

/-- A word of a held group that reads with a corrected error is counted at its core (R306). -/
theorem State.scratchErrs_corrected {slot c : Nat} {bank : BankNo} (word : Fin 1024)
    (hholder : (s.core c).holder = some slot) (hgroup : bitAt (s.core c).groups.toNat (bank.val / 64) = true) :
    s.scratchErrs slot c [(bank, word, .corrected)] = (s.count 0x5050 (c + 1) 1).noteFault (unitId 5 c (bank.val / 64)) 1 := by
  simp [State.scratchErrs, State.scratchEcc, hholder, hgroup]

/-- What a save from one core counts when its mover reads one corrected word there: the word, then the displacement. -/
theorem exec_cocoonSaveDone_corrected {k : CoreNo} {bank : BankNo} (word : Fin 1024) (hcmd : s.cmd id = some b) (hphase : b.phase = .saving)
    (hcores : b.cores = [k.val]) (hreads : s.readsOut id = false) (hholder : (s.core k.val).holder = some b.slot)
    (hgroup : bitAt (s.core k.val).groups.toNat (bank.val / 64) = true)
    (hexec : exec (.cocoonSaveDone ⟨k, [⟨k, [(bank, word, .corrected)]⟩]⟩ id) s = .next t) :
    t.entry 0x3014 (b.slot + 1) = (s.count 0x5050 (k.val + 1) 1).entry 0x3014 (b.slot + 1) + 1 := by
  change execCocoonSaveDone _ id s = _ at hexec
  rw [execCocoonSaveDone, hcmd] at hexec
  simp only [hphase, hcores, hreads, List.contains_cons, List.contains_nil, beq_self_eq_true, Bool.or_false, Bool.not_false, Bool.and_true,
    List.foldl_cons, List.foldl_nil, if_true, State.scratchErrs_corrected word hholder hgroup] at hexec
  obtain rfl := Host.Outcome.next.inj ((when_of_true rfl _).symm.trans hexec)
  refine (State.dictGet_count ..).trans (congrArg (· + 1) (State.dictGet_congr ?_ _))
  simp

end

/-- The slot number whose COCOONS has the key of SCRATCH_CE_COUNT of core 0. -/
def aliasSlot : Nat := (0x5050 - 0x3014) * 256

/-- A command of that slot whose save from core 0 is under way. -/
def aliasCmd : Cmd :=
  { id := 0, slot := aliasSlot, fn := 0, queue := 0, record := 0, doorbell := 0, admitted := 0, cores := [0], phase := .saving }

/-- That command alone, on core 0, of which its slot holds bank group 0. -/
def aliasState : State :=
  { State.reset with cmds := [aliasCmd], cores := [(0, { holder := some aliasSlot, groups := 1 })] }

theorem aliasState_cmd : aliasState.cmd 0 = some aliasCmd := rfl

/-- The corrected word counts at the key of the slot's COCOONS. -/
theorem aliasState_corrected :
    (aliasState.count 0x5050 ((0 : CoreNo).val + 1) 1).entry 0x3014 (aliasCmd.slot + 1) = aliasState.entry 0x3014 (aliasCmd.slot + 1) + 1 :=
  State.dictGet_count aliasState 0x5050 1 1

/-- Refutes O21: COCOON_SAVE_DONE of a command of slot `aliasSlot`, whose mover reads one corrected word of core 0, raises the slot's
COCOONS by 2. -/
theorem not_cocoons : ¬ Obligations.Cocoons := by
  unfold Obligations.Cocoons
  intro h
  obtain ⟨-, hsaved, -, -⟩ := h aliasState 0 0 aliasCmd aliasState_cmd
  obtain ⟨t, hexec, -, -, hcount, -⟩ := hsaved [⟨0, [(0, 0, .corrected)]⟩] rfl rfl rfl
  have htwice := exec_cocoonSaveDone_corrected 0 aliasState_cmd rfl rfl rfl rfl (by decide) hexec
  rw [aliasState_corrected, hcount] at htwice
  omega

end Sys2Proof.Machine

/-!
# Packets sent, and the timers of a flow

R246, R446, R449, R450, R452 to R454, R456. What a packet of a flow reads of the state is said once (`SameRoute`); what emits, counts and
serves is then taken apart by the fields each leaves.
-/
namespace Sys2Proof.Machine

open Sys2Proof Sys2Proof.Safety

section
variable {s t u : State} {f : Nat}

/-! ## Flows and ports through updates of the state -/

theorem State.setFlow_flow (s : State) (f g : Nat) (v : Flow) : (s.setFlow f v).flow g = if g = f then v else s.flow g := by
  split
  · subst g; simp
  · exact State.flow_setFlow_other s v ‹_›

theorem State.flow_congr (h : t.flows = s.flows) (g : Nat) : t.flow g = s.flow g := by rw [State.flow, State.flow, h]

theorem State.eth_congr (h : t.ethPorts = s.ethPorts) (p : Nat) : t.eth p = s.eth p := by rw [State.eth, State.eth, h]

@[simp] theorem State.event_flows (s : State) (code detail : Nat) (l : List Nat) : (s.event code detail l).flows = s.flows := by
  obtain ⟨o, f, h, d, e⟩ := s.event_rest code detail l
  rw [e]

@[simp] theorem State.event_users (s : State) (code detail : Nat) (l : List Nat) :
    (s.event code detail l).colls = s.colls ∧ (s.event code detail l).molts = s.molts := by
  obtain ⟨o, f, h, d, e⟩ := s.event_rest code detail l
  rw [e]
  exact ⟨rfl, rfl⟩

/-- A counter raised leaves the network's fields. -/
@[simp] theorem State.count_net (s : State) (index sub n : Nat) :
    (s.count index sub n).flows = s.flows ∧ (s.count index sub n).ethPorts = s.ethPorts ∧ (s.count index sub n).out = s.out ∧
    (s.count index sub n).loopback = s.loopback ∧ (s.count index sub n).portMode = s.portMode ∧ (s.count index sub n).colls = s.colls ∧
    (s.count index sub n).molts = s.molts := by
  obtain ⟨d, e⟩ := s.count_rest index sub n
  rw [e]
  simp

/-! ## A packet put on the wire -/

theorem State.emit_of_up (hup : (s.eth (s.flow f).port).up = true) (hd : Silk) (bs : List Byte) :
    s.emit f hd bs = State.setFlow (if s.isLocal (s.flow f) then { s with loopback := s.loopback ++ [s.loopPkt f hd bs] }
      else { s with out := s.out ++ [Out.packet (s.flow f).port f hd.word bs (s.frameOf f hd bs)] })
        f { s.flow f with lastTx := s.time } := by
  unfold State.emit
  exact if_neg (by simp [hup])

theorem State.emit_of_down (hdown : (s.eth (s.flow f).port).up = false) (hd : Silk) (bs : List Byte) : s.emit f hd bs = s := by
  unfold State.emit
  exact if_pos (by simp [hdown])

theorem State.emit_rest (s : State) (f : Nat) (hd : Silk) (bs : List Byte) :
    ∃ o l fs, s.emit f hd bs = { s with out := o, loopback := l, flows := fs } := by
  cases hup : (s.eth (s.flow f).port).up
  · exact ⟨_, _, _, State.emit_of_down hup hd bs⟩
  · rw [State.emit_of_up hup]
    split <;> exact ⟨_, _, _, rfl⟩

/-- A packet sent leaves every flow but the time of its own last one. -/
theorem State.emit_flow (hup : (s.eth (s.flow f).port).up = true) (hd : Silk) (bs : List Byte) (g : Nat) :
    (s.emit f hd bs).flow g = if g = f then { s.flow f with lastTx := s.time } else s.flow g := by
  rw [State.emit_of_up hup, State.setFlow_flow]
  congr 1
  exact State.flow_congr (by split <;> rfl) g

/-! ## What a packet reads of the state (R433, R454) -/

/-- The fields of a flow that its frames are made from. -/
def Flow.route (fl : Flow) : Nat × Nat × Nat × Bool × BitVec 48 × BitVec 128 := (fl.port, fl.prio, fl.dport, fl.v6, fl.hop, fl.addr)

/-- A dictionary key that a frame may be made from: the base MAC address, or one at or beyond the port addresses. -/
def framed (key : Nat) : Prop := key = dk 0x1000 8 ∨ dk 0x6000 0 ≤ key

/-- A packet of flow f sent from t is the one that s would send, and t has sent what s has. -/
structure SameRoute (s t : State) (f : Nat) : Prop where
  out : t.out = s.out
  loopback : t.loopback = s.loopback
  mode : t.portMode = s.portMode
  up : (t.eth (t.flow f).port).up = (s.eth (s.flow f).port).up
  route : (t.flow f).route = (s.flow f).route
  dict : ∀ key, framed key → t.dictGet key = s.dictGet key

theorem SameRoute.refl (s : State) (f : Nat) : SameRoute s s f := ⟨rfl, rfl, rfl, rfl, rfl, fun _ _ => rfl⟩

theorem SameRoute.trans (h : SameRoute s t f) (k : SameRoute t u f) : SameRoute s u f :=
  ⟨k.out.trans h.out, k.loopback.trans h.loopback, k.mode.trans h.mode, k.up.trans h.up, k.route.trans h.route,
    fun key hk => (k.dict key hk).trans (h.dict key hk)⟩

theorem SameRoute.of_fields (hout : t.out = s.out) (hloop : t.loopback = s.loopback) (hmode : t.portMode = s.portMode)
    (heth : t.ethPorts = s.ethPorts) (hflows : t.flows = s.flows) (hdict : t.dict = s.dict) : SameRoute s t f := by
  have hflow : t.flow f = s.flow f := State.flow_congr hflows f
  exact ⟨hout, hloop, hmode, by rw [hflow, State.eth_congr heth], by rw [hflow], fun key _ => State.dictGet_congr hdict key⟩

theorem SameRoute.setFlow {v : Flow} (h : v.route = (s.flow f).route) : SameRoute s (s.setFlow f v) f := by
  have hport : v.port = (s.flow f).port := congrArg (·.1) h
  refine ⟨rfl, rfl, rfl, ?_, by simpa using h, fun _ _ => rfl⟩
  rw [State.flow_setFlow, hport]
  rfl

theorem SameRoute.count {index sub : Nat} (n : Nat) (h : ¬ framed (dk index sub)) : SameRoute s (s.count index sub n) f := by
  have hflow : (s.count index sub n).flow f = s.flow f := State.flow_congr (by simp) f
  refine ⟨by simp, by simp, by simp, ?_, by rw [hflow], fun key hk => State.dictGet_count_other s n fun e => h (e ▸ hk)⟩
  rw [hflow, State.eth_congr (s := s) (by simp)]

/-- The regulators' counters of egress are no part of a frame (R249). -/
theorem not_framed_served {index i : Nat} (h : index = 0x3020 ∨ index = 0x3021) (hi : i < 16) : ¬ framed (dk index (6 * i + 5 + 1)) := by
  unfold framed dk
  omega

theorem SameRoute.serveFloor {i : Nat} (n : Nat) (hi : i < 16) : SameRoute s (s.serveFloor i 5 n true) f := by
  unfold State.serveFloor
  refine SameRoute.trans ?_ (SameRoute.count n (not_framed_served (.inl rfl) hi))
  exact SameRoute.of_fields rfl rfl rfl rfl rfl rfl

theorem SameRoute.serveSpare {i : Nat} (n : Nat) (hi : i < 16) : SameRoute s (s.serveSpare i 5 n true) f := by
  unfold State.serveSpare
  refine SameRoute.trans ?_ (SameRoute.count n (not_framed_served (.inr rfl) hi))
  exact SameRoute.of_fields rfl rfl rfl rfl rfl rfl

/-- The turns a port takes leave every port's link and pause state. -/
theorem State.takeTurn_eth (s : State) (p slot g : Nat) (floor : Bool) (q : Nat) :
    ((s.takeTurn p slot g floor).eth q).up = (s.eth q).up ∧ ((s.takeTurn p slot g floor).eth q).paused = (s.eth q).paused := by
  unfold State.takeTurn
  rw [State.setEth_eth]
  split
  · subst q; exact ⟨rfl, rfl⟩
  · exact ⟨rfl, rfl⟩

theorem SameRoute.takeTurn (p slot g : Nat) (floor : Bool) : SameRoute s (s.takeTurn p slot g floor) f :=
  ⟨rfl, rfl, rfl, (s.takeTurn_eth p slot g floor _).1, rfl, fun _ _ => rfl⟩

section
variable (h : SameRoute s t f)
include h

theorem SameRoute.portAddr (p : Nat) (v6 : Bool) : t.portAddr p v6 = s.portAddr p v6 := by
  have hentry : ∀ index sub, 0x6000 ≤ index → t.entry index sub = s.entry index sub :=
    fun index sub hi => h.dict _ (.inr (by unfold dk; omega))
  simp [State.portAddr, hentry]

theorem SameRoute.isLocal : t.isLocal (t.flow f) = s.isLocal (s.flow f) := by
  obtain ⟨-, -, -, hv6, -, haddr⟩ : _ ∧ _ ∧ _ ∧ _ ∧ _ ∧ _ := by simpa [Flow.route] using h.route
  simp [State.isLocal, State.portCount, h.portAddr, h.mode, hv6, haddr]

theorem SameRoute.frameOf (hd : Silk) (bs : List Byte) : t.frameOf f hd bs = s.frameOf f hd bs := by
  have hentry : ∀ index sub, 0x6000 ≤ index → t.entry index sub = s.entry index sub :=
    fun index sub hi => h.dict _ (.inr (by unfold dk; omega))
  have hmac : ∀ p, t.macOf p = s.macOf p := fun p => by
    simp only [State.macOf, State.entry, h.dict _ (.inl rfl)]
  obtain ⟨hport, hprio, hdport, hv6, hhop, haddr⟩ : _ ∧ _ ∧ _ ∧ _ ∧ _ ∧ _ := by simpa [Flow.route] using h.route
  simp [State.frameOf, h.isLocal, h.portAddr, hentry, hmac, hport, hprio, hdport, hv6, hhop, haddr]

theorem SameRoute.loopPkt (hd : Silk) (bs : List Byte) : t.loopPkt f hd bs = s.loopPkt f hd bs := by
  obtain ⟨hport, -, hdport, hv6, -, haddr⟩ : _ ∧ _ ∧ _ ∧ _ ∧ _ ∧ _ := by simpa [Flow.route] using h.route
  simp [State.loopPkt, State.portCount, h.portAddr, h.mode, hport, hdport, hv6, haddr]

/-- A packet that t puts on a link that is up is sent as from s. -/
theorem SameRoute.sends_emit (hup : (s.eth (s.flow f).port).up = true) (hd : Silk) (bs : List Byte) : sends s (t.emit f hd bs) f hd bs := by
  have hport : (t.flow f).port = (s.flow f).port := congrArg (·.1) h.route
  unfold sends
  rw [State.emit_of_up (h.up.trans hup), h.isLocal, h.frameOf, h.loopPkt, h.out, h.loopback, hport]
  cases hlocal : s.isLocal (s.flow f) <;> simp

end

theorem sends_congr {hd : Silk} {bs : List Byte} (hout : u.out = t.out) (hloop : u.loopback = t.loopback) (h : sends s t f hd bs) :
    sends s u f hd bs := by
  unfold sends at *
  rw [hout, hloop]
  exact h

/-! ## What serving, charging and settling leave -/

/-- t differs from s at most in what commands hold, regulators and counters. -/
def Noted (s t : State) : Prop := ∃ cs d p fb, t = { s with cmds := cs, dict := d, parts := p, fabric := fb }

theorem Noted.refl (s : State) : Noted s s := ⟨_, _, _, _, rfl⟩

theorem Noted.trans (h : Noted s t) (k : Noted t u) : Noted s u := by
  obtain ⟨_, _, _, _, rfl⟩ := h
  obtain ⟨_, _, _, _, rfl⟩ := k
  exact ⟨_, _, _, _, rfl⟩

theorem Noted.net (h : Noted s t) : t.flows = s.flows ∧ t.out = s.out ∧ t.loopback = s.loopback := by
  obtain ⟨_, _, _, _, rfl⟩ := h
  exact ⟨rfl, rfl, rfl⟩

theorem Noted.time (h : Noted s t) : t.time = s.time := by
  obtain ⟨_, _, _, _, rfl⟩ := h
  rfl

theorem Noted.users (h : Noted s t) : t.colls = s.colls ∧ t.molts = s.molts := by
  obtain ⟨_, _, _, _, rfl⟩ := h
  exact ⟨rfl, rfl⟩

theorem State.count_noted (s : State) (index sub n : Nat) : Noted s (s.count index sub n) := by
  obtain ⟨d, e⟩ := s.count_rest index sub n
  exact ⟨_, d, _, _, e⟩

theorem State.serveFloor_noted (s : State) (i x n : Nat) (out : Bool) : Noted s (s.serveFloor i x n out) := by
  unfold State.serveFloor
  exact Noted.trans ⟨_, _, _, _, rfl⟩ (State.count_noted _ 0x3020 (6 * i + x + 1) n)

theorem State.serveSpare_noted (s : State) (i x n : Nat) (out : Bool) : Noted s (s.serveSpare i x n out) := by
  unfold State.serveSpare
  exact Noted.trans ⟨_, _, _, _, rfl⟩ (State.count_noted _ 0x3021 (6 * i + x + 1) n)

/-- Egress bytes charged to a command pass no regulator there (R245). -/
theorem State.charge_noted (s : State) (id n : Nat) : Noted s (s.charge (some id) 4 n) := by
  unfold State.charge
  dsimp only
  split
  · exact Noted.refl s
  · exact ⟨_, _, _, _, if_pos (by simp)⟩

theorem State.settlePeer_noted (s : State) (id : Nat) : Noted s (s.settlePeer id) := by
  unfold State.settlePeer State.peerDone
  split
  · exact Noted.refl s
  · split
    · split
      · exact Noted.refl s
      · split <;> exact ⟨_, _, _, _, rfl⟩
    · exact Noted.refl s

/-! ## The next packet of a port (R246, R453) -/

theorem mem_inTurn {l : List Nat} {x y : Nat} (h : y ∈ inTurn l x) : y ∈ l := by
  unfold inTurn at h
  rcases List.mem_append.mp h with h | h <;> exact List.mem_of_mem_filter h

theorem State.pickFlow_could {p i : Nat} {floor : Bool} (h : s.pickFlow p i floor = some f) : s.couldSend p i f floor = true := by
  unfold State.pickFlow at h
  obtain ⟨q, -, hq⟩ := List.exists_of_findSome?_eq_some h
  have hmem := List.mem_of_mem_filter (mem_inTurn (List.mem_of_mem_head? hq))
  exact (List.mem_filter.mp hmem).2

/-- The flow picked for a port could send there, and its slot is one of the sixteen. -/
theorem State.pickSend_could {p i : Nat} {floor : Bool} (h : s.pickSend p floor = some (i, f)) : i < 16 ∧ s.couldSend p i f floor = true := by
  unfold State.pickSend at h
  obtain ⟨j, hj, hpick⟩ := List.exists_of_findSome?_eq_some h
  obtain ⟨g, hg, he⟩ := Option.map_eq_some_iff.mp hpick
  obtain ⟨rfl, rfl⟩ := Prod.mk.inj he
  exact ⟨List.mem_range.mp (mem_inTurn hj), State.pickFlow_could hg⟩

/-- A flow that could send a packet for the first time has its port's link up. -/
theorem State.up_of_couldSend {p i : Nat} {floor : Bool} (h : s.couldSend p i f floor = true) (hfirst : floor = false → s.couldResend p i f = false) :
    (s.eth (s.flow f).port).up = true := by
  have hcan : s.canSend f = true := by
    cases floor
    · simp only [State.couldSend, hfirst rfl, Bool.and_false, Bool.or_false, Bool.and_eq_true] at h
      exact h.1.2
    · simp only [State.couldSend, Bool.not_true, Bool.false_and, Bool.or_false, Bool.and_eq_true] at h
      exact h.1.2
  simp only [State.canSend, Bool.and_eq_true] at hcan
  exact hcan.1.1.2

theorem exec_dataSend {p : EthNo} {i : Nat} {floor : Bool} (hup : s.portUp p.val = true) (hpick : s.pickSend p.val floor = some (i, f))
    (hturn : floor = false → s.pickSend p.val true = none) : exec (.dataSend p) s = .next (s.sendOne p.val i f floor) := by
  change execDataSend p s = _
  cases floor
  · simp [execDataSend, hup, hpick, hturn rfl]
  · simp [execDataSend, hup, hpick]

/-! ## A first transmission -/

/-- A flow whose first queued packet is sent now. -/
def Flow.sent (fl : Flow) (x : TxPkt) (l : List TxPkt) (now : Nat) : Flow :=
  { fl with txQueue := l, txOut := fl.txOut ++ [{ x with psn := fl.txNext, sentAt := now }], txNext := psnNext fl.txNext
            rtoFrom := if fl.txOut.isEmpty then now else fl.rtoFrom }

/-- A packet that is no CLOSE goes as DATA. -/
theorem State.emitTx_data {k : TxPkt} (s : State) (f : Nat) (retx : Bool) (h : k.close = false) :
    ∃ hd : Silk, hd.ty = 0 ∧ s.emitTx f k retx = s.emit f hd k.payload := by
  unfold State.emitTx
  simp only [h]
  exact ⟨_, rfl, rfl⟩

/-- The bytes of a packet pass the slot's regulator of egress in a class. -/
def State.servePacket (s : State) (slot n : Nat) (floor : Bool) : State :=
  if floor then s.serveFloor slot 5 n true else s.serveSpare slot 5 n true

theorem State.servePacket_noted (s : State) (slot n : Nat) (floor : Bool) : Noted s (s.servePacket slot n floor) := by
  unfold State.servePacket
  split
  · exact State.serveFloor_noted ..
  · exact State.serveSpare_noted ..

theorem SameRoute.servePacket {i : Nat} (n : Nat) (floor : Bool) (hi : i < 16) : SameRoute s (s.servePacket i n floor) f := by
  unfold State.servePacket
  split
  · exact SameRoute.serveFloor n hi
  · exact SameRoute.serveSpare n hi

theorem State.sendFirst_form {x : TxPkt} {l : List TxPkt} (hqueue : (s.flow f).txQueue = x :: l) (hdata : x.close = false) :
    ∃ hd : Silk, hd.ty = 0 ∧ Noted ((s.setFlow f ((s.flow f).sent x l s.time)).emit f hd x.payload) (s.sendFirst f) := by
  obtain ⟨hd, hty, hemit⟩ := State.emitTx_data (k := { x with psn := (s.flow f).txNext, sentAt := s.time })
    (s.setFlow f ((s.flow f).sent x l s.time)) f false hdata
  refine ⟨hd, hty, ?_⟩
  unfold State.sendFirst
  dsimp only
  rw [hqueue]
  exact hemit ▸ State.charge_noted _ x.cmd x.payload.length

/-- A first transmission: served, its flow changed, put on the wire. -/
theorem State.sendNew_form {x : TxPkt} {l : List TxPkt} {slot : Nat} (floor : Bool) (hqueue : (s.flow f).txQueue = x :: l) (hdata : x.close = false) :
    ∃ hd : Silk, hd.ty = 0 ∧
      Noted (((s.servePacket slot x.payload.length floor).setFlow f ((s.flow f).sent x l s.time)).emit f hd x.payload) (s.sendNew slot f floor) := by
  have hserved := s.servePacket_noted slot x.payload.length floor
  have hflow : (s.servePacket slot x.payload.length floor).flow f = s.flow f := State.flow_congr hserved.net.1 f
  obtain ⟨hd, hty, hfirst⟩ := State.sendFirst_form (s := s.servePacket slot x.payload.length floor) (by rw [hflow, hqueue]) hdata
  rw [hflow, hserved.time] at hfirst
  refine ⟨hd, hty, hfirst.trans ?_⟩
  unfold State.sendNew
  rw [hqueue]
  refine Noted.trans ?_ (State.settlePeer_noted _ x.cmd)
  split
  · exact State.count_noted ..
  · exact Noted.refl _

/-- The port's next packet, sent for the first time: its flow has sent it, and every other flow is as it was (R246, R450). -/
theorem State.sendOne_first {x : TxPkt} {l : List TxPkt} {p i : Nat} {floor : Bool} (hi : i < 16) (hup : (s.eth (s.flow f).port).up = true)
    (hfirst : floor = false → s.couldResend p i f = false) (hqueue : (s.flow f).txQueue = x :: l) (hdata : x.close = false) :
    (∀ g, (s.sendOne p i f floor).flow g = if g = f then { (s.flow f).sent x l s.time with lastTx := s.time } else s.flow g) ∧
    ∃ hd bs, sends s (s.sendOne p i f floor) f hd bs ∧ hd.ty = 0 := by
  have hnew : s.sendOne p i f floor = (s.takeTurn p i f floor).sendNew i f floor := by
    unfold State.sendOne
    exact if_neg (by cases floor <;> simp [hfirst])
  obtain ⟨hd, hty, hform⟩ := State.sendNew_form (s := s.takeTurn p i f floor) (slot := i) floor hqueue hdata
  replace hform : Noted ((((s.takeTurn p i f floor).servePacket i x.payload.length floor).setFlow f ((s.flow f).sent x l s.time)).emit f hd x.payload)
    (s.sendOne p i f floor) := hnew ▸ hform
  have hserved := (s.takeTurn p i f floor).servePacket_noted i x.payload.length floor
  have hflow : ∀ g, ((s.takeTurn p i f floor).servePacket i x.payload.length floor).flow g = s.flow g := State.flow_congr hserved.net.1
  have hroute : SameRoute s (((s.takeTurn p i f floor).servePacket i x.payload.length floor).setFlow f ((s.flow f).sent x l s.time)) f :=
    ((SameRoute.takeTurn ..).trans (SameRoute.servePacket _ floor hi)).trans (SameRoute.setFlow (by rw [hflow]; rfl))
  obtain ⟨hflows, hout, hloop⟩ := hform.net
  refine ⟨fun g => ?_, hd, _, sends_congr hout hloop (hroute.sends_emit hup hd _), hty⟩
  rw [State.flow_congr hflows, State.emit_flow (hroute.up.trans hup), State.flow_setFlow, State.setFlow_flow, hflow]
  split
  · rw [show ((((s.takeTurn p i f floor).servePacket i x.payload.length floor).setFlow f ((s.flow f).sent x l s.time)).time) = s.time from hserved.time]
  · rfl

/-! ## A packet sent again (R450, R453) -/

theorem State.reread_close (s : State) (f : Nat) (k : TxPkt) : (s.reread f k).close = k.close := by
  unfold State.reread
  split
  · split <;> rfl
  · rfl

/-- The packets of a flow after one of them is sent again now. -/
def Flow.resent (fl : Flow) (psn now : Nat) : List TxPkt :=
  fl.txOut.map fun d => if d.psn == psn then { d with retransmitted := true, fastAt := some now, due := false } else d

/-- A packet of a flow put on the wire again. -/
def State.putAgain (s : State) (f psn : Nat) (hd : Silk) (bs : List Byte) : State :=
  (s.emit f hd bs).setFlow f { (s.emit f hd bs).flow f with txOut := (s.flow f).resent psn s.time }

theorem State.putAgain_dict (s : State) (f psn : Nat) (hd : Silk) (bs : List Byte) : (s.putAgain f psn hd bs).dict = s.dict := by
  obtain ⟨o, lb, fs, hemit⟩ := s.emit_rest f hd bs
  rw [State.putAgain, hemit]
  rfl

theorem State.putAgain_flow (psn : Nat) (hup : (s.eth (s.flow f).port).up = true) (hd : Silk) (bs : List Byte) :
    (s.putAgain f psn hd bs).flow f = { s.flow f with lastTx := s.time, txOut := (s.flow f).resent psn s.time } := by
  rw [State.putAgain, State.flow_setFlow, State.emit_flow hup, if_pos rfl]

/-- A packet that may leave now is read once more, put on the wire, counted and served from the spare class. -/
theorem State.resend_form {k : TxPkt} {psn i : Nat} (hfind : (s.flow f).txOut.find? (fun d => d.psn == psn) = some k) (hdata : k.close = false)
    (hmay : s.mayResend f k = true) (hholder : (s.flow f).holder = some i) :
    ∃ (hd : Silk) (bs : List Byte) (n : Nat), hd.ty = 0 ∧
      s.resend f psn = (((s.putAgain f psn hd bs).count 0x6031 1 1).count 0x7091 (i + 1) 1).serveSpare i 5 n true := by
  obtain ⟨hd, hty, hemit⟩ := s.emitTx_data f true ((s.reread_close f k).trans hdata)
  refine ⟨hd, (s.reread f k).payload, (s.reread f k).payload.length, hty, ?_⟩
  unfold State.resend
  dsimp only
  rw [hfind]
  simp only [hdata, hmay, hholder, State.putAgain, ← hemit]
  rfl

theorem State.couldResend_spec {p i : Nat} {k : TxPkt} (h : s.couldResend p i f = true) (hdue : (s.flow f).duePkt = some k) :
    (s.flow f).holder = some i ∧ (s.flow f).port = p ∧ s.mayResend f k = true := by
  simp only [State.couldResend, hdue, Option.any_some, Bool.and_eq_true, beq_iff_eq] at h
  exact ⟨h.1.1.1, h.1.1.2, h.2⟩

theorem State.mayResend_takeTurn (s : State) (p slot g : Nat) (floor : Bool) (f : Nat) (k : TxPkt) :
    (s.takeTurn p slot g floor).mayResend f k = s.mayResend f k := by
  unfold State.mayResend
  dsimp only
  rw [(s.takeTurn_eth p slot g floor _).2]
  rfl

/-- The port's next packet, sent again in the spare class: counted, and kept until it is acknowledged. -/
theorem State.sendOne_again {p i : Nat} {k : TxPkt} (hi : i < 16) (hup : (s.eth (s.flow f).port).up = true) (hagain : s.couldResend p i f = true)
    (hdue : (s.flow f).duePkt = some k) (hfind : (s.flow f).txOut.find? (fun d => d.psn == k.psn) = some k) (hdata : k.close = false) :
    (s.sendOne p i f false).flow f = { s.flow f with lastTx := s.time, txOut := (s.flow f).resent k.psn s.time } ∧
    (s.sendOne p i f false).entry 0x6031 1 = s.entry 0x6031 1 + 1 ∧ ∃ hd bs, sends s (s.sendOne p i f false) f hd bs ∧ hd.ty = 0 := by
  obtain ⟨hholder, -, hmay⟩ := State.couldResend_spec hagain hdue
  have hresend : s.sendOne p i f false = (s.takeTurn p i f false).resend f k.psn := by
    unfold State.sendOne
    simp only [hagain, hdue, Bool.not_false, Bool.and_true, if_true]
  obtain ⟨hd, bs, n, hty, hform⟩ := State.resend_form (s := s.takeTurn p i f false) hfind hdata ((s.mayResend_takeTurn ..).trans hmay) hholder
  have hroute : SameRoute s (s.takeTurn p i f false) f := SameRoute.takeTurn ..
  have hnoted : Noted ((s.takeTurn p i f false).putAgain f k.psn hd bs) (s.sendOne p i f false) := by
    rw [hresend, hform]
    exact ((State.count_noted ..).trans (State.count_noted ..)).trans (State.serveSpare_noted ..)
  obtain ⟨hflows, hout, hloop⟩ := hnoted.net
  refine ⟨?_, ?_, hd, bs, sends_congr hout hloop (hroute.sends_emit hup hd bs), hty⟩
  · rw [State.flow_congr hflows, State.putAgain_flow k.psn (hroute.up.trans hup)]
    rfl
  · have hother : dk 0x6031 1 ≠ dk 0x7091 (i + 1) := by unfold dk; omega
    rw [hresend, hform]
    exact ((SameRoute.serveSpare (f := f) n hi).dict _ (.inr (by decide))).trans ((State.dictGet_count_other _ 1 hother).trans
      ((State.dictGet_count ..).trans (congrArg (· + 1) (State.dictGet_congr (State.putAgain_dict ..) _))))

/-! ## Control packets -/

theorem State.up_of_portUp {p : Nat} (h : s.portUp p = true) : (s.eth p).up = true := by
  simp only [State.portUp, Bool.and_eq_true] at h
  exact h.2

/-- The header of an ACK or a KEEPALIVE. -/
def Flow.ackHeader (fl : Flow) (ty : Nat) : Silk :=
  { fl.header 0 with
    ty := ty, flags := if fl.ceSinceAck then 1 else 0, ackPsn := fl.rxAck, chunk := fl.sack, vote := fl.credit }

/-- A flow that has acknowledged what it has received, and told its credit. -/
def Flow.acked (fl : Flow) (now : Nat) : Flow :=
  { fl with lastTx := now, creditSent := fl.credit, sinceAck := 0, ceSinceAck := false }

/-- An ACK or a KEEPALIVE sent on a link that is up (R449, R456). -/
theorem State.sendAck_sends (ty : Nat) (hup : (s.eth (s.flow f).port).up = true) :
    (s.sendAck f ty).flow f = (s.flow f).acked s.time ∧ ∃ hd, sends s (s.sendAck f ty) f hd [] ∧ hd.ty = ty := by
  refine ⟨?_, (s.flow f).ackHeader ty, sends_congr rfl rfl ((SameRoute.refl s f).sends_emit hup _ _), rfl⟩
  unfold State.sendAck
  dsimp only
  rw [State.flow_setFlow, State.emit_flow hup, if_pos rfl]
  rfl

section
variable {n : FlowNo}

theorem exec_keepaliveTimer (hup : s.portUp (s.flow n.val).port = true) (hstate : (s.flow n.val).state = .opened ∨ (s.flow n.val).state = .silent)
    (hdue : (s.flow n.val).lastTx + s.entry 0x6010 2 ≤ s.time) : exec (.keepaliveTimer n) s = .next (s.sendAck n.val 2) :=
  when_of_true (by rcases hstate with h | h <;> simp [hup, h, hdue]) _

theorem exec_ackDelay (hup : s.portUp (s.flow n.val).port = true) (hclosed : (s.flow n.val).state ≠ .closed)
    (hfailed : (s.flow n.val).state ≠ .failed) (hsince : 0 < (s.flow n.val).sinceAck)
    (hdue : (s.flow n.val).firstUnacked + s.entry 0x6010 10 ≤ s.time) : exec (.ackDelay n) s = .next (s.sendAck n.val 1) :=
  when_of_true (by simp [hup, hclosed, hfailed, hsince, hdue]) _

theorem exec_ccRound (hup : s.portUp (s.flow n.val).port = true) (hstate : (s.flow n.val).state = .opened)
    (hdue : (s.flow n.val).roundStart + (s.flow n.val).srtt8 / 8 ≤ s.time) :
    exec (.ccRound n) s = .next (s.setFlow n.val ((s.flow n.val).round (s.entry 0x6010 11) s.time)) :=
  when_of_true (by simp [hup, hstate, hdue]) _

theorem exec_rtoExpiry (hup : s.portUp (s.flow n.val).port = true) (hstate : (s.flow n.val).state = .opened)
    (hold : (s.flow n.val).oldest.isSome = true) (hdue : (s.flow n.val).rtoFrom + (s.flow n.val).rto ≤ s.time) :
    exec (.rtoExpiry n) s = .next (s.rtoFire n.val) :=
  when_of_true (by simp [hup, hstate, hold, hdue]) _

theorem exec_peerTimeout (hlive : s.nicLive = true) (hstate : (s.flow n.val).state = .opened)
    (hdue : (s.flow n.val).lastRx + s.entry 0x6010 3 ≤ s.time) :
    exec (.peerTimeout n) s = .next (((s.flowTo n.val .silent).event 0x0403 n.val (s.flowFns n.val)).flowLost n.val) :=
  when_of_true (by simp [hlive, hstate, hdue]) _

theorem exec_flowHoldExpiry (hlive : s.nicLive = true) (hstate : (s.flow n.val).state = .paused ∨ (s.flow n.val).state = .silent)
    (hdue : (s.flow n.val).stateSince + 1000 * s.entry 0x6010 4 ≤ s.time) : exec (.flowHoldExpiry n) s = .next (s.flowFail n.val 3) :=
  when_of_true (by rcases hstate with h | h <;> simp [State.holdOver, hlive, h, hdue]) _

end

/-! ## Flows that fall silent or fail (R446, R447) -/

/-- A flow that no exchange and no molt uses is lost to none. -/
theorem State.flowLost_unused (hcolls : s.colls = []) (hmolts : s.molts = []) (f : Nat) : s.flowLost f = s := by
  simp [State.flowLost, hcolls, hmolts]

theorem State.flowOwnersFail_flows (s : State) (f : Nat) : (s.flowOwnersFail f).flows = s.flows := by
  unfold State.flowOwnersFail
  split
  · split
    · rw [State.endCmd_rest]
    · rfl
  · rfl

/-- A flow that no exchange and no molt uses fails. -/
theorem State.flowFail_flow (hcolls : s.colls = []) (hmolts : s.molts = []) (f cause : Nat) :
    (s.flowFail f cause).flow f = { s.flow f with state := .failed, stateSince := s.time } := by
  unfold State.flowFail
  dsimp only
  rw [State.flowLost_unused (by simpa [State.flowTo] using hcolls) (by simpa [State.flowTo] using hmolts),
    State.flow_congr (State.flowOwnersFail_flows ..), State.flow_congr (State.event_flows ..)]
  exact State.flow_setFlow ..

/-! ## Retransmission timeouts (R450) -/

/-- A flow whose retransmission timer has fired n times in a row. -/
def Flow.rtoFired (fl : Flow) (n lo hi now : Nat) : Flow :=
  { fl with window := 1, retries := n, rto := max lo (min hi (2 * fl.rto)), rtoFrom := now }

/-- The timeout counted, for the module and for the flow's holder. -/
def State.rtoCount (s : State) (f : Nat) : State :=
  match (s.flow f).holder with
  | some i => (s.count 0x6031 2 1).count 0x7092 (i + 1) 1
  | none => s.count 0x6031 2 1

/-- What a timeout of an open flow has done before its oldest packet is marked or the flow fails. -/
def State.rtoNoted (s : State) (f : Nat) : State :=
  (s.rtoCount f).setFlow f ((s.flow f).rtoFired ((s.flow f).retries + 1) (s.entry 0x6010 5) (s.entry 0x6010 6) s.time)

theorem State.rtoFire_opened (hstate : (s.flow f).state = .opened) :
    s.rtoFire f = if s.entry 0x6010 7 ≤ (s.flow f).retries + 1 then (s.rtoNoted f).flowFail f 2 else
      match (s.flow f).oldest with
      | some k => (s.rtoNoted f).markDue f k.psn
      | none => s.rtoNoted f := by
  unfold State.rtoFire State.rtoNoted State.rtoCount Flow.rtoFired
  cases hholder : (s.flow f).holder <;> cases hold : (s.flow f).oldest <;> simp only [hstate, hholder, hold, if_true, true_and]

theorem State.rtoCount_noted (s : State) (f : Nat) : Noted s (s.rtoCount f) := by
  unfold State.rtoCount
  split
  · exact (State.count_noted ..).trans (State.count_noted ..)
  · exact State.count_noted ..

theorem State.rtoCount_entry (h : ∀ i, (s.flow f).holder = some i → i < 16) : (s.rtoCount f).entry 0x6031 2 = s.entry 0x6031 2 + 1 := by
  unfold State.rtoCount
  split
  · next i hi =>
    have hlt := h i hi
    exact (State.dictGet_count_other _ 1 (by unfold dk; omega)).trans (State.dictGet_count ..)
  · exact State.dictGet_count ..

/-- A packet marked to be sent again changes of its flow what it has out, and the time of its last packet where it goes at once. -/
theorem State.markDue_flow (s : State) (f psn : Nat) :
    (s.markDue f psn).dict = s.dict ∧ ∃ out last, (s.markDue f psn).flow f = { s.flow f with txOut := out, lastTx := last } := by
  unfold State.markDue
  dsimp only
  split
  · exact ⟨rfl, _, _, rfl⟩
  · next k hk =>
    have hsent : (if k.close then s.emitTx f k true else s).dict = s.dict ∧
        ∃ last, (if k.close then s.emitTx f k true else s).flow f = { s.flow f with lastTx := last } := by
      split
      · next hclose =>
        unfold State.emitTx
        rw [if_pos hclose]
        refine ⟨?_, ?_⟩
        · obtain ⟨o, lb, fs, e⟩ := s.emit_rest f { (s.flow f).header 0 with ty := 6, psn := k.psn } []
          rw [e]
        · cases hup : (s.eth (s.flow f).port).up
          · exact ⟨_, by rw [State.emit_of_down hup]⟩
          · exact ⟨_, by rw [State.emit_flow hup, if_pos rfl]⟩
      · exact ⟨rfl, _, rfl⟩
    obtain ⟨hdict, last, hflow⟩ := hsent
    refine ⟨hdict, ?_⟩
    rw [State.flow_setFlow, hflow]
    exact ⟨_, last, rfl⟩

end

/-- Settles O43: a new packet goes where its flow's turn comes, a packet due again in the spare class, and each timer whose time has come does what
R446 to R456 say. A route (`SameRoute`) carries the packet sent through the steps that note it. -/
theorem silkTimers : Obligations.SilkTimers := by
  unfold Obligations.SilkTimers
  refine ⟨?first, ?again, ?timers⟩
  case first =>
    intro s p floor i f x l hup hpick hspare hqueue hdata
    obtain ⟨hi, hcould⟩ := State.pickSend_could hpick
    have hfirst : floor = false → s.couldResend p.val i f = false := fun h => (hspare h).2
    obtain ⟨hflow, hsends⟩ := State.sendOne_first hi (State.up_of_couldSend hcould hfirst) hfirst hqueue hdata
    refine answers_of_exec (exec_dataSend hup hpick fun h => (hspare h).1) ⟨?_, ?_, ?_, hsends, fun g hg => by rw [hflow, if_neg hg]⟩ <;>
      rw [hflow, if_pos rfl] <;> rfl
  case again =>
    intro s p i f k hup hfloor hpick hagain hdue hfind hdata
    obtain ⟨-, hport, -⟩ := State.couldResend_spec hagain hdue
    obtain ⟨hflow, hcount, hsends⟩ := State.sendOne_again (State.pickSend_could hpick).1 (by rw [hport]; exact State.up_of_portUp hup) hagain hdue
      hfind hdata
    exact answers_of_exec (exec_dataSend hup hpick fun _ => hfloor) ⟨by rw [hflow], hcount, hsends, by rw [hflow]; rfl⟩
  case timers =>
    rintro s f fl rfl
    refine ⟨fun hup => ⟨fun hstate hdue => ?keepalive, fun hclosed hfailed hsince hdue => ?ack, fun hstate hdue => ?round,
      fun hstate hold hdue hfew hholder => ?rto, fun hstate hold hdue hmany hcolls hmolts => ?retries⟩,
      fun hlive hcolls hmolts => ⟨fun hstate hdue => ?silent, fun hstate hdue => ?held⟩⟩
    case keepalive =>
      obtain ⟨hflow, hsends⟩ := State.sendAck_sends 2 (State.up_of_portUp hup)
      exact answers_of_exec (exec_keepaliveTimer hup hstate hdue) ⟨by rw [hflow]; rfl, by simp only [hflow, Flow.acked], hsends⟩
    case ack =>
      obtain ⟨hflow, hsends⟩ := State.sendAck_sends 1 (State.up_of_portUp hup)
      exact answers_of_exec (exec_ackDelay hup hclosed hfailed hsince hdue) ⟨by rw [hflow]; rfl, by rw [hflow]; rfl, hsends⟩
    case round => exact answers_of_exec (exec_ccRound hup hstate hdue) ⟨State.flow_setFlow .., rfl⟩
    case rto =>
      obtain ⟨k, hk⟩ := Option.isSome_iff_exists.mp hold
      refine answers_of_exec (exec_rtoExpiry hup hstate hold hdue) ?_
      rw [State.rtoFire_opened hstate, if_neg (by omega), hk]
      obtain ⟨hdict, out, last, hflow⟩ := (s.rtoNoted f.val).markDue_flow f.val k.psn
      rw [show (s.rtoNoted f.val).flow f.val = _ from State.flow_setFlow ..] at hflow
      exact ⟨by rw [hflow]; rfl, by rw [hflow]; rfl, by rw [hflow]; exact hstate, by rw [hflow]; rfl,
        (State.dictGet_congr hdict _).trans (State.rtoCount_entry hholder)⟩
    case retries =>
      refine answers_of_exec (exec_rtoExpiry hup hstate hold hdue) ?_
      obtain ⟨hcolls', hmolts'⟩ := (s.rtoCount_noted f.val).users
      rw [State.rtoFire_opened hstate, if_pos hmany, State.flowFail_flow (s := s.rtoNoted f.val) (hcolls'.trans hcolls) (hmolts'.trans hmolts)]
    case silent =>
      refine answers_of_exec (exec_peerTimeout hlive hstate hdue) ?_
      rw [State.flowLost_unused (by simpa [State.flowTo] using hcolls) (by simpa [State.flowTo] using hmolts), State.flow_congr (State.event_flows ..)]
      exact State.flow_setFlow ..
    case held =>
      refine answers_of_exec (exec_flowHoldExpiry hlive hstate hdue) ?_
      rw [State.flowFail_flow hcolls hmolts]

end Sys2Proof.Machine

/-!
# Writes of a command

What a write through the device's own path leaves: the flows, and what decides how each command ends (R267, R498).
-/
namespace Sys2Proof.Machine

open Sys2Proof Sys2Proof.Safety

/-! ## Writes of a command leave the flows, and how each command would end -/

/-- What decides how a command ends: its phase, and what it has met. -/
def Cmd.ending (c : Cmd) : Phase × Option Nat × Option (Nat × Nat) := (c.phase, c.poisoned, c.late)

def State.endingOf (s : State) (k : Nat) : Option (Phase × Option Nat × Option (Nat × Nat)) := (s.cmd k).map Cmd.ending

/-- What a write through the device's own path leaves of the state. -/
def Writes (s t : State) : Prop := t.flows = s.flows ∧ ∀ k, t.endingOf k = s.endingOf k

/-- A clean command that runs is found under a number. -/
def runsClean (s : State) (id : Nat) : Prop := s.endingOf id = some (.running, none, none)

section
variable {s t u : State} {id : Nat} {c d : Cmd}

theorem runsClean_of (hcmd : s.cmd id = some c) (hrun : c.phase = .running) (hclean : clean c) : runsClean s id := by
  obtain ⟨hpoisoned, hlate⟩ := hclean
  simp [runsClean, State.endingOf, hcmd, Cmd.ending, hrun, hpoisoned, hlate]

theorem runsClean.cmd (h : runsClean s id) : ∃ c, s.cmd id = some c ∧ c.phase = .running ∧ clean c := by
  obtain ⟨c, hcmd, he⟩ := Option.map_eq_some_iff.mp h
  simp only [Cmd.ending, Prod.mk.injEq] at he
  exact ⟨c, hcmd, he⟩

theorem runsClean.running (h : runsClean s id) : running s id := by
  obtain ⟨c, hcmd, hrun, -⟩ := h.cmd
  exact ⟨c, hcmd, hrun⟩

theorem runsClean.ends (h : runsClean s id) (d : Nat) : endedAs (s.finishCmd id d) id 0 d := by
  obtain ⟨c, hcmd, hrun, hclean⟩ := h.cmd
  exact State.finishCmd_ends hcmd hclean hrun

theorem State.endingOf_congr (h : t.cmds = s.cmds) (k : Nat) : t.endingOf k = s.endingOf k := by
  rw [State.endingOf, State.cmd_congr h, State.endingOf]

theorem runsClean_congr (h : t.cmds = s.cmds) (k : runsClean s id) : runsClean t id := (State.endingOf_congr h id).trans k

theorem Writes.trans (h : Writes s t) (k : Writes t u) : Writes s u := ⟨k.1.trans h.1, fun i => (k.2 i).trans (h.2 i)⟩

theorem Writes.of_eq (hflows : t.flows = s.flows) (hcmds : t.cmds = s.cmds) : Writes s t := ⟨hflows, State.endingOf_congr hcmds⟩

theorem Writes.refl (s : State) : Writes s s := ⟨rfl, fun _ => rfl⟩

/-- A command changed in what does not decide how it ends. -/
theorem State.setCmd_writes (hcmd : s.cmd d.id = some c) (he : d.ending = c.ending) : Writes s (s.setCmd d) := by
  refine ⟨rfl, fun k => ?_⟩
  by_cases hk : k = d.id
  · subst hk
    simp [State.endingOf, State.cmd_setCmd hcmd, hcmd, he]
  · simp only [State.endingOf, State.cmd_setCmd_other hk]

@[simp] theorem State.setTierMem_flows (s : State) (cxl : Bool) (m : Mem) : (s.setTierMem cxl m).flows = s.flows := by cases cxl <;> rfl

@[simp] theorem State.setTierPoison_flows (s : State) (cxl : Bool) (p : Tab Bool) : (s.setTierPoison cxl p).flows = s.flows := by
  cases cxl <;> rfl

@[simp] theorem State.setFrame_flows (s : State) (cxl : Bool) (f : Nat) (v : Frame) : (s.setFrame cxl f v).flows = s.flows := by
  cases cxl <;> rfl

theorem State.cowLeaf_writes (s : State) (slot : Nat) (copy : Bool) (page : Nat) : Writes s (s.cowLeaf slot copy page) := by
  refine Writes.of_eq ?_ (State.cowLeaf_cmds ..)
  unfold State.cowLeaf
  dsimp only
  split
  · rfl
  · cases copy <;> simp [State.copyTier, State.zeroFrame, State.fillFree]

theorem State.owedFloor_writes (s : State) (i x fuel : Nat) : Writes s (s.owedFloor i x fuel) := by
  induction fuel generalizing s with
  | zero => exact Writes.refl s
  | succ fuel ih =>
    rw [State.owedFloor]
    split
    · exact Writes.refl s
    · next o _ _ =>
      have hpaid : ∀ n r, Writes s ((s.serveFloor i x n o.out).setRegulator i x r) :=
        fun n r => .of_eq (s.serveFloor_noted i x n o.out).net.1 (State.serveFloor_cmds ..)
      extract_lets n s1 s2
      split
      · exact Writes.refl s
      · split
        · exact hpaid n _
        · exact (hpaid n _).trans (ih s2)

theorem State.drawTokens_writes (s : State) (i x n : Nat) (out floor : Bool) : Writes s (s.drawTokens i x n out floor) := by
  unfold State.drawTokens
  split
  · exact Writes.refl s
  · exact Writes.trans (t := s.setRegulator i x _) (.of_eq rfl rfl) (State.owedFloor_writes ..)

theorem State.charge_writes (s : State) (id : Option Nat) (res n : Nat) (out floor : Bool) : Writes s (s.charge id res n out floor) := by
  unfold State.charge
  split
  · exact Writes.refl s
  · split
    · exact Writes.refl s
    · next i c hcmd =>
      obtain rfl := State.cmd_id hcmd
      have hused : ∀ l, Writes s (s.setCmd { c with used := l }) := fun l => State.setCmd_writes (d := { c with used := l }) hcmd rfl
      dsimp only
      split
      · exact hused _
      · exact (hused _).trans (State.drawTokens_writes ..)

theorem State.cow_writes (s : State) (id : Option Nat) (slot : Nat) (w : Where) (whole : Bool) : Writes s (s.cow id slot w whole) := by
  have hfold : ∀ (b : Bool) (l : List Nat) (x : State), Writes x (l.foldl (fun x pg => x.cowLeaf slot b pg) x) := by
    intro b l
    induction l with
    | nil => exact Writes.refl
    | cons pg l ih => exact fun x => (x.cowLeaf_writes slot b pg).trans (ih _)
  have hcharged : ∀ (x : State) (i j n : Nat), Writes x ((x.charge id i n false true).charge id j n true true) :=
    fun x i j n => (State.charge_writes ..).trans (State.charge_writes ..)
  have hcounted : ∀ x : State, Writes x (x.count 0x7051 (slot + 1) 1) := fun x => .of_eq (State.count_net ..).1 (State.count_cmds ..)
  unfold State.cow
  split
  · exact Writes.refl s
  · extract_lets pages s1 n s2
    have hmetered : Writes s s2 := by
      refine Writes.trans (t := s1) (hfold (!whole) pages s) ?_
      dsimp only [s2]
      split
      · exact hcharged ..
      · exact hcharged ..
    split
    · exact hmetered
    · exact hmetered.trans (hcounted s2)

theorem State.noteAlias_writes (s : State) (id : Option Nat) (slot va n : Nat) : Writes s (s.noteAlias id slot va n) := by
  have hpart : ∀ (x : State) (p : Part), Writes x (x.setPart slot p) := fun x p => .of_eq rfl rfl
  unfold State.noteAlias
  cases id with
  | none => exact hpart s _
  | some i =>
    cases hcmd : s.cmd i with
    | none =>
      simp only [hcmd]
      exact hpart s _
    | some c =>
      obtain rfl := State.cmd_id hcmd
      have hwriter : Writes s (s.setCmd { c with aliasWriter := true }) := State.setCmd_writes (d := { c with aliasWriter := true }) hcmd rfl
      simp only [hcmd]
      split
      · exact hwriter
      · exact hwriter.trans (hpart ..)

theorem State.noteDirty_writes (s : State) (slot : Nat) (w : Where) : Writes s (s.noteDirty slot w) := by
  unfold State.noteDirty
  split
  · exact Writes.refl s
  · refine ⟨rfl, fun k => (congrArg (Option.map Cmd.ending) (find_map s.cmds k _ fun d => by split <;> rfl)).trans ?_⟩
    rw [Option.map_map]
    refine congrFun (congrArg Option.map (funext fun d => ?_)) _
    simp only [Function.comp]
    split <;> rfl

theorem State.linePut_writes (s : State) (slot : Nat) (v : Where) (n : Nat) (bs : List Byte) (bad : Bool) : Writes s (s.linePut slot v n bs bad) := by
  unfold State.linePut
  dsimp only
  split
  · exact .of_eq rfl rfl
  · refine Writes.trans (t := State.noteDirty _ slot v) (.trans ?_ (State.noteDirty_writes ..))
      (.of_eq (by rw [State.reachLine_rest]) (State.reachLine_cmds ..))
    refine .of_eq ?_ ?_
    · change (State.flows (ite _ _ _)) = _
      split
      · simp [State.setLinePoison]
      · split <;> simp [State.setLinePoison]
    · change (State.cmds (ite _ _ _)) = _
      split
      · simp
      · split <;> simp

theorem State.writeSpans_writes (id : Option Nat) (slot : Nat) (cover : List (Nat × Nat)) (bad : Bool) (l : List (Nat × Nat)) :
    ∀ (s : State) (bs : List Byte), Writes s (s.writeSpans id slot cover bad l bs).1 := by
  induction l with
  | nil => exact fun s _ => Writes.refl s
  | cons e l ih =>
    intro s bs
    rw [State.writeSpans]
    cases s.translate slot e.1 with
    | none => exact Writes.refl s
    | some w =>
      have hnoted : ∀ x n, Writes s (if w.alias_ = true then s.noteAlias id slot x n else s) := by
        intro x n
        split
        · exact State.noteAlias_writes ..
        · exact Writes.refl s
      dsimp only
      split
      · exact Writes.refl s
      · split
        · exact hnoted ..
        · split
          · exact hnoted ..
          · split
            · exact (hnoted ..).trans (State.cow_writes ..)
            · next v _ =>
              exact ((hnoted ..).trans (State.cow_writes ..)).trans
                ((State.linePut_writes _ slot v e.2 bs bad).trans ((State.charge_writes ..).trans (ih _ (bs.drop e.2))))

theorem State.vwrite_writes (s : State) (id : Option Nat) (slot va : Nat) (bs : List Byte) : Writes s (s.vwrite id slot va bs).1 :=
  State.writeSpans_writes ..

end

end Sys2Proof.Machine

/-!
# ALLOC

R221 to R225, R250. The allocator reads neither the commands nor the power of the blocks that a start changes; a grant is a fold that does one thing for
each of what it picks.
-/
namespace Sys2Proof.Machine

open Sys2Proof Sys2Proof.Safety

section
variable {s t : State} {c : Cmd}

/-! ## What begins a command leaves the allocator as it was -/

theorem onlyWork_pickFrames (h : onlyWork s t) (cxl : Bool) (m fuel : Nat) :
    ∀ f n, t.pickFrames cxl m fuel f n = s.pickFrames cxl m fuel f n := by
  have hrange : t.frameRange cxl = s.frameRange cxl := by rw [h]; rfl
  have hready : t.cxlReady = s.cxlReady := by rw [h]; rfl
  have hfree : t.frameFree = s.frameFree := by rw [h]; rfl
  have hexp : t.expanders = s.expanders := by rw [h]
  induction fuel with
  | zero => exact fun _ _ => rfl
  | succ fuel ih => intro f n; simp only [State.pickFrames, hrange, hready, hfree, hexp, ih]

theorem onlyWork_freeBlocks (h : onlyWork s t) (cxl : Bool) (m n : Nat) : t.freeBlocks cxl m n = s.freeBlocks cxl m n := by
  unfold State.freeBlocks
  dsimp only
  rw [onlyWork_pickFrames h, h]
  rfl

theorem onlyWork_freeFlowList (h : onlyWork s t) (fuel : Nat) : ∀ f n, t.freeFlowList fuel f n = s.freeFlowList fuel f n := by
  have hflow : t.flow = s.flow := by rw [h]; rfl
  induction fuel with
  | zero => exact fun _ _ => rfl
  | succ fuel ih => intro f n; simp only [State.freeFlowList, hflow, ih]

theorem onlyWork_allocPick (h : onlyWork s t) (i : Nat) (a : AllocArgs) : t.allocPick i a = s.allocPick i a := by
  have hcores : t.freeCores = s.freeCores := by rw [h]; rfl
  have hgroups : t.freeGroups = s.freeGroups := by rw [h]; rfl
  simp only [State.allocPick, hcores, hgroups, onlyWork_freeBlocks h, onlyWork_freeFlowList h]

theorem onlyWork_allocStatus (h : onlyWork s t) (i : Nat) (a : AllocArgs) (p : Nat) : t.allocStatus i a p = s.allocStatus i a p := by
  simp only [State.allocStatus, onlyWork_allocPick h]
  rw [h]
  rfl

theorem onlyWork_tierStatus (h : onlyWork s t) (i : Nat) (a : TierArgs) : t.tierStatus i a = s.tierStatus i a := by
  simp only [State.tierStatus, onlyWork_freeBlocks h]
  rw [h]
  rfl

/-- Work that reaches a block leaves the blocks that are OFF. -/
theorem State.beginCmd_off (s : State) (c : Cmd) (b : Nat) : (((s.beginCmd c).block b).st == .off) = ((s.block b).st == .off) := by
  refine State.foldl_keeps (fun x => (x.block b).st == .off) (fun x k => ?_) (s.pendingBlocks c) s
  split
  · next hidle =>
    rw [State.setBlock_block]
    split
    · subst b; rw [hidle]; rfl
    · rfl
  · rfl

theorem State.allocOff_beginCmd (i : Nat) (a : AllocArgs) : (s.beginCmd c).allocOff i a = s.allocOff i a := by
  simp only [State.allocOff, onlyWork_allocPick (State.beginCmd_onlyWork s c), State.beginCmd_off]
end

/-! ## Folds that do one thing for each of a list -/

/-- What a step does for its own member, and every other step keeps, the fold does for each. -/
theorem State.foldl_each {α : Type} {f : State → α → State} {P : α → State → Prop} (hset : ∀ x a, P a (f x a))
    (hkeep : ∀ x a b, P b x → P b (f x a)) (l : List α) (s : State) : ∀ a ∈ l, P a (l.foldl f s) := by
  induction l generalizing s with
  | nil => exact fun a h => absurd h List.not_mem_nil
  | cons b l ih =>
    intro a ha
    rcases List.mem_cons.mp ha with rfl | hl
    · exact List.foldlRecOn l f (motive := P a) (hset s a) fun x hx b _ => hkeep x b a hx
    · exact ih _ a hl

section
variable {s t : State} {id i : Nat} {c : Cmd} {a : AllocArgs}

theorem State.setFrame_frame (s : State) (cxl : Bool) (f k : Nat) (v : Frame) :
    (s.setFrame cxl f v).frame cxl k = if k = f then v else s.frame cxl k := by
  split
  · subst k
    cases cxl <;> exact tabGet_set_same ..
  · cases cxl <;> exact tabGet_set_other _ _ _ ‹_›

theorem State.mapLeaf_frame (s : State) (i page : Nat) (cxl big : Bool) (f k : Nat) :
    ((s.mapLeaf i page cxl big f).frame cxl k).owner = if k = f then some i else (s.frame cxl k).owner := by
  unfold State.mapLeaf
  dsimp only
  rw [State.setFrame_frame]
  split <;> rfl

/-! ## What an ALLOC grants (R222) -/

/-- A core granted is held by the slot, its flags clear. -/
theorem State.grantCores_core (s : State) (i : Nat) (l : List Nat) :
    ∀ k ∈ l, ((l.foldl (fun x k => x.grantCore i k) s).core k).holder = some i ∧ ((l.foldl (fun x k => x.grantCore i k) s).core k).flags = 0 := by
  have hgrant : ∀ (x : State) (k j : Nat), ((x.grantCore i k).core j).holder = (if j = k then some i else (x.core j).holder) ∧
      ((x.grantCore i k).core j).flags = (if j = k then 0 else (x.core j).flags) := by
    intro x k j
    unfold State.grantCore
    rw [State.setCore_core]
    split <;> exact ⟨rfl, rfl⟩
  refine State.foldl_each (P := fun k x => (x.core k).holder = some i ∧ (x.core k).flags = 0) (fun x k => ?_) (fun x k j hj => ?_) l s
  · rw [(hgrant x k k).1, (hgrant x k k).2]
    exact ⟨if_pos rfl, if_pos rfl⟩
  · rw [(hgrant x k j).1, (hgrant x k j).2, hj.1, hj.2]
    exact ⟨ite_self _, ite_self _⟩

/-- A frame mapped is the slot's. -/
theorem State.mapLeaf_each (s : State) (i : Nat) (cxl big : Bool) (l : List (Nat × Nat)) :
    ∀ e ∈ l, ((l.foldl (fun x e => x.mapLeaf i e.1 cxl big e.2) s).frame cxl e.2).owner = some i := by
  refine State.foldl_each (P := fun e x => (x.frame cxl e.2).owner = some i) (fun x e => ?_) (fun x e g hg => ?_) l s
  · rw [State.mapLeaf_frame, if_pos rfl]
  · rw [State.mapLeaf_frame, hg, ite_self]

/-- A flow number granted is the slot's. -/
theorem State.setFlows_flow (s : State) (v : Flow) (l : List Nat) : ∀ f ∈ l, (l.foldl (fun x f => x.setFlow f v) s).flow f = v := by
  refine State.foldl_each (P := fun f x => x.flow f = v) (fun x f => ?_) (fun x f g hg => ?_) l s
  · rw [State.setFlow_flow, if_pos rfl]
  · rw [State.setFlow_flow, hg, ite_self]

/-- The frames an ALLOC of memory maps at its pages, page by page. -/
def State.allocFrames (s : State) (i : Nat) (a : AllocArgs) : List (Nat × Nat) :=
  (pageList (a.arg % 2 ^ 64) a.count a.big).zip
    (if a.big then (s.allocPick i a).flatMap fun f => (List.range 32).map (f + ·) else s.allocPick i a)

/-- The flow numbers an ALLOC grants. -/
def State.flowsGranted (s : State) (i : Nat) (l : List Nat) : State := l.foldl (fun s f => s.setFlow f { holder := some i }) s

theorem State.allocGrant_cores (h : a.kind = 1) (p : Nat) :
    s.allocGrant id i a p = (s.allocPick i a).foldl (fun s k => s.grantCore i k) s := by
  simp only [State.allocGrant, h]

theorem State.allocGrant_groups (h : a.kind = 2) (p : Nat) : s.allocGrant id i a p =
    s.setCore a.core { s.core a.core with groups := (s.core a.core).groups ||| BitVec.ofNat 80 (maskOf (s.allocPick i a)) } := by
  simp only [State.allocGrant, h]

theorem State.allocGrant_frames (h : a.kind = 3 ∨ a.kind = 4) (p : Nat) : s.allocGrant id i a p =
    (s.allocFrames i a).foldl (fun s e => s.mapLeaf i e.1 (a.kind == 4) a.big e.2) s := by
  rcases h with h | h <;> simp only [State.allocGrant, State.allocFrames, h]

theorem State.allocGrant_flows (h : a.kind = 5) (p : Nat) : s.allocGrant id i a p =
    ((s.flowsGranted i (s.allocPick i a)).vwrite (some id) i p ((s.allocPick i a).flatMap fun f => bytesOfNat f 2)).1 := by
  simp only [State.allocGrant, h, State.flowsGranted]

theorem State.grantCore_cmds (s : State) (i k : Nat) : (s.grantCore i k).cmds = s.cmds := rfl

theorem State.grantCore_block (s : State) (i k b : Nat) : (s.grantCore i k).block b = s.block b := rfl

@[simp] theorem State.mapLeaf_cmds (s : State) (i page : Nat) (cxl big : Bool) (f : Nat) : (s.mapLeaf i page cxl big f).cmds = s.cmds :=
  State.setFrame_cmds ..

theorem State.setFlow_cmds (s : State) (f : Nat) (v : Flow) : (s.setFlow f v).cmds = s.cmds := rfl

/-- A grant decides of no command how it ends. -/
theorem State.allocGrant_ending (hkind : a.kind ∈ [1, 2, 3, 4, 5]) (p k : Nat) : (s.allocGrant id i a p).endingOf k = s.endingOf k := by
  simp only [List.mem_cons, List.not_mem_nil, or_false] at hkind
  rcases hkind with h | h | h | h | h
  · rw [State.allocGrant_cores h]
    exact State.endingOf_congr (State.cmds_foldl fun _ _ => State.grantCore_cmds ..) k
  · rw [State.allocGrant_groups h]
    rfl
  · rw [State.allocGrant_frames (.inl h)]
    exact State.endingOf_congr (State.cmds_foldl fun _ _ => State.mapLeaf_cmds ..) k
  · rw [State.allocGrant_frames (.inr h)]
    exact State.endingOf_congr (State.cmds_foldl fun _ _ => State.mapLeaf_cmds ..) k
  · rw [State.allocGrant_flows h]
    exact ((State.vwrite_writes ..).2 k).trans (State.endingOf_congr (State.cmds_foldl fun _ _ => State.setFlow_cmds ..) k)

/-- A grant of cores or bank groups leaves every block. -/
theorem State.allocGrant_block (hoff : s.allocOff i a ≠ []) (p b : Nat) : (s.allocGrant id i a p).block b = s.block b := by
  by_cases h1 : a.kind = 1
  · rw [State.allocGrant_cores h1]
    exact State.foldl_keeps (fun x => x.block b) (fun x k => x.grantCore_block i k b) _ s
  · by_cases h2 : a.kind = 2
    · rw [State.allocGrant_groups h2]
      rfl
    · refine absurd ?_ hoff
      unfold State.allocOff
      split
      · contradiction
      · contradiction
      · rfl

/-! ## An ALLOC granted -/

/-- The blocks of a list that are OFF leave it. -/
def State.leaveOff (s : State) (l : List Nat) : State := l.foldl (fun s b => s.startLeaveOff b .active) s

theorem State.startLeaveOff_block (s : State) (b k : Nat) (p : PowerState) : ((s.startLeaveOff b p).block k).st = (s.block k).st ∧
    ((s.startLeaveOff b p).block k).leavingOff = ((decide (k = b) && (s.block b).st == .off) || (s.block k).leavingOff) := by
  unfold State.startLeaveOff
  split
  · next hoff =>
    rw [State.setBlock_block]
    by_cases hk : k = b
    · subst hk; simp [hoff]
    · simp [hk]
  · next hoff => simp [hoff]

theorem State.leaveOff_block (s : State) (l : List Nat) : ∀ b ∈ l, (s.block b).st = .off → ((s.leaveOff l).block b).leavingOff = true := by
  intro b hb hoff
  have hst : ((s.leaveOff l).block b).st = (s.block b).st :=
    State.foldl_keeps (fun x => (x.block b).st) (fun x a => (x.startLeaveOff_block a b .active).1) l s
  refine State.foldl_each (P := fun b x => (x.block b).st = .off → (x.block b).leavingOff = true) (fun x k h => ?_) (fun x k j hj h => ?_) l s b hb
    (hst.trans hoff)
  · rw [(x.startLeaveOff_block k k .active).1] at h
    simp [(x.startLeaveOff_block k k .active).2, h]
  · rw [(x.startLeaveOff_block k j .active).1] at h
    simp [(x.startLeaveOff_block k j .active).2, hj h]

theorem State.leaveOff_rest (s : State) (l : List Nat) : s.leaveOff l = { s with power := (s.leaveOff l).power } := by
  unfold State.leaveOff
  induction l generalizing s with
  | nil => rfl
  | cons b l ih =>
    rw [List.foldl_cons, ih]
    unfold State.startLeaveOff
    split <;> rfl

/-- The state once what an ALLOC asks for is granted, and the OFF blocks that grant waits for. -/
def State.granted (s : State) (c : Cmd) : State := s.allocGrant c.id c.slot (allocArgs c.record) c.payload
def State.waitsFor (s : State) (c : Cmd) : List Nat := s.allocOff c.slot (allocArgs c.record)

theorem running_setCmd {d e : Cmd} (hcmd : s.cmd id = some d) (hid : e.id = id) (hrun : e.phase = .running) : running (s.setCmd e) id := by
  subst hid
  exact ⟨e, State.cmd_setCmd hcmd, hrun⟩

/-- A grant with no block to wait for ends. -/
theorem State.allocRun_ends (h : s.allocStatus c.slot (allocArgs c.record) c.payload = none) (hoff : s.waitsFor c = []) :
    ∃ d, s.allocRun c = (s.granted c).finishCmd c.id d := by
  unfold State.allocRun
  unfold State.waitsFor at hoff
  simp only [h, hoff, List.isEmpty_nil, if_true]
  exact ⟨_, rfl⟩

/-- A grant that has blocks to wait for waits until they have left OFF. -/
theorem State.allocRun_waits (h : s.allocStatus c.slot (allocArgs c.record) c.payload = none) (hoff : s.waitsFor c ≠ [])
    {d : Cmd} (hcmd : (s.granted c).cmd c.id = some d) :
    ∃ w, s.allocRun c = ((s.granted c).leaveOff (s.waitsFor c)).setCmd
      { d with awaits := s.waitsFor c, work := w } := by
  have hfound : (((s.granted c).leaveOff (s.waitsFor c)).cmd c.id) = some d := by
    rw [State.leaveOff_rest]
    exact hcmd
  unfold State.leaveOff State.granted State.waitsFor at hfound ⊢
  unfold State.allocRun
  unfold State.waitsFor at hoff
  simp only [h, List.isEmpty_iff, if_neg hoff, hfound]
  exact ⟨_, rfl⟩

/-- What an ALLOC granted leaves as the grant made it, and what becomes of it (R222, R225). -/
theorem State.allocRun_granted (h : s.allocStatus c.slot (allocArgs c.record) c.payload = none)
    (hrun : runsClean (s.granted c) c.id) :
    onlyWork (s.granted c) (s.allocRun c) ∧
    (s.waitsFor c = [] → ∃ d, endedAs (s.allocRun c) c.id 0 d) ∧
    (s.waitsFor c ≠ [] → running (s.allocRun c) c.id ∧
      ∀ b ∈ s.waitsFor c, ((s.allocRun c).block b).leavingOff = true) := by
  by_cases hoff : s.waitsFor c = []
  · obtain ⟨d, hends⟩ := State.allocRun_ends h hoff
    rw [hends]
    exact ⟨onlyWork_onlyCmds (t := s.granted c) rfl (State.finishCmd_rest ..), fun _ => ⟨d, hrun.ends d⟩,
      fun hne => absurd hoff hne⟩
  · obtain ⟨d, hcmd, hphase, -⟩ := hrun.cmd
    have hid := State.cmd_id hcmd
    obtain ⟨w, hwaits⟩ := State.allocRun_waits h hoff hcmd
    rw [hwaits]
    have hleft : ((s.granted c).leaveOff (s.waitsFor c)).cmd c.id = some d := by
      rw [State.leaveOff_rest]
      exact hcmd
    refine ⟨?_, fun hne => absurd hne hoff, fun _ => ⟨running_setCmd hleft hid hphase, fun b hb => ?_⟩⟩
    · exact onlyWork_onlyCmds (t := (s.granted c).leaveOff (s.waitsFor c)) (by rw [onlyWork, State.leaveOff_rest]) rfl
    · refine State.leaveOff_block _ _ b hb ?_
      rw [State.granted, State.allocGrant_block hoff]
      have hmem := (List.mem_filter.mp hb).2
      simpa using hmem

/-- ALLOC, granted. -/
theorem exec_alloc_ready (h : ready s id 0x30 c) (hbefore : s.allocBefore id = false) : exec (.alloc id) s = .next ((s.beginCmd c).allocRun c) := by
  rw [← State.startOp_ready h fun c s => s.allocRun c]
  exact when_of_true (by simp [hbefore]) _

/-- A clean command just begun. -/
theorem ready_runsClean {op : Nat} (h : ready s id op c) (hclean : clean c) : runsClean (s.beginCmd c) id :=
  runsClean_of (ready_begun h) rfl hclean

/-- What an ALLOC grants, kind by kind (R221, R222). -/
theorem State.granted_holds (s : State) (c : Cmd) : let a := allocArgs c.record
    (a.kind = 1 → ∀ k ∈ s.allocPick c.slot a, ((s.granted c).core k).holder = some c.slot ∧ ((s.granted c).core k).flags = 0) ∧
    (a.kind = 2 → ((s.granted c).core a.core).groups = (s.core a.core).groups ||| BitVec.ofNat 80 (maskOf (s.allocPick c.slot a))) ∧
    (a.kind = 3 ∨ a.kind = 4 → ∀ e ∈ s.allocFrames c.slot a, ((s.granted c).frame (a.kind == 4) e.2).owner = some c.slot) ∧
    (a.kind = 5 → ∀ f ∈ s.allocPick c.slot a, ((s.granted c).flow f).holder = some c.slot) := by
  intro a
  refine ⟨fun h => ?_, fun h => ?_, fun h => ?_, fun h f hf => ?_⟩ <;> unfold State.granted
  · rw [State.allocGrant_cores h]
    exact State.grantCores_core _ _ _
  · rw [State.allocGrant_groups h, State.setCore_core, if_pos rfl]
  · rw [State.allocGrant_frames h]
    exact State.mapLeaf_each _ _ _ _ _
  · rw [State.allocGrant_flows h, State.flow_congr (State.vwrite_writes ..).1, State.flowsGranted, State.setFlows_flow _ _ _ f hf]

/-- ALLOC gives what it picks, and ends OK at once or once the OFF blocks of the grant have left OFF (R221, R222, R225). -/
theorem answers_alloc (h : ready s id 0x30 c) (hclean : clean c) (ha : a = allocArgs c.record) (hbefore : s.allocBefore id = false)
    (hstatus : s.allocStatus c.slot a c.payload = none) (hkind : a.kind ∈ [1, 2, 3, 4, 5]) :
    answers (.alloc id) s fun t =>
      (a.kind = 1 → ∀ k ∈ s.allocPick c.slot a, (t.core k).holder = some c.slot ∧ (t.core k).flags = 0) ∧
      (a.kind = 2 → (t.core a.core).groups = (s.core a.core).groups ||| BitVec.ofNat 80 (maskOf (s.allocPick c.slot a))) ∧
      (a.kind = 3 ∨ a.kind = 4 → ∀ e ∈ s.allocFrames c.slot a, (t.frame (a.kind == 4) e.2).owner = some c.slot) ∧
      (a.kind = 5 → ∀ f ∈ s.allocPick c.slot a, (t.flow f).holder = some c.slot) ∧
      (s.allocOff c.slot a = [] → ∃ d, endedAs t id 0 d) ∧
      (s.allocOff c.slot a ≠ [] → running t id ∧ ∀ b ∈ s.allocOff c.slot a, (t.block b).leavingOff = true) := by
  subst ha
  have hwork := State.beginCmd_onlyWork s c
  have hpick : ∀ i a, (s.beginCmd c).allocPick i a = s.allocPick i a := onlyWork_allocPick hwork
  have hframes : (s.beginCmd c).allocFrames c.slot (allocArgs c.record) = s.allocFrames c.slot (allocArgs c.record) := by
    simp only [State.allocFrames, hpick]
  have hcores : ∀ k, (s.beginCmd c).core k = s.core k := State.core_congr (by rw [hwork])
  obtain rfl := ready_id h
  have hruns : runsClean ((s.beginCmd c).granted c) c.id := (State.allocGrant_ending hkind ..).trans (ready_runsClean h hclean)
  obtain ⟨hrest, hend, hwait⟩ := State.allocRun_granted ((onlyWork_allocStatus hwork ..).trans hstatus) hruns
  obtain ⟨h1, h2, h34, h5⟩ := State.granted_holds (s.beginCmd c) c
  simp only [hpick, hframes, hcores] at h1 h2 h34 h5
  rw [State.waitsFor, State.allocOff_beginCmd] at hend hwait
  refine answers_of_exec (exec_alloc_ready h hbefore) ⟨?_, ?_, ?_, ?_, hend, hwait⟩ <;> rw [hrest]
  · exact h1
  · exact h2
  · exact h34
  · exact h5

end

end Sys2Proof.Machine

/-!
# FREE

R220, R223, R226. A FREE finds what it found before it began, and gives back each of what it names.
-/
namespace Sys2Proof.Machine

open Sys2Proof Sys2Proof.Safety

section
variable {s t : State} {id i : Nat} {c : Cmd} {a : AllocArgs}

/-! ## A FREE that has begun finds what it found before -/

theorem onlyWork_readSpans (h : onlyWork s t) (slot : Nat) (l : List (Nat × Nat)) (r : ReadOut) : t.readSpans slot l r = s.readSpans slot l r := by
  have htranslate : t.translate = s.translate := by rw [h]; rfl
  have hpoisoned : t.linePoisoned = s.linePoisoned := by rw [h]; rfl
  have hmem : t.tierMem = s.tierMem := by rw [h]; rfl
  induction l generalizing r with
  | nil => rfl
  | cons e l ih => simp only [State.readSpans, htranslate, hpoisoned, hmem, ih]

theorem onlyWork_vread (h : onlyWork s t) (slot va n : Nat) : t.vread slot va n = s.vread slot va n := onlyWork_readSpans h ..

/-- The commands found once one has begun: those there were, and that one. -/
theorem State.beginCmd_mem {d : Cmd} (h : d ∈ (s.beginCmd c).cmds) : d ∈ s.cmds ∨ d = c.begun s.time (s.part c.slot).epoch (s.tablesOf c.slot) := by
  have hwork := s.workReaches_rest (s.pendingBlocks c)
  unfold State.beginCmd State.setCmd at h
  rw [hwork] at h
  obtain ⟨e, he, rfl⟩ := List.mem_map.mp h
  split
  · exact .inr rfl
  · exact .inl he

theorem State.coreBusy_beginCmd (hmem : c ∈ s.cmds) {k : Nat} (h : s.coreBusy k = false) : (s.beginCmd c).coreBusy k = false := by
  have hcore : (s.beginCmd c).core k = s.core k := State.core_congr (by rw [State.beginCmd_rest]) k
  simp only [State.coreBusy, State.boundTo, hcore, Bool.or_eq_false_iff, Bool.not_eq_false', List.isEmpty_iff, List.filter_eq_nil_iff] at h ⊢
  refine ⟨fun d hd => ?_, h.2⟩
  rcases State.beginCmd_mem hd with hd | rfl
  · exact h.1 d hd
  · exact h.1 c hmem

theorem State.tierBusy_beginCmd (hop : c.opcode ≠ 0x32) {pg : Nat} (h : s.tierBusy i pg = false) : (s.beginCmd c).tierBusy i pg = false := by
  simp only [State.tierBusy, List.any_eq_false] at h ⊢
  intro d hd
  rcases State.beginCmd_mem hd with hd | rfl
  · exact h d hd
  · have hne : (c.begun s.time (s.part c.slot).epoch (s.tablesOf c.slot)).opcode ≠ 0x32 := hop
    simp [hne]

theorem not_any_of_imp {α : Type} {p q : α → Bool} {l : List α} (hpq : ∀ x, p x = false → q x = false) (h : ¬l.any p = true) : ¬l.any q = true := by
  simp only [Bool.not_eq_true, List.any_eq_false] at h ⊢
  exact fun x hx => by simpa using hpq x (by simpa using h x hx)

/-- Two checks in order, passed. -/
theorem checks_none {p q : Prop} [Decidable p] [Decidable q] (e f : Stop) :
    (if p then some e else if q then some f else none) = none ↔ ¬p ∧ ¬q := by
  by_cases hp : p <;> by_cases hq : q <;> simp [hp, hq]

/-- A FREE that passes its checks passes them once it has begun. -/
theorem freeStatus_begun (h : ready s id 0x31 c) (p : Nat) (hkind : a.kind ∈ [1, 2, 3, 4, 5]) (hstatus : s.freeStatus i a p = none) :
    (s.beginCmd c).freeStatus i a p = none := by
  obtain ⟨hcmd, hop, -⟩ := h
  have hmem : c ∈ s.cmds := List.mem_of_find?_eq_some hcmd
  have hwork := State.beginCmd_onlyWork s c
  have hcore : ∀ k, (s.beginCmd c).core k = s.core k := State.core_congr (by rw [hwork])
  have hread : (s.beginCmd c).vread = s.vread := funext fun _ => funext fun _ => funext fun _ => onlyWork_vread hwork ..
  have hflow : (s.beginCmd c).flow = s.flow := by rw [hwork]; rfl
  have hbusy : ∀ k, s.coreBusy k = false → (s.beginCmd c).coreBusy k = false := fun k => State.coreBusy_beginCmd hmem
  have htier : ∀ pg, s.tierBusy i pg = false → (s.beginCmd c).tierBusy i pg = false := fun pg => State.tierBusy_beginCmd (by simp [hop])
  simp only [List.mem_cons, List.not_mem_nil, or_false] at hkind
  have hpage : ∀ pg, ((s.part i).isTwin pg || ((s.part i).leaf ((s.part i).liveSideOf pg) pg).migrating || s.tierBusy i pg) = false →
      ((s.part i).isTwin pg || ((s.part i).leaf ((s.part i).liveSideOf pg) pg).migrating || (s.beginCmd c).tierBusy i pg) = false := by
    intro pg hpg
    rw [Bool.or_eq_false_iff] at hpg ⊢
    exact ⟨hpg.1, htier pg hpg.2⟩
  rcases hkind with hk | hk | hk | hk | hk <;>
    simp only [State.freeStatus, hk, checks_none, hcore, State.part_beginCmd, State.readBlocked, hread, hflow, Bool.and_eq_true, not_and] at hstatus ⊢
  · exact ⟨hstatus.1, fun hdrain => not_any_of_imp hbusy (hstatus.2 hdrain)⟩
  · exact ⟨hstatus.1, fun hdrain => by simpa using hbusy _ (by simpa using hstatus.2 hdrain)⟩
  · exact ⟨hstatus.1, not_any_of_imp hpage hstatus.2⟩
  · exact ⟨hstatus.1, not_any_of_imp hpage hstatus.2⟩
  · exact hstatus

/-! ## What a FREE gives back (R223, R226, R220) -/

theorem State.releaseGroups_core (s : State) (k : Nat) (gs : List Nat) :
    ((s.releaseGroups k gs).core k).groups = (s.core k).groups &&& ~~~(BitVec.ofNat 80 (maskOf gs)) ∧
    ∀ j, j ≠ k → (s.releaseGroups k gs).core j = s.core j := by
  have hzero : (gs.foldl (fun x g => x.zeroGroup k g) s).cores = s.cores := State.cores_foldl fun _ _ => rfl
  unfold State.releaseGroups
  dsimp only
  refine ⟨?_, fun j hj => ?_⟩
  · rw [State.setCore_core, if_pos rfl, State.core_congr hzero]
  · rw [State.setCore_core, if_neg hj, State.core_congr hzero]

theorem State.releaseCore_core (s : State) (k j : Nat) :
    (if j = k then ((s.releaseCore k).core j).holder = none ∧ ((s.releaseCore k).core j).draining = false else (s.releaseCore k).core j = s.core j) := by
  unfold State.releaseCore
  dsimp only
  rw [State.setCore_core]
  split
  · exact ⟨rfl, rfl⟩
  · next hj => exact (State.releaseGroups_core ..).2 j hj

/-- A core released is held by no slot and drains no more. -/
theorem State.releaseCores_core (s : State) (l : List Nat) :
    ∀ k ∈ l, ((l.foldl (fun x k => x.releaseCore k) s).core k).holder = none ∧ ((l.foldl (fun x k => x.releaseCore k) s).core k).draining = false := by
  refine State.foldl_each (P := fun k x => (x.core k).holder = none ∧ (x.core k).draining = false) (fun x k => ?_) (fun x k j hj => ?_) l s
  · have hset := x.releaseCore_core k k
    rwa [if_pos rfl] at hset
  · have hset := x.releaseCore_core k j
    split at hset
    · exact hset
    · rwa [hset]

@[simp] theorem Part.liveSideOf_setLeaf (p : Part) (side : Bool) (page pg : Nat) (l : Leaf) : (p.setLeaf side page l).liveSideOf pg = p.liveSideOf pg := by
  cases side <;> rfl

theorem Part.leaf_setLeaf (p : Part) (side side' : Bool) (page pg : Nat) (l : Leaf) :
    (p.setLeaf side page l).leaf side' pg = if side' = side ∧ pg = page then l else p.leaf side' pg := by
  unfold Part.setLeaf Part.leaf
  by_cases hpg : pg = page
  · subst hpg
    cases side <;> cases side' <;> simp
  · cases side <;> cases side' <;> simp [hpg, tabGet_set_other]

/-- A leaf written on the side live accesses read is the one they read there. -/
theorem Part.liveLeaf_setLeaf (p : Part) (page pg : Nat) (l : Leaf) :
    (p.setLeaf (p.liveSideOf page) page l).liveLeaf pg = if pg = page then l else p.liveLeaf pg := by
  rw [Part.liveLeaf, Part.liveSideOf_setLeaf, Part.leaf_setLeaf]
  by_cases hpg : pg = page
  · subst hpg; simp
  · simp [hpg, Part.liveLeaf]

@[simp] theorem State.setFrame_parts (s : State) (cxl : Bool) (f : Nat) (v : Frame) : (s.setFrame cxl f v).parts = s.parts := by
  cases cxl <;> rfl

theorem State.part_congr (h : t.parts = s.parts) (k : Nat) : t.part k = s.part k := by rw [State.part, State.part, h]

theorem State.unmapLeaf_liveLeaf (s : State) (i page pg : Nat) :
    (((s.unmapLeaf i page).part i).liveLeaf pg).valid = (decide (pg ≠ page) && ((s.part i).liveLeaf pg).valid) := by
  unfold State.unmapLeaf
  dsimp only
  split
  · next hvalid =>
    by_cases hpg : pg = page
    · subst hpg; simpa [Part.liveLeaf] using hvalid
    · simp [hpg]
  · unfold State.releaseFrame
    rw [State.part_congr (State.setFrame_parts ..), State.part_setPart, Part.liveLeaf_setLeaf]
    by_cases hpg : pg = page
    · simp [hpg]
    · simp [hpg]

/-- A page unmapped is mapped no more. -/
theorem State.unmapLeaves_valid (s : State) (i : Nat) (l : List Nat) :
    ∀ pg ∈ l, (((l.foldl (fun x pg => x.unmapLeaf i pg) s).part i).liveLeaf pg).valid = false := by
  refine State.foldl_each (P := fun pg x => ((x.part i).liveLeaf pg).valid = false) (fun x pg => ?_) (fun x pg j hj => ?_) l s
  · simp [State.unmapLeaf_liveLeaf]
  · simp [State.unmapLeaf_liveLeaf, hj]

theorem State.releaseGroups_cmds (s : State) (k : Nat) (gs : List Nat) : (s.releaseGroups k gs).cmds = s.cmds := by
  unfold State.releaseGroups
  exact State.cmds_foldl fun x g => (rfl : (x.zeroGroup k g).cmds = x.cmds)

theorem State.releaseCore_cmds (s : State) (k : Nat) : (s.releaseCore k).cmds = s.cmds := State.releaseGroups_cmds ..

theorem State.unmapLeaf_cmds (s : State) (i page : Nat) : (s.unmapLeaf i page).cmds = s.cmds := by
  unfold State.unmapLeaf
  dsimp only
  split
  · rfl
  · exact State.setFrame_cmds ..

theorem State.releaseFlow_cmds (s : State) (f : Nat) : (s.releaseFlow f).cmds = s.cmds := rfl

theorem State.freeApply_cores (h : a.kind = 1) (p : Nat) : s.freeApply i a p = (maskList a.arg 16).foldl (fun s k => s.releaseCore k) s := by
  simp only [State.freeApply, h]

theorem State.freeApply_groups (h : a.kind = 2) (p : Nat) : s.freeApply i a p = s.releaseGroups a.core (maskList a.arg 80) := by
  simp only [State.freeApply, h]

theorem State.freeApply_pages (h : a.kind = 3 ∨ a.kind = 4) (p : Nat) :
    s.freeApply i a p = (pageList (a.arg % 2 ^ 64) a.count a.big).foldl (fun s pg => s.unmapLeaf i pg) s := by
  rcases h with h | h <;> simp only [State.freeApply, h]

theorem State.freeApply_flows (h : a.kind = 5) {p : Nat} {r : ReadOut} (hread : s.vread i p (2 * a.count) = .ok r) :
    s.freeApply i a p = (flowNumbers r.bytes).foldl (fun s f => s.setFlow f {}) s := by
  simp only [State.freeApply, h, hread]
  rfl

theorem State.freeApply_cmds (s : State) (i : Nat) (a : AllocArgs) (p : Nat) : (s.freeApply i a p).cmds = s.cmds := by
  unfold State.freeApply
  split
  · exact State.cmds_foldl fun _ _ => State.releaseCore_cmds ..
  · exact State.releaseGroups_cmds ..
  · split
    · rfl
    · exact State.cmds_foldl fun _ _ => State.releaseFlow_cmds ..
  · exact State.cmds_foldl fun _ _ => State.unmapLeaf_cmds ..

/-- What a FREE changes, kind by kind. -/
theorem State.freeApply_holds (s : State) (i : Nat) (a : AllocArgs) (p : Nat) :
    (a.kind = 1 → ∀ k ∈ maskList a.arg 16, ((s.freeApply i a p).core k).holder = none ∧ ((s.freeApply i a p).core k).draining = false) ∧
    (a.kind = 2 → ((s.freeApply i a p).core a.core).groups = (s.core a.core).groups &&& ~~~(BitVec.ofNat 80 (maskOf (maskList a.arg 80)))) ∧
    (a.kind = 3 ∨ a.kind = 4 → ∀ pg ∈ pageList (a.arg % 2 ^ 64) a.count a.big, (((s.freeApply i a p).part i).liveLeaf pg).valid = false) ∧
    (a.kind = 5 → ∀ r, s.vread i p (2 * a.count) = .ok r → ∀ f ∈ flowNumbers r.bytes, (s.freeApply i a p).flow f = {}) := by
  refine ⟨fun h => ?_, fun h => ?_, fun h => ?_, fun h r hread => ?_⟩
  · rw [State.freeApply_cores h]
    exact State.releaseCores_core s _
  · rw [State.freeApply_groups h]
    exact (State.releaseGroups_core ..).1
  · rw [State.freeApply_pages h]
    exact State.unmapLeaves_valid s i _
  · rw [State.freeApply_flows h hread]
    exact State.setFlows_flow s {} _

/-- A FREE that passes its checks gives back what it names and ends. -/
theorem State.freeRun_ends (h : s.freeStatus c.slot (allocArgs c.record) c.payload = none) :
    ∃ d, s.freeRun c = (s.freeApply c.slot (allocArgs c.record) c.payload).finishCmd c.id d := by
  simp only [State.freeRun, h]
  exact ⟨_, rfl⟩

theorem exec_free_ready (h : ready s id 0x31 c) (hdrain : s.drainBusy c = false) : exec (.free id) s = .next ((s.beginCmd c).freeRun c) := by
  rw [← State.startOp_ready h fun c s => s.freeRun c]
  change execFree id s = _
  simp [execFree, h.1, hdrain]

/-- FREE gives back what it names and ends OK (R223, R226, R220). -/
theorem answers_free (h : ready s id 0x31 c) (hclean : clean c) (ha : a = allocArgs c.record) (hdrain : s.drainBusy c = false)
    (hstatus : s.freeStatus c.slot a c.payload = none) (hkind : a.kind ∈ [1, 2, 3, 4, 5]) :
    answers (.free id) s fun t => (∃ d, endedAs t id 0 d) ∧
      (a.kind = 1 → ∀ k ∈ maskList a.arg 16, (t.core k).holder = none ∧ (t.core k).draining = false) ∧
      (a.kind = 2 → (t.core a.core).groups = (s.core a.core).groups &&& ~~~(BitVec.ofNat 80 (maskOf (maskList a.arg 80)))) ∧
      (a.kind = 3 ∨ a.kind = 4 → ∀ pg ∈ pageList (a.arg % 2 ^ 64) a.count a.big, ((t.part c.slot).liveLeaf pg).valid = false) ∧
      (a.kind = 5 → ∀ r, s.vread c.slot c.payload (2 * a.count) = .ok r → ∀ f ∈ flowNumbers r.bytes, t.flow f = {}) := by
  subst ha
  have hwork := State.beginCmd_onlyWork s c
  have hcores : ∀ k, (s.beginCmd c).core k = s.core k := State.core_congr (by rw [hwork])
  obtain rfl := ready_id h
  obtain ⟨d, hends⟩ := State.freeRun_ends (freeStatus_begun h _ hkind hstatus)
  have hruns : runsClean ((s.beginCmd c).freeApply c.slot (allocArgs c.record) c.payload) c.id :=
    runsClean_congr (State.freeApply_cmds ..) (ready_runsClean h hclean)
  obtain ⟨h1, h2, h34, h5⟩ := (s.beginCmd c).freeApply_holds c.slot (allocArgs c.record) c.payload
  simp only [hcores, onlyWork_vread hwork] at h2 h5
  refine answers_of_exec (exec_free_ready h hdrain) ⟨?ends, ?_, ?_, ?_, ?_⟩
  case ends => exact ⟨d, by rw [hends]; exact hruns.ends d⟩
  all_goals rw [hends, State.finishCmd_rest]
  · exact h1
  · exact h2
  · exact h34
  · exact h5

end

end Sys2Proof.Machine

/-!
# TIER_DECLARE, and the allocator's obligation

R276 to R280. Bytes copied between tiers, the leaves of a page changed, and the rows of a move.
-/
namespace Sys2Proof.Machine

open Sys2Proof Sys2Proof.Safety

/-! ## Bytes copied from one memory to another -/

section
variable {α : Type}

theorem tabFind_none {t : Tab α} {k : Nat} (h : ∀ e ∈ t, e.1 ≠ k) : tabFind t k = none := by
  induction t with
  | nil => rfl
  | cons e t ih =>
    rw [tabFind, if_neg (h e List.mem_cons_self)]
    exact ih fun x hx => h x (List.mem_cons_of_mem _ hx)

/-- Entries renumbered from a bound they all lie above. -/
theorem tabFind_shift {t : Tab α} {lo : Nat} (h : ∀ e ∈ t, lo ≤ e.1) (k : Nat) : tabFind (t.map fun e => (e.1 - lo, e.2)) k = tabFind t (lo + k) := by
  induction t with
  | nil => rfl
  | cons e t ih =>
    have hlo := h e List.mem_cons_self
    simp only [List.map_cons, tabFind, ih fun x hx => h x (List.mem_cons_of_mem _ hx)]
    exact if_congr (by omega) rfl rfl

theorem tabSlice_find (t : Tab α) (lo n k : Nat) : tabFind (tabSlice t lo n) k = if k < n then tabFind t (lo + k) else none := by
  rw [tabSlice, tabFind_shift (lo := lo) (fun e he => by have := (List.mem_filter.mp he).2; simp at this; omega),
    tabFind_filter fun j => decide (lo ≤ j) && decide (j < lo + n)]
  simp

theorem tabSlice_pairwise {t : Tab α} (h : t.Pairwise fun x y => x.1 < y.1) (lo n : Nat) : (tabSlice t lo n).Pairwise fun x y => x.1 < y.1 := by
  refine List.pairwise_map.mpr ((h.filter _).imp_of_mem fun hx hy hlt => ?_)
  have hx := (List.mem_filter.mp hx).2
  simp only [Bool.and_eq_true, decide_eq_true_eq] at hx
  omega

/-- What a slice pasted lists, and what was there where it lists nothing. -/
theorem tabPaste_get [DecidableEq α] (d : α) (lo k : Nat) {l : Tab α} (h : l.Pairwise fun x y => x.1 < y.1) (t : Tab α) :
    tabGet d (tabPaste d t lo l) (lo + k) = (tabFind l k).getD (tabGet d t (lo + k)) := by
  induction l generalizing t with
  | nil => rfl
  | cons e l ih =>
    obtain ⟨hfirst, hl⟩ := List.pairwise_cons.mp h
    refine (ih hl (tabSet d t (lo + e.1) e.2)).trans ?_
    by_cases hk : e.1 = k
    · subst hk
      rw [tabFind_none fun x hx => Nat.ne_of_gt (hfirst x hx)]
      simp [tabFind]
    · rw [tabGet_set_other _ _ _ (by omega), tabFind, if_neg hk]

end

/-- A byte copied. -/
theorem memByte_copy (m u : Mem) (dst src n k : Nat) (hu : tabWf 0 u = true) (hk : k < n) :
    memByte (tabCopy 0 m dst u src n) (dst + k) = memByte u (src + k) := by
  have hclear : tabGet 0 (tabClear m dst n) (dst + k) = (0 : Byte) := (memByte_zero m dst n (dst + k)).trans (if_pos (by omega))
  rw [memByte, tabCopy, tabPaste_get 0 dst k (tabSlice_pairwise ((tabWf_iff 0 u).mp hu).1 src n), hclear, tabSlice_find, if_pos hk]
  rfl

section
variable {s t u : State} {id : Nat} {c d : Cmd} {a : TierArgs}

theorem State.tierMem_copyTier (s : State) (toCxl fromCxl : Bool) (dst src n : Nat) :
    (s.copyTier toCxl dst fromCxl src n).tierMem toCxl = tabCopy 0 (s.tierMem toCxl) dst (s.tierMem fromCxl) src n := by
  cases toCxl <;> rfl

/-! ## Leaves of a page changed -/

/-- The first n leaves from a page changed on the side live accesses read. -/
def Part.changeLeaves (p : Part) (page n : Nat) (f : Nat → Leaf → Leaf) : Part :=
  (List.range n).foldl (fun p i => p.setLeaf (p.liveSideOf (page + i)) (page + i) (f i (p.liveLeaf (page + i)))) p

theorem Part.changeLeaves_liveLeaf (p : Part) (page n pg : Nat) (f : Nat → Leaf → Leaf) :
    (p.changeLeaves page n f).liveLeaf pg = if page ≤ pg ∧ pg < page + n then f (pg - page) (p.liveLeaf pg) else p.liveLeaf pg := by
  unfold Part.changeLeaves
  induction n with
  | zero => rw [if_neg (by omega)]; rfl
  | succ n ih =>
    rw [List.range_succ, List.foldl_append, List.foldl_cons, List.foldl_nil, Part.liveLeaf_setLeaf]
    by_cases hpg : pg = page + n
    · subst hpg
      rw [if_neg (by omega)] at ih
      rw [if_pos rfl, if_pos (by omega), ih, Nat.add_sub_cancel_left]
    · rw [if_neg hpg, ih]
      exact if_congr (by omega) rfl rfl

theorem State.mapLeaves_part (s : State) (slot page n : Nat) (f : Nat → Leaf → Leaf) :
    (s.mapLeaves slot page n f).part slot = (s.part slot).changeLeaves page n f := State.part_setPart ..

/-! ## A page set in motion -/

theorem State.setTier_cmd (hcmd : s.cmd id = some d) (m : TierMove) : (s.setTier id m).cmd id = some { d with tier := m } := by
  obtain rfl := State.cmd_id hcmd
  unfold State.setTier
  rw [hcmd]
  exact State.cmd_setCmd (c := { d with tier := m }) hcmd

theorem State.setTier_rest (s : State) (id : Nat) (m : TierMove) : onlyCmds s (s.setTier id m) := by
  unfold State.setTier
  split <;> rfl

/-- What setting pages in motion changes: commands, the cores' buffers and leaves. -/
def onlyMapped (s t : State) : Prop := t = { s with cmds := t.cmds, cores := t.cores, parts := t.parts }

theorem State.tierBegin_rest (s : State) (c : Cmd) (a : TierArgs) (pages : List (Nat × Nat)) : onlyMapped s (s.tierBegin c a pages) := by
  have htier : onlyCmds s (s.setTier c.id { pages := pages }) := State.setTier_rest ..
  unfold State.tierBegin
  dsimp only
  split
  · rw [onlyMapped, htier]
  · rw [htier]; rfl

theorem State.tierBegin_cmd (hcmd : s.cmd c.id = some d) (pages : List (Nat × Nat)) :
    (s.tierBegin c a pages).cmd c.id = some { d with tier := { pages := pages } } := by
  unfold State.tierBegin
  dsimp only
  split
  · exact State.setTier_cmd hcmd _
  · exact State.setTier_cmd hcmd _

theorem State.tierBegin_liveLeaf (s : State) (c : Cmd) (a : TierArgs) (pages : List (Nat × Nat)) (pg : Nat) :
    (((s.tierBegin c a pages).part c.slot).liveLeaf pg).tier = ((s.part c.slot).liveLeaf pg).tier ∧
    (((s.tierBegin c a pages).part c.slot).liveLeaf pg).frame = ((s.part c.slot).liveLeaf pg).frame := by
  have hparts : ∀ m, (s.setTier c.id m).part c.slot = s.part c.slot := fun m => State.part_congr (by rw [s.setTier_rest c.id m]) _
  unfold State.tierBegin
  dsimp only
  split
  · rw [hparts]
    exact ⟨rfl, rfl⟩
  · rw [State.setMigrating, State.mapLeaves_part, Part.changeLeaves_liveLeaf, hparts]
    split <;> exact ⟨rfl, rfl⟩

theorem sameMemory_of_eq (hhbm : t.hbm = s.hbm) (hcxl : t.cxl = s.cxl) (hscratch : t.scratch = s.scratch) : sameMemory s t := by
  rw [sameMemory, hhbm, hcxl, hscratch]
  exact ⟨fun _ => rfl, fun _ => rfl, fun _ => rfl⟩

theorem sameMemory.trans (h : sameMemory s t) (k : sameMemory t u) : sameMemory s u :=
  ⟨fun x => (k.1 x).trans (h.1 x), fun x => (k.2.1 x).trans (h.2.1 x), fun x => (k.2.2 x).trans (h.2.2 x)⟩

theorem onlyMapped.memory (h : onlyMapped s t) : sameMemory s t := by
  rw [h]
  exact sameMemory_of_eq rfl rfl rfl

end

section
variable {s t s1 : State} {id : Nat} {c d : Cmd} {a : TierArgs} {e : Nat × Nat} {l : List (Nat × Nat)}

/-! ## A TIER_DECLARE that starts (R276 to R278) -/

theorem exec_tierDeclare_ready (h : ready s id 0x32 c) (hahead : s.tierAhead c = false) (hstatus : s.tierStatus c.slot (tierArgs c.record) = none) :
    exec (.tierDeclare id) s = .next (if (tierArgs c.record).moving (s.part c.slot) = [] then (s.beginCmd c).finishCmd id 0
      else (s.beginCmd c).tierStart c (tierArgs c.record)) := by
  have hwaiting : ¬(c.phase = .running ∧ c.opcode = 0x32) := by simp [phase_of_canStart h.2.2]
  have hbegun := (onlyWork_tierStatus (State.beginCmd_onlyWork s c) c.slot (tierArgs c.record)).trans hstatus
  change execTierDeclare id s = _
  simp only [execTierDeclare, h.1, hahead, if_neg hwaiting, State.startOp_ready h, hbegun, State.part_beginCmd, List.isEmpty_iff]
  rfl

/-- The frames a move takes for its pages. -/
def State.takeFrames (s : State) (cxl : Bool) (slot : Nat) (l : List Nat) : State :=
  l.foldl (fun s f => s.setFrame cxl f { s.frame cxl f with owner := some slot }) s

theorem State.takeFrames_rest (s : State) (cxl : Bool) (slot : Nat) (l : List Nat) :
    s.takeFrames cxl slot l = { s with hbmFrames := (s.takeFrames cxl slot l).hbmFrames, cxlFrames := (s.takeFrames cxl slot l).cxlFrames } := by
  unfold State.takeFrames
  induction l generalizing s with
  | nil => rfl
  | cons f l ih =>
    rw [List.foldl_cons, ih]
    cases cxl <;> rfl

theorem State.takeFrames_owner (s : State) (cxl : Bool) (slot : Nat) (l : List Nat) :
    ∀ f ∈ l, ((s.takeFrames cxl slot l).frame cxl f).owner = some slot := by
  refine State.foldl_each (P := fun f x => (x.frame cxl f).owner = some slot) (fun x f => ?_) (fun x f g hg => ?_) l s
  · rw [State.setFrame_frame, if_pos rfl]
  · rw [State.setFrame_frame]
    split
    · rfl
    · exact hg

/-- The pages a move will switch, each with its first target frame. -/
def State.tierPages (s : State) (c : Cmd) (a : TierArgs) : List (Nat × Nat) :=
  (a.moving (s.part c.slot)).zip (s.freeBlocks a.toCxl a.leaves (a.moving (s.part c.slot)).length)

/-- Every target frame of a list of pages. -/
def TierArgs.targets (a : TierArgs) (pages : List (Nat × Nat)) : List Nat := pages.flatMap fun e => (List.range a.leaves).map (e.2 + ·)

theorem State.tierStart_eq (hcmd : s.cmd c.id = some d) : s.tierStart c a =
    ((s.takeFrames a.toCxl c.slot (a.targets (s.tierPages c a))).setCmd
      { d with whole := (s.tierPages c a).length * a.leaves * frameBytes }).tierBegin c a (s.tierPages c a) := by
  have hfound : (s.takeFrames a.toCxl c.slot (a.targets (s.tierPages c a))).cmd c.id = some d := by
    rw [State.takeFrames_rest]
    exact hcmd
  unfold State.takeFrames TierArgs.targets State.tierPages at hfound ⊢
  simp only [State.tierStart, hfound]

/-- A move that starts has taken the target frames of every page, and moved no byte. -/
theorem State.tierStart_holds (hcmd : s.cmd c.id = some d) (hrun : d.phase = .running) :
    running (s.tierStart c a) c.id ∧ sameMemory s (s.tierStart c a) ∧
    (∃ d, (s.tierStart c a).cmd c.id = some d ∧ d.tier.pages = s.tierPages c a) ∧
    ∀ e ∈ s.tierPages c a, ∀ i, i < a.leaves → ((s.tierStart c a).frame a.toCxl (e.2 + i)).owner = some c.slot := by
  have hid := State.cmd_id hcmd
  have htaken : (s.takeFrames a.toCxl c.slot (a.targets (s.tierPages c a))).cmd c.id = some d := by
    rw [State.takeFrames_rest]
    exact hcmd
  rw [State.tierStart_eq hcmd]
  generalize hw : (s.tierPages c a).length * a.leaves * frameBytes = w
  have hset : ((s.takeFrames a.toCxl c.slot (a.targets (s.tierPages c a))).setCmd { d with whole := w }).cmd c.id = some { d with whole := w } := by
    rw [← hid] at htaken ⊢
    exact State.cmd_setCmd (c := { d with whole := w }) htaken
  have hbegun := State.tierBegin_cmd (a := a) hset (s.tierPages c a)
  have hrest := State.tierBegin_rest ((s.takeFrames a.toCxl c.slot (a.targets (s.tierPages c a))).setCmd { d with whole := w }) c a (s.tierPages c a)
  refine ⟨⟨_, hbegun, hrun⟩, sameMemory.trans ?_ hrest.memory, ⟨_, hbegun, rfl⟩, fun e he i hi => ?_⟩
  · rw [State.takeFrames_rest]
    exact sameMemory_of_eq rfl rfl rfl
  · rw [hrest]
    exact State.takeFrames_owner _ _ _ _ _ (List.mem_flatMap.mpr ⟨e, he, List.mem_map.mpr ⟨i, List.mem_range.mpr hi, rfl⟩⟩)

/-! ## A TIER_DECLARE that runs (R279, R280) -/

theorem exec_tierDeclare_running (hrun : s.runningOp id 0x32 = some c) (hahead : s.tierAhead c = false) :
    exec (.tierDeclare id) s = .next (s.tierStep c (tierArgs c.record)) := by
  obtain ⟨hcmd, hop, hphase⟩ := State.runningOp_eq_some hrun
  change execTierDeclare id s = _
  simp [execTierDeclare, hcmd, hahead, hop, hphase]

/-- No leaf of the page in motion is poisoned. -/
theorem no_leaf_poisoned (h : ∀ i, i < a.leaves → ((s.part c.slot).liveLeaf (e.1 + i)).poison = false) :
    ((List.range a.leaves).any fun i => ((s.part c.slot).liveLeaf (e.1 + i)).poison) = false := by
  simp only [List.any_eq_false, List.mem_range, Bool.not_eq_true]
  exact h

/-- The command found under a number changed. -/
def State.onCmd (s : State) (id : Nat) (f : Cmd → Cmd) : State :=
  match s.cmd id with
  | some d => s.setCmd (f d)
  | none => s

theorem State.onCmd_found (hcmd : s.cmd id = some d) {f : Cmd → Cmd} (hf : (f d).id = d.id) :
    Noted s (s.onCmd id f) ∧ (s.onCmd id f).cmd id = some (f d) := by
  obtain rfl := State.cmd_id hcmd
  have hset : s.onCmd d.id f = s.setCmd (f d) := by simp only [State.onCmd, hcmd]
  rw [hset, ← hf] at *
  exact ⟨⟨_, _, _, _, rfl⟩, State.cmd_setCmd hcmd⟩

/-- What serves a move pass changes commands, counters, regulators and the fabric, and the command is found. -/
theorem State.tierServe_noted {n : Nat} {cxl : Bool} (h : s.tierServe c n cxl = some s1) (hcmd : s.cmd c.id = some d) :
    Noted s s1 ∧ ∃ d, s1.cmd c.id = some d := by
  have hwork : ∀ x : State, Noted s x → (∃ k, x.cmd c.id = some k) →
      Noted s (x.onCmd c.id fun k => { k with work := k.work + n }) ∧
      ∃ k, (x.onCmd c.id fun k => { k with work := k.work + n }).cmd c.id = some k := by
    rintro x hx ⟨k, hk⟩
    obtain ⟨hnoted, hfound⟩ := State.onCmd_found (f := fun k => { k with work := k.work + n }) hk rfl
    exact ⟨hx.trans hnoted, _, hfound⟩
  have hfloor : ∀ k : Cmd, k.id = c.id → Noted s ((s.setCmd k).serveFloor c.slot 2 n cxl) ∧
      ∃ k', ((s.setCmd k).serveFloor c.slot 2 n cxl).cmd c.id = some k' := by
    intro k hk
    refine ⟨Noted.trans ⟨_, _, _, _, rfl⟩ (State.serveFloor_noted ..), k, ?_⟩
    rw [State.cmd_congr (State.serveFloor_cmds ..), ← hk]
    exact State.cmd_setCmd (hk ▸ hcmd)
  have hid := State.cmd_id hcmd
  unfold State.tierServe at h
  simp only [hcmd] at h
  split at h
  · split at h
    · obtain rfl := Option.some.inj h
      exact hwork s (Noted.refl s) ⟨d, hcmd⟩
    · cases h
  · split at h
    · obtain rfl := Option.some.inj h
      obtain ⟨hnoted, hfound⟩ := hfloor { d with used := tabSet 0 d.used 2 (tabGet 0 d.used 2 + n), waits := none } hid
      exact hwork _ hnoted hfound
    · cases h

theorem State.tierStep_copies (hpages : c.tier.pages = e :: l) (hleft : c.tier.copied < a.leaves)
    (hclear : ∀ i, i < a.leaves → ((s.part c.slot).liveLeaf (e.1 + i)).poison = false) (hserve : s.tierServe c frameBytes a.toCxl = some s1) :
    s.tierStep c a = (s1.copyTier a.toCxl ((e.2 + c.tier.copied) * frameBytes)
      (((s.part c.slot).liveLeaf (e.1 + c.tier.copied)).tier == .cxl) (((s.part c.slot).liveLeaf (e.1 + c.tier.copied)).frame * frameBytes)
      frameBytes).setTier c.id { c.tier with copied := c.tier.copied + 1 } := by
  simp only [State.tierStep, hpages, no_leaf_poisoned hclear, if_pos hleft, hserve, Bool.false_eq_true, if_false]

theorem State.tierStep_switches (hpages : c.tier.pages = e :: l) (hdone : a.leaves ≤ c.tier.copied) (hdirty : c.tier.dirty = [])
    (hclear : ∀ i, i < a.leaves → ((s.part c.slot).liveLeaf (e.1 + i)).poison = false) :
    s.tierStep c a = (s.tierSwitch c a e).tierBegin c a l := by
  simp only [State.tierStep, hpages, no_leaf_poisoned hclear, if_neg (Nat.not_lt.mpr hdone), hdirty, List.isEmpty_nil, Bool.not_true,
    Bool.false_eq_true, if_false]

/-- A leaf whose bytes pass is copied whole. -/
theorem State.tierStep_leaf (hcmd : s.cmd c.id = some c) (hpages : c.tier.pages = e :: l) (hleft : c.tier.copied < a.leaves)
    (hclear : ∀ i, i < a.leaves → ((s.part c.slot).liveLeaf (e.1 + i)).poison = false) (hserve : s.tierServe c frameBytes a.toCxl = some s1)
    (hwf : memWf s) : (∃ d, (s.tierStep c a).cmd c.id = some d ∧ d.tier = { c.tier with copied := c.tier.copied + 1 }) ∧
      ∀ k, k < frameBytes → memByte ((s.tierStep c a).tierMem a.toCxl) ((e.2 + c.tier.copied) * frameBytes + k) =
        memByte (s.tierMem (((s.part c.slot).liveLeaf (e.1 + c.tier.copied)).tier == .cxl))
          (((s.part c.slot).liveLeaf (e.1 + c.tier.copied)).frame * frameBytes + k) := by
  obtain ⟨hnoted, d, hfound⟩ := State.tierServe_noted hserve hcmd
  have hmem : ∀ cxl, s1.tierMem cxl = s.tierMem cxl := by
    obtain ⟨_, _, _, _, rfl⟩ := hnoted
    exact fun _ => rfl
  rw [State.tierStep_copies hpages hleft hclear hserve]
  refine ⟨⟨_, State.setTier_cmd ((State.cmd_congr (State.copyTier_cmds ..) _).trans hfound) _, rfl⟩, fun k hk => ?_⟩
  have hset : ∀ (x : State) m cxl, (x.setTier c.id m).tierMem cxl = x.tierMem cxl := fun x m cxl => by rw [x.setTier_rest c.id m]; rfl
  rw [hset, State.tierMem_copyTier, hmem, hmem]
  exact memByte_copy _ _ _ _ _ _ (State.tierMem_wf _ hwf) hk

/-- The leaves of a page switched to its target frames, its bytes counted by direction. -/
theorem State.tierSwitch_holds (s : State) (c : Cmd) (a : TierArgs) (e : Nat × Nat) :
    (s.tierSwitch c a e).cmds = s.cmds ∧ sameMemory s (s.tierSwitch c a e) ∧
    (∀ i, i < a.leaves → (((s.tierSwitch c a e).part c.slot).liveLeaf (e.1 + i)).tier = (if a.toCxl then .cxl else .hbm) ∧
      (((s.tierSwitch c a e).part c.slot).liveLeaf (e.1 + i)).frame = e.2 + i) ∧
    (s.tierSwitch c a e).entry (if a.toCxl then 0x5031 else 0x5030) (c.slot + 1) =
      s.entry (if a.toCxl then 0x5031 else 0x5030) (c.slot + 1) + a.leaves * frameBytes := by
  unfold State.tierSwitch
  extract_lets old s1
  have hreleased : ∀ x : State, ∃ hf cf, old.foldl (fun x l => x.releaseFrame (l.tier == .cxl) l.frame) x =
      { x with hbmFrames := hf, cxlFrames := cf } := by
    induction old with
    | nil => exact fun x => ⟨_, _, rfl⟩
    | cons l ls ih =>
      intro x
      obtain ⟨hf, cf, hrest⟩ := ih (x.releaseFrame (l.tier == .cxl) l.frame)
      rw [List.foldl_cons, hrest]
      cases hl : l.tier == .cxl <;> exact ⟨_, _, rfl⟩
  obtain ⟨hf, cf, hrest⟩ := hreleased s1
  rw [hrest]
  refine ⟨State.count_cmds .., ?_, fun i hi => ?_, State.dictGet_count ..⟩
  · obtain ⟨dict, hcount⟩ := State.count_rest { s1 with hbmFrames := hf, cxlFrames := cf } (if a.toCxl then 0x5031 else 0x5030) (c.slot + 1)
      (a.leaves * frameBytes)
    rw [hcount]
    exact sameMemory_of_eq rfl rfl rfl
  · have hparts : ∀ (x : State) index sub n, (x.count index sub n).part c.slot = x.part c.slot := fun x index sub n => by
      obtain ⟨dict, hcount⟩ := x.count_rest index sub n
      rw [hcount]
      rfl
    rw [hparts]
    change ((s1.part c.slot).liveLeaf _).tier = _ ∧ ((s1.part c.slot).liveLeaf _).frame = _
    rw [State.mapLeaves_part, Part.changeLeaves_liveLeaf, if_pos (by omega), Nat.add_sub_cancel_left]
    exact ⟨rfl, rfl⟩

/-- A page copied with nothing left to copy again is mapped at its new frames. -/
theorem State.tierStep_page (hcmd : s.cmd c.id = some c) (hrun : c.phase = .running) (hpages : c.tier.pages = e :: l)
    (hdone : a.leaves ≤ c.tier.copied) (hdirty : c.tier.dirty = [])
    (hclear : ∀ i, i < a.leaves → ((s.part c.slot).liveLeaf (e.1 + i)).poison = false) :
    running (s.tierStep c a) c.id ∧ sameMemory s (s.tierStep c a) ∧
    (∀ i, i < a.leaves → (((s.tierStep c a).part c.slot).liveLeaf (e.1 + i)).tier = (if a.toCxl then .cxl else .hbm) ∧
      (((s.tierStep c a).part c.slot).liveLeaf (e.1 + i)).frame = e.2 + i) ∧
    (s.tierStep c a).entry (if a.toCxl then 0x5031 else 0x5030) (c.slot + 1) =
      s.entry (if a.toCxl then 0x5031 else 0x5030) (c.slot + 1) + a.leaves * frameBytes := by
  rw [State.tierStep_switches hpages hdone hdirty hclear]
  obtain ⟨hcmds, hmemory, hleaves, hentry⟩ := s.tierSwitch_holds c a e
  have hrest := (s.tierSwitch c a e).tierBegin_rest c a l
  refine ⟨⟨_, State.tierBegin_cmd ((State.cmd_congr hcmds _).trans hcmd) l, hrun⟩, sameMemory.trans hmemory hrest.memory, fun i hi => ?_,
    (State.dictGet_congr (by rw [hrest]) _).trans hentry⟩
  obtain ⟨htier, hframe⟩ := (s.tierSwitch c a e).tierBegin_liveLeaf c a l (e.1 + i)
  rw [htier, hframe]
  exact hleaves i hi

end

/-- Settles O16: each kind of ALLOC and FREE is a fold that does one thing for each of what is named (`State.foldl_each`), and a TIER_DECLARE is read
row by row: its start, a leaf copied, a page switched, its end. -/
theorem allocation : Obligations.Allocation := by
  unfold Obligations.Allocation
  refine ⟨fun s id c a => answers_alloc, fun s id c a => answers_free, fun s id c a hcmd hclean ha hahead => ?_⟩
  subst ha
  obtain rfl := State.cmd_id hcmd
  refine ⟨fun hready hstatus hnone => ?none, fun hready hstatus hsome => ?start, fun e l s1 hrun hpages hleft hclear hserve hwf => ?leaf,
    fun e l hrun hpages hdone hdirty hclear => ?page, fun hrun hpages => ?last⟩
  case none =>
    refine answers_of_exec (exec_tierDeclare_ready hready hahead hstatus) ?_
    rw [if_pos hnone]
    exact ⟨(ready_runsClean hready hclean).ends 0, onlyWork_onlyCmds (State.beginCmd_onlyWork s c) (State.finishCmd_rest ..)⟩
  case start =>
    have hwork := State.beginCmd_onlyWork s c
    have hpages : (s.beginCmd c).tierPages c (tierArgs c.record) = s.tierPages c (tierArgs c.record) := by
      simp only [State.tierPages, State.part_beginCmd, onlyWork_freeBlocks hwork]
    obtain ⟨hruns, hmemory, hcommand, hframes⟩ := State.tierStart_holds (a := tierArgs c.record) (ready_begun hready) rfl
    rw [hpages] at hcommand hframes
    refine answers_of_exec (exec_tierDeclare_ready hready hahead hstatus) ?_
    rw [if_neg hsome]
    exact ⟨hruns, sameMemory.trans (onlyWork_memory hwork) hmemory, hcommand, hframes⟩
  case leaf => exact answers_of_exec (exec_tierDeclare_running hrun hahead) (State.tierStep_leaf hcmd hpages hleft hclear hserve hwf)
  case page =>
    obtain ⟨-, -, hphase⟩ := State.runningOp_eq_some hrun
    exact answers_of_exec (exec_tierDeclare_running hrun hahead) (State.tierStep_page hcmd hphase hpages hdone hdirty hclear)
  case last =>
    obtain ⟨-, -, hphase⟩ := State.runningOp_eq_some hrun
    have hfinish : s.tierStep c (tierArgs c.record) = s.finishCmd c.id 0 := by simp only [State.tierStep, hpages]
    refine answers_of_exec (exec_tierDeclare_running hrun hahead) ?_
    rw [hfinish]
    exact ⟨(runsClean_of hcmd hphase hclean).ends 0, State.finishCmd_rest ..⟩

end Sys2Proof.Machine

/-!
# Errors of a line, retired frames and zeroing

R254 to R259 and R281. What a corrected and an uncorrectable error of a line change, the copy of a frame to be retired into its spare,
and a freed frame zeroed.
-/
namespace Sys2Proof.Machine

open Sys2Proof Sys2Proof.Safety

section
variable {s t u : State} {f n : Nat}

/-! ## Poison of a line set -/

theorem State.tierPoison_setLinePoison (s : State) (cxl y : Bool) (dpa : Nat) (b : Bool) :
    (s.setLinePoison cxl dpa b).tierPoison y =
      if y = cxl then tabSet false (s.tierPoison cxl) (dpa / lineBytes) b else s.tierPoison y := by
  cases cxl <;> cases y <;> rfl

@[simp] theorem State.linePoisoned_setLinePoison (s : State) (cxl : Bool) (dpa : Nat) (b : Bool) :
    (s.setLinePoison cxl dpa b).linePoisoned cxl dpa = b := by
  rw [State.linePoisoned, State.tierPoison_setLinePoison, if_pos rfl, tabGet_set_same]

/-- A line poisoned leaves poisoned what is poisoned. -/
theorem State.linePoisoned_grows {y : Bool} {a : Nat} (h : s.linePoisoned y a = true) (cxl : Bool) (dpa : Nat) :
    (s.setLinePoison cxl dpa true).linePoisoned y a = true := by
  rw [State.linePoisoned, State.tierPoison_setLinePoison]
  split
  · subst y
    by_cases hline : a / lineBytes = dpa / lineBytes
    · rw [hline, tabGet_set_same]
    · rwa [tabGet_set_other _ _ _ hline]
  · exact h

theorem State.setLinePoison_rest (s : State) (cxl : Bool) (dpa : Nat) (b : Bool) :
    ∃ p q, s.setLinePoison cxl dpa b = { s with hbmPoison := p, cxlPoison := q } := by
  cases cxl
  · exact ⟨_, s.cxlPoison, rfl⟩
  · exact ⟨s.hbmPoison, _, rfl⟩

/-! ## What an error of a line leaves (R255, R256, R258, R259) -/

/-- t differs from s at most in what tells the hosts, counters, HBM frames and the supervisor's notes. -/
def LineNoted (s t : State) : Prop :=
  ∃ o fs h d fr sup, t = { s with out := o, fns := fs, hostMem := h, dict := d, hbmFrames := fr, sup := sup }

theorem LineNoted.refl (s : State) : LineNoted s s := ⟨_, _, _, _, _, _, rfl⟩

theorem LineNoted.trans (h : LineNoted s t) (k : LineNoted t u) : LineNoted s u := by
  obtain ⟨_, _, _, _, _, _, rfl⟩ := h
  obtain ⟨_, _, _, _, _, _, rfl⟩ := k
  exact ⟨_, _, _, _, _, _, rfl⟩

theorem LineNoted.memory (h : LineNoted s t) : sameMemory s t := by
  obtain ⟨_, _, _, _, _, _, rfl⟩ := h
  exact sameMemory_of_eq rfl rfl rfl

theorem LineNoted.linePoisoned (h : LineNoted s t) (cxl : Bool) (dpa : Nat) : t.linePoisoned cxl dpa = s.linePoisoned cxl dpa := by
  obtain ⟨_, _, _, _, _, _, rfl⟩ := h
  rfl

theorem State.event_lineNoted (s : State) (code detail : Nat) (l : List Nat) : LineNoted s (s.event code detail l) := by
  obtain ⟨o, fs, h, d, e⟩ := s.event_rest code detail l
  exact ⟨o, fs, h, d, _, _, e⟩

theorem State.count_lineNoted (s : State) (index sub k : Nat) : LineNoted s (s.count index sub k) := by
  obtain ⟨d, e⟩ := s.count_rest index sub k
  exact ⟨_, _, _, d, _, _, e⟩

theorem State.setFrame_lineNoted (s : State) (f : Nat) (v : Frame) : LineNoted s (s.setFrame false f v) := ⟨_, _, _, _, _, _, rfl⟩

/-- A frame that meets the condition of R258 is noted and told of, and counts nothing. -/
theorem State.retireFrame_holds (s : State) (line : Nat) :
    LineNoted s (s.retireFrame line) ∧ ∀ key, key ≠ dk 0x8030 2 → (s.retireFrame line).dictGet key = s.dictGet key := by
  have htold : ∀ fr sup code detail l, LineNoted s (({ s with hbmFrames := fr, sup := sup } : State).event code detail l) ∧
      ∀ key, key ≠ dk 0x8030 2 → (({ s with hbmFrames := fr, sup := sup } : State).event code detail l).dictGet key = s.dictGet key :=
    fun fr sup code detail l => ⟨LineNoted.trans ⟨_, _, _, _, _, _, rfl⟩ (State.event_lineNoted ..), State.event_dict _ code detail l⟩
  unfold State.retireFrame
  extract_lets frame r held s1
  split
  · exact ⟨LineNoted.refl s, fun _ _ => rfl⟩
  · split
    · split
      · exact ⟨s.setFrame_lineNoted .., fun _ _ => rfl⟩
      · exact htold ..
    · exact htold ..

theorem hbmStack_lt (dpa : Nat) : hbmStack dpa < 8 := by
  unfold hbmStack hbmFirstFrame bits
  split <;> omega

/-- A counter of a stack is not ALERT_PENDING. -/
theorem dk_stack_ne_alert {index : Nat} (h : index = 0x5001 ∨ index = 0x5002) (dpa : Nat) : dk index (hbmStack dpa + 1) ≠ dk 0x8030 2 := by
  have := hbmStack_lt dpa
  unfold dk
  omega

/-- A corrected error is counted at its stack. -/
theorem State.lineCorrected_holds (s : State) (line : Nat) :
    LineNoted s (s.lineCorrected line) ∧ (s.lineCorrected line).entry 0x5001 (hbmStack (line * lineBytes) + 1) =
      s.entry 0x5001 (hbmStack (line * lineBytes) + 1) + 1 := by
  unfold State.lineCorrected
  extract_lets frame r times s1
  have hnoted : LineNoted s s1 := (s.setFrame_lineNoted ..).trans (State.count_lineNoted ..)
  have hcount : s1.entry 0x5001 (hbmStack (line * lineBytes) + 1) = s.entry 0x5001 (hbmStack (line * lineBytes) + 1) + 1 :=
    State.dictGet_count ..
  split
  · obtain ⟨hretire, hdict⟩ := s1.retireFrame_holds line
    exact ⟨hnoted.trans hretire, (hdict _ (dk_stack_ne_alert (.inl rfl) _)).trans hcount⟩
  · exact ⟨hnoted, hcount⟩

/-- A line found with an uncorrectable error for the first time is poisoned, and the rest is notes. -/
theorem State.linePoison_noted {cxl : Bool} {line : Nat} (h : s.linePoisoned cxl (line * lineBytes) = false) :
    LineNoted (s.setLinePoison cxl (line * lineBytes) true) (s.linePoison cxl line) := by
  simp only [State.linePoison, h, Bool.false_eq_true, if_false]
  split
  · exact State.event_lineNoted ..
  · exact ((State.event_lineNoted ..).trans (State.count_lineNoted ..)).trans (State.retireFrame_holds ..).1

/-- However often it is found, the line is poisoned. -/
theorem State.linePoison_poisons (s : State) (cxl : Bool) (line : Nat) : (s.linePoison cxl line).linePoisoned cxl (line * lineBytes) = true := by
  cases h : s.linePoisoned cxl (line * lineBytes) with
  | true => simp only [State.linePoison, h, if_true]
  | false => rw [(State.linePoison_noted h).linePoisoned, State.linePoisoned_setLinePoison]

/-- An HBM line poisoned is counted at its stack. -/
theorem State.linePoison_counts {line : Nat} (h : s.linePoisoned false (line * lineBytes) = false) :
    (s.linePoison false line).entry 0x5002 (hbmStack (line * lineBytes) + 1) = s.entry 0x5002 (hbmStack (line * lineBytes) + 1) + 1 := by
  simp only [State.linePoison, h, Bool.false_eq_true, if_false]
  refine ((State.retireFrame_holds ..).2 _ (dk_stack_ne_alert (.inr rfl) _)).trans ((State.dictGet_count ..).trans (congrArg (· + 1) ?_))
  exact State.event_dict _ _ _ _ _ (dk_stack_ne_alert (.inr rfl) _)

theorem State.setLinePoison_memory (s : State) (cxl : Bool) (dpa : Nat) (b : Bool) : sameMemory s (s.setLinePoison cxl dpa b) := by
  obtain ⟨p, q, e⟩ := s.setLinePoison_rest cxl dpa b
  rw [e]
  exact sameMemory_of_eq rfl rfl rfl

theorem exec_patrolScrub {l : BitVec 31} (e : Ecc) (hpowered : s.powered = true) (hstage : 7 ≤ s.boot.stage) :
    exec (.patrolScrub l e) s = .next (s.lineEcc false l.toNat e) :=
  when_of_true (by simp [hpowered, hstage]) _

/-! ## A frame retired into its spare (R258) -/

theorem State.hbmFrame_congr (h : t.hbmFrames = s.hbmFrames) (k : Nat) : t.frame false k = s.frame false k := by
  simp only [State.frame, h, Bool.false_eq_true, if_false]

theorem State.copyRetired_form (s : State) (f n : Nat) : ∃ v ps, s.copyRetired f n =
    { ((s.copyTier false (spareFrame n * frameBytes) false (f * frameBytes) frameBytes).setFrame false (spareFrame n) v).setFrame false f
        { retired := true } with spareNext := n + 1, parts := ps } := by
  unfold State.copyRetired
  dsimp only
  split <;> exact ⟨_, _, rfl⟩

/-- The spare holds the frame's bytes, the frame is retired, and the next spare is looked for after this one. -/
theorem State.copyRetired_holds (hwf : memWf s) (f n : Nat) :
    (s.copyRetired f n).frame false f = { retired := true } ∧ (s.copyRetired f n).spareNext = n + 1 ∧
    ∀ k, k < frameBytes → memByte (s.copyRetired f n).hbm (spareFrame n * frameBytes + k) = memByte s.hbm (f * frameBytes + k) := by
  obtain ⟨v, ps, e⟩ := s.copyRetired_form f n
  rw [e]
  exact ⟨(State.hbmFrame_congr rfl f).trans ((State.setFrame_frame _ false f f { retired := true }).trans (if_pos rfl)), rfl,
    fun k hk => memByte_copy _ _ _ _ _ k (State.tierMem_wf false hwf) hk⟩

theorem exec_frameRetireCopy (hretiring : (s.frame false f).retiring = true) (hspare : s.nextSpare (s.hbmFrames.length + 1) s.spareNext = some n)
    (hmove : s.inMove f = false) : exec (.frameRetireCopy f) s = .next (s.copyRetired f n) := by
  change execFrameRetireCopy f s = _
  rw [execFrameRetireCopy, hspare]
  exact when_of_true (by simp [hretiring, hmove]) _

/-! ## A freed frame zeroed (R281) -/

theorem tabGet_clear_within {α : Type} (d : α) (t : Tab α) {lo n x : Nat} (hlo : lo ≤ x) (hhi : x < lo + n) : tabGet d (tabClear t lo n) x = d := by
  rw [tabGet, tabClear, tabFind_filter fun k => !(decide (lo ≤ k) && decide (k < lo + n))]
  simp [hlo, hhi]

/-- A frame's bytes read 0, every other byte as before, and none of its lines is poisoned. -/
theorem State.zeroFrame_holds (s : State) (x : Bool) (f : Nat) :
    (∀ k, k < frameBytes → memByte ((s.zeroFrame x f).tierMem x) (f * frameBytes + k) = 0) ∧
    (∀ a, a < f * frameBytes ∨ f * frameBytes + frameBytes ≤ a → memByte ((s.zeroFrame x f).tierMem x) a = memByte (s.tierMem x) a) ∧
    ∀ k, k < 256 → (s.zeroFrame x f).linePoisoned x (f * frameBytes + 256 * k) = false := by
  have hmem : (s.zeroFrame x f).tierMem x = memZero (s.tierMem x) (f * frameBytes) frameBytes := by cases x <;> rfl
  have hpoison : (s.zeroFrame x f).tierPoison x = tabClear (s.tierPoison x) (f * 256) 256 := by cases x <;> rfl
  refine ⟨fun k hk => ?_, fun a ha => ?_, fun k hk => ?_⟩
  · rw [hmem, memByte_zero, if_pos (by omega)]
  · rw [hmem, memByte_zero, if_neg (by omega)]
  · have hline : (f * frameBytes + 256 * k) / lineBytes = f * 256 + k := by unfold frameBytes lineBytes; omega
    rw [State.linePoisoned, hpoison, hline]
    exact tabGet_clear_within _ _ (by omega) (by omega)

/-- A frame no longer to be zeroed. -/
def State.zeroed (s : State) (x : Bool) (f : Nat) : State := (s.zeroFrame x f).setFrame x f { s.frame x f with zeroing := false }

theorem exec_memoryZeroDone {x : Bool} (h : (s.frame x f).zeroing = true) : exec (.memoryZeroDone x f) s = .next (s.zeroed x f) :=
  when_of_true h _

theorem State.zeroed_mems (s : State) (x : Bool) (f : Nat) :
    (s.zeroed x f).tierMem x = (s.zeroFrame x f).tierMem x ∧ (s.zeroed x f).linePoisoned x = (s.zeroFrame x f).linePoisoned x := by
  cases x <;> exact ⟨rfl, rfl⟩

end

/-- Settles O28: errors of a line by what they leave (`LineNoted`), the copy into a spare by `memByte_copy`, zeroing by `State.zeroFrame_holds`. -/
theorem framesAndLines : Obligations.FramesAndLines := by
  unfold Obligations.FramesAndLines
  intro s hwf
  refine ⟨fun l e hpowered hstage => ⟨?clean, ?corrected, ?uncorrectable⟩, fun f n hretiring hspare hmove => ?copy, fun x f hzeroing => ?zero⟩
  case clean =>
    rintro rfl
    exact answers_of_exec (exec_patrolScrub .clean hpowered hstage) rfl
  case corrected =>
    rintro rfl
    obtain ⟨hnoted, hcount⟩ := s.lineCorrected_holds l.toNat
    exact answers_of_exec (exec_patrolScrub .corrected hpowered hstage) ⟨hcount, hnoted.memory⟩
  case uncorrectable =>
    rintro rfl hclean
    exact answers_of_exec (exec_patrolScrub .uncorrectable hpowered hstage)
      ⟨State.linePoison_poisons .., sameMemory.trans (State.setLinePoison_memory ..) (State.linePoison_noted hclean).memory,
        State.linePoison_counts hclean⟩
  case copy => exact answers_of_exec (exec_frameRetireCopy hretiring hspare hmove) (State.copyRetired_holds hwf f n)
  case zero =>
    obtain ⟨hmem, hpoison⟩ := s.zeroed_mems x f
    refine answers_of_exec (exec_memoryZeroDone hzeroing) ⟨(State.setFrame_frame ..).trans (if_pos rfl), ?_⟩
    rw [hmem, hpoison]
    exact s.zeroFrame_holds x f

end Sys2Proof.Machine

/-!
# Line requests and their replies

R246, R257, R270 to R275 and R612. A request that issues takes its slot; a reply frees it, and one whose check bits fail poisons its
line, its command and the places its data went to.
-/
namespace Sys2Proof.Machine

open Sys2Proof Sys2Proof.Safety

section
variable {s t u : State} {c : Nat}

/-! ## A request that issues (R246, R270 to R273) -/

theorem Noted.cores_memory (h : Noted s t) : t.cores = s.cores ∧ sameMemory s t := by
  obtain ⟨_, _, _, _, rfl⟩ := h
  exact ⟨rfl, sameMemory_of_eq rfl rfl rfl⟩

/-- What serves a line request leaves the commands, and changes regulators and counters. -/
theorem State.regServe_noted {i x n : Nat} {out turn spare : Bool} (h : s.regServe i x n out turn spare = some t) : Noted s t := by
  unfold State.regServe at h
  split at h
  · cases h; exact State.serveFloor_noted ..
  · split at h
    · cases h; exact State.serveSpare_noted ..
    · cases h

/-- The request picked to issue has been served at its regulator. -/
theorem State.pickIssue_served {i : Nat} {r : MemReq} {l : List (Nat × MemReq)} (h : s.pickIssue l = some (i, r, t)) :
    Noted s t ∧ t.cmds = s.cmds := by
  induction l with
  | nil => cases h
  | cons e l ih =>
    rw [State.pickIssue] at h
    split at h
    · next hserve =>
      cases h
      exact ⟨State.regServe_noted hserve, State.regServe_cmds hserve⟩
    · exact ih h

/-- The bank noted as hot is a counter and a field of its core. -/
theorem State.noteHot_holds (s : State) (c : Nat) :
    ((s.noteHot c).core c).slots = (s.core c).slots ∧ ((s.noteHot c).core c).issue = (s.core c).issue ∧
    sameMemory s (s.noteHot c) ∧ (s.noteHot c).cmds = s.cmds := by
  unfold State.noteHot
  split
  · exact ⟨rfl, rfl, sameMemory_of_eq rfl rfl rfl, rfl⟩
  · dsimp only
    rw [State.core_setCore]
    exact ⟨rfl, rfl, sameMemory_of_eq rfl rfl rfl, rfl⟩

theorem State.noteHot_of_empty (h : (s.core c).issue = []) : s.noteHot c = s := by
  simp [State.noteHot, h]

/-- A request that issues leaves its place in the queue for the last slot. -/
theorem State.issueAt_holds (s : State) (c i : Nat) (r : MemReq) :
    ((s.issueAt c i r).core c).slots = (s.core c).slots ++ [{ r with order := 1 + s.allSlots.foldl (fun n q => max n q.order) 0 }] ∧
    ((s.issueAt c i r).core c).issue = (s.core c).issue.eraseIdx i ∧ sameMemory s (s.issueAt c i r) ∧ (s.issueAt c i r).cmds = s.cmds := by
  obtain ⟨p, hp⟩ : ∃ p, s.reachLine (r.tier == .cxl) (r.line * lineBytes) = { s with power := p } := ⟨_, State.reachLine_rest ..⟩
  have hcore : ∀ (x : State) v k n, ((x.setCore c v).dictSet k n).core c = v := fun x v _ _ => State.core_setCore x c v
  unfold State.issueAt
  dsimp only
  rw [hp, hcore]
  exact ⟨rfl, rfl, sameMemory_of_eq rfl rfl rfl, rfl⟩

theorem exec_requestIssue {c : CoreNo} {i : Nat} {r : MemReq}
    (h : (s.noteHot c.val).pickIssue ((s.noteHot c.val).issuable c.val [] ((s.noteHot c.val).core c.val).issue 0) = some (i, r, t)) :
    exec (.requestIssue c) s = .next (t.issueAt c.val i r) := by
  change execRequestIssue c s = _
  simp only [execRequestIssue, h]

theorem exec_requestIssue_empty {c : CoreNo} (h : (s.core c.val).issue = []) : exec (.requestIssue c) s = .next s := by
  change execRequestIssue c s = _
  simp only [execRequestIssue, State.noteHot_of_empty h, h, State.issuable, State.pickIssue]

/-! ## What the data of a reply leaves (R257) -/

/-- A reply's data changes no partition and no slot of a core, clears no line's poison and leaves a command that has met poison. -/
structure ReplyLeaves (s t : State) : Prop where
  parts : t.parts = s.parts
  slots : ∀ k, (t.core k).slots = (s.core k).slots
  poison : ∀ x a, s.linePoisoned x a = true → t.linePoisoned x a = true
  cmd : ∀ k d, s.cmd k = some d → d.poisoned.isSome = true → t.cmd k = some d

theorem ReplyLeaves.trans (h : ReplyLeaves s t) (k : ReplyLeaves t u) : ReplyLeaves s u where
  parts := k.parts.trans h.parts
  slots := fun i => (k.slots i).trans (h.slots i)
  poison := fun x a hx => k.poison x a (h.poison x a hx)
  cmd := fun i d hd hp => k.cmd i d (h.cmd i d hd hp) hp

/-- What changes no part, core, poison of a line or command leaves all of it. -/
theorem ReplyLeaves.of_eq (hparts : t.parts = s.parts) (hcores : t.cores = s.cores) (hhbm : t.hbmPoison = s.hbmPoison)
    (hcxl : t.cxlPoison = s.cxlPoison) (hcmds : t.cmds = s.cmds) : ReplyLeaves s t where
  parts := hparts
  slots := fun k => by rw [State.core_congr hcores]
  poison := fun x a hx => by rwa [State.linePoisoned, State.tierPoison, hhbm, hcxl]
  cmd := fun k d hd _ => (State.cmd_congr hcmds k).trans hd

theorem ReplyLeaves.refl (s : State) : ReplyLeaves s s := .of_eq rfl rfl rfl rfl rfl

theorem ReplyLeaves.foldl {α : Type} {f : State → α → State} (h : ∀ x a, ReplyLeaves x (f x a)) (l : List α) (s : State) :
    ReplyLeaves s (l.foldl f s) :=
  List.foldlRecOn l f (motive := ReplyLeaves s) (.refl s) fun x hx a _ => hx.trans (h x a)

theorem ReplyLeaves.translate (h : ReplyLeaves s t) (slot va : Nat) : t.translate slot va = s.translate slot va := by
  rw [State.translate, State.part_congr h.parts, State.translate]

theorem LineNoted.replyLeaves (h : LineNoted s t) : ReplyLeaves s t := by
  obtain ⟨_, _, _, _, _, _, rfl⟩ := h
  exact .of_eq rfl rfl rfl rfl rfl

theorem State.setLinePoison_replyLeaves (s : State) (cxl : Bool) (dpa : Nat) : ReplyLeaves s (s.setLinePoison cxl dpa true) := by
  obtain ⟨p, q, e⟩ := s.setLinePoison_rest cxl dpa true
  refine ⟨by rw [e], fun k => congrArg Core.slots (State.core_congr (by rw [e]) k), fun y a h => State.linePoisoned_grows h cxl dpa,
    fun k d hd _ => ?_⟩
  rwa [State.cmd_congr (by rw [e])]

theorem State.linePoison_replyLeaves (s : State) (cxl : Bool) (line : Nat) : ReplyLeaves s (s.linePoison cxl line) := by
  cases h : s.linePoisoned cxl (line * lineBytes) with
  | true => simpa only [State.linePoison, h, if_true] using ReplyLeaves.refl s
  | false => exact (State.setLinePoison_replyLeaves ..).trans (State.linePoison_noted h).replyLeaves

theorem State.linePoison_cmds (s : State) (cxl : Bool) (line : Nat) : (s.linePoison cxl line).cmds = s.cmds := by
  cases h : s.linePoisoned cxl (line * lineBytes) with
  | true => simp only [State.linePoison, h, if_true]
  | false =>
    obtain ⟨_, _, _, _, _, _, e⟩ := State.linePoison_noted h
    rw [e]
    exact State.setLinePoison_cmds ..

/-- Poison is told to a command that has met none. -/
theorem State.latePoison_replyLeaves (s : State) (id addr : Nat) : ReplyLeaves s (s.latePoison id addr) := by
  have hset : ∀ d e : Cmd, s.cmd id = some d → d.poisoned.isSome = false → e.id = id → ReplyLeaves s (s.setCmd e) := by
    intro d e hd hclean hid
    refine ⟨rfl, fun _ => rfl, fun _ _ h => h, fun k d' hd' hp => ?_⟩
    by_cases hk : k = id
    · subst hk
      obtain rfl : d = d' := Option.some.inj (hd.symm.trans hd')
      simp [hclean] at hp
    · rwa [State.cmd_setCmd_other (by rwa [hid])]
  unfold State.latePoison
  split
  · exact .refl s
  · next d hd =>
    have hid := State.cmd_id hd
    split
    · exact .refl s
    · next hclean =>
      have hfree : d.poisoned.isSome = false := by simpa using hclean
      split
      · split
        · exact hset d _ hd hfree hid
        · exact .refl s
      · exact hset d _ hd hfree hid

/-- A running command that had met no poison has met this. -/
theorem State.latePoison_running {id : Nat} {d : Cmd} (addr : Nat) (hcmd : s.cmd id = some d) (hclean : d.poisoned = none)
    (hrun : d.phase = .running) : (s.latePoison id addr).cmd id = some { d with poisoned := some addr } := by
  obtain rfl := State.cmd_id hcmd
  unfold State.latePoison
  rw [hcmd]
  dsimp only
  rw [if_neg (by simp [hclean])]
  split
  · next hended => cases hrun.symm.trans hended
  · exact State.cmd_setCmd (c := { d with poisoned := some addr }) hcmd

theorem State.setWordPoison_replyLeaves (s : State) (c bank word : Nat) (b : Bool) : ReplyLeaves s (s.setWordPoison c bank word b) := by
  unfold State.setWordPoison
  extract_lets k s1
  have hword : ReplyLeaves s s1 := .of_eq rfl rfl rfl rfl rfl
  split
  · exact hword.trans (State.event_lineNoted ..).replyLeaves
  · exact hword

theorem State.poisonScratch_replyLeaves (s : State) (c x n : Nat) : ReplyLeaves s (s.poisonScratch c x n) :=
  ReplyLeaves.foldl (fun x _ => x.setWordPoison_replyLeaves ..) _ s

theorem State.setCore_replyLeaves {v : Core} (h : v.slots = (s.core c).slots) : ReplyLeaves s (s.setCore c v) where
  parts := rfl
  slots := fun k => by
    rw [State.setCore_core]
    split
    · rw [h, ‹k = c›]
    · rfl
  poison := fun _ _ hx => hx
  cmd := fun _ _ hd _ => hd

theorem State.poisonGather_replyLeaves (s : State) (c id pos off n : Nat) : ReplyLeaves s (s.poisonGather c id pos off n) := by
  unfold State.poisonGather
  extract_lets g w lo hi
  split
  · exact .refl s
  · split
    · exact s.poisonScratch_replyLeaves ..
    · split
      · exact State.setCore_replyLeaves rfl
      · exact s.poisonScratch_replyLeaves ..

/-- The line of a piece of a destination in device memory poisoned, if it is mapped. -/
def State.poisonPiece (s : State) (slot : Nat) (e : Nat × Nat) : State :=
  match s.translate slot e.1 with
  | some w => s.setLinePoison w.cxl w.dpa true
  | none => s

theorem State.poisonPiece_replyLeaves (s : State) (slot : Nat) (e : Nat × Nat) : ReplyLeaves s (s.poisonPiece slot e) := by
  unfold State.poisonPiece
  split
  · exact s.setLinePoison_replyLeaves ..
  · exact .refl s

theorem State.poisonDest_device (s : State) (c : Nat) (r : MemReq) (va n : Nat) :
    s.poisonDest c r (.device va n) = (lineSpans va n).foldl (fun x e => x.poisonPiece r.slot e) s := rfl

theorem State.poisonDest_replyLeaves (s : State) (c : Nat) (r : MemReq) (d : MemDest) : ReplyLeaves s (s.poisonDest c r d) := by
  cases d with
  | nowhere => exact .refl s
  | scratch off n =>
    unfold State.poisonDest
    dsimp only
    split
    · exact s.poisonScratch_replyLeaves ..
    · exact .refl s
  | device va n => exact ReplyLeaves.foldl (fun x e => x.poisonPiece_replyLeaves r.slot e) _ s
  | host p addr n => exact .of_eq rfl rfl rfl rfl rfl
  | gather id pos off n => exact (s.poisonGather_replyLeaves ..).trans (State.latePoison_replyLeaves ..)

/-- Every mapped line of a destination in device memory is poisoned. -/
theorem State.poisonDest_lines (s : State) (c : Nat) (r : MemReq) (va n : Nat) : ∀ x ∈ lineSpans va n, ∀ w,
    (s.poisonDest c r (.device va n)).translate r.slot x.1 = some w → (s.poisonDest c r (.device va n)).linePoisoned w.cxl w.dpa = true := by
  rw [State.poisonDest_device]
  refine State.foldl_each (P := fun (x : Nat × Nat) (y : State) => ∀ w, y.translate r.slot x.1 = some w → y.linePoisoned w.cxl w.dpa = true)
    (fun y x w hw => ?_) (fun y e x hx w hw => ?_) _ s
  · rw [(y.poisonPiece_replyLeaves r.slot x).translate] at hw
    simp only [State.poisonPiece, hw, State.linePoisoned_setLinePoison]
  · rw [(y.poisonPiece_replyLeaves r.slot e).translate] at hw
    exact (y.poisonPiece_replyLeaves r.slot e).poison _ _ (hx w hw)

/-- The places the data of a request went to, tagged in turn. -/
def State.poisonDests (s : State) (c : Nat) (r : MemReq) : State := r.dests.foldl (fun x d => x.poisonDest c r d) s

theorem State.poisonDests_replyLeaves (s : State) (c : Nat) (r : MemReq) : ReplyLeaves s (s.poisonDests c r) :=
  ReplyLeaves.foldl (fun x d => x.poisonDest_replyLeaves c r d) _ s

/-- Every mapped line of every destination in device memory is poisoned. -/
theorem State.poisonDests_lines (s : State) (c : Nat) (r : MemReq) {va n : Nat} (h : MemDest.device va n ∈ r.dests) : ∀ x ∈ lineSpans va n, ∀ w,
    s.translate r.slot x.1 = some w → (s.poisonDests c r).linePoisoned w.cxl w.dpa = true := by
  intro x hx w hw
  rw [← (s.poisonDests_replyLeaves c r).translate] at hw
  refine State.foldl_each (P := fun (d : MemDest) (y : State) => ∀ va n, d = MemDest.device va n → ∀ x ∈ lineSpans va n, ∀ w,
      y.translate r.slot x.1 = some w → y.linePoisoned w.cxl w.dpa = true) (fun y d => ?_) (fun y d e he va n hd x hx w hw => ?_)
    r.dests s _ h va n rfl x hx w hw
  · rintro va n rfl
    exact y.poisonDest_lines c r va n
  · rw [(y.poisonDest_replyLeaves c r d).translate] at hw
    exact (y.poisonDest_replyLeaves c r d).poison _ _ (he va n hd x hx w hw)

/-! ## Replies (R257, R273, R612) -/

@[simp] theorem State.core_count (s : State) (index sub n k : Nat) : (s.count index sub n).core k = s.core k :=
  State.core_congr (s.count_noted index sub n).cores_memory.1 k

/-- The slot of a request freed, and its bank's turn taken. -/
def State.slotFreed (s : State) (c index : Nat) (r : MemReq) : State :=
  (s.setCore c { s.core c with slots := (s.core c).slots.eraseIdx index }).bankServed r

theorem State.slotFreed_rest (s : State) (c index : Nat) (r : MemReq) :
    ∃ fb, s.slotFreed c index r = { s.setCore c { s.core c with slots := (s.core c).slots.eraseIdx index } with fabric := fb } := by
  unfold State.slotFreed State.bankServed
  split
  · exact ⟨_, rfl⟩
  · exact ⟨_, rfl⟩

theorem State.slotFreed_holds (s : State) (c index : Nat) (r : MemReq) :
    ((s.slotFreed c index r).core c).slots = (s.core c).slots.eraseIdx index ∧ (s.slotFreed c index r).cmds = s.cmds ∧
    (s.slotFreed c index r).parts = s.parts ∧ (s.slotFreed c index r).dict = s.dict ∧ sameMemory s (s.slotFreed c index r) := by
  obtain ⟨fb, e⟩ := s.slotFreed_rest c index r
  have hcore : (s.slotFreed c index r).core c = { s.core c with slots := (s.core c).slots.eraseIdx index } := by
    rw [e]
    exact State.core_setCore ..
  rw [hcore, e]
  exact ⟨rfl, rfl, rfl, rfl, sameMemory_of_eq rfl rfl rfl⟩

theorem exec_memoryReply_stale {c : CoreNo} {i : Nat} {r : MemReq} (e : Ecc) (hslot : (s.core c.val).slots[i]? = some r) (hdue : s.replyDue r = true)
    (hgen : r.gen ≠ (s.core c.val).gen) : exec (.memoryReply c i e) s = .next ((s.slotFreed c.val i r).count 0x8013 (c.val + 1) 1) := by
  change execMemoryReply c i e s = _
  simp only [execMemoryReply, hslot, hdue, hgen, Bool.not_true, Bool.false_eq_true, if_false, ne_eq, not_false_eq_true, if_true]
  rfl

theorem exec_memoryReply_current {c : CoreNo} {i : Nat} {r : MemReq} (e : Ecc) (hslot : (s.core c.val).slots[i]? = some r) (hdue : s.replyDue r = true)
    (hgen : r.gen = (s.core c.val).gen) :
    exec (.memoryReply c i e) s = .next (((s.slotFreed c.val i r).replyTo c.val r e).noteProgress (r.progressUnit c.val) 1) := by
  change execMemoryReply c i e s = _
  simp only [execMemoryReply, hslot, hdue, hgen, Bool.not_true, Bool.false_eq_true, if_false, ne_eq, not_true_eq_false]
  rfl

theorem exec_memoryReply_late {c : CoreNo} {i : Nat} (e : Ecc) (hslot : (s.core c.val).slots[i]? = none) (hlate : 0 < (s.core c.val).lateReplies) :
    exec (.memoryReply c i e) s =
      .next ((s.setCore c.val { s.core c.val with lateReplies := (s.core c.val).lateReplies - 1 }).count 0x8013 (c.val + 1) 1) := by
  change execMemoryReply c i e s = _
  simp only [execMemoryReply, hslot]
  exact when_of_true (by simpa using hlate) _

/-- A reply that brings nothing, or brings it without error, leaves the state. -/
theorem State.replyTo_quiet {r : MemReq} {e : Ecc} (h : r.write = true ∨ e = .clean) : s.replyTo c r e = s := by
  unfold State.replyTo
  split
  · rfl
  · next hread =>
    obtain rfl : e = .clean := h.resolve_left hread
    rfl

theorem State.replyTo_uncorrectable {r : MemReq} (hread : r.write = false) :
    s.replyTo c r .uncorrectable = ((s.linePoison (r.tier == .cxl) r.line).latePoison r.cmd r.va).poisonDests c r := by
  simp only [State.replyTo, hread, Bool.false_eq_true, if_false]
  rfl

/-- A read whose check bits fail poisons its line, marks its running command and tags the device lines its data went to. -/
theorem State.replyTo_poisons {r : MemReq} {d : Cmd} (hread : r.write = false) (hcmd : s.cmd r.cmd = some d) (hclean : d.poisoned = none)
    (hrun : d.phase = .running) :
    ReplyLeaves s (s.replyTo c r .uncorrectable) ∧ (s.replyTo c r .uncorrectable).linePoisoned (r.tier == .cxl) (r.line * 256) = true ∧
    (s.replyTo c r .uncorrectable).cmd r.cmd = some { d with poisoned := some r.va } ∧
    ∀ va n, MemDest.device va n ∈ r.dests → ∀ x ∈ lineSpans va n, ∀ w, s.translate r.slot x.1 = some w →
      (s.replyTo c r .uncorrectable).linePoisoned w.cxl w.dpa = true := by
  rw [State.replyTo_uncorrectable hread]
  have hline := s.linePoison_replyLeaves (r.tier == .cxl) r.line
  have htold := (s.linePoison (r.tier == .cxl) r.line).latePoison_replyLeaves r.cmd r.va
  have hdests := ((s.linePoison (r.tier == .cxl) r.line).latePoison r.cmd r.va).poisonDests_replyLeaves c r
  refine ⟨(hline.trans htold).trans hdests, (htold.trans hdests).poison _ _ (s.linePoison_poisons ..), hdests.cmd _ _ ?_ rfl,
    fun va n hmem x hx w hw => ?_⟩
  · exact State.latePoison_running r.va ((State.cmd_congr (s.linePoison_cmds ..) r.cmd).trans hcmd) hclean hrun
  · exact State.poisonDests_lines _ c r hmem x hx w (((hline.trans htold).translate ..).trans hw)

end

/-- Settles O27: issue by what serving and the slot leave, replies by the slot freed and by what tagging poison leaves (`ReplyLeaves`). -/
theorem requestsAndReplies : Obligations.RequestsAndReplies := by
  unfold Obligations.RequestsAndReplies
  intro s c
  refine ⟨fun hempty => answers_of_exec (exec_requestIssue_empty hempty) rfl, fun i r s1 hpick => ?issue,
    fun i e r hslot hdue => ?reply, fun i e hslot hlate => ?late⟩
  case issue =>
    obtain ⟨hslots, hissue, hmem, hcmds⟩ := s.noteHot_holds c.val
    obtain ⟨hnoted, hserved⟩ := State.pickIssue_served hpick
    obtain ⟨hcores, hsame⟩ := hnoted.cores_memory
    obtain ⟨hslots', hissue', hmem', hcmds'⟩ := s1.issueAt_holds c.val i r
    rw [State.core_congr hcores] at hslots' hissue'
    exact answers_of_exec (exec_requestIssue hpick) ⟨by rw [hslots', hslots], by rw [hissue', hissue],
      sameMemory.trans hmem (sameMemory.trans hsame hmem'), hcmds'.trans (hserved.trans hcmds)⟩
  case reply =>
    obtain ⟨hslots, hcmds, hparts, hdict, hmem⟩ := s.slotFreed_holds c.val i r
    refine ⟨fun hgen => ?stale, fun hgen hquiet => ?quiet, ?poisoned⟩
    case stale =>
      refine answers_of_exec (exec_memoryReply_stale e hslot hdue hgen)
        ⟨?_, (State.dictGet_count ..).trans (congrArg (· + 1) (State.dictGet_congr hdict _)), (State.count_cmds ..).trans hcmds,
          sameMemory.trans hmem (State.count_lineNoted ..).memory⟩
      rw [State.core_count, hslots]
    case quiet =>
      refine answers_of_exec (exec_memoryReply_current e hslot hdue hgen) ?_
      rw [State.replyTo_quiet hquiet]
      exact ⟨hslots, hcmds, hmem⟩
    case poisoned =>
      rintro d hgen hread rfl hcmd hclean hrun
      obtain ⟨hleaves, hline, hmarked, hdests⟩ :=
        State.replyTo_poisons (c := c.val) hread ((State.cmd_congr hcmds r.cmd).trans hcmd) hclean hrun
      refine answers_of_exec (exec_memoryReply_current .uncorrectable hslot hdue hgen)
        ⟨(hleaves.slots c.val).trans hslots, hline, hmarked, fun va n hdest x hx w hw => hdests va n hdest x hx w ?_⟩
      rwa [State.translate, State.part_congr hparts]
  case late =>
    refine answers_of_exec (exec_memoryReply_late e hslot hlate) ⟨?_, State.dictGet_count ..⟩
    rw [State.core_count, State.core_setCore]
    exact Nat.sub_add_cancel hlate

end Sys2Proof.Machine

/-!
# GATHER

R289 to R293. A descriptor read leaves every command its record and its cores, so a GATHER that starts stands at its list on its core;
a row of one index, a row out of range, and the end.
-/
namespace Sys2Proof.Machine

open Sys2Proof Sys2Proof.Safety

section
variable {s t u s1 s2 : State} {id k n fuel : Nat} {c d : Cmd} {g : GatherRun} {bs : List Byte} {row : List TByte}

/-- The command found under a number replaced by one of that number. -/
theorem State.cmd_setCmd_found (hcmd : s.cmd id = some c) (hid : d.id = c.id) : (s.setCmd d).cmd id = some d := by
  obtain rfl := State.cmd_id hcmd
  rw [← hid] at hcmd ⊢
  exact State.cmd_setCmd hcmd

/-! ## A read leaves the record and the cores of every command -/

/-- What a command is to do, and where. -/
def State.taskOf (s : State) (k : Nat) : Option (Rec × List Nat) := (s.cmd k).map fun c => (c.record, c.cores)

def SameTasks (s t : State) : Prop := t.taskOf = s.taskOf

theorem SameTasks.refl (s : State) : SameTasks s s := rfl

theorem SameTasks.trans (h : SameTasks s t) (k : SameTasks t u) : SameTasks s u := Eq.trans k h

theorem SameTasks.of_eq (h : t.cmds = s.cmds) : SameTasks s t := funext fun i => by rw [State.taskOf, State.cmd_congr h, State.taskOf]

theorem State.setCmd_sameTasks (hcmd : s.cmd d.id = some c) (hrecord : d.record = c.record) (hcores : d.cores = c.cores) :
    SameTasks s (s.setCmd d) := by
  funext i
  by_cases hi : i = d.id
  · subst hi
    simp [State.taskOf, State.cmd_setCmd hcmd, hcmd, hrecord, hcores]
  · simp only [State.taskOf, State.cmd_setCmd_other hi]

theorem State.owedFloor_cmds (s : State) (i x fuel : Nat) : (s.owedFloor i x fuel).cmds = s.cmds := by
  fun_induction State.owedFloor s i x fuel with
  | case1 => rfl
  | case2 => rfl
  | case3 => rfl
  | case4 => exact State.serveFloor_cmds ..
  | case5 s fuel o l howed n hn s1 s2 hmore ih => exact ih.trans (State.serveFloor_cmds ..)

theorem State.drawTokens_cmds (s : State) (i x n : Nat) (out floor : Bool) : (s.drawTokens i x n out floor).cmds = s.cmds := by
  unfold State.drawTokens
  split
  · rfl
  · exact State.owedFloor_cmds ..

theorem State.charge_sameTasks (s : State) (o : Option Nat) (res n : Nat) (out floor : Bool) : SameTasks s (s.charge o res n out floor) := by
  unfold State.charge
  split
  · exact .refl s
  · split
    · exact .refl s
    · next i c hcmd =>
      obtain rfl := State.cmd_id hcmd
      have hused : ∀ l, SameTasks s (s.setCmd { c with used := l }) := fun l => State.setCmd_sameTasks (d := { c with used := l }) hcmd rfl rfl
      dsimp only
      split
      · exact hused _
      · exact (hused _).trans (.of_eq (State.drawTokens_cmds ..))

theorem State.chargeRead_sameTasks (s : State) (o : Option Nat) (slot : Nat) (l : List (Nat × Nat)) : SameTasks s (s.chargeRead o slot l) := by
  fun_induction State.chargeRead s o slot l with
  | case1 s => exact .refl s
  | case2 s => exact .refl s
  | case3 s a n l w hw ih => exact (SameTasks.trans (.of_eq (State.reachLine_cmds ..)) (State.charge_sameTasks ..)).trans ih

theorem State.drawSpans_cmds (s : State) (slot : Nat) (write : Bool) (l : List (Nat × Nat)) : (s.drawSpans slot write l).cmds = s.cmds := by
  fun_induction State.drawSpans s slot write l with
  | case1 => rfl
  | case2 => rfl
  | case3 s a n l w hw ih => exact ih.trans (State.drawTokens_cmds ..)

theorem State.notePoison_sameTasks (s : State) (id addr : Nat) : SameTasks s (s.notePoison id addr) := by
  unfold State.notePoison
  split
  · exact .refl s
  · next c hcmd =>
    obtain rfl := State.cmd_id hcmd
    split
    · exact State.setCmd_sameTasks (d := { c with poisoned := some addr }) hcmd rfl rfl
    · exact .refl s

theorem State.tlbTouch_cmds (s : State) (c slot va : Nat) : (s.tlbTouch c slot va).cmds = s.cmds := by
  unfold State.tlbTouch
  split
  · rfl
  · extract_lets page e rest r
    have hdrawn : r.2.cmds = s.cmds := by
      dsimp only [r]
      split <;> rfl
    split
    · rfl
    · exact (State.count_cmds ..).trans hdrawn

theorem State.descTouch_cmds (s : State) (id slot va n : Nat) : (s.descTouch id slot va n).cmds = s.cmds := by
  unfold State.descTouch
  split
  · exact State.cmds_foldl fun x _ => x.tlbTouch_cmds ..
  · rfl

theorem State.cmdRead_sameTasks {slot va : Nat} (h : s.cmdRead id slot va n = (t, some bs)) : SameTasks s t := by
  unfold State.cmdRead at h
  split at h
  · cases h
  · next r _ =>
    extract_lets s0 s1 at h
    have hmetered : SameTasks s s1 := by
      refine SameTasks.trans (t := s0) (State.chargeRead_sameTasks ..) ?_
      dsimp only [s1]
      split
      · exact .of_eq (State.drawSpans_cmds ..)
      · exact .refl s0
    obtain ⟨rfl, -⟩ := Prod.mk.inj h
    split
    · exact hmetered.trans (State.notePoison_sameTasks ..)
    · exact hmetered

/-- A descriptor read whole leaves the record and the cores of every command. -/
theorem State.descRead_sameTasks {slot va : Nat} (h : s.descRead id slot va n = (t, some bs)) : SameTasks s t := by
  unfold State.descRead at h
  split at h
  · cases h
  · next hread =>
    split at h
    · cases h
    · obtain ⟨rfl, -⟩ := Prod.mk.inj h
      exact SameTasks.trans (.of_eq (State.descTouch_cmds ..)) (State.cmdRead_sameTasks hread)

/-- The command found after a descriptor of one just begun has been read is on the same cores. -/
theorem ready_descRead_cores {slot va : Nat} (h : ready s id 0x12 c) (hread : (s.beginCmd c).descRead id slot va n = (s1, some bs))
    (hcmd : s1.cmd id = some d) : d.cores = c.cores := by
  have htask := congrFun (State.descRead_sameTasks hread) id
  simp only [State.taskOf, hcmd, ready_begun h, Option.map_some] at htask
  exact (Prod.mk.inj (Option.some.inj htask)).2

/-! ## What a row of a GATHER does -/

/-- A GATHER that runs takes its indices. -/
def State.gatherOn (s : State) (id count : Nat) : State :=
  match s.runningOp id 0x12 with
  | none => s
  | some c => s.gatherMove id (c.cores.headD 0) (count + 2) count

theorem exec_gather_starts (h : ready s id 0x12 c) (hroom : s.gatherRoom id = true) (count : Nat) :
    exec (.gather id count) s = .next (((s.beginCmd c).gatherStart c).gatherOn id count) := by
  change execGather id count s = _
  simp only [execGather, hroom, Bool.not_true, Bool.false_eq_true, if_false, State.startOp_ready h, State.gatherOn]
  cases ((s.beginCmd c).gatherStart c).runningOp id 0x12 <;> rfl

theorem exec_gather_runs (h : s.runningOp id 0x12 = some c) (count : Nat) :
    exec (.gather id count) s = .next (s.gatherMove id (c.cores.headD 0) (count + 2) count) := by
  obtain ⟨hcmd, -, hphase⟩ := State.runningOp_eq_some h
  have hstart : ∀ f, s.startOp id 0x12 f = s := State.startOp_started hcmd (by simp [hphase]) 0x12
  change execGather id count s = _
  simp only [execGather, hstart, ite_self, h]

/-- A GATHER with no index left ends. -/
theorem State.gatherMove_over (hrun : s.runningOp id 0x12 = some c) (hg : (s.core k).gather.cmd = some id)
    (hover : (s.core k).gather.count ≤ (s.core k).gather.done) : s.gatherMove id k (fuel + 1) n = s.finishCmd id 0 := by
  simp only [State.gatherMove, hrun, hg, hover, ne_eq, not_true_eq_false, if_false, if_true]

/-- A GATHER with indices left waits for the next row. -/
theorem State.gatherMove_waits (hmore : (s.core k).gather.done < (s.core k).gather.count) : s.gatherMove id k (fuel + 1) 0 = s := by
  rw [State.gatherMove]
  split
  · rfl
  · simp only [Nat.not_le.mpr hmore, if_false, true_or, if_true, ite_self]

/-- An index whose row there is room for is gathered, and the row goes on. -/
theorem State.gatherMove_index (hrun : s.runningOp id 0x12 = some c) (hg : (s.core k).gather = g) (hcmd : g.cmd = some id)
    (hmore : g.done < g.count) (hroom : s.issueRoom k (g.rowBytes / 256 + 4) = true) (hthreads : s.gatherThreads k < 64) :
    s.gatherMove id k (fuel + 1) (n + 1) = (s.gatherOne k c g).gatherMove id k fuel n := by
  simp [State.gatherMove, hrun, hg, hcmd, Nat.not_le.mpr hmore, hroom, Nat.not_le.mpr hthreads]

/-! ## The start (R289) -/

theorem gatherBad_count (h : gatherBad bs = false) : 0 < (gatherOf bs).count := by
  simp only [gatherBad, Bool.or_eq_false_iff, beq_eq_false_iff_ne] at h
  omega

/-- The proboscis of a core at the start of a list. -/
def State.gatherSet (s : State) (c d : Cmd) (bs : List Byte) : State :=
  (s.setCore (c.cores.headD 0) { s.core (c.cores.headD 0) with gather := { gatherOf bs with cmd := some c.id } }).setCmd
    { d with whole := (gatherOf bs).count }

theorem State.gatherStart_ok (hread : s.descRead c.id c.slot c.payload 64 = (s1, some bs)) (hgood : gatherBad bs = false)
    (hcmd : s1.cmd c.id = some d) : s.gatherStart c = s1.gatherSet c d bs := by
  have hset : ∀ (j : Nat) (v : Core), (s1.setCore j v).cmd c.id = some d := fun _ _ => hcmd
  simp only [State.gatherStart, hread, hgood, hset, Bool.false_eq_true, if_false]
  rfl

/-- A GATHER set at its list runs, and takes no index in the row that starts it. -/
theorem State.gatherSet_holds (hgood : gatherBad bs = false) (hcmd : s.cmd c.id = some d) (hrun : d.phase = .running) (hcores : d.cores = c.cores) :
    running ((s.gatherSet c d bs).gatherOn c.id 0) c.id ∧
    (((s.gatherSet c d bs).gatherOn c.id 0).core (c.cores.headD 0)).gather = { gatherOf bs with cmd := some c.id } := by
  have hset : (s.gatherSet c d bs).cmd c.id = some { d with whole := (gatherOf bs).count } := State.cmd_setCmd_found hcmd rfl
  have hgather : ((s.gatherSet c d bs).core (c.cores.headD 0)).gather = { gatherOf bs with cmd := some c.id } :=
    congrArg Core.gather (State.core_setCore ..)
  have hstays : (s.gatherSet c d bs).gatherOn c.id 0 = s.gatherSet c d bs := by
    unfold State.gatherOn
    split
    · rfl
    · next e he =>
      obtain rfl := Option.some.inj (hset.symm.trans (State.runningOp_eq_some he).1)
      refine State.gatherMove_waits ?_
      rw [hcores, hgather]
      exact gatherBad_count hgood
  rw [hstays]
  exact ⟨⟨_, hset, hrun⟩, hgather⟩

/-! ## A row (R290, R291) -/

/-- An index counted: by the proboscis with the sum and the flags it goes on with, and by its command. -/
def State.indexDone (s : State) (k : Nat) (d : Cmd) (x : Nat) (acc : List Elem) (fl : Flags) : State :=
  (s.setCore k { s.core k with gather := { (s.core k).gather with done := x, acc := acc, flags := fl } }).setCmd { d with done := x, work := x }

/-- A row gathered whose place is written moves the proboscis to the next index. -/
theorem State.gatherOne_writes {r : List Elem} (hrow : s.gatherRow k c g g.done = (s1, some row))
    (hr : (g.sum = false ∧ r = elems32 row) ∨
      (g.sum = true ∧ (g.done + 1) % g.bag = 0 ∧ r = if g.done % g.bag = 0 then g.elems row else (addElems g.acc (g.elems row)).1))
    (hwrite : s1.cmdScratchWrite c.id c.slot k (s.core k).groups (g.dest + (if g.sum then g.done / g.bag else g.done) * g.destStride)
      (r.flatMap Elem.bytes) = (s2, true)) (hcmd : s2.cmd c.id = some d) :
    ∃ acc fl, s.gatherOne k c g = s2.indexDone k d (g.done + 1) acc fl := by
  have hset : ∀ v, (s2.setCore k v).cmd c.id = some d := fun _ => hcmd
  rcases hr with ⟨hsum, rfl⟩ | ⟨hsum, hlast, rfl⟩
  · simp only [hsum, Bool.false_eq_true, if_false] at hwrite
    simp only [State.gatherOne, hrow, hsum, Bool.not_false, Bool.true_or, Bool.false_eq_true, if_false, if_true, hwrite, hset, Bool.not_true]
    exact ⟨_, _, rfl⟩
  · simp only [hsum, if_true] at hwrite
    simp only [State.gatherOne, hrow, hsum, hlast, apply_ite Prod.fst, Bool.not_true, Bool.false_or, decide_true, Bool.false_eq_true, if_false, if_true,
      hwrite, hset]
    exact ⟨_, _, rfl⟩

/-- A command that ends keeps all but its phase and the time it ran. -/
theorem State.endCmd_keeps (st x : Nat) (hcmd : s.cmd id = some c) : ∃ p v, (s.endCmd id st x).cmd id = some { c with phase := p, ranUs := v } := by
  by_cases h : ∃ a b, c.phase = .ended a b
  · obtain ⟨a, b, h⟩ := h
    have hended : s.endCmd id st x = s := by simp only [State.endCmd, hcmd, h]
    rw [hended]
    exact ⟨c.phase, c.ranUs, hcmd⟩
  · exact ⟨_, _, State.endCmd_cmd st x hcmd fun a b e => h ⟨a, b, e⟩⟩

theorem State.finishCmd_keeps (x : Nat) (hcmd : s.cmd id = some c) : ∃ p v, (s.finishCmd id x).cmd id = some { c with phase := p, ranUs := v } := by
  unfold State.finishCmd
  rw [hcmd]
  dsimp only
  split <;> exact State.endCmd_keeps _ _ hcmd

/-- What follows the last index of a row is at most the command's end. -/
theorem State.gatherMove_rest (hcmd : s.cmd id = some c) :
    onlyCmds s (s.gatherMove id k (fuel + 1) 0) ∧ ∃ p v, (s.gatherMove id k (fuel + 1) 0).cmd id = some { c with phase := p, ranUs := v } := by
  have hends : s.gatherMove id k (fuel + 1) 0 = s ∨ s.gatherMove id k (fuel + 1) 0 = s.finishCmd id 0 := by
    rw [State.gatherMove]
    split
    · exact .inl rfl
    · dsimp only
      split
      · exact .inl rfl
      · split
        · exact .inr rfl
        · exact .inl (if_pos (.inl rfl))
  rcases hends with e | e
  · rw [e]
    exact ⟨rfl, c.phase, c.ranUs, hcmd⟩
  · rw [e]
    exact ⟨State.finishCmd_rest .., State.finishCmd_keeps 0 hcmd⟩

/-- What a row of one index leaves: scratch as the row was written, and the index counted. -/
theorem State.indexDone_holds (hcmd : s.cmd id = some d) (x : Nat) (acc : List Elem) (fl : Flags) :
    ((s.indexDone k d x acc fl).gatherMove id k (fuel + 1) 0).scratch = s.scratch ∧
    (((s.indexDone k d x acc fl).gatherMove id k (fuel + 1) 0).core k).gather.done = x ∧
    ∃ e, ((s.indexDone k d x acc fl).gatherMove id k (fuel + 1) 0).cmd id = some e ∧ e.work = x := by
  have hfound : (s.indexDone k d x acc fl).cmd id = some { d with done := x, work := x } := State.cmd_setCmd_found hcmd rfl
  have hdone : ((s.indexDone k d x acc fl).core k).gather.done = x := congrArg (fun v : Core => v.gather.done) (State.core_setCore ..)
  obtain ⟨honly, p, v, hlast⟩ := State.gatherMove_rest (k := k) (fuel := fuel) hfound
  refine ⟨by rw [honly]; rfl, ?_, _, hlast, rfl⟩
  rwa [State.core_congr (t := (s.indexDone k d x acc fl).gatherMove id k (fuel + 1) 0) (by rw [honly])]

/-! ## A row out of range (R293) -/

/-- An index at the limit or past it gathers zeros, and the first such position is kept for the end. -/
theorem State.gatherRow_outside {i : Nat} {ib : List TByte} (hread : (s.indexLine k c g i).cmdTagged c.id c.slot
      (g.index + (if g.wideIndex then 8 else 4) * i) (if g.wideIndex then 8 else 4) = (s1, some ib))
    (hlimit : g.rowLimit ≤ natOfBytes (ib.map (·.1))) (hcmd : s1.cmd c.id = some d) (hlate : d.late = none) :
    s.gatherRow k c g i = (s1.setCmd { d with late := some (0x030A, i) }, some (List.replicate g.rowBytes (0, ib.any (·.2)))) := by
  simp only [State.gatherRow, hread, if_pos hlimit, hcmd, hlate, Option.isNone_none, if_true]

end

/-- Settles O18: the start by `State.gatherSet_holds`, a row by `State.gatherOne_writes` and what may follow it, a row out of range, and the end. -/
theorem gatherRows : Obligations.GatherRows := by
  unfold Obligations.GatherRows
  refine fun s id c hclean => ⟨fun s1 bs hready hroom hread hgood hruns => ?start,
    fun g s1 s2 bs r d hrun hg hcmd hmore hissue hthreads hrow hr hwrite hd => ?row,
    fun s1 ib i d g hread hlimit hd hlate hid => ?outside, fun g hrun hg hcmd hover => ?last⟩
  case start =>
    obtain ⟨d, hd, hphase⟩ := hruns
    obtain rfl := ready_id hready
    refine answers_of_exec (exec_gather_starts hready hroom 0) ?_
    rw [State.gatherStart_ok hread hgood hd]
    exact State.gatherSet_holds hgood hd hphase (ready_descRead_cores hready hread hd)
  case row =>
    obtain rfl := State.cmd_id (State.runningOp_eq_some hrun).1
    obtain ⟨acc, fl, hone⟩ := State.gatherOne_writes hrow hr hwrite hd
    refine answers_of_exec (exec_gather_runs hrun 1) ?_
    rw [State.gatherMove_index hrun hg.symm hcmd hmore hissue hthreads, hone]
    exact State.indexDone_holds hd (g.done + 1) acc fl
  case outside =>
    subst hid
    refine ⟨_, _, State.gatherRow_outside hread hlimit hd hlate, by simp, { d with late := some (0x030A, i) }, ?_, rfl⟩
    exact State.cmd_setCmd_found hd rfl
  case last =>
    subst hg
    obtain ⟨hfound, -, hphase⟩ := State.runningOp_eq_some hrun
    refine answers_of_exec (exec_gather_runs hrun 0) ?_
    rw [State.gatherMove_over hrun hcmd hover]
    exact ⟨State.finishCmd_ends hfound hclean hphase, State.finishCmd_rest ..⟩

end Sys2Proof.Machine

/-!
# Bank engines: the micro-op a bank issues

What a row of a micro-op finds, what putting its engine back leaves, and the registers of an engine (R313 to R316).
-/
namespace Sys2Proof.Machine

open Sys2Proof Sys2Proof.Safety

section
variable {s t v : State} {u : Uop} {e : BankEngine} {fl : Flags} {c b op id : Nat} {d : Cmd}

/-! ## The row of a micro-op -/

/-- A micro-op about to issue is of its row's bank and opcode, stands at its stripe's engine, and its command runs. -/
theorem State.uopAt_eq_some (h : s.uopAt c b op = some u) :
    u.core = c ∧ u.bank = b ∧ uopOp u.w = op ∧ (s.core c).bank.current b = some (u.index, u.stripe, u.eng) ∧
      ∃ d, s.cmd u.id = some d ∧ d.phase = .running := by
  unfold State.uopAt at h
  extract_lets r at h
  split at h
  · cases h
  · next d hfound =>
    split at h
    · cases h
    · next hphase =>
      split at h
      · cases h
      · next i t e hcurrent =>
        split at h
        · cases h
        · next w hw =>
          split at h
          · next hop =>
            obtain rfl := Option.some.inj h
            obtain ⟨k, -, hcmd⟩ := Option.bind_eq_some_iff.mp hfound
            exact ⟨rfl, rfl, hop.1, hcurrent, d, (State.cmd_id hcmd).symm ▸ hcmd, not_not.mp hphase⟩
          · cases h

/-- A row of a micro-op that the bank issues does what the micro-op does. -/
theorem answers_of_issue {i : Instr} {f : Uop → State} {P : State → Prop} (h : s.uopAt c b op = some u)
    (hexec : exec i s = s.issueUop c b op f) (hP : P (f u)) : answers i s P := by
  refine answers_of_exec (hexec.trans ?_) hP
  rw [State.issueUop, h]

/-! ## An engine put back -/

/-- t differs from s at most in the cores and the supervisor's notes. -/
def OnlyEngines (s t : State) : Prop := t = { s with cores := t.cores, sup := t.sup }

theorem OnlyEngines.refl (s : State) : OnlyEngines s s := rfl

theorem OnlyEngines.trans (h : OnlyEngines s t) (k : OnlyEngines t v) : OnlyEngines s v := by
  rw [OnlyEngines, k, h]

theorem OnlyEngines.memory (h : OnlyEngines s t) : sameMemory s t := by
  rw [h]
  exact sameMemory_of_eq rfl rfl rfl

theorem OnlyEngines.cmds (h : OnlyEngines s t) : t.cmds = s.cmds := by rw [h]

theorem State.putEngine_onlyEngines (s : State) (u : Uop) (e : BankEngine) (fl : Flags) : OnlyEngines s (s.putEngine u e fl) := rfl

/-- The bank run of a core once an engine of it has been put back. -/
theorem State.putEngine_bank (s : State) (u : Uop) (e : BankEngine) (fl : Flags) :
    ((s.putEngine u e fl).core u.core).bank = { (s.core u.core).bank with
      engines := tabPut (s.core u.core).bank.engines (u.index * 5120 + u.bank) e, flags := (s.core u.core).bank.flags ||| fl } :=
  congrArg Core.bank (State.core_setCore ..)

@[simp] theorem State.putEngine_engine (s : State) (u : Uop) (e : BankEngine) (fl : Flags) :
    tabFind ((s.putEngine u e fl).core u.core).bank.engines (u.index * 5120 + u.bank) = some e := by
  rw [State.putEngine_bank]
  exact tabFind_put_same ..

@[simp] theorem State.putEngine_flags (s : State) (u : Uop) (e : BankEngine) (fl : Flags) :
    ((s.putEngine u e fl).core u.core).bank.flags = (s.core u.core).bank.flags ||| fl := by
  rw [State.putEngine_bank]

/-! ## Registers -/

@[simp] theorem BankEngine.reg_advance (e : BankEngine) (n r : Nat) : (e.advance n).reg r = e.reg r := rfl

@[simp] theorem BankEngine.reg_setReg_same (e : BankEngine) (r : Nat) (v : BitVec 128) (p : Bool) : (e.setReg r v p).reg r = (v, p) := by
  simp [BankEngine.reg, BankEngine.setReg]

theorem BankEngine.reg_setReg_other (e : BankEngine) {r k : Nat} (v : BitVec 128) (p : Bool) (h : k ≠ r) : (e.setReg r v p).reg k = e.reg k := by
  simp only [BankEngine.reg, BankEngine.setReg, tabGet_set_other _ _ _ h]

end

end Sys2Proof.Machine

/-!
# The arithmetic micro-ops of a bank engine

R315, R320, R404 to R413. Every one of them puts its lanes in rd and moves the engine one micro-op on (`State.putEngine_done`); those that
may round stochastically draw once for their four lanes.
-/
namespace Sys2Proof.Machine

open Sys2Proof Sys2Proof.Safety

section
variable {s t : State}

/-- The engine put back with rd written, by a micro-op that made n draws and changed nothing else. -/
theorem State.putEngine_done (u : Uop) (n : Nat) (v : BitVec 128) (p : Bool) (fl : Flags) (hcores : t.cores = s.cores)
    (hmem : sameMemory s t) (hcmds : t.cmds = s.cmds) :
    uopDone s (t.putEngine u ((({ u.eng with draws := u.eng.draws + n } : BankEngine).setReg (uopRd u.w) v p).advance 1) fl) u v p fl n := by
  have hput := t.putEngine_onlyEngines u ((({ u.eng with draws := u.eng.draws + n } : BankEngine).setReg (uopRd u.w) v p).advance 1) fl
  refine ⟨⟨_, State.putEngine_engine .., BankEngine.reg_setReg_same .., fun r hr => BankEngine.reg_setReg_other _ v p hr, rfl, rfl, rfl, rfl,
    rfl, rfl⟩, ?_, sameMemory.trans hmem hput.memory, hput.cmds.trans hcmds⟩
  rw [State.putEngine_flags, State.core_congr hcores]

/-- A micro-op that draws nothing. -/
theorem State.putEngine_done_undrawn (s : State) (u : Uop) (v : BitVec 128) (p : Bool) (fl : Flags) :
    uopDone s (s.putEngine u ((u.eng.setReg (uopRd u.w) v p).advance 1) fl) u v p fl 0 :=
  State.putEngine_done u 0 v p fl rfl (sameMemory_of_eq rfl rfl rfl) rfl

theorem State.lane1_done (s : State) (u : Uop) (f : W32 → FRes) : let x := u.eng.reg (uopRa u.w)
    let r := gather32 ((lanesOf x.1).map f) x.2
    uopDone s (s.lane1 u f) u r.1 x.2 r.2 0 :=
  State.putEngine_done_undrawn ..

theorem State.lane2_done (s : State) (u : Uop) (f : W32 → W32 → FRes) : let x := u.eng.reg (uopRa u.w)
    let y := u.eng.reg (uopRb u.w)
    let r := gather32 (List.zipWith f (lanesOf x.1) (lanesOf y.1)) (x.2 || y.2)
    uopDone s (s.lane2 u f) u r.1 (x.2 || y.2) r.2 0 :=
  State.putEngine_done_undrawn ..

/-! ## Stochastic rounding (R320, R413) -/

/-- The micro-op rounds stochastically. -/
def State.sraOn (s : State) (u : Uop) : Bool := uopSra u.w && (s.core u.core).bank.stochastic

/-- The random value of a lane: its part of the micro-op's one draw, or none where it rounds to nearest. -/
def State.sraRandom (s : State) (u : Uop) (i : Nat) : Option Nat :=
  if s.sraOn u then some (drawLane (draw (s.core u.core).bank.srStep (bankEngineId u.core u.bank) (s.core u.core).bank.accIndex u.eng.draws) i)
  else none

theorem State.sraDraw_eq (s : State) (u : Uop) :
    s.sraDraw u = ((List.range 4).map (s.sraRandom u), { u.eng with draws := u.eng.draws + if s.sraOn u then 1 else 0 },
      if s.sraOn u then s.count 0x5057 (u.core + 1) 1 else s) := by
  unfold State.sraDraw State.sraRandom State.sraOn
  dsimp only
  cases uopSra u.w && (s.core u.core).bank.stochastic <;> rfl

theorem State.laneSra_done (s : State) (u : Uop) (f : Option Nat → Nat → FRes) (p : Bool) :
    uopDone s (s.laneSra u f p) u (gather32 ((List.range 4).map fun i => written (f (s.sraRandom u i) i)) p).1 p
      (gather32 ((List.range 4).map fun i => written (f (s.sraRandom u i) i)) p).2 (if s.sraOn u then 1 else 0) := by
  have hlanes : (((List.range 4).map (s.sraRandom u)).zipIdx.map fun e => written (f e.1 e.2)) =
      (List.range 4).map fun i => written (f (s.sraRandom u i) i) := rfl
  unfold State.laneSra State.putLanes
  rw [State.sraDraw_eq]
  dsimp only
  rw [hlanes]
  cases s.sraOn u
  · exact State.putEngine_done u 0 _ p _ rfl (sameMemory_of_eq rfl rfl rfl) rfl
  · obtain ⟨hcores, hmem⟩ := (s.count_noted 0x5057 (u.core + 1) 1).cores_memory
    exact State.putEngine_done u 1 _ p _ hcores hmem (s.count_cmds 0x5057 (u.core + 1) 1)

/-! ## Lanes -/

theorem hfma_lanes (x y z : BitVec 128) :
    ((List.zip (lanes16Of x) (List.zip (lanes16Of y) (lanes16Of z))).map fun e => hfma e.1 e.2.1 e.2.2).map (·.1) =
      (List.range 8).map fun i => (hfma (x.extractLsb' (16 * i) 16) (y.extractLsb' (16 * i) 16) (z.extractLsb' (16 * i) 16)).1 := by
  simp only [lanes16Of, List.zip_map', List.map_map, Function.comp_def]

end

/-- Settles O31: each micro-op is lanes put in rd, by `State.putEngine_done`. -/
theorem bankArithmetic : Obligations.BankArithmetic := by
  unfold Obligations.BankArithmetic
  rintro s c b u x y z _ _ _ rfl rfl rfl rfl rfl rfl
  refine ⟨fun h => answers_of_issue h rfl ?movk, fun h => answers_of_issue h rfl ?fadd, fun h => answers_of_issue h rfl ?fsub,
    fun h => answers_of_issue h rfl ?fmul, fun h => answers_of_issue h rfl ?fma, fun h => answers_of_issue h rfl ?fmak,
    fun h => answers_of_issue h rfl ?fmax, fun h => answers_of_issue h rfl ?fmin, fun h => answers_of_issue h rfl ?fabs,
    fun h => answers_of_issue h rfl ?fsqrt, fun h => answers_of_issue h rfl ?frcp, fun h => answers_of_issue h rfl ?frsq,
    fun h => answers_of_issue h rfl ?hfma, fun h => answers_of_issue h rfl ?lsum⟩
  case movk => exact State.putEngine_done_undrawn ..
  case fadd | fsub | fma | fmak => exact ⟨_, rfl, State.laneSra_done ..⟩
  case fmul | fmax | fmin => exact ⟨_, rfl, State.lane2_done ..⟩
  case fabs | fsqrt | frcp | frsq => exact ⟨_, rfl, State.lane1_done ..⟩
  case hfma =>
    rw [← hfma_lanes]
    exact ⟨_, State.putEngine_done_undrawn ..⟩
  case lsum => exact ⟨_, State.putEngine_done_undrawn ..⟩

end Sys2Proof.Machine

/-!
# The port of a bank engine

R298, R307, R315, R318, R321. A load reads the word at the address register as its check bits leave it; a store writes that word alone.
-/
namespace Sys2Proof.Machine

open Sys2Proof Sys2Proof.Safety

section
variable {s t v : State} {u : Uop}

/-! ## What check bits and poison of scratch leave -/

/-- t differs from s at most in what tells the hosts, counters, poison of scratch and the supervisor's notes. -/
def ScratchNoted (s t : State) : Prop :=
  ∃ o fs h d p sup, t = { s with out := o, fns := fs, hostMem := h, dict := d, scratchPoison := p, sup := sup }

theorem ScratchNoted.refl (s : State) : ScratchNoted s s := ⟨_, _, _, _, _, _, rfl⟩

theorem ScratchNoted.trans (h : ScratchNoted s t) (k : ScratchNoted t v) : ScratchNoted s v := by
  obtain ⟨_, _, _, _, _, _, rfl⟩ := h
  obtain ⟨_, _, _, _, _, _, rfl⟩ := k
  exact ⟨_, _, _, _, _, _, rfl⟩

theorem ScratchNoted.rest (h : ScratchNoted s t) : t.cores = s.cores ∧ t.cmds = s.cmds ∧ t.scratch = s.scratch ∧ sameMemory s t := by
  obtain ⟨_, _, _, _, _, _, rfl⟩ := h
  exact ⟨rfl, rfl, rfl, sameMemory_of_eq rfl rfl rfl⟩

theorem State.setWordPoison_noted (s : State) (c bank word : Nat) (b : Bool) : ScratchNoted s (s.setWordPoison c bank word b) := by
  unfold State.setWordPoison
  extract_lets k s1
  split
  · obtain ⟨o, fs, h, d, e⟩ := s1.event_rest 0x0305 (c + 2 ^ 4 * bank + 2 ^ 17 * word) (s1.coreFns c)
    rw [e]
    exact ⟨o, fs, h, d, _, s.sup, rfl⟩
  · exact ⟨s.out, s.fns, s.hostMem, s.dict, _, s.sup, rfl⟩

theorem State.countFault_noted (s : State) (index sub n unit cls : Nat) : ScratchNoted s ((s.count index sub n).noteFault unit cls) := by
  obtain ⟨d, e⟩ := s.count_rest index sub n
  rw [State.noteFault_rest, e]
  exact ⟨_, _, _, _, _, _, rfl⟩

/-- What the check bits of a read show leaves every command, core and byte. -/
theorem State.scratchEcc_noted (s : State) (c bank word : Nat) (ecc : Ecc) : ScratchNoted s (s.scratchEcc c bank word ecc) := by
  cases ecc with
  | clean => exact .refl s
  | corrected => exact s.countFault_noted ..
  | uncorrectable => exact (s.countFault_noted ..).trans (State.setWordPoison_noted ..)

theorem State.notePoison_onlyCmds (s : State) (id addr : Nat) : onlyCmds s (s.notePoison id addr) := by
  unfold State.notePoison
  split
  · rfl
  · split <;> rfl

/-! ## Loads -/

theorem portDone_putEngine (s : State) (u : Uop) (e : BankEngine) (fl : Flags) : portDone (s.putEngine u (u.past e) fl) u e :=
  State.putEngine_engine ..

/-- A load within the window goes on with the word read and its poison, with every core and byte as before. -/
theorem State.uopLoad_inWindow (h : u.inWindow = true) (ecc : Ecc) (f : State → BitVec 128 → Bool → State) {bs : List TByte}
    (hbs : bs = (s.scratchEcc u.core u.bank (u.addr / 16) ecc).bankRead u.core u.bank u.addr 16) :
    ∃ t, t.cores = s.cores ∧ sameMemory s t ∧ s.uopLoad u ecc f = f t (wordOf (bs.map (·.1))) (bs.any (·.2)) := by
  subst hbs
  obtain ⟨hcores, -, -, hmem⟩ := (s.scratchEcc_noted u.core u.bank (u.addr / 16) ecc).rest
  simp only [State.uopLoad, h, Bool.not_true, Bool.false_eq_true, if_false]
  split
  · have hnote := (s.scratchEcc u.core u.bank (u.addr / 16) ecc).notePoison_onlyCmds u.id (scratchOffset u.bank u.addr + 2 ^ 63)
    refine ⟨_, ?_, sameMemory.trans hmem ?_, rfl⟩
    · rw [hnote]
      exact hcores
    · rw [hnote]
      exact sameMemory_of_eq rfl rfl rfl
  · exact ⟨_, hcores, hmem, rfl⟩

/-- A load within the window whose engine takes the word changes no byte, and raises the flags of what it takes. -/
theorem State.uopLoad_puts (h : u.inWindow = true) (ecc : Ecc) (g : BitVec 128 → Bool → BankEngine) {fl : BitVec 128 → Bool → Flags}
    {bs : List TByte} (hbs : bs = (s.scratchEcc u.core u.bank (u.addr / 16) ecc).bankRead u.core u.bank u.addr 16) :
    let t := s.uopLoad u ecc fun s1 v p => s1.putEngine u (u.past (g v p)) (fl v p)
    (portDone t u (g (wordOf (bs.map (·.1))) (bs.any (·.2))) ∧ sameMemory s t) ∧
      (t.core u.core).bank.flags = (s.core u.core).bank.flags ||| fl (wordOf (bs.map (·.1))) (bs.any (·.2)) := by
  obtain ⟨t, hcores, hmem, hload⟩ := State.uopLoad_inWindow h ecc (fun s1 v p => s1.putEngine u (u.past (g v p)) (fl v p)) hbs
  rw [hload]
  refine ⟨⟨portDone_putEngine .., sameMemory.trans hmem (t.putEngine_onlyEngines ..).memory⟩, ?_⟩
  rw [State.putEngine_flags, State.core_congr hcores]

/-- The engine of an LDW that has read a word: its eight BF16 lanes widened into rd and rd + 1. -/
def Uop.widened (u : Uop) (v : BitVec 128) (p : Bool) : BankEngine :=
  (u.eng.setReg (uopRd u.w) (ofLanes (((lanes16Of v).map widenBf16).take 4)) p).setReg
    (uopRd u.w + 1) (ofLanes (((lanes16Of v).map widenBf16).drop 4)) p

/-! ## Stores -/

/-- A word written within a bank. -/
theorem State.bankWriteWord_holds (s : State) (c bank pos : Nat) (bs : List TByte) :
    (s.bankWriteWord c bank pos bs).cores = s.cores ∧
      (s.bankWriteWord c bank pos bs).scratch = memWrite s.scratch (scratchKey c bank pos) (bs.map (·.1)) := by
  obtain ⟨hcores, -, hscratch, -⟩ := (State.setWordPoison_noted
    { s with scratch := memWrite s.scratch (scratchKey c bank pos) (bs.map (·.1)) } c bank (pos / 16) (bs.any (·.2))).rest
  exact ⟨hcores, hscratch⟩

/-- A store within the window writes the word at the address register and no other byte of scratch, and its engine goes on. -/
theorem State.uopStore_inWindow (h : u.inWindow = true) (x : BitVec 128) (p : Bool) (e : BankEngine) (fl : Flags) :
    let t := s.uopStore u x p e fl
    portDone t u e ∧ scratchFrame s t (portKey u) 16 ∧ memRead t.scratch (portKey u) 16 = bytesOfNat x.toNat 16 ∧
      (t.core u.core).bank.flags = (s.core u.core).bank.flags ||| fl := by
  obtain ⟨hcores, hscratch⟩ := s.bankWriteWord_holds u.core u.bank u.addr ((bytesOfNat x.toNat 16).map fun b => (b, p))
  rw [List.map_map, Function.comp_def, List.map_id', ← portKey] at hscratch
  have hlength : (bytesOfNat x.toNat 16).length = 16 := bytesOfNat_length ..
  simp only [State.uopStore, h, Bool.not_true, Bool.false_eq_true, if_false]
  refine ⟨portDone_putEngine .., fun a ha => ?_, ?_, ?_⟩
  · refine (congrArg (memByte · a) hscratch).trans (memByte_write_other _ _ _ ?_)
    rwa [hlength]
  · refine (congrArg (memRead · (portKey u) 16) hscratch).trans ?_
    conv_lhs => rw [← hlength]
    exact memRead_memWrite ..
  · rw [State.putEngine_flags, State.core_congr hcores]

/-- So does one whose narrowings that saturated are counted. -/
theorem State.uopStore_counted (h : u.inWindow = true) (x : BitVec 128) (p : Bool) (e : BankEngine) (fl : Flags) (n : Nat) :
    let t := (s.uopStore u x p e fl).countSat u.core n
    portDone t u e ∧ scratchFrame s t (portKey u) 16 ∧ memRead t.scratch (portKey u) 16 = bytesOfNat x.toNat 16 := by
  obtain ⟨hdone, hframe, hread, -⟩ := State.uopStore_inWindow (s := s) h x p e fl
  obtain ⟨d, hcount⟩ := (s.uopStore u x p e fl).count_rest 0x7033 (u.core + 1) n
  dsimp only
  rw [State.countSat, hcount]
  exact ⟨hdone, hframe, hread⟩

/-! ## Outside the window (R318) -/

theorem State.uopLoad_outside (h : u.inWindow = false) (ecc : Ecc) (f : State → BitVec 128 → Bool → State) :
    s.uopLoad u ecc f = s.endCmd u.id 0x0208 u.range := by
  simp [State.uopLoad, h]

theorem State.uopStore_outside (h : u.inWindow = false) (x : BitVec 128) (p : Bool) (e : BankEngine) (fl : Flags) :
    s.uopStore u x p e fl = s.endCmd u.id 0x0208 u.range := by
  simp [State.uopStore, h]

/-- The command of a micro-op outside its window stops. -/
theorem State.uopRange_ends {c b op : Nat} (h : s.uopAt c b op = some u) (hend : t = s.endCmd u.id 0x0208 u.range) :
    endedAs t u.id 0x0208 u.range ∧ onlyCmds s t := by
  obtain ⟨-, -, -, -, d, hcmd, hrun⟩ := State.uopAt_eq_some h
  subst hend
  exact ⟨State.endCmd_ends _ _ hcmd (not_ended_of_running hrun), State.endCmd_onlyCmds ..⟩

end

/-- Settles O32: loads by `State.uopLoad_puts`, stores by `State.uopStore_inWindow`, and both outside the window by the command's end. -/
theorem bankPort : Obligations.BankPort := by
  unfold Obligations.BankPort
  intro s c b u
  refine ⟨fun hin => ⟨fun e bs hbs => ⟨fun h => ?ld, fun h => ?ldw, fun h => ?lds⟩, fun h => ?st, fun h => ?stn, fun h => ?sts⟩,
    fun hout => ⟨fun e => ⟨fun h => ?ldOut, fun h => ?ldwOut, fun h => ?ldsOut⟩, fun h => ?stOut, fun h => ?stnOut, fun h => ?stsOut⟩⟩
  case ld =>
    obtain ⟨⟨hdone, hmem⟩, hflags⟩ := State.uopLoad_puts (fl := wordFlags) hin e (fun v p => u.eng.setReg (uopRd u.w) v p) hbs
    exact answers_of_issue h rfl ⟨hdone, hmem, hflags⟩
  case ldw => exact answers_of_issue h rfl (State.uopLoad_puts hin e u.widened hbs).1.symm
  case lds => exact answers_of_issue h rfl (State.uopLoad_puts hin e (fun v p => { u.eng with s := v, sPoison := p }) hbs).1
  case st => exact answers_of_issue h rfl (State.uopStore_inWindow hin ..)
  case stn =>
    refine answers_of_issue h rfl ?_
    dsimp only
    rw [if_pos hin, List.map_map]
    exact State.uopStore_counted hin ..
  case sts =>
    obtain ⟨hdone, hframe, hread, -⟩ := State.uopStore_inWindow (s := s) hin u.eng.s u.eng.sPoison { u.eng with s := 0, sPoison := false } 0
    exact answers_of_issue h rfl ⟨hdone, hframe, hread⟩
  case ldOut | ldwOut | ldsOut => exact answers_of_issue h rfl (State.uopRange_ends h (State.uopLoad_outside hout ..))
  case stOut | stsOut => exact answers_of_issue h rfl (State.uopRange_ends h (State.uopStore_outside hout ..))
  case stnOut =>
    refine answers_of_issue h rfl (State.uopRange_ends h ?_)
    simp only [hout, Bool.false_eq_true, if_false]
    exact State.uopStore_outside hout ..

end Sys2Proof.Machine

/-!
# Sequencing, scaling and group reductions of a bank program

R313, R315, R316, R319, R406, R407. A group's tree gives each of its active banks the one result (`State.treeRun_eq`); it reaches no
engine that has ended, so END leaves its engine ended.
-/
namespace Sys2Proof.Machine

open Sys2Proof Sys2Proof.Safety

section
variable {s t : State} {u : Uop} {r : BankRun} {b g i : Nat} {st : Stripe} {e : BankEngine} {d : Cmd} {w : Nat}
  {x y : Nat × Nat × Stripe × BankEngine} {banks : List (Nat × Nat × Stripe × BankEngine)}

/-! ## Active banks (R319) -/

/-- The stripe that runs at a bank is one whose engine has not ended. -/
theorem BankRun.current_eq_some (h : r.current b = some (i, st, e)) : e = r.engine i st b ∧ e.ended = false := by
  obtain ⟨⟨st', i'⟩, -, hsome⟩ := List.exists_of_findSome?_eq_some h
  dsimp only at hsome
  split at hsome
  · next hruns =>
    obtain ⟨rfl, rfl, rfl⟩ := Option.some.inj hsome
    exact ⟨rfl, by simpa using (Bool.and_eq_true_iff.mp hruns).2⟩
  · cases hsome

theorem BankRun.mem_active (h : x ∈ r.active g) : (∃ j, j < 64 ∧ x.1 = 64 * g + j) ∧ r.current x.1 = some x.2 := by
  obtain ⟨j, hj, hsome⟩ := List.mem_filterMap.mp h
  obtain ⟨c, hc, rfl⟩ := Option.map_eq_some_iff.mp hsome
  exact ⟨⟨j, List.mem_range.mp hj, rfl⟩, hc⟩

/-- The place of an active bank's engine among those of its run. -/
def engineKey (x : Nat × Nat × Stripe × BankEngine) : Nat := x.2.1 * 5120 + x.1

/-- Two active banks of a group whose engines stand in one place are one. -/
theorem BankRun.active_inj (hx : x ∈ r.active g) (hy : y ∈ r.active g) (hkey : engineKey y = engineKey x) : y = x := by
  obtain ⟨⟨j, hj, hxb⟩, hxc⟩ := BankRun.mem_active hx
  obtain ⟨⟨k, hk, hyb⟩, hyc⟩ := BankRun.mem_active hy
  have hbank : y.1 = x.1 := by
    unfold engineKey at hkey
    omega
  rw [hbank] at hyc
  exact Prod.ext hbank (Option.some.inj (hyc.symm.trans hxc))

/-- No active bank's engine is one that has ended. -/
theorem BankRun.active_ne_ended (hfind : tabFind r.engines (i * 5120 + b) = some e) (hend : e.ended = true)
    (hx : x ∈ r.active g) : engineKey x ≠ i * 5120 + b := by
  intro hkey
  obtain ⟨-, hxc⟩ := BankRun.mem_active hx
  obtain ⟨heng, hrun⟩ := BankRun.current_eq_some (i := x.2.1) (st := x.2.2.1) (e := x.2.2.2) hxc
  have hengine : r.engine x.2.1 x.2.2.1 x.1 = e := by
    have hplace : x.2.1 * 5120 + x.1 = i * 5120 + b := hkey
    rw [BankRun.engine, hplace, hfind]
  rw [heng, hengine, hend] at hrun
  cases hrun

/-! ## Engines of several banks put back -/

/-- The engine of each of some banks of u's core put back. -/
def State.putEach (s : State) (u : Uop) (f : Nat × Nat × Stripe × BankEngine → BankEngine) (fl : Flags)
    (banks : List (Nat × Nat × Stripe × BankEngine)) : State :=
  banks.foldl (fun s x => s.putEngine { u with bank := x.1, index := x.2.1, stripe := x.2.2.1 } (f x) fl) s

variable {f : Nat × Nat × Stripe × BankEngine → BankEngine} {fl : Flags}

theorem State.putEach_onlyEngines (s : State) (u : Uop) (f : Nat × Nat × Stripe × BankEngine → BankEngine) (fl : Flags)
    (banks : List (Nat × Nat × Stripe × BankEngine)) : OnlyEngines s (s.putEach u f fl banks) := by
  unfold State.putEach
  induction banks generalizing s with
  | nil => exact .refl s
  | cons a l ih => exact (s.putEngine_onlyEngines ..).trans (ih _)

/-- An engine of none of the banks stays as it was. -/
theorem State.putEach_other {k : Nat} (h : ∀ x ∈ banks, engineKey x ≠ k) :
    tabFind ((s.putEach u f fl banks).core u.core).bank.engines k = tabFind (s.core u.core).bank.engines k := by
  unfold State.putEach
  induction banks generalizing s with
  | nil => rfl
  | cons a l ih =>
    rw [List.foldl_cons, ih fun x hx => h x (List.mem_cons_of_mem _ hx)]
    have hbank := s.putEngine_bank { u with bank := a.1, index := a.2.1, stripe := a.2.2.1 } (f a) fl
    refine (congrArg (fun r : BankRun => tabFind r.engines k) hbank).trans ?_
    exact tabFind_put_other _ _ (Ne.symm (h a List.mem_cons_self))

/-- The engine of a bank that shares its place with no other of them is put back. -/
theorem State.putEach_engine (hx : x ∈ banks) (hinj : ∀ y ∈ banks, engineKey y = engineKey x → y = x) :
    tabFind ((s.putEach u f fl banks).core u.core).bank.engines (engineKey x) = some (f x) := by
  induction banks generalizing s with
  | nil => cases hx
  | cons a l ih =>
    by_cases hl : x ∈ l
    · exact ih hl fun y hy => hinj y (List.mem_cons_of_mem _ hy)
    · obtain rfl : x = a := (List.mem_cons.mp hx).resolve_right hl
      have hlast : ∀ y ∈ l, engineKey y ≠ engineKey x := fun y hy hkey => hl (hinj y (List.mem_cons_of_mem _ hy) hkey ▸ hy)
      exact (State.putEach_other (s := s.putEngine { u with bank := x.1, index := x.2.1, stripe := x.2.2.1 } (f x) fl) hlast).trans
        (State.putEngine_engine ..)

/-! ## The tree (R319) -/

/-- Lane i of register ra at bank j of a group, if the bank is active. -/
def treeLane (banks : List (Nat × Nat × Stripe × BankEngine)) (ra i j : Nat) : Option W32 :=
  (banks.find? fun x => x.1 % 64 == j).map fun x => (x.2.2.2.reg ra).1.extractLsb' (32 * i) 32

/-- An active bank's register ra is poisoned. -/
def treePoison (banks : List (Nat × Nat × Stripe × BankEngine)) (ra : Nat) : Bool := banks.any fun x => (x.2.2.2.reg ra).2

/-- What a group's tree gives, an inactive bank taken as rest. -/
def treeResult (banks : List (Nat × Nat × Stripe × BankEngine)) (ra : Nat) (op : W32 → W32 → FRes) (rest : Option W32) : BitVec 128 × Flags :=
  gather32 ((List.range 4).map fun i => written (pairTree op 7 ((List.range 64).filterMap fun j => (treeLane banks ra i j).or rest)))
    (treePoison banks ra)

/-- The engine of an active bank past its group's tree. -/
def treeEngine (banks : List (Nat × Nat × Stripe × BankEngine)) (w : Nat) (op : W32 → W32 → FRes) (rest : Option W32)
    (x : Nat × Nat × Stripe × BankEngine) : BankEngine :=
  (({ x.2.2.2 with inTree := false } : BankEngine).setReg (uopRd w) (treeResult banks (uopRa w) op rest).1 (treePoison banks (uopRa w))).advance 1

theorem treeResult_fst (banks : List (Nat × Nat × Stripe × BankEngine)) (ra : Nat) (op : W32 → W32 → FRes) (rest : Option W32) :
    (treeResult banks ra op rest).1 = ofLanes ((List.range 4).map fun i =>
      (pairTree op 7 ((List.range 64).filterMap fun j => (treeLane banks ra i j).or rest)).1) := by
  simp only [treeResult, gather32, List.map_map, Function.comp_def, written]

/-- A tree that runs puts back the engine of each active bank with the result. -/
theorem State.treeRun_eq (s : State) (u : Uop) (banks : List (Nat × Nat × Stripe × BankEngine)) (w : Nat) (op : W32 → W32 → FRes) (rest : Option W32) :
    s.treeRun u banks w op rest = s.putEach u (treeEngine banks w op rest) (treeResult banks (uopRa w) op rest).2 banks := by
  have hleaf : ∀ i j, (match banks.find? fun e => e.1 % 64 == j with
      | some e => some ((e.2.2.2.reg (uopRa w)).1.extractLsb' (32 * i) 32)
      | none => rest) = (treeLane banks (uopRa w) i j).or rest := by
    intro i j
    unfold treeLane
    cases banks.find? fun e => e.1 % 64 == j <;> rfl
  unfold treeEngine treeResult
  simp only [← hleaf]
  rfl

/-- A tree whose active banks have not all come waits. -/
theorem State.treeTry_waits (h : ∃ x ∈ (s.core u.core).bank.active (u.bank / 64), x.2.2.2.inTree = false) : s.treeTry u = s := by
  obtain ⟨x, hx, hout⟩ := h
  unfold State.treeTry
  extract_lets r
  split
  · rfl
  · next e l hactive =>
    have hall : ((e :: l).all fun x => x.2.2.2.inTree && x.2.2.2.pc == e.2.2.2.pc) = false :=
      List.all_eq_false.mpr ⟨x, hactive ▸ hx, by simp [hout]⟩
    rw [hall]
    rfl

/-- A tree whose active banks have all come to one micro-op runs: GSUM takes an inactive bank as +0, GMAX not at all. -/
theorem State.treeTry_runs {n : Nat} (hbanks : banks = (s.core u.core).bank.active (u.bank / 64))
    (h : ∀ x ∈ banks, x.2.2.2.inTree = true ∧ x.2.2.2.pc = n ∧ ((s.core u.core).bank.uops x.2.2.1)[n]? = some w) :
    s.treeTry u = if uopOp w = 0x28 then s.treeRun u banks w fadd (some 0) else s.treeRun u banks w (extremum false) none := by
  subst hbanks
  unfold State.treeTry
  dsimp only
  cases hactive : (s.core u.core).bank.active (u.bank / 64) with
  | nil => exact (ite_self s).symm
  | cons e l =>
    rw [hactive] at h
    obtain ⟨-, rfl, hword⟩ := h e List.mem_cons_self
    have hall : ((e :: l).all fun x => x.2.2.2.inTree && x.2.2.2.pc == e.2.2.2.pc) = true := by
      refine List.all_eq_true.mpr fun x hx => ?_
      obtain ⟨hin, hpc, -⟩ := h x hx
      simp [hin, hpc]
    simp only [hall, Bool.not_true, Bool.false_eq_true, if_false, hword]

/-- The tree of a group changes the engines of its active banks alone. -/
theorem State.treeTry_form (s : State) (u : Uop) :
    ∃ f fl banks, (∀ x ∈ banks, x ∈ (s.core u.core).bank.active (u.bank / 64)) ∧ s.treeTry u = s.putEach u f fl banks := by
  have hnothing : ∃ f fl banks, (∀ x ∈ banks, x ∈ (s.core u.core).bank.active (u.bank / 64)) ∧ s = s.putEach u f fl banks :=
    ⟨fun x => x.2.2.2, 0, [], by simp, rfl⟩
  unfold State.treeTry
  extract_lets r
  split
  · exact hnothing
  · next e l hactive =>
    have hsub : ∀ x ∈ e :: l, x ∈ r.active (u.bank / 64) := fun x hx => hactive ▸ hx
    split
    · exact hnothing
    · split
      · exact hnothing
      · split
        · exact ⟨_, _, _, hsub, State.treeRun_eq ..⟩
        · exact ⟨_, _, _, hsub, State.treeRun_eq ..⟩

theorem State.treeTry_onlyEngines (s : State) (u : Uop) : OnlyEngines s (s.treeTry u) := by
  obtain ⟨f, fl, banks, -, h⟩ := s.treeTry_form u
  rw [h]
  exact s.putEach_onlyEngines ..

theorem State.tree_onlyEngines (s : State) (u : Uop) : OnlyEngines s (s.tree u) :=
  (s.putEngine_onlyEngines ..).trans (State.treeTry_onlyEngines ..)

/-- The tree leaves an engine that has ended. -/
theorem State.treeTry_ended (hfind : tabFind (s.core u.core).bank.engines (u.index * 5120 + u.bank) = some e)
    (hend : e.ended = true) : tabFind ((s.treeTry u).core u.core).bank.engines (u.index * 5120 + u.bank) = some e := by
  obtain ⟨f, fl, banks, hbanks, h⟩ := s.treeTry_form u
  rw [h, State.putEach_other fun x hx => BankRun.active_ne_ended hfind hend (hbanks x hx), hfind]

/-- What the tree gives each of the banks that have come to it. -/
theorem State.treeRun_gives (hbanks : banks = (s.core u.core).bank.active (u.bank / 64)) (op : W32 → W32 → FRes)
    (rest : Option W32) : ∀ x ∈ banks, ∃ e,
      tabFind ((s.treeRun u banks w op rest).core u.core).bank.engines (x.2.1 * 5120 + x.1) = some e ∧ e.inTree = false ∧
      e.reg (uopRd w) = (ofLanes ((List.range 4).map fun i =>
        (pairTree op 7 ((List.range 64).filterMap fun j => (treeLane banks (uopRa w) i j).or rest)).1), treePoison banks (uopRa w)) := by
  intro x hx
  refine ⟨treeEngine banks w op rest x, ?_, rfl, ?_⟩
  · rw [State.treeRun_eq]
    refine State.putEach_engine hx fun y hy => ?_
    subst hbanks
    exact BankRun.active_inj hx hy
  · rw [treeEngine, BankEngine.reg_advance, BankEngine.reg_setReg_same, treeResult_fst]

theorem treeLane_sum (l : List Nat) (ra i : Nat) :
    (l.filterMap fun j => (treeLane banks ra i j).or (some 0)) = l.map fun j => (treeLane banks ra i j).getD 0 := by
  simp only [Option.or_some, List.filterMap_eq_map']

/-- What GSUM and GMAX give each of the banks that have come to one of them. -/
theorem State.treeTry_gives {n : Nat} (hbanks : banks = (s.core u.core).bank.active (u.bank / 64))
    (h : ∀ x ∈ banks, x.2.2.2.inTree = true ∧ x.2.2.2.pc = n ∧ ((s.core u.core).bank.uops x.2.2.1)[n]? = some w) :
    (uopOp w = 0x28 → ∀ x ∈ banks, ∃ e,
      tabFind ((s.treeTry u).core u.core).bank.engines (x.2.1 * 5120 + x.1) = some e ∧ e.inTree = false ∧
      e.reg (uopRd w) = (ofLanes ((List.range 4).map fun i =>
        (pairTree fadd 7 ((List.range 64).map fun j => (treeLane banks (uopRa w) i j).getD 0)).1), treePoison banks (uopRa w))) ∧
    (uopOp w ≠ 0x28 → ∀ x ∈ banks, ∃ e,
      tabFind ((s.treeTry u).core u.core).bank.engines (x.2.1 * 5120 + x.1) = some e ∧ e.inTree = false ∧
      e.reg (uopRd w) = (ofLanes ((List.range 4).map fun i =>
        (pairTree (extremum false) 7 ((List.range 64).filterMap fun j => treeLane banks (uopRa w) i j)).1), treePoison banks (uopRa w))) := by
  rw [State.treeTry_runs hbanks h]
  refine ⟨fun hop => ?_, fun hop => ?_⟩
  · have hgives := State.treeRun_gives (w := w) hbanks fadd (some 0)
    simp only [treeLane_sum] at hgives
    rw [if_pos hop]
    exact hgives
  · have hgives := State.treeRun_gives (w := w) hbanks (extremum false) none
    simp only [Option.or_none] at hgives
    rw [if_neg hop]
    exact hgives

/-! ## The end of a program (R313) -/

theorem State.bankFinish_ends (hcmd : s.cmd u.id = some d) (hrun : d.phase = .running) (hclean : clean d)
    (h : ∀ k ∈ d.cores, (s.core k).bank.allEnded = true) : ∃ fl, endedAs (s.bankFinish u.id) u.id 0 fl := by
  simp only [State.bankFinish, hcmd, List.all_eq_true.mpr h, if_true]
  exact ⟨_, State.finishCmd_ends hcmd hclean hrun⟩

theorem State.bankFinish_goes (hcmd : s.cmd u.id = some d) (h : ∃ k ∈ d.cores, (s.core k).bank.allEnded = false) : s.bankFinish u.id = s := by
  obtain ⟨k, hk, hopen⟩ := h
  have hall : (d.cores.all fun k => (s.core k).bank.allEnded) = false := List.all_eq_false.mpr ⟨k, hk, by simp [hopen]⟩
  simp only [State.bankFinish, hcmd, hall, Bool.false_eq_true, if_false]

theorem State.bankFinish_onlyCmds (s : State) (id : Nat) : onlyCmds s (s.bankFinish id) := by
  unfold State.bankFinish
  split
  · rfl
  · split
    · exact State.finishCmd_rest ..
    · rfl

/-! ## Scaling (R406, R407) -/

theorem State.countSat_memory (s : State) (c n : Nat) : sameMemory s (s.countSat c n) := (s.count_noted ..).cores_memory.2

@[simp] theorem BankEngine.s_advance (e : BankEngine) (n : Nat) : (e.advance n).s = e.s := rfl

/-- Registers from rd on written in a row. -/
theorem BankEngine.setRegs_holds (e : BankEngine) (rd : Nat) (v : Nat → BitVec 128) (p : Bool) (n : Nat) :
    ((List.range n).foldl (fun e i => e.setReg (rd + i) (v i) p) e).s = e.s ∧
    ∀ i, i < n → ((List.range n).foldl (fun e i => e.setReg (rd + i) (v i) p) e).reg (rd + i) = (v i, p) := by
  induction n with
  | zero => exact ⟨rfl, fun i hi => absurd hi (Nat.not_lt_zero i)⟩
  | succ n ih =>
    obtain ⟨hs, hregs⟩ := ih
    simp only [List.range_succ, List.foldl_append, List.foldl_cons, List.foldl_nil]
    refine ⟨hs, fun i hi => ?_⟩
    by_cases hlast : i = n
    · rw [hlast]
      exact BankEngine.reg_setReg_same ..
    · rw [BankEngine.reg_setReg_other _ _ _ (by omega)]
      exact hregs i (by omega)

end

/-- Settles O33: END by the tree that leaves its engine ended, GSUM and GMAX by `State.treeRun_gives`, the rest by the engine put back. -/
theorem bankControl : Obligations.BankControl := by
  unfold Obligations.BankControl
  rintro s c b u _ rfl
  refine ⟨fun s1 d h hs1 hcmd hclean => ?fin, fun h => ?ainc, fun h => ?loop, fun vs p hvs hp h => ?mxq, fun l scale hl hscale h => ?mxd,
    fun s1 banks p lane hs1 hbanks hp hlane => ⟨fun hwait => ⟨fun h => ?sumWaits, fun h => ?maxWaits⟩, fun hall => ⟨fun h => ?sum, fun h => ?max⟩⟩⟩
  case fin =>
    obtain ⟨-, -, -, -, d', hcmd', hrun⟩ := State.uopAt_eq_some h
    obtain rfl := Option.some.inj (hcmd.symm.trans hcmd')
    have hput := s.putEngine_onlyEngines u { u.eng with ended := true, issued := u.eng.issued + 1 } 0
    have honly : OnlyEngines s s1 := by
      rw [hs1]
      exact hput.trans (State.treeTry_onlyEngines ..)
    have hfound : s1.cmd u.id = some d := (State.cmd_congr honly.cmds _).trans hcmd
    have hended : ∃ e, tabFind (s1.core u.core).bank.engines (u.index * 5120 + u.bank) = some e ∧ e.ended = true := by
      rw [hs1]
      exact ⟨_, State.treeTry_ended (State.putEngine_engine ..) rfl, rfl⟩
    refine answers_of_issue h rfl ?_
    rw [← hs1]
    have hfin := s1.bankFinish_onlyCmds u.id
    refine ⟨?_, ?_, State.bankFinish_ends hfound hrun hclean, fun hopen => ?_⟩
    · rw [hfin]
      exact hended
    · rw [hfin]
      exact sameMemory.trans honly.memory (sameMemory_of_eq rfl rfl rfl)
    · rw [State.bankFinish_goes hfound hopen]
      exact honly.cmds
  case ainc =>
    have hput := s.putEngine_onlyEngines u ((u.eng.bump (uopRa u.w % 8) (signed 14 (uopImm14 u.w))).advance 1) 0
    exact answers_of_issue h rfl ⟨hput.memory, hput.cmds, _, State.putEngine_engine .., rfl, rfl, tabGet_set_same ..,
      fun k hk => tabGet_set_other _ _ _ hk⟩
  case loop =>
    refine answers_of_issue h rfl ?_
    split
    · next hzero =>
      exact ⟨(s.putEngine_onlyEngines ..).memory, (s.putEngine_onlyEngines ..).cmds, _, State.putEngine_engine .., rfl, rfl,
        fun _ => rfl, fun hne => absurd hzero hne⟩
    · next hcount =>
      exact ⟨(s.putEngine_onlyEngines ..).memory, (s.putEngine_onlyEngines ..).cmds, _, State.putEngine_engine .., rfl, rfl,
        fun hzero => absurd hzero hcount, fun _ => ⟨rfl, rfl⟩⟩
  case mxq =>
    refine answers_of_issue h rfl ?_
    simp only [List.flatMap_map, List.any_map, Function.comp_def, ← hvs, ← hp]
    exact ⟨sameMemory.trans (State.countSat_memory ..) (State.putEngine_onlyEngines ..).memory, _, State.putEngine_engine ..,
      (BankEngine.reg_setReg_other _ _ _ (Nat.ne_of_lt (Nat.lt_succ_self _))).trans (BankEngine.reg_setReg_same ..),
      BankEngine.reg_setReg_same .., rfl, rfl⟩
  case mxd =>
    refine answers_of_issue h rfl ?_
    simp only [← hl, ← hscale, ← List.map_drop, ← List.map_take, List.map_map, Function.comp_def]
    refine ⟨(State.putEngine_onlyEngines ..).memory, _, State.putEngine_engine .., ?_⟩
    simp only [BankEngine.reg_advance, BankEngine.s_advance]
    exact BankEngine.setRegs_holds ..
  case sumWaits | maxWaits =>
    refine answers_of_issue h rfl ?_
    rw [State.tree, ← hs1, State.treeTry_waits (hbanks ▸ hwait), hs1]
    exact ⟨(State.putEngine_onlyEngines ..).memory, State.putEngine_engine ..⟩
  case sum =>
    obtain ⟨-, -, hop, -⟩ := State.uopAt_eq_some h
    obtain rfl : p = treePoison banks (uopRa u.w) := hp
    obtain rfl : lane = treeLane banks (uopRa u.w) := hlane
    obtain ⟨hsum, -⟩ := State.treeTry_gives hbanks hall
    refine answers_of_issue h rfl ⟨(s.tree_onlyEngines u).memory, ?_⟩
    rw [State.tree, ← hs1]
    exact hsum hop
  case max =>
    obtain ⟨-, -, hop, -⟩ := State.uopAt_eq_some h
    obtain rfl : p = treePoison banks (uopRa u.w) := hp
    obtain rfl : lane = treeLane banks (uopRa u.w) := hlane
    obtain ⟨-, hmax⟩ := State.treeTry_gives hbanks hall
    refine answers_of_issue h rfl ⟨(s.tree_onlyEngines u).memory, ?_⟩
    rw [State.tree, ← hs1]
    exact hmax (by rw [hop]; decide)

end Sys2Proof.Machine

/-!
# BANK_RUN

R312. A descriptor that has been read is checked in the order of the rule; the first check that fails ends the command, and one that
passes them all stands at its start on each of its cores.
-/
namespace Sys2Proof.Machine

open Sys2Proof Sys2Proof.Safety

section
variable {s s1 : State} {id : Nat} {c d : Cmd} {bs : List Byte}

theorem exec_bankRun_misaligned (h : ready s id 0x11 c) (halign : c.payload % 64 ≠ 0) :
    exec (.bankRun id) s = .next ((s.beginCmd c).endCmd id 0x0206 0) := by
  obtain ⟨hcmd, hop, hstart⟩ := h
  change execBankRun id s = _
  simp [execBankRun, hcmd, hop, hstart, halign]

theorem exec_bankRun_read (h : ready s id 0x11 c) (halign : c.payload % 64 = 0)
    (hread : (s.beginCmd c).readBankDesc id c.slot c.payload = (s1, some bs)) : exec (.bankRun id) s = .next (s1.bankStart c bs) := by
  obtain ⟨hcmd, hop, hstart⟩ := h
  change execBankRun id s = _
  simp [execBankRun, hcmd, hop, hstart, halign, hread]

/-! ## The checks (R312) -/

theorem State.bankStart_bad {o : Nat} (hbad : bankBad bs = some o) : s.bankStart c bs = s.endCmd c.id 0x0206 o := by
  simp only [State.bankStart, hbad]

theorem State.bankStart_unheld {g : Nat} (hgood : bankBad bs = none) (hunheld : s.bankUnheld c.slot c.cores (bankRunOf bs) = some g) :
    s.bankStart c bs = s.endCmd c.id 0x0207 g := by
  simp only [State.bankStart, hgood, hunheld]

theorem State.bankStart_outside {g : Nat} (hgood : bankBad bs = none) (hheld : s.bankUnheld c.slot c.cores (bankRunOf bs) = none)
    (hout : (bankRunOf bs).outside = some g) : s.bankStart c bs = s.endCmd c.id 0x0209 g := by
  simp only [State.bankStart, hgood, hheld, hout]

theorem State.bankStart_skewed (hgood : bankBad bs = none) (hheld : s.bankUnheld c.slot c.cores (bankRunOf bs) = none)
    (hin : (bankRunOf bs).outside = none) (hskew : s.stepSkew c.slot bs = true) : s.bankStart c bs = s.endCmd c.id 0x0403 0 := by
  simp only [State.bankStart, hgood, hheld, hin, hskew, if_true]

/-! ## The start (R312, R313) -/

/-- A bank run put on each of some cores. -/
def State.bankOn (s : State) (r : BankRun) (cores : List Nat) : State := cores.foldl (fun s k => s.setCore k { s.core k with bank := r }) s

theorem State.bankOn_rest (s : State) (r : BankRun) (cores : List Nat) : s.bankOn r cores = { s with cores := (s.bankOn r cores).cores } := by
  unfold State.bankOn
  induction cores generalizing s with
  | nil => rfl
  | cons k l ih => exact ih _

/-- Each of the cores runs it, and every other core what it ran before. -/
theorem State.bankOn_bank (s : State) (r : BankRun) (cores : List Nat) (k : Nat) :
    ((s.bankOn r cores).core k).bank = if k ∈ cores then r else (s.core k).bank := by
  unfold State.bankOn
  induction cores generalizing s with
  | nil => rfl
  | cons j l ih =>
    rw [List.foldl_cons, ih, State.setCore_core]
    by_cases hl : k ∈ l
    · rw [if_pos hl, if_pos (List.mem_cons_of_mem _ hl)]
    · by_cases hj : k = j
      · rw [if_neg hl, if_pos hj, if_pos (hj ▸ List.mem_cons_self)]
      · rw [if_neg hl, if_neg hj, if_neg (by simp [hl, hj])]

/-- The run that a descriptor's command stands at the start of. -/
def State.bankRunAt (s : State) (c : Cmd) (bs : List Byte) : BankRun :=
  { bankRunOf bs with
    cmd := some c.id, srStep := (s.part c.slot).srStep
    stochastic := (bankRunOf bs).stochastic && decide (s.entry 0x5054 1 < (bankRunOf bs).accIndex) }

theorem State.bankStart_runs (hgood : bankBad bs = none) (hheld : s.bankUnheld c.slot c.cores (bankRunOf bs) = none)
    (hin : (bankRunOf bs).outside = none) (hstep : s.stepSkew c.slot bs = false) (hcmd : s.cmd c.id = some d) :
    ∃ n, s.bankStart c bs = (s.bankOn (s.bankRunAt c bs) c.cores).setCmd { d with whole := n } := by
  have hfound : (s.bankOn (s.bankRunAt c bs) c.cores).cmd c.id = some d := by
    rw [State.bankOn_rest]
    exact hcmd
  unfold State.bankOn State.bankRunAt at hfound ⊢
  simp only [State.bankStart, hgood, hheld, hin, hstep, Bool.false_eq_true, if_false, hfound]
  exact ⟨_, rfl⟩

theorem State.bankStart_holds (hgood : bankBad bs = none) (hheld : s.bankUnheld c.slot c.cores (bankRunOf bs) = none)
    (hin : (bankRunOf bs).outside = none) (hstep : s.stepSkew c.slot bs = false) (hcmd : s.cmd c.id = some d) (hrun : d.phase = .running) :
    running (s.bankStart c bs) c.id ∧ sameMemory s (s.bankStart c bs) ∧
    ∀ k ∈ c.cores, ((s.bankStart c bs).core k).bank = s.bankRunAt c bs := by
  obtain ⟨n, hstart⟩ := State.bankStart_runs hgood hheld hin hstep hcmd
  have hon := s.bankOn_rest (s.bankRunAt c bs) c.cores
  have hfound : (s.bankOn (s.bankRunAt c bs) c.cores).cmd c.id = some d := by
    rw [hon]
    exact hcmd
  have hid : d.id = c.id := State.cmd_id hcmd
  rw [hstart]
  refine ⟨running_setCmd hfound hid hrun, ?_, fun k hk => (State.bankOn_bank ..).trans (if_pos hk)⟩
  rw [hon]
  exact sameMemory_of_eq rfl rfl rfl

end

/-- Settles O30: each check by the equation of its case, and the start by `State.bankStart_holds`. -/
theorem bankRunStarts : Obligations.BankRunStarts := by
  unfold Obligations.BankRunStarts
  intro s s1 id c d bs hready
  obtain rfl := ready_id hready
  refine ⟨fun halign => ?misaligned, fun halign hread hcmd hrun => ?_⟩
  case misaligned =>
    obtain ⟨hends, hwork⟩ := ready_endCmd hready 0x0206 0
    exact answers_of_exec (exec_bankRun_misaligned hready halign) ⟨hends, onlyWork_memory hwork⟩
  have hexec := exec_bankRun_read hready halign hread
  have hends : ∀ st x, endedAs (s1.endCmd c.id st x) c.id st x := fun st x => State.endCmd_ends st x hcmd (not_ended_of_running hrun)
  refine ⟨fun o hbad => answers_of_exec hexec ?bad, fun g hgood hunheld => answers_of_exec hexec ?unheld,
    fun g hgood hheld hout => answers_of_exec hexec ?outside, fun hgood hheld hin hskew => answers_of_exec hexec ?skewed,
    fun hgood hheld hin hstep => answers_of_exec hexec ?starts⟩
  case bad => exact State.bankStart_bad hbad ▸ hends 0x0206 o
  case unheld => exact State.bankStart_unheld hgood hunheld ▸ hends 0x0207 g
  case outside => exact State.bankStart_outside hgood hheld hout ▸ hends 0x0209 g
  case skewed => exact State.bankStart_skewed hgood hheld hin hskew ▸ hends 0x0403 0
  case starts =>
    obtain ⟨hruns, hmem, hbank⟩ := State.bankStart_holds hgood hheld hin hstep hcmd hrun
    refine ⟨hruns, hmem, fun k hk => ?_⟩
    rw [hbank k hk]
    exact ⟨rfl, rfl, rfl⟩

end Sys2Proof.Machine

/-!
# Stream rows: bytes counted twice

R245, R288: what STREAM_ROW_FETCH counts. The bytes a slot's floor class carries (0x3020) and PF_ISSUED_BYTES of a core (0x5020), those fetched for its
streams, are dictionary entries, whose keys are 256 × index + subindex. Slots are 0 to 15 (R120), so no two of these keys meet in the
device, and the lines of a TILE_RUN pass the issue queue and are not metered with the row. O29 speaks of every state, where the command of a
core's tile program has any opcode and any slot number: one that is no TILE_RUN draws its row's bytes at once, and for a slot far beyond the
sixteen they count at the key of the core's streams.
-/
namespace Sys2Proof.Machine

open Sys2Proof Sys2Proof.Safety

/-- A row that its stream asks for and its core has room for is fetched. -/
theorem exec_streamRowFetch {s : State} {c : CoreNo} {k : Fin 8} {r : TileRun} {d : Cmd} {x : Stream} {row : Nat} {again : Bool}
    (htile : s.tileOf c.val = some (r, d)) (hstream : r.streams[k.val]? = some x) (hnext : x.nextRow (r.reached k.val) = some (row, again))
    (hroom : s.issueRoom c.val (lineSpans (x.rowVa row) x.rowBytes).length = true) :
    exec (.streamRowFetch c k) s = .next (s.fetchRow c.val d k.val x row again) := by
  change execStreamRowFetch c k s = _
  simp only [execStreamRowFetch, htile, hstream, hnext, hroom, Bool.not_true, Bool.false_eq_true, if_false]

/-- The slot number whose floor bytes of HBM reads have the key of the bytes fetched for the streams of core 4. -/
def meetingSlot : Nat := ((0x5020 - 0x3020) * 256 + 4) / 6

theorem meetingSlot_key : dk 0x3020 (6 * meetingSlot + 1) = dk 0x5020 (4 + 1) := by decide

/-- A stream of one row of 64 bytes. -/
def meetingStream : Stream := { base := 0x10000, rowBytes := 64, rows := 1, lead := 1, valid := true }

def meetingRun : TileRun := { cmd := some 0, footprint := 1, streams := [meetingStream] }

/-- A command of that slot, of no opcode of the table, that runs on core 4. -/
def meetingCmd : Cmd :=
  { id := 0, slot := meetingSlot, fn := 0, queue := 0, record := 0, doorbell := 0, admitted := 0, cores := [4], phase := .running }

/-- That command alone, its row's page mapped and its slot's floor at HBM not 0, on core 4, of which it holds bank group 0. -/
def meetingState : State :=
  { State.reset with
    boot := { State.reset.boot with env := [(32 * meetingSlot + 8, 1)] }
    cmds := [meetingCmd]
    cores := [(4, { holder := some meetingSlot, groups := 1, tile := meetingRun })]
    parts := [(meetingSlot, { side0 := [(1, { valid := true })] })] }

/-- The row's line in the issue queue, then its bytes read, then written to scratch. -/
def meetingIssued : State :=
  meetingState.pushLines 4 0 meetingSlot .stream false (meetingStream.rowVa 0) 64 (fun o m => [.scratch (0 + o) m]) 0
def meetingRead : State × Option (List TByte) := meetingIssued.cmdTagged 0 meetingSlot (meetingStream.rowVa 0) 64
def meetingWritten : State × Bool :=
  meetingRead.1.cmdScratchWrite 0 meetingSlot 4 (meetingRead.1.core 4).tile.foot 0 (List.replicate 64 (0, false))

/-- A pair whose second part is known. -/
theorem pair_of_snd {α β : Type} {x : α × β} {b : β} (h : x.2 = b) : x = (x.1, b) := h ▸ rfl

theorem meetingRead_bytes : meetingRead = (meetingRead.1, some (List.replicate 64 (0, false))) := pair_of_snd (by decide +kernel)

theorem meetingWritten_done : meetingWritten = (meetingWritten.1, true) := pair_of_snd (by decide +kernel)

/-- Nothing is counted before the row; the row counts its 64 bytes, and the floor class the same 64 bytes at the same key. -/
theorem meetingState_counts : meetingState.entry 0x5020 5 = 0 ∧ (meetingState.fetchRow 4 meetingCmd 0 meetingStream 0 false).entry 0x5020 5 = 128 := by
  decide +kernel

/-- Refutes O29: a row of 64 bytes fetched for a command of slot `meetingSlot` raises the bytes fetched of core 4 by 128. -/
theorem not_scratchAndStreams : ¬ Obligations.ScratchAndStreams := by
  unfold Obligations.ScratchAndStreams
  intro h
  obtain ⟨-, hrow⟩ := h meetingState 4
  have htile : meetingState.tileOf 4 = some (meetingRun, meetingCmd) := rfl
  have hstream : meetingRun.streams[0]? = some meetingStream := rfl
  have hnext : meetingStream.nextRow (meetingRun.reached 0) = some (0, false) := rfl
  have hroom : meetingState.issueRoom 4 (lineSpans (meetingStream.rowVa 0) 64).length = true := rfl
  obtain ⟨t, hexec, -, -, hcount⟩ := hrow 0 meetingRun meetingCmd meetingStream meetingRead.1 meetingWritten.1 _ 0 false htile hstream hnext hroom
    meetingRead_bytes meetingWritten_done
  obtain rfl := Host.Outcome.next.inj ((exec_streamRowFetch (c := 4) (k := 0) htile hstream hnext hroom).symm.trans hexec)
  obtain ⟨hbefore, hafter⟩ := meetingState_counts
  have hsum : (meetingState.fetchRow 4 meetingCmd 0 meetingStream 0 false).entry 0x5020 5 = meetingState.entry 0x5020 5 + 64 := hcount
  rw [hbefore, hafter] at hsum
  exact absurd hsum (by decide)

end Sys2Proof.Machine

/-!
# TILE_RUN

R343 to R349, R387. The descriptors read are checked in the order of R348; the first check that fails ends the command, and one that
passes them all, its vector programs read, stands at its first pass on each of its cores.
-/
namespace Sys2Proof.Machine

open Sys2Proof Sys2Proof.Safety

section
variable {s s1 s2 t : State} {id slot : Nat} {c : Cmd} {head : List Byte} {parts : List (Nat × List Byte)} {runs : List (Nat × TileRun)}

theorem exec_tileRun_misaligned (hready : ready s id 0x10 c) (halign : c.payload % 64 ≠ 0) :
    exec (.tileRun id) s = .next ((s.beginCmd c).endCmd id 0x020A 0) := by
  obtain ⟨hcmd, hop, hstart⟩ := hready
  change execTileRun id s = _
  simp [execTileRun, hcmd, hop, hstart, halign]

theorem exec_tileRun_read (hready : ready s id 0x10 c) (halign : c.payload % 64 = 0)
    (hhead : (s.beginCmd c).descRead id c.slot c.payload 64 = (s1, some head))
    (hparts : s1.readParts id c.slot c.payload (field head 0x20 4) (c.cores.zipIdx.map fun e => (e.2, e.1)) = (s2, some parts)) :
    exec (.tileRun id) s = .next (s2.tileStart id c.slot parts) := by
  obtain ⟨hcmd, hop, hstart⟩ := hready
  change execTileRun id s = _
  simp [execTileRun, hcmd, hop, hstart, halign, hhead, hparts]

/-! ## The checks (R348) -/

theorem State.tileStart_bad {o : Nat} (hbad : (parts.findSome? fun e => tileBad e.2) = some o) :
    s.tileStart id slot parts = s.endCmd id 0x020A o := by
  simp only [State.tileStart, hbad]

theorem State.tileStart_unheld {g : Nat} (hgood : (parts.findSome? fun e => tileBad e.2) = none)
    (hunheld : s.tileUnheld slot parts = some g) : s.tileStart id slot parts = s.endCmd id 0x0207 g := by
  simp only [State.tileStart, hgood, hunheld]

theorem State.tileStart_checked (hgood : ∀ e ∈ parts, tileBad e.2 = none) (hheld : s.tileUnheld slot parts = none)
    (htrackers : ∀ e ∈ parts, ∀ n ∈ tileTrackers e.2, (s.tracker slot n).isSome = true) :
    s.tileStart id slot parts = s.startParts id slot parts [] := by
  have hfields : (parts.findSome? fun e => tileBad e.2) = none := List.findSome?_eq_none_iff.mpr hgood
  have husable : (parts.flatMap fun e => tileTrackers e.2).find? (fun n => (s.tracker slot n).isNone) = none := by
    rw [List.find?_eq_none]
    intro n hn
    obtain ⟨e, he, hmem⟩ := List.mem_flatMap.mp hn
    simp [Option.isSome_iff_ne_none.mp (htrackers e he n hmem)]
  simp only [State.tileStart, hfields, hheld, husable]

/-! ## The start (R344, R349) -/

/-- Tile runs put on their cores. -/
def State.tilesOn (s : State) (runs : List (Nat × TileRun)) : State := runs.foldl (fun s e => s.setCore e.1 { s.core e.1 with tile := e.2 }) s

theorem State.tilesOn_rest (s : State) (runs : List (Nat × TileRun)) : s.tilesOn runs = { s with cores := (s.tilesOn runs).cores } := by
  unfold State.tilesOn
  induction runs generalizing s with
  | nil => rfl
  | cons e l ih => exact ih _

theorem State.tilesOn_core_other (s : State) {k : Nat} (hk : k ∉ runs.map (·.1)) : (s.tilesOn runs).core k = s.core k := by
  induction runs generalizing s with
  | nil => rfl
  | cons e l ih =>
    obtain ⟨hne, hl⟩ := not_or.mp (List.mem_cons.not.mp hk)
    exact (ih _ hl).trans (State.core_setCore_other _ _ hne)

/-- Each core, listed once, runs what is put on it. -/
theorem State.tilesOn_tile (s : State) (hnodup : (runs.map (·.1)).Nodup) {e : Nat × TileRun} (he : e ∈ runs) :
    ((s.tilesOn runs).core e.1).tile = e.2 := by
  induction runs generalizing s with
  | nil => cases he
  | cons x l ih =>
    obtain ⟨hx, hl⟩ := List.nodup_cons.mp hnodup
    rcases List.mem_cons.mp he with rfl | he
    · exact congrArg Core.tile ((State.tilesOn_core_other _ hx).trans (State.core_setCore ..))
    · exact ih _ hl he

/-- Parts whose vector programs are read with no fault stand on their cores at their start. -/
theorem State.startParts_on (hread : vecsRead id slot s parts t) (runs : List (Nat × TileRun)) :
    ∃ l, s.startParts id slot parts runs = t.tilesOn (runs ++ l) ∧ l.map (·.1) = parts.map (·.1) ∧
      ∀ e ∈ parts, ∃ v ws, (e.1, State.tileRunOf v id slot e.2 ws) ∈ l := by
  induction parts generalizing s runs with
  | nil =>
    obtain rfl := hread
    exact ⟨[], by rw [List.append_nil]; rfl, rfl, fun _ he => nomatch he⟩
  | cons x parts ih =>
    obtain ⟨k, bs⟩ := x
    obtain ⟨s1, ws, hvec, hrest⟩ := hread
    obtain ⟨l, hstart, hcores, hruns⟩ := ih hrest (runs ++ [(k, s1.tileRunOf id slot bs ws)])
    refine ⟨(k, s1.tileRunOf id slot bs ws) :: l, ?_, congrArg (k :: ·) hcores, fun e he => ?_⟩
    · simp only [State.startParts, hvec, hstart, List.append_assoc, List.singleton_append]
    · rcases List.mem_cons.mp he with rfl | he
      · exact ⟨s1, ws, List.mem_cons_self⟩
      · obtain ⟨v, ws', hmem⟩ := hruns e he
        exact ⟨v, ws', List.mem_cons_of_mem _ hmem⟩

theorem State.startParts_holds (hread : vecsRead id slot s parts t) (hnodup : (parts.map (·.1)).Nodup) :
    sameMemory t (s.startParts id slot parts []) ∧ (s.startParts id slot parts []).cmds = t.cmds ∧
    ∀ e ∈ parts, ∃ v ws, ((s.startParts id slot parts []).core e.1).tile = State.tileRunOf v id slot e.2 ws := by
  obtain ⟨l, hstart, hcores, hruns⟩ := State.startParts_on hread []
  rw [List.nil_append] at hstart
  have hrest := t.tilesOn_rest l
  rw [hstart]
  refine ⟨?_, ?_, fun e he => ?_⟩
  · rw [hrest]
    exact sameMemory_of_eq rfl rfl rfl
  · rw [hrest]
  · obtain ⟨v, ws, hmem⟩ := hruns e he
    exact ⟨v, ws, t.tilesOn_tile (hcores ▸ hnodup) hmem⟩

end

end Sys2Proof.Machine

/-!
# A pass of the matrix engine

R28, R288, R336 to R342, R347, R374. What follows the last row of a pass (the tile queue filled, stream rows consumed, the command's end)
leaves a program's passes and all of its sub-arrays but their backlogs (`TileRun.Filled`), so a sub-array holds what the rows left in it.
-/
namespace Sys2Proof.Machine

open Sys2Proof Sys2Proof.Safety

section
variable {s s1 t : State} {id slot : Nat}

/-! ## Commands alone changed -/

theorem onlyCmds_trans {u : State} (h : onlyCmds s t) (k : onlyCmds t u) : onlyCmds s u := by
  rw [onlyCmds, k, h]

theorem onlyCmds_memory (h : onlyCmds s t) : sameMemory s t := by
  rw [h]
  exact sameMemory_of_eq rfl rfl rfl

theorem onlyCmds_foldl {α : Type} {f : State → α → State} (h : ∀ x a, onlyCmds x (f x a)) (l : List α) (s : State) :
    onlyCmds s (l.foldl f s) := by
  induction l generalizing s with
  | nil => rfl
  | cons a l ih => exact onlyCmds_trans (h s a) (ih _)

theorem State.tileFinish_onlyCmds (s : State) (id : Nat) : onlyCmds s (s.tileFinish id) := by
  unfold State.tileFinish
  split
  · rfl
  · next c hcmd =>
    split
    · rfl
    · extract_lets s1 left fl s2
      have hpoison : onlyCmds s s1 := onlyCmds_foldl (fun x k => by
        split
        · exact x.notePoison_onlyCmds ..
        · rfl) c.cores s
      have hlate : onlyCmds s1 s2 := by
        dsimp only [s2]
        split
        · split <;> rfl
        · rfl
      exact onlyCmds_trans (onlyCmds_trans hpoison hlate) (State.finishCmd_rest ..)

/-! ## What is read of scratch -/

/-- The check bits of what a pass reads leave every command, core and byte. -/
theorem State.scratchErrs_noted (s : State) (slot c : Nat) (errs : EccReads) : ScratchNoted s (s.scratchErrs slot c errs) := by
  unfold State.scratchErrs
  induction errs generalizing s with
  | nil => exact .refl s
  | cons e l ih =>
    refine ScratchNoted.trans ?_ (ih _)
    dsimp only
    split
    · exact s.scratchEcc_noted ..
    · exact .refl s

theorem State.cmdScratch_onlyCmds (s : State) (id slot c x n : Nat) : onlyCmds s (s.cmdScratch id slot c x n).1 := by
  unfold State.cmdScratch
  split
  · exact State.endCmd_onlyCmds ..
  · split
    · rfl
    · exact State.notePoison_onlyCmds ..

theorem State.movingRow_onlyCmds (s : State) (id slot c : Nat) (p : Pass) (m : Nat) : onlyCmds s (s.movingRow id slot c p m).1 := by
  have hrow := s.cmdScratch_onlyCmds id slot c (p.mOff + m * p.mStride) (packedBytes p.mFmt p.rowElems)
  unfold State.movingRow
  extract_lets n
  split
  · next s1 hread => rwa [hread] at hrow
  · next s1 bs hread =>
    rw [hread] at hrow
    extract_lets row r
    split
    · exact hrow
    · have hscale := s1.cmdScratch_onlyCmds id slot c (p.mScaleOff + m * ceilDiv n 32) (ceilDiv n 32)
      split <;> next hread2 =>
        rw [hread2] at hscale
        exact onlyCmds_trans hrow hscale

/-- One moving row alone is what an output row takes. -/
theorem State.movingBands_one (s : State) (id slot c : Nat) (p : Pass) (m : Nat) :
    s.movingBands id slot c p [m] {} = s.movingRow id slot c p m := by
  rcases hread : s.movingRow id slot c p m with ⟨s1, _ | r⟩ <;> simp [State.movingBands, hread]

end

section
variable {r t u : TileRun} {q : Nat}

/-! ## The tile queue filled (R374) -/

@[simp] theorem TileRun.sub_setSub (r : TileRun) (q : Nat) (a : SubArray) : (r.setSub q a).sub q = a := by
  simp [TileRun.setSub, TileRun.sub, tabGet]

theorem TileRun.sub_setSub_other (r : TileRun) {q k : Nat} (a : SubArray) (h : k ≠ q) : (r.setSub q a).sub k = r.sub k := by
  simp only [TileRun.setSub, TileRun.sub, tabGet, tabFind_put_other _ _ h]

/-- t has the passes and the command of r, and its sub-arrays but for the words they have still to write. -/
def TileRun.Filled (r t : TileRun) : Prop :=
  t.passes = r.passes ∧ t.cmd = r.cmd ∧ ∀ q, ∃ b, t.sub q = { r.sub q with backlog := b }

theorem TileRun.Filled.of_eq (hpasses : t.passes = r.passes) (hcmd : t.cmd = r.cmd) (hsubs : t.subs = r.subs) : r.Filled t :=
  ⟨hpasses, hcmd, fun q => ⟨(r.sub q).backlog, by rw [TileRun.sub, hsubs]; rfl⟩⟩

theorem TileRun.Filled.trans (h : r.Filled t) (k : t.Filled u) : r.Filled u := by
  obtain ⟨hpasses, hcmd, hsubs⟩ := h
  obtain ⟨kpasses, kcmd, ksubs⟩ := k
  refine ⟨kpasses.trans hpasses, kcmd.trans hcmd, fun q => ?_⟩
  obtain ⟨b, hb⟩ := ksubs q
  obtain ⟨b', hb'⟩ := hsubs q
  exact ⟨b, by rw [hb, hb']⟩

theorem TileRun.setSub_filled (r : TileRun) (q : Nat) (b : List (List QWord)) : r.Filled (r.setSub q { r.sub q with backlog := b }) := by
  refine ⟨rfl, rfl, fun k => ?_⟩
  by_cases hk : k = q
  · subst hk
    exact ⟨b, TileRun.sub_setSub ..⟩
  · exact ⟨(r.sub k).backlog, TileRun.sub_setSub_other _ _ hk⟩

theorem TileRun.accept_filled (r : TileRun) (w : QWord) : r.Filled (r.accept w) := by
  unfold TileRun.accept
  split
  · exact .of_eq rfl rfl rfl
  · split <;> exact .of_eq rfl rfl rfl

theorem TileRun.fill_filled (n : Nat) (r : TileRun) : r.Filled (TileRun.fill n r) := by
  induction n generalizing r with
  | zero => exact .of_eq rfl rfl rfl
  | succ n ih =>
    rw [TileRun.fill]
    split
    · exact .of_eq rfl rfl rfl
    · next q hturn =>
      extract_lets a
      split
      · exact .of_eq rfl rfl rfl
      · next l hlog => exact ((r.setSub_filled q l).trans (.of_eq rfl rfl rfl)).trans (ih _)
      · next w ws l hlog =>
        split
        · exact .of_eq rfl rfl rfl
        · have hword : r.Filled ((r.setSub q { a with backlog := ws :: l }).accept w) :=
            (r.setSub_filled q (ws :: l)).trans (TileRun.accept_filled ..)
          exact (hword.trans (.of_eq rfl rfl rfl)).trans (ih _)

theorem TileRun.refill_filled (r : TileRun) : r.Filled r.refill := TileRun.fill_filled ..

end

section
variable {s s1 t : State} {c : CoreNo} {q : Fin 16} {r : TileRun} {d : Cmd} {ix : Nat} {p : Pass} {errs : EccReads}

/-! ## The row (R28, R288) -/

theorem exec_passStart_waits (htile : s.tileOf c.val = some (r, d)) (hnext : r.nextPass q.val = some (ix, p))
    (hrows : s.rowsHere c.val d.id r p = false) (read : PassReads) : exec (.passStart c q read) s = .next (s.noteLate c.val q.val r) := by
  change execPassStart c q read s = _
  simp [execPassStart, htile, hnext, hrows]

theorem exec_passStart_runs (htile : s.tileOf c.val = some (r, d)) (hnext : r.nextPass q.val = some (ix, p))
    (hrows : s.rowsHere c.val d.id r p = true) (hcredit : r.credit q.val p = true) (read : PassReads) :
    exec (.passStart c q read) s = .next ((s.scratchErrs d.slot c.val read.errs).runPass d c.val q.val ix r p read.mismatch) := by
  change execPassStart c q read s = _
  simp [execPassStart, htile, hnext, hrows, hcredit]

end

section
variable {s t : State} {c q ix : Nat} {r : TileRun} {p : Pass} {d : Cmd} {o : PassRun}

theorem State.noteLate_counted (hlate : (r.sub q).late = true) : s.noteLate c q r = s := by
  simp only [State.noteLate, hlate, if_true]

/-- A pass that waits is marked, and its core counts one. -/
theorem State.noteLate_counts (hlate : (r.sub q).late = false) :
    sameMemory s (s.noteLate c q r) ∧ (s.noteLate c q r).cmds = s.cmds ∧
    ((s.noteLate c q r).core c).tile = r.setSub q { r.sub q with late := true } ∧
    (s.noteLate c q r).entry 0x5023 (c + 1) = s.entry 0x5023 (c + 1) + 1 := by
  simp only [State.noteLate, hlate, Bool.false_eq_true, if_false]
  refine ⟨(State.count_noted ..).cores_memory.2, State.count_cmds .., ?_, State.dictGet_count ..⟩
  rw [State.core_count, State.putTile, State.core_setCore]

/-! ## The rows of a pass -/

theorem PassRun.output_run (o : PassRun) (id slot c : Nat) (p : Pass) (j : Nat) (l : List (Elem × Flags)) :
    (o.output id slot c p j l).run.passes = o.run.passes ∧ (o.output id slot c p j l).run.cmd = o.run.cmd := by
  unfold PassRun.output
  extract_lets fl run foot off
  split <;> exact ⟨rfl, rfl⟩

theorem PassRun.enter_run (o : PassRun) (id slot c : Nat) (p : Pass) (rows : List Nat) : (o.enter id slot c p rows).run = o.run := by
  unfold PassRun.enter
  split <;> rfl

theorem PassRun.row_run (o : PassRun) (id slot c q : Nat) (p : Pass) (lost : Nat → List Nat) (j : Nat) :
    (o.row id slot c q p lost j).run.passes = o.run.passes ∧ (o.row id slot c q p lost j).run.cmd = o.run.cmd := by
  unfold PassRun.row
  split
  · exact ⟨rfl, rfl⟩
  · split
    · exact ⟨rfl, rfl⟩
    · extract_lets row sums sr a s2 run o1 vals use e run1 o2
      split
      · exact ⟨rfl, rfl⟩
      · have hsent : o2.run.passes = o.run.passes ∧ o2.run.cmd = o.run.cmd := by
          dsimp only [o2]
          split <;> exact ⟨rfl, rfl⟩
        obtain ⟨hpasses, hcmd⟩ := PassRun.output_run o2 id slot c p j e.1
        exact ⟨hpasses.trans hsent.1, hcmd.trans hsent.2⟩

/-- The rows of a pass in which no column mismatches, from a sub-array loaded as a. -/
def State.passRows (s : State) (d : Cmd) (c q : Nat) (r : TileRun) (p : Pass) (a : SubArray) : PassRun :=
  ((List.range p.outRows).foldl (fun (o : PassRun) j =>
    (o.enter d.id d.slot c p (p.gapRows j)).row d.id d.slot c q p (fun _ => []) j) { st := s, run := r, sub := a }).enter
      d.id d.slot c p p.tailRows

theorem State.passRows_run (s : State) (d : Cmd) (c q : Nat) (r : TileRun) (p : Pass) (a : SubArray) :
    (s.passRows d c q r p a).run.passes = r.passes ∧ (s.passRows d c q r p a).run.cmd = r.cmd := by
  rw [State.passRows, PassRun.enter_run]
  refine List.foldlRecOn (motive := fun o : PassRun => o.run.passes = r.passes ∧ o.run.cmd = r.cmd) _ _ ⟨rfl, rfl⟩ fun o ho j _ => ?_
  obtain ⟨hpasses, hcmd⟩ := PassRun.row_run (o.enter d.id d.slot c p (p.gapRows j)) d.id d.slot c q p (fun _ => []) j
  rw [PassRun.enter_run] at hpasses hcmd
  exact ⟨hpasses.trans ho.1, hcmd.trans ho.2⟩

/-! ## What follows the rows (R347, R349, R374) -/

/-- A run after a pass's last row, its sub-array past the pass. -/
def PassRun.past (o : PassRun) (q ix : Nat) (p : Pass) : TileRun := o.run.setSub q { o.sub.countK p with next := ix + 1, late := false }

/-- The state after a pass's last row. -/
def PassRun.finish (o : PassRun) (d : Cmd) (c mode q ix : Nat) (p : Pass) : State :=
  let t := (o.st.pumpTile c (o.past q ix p)).countPass c mode q p
  (match p.doneStream with
   | some k => t.consumeRows c k p.doneRow
   | none => t).tileFinish d.id

theorem State.runPass_unloaded (s : State) (d : Cmd) (c q ix : Nat) (r : TileRun) (hload : p.load = false) :
    s.runPass d c q ix r p none = (s.passRows d c q r p (r.sub q)).finish d c r.mode q ix p := by
  simp only [State.runPass, hload, Bool.false_eq_true, if_false]
  rfl

theorem State.runPass_loaded {pl : Plane} (hload : p.load = true) (hread : s.loadPlane d.id d.slot c r.mode p = (t, some pl)) :
    s.runPass d c q ix r p none = (t.passRows d c q r p ((r.sub q).load pl)).finish d c r.mode q ix p := by
  simp only [State.runPass, hload, if_true, hread]
  rfl

theorem State.pumpTile_tile (s : State) (c : Nat) (r : TileRun) : ((s.pumpTile c r).core c).tile = r.refill := by
  rw [State.pumpTile, State.core_count, State.putTile, State.core_setCore]

theorem State.pumpTile_memory (s : State) (c : Nat) (r : TileRun) : sameMemory s (s.pumpTile c r) :=
  sameMemory.trans (t := s.putTile c r.refill) (sameMemory_of_eq rfl rfl rfl) (State.count_noted ..).cores_memory.2

/-- The counters of a pass change no core and no byte. -/
theorem State.countPass_holds (s : State) (c mode q : Nat) (p : Pass) :
    (s.countPass c mode q p).cores = s.cores ∧ sameMemory s (s.countPass c mode q p) := by
  unfold State.countPass
  extract_lets k folded links
  obtain ⟨hcores, hmem⟩ := (((s.count_noted 0x7010 (c + 1) 1).trans (State.count_noted _ 0x7011 (c + 1) (if folded then 1 else 0))).trans
    (State.count_noted _ 0x7016 (c + 1) links)).cores_memory
  exact ⟨hcores, sameMemory.trans hmem (sameMemory_of_eq rfl rfl rfl)⟩

theorem State.consumeRows_holds (s : State) (c k row : Nat) :
    (s.core c).tile.Filled ((s.consumeRows c k row).core c).tile ∧ sameMemory s (s.consumeRows c k row) := by
  unfold State.consumeRows
  extract_lets r
  split
  · exact ⟨.of_eq rfl rfl rfl, sameMemory_of_eq rfl rfl rfl⟩
  · refine ⟨?_, sameMemory.trans (t := s.putTile c _) (sameMemory_of_eq rfl rfl rfl) (State.count_noted ..).cores_memory.2⟩
    rw [State.core_count, State.putTile, State.core_setCore]
    exact .of_eq rfl rfl rfl

theorem PassRun.finish_holds (o : PassRun) (d : Cmd) (c mode q ix : Nat) (p : Pass) :
    (o.past q ix p).Filled ((o.finish d c mode q ix p).core c).tile ∧ sameMemory o.st (o.finish d c mode q ix p) := by
  unfold PassRun.finish
  extract_lets t
  obtain ⟨hcores, hcount⟩ := (o.st.pumpTile c (o.past q ix p)).countPass_holds c mode q p
  have hpumped : (o.past q ix p).Filled (t.core c).tile := by
    rw [State.core_congr hcores, State.pumpTile_tile]
    exact TileRun.refill_filled _
  have hmem : sameMemory o.st t := sameMemory.trans (State.pumpTile_memory ..) hcount
  have hfinish : ∀ x : State, ((x.tileFinish d.id).core c).tile = (x.core c).tile ∧ sameMemory x (x.tileFinish d.id) := fun x =>
    have honly := x.tileFinish_onlyCmds d.id
    ⟨by rw [honly]; rfl, onlyCmds_memory honly⟩
  split
  · next k _ =>
    obtain ⟨hconsumed, hrows⟩ := t.consumeRows_holds c k p.doneRow
    obtain ⟨htile, hend⟩ := hfinish (t.consumeRows c k p.doneRow)
    exact ⟨htile ▸ hpumped.trans hconsumed, sameMemory.trans (sameMemory.trans hmem hrows) hend⟩
  · obtain ⟨htile, hend⟩ := hfinish t
    exact ⟨htile ▸ hpumped, sameMemory.trans hmem hend⟩

/-- After a pass the sub-array stands behind it and holds what the rows left. -/
theorem PassRun.finish_sub (o : PassRun) (d : Cmd) (c mode q ix : Nat) (p : Pass) :
    (((o.finish d c mode q ix p).core c).tile.sub q).next = ix + 1 ∧ (((o.finish d c mode q ix p).core c).tile.sub q).acc = o.sub.acc ∧
    ((o.finish d c mode q ix p).core c).tile.passes = o.run.passes ∧ ((o.finish d c mode q ix p).core c).tile.cmd = o.run.cmd := by
  obtain ⟨⟨hpasses, hcmd, hsubs⟩, -⟩ := o.finish_holds d c mode q ix p
  obtain ⟨b, hb⟩ := hsubs q
  rw [hb, PassRun.past, TileRun.sub_setSub]
  exact ⟨rfl, rfl, hpasses, hcmd⟩

/-- A pass whose stationary block is in place runs, and the next one follows it. -/
theorem State.runPass_next (hplane : p.load = false ∨ ∃ s1 pl, s.loadPlane d.id d.slot c r.mode p = (s1, some pl)) :
    (((s.runPass d c q ix r p none).core c).tile.sub q).next = ix + 1 ∧ ((s.runPass d c q ix r p none).core c).tile.passes = r.passes ∧
    ((s.runPass d c q ix r p none).core c).tile.cmd = r.cmd := by
  obtain ⟨s1, a, hrun⟩ : ∃ s1 a, s.runPass d c q ix r p none = (State.passRows s1 d c q r p a).finish d c r.mode q ix p := by
    cases hload : p.load with
    | false => exact ⟨_, _, s.runPass_unloaded d c q ix r hload⟩
    | true =>
      obtain ⟨s1, pl, hread⟩ := hplane.resolve_left (by simp [hload])
      exact ⟨_, _, State.runPass_loaded hload hread⟩
  obtain ⟨hpasses, hcmd⟩ := s1.passRows_run d c q r p a
  obtain ⟨hnext, -, hpasses', hcmd'⟩ := (s1.passRows d c q r p a).finish_sub d c r.mode q ix p
  rw [hrun]
  exact ⟨hnext, hpasses'.trans hpasses, hcmd'.trans hcmd⟩

/-! ## Sums set into an accumulator row (R340, R342) -/

/-- A list written from a key on reads back at each of its places. -/
theorem tabGet_write_zipIdx {α β : Type} [DecidableEq α] (x : α) (t : Tab α) (k : Nat) (f : β → α) (l : List β) {j : Nat} {y : β}
    (hj : l[j]? = some y) : tabGet x (l.zipIdx.foldl (fun t e => tabSet x t (k + e.2) (f e.1)) t) (k + j) = f y := by
  induction l using List.reverseRecOn with
  | nil => simp at hj
  | append_singleton l z ih =>
    simp only [List.zipIdx_append, List.foldl_append, List.zipIdx_singleton, List.foldl_cons, List.foldl_nil, Nat.zero_add]
    by_cases hlast : j = l.length
    · subst hlast
      obtain rfl : z = y := by simpa using hj
      exact tabGet_set_same ..
    · have hlt : j < l.length := by
        obtain ⟨hlength, -⟩ := List.getElem?_eq_some_iff.mp hj
        rw [List.length_append, List.length_singleton] at hlength
        omega
      rw [tabGet_set_other _ _ _ (by omega)]
      exact ih (by rwa [List.getElem?_append_left hlt] at hj)

theorem SubArray.accumulate_set (a : SubArray) (row : Nat) (l : List (Elem × Flags)) {j : Nat} {y : Elem × Flags} (hj : l[j]? = some y) :
    tabGet 0 (a.accumulate row false none l).1.acc (2048 * row + j) = y.1.1 := by
  simp only [SubArray.accumulate, Bool.not_false, if_true, List.zipIdx_map_fst]
  exact tabGet_write_zipIdx (0 : W32) a.acc (2048 * row) (fun e : Elem × Flags => e.1.1) l hj

/-- The sum of products of column j of an output row. -/
theorem rowSums_value (p : Pass) (pl : Plane) (m : MovRow) (lost : List Nat) {j : Nat} (hj : j < p.nCols) :
    ∃ y, (rowSums p pl m lost)[j]? = some y ∧ y.1.1 =
      (colSum p ((m.vals.zip (List.range p.kRows)).map fun e => (e.1, elemVal p.sFmt p.mx (tabGet 0 pl.elems (2048 * e.2 + j)))) m.scales
        ((List.range (ceilDiv p.kRows 32)).map fun b => (tabGet 0 pl.scales (2048 * b + j)).toNat)).1 := by
  rw [rowSums, List.getElem?_map, List.getElem?_range hj]
  exact ⟨_, rfl, rfl⟩

/-- The one row of a pass that neither accumulates nor emits sets its sums. -/
theorem State.passRows_set {s1 : State} {m : MovRow} (a : SubArray) (hacc : p.acc = false) (hemit : p.emit = false) (hreuse : p.reuse = false)
    (hrows : p.mRows = 1) (hread : s.movingRow d.id d.slot c p 0 = (s1, some m)) :
    (s.passRows d c q r p a).st = s1 ∧ (s.passRows d c q r p a).sub = (a.accumulate p.accBase false none (rowSums p a.plane m [])).1 := by
  have hout : p.outRows = 1 := by simp [Pass.outRows, hreuse, hrows]
  have hgap : p.gapRows 0 = [] := by simp [Pass.gapRows, hreuse]
  have htail : p.tailRows = [] := by simp [Pass.tailRows, hreuse]
  have hbands : p.bands 0 = [0] := by simp [Pass.bands, hreuse]
  simp [State.passRows, hout, hgap, htail, PassRun.enter, State.movingBands, PassRun.row, hbands, State.movingBands_one, hread, hacc, hemit]

end

/-- Settles O34: the checks by the equation of each case and the start by `State.startParts_holds`; a pass by `State.runPass_next`, its sums by
`State.passRows_set`. -/
theorem tilePrograms : Obligations.TilePrograms := by
  unfold Obligations.TilePrograms
  refine ⟨fun s s1 s2 id c d h parts hready => ⟨fun halign => ?misaligned, fun halign hhead hparts hcmd hrun => ?_⟩,
    fun s c q r d ix p bad errs htile hnext hrows => ⟨fun hlate => ?counted, fun hlate => ?waits⟩,
    fun s c q r d ix p errs htile hnext hrows hcredit => ⟨fun hplane => ?next, fun s1 m hload hacc hemit hreuse hone hread => ?sums⟩⟩
  case misaligned =>
    obtain ⟨hends, hwork⟩ := ready_endCmd hready 0x020A 0
    exact answers_of_exec (exec_tileRun_misaligned hready halign) ⟨hends, onlyWork_memory hwork⟩
  case counted => exact answers_of_exec (exec_passStart_waits htile hnext hrows _) (State.noteLate_counted hlate)
  case waits => exact answers_of_exec (exec_passStart_waits htile hnext hrows _) (State.noteLate_counts hlate)
  case next => exact answers_of_exec (exec_passStart_runs htile hnext hrows hcredit _) (State.runPass_next hplane)
  case sums =>
    refine answers_of_exec (exec_passStart_runs htile hnext hrows hcredit _) ?_
    have hkept := State.movingRow_onlyCmds (s.scratchErrs d.slot c.val errs) d.id d.slot c.val p 0
    rw [hread] at hkept
    obtain ⟨hst, hsub⟩ := State.passRows_set (q := q.val) (r := r) (r.sub q.val) hacc hemit hreuse hone hread
    obtain ⟨-, -, -, hnoted⟩ := (s.scratchErrs_noted d.slot c.val errs).rest
    rw [State.runPass_unloaded (hload := hload)]
    refine ⟨sameMemory.trans (sameMemory.trans hnoted (onlyCmds_memory hkept)) (hst ▸ (PassRun.finish_holds ..).2), fun j hj _ => ?_⟩
    obtain ⟨y, hy, hvalue⟩ := rowSums_value p (r.sub q.val).plane m [] hj
    obtain ⟨-, hset, -⟩ := PassRun.finish_sub _ d c.val r.mode q.val ix p
    rw [hset, hsub, SubArray.accumulate_set _ _ _ hy, hvalue]
  have hexec := exec_tileRun_read hready halign hhead hparts
  have hends : ∀ st x, endedAs (s2.endCmd id st x) id st x := fun st x => State.endCmd_ends st x hcmd (not_ended_of_running hrun)
  refine ⟨fun o hbad => answers_of_exec hexec ?bad, fun g hgood hunheld => answers_of_exec hexec ?unheld,
    fun s3 hgood hheld htrackers hvecs hnodup => answers_of_exec hexec ?starts⟩
  case bad => exact State.tileStart_bad hbad ▸ hends 0x020A o
  case unheld => exact State.tileStart_unheld hgood hunheld ▸ hends 0x0207 g
  case starts =>
    obtain ⟨hmem, hcmds, hruns⟩ := State.startParts_holds hvecs hnodup
    rw [State.tileStart_checked hgood hheld htrackers]
    refine ⟨hmem, hcmds, fun e he => ?_⟩
    obtain ⟨v, ws, htile⟩ := hruns e he
    rw [htile]
    exact ⟨rfl, rfl, rfl, rfl⟩

end Sys2Proof.Machine

/-!
# Vector engines: the instruction a core issues

What a row of an instruction finds, what every issued instruction leaves, and the registers and masks of an engine (R376 to R378, R384, R398).
-/
namespace Sys2Proof.Machine

open Sys2Proof Sys2Proof.Safety

section
variable {s t : State} {u : Vop} {c op : Nat}

/-! ## The row of an instruction -/

/-- The tile program of a core runs on it, and so does its command. -/
theorem State.tileOf_eq_some {r : TileRun} {d : Cmd} (h : s.tileOf c = some (r, d)) :
    r = (s.core c).tile ∧ s.cmd d.id = some d ∧ d.phase = .running := by
  unfold State.tileOf at h
  split at h
  · cases h
  · next d' hfound =>
    split at h
    · next hrun =>
      obtain ⟨rfl, rfl⟩ := Prod.mk.inj (Option.some.inj h)
      obtain ⟨k, -, hcmd⟩ := Option.bind_eq_some_iff.mp hfound
      exact ⟨rfl, (State.cmd_id hcmd).symm ▸ hcmd, hrun⟩
    · cases h

/-- An instruction about to issue is of its row's core and run, and its command runs. -/
theorem State.vecAt_eq_some (h : s.vecAt c op = some u) :
    u.core = c ∧ u.run = (s.core u.core).tile ∧ ∃ d, s.cmd u.id = some d ∧ d.phase = .running := by
  unfold State.vecAt at h
  split at h
  · cases h
  · next r d htile =>
    obtain ⟨hrun, hcmd⟩ := State.tileOf_eq_some htile
    split at h
    · cases h
    · split at h
      · cases h
      · split at h
        · obtain rfl := Option.some.inj h
          exact ⟨rfl, hrun, d, hcmd⟩
        · cases h

theorem State.issueVec_next (h : s.vecAt c op = some u) (f : Vop → State) : s.issueVec c op f = .next (f u) := by
  rw [State.issueVec, h]

/-- A row of an instruction that the core issues does what the instruction does. -/
theorem answers_of_vec {i : Instr} {f : Vop → State} {P : State → Prop} (h : s.vecAt c op = some u)
    (hexec : exec i s = s.issueVec c op f) (hP : P (f u)) : answers i s P :=
  answers_of_exec (hexec.trans (State.issueVec_next h f)) hP

/-! ## What an issued instruction leaves (R398) -/

/-- t differs from s at most in the cores, the counters and the supervisor's notes. -/
def OnlyCores (s t : State) : Prop := t = { s with cores := t.cores, dict := t.dict, sup := t.sup }

theorem OnlyCores.trans {v : State} (h : OnlyCores s t) (k : OnlyCores t v) : OnlyCores s v := by
  rw [OnlyCores, k, h]

theorem OnlyCores.memory (h : OnlyCores s t) : sameMemory s t := by
  rw [h]
  exact sameMemory_of_eq rfl rfl rfl

theorem OnlyCores.cmds (h : OnlyCores s t) : t.cmds = s.cmds := by rw [h]

theorem State.putTile_onlyCores (s : State) (c : Nat) (r : TileRun) : OnlyCores s (s.putTile c r) := rfl

@[simp] theorem State.putTile_tile (s : State) (c : Nat) (r : TileRun) : ((s.putTile c r).core c).tile = r := by
  rw [State.putTile, State.core_setCore]

theorem State.count_onlyCores (s : State) (index sub n : Nat) : OnlyCores s (s.count index sub n) := by
  obtain ⟨d, hcount⟩ := s.count_rest index sub n
  rw [hcount]
  rfl

theorem State.putVec_onlyCores (s : State) (u : Vop) (v : VecEngine) (fl : Flags) (n : Nat) : OnlyCores s (s.putVec u v fl n) := by
  have hput := s.putTile_onlyCores u.core { (s.core u.core).tile with vec := v, flags := (s.core u.core).tile.flags ||| fl }
  exact (hput.trans (State.count_onlyCores _ 0x7020 (u.core + 1) 1)).trans ((State.count_onlyCores _ 0x7021 (u.core + 1) n).trans rfl)

/-- The run of a core that has issued an instruction: its engine as the instruction leaves it, and the flags raised. -/
@[simp] theorem State.putVec_tile (s : State) (u : Vop) (v : VecEngine) (fl : Flags) (n : Nat) :
    ((s.putVec u v fl n).core u.core).tile = { (s.core u.core).tile with vec := v, flags := (s.core u.core).tile.flags ||| fl } := by
  have hcount : ∀ x : State, (((x.count 0x7020 (u.core + 1) 1).count 0x7021 (u.core + 1) n).noteProgress (unitId 1 u.core 0) 1).core u.core =
      x.core u.core := fun x => (State.core_count _ 0x7021 (u.core + 1) n u.core).trans (State.core_count ..)
  unfold State.putVec
  rw [hcount, State.putTile_tile]

/-! ## Tables written at several keys -/

section
variable {α : Type} [DecidableEq α] {d : α} {t : Tab α} {b k : Nat} {es : List Nat} {f : Nat → α}

theorem tabGet_setEach_other (h : ∀ e ∈ es, k ≠ b + e) : tabGet d (es.foldl (fun t e => tabSet d t (b + e) (f e)) t) k = tabGet d t k := by
  induction es generalizing t with
  | nil => rfl
  | cons e l ih =>
    rw [List.foldl_cons, ih fun x hx => h x (List.mem_cons_of_mem _ hx)]
    exact tabGet_set_other _ _ _ (h e List.mem_cons_self)

theorem tabGet_setEach_same {e : Nat} (h : e ∈ es) : tabGet d (es.foldl (fun t e => tabSet d t (b + e) (f e)) t) (b + e) = f e := by
  induction es generalizing t with
  | nil => cases h
  | cons a l ih =>
    rw [List.foldl_cons]
    by_cases hl : e ∈ l
    · exact ih hl
    · obtain rfl : e = a := (List.mem_cons.mp h).resolve_right hl
      rw [tabGet_setEach_other fun x hx hkey => hl (by rwa [Nat.add_left_cancel hkey]), tabGet_set_same]

/-- Keys of a row of 8,192 are those of no other row, and of no other place. -/
theorem rowKey_ne {r q e : Nat} (hes : ∀ x ∈ es, x < 8192) (he : e < 8192) (h : r ≠ q ∨ e ∉ es) : ∀ x ∈ es, 8192 * r + e ≠ 8192 * q + x := by
  intro x hx hkey
  have hlt := hes x hx
  rcases h with hrow | hout
  · exact hrow (by omega)
  · exact hout (by rwa [show e = x by omega])

end

/-! ## Registers and masks (R376, R377) -/

section
variable {v : VecEngine} {rd m : Nat} {es : List Nat}

/-- The elements es of register rd written as g gives them. -/
def VecEngine.setElems (v : VecEngine) (rd : Nat) (es : List Nat) (g : Nat → Elem) : VecEngine :=
  es.foldl (fun v e => v.setElem rd e (g e)) v

/-- The bits es of mask m written as g gives them. -/
def VecEngine.setMasks (v : VecEngine) (m : Nat) (es : List Nat) (g : Nat → Bool × Bool) : VecEngine :=
  es.foldl (fun v e => v.setMask m e (g e)) v

theorem VecEngine.setElems_eq (v : VecEngine) (rd : Nat) (es : List Nat) (g : Nat → Elem) :
    v.setElems rd es g = { v with v := es.foldl (fun t e => tabSet 0 t (8192 * rd + e) (g e).1) v.v,
                                  vPoison := es.foldl (fun t e => tabSet false t (8192 * rd + e) (g e).2) v.vPoison } := by
  unfold VecEngine.setElems
  induction es generalizing v with
  | nil => rfl
  | cons e l ih => rw [List.foldl_cons, ih, List.foldl_cons, List.foldl_cons, VecEngine.setElem]

theorem VecEngine.setMasks_eq (v : VecEngine) (m : Nat) (es : List Nat) (g : Nat → Bool × Bool) :
    v.setMasks m es g = { v with m := es.foldl (fun t e => tabSet false t (8192 * m + e) (g e).1) v.m,
                                 mPoison := es.foldl (fun t e => tabSet false t (8192 * m + e) (g e).2) v.mPoison } := by
  unfold VecEngine.setMasks
  induction es generalizing v with
  | nil => rfl
  | cons e l ih => rw [List.foldl_cons, ih, List.foldl_cons, List.foldl_cons, VecEngine.setMask]

theorem VecEngine.elem_setElems_same {e : Nat} (g : Nat → Elem) (h : e ∈ es) : (v.setElems rd es g).elem rd e = g e := by
  rw [VecEngine.setElems_eq]
  exact Prod.ext (tabGet_setEach_same (f := fun e => (g e).1) h) (tabGet_setEach_same (f := fun e => (g e).2) h)

theorem VecEngine.elem_setElems_other {r e : Nat} (g : Nat → Elem) (hes : ∀ x ∈ es, x < 8192) (he : e < 8192) (h : r ≠ rd ∨ e ∉ es) :
    (v.setElems rd es g).elem r e = v.elem r e := by
  have hkey := rowKey_ne hes he h
  rw [VecEngine.setElems_eq]
  exact Prod.ext (tabGet_setEach_other (f := fun e => (g e).1) hkey) (tabGet_setEach_other (f := fun e => (g e).2) hkey)

theorem VecEngine.maskElem_setMasks_same {e : Nat} (g : Nat → Bool × Bool) (hm : m ≠ 0) (h : e ∈ es) :
    (v.setMasks m es g).maskElem m e = g e := by
  rw [VecEngine.setMasks_eq, VecEngine.maskElem, if_neg hm]
  exact Prod.ext (tabGet_setEach_same (f := fun e => (g e).1) h) (tabGet_setEach_same (f := fun e => (g e).2) h)

theorem VecEngine.maskElem_setMasks_other {r e : Nat} (g : Nat → Bool × Bool) (hr : r ≠ 0) (hes : ∀ x ∈ es, x < 8192) (he : e < 8192)
    (h : r ≠ m ∨ e ∉ es) : (v.setMasks m es g).maskElem r e = v.maskElem r e := by
  have hkey := rowKey_ne hes he h
  rw [VecEngine.setMasks_eq, VecEngine.maskElem, VecEngine.maskElem, if_neg hr, if_neg hr]
  exact Prod.ext (tabGet_setEach_other (f := fun e => (g e).1) hkey) (tabGet_setEach_other (f := fun e => (g e).2) hkey)

/-- Poison met changes the note of the first instruction to meet it alone. -/
theorem VecEngine.metPoison_rest (v : VecEngine) (bad : Bool) : ∃ p, v.metPoison bad = { v with poisonInstr := p } := by
  unfold VecEngine.metPoison
  split <;> exact ⟨_, rfl⟩

/-! ## The elements an instruction acts on (R378) -/

theorem vCount_le (w : Nat) : vCount w ≤ 8192 := by
  have hlt : bits w 19 13 < 2 ^ 13 := Nat.mod_lt _ (by decide)
  unfold vCount
  omega

theorem Vop.picked_lt : ∀ e ∈ u.picked, e < 8192 := fun _ he =>
  Nat.lt_of_lt_of_le (List.mem_range.mp (List.mem_filter.mp he).1) (vCount_le _)

end

end

end Sys2Proof.Machine

/-!
# Vector instructions that write elements

R376 to R380, R389 to R393. An instruction of one, two or three operands writes its result to each element that its mask selects
(`State.vecWrite_done`), whatever the function.
-/
namespace Sys2Proof.Machine

open Sys2Proof Sys2Proof.Safety

section
variable {u : Vop} {es : List Nat}

/-- The engine put back past an instruction that wrote the elements es of vd, with a note of the poison it met. -/
theorem State.putVec_done (s : State) (u : Vop) (g : Nat → Elem) (p : Option Nat) (fl : Flags) (n : Nat) (hes : ∀ e ∈ es, e < 8192) :
    vecDone s (s.putVec u (({ u.run.vec.setElems (vVd u.w) es (fun e => ((g e).1, (g e).2 || u.maskBad)) with
      poisonInstr := p } : VecEngine).advance 1) fl n) u es g := by
  have hput := s.putVec_onlyCores u (({ u.run.vec.setElems (vVd u.w) es (fun e => ((g e).1, (g e).2 || u.maskBad)) with
    poisonInstr := p } : VecEngine).advance 1) fl n
  unfold vecDone
  rw [State.putVec_tile]
  refine ⟨fun e he => VecEngine.elem_setElems_same _ he, fun r e he hout => VecEngine.elem_setElems_other _ hes he hout, ?_, ?_, ?_, ?_, ?_,
    hput.memory, hput.cmds⟩ <;> rw [VecEngine.setElems_eq] <;> rfl

/-- An instruction writes the elements es of vd, whatever flags it raises. -/
theorem State.vecWrite_done (s : State) (u : Vop) (g : Nat → FRes × Bool) (cycles : Nat) (int : Bool) (hes : ∀ e ∈ es, e < 8192) :
    vecDone s (s.vecWrite u es g cycles int) u es fun e => ((g e).1.1, (g e).2) := by
  unfold State.vecWrite
  extract_lets bad out v fl
  have hv : v = u.run.vec.setElems (vVd u.w) es fun e => ((g e).1.1, (g e).2 || u.maskBad) := List.foldl_map
  obtain ⟨p, hmet⟩ := v.metPoison_rest (out.any fun o => o.2.2)
  rw [hmet, hv]
  exact s.putVec_done u (fun e => ((g e).1.1, (g e).2)) p fl cycles hes

theorem State.vec1_done (s : State) (u : Vop) (cycles : Nat) (f : W32 → FRes) :
    vecDone s (s.vec1 u cycles f) u u.picked fun e => ((f (u.a e).1).1, (u.a e).2) :=
  State.vecWrite_done _ _ _ _ _ Vop.picked_lt

theorem State.vec2_done (s : State) (u : Vop) (cycles : Nat) (f : W32 → W32 → FRes) :
    vecDone s (s.vec2 u cycles f) u u.picked fun e => ((f (u.a e).1 (u.b e).1).1, (u.a e).2 || (u.b e).2) :=
  State.vecWrite_done _ _ _ _ _ Vop.picked_lt

end

/-- Settles O35: each instruction is a function of its operands' elements, by `State.vecWrite_done`. -/
theorem vectorArithmetic : Obligations.VectorArithmetic := by
  unfold Obligations.VectorArithmetic
  intro s c u
  refine ⟨fun h => answers_of_vec h rfl ?fadd, fun h => answers_of_vec h rfl ?fsub, fun h => answers_of_vec h rfl ?fmul,
    fun h => answers_of_vec h rfl ?fma, fun h => answers_of_vec h rfl ?fnma, fun h => answers_of_vec h rfl ?faddk,
    fun h => answers_of_vec h rfl ?fmulk, fun h => answers_of_vec h rfl ?fmak, fun h => answers_of_vec h rfl ?fmax,
    fun h => answers_of_vec h rfl ?fmin, fun h => answers_of_vec h rfl ?fmaxk, fun h => answers_of_vec h rfl ?fdiv,
    fun h => answers_of_vec h rfl ?fsel⟩
  case fadd | fsub | fmul | fmax | fmin | fdiv => exact State.vec2_done ..
  case faddk | fmulk | fmaxk => exact State.vec1_done ..
  case fma | fnma | fmak => exact State.vecWrite_done _ _ _ _ _ Vop.picked_lt
  case fsel => exact State.vecWrite_done _ _ _ _ _ fun e he => Nat.lt_of_lt_of_le (List.mem_range.mp he) (vCount_le _)

/-- Settles O36: each instruction is a function of an element of va, by `State.vec1_done`. -/
theorem vectorFunctions : Obligations.VectorFunctions := by
  unfold Obligations.VectorFunctions
  intro s c u
  refine ⟨fun h => answers_of_vec h rfl ?fabs, fun h => answers_of_vec h rfl ?vmov, fun h => answers_of_vec h rfl ?fsqrt,
    fun h => answers_of_vec h rfl ?frcp, fun h => answers_of_vec h rfl ?frsq, fun h => answers_of_vec h rfl ?fexp,
    fun h => answers_of_vec h rfl ?fexp2, fun h => answers_of_vec h rfl ?flog, fun h => answers_of_vec h rfl ?ftanh,
    fun h => answers_of_vec h rfl ?fsigm, fun h => answers_of_vec h rfl ?ferf, fun h => answers_of_vec h rfl ?fsin,
    fun h => answers_of_vec h rfl ?fcos, fun h => answers_of_vec h rfl ?f2i, fun h => answers_of_vec h rfl ?i2f⟩
  case f2i => exact State.vecWrite_done _ _ _ _ _ Vop.picked_lt
  case fabs | vmov | fsqrt | frcp | frsq | fexp | fexp2 | flog | ftanh | fsigm | ferf | fsin | fcos | i2f => exact State.vec1_done ..

end Sys2Proof.Machine

/-!
# Vector comparisons, masks, reductions and rearrangements

R377, R380, R381, R390, R393. A comparison writes bits of a mask as other instructions write elements of a register; a reduction writes one
element for each segment.
-/
namespace Sys2Proof.Machine

open Sys2Proof Sys2Proof.Safety

section
variable {es : List Nat}

/-- The engine put back past an instruction that wrote the bits es of mask vd, with a note of the poison it met. -/
theorem State.putVec_maskDone (s : State) (u : Vop) (g : Nat → Bool × Bool) (p : Option Nat) (fl : Flags) (n : Nat) (hes : ∀ e ∈ es, e < 8192) :
    maskDone s (s.putVec u (({ u.run.vec.setMasks (vVd u.w % 8) es g with poisonInstr := p } : VecEngine).advance 1) fl n) u es g := by
  have hput := s.putVec_onlyCores u (({ u.run.vec.setMasks (vVd u.w % 8) es g with poisonInstr := p } : VecEngine).advance 1) fl n
  unfold maskDone
  rw [State.putVec_tile]
  refine ⟨fun e he hvd => VecEngine.maskElem_setMasks_same _ hvd he,
    fun r e hr he hout => VecEngine.maskElem_setMasks_other _ hr hes he hout, ?_, ?_, ?_, hput.memory, hput.cmds⟩ <;>
    rw [VecEngine.setMasks_eq] <;> rfl

/-- A comparison writes the bits that its mask selects below COUNT, whatever flags it raises. -/
theorem State.vecCompare_done (s : State) (u : Vop) (f : Nat → (Bool × Flags) × Bool) :
    maskDone s (s.vecCompare u f) u u.picked fun e => ((f e).1.1, (f e).2 || u.maskBad) := by
  unfold State.vecCompare
  extract_lets bad out v
  have hv : v = u.run.vec.setMasks (vVd u.w % 8) u.picked fun e => ((f e).1.1, (f e).2 || u.maskBad) := List.foldl_map
  obtain ⟨p, hmet⟩ := v.metPoison_rest (out.any fun o => o.2.2)
  rw [hmet, hv]
  exact s.putVec_maskDone u _ p _ _ Vop.picked_lt

/-- MAND and MOR write the bits that their mask selects of all 8,192. -/
theorem State.vecMasks_done (s : State) (u : Vop) (f : Bool → Bool → Bool) {p q : Nat → Bool × Bool} {bad : Bool}
    (hes : es = (List.range 8192).filter u.sel) (hp : p = u.run.vec.maskElem (vVa u.w % 8)) (hq : q = u.run.vec.maskElem (vVb u.w % 8))
    (hbad : bad = (u.run.vec.maskPoisoned (vMask u.w) 8192 || u.run.vec.maskPoisoned (vVa u.w % 8) 8192 ||
      u.run.vec.maskPoisoned (vVb u.w % 8) 8192)) :
    maskDone s (s.vecMasks u f) u es fun e => (f (p e).1 (q e).1, bad) := by
  have hlt : ∀ e ∈ es, e < 8192 := fun e he => List.mem_range.mp (List.mem_filter.mp (hes ▸ he)).1
  obtain ⟨n, hmet⟩ := (u.run.vec.setMasks (vVd u.w % 8) es fun e => (f (p e).1 (q e).1, bad)).metPoison_rest bad
  have hput := s.putVec_maskDone u (fun e => (f (p e).1 (q e).1, bad)) n 0 1 hlt
  rw [← hmet] at hput
  unfold State.vecMasks
  dsimp only
  rw [← hes, ← hp, ← hq, ← hbad]
  exact hput

/-- A reduction writes the result of each segment to the element of vd of the segment's number. -/
theorem State.vecReduce_holds (s : State) (u : Vop) (op : W32 → W32 → FRes) (rest : Option W32) (empty : W32) :
    sameMemory s (s.vecReduce u op rest empty) ∧ ∀ i, i < vCount u.w / 2 ^ bits u.w 0 4 →
      ((s.vecReduce u op rest empty).core u.core).tile.vec.elem (vVd u.w) i =
        ((u.segment op rest empty i).1.1, (u.segment op rest empty i).2.1) := by
  unfold State.vecReduce
  extract_lets out v fl
  have hv : v = u.run.vec.setElems (vVd u.w) (List.range (vCount u.w / 2 ^ bits u.w 0 4)) fun i =>
    ((u.segment op rest empty i).1.1, (u.segment op rest empty i).2.1) := List.foldl_map
  obtain ⟨p, hmet⟩ := v.metPoison_rest (out.any fun o => o.2.2.1)
  refine ⟨(s.putVec_onlyCores ..).memory, fun i hi => ?_⟩
  rw [State.putVec_tile, hmet, hv]
  exact VecEngine.elem_setElems_same _ (List.mem_range.mpr hi)

end

/-- Settles O37: comparisons by `State.vecCompare_done`, MAND and MOR by `State.vecMasks_done`, reductions by `State.vecReduce_holds`, and the
rearrangements by `State.vecWrite_done`. -/
theorem vectorMasksAndShapes : Obligations.VectorMasksAndShapes := by
  unfold Obligations.VectorMasksAndShapes
  refine ⟨fun s c u => ⟨fun h => answers_of_vec h rfl ?fcmplt, fun h => answers_of_vec h rfl ?fcmpeq, fun h => answers_of_vec h rfl ?fcmpun,
    fun h => answers_of_vec h rfl ?fcmpltk, ?masks⟩, fun s c u => ⟨fun h => answers_of_vec h rfl ?rsum, fun h => answers_of_vec h rfl ?rmax,
    fun h => answers_of_vec h rfl ?sexp, fun h => answers_of_vec h rfl ?bcast, fun h => answers_of_vec h rfl ?pswap⟩⟩
  case fcmplt | fcmpeq | fcmpun | fcmpltk => exact State.vecCompare_done ..
  case masks =>
    intro es p q bad hes hp hq hbad
    exact ⟨fun h => answers_of_vec h rfl (State.vecMasks_done _ _ _ hes hp hq hbad),
      fun h => answers_of_vec h rfl (State.vecMasks_done _ _ _ hes hp hq hbad)⟩
  case rsum | rmax => exact State.vecReduce_holds ..
  case sexp | bcast | pswap => exact State.vecWrite_done _ _ _ _ _ Vop.picked_lt

end Sys2Proof.Machine

/-!
# Vector loops, constants, the end, and the tile queue

R366 to R370, R374, R384 to R386, R398. The tile queue filled again leaves the engine and adds no drop, and nothing enters the queue of a
program that has ended (`TileRun.refill_pumped`).
-/
namespace Sys2Proof.Machine

open Sys2Proof Sys2Proof.Safety

section
variable {s t : State} {r : TileRun} {u : Vop}

/-! ## The tile queue filled again (R368, R374, R386) -/

/-- What the words put in the queue, an end of the turns, and a turn passed on all keep, a queue filled again keeps. -/
theorem TileRun.fill_induct {P : TileRun → Prop} (hclosed : ∀ x : TileRun, P x → P { x with closed := true, drops := 0 })
    (hsub : ∀ (x : TileRun) q a, P x → P (x.setSub q a)) (hturn : ∀ (x : TileRun) q, P x → P { x with turn := q })
    (hword : ∀ (x : TileRun) w, P x → P (x.accept w)) (n : Nat) (h : P r) : P (TileRun.fill n r) := by
  induction n generalizing r with
  | zero => exact h
  | succ n ih =>
    rw [TileRun.fill]
    split
    · exact hclosed r h
    · next q _ =>
      extract_lets a
      split
      · exact h
      · exact ih (hturn _ _ (hsub _ _ _ h))
      · split
        · exact h
        · exact ih (hturn _ _ (hword _ _ (hsub _ _ _ h)))

/-- t has the engine of r and no more drops, and an empty queue where the program has ended on an empty one. -/
def TileRun.Pumped (r t : TileRun) : Prop :=
  t.vec = r.vec ∧ t.drops ≤ r.drops ∧ (r.vec.active = false → r.queue = [] → t.queue = [])

theorem TileRun.accept_pumped (h : r.Pumped x) (w : QWord) : r.Pumped (x.accept w) := by
  obtain ⟨hvec, hdrops, hqueue⟩ := h
  unfold TileRun.accept
  split
  · refine ⟨hvec, ?_, hqueue⟩
    dsimp only
    split <;> omega
  · split
    · exact ⟨hvec, hdrops, hqueue⟩
    · next hon => exact ⟨hvec, hdrops, fun hoff => absurd (hvec ▸ hoff) (by simpa using hon)⟩

theorem TileRun.refill_pumped (r : TileRun) : r.Pumped r.refill :=
  TileRun.fill_induct (P := r.Pumped) (fun _ ⟨hvec, _, hqueue⟩ => ⟨hvec, Nat.zero_le _, hqueue⟩) (fun _ _ _ h => h) (fun _ _ h => h)
    (fun _ w h => TileRun.accept_pumped h w) _ ⟨rfl, le_rfl, fun _ h => h⟩

theorem State.pumpTile_onlyCores (s : State) (c : Nat) (r : TileRun) : OnlyCores s (s.pumpTile c r) :=
  (s.putTile_onlyCores c r.refill).trans (State.count_onlyCores ..)

/-- A core once the queue has been filled again after a change. -/
theorem State.afterQueue_holds (s : State) (u : Vop) :
    (s.core u.core).tile.Pumped ((s.afterQueue u).core u.core).tile ∧ OnlyCores s (s.afterQueue u) := by
  refine ⟨?_, s.pumpTile_onlyCores ..⟩
  rw [State.afterQueue, State.pumpTile_tile]
  exact TileRun.refill_pumped _

theorem onlyCmds_core (h : onlyCmds s t) (k : Nat) : t.core k = s.core k := by
  rw [h]
  rfl

/-! ## Counters (R398) -/

/-- No count lowers an entry. -/
theorem State.entry_le_count (s : State) (index sub n i j : Nat) : s.entry i j ≤ (s.count index sub n).entry i j := by
  unfold State.entry
  by_cases hkey : dk i j = dk index sub
  · rw [hkey, State.dictGet_count]
    exact Nat.le_add_right ..
  · rw [State.dictGet_count_other _ _ hkey]

theorem State.entry_le_putVec (s : State) (u : Vop) (v : VecEngine) (fl : Flags) (n i j : Nat) :
    s.entry i j ≤ (s.putVec u v fl n).entry i j :=
  let x := s.putTile u.core { (s.core u.core).tile with vec := v, flags := (s.core u.core).tile.flags ||| fl }
  le_trans (x.entry_le_count 0x7020 (u.core + 1) 1 i j) ((x.count 0x7020 (u.core + 1) 1).entry_le_count 0x7021 (u.core + 1) n i j)

theorem State.entry_le_afterQueue (s : State) (u : Vop) (i j : Nat) : s.entry i j ≤ (s.afterQueue u).entry i j :=
  State.entry_le_count (s.putTile u.core (s.core u.core).tile.refill) ..

/-! ## Control (R384 to R386) -/

/-- The run that END leaves. -/
def Vop.ended (u : Vop) : TileRun :=
  { u.run with vec := { u.run.vec with active := false }, queue := [], discarded := u.run.discarded + u.run.queue.length }

/-- The state once END has discarded what is left in the queue. -/
def State.vecEnded (s : State) (u : Vop) : State :=
  ((s.putTile u.core u.ended).count 0x7024 (u.core + 1) u.run.queue.length).count 0x7020 (u.core + 1) 1

theorem exec_vEnd {c : CoreNo} (h : s.vecAt c.val 0x00 = some u) : exec (.vEnd c) s = .next (((s.vecEnded u).afterQueue u).tileFinish u.id) :=
  State.issueVec_next h _

/-- END leaves its engine stopped and its queue empty. -/
theorem State.vecEnd_holds (s : State) (u : Vop) :
    let t := ((s.vecEnded u).afterQueue u).tileFinish u.id
    sameMemory s t ∧ (t.core u.core).tile.vec.active = false ∧ (t.core u.core).tile.queue = [] := by
  intro t
  have htile : ((s.vecEnded u).core u.core).tile = u.ended := by
    rw [State.vecEnded, State.core_count, State.core_count, State.putTile_tile]
  have hended : OnlyCores s (s.vecEnded u) := ((s.putTile_onlyCores u.core u.ended).trans (State.count_onlyCores ..)).trans (State.count_onlyCores ..)
  have hfinish : onlyCmds ((s.vecEnded u).afterQueue u) t := State.tileFinish_onlyCmds ..
  obtain ⟨⟨hvec, -, hempty⟩, hcores⟩ := (s.vecEnded u).afterQueue_holds u
  rw [htile] at hvec hempty
  rw [onlyCmds_core hfinish, hvec]
  exact ⟨sameMemory.trans (hended.trans hcores).memory (onlyCmds_memory hfinish), rfl, hempty rfl rfl⟩

/-! ## The tile queue (R366 to R370, R386) -/

/-- A program that stops on an empty closed queue. -/
theorem State.underflow_holds (s : State) (u : Vop) :
    ((s.underflow u).core u.core).tile.vec.active = false ∧ sameMemory s (s.underflow u) := by
  have hnote : ∀ x : State, onlyCmds x (match x.cmd u.id with
      | some d => if d.late.isNone then x.setCmd { d with late := some (0x020F, u.run.vec.pc) } else x
      | none => x) := by
    intro x
    split
    · split <;> rfl
    · rfl
  unfold State.underflow
  extract_lets run engine s1 s2
  have hcmds : onlyCmds s1 (s2.tileFinish u.id) := onlyCmds_trans (hnote s1) (s2.tileFinish_onlyCmds u.id)
  rw [onlyCmds_core hcmds, State.putTile_tile]
  exact ⟨rfl, sameMemory.trans (s.putTile_onlyCores ..).memory (onlyCmds_memory hcmds)⟩

/-- The run that TQR leaves. -/
def Vop.unqueued (u : Vop) : TileRun := { u.run with queue := u.run.queue.drop (ceilDiv (vCount u.w) 16) }

/-- The state once TQR has taken its words from the queue, some of them with a parity that fails. -/
def State.tookWords (s : State) (u : Vop) (words : List QWord) : State :=
  let bad := (words.filter fun w => parityOf w.data != w.parity).length
  let x := (s.putTile u.core u.unqueued).count 0x7025 (u.core + 1) bad
  if bad = 0 then x else x.noteFault (unitId 1 u.core 0) 2

/-- Elements of words written to a register, and the queue filled again. -/
def State.vecTaken (s : State) (u : Vop) (es : List Elem) : State :=
  (s.vecWrite { u with run := u.unqueued } u.picked (fun e => let x := es.getD e (0, false); ((x.1, 0), x.2)) 0).afterQueue u

theorem exec_vTqr {c : CoreNo} {k : Nat} {flips : List (Fin 512)} {es : List Elem} (h : s.vecAt c.val 0x18 = some u)
    (hk : k = ceilDiv (vCount u.w) 16) (hroom : k ≤ u.run.queue.length)
    (hes : es = ((u.run.queue.take k).zipIdx.map fun e => (e.1.flipped (flips.any fun i => i.val == e.2)).taken).flatMap QWord.elems) :
    ∃ words, exec (.vTqr ⟨c, flips⟩) s = .next ((s.tookWords u words).vecTaken u es) := by
  let words := (u.run.queue.take k).zipIdx.map fun e => e.1.flipped (flips.any fun i => i.val == e.2)
  have htaken : es = (words.map QWord.taken).flatMap QWord.elems := by
    rw [hes, List.map_map]
    rfl
  subst hk
  refine ⟨words, ?_⟩
  change execVTqr ⟨c, flips⟩ s = _
  rw [execVTqr, State.issueVec_next h, htaken]
  dsimp only
  rw [if_neg (Nat.not_lt.mpr hroom)]
  rfl

theorem State.tookWords_onlyCores (s : State) (u : Vop) (words : List QWord) : OnlyCores s (s.tookWords u words) := by
  unfold State.tookWords
  extract_lets bad x
  have hx : OnlyCores s x := (s.putTile_onlyCores ..).trans (State.count_onlyCores ..)
  split
  · exact hx
  · refine hx.trans ?_
    rw [State.noteFault_rest]
    rfl

theorem State.vecTaken_holds (s : State) (u : Vop) (es : List Elem) :
    sameMemory s (s.vecTaken u es) ∧ ∀ e ∈ u.picked, ((s.vecTaken u es).core u.core).tile.vec.elem (vVd u.w) e =
      ((es.getD e (0, false)).1, (es.getD e (0, false)).2 || u.maskBad) := by
  obtain ⟨helem, -, -, -, -, -, -, hmem, -⟩ := s.vecWrite_done { u with run := u.unqueued }
    (fun e => let x := es.getD e (0, false); ((x.1, 0), x.2)) 0 false u.picked_lt
  obtain ⟨⟨hengine, -⟩, hcores⟩ := (s.vecWrite { u with run := u.unqueued } u.picked
    (fun e => let x := es.getD e (0, false); ((x.1, 0), x.2)) 0).afterQueue_holds u
  refine ⟨sameMemory.trans hmem hcores.memory, fun e he => ?_⟩
  rw [State.vecTaken, hengine]
  exact helem e he

/-- The words that TQDROP discards: to the end mark of the packet, or all that stand in the queue. -/
def TileRun.dropCount (r : TileRun) : Nat :=
  match r.queue.findIdx? (·.endMark) with
  | some i => i + 1
  | none => r.queue.length

/-- The run that TQDROP leaves: a packet whose end is still to come is a drop in progress. -/
def TileRun.dropped (r : TileRun) : TileRun :=
  { r with queue := r.queue.drop r.dropCount, drops := r.drops + (if (r.queue.findIdx? (·.endMark)).isNone ∧ !r.closed then 1 else 0) }

theorem TileRun.dropCount_unended (h : ∀ w ∈ r.queue, w.endMark = false) : r.dropCount = r.queue.length := by
  rw [TileRun.dropCount, List.findIdx?_eq_none_iff.mpr h]

theorem TileRun.dropCount_ended {l m : List QWord} {w : QWord} (h : r.queue = l ++ w :: m) (hl : ∀ x ∈ l, x.endMark = false)
    (hw : w.endMark = true) : r.dropCount = l.length + 1 := by
  have hfirst : r.queue.findIdx? (·.endMark) = some l.length := by
    rw [h, List.findIdx?_append, List.findIdx?_eq_none_iff.mpr hl]
    simp [List.findIdx?_cons, hw]
  rw [TileRun.dropCount, hfirst]

theorem TileRun.dropped_drops_le (r : TileRun) : r.dropped.drops ≤ r.drops + 1 := by
  unfold TileRun.dropped
  dsimp only
  split <;> omega

theorem TileRun.dropped_drops_closed (h : r.closed = true) : r.dropped.drops = r.drops := by
  simp [TileRun.dropped, h]

/-- The state once TQDROP has discarded its words and gone on. -/
def State.vecDropped (s : State) (u : Vop) : State :=
  ((s.putTile u.core u.run.dropped).count 0x7024 (u.core + 1) u.run.dropCount).putVec { u with run := u.run.dropped } (u.run.vec.advance 1) 0

theorem exec_vTqdrop {c : CoreNo} (h : s.vecAt c.val 0x1A = some u) : exec (.vTqdrop c) s = .next ((s.vecDropped u).afterQueue u) :=
  State.issueVec_next h _

theorem State.vecDropped_tile (s : State) (u : Vop) : ((s.vecDropped u).core u.core).tile =
    { u.run.dropped with vec := u.run.vec.advance 1, flags := u.run.flags ||| 0 } := by
  refine (State.putVec_tile _ { u with run := u.run.dropped } ..).trans ?_
  rw [State.core_count, State.putTile_tile]
  rfl

/-- The words discarded are counted. -/
theorem State.vecDropped_entry (s : State) (u : Vop) :
    s.entry 0x7024 (u.core + 1) + u.run.dropCount ≤ (s.vecDropped u).entry 0x7024 (u.core + 1) :=
  calc s.entry 0x7024 (u.core + 1) + u.run.dropCount
    _ = ((s.putTile u.core u.run.dropped).count 0x7024 (u.core + 1) u.run.dropCount).entry 0x7024 (u.core + 1) :=
        ((s.putTile u.core u.run.dropped).dictGet_count 0x7024 (u.core + 1) u.run.dropCount).symm
    _ ≤ (s.vecDropped u).entry 0x7024 (u.core + 1) := State.entry_le_putVec ..

/-- TQDROP goes on with its words discarded and counted, and no more drops than it asked for. -/
theorem State.vecDrop_holds (s : State) (u : Vop) :
    let t := (s.vecDropped u).afterQueue u
    ((t.core u.core).tile.vec = u.run.vec.advance 1 ∧ (t.core u.core).tile.drops ≤ u.run.dropped.drops) ∧ (sameMemory s t ∧ t.cmds = s.cmds) ∧
      t.entry 0x7024 (u.core + 1) ≥ s.entry 0x7024 (u.core + 1) + u.run.dropCount := by
  have hdropped : OnlyCores s (s.vecDropped u) :=
    ((s.putTile_onlyCores u.core u.run.dropped).trans (State.count_onlyCores ..)).trans (State.putVec_onlyCores ..)
  obtain ⟨⟨hvec, hdrops, -⟩, hcores⟩ := (s.vecDropped u).afterQueue_holds u
  rw [State.vecDropped_tile] at hvec hdrops
  have honly := hdropped.trans hcores
  exact ⟨⟨hvec, hdrops⟩, ⟨honly.memory, honly.cmds⟩, (s.vecDropped_entry u).trans (State.entry_le_afterQueue ..)⟩

end

/-- Settles O39: what an instruction leaves of its engine by `State.putVec_tile`, END by `State.vecEnd_holds`, and the tile queue by
`State.vecTaken_holds`, `State.underflow_holds` and `State.vecDrop_holds`. -/
theorem vectorSequence : Obligations.VectorSequence := by
  unfold Obligations.VectorSequence
  refine ⟨fun s c u => ⟨fun h => answers_of_vec h rfl ?loop, fun h => answers_of_vec h rfl ?movk, fun h => answers_of_vec h rfl ?xset,
    fun h => answers_of_vec h rfl ?xadd, fun h => answers_of_exec (exec_vEnd h) ?vend⟩,
    fun s c u k flips es hk hes => ⟨fun h hroom => ?take, fun h hshort hopen => answers_of_vec h rfl ?takeWaits,
    fun h hshort hclosed => answers_of_vec h rfl ?takeStops, fun h hready => answers_of_vec h rfl ?goes,
    fun h hfew hopen => answers_of_vec h rfl ?waits, fun h hfew hclosed hempty => answers_of_vec h rfl ?stops,
    fun l h hqueue hno hclosed => answers_of_exec (exec_vTqdrop h) ?dropClosed, fun l h hqueue hno hopen => answers_of_exec (exec_vTqdrop h) ?dropOpen,
    fun l w m h hqueue hno hw hclosed => answers_of_exec (exec_vTqdrop h) ?dropPacket⟩⟩
  case loop =>
    dsimp only
    split
    · next hskip => exact ⟨(s.putVec_onlyCores ..).memory, (s.putVec_onlyCores ..).cmds, fun _ => by rw [State.putVec_tile],
        fun hbody => absurd hskip hbody⟩
    · next hbody => exact ⟨(s.putVec_onlyCores ..).memory, (s.putVec_onlyCores ..).cmds, fun hskip => absurd hskip hbody,
        fun _ => by rw [State.putVec_tile]⟩
  case movk => exact ⟨(s.putVec_onlyCores ..).memory, (s.putVec_onlyCores ..).cmds, by rw [State.putVec_tile]⟩
  case xset | xadd =>
    refine ⟨(s.putVec_onlyCores ..).memory, (s.putVec_onlyCores ..).cmds, ?_⟩
    rw [State.putVec_tile]
    exact ⟨tabGet_set_same .., rfl, fun k hk => tabGet_set_other _ _ _ hk⟩
  case vend => exact s.vecEnd_holds u
  case take =>
    obtain ⟨words, hexec⟩ := exec_vTqr h hk hroom hes
    obtain ⟨hmem, helem⟩ := (s.tookWords u words).vecTaken_holds u es
    exact answers_of_exec hexec ⟨sameMemory.trans (s.tookWords_onlyCores ..).memory hmem, helem⟩
  case takeWaits => simp [← hk, hshort, hopen]
  case takeStops =>
    simp only [← hk, hshort, hclosed, if_true]
    exact s.underflow_holds u
  case goes =>
    obtain ⟨-, hrun, -⟩ := State.vecAt_eq_some h
    simp only [hready, if_true]
    refine ⟨?_, ?_, (s.putVec_onlyCores ..).memory, (s.putVec_onlyCores ..).cmds⟩ <;> rw [State.putVec_tile]
    rw [hrun]
  case waits => simp [Nat.not_le.mpr hfew, hopen]
  case stops =>
    simp only [Nat.not_le.mpr hfew, hclosed, hempty, if_false]
    exact s.underflow_holds u
  case dropClosed =>
    obtain ⟨⟨hvec, hdrops⟩, hsame, -⟩ := s.vecDrop_holds u
    exact ⟨hvec, hdrops.trans (TileRun.dropped_drops_closed hclosed).le, hsame⟩
  case dropOpen =>
    obtain ⟨⟨hvec, hdrops⟩, ⟨hmem, hcmds⟩, hcount⟩ := s.vecDrop_holds u
    subst hqueue
    rw [TileRun.dropCount_unended hno] at hcount
    exact ⟨hvec, hdrops.trans u.run.dropped_drops_le, hmem, hcmds, hcount⟩
  case dropPacket =>
    obtain ⟨⟨hvec, -⟩, ⟨hmem, hcmds⟩, hcount⟩ := s.vecDrop_holds u
    rw [TileRun.dropCount_ended hqueue hno hw] at hcount
    exact ⟨hvec, hmem, hcmds, hcount⟩

end Sys2Proof.Machine

/-!
# Vector loads and stores

R301, R304 to R307, R325, R382, R383, R391, R398, R413. The offsets within 64 bytes lie side by side in one bank, so a store changes the bytes
of its own offsets and no other (`State.vecStores_stored`), whether it stops or not.
-/
namespace Sys2Proof.Machine

open Sys2Proof Sys2Proof.Safety

section
variable {k x n X N : Nat} {e : Nat × Nat}

/-! ## Pieces of a range -/

/-- A piece lies in its range and in one block. -/
theorem pieces_within (h : e ∈ pieces k x n) : x ≤ e.1 ∧ e.1 + e.2 ≤ x + n ∧ e.1 % 2 ^ k + e.2 ≤ 2 ^ k := by
  have hpos : 0 < 2 ^ k := Nat.two_pow_pos k
  unfold pieces at h
  split at h
  · cases h
  · next hn =>
    obtain ⟨i, hi, rfl⟩ := List.mem_map.mp h
    have hi := List.mem_range.mp hi
    dsimp only
    generalize 2 ^ k = K at *
    have hmod := Nat.mod_add_div' x K
    have hnext : (x / K + i + 1) * K = (x / K + i) * K + K := Nat.succ_mul ..
    have hleft := Nat.min_le_left (x + n) ((x / K + i + 1) * K)
    have hright := Nat.min_le_right (x + n) ((x / K + i + 1) * K)
    have hlast : (x / K + i) * K ≤ x + n - 1 := by
      have hmono := Nat.div_le_div_right (c := K) (show x ≤ x + n - 1 by omega)
      exact (Nat.le_div_iff_mul_le hpos).mp (by omega)
    split
    · next hi0 =>
      subst hi0
      have hlt := Nat.mod_lt x hpos
      simp only [Nat.add_zero] at *
      omega
    · next hi0 =>
      have hlt := Nat.mod_lt x hpos
      have hfirst : (x / K + 1) * K ≤ (x / K + i) * K := Nat.mul_le_mul_right K (by omega)
      rw [Nat.succ_mul] at hfirst
      rw [Nat.mul_mod_left]
      omega

/-- A range within one block is one piece. -/
theorem pieces_one (hn : 0 < n) (h : x % 2 ^ k + n ≤ 2 ^ k) : pieces k x n = [(x, n)] := by
  have hpos : 0 < 2 ^ k := Nat.two_pow_pos k
  have hsame : (x + n - 1) / 2 ^ k = x / 2 ^ k := by
    generalize 2 ^ k = K at *
    have hmod := Nat.mod_add_div' x K
    refine Nat.div_eq_of_lt_le ?_ ?_
    · omega
    · rw [Nat.add_mul, Nat.one_mul]
      omega
  have hhi : x + n ≤ (x / 2 ^ k + 1) * 2 ^ k := by
    have hmod := Nat.mod_add_div' x (2 ^ k)
    rw [Nat.add_mul, Nat.one_mul]
    omega
  unfold pieces
  rw [if_neg (by omega), hsame]
  simp [Nat.min_eq_left hhi]

/-- Offsets within 64 bytes lie side by side in one bank (R301). -/
theorem scratchLoc_add {i : Nat} (h : x % 64 + i < 64) : scratchLoc (x + i) = ((scratchLoc x).1, (scratchLoc x).2 + i) := by
  have hblock : (x + i) / 64 = x / 64 := by omega
  have hpart : (x + i) / 2 ^ 24 = x / 2 ^ 24 := by omega
  have hmod : (x + i) % 64 = x % 64 + i := by omega
  simp only [scratchLoc, bits, hpart, hmod, show (2 : Nat) ^ 6 = 64 from rfl, hblock, Nat.add_assoc]

end

section
variable {s t v : State} {c x n X N slot : Nat} {foot : BitVec 80} {u : Vop}

/-! ## Bytes stored -/

/-- t differs from s at most in what ScratchNoted says and in the scratch bytes of offsets x to x + n - 1 of core c. -/
def StoredWithin (c x n : Nat) (s t : State) : Prop :=
  ∃ m, ScratchNoted { s with scratch := m } t ∧
    ∀ a, (∀ y, x ≤ y → y < x + n → a ≠ scratchKey c (scratchLoc y).1 (scratchLoc y).2) → memByte m a = memByte s.scratch a

theorem StoredWithin.refl (c x n : Nat) (s : State) : StoredWithin c x n s s := ⟨s.scratch, .refl s, fun _ _ => rfl⟩

theorem ScratchNoted.stored (h : ScratchNoted s t) : StoredWithin c x n s t := ⟨s.scratch, h, fun _ _ => rfl⟩

theorem StoredWithin.trans (h : StoredWithin c x n s t) (k : StoredWithin c x n t v) : StoredWithin c x n s v := by
  obtain ⟨m, ⟨_, _, _, _, _, _, rfl⟩, hm⟩ := h
  obtain ⟨m', ⟨_, _, _, _, _, _, rfl⟩, hm'⟩ := k
  exact ⟨m', ⟨_, _, _, _, _, _, rfl⟩, fun a ha => (hm' a ha).trans (hm a ha)⟩

theorem StoredWithin.mono (h : StoredWithin c x n s t) (hlo : X ≤ x) (hhi : x + n ≤ X + N) : StoredWithin c X N s t := by
  obtain ⟨m, hnoted, hm⟩ := h
  exact ⟨m, hnoted, fun a ha => hm a fun y hy hyn => ha y (by omega) (by omega)⟩

theorem StoredWithin.rest (h : StoredWithin c x n s t) : t.cores = s.cores ∧ t.cmds = s.cmds ∧ t.hbm = s.hbm ∧ t.cxl = s.cxl := by
  obtain ⟨m, ⟨_, _, _, _, _, _, rfl⟩, -⟩ := h
  exact ⟨rfl, rfl, rfl, rfl⟩

theorem StoredWithin.frame (h : StoredWithin c x n s t) (a : Nat)
    (ha : ∀ y, x ≤ y → y < x + n → a ≠ scratchKey c (scratchLoc y).1 (scratchLoc y).2) : memByte t.scratch a = memByte s.scratch a := by
  obtain ⟨m, hnoted, hm⟩ := h
  obtain ⟨-, -, hscratch, -⟩ := hnoted.rest
  rw [hscratch]
  exact hm a ha

/-- A word written, of the bytes of some offsets of one 64-byte block. -/
theorem State.bankWriteWord_stored {p : Nat} {bs : List TByte} (hblock : x % 64 + n ≤ 64) (hlo : (scratchLoc x).2 ≤ p)
    (hhi : p + bs.length ≤ (scratchLoc x).2 + n) : StoredWithin c x n s (s.bankWriteWord c (scratchLoc x).1 p bs) := by
  refine ⟨_, State.setWordPoison_noted _ c (scratchLoc x).1 (p / 16) (bs.any (·.2)), fun a ha => memByte_write_other _ _ _ ?_⟩
  rw [List.length_map]
  by_contra hin
  have hloc : scratchLoc (x + (a - scratchKey c (scratchLoc x).1 (scratchLoc x).2)) =
      ((scratchLoc x).1, (scratchLoc x).2 + (a - scratchKey c (scratchLoc x).1 (scratchLoc x).2)) :=
    scratchLoc_add (by unfold scratchKey at *; omega)
  refine ha (x + (a - scratchKey c (scratchLoc x).1 (scratchLoc x).2)) (by omega) (by unfold scratchKey at *; omega) ?_
  rw [hloc]
  unfold scratchKey at *
  omega

theorem State.bankWrite_stored {l : List (Nat × Nat)} {bs : List TByte} (hblock : x % 64 + n ≤ 64)
    (hl : ∀ e ∈ l, (scratchLoc x).2 ≤ e.1 ∧ e.1 + e.2 ≤ (scratchLoc x).2 + n) :
    StoredWithin c x n s (s.bankWrite c (scratchLoc x).1 l bs) := by
  induction l generalizing s bs with
  | nil => exact .refl ..
  | cons e l ih =>
    obtain ⟨hlo, hhi⟩ := hl e List.mem_cons_self
    have htake : (bs.take e.2).length ≤ e.2 := List.length_take_le ..
    exact (State.bankWriteWord_stored hblock hlo (by omega)).trans (ih fun e he => hl e (List.mem_cons_of_mem _ he))

theorem State.offsetWrite_stored {l : List (Nat × Nat)} {bs : List TByte}
    (hl : ∀ e ∈ l, X ≤ e.1 ∧ e.1 + e.2 ≤ X + N ∧ e.1 % 2 ^ 6 + e.2 ≤ 2 ^ 6) :
    StoredWithin c X N s (s.offsetWrite slot c foot l bs).1 := by
  induction l generalizing s bs with
  | nil => exact .refl ..
  | cons e l ih =>
    obtain ⟨hlo, hhi, hblock⟩ := hl e List.mem_cons_self
    unfold State.offsetWrite
    extract_lets loc
    split
    · exact .refl ..
    · split
      · exact .refl ..
      · have hword : StoredWithin c e.1 e.2 s (s.bankWrite c loc.1 (pieces 4 loc.2 e.2) (bs.take e.2)) :=
          State.bankWrite_stored hblock fun w hw => ⟨(pieces_within hw).1, (pieces_within hw).2.1⟩
        exact (hword.mono hlo hhi).trans (ih fun e he => hl e (List.mem_cons_of_mem _ he))

theorem State.swrite_stored (s : State) (slot c : Nat) (foot : BitVec 80) (x : Nat) (bs : List TByte) :
    StoredWithin c x bs.length s (s.swrite slot c foot x bs).1 :=
  State.offsetWrite_stored fun _ he => pieces_within he

/-- Bytes of one word written and read back. -/
theorem State.swrite_read {bs : List TByte} (hn : 0 < bs.length) (hword : x % 2 ^ 4 + bs.length ≤ 2 ^ 4)
    (h : s.swrite slot c foot x bs = (t, none)) :
    memRead t.scratch (scratchKey c (scratchLoc x).1 (scratchLoc x).2) bs.length = bs.map (·.1) := by
  have hpos : (scratchLoc x).2 % 2 ^ 4 = x % 2 ^ 4 := by
    simp only [scratchLoc]
    omega
  unfold State.swrite at h
  rw [pieces_one hn (by omega), State.offsetWrite] at h
  split at h
  · cases h
  · split at h
    · cases h
    · rw [pieces_one hn (by omega), List.take_length] at h
      simp only [State.bankWrite, List.take_length, State.offsetWrite] at h
      obtain ⟨rfl, -⟩ := Prod.mk.inj h
      rw [(State.bankWriteWord_holds ..).2]
      have hread := memRead_memWrite s.scratch (scratchKey c (scratchLoc x).1 (scratchLoc x).2) (bs.map (·.1))
      rwa [List.length_map] at hread

/-- Stores made in turn change the bytes of their own offsets alone, whether one of them stops or not. -/
theorem State.vecStores_stored {l : List (Nat × List TByte)} (hl : ∀ e ∈ l, X ≤ e.1 ∧ e.1 + e.2.length ≤ X + N) :
    StoredWithin u.core X N s (s.vecStores u l).1 := by
  induction l generalizing s with
  | nil => exact .refl ..
  | cons e l ih =>
    obtain ⟨hlo, hhi⟩ := hl e List.mem_cons_self
    have hfirst := (s.swrite_stored u.slot u.core u.run.foot e.1 e.2).mono hlo hhi
    unfold State.vecStores
    split
    · next s1 _ hw => rwa [hw] at hfirst
    · next s1 hw =>
      rw [hw] at hfirst
      exact hfirst.trans (ih fun e he => hl e (List.mem_cons_of_mem _ he))

/-- The stores of some elements lie in the range of their words. -/
theorem storePieces_within {size : Nat} {l : List (Nat × Nat)} {es : List (Option (List TByte))}
    (hl : ∀ e ∈ l, X ≤ e.1 ∧ e.1 + e.2 ≤ X + N) (hes : ∀ b, some b ∈ es → b.length = size) :
    ∀ e ∈ storePieces size l es, X ≤ e.1 ∧ e.1 + e.2.length ≤ X + N := by
  induction l generalizing es with
  | nil => simp [storePieces]
  | cons a l ih =>
    obtain ⟨hlo, hhi⟩ := hl a List.mem_cons_self
    have hrest := ih (es := es.drop (a.2 / size)) (fun e he => hl e (List.mem_cons_of_mem _ he)) fun b hb => hes b (List.mem_of_mem_drop hb)
    have hroom : a.2 / size * size ≤ a.2 := Nat.div_mul_le_self ..
    have hmem : ∀ b, some b ∈ es.take (a.2 / size) → b.length = size := fun b hb => hes b (List.mem_of_mem_take hb)
    unfold storePieces
    extract_lets here rest bad
    have htake : here.length ≤ a.2 / size := List.length_take_le ..
    intro e he
    split at he
    · rcases List.mem_cons.mp he with rfl | he
      · refine ⟨hlo, ?_⟩
        have hlen : (here.flatMap fun e => e.getD []).length ≤ here.length * size := by
          rw [List.length_flatMap, ← smul_eq_mul, ← List.length_map (as := here) (fun e => (e.getD []).length)]
          refine List.sum_le_card_nsmul _ _ fun k hk => ?_
          obtain ⟨o, ho, rfl⟩ := List.mem_map.mp hk
          cases o with
          | none => exact Nat.zero_le _
          | some b => exact (hmem b ho).le
        have := Nat.mul_le_mul_right size htake
        dsimp only
        omega
      · exact hrest e he
    · rcases List.mem_append.mp he with he | he
      · obtain ⟨⟨o, i⟩, hi, ho⟩ := List.mem_filterMap.mp he
        obtain ⟨b, rfl, rfl⟩ := Option.map_eq_some_iff.mp ho
        obtain ⟨-, hlt, hb⟩ := List.mem_zipIdx hi
        have hsize : b.length = size := hmem b (hb ▸ List.getElem_mem _)
        have : (i + 1) * size ≤ a.2 / size * size := Nat.mul_le_mul_right size (by omega)
        rw [Nat.add_mul, Nat.one_mul, Nat.mul_comm] at this
        dsimp only
        rw [List.length_map]
        omega
      · exact hrest e he

end

section
variable {s t s1 : State} {u : Vop} {d : Cmd} {size n : Nat} {g : Nat → List TByte} {fx : Nat → Flags} {errs : EccReads}

/-- What the index register of a memory instruction holds after it (R382). -/
def VecEngine.xAfter (v : VecEngine) (w : Nat) : W32 := tabGet 0 v.x (bits w 15 4) + BitVec.ofInt 32 (64 * signed 15 (bits w 0 15))

/-- A store moves its index register, whatever poison it notes. -/
theorem VecEngine.pastStore_x (v : VecEngine) (bad : Bool) (x : Option Nat) (w : Nat) :
    tabGet 0 ((((v.metPoison bad).storedPoison x).step w).advance 1).x (bits w 15 4) = v.xAfter w := by
  have hstored : ((v.metPoison bad).storedPoison x).x = v.x := by
    obtain ⟨p, hmet⟩ := v.metPoison_rest bad
    rw [hmet, VecEngine.storedPoison]
    split <;> rfl
  rw [VecEngine.xAfter, ← hstored]
  exact tabGet_set_same ..

theorem OnlyCores.mems (h : OnlyCores s t) : t.scratch = s.scratch ∧ t.hbm = s.hbm ∧ t.cxl = s.cxl := by
  rw [h]
  exact ⟨rfl, rfl, rfl⟩

/-! ## A memory instruction that stops (R391, R398) -/

/-- The command of a memory instruction that stops ends; the instruction is counted and its flags kept. -/
theorem State.vecStop_holds (s : State) (u : Vop) (fl : Flags) (e : Stop) (hcmd : s.cmd u.id = some d) (hrun : d.phase = .running) :
    let t := s.vecStop u fl e
    endedAs t u.id e.1 e.2 ∧ (t.scratch = s.scratch ∧ t.hbm = s.hbm ∧ t.cxl = s.cxl) ∧
      (t.core u.core).tile = { (s.core u.core).tile with flags := (s.core u.core).tile.flags ||| fl } ∧
      t.entry 0x7020 (u.core + 1) = s.entry 0x7020 (u.core + 1) + 1 := by
  intro t
  let r : TileRun := { (s.core u.core).tile with flags := (s.core u.core).tile.flags ||| fl }
  let x := (s.putTile u.core r).count 0x7020 (u.core + 1) 1
  have hx : OnlyCores s x := (s.putTile_onlyCores u.core r).trans (State.count_onlyCores ..)
  have hcmdx : x.cmd u.id = some d := by rw [State.cmd, hx.cmds, ← State.cmd, hcmd]
  have hend : onlyCmds x t := x.endCmd_onlyCmds u.id e.1 e.2
  refine ⟨State.endCmd_ends _ _ hcmdx (not_ended_of_running hrun), ?_, ?_, ?_⟩
  · rw [hend]
    exact hx.mems
  · rw [onlyCmds_core hend]
    simp only [x, State.core_count, State.putTile_tile]
    rfl
  · rw [hend]
    exact (s.putTile u.core r).dictGet_count ..

/-- Beyond the scratch the command stops with VECTOR_RANGE and nothing else changes. -/
theorem State.vecStop_range (s : State) (u : Vop) (hcmd : s.cmd u.id = some d) (hrun : d.phase = .running) :
    let t := s.vecStop u 0 (0x020D, u.rangeDetail)
    endedAs t u.id 0x020D u.rangeDetail ∧ sameMemory s t ∧ (t.core u.core).tile = (s.core u.core).tile ∧
      t.entry 0x7020 (u.core + 1) = s.entry 0x7020 (u.core + 1) + 1 := by
  obtain ⟨hends, ⟨hscratch, hhbm, hcxl⟩, htile, hcount⟩ := s.vecStop_holds u 0 (0x020D, u.rangeDetail) hcmd hrun
  have hflags : (s.core u.core).tile.flags ||| 0 = (s.core u.core).tile.flags := BitVec.or_zero
  rw [hflags] at htile
  exact ⟨hends, sameMemory_of_eq hhbm hcxl hscratch, htile, hcount⟩

/-! ## Loads -/

/-- A load fills the elements that its mask selects, and moves its index register. -/
theorem State.vecLoaded_holds (s : State) (u : Vop) (f : Nat → Elem) :
    let t := s.vecLoaded u f
    sameMemory s t ∧ tabGet 0 (t.core u.core).tile.vec.x (bits u.w 15 4) = u.run.vec.xAfter u.w ∧
      ∀ e ∈ u.picked, (t.core u.core).tile.vec.elem (vVd u.w) e = ((f e).1, (f e).2 || u.maskBad) := by
  unfold State.vecLoaded
  extract_lets bad out v t
  have hv : v = u.run.vec.setElems (vVd u.w) u.picked fun e => ((f e).1, (f e).2 || u.maskBad) := List.foldl_map
  obtain ⟨p, hmet⟩ := v.metPoison_rest (out.any fun o => o.2.2)
  refine ⟨(s.putVec_onlyCores ..).memory, ?_, fun e he => ?_⟩ <;> dsimp only [t] <;> rw [State.putVec_tile, hmet, hv]
  · rw [VecEngine.setElems_eq]
    exact tabGet_set_same ..
  · exact VecEngine.elem_setElems_same _ he

/-- A load whose bytes can all be read goes on with them, a poisoned one noted. -/
theorem State.vecLoad_reads {bs : List TByte} (hlimit : u.x + n ≤ scratchLimit)
    (hread : (s.scratchErrs u.slot u.core errs).sread u.slot u.core u.x n = .ok bs) (f : State → Vop → List TByte → State) :
    s.vecLoad u errs n f = f (s.scratchErrs u.slot u.core errs)
      { u with run := { u.run with vec := u.run.vec.metPoison (bs.any (·.2)) } } bs := by
  unfold State.vecLoad
  dsimp only
  rw [if_neg (Nat.not_lt.mpr hlimit), hread]

/-- It fills its elements and moves its index register. -/
theorem State.vecLoad_holds {bs : List TByte} (hlimit : u.x + n ≤ scratchLimit)
    (hread : (s.scratchErrs u.slot u.core errs).sread u.slot u.core u.x n = .ok bs) (f : List TByte → Nat → Elem) :
    let t := s.vecLoad u errs n fun s1 u bs => s1.vecLoaded u (f bs)
    sameMemory s t ∧ tabGet 0 (t.core u.core).tile.vec.x (bits u.w 15 4) = u.run.vec.xAfter u.w ∧
      ∀ e ∈ u.picked, (t.core u.core).tile.vec.elem (vVd u.w) e = ((f bs e).1, (f bs e).2 || u.maskBad) := by
  obtain ⟨-, -, -, hnoted⟩ := (s.scratchErrs_noted u.slot u.core errs).rest
  obtain ⟨p, hmet⟩ := u.run.vec.metPoison_rest (bs.any (·.2))
  rw [State.vecLoad_reads hlimit hread, hmet]
  obtain ⟨hmem, hx, helem⟩ := (s.scratchErrs u.slot u.core errs).vecLoaded_holds
    { u with run := { u.run with vec := { u.run.vec with poisonInstr := p } } } (f bs)
  exact ⟨sameMemory.trans hnoted hmem, hx, helem⟩

/-! ## Stores -/

theorem Elem.bytes_length (e : Elem) : e.bytes.length = 4 := by
  rw [Elem.bytes, List.length_map, bytesOfNat_length]

theorem bytes16_length (e : W16 × Bool) : (bytes16 e).length = 2 := by
  rw [bytes16, List.length_map, bytesOfNat_length]

/-- The words of a store of elements of size bytes; elements that straddle words stand alone. -/
def Vop.words (u : Vop) (size : Nat) : List (Nat × Nat) :=
  if u.x % size = 0 then pieces 4 u.x (size * vCount u.w) else (List.range (vCount u.w)).map fun i => (u.x + size * i, size)

/-- The stores of an instruction whose element e is stored as the bytes g e. -/
def Vop.stores (u : Vop) (size : Nat) (g : Nat → List TByte) : List (Nat × List TByte) :=
  storePieces size (u.words size) ((List.range (vCount u.w)).map fun e =>
    if u.sel e then some ((g e).map fun b => (b.1, b.2 || u.maskBad)) else none)

theorem Vop.words_within (u : Vop) (size : Nat) : ∀ e ∈ u.words size, u.x ≤ e.1 ∧ e.1 + e.2 ≤ u.x + size * vCount u.w := by
  intro e he
  unfold Vop.words at he
  split at he
  · obtain ⟨hlo, hhi, -⟩ := pieces_within he
    exact ⟨hlo, hhi⟩
  · obtain ⟨i, hi, rfl⟩ := List.mem_map.mp he
    have hle : size * (i + 1) ≤ size * vCount u.w := Nat.mul_le_mul_left size (List.mem_range.mp hi)
    rw [Nat.mul_add, Nat.mul_one] at hle
    dsimp only
    omega

/-- The stores of an instruction lie in the range of its elements. -/
theorem Vop.stores_within (hg : ∀ e, (g e).length = size) :
    ∀ e ∈ u.stores size g, u.x ≤ e.1 ∧ e.1 + e.2.length ≤ u.x + size * vCount u.w := by
  refine storePieces_within (u.words_within size) fun b hb => ?_
  obtain ⟨e, -, he⟩ := List.mem_map.mp hb
  split at he
  · obtain rfl := Option.some.inj he
    rw [List.length_map, hg]
  · cases he

/-- One element, stored in its place of a word, is one store. -/
theorem Vop.stores_one (hsize : size = 4 ∨ size = 2) (hcount : vCount u.w = 1) (hsel : u.sel 0 = true) (hx : u.x % size = 0) :
    u.stores size g = [(u.x, (g 0).map fun b => (b.1, b.2 || u.maskBad))] := by
  have hword : pieces 4 u.x size = [(u.x, size)] := by
    refine pieces_one ?_ ?_ <;> rcases hsize with rfl | rfl <;> omega
  have hself : size / size = 1 := by rcases hsize with rfl | rfl <;> rfl
  simp [Vop.stores, Vop.words, hx, hcount, hword, storePieces, hself, hsel]

/-- The stores of an instruction, with what the check bits of its words show, change the bytes of its own offsets alone. -/
theorem State.vecStores_ownOffsets (s : State) (u : Vop) (errs : EccReads) (hg : ∀ e, (g e).length = size) :
    StoredWithin u.core u.x (size * vCount u.w) s ((s.scratchErrs u.slot u.core errs).vecStores u (u.stores size g)).1 :=
  (s.scratchErrs_noted u.slot u.core errs).stored.trans (State.vecStores_stored (Vop.stores_within hg))

/-- One element comes back as it was stored. -/
theorem State.vecStores_one (hg : ∀ e, (g e).length = size) (hsize : size = 4 ∨ size = 2) (hcount : vCount u.w = 1) (hsel : u.sel 0 = true)
    (hx : u.x % size = 0)
    (h : (s.scratchErrs u.slot u.core errs).vecStores u (u.stores size g) = (s1, none)) :
    memRead s1.scratch (scratchKey u.core (scratchLoc u.x).1 (scratchLoc u.x).2) size = (g 0).map (·.1) := by
  have hlen : ((g 0).map fun b => (b.1, b.2 || u.maskBad)).length = size := by rw [List.length_map, hg]
  rw [Vop.stores_one hsize hcount hsel hx, State.vecStores] at h
  split at h
  · cases h
  · next s2 hw =>
    obtain ⟨rfl, -⟩ := Prod.mk.inj h
    have hread := State.swrite_read (by rw [hlen]; omega) (by rw [hlen]; rcases hsize with rfl | rfl <;> omega) hw
    rwa [hlen, List.map_map] at hread

variable (hlimit : u.x + size * vCount u.w ≤ scratchLimit)
include hlimit

/-- A store that stops keeps the flags of what it wrote. -/
theorem State.vecStore_stops {x : Nat} {e : Stop}
    (h : (s.scratchErrs u.slot u.core errs).vecStores u (u.stores size g) = (s1, some (x, e))) :
    s.vecStore u errs size g fx = (s1.count 0x7033 (u.core + 1) (u.storeFlags fx fun i => decide (u.x + size * i < x)).2).vecStop u
      (u.storeFlags fx fun i => decide (u.x + size * i < x)).1 e := by
  unfold State.vecStore
  dsimp only
  rw [if_neg (Nat.not_lt.mpr hlimit)]
  unfold Vop.stores Vop.words at h
  rw [h]

/-- A store whose words can all be written goes on with its index register moved. -/
theorem State.vecStore_goes (h : (s.scratchErrs u.slot u.core errs).vecStores u (u.stores size g) = (s1, none)) :
    ∃ v fl k, s.vecStore u errs size g fx = (s1.count 0x7033 (u.core + 1) k).putVec u v fl ∧
      tabGet 0 v.x (bits u.w 15 4) = u.run.vec.xAfter u.w := by
  unfold State.vecStore
  dsimp only
  rw [if_neg (Nat.not_lt.mpr hlimit)]
  unfold Vop.stores Vop.words at h
  rw [h]
  exact ⟨_, _, _, rfl, VecEngine.pastStore_x ..⟩

end

section
variable {s s1 : State} {u : Vop} {d : Cmd} {size : Nat} {g : Nat → List TByte} {fx : Nat → Flags} {errs : EccReads}
  (hlimit : u.x + size * vCount u.w ≤ scratchLimit) (hg : ∀ e, (g e).length = size)
include hlimit hg

/-- A store that stops ends its command and keeps the flags of what it wrote. -/
theorem State.vecStore_stops_holds {x : Nat} {e : Stop} (hcmd : s.cmd u.id = some d) (hrun : d.phase = .running)
    (h : (s.scratchErrs u.slot u.core errs).vecStores u (u.stores size g) = (s1, some (x, e))) :
    let t := s.vecStore u errs size g fx
    endedAs t u.id e.1 e.2 ∧ t.scratch = s1.scratch ∧ t.hbm = s.hbm ∧ t.cxl = s.cxl ∧
      (t.core u.core).tile.flags = (s.core u.core).tile.flags ||| (u.storeFlags fx fun i => decide (u.x + size * i < x)).1 := by
  have hstored := s.vecStores_ownOffsets u errs hg
  rw [h] at hstored
  obtain ⟨hcores, hcmds, hhbm, hcxl⟩ := hstored.rest
  have hcount := s1.count_onlyCores 0x7033 (u.core + 1) (u.storeFlags fx fun i => decide (u.x + size * i < x)).2
  intro t
  have ht : t = _ := State.vecStore_stops (fx := fx) hlimit h
  obtain ⟨hends, ⟨hscratch, hhbm', hcxl'⟩, htile, -⟩ := State.vecStop_holds _ u (u.storeFlags fx fun i => decide (u.x + size * i < x)).1 e
    (show (s1.count 0x7033 (u.core + 1) _).cmd u.id = some d by rw [State.cmd, hcount.cmds, hcmds, ← State.cmd, hcmd]) hrun
  obtain ⟨kscratch, khbm, kcxl⟩ := hcount.mems
  rw [State.core_count, State.core_congr hcores] at htile
  rw [ht]
  exact ⟨hends, hscratch.trans kscratch, hhbm'.trans (khbm.trans hhbm), hcxl'.trans (kcxl.trans hcxl), congrArg TileRun.flags htile⟩

/-- A store whose words can all be written changes the bytes of its own offsets alone. -/
theorem State.vecStore_goes_holds (h : (s.scratchErrs u.slot u.core errs).vecStores u (u.stores size g) = (s1, none)) :
    let t := s.vecStore u errs size g fx
    t.scratch = s1.scratch ∧
      tabGet 0 (t.core u.core).tile.vec.x (bits u.w 15 4) = u.run.vec.xAfter u.w ∧
      t.hbm = s.hbm ∧ t.cxl = s.cxl ∧
      ∀ a, (∀ y, u.x ≤ y → y < u.x + size * vCount u.w → a ≠ scratchKey u.core (scratchLoc y).1 (scratchLoc y).2) →
        memByte t.scratch a = memByte s.scratch a := by
  have hstored := s.vecStores_ownOffsets u errs hg
  rw [h] at hstored
  obtain ⟨-, -, hhbm, hcxl⟩ := hstored.rest
  obtain ⟨v, fl, k, ht, hx⟩ := State.vecStore_goes (fx := fx) hlimit h
  obtain ⟨hscratch, khbm, kcxl⟩ := ((s1.count_onlyCores 0x7033 (u.core + 1) k).trans (State.putVec_onlyCores _ u v fl 0)).mems
  intro t
  rw [show t = _ from ht, State.putVec_tile]
  refine ⟨hscratch, hx, khbm.trans hhbm, kcxl.trans hcxl, fun a ha => ?_⟩
  rw [hscratch]
  exact hstored.frame a ha

end

section
variable {s : State} {u : Vop}

/-! ## Accumulating stores (R325, R382, R413) -/

/-- An accumulating store within the scratch whose words can all be written goes on with its draws. -/
theorem exec_vSta_goes {c : CoreNo} {errs : EccReads} {o : AccOut} {m : AccMode} (h : s.vecAt c.val 0x15 = some u)
    (hlimit : u.x + 4 * vCount u.w ≤ scratchLimit)
    (hm : m = { sr := u.run.sr && decide (u.run.beSrAfter < u.run.accIndex), seed := u.run.srStep, index := u.run.accIndex })
    (ho : o = ({ st := s.scratchErrs u.slot u.core errs, draws := u.run.accDraws } : AccOut).run u.slot u.core u.run.foot m
      (elemPieces u.x (vCount u.w))
      ((List.range (vCount u.w)).map fun e => if u.sel e then some ((u.a e).1, (u.a e).2 || u.maskBad) else none)) (hgoes : o.stop = none) :
    ∃ v r, exec (.vSta ⟨c, errs⟩) s = .next ((o.st.putTile u.core r).putVec u v 0) ∧ r.accDraws = o.draws ∧
      tabGet 0 v.x (bits u.w 15 4) = u.run.vec.xAfter u.w := by
  refine ⟨(((u.run.vec.metPoison o.poison.isSome).storedPoison o.poison).step u.w).advance 1,
    { u.run with accDraws := o.draws, flags := u.run.flags ||| o.flags }, ?_, rfl, VecEngine.pastStore_x ..⟩
  change execVSta ⟨c, errs⟩ s = _
  rw [execVSta, State.issueVec_next h]
  dsimp only
  rw [if_neg (Nat.not_lt.mpr hlimit), ← hm, ← ho, hgoes]

end

/-- Settles O38: loads by `State.vecLoad_holds`, stores by `State.vecStore_stops_holds` and `State.vecStore_goes_holds`, accumulating stores
by `exec_vSta_goes`, and what lies beyond the scratch by `State.vecStop_range`. -/
theorem vectorMemory : Obligations.VectorMemory := by
  unfold Obligations.VectorMemory
  rintro s c u x rfl
  refine ⟨fun bs n g errs hlimit hread => ⟨?ld, ?ldh, ?ldb⟩, fun size g fx row errs s1 r hrow hlimit hstores => ?store,
    fun o m errs hlimit hm ho hgoes h => ?sta, fun hbeyond e row hrow => ?range⟩
  case ld =>
    rintro ⟨rfl, h, rfl⟩
    exact answers_of_vec h rfl (State.vecLoad_holds hlimit hread fun bs e => (elems32 bs).getD e (0, false))
  case ldh =>
    rintro ⟨rfl, h, rfl⟩
    exact answers_of_vec h rfl (State.vecLoad_holds hlimit hread fun bs e =>
      (widenBf16 ((elems16 bs).getD e (0, false)).1, ((elems16 bs).getD e (0, false)).2))
  case ldb =>
    rintro ⟨rfl, h, rfl⟩
    exact answers_of_vec h rfl (State.vecLoad_holds hlimit hread fun bs _ => (elems32 bs).getD 0 (0, false))
  case store =>
    obtain ⟨hsize, hg, ⟨op, h⟩, hexec⟩ : (size = 4 ∨ size = 2) ∧ (∀ e, (g e).length = size) ∧ (∃ op, s.vecAt c.val op = some u) ∧
        exec row s = .next (s.vecStore u errs size g fx) := by
      rcases hrow with ⟨rfl, h, rfl, rfl, rfl⟩ | ⟨rfl, h, rfl, rfl, rfl⟩
      · exact ⟨.inl rfl, fun _ => Elem.bytes_length _, ⟨_, h⟩, State.issueVec_next h _⟩
      · exact ⟨.inr rfl, fun _ => bytes16_length _, ⟨_, h⟩, State.issueVec_next h _⟩
    obtain ⟨-, -, d, hcmd, hrun⟩ := State.vecAt_eq_some h
    refine ⟨fun x st d hr => answers_of_exec hexec ?_, fun hr => answers_of_exec hexec ?_⟩ <;> subst hr
    · exact State.vecStore_stops_holds hlimit hg hcmd hrun hstores
    · obtain ⟨hscratch, hx, hhbm, hcxl, hframe⟩ := State.vecStore_goes_holds (fx := fx) hlimit hg hstores
      refine ⟨hscratch, hx, hhbm, hcxl, hframe, fun hcount hsel halign => ?_⟩
      rw [hscratch]
      exact State.vecStores_one hg hsize hcount hsel halign hstores
  case sta =>
    obtain ⟨v, r, hexec, hdraws, hx⟩ := exec_vSta_goes h hlimit hm ho hgoes
    refine answers_of_exec hexec ⟨?_, ?_, ?_⟩
    · exact ((o.st.putTile_onlyCores u.core r).trans (State.putVec_onlyCores ..)).mems.1
    · rw [State.putVec_tile]
      exact hx
    · rw [State.putVec_tile, State.putTile_tile]
      exact hdraws
  case range =>
    obtain ⟨⟨op, h⟩, hexec⟩ : (∃ op, s.vecAt c.val op = some u) ∧ exec row s = .next (s.vecStop u 0 (0x020D, u.rangeDetail)) := by
      rcases hrow with ⟨h, rfl⟩ | ⟨h, rfl⟩ | ⟨h, rfl⟩ <;>
        exact ⟨⟨_, h⟩, (State.issueVec_next h _).trans (congrArg Host.Outcome.next (if_pos hbeyond))⟩
    obtain ⟨-, -, d, hcmd, hrun⟩ := State.vecAt_eq_some h
    exact answers_of_exec hexec (s.vecStop_range u hcmd hrun)

end Sys2Proof.Machine

/-!
# What sending, opening and closing leave of a state

R443 to R457. A packet sent changes what has been sent and its own flow; a flow that opens or closes may end the command at work on it, which
then lets go of its flows (`Flow.LetGo`). `Sent` and `Worked` say which fields each step can change.
-/
namespace Sys2Proof.Machine

open Sys2Proof Sys2Proof.Safety

section
variable {s t u : State} {f : Nat}

/-! ## Fields that change -/

/-- t differs from s at most in flows and in what has been sent. -/
def Sent (s t : State) : Prop := ∃ o l fs, t = { s with out := o, loopback := l, flows := fs }

/-- t differs from s at most in flows, in what has been sent, and in what commands hold, regulators and counters. -/
def Worked (s t : State) : Prop :=
  ∃ o l fs cs d p fb, t = { s with out := o, loopback := l, flows := fs, cmds := cs, dict := d, parts := p, fabric := fb }

theorem Sent.refl (s : State) : Sent s s := ⟨_, _, _, rfl⟩

theorem Sent.trans (h : Sent s t) (k : Sent t u) : Sent s u := by
  obtain ⟨_, _, _, rfl⟩ := h
  obtain ⟨_, _, _, rfl⟩ := k
  exact ⟨_, _, _, rfl⟩

theorem Sent.foldl {α : Type} {g : State → α → State} (h : ∀ x a, Sent x (g x a)) (l : List α) (s : State) : Sent s (l.foldl g s) :=
  List.foldlRecOn l g (motive := Sent s) (Sent.refl s) fun x hx a _ => hx.trans (h x a)

theorem Sent.rest (h : Sent s t) :
    t.cmds = s.cmds ∧ t.dict = s.dict ∧ t.colls = s.colls ∧ t.molts = s.molts ∧ t.time = s.time ∧ t.ethPorts = s.ethPorts := by
  obtain ⟨_, _, _, rfl⟩ := h
  exact ⟨rfl, rfl, rfl, rfl, rfl, rfl⟩

theorem Worked.trans (h : Worked s t) (k : Worked t u) : Worked s u := by
  obtain ⟨_, _, _, _, _, _, _, rfl⟩ := h
  obtain ⟨_, _, _, _, _, _, _, rfl⟩ := k
  exact ⟨_, _, _, _, _, _, _, rfl⟩

theorem Sent.worked (h : Sent s t) : Worked s t := by
  obtain ⟨_, _, _, rfl⟩ := h
  exact ⟨_, _, _, _, _, _, _, rfl⟩

theorem Noted.worked (h : Noted s t) : Worked s t := by
  obtain ⟨_, _, _, _, rfl⟩ := h
  exact ⟨_, _, _, _, _, _, _, rfl⟩

theorem Worked.rest (h : Worked s t) : t.hbm = s.hbm ∧ t.ethPorts = s.ethPorts ∧ t.time = s.time := by
  obtain ⟨_, _, _, _, _, _, _, rfl⟩ := h
  exact ⟨rfl, rfl, rfl⟩

theorem Sent.memory (h : Sent s t) : sameMemory s t := by
  obtain ⟨_, _, _, rfl⟩ := h
  exact sameMemory_of_eq rfl rfl rfl

/-! ## Packets sent -/

theorem State.setFlow_sent (s : State) (f : Nat) (v : Flow) : Sent s (s.setFlow f v) := ⟨_, _, _, rfl⟩

theorem State.emit_sent (s : State) (f : Nat) (hd : Silk) (bs : List Byte) : Sent s (s.emit f hd bs) := s.emit_rest f hd bs

/-- A packet sent, or not sent on a link that is down, leaves every flow but the time of its own last one. -/
theorem State.emit_flows (s : State) (f : Nat) (hd : Silk) (bs : List Byte) :
    ∃ last, ∀ g, (s.emit f hd bs).flow g = if g = f then { s.flow f with lastTx := last } else s.flow g := by
  cases hup : (s.eth (s.flow f).port).up
  · refine ⟨(s.flow f).lastTx, fun g => ?_⟩
    rw [State.emit_of_down hup]
    split
    · next h => rw [h]
    · rfl
  · exact ⟨s.time, State.emit_flow hup hd bs⟩

/-- A packet sent and its flow then changed. -/
theorem State.emit_put_flows (s : State) (f : Nat) (hd : Silk) (bs : List Byte) (v : Flow → Flow) :
    ∃ last, ∀ g, ((s.emit f hd bs).setFlow f (v ((s.emit f hd bs).flow f))).flow g =
      if g = f then v { s.flow f with lastTx := last } else s.flow g := by
  obtain ⟨last, h⟩ := s.emit_flows f hd bs
  refine ⟨last, fun g => ?_⟩
  rw [State.setFlow_flow, h f, if_pos rfl, h g]
  split <;> rfl

theorem State.emitTx_emits (s : State) (f : Nat) (k : TxPkt) (retx : Bool) : ∃ hd bs, s.emitTx f k retx = s.emit f hd bs := by
  unfold State.emitTx
  dsimp only
  split
  · exact ⟨_, _, rfl⟩
  · exact ⟨_, _, rfl⟩

theorem State.sendAck_sent (s : State) (f ty : Nat) : Sent s (s.sendAck f ty) := (s.emit_sent ..).trans (State.setFlow_sent ..)

theorem State.sendAck_flows (s : State) (f ty : Nat) : ∃ last credit, ∀ g, (s.sendAck f ty).flow g =
    if g = f then { s.flow f with lastTx := last, creditSent := credit, sinceAck := 0, ceSinceAck := false } else s.flow g := by
  obtain ⟨last, h⟩ := s.emit_put_flows f ((s.flow f).ackHeader ty) [] fun v =>
    { v with creditSent := (s.flow f).credit, sinceAck := 0, ceSinceAck := false }
  exact ⟨last, (s.flow f).credit, h⟩

theorem State.sendOpen_sent (s : State) (f ty : Nat) : Sent s (s.sendOpen f ty) := (s.emit_sent ..).trans (State.setFlow_sent ..)

theorem State.sendOpen_flows (s : State) (f ty : Nat) : ∃ last credit, ∀ g, (s.sendOpen f ty).flow g =
    if g = f then { s.flow f with lastTx := last, creditSent := credit, lastOpen := if ty = 4 then s.time else (s.flow f).lastOpen }
    else s.flow g := by
  obtain ⟨last, h⟩ := s.emit_put_flows f { (s.flow f).header 0 with ty := ty, vote := (s.flow f).credit } [] fun v =>
    { v with creditSent := (s.flow f).credit, lastOpen := if ty = 4 then s.time else (s.flow f).lastOpen }
  exact ⟨last, (s.flow f).credit, h⟩

/-- OPEN or OPEN_ACK on a link that is up (R443). -/
theorem State.sendOpen_sends (ty : Nat) (hup : (s.eth (s.flow f).port).up = true) :
    sends s (s.sendOpen f ty) f { (s.flow f).header 0 with ty := ty, vote := (s.flow f).credit } [] :=
  sends_congr rfl rfl ((SameRoute.refl s f).sends_emit hup _ _)

theorem State.sendClose_sent (s : State) (f : Nat) : Sent s (s.sendClose f) := (s.emit_sent ..).trans (State.setFlow_sent ..)

theorem State.sendClose_flows (s : State) (f : Nat) : ∃ last next out, ∀ g, (s.sendClose f).flow g =
    if g = f then { s.flow f with lastTx := last, closePsn := some (s.flow f).txNext, txNext := next, txOut := out } else s.flow g := by
  have hput : ∃ last, ∀ g, (s.sendClose f).flow g = if g = f then
      { s.flow f with lastTx := last, closePsn := some (s.flow f).txNext, txNext := psnNext (s.flow f).txNext
                      txOut := (s.flow f).txOut ++ [{ psn := (s.flow f).txNext, close := true, sentAt := s.time }] } else s.flow g :=
    s.emit_put_flows f _ [] fun v =>
      { v with closePsn := some (s.flow f).txNext, txNext := psnNext (s.flow f).txNext
               txOut := (s.flow f).txOut ++ [{ psn := (s.flow f).txNext, close := true, sentAt := s.time }] }
  obtain ⟨last, h⟩ := hput
  exact ⟨last, _, _, h⟩

theorem State.closeFlow_flow (s : State) (f g : Nat) : (s.closeFlow f).flow g = if g = f then { holder := (s.flow f).holder } else s.flow g :=
  State.setFlow_flow ..

/-! ## Packets sent again (R450) -/

theorem State.markDue_sent (s : State) (f psn : Nat) : Sent s (s.markDue f psn) := by
  unfold State.markDue
  dsimp only
  split
  · exact Sent.refl s
  · next k _ =>
    refine Sent.trans ?_ (State.setFlow_sent ..)
    split
    · obtain ⟨hd, bs, e⟩ := s.emitTx_emits f k true
      exact e ▸ s.emit_sent ..
    · exact Sent.refl s

/-- A packet sent again waits for its turn, or is put on the wire and noted. -/
theorem State.resend_cases (s : State) (f psn : Nat) :
    s.resend f psn = s.markDue f psn ∨ s.resend f psn = s ∨ ∃ hd bs, Noted (s.putAgain f psn hd bs) (s.resend f psn) := by
  unfold State.resend
  dsimp only
  split
  · exact .inr (.inl rfl)
  · next k _ =>
    split
    · exact .inl rfl
    · obtain ⟨hd, bs, hemit⟩ := s.emitTx_emits f (s.reread f k) true
      refine .inr (.inr ⟨hd, bs, ?_⟩)
      rw [hemit]
      split
      · exact State.count_noted (s.putAgain f psn hd bs) 0x6031 1 1
      · exact ((State.count_noted (s.putAgain f psn hd bs) 0x6031 1 1).trans (State.count_noted ..)).trans (State.serveSpare_noted ..)

/-- A packet sent again changes of its flow what it has out, and the time of its last packet. -/
theorem State.resend_holds (s : State) (f psn : Nat) :
    Worked s (s.resend f psn) ∧ ∃ out last, (s.resend f psn).flow f = { s.flow f with txOut := out, lastTx := last } := by
  rcases s.resend_cases f psn with h | h | ⟨hd, bs, h⟩
  · rw [h]
    exact ⟨(s.markDue_sent f psn).worked, (s.markDue_flow f psn).2⟩
  · rw [h]
    exact ⟨(Sent.refl s).worked, _, _, rfl⟩
  · obtain ⟨last, hlast⟩ := s.emit_put_flows f hd bs fun v => { v with txOut := (s.flow f).resent psn s.time }
    refine ⟨((s.emit_sent ..).trans (State.setFlow_sent ..)).worked.trans h.worked, (s.flow f).resent psn s.time, last, ?_⟩
    exact (State.flow_congr h.net.1 f).trans ((hlast f).trans (if_pos rfl))

/-! ## Flows that let go of the command at work on them -/

/-- A flow of a state is that of another, but for the FLOW_OPEN or FLOW_CLOSE at work on it. -/
def Flow.LetGo (a b : Flow) : Prop := ∃ c i, b = { a with cmd := c, cmdIndex := i }

theorem Flow.LetGo.refl (a : Flow) : a.LetGo a := ⟨a.cmd, a.cmdIndex, rfl⟩

theorem State.forgetFlows_letGo (s : State) (id g : Nat) : (s.flow g).LetGo ((s.forgetFlows id).flow g) := by
  refine List.foldlRecOn _ _ (motive := fun x : State => (s.flow g).LetGo (x.flow g)) (Flow.LetGo.refl _) fun x hx f _ => ?_
  rw [State.setFlow_flow]
  split
  · next h =>
    subst h
    obtain ⟨c, i, e⟩ := hx
    exact ⟨none, 0, by rw [e]⟩
  · exact hx

theorem State.finishCmd_noted (s : State) (id d : Nat) : Noted s (s.finishCmd id d) := ⟨_, _, _, _, s.finishCmd_rest id d⟩

/-- A command that ends as a flow opens changes commands, and of each flow at most which command is at work on it. -/
theorem State.flowOpened_holds (s : State) (f : Nat) :
    (∃ cs fs, s.flowOpened f = { s with cmds := cs, flows := fs }) ∧ ∀ g, (s.flow g).LetGo ((s.flowOpened f).flow g) := by
  unfold State.flowOpened
  split
  · exact ⟨⟨_, _, rfl⟩, fun _ => Flow.LetGo.refl _⟩
  · next id _ =>
    split
    · have hfs : ∃ fs, (s.finishCmd id 0).forgetFlows id = { s.finishCmd id 0 with flows := fs } :=
        List.foldlRecOn (motive := fun x : State => ∃ fs, x = { s.finishCmd id 0 with flows := fs }) _ _ ⟨_, rfl⟩
          fun x hx g _ => by obtain ⟨fs, rfl⟩ := hx; exact ⟨_, rfl⟩
      obtain ⟨fs, hfs⟩ := hfs
      refine ⟨⟨(s.finishCmd id 0).cmds, fs, ?_⟩, fun g => ?_⟩
      · rw [hfs, s.finishCmd_rest]
      · rw [← State.flow_congr (s.finishCmd_noted id 0).net.1]
        exact State.forgetFlows_letGo ..
    · exact ⟨⟨_, _, rfl⟩, fun _ => Flow.LetGo.refl _⟩

theorem State.flowOpened_worked (s : State) (f : Nat) : Worked s (s.flowOpened f) := by
  obtain ⟨⟨cs, fs, h⟩, -⟩ := s.flowOpened_holds f
  exact ⟨_, _, _, _, _, _, _, h⟩

end

end Sys2Proof.Machine

/-!
# Ethernet ports, and frames that are not Silk

R427 to R437, R446, R455, R460, R461. A link lost is what it makes of each flow, of its port and of the counters; what a link that
comes up sends leaves its flow hearing as it did (`SameHearing`).
-/
namespace Sys2Proof.Machine

open Sys2Proof Sys2Proof.Safety

section
variable {s t u : State} {f : Nat}

/-! ## A link that goes down (R430, R446, R460) -/

/-- What the loss of port p's link makes of a flow. -/
def Flow.pausedBy (fl : Flow) (p now : Nat) : Flow :=
  if fl.port = p ∧ (fl.state = .opened ∨ fl.state = .silent) then { fl with state := .paused, stateSince := now } else fl

theorem Flow.pausedBy_default (p now : Nat) : ({} : Flow).pausedBy p now = {} := if_neg (by simp)

theorem State.noteFaults_rest (s : State) (unit cls n : Nat) :
    s.noteFaults unit cls n = { s with sup := (s.noteFaults unit cls n).sup } := by
  unfold State.noteFaults
  split <;> rfl

theorem State.ethLinkDown_flow (s : State) (p f : Nat) : (s.ethLinkDown p).flow f = (s.flow f).pausedBy p s.time := by
  have hflows : (s.ethLinkDown p).flows = s.flows.map fun e => (e.1, e.2.pausedBy p s.time) := by
    unfold State.ethLinkDown
    dsimp only
    rw [State.noteFault_rest]
    exact (State.event_flows ..).trans (State.count_net ..).1
  rw [State.flow, hflows]
  exact tabGet_map_snd (g := fun fl => fl.pausedBy p s.time) (Flow.pausedBy_default p s.time) s.flows f

/-- A link lost is counted; it writes no other value of the dictionary but ALERT_PENDING. -/
theorem State.ethLinkDown_dictGet (s : State) (p : Nat) {key : Nat} (h : key ≠ dk 0x8030 2) :
    (s.ethLinkDown p).dictGet key = (s.count 0x6021 (p + 1) 1).dictGet key := by
  have hcount : ∀ x : State, x.dict = s.dict → (x.count 0x6021 (p + 1) 1).dictGet key = (s.count 0x6021 (p + 1) 1).dictGet key := by
    intro x hx
    by_cases hk : key = dk 0x6021 (p + 1)
    · subst hk
      rw [State.dictGet_count, State.dictGet_count, State.dictGet_congr hx]
    · rw [State.dictGet_count_other x 1 hk, State.dictGet_count_other s 1 hk, State.dictGet_congr hx]
  unfold State.ethLinkDown
  dsimp only
  rw [State.dictGet_congr (State.noteFault_dict ..), State.event_dict _ _ _ _ _ h]
  exact hcount _ rfl

/-- The FEC codewords that a port corrected and could not correct, counted (R460). -/
def State.fecCounted (s : State) (p a b : Nat) : State :=
  ((s.noteFaults (unitId 6 0 0) 1 a).count 0x6022 (p + 1) a).count 0x6023 (p + 1) b

theorem State.fecCounted_rest (s : State) (p a b : Nat) :
    ∃ d e, s.fecCounted p a b = { s with dict := d, sup := e } := by
  obtain ⟨d, hd⟩ := (s.noteFaults (unitId 6 0 0) 1 a).count_rest 0x6022 (p + 1) a
  obtain ⟨d', hd'⟩ := ((s.noteFaults (unitId 6 0 0) 1 a).count 0x6022 (p + 1) a).count_rest 0x6023 (p + 1) b
  exact ⟨d', _, by rw [State.fecCounted, hd', hd, State.noteFaults_rest]⟩

theorem exec_linkDown {p : EthNo} (a b : Nat) (hrun : s.power.state = .running) (hport : s.portExists p.val = true)
    (hup : (s.eth p.val).up = true) : exec (.linkDown ⟨p, a, b⟩) s = .next ((s.fecCounted p.val a b).ethLinkDown p.val) :=
  when_of_true (by simp [hrun, hport, hup]) _

/-- The three counters of a link lost. -/
theorem State.linkDown_counts (s : State) {p : Nat} (hp : p < 16) (a b : Nat) :
    ((s.fecCounted p a b).ethLinkDown p).entry 0x6022 (p + 1) = s.entry 0x6022 (p + 1) + a ∧
    ((s.fecCounted p a b).ethLinkDown p).entry 0x6023 (p + 1) = s.entry 0x6023 (p + 1) + b ∧
    ((s.fecCounted p a b).ethLinkDown p).entry 0x6021 (p + 1) = s.entry 0x6021 (p + 1) + 1 := by
  have hnoted : ∀ key, (s.noteFaults (unitId 6 0 0) 1 a).dictGet key = s.dictGet key :=
    fun key => State.dictGet_congr (by rw [State.noteFaults_rest]) key
  refine ⟨?_, ?_, ?_⟩
  · rw [State.entry, State.ethLinkDown_dictGet _ _ (by unfold dk; omega), State.dictGet_count_other _ _ (by unfold dk; omega),
      State.fecCounted, State.dictGet_count_other _ _ (by unfold dk; omega), State.dictGet_count, hnoted, State.entry]
  · rw [State.entry, State.ethLinkDown_dictGet _ _ (by unfold dk; omega), State.dictGet_count_other _ _ (by unfold dk; omega),
      State.fecCounted, State.dictGet_count, State.dictGet_count_other _ _ (by unfold dk; omega), hnoted, State.entry]
  · rw [State.entry, State.ethLinkDown_dictGet _ _ (by unfold dk; omega), State.dictGet_count, State.fecCounted,
      State.dictGet_count_other _ _ (by unfold dk; omega), State.dictGet_count_other _ _ (by unfold dk; omega), hnoted, State.entry]

/-! ## A link that comes up (R427, R446, R461) -/

/-- A port's link up, and every function told so. -/
def State.linkRaised (s : State) (up : PortUp) : State :=
  (s.setEth up.port.val { s.eth up.port.val with up := true, phy := some (s.phyOf up) }).event 0x0402
    (up.port.val + 256 * sat (2 ^ 24 - 1) ((s.time - (s.eth up.port.val).downSince) / 1000)) s.presentFns

/-- The paused flows of a port. -/
def State.pausedOn (s : State) (p : Nat) : List Nat := (s.flows.filter fun e => e.2.port == p && e.2.state == .paused).map (·.1)

theorem State.linkRaised_rest (s : State) (up : PortUp) :
    (s.linkRaised up).flows = s.flows ∧ (s.linkRaised up).time = s.time ∧
    (s.linkRaised up).eth up.port.val = { s.eth up.port.val with up := true, phy := some (s.phyOf up) } := by
  refine ⟨State.event_flows .., (State.event_module ..).1, ?_⟩
  exact (State.eth_congr (State.event_module ..).2.2.2.2.2.2.2.2.1 _).trans (State.eth_setEth ..)

theorem State.ethLinkUp_eq (s : State) (up : PortUp) :
    s.ethLinkUp up = (s.pausedOn up.port.val).foldl (fun s f => if s.holdOver (s.flow f) then s.flowFail f 3 else s.flowResume f)
      (s.linkRaised up) := by
  rw [State.pausedOn, ← (s.linkRaised_rest up).1]
  rfl

theorem exec_linkUp {up : PortUp} (hrun : s.power.state = .running) (hstage : 8 ≤ s.boot.stage) (hhalt : s.boot.halt = 0)
    (hport : s.portExists up.port.val = true) (hdown : (s.eth up.port.val).up = false) :
    exec (.linkUp up) s = .next (s.ethLinkUp up) :=
  when_of_true (by simp [hrun, hstage, hhalt, hport, hdown]) _

theorem State.pausedOn_none {p : Nat} (h : ∀ e ∈ s.flows, e.2.port = p → e.2.state ≠ .paused) : s.pausedOn p = [] := by
  rw [State.pausedOn, List.map_eq_nil_iff, List.filter_eq_nil_iff]
  intro e he
  simpa using h e he

theorem State.holdOver_linkRaised (s : State) (up : PortUp) (fl : Flow) : (s.linkRaised up).holdOver fl = s.holdOver fl := by
  have hentry : (s.linkRaised up).entry 0x6010 4 = s.entry 0x6010 4 := State.event_dict _ _ _ _ _ (by decide)
  simp only [State.holdOver, hentry, (s.linkRaised_rest up).2.1]

/-- A paused flow of which the peer hears again. -/
def Flow.resumed (fl : Flow) (now : Nat) : Flow :=
  { fl with state := .opened, stateSince := now, lastRx := now, rtoFrom := now, roundStart := now }

/-- A flow hears its peer in t as in s, and every port is as it was. -/
def SameHearing (f : Nat) (s t : State) : Prop :=
  (t.flow f).state = (s.flow f).state ∧ (t.flow f).lastRx = (s.flow f).lastRx ∧ t.ethPorts = s.ethPorts

theorem SameHearing.trans (h : SameHearing f s t) (k : SameHearing f t u) : SameHearing f s u :=
  ⟨k.1.trans h.1, k.2.1.trans h.2.1, k.2.2.trans h.2.2⟩

theorem State.sendAck_sameHearing (s : State) (f ty : Nat) : SameHearing f s (s.sendAck f ty) := by
  obtain ⟨last, credit, h⟩ := s.sendAck_flows f ty
  rw [SameHearing, h, if_pos rfl]
  exact ⟨rfl, rfl, (s.sendAck_sent f ty).worked.rest.2.1⟩

theorem State.resend_sameHearing (s : State) (f psn : Nat) : SameHearing f s (s.resend f psn) := by
  obtain ⟨hworked, out, last, hflow⟩ := s.resend_holds f psn
  rw [SameHearing, hflow]
  exact ⟨rfl, rfl, hworked.rest.2.1⟩

theorem State.flowOpened_sameHearing (s : State) (f : Nat) : SameHearing f s (s.flowOpened f) := by
  obtain ⟨c, i, hflow⟩ := (s.flowOpened_holds f).2 f
  rw [SameHearing, hflow]
  exact ⟨rfl, rfl, (s.flowOpened_worked f).rest.2.1⟩

/-- A flow that runs on says so to its peer, and hears it from now. -/
theorem State.flowResume_sameHearing (s : State) (f : Nat) :
    SameHearing f (s.setFlow f ((s.flow f).resumed s.time)) (s.flowResume f) := by
  unfold State.flowResume
  extract_lets fl s1 s2
  refine SameHearing.trans (t := s2) ?_ (State.flowOpened_sameHearing s2 f)
  unfold s2
  split
  · next k _ =>
    extract_lets s3
    split
    · exact State.resend_sameHearing s1 f k.psn
    · exact (State.resend_sameHearing s1 f k.psn).trans (State.sendAck_sameHearing s3 f 1)
  · exact State.sendAck_sameHearing s1 f 2

/-- One paused flow whose hold has not run out reopens as its link comes up. -/
theorem State.ethLinkUp_reopens {up : PortUp} {fl : Flow} (hflows : s.flows = [(f, fl)]) (hport : fl.port = up.port.val)
    (hstate : fl.state = .paused) (hhold : s.holdOver fl = false) :
    SameHearing f ((s.linkRaised up).setFlow f (fl.resumed s.time)) (s.ethLinkUp up) := by
  have hpaused : s.pausedOn up.port.val = [f] := by simp [State.pausedOn, hflows, hport, hstate]
  obtain ⟨hsame, htime, -⟩ := s.linkRaised_rest up
  have hflow : (s.linkRaised up).flow f = fl := by simp [State.flow, hsame, hflows, tabGet, tabFind]
  have hresume := (s.linkRaised up).flowResume_sameHearing f
  rw [hflow, htime] at hresume
  rw [State.ethLinkUp_eq, hpaused, List.foldl_cons, List.foldl_nil, hflow, State.holdOver_linkRaised, hhold]
  exact hresume

/-! ## Requests a port or a lane answers (R431, R432, R436, R437) -/

section
variable {p : LaneNo}

theorem State.hasAddr_iff (s : State) (p : LaneNo) (v6 : Bool) (a : Nat) :
    s.hasAddr p v6 a = true ↔ a ≠ 0 ∧ if p.val < 16 then s.portAddr p.val v6 = a else a ∈ s.laneAddrs p.val v6 := by
  unfold State.hasAddr
  split <;> simp

theorem exec_arpRequest (a b : W32) (hup : s.laneUp p = true) : exec (.arpRequest p a b) s =
    .next (if s.hasAddr p false a.toNat then { s with out := s.out ++ [Out.arpReply p.val b] } else s.notSilk) :=
  when_of_true hup _

theorem exec_neighborSolicitation (a b : BitVec 128) (hup : s.laneUp p = true) : exec (.neighborSolicitation p a b) s =
    .next (if s.hasAddr p true a.toNat then { s with out := s.out ++ [Out.ndReply p.val b] } else s.notSilk) :=
  when_of_true hup _

/-- The echo requests of a port in the last second. -/
def State.recentEchoes (s : State) (p : Nat) : List Nat := (s.eth p).echoTimes.filter fun x => decide (s.time < x + 1000000)

/-- An echo request answered by a port. -/
def State.echoed (s : State) (p : Nat) (v6 : Bool) (l : List Byte) : State :=
  { s.setEth p { s.eth p with echoTimes := s.recentEchoes p ++ [s.time] } with out := s.out ++ [Out.echoReply p v6 l] }

theorem exec_echoRequest (v6 : Bool) (a : BitVec 128) (l : List Byte) (hup : s.laneUp p = true) : exec (.echoRequest p v6 a l) s =
    .next (if !s.hasAddr p v6 a.toNat then s.notSilk
      else if 16 ≤ p.val then { s with out := s.out ++ [Out.echoReply p.val v6 l] }
      else if (s.recentEchoes p.val).length < 100 then s.echoed p.val v6 l else s.notSilk) :=
  when_of_true hup _

end

/-! ## Frames dropped, and flow control (R429, R432, R455) -/

theorem exec_nonSilkFrame {lane : LaneNo} {p : Nat} (hup : s.portUp p = true)
    (hlane : (lane.val < 16 ∧ lane.val * s.portCount / 16 = p) ∨ (16 ≤ lane.val ∧ s.slowClock = true)) :
    exec (.nonSilkFrame lane) s = .next s.notSilk := by
  refine when_of_true ?_ _
  rcases hlane with ⟨hdata, rfl⟩ | ⟨hmgmt, hclock⟩
  · rw [if_pos hdata, hup]
  · rw [if_neg (by omega), hclock]

theorem exec_pfcFrame {p : EthNo} (k : Fin 8) (x : Bool) (hup : s.portUp p.val = true) : exec (.pfcFrame p k x) s =
    .next (if (s.pfcClasses p.val k.val).isEmpty then s.notSilk
      else s.setEth p.val { s.eth p.val with
        paused := (s.pfcClasses p.val k.val).foldl (fun t q => tabSet false t q x) (s.eth p.val).paused }) :=
  when_of_true hup _

/-- The keys of a list set to one value read as it, every other as before. -/
theorem tabGet_foldl_set {α : Type} [DecidableEq α] (d x : α) (l : List Nat) (t : Tab α) (q : Nat) :
    tabGet d (l.foldl (fun t k => tabSet d t k x) t) q = if q ∈ l then x else tabGet d t q := by
  induction l generalizing t with
  | nil => simp
  | cons k l ih =>
    rw [List.foldl_cons, ih]
    by_cases hk : q = k
    · simp [hk]
    · simp [hk, tabGet_set_other d t x hk]

end

/-- Settles O40: links by what they make of flows, ports and counters, then each frame by the equation of its row. -/
theorem ethernetFrames : Obligations.EthernetFrames := by
  unfold Obligations.EthernetFrames
  refine ⟨fun s p => ⟨fun hrun hport hup a b => ?down, fun hrun hstage hhalt hport hdown => ⟨fun hnone kr => ?up, fun kr f fl hflows hon hstate hhold => ?reopen⟩⟩,
    ?requests, fun s p hup => ⟨fun lane hlane => ?other, ?pause, fun k x => ⟨fun hno => ?classless, fun hclass => ?pfc⟩⟩⟩
  case down =>
    obtain ⟨hcorrected, huncorrected, hdowns⟩ := s.linkDown_counts p.isLt a b
    obtain ⟨d, e, hrest⟩ := s.fecCounted_rest p.val a b
    refine answers_of_exec (exec_linkDown a b hrun hport hup) ⟨hcorrected, huncorrected, ?_, fun f => ?_, hdowns⟩
    · rw [State.ethLinkDown_eth, if_pos rfl, hrest]
      rfl
    · rw [State.ethLinkDown_flow, hrest]
      rfl
  case up =>
    obtain ⟨hflows, -, heth⟩ := s.linkRaised_rest ⟨p, kr⟩
    refine answers_of_exec (exec_linkUp (up := ⟨p, kr⟩) hrun hstage hhalt hport hdown) ?_
    rw [State.ethLinkUp_eq, State.pausedOn_none hnone]
    exact ⟨heth, hflows⟩
  case reopen =>
    obtain ⟨hopen, hheard, hports⟩ := State.ethLinkUp_reopens (up := ⟨p, kr⟩) hflows hon hstate hhold
    rw [State.flow_setFlow] at hopen hheard
    refine answers_of_exec (exec_linkUp (up := ⟨p, kr⟩) hrun hstage hhalt hport hdown) ⟨hopen, hheard, ?_⟩
    rw [State.eth_congr hports]
    exact congrArg EthPort.up (s.linkRaised_rest ⟨p, kr⟩).2.2
  case requests =>
    rintro s p mine hup rfl
    refine ⟨fun a b => ⟨fun hmine => ?_, fun hmine => ?_⟩, fun a b => ⟨fun hmine => ?_, fun hmine => ?_⟩,
      fun v6 a l n hn => ⟨fun hmine hport hfew => ?_, fun hmine hlane => ?_, fun hdrop => ?_⟩⟩
    · exact answers_of_exec (exec_arpRequest a b hup) (if_pos ((s.hasAddr_iff ..).mpr hmine))
    · exact answers_of_exec (exec_arpRequest a b hup) (if_neg (mt (s.hasAddr_iff ..).mp hmine))
    · exact answers_of_exec (exec_neighborSolicitation a b hup) (if_pos ((s.hasAddr_iff ..).mpr hmine))
    · exact answers_of_exec (exec_neighborSolicitation a b hup) (if_neg (mt (s.hasAddr_iff ..).mp hmine))
    · change n = (s.recentEchoes p.val).length at hn
      subst hn
      refine answers_of_exec (exec_echoRequest v6 a l hup) ?_
      rw [(s.hasAddr_iff ..).mpr hmine, if_neg (by simp), if_neg (by omega), if_pos hfew]
      refine ⟨rfl, ?_, rfl⟩
      rw [show (s.echoed p.val v6 l).eth p.val = _ from State.eth_setEth ..]
      exact List.length_append
    · refine answers_of_exec (exec_echoRequest v6 a l hup) ?_
      rw [(s.hasAddr_iff ..).mpr hmine, if_neg (by simp), if_pos hlane]
    · change n = (s.recentEchoes p.val).length at hn
      subst hn
      refine answers_of_exec (exec_echoRequest v6 a l hup) ?_
      rcases hdrop with hmine | ⟨hport, hmany⟩
      · rw [Bool.eq_false_iff.mpr (mt (s.hasAddr_iff ..).mp hmine)]
        rfl
      · split
        · rfl
        · rw [if_neg (by omega), if_neg (Nat.not_lt.mpr hmany)]
          rfl
  case other => exact answers_of_exec (exec_nonSilkFrame hup hlane) rfl
  case pause => exact answers_of_exec (when_of_true hup _) rfl
  case classless =>
    refine answers_of_exec (exec_pfcFrame k x hup) ?_
    rw [hno]
    rfl
  case pfc =>
    refine answers_of_exec (exec_pfcFrame k x hup) ?_
    rw [if_neg (by simpa using hclass), State.eth_setEth]
    refine ⟨rfl, fun q hq => ?_, fun q hq => ?_⟩
    · exact (tabGet_foldl_set ..).trans (if_pos hq)
    · exact (tabGet_foldl_set ..).trans (if_neg hq)

end Sys2Proof.Machine

/-!
# Packets received, and what a flow that hears one becomes

R432, R434, R441, R446, R456. A packet goes one of four ways (`State.receive_notSilk`, `_bad`, `_dropped`, `_passed`); one that passes every
check is heard by its flow before its own row acts.
-/
namespace Sys2Proof.Machine

open Sys2Proof Sys2Proof.Safety

section
variable {s t : State} {f : Nat} {k : SilkPkt} {ty : Nat} {act : Silk → State → State}

/-! ## The ways of a packet (R432, R434, R441) -/

/-- A packet of a type reaches its flow and passes every check. -/
structure Passes (s : State) (k : SilkPkt) (ty : Nat) : Prop where
  hears : s.canHear k = true
  silk : s.isSilk k = true
  ok : silkPktOk k = true
  type : (silkOf k.hdr).ty = ty
  pass : s.dropCause k = none

theorem State.canHear_of_portUp (h : s.portUp k.port.val = true) : s.canHear k = true := by simp [State.canHear, h]

theorem State.receive_notSilk (hears : s.canHear k = true) (h : s.isSilk k = false) : s.receive ty k act = s.notSilk := by
  simp [State.receive, hears, h]

theorem State.receive_bad (hears : s.canHear k = true) (silk : s.isSilk k = true) (h : silkPktOk k = false) :
    s.receive ty k act = s.count 0x6030 1 1 := by
  simp [State.receive, hears, silk, h]

theorem State.receive_dropped {n : Nat} (hears : s.canHear k = true) (silk : s.isSilk k = true) (ok : silkPktOk k = true)
    (htype : (silkOf k.hdr).ty = ty) (h : s.dropCause k = some n) : s.receive ty k act = s.dropPkt (silkOf k.hdr) n := by
  simp [State.receive, hears, silk, ok, htype, h]

theorem State.receive_passed (h : Passes s k ty) : s.receive ty k act = act (silkOf k.hdr) (s.heard (silkOf k.hdr).flow) := by
  simp [State.receive, h.hears, h.silk, h.ok, h.type, h.pass]

/-- A packet that passes the first of checks 2 came by its flow's port. -/
theorem State.port_of_dropCause (h : s.dropCause k = none) : (s.flow (silkOf k.hdr).flow).port = k.port.val := by
  unfold State.dropCause at h
  dsimp only at h
  split at h
  · cases h
  · next hfirst =>
    simp only [Bool.or_eq_true, not_or, bne_iff_ne, ne_eq, not_not] at hfirst
    exact hfirst.1.1.1.2

/-! ## A flow that hears its peer (R446, R456) -/

/-- A flow that has heard its peer now. -/
def State.hearFlow (s : State) (f : Nat) : State := s.setFlow f { s.flow f with lastRx := s.time }

theorem State.heard_awake (h : (s.flow f).state ≠ .silent) : s.heard f = s.hearFlow f := if_neg h

/-- A silent flow that has heard its peer now is open again, and its holder is told so. -/
def State.wakeFlow (s : State) (f : Nat) : State := ((s.hearFlow f).flowTo f .opened).event 0x0405 f (s.flowFns f)

theorem State.heard_silent (h : (s.flow f).state = .silent) : s.heard f = (s.wakeFlow f).flowOpened f := if_pos h

theorem State.hearFlow_flow (s : State) (f : Nat) : (s.hearFlow f).flow f = { s.flow f with lastRx := s.time } := State.flow_setFlow ..

theorem State.hearFlow_state (s : State) (f : Nat) : ((s.hearFlow f).flow f).state = (s.flow f).state := by rw [State.hearFlow_flow]

/-- What a packet makes of its flow's state: a silent flow is open again. -/
def Flow.woken (fl : Flow) : FlowState := if fl.state = .silent then .opened else fl.state

/-- A packet heard changes of its flow its state, the time of it and of the packet, and which command is at work on it. -/
theorem State.heard_flow (s : State) (f : Nat) : ∃ since c i, (s.heard f).flow f =
    { s.flow f with lastRx := s.time, state := (s.flow f).woken, stateSince := since, cmd := c, cmdIndex := i } := by
  by_cases hsilent : (s.flow f).state = .silent
  · obtain ⟨c, i, hflow⟩ := ((s.wakeFlow f).flowOpened_holds f).2 f
    refine ⟨(s.hearFlow f).time, c, i, ?_⟩
    rw [State.heard_silent hsilent, hflow, State.wakeFlow, State.flow_congr (State.event_flows ..), State.flowTo, State.flow_setFlow,
      State.hearFlow_flow, Flow.woken, if_pos hsilent]
  · refine ⟨(s.flow f).stateSince, (s.flow f).cmd, (s.flow f).cmdIndex, ?_⟩
    rw [State.heard_awake hsilent, State.hearFlow_flow, Flow.woken, if_neg hsilent]

/-- t differs from s at most in messages, commands, flows and the dictionary. -/
def Heeds (s t : State) : Prop := ∃ o fn h d cs fs, t = { s with out := o, fns := fn, hostMem := h, dict := d, cmds := cs, flows := fs }

theorem Heeds.trans {u : State} (h : Heeds s t) (k : Heeds t u) : Heeds s u := by
  obtain ⟨_, _, _, _, _, _, rfl⟩ := h
  obtain ⟨_, _, _, _, _, _, rfl⟩ := k
  exact ⟨_, _, _, _, _, _, rfl⟩

theorem Heeds.rest (h : Heeds s t) :
    t.colls = s.colls ∧ t.molts = s.molts ∧ t.time = s.time ∧ t.ethPorts = s.ethPorts ∧ sameMemory s t := by
  obtain ⟨_, _, _, _, _, _, rfl⟩ := h
  exact ⟨rfl, rfl, rfl, rfl, sameMemory_of_eq rfl rfl rfl⟩

theorem State.setFlow_heeds (s : State) (f : Nat) (v : Flow) : Heeds s (s.setFlow f v) := ⟨_, _, _, _, _, _, rfl⟩

theorem State.wakeFlow_heeds (s : State) (f : Nat) : Heeds s (s.wakeFlow f) := by
  obtain ⟨o, fn, h, d, hevent⟩ := ((s.hearFlow f).flowTo f .opened).event_rest 0x0405 f (s.flowFns f)
  exact ((s.setFlow_heeds f _).trans (State.setFlow_heeds _ f _)).trans ⟨o, fn, h, d, _, _, hevent⟩

/-- What a packet heard can change: messages, commands and flows, and of the dictionary ALERT_PENDING. -/
theorem State.heard_rest (s : State) (f : Nat) : Heeds s (s.heard f) ∧ ∀ key, key ≠ dk 0x8030 2 → (s.heard f).dictGet key = s.dictGet key := by
  by_cases hsilent : (s.flow f).state = .silent
  · obtain ⟨⟨cs, fs, hopened⟩, -⟩ := (s.wakeFlow f).flowOpened_holds f
    rw [State.heard_silent hsilent, hopened]
    exact ⟨(s.wakeFlow_heeds f).trans ⟨_, _, _, _, _, _, rfl⟩, State.event_dict ((s.hearFlow f).flowTo f .opened) 0x0405 f (s.flowFns f)⟩
  · rw [State.heard_awake hsilent]
    exact ⟨s.setFlow_heeds f _, fun _ _ => rfl⟩

end

end Sys2Proof.Machine

/-!
# Next hops, and the packets that open and close a flow

R432, R443 to R447, R454, R457.
-/
namespace Sys2Proof.Machine

open Sys2Proof Sys2Proof.Safety

section
variable {s t : State} {f : Nat} {k : SilkPkt}

/-! ## Next hops, and OPEN sent (R432, R444, R454) -/

/-- A flow whose next hop's link address is known. -/
def Flow.withHop (fl : Flow) (mac : BitVec 48) : Flow := { fl with resolved := true, hop := mac }

theorem State.tryOpen_opens (hstate : (s.flow f).state = .opening) (hactive : (s.flow f).passive = false)
    (hresolved : (s.flow f).resolved = true) (hup : (s.eth (s.flow f).port).up = true) : s.tryOpen f = s.sendOpen f 4 := by
  simp [State.tryOpen, hstate, hactive, hresolved, hup]

theorem State.tryOpen_waits (h : (s.flow f).state ≠ .opening ∨ (s.flow f).passive = true) : s.tryOpen f = s := by
  rcases h with h | h <;> simp [State.tryOpen, h]

theorem State.askHop_of_up (hup : (s.eth (s.flow f).port).up = true) : s.askHop f =
    { s.setFlow f { s.flow f with lastOpen := s.time } with out := s.out ++ [Out.arpAsk (s.flow f).port (s.nextHop (s.flow f))] } := by
  unfold State.askHop
  exact if_neg (by simp [hup])

section
variable {n : FlowNo}

theorem exec_nextHopResolved (mac : BitVec 48) (hup : s.portUp (s.flow n.val).port = true) (hstate : (s.flow n.val).state ≠ .closed)
    (hres : (s.flow n.val).resolved = false) :
    exec (.nextHopResolved ⟨n, mac⟩) s = .next ((s.setFlow n.val ((s.flow n.val).withHop mac)).tryOpen n.val) :=
  when_of_true (by simp [hup, hstate, hres]) _

theorem exec_nextHopRetry (hup : s.portUp (s.flow n.val).port = true) (hstate : (s.flow n.val).state = .opening)
    (hres : (s.flow n.val).resolved = false) (hdue : (s.flow n.val).lastOpen + 100 ≤ s.time) :
    exec (.nextHopRetry n) s = .next (s.askHop n.val) :=
  when_of_true (by simp [hup, hstate, hres, hdue]) _

theorem exec_openResend (hup : s.portUp (s.flow n.val).port = true) (hdue : (s.flow n.val).lastOpen + 100 ≤ s.time) :
    exec (.openResend n) s = .next (s.tryOpen n.val) :=
  when_of_true (by simp [hup, hdue]) _

end

/-! ## Flows that open (R443, R444) -/

/-- A flow that becomes OPEN with its peer's credit. -/
def Flow.openedAt (fl : Flow) (credit now : Nat) : Flow :=
  { fl with state := .opened, stateSince := now, peerCredit := credit, credit0 := credit, lastRx := now, roundStart := now }

theorem State.openFlow_eq (s : State) (f credit : Nat) :
    s.openFlow f credit = (s.setFlow f ((s.flow f).openedAt credit s.time)).flowOpened f := rfl

/-- A flow that becomes OPEN sends nothing. -/
theorem State.openFlow_holds (s : State) (f credit : Nat) :
    ((s.openFlow f credit).flow f).state = .opened ∧ ((s.openFlow f credit).flow f).peerCredit = credit ∧
    (s.openFlow f credit).out = s.out ∧ (s.openFlow f credit).loopback = s.loopback := by
  obtain ⟨⟨cs, fs, hrest⟩, hflows⟩ := (s.setFlow f ((s.flow f).openedAt credit s.time)).flowOpened_holds f
  obtain ⟨c, i, hflow⟩ := hflows f
  rw [State.openFlow_eq, hflow, State.flow_setFlow, hrest]
  exact ⟨rfl, rfl, rfl, rfl⟩

/-- An opening flow that hears OPEN answers with OPEN_ACK and opens. -/
theorem exec_openPkt_opening (h : Passes s k 4) (hstate : (s.flow (silkOf k.hdr).flow).state = .opening) :
    exec (.openPkt k) s =
      .next (((s.hearFlow (silkOf k.hdr).flow).sendOpen (silkOf k.hdr).flow 5).openFlow (silkOf k.hdr).flow (silkOf k.hdr).vote) := by
  change Host.Outcome.next _ = _
  rw [State.receive_passed h, State.heard_awake (by simp [hstate]), State.hearFlow_flow]
  simp only [hstate]

theorem exec_openAck_opening (h : Passes s k 5) (hstate : (s.flow (silkOf k.hdr).flow).state = .opening) :
    exec (.openAck k) s = .next ((s.hearFlow (silkOf k.hdr).flow).openFlow (silkOf k.hdr).flow (silkOf k.hdr).vote) := by
  change Host.Outcome.next _ = _
  rw [State.receive_passed h, State.heard_awake (by simp [hstate]), State.hearFlow_flow]
  simp only [hstate, if_true]

/-! ## Flows that a peer ends (R445, R447, R457) -/

/-- A flow that fails writes no value of the dictionary but ALERT_PENDING. -/
theorem State.flowFail_dictGet (hcolls : s.colls = []) (hmolts : s.molts = []) (f cause : Nat) {key : Nat} (h : key ≠ dk 0x8030 2) :
    (s.flowFail f cause).dictGet key = s.dictGet key := by
  have howners : ∀ x : State, (x.flowOwnersFail f).dict = x.dict := by
    intro x
    unfold State.flowOwnersFail
    split
    · split
      · rw [State.endCmd_rest]
      · rfl
    · rfl
  unfold State.flowFail
  dsimp only
  rw [State.flowLost_unused (by simpa [State.flowTo] using hcolls) (by simpa [State.flowTo] using hmolts), State.dictGet_congr (howners _)]
  exact State.event_dict (s.flowTo f .failed) _ _ _ _ h

theorem exec_depart (h : Passes s k 3) :
    exec (.depart k) s = .next (((s.heard (silkOf k.hdr).flow).count 0x6031 7 1).flowFail (silkOf k.hdr).flow 1) :=
  congrArg Host.Outcome.next (State.receive_passed h)

/-- A CLOSE noted and acknowledged. -/
def State.closeNoted (s : State) (f psn : Nat) : State :=
  (s.setFlow f { s.flow f with rxAck := if psn = psnNext (s.flow f).rxAck then psn else (s.flow f).rxAck }).sendAck f 1

theorem State.closeNoted_holds (s : State) (f psn : Nat) :
    Sent s (s.closeNoted f psn) ∧ ((s.closeNoted f psn).flow f).holder = (s.flow f).holder := by
  refine ⟨(s.setFlow_sent f _).trans (State.sendAck_sent ..), ?_⟩
  obtain ⟨last, credit, h⟩ := (s.setFlow f { s.flow f with
    rxAck := if psn = psnNext (s.flow f).rxAck then psn else (s.flow f).rxAck }).sendAck_flows f 1
  rw [State.closeNoted, h, if_pos rfl, State.flow_setFlow]

/-- What a CLOSE does to the flow that has heard it. -/
def State.closed (h : Silk) (s : State) : State :=
  if (s.flow h.flow).state = .opening then s
  else if (s.flow h.flow).state = .closing then (s.closeNoted h.flow h.psn).flowClosed h.flow
  else (s.closeNoted h.flow h.psn).flowFail h.flow 4

theorem exec_closePkt (h : Passes s k 6) (hawake : (s.flow (silkOf k.hdr).flow).state ≠ .silent) :
    exec (.closePkt k) s = .next (State.closed (silkOf k.hdr) (s.hearFlow (silkOf k.hdr).flow)) := by
  have hclose : exec (.closePkt k) s = .next (s.receive 6 k State.closed) := rfl
  rw [hclose, State.receive_passed h, State.heard_awake hawake]

/-- A closing flow that closes keeps its holder and nothing else. -/
theorem State.flowClosed_flow (s : State) (f : Nat) : (s.flowClosed f).flow f = { holder := (s.flow f).holder } := by
  have hclosed : (s.closeFlow f).flow f = { holder := (s.flow f).holder } := State.flow_setFlow ..
  unfold State.flowClosed
  dsimp only
  split
  · exact hclosed
  · split
    · exact (State.flow_congr (State.finishCmd_noted ..).net.1 f).trans hclosed
    · exact hclosed

end

/-- Settles O41: next hops and OPEN by what `tryOpen` sends, each packet by what its flow becomes once it is heard. -/
theorem silkOpening : Obligations.SilkOpening := by
  unfold Obligations.SilkOpening
  refine ⟨?hops, ?packets⟩
  case hops =>
    rintro s f fl rfl hup
    have hlink := State.up_of_portUp hup
    refine ⟨fun hclosed hres mac => ⟨fun hwait => ?passive, fun hstate hactive => ?active⟩, fun hstate hres hdue => ?retry,
      fun hstate hactive hres hdue => ?resend⟩
    case passive =>
      refine answers_of_exec (exec_nextHopResolved mac hup hclosed hres) ?_
      rw [State.tryOpen_waits (by rw [State.flow_setFlow]; exact hwait), State.flow_setFlow]
      exact ⟨rfl, rfl⟩
    case active =>
      refine answers_of_exec (exec_nextHopResolved mac hup hclosed hres) ?_
      have hflow : (s.setFlow f.val ((s.flow f.val).withHop mac)).flow f.val = (s.flow f.val).withHop mac := State.flow_setFlow ..
      have hsends := State.sendOpen_sends (s := s.setFlow f.val ((s.flow f.val).withHop mac)) (f := f.val) 4 (by rw [hflow]; exact hlink)
      obtain ⟨last, credit, hfs⟩ := (s.setFlow f.val ((s.flow f.val).withHop mac)).sendOpen_flows f.val 4
      rw [State.tryOpen_opens (by rw [hflow]; exact hstate) (by rw [hflow]; exact hactive) (by rw [hflow]; rfl) (by rw [hflow]; exact hlink),
        hfs, if_pos rfl]
      rw [hflow] at hsends ⊢
      exact ⟨rfl, rfl, hstate, hsends⟩
    case retry =>
      refine answers_of_exec (exec_nextHopRetry hup hstate hres hdue) ?_
      rw [State.askHop_of_up hlink]
      exact ⟨State.flow_setFlow .., rfl⟩
    case resend =>
      refine answers_of_exec (exec_openResend hup hdue) ?_
      obtain ⟨last, credit, hfs⟩ := s.sendOpen_flows f.val 4
      rw [State.tryOpen_opens hstate hactive hres hlink, hfs, if_pos rfl]
      exact ⟨rfl, hstate, State.sendOpen_sends 4 hlink⟩
  case packets =>
    rintro s k h fl rfl rfl hears silk ok pass hcolls hmolts
    refine ⟨fun hstate hport => ⟨fun htype => ?openPkt, fun htype => ?openAck⟩, fun htype => ?depart,
      fun htype => ⟨fun hstate => ?closing, fun hstate => ?ended⟩⟩
    case openPkt =>
      obtain ⟨hopened, hcredit, hout, hloop⟩ :=
        ((s.hearFlow (silkOf k.hdr).flow).sendOpen (silkOf k.hdr).flow 5).openFlow_holds (silkOf k.hdr).flow (silkOf k.hdr).vote
      have hlink : (s.eth (s.flow (silkOf k.hdr).flow).port).up = true := by
        rw [State.port_of_dropCause pass]
        exact State.up_of_portUp hport
      have hroute : SameRoute s (s.hearFlow (silkOf k.hdr).flow) (silkOf k.hdr).flow := SameRoute.setFlow rfl
      exact answers_of_exec (exec_openPkt_opening ⟨hears, silk, ok, htype, pass⟩ hstate)
        ⟨hopened, hcredit, _, rfl, sends_congr hout hloop (sends_congr rfl rfl (hroute.sends_emit hlink _ _))⟩
    case openAck =>
      exact answers_of_exec (exec_openAck_opening ⟨hears, silk, ok, htype, pass⟩ hstate) (State.openFlow_holds ..)
    case depart =>
      obtain ⟨hheeds, hdict⟩ := s.heard_rest (silkOf k.hdr).flow
      obtain ⟨hcolls', hmolts', -⟩ := hheeds.rest
      obtain ⟨hcolls'', hmolts''⟩ := ((s.heard (silkOf k.hdr).flow).count_noted 0x6031 7 1).users
      have hnocolls := hcolls''.trans (hcolls'.trans hcolls)
      have hnomolts := hmolts''.trans (hmolts'.trans hmolts)
      refine answers_of_exec (exec_depart ⟨hears, silk, ok, htype, pass⟩) ⟨by rw [State.flowFail_flow hnocolls hnomolts], ?_⟩
      rw [State.entry, State.flowFail_dictGet hnocolls hnomolts _ _ (by decide), State.dictGet_count, hdict _ (by decide), State.entry]
    case closing =>
      obtain ⟨-, hholder⟩ := (s.hearFlow (silkOf k.hdr).flow).closeNoted_holds (silkOf k.hdr).flow (silkOf k.hdr).psn
      refine answers_of_exec (exec_closePkt ⟨hears, silk, ok, htype, pass⟩ (by simp [hstate])) ?_
      have hheard := s.hearFlow_state (silkOf k.hdr).flow
      rw [State.closed, if_neg (by simp [hheard, hstate]), if_pos (hheard.trans hstate), State.flowClosed_flow, hholder, State.hearFlow_flow]
    case ended =>
      obtain ⟨hsent, -⟩ := (s.hearFlow (silkOf k.hdr).flow).closeNoted_holds (silkOf k.hdr).flow (silkOf k.hdr).psn
      obtain ⟨-, -, hcolls', hmolts', -⟩ := hsent.rest
      have hheard := s.hearFlow_state (silkOf k.hdr).flow
      have hother : ∀ st : FlowState, st ≠ .opened → st ≠ .paused → (s.flow (silkOf k.hdr).flow).state ≠ st := by
        rintro st hopened hpaused rfl
        exact hstate.elim hopened hpaused
      refine answers_of_exec (exec_closePkt ⟨hears, silk, ok, htype, pass⟩ (hother _ (by decide) (by decide))) ?_
      rw [State.closed, hheard, if_neg (hother _ (by decide) (by decide)), if_neg (hother _ (by decide) (by decide)),
        State.flowFail_flow (hcolls'.trans hcolls) (hmolts'.trans hmolts)]

end Sys2Proof.Machine

/-!
# DATA packets and acknowledgements

R439, R441, R445, R448 to R450, R455, R456. What a DATA packet leaves is said of the flow that has taken it and of the memory its payload is put in;
what an acknowledgement leaves is `AckTaken`, which marking lost packets keeps.
-/
namespace Sys2Proof.Machine

open Sys2Proof Sys2Proof.Safety

section
variable {s t u : State} {f : Nat} {k : SilkPkt}

/-! ## A payload put in its ring slot (R448) -/

theorem State.owedFloor_noted (s : State) (i x fuel : Nat) : Noted s (s.owedFloor i x fuel) := by
  induction fuel generalizing s with
  | zero => exact Noted.refl s
  | succ fuel ih =>
    rw [State.owedFloor]
    split
    · exact Noted.refl s
    · next o _ _ =>
      have hpaid : ∀ n r, Noted s ((s.serveFloor i x n o.out).setRegulator i x r) :=
        fun n r => (s.serveFloor_noted i x n o.out).trans ⟨_, _, _, _, rfl⟩
      extract_lets n s1 s2
      split
      · exact Noted.refl s
      · split
        · exact hpaid n _
        · exact (hpaid n _).trans (ih s2)

theorem State.drawTokens_noted (s : State) (i x n : Nat) (out floor : Bool) : Noted s (s.drawTokens i x n out floor) := by
  unfold State.drawTokens
  split
  · exact Noted.refl s
  · exact Noted.trans (t := s.setRegulator i x _) ⟨_, _, _, _, rfl⟩ (State.owedFloor_noted ..)

theorem State.drawSpans_noted (s : State) (slot : Nat) (write : Bool) (l : List (Nat × Nat)) : Noted s (s.drawSpans slot write l) := by
  fun_induction State.drawSpans s slot write l with
  | case1 s => exact Noted.refl s
  | case2 s => exact Noted.refl s
  | case3 s a n l w hw ih => exact (State.drawTokens_noted ..).trans ih

/-- The address of a packet's ring slot. -/
def Flow.ringAt (fl : Flow) (psn : Nat) : Nat := fl.rxRing + (psn % fl.rxSlots) * psizeBytes fl.psize

theorem Flow.ringAt_congr {a b : Flow} {psn : Nat} (hring : a.rxRing = b.rxRing) (hslots : a.rxSlots = b.rxSlots) (hsize : a.psize = b.psize) :
    a.ringAt psn = b.ringAt psn := by
  rw [Flow.ringAt, Flow.ringAt, hring, hslots, hsize]

/-- The payload of a DATA packet put in its flow's ring slot, where the flow is held. -/
def State.ringPut (s : State) (f : Nat) (h : Silk) (bs : List Byte) : State :=
  match (s.flow f).holder with
  | none => s
  | some i => ((s.vwrite none i ((s.flow f).ringAt h.psn) bs (bitAt h.flags 2)).1).drawSpans i true (lineSpans ((s.flow f).ringAt h.psn) bs.length)

theorem State.ringPut_flows (s : State) (f : Nat) (h : Silk) (bs : List Byte) : (s.ringPut f h bs).flows = s.flows := by
  unfold State.ringPut
  split
  · rfl
  · exact (State.drawSpans_noted ..).net.1.trans (State.writeSpans_writes ..).1

theorem State.ringPut_hbm {i : Nat} (h : Silk) (bs : List Byte) (hholder : (s.flow f).holder = some i) :
    (s.ringPut f h bs).hbm = (s.vwrite none i ((s.flow f).ringAt h.psn) bs (bitAt h.flags 2)).1.hbm := by
  unfold State.ringPut
  rw [hholder]
  exact (State.drawSpans_noted ..).worked.rest.1

/-! ## A DATA packet taken (R448, R449, R455) -/

theorem State.bufferTake_flows (s : State) (p prio n : Nat) : (s.bufferTake p prio n).flows = s.flows := by
  unfold State.bufferTake
  extract_lets e use on cross s1
  split
  · exact (State.count_net ..).1
  · rfl

/-- A flow that has taken a DATA packet holds it by its number, and has what it has sent as before; its payload is in its slot. -/
theorem State.acceptData_holds (s : State) (f : Nat) (h : Silk) (ce : Bool) (bs : List Byte) : ∃ (rx : RxPkt) (l : Tab (Option RxPkt)),
    l = tabSet none (s.flow f).rxHave h.psn (some rx) ∧ ((s.acceptData f h ce bs).flow f).rxHave = l ∧
    ((s.acceptData f h ce bs).flow f).rxAck = ackAdvance l (l.length + 1) (s.flow f).rxAck ∧
    ((s.acceptData f h ce bs).flow f).txOut = (s.flow f).txOut ∧ (s.acceptData f h ce bs).hbm = (s.ringPut f h bs).hbm := by
  unfold State.acceptData
  extract_lets fl slotVa s1 rx have_ ack gap n core s2
  have hput : s1 = s.ringPut f h bs := rfl
  have hflow : s1.flow f = s.flow f := State.flow_congr (hput ▸ s.ringPut_flows f h bs) f
  have htaken : (s2.flow f).rxHave = have_ ∧ (s2.flow f).rxAck = ack ∧ (s2.flow f).txOut = (s.flow f).txOut := by
    rw [← hflow, State.flow_setFlow]
    exact ⟨rfl, rfl, rfl⟩
  obtain ⟨hhave, hack, hout⟩ := htaken
  refine ⟨rx, have_, rfl, ?_⟩
  split
  · obtain ⟨last, credit, hsent⟩ := s2.sendAck_flows f 1
    rw [hsent, if_pos rfl]
    exact ⟨hhave, hack, hout, (s2.sendAck_sent f 1).worked.rest.1⟩
  · exact ⟨hhave, hack, hout, rfl⟩

theorem psnNext_ne (p : Nat) : psnNext (psnNext p) ≠ psnNext p := by
  unfold psnNext
  omega

/-- The one packet held is in order. -/
theorem ackAdvance_first (rx : RxPkt) (a : Nat) : ackAdvance [(psnNext a, some rx)] 2 a = psnNext a := by
  simp [ackAdvance, tabGet, tabFind, (psnNext_ne a).symm]

theorem State.peerTouch_noted (s : State) (id : Nat) : Noted s (s.peerTouch id) := by
  unfold State.peerTouch
  split
  · exact Noted.refl s
  · split
    · exact ⟨_, _, _, _, rfl⟩
    · exact Noted.refl s

/-- The flow of a DATA packet has taken it. -/
def State.dataTaken (s : State) (k : SilkPkt) (h : Silk) : State :=
  (s.bufferTake k.port.val (s.flow h.flow).prio k.payload.length).acceptData h.flow h k.ce k.payload

/-- A DATA packet that passes is taken, and its chunk noted by the command it is for where it is the chunk's last. -/
theorem exec_data_passed (h : Passes s k 0) : ∃ t, exec (.data k) s = .next t ∧
    Noted ((s.heard (silkOf k.hdr).flow).dataTaken k (silkOf k.hdr)) t := by
  refine ⟨_, congrArg Host.Outcome.next (State.receive_passed h), ?_⟩
  dsimp only
  split
  · exact Noted.refl _
  · split
    · exact (State.peerTouch_noted ..).trans (State.settlePeer_noted ..)
    · exact Noted.refl _

/-- What a DATA packet that passes leaves of its flow and of the memory. -/
theorem State.dataTaken_holds (s : State) (k : SilkPkt) (h : Silk) : ∃ (rx : RxPkt) (l : Tab (Option RxPkt)),
    l = tabSet none (s.flow h.flow).rxHave h.psn (some rx) ∧ (((s.heard h.flow).dataTaken k h).flow h.flow).rxHave = l ∧
    (((s.heard h.flow).dataTaken k h).flow h.flow).rxAck = ackAdvance l (l.length + 1) (s.flow h.flow).rxAck ∧
    (((s.heard h.flow).dataTaken k h).flow h.flow).txOut = (s.flow h.flow).txOut ∧
    ∀ i, (s.flow h.flow).holder = some i → ((s.heard h.flow).dataTaken k h).hbm =
      (((s.heard h.flow).bufferTake k.port.val (s.flow h.flow).prio k.payload.length).vwrite none i
        ((s.flow h.flow).ringAt h.psn) k.payload (bitAt h.flags 2)).1.hbm := by
  obtain ⟨since, c, i, hheard⟩ := s.heard_flow h.flow
  have hprio : ((s.heard h.flow).flow h.flow).prio = (s.flow h.flow).prio := by rw [hheard]
  have hflow := State.flow_congr (State.bufferTake_flows (s.heard h.flow) k.port.val (s.flow h.flow).prio k.payload.length) h.flow
  rw [hheard] at hflow
  have hring : ∀ psn, Flow.ringAt { s.flow h.flow with lastRx := s.time, state := (s.flow h.flow).woken, stateSince := since, cmd := c, cmdIndex := i } psn =
      (s.flow h.flow).ringAt psn := fun _ => Flow.ringAt_congr rfl rfl rfl
  obtain ⟨rx, l, hl, hhave, hack, hout, hhbm⟩ :=
    ((s.heard h.flow).bufferTake k.port.val (s.flow h.flow).prio k.payload.length).acceptData_holds h.flow h k.ce k.payload
  rw [State.dataTaken, hprio]
  rw [hflow] at hl hack hout
  refine ⟨rx, l, hl, hhave, hack, hout, fun i hholder => ?_⟩
  rw [hhbm, State.ringPut_hbm (i := i) h k.payload (by rw [hflow]; exact hholder), hflow, hring]

/-! ## Packets dropped (R432, R441) -/

/-- A packet dropped is counted, and leaves what its flow holds and the memory. -/
theorem State.dropPkt_holds (s : State) (h : Silk) (n : Nat) :
    (s.dropPkt h n).entry 0x6030 n = s.entry 0x6030 n + 1 ∧ ((s.dropPkt h n).flow h.flow).rxHave = (s.flow h.flow).rxHave ∧
    sameMemory s (s.dropPkt h n) := by
  have hcounted : (s.count 0x6030 n 1).entry 0x6030 n = s.entry 0x6030 n + 1 := State.dictGet_count ..
  have hnoted := s.count_noted 0x6030 n 1
  have hcount : ∀ x, Noted s x → (x.flow h.flow).rxHave = (s.flow h.flow).rxHave ∧ sameMemory s x :=
    fun x hx => ⟨by rw [State.flow_congr hx.net.1], hx.cores_memory.2⟩
  unfold State.dropPkt
  extract_lets s1
  split
  · next hold =>
    subst hold
    split
    · exact ⟨(State.dictGet_count_other _ 1 (by unfold dk; omega)).trans hcounted, hcount _ (hnoted.trans (State.count_noted ..))⟩
    · exact ⟨hcounted, hcount s1 hnoted⟩
  · split
    · obtain ⟨last, credit, hsent⟩ := s1.sendAck_flows h.flow 1
      obtain ⟨hhave, hmemory⟩ := hcount s1 hnoted
      have hack := s1.sendAck_sent h.flow 1
      refine ⟨(State.dictGet_congr hack.rest.2.1 _).trans hcounted, ?_, sameMemory.trans hmemory hack.memory⟩
      rw [hsent, if_pos rfl]
      exact hhave
    · exact ⟨hcounted, hcount s1 hnoted⟩

/-! ## Acknowledgements (R439, R450) -/

/-- v is a flow fl that has taken an ACK or a KEEPALIVE h. -/
structure AckTaken (fl : Flow) (h : Silk) (v : Flow) : Prop where
  unacked : ∀ x ∈ v.txOut, psnAfter x.psn h.ackPsn = true
  sent : ∀ x ∈ v.txOut, ∃ y ∈ fl.txOut, y.psn = x.psn
  credit : v.peerCredit = if psnAfter h.vote fl.peerCredit then h.vote else fl.peerCredit
  rest : v.state = fl.state ∧ v.holder = fl.holder ∧ v.closePsn = fl.closePsn ∧ v.txNext = fl.txNext ∧ v.lastRx = fl.lastRx

theorem Flow.sample_form (fl : Flow) (lo hi r : Nat) :
    ∃ a v rto, fl.sample lo hi r = { fl with srtt8 := a, rttvar4 := v, sampled := true, rto := rto } := by
  unfold Flow.sample
  split
  exact ⟨_, _, _, rfl⟩

/-- Round-trip samples leave a flow all but its estimate. -/
theorem Flow.samples_form (fl : Flow) (lo hi : Nat) (r : TxPkt → Nat) (l : List TxPkt) :
    ∃ a v b rto, l.foldl (fun fl k => fl.sample lo hi (r k)) fl = { fl with srtt8 := a, rttvar4 := v, sampled := b, rto := rto } := by
  refine List.foldlRecOn l _ (motive := fun x : Flow => ∃ a v b rto, x = { fl with srtt8 := a, rttvar4 := v, sampled := b, rto := rto })
    ⟨_, _, _, _, rfl⟩ fun x hx k _ => ?_
  obtain ⟨a, v, b, rto, rfl⟩ := hx
  obtain ⟨a', v', rto', h⟩ := Flow.sample_form { fl with srtt8 := a, rttvar4 := v, sampled := b, rto := rto } lo hi (r k)
  exact ⟨a', v', true, rto', h⟩

theorem State.markDue_psn (s : State) (f psn : Nat) : ∀ x ∈ ((s.markDue f psn).flow f).txOut, ∃ y ∈ (s.flow f).txOut, y.psn = x.psn := by
  unfold State.markDue
  dsimp only
  split
  · exact fun x hx => ⟨x, hx, rfl⟩
  · rw [State.flow_setFlow]
    intro x hx
    obtain ⟨y, hy, rfl⟩ := List.mem_map.mp hx
    exact ⟨y, hy, by split <;> rfl⟩

/-- A packet marked to be sent again leaves what an acknowledgement has done. -/
theorem AckTaken.markDue {fl : Flow} {h : Silk} (k : AckTaken fl h (s.flow f)) (psn : Nat) : AckTaken fl h ((s.markDue f psn).flow f) := by
  obtain ⟨-, out, last, hflow⟩ := s.markDue_flow f psn
  have hpsn := s.markDue_psn f psn
  refine ⟨fun x hx => ?_, fun x hx => ?_, by rw [hflow]; exact k.credit, by rw [hflow]; exact k.rest⟩
  · obtain ⟨y, hy, he⟩ := hpsn x hx
    exact he ▸ k.unacked y hy
  · obtain ⟨y, hy, he⟩ := hpsn x hx
    obtain ⟨z, hz, he'⟩ := k.sent y hy
    exact ⟨z, hz, he'.trans he⟩

theorem State.ackFlow_taken (s : State) (f : Nat) (h : Silk) : AckTaken (s.flow f) h ((s.ackFlow f h).flow f) := by
  unfold State.ackFlow
  extract_lets fl acked sacked done left fl1 ece credit fl2 s1 counted s2 lost
  have hnoted : Noted s1 s2 := by
    unfold s2
    split
    · split
      · exact (State.count_noted ..).trans (State.count_noted ..)
      · exact State.count_noted ..
    · exact Noted.refl s1
  have hflow : s2.flow f = fl2 := (State.flow_congr hnoted.net.1 f).trans (State.flow_setFlow ..)
  have hleft : ∀ x ∈ left, ∃ y ∈ fl.txOut.filter (fun k => !acked k), y.psn = x.psn := by
    intro x hx
    obtain ⟨y, hy, rfl⟩ := List.mem_map.mp hx
    exact ⟨y, hy, by split <;> rfl⟩
  obtain ⟨srtt, rttvar, sampled, rto, hfl1⟩ : ∃ a v b rto, fl1 = { fl with srtt8 := a, rttvar4 := v, sampled := b, rto := rto } :=
    Flow.samples_form ..
  refine List.foldlRecOn lost _ (motive := fun x : State => AckTaken fl h (x.flow f)) ?_ fun x hx k _ => hx.markDue k.psn
  rw [hflow]
  refine ⟨fun x hx => ?unacked, fun x hx => ?sent, rfl, ?rest⟩
  case unacked =>
    obtain ⟨y, hy, hpsn⟩ := hleft x hx
    rw [← hpsn]
    simpa [acked] using (List.mem_filter.mp hy).2
  case sent =>
    obtain ⟨y, hy, hpsn⟩ := hleft x hx
    exact ⟨y, (List.mem_filter.mp hy).1, hpsn⟩
  case rest =>
    change fl1.state = fl.state ∧ fl1.holder = fl.holder ∧ fl1.closePsn = fl.closePsn ∧ fl1.txNext = fl.txNext ∧ fl1.lastRx = fl.lastRx
    rw [hfl1]
    exact ⟨rfl, rfl, rfl, rfl, rfl⟩

/-- Nothing that was all acknowledged is left to send. -/
theorem AckTaken.txOut_nil {fl v : Flow} {h : Silk} (k : AckTaken fl h v) (hall : ∀ x ∈ fl.txOut, psnAfter x.psn h.ackPsn = false) :
    v.txOut = [] := by
  refine List.eq_nil_iff_forall_not_mem.mpr fun x hx => ?_
  obtain ⟨y, hy, hpsn⟩ := k.sent x hx
  have hleft := k.unacked x hx
  rw [← hpsn, hall y hy] at hleft
  cases hleft

/-! ## What an acknowledgement lets a flow do (R445, R480) -/

theorem State.creditTouched_noted (s : State) (l : List Nat) : Noted s (l.foldl (fun s id => (s.peerTouch id).settlePeer id) s) :=
  List.foldlRecOn l _ (motive := Noted s) (Noted.refl s) fun _ hx _ _ =>
    hx.trans ((State.peerTouch_noted ..).trans (State.settlePeer_noted ..))

theorem State.afterAck_noted {s : State} {f : Nat} (old : Flow) (h : (s.flow f).state ≠ .closing) : Noted s (s.afterAck old f) := by
  unfold State.afterAck
  dsimp only
  rw [if_pos (.inl h)]
  exact State.creditTouched_noted ..

/-- A closing flow with nothing unacknowledged sends CLOSE, or is CLOSED where it has sent it. -/
theorem State.afterAck_closes {s : State} {f : Nat} (old : Flow) (hstate : (s.flow f).state = .closing) (hout : (s.flow f).txOut = []) :
    ∃ t, Noted s t ∧ s.afterAck old f = if (s.flow f).closePsn.isNone then t.sendClose f else t.flowClosed f := by
  refine ⟨_, s.creditTouched_noted (creditFreed old (s.flow f).peerCredit), ?_⟩
  unfold State.afterAck
  dsimp only
  rw [if_neg (by simp [hstate, hout])]

/-- A flow that has heard an acknowledgement, and what it then does. -/
def State.ackHeard (s : State) (h : Silk) : State :=
  ((s.heard h.flow).ackFlow h.flow h).afterAck ((s.heard h.flow).flow h.flow) h.flow

theorem exec_ack_passed (h : Passes s k 1) : exec (.ack k) s = .next (s.ackHeard (silkOf k.hdr)) :=
  congrArg Host.Outcome.next (State.receive_passed h)

theorem exec_keepalive_passed (h : Passes s k 2) : exec (.keepalive k) s = .next (s.ackHeard (silkOf k.hdr)) :=
  congrArg Host.Outcome.next (State.receive_passed h)

/-- An open flow that has heard an acknowledgement (R439, R450, R456). -/
theorem State.ackHeard_opened (h : Silk) (hopen : (s.flow h.flow).state = .opened) :
    (∀ x ∈ ((s.ackHeard h).flow h.flow).txOut, psnAfter x.psn h.ackPsn = true) ∧ ((s.ackHeard h).flow h.flow).state = .opened ∧
    ((s.ackHeard h).flow h.flow).peerCredit =
      (if psnAfter h.vote (s.flow h.flow).peerCredit then h.vote else (s.flow h.flow).peerCredit) ∧
    ((s.ackHeard h).flow h.flow).lastRx = s.time := by
  have htaken := (s.heard h.flow).ackFlow_taken h.flow h
  rw [State.heard_awake (by simp [hopen]), State.hearFlow_flow] at htaken
  obtain ⟨hunacked, -, hcredit, hstate, -, -, -, hlast⟩ := htaken
  have hnoted := State.afterAck_noted ((s.hearFlow h.flow).flow h.flow) (ne_of_eq_of_ne (hstate.trans hopen) (by decide))
  rw [State.ackHeard, State.heard_awake (by simp [hopen]), State.flow_congr hnoted.net.1]
  exact ⟨hunacked, hstate.trans hopen, hcredit, hlast⟩

/-- A closing flow all of whose packets are acknowledged. -/
theorem State.ackHeard_closing (h : Silk) (hclosing : (s.flow h.flow).state = .closing)
    (hall : ∀ x ∈ (s.flow h.flow).txOut, psnAfter x.psn h.ackPsn = false) :
    ((s.flow h.flow).closePsn = none → ((s.ackHeard h).flow h.flow).state = .closing ∧
      ((s.ackHeard h).flow h.flow).closePsn = some (s.flow h.flow).txNext) ∧
    ((s.flow h.flow).closePsn ≠ none → (s.ackHeard h).flow h.flow = { holder := (s.flow h.flow).holder }) := by
  have htaken := (s.heard h.flow).ackFlow_taken h.flow h
  rw [State.heard_awake (by simp [hclosing]), State.hearFlow_flow] at htaken
  have hout := htaken.txOut_nil hall
  obtain ⟨-, -, -, hstate, hholder, hclose, hnext, -⟩ := htaken
  obtain ⟨t, hnoted, ht⟩ := State.afterAck_closes ((s.hearFlow h.flow).flow h.flow) (hstate.trans hclosing) hout
  have hflow := State.flow_congr hnoted.net.1 h.flow
  rw [State.ackHeard, State.heard_awake (by simp [hclosing]), ht, hclose]
  refine ⟨fun hnone => ?_, fun hsome => ?_⟩
  · obtain ⟨last, next, out, hsent⟩ := t.sendClose_flows h.flow
    rw [if_pos (by simp [hnone]), hsent, if_pos rfl, hflow]
    exact ⟨hstate.trans hclosing, congrArg some hnext⟩
  · rw [if_neg (by simpa using hsome), State.flowClosed_flow, hflow, hholder]

end

/-- Settles O42: a packet goes one of the ways of `receive`; what it leaves of its flow is what taking it leaves of the flow that heard it. -/
theorem silkPackets : Obligations.SilkPackets := by
  unfold Obligations.SilkPackets
  refine ⟨?data, ?acks⟩
  case data =>
    rintro s k h fl rfl rfl hport
    have hears := State.canHear_of_portUp hport
    refine ⟨fun hother => ?other, fun silk ok htype pass => ?passed, fun silk hbad => ?bad, fun n silk ok htype hdrop => ?dropped⟩
    case other => exact answers_of_exec (congrArg Host.Outcome.next (State.receive_notSilk hears hother)) rfl
    case passed =>
      obtain ⟨t, hexec, hnoted⟩ := exec_data_passed ⟨hears, silk, ok, htype, pass⟩
      obtain ⟨rx, l, hl, hhave, hack, hout, hhbm⟩ := s.dataTaken_holds k (silkOf k.hdr)
      refine answers_of_exec hexec ?_
      rw [State.flow_congr hnoted.net.1, hhave, hout, hack]
      refine ⟨by rw [hl, tabGet_set_same]; rfl, rfl, fun i hholder => hnoted.worked.rest.1.trans (hhbm i hholder), fun hempty hnext => ?_⟩
      rw [hl, hempty, hnext]
      exact ackAdvance_first rx _
    case bad => exact answers_of_exec (congrArg Host.Outcome.next (State.receive_bad hears silk hbad)) rfl
    case dropped =>
      exact answers_of_exec (congrArg Host.Outcome.next (State.receive_dropped hears silk ok htype hdrop)) (State.dropPkt_holds ..)
  case acks =>
    rintro s k h fl rfl rfl hport silk ok pass
    have hears := State.canHear_of_portUp hport
    refine ⟨fun hopen => ⟨fun htype => ?ack, fun htype => ?keepalive⟩, fun hclosing htype hall => ?closing⟩
    case ack =>
      obtain ⟨hunacked, hstate, hcredit, -⟩ := State.ackHeard_opened _ hopen
      exact answers_of_exec (exec_ack_passed ⟨hears, silk, ok, htype, pass⟩) ⟨hunacked, hstate, hcredit⟩
    case keepalive =>
      obtain ⟨hunacked, hstate, -, hlast⟩ := State.ackHeard_opened _ hopen
      exact answers_of_exec (exec_keepalive_passed ⟨hears, silk, ok, htype, pass⟩) ⟨hunacked, hstate, hlast⟩
    case closing =>
      have hexec := exec_ack_passed ⟨hears, silk, ok, htype, pass⟩
      obtain ⟨hsends, hcloses⟩ := State.ackHeard_closing _ hclosing hall
      exact ⟨fun hnone => answers_of_exec hexec (hsends hnone), fun hsome => answers_of_exec hexec (hcloses hsome)⟩

end Sys2Proof.Machine

/-!
# FLOW_OPEN and FLOW_CLOSE

R442 to R445. Each works on the flows of its list in turn: what it makes of one flow, it leaves in place as it goes on to the next.
-/
namespace Sys2Proof.Machine

open Sys2Proof Sys2Proof.Safety

section
variable {s t u : State} {id slot f : Nat} {c : Cmd}

/-- An element paired with its place. -/
theorem mem_map_zip_range {α : Type} (g : Nat → α) {i n : Nat} (h : i < n) : (g i, i) ∈ ((List.range n).map g).zip (List.range n) :=
  List.mem_iff_getElem.mpr ⟨i, by simpa using h, by simp⟩

/-! ## Flows that begin to open (R442 to R444) -/

/-- Every flow's state and holder are as they were. -/
def SameStates (s t : State) : Prop := ∀ g, (t.flow g).state = (s.flow g).state ∧ (t.flow g).holder = (s.flow g).holder

theorem State.tryOpen_holds (s : State) (f : Nat) : Sent s (s.tryOpen f) ∧ SameStates s (s.tryOpen f) := by
  unfold State.tryOpen
  dsimp only
  split
  · refine ⟨s.sendOpen_sent f 4, fun g => ?_⟩
    obtain ⟨last, credit, h⟩ := s.sendOpen_flows f 4
    rw [h]
    split
    · next hg => exact hg ▸ ⟨rfl, rfl⟩
    · exact ⟨rfl, rfl⟩
  · exact ⟨Sent.refl s, fun _ => ⟨rfl, rfl⟩⟩

theorem State.askHop_holds (s : State) (f : Nat) : Sent s (s.askHop f) ∧ SameStates s (s.askHop f) := by
  cases hup : (s.eth (s.flow f).port).up
  · have hdown : s.askHop f = s := if_pos (by simp [hup])
    rw [hdown]
    exact ⟨Sent.refl s, fun _ => ⟨rfl, rfl⟩⟩
  · rw [State.askHop_of_up hup]
    refine ⟨⟨_, _, _, rfl⟩, fun g => ?_⟩
    change ((s.setFlow f { s.flow f with lastOpen := s.time }).flow g).state = _ ∧ ((s.setFlow f { s.flow f with lastOpen := s.time }).flow g).holder = _
    rw [State.setFlow_flow]
    split
    · next hg => exact hg ▸ ⟨rfl, rfl⟩
    · exact ⟨rfl, rfl⟩

/-- Flow f is in OPENING for a slot; every other's state and holder are as they were. -/
def Begins (s t : State) (slot f : Nat) : Prop := ∀ g, (t.flow g).state = (if g = f then .opening else (s.flow g).state) ∧
  (t.flow g).holder = if g = f then some slot else (s.flow g).holder

theorem Begins.same (h : Begins s t slot f) (k : SameStates t u) : Begins s u slot f :=
  fun g => ⟨(k g).1.trans (h g).1, (k g).2.trans (h g).2⟩

theorem State.startFlow_holds (s : State) (id slot i : Nat) (d : List Byte) :
    Sent s (s.startFlow id slot i d) ∧ Begins s (s.startFlow id slot i d) slot (field d 0 2) := by
  unfold State.startFlow
  extract_lets f fl s1
  have hput : Begins s s1 slot f := by
    intro g
    rw [State.setFlow_flow]
    split
    · exact ⟨rfl, rfl⟩
    · exact ⟨rfl, rfl⟩
  have hsent : Sent s s1 := s.setFlow_sent f _
  split
  · obtain ⟨hopen, hsame⟩ := s1.tryOpen_holds f
    exact ⟨hsent.trans hopen, hput.same hsame⟩
  · obtain ⟨hask, hsame⟩ := s1.askHop_holds f
    exact ⟨hsent.trans hask, hput.same hsame⟩

/-- A good list of flows to open, begun. -/
def State.startFlows (s : State) (id slot : Nat) (l : List (List Byte × Nat)) : State := l.foldl (fun s e => s.startFlow id slot e.2 e.1) s

theorem State.startFlows_holds (s : State) (id slot : Nat) (l : List (List Byte × Nat)) : Sent s (s.startFlows id slot l) ∧
    ∀ e ∈ l, ((s.startFlows id slot l).flow (field e.1 0 2)).state = .opening ∧ ((s.startFlows id slot l).flow (field e.1 0 2)).holder = some slot := by
  refine ⟨Sent.foldl (g := fun x (e : List Byte × Nat) => x.startFlow id slot e.2 e.1) (fun x e => (x.startFlow_holds id slot e.2 e.1).1) l s, ?_⟩
  refine State.foldl_each (P := fun e x => (x.flow (field e.1 0 2)).state = .opening ∧ (x.flow (field e.1 0 2)).holder = some slot)
    (fun x e => ?_) (fun x e b hb => ?_) l s
  · obtain ⟨hstate, hholder⟩ := (x.startFlow_holds id slot e.2 e.1).2 (field e.1 0 2)
    exact ⟨hstate.trans (if_pos rfl), hholder.trans (if_pos rfl)⟩
  · obtain ⟨hstate, hholder⟩ := (x.startFlow_holds id slot e.2 e.1).2 (field b.1 0 2)
    rw [hstate, hholder]
    split
    · exact ⟨rfl, rfl⟩
    · exact hb

/-- The descriptors of a FLOW_OPEN's list. -/
def openList (bs : List Byte) (n : Nat) : List (List Byte) := (List.range n).map fun i => (bs.drop (64 * i)).take 64

theorem exec_flowOpen {bs : List Byte} {n : Nat} (hlive : s.nicLive = true) (h : ready s id 0x40 c) (hn : n = flowCount c.record) (hlo : 0 < n)
    (hhi : n ≤ 4096) (hread : (s.beginCmd c).descRead id c.slot c.payload (64 * n) = (t, some bs)) : ∃ u, exec (.flowOpen id) s = .next u ∧
    (t.flowListBad c.slot (openList bs n) 0 [] = none → u = t.startFlows id c.slot ((openList bs n).zip (List.range n))) ∧
    ∀ e, t.flowListBad c.slot (openList bs n) 0 [] = some e → u = t.endCmd id 0x0407 e := by
  subst hn
  refine ⟨_, (if_neg (by simp [hlive])).trans (congrArg Host.Outcome.next (State.startOp_ready h _)), ?_⟩
  dsimp only
  rw [if_neg (by omega), hread]
  dsimp only
  refine ⟨fun hgood => ?_, fun e hbad => ?_⟩
  · rw [openList] at hgood
    rw [hgood]
    rfl
  · rw [openList] at hbad
    rw [hbad]

/-! ## Flows that begin to close (R445) -/

/-- What FLOW_CLOSE makes of a flow's state. -/
def FlowState.ending : FlowState → FlowState
  | .failed | .closed => .closed
  | _ => .closing

theorem FlowState.ending_ending (st : FlowState) : st.ending.ending = st.ending := by cases st <;> rfl

theorem State.sendClose_keeps (s : State) (f g : Nat) :
    ((s.sendClose f).flow g).state = (s.flow g).state ∧ ((s.sendClose f).flow g).holder = (s.flow g).holder := by
  obtain ⟨last, next, out, h⟩ := s.sendClose_flows f
  rw [h]
  split
  · next hg => exact hg ▸ ⟨rfl, rfl⟩
  · exact ⟨rfl, rfl⟩

theorem State.startClose_state (s : State) (id i f g : Nat) :
    ((s.startClose id i f).flow g).state = if g = f then (s.flow f).state.ending else (s.flow g).state := by
  have hsame : (s.flow f).state.ending = (s.flow f).state → (s.flow g).state = if g = f then (s.flow f).state.ending else (s.flow g).state := by
    intro h
    split
    · next hg => rw [hg, h]
    · rfl
  unfold State.startClose
  extract_lets fl s1
  split
  · next hstate =>
    rw [State.closeFlow_flow, hstate]
    split <;> rfl
  · next hstate => exact hsame (by rw [hstate]; rfl)
  · next hstate => exact hsame (by rw [hstate]; rfl)
  · next hfailed hclosed hclosing =>
    have hput : (s1.flow g).state = if g = f then (s.flow f).state.ending else (s.flow g).state := by
      rw [State.setFlow_flow]
      split
      · unfold FlowState.ending
        split
        · exact absurd ‹_› hfailed
        · exact absurd ‹_› hclosed
        · rfl
      · rfl
    split
    · exact (s1.sendClose_keeps f g).1.trans hput
    · exact hput

/-- The flows of a good list of a FLOW_CLOSE, begun to close. -/
def State.startCloses (s : State) (id : Nat) (l : List (Nat × Nat)) : State := l.foldl (fun s e => s.startClose id e.2 e.1) s

/-- A flow stays what FLOW_CLOSE has made of it, though the list names it again. -/
theorem State.startCloses_state (s : State) (id : Nat) (l : List (Nat × Nat)) :
    ∀ e ∈ l, ((s.startCloses id l).flow e.1).state = (s.flow e.1).state.ending := by
  have hmet : ∀ g, ((s.startCloses id l).flow g).state = (s.flow g).state ∨ ((s.startCloses id l).flow g).state = (s.flow g).state.ending := by
    intro g
    refine List.foldlRecOn l (fun (s : State) (e : Nat × Nat) => s.startClose id e.2 e.1)
      (motive := fun x : State => (x.flow g).state = (s.flow g).state ∨ (x.flow g).state = (s.flow g).state.ending) (.inl rfl) fun x hx e _ => ?_
    rw [x.startClose_state]
    split
    · next hg =>
      rw [← hg]
      rcases hx with h | h
      · exact .inr (by rw [h])
      · exact .inr (by rw [h, FlowState.ending_ending])
    · exact hx
  have hended : ∀ e ∈ l, ((s.startCloses id l).flow e.1).state.ending = ((s.startCloses id l).flow e.1).state := by
    refine State.foldl_each (P := fun e x => (x.flow e.1).state.ending = (x.flow e.1).state) (fun x e => ?_) (fun x e b hb => ?_) l s
    · rw [x.startClose_state, if_pos rfl, FlowState.ending_ending]
    · rw [x.startClose_state]
      split
      · exact FlowState.ending_ending _
      · exact hb
  intro e he
  rcases hmet e.1 with h | h
  · rw [← hended e he, h]
  · exact h

/-- A flow that FLOW_CLOSE may close was open, paused, silent or failed. -/
theorem State.ending_of_closeBad (h : s.closeBad slot f = false) :
    ((s.flow f).state = .failed → (s.flow f).state.ending = .closed) ∧ ((s.flow f).state ≠ .failed → (s.flow f).state.ending = .closing) := by
  refine ⟨fun hfailed => by rw [hfailed]; rfl, fun hfailed => ?_⟩
  unfold State.closeBad at h
  cases hstate : (s.flow f).state <;> simp_all [FlowState.ending]

/-- The flows of a FLOW_CLOSE's list. -/
def closeList (bs : List Byte) (n : Nat) : List Nat := (List.range n).map fun i => field bs (2 * i) 2

/-- A FLOW_CLOSE of a good list begins to close its flows, and ends where none is left to close. -/
theorem exec_flowClose {bs : List Byte} {n : Nat} (hlive : s.nicLive = true) (h : ready s id 0x41 c) (hn : n = flowCount c.record) (hlo : 0 < n)
    (hhi : n ≤ 4096) (hread : (s.beginCmd c).descRead id c.slot c.payload (2 * n) = (t, some bs))
    (hgood : ∀ i, i < n → t.closeBad c.slot (field bs (2 * i) 2) = false) :
    ∃ u, exec (.flowClose id) s = .next u ∧ u.flows = (t.startCloses id ((closeList bs n).zip (List.range n))).flows := by
  have hfind : (closeList bs n).findIdx? (t.closeBad c.slot) = none := by
    refine List.findIdx?_eq_none_iff.mpr fun f hf => ?_
    obtain ⟨i, hi, rfl⟩ := List.mem_map.mp hf
    exact hgood i (List.mem_range.mp hi)
  subst hn
  refine ⟨_, (if_neg (by simp [hlive])).trans (congrArg Host.Outcome.next (State.startOp_ready h _)), ?_⟩
  dsimp only
  rw [closeList] at hfind
  rw [if_neg (by omega), hread]
  dsimp only
  rw [hfind]
  dsimp only
  split
  · exact (State.finishCmd_noted ..).net.1
  · rfl

/-! ## Flows given up (R443, R445) -/

theorem State.foldl_closeFlow_sent (s : State) (l : List Nat) : Sent s (l.foldl (fun s f => s.closeFlow f) s) :=
  Sent.foldl (g := fun s f => s.closeFlow f) (fun x f => x.setFlow_sent f _) l s

/-- Flows closed keep their holders and nothing else. -/
theorem State.foldl_closeFlow_flow (s : State) (l : List Nat) :
    ∀ f ∈ l, (l.foldl (fun s f => s.closeFlow f) s).flow f = { holder := (s.flow f).holder } := by
  have hbare : ∀ f ∈ l, (l.foldl (fun s f => s.closeFlow f) s).flow f = { holder := ((l.foldl (fun s f => s.closeFlow f) s).flow f).holder } := by
    refine State.foldl_each (P := fun f x => x.flow f = { holder := (x.flow f).holder }) (fun x f => ?_) (fun x f g hg => ?_) l s
    · rw [x.closeFlow_flow, if_pos rfl]
    · rw [x.closeFlow_flow]
      split
      · rfl
      · exact hg
  have hholder : ∀ f, ((l.foldl (fun s f => s.closeFlow f) s).flow f).holder = (s.flow f).holder := by
    refine fun f => State.foldl_keeps (fun x => (x.flow f).holder) (fun x g => ?_) l s
    rw [x.closeFlow_flow]
    split
    · next hg => rw [hg]
    · rfl
  intro f hf
  rw [hbare f hf, hholder]

theorem exec_flowOpenTimeout (h : s.runningOp id 0x40 = some c) (hdue : s.nearEnd c = true) : exec (.flowOpenTimeout id) s = .next (s.openTimeout id) := by
  change execFlowOpenTimeout id s = _
  unfold execFlowOpenTimeout
  rw [h]
  exact when_of_true hdue _

theorem exec_flowCloseDeadline (h : s.runningOp id 0x41 = some c) (hdue : s.nearEnd c = true) :
    exec (.flowCloseDeadline id) s = .next (s.closeDeadline id) := by
  change execFlowCloseDeadline id s = _
  unfold execFlowCloseDeadline
  rw [h]
  exact when_of_true hdue _

/-- A FLOW_OPEN out of time ends with 0x0405, and gives up its flows. -/
theorem State.openTimeout_holds (hcmd : s.cmd id = some c) (hrun : c.phase = .running) :
    (∃ d, endedAs (s.openTimeout id) id 0x0405 d) ∧ ∀ f ∈ s.flowsOf id, (s.openTimeout id).flow f = { holder := (s.flow f).holder } := by
  unfold State.openTimeout
  extract_lets fs opened first s1 s2
  have hsent : Sent s s1 := Sent.foldl (g := fun s f => s.sendClose f) (fun x f => x.sendClose_sent f) opened s
  have hholder : ∀ f, (s1.flow f).holder = (s.flow f).holder := fun f =>
    State.foldl_keeps (fun x => (x.flow f).holder) (fun x g => (x.sendClose_keeps g f).2) opened s
  obtain ⟨hcmds, -⟩ := (hsent.trans (s1.foldl_closeFlow_sent fs)).rest
  refine ⟨⟨_, State.endCmd_ends _ _ ((State.cmd_congr hcmds id).trans hcmd) (not_ended_of_running hrun)⟩, fun f hf => ?_⟩
  have hflows : (s2.endCmd id 0x0405 (opened.length + 2 ^ 16 * first)).flows = s2.flows := by rw [State.endCmd_rest]
  rw [State.flow_congr hflows, s1.foldl_closeFlow_flow fs f hf, hholder]

/-- A FLOW_CLOSE out of time ends with the number of its flows that still have data out, and closes them all. -/
theorem State.closeDeadline_holds (hcmd : s.cmd id = some c) (hrun : c.phase = .running) (hclean : clean c) :
    endedAs (s.closeDeadline id) id 0 ((s.flowsOf id).filter fun f => (s.flow f).txOut.any fun k => !k.close).length ∧
    ∀ f ∈ s.flowsOf id, (s.closeDeadline id).flow f = { holder := (s.flow f).holder } := by
  unfold State.closeDeadline
  extract_lets fs n
  obtain ⟨hcmds, -⟩ := (s.foldl_closeFlow_sent fs).rest
  refine ⟨State.finishCmd_ends ((State.cmd_congr hcmds id).trans hcmd) hclean hrun, fun f hf => ?_⟩
  rw [State.flow_congr (State.finishCmd_noted ..).net.1, s.foldl_closeFlow_flow fs f hf]

end

/-- Settles O44: what FLOW_OPEN and FLOW_CLOSE make of one flow stays as they go on through their lists; out of time they close every flow. -/
theorem flowsOpenAndClose : Obligations.FlowsOpenAndClose := by
  unfold Obligations.FlowsOpenAndClose
  intro s id c hlive hclean
  refine ⟨?opens, ?closes, fun hop hdue => ?openTimeout, fun hop hdue => ?closeDeadline⟩
  case opens =>
    intro s1 n bs d hready hn hlo hhi hread hcmd hrun
    obtain ⟨t, hexec, hbegun, hended⟩ := exec_flowOpen hlive hready hn hlo hhi hread
    refine ⟨fun hgood => ?good, fun e hbad => ?bad⟩
    case good =>
      obtain ⟨hsent, hflows⟩ := s1.startFlows_holds id c.slot ((openList bs n).zip (List.range n))
      obtain ⟨hcmds, -⟩ := hsent.rest
      refine answers_of_exec (hexec.trans (congrArg _ (hbegun hgood))) ⟨⟨d, (State.cmd_congr hcmds id).trans hcmd, hrun⟩, fun i hi => ?_⟩
      exact hflows _ (mem_map_zip_range (fun i => (bs.drop (64 * i)).take 64) hi)
    case bad =>
      refine answers_of_exec (hexec.trans (congrArg _ (hended e hbad))) ⟨State.endCmd_ends _ _ hcmd (not_ended_of_running hrun), ?_⟩
      rw [State.endCmd_rest]
  case closes =>
    intro s1 n bs hready hn hlo hhi hread hgood
    obtain ⟨t, hexec, hflows⟩ := exec_flowClose hlive hready hn hlo hhi hread hgood
    refine answers_of_exec hexec fun i hi => ?_
    have hstate := s1.startCloses_state id _ _ (mem_map_zip_range (fun i => field bs (2 * i) 2) hi)
    rw [State.flow_congr hflows]
    exact hstate ▸ State.ending_of_closeBad (hgood i hi)
  case openTimeout =>
    obtain ⟨hcmd, -, hrun⟩ := State.runningOp_eq_some hop
    exact answers_of_exec (exec_flowOpenTimeout hop hdue) (State.openTimeout_holds hcmd hrun)
  case closeDeadline =>
    obtain ⟨hcmd, -, hrun⟩ := State.runningOp_eq_some hop
    exact answers_of_exec (exec_flowCloseDeadline hop hdue) (State.closeDeadline_holds hcmd hrun hclean)

end Sys2Proof.Machine

/-!
# What every command and every step keeps

The laws of each row (Laws/Keep*.lean and Laws/Rises.lean) put together: one statement about every command, and one about every step.
-/
namespace Sys2Proof.Machine

open Sys2Proof Sys2Proof.Safety

/-- A row that keeps the fuses only lets them rise. -/
theorem KeepsOut.rises {s : State} {o : Host.Outcome State Fault Refusal} (h : KeepsOut s o) : RisesOut s o :=
  let ⟨t, hnext, hkeeps⟩ := h
  ⟨t, hnext, hkeeps.rises⟩

/-- Every command goes to a next state: the fuses only rise, the queue stays and the memories keep their canonical form. -/
theorem exec_rises (c : Instr) (s : State) : RisesOut s (exec c s) := by
  cases c with
  | vinQualified => exact (execVinQualified_kept ..).rises
  | vinRecovered => exact (execVinRecovered_kept ..).rises
  | supplyWarnBegin => exact (execSupplyWarnBegin_kept ..).rises
  | supplyWarnEnd => exact (execSupplyWarnEnd_kept ..).rises
  | undervoltage => exact (execUndervoltage_kept ..).rises
  | overvoltage => exact (execOvervoltage_kept ..).rises
  | crystalLoss => exact (execCrystalLoss_kept ..).rises
  | crystalConfirmed => exact (execCrystalConfirmed_kept ..).rises
  | modResetN => exact (execModResetN_kept ..).rises
  | modResetNRelease => exact (execModResetNRelease_kept ..).rises
  | perstAssert => exact (execPerstAssert_kept ..).rises
  | perstDeassert => exact (execPerstDeassert_kept ..).rises
  | hotReset => exact (execHotReset_kept ..).rises
  | flrPf => exact (execFlrPf_kept ..).rises
  | flrVf => exact (execFlrVf_kept ..).rises
  | vfDisable => exact (execVfDisable_kept ..).rises
  | corePllLockLoss => exact (execCorePllLockLoss_kept ..).rises
  | basePllLockLoss => exact (execBasePllLockLoss_kept ..).rises
  | serdesPllLockLoss => exact (execSerdesPllLockLoss_kept ..).rises
  | resetRelease => exact execResetRelease_rise ..
  | thermal100 => exact (execThermal100_kept ..).rises
  | protectiveStop => exact (execProtectiveStop_kept ..).rises
  | protectHoldEnd => exact (execProtectHoldEnd_kept ..).rises
  | resetComplete => exact execResetComplete_rise ..
  | resetEscalation => exact (execResetEscalation_kept ..).rises
  | cxlExpanderReady => exact (execCxlExpanderReady_kept ..).rises
  | cxlX16Timeout => exact (execCxlX16Timeout_kept ..).rises
  | cxlLinkDown => exact (execCxlLinkDown_kept ..).rises
  | blockIdle => exact (execBlockIdle_kept ..).rises
  | blockSleep => exact (execBlockSleep_kept ..).rises
  | blockWakeDone => exact (execBlockWakeDone_kept ..).rises
  | blockLeaveOff => exact (execBlockLeaveOff_kept ..).rises
  | coreOffTimer => exact (execCoreOffTimer_kept ..).rises
  | configRequest => exact (execConfigRequest_kept ..).rises
  | d3hotEntry => exact (execD3hotEntry_kept ..).rises
  | d0Return => exact (execD0Return_kept ..).rises
  | bar4Resize => exact (execBar4Resize_kept ..).rises
  | bar4Write => exact (execBar4Write_kept ..).rises
  | bar4Read => exact (execBar4Read_kept ..).rises
  | registerWrite => exact (execRegisterWrite_kept ..).rises
  | registerReadLatch => exact (execRegisterReadLatch_kept ..).rises
  | sqEnable => exact (execSqEnable_kept ..).rises
  | sqDisable => exact (execSqDisable_kept ..).rises
  | sqIrqEnable => exact (execSqIrqEnable_kept ..).rises
  | sqTailDb => exact (execSqTailDb_kept ..).rises
  | cqHeadDb => exact (execCqHeadDb_kept ..).rises
  | cqIrqDelay => exact (execCqIrqDelay_kept ..).rises
  | eventEnable => exact (execEventEnable_kept ..).rises
  | eventDisable => exact (execEventDisable_kept ..).rises
  | ringHead => exact (execRingHead_kept ..).rises
  | bar4Va => exact (execBar4Va_kept ..).rises
  | twinAliasWrite => exact (execTwinAliasWrite_kept ..).rises
  | go => exact (execGo_kept ..).rises
  | abort => exact (execAbort_kept ..).rises
  | mboxDeliver => exact (execMboxDeliver_kept ..).rises
  | rxAck => exact (execRxAck_kept ..).rises
  | recordFetch => exact (execRecordFetch_kept ..).rises
  | admitRecord => exact (execAdmitRecord_kept ..).rises
  | nop => exact (execNop_kept ..).rises
  | tokenReset => exact (execTokenReset_kept ..).rises
  | tileRun => exact (execTileRun_kept ..).rises
  | passStart => exact (execPassStart_kept ..).rises
  | bankRun => exact (execBankRun_kept ..).rises
  | gather => exact (execGather_kept ..).rises
  | dmaCopy => exact (execDmaCopy_kept ..).rises
  | alloc => exact (execAlloc_kept ..).rises
  | free => exact (execFree_kept ..).rises
  | tierDeclare => exact (execTierDeclare_kept ..).rises
  | flowOpen => exact (execFlowOpen_kept ..).rises
  | flowClose => exact (execFlowClose_kept ..).rises
  | collective => exact (execCollective_kept ..).rises
  | vote => exact (execVote_kept ..).rises
  | resolve => exact (execResolve_kept ..).rises
  | update => exact (execUpdate_kept ..).rises
  | rowMode => exact (execRowMode_kept ..).rises
  | mirrorTx => exact (execMirrorTx_kept ..).rises
  | mirrorRx => exact (execMirrorRx_kept ..).rises
  | feedChunk => exact (execFeedChunk_kept ..).rises
  | stepResync => exact (execStepResync_kept ..).rises
  | flip => exact (execFlip_kept ..).rises
  | revert => exact (execRevert_kept ..).rises
  | twin => exact (execTwin_kept ..).rises
  | untwin => exact (execUntwin_kept ..).rises
  | weightLoad => exact (execWeightLoad_kept ..).rises
  | ckptWrite => exact (execCkptWrite_kept ..).rises
  | molt => exact (execMolt_kept ..).rises
  | moltPhaseTimeout => exact (execMoltPhaseTimeout_kept ..).rises
  | scrub => exact (execScrub_kept ..).rises
  | zero => exact (execZero_kept ..).rises
  | longopSuspend => exact (execLongopSuspend_kept ..).rises
  | longopResume => exact (execLongopResume_kept ..).rises
  | longopCancel => exact (execLongopCancel_kept ..).rises
  | longopUnitDone => exact (execLongopUnitDone_kept ..).rises
  | commandComplete => exact (execCommandComplete_kept ..).rises
  | overrun => exact (execOverrun_kept ..).rises
  | hostReadError => exact (execHostReadError_kept ..).rises
  | hostReadDeadline => exact (execHostReadDeadline_kept ..).rises
  | completionTimeout => exact (execCompletionTimeout_kept ..).rises
  | cocoonSave => exact (execCocoonSave_kept ..).rises
  | cocoonSaveDone => exact (execCocoonSaveDone_kept ..).rises
  | cocoonRestore => exact (execCocoonRestore_kept ..).rises
  | cocoonRestoreDone => exact (execCocoonRestoreDone_kept ..).rises
  | requestIssue => exact (execRequestIssue_kept ..).rises
  | memoryReply => exact (execMemoryReply_kept ..).rises
  | streamRowFetch => exact (execStreamRowFetch_kept ..).rises
  | patrolScrub => exact (execPatrolScrub_kept ..).rises
  | frameRetireCopy => exact (execFrameRetireCopy_kept ..).rises
  | memoryZeroDone => exact (execMemoryZeroDone_kept ..).rises
  | scratchScrub => exact (execScratchScrub_kept ..).rises
  | uopEnd => exact (execUopEnd_kept ..).rises
  | uopLd => exact (execUopLd_kept ..).rises
  | uopSt => exact (execUopSt_kept ..).rises
  | uopLdw => exact (execUopLdw_kept ..).rises
  | uopStn => exact (execUopStn_kept ..).rises
  | uopLds => exact (execUopLds_kept ..).rises
  | uopSts => exact (execUopSts_kept ..).rises
  | uopAinc => exact (execUopAinc_kept ..).rises
  | uopMovk => exact (execUopMovk_kept ..).rises
  | uopFadd => exact (execUopFadd_kept ..).rises
  | uopFsub => exact (execUopFsub_kept ..).rises
  | uopFmul => exact (execUopFmul_kept ..).rises
  | uopFma => exact (execUopFma_kept ..).rises
  | uopFmak => exact (execUopFmak_kept ..).rises
  | uopFmax => exact (execUopFmax_kept ..).rises
  | uopFmin => exact (execUopFmin_kept ..).rises
  | uopFabs => exact (execUopFabs_kept ..).rises
  | uopFsqrt => exact (execUopFsqrt_kept ..).rises
  | uopFrcp => exact (execUopFrcp_kept ..).rises
  | uopFrsq => exact (execUopFrsq_kept ..).rises
  | uopHfma => exact (execUopHfma_kept ..).rises
  | uopMxq => exact (execUopMxq_kept ..).rises
  | uopMxd => exact (execUopMxd_kept ..).rises
  | uopLsum => exact (execUopLsum_kept ..).rises
  | uopGsum => exact (execUopGsum_kept ..).rises
  | uopGmax => exact (execUopGmax_kept ..).rises
  | uopLoop => exact (execUopLoop_kept ..).rises
  | vEnd => exact (execVEnd_kept ..).rises
  | vLoop => exact (execVLoop_kept ..).rises
  | vMovk => exact (execVMovk_kept ..).rises
  | vXset => exact (execVXset_kept ..).rises
  | vXadd => exact (execVXadd_kept ..).rises
  | vLd => exact (execVLd_kept ..).rises
  | vLdh => exact (execVLdh_kept ..).rises
  | vLdb => exact (execVLdb_kept ..).rises
  | vSt => exact (execVSt_kept ..).rises
  | vSth => exact (execVSth_kept ..).rises
  | vSta => exact (execVSta_kept ..).rises
  | vTqr => exact (execVTqr_kept ..).rises
  | vTqwait => exact (execVTqwait_kept ..).rises
  | vTqdrop => exact (execVTqdrop_kept ..).rises
  | vFadd => exact (execVFadd_kept ..).rises
  | vFsub => exact (execVFsub_kept ..).rises
  | vFmul => exact (execVFmul_kept ..).rises
  | vFma => exact (execVFma_kept ..).rises
  | vFnma => exact (execVFnma_kept ..).rises
  | vFaddk => exact (execVFaddk_kept ..).rises
  | vFmulk => exact (execVFmulk_kept ..).rises
  | vFmak => exact (execVFmak_kept ..).rises
  | vFmax => exact (execVFmax_kept ..).rises
  | vFmin => exact (execVFmin_kept ..).rises
  | vFmaxk => exact (execVFmaxk_kept ..).rises
  | vFabs => exact (execVFabs_kept ..).rises
  | vFdiv => exact (execVFdiv_kept ..).rises
  | vFsel => exact (execVFsel_kept ..).rises
  | vVmov => exact (execVVmov_kept ..).rises
  | vFcmplt => exact (execVFcmplt_kept ..).rises
  | vFcmpeq => exact (execVFcmpeq_kept ..).rises
  | vFcmpun => exact (execVFcmpun_kept ..).rises
  | vFcmpltk => exact (execVFcmpltk_kept ..).rises
  | vMand => exact (execVMand_kept ..).rises
  | vMor => exact (execVMor_kept ..).rises
  | vFsqrt => exact (execVFsqrt_kept ..).rises
  | vFrcp => exact (execVFrcp_kept ..).rises
  | vFrsq => exact (execVFrsq_kept ..).rises
  | vFexp => exact (execVFexp_kept ..).rises
  | vFexp2 => exact (execVFexp2_kept ..).rises
  | vFlog => exact (execVFlog_kept ..).rises
  | vFtanh => exact (execVFtanh_kept ..).rises
  | vFsigm => exact (execVFsigm_kept ..).rises
  | vFerf => exact (execVFerf_kept ..).rises
  | vFsin => exact (execVFsin_kept ..).rises
  | vFcos => exact (execVFcos_kept ..).rises
  | vF2i => exact (execVF2i_kept ..).rises
  | vI2f => exact (execVI2f_kept ..).rises
  | vRsum => exact (execVRsum_kept ..).rises
  | vRmax => exact (execVRmax_kept ..).rises
  | vSexp => exact (execVSexp_kept ..).rises
  | vBcast => exact (execVBcast_kept ..).rises
  | vPswap => exact (execVPswap_kept ..).rises
  | linkDown => exact (execLinkDown_kept ..).rises
  | linkUp => exact (execLinkUp_kept ..).rises
  | arpRequest => exact (execArpRequest_kept ..).rises
  | neighborSolicitation => exact (execNeighborSolicitation_kept ..).rises
  | echoRequest => exact (execEchoRequest_kept ..).rises
  | nextHopResolved => exact (execNextHopResolved_kept ..).rises
  | nextHopRetry => exact (execNextHopRetry_kept ..).rises
  | nonSilkFrame => exact (execNonSilkFrame_kept ..).rises
  | pauseFrame => exact (execPauseFrame_kept ..).rises
  | pfcFrame => exact (execPfcFrame_kept ..).rises
  | data => exact (execData_kept ..).rises
  | ack => exact (execAck_kept ..).rises
  | keepalive => exact (execKeepalive_kept ..).rises
  | depart => exact (execDepart_kept ..).rises
  | openPkt => exact (execOpenPkt_kept ..).rises
  | openAck => exact (execOpenAck_kept ..).rises
  | closePkt => exact (execClosePkt_kept ..).rises
  | dataSend => exact (execDataSend_kept ..).rises
  | openResend => exact (execOpenResend_kept ..).rises
  | keepaliveTimer => exact (execKeepaliveTimer_kept ..).rises
  | peerTimeout => exact (execPeerTimeout_kept ..).rises
  | flowHoldExpiry => exact (execFlowHoldExpiry_kept ..).rises
  | rtoExpiry => exact (execRtoExpiry_kept ..).rises
  | ackDelay => exact (execAckDelay_kept ..).rises
  | ccRound => exact (execCcRound_kept ..).rises
  | flowOpenTimeout => exact (execFlowOpenTimeout_kept ..).rises
  | flowCloseDeadline => exact (execFlowCloseDeadline_kept ..).rises
  | chunkServe => exact (execChunkServe_kept ..).rises
  | collTimeout => exact (execCollTimeout_kept ..).rises
  | voteResult => exact (execVoteResult_kept ..).rises
  | weightScrubPass => exact (execWeightScrubPass_kept ..).rises
  | hangDetected => exact (execHangDetected_kept ..).rises
  | fenceDrainExpiry => exact (execFenceDrainExpiry_kept ..).rises
  | healthUpdate => exact (execHealthUpdate_kept ..).rises
  | divergenceCheck => exact (execDivergenceCheck_kept ..).rises
  | persistCommit => exact (execPersistCommit_kept ..).rises
  | pribyRead => exact execPribyRead_rise ..
  | pribyWrite => exact execPribyWrite_rise ..
  | coreState => exact execCoreState_rise ..
  | fieldBadGroups => exact execFieldBadGroups_rise ..
  | resetCmd => exact execResetCmd_rise ..
  | retireCore => exact execRetireCore_rise ..
  | restoreDefaults => exact execRestoreDefaults_rise ..
  | alertClear => exact execAlertClear_rise ..
  | protectClear => exact execProtectClear_rise ..
  | dumpCancel => exact execDumpCancel_rise ..
  | dumpSuspend => exact execDumpSuspend_rise ..
  | dumpResume => exact execDumpResume_rise ..
  | fwActivate => exact execFwActivate_rise ..
  | fwConfirm => exact execFwConfirm_rise ..
  | fwTrialAbandon => exact execFwTrialAbandon_rise ..
  | stageSuspend => exact execStageSuspend_rise ..
  | stageResume => exact execStageResume_rise ..
  | stageCancel => exact execStageCancel_rise ..
  | entdaa => exact (execEntdaa_kept ..).rises
  | setdasa => exact (execSetdasa_kept ..).rises
  | getstatus => exact (execGetstatus_kept ..).rises
  | setEndpointId => exact (execSetEndpointId_kept ..).rises
  | getEndpointId => exact (execGetEndpointId_kept ..).rises
  | getMctpVersionSupport => exact (execGetMctpVersionSupport_kept ..).rises
  | getMessageTypeSupport => exact (execGetMessageTypeSupport_kept ..).rises
  | getVendorDefinedSupport => exact (execGetVendorDefinedSupport_kept ..).rises
  | doeDiscovery => exact (execDoeDiscovery_kept ..).rises
  | getVersion => exact (execGetVersion_kept ..).rises
  | getCapabilities => exact (execGetCapabilities_kept ..).rises
  | negotiateAlgorithms => exact (execNegotiateAlgorithms_kept ..).rises
  | getDigests => exact (execGetDigests_kept ..).rises
  | getCertificate => exact (execGetCertificate_kept ..).rises
  | challenge => exact (execChallenge_kept ..).rises
  | getMeasurements => exact (execGetMeasurements_kept ..).rises
  | creifBegin => exact (execCreifBegin_kept ..).rises
  | creifData => exact (execCreifData_kept ..).rises
  | creifEnd => exact execCreifEnd_rise ..
  | creifAck => exact (execCreifAck_kept ..).rises
  | creifAbort => exact (execCreifAbort_kept ..).rises
  | creifResend => exact (execCreifResend_kept ..).rises
  | creifSessionTimeout => exact (execCreifSessionTimeout_kept ..).rises
  | stageVerifyDone => exact (execStageVerifyDone_kept ..).rises
  | selftestDone => exact (execSelftestDone_kept ..).rises
  | thermalRearm => exact (execThermalRearm_kept ..).rises
  | vinLost => exact (execVinLost_kept ..).rises
  | supervisorMemoryError => exact (execSupervisorMemoryError_kept ..).rises
  | hostLinkTrained => exact (execHostLinkTrained_kept ..).rises


/-- A step runs the front command on the queue's rest, or is an idle µs: either way the fuses only rise and the memories keep their canonical form. -/
theorem step_rises {s t : State} (h : step s = .next t) : fusesRise s.fuses t.fuses ∧ (memWf s → memWf t) := by
  unfold step at h
  split at h
  case h_1 =>
    cases h
    exact ⟨s.tick_kept.rises.fuses, s.tick_kept.mem⟩
  case h_2 c rest _ =>
    obtain ⟨u, hexec, hrises⟩ := exec_rises c { s with pending := rest }
    cases hexec.symm.trans h
    exact ⟨hrises.fuses, hrises.mem⟩

/-- Settles O3: every command and the tick only raise fuses. -/
theorem fusesOnlyRise : Obligations.FusesOnlyRise := by
  unfold Obligations.FusesOnlyRise
  exact fun s t h => (step_rises h).1

/-- Settles O60: every command and the tick keep the memories' canonical form. -/
theorem memoryKeepsForm : Obligations.MemoryKeepsForm := by
  unfold Obligations.MemoryKeepsForm
  exact fun s t hwf h => (step_rises h).2 hwf

/-- Settles O5: each row's law names the next state it goes to, with the queue as it was. -/
theorem everyCommandAnswers : Obligations.EveryCommandAnswers := by
  unfold Obligations.EveryCommandAnswers
  intro c s
  obtain ⟨t, hexec, hrises⟩ := exec_rises c s
  exact ⟨t, hexec, hrises.pending⟩

/-- Settles O1, by the definition of a step on a queue that is not empty. -/
theorem stepRunsFront : Obligations.StepRunsFront := by
  unfold Obligations.StepRunsFront
  intro s c rest h
  rw [step, h]

end Sys2Proof.Machine

/-!
# A request of the management dictionary (R627 to R637)

What a request does that the supervisor runs, that repeats no kept one, and that names an entry: its operation runs on a state that differs from
the one before in the request's count and the entry's mirror alone; its reply has the status and the value, and little else follows.
-/
namespace Sys2Proof.Machine

open Sys2Proof Sys2Proof.Safety

section
variable {s t u x : State} {r : PribyReq} {op index sub st : Nat} {e : Entry} {ok : Bool}

/-! ## Fields of a packet -/

@[simp] theorem length_bytesOfNat (x n : Nat) : (bytesOfNat x n).length = n := bytesOfNat_length x n

theorem natOfBytes_bytesOfNat (x n : Nat) : natOfBytes (bytesOfNat x n) = x % 256 ^ n := by
  induction n generalizing x with
  | zero => simp [bytesOfNat, natOfBytes, Nat.mod_one]
  | succ n ih =>
    rw [bytesOfNat, natOfBytes, ih, Nat.pow_succ', Nat.mod_mul]
    simp

/-- A field that spans one piece of a message reads that piece. -/
theorem field_middle (a b c : List Byte) {off len : Nat} (ha : a.length = off) (hb : b.length = len) :
    field (a ++ b ++ c) off len = natOfBytes b := by
  subst ha hb
  simp [field]

/-- A number written as bytes in the middle of a message is read back. -/
theorem field_bytesOfNat (a c : List Byte) {v off len : Nat} (ha : a.length = off) (hv : v < 256 ^ len) :
    field (a ++ bytesOfNat v len ++ c) off len = v := by
  rw [field_middle a _ c ha (bytesOfNat_length v len), natOfBytes_bytesOfNat, Nat.mod_eq_of_lt hv]

/-! ## What a count, a kept reply and a mirror change -/

/-- The request's count and the entry's mirror brought up to date: what an operation runs on. -/
def State.pribyTaken (s : State) (index sub : Nat) : State := (s.count 0x2060 2 1).touchMirror index sub

theorem State.touchMirror_form (s : State) (index sub : Nat) :
    ∃ v q, s.touchMirror index sub = { s with sup := { s.sup with mirrorVal := v, mirrorSeq := q } } := by
  unfold State.touchMirror
  dsimp only
  split
  · exact ⟨_, _, rfl⟩
  · exact ⟨_, _, rfl⟩

/-- t differs from s at most in the dictionary's values of index 0x2060 and in what the supervisor notes of mirrors. -/
def Minds (s t : State) : Prop :=
  ∃ d v q, t = { s with dict := d, sup := { s.sup with mirrorVal := v, mirrorSeq := q } } ∧
    ∀ key, key / 256 ≠ 0x2060 → t.dictGet key = s.dictGet key

theorem dk_div (index : Nat) {sub : Nat} (h : sub < 256) : dk index sub / 256 = index := by
  unfold dk; omega

theorem dk_mod (index : Nat) {sub : Nat} (h : sub < 256) : dk index sub % 256 = sub := by
  unfold dk; omega

theorem dk_ne {index i sub j : Nat} (h : index ≠ i) (hs : sub < 256) (hj : j < 256) : dk index sub ≠ dk i j := by
  unfold dk; omega

theorem State.pribyTaken_minds (s : State) (index sub : Nat) : Minds s (s.pribyTaken index sub) := by
  obtain ⟨d, hd⟩ := s.count_rest 0x2060 2 1
  obtain ⟨v, q, hq⟩ := (s.count 0x2060 2 1).touchMirror_form index sub
  refine ⟨d, v, q, by rw [State.pribyTaken, hq, hd], fun key hkey => ?_⟩
  rw [State.pribyTaken, hq]
  change (s.count 0x2060 2 1).dictGet key = s.dictGet key
  exact State.dictGet_count_other s 1 fun heq => hkey (heq ▸ dk_div 0x2060 (by decide))

theorem Minds.entry (h : Minds s t) (hindex : index ≠ 0x2060) (hsub : sub < 256) : t.entry index sub = s.entry index sub := by
  obtain ⟨d, v, q, -, hdict⟩ := h
  exact hdict _ (by rwa [dk_div index hsub])

theorem Minds.deviceState (h : Minds s t) : t.deviceState = s.deviceState := by
  have hentry := h.entry (index := 0x8000) (sub := 1) (by decide) (by decide)
  obtain ⟨d, v, q, rfl, -⟩ := h
  unfold State.deviceState
  rw [hentry]

theorem Minds.macOf (h : Minds s t) (lane : Nat) : t.macOf lane = s.macOf lane := by
  unfold State.macOf
  rw [h.entry (by decide) (by decide)]

/-- What an entry derives from other state is as before. -/
theorem Minds.derived (h : Minds s t) (index sub : Nat) : t.derived index sub = s.derived index sub := by
  have hstate := h.deviceState
  have hmac := h.macOf
  obtain ⟨d, v, q, rfl, -⟩ := h
  unfold State.derived
  simp only [hstate, hmac]
  rfl

/-- An entry of another index reads as before. -/
theorem Minds.entryValue (h : Minds s t) (hindex : index ≠ 0x2060) (hsub : sub < 256) : t.entryValue index sub = s.entryValue index sub := by
  have hderived := h.derived index sub
  have hentry : t.dictGet (dk index sub) = s.dictGet (dk index sub) := h.entry hindex hsub
  have habsent : t.portAbsent index sub = s.portAbsent index sub := by
    obtain ⟨d, v, q, rfl, -⟩ := h
    rfl
  unfold State.entryValue
  rw [habsent, hderived, hentry]

theorem Minds.shown (h : Minds s t) (hindex : index ≠ 0x2060) (hsub : sub < 256) : t.shown index sub = s.shown index sub := by
  have hvalue := h.entryValue hindex hsub
  have hlag : t.sup.lag = s.sup.lag := by
    obtain ⟨d, v, q, rfl, -⟩ := h
    rfl
  unfold State.shown
  rw [hvalue, hlag]

/-! ## A request that is run -/

theorem pribyIs_iff : pribyIs r op index sub = true ↔
    pribyOk r.bytes = true ∧ field r.bytes 1 1 = op ∧ field r.bytes 4 2 = index ∧ field r.bytes 6 1 = sub := by
  simp [pribyIs, and_assoc]

theorem pribyOk_length (h : pribyOk r.bytes = true) : 40 ≤ r.bytes.length := by
  simp only [pribyOk, Bool.and_eq_true, decide_eq_true_eq] at h
  exact h.1.1.1

theorem field_lt_256 (bs : List Byte) (off : Nat) : field bs off 1 < 256 := field_lt bs off 1

/-- The packet of a request that is asked: its form, its operation and its entry. -/
theorem asked_packet (h : asked s r op index sub) :
    pribyOk r.bytes = true ∧ field r.bytes 1 1 = op ∧ field r.bytes 4 2 = index ∧ field r.bytes 6 1 = sub := by
  obtain ⟨-, -, -, -, his, -⟩ := h
  exact pribyIs_iff.mp his

theorem asked_is (h : asked s r op index sub) : pribyIs r op index sub = true := pribyIs_iff.mpr (asked_packet h)

theorem asked_sub_lt (h : asked s r op index sub) : sub < 256 := by
  obtain ⟨-, -, -, hsub⟩ := asked_packet h
  exact hsub ▸ field_lt_256 ..

theorem entryAt_index (h : entryAt index sub = some e) : e ∈ entryTable ∧ e.index = index := by
  have hp := List.find?_some h
  simp only [Bool.and_eq_true, beq_iff_eq] at hp
  exact ⟨List.mem_of_find?_eq_some h, hp.1.1⟩

/-- Past boot step 10 an entry that is defined is found (R627, R641). -/
theorem State.findEntry_defined (hserv : s.serviceOnly = false) (hstage : 10 ≤ s.boot.stage) (hsub : sub ≠ 0) (he : entryAt index sub = some e) :
    s.findEntry index sub = (0, some e) := by
  have hany : entryTable.any (·.index == index) = true := by
    obtain ⟨hmem, hindex⟩ := entryAt_index he
    exact List.any_eq_true.mpr ⟨e, hmem, by simp [hindex]⟩
  have hlate : ¬ s.boot.stage < 10 := by omega
  simp [State.findEntry, hany, hsub, he, hserv, hlate]

/-- A request run, with the count of the writes and commands that succeed and the entry's change counter (R637). -/
def Ran.settled (p : Ran) (op index sub : Nat) : Ran :=
  if p.status = 0 ∧ (op = 2 ∨ op = 3) then
    { p with state := { p.state.count 0x2060 1 1 with sup := { (p.state.count 0x2060 1 1).sup with
      changes := tabSet 0 (p.state.count 0x2060 1 1).sup.changes (dk index sub)
        ((tabGet 0 (p.state.count 0x2060 1 1).sup.changes (dk index sub) + 1) % 2 ^ 32) } } }
  else p

/-- A request asked of a defined entry whose unit is in no reset runs its operation on the state that has noted it. -/
theorem State.priby_asked (h : asked s r op index sub) (hsub : sub ≠ 0) (he : entryAt index sub = some e) (hreset : s.unitReset index sub = false) :
    s.priby r ok = (((s.pribyTaken index sub).operate r.bytes e ok).settled op index sub).state.pribyFinish r
      (((s.pribyTaken index sub).operate r.bytes e ok).settled op index sub) := by
  obtain ⟨hok, hop, hindex, hfield⟩ := asked_packet h
  obtain ⟨hsup, hserv, hstage, hreplies, -, hres, -⟩ := h
  obtain ⟨d, hd⟩ := s.count_rest 0x2060 2 1
  have hfind : (s.count 0x2060 2 1).findEntry index sub = (0, some e) :=
    State.findEntry_defined (by rw [hd]; exact hserv) (by rw [hd]; exact hstage) hsub he
  have hunit : (s.count 0x2060 2 1).unitReset index sub = false := by rw [hd]; exact hreset
  have hrun : (s.count 0x2060 2 1).runRequest r.bytes ok = ((s.pribyTaken index sub).operate r.bytes e ok).settled op index sub := by
    unfold State.runRequest
    rw [hindex, hfield, hop, if_neg (by simp [hres]), hfind]
    dsimp only
    rw [if_neg (by simp [hunit])]
    rfl
  unfold State.priby
  rw [if_neg (by simp [hsup]), if_neg (by simp [hok]), hreplies]
  dsimp only [List.find?_nil]
  rw [hrun]

/-! ## What is answered -/

/-- t is x with a reply to a request: nothing but the reply, the kept replies, the entry's change counter and the count of changes differs. -/
structure Answered (x t : State) (r : PribyReq) (st : Nat) (value : List Byte) : Prop where
  rest : ∃ d c k l, t = { x with dict := d, out := l, sup := { x.sup with changes := c, replies := k } }
  dict : ∀ key, key ≠ dk 0x2060 1 → t.dictGet key = x.dictGet key
  reply : ∃ l reply, t.out = x.out ++ l ∧ Out.priby r.mctp r.source reply ∈ l ∧ field reply 0x0E 2 = st ∧ reply.drop 40 = value

theorem Ran.settled_rest (p : Ran) (op index sub : Nat) :
    ∃ d c, (p.settled op index sub).state = { p.state with dict := d, sup := { p.state.sup with changes := c } } ∧
      (p.settled op index sub).status = p.status ∧ (p.settled op index sub).value = p.value ∧ (p.settled op index sub).after = p.after ∧
      ∀ key, key ≠ dk 0x2060 1 → (p.settled op index sub).state.dictGet key = p.state.dictGet key := by
  unfold Ran.settled
  split
  · have hcount : ∀ key, key ≠ dk 0x2060 1 → (p.state.count 0x2060 1 1).dictGet key = p.state.dictGet key :=
      fun key hkey => State.dictGet_count_other p.state 1 hkey
    obtain ⟨d, hd⟩ := p.state.count_rest 0x2060 1 1
    rw [hd] at hcount
    rw [hd]
    exact ⟨_, _, rfl, rfl, rfl, rfl, fun key hkey => hcount key hkey⟩
  · exact ⟨_, _, rfl, rfl, rfl, rfl, fun _ _ => rfl⟩

/-- The reply packet names the status at 0x0E and holds the value past its header (R633). -/
theorem State.pribyReplyBytes_fields (hlen : 40 ≤ r.bytes.length) (p : Ran) (hst : p.status < 65536) :
    field (s.pribyReplyBytes r.bytes p) 0x0E 2 = p.status ∧
    (s.pribyReplyBytes r.bytes p).drop 40 = if p.status = 0 then p.value else [] := by
  have hfour : (if field r.bytes 1 1 = 1 then (r.bytes.drop 8).take 4 else bytesOfNat 0 4).length = 4 := by
    split
    · simp; omega
    · rfl
  unfold State.pribyReplyBytes
  constructor
  · simp only [List.append_assoc]
    simp only [← List.append_assoc _ _ (bytesOfNat p.status 2 ++ _)]
    rw [← List.append_assoc _ (bytesOfNat p.status 2)]
    refine field_bytesOfNat _ _ ?_ hst
    simp only [List.length_append, length_bytesOfNat, hfour, List.length_take, List.length_drop]
    omega
  · refine List.drop_left' ?_
    simp only [List.length_append, length_bytesOfNat, hfour, List.length_take, List.length_drop]
    omega

theorem State.pribyReply_answered (hlen : 40 ≤ r.bytes.length) (p : Ran) (hst : p.status < 65536) :
    Answered p.state (p.state.pribyReply r (p.state.pribyReplyBytes r.bytes p)) r p.status (if p.status = 0 then p.value else []) := by
  obtain ⟨hstatus, hvalue⟩ := State.pribyReplyBytes_fields (s := p.state) hlen p hst
  exact ⟨⟨_, _, _, _, rfl⟩, fun _ _ => rfl, _, _, List.append_assoc .., List.mem_append_left _ (List.mem_singleton_self _), hstatus, hvalue⟩

/-- A request whose reply waits for nothing is answered, and the reset it asks for follows. -/
theorem State.priby_replies (h : asked s r op index sub) (hsub : sub ≠ 0) (he : entryAt index sub = some e) (hreset : s.unitReset index sub = false)
    {p : Ran} (hp : (s.pribyTaken index sub).operate r.bytes e ok = p) (hhold : p.after.hold = none) (hst : p.status < 65536) :
    ∃ y, Answered p.state y r p.status (if p.status = 0 then p.value else []) ∧
      s.priby r ok = match p.after.reset with
        | some t => y.doReset t.1 0x20 (retire := t.2)
        | none => y := by
  rw [State.priby_asked h hsub he hreset, hp]
  obtain ⟨d, c, hstate, hstatus, hvalue, hafter, hdict⟩ := p.settled_rest op index sub
  have hreply := State.pribyReply_answered (r := r) (pribyOk_length (asked_packet h).1) (p.settled op index sub) (hstatus ▸ hst)
  rw [hstatus, hvalue] at hreply
  obtain ⟨⟨d', c', k, l, hrest⟩, hdict', reply⟩ := hreply
  refine ⟨_, ⟨⟨d', c', k, l, ?_⟩, fun key hkey => (hdict' key hkey).trans (hdict key hkey), ?_⟩, ?_⟩
  · rw [hrest, hstate]
  · rwa [hstate] at reply ⊢
  · unfold State.pribyFinish
    cases hasked : p.after.reset <;> simp only [hafter, hhold, hasked]

/-- A request that asks for nothing more is answered. -/
theorem State.priby_answered (h : asked s r op index sub) (hsub : sub ≠ 0) (he : entryAt index sub = some e) (hreset : s.unitReset index sub = false)
    {p : Ran} (hp : (s.pribyTaken index sub).operate r.bytes e ok = p) (hafter : p.after = {}) (hst : p.status < 65536) :
    Answered p.state (s.priby r ok) r p.status (if p.status = 0 then p.value else []) := by
  obtain ⟨y, hanswer, heq⟩ := State.priby_replies h hsub he hreset hp (by rw [hafter]) hst
  rw [hafter] at heq
  exact heq ▸ hanswer

/-- A request answered from a state whose messages follow those of s has been replied to. -/
theorem Answered.replied {value : List Byte} (h : Answered x t r st value) (hout : s.out <+: x.out) : replied s t r st := by
  obtain ⟨l, reply, hl, hmem, hst, -⟩ := h.reply
  obtain ⟨l', hl'⟩ := hout
  exact ⟨l' ++ l, reply, by rw [hl, ← hl', List.append_assoc], List.mem_append_right _ hmem, hst⟩

end

end Sys2Proof.Machine

/-!
# Commands of the management dictionary: dumps, trials and staging (R610, R618, R658, R660, R662, R665, R666)
-/
namespace Sys2Proof.Machine

open Sys2Proof Sys2Proof.Safety

section
variable {s t u x : State} {r : PribyReq} {op index sub st : Nat} {e : Entry} {ok : Bool}

/-! ## A command run -/

/-- A command's operation is the entry's, with its argument. -/
theorem State.operate_command (h : asked s r 3 index sub) (he : entryAt index sub = some e) (haccess : e.access = .cmd) :
    u.operate r.bytes e ok =
      { state := (u.execEntry index sub (asks r)).1, status := (u.execEntry index sub (asks r)).2.1, total := e.bytes (u.shown index sub),
        ty := e.ty.code, after := (u.execEntry index sub (asks r)).2.2 } := by
  obtain ⟨-, hop, -, hsub⟩ := asked_packet h
  obtain ⟨-, -, -, -, -, -, hty, hoff, hlen⟩ := h
  obtain ⟨-, hindex⟩ := entryAt_index he
  unfold State.operate asks
  simp [haccess, hop, hsub, hindex, hty, hoff, hlen rfl]

/-- The entry is one of a command (R629). -/
def isCommand (index sub : Nat) : Bool :=
  match entryAt index sub with
  | some e => e.access == .cmd
  | none => false

theorem entryAt_of_isCommand (h : isCommand index sub = true) : ∃ e, entryAt index sub = some e ∧ e.access = .cmd := by
  unfold isCommand at h
  split at h
  · exact ⟨_, ‹_›, by simpa using h⟩
  · cases h

/-- A command that asks for nothing more is answered with the status of its operation. -/
theorem State.priby_command (h : asked s r 3 index sub) (hcmd : isCommand index sub = true) (hsub : sub ≠ 0)
    (hmirror : mirrored index = false) (hx : (s.pribyTaken index sub).execEntry index sub (asks r) = (x, st, {})) (hst : st < 65536) :
    Answered x (s.priby r ok) r st [] := by
  obtain ⟨e, he, haccess⟩ := entryAt_of_isCommand hcmd
  have hrun := State.operate_command (ok := ok) (u := s.pribyTaken index sub) h he haccess
  rw [hx] at hrun
  have hanswer := State.priby_answered h hsub he (by simp [State.unitReset, hmirror]) hrun rfl hst
  simpa using hanswer

/-! ## What messages follow others -/

theorem State.foldl_out {α : Type} {f : State → α → State} (h : ∀ x a, x.out <+: (f x a).out) (l : List α) (s : State) : s.out <+: (l.foldl f s).out := by
  induction l generalizing s with
  | nil => exact List.prefix_rfl
  | cons a l ih => exact (h s a).trans (ih _)

theorem State.interrupt_out (s : State) (f vec : Nat) : s.out <+: (s.interrupt f vec).out := by
  unfold State.interrupt
  dsimp only
  split
  · exact List.prefix_rfl
  · split
    · exact List.prefix_rfl
    · split
      · exact List.prefix_rfl
      · exact List.prefix_append ..

theorem State.ringWrite_out (s : State) (f code detail time : Nat) : s.out <+: (s.ringWrite f code detail time).out := by
  unfold State.ringWrite
  dsimp only
  split
  · exact List.prefix_rfl
  · split
    · split
      · refine List.IsPrefix.trans ?_ (State.interrupt_out ..)
        exact List.prefix_rfl
      · exact List.prefix_rfl
    · exact List.prefix_rfl

theorem State.eventTo_out (s : State) (code detail f : Nat) : s.out <+: (s.eventTo code detail f).out := by
  unfold State.eventTo
  split
  · exact List.prefix_rfl
  · split
    · exact List.prefix_rfl
    · exact State.ringWrite_out ..

/-- An event adds to the messages that have left. -/
theorem State.event_out (s : State) (code detail : Nat) (l : List Nat) : s.out <+: (s.event code detail l).out := by
  have halert : (s.alert code).out = s.out := by
    unfold State.alert
    dsimp only
    split <;> rfl
  exact halert ▸ State.foldl_out (fun x f => x.eventTo_out code detail f) l.eraseDups (s.alert code)

/-- Packets sent out of a dump add messages and move their sessions on. -/
theorem State.exportMore_rest (s : State) (id n : Nat) :
    ∃ o y, s.exportMore id n = { s with out := s.out ++ o, sup := { s.sup with sessions := y } } := by
  induction n generalizing s with
  | zero => exact ⟨[], s.sup.sessions, by simp [State.exportMore]⟩
  | succ n ih =>
    unfold State.exportMore
    split
    · exact ⟨[], s.sup.sessions, by simp⟩
    · dsimp only
      split
      · exact ⟨[], s.sup.sessions, by simp⟩
      · obtain ⟨o, y, h⟩ := ih _
        rw [h]
        exact ⟨_, _, by simp only [State.setSession, State.sendCreif, List.append_assoc]; rfl⟩

/-! ## What a request noted and a request answered leave -/

/-- What a request reads of the machine is as before it was noted. -/
theorem Minds.keeps (h : Minds s u) :
    u.out = s.out ∧ u.fuses = s.fuses ∧ u.boot = s.boot ∧ u.flash = s.flash ∧ u.pins = s.pins ∧ u.sup.dumps = s.sup.dumps ∧
    u.sup.sessions = s.sup.sessions ∧ u.sup.staging = s.sup.staging ∧ u.sup.bootCtl = s.sup.bootCtl := by
  obtain ⟨d, v, q, rfl, -⟩ := h
  and_intros <;> rfl

/-- An answer leaves what its operation made. -/
theorem Answered.keeps {value : List Byte} (h : Answered x t r st value) :
    t.fuses = x.fuses ∧ t.boot = x.boot ∧ t.flash = x.flash ∧ t.pins = x.pins ∧ t.sup.dumps = x.sup.dumps ∧
    t.sup.sessions = x.sup.sessions ∧ t.sup.staging = x.sup.staging ∧ t.sup.bootCtl = x.sup.bootCtl := by
  obtain ⟨⟨d, c, k, l, rfl⟩, -, -⟩ := h
  and_intros <;> rfl

theorem State.dump_congr (h : t.sup.dumps = s.sup.dumps) (k : Nat) : t.dump k = s.dump k := by
  rw [State.dump, State.dump, h]

@[simp] theorem State.dump_setDump (s : State) (k : Nat) (d : Dump) : (s.setDump k d).dump k = d := by
  simp [State.dump, State.setDump]

theorem State.flashRead_congr (h : t.flash = s.flash) (a n : Nat) : t.flashRead a n = s.flashRead a n := by
  induction n generalizing a with
  | zero => rfl
  | succ n ih => rw [State.flashRead, State.flashRead, ih, State.flashByte, State.flashByte, h]

theorem State.manifest_congr (h : t.flash = s.flash) (k : Nat) : t.manifest k = s.manifest k := State.flashRead_congr h ..

/-- The CMD entries of the dictionary that the statements speak of. -/
def commandEntries : List (Nat × Nat) :=
  [(0x4001, 8), (0x8022, 1), (0x8022, 2), (0x8022, 3), (0x8022, 4), (0x8023, 1), (0x8023, 2), (0x8023, 3), (0x8023, 4), (0x8024, 1), (0x8024, 2),
    (0x8024, 3), (0x8024, 4), (0x8030, 3), (0x9000, 1), (0x9000, 2), (0x9000, 3), (0xA006, 1), (0xA006, 2), (0xA006, 3), (0xA007, 3),
    (0xA007, 4), (0xA007, 5)]

theorem isCommand_of_mem {index sub : Nat} (h : (index, sub) ∈ commandEntries) : isCommand index sub = true := by
  have hall : ∀ c ∈ commandEntries, isCommand c.1 c.2 = true := by decide +kernel
  exact hall _ h

/-! ## What each command entry does -/

theorem State.execEntry_dumpCancel (arg : Nat) : s.execEntry 0x8022 sub arg = ((s.dumpCancel (sub - 1)).1, (s.dumpCancel (sub - 1)).2, {}) := rfl
theorem State.execEntry_dumpSuspend (arg : Nat) : s.execEntry 0x8023 sub arg = ((s.dumpSuspend (sub - 1)).1, (s.dumpSuspend (sub - 1)).2, {}) := rfl
theorem State.execEntry_dumpResume (arg : Nat) : s.execEntry 0x8024 sub arg = ((s.dumpResume (sub - 1)).1, (s.dumpResume (sub - 1)).2, {}) := rfl
theorem State.execEntry_fwActivate (arg : Nat) : s.execEntry 0xA006 1 arg =
    (s.fwActivate.1, s.fwActivate.2, { reset := if s.fwActivate.2 = 0 ∧ bitAt arg 0 then some (.cold, false) else none }) := rfl
theorem State.execEntry_fwConfirm (arg : Nat) : s.execEntry 0xA006 2 arg = (s.fwConfirm.1, s.fwConfirm.2, {}) := rfl
theorem State.execEntry_fwAbandon (arg : Nat) : s.execEntry 0xA006 3 arg = (s.fwAbandon.1, s.fwAbandon.2, {}) := rfl
theorem State.execEntry_stageSuspend (arg : Nat) : s.execEntry 0xA007 3 arg = (s.stageSuspend.1, s.stageSuspend.2, {}) := rfl
theorem State.execEntry_stageResume (arg : Nat) : s.execEntry 0xA007 4 arg = (s.stageResume.1, s.stageResume.2, {}) := rfl
theorem State.execEntry_stageCancel (arg : Nat) : s.execEntry 0xA007 5 arg = (s.stageCancel.1, s.stageCancel.2, {}) := rfl

/-! ## Dumps (R610) -/

theorem exec_dumpCancel (h : asked s r 3 0x8022 sub) : exec (.dumpCancel r) s = .next (s.priby r true) := by
  obtain ⟨hok, hop, hindex, -⟩ := asked_packet h
  exact when_of_true (by simp [hok, hop, hindex]) _
theorem exec_dumpSuspend (h : asked s r 3 0x8023 sub) : exec (.dumpSuspend r) s = .next (s.priby r true) := by
  obtain ⟨hok, hop, hindex, -⟩ := asked_packet h
  exact when_of_true (by simp [hok, hop, hindex]) _
theorem exec_dumpResume (h : asked s r 3 0x8024 sub) : exec (.dumpResume r) s = .next (s.priby r true) := by
  obtain ⟨hok, hop, hindex, -⟩ := asked_packet h
  exact when_of_true (by simp [hok, hop, hindex]) _

/-- DUMP_CANCEL answers with the status of its operation on the state that has noted it. -/
theorem State.priby_dumpCancel {k : Nat} (hk : k < 4) (h : asked s r 3 0x8022 (k + 1)) (hx : (s.pribyTaken 0x8022 (k + 1)).dumpCancel k = (x, st))
    (hst : st < 65536) : Answered x (s.priby r true) r st [] := by
  have hcmd : ∀ k < 4, (0x8022, k + 1) ∈ commandEntries := by decide
  exact State.priby_command h (isCommand_of_mem (hcmd k hk)) (by omega) rfl (by rw [State.execEntry_dumpCancel, Nat.add_sub_cancel, hx]) hst
theorem State.priby_dumpSuspend {k : Nat} (hk : k < 4) (h : asked s r 3 0x8023 (k + 1)) (hx : (s.pribyTaken 0x8023 (k + 1)).dumpSuspend k = (x, st))
    (hst : st < 65536) : Answered x (s.priby r true) r st [] := by
  have hcmd : ∀ k < 4, (0x8023, k + 1) ∈ commandEntries := by decide
  exact State.priby_command h (isCommand_of_mem (hcmd k hk)) (by omega) rfl (by rw [State.execEntry_dumpSuspend, Nat.add_sub_cancel, hx]) hst
theorem State.priby_dumpResume {k : Nat} (hk : k < 4) (h : asked s r 3 0x8024 (k + 1)) (hx : (s.pribyTaken 0x8024 (k + 1)).dumpResume k = (x, st))
    (hst : st < 65536) : Answered x (s.priby r true) r st [] := by
  have hcmd : ∀ k < 4, (0x8024, k + 1) ∈ commandEntries := by decide
  exact State.priby_command h (isCommand_of_mem (hcmd k hk)) (by omega) rfl (by rw [State.execEntry_dumpResume, Nat.add_sub_cancel, hx]) hst

/-- DUMP_RESUME lets the dump go out again, and its sessions send on. -/
theorem State.dumpResume_resumes {k : Nat} (h : (s.dump k).state = .diapause) :
    ∃ x, s.dumpResume k = (x, 0) ∧ x.dump k = { s.dump k with state := .exporting } ∧ s.out <+: x.out := by
  refine ⟨_, if_pos h, ?_, ?_⟩
  · refine State.foldl_keeps (fun x => x.dump k) (fun x id => ?_) _ (s.setDump k { s.dump k with state := .exporting }) |>.trans (by simp)
    split
    · next y _ =>
      obtain ⟨o, z, hmore⟩ := (x.setSession { y with seqSent := y.seqDone, resends := 0 }).exportMore_rest id 32
      rw [hmore]
      rfl
    · rfl
  · refine State.foldl_out (fun x id => ?_) _ (s.setDump k { s.dump k with state := .exporting })
    split
    · next y _ =>
      obtain ⟨o, z, hmore⟩ := (x.setSession { y with seqSent := y.seqDone, resends := 0 }).exportMore_rest id 32
      rw [hmore]
      exact List.prefix_append ..
    · exact List.prefix_rfl

/-- What the commands of a dump do, slot by slot. -/
theorem answers_dumps {k : Nat} (hk : k < 4) :
    (asked s r 3 0x8022 (k + 1) → (s.dump k).state = .held → answers (.dumpCancel r) s fun t => replied s t r 0 ∧ t.dump k = {}) ∧
    (asked s r 3 0x8023 (k + 1) → (s.dump k).state = .exporting →
      answers (.dumpSuspend r) s fun t => replied s t r 0 ∧ t.dump k = { s.dump k with state := .diapause }) ∧
    (asked s r 3 0x8024 (k + 1) → (s.dump k).state = .diapause →
      answers (.dumpResume r) s fun t => replied s t r 0 ∧ t.dump k = { s.dump k with state := .exporting }) ∧
    (asked s r 3 0x8022 (k + 1) → (s.dump k).state = .free → answers (.dumpCancel r) s fun t => replied s t r 7 ∧ t.sup.dumps = s.sup.dumps) := by
  refine ⟨fun h hstate => ?cancel, fun h hstate => ?suspend, fun h hstate => ?resume, fun h hstate => ?refused⟩
  case cancel =>
    obtain ⟨hout, -, -, -, -, hdumps, -⟩ := (s.pribyTaken_minds 0x8022 (k + 1)).keeps
    have hx : (s.pribyTaken 0x8022 (k + 1)).dumpCancel k = ((s.pribyTaken 0x8022 (k + 1)).freeDump k, 0) := by
      rw [State.dumpCancel, State.dump_congr hdumps, hstate]
    have hanswer := State.priby_dumpCancel hk h hx (by decide)
    obtain ⟨-, -, -, -, hkept, -⟩ := hanswer.keeps
    refine answers_of_exec (exec_dumpCancel h) ⟨hanswer.replied (hout ▸ List.prefix_rfl), ?_⟩
    rw [State.dump_congr hkept, State.freeDump, State.dump_setDump]
  case suspend =>
    obtain ⟨hout, -, -, -, -, hdumps, -⟩ := (s.pribyTaken_minds 0x8023 (k + 1)).keeps
    have hx : (s.pribyTaken 0x8023 (k + 1)).dumpSuspend k =
        ((s.pribyTaken 0x8023 (k + 1)).setDump k { (s.pribyTaken 0x8023 (k + 1)).dump k with state := .diapause }, 0) :=
      if_pos (by rw [State.dump_congr hdumps, hstate])
    have hanswer := State.priby_dumpSuspend hk h hx (by decide)
    obtain ⟨-, -, -, -, hkept, -⟩ := hanswer.keeps
    refine answers_of_exec (exec_dumpSuspend h) ⟨hanswer.replied (hout ▸ List.prefix_rfl), ?_⟩
    rw [State.dump_congr hkept, State.dump_setDump, State.dump_congr hdumps]
  case resume =>
    obtain ⟨hout, -, -, -, -, hdumps, -⟩ := (s.pribyTaken_minds 0x8024 (k + 1)).keeps
    obtain ⟨x, hx, hdump, hsent⟩ := State.dumpResume_resumes (s := s.pribyTaken 0x8024 (k + 1)) (k := k) (by rw [State.dump_congr hdumps, hstate])
    have hanswer := State.priby_dumpResume hk h hx (by decide)
    obtain ⟨-, -, -, -, hkept, -⟩ := hanswer.keeps
    refine answers_of_exec (exec_dumpResume h) ⟨hanswer.replied (hout ▸ hsent), ?_⟩
    rw [State.dump_congr hkept, hdump, State.dump_congr hdumps]
  case refused =>
    obtain ⟨hout, -, -, -, -, hdumps, -⟩ := (s.pribyTaken_minds 0x8022 (k + 1)).keeps
    have hx : (s.pribyTaken 0x8022 (k + 1)).dumpCancel k = (s.pribyTaken 0x8022 (k + 1), 7) := by
      rw [State.dumpCancel, State.dump_congr hdumps, hstate]
    have hanswer := State.priby_dumpCancel hk h hx (by decide)
    obtain ⟨-, -, -, -, hkept, -⟩ := hanswer.keeps
    exact answers_of_exec (exec_dumpCancel h) ⟨hanswer.replied (hout ▸ List.prefix_rfl), hkept.trans hdumps⟩

/-! ## Trials (R658, R665) -/

theorem exec_fwActivate (h : asked s r 3 0xA006 1) : exec (.fwActivate r) s = .next (s.priby r true) := when_of_true (asked_is h) _
theorem exec_fwConfirm (h : asked s r 3 0xA006 2) : exec (.fwConfirm r) s = .next (s.priby r true) := when_of_true (asked_is h) _
theorem exec_fwTrialAbandon (h : asked s r 3 0xA006 3) : exec (.fwTrialAbandon r) s = .next (s.priby r true) := when_of_true (asked_is h) _
theorem exec_stageSuspend (h : asked s r 3 0xA007 3) : exec (.stageSuspend r) s = .next (s.priby r true) := when_of_true (asked_is h) _
theorem exec_stageResume (h : asked s r 3 0xA007 4) : exec (.stageResume r) s = .next (s.priby r true) := when_of_true (asked_is h) _
theorem exec_stageCancel (h : asked s r 3 0xA007 5) : exec (.stageCancel r) s = .next (s.priby r true) := when_of_true (asked_is h) _

theorem State.priby_fwActivate (h : asked s r 3 0xA006 1) (hx : (s.pribyTaken 0xA006 1).fwActivate = (x, st)) (hst : st < 65536)
    (harg : st = 0 → bitAt (asks r) 0 = false) : Answered x (s.priby r true) r st [] := by
  have hreset : ¬ (st = 0 ∧ bitAt (asks r) 0 = true) := fun ⟨h0, h1⟩ => by simp [harg h0] at h1
  exact State.priby_command h (isCommand_of_mem (by decide)) (by decide) rfl (by rw [State.execEntry_fwActivate, hx, if_neg hreset]) hst

theorem State.priby_fwConfirm (h : asked s r 3 0xA006 2) (hx : (s.pribyTaken 0xA006 2).fwConfirm = (x, st)) (hst : st < 65536) :
    Answered x (s.priby r true) r st [] :=
  State.priby_command h (isCommand_of_mem (by decide)) (by decide) rfl (by rw [State.execEntry_fwConfirm, hx]) hst

theorem State.priby_fwAbandon (h : asked s r 3 0xA006 3) (hx : (s.pribyTaken 0xA006 3).fwAbandon = (x, st)) (hst : st < 65536) :
    Answered x (s.priby r true) r st [] :=
  State.priby_command h (isCommand_of_mem (by decide)) (by decide) rfl (by rw [State.execEntry_fwAbandon, hx]) hst

theorem State.priby_stageSuspend (h : asked s r 3 0xA007 3) (hx : (s.pribyTaken 0xA007 3).stageSuspend = (x, st)) (hst : st < 65536) :
    Answered x (s.priby r true) r st [] :=
  State.priby_command h (isCommand_of_mem (by decide)) (by decide) rfl (by rw [State.execEntry_stageSuspend, hx]) hst

theorem State.priby_stageResume (h : asked s r 3 0xA007 4) (hx : (s.pribyTaken 0xA007 4).stageResume = (x, st)) (hst : st < 65536) :
    Answered x (s.priby r true) r st [] :=
  State.priby_command h (isCommand_of_mem (by decide)) (by decide) rfl (by rw [State.execEntry_stageResume, hx]) hst

theorem State.priby_stageCancel (h : asked s r 3 0xA007 5) (hx : (s.pribyTaken 0xA007 5).stageCancel = (x, st)) (hst : st < 65536) :
    Answered x (s.priby r true) r st [] :=
  State.priby_command h (isCommand_of_mem (by decide)) (by decide) rfl (by rw [State.execEntry_stageCancel, hx]) hst

/-- FW_ACTIVATE of a staged package that the count allows: its slot is on trial for three boots. -/
theorem State.fwActivate_staged (hstaged : s.sup.staging = .staged) (hver : s.fuses.rollback ≤ securityVer (s.manifest s.stageSlot)) :
    ∃ x, s.fwActivate = (x, 0) ∧ x.out = s.out ∧ x.sup.staging = .free ∧ x.sup.bootCtl.trialSlot = s.stageSlot ∧ x.sup.bootCtl.trialLeft = 3 ∧
      x.sup.bootCtl.activeSlot = s.sup.bootCtl.activeSlot := by
  refine ⟨(s.setStaging .free).commitBootCtl { s.sup.bootCtl with trialSlot := s.stageSlot, trialLeft := 3, expired := false }, ?_, rfl, rfl, rfl, rfl, rfl⟩
  unfold State.fwActivate
  dsimp only
  rw [if_neg (by simp [hstaged]), if_neg (by omega)]

theorem answers_fwActivate (h : asked s r 3 0xA006 1) (hstaged : s.sup.staging = .staged)
    (hver : s.fuses.rollback ≤ securityVer (s.manifest s.stageSlot)) (hbit : bitAt (asks r) 0 = false) :
    answers (.fwActivate r) s fun t => replied s t r 0 ∧ t.sup.staging = .free ∧ t.sup.bootCtl.trialSlot = s.stageSlot ∧
      t.sup.bootCtl.trialLeft = 3 ∧ t.sup.bootCtl.activeSlot = s.sup.bootCtl.activeSlot := by
  obtain ⟨hout, hfuses, hboot, hflash, -, -, -, hstaging, hctl⟩ := (s.pribyTaken_minds 0xA006 1).keeps
  have hslot : (s.pribyTaken 0xA006 1).stageSlot = s.stageSlot := by rw [State.stageSlot, State.stageSlot, hboot, hctl]
  obtain ⟨x, hx, hsent, hfree, htrial, hleft, hactive⟩ := State.fwActivate_staged (s := s.pribyTaken 0xA006 1) (by rw [hstaging, hstaged])
    (by rw [hslot, State.manifest_congr hflash, hfuses]; exact hver)
  have hanswer := State.priby_fwActivate h hx (by decide) fun _ => hbit
  obtain ⟨-, -, -, -, -, -, hkept, hctl'⟩ := hanswer.keeps
  refine answers_of_exec (exec_fwActivate h) ⟨hanswer.replied (by rw [hsent, hout]), hkept.trans hfree, ?_, ?_, ?_⟩
  · rw [hctl', htrial, hslot]
  · rw [hctl', hleft]
  · rw [hctl', hactive, hctl]

theorem answers_fwActivate_refused (h : asked s r 3 0xA006 1) (hstaged : s.sup.staging ≠ .staged) :
    answers (.fwActivate r) s fun t => replied s t r 8 ∧ t.sup.bootCtl = s.sup.bootCtl := by
  obtain ⟨hout, -, -, -, -, -, -, hstaging, hctl⟩ := (s.pribyTaken_minds 0xA006 1).keeps
  have hx : (s.pribyTaken 0xA006 1).fwActivate = (s.pribyTaken 0xA006 1, 8) := if_pos (by rw [hstaging]; exact hstaged)
  have hanswer := State.priby_fwActivate h hx (by decide) fun h8 => absurd h8 (by decide)
  obtain ⟨-, -, -, -, -, -, -, hctl'⟩ := hanswer.keeps
  exact answers_of_exec (exec_fwActivate h) ⟨hanswer.replied (hout ▸ List.prefix_rfl), hctl'.trans hctl⟩

theorem State.event_boot (s : State) (code detail : Nat) (l : List Nat) :
    (s.event code detail l).fuses = s.fuses ∧ (s.event code detail l).flash = s.flash ∧ (s.event code detail l).boot = s.boot ∧
    (s.event code detail l).sup = s.sup := by
  obtain ⟨o, f, m, d, e⟩ := s.event_rest code detail l
  rw [e]
  and_intros <;> rfl

/-- FW_CONFIRM of a trial under a passed self-test: the slot is the active one, and the count rises to its security version. -/
theorem State.fwConfirm_confirms (htrial : s.boot.onTrial = true) (htest : s.entry 0xA005 1 = 2) :
    ∃ x, s.fwConfirm = (x, 0) ∧ s.out <+: x.out ∧ x.boot.onTrial = false ∧ x.sup.bootCtl.activeSlot = s.boot.fwSlot ∧
      x.sup.bootCtl.trialSlot = 0xFF ∧ x.fuses.rollback = max s.fuses.rollback (min 64 (securityVer (x.manifest s.boot.fwSlot))) := by
  let s1 := s.commitBootCtl { s.sup.bootCtl with activeSlot := s.boot.fwSlot, trialSlot := 0xFF, trialLeft := 0 }
  let s2 := s1.blowTo (securityVer (s1.manifest s.boot.fwSlot))
  let s3 : State := { s2 with boot := { s2.boot with onTrial := false } }
  have hx : s.fwConfirm = (s3.event 0x0822 s3.fuses.rollback s3.platformFns, 0) := by
    unfold State.fwConfirm
    rw [if_neg (by simp [htrial, htest])]
  obtain ⟨hfuses, hflash, hboot, hsup⟩ := s3.event_boot 0x0822 s3.fuses.rollback s3.platformFns
  have hmanifest : (s3.event 0x0822 s3.fuses.rollback s3.platformFns).manifest s.boot.fwSlot = s1.manifest s.boot.fwSlot :=
    State.manifest_congr (s := s1) hflash _
  refine ⟨_, hx, s3.event_out .., ?_, ?_, ?_, ?_⟩
  · rw [hboot]
  · rw [hsup]; rfl
  · rw [hsup]; rfl
  · rw [hfuses, hmanifest]; rfl

theorem answers_fwConfirm (h : asked s r 3 0xA006 2) (htrial : s.boot.onTrial = true) (htest : s.entry 0xA005 1 = 2) :
    answers (.fwConfirm r) s fun t => replied s t r 0 ∧ t.boot.onTrial = false ∧ t.sup.bootCtl.activeSlot = s.boot.fwSlot ∧
      t.sup.bootCtl.trialSlot = 0xFF ∧ t.fuses.rollback = max s.fuses.rollback (min 64 (securityVer (t.manifest s.boot.fwSlot))) := by
  have hminds := s.pribyTaken_minds 0xA006 2
  obtain ⟨hout, hfuses, hboot, -⟩ := hminds.keeps
  obtain ⟨x, hx, hsent, hdone, hactive, hslot, hcount⟩ := State.fwConfirm_confirms (s := s.pribyTaken 0xA006 2) (by rw [hboot, htrial])
    (by rw [hminds.entry (by decide) (by decide), htest])
  have hanswer := State.priby_fwConfirm h hx (by decide)
  obtain ⟨hfuses', hboot', hflash', -, -, -, -, hctl'⟩ := hanswer.keeps
  refine answers_of_exec (exec_fwConfirm h) ⟨hanswer.replied (hout ▸ hsent), ?_, ?_, ?_, ?_⟩
  · rw [hboot', hdone]
  · rw [hctl', hactive, hboot]
  · rw [hctl', hslot]
  · rw [hfuses', hcount, State.manifest_congr hflash', hboot, hfuses]

theorem answers_fwConfirm_refused (h : asked s r 3 0xA006 2) (htrial : s.boot.onTrial = false) :
    answers (.fwConfirm r) s fun t => replied s t r 7 ∧ t.fuses = s.fuses := by
  obtain ⟨hout, hfuses, hboot, -⟩ := (s.pribyTaken_minds 0xA006 2).keeps
  have hx : (s.pribyTaken 0xA006 2).fwConfirm = (s.pribyTaken 0xA006 2, 7) := if_pos (.inl (by simp [hboot, htrial]))
  have hanswer := State.priby_fwConfirm h hx (by decide)
  obtain ⟨hfuses', -⟩ := hanswer.keeps
  exact answers_of_exec (exec_fwConfirm h) ⟨hanswer.replied (hout ▸ List.prefix_rfl), hfuses'.trans hfuses⟩

/-- FW_TRIAL_ABANDON of a trial: no slot is on trial. -/
theorem State.fwAbandon_onTrial (htrial : s.onTrialNow = true) :
    ∃ x, s.fwAbandon = (x, 0) ∧ x.out = s.out ∧ x.boot.onTrial = false ∧ x.sup.bootCtl.trialSlot = 0xFF ∧ x.fuses = s.fuses :=
  ⟨_, if_neg (by simp [htrial]), rfl, rfl, rfl, rfl⟩

theorem answers_fwTrialAbandon (h : asked s r 3 0xA006 3) (htrial : s.onTrialNow = true) :
    answers (.fwTrialAbandon r) s fun t => replied s t r 0 ∧ t.boot.onTrial = false ∧ t.sup.bootCtl.trialSlot = 0xFF ∧ t.fuses = s.fuses := by
  obtain ⟨hout, hfuses, hboot, -, -, -, -, -, hctl⟩ := (s.pribyTaken_minds 0xA006 3).keeps
  obtain ⟨x, hx, hsent, hdone, hslot, hkept⟩ := State.fwAbandon_onTrial (s := s.pribyTaken 0xA006 3)
    (by rw [← htrial, State.onTrialNow, State.onTrialNow, hboot, hctl])
  have hanswer := State.priby_fwAbandon h hx (by decide)
  obtain ⟨hfuses', hboot', -, -, -, -, -, hctl'⟩ := hanswer.keeps
  refine answers_of_exec (exec_fwTrialAbandon h) ⟨hanswer.replied (by rw [hsent, hout]), ?_, ?_, ?_⟩
  · rw [hboot', hdone]
  · rw [hctl', hslot]
  · rw [hfuses', hkept, hfuses]

/-! ## Staging (R660, R666) -/

theorem answers_stageSuspend (h : asked s r 3 0xA007 3) (hstate : s.sup.staging = .receiving) :
    answers (.stageSuspend r) s fun t => replied s t r 0 ∧ t.sup.staging = .diapause := by
  obtain ⟨hout, -, -, -, -, -, -, hstaging, -⟩ := (s.pribyTaken_minds 0xA007 3).keeps
  have hx : (s.pribyTaken 0xA007 3).stageSuspend = ((s.pribyTaken 0xA007 3).setStaging .diapause, 0) := if_pos (by rw [hstaging, hstate])
  have hanswer := State.priby_stageSuspend h hx (by decide)
  obtain ⟨-, -, -, -, -, -, hkept, -⟩ := hanswer.keeps
  exact answers_of_exec (exec_stageSuspend h) ⟨hanswer.replied (hout ▸ List.prefix_rfl), hkept⟩

theorem answers_stageResume (h : asked s r 3 0xA007 4) (hstate : s.sup.staging = .diapause) :
    answers (.stageResume r) s fun t => replied s t r 0 ∧ t.sup.staging = .receiving := by
  obtain ⟨hout, -, -, -, -, -, -, hstaging, -⟩ := (s.pribyTaken_minds 0xA007 4).keeps
  have hx : (s.pribyTaken 0xA007 4).stageResume = ((s.pribyTaken 0xA007 4).setStaging .receiving, 0) := if_pos (by rw [hstaging, hstate])
  have hanswer := State.priby_stageResume h hx (by decide)
  obtain ⟨-, -, -, -, -, -, hkept, -⟩ := hanswer.keeps
  exact answers_of_exec (exec_stageResume h) ⟨hanswer.replied (hout ▸ List.prefix_rfl), hkept⟩

/-- Staging cancelled is FREE, with its session gone. -/
theorem State.stageCancel_staged (h : s.sup.staging = .staged) : ∃ x, s.stageCancel = (x, 0) ∧ x.out = s.out ∧ x.sup.staging = .free := by
  refine ⟨_, if_pos (.inr (.inl h)), ?_, ?_⟩ <;> cases s.sup.stageSession <;> rfl

theorem answers_stageCancel (h : asked s r 3 0xA007 5) (hstate : s.sup.staging = .staged) :
    answers (.stageCancel r) s fun t => replied s t r 0 ∧ t.sup.staging = .free := by
  obtain ⟨hout, -, -, -, -, -, -, hstaging, -⟩ := (s.pribyTaken_minds 0xA007 5).keeps
  obtain ⟨x, hx, hsent, hfree⟩ := State.stageCancel_staged (s := s.pribyTaken 0xA007 5) (by rw [hstaging, hstate])
  have hanswer := State.priby_stageCancel h hx (by decide)
  obtain ⟨-, -, -, -, -, -, hkept, -⟩ := hanswer.keeps
  exact answers_of_exec (exec_stageCancel h) ⟨hanswer.replied (by rw [hsent, hout]), hkept.trans hfree⟩

end

/-- Settles O55: each command from the answer of its operation; the confirmation's count is what blowTo raises it to. -/
theorem dumpsAndTrials : Obligations.DumpsAndTrials := by
  unfold Obligations.DumpsAndTrials
  intro s r
  refine ⟨fun k hk => answers_dumps hk, answers_fwActivate, answers_fwActivate_refused, fun h htrial htest => ?confirm,
    answers_fwConfirm_refused, answers_fwTrialAbandon, answers_stageSuspend, answers_stageResume, answers_stageCancel⟩
  obtain ⟨t, hexec, hreply, hdone, hactive, hslot, hcount⟩ := answers_fwConfirm h htrial htest
  exact ⟨t, hexec, hreply, hdone, hactive, hslot, hcount ▸ Nat.le_max_left .., hcount ▸ Nat.le_max_right ..⟩

end Sys2Proof.Machine

/-!
# The anti-rollback count (R658)
-/
namespace Sys2Proof.Machine

open Sys2Proof Sys2Proof.Safety

section
variable {s : State}

theorem State.slotEntries_flash (s : State) (k : Nat) : (s.slotEntries k).flash = s.flash := by
  unfold State.slotEntries
  refine (State.foldl_keeps (fun x => x.flash) (fun x j => ?_) ..).trans rfl
  dsimp only
  split <;> rfl

theorem State.copyToFlashLog_flash (s : State) : s.copyToFlashLog.flash = s.flash := rfl

theorem State.measure_flash (s : State) : s.measure.flash = s.flash := rfl

theorem State.blowTo_rollback (s : State) (sv : Nat) : (s.blowTo sv).fuses.rollback = max s.fuses.rollback (min 64 sv) := rfl

theorem State.slotEntries_fuses (s : State) (k : Nat) : (s.slotEntries k).fuses = s.fuses := (s.slotEntries_kept k).fuses

theorem State.blowTo_flash (s : State) (sv : Nat) : (s.blowTo sv).flash = s.flash := rfl

/-- The rest of boot step 7, once the count's fuses are blown: the entries of the slots, the management lanes, the persistent dictionary, the
measurements and the flash log. -/
def State.firmwareStarts (s : State) : State :=
  let s1 := ((((s.slotEntries 0).slotEntries 1).setPll .mgmt { running := true, released := true }).setPll .svc { running := true, released := true })
  (if s1.phys.persistOk then s1 else { s1 with dict := [], persist := [], boot := { s1.boot with persistLost := true } }).measure.copyToFlashLog

theorem State.bootFirmware_picked (hhalt : s.pickFirmware.boot.halt ≠ 3) (hvalid : s.pickFirmware.slotValid s.pickFirmware.sup.bootCtl.activeSlot = true) :
    s.bootFirmware = (s.pickFirmware.blowTo (securityVer (s.pickFirmware.manifest s.pickFirmware.sup.bootCtl.activeSlot))).firmwareStarts := by
  unfold State.bootFirmware State.firmwareStarts
  dsimp only
  rw [if_neg hhalt, if_pos hvalid]

theorem State.firmwareStarts_kept (s : State) : s.firmwareStarts.fuses = s.fuses ∧ s.firmwareStarts.flash = s.flash := by
  unfold State.firmwareStarts
  dsimp only
  rw [(State.copyToFlashLog_kept _).fuses, (State.measure_kept _).fuses, State.copyToFlashLog_flash, State.measure_flash]
  split <;> simp [State.slotEntries_fuses, State.slotEntries_flash]

/-- Boot step 7 raises the count to the security version of a valid active package. -/
theorem State.bootFirmware_rollback {k : Nat} (hk : k = s.pickFirmware.sup.bootCtl.activeSlot) (hhalt : s.pickFirmware.boot.halt ≠ 3)
    (hvalid : s.pickFirmware.slotValid k = true) :
    s.bootFirmware.fuses.rollback = max s.fuses.rollback (min 64 (securityVer (s.bootFirmware.manifest k))) := by
  subst hk
  obtain ⟨hfuses, hflash⟩ := (s.pickFirmware.blowTo (securityVer (s.pickFirmware.manifest s.pickFirmware.sup.bootCtl.activeSlot))).firmwareStarts_kept
  rw [State.blowTo_flash] at hflash
  rw [State.bootFirmware_picked hhalt hvalid, hfuses, State.blowTo_rollback, s.pickFirmware_kept.fuses, State.manifest_congr hflash]

/-- A package below the count fails its check, whatever its signatures. -/
theorem State.slotStatus_rollback {k : Nat} (e m : Bool) (h : securityVer (s.manifest k) < s.fuses.rollback) : s.slotStatus k e m ≠ 0 := by
  unfold State.slotStatus
  dsimp only
  rw [if_pos h]
  split
  · decide
  · split
    · decide
    · split <;> decide

end

/-- Settles O4: the bound is FusesOnlyRise's; step 7 and FW_CONFIRM raise the count by blowTo, and the check compares with it. -/
theorem antiRollback : Obligations.AntiRollback := by
  unfold Obligations.AntiRollback
  refine ⟨fun s t hle hstep => (step_rises hstep).1.floor hle, fun s k => State.bootFirmware_rollback, fun s r h htrial htest => ?confirm,
    fun s k e m => State.slotStatus_rollback e m⟩
  obtain ⟨t, hexec, -, -, hactive, -, hcount⟩ := answers_fwConfirm h htrial htest
  refine ⟨t, hexec, ?_⟩
  dsimp only
  rw [hactive, hcount]

end Sys2Proof.Machine

/-!
# Reads and writes of the management dictionary (R627 to R637), and requests that repeat (R636)
-/
namespace Sys2Proof.Machine

open Sys2Proof Sys2Proof.Safety

section
variable {s t u x : State} {r : PribyReq} {op index sub st : Nat} {e : Entry} {ok : Bool}

/-! ## Reads -/

/-- A read of an entry that is no string: its value, from the first byte. -/
theorem State.operate_read (h : asked s r 1 index sub) (he : entryAt index sub = some e) (haccess : e.access = .ro ∨ e.access = .rw)
    (hstr : e.ty ≠ .str) (hblob : e.ty ≠ .blob) (hlen : r.bytes.length = 40) :
    u.operate r.bytes e ok =
      { state := u, total := e.bytes (u.shown index sub), ty := e.ty.code
        value := bytesOfNat (u.shown index sub) (min 1024 (e.bytes (u.shown index sub))) } := by
  obtain ⟨-, hop, -, hsub⟩ := asked_packet h
  obtain ⟨-, -, -, -, -, -, hty, hoff, -⟩ := h
  obtain ⟨-, hindex⟩ := entryAt_index he
  have hlong : (e.ty == .str || e.ty == .blob) = false := by simp [hstr, hblob]
  unfold State.operate
  rcases haccess with haccess | haccess <;> simp [haccess, hop, hsub, hindex, hty, hoff, hlen, hlong]

theorem exec_pribyRead_bad (hsup : s.supRuns = true) (hok : pribyOk r.bytes = false) : exec (.pribyRead r) s = .next (s.count 0x2060 3 1) := by
  have hpriby : s.priby r true = s.count 0x2060 3 1 := by
    unfold State.priby
    rw [if_neg (by simp [hsup]), if_pos (by simp [hok])]
  exact (when_of_true (by simp [hok]) _).trans (congrArg _ hpriby)

theorem exec_pribyRead (h : asked s r 1 index sub) : exec (.pribyRead r) s = .next (s.priby r true) := by
  obtain ⟨-, hop, -⟩ := asked_packet h
  exact when_of_true (by simp [hop]) _

/-- A read answers the entry's value (R629). -/
theorem answers_pribyRead (h : asked s r 1 index sub) (hindex : index ≠ 0x2060) (hsub : sub ≠ 0) (he : entryAt index sub = some e)
    (haccess : e.access = .ro ∨ e.access = .rw) (hstr : e.ty ≠ .str) (hblob : e.ty ≠ .blob) (hreset : s.unitReset index sub = false)
    (hlen : r.bytes.length = 40) :
    answers (.pribyRead r) s fun t => replied s t r 0 ∧
      ∃ reply, Out.priby r.mctp r.source reply ∈ t.out ∧ reply.drop 40 = bytesOfNat (s.shown index sub) (min 1024 (e.bytes (s.shown index sub))) := by
  have hminds := s.pribyTaken_minds index sub
  obtain ⟨hout, -⟩ := hminds.keeps
  have hanswer := State.priby_answered h hsub he hreset
    (State.operate_read (ok := true) (u := s.pribyTaken index sub) h he haccess hstr hblob hlen) rfl (Nat.zero_lt_succ _)
  obtain ⟨l, reply, hl, hmem, -, hvalue⟩ := hanswer.reply
  refine answers_of_exec (exec_pribyRead h) ⟨hanswer.replied (hout ▸ List.prefix_rfl), reply, hl ▸ List.mem_append_right _ hmem, ?_⟩
  rw [hvalue, if_pos rfl, hminds.shown hindex (asked_sub_lt h)]

/-! ## Writes -/

/-- A write of an entry's length: its operation, with the mirror after it. -/
theorem State.operate_write {y : State} (h : asked s r 2 index sub) (he : entryAt index sub = some e) (haccess : e.access = .rw)
    (hlane : ¬ ((index = 0x6050 ∨ index = 0x6051) ∧ sub = 1)) (hlen : r.bytes.length = 40 + e.bytes (u.shown index sub))
    (hput : u.putEntry e sub (asks r) ok = (y, st)) :
    u.operate r.bytes e ok = { state := y.touchMirror index sub, status := st, total := e.bytes (u.shown index sub), ty := e.ty.code } := by
  obtain ⟨-, hop, -, hsub⟩ := asked_packet h
  obtain ⟨-, -, -, -, -, -, hty, hoff, -⟩ := h
  obtain ⟨-, hindex⟩ := entryAt_index he
  unfold asks at hput
  unfold State.operate
  simp only [haccess, hop, hsub, hindex, hty, hoff, hlen, hput]
  by_cases hone : sub = 1
  · have h50 : index ≠ 0x6050 := fun heq => hlane ⟨.inl heq, hone⟩
    have h51 : index ≠ 0x6051 := fun heq => hlane ⟨.inr heq, hone⟩
    simp [h50, h51]
  · simp [hone]

/-- A write is answered with the status of its operation. -/
theorem State.priby_write {y : State} (h : asked s r 2 index sub) (hindex : index ≠ 0x2060) (hsub : sub ≠ 0) (he : entryAt index sub = some e)
    (haccess : e.access = .rw) (hlane : ¬ ((index = 0x6050 ∨ index = 0x6051) ∧ sub = 1)) (hreset : s.unitReset index sub = false)
    (hlen : r.bytes.length = 40 + e.bytes (s.shown index sub)) (hput : (s.pribyTaken index sub).putEntry e sub (asks r) ok = (y, st))
    (hst : st < 65536) : Answered (y.touchMirror index sub) (s.priby r ok) r st [] := by
  rw [← (s.pribyTaken_minds index sub).shown hindex (asked_sub_lt h)] at hlen
  simpa using State.priby_answered h hsub he hreset (State.operate_write h he haccess hlane hlen hput) rfl hst

theorem State.touchMirror_out (s : State) (index sub : Nat) : (s.touchMirror index sub).out = s.out := by
  obtain ⟨v, q, h⟩ := s.touchMirror_form index sub
  rw [h]

theorem State.touchMirror_entry (s : State) (index sub i j : Nat) : (s.touchMirror index sub).entry i j = s.entry i j := by
  obtain ⟨v, q, h⟩ := s.touchMirror_form index sub
  rw [h]
  rfl

theorem State.touchMirror_block (s : State) (index sub b : Nat) : (s.touchMirror index sub).block b = s.block b := by
  obtain ⟨v, q, h⟩ := s.touchMirror_form index sub
  rw [h]
  rfl

/-- The range of an entry reads other entries' values alone (R630). -/
theorem Minds.rangeOk (h : Minds s t) (e : Entry) {sub : Nat} (hsub : sub < 256) (v : Nat) : t.rangeOk e sub v = s.rangeOk e sub v := by
  have h2 : t.entry 0x6010 2 = s.entry 0x6010 2 := h.entry (by decide) (by decide)
  have h3 : t.entry 0x6010 3 = s.entry 0x6010 3 := h.entry (by decide) (by decide)
  have h5 : t.entry 0x6010 5 = s.entry 0x6010 5 := h.entry (by decide) (by decide)
  have h6 : t.entry 0x6010 6 = s.entry 0x6010 6 := h.entry (by decide) (by decide)
  have hgroups : t.entry 0x2032 sub = s.entry 0x2032 sub := h.entry (by decide) hsub
  unfold State.rangeOk
  rw [h2, h3, h5, h6, hgroups]

theorem State.commitEntry_out (s : State) (k : Nat) : (s.commitEntry k).out = s.out := by
  unfold State.commitEntry
  dsimp only
  obtain ⟨d, hd⟩ := State.count_rest { s with persist := match tabFind s.dict k with
    | some x => tabPut s.persist k x
    | none => tabDel s.persist k } 0x2060 6 1
  exact (congrArg (·.out) hd).trans rfl

theorem State.commitEntry_entry (s : State) (k : Nat) (hindex : index ≠ 0x2060) (hsub : sub < 256) :
    (s.commitEntry k).entry index sub = s.entry index sub :=
  State.dictGet_count_other _ _ (dk_ne hindex hsub (by decide))

/-- An entry in range is set. -/
theorem State.putEntry_sets (h : e.index ≠ 0x4011) (hindex : e.index ≠ 0x2060) (hsub : sub < 256) {v : Nat} (hrange : s.rangeOk e sub v = true) :
    ∃ y, s.putEntry e sub v true = (y, 0) ∧ y.out = s.out ∧ y.entry e.index sub = v := by
  have hset : (s.dictSet (dk e.index sub) v).entry e.index sub = v := State.dictGet_set s _ v
  unfold State.putEntry
  rw [if_neg h, if_neg (by simp [hrange]), if_neg (by simp)]
  refine ⟨_, rfl, ?_, ?_⟩
  · split
    · exact State.commitEntry_out ..
    · rfl
  · split
    · exact (State.commitEntry_entry _ _ hindex hsub).trans hset
    · exact hset

/-- A write of an entry in range sets it (R630). -/
theorem State.priby_sets (h : asked s r 2 index sub) (hindex : index ≠ 0x2060) (hcore : index ≠ 0x4011) (hsub : sub ≠ 0)
    (he : entryAt index sub = some e) (haccess : e.access = .rw) (hlane : ¬ ((index = 0x6050 ∨ index = 0x6051) ∧ sub = 1))
    (hreset : s.unitReset index sub = false) (hlen : r.bytes.length = 40 + e.bytes (s.shown index sub))
    (hrange : s.rangeOk e sub (asks r) = true) : replied s (s.priby r true) r 0 ∧ (s.priby r true).entry index sub = asks r := by
  have hlt := asked_sub_lt h
  have hminds := s.pribyTaken_minds index sub
  obtain ⟨hout, -⟩ := hminds.keeps
  obtain ⟨-, rfl⟩ := entryAt_index he
  obtain ⟨y, hput, hsent, hset⟩ := State.putEntry_sets (s := s.pribyTaken e.index sub) hcore hindex hlt (by rw [hminds.rangeOk e hlt, hrange])
  have hanswer := State.priby_write h hindex hsub he haccess hlane hreset hlen hput (by decide)
  refine ⟨hanswer.replied (by rw [State.touchMirror_out, hsent, hout]), ?_⟩
  exact (hanswer.dict _ (dk_ne hindex hlt (by decide))).trans ((State.touchMirror_entry ..).trans hset)

theorem exec_pribyWrite (h : asked s r 2 index sub) (hcore : index ≠ 0x4011) (hgroups : index ≠ 0x2032) :
    exec (.pribyWrite r true) s = .next (s.priby r true) := by
  obtain ⟨hok, hop, hindex, -⟩ := asked_packet h
  exact when_of_true (by simp [ownRow, hok, hop, hindex, hcore, hgroups]) _

/-! ## CORE_STATE (R88) -/

theorem exec_coreState (h : asked s r 2 0x4011 sub) : exec (.coreState r) s = .next (s.priby r true) := by
  obtain ⟨hok, hop, hindex, -⟩ := asked_packet h
  exact when_of_true (by simp [hok, hop, hindex]) _

/-- A request for OFF is granted a block that is ACTIVE, neither held nor busy, of a usable core without a holder. -/
theorem State.blockRequest_off {c b : Nat} (husable : s.coreUsable c = true) (hretiring : (s.core c).retiring = false) (hholder : (s.core c).holder = none)
    (hheld : s.blockHeld b = false) (hbusy : s.blockBusy b = false) : s.blockRequest c b 3 = true := by
  simp [State.blockRequest, husable, hretiring, hholder, hheld, hbusy]

/-- An ACTIVE block asked to be OFF is OFF at once. -/
theorem State.blockEnter_off {b : Nat} (hactive : (s.block b).st = .active) : s.blockEnter b 3 = s.setBlock b { st := .off, since := s.time } := by
  unfold State.blockEnter
  simp [hactive, PowerState.code]

/-- CORE_STATE 15 of a core whose engines may be OFF puts both in OFF. -/
theorem State.coreRequest_off {c : Nat} (hmatrix : s.blockRequest c (matrixBlock c) 3 = true) (hvector : s.blockRequest c (vectorBlock c) 3 = true)
    (hm : (s.block (matrixBlock c)).st = .active) (hv : (s.block (vectorBlock c)).st = .active) :
    ∃ y, s.coreRequest c 15 = (y, 0) ∧ y.out = s.out ∧ (y.block (matrixBlock c)).st = .off ∧ (y.block (vectorBlock c)).st = .off := by
  have hne : matrixBlock c ≠ vectorBlock c := by unfold matrixBlock vectorBlock; omega
  have hv' : ((s.setBlock (matrixBlock c) { st := .off, since := s.time }).block (vectorBlock c)).st = .active := by
    rw [State.block_setBlock_other _ _ hne.symm, hv]
  have hoff : s.coreRequest c 15 = (((s.setBlock (matrixBlock c) { st := .off, since := s.time }).setBlock (vectorBlock c)
      { st := .off, since := s.time }).pllFollow c, 0) := by
    unfold State.coreRequest
    dsimp only
    rw [if_pos (by simp [hmatrix, hvector]), State.blockEnter_off hm, State.blockEnter_off hv']
    rfl
  refine ⟨_, hoff, ?_, ?_, ?_⟩
  · rw [State.pllFollow_rest]
    simp
  · rw [State.block_pllFollow, State.block_setBlock_other _ _ hne, State.block_setBlock]
  · rw [State.block_pllFollow, State.block_setBlock]

/-- What the power and the cores of the machine answer is as before a request was noted. -/
theorem Minds.blocks (h : Minds s u) (c b : Nat) :
    u.coreUsable c = s.coreUsable c ∧ u.core c = s.core c ∧ u.block b = s.block b ∧ u.blockHeld b = s.blockHeld b ∧ u.blockBusy b = s.blockBusy b := by
  obtain ⟨d, v, q, rfl, -⟩ := h
  and_intros <;> rfl

theorem entryAt_coreState (c : CoreNo) : ∃ e, entryAt 0x4011 (c.val + 1) = some e ∧ e.access = .rw ∧ ∀ v, e.bytes v = 1 := by
  have hentry : ∀ c : CoreNo, (entryAt 0x4011 (c.val + 1)).map (fun e => (e.access, e.ty)) = some (.rw, .u8) := by decide +kernel
  obtain ⟨e, he, hpair⟩ := Option.map_eq_some_iff.mp (hentry c)
  obtain ⟨haccess, hty⟩ := Prod.mk.inj hpair
  exact ⟨e, he, haccess, fun v => by simp [Entry.bytes, hty, EntryType.bytes]⟩

/-- CORE_STATE 15 of a core without a holder puts both its engines in OFF. -/
theorem answers_coreState {c : CoreNo} (h : asked s r 2 0x4011 (c.val + 1)) (hresets : s.resets = []) (husable : s.coreUsable c.val = true)
    (hretiring : (s.core c.val).retiring = false) (hholder : (s.core c.val).holder = none) (hlen : r.bytes.length = 41) (harg : asks r = 15)
    (hblocks : ∀ b, b = matrixBlock c.val ∨ b = vectorBlock c.val → (s.block b).st = .active ∧ s.blockHeld b = false ∧ s.blockBusy b = false) :
    answers (.coreState r) s fun t => replied s t r 0 ∧ (t.block (matrixBlock c.val)).st = .off ∧ (t.block (vectorBlock c.val)).st = .off := by
  obtain ⟨e, he, haccess, hbytes⟩ := entryAt_coreState c
  obtain ⟨-, hindex⟩ := entryAt_index he
  have hminds := s.pribyTaken_minds 0x4011 (c.val + 1)
  obtain ⟨hout, -⟩ := hminds.keeps
  have hblock : ∀ b, b = matrixBlock c.val ∨ b = vectorBlock c.val →
      ((s.pribyTaken 0x4011 (c.val + 1)).block b).st = .active ∧ (s.pribyTaken 0x4011 (c.val + 1)).blockRequest c.val b 3 = true := by
    intro b hb
    obtain ⟨hu, hcore, hsame, hheld, hbusy⟩ := hminds.blocks c.val b
    obtain ⟨hactive, hfree, hidle⟩ := hblocks b hb
    exact ⟨by rw [hsame, hactive], State.blockRequest_off (hu.trans husable) (by rw [hcore, hretiring]) (by rw [hcore, hholder])
      (hheld.trans hfree) (hbusy.trans hidle)⟩
  obtain ⟨hm, hmatrix⟩ := hblock _ (.inl rfl)
  obtain ⟨hv, hvector⟩ := hblock _ (.inr rfl)
  obtain ⟨y, hrequest, hsent, hmoff, hvoff⟩ := State.coreRequest_off hmatrix hvector hm hv
  have hput : (s.pribyTaken 0x4011 (c.val + 1)).putEntry e (c.val + 1) (asks r) true = (y, 0) := by
    rw [State.putEntry, if_pos hindex, harg, Nat.add_sub_cancel, hrequest]
  have hanswer := State.priby_write h (by decide) (by omega) he haccess (by simp) (by simp [State.unitReset, State.inReset, hresets])
    (by rw [hlen, hbytes]) hput (by decide)
  have hkept : ∀ b, (s.priby r true).block b = y.block b := by
    intro b
    obtain ⟨d, k, l, m, hrest⟩ := hanswer.rest
    rw [hrest]
    exact State.touchMirror_block ..
  exact answers_of_exec (exec_coreState h) ⟨hanswer.replied (by rw [State.touchMirror_out, hsent, hout]), by rw [hkept, hmoff], by rw [hkept, hvoff]⟩

/-! ## FIELD_BAD_GROUPS (R362) -/

theorem exec_fieldBadGroups (h : asked s r 2 0x2032 sub) : exec (.fieldBadGroups r true) s = .next (s.priby r true) := by
  obtain ⟨hok, hop, hindex, -⟩ := asked_packet h
  exact when_of_true (by simp [hok, hop, hindex]) _

theorem entryAt_badGroups {c : CoreNo} (he : entryAt 0x2032 (c.val + 1) = some e) : e.access = .rw := by
  have hentry : ∀ c : CoreNo, (entryAt 0x2032 (c.val + 1)).map (·.access) = some .rw := by decide +kernel
  have haccess := hentry c
  rw [he] at haccess
  exact Option.some.inj haccess

/-- A value in range keeps every bad group's bit. -/
theorem State.rangeOk_badGroups (hindex : e.index = 0x2032) {v : Nat} (h : s.rangeOk e sub v = true) :
    s.entry 0x2032 sub &&& v = s.entry 0x2032 sub := by
  unfold State.rangeOk at h
  rw [hindex] at h
  simp only [Bool.and_eq_true] at h
  exact beq_iff_eq.mp h.2

/-- A value that takes a bad group's bit back is out of range, and is refused with 6 (log 20). -/
theorem State.putEntry_refused (hcore : e.index ≠ 0x4011) {v : Nat} (h : s.rangeOk e sub v = false) : s.putEntry e sub v ok = (s, 6) := by
  unfold State.putEntry
  rw [if_neg hcore, if_pos (by simp [h])]

theorem answers_fieldBadGroups {c : CoreNo} (h : asked s r 2 0x2032 (c.val + 1)) (he : entryAt 0x2032 (c.val + 1) = some e)
    (hlen : r.bytes.length = 40 + e.bytes (s.shown 0x2032 (c.val + 1))) :
    (s.rangeOk e (c.val + 1) (asks r) = true → answers (.fieldBadGroups r true) s fun t => replied s t r 0 ∧ t.entry 0x2032 (c.val + 1) = asks r ∧
      s.entry 0x2032 (c.val + 1) &&& t.entry 0x2032 (c.val + 1) = s.entry 0x2032 (c.val + 1)) ∧
    (s.entry 0x2032 (c.val + 1) &&& asks r ≠ s.entry 0x2032 (c.val + 1) → answers (.fieldBadGroups r true) s fun t => replied s t r 6 ∧
      t.entry 0x2032 (c.val + 1) = s.entry 0x2032 (c.val + 1)) := by
  obtain ⟨-, hindex⟩ := entryAt_index he
  refine ⟨fun hrange => ?set, fun hbit => ?refused⟩
  case set =>
    obtain ⟨hreply, hset⟩ := State.priby_sets h (by decide) (by decide) (by omega) he (entryAt_badGroups he) (by simp) rfl hlen hrange
    exact answers_of_exec (exec_fieldBadGroups h) ⟨hreply, hset, by rw [hset, State.rangeOk_badGroups hindex hrange]⟩
  case refused =>
    have hminds := s.pribyTaken_minds 0x2032 (c.val + 1)
    obtain ⟨hout, -⟩ := hminds.keeps
    have hrange : (s.pribyTaken 0x2032 (c.val + 1)).rangeOk e (c.val + 1) (asks r) = false := by
      rw [hminds.rangeOk e (asked_sub_lt h)]
      exact Bool.eq_false_iff.mpr fun hrange => hbit (State.rangeOk_badGroups hindex hrange)
    have hanswer := State.priby_write h (by decide) (by omega) he (entryAt_badGroups he) (by simp) rfl hlen
      (State.putEntry_refused (ok := true) (by rw [hindex]; decide) hrange) (by decide)
    refine answers_of_exec (exec_fieldBadGroups h) ⟨hanswer.replied (by rw [State.touchMirror_out, hout]), ?_⟩
    rw [State.entry, hanswer.dict _ (dk_ne (by decide) (asked_sub_lt h) (by decide))]
    exact (State.touchMirror_entry ..).trans (hminds.entry (by decide) (asked_sub_lt h))

/-! ## Requests that repeat (R636) -/

/-- A request that repeats a kept one in time is answered with the kept reply and counted. -/
theorem State.priby_repeated {k : KeptReply} (hsup : s.supRuns = true) (hreplies : s.sup.replies = [k]) (hmctp : k.mctp = r.mctp)
    (hsource : k.source = r.source) (hrequest : k.request = r.bytes) (htag : k.tag = field r.bytes 2 2) (htime : s.time ≤ k.time + 1000000)
    (hok : pribyOk r.bytes = true) :
    s.priby r ok = { s.count 0x2060 4 1 with
      out := (s.count 0x2060 4 1).out ++ [Out.priby r.mctp r.source k.reply] ++ (if r.mctp then [Out.i3cIbi] else []) } := by
  unfold State.priby
  rw [if_neg (by simp [hsup]), if_neg (by simp [hok]), hreplies]
  simp [hmctp, hsource, hrequest, htag, htime]

end

/-- Settles O54: every such row hands the request on, and the kept reply is found before anything is run. -/
theorem repeatedRequests : Obligations.RepeatedRequests := by
  unfold Obligations.RepeatedRequests
  intro s r k hsup hreplies hmctp hsource hrequest htag htime hok row hrow
  have hexec : exec row s = .next (s.priby r true) := by
    rcases hrow with ⟨hop, rfl⟩ | ⟨hop, hindex, rfl⟩ | ⟨his, rfl⟩ | ⟨his, rfl⟩ | ⟨his, rfl⟩
    · exact when_of_true (by simp [hop]) _
    · exact when_of_true (by simp [hok, hop, hindex]) _
    · exact when_of_true his _
    · exact when_of_true his _
    · exact when_of_true his _
  rw [State.priby_repeated hsup hreplies hmctp hsource hrequest htag htime hok] at hexec
  obtain ⟨d, hd⟩ := s.count_rest 0x2060 4 1
  refine ⟨_, hexec, State.dictGet_count .., ?_, fun x hx => State.dictGet_count_other s 1 hx⟩
  rw [hd]

/-- Settles O52: reads and writes from the answer of their operation, which runs on a state that reads as before. -/
theorem pribyEntries : Obligations.PribyEntries := by
  unfold Obligations.PribyEntries
  intro s r
  refine ⟨fun hsup hok => ?bad, fun index sub e h hindex hsub he haccess hstr hblob hreset hlen => ?read,
    fun index sub e h hindex hcore hgroups hsub hlane he haccess hreset hlen hrange => ?write,
    fun c h hresets husable hretiring hholder hlen harg hblocks => ?core, fun c e h he hlen => ?groups⟩
  case bad =>
    obtain ⟨d, hd⟩ := s.count_rest 0x2060 3 1
    exact answers_of_exec (exec_pribyRead_bad hsup hok) ⟨State.dictGet_count .., by rw [hd]⟩
  case read => exact answers_pribyRead h hindex hsub he haccess hstr hblob hreset hlen
  case write =>
    exact answers_of_exec (exec_pribyWrite h hcore hgroups) (State.priby_sets h hindex hcore hsub he haccess hlane hreset hlen hrange)
  case core => exact answers_coreState h hresets husable hretiring hholder hlen harg hblocks
  case groups => exact answers_fieldBadGroups h he hlen

end Sys2Proof.Machine

/-!
# RESET, RETIRE_CORE, RESTORE_DEFAULTS, ALERT_CLEAR and PROTECT_CLEAR (R49, R643 to R646)
-/
namespace Sys2Proof.Machine

open Sys2Proof Sys2Proof.Safety

section
variable {s t u x : State} {r : PribyReq} {index sub st : Nat} {ok : Bool}

/-! ## RESET (R644) -/

/-- A command that asks for a reset at once: its reply is sent, and the reset follows. -/
theorem State.priby_command_resets {tg : ResetTarget} (h : asked s r 3 index sub) (hcmd : isCommand index sub = true) (hsub : sub ≠ 0)
    (hmirror : mirrored index = false) (hx : (s.pribyTaken index sub).execEntry index sub (asks r) = (x, 0, { reset := some (tg, false) })) :
    ∃ y, Answered x y r 0 [] ∧ s.priby r ok = y.doReset tg 0x20 := by
  obtain ⟨e, he, haccess⟩ := entryAt_of_isCommand hcmd
  have hrun := State.operate_command (ok := ok) (u := s.pribyTaken index sub) h he haccess
  rw [hx] at hrun
  obtain ⟨y, hanswer, hy⟩ := State.priby_replies h hsub he (by simp [State.unitReset, hmirror]) hrun rfl (Nat.zero_lt_succ _)
  exact ⟨y, by simpa using hanswer, hy⟩

theorem exec_resetCmd (h : asked s r 3 0x9000 1) : exec (.resetCmd r) s = .next (s.priby r true) := when_of_true (asked_is h) _

/-- What of the module a recognised reset reads is as before the request. -/
theorem Minds.module (h : Minds s u) :
    u.time = s.time ∧ u.resets = s.resets ∧ u.sup.retireWait = s.sup.retireWait ∧ (∀ c, u.core c = s.core c) ∧ (∀ c, u.coreUsable c = s.coreUsable c) ∧
    ∀ arg, u.resetArg arg = s.resetArg arg := by
  obtain ⟨d, v, q, rfl, -⟩ := h
  exact ⟨rfl, rfl, rfl, fun _ => rfl, fun _ => rfl, fun _ => rfl⟩

theorem Answered.module {value : List Byte} (h : Answered x t r st value) : t.time = x.time ∧ t.resets = x.resets := by
  obtain ⟨⟨d, c, k, l, rfl⟩, -, -⟩ := h
  exact ⟨rfl, rfl⟩

/-- With no reset in progress, a reset of any target begins when it is asked for. -/
theorem State.doReset_asked {tg : ResetTarget} {cause : Nat} (h : s.resets = []) : resetAsked tg cause s (s.doReset tg cause) := by
  unfold resetAsked
  split
  · next hcold =>
    subst hcold
    exact s.coldReset_begun cause
  · next hcold =>
    by_cases hwarm : tg = .warm
    · subst hwarm
      obtain ⟨⟨r, hr, htarget, hcause, hbegan, -⟩, -⟩ := State.warmReset_begins (s := s) cause false (by simp [h])
      exact ⟨r, hr, htarget, hcause, hbegan⟩
    · exact s.doReset_begins cause false h hcold hwarm

/-- A reset asked of a state at the same time is asked of this one. -/
theorem resetAsked_of_time {tg : ResetTarget} {cause : Nat} (htime : u.time = s.time) (h : resetAsked tg cause u t) : resetAsked tg cause s t := by
  unfold resetAsked at h ⊢
  split
  · next hcold =>
    rw [if_pos hcold] at h
    obtain ⟨hrun, hrec⟩ := h
    exact ⟨hrun, htime ▸ hrec⟩
  · next hcold =>
    rw [if_neg hcold] at h
    obtain ⟨run, hrun, htarget, hcause, hbegan⟩ := h
    exact ⟨run, hrun, htarget, hcause, hbegan.trans htime⟩

/-- RESET begins the reset its argument names (R644). -/
theorem answers_resetCmd {tg : ResetTarget} (hresets : s.resets = []) (h : asked s r 3 0x9000 1) (harg : s.resetArg (asks r) = (0, tg)) :
    answers (.resetCmd r) s fun t => resetAsked tg 0x20 s t := by
  obtain ⟨htime, hkept, -, -, -, hsame⟩ := (s.pribyTaken_minds 0x9000 1).module
  have hx : (s.pribyTaken 0x9000 1).execEntry 0x9000 1 (asks r) = (s.pribyTaken 0x9000 1, 0, { reset := some (tg, false) }) := by
    simp [State.execEntry, hsame, harg]
  obtain ⟨y, hanswer, hy⟩ := State.priby_command_resets (ok := true) h (isCommand_of_mem (by decide)) (by decide) rfl hx
  obtain ⟨htime', hkept'⟩ := hanswer.module
  refine answers_of_exec (exec_resetCmd h) (hy ▸ ?_)
  exact resetAsked_of_time (htime'.trans htime) (State.doReset_asked (hkept'.trans (hkept.trans hresets)))

/-! ## RETIRE_CORE (R645) -/

/-- A core put back with its mark leaves every core's mark. -/
theorem State.retiring_setCore {c : Nat} {v : Core} (h : v.retiring = (s.core c).retiring) (k : Nat) : ((s.setCore c v).core k).retiring = (s.core k).retiring := by
  by_cases hk : k = c
  · subst hk
    rw [State.core_setCore, h]
  · rw [State.core_setCore_other s v hk]

/-- What a reset keeps for RETIRE_CORE: the mark of each core that is to be retired, and the requests that wait (R645). -/
def State.retirement (s : State) (k : Nat) : Bool × List (Nat × PribyReq) := ((s.core k).retiring, s.sup.retireWait)

theorem State.retirement_congr (hcores : t.cores = s.cores) (hsup : t.sup.retireWait = s.sup.retireWait) (k : Nat) : t.retirement k = s.retirement k := by
  rw [State.retirement, State.retirement, hsup, State.core, State.core, hcores]

theorem State.retirement_setCore {c : Nat} {v : Core} (h : v.retiring = (s.core c).retiring) (k : Nat) :
    (s.setCore c v).retirement k = s.retirement k := by
  rw [State.retirement, State.retirement, State.retiring_setCore h]
  simp

theorem State.retirement_event (code detail : Nat) (l : List Nat) (k : Nat) : (s.event code detail l).retirement k = s.retirement k := by
  obtain ⟨o, f, m, d, e⟩ := s.event_rest code detail l
  exact State.retirement_congr (by rw [e]) (by rw [e]) k

theorem State.retirement_foldl {α : Type} {f : State → α → State} {k : Nat} (h : ∀ x a, (f x a).retirement k = x.retirement k) (l : List α) (s : State) :
    (l.foldl f s).retirement k = s.retirement k :=
  State.foldl_keeps (fun x => x.retirement k) h l s

theorem State.retirement_dictSet (key v k : Nat) : (s.dictSet key v).retirement k = s.retirement k := State.retirement_congr rfl rfl k

theorem State.retirement_clearKeys (ks : List Nat) (k : Nat) : (s.clearKeys ks).retirement k = s.retirement k :=
  State.retirement_foldl (fun _ _ => State.retirement_dictSet ..) ks s

theorem State.retirement_endCmd (id st d k : Nat) : (s.endCmd id st d).retirement k = s.retirement k := by
  rw [State.endCmd_rest]
  exact State.retirement_congr rfl rfl k

theorem State.retirement_clearCoreCounters (c k : Nat) : (s.clearCoreCounters c).retirement k = s.retirement k := by
  unfold State.clearCoreCounters
  generalize coreCounters.map (fun x => dk x (c + 1)) = ks
  have hcore : ((s.clearKeys ks).core c).retiring = (s.core c).retiring := congrArg Prod.fst (State.retirement_clearKeys ks c)
  exact (State.retirement_setCore (by exact hcore.symm) k).trans (State.retirement_clearKeys ks k)

theorem State.retirement_clearErrs (gone : Nat → Bool) (k : Nat) : (s.clearErrs gone).retirement k = s.retirement k := State.retirement_congr rfl rfl k

/-- Engines stopped keep their core's mark. -/
theorem Core.stopped_retiring (k : Core) (t : TileRun) : (k.stopEngines.keepMerge t).retiring = k.retiring := rfl

/-- The engines of a command's cores stopped leave the marks and the requests. -/
theorem State.retirement_stopCores (l : List Nat) (k : Nat) :
    (l.foldl (fun s k => s.setCore k ((s.core k).stopEngines.keepMerge (s.core k).tile)) s).retirement k = s.retirement k :=
  State.retirement_foldl (fun x c => State.retirement_setCore (Core.stopped_retiring (x.core c) (x.core c).tile) k) l s

/-- The reach of a core's reset leaves the marks and the requests. -/
theorem State.retirement_reachCore (c cause k : Nat) : (s.reachCore c cause).retirement k = s.retirement k := by
  unfold State.reachCore
  extract_lets live s1 s2 back s3 s4
  have h1 : s1.retirement k = s.retirement k := State.retirement_foldl (fun x d => State.retirement_endCmd ..) live s
  have h2 : s2.retirement k = s1.retirement k := State.retirement_foldl (fun x d => State.retirement_stopCores d.cores k) live s1
  have h3 : s3.retirement k = s2.retirement k := State.retirement_congr rfl rfl k
  have hzero : (s3.zeroCore c).retirement k = s3.retirement k := State.retirement_congr rfl rfl k
  have h4 : s4.retirement k = s.retirement k := by rw [State.retirement_clearErrs, State.retirement_clearCoreCounters, hzero, h3, h2, h1]
  refine (State.retirement_setCore ?_ k).trans h4
  exact Core.stopped_retiring (s4.core c) (s4.core c).tile

theorem State.retirement_resets (l : List ResetRun) (k : Nat) : ({ s with resets := l } : State).retirement k = s.retirement k := rfl

/-- A core's reset recognised with none in progress leaves the marks and the requests. -/
theorem State.retirement_raiseCore (h : s.resets = []) (c : CoreNo) (retire : Bool) (k : Nat) :
    (s.raiseReset (.core c) 0x20 (retire := retire)).retirement k = s.retirement k := by
  have hcount : ∀ x : State, x.countReset (.core c) 0x20 = (x, false, false) := fun x => rfl
  unfold State.raiseReset
  rw [h]
  simp only [List.find?_nil, List.filter_nil, List.flatMap_nil, hcount, reduceCtorEq, if_false, Bool.not_false, State.keepRetiring, List.foldl_nil, State.reach]
  have hrecord : (s.recordReset (.core c) 0x20 true).retirement k = s.retirement k := State.retirement_congr rfl rfl k
  have hfns : ((s.reachFns (.core c)).foldl (fun s f => s.writeFnRec (.core c) 0x20 f) (s.recordReset (.core c) 0x20 true)).retirement k =
      (s.recordReset (.core c) 0x20 true).retirement k :=
    State.retirement_foldl (fun x f => State.retirement_congr (s := x) (t := x.writeFnRec (.core c) 0x20 f) rfl rfl k) ..
  rw [State.retirement_resets, State.retirement_reachCore, State.retirement_event, hfns, hrecord]

/-- A request whose reply waits for a core's retirement marks the core and begins the reset it asked for. -/
theorem State.pribyFinish_holding {p : Ran} {t : ResetTarget} {retire : Bool} {c : Nat} (h : p.after = { reset := some (t, retire), hold := some c }) :
    s.pribyFinish r p = (({ s with sup := { s.sup with retireWait := s.sup.retireWait ++ [(c, r)] } } : State).setCore c
      { s.core c with retiring := true }).doReset t 0x20 (retire := retire) := by
  rw [State.pribyFinish, h]
  rfl

theorem exec_retireCore (h : asked s r 3 0x9000 2) : exec (.retireCore r) s = .next (s.priby r true) := when_of_true (asked_is h) _

/-- RETIRE_CORE of a usable core, with no other waiting: the request waits, the core is marked, and its reset begins. -/
theorem State.priby_retireCore {c : CoreNo} (h : asked s r 3 0x9000 2) (harg : asks r % 16 = c.val) (hwait : s.sup.retireWait = [])
    (husable : s.coreUsable c.val = true) :
    ∃ y : State, y.time = s.time ∧ y.resets = s.resets ∧ y.retirement c.val = (true, [(c.val, r)]) ∧
      s.priby r ok = y.raiseReset (.core c) 0x20 (retire := true) := by
  obtain ⟨htime, hresets, hwait', -, husable', -⟩ := (s.pribyTaken_minds 0x9000 2).module
  have hx : (s.pribyTaken 0x9000 2).execEntry 0x9000 2 (asks r) =
      (s.pribyTaken 0x9000 2, 0, { reset := some (.core c, true), hold := some c.val }) := by
    simp [State.execEntry, harg, hwait', hwait, husable', husable]
  have hcmd : isCommand 0x9000 2 = true := isCommand_of_mem (by decide)
  obtain ⟨e, he, haccess⟩ := entryAt_of_isCommand hcmd
  have hrun := State.operate_command (ok := ok) (u := s.pribyTaken 0x9000 2) h he haccess
  rw [hx] at hrun
  rw [State.priby_asked h (by decide) he rfl, hrun]
  obtain ⟨d, k, hstate, -, -, hafter, -⟩ := Ran.settled_rest
    { state := s.pribyTaken 0x9000 2, total := e.bytes ((s.pribyTaken 0x9000 2).shown 0x9000 2), ty := e.ty.code
      after := { reset := some (.core c, true), hold := some c.val } } 3 0x9000 2
  rw [State.pribyFinish_holding hafter, hstate]
  refine ⟨_, ?_, ?_, ?_, rfl⟩
  · exact htime
  · exact hresets
  · simp [State.retirement, hwait', hwait]

/-- RETIRE_CORE begins its core's reset; the core is to be retired, and the reply waits for that (R645). -/
theorem answers_retireCore {c : CoreNo} (hresets : s.resets = []) (h : asked s r 3 0x9000 2) (harg : asks r % 16 = c.val)
    (hwait : s.sup.retireWait = []) (husable : s.coreUsable c.val = true) :
    answers (.retireCore r) s fun t => resetBegun (.core c) 0x20 s t ∧ (t.core c.val).retiring = true ∧ t.sup.retireWait = [(c.val, r)] := by
  obtain ⟨y, htime, hsame, hmarks, hy⟩ := State.priby_retireCore (ok := true) h harg hwait husable
  rw [← State.retirement_raiseCore (hsame.trans hresets) c true] at hmarks
  obtain ⟨run, hrun, htarget, hcause, hbegan, -⟩ := State.raiseReset_begins (s := y) (t := .core c) 0x20 false true false false (by simp [hsame, hresets])
  exact answers_of_exec (exec_retireCore h) (hy ▸ ⟨⟨run, hrun, htarget, hcause, hbegan.trans htime⟩, congrArg Prod.fst hmarks, congrArg Prod.snd hmarks⟩)

/-! ## RESTORE_DEFAULTS (R646) -/

theorem exec_restoreDefaults (h : asked s r 3 0x9000 3) : exec (.restoreDefaults r) s = .next (s.priby r true) := when_of_true (asked_is h) _

/-- A key that a table does not list finds nothing. -/
theorem tabFind_none_of_not_mem {α : Type} {l : Tab α} {k : Nat} (h : k ∉ l.map (·.1)) : tabFind l k = none := by
  induction l with
  | nil => rfl
  | cons e l ih =>
    obtain ⟨j, v⟩ := e
    simp only [List.map_cons, List.mem_cons, not_or] at h
    rw [tabFind, if_neg fun hj => h.1 hj.symm, ih h.2]

/-- Entries taken back one by one: what each listed key found is gone, and nothing comes in. -/
theorem State.foldl_restore {f : State → Nat → State} (hf : ∀ x k, (f x k).dict = tabDel x.dict k) (l : List Nat) (s : State) (key : Nat) :
    (key ∈ l ∨ tabFind s.dict key = none) → tabFind (l.foldl f s).dict key = none := by
  induction l generalizing s with
  | nil => exact fun h => h.resolve_left (by simp)
  | cons k l ih =>
    intro h
    refine ih (f s k) ?_
    rw [hf]
    by_cases hk : key = k
    · subst hk
      exact .inr (tabFind_del_same ..)
    · rw [tabFind_del_other _ hk]
      exact h.imp_left fun hmem => (List.mem_cons.mp hmem).resolve_left hk

/-- RESTORE_DEFAULTS puts each persistent RW entry but the addresses back to its default (R646). -/
theorem State.restoreDefaults_entry {e : Entry} (hsub : sub < 256) (he : entryAt index sub = some e) (haccess : e.access = .rw) (hp : e.persistent = true)
    (hindex : index ≠ 0x2060) (haddr : ¬ (0x6001 ≤ index ∧ index ≤ 0x6006)) (h50 : index ≠ 0x6050) (h51 : index ≠ 0x6051) :
    s.restoreDefaults.entry index sub = e.dflt := by
  have hdflt : dictDefault (dk index sub) = e.dflt := by rw [dictDefault, dk_div _ hsub, dk_mod _ hsub, he]
  unfold State.restoreDefaults
  extract_lets keep go s1
  have hnone : tabFind s1.dict (dk index sub) = none := by
    refine State.foldl_restore (fun _ _ => rfl) go s (dk index sub) ?_
    by_cases hmem : dk index sub ∈ s.dict.map (·.1)
    · refine .inl (List.mem_filter.mpr ⟨hmem, ?_⟩)
      simp [keep, dictPersistent, dk_div _ hsub, dk_mod _ hsub, he, haccess, hp, h50, h51]
      omega
    · exact .inr (tabFind_none_of_not_mem hmem)
  refine (State.dictGet_count_other s1 1 (dk_ne hindex hsub (by decide))).trans ?_
  rw [State.dictGet, hnone, Option.getD_none, hdflt]

theorem State.restoreDefaults_out (s : State) : s.restoreDefaults.out = s.out := by
  unfold State.restoreDefaults
  extract_lets keep go s1
  have hs1 : s1.out = s.out := State.foldl_keeps (fun x => x.out) (fun x k => by rfl) go s
  obtain ⟨d, hd⟩ := s1.count_rest 0x2060 6 1
  rw [hd, ← hs1]

theorem answers_restoreDefaults (h : asked s r 3 0x9000 3) (harg : asks r = 0) :
    answers (.restoreDefaults r) s fun t => replied s t r 0 ∧
      ∀ (index sub : Nat) (e : Entry), sub < 256 → entryAt index sub = some e → e.access = .rw → e.persistent = true → index ≠ 0x2060 →
        ¬ (0x6001 ≤ index ∧ index ≤ 0x6006) → index ≠ 0x6050 → index ≠ 0x6051 → t.entry index sub = e.dflt := by
  obtain ⟨hout, -⟩ := (s.pribyTaken_minds 0x9000 3).keeps
  have hx : (s.pribyTaken 0x9000 3).execEntry 0x9000 3 (asks r) = ((s.pribyTaken 0x9000 3).restoreDefaults, 0, {}) := by
    simp [State.execEntry, harg]
  have hanswer := State.priby_command (ok := true) h (isCommand_of_mem (by decide)) (by decide) rfl hx (by decide)
  refine answers_of_exec (exec_restoreDefaults h) ⟨hanswer.replied (by rw [State.restoreDefaults_out, hout]), ?_⟩
  intro index sub e hsub he haccess hp hindex haddr h50 h51
  exact (hanswer.dict _ (dk_ne hindex hsub (by decide))).trans (State.restoreDefaults_entry hsub he haccess hp hindex haddr h50 h51)

/-! ## ALERT_CLEAR and PROTECT_CLEAR (R49, R643) -/

theorem exec_alertClear (h : asked s r 3 0x8030 3) : exec (.alertClear r) s = .next (s.priby r true) := when_of_true (asked_is h) _
theorem exec_protectClear (h : asked s r 3 0x4001 8) : exec (.protectClear r) s = .next (s.priby r true) := when_of_true (asked_is h) _

/-- ALERT_CLEAR takes the bits it names out of ALERT_PENDING (R643). -/
theorem answers_alertClear (h : asked s r 3 0x8030 3) :
    answers (.alertClear r) s fun t => replied s t r 0 ∧ t.entry 0x8030 2 = s.entry 0x8030 2 - (s.entry 0x8030 2 &&& asks r) := by
  have hminds := s.pribyTaken_minds 0x8030 3
  obtain ⟨hout, -⟩ := hminds.keeps
  have hentry : (s.pribyTaken 0x8030 3).entry 0x8030 2 = s.entry 0x8030 2 := hminds.entry (by decide) (by decide)
  have hx : (s.pribyTaken 0x8030 3).execEntry 0x8030 3 (asks r) =
      ((s.pribyTaken 0x8030 3).dictSet (dk 0x8030 2) (s.entry 0x8030 2 - (s.entry 0x8030 2 &&& asks r)), 0, {}) := by
    rw [State.execEntry, hentry]
  have hanswer := State.priby_command (ok := true) h (isCommand_of_mem (by decide)) (by decide) rfl hx (by decide)
  refine answers_of_exec (exec_alertClear h) ⟨hanswer.replied (by simp [hout]), ?_⟩
  exact (hanswer.dict _ (by decide)).trans (State.dictGet_set ..)

/-- PROTECT_CLEAR is refused while the die is at 110 °C, and lets PROTECT go high otherwise (R49). -/
theorem answers_protectClear (h : asked s r 3 0x4001 8) :
    (110000 ≤ s.entry 0x4001 7 ∧ s.entry 0x4001 7 < 2 ^ 31 → answers (.protectClear r) s fun t => replied s t r 7 ∧ t.pins = s.pins) ∧
    (s.entry 0x4001 7 < 110000 → answers (.protectClear r) s fun t => replied s t r 0 ∧ t.pins = { s.pins with protectLow := false }) := by
  have hminds := s.pribyTaken_minds 0x4001 8
  obtain ⟨hout, -, -, -, hpins, -⟩ := hminds.keeps
  have hentry : (s.pribyTaken 0x4001 8).entry 0x4001 7 = s.entry 0x4001 7 := hminds.entry (by decide) (by decide)
  refine ⟨fun ⟨hhot, hpos⟩ => ?hot, fun hcool => ?cool⟩
  case hot =>
    have hx : (s.pribyTaken 0x4001 8).execEntry 0x4001 8 (asks r) = (s.pribyTaken 0x4001 8, 7, {}) := by
      rw [State.execEntry, hentry]
      exact if_pos ⟨hpos, hhot⟩
    have hanswer := State.priby_command (ok := true) h (isCommand_of_mem (by decide)) (by decide) rfl hx (by decide)
    obtain ⟨-, -, -, hpins', -⟩ := hanswer.keeps
    exact answers_of_exec (exec_protectClear h) ⟨hanswer.replied (hout ▸ List.prefix_rfl), hpins'.trans hpins⟩
  case cool =>
    have hx : (s.pribyTaken 0x4001 8).execEntry 0x4001 8 (asks r) =
        ({ s.pribyTaken 0x4001 8 with pins := { (s.pribyTaken 0x4001 8).pins with protectLow := false } }, 0, {}) := by
      rw [State.execEntry, hentry]
      exact if_neg (by omega)
    have hanswer := State.priby_command (ok := true) h (isCommand_of_mem (by decide)) (by decide) rfl hx (by decide)
    obtain ⟨-, -, -, hpins', -⟩ := hanswer.keeps
    exact answers_of_exec (exec_protectClear h) ⟨hanswer.replied (hout ▸ List.prefix_rfl), by rw [hpins', hpins]⟩

end

/-- Settles O53: the two commands that ask for a reset by what a recognised reset leaves, the others by the answer of their operation. -/
theorem pribyCommands : Obligations.PribyCommands := by
  unfold Obligations.PribyCommands
  intro s r hresets
  exact ⟨fun tg h harg => answers_resetCmd hresets h harg, fun c h harg hwait husable => answers_retireCore hresets h harg hwait husable,
    answers_restoreDefaults, answers_alertClear, answers_protectClear⟩

end Sys2Proof.Machine

/-!
# SPDM (R667 to R670)
-/
namespace Sys2Proof.Machine

open Sys2Proof Sys2Proof.Safety

/-! ## The digest's length -/

theorem Sha.length_turn (add : W32) (v : List W32) : (Sha.turn add v).length = v.length := by
  unfold Sha.turn
  split <;> rfl

theorem Sha.length_rounds (ks win v : List W32) : (Sha.rounds ks win v).length = v.length := by
  induction ks generalizing win v with
  | nil => rfl
  | cons k ks ih =>
    cases win with
    | nil => exact (ih [] _).trans (Sha.length_turn ..)
    | cons w win => exact (ih _ _).trans (Sha.length_turn ..)

theorem Sha.length_absorb (v block : List W32) : (Sha.absorb v block).length = v.length := by
  rw [Sha.absorb, List.length_zipWith, Sha.length_rounds, Nat.min_self]

theorem Sha.length_absorbed (blocks : List (List W32)) (v : List W32) : (blocks.foldl Sha.absorb v).length = v.length := by
  induction blocks generalizing v with
  | nil => rfl
  | cons b bs ih => exact (ih _).trans (Sha.length_absorb v b)

theorem Sha.length_start : Sha.start.length = 8 := by decide +kernel

theorem Sha.length_sha256 (m : List Byte) : (Sha.sha256 m).length = 32 := by
  simp [Sha.sha256, Sha.bigEndian, List.length_flatMap, Sha.length_absorbed, Sha.length_start]

/-! ## SPDM replies (R667 to R670) -/

section
variable {s : State} {x : Fin 3} {q : List Byte}

theorem State.spdmReply_out (s : State) (t : Nat) (c : Spdm) (request reply : List Byte) :
    (s.spdmReply t c request reply).out = s.out ++ spdmOut t reply := by
  obtain ⟨d, hd⟩ := s.count_rest 0xA030 1 1
  simp [State.spdmReply, hd]

theorem State.spdmReply_spdmOf (s : State) (t : Nat) (c : Spdm) (request reply : List Byte) :
    (s.spdmReply t c request reply).spdmOf t = { c with transcript := c.transcript ++ request ++ reply } :=
  tabGet_set_same ..

theorem State.spdmError_out (s : State) (t code : Nat) :
    (s.spdmError t code).out = s.out ++ spdmOut t [0x13#8, 0x7F#8, BitVec.ofNat 8 code, 0#8] := by
  obtain ⟨d, hd⟩ := s.count_rest 0xA030 1 1
  simp [State.spdmError, hd]

theorem State.spdmError_spdmOf (s : State) (t code : Nat) : (s.spdmError t code).spdmOf t = s.spdmOf t := by
  obtain ⟨d, hd⟩ := s.count_rest 0xA030 1 1
  simp [State.spdmError, State.spdmOf, hd]

/-- The ALGORITHMS reply: ECDSA P-256 and SHA-256. -/
def algorithmsReply : List Byte :=
  [0x13#8, 0x63#8, 0#8, 0#8] ++ bytesOfNat 36 2 ++ [1#8, 0#8] ++ bytesOfNat 2 4 ++ bytesOfNat 0x10 4 ++ bytesOfNat 1 4 ++ List.replicate 16 0#8

variable (h : s.spdmRuns x = true)
include h

theorem answers_getVersion : answers (.getVersion x q) s fun t => (t.spdmOf x.val).version = true ∧ (t.spdmOf x.val).caps = false ∧
    t.out = s.out ++ spdmOut x.val ([0x10#8, 4#8, 0#8, 0#8, 0#8, 1#8] ++ bytesOfNat 0x1300 2) := by
  refine answers_of_exec (when_of_true h _) ⟨?_, ?_, State.spdmReply_out ..⟩ <;> rw [State.spdmReply_spdmOf]

theorem exec_getCapabilities : exec (.getCapabilities x q) s = .next
    (if !(s.spdmOf x.val).version then s.spdmError x.val 4
     else s.fresh.2.spdmReply x.val { s.spdmOf x.val with caps := true } q
      ([0x13#8, 0x61#8, 0#8, 0#8, 0#8, 16#8, 0#8, 0#8] ++ bytesOfNat 0x16 4 ++ bytesOfNat s.fresh.1.toNat 8)) := when_of_true h _

theorem answers_getCapabilities (hversion : (s.spdmOf x.val).version = true) : answers (.getCapabilities x q) s fun t =>
    (t.spdmOf x.val).caps = true ∧
      ∃ l, t.out = s.out ++ spdmOut x.val ([0x13#8, 0x61#8, 0#8, 0#8, 0#8, 16#8, 0#8, 0#8] ++ bytesOfNat 0x16 4 ++ l) ∧ l.length = 8 := by
  refine answers_of_exec (exec_getCapabilities h) ?_
  rw [if_neg (by simp [hversion])]
  exact ⟨by rw [State.spdmReply_spdmOf], _, State.spdmReply_out .., length_bytesOfNat ..⟩

theorem answers_getCapabilities_early (hversion : (s.spdmOf x.val).version = false) : answers (.getCapabilities x q) s fun t =>
    t.out = s.out ++ spdmOut x.val [0x13#8, 0x7F#8, 4#8, 0#8] ∧ t.spdmOf x.val = s.spdmOf x.val := by
  refine answers_of_exec (exec_getCapabilities h) ?_
  rw [if_pos (by simp [hversion])]
  exact ⟨State.spdmError_out .., State.spdmError_spdmOf ..⟩

theorem exec_negotiateAlgorithms : exec (.negotiateAlgorithms x q) s = .next
    (if !(s.spdmOf x.val).caps then s.spdmError x.val 4 else s.spdmReply x.val { s.spdmOf x.val with algs := true } q algorithmsReply) :=
  when_of_true h _

theorem answers_negotiateAlgorithms (hcaps : (s.spdmOf x.val).caps = true) : answers (.negotiateAlgorithms x q) s fun t =>
    (t.spdmOf x.val).algs = true ∧ ∃ reply, t.out = s.out ++ spdmOut x.val reply ∧ reply.length = 36 ∧ reply.take 2 = [0x13#8, 0x63#8] ∧
      field reply 12 4 = 0x10 ∧ field reply 16 4 = 1 := by
  refine answers_of_exec (exec_negotiateAlgorithms h) ?_
  rw [if_neg (by simp [hcaps])]
  exact ⟨by rw [State.spdmReply_spdmOf], algorithmsReply, State.spdmReply_out .., by decide, by decide, by decide, by decide⟩

theorem exec_challenge : ∃ c sum tail, exec (.challenge x q) s = .next
    (if !(s.spdmOf x.val).algs then s.spdmError x.val 4
     else if field q 2 1 ≠ 0 ∨ !s.sup.certOk then s.spdmError x.val 1
     else ({ s with freeCtr := s.freeCtr + 1 } : State).spdmReply x.val c q
      (([0x13#8, 3#8, 0#8, 1#8] ++ Sha.sha256 s.certChain ++ sum ++ tail) ++ Config.signature 1 ((s.spdmOf x.val).transcript ++ q ++
        ([0x13#8, 3#8, 0#8, 1#8] ++ Sha.sha256 s.certChain ++ sum ++ tail)))) := by
  refine ⟨{ s.spdmOf x.val with transcript := [] }, (List.range 32).map fun i => Config.freeByte s.freeCtr i,
    (if field q 3 1 = 0 then [] else Sha.sha256 s.measurementBlocks) ++ [0#8, 0#8] ++ (q.drop 36).take 8, (when_of_true h _).trans ?_⟩
  simp only [List.append_assoc]

theorem answers_challenge_early (halgs : (s.spdmOf x.val).algs = false) : answers (.challenge x q) s fun t =>
    t.out = s.out ++ spdmOut x.val [0x13#8, 0x7F#8, 4#8, 0#8] := by
  obtain ⟨c, sum, tail, hexec⟩ := exec_challenge (q := q) h
  refine answers_of_exec hexec ?_
  rw [if_pos (by simp [halgs])]
  exact State.spdmError_out ..

section
variable (halgs : (s.spdmOf x.val).algs = true)
include halgs

theorem answers_challenge (hcert : s.sup.certOk = true) (hslot : field q 2 1 = 0) : answers (.challenge x q) s fun t =>
    ∃ body, body.take 36 = [0x13#8, 3#8, 0#8, 1#8] ++ Sha.sha256 s.certChain ∧
      t.out = s.out ++ spdmOut x.val (body ++ Config.signature 1 ((s.spdmOf x.val).transcript ++ q ++ body)) := by
  obtain ⟨c, sum, tail, hexec⟩ := exec_challenge (q := q) h
  refine answers_of_exec hexec ?_
  rw [if_neg (by simp [halgs]), if_neg (by simp [hcert, hslot])]
  refine ⟨[0x13#8, 3#8, 0#8, 1#8] ++ Sha.sha256 s.certChain ++ sum ++ tail, ?_, State.spdmReply_out ..⟩
  rw [List.append_assoc, List.take_append_of_le_length (by simp [Sha.length_sha256]), List.take_of_length_le (by simp [Sha.length_sha256])]

theorem answers_getDigests (hcert : s.sup.certOk = true) : answers (.getDigests x q) s fun t =>
    t.out = s.out ++ spdmOut x.val ([0x13#8, 1#8, 1#8, 1#8] ++ Sha.sha256 s.certChain) := by
  refine answers_of_exec (when_of_true h _) ?_
  rw [if_neg (by simp [halgs]), if_pos hcert]
  exact State.spdmReply_out ..

theorem answers_getCertificate (hcert : s.sup.certOk = true) (hslot : field q 2 1 = 0) (hoff : field q 4 2 < s.certChain.length) :
    answers (.getCertificate x q) s fun t => ∃ part, part = (s.certChain.drop (field q 4 2)).take (field q 6 2) ∧
      t.out = s.out ++ spdmOut x.val ([0x13#8, 2#8, 0#8, 0#8] ++ bytesOfNat part.length 2 ++
        bytesOfNat (s.certChain.length - field q 4 2 - part.length) 2 ++ part) := by
  refine answers_of_exec (when_of_true h _) ?_
  rw [if_neg (by simp [halgs]), if_neg (by simp [hcert]), if_neg (by simp [hslot, hoff])]
  exact ⟨_, rfl, State.spdmReply_out ..⟩

theorem answers_getMeasurements (hop : field q 3 1 = 0) (hsigned : bitAt (field q 2 1) 0 = false) : answers (.getMeasurements x q) s fun t =>
    ∃ l, t.out = s.out ++ spdmOut x.val ([0x13#8, 0x60#8, 9#8, 0#8, 0#8, 0#8, 0#8, 0#8] ++ l) := by
  refine answers_of_exec (when_of_true h _) ?_
  rw [if_neg (by simp [halgs]), if_neg (by simp [hop]), if_neg (by simp [hsigned]), hop]
  refine ⟨((List.range 32).map fun i => Config.freeByte s.freeCtr i) ++ [0#8, 0#8], (State.spdmReply_out ..).trans ?_⟩
  simp [bytesOfNat]

end
end

/-- Settles O58: each request answers as its place in the order allows; the digest's length gives where a challenge's body ends. -/
theorem attestation : Obligations.Attestation := by
  unfold Obligations.Attestation
  rintro s x q c h rfl
  exact ⟨answers_getVersion h, answers_getCapabilities h, answers_getCapabilities_early h, answers_negotiateAlgorithms h,
    fun halgs => ⟨answers_getDigests h halgs, answers_getCertificate h halgs, answers_challenge h halgs, answers_getMeasurements h halgs⟩,
    answers_challenge_early h⟩

end Sys2Proof.Machine

/-!
# Creif transfers on the service lane (R655 to R662)
-/
namespace Sys2Proof.Machine

open Sys2Proof Sys2Proof.Safety

section
variable {s : State} {p : List Byte} {x y : Session} {n : Nat}

/-! ## Sessions -/

theorem State.session_id (h : s.session n = some x) : x.id = n := by
  simpa using List.find?_some h

theorem State.session_congr {t : State} (h : t.sup.sessions = s.sup.sessions) (n : Nat) : t.session n = s.session n := by
  rw [State.session, State.session, h]

/-- A session that is open is the one written at its id. -/
theorem State.session_setSession (h : s.session x.id = some y) : (s.setSession x).session x.id = some x := by
  unfold State.session State.setSession at *
  generalize s.sup.sessions = l at h
  induction l with
  | nil => simp at h
  | cons z l ih =>
    by_cases hz : z.id = x.id
    · simp [hz]
    · simpa [hz] using ih (by simpa [hz] using h)

theorem State.session_dropSession (n : Nat) : (s.dropSession n).session n = none := by
  simp [State.session, State.dropSession]

theorem State.exportMore_keeps {id k : Nat} :
    (s.exportMore id n).sup.nextSession = s.sup.nextSession ∧ (s.exportMore id n).dump k = s.dump k := by
  obtain ⟨o, l, h⟩ := s.exportMore_rest id n
  rw [h]
  exact ⟨rfl, rfl⟩

/-- An upload ended leaves no session at its id, and changes only its counter, the answers and the sessions. -/
theorem State.finishUpload_ends (s : State) (x : Session) (status : Nat) :
    ∃ d o l, s.finishUpload x status = { s with dict := d, out := o, sup := { s.sup with sessions := l } } ∧
      (s.finishUpload x status).session x.id = none ∧
      ∀ key, key ≠ dk 0xA030 2 → (s.finishUpload x status).dictGet key = s.dictGet key := by
  unfold State.finishUpload
  dsimp only
  have hcount : ∀ key, key ≠ dk 0xA030 2 → ((s.dropSession x.id).count 0xA030 2 1).dictGet key = s.dictGet key :=
    fun key hkey => State.dictGet_count_other _ 1 hkey
  obtain ⟨d, hd⟩ := (s.dropSession x.id).count_rest 0xA030 2 1
  split
  · rw [hd] at hcount ⊢
    exact ⟨_, _, _, rfl, State.session_dropSession (s := s) x.id, hcount⟩
  · exact ⟨_, _, _, rfl, State.session_dropSession (s := s) x.id, fun _ _ => rfl⟩

/-- A session aborted is gone; nothing but the sessions, the staging state and its dump slot changes. -/
theorem State.abortSession_ends (s : State) (x : Session) :
    (s.abortSession x).session x.id = none ∧ (s.abortSession x).out = s.out ∧ (x.kind = 1 → (s.abortSession x).sup.staging = .free) ∧
      (x.kind = 3 → ((s.abortSession x).dump x.arg).state = .held) := by
  have hgone := State.session_dropSession (s := s) x.id
  unfold State.abortSession
  split
  · next h => exact ⟨hgone, rfl, fun _ => rfl, fun h3 => by omega⟩
  · split
    · next h1 h => exact ⟨hgone, rfl, fun h => absurd h h1, fun _ => by rw [State.dump_setDump]⟩
    · next h1 h3 => exact ⟨hgone, rfl, fun h => absurd h h1, fun h => absurd h h3⟩

/-! ## What a packet in its operation runs -/

theorem creifIs_of_laneTakes {op : Nat} (h : laneTakes s p op) : creifIs p op = true := by
  obtain ⟨-, -, hop⟩ := h
  simp [creifIs, hop]

theorem exec_creifBegin (h : laneTakes s p 1) : exec (.creifBegin p) s = .next
    (if s.beginStatus (field p 2 1) (field p 3 1) (field p 0x18 4) ≠ 0
      then s.creifAckOut (field p 2 1) (field p 3 1) 0 0 (s.beginStatus (field p 2 1) (field p 3 1) (field p 0x18 4)) 0
      else s.creifStart (field p 2 1) (field p 3 1) (field p 0x18 4)) := by
  refine (when_of_true (creifIs_of_laneTakes h) _).trans ?_
  obtain ⟨hruns, hok, -⟩ := h
  rw [State.creifBegin, if_neg (by simp [hruns]), if_neg (by simp [hok])]

section
variable (hx : s.session (field p 4 4) = some x)
include hx

theorem exec_creifData (h : laneTakes s p 2) (hkind : isUpload x.kind = true) (hended : x.ended = false) :
    exec (.creifData p true) s = .next (s.takeData x p) := by
  refine (when_of_true (creifIs_of_laneTakes h) _).trans ?_
  obtain ⟨hruns, hok, -⟩ := h
  rw [State.creifData, if_neg (by simp [hruns]), if_neg (by simp [hok]), hx]
  simp [hkind, hended]

theorem exec_creifEnd {v : Verify} (h : laneTakes s p 3) (hended : x.ended = false) :
    exec (.creifEnd p v) s = .next (s.creifFinish x v) := by
  refine (when_of_true (creifIs_of_laneTakes h) _).trans ?_
  obtain ⟨hruns, hok, -⟩ := h
  rw [State.creifEnd, if_neg (by simp [hruns]), if_neg (by simp [hok]), hx]
  simp [hended]

theorem exec_creifAbort (h : laneTakes s p 5) (hended : x.ended = false) (hrest : s.resting x = false) :
    exec (.creifAbort p) s = .next (s.abortSession x) := by
  refine (when_of_true (creifIs_of_laneTakes h) _).trans ?_
  obtain ⟨hruns, hok, -⟩ := h
  rw [State.creifAbort, if_neg (by simp [hruns]), if_neg (by simp [hok]), hx]
  simp [hended, hrest]

end

/-! ## BEGIN (R655, R656) -/

/-- An accepted BEGIN takes the next session id, and does what its kind states. -/
theorem State.creifStart_starts (s : State) (kind arg total : Nat) (t : State) (ht : s.creifStart kind arg total = t) :
    t.sup.nextSession = s.sup.nextSession + 1 ∧ (kind = 4 → t.entry 0x8000 1 = 0) ∧
      (kind = 1 → t.sup.staging = .receiving ∧ t.sup.stageSession = some s.sup.nextSession) ∧
      (kind = 3 → (t.dump arg).state = .exporting) ∧
      (kind = 1 ∨ kind = 2 ∨ kind = 5 → t.sup.sessions = s.sup.sessions ++
        [{ id := s.sup.nextSession, kind := kind, arg := arg, total := total, lastValid := s.time }]) := by
  unfold State.creifStart at ht
  dsimp only at ht
  split at ht
  · next h4 =>
    let s1 : State := { s with sup := { s.sup with nextSession := s.sup.nextSession + 1 } }
    have hentry : (s1.clearOos.count 0xA030 2 1).entry 0x8000 1 = 0 :=
      (State.dictGet_count_other s1.clearOos 1 (by decide)).trans (State.dictGet_set s1 (dk 0x8000 1) 0)
    obtain ⟨d, hd⟩ := s1.clearOos.count_rest 0xA030 2 1
    have hsup : (s1.clearOos.count 0xA030 2 1).sup.nextSession = s.sup.nextSession + 1 := by rw [hd]; rfl
    subst ht
    exact ⟨hsup, fun _ => hentry, by omega, by omega, by omega⟩
  · split at ht
    · subst ht
      exact ⟨rfl, by simp, fun _ => ⟨rfl, rfl⟩, by simp, fun _ => rfl⟩
    · subst ht
      obtain ⟨hnext, hdump⟩ := State.exportMore_keeps (n := 32) (id := s.sup.nextSession)
      exact ⟨hnext, by simp, by simp, fun _ => congrArg Dump.state (hdump.trans (State.dump_setDump _ arg _)), by simp⟩
    · next h1 h3 =>
      subst ht
      exact ⟨rfl, fun h => absurd h ‹_›, fun h => absurd h h1, fun h => absurd h h3, fun _ => rfl⟩

theorem answers_creifBegin (h : laneTakes s p 1) :
    (s.beginStatus (field p 2 1) (field p 3 1) (field p 0x18 4) ≠ 0 → answers (.creifBegin p) s fun t =>
      t = s.creifAckOut (field p 2 1) (field p 3 1) 0 0 (s.beginStatus (field p 2 1) (field p 3 1) (field p 0x18 4)) 0) ∧
    (s.beginStatus (field p 2 1) (field p 3 1) (field p 0x18 4) = 0 → answers (.creifBegin p) s fun t => t.sup.nextSession = s.sup.nextSession + 1 ∧
      (field p 2 1 = 4 → t.entry 0x8000 1 = 0) ∧
      (field p 2 1 = 1 → t.sup.staging = .receiving ∧ t.sup.stageSession = some s.sup.nextSession) ∧
      (field p 2 1 = 3 → (t.dump (field p 3 1)).state = .exporting) ∧
      (field p 2 1 = 1 ∨ field p 2 1 = 2 ∨ field p 2 1 = 5 → t.sup.sessions = s.sup.sessions ++
        [{ id := s.sup.nextSession, kind := field p 2 1, arg := field p 3 1, total := field p 0x18 4, lastValid := s.time }])) :=
  ⟨fun hst => answers_of_exec (exec_creifBegin h) (if_pos hst),
    fun hst => answers_of_exec (exec_creifBegin h) (State.creifStart_starts s _ _ _ _ (if_neg (not_not_intro hst)).symm)⟩

/-! ## DATA (R657) -/

/-- A packet that follows those taken joins them; with none held ahead, no other follows it. -/
theorem Session.inOrder_next (hahead : x.ahead = []) (bs : List Byte) (n : Nat) :
    Session.inOrder { x with ahead := tabPut x.ahead (x.seqDone + 1) bs } (n + 2) = ({ x with seqDone := x.seqDone + 1 }, bs) := by
  simp [Session.inOrder, hahead, tabPut, tabDel, tabFind]

theorem answers_creifData (hx : s.session (field p 4 4) = some x) (h : laneTakes s p 2) (hkind : x.kind = 2 ∨ x.kind = 5) (hended : x.ended = false)
    (hahead : x.ahead = []) (hseq : field p 8 4 = x.seqDone + 1) (hoff : field p 0x10 8 = x.seqDone * 1024)
    (htotal : x.seqDone * 1024 + field p 0x0C 2 ≤ x.total) : answers (.creifData p true) s fun t =>
      t.session x.id = some { x with lastValid := s.time, seqDone := x.seqDone + 1, buffer := x.buffer ++ p.drop 32 } := by
  have hupload : isUpload x.kind = true := by rcases hkind with h | h <;> simp [isUpload, h]
  have hprofile : x.kind ≠ 1 := by rcases hkind with h | h <;> simp [h]
  refine answers_of_exec (exec_creifData hx h hupload hended) ?_
  have hid := State.session_id hx
  have horder := Session.inOrder_next (x := { x with lastValid := s.time }) hahead (p.drop 32) 31
  rw [State.takeData, if_neg (fun h => hprofile h.1)]
  dsimp only
  rw [hseq, if_neg (by omega), if_neg (by omega), if_neg hprofile, horder]
  have hopen := State.session_setSession (x := { x with lastValid := s.time, seqDone := x.seqDone + 1, buffer := x.buffer ++ p.drop 32 }) (hid ▸ hx)
  exact (State.session_congr (s := s.setSession _) rfl _).trans hopen

/-! ## END and the check of a package (R651, R659, R662) -/

/-- A whole PROVISION with the dual-signature flag alone blows that fuse. -/
theorem answers_creifEnd_provision {v : Verify} (hx : s.session (field p 4 4) = some x) (h : laneTakes s p 3) (hended : x.ended = false)
    (hwhole : x.total ≤ 1024 * x.seqDone) (hkind : x.kind = 5) (harg : x.arg = 2) (hfuse : s.fuses.dualSig = false) :
    answers (.creifEnd p v) s fun t => t.fuses = { s.fuses with dualSig := true } ∧ t.session x.id = none := by
  refine answers_of_exec (exec_creifEnd hx h hended) ?_
  have hprovision : s.provision x.arg x.buffer = ({ s with fuses := { s.fuses with dualSig := true } }, 0) := by
    have h0 : bitAt 2 0 = false := by decide
    have h1 : bitAt 2 1 = true := by decide
    simp [State.provision, harg, h0, h1, hfuse]
  have hfinish : s.creifFinish x v = (s.provision x.arg x.buffer).1.finishUpload x (s.provision x.arg x.buffer).2 := by
    unfold State.creifFinish
    rw [hkind]
    exact if_neg (by simp [hwhole])
  obtain ⟨d, o, l, hends, hgone, -⟩ := State.finishUpload_ends ({ s with fuses := { s.fuses with dualSig := true } } : State) x 0
  rw [hfinish, hprovision]
  exact ⟨by rw [hends], hgone⟩

theorem answers_creifEnd_package {v : Verify} (hx : s.session (field p 4 4) = some x) (h : laneTakes s p 3) (hended : x.ended = false)
    (hwhole : x.total ≤ 1024 * x.seqDone) (hkind : x.kind = 1) (hstaging : s.sup.staging = .receiving) :
    answers (.creifEnd p v) s fun t => t.sup.staging = .verifying ∧ t.fuses = s.fuses := by
  refine answers_of_exec (exec_creifEnd hx h hended) ?_
  unfold State.creifFinish
  rw [hkind]
  dsimp only
  rw [if_neg (by simp [hstaging]), if_neg (by simp [hwhole])]
  exact ⟨rfl, rfl⟩

theorem State.slotEntries_sup (s : State) (k : Nat) : (s.slotEntries k).sup = s.sup := by
  unfold State.slotEntries
  refine (State.foldl_keeps (fun x => x.sup) (fun x j => ?_) _ _).trans rfl
  dsimp only
  split <;> rfl

/-- The entries of a slot are not the status of staging. -/
theorem State.slotEntries_status (s : State) {k : Nat} (hk : k < 2) : (s.slotEntries k).dictGet (dk 0xA007 6) = s.dictGet (dk 0xA007 6) := by
  unfold State.slotEntries
  refine (State.foldl_keeps (fun x => x.dictGet (dk 0xA007 6)) (fun x j => ?_) _ _).trans ?_
  · dsimp only
    split
    · exact State.dictGet_set_other x _ (dk_ne (by decide) (by decide) (by omega))
    · rfl
  · dsimp only
    rw [State.dictGet_set_other _ _ (dk_ne (by decide) (by decide) (by omega)), State.dictGet_set_other _ _ (dk_ne (by decide) (by decide) (by omega))]

theorem State.stageSlot_lt (s : State) : s.stageSlot < 2 := by
  unfold State.stageSlot
  split <;> omega

/-- The end of the check for a staging session, if there is one, leaves the staging state and its status. -/
theorem State.stageVerified_shows (s : State) (v : Verify) (st : Nat) (hst : st = (if v.flashOk then s.slotStatus s.stageSlot v.ecdsa v.mldsa else 9)) :
    (s.stageVerified v).sup.staging = (if st = 0 then .staged else .free) ∧ (s.stageVerified v).entry 0xA007 6 = st := by
  have hst' : (if !v.flashOk then 9 else s.slotStatus s.stageSlot v.ecdsa v.mldsa) = st := by rw [hst]; cases v.flashOk <;> rfl
  have hk := s.stageSlot_lt
  unfold State.stageVerified
  dsimp only
  rw [hst']
  generalize hs2 : (State.setStaging _ _).dictSet (dk 0xA007 6) st = s2
  have hstaging : s2.sup.staging = if st = 0 then .staged else .free := by rw [← hs2]; rfl
  have hentry : s2.dictGet (dk 0xA007 6) = st := by rw [← hs2, State.dictGet_set]
  generalize hs3 : (if st = 0 then (s2.slotEntries s.stageSlot).event 0x0820 0 s2.platformFns else s2.invalidateSlot s.stageSlot) = s3
  have h3 : s3.sup = s2.sup ∧ s3.dictGet (dk 0xA007 6) = s2.dictGet (dk 0xA007 6) := by
    subst hs3
    split
    · obtain ⟨o, f, m, d, hevent⟩ := (s2.slotEntries s.stageSlot).event_rest 0x0820 0 s2.platformFns
      refine ⟨?_, (State.event_dict _ _ _ _ _ (by decide)).trans (State.slotEntries_status s2 hk)⟩
      rw [hevent]
      exact State.slotEntries_sup ..
    · exact ⟨rfl, rfl⟩
  obtain ⟨hsup, hsame⟩ := h3
  split
  · next y _ =>
    obtain ⟨d, o, l, hends, -, hdict⟩ := s3.finishUpload_ends y st
    refine ⟨?_, (hdict _ (by decide)).trans (hsame.trans hentry)⟩
    rw [hends]
    exact (congrArg Sup.staging hsup).trans hstaging
  · exact ⟨(congrArg Sup.staging hsup).trans hstaging, hsame.trans hentry⟩

theorem exec_stageVerifyDone {v : Verify} (h : s.sup.staging = .verifying) : exec (.stageVerifyDone v) s = .next (s.stageVerified v) :=
  when_of_true (by simp [h]) _

/-! ## ACK, ABORT, resends and the time limit (R656, R657) -/

theorem answers_creifAck (hx : s.session (field p 4 4) = some x) (h : laneTakes s p 4) (hkind : x.kind = 3) (hnew : x.seqDone < field p 8 4)
    (hsent : field p 8 4 ≤ x.seqSent) (hall : (s.dump x.arg).size ≤ 1024 * field p 8 4) :
    answers (.creifAck p) s fun t => t.session x.id = none ∧ t.dump x.arg = {} := by
  refine answers_of_exec (when_of_true (creifIs_of_laneTakes h) _) ?_
  obtain ⟨hruns, hok, -⟩ := h
  rw [State.exportAck, if_neg (by simp [hruns]), if_neg (by simp [hok]), hx]
  dsimp only
  rw [if_neg (by simp [hkind]), if_neg (by omega), if_pos hall]
  generalize s.setSession { x with seqDone := field p 8 4, resends := 0, sentAt := s.time, lastValid := s.time } = y
  obtain ⟨d, hd⟩ := ((y.dropSession x.id).freeDump x.arg).count_rest 0xA030 2 1
  rw [hd]
  exact ⟨State.session_dropSession (s := y) x.id, State.dump_setDump (y.dropSession x.id) ..⟩

theorem answers_creifAbort (hx : s.session (field p 4 4) = some x) (h : laneTakes s p 5) (hended : x.ended = false) (hrest : s.resting x = false) :
    answers (.creifAbort p) s fun t => t.session x.id = none ∧ t.out = s.out ∧
      (x.kind = 1 → t.sup.staging = .free) ∧ (x.kind = 3 → (t.dump x.arg).state = .held) :=
  answers_of_exec (exec_creifAbort hx h hended hrest) (s.abortSession_ends x)

section
variable (hx : s.session n = some x)
include hx

theorem answers_creifResend (hkind : x.kind = 3) (hstate : (s.dump x.arg).state = .exporting) (hwaits : x.seqSent ≠ x.seqDone)
    (htime : x.sentAt + 20000 ≤ s.time) :
    (x.resends < 50 → answers (.creifResend n) s fun t => t.session n = some { x with resends := x.resends + 1, sentAt := s.time } ∧
      t.out = s.out ++ [Out.creif (creifPacket 2 3 x.arg n (x.seqDone + 1) 0 (1024 * x.seqDone) 0 ((s.dump x.arg).read (1024 * x.seqDone) 1024))]) ∧
    (50 ≤ x.resends → answers (.creifResend n) s fun t => t.session n = none ∧ (t.dump x.arg).state = .held) := by
  have hid := State.session_id hx
  have hexec : exec (.creifResend n) s = .next (s.creifResend n) := rfl
  rw [State.creifResend, hx] at hexec
  dsimp only at hexec
  rw [if_neg (by simp [hkind, hstate, hwaits, htime])] at hexec
  constructor
  · intro hfew
    rw [if_neg (by omega)] at hexec
    refine answers_of_exec hexec ⟨?_, rfl⟩
    have hopen := State.session_setSession (s := s) (x := { x with resends := x.resends + 1, sentAt := s.time }) (hid ▸ hx)
    exact hid ▸ hopen
  · intro hmany
    rw [if_pos hmany] at hexec
    obtain ⟨hgone, -, -, hheld⟩ := s.abortSession_ends x
    exact answers_of_exec hexec ⟨hid ▸ hgone, hheld hkind⟩

theorem answers_creifSessionTimeout (hended : x.ended = false) (hrest : s.resting x = false) (htime : x.lastValid + 10000000 ≤ s.time) :
    answers (.creifSessionTimeout n) s fun t => t.session n = none := by
  have hexec : exec (.creifSessionTimeout n) s = .next ((s.abortSession x).creifAckOut x.kind x.arg x.id x.seqDone 0xA 0) := by
    refine Eq.trans (b := execCreifSessionTimeout n s) rfl ?_
    rw [execCreifSessionTimeout, hx]
    dsimp only
    rw [if_neg (by simp [hended, hrest, htime])]
  refine answers_of_exec hexec ?_
  obtain ⟨hgone, -⟩ := s.abortSession_ends x
  exact State.session_id hx ▸ hgone

end
end

/-- Settles O56: each packet in its operation runs one function of the service lane, whose sessions, staging state and dump slot are read off. -/
theorem creifTransfers : Obligations.CreifTransfers := by
  unfold Obligations.CreifTransfers
  intro s p
  refine ⟨answers_creifBegin, fun x hx => ⟨fun h hkind hended hahead => answers_creifData hx h hkind hended hahead,
      fun v h hended hwhole => ⟨answers_creifEnd_provision hx h hended hwhole, answers_creifEnd_package hx h hended hwhole⟩,
      answers_creifAck hx, answers_creifAbort hx⟩,
    fun n x hx => answers_creifResend hx, fun n x hx => answers_creifSessionTimeout hx, fun v hstaging hflash hst => ?staged, fun v st hstaging hst hne => ?refused⟩
  case staged =>
    obtain ⟨hstate, hentry⟩ := State.stageVerified_shows s v 0 (by rw [if_pos hflash, hst])
    exact answers_of_exec (exec_stageVerifyDone hstaging) ⟨hstate, hentry⟩
  case refused =>
    obtain ⟨hstate, hentry⟩ := State.stageVerified_shows s v st hst
    exact answers_of_exec (exec_stageVerifyDone hstaging) ⟨hstate.trans (if_neg hne), hentry⟩

end Sys2Proof.Machine

/-!
# The record a member contributes to a RESOLVE (R555)
-/
namespace Sys2Proof.Machine

open Sys2Proof Sys2Proof.Safety

section
variable {a o v : Nat} {step : W64} {instar : W32} {x y : List Byte} {p : Part}

theorem field_piece {l : List Byte} {n off len : Nat} (before after : List Byte) (h : l = before ++ bytesOfNat n len ++ after) (hoff : before.length = off)
    (hn : n < 256 ^ len) : field l off len = n :=
  h ▸ field_bytesOfNat before after hoff hn

/-- A record filled for a point holds the step and the instar, each with its complement. -/
theorem pointRecord_point (a o v : Nat) (step : W64) (instar : W32) (x y : List Byte) :
    field (pointRecord a o v step instar x y) 0x10 8 = step.toNat ∧ field (pointRecord a o v step instar x y) 0x18 8 = (~~~step).toNat ∧
      field (pointRecord a o v step instar x y) 0x20 4 = instar.toNat ∧ field (pointRecord a o v step instar x y) 0x24 4 = (~~~instar).toNat := by
  refine ⟨?_, ?_, ?_, ?_⟩
  · exact field_piece (bytesOfNat a 4 ++ bytesOfNat o 4 ++ bytesOfNat v 4 ++ bytesOfNat 0 4)
      (bytesOfNat (~~~step).toNat 8 ++ bytesOfNat instar.toNat 4 ++ bytesOfNat (~~~instar).toNat 4 ++ x ++ y) (by simp [pointRecord]) (by simp) step.isLt
  · exact field_piece (bytesOfNat a 4 ++ bytesOfNat o 4 ++ bytesOfNat v 4 ++ bytesOfNat 0 4 ++ bytesOfNat step.toNat 8)
      (bytesOfNat instar.toNat 4 ++ bytesOfNat (~~~instar).toNat 4 ++ x ++ y) (by simp [pointRecord]) (by simp) (~~~step).isLt
  · exact field_piece (bytesOfNat a 4 ++ bytesOfNat o 4 ++ bytesOfNat v 4 ++ bytesOfNat 0 4 ++ bytesOfNat step.toNat 8 ++
      bytesOfNat (~~~step).toNat 8) (bytesOfNat (~~~instar).toNat 4 ++ x ++ y) (by simp [pointRecord]) (by simp) instar.isLt
  · exact field_piece (bytesOfNat a 4 ++ bytesOfNat o 4 ++ bytesOfNat v 4 ++ bytesOfNat 0 4 ++ bytesOfNat step.toNat 8 ++
      bytesOfNat (~~~step).toNat 8 ++ bytesOfNat instar.toNat 4) (x ++ y) (by simp [pointRecord]) (by simp) (~~~instar).isLt

/-- The folded fields of a record, and what the user fields hold. -/
theorem pointRecord_fields (ha : a < 256 ^ 4) (ho : o < 256 ^ 4) (hv : v < 256 ^ 4) (step : W64) (instar : W32) (x y : List Byte) :
    field (pointRecord a o v step instar x y) 0 4 = a ∧ field (pointRecord a o v step instar x y) 4 4 = o ∧
      field (pointRecord a o v step instar x y) 8 4 = v ∧ (pointRecord a o v step instar x y).drop 0x28 = x ++ y := by
  let point := bytesOfNat step.toNat 8 ++ bytesOfNat (~~~step).toNat 8 ++ bytesOfNat instar.toNat 4 ++ bytesOfNat (~~~instar).toNat 4
  refine ⟨?_, ?_, ?_, ?_⟩
  · exact field_piece [] (bytesOfNat o 4 ++ bytesOfNat v 4 ++ bytesOfNat 0 4 ++ point ++ x ++ y) (by simp [pointRecord, point]) rfl ha
  · exact field_piece (bytesOfNat a 4) (bytesOfNat v 4 ++ bytesOfNat 0 4 ++ point ++ x ++ y) (by simp [pointRecord, point]) (by simp) ho
  · exact field_piece (bytesOfNat a 4 ++ bytesOfNat o 4) (bytesOfNat 0 4 ++ point ++ x ++ y) (by simp [pointRecord, point]) (by simp) hv
  · rw [pointRecord, List.append_assoc]
    exact List.drop_left' (by simp)

/-- What a member that decided the point contributes. -/
theorem Part.resolveRecord_decided {q : Point} (hlast : p.lastPoint = some q) (hstep : q.step = step) (hinstar : q.instar = instar) :
    p.resolveRecord (step, instar) = pointRecord (field q.record 0 4) (2 + (if q.committed then 4 else 8) + (if q.molt then 32 else 0))
      (field q.record 8 4) step instar ((q.record.drop 0x28).take 16) ((q.record.drop 0x38).take 8) := by
  rw [Part.resolveRecord, hlast]
  exact if_pos (by simp [Point.is, hstep, hinstar])

/-- What a member that has not decided the point contributes. -/
theorem Part.resolveRecord_undecided (h : p.decided (step, instar) = false) :
    p.resolveRecord (step, instar) = Part.resolveRecord.undecidedRecord p (step, instar) := by
  unfold Part.resolveRecord
  unfold Part.decided at h
  split
  · next q hq => exact if_neg (by simpa [hq] using h)
  · rfl

/-- A record is filled for a point whatever the member decided. -/
theorem Part.resolveRecord_form (p : Part) (step : W64) (instar : W32) :
    ∃ a o v x y, p.resolveRecord (step, instar) = pointRecord a o v step instar x y := by
  unfold Part.resolveRecord
  split
  · split
    · exact ⟨_, _, _, _, _, rfl⟩
    · exact ⟨_, _, _, _, _, rfl⟩
  · exact ⟨_, _, _, _, _, rfl⟩

/-- The user fields of a record of 64 bytes are its last 24. -/
theorem userFields (l : List Byte) (h : l.length = 64) : (l.drop 0x28).take 16 ++ (l.drop 0x38).take 8 = l.drop 0x28 := by
  have hlast : (l.drop 0x38).take 8 = l.drop 0x38 := List.take_of_length_le (by simp [h])
  have hdrop : l.drop 0x38 = (l.drop 0x28).drop 16 := by rw [List.drop_drop]
  rw [hlast, hdrop, List.take_append_drop]

end

/-- Settles O47: the record of a point, with the fields of the decided and of the undecided member. -/
theorem resolveRecords : Obligations.ResolveRecords := by
  unfold Obligations.ResolveRecords
  rintro p step instar r rfl
  obtain ⟨a, o, v, x, y, hform⟩ := p.resolveRecord_form step instar
  have hpoint := pointRecord_point a o v step instar x y
  rw [← hform] at hpoint
  obtain ⟨h10, h18, h20, h24⟩ := hpoint
  refine ⟨h10, h18, h20, h24, fun q hlast hstep hinstar hlength => ?decided, fun hno => ?undecided⟩
  case decided =>
    have hfold : 2 + (if q.committed then 4 else 8) + (if q.molt then 32 else 0) < 256 ^ 4 := by split <;> split <;> decide
    obtain ⟨hand, hor, hovf, huser⟩ := pointRecord_fields (field_lt q.record 0 4) hfold (field_lt q.record 8 4) step instar
      ((q.record.drop 0x28).take 16) ((q.record.drop 0x38).take 8)
    rw [Part.resolveRecord_decided hlast hstep hinstar]
    exact ⟨hand, hor, hovf, huser.trans (userFields _ hlength)⟩
  case undecided =>
    have hfold : 2 + (if p.stepState = .inDoubt ∧ p.doubt.any (fun q => q.is (step, instar) && q.molt) then 32 else 0) < 256 ^ 4 := by split <;> decide
    obtain ⟨hand, hor, hovf, huser⟩ := pointRecord_fields (a := 3) (v := 0) (by decide) hfold (by decide) step instar
      (List.replicate 16 0) (List.replicate 8 0)
    rw [Part.resolveRecord_undecided hno]
    refine ⟨hand, hovf, huser, hor.trans ?_⟩
    simp [Point.is, Option.any_eq_true, and_assoc]

end Sys2Proof.Machine

/-!
# Hangs (R604, R687): a hang that discards an exchange whose slot number names the domain's own hang counter
-/
namespace Sys2Proof.Machine

open Sys2Proof Sys2Proof.Safety

/-- The slot number whose handoff counter has the key of the network interface's hang counter. -/
def hangSlot : Nat := (0x8015 - 0x7060) * 256 + 16

/-- One exchange of that slot, handed off, on a module in service. -/
def strayExchange : State :=
  { power := { state := .running }, boot := { stage := 10 }, time := 5000, colls := [{ slot := hangSlot, handoff := 2 }] }

/-- The hang is counted, and so is the exchange it discards. -/
theorem strayExchange_hang :
    (match exec (.hangDetected 16 0x6000 0) strayExchange with | .next t => some (t.entry 0x8015 17) | _ => none) = some 2 := by decide +kernel

/-- Refutes O49: a hang of the network interface that drops an exchange of slot `hangSlot` raises the interface's hang counter by 2. -/
theorem not_hangs : ¬ Obligations.Hangs := by
  unfold Obligations.Hangs
  intro h
  obtain ⟨hdetected, -, -⟩ := h strayExchange
  obtain ⟨t, hexec, -, hcount⟩ := hdetected 16 0x6000 0 rfl (by decide +kernel) (by decide +kernel) (by decide +kernel)
  have htwice := strayExchange_hang
  rw [hexec] at htwice
  have hfirst : strayExchange.entry 0x8015 17 = 0 := by decide +kernel
  have honce : t.entry 0x8015 17 = 1 := (hcount (by decide)).trans (by rw [show (16 : Fin 21).val + 1 = 17 from rfl, hfirst])
  exact absurd (honce.symm.trans (Option.some.inj htwice)) (by decide)

end Sys2Proof.Machine

/-!
# The supervisor's timers and the loss of VIN (R619 to R623, R631, R664, R66, R75, R105)
-/
namespace Sys2Proof.Machine

open Sys2Proof Sys2Proof.Safety

section
variable {s t : State}

/-! ## The health score (R619, R620) -/

/-- The entries that a source's total is read from are not decayed counts. -/
theorem State.entrySum_congr (h : ∀ key, key / 256 ≠ 0x2042 → t.dictGet key = s.dictGet key) {index n : Nat} (hindex : index ≠ 0x2042)
    (hn : n < 256) : t.entrySum index n = s.entrySum index n := by
  unfold State.entrySum
  refine List.foldl_ext _ _ _ fun x i hi => ?_
  have hi' : i + 1 < 256 := by have := List.mem_range.mp hi; omega
  exact congrArg (x + ·) (h _ (by rw [dk_div index hi']; exact hindex))

/-- What a decay leaves: every total but the decayed counts' own entries. -/
def HealthKept (s t : State) : Prop :=
  t.hbmFrames = s.hbmFrames ∧ t.cores = s.cores ∧ t.sup.pcieErrors = s.sup.pcieErrors ∧ t.sup.linkRetrains = s.sup.linkRetrains ∧
    ∀ key, key / 256 ≠ 0x2042 → t.dictGet key = s.dictGet key

theorem HealthKept.healthTotal (h : HealthKept s t) (i : Nat) : t.healthTotal i = s.healthTotal i := by
  obtain ⟨hframes, hcores, hpcie, hretrains, hdict⟩ := h
  have hsum : ∀ {index n : Nat}, index ≠ 0x2042 → n < 256 → t.entrySum index n = s.entrySum index n := State.entrySum_congr hdict
  have hcore : ∀ c, t.core c = s.core c := fun c => by rw [State.core, State.core, hcores]
  unfold State.healthTotal
  split
  case h_5 => rw [hframes]
  case h_6 => exact hpcie
  case h_8 => rw [hretrains, hsum (by decide) (by decide)]
  case h_12 => simp only [hcore]
  all_goals exact hsum (by decide) (by decide)

/-- The count of one source brought up to the end of a period. -/
def State.decayed (s : State) (i : Nat) : Nat :=
  sat (2 ^ 32 - 1) (s.entry 0x2042 i - s.entry 0x2042 i / 8 + ((s.healthTotal i : Int) - tabGet 0 s.sup.healthPrev i).toNat)

/-- The first n sources brought up to the end of a period. -/
theorem State.decays (s : State) {n : Nat} (hn : n ≤ 12) : ∀ t, t = (List.range n).foldl (fun s i => s.decay (i + 1)) s →
    HealthKept s t ∧ (∀ i, n < i → i < 256 → t.entry 0x2042 i = s.entry 0x2042 i ∧ tabGet 0 t.sup.healthPrev i = tabGet 0 s.sup.healthPrev i) ∧
      ∀ i, 1 ≤ i → i ≤ n → t.entry 0x2042 i = s.decayed i := by
  induction n with
  | zero =>
    rintro t rfl
    exact ⟨⟨rfl, rfl, rfl, rfl, fun _ _ => rfl⟩, fun _ _ _ => ⟨rfl, rfl⟩, fun i h h' => by omega⟩
  | succ n ih =>
    rintro t ht
    rw [List.range_succ, List.foldl_append] at ht
    obtain ⟨hkept, hrest, hdone⟩ := ih (by omega) _ rfl
    generalize (List.range n).foldl (fun s i => s.decay (i + 1)) s = u at ht hkept hrest hdone
    have htotal := hkept.healthTotal (n + 1)
    obtain ⟨hframes, hcores, hpcie, hretrains, hdict⟩ := hkept
    obtain ⟨hentry, hprev⟩ := hrest (n + 1) (by omega) (by omega)
    have hset : t.dictGet (dk 0x2042 (n + 1)) = s.decayed (n + 1) := by
      rw [ht]
      refine (State.dictGet_set u (dk 0x2042 (n + 1)) _).trans ?_
      rw [State.decayed, htotal, hentry, hprev]
    have hother : ∀ key, key ≠ dk 0x2042 (n + 1) → t.dictGet key = u.dictGet key := fun key hkey => by
      rw [ht]
      exact State.dictGet_set_other u _ hkey
    have hsub : ∀ i, i ≠ n + 1 → dk 0x2042 i ≠ dk 0x2042 (n + 1) := fun i hi => by unfold dk; omega
    refine ⟨⟨?_, ?_, ?_, ?_, fun key hkey => ?_⟩, fun i hi hi' => ⟨?_, ?_⟩, fun i hi hi' => ?_⟩
    · rw [ht]; exact hframes
    · rw [ht]; exact hcores
    · rw [ht]; exact hpcie
    · rw [ht]; exact hretrains
    · exact (hother key (by rintro rfl; exact hkey (dk_div _ (by omega)))).trans (hdict key hkey)
    · exact (hother _ (hsub i (by omega))).trans (hrest i (by omega) hi').1
    · rw [ht]
      exact (tabGet_set_other _ _ _ (by omega)).trans (hrest i (by omega) hi').2
    · by_cases hlast : i = n + 1
      · subst hlast
        exact hset
      · exact (hother _ (hsub i hlast)).trans (hdone i hi (by omega))

/-- The end of a period: the counts decayed, the score shown, the period's start. -/
theorem State.healthUpdate_shows (s : State) : ∃ u v : State, u = (List.range 12).foldl (fun s i => s.decay (i + 1)) s ∧
    v.dict = (u.dictSet (dk 0x2040 1) u.healthScore).dict ∧ v.sup.healthFrom = s.time ∧ s.healthUpdate.sup = v.sup ∧
      ∀ key, key ≠ dk 0x8030 2 → s.healthUpdate.dictGet key = v.dictGet key := by
  unfold State.healthUpdate
  generalize (List.range 12).foldl (fun s i => s.decay (i + 1)) s = u
  extract_lets s1 score s2 warn low armed sup2 s3
  refine ⟨u, s3, rfl, rfl, rfl, ?_⟩
  split
  · obtain ⟨o, f, m, d, hevent⟩ := s3.event_rest 0x0805 score s3.platformFns
    exact ⟨by rw [hevent], fun key hkey => State.event_dict _ _ _ _ _ hkey⟩
  · exact ⟨rfl, fun _ _ => rfl⟩

theorem answers_healthUpdate (hruns : s.supRuns = true) (hdue : s.sup.healthFrom + 1000000 * s.entry 0x2040 3 ≤ s.time) :
    answers .healthUpdate s fun t => t.sup.healthFrom = s.time ∧ t.entry 0x2040 1 ≤ 1000 ∧
      ∀ i, 1 ≤ i → i ≤ 12 → t.entry 0x2042 i =
        sat (2 ^ 32 - 1) (s.entry 0x2042 i - s.entry 0x2042 i / 8 + ((s.healthTotal i : Int) - tabGet 0 s.sup.healthPrev i).toNat) := by
  obtain ⟨u, v, hu, hv, hfrom, hsup, hdict⟩ := s.healthUpdate_shows
  obtain ⟨-, -, hdecay⟩ := s.decays (Nat.le_refl 12) u hu
  refine answers_of_exec (when_of_true (by simp [hruns, hdue]) _) ⟨hsup ▸ hfrom, ?_, fun i h1 h12 => ?_⟩
  · refine ((hdict _ (by decide)).trans ((State.dictGet_congr hv _).trans (State.dictGet_set ..))).le.trans ?_
    exact Nat.sub_le ..
  · have h2042 : dk 0x2042 i ≠ dk 0x2040 1 := dk_ne (by decide) (by omega) (by decide)
    refine (hdict _ (dk_ne (by decide) (by omega) (by decide))).trans ((State.dictGet_congr hv _).trans ?_)
    exact (State.dictGet_set_other u _ h2042).trans (hdecay i h1 h12)

/-! ## Mirrors, persistent values and the self-test (R623, R631, R664) -/

theorem answers_divergenceCheck {l : Nat × Nat × Nat} (hruns : s.supRuns = true) (hdue : s.sup.divergeFrom + s.entry 0x2050 1 ≤ s.time)
    (hlag : s.sup.lag = [l]) (hold : l.2.2 + 100 < s.time) (hdiffers : s.entryValue (l.1 / 256) (l.1 % 256) ≠ l.2.1) :
    answers .divergenceCheck s fun t => t.sup.lag = [] ∧ t.sup.divergeFrom = s.time ∧
      t.entry 0x2050 2 = s.entry 0x2050 2 + 1 ∧ t.entry 0x2050 3 = l.1 := by
  let u : State := { s with sup := { s.sup with divergeFrom := s.time } }
  let v : State := { (u.count 0x2050 2 1).dictSet (dk 0x2050 3) l.1 with sup := { u.sup with
    lag := u.sup.lag.erase l, mirrorSeq := tabSet 0 u.sup.mirrorSeq l.1 ((tabGet 0 u.sup.mirrorSeq l.1 + 1) % 2 ^ 32)
    mirrorVal := tabSet 0 u.sup.mirrorVal l.1 (((u.count 0x2050 2 1).dictSet (dk 0x2050 3) l.1).entryValue (l.1 / 256) (l.1 % 256)) } }
  have hexec : exec .divergenceCheck s = .next (v.event 0x0806 l.1 v.platformFns) := by
    refine (when_of_true (by simp [hruns, hdue]) _).trans ?_
    rw [hlag, List.filter_cons_of_pos (by simp [hold, hdiffers])]
    rfl
  obtain ⟨o, f, m, d, hevent⟩ := v.event_rest 0x0806 l.1 v.platformFns
  refine answers_of_exec hexec ⟨?_, by rw [hevent], ?_, ?_⟩
  · rw [hevent]
    show s.sup.lag.erase l = []
    rw [hlag, List.erase_cons_head]
  · refine (State.event_dict _ _ _ _ _ (by decide)).trans ?_
    exact (State.dictGet_set_other (u.count 0x2050 2 1) l.1 (by decide)).trans (State.dictGet_count u 0x2050 2 1)
  · exact (State.event_dict _ _ _ _ _ (by decide)).trans (State.dictGet_set (u.count 0x2050 2 1) (dk 0x2050 3) l.1)

theorem answers_persistCommit (hruns : s.supRuns = true) : answers .persistCommit s fun t =>
    t.persist = t.dict.filter (fun e => dictPersistent e.1) ∧ t.entry 0x2060 6 = s.entry 0x2060 6 + 1 ∧ t.sup.commitFrom = s.time :=
  answers_of_exec (when_of_true hruns _) ⟨rfl, State.dictGet_count s 0x2060 6 1, rfl⟩

theorem answers_selftestDone (d : W32) (hrunning : s.entry 0xA005 1 = 1) :
    answers (.selftestDone true d) s (fun t => t.entry 0xA005 1 = 2) ∧
      answers (.selftestDone false d) s (fun t => t.entry 0xA005 1 = 3 ∧ t.entry 0xA005 2 = d.toNat) := by
  refine ⟨answers_of_exec (when_of_true (by simp [hrunning]) _) (State.dictGet_set ..), answers_of_exec (when_of_true (by simp [hrunning]) _) ⟨?_, ?_⟩⟩
  · exact (State.event_dict _ _ _ _ _ (by decide)).trans ((State.dictGet_set_other _ _ (by decide)).trans (State.dictGet_set ..))
  · exact (State.event_dict _ _ _ _ _ (by decide)).trans (State.dictGet_set ..)

/-! ## The loss of VIN (R66, R75, R76, R105) -/

theorem answers_vinLost (mv : W32) (hpower : s.power.state ≠ .unpowered) : answers (.vinLost mv) s fun t =>
    t.power.state = .unpowered ∧ t.pins.vinMv = mv.toNat ∧ t.flash = s.flash ∧ t.fuses = s.fuses ∧ t.hostMem = s.hostMem ∧ t.hbm = [] ∧ t.cxl = [] ∧
      t.scratch = [] ∧ t.cmds = [] ∧ t.waiting = [] ∧ t.resets = [] ∧
      (mv.toNat ≤ 30000 → t.resetRec = {}) ∧ (30000 < mv.toNat → t.resetRec = s.resetRec) := by
  refine answers_of_exec (when_of_true (by simp [State.powered, hpower]) _)
    ⟨rfl, rfl, rfl, rfl, rfl, rfl, rfl, rfl, rfl, rfl, rfl, fun hlow => ?_, fun hhigh => ?_⟩
  · exact if_neg (by simp [hlow])
  · exact if_pos (by simp [hhigh])

end

/-- Settles O51: the health counts source by source, the mirror that lags alone, and what the loss of VIN leaves. -/
theorem supervisorAndPowerLoss : Obligations.SupervisorAndPowerLoss := by
  unfold Obligations.SupervisorAndPowerLoss
  exact ⟨fun s hruns => ⟨answers_healthUpdate hruns, fun l hdue hlag hold hdiffers _ => answers_divergenceCheck hruns hdue hlag hold hdiffers,
    answers_persistCommit hruns, fun d => answers_selftestDone d⟩, fun s mv => answers_vinLost mv⟩

end Sys2Proof.Machine

/-!
# Registers of a function, and its submission queues (R143, R147 to R156, R675)
-/
namespace Sys2Proof.Machine

open Sys2Proof Sys2Proof.Safety

section
variable {s : State} {p : PortNo} {f : FnNo} {q : QueueNo}

/-! ## BAR0 accesses (R143, R675) -/

theorem exec_registerWrite {o : BitVec 23} {n : Nat} {v : W64} (h : s.reachable (fnKey p.val f.val) = true) :
    exec (.registerWrite p f o n v) s = .next (s.regWrite (fnKey p.val f.val) o.toNat n v.toNat) := when_of_true h _

theorem exec_registerReadLatch {o : BitVec 23} {n : Nat} (h : s.reachable (fnKey p.val f.val) = true) :
    exec (.registerReadLatch p f o n) s = .next (s.regRead (fnKey p.val f.val) o.toNat n) :=
  Eq.trans (b := execRegisterReadLatch p f o n s) rfl (congrArg Host.Outcome.next (if_pos h))

/-- The offset of SQ_BASE of a queue. -/
theorem sqBase_offset (q : QueueNo) : (BitVec.ofNat 23 (0x10000 + 0x40 * q.val)).toNat = 0x10000 + 0x40 * q.val := by
  have := q.isLt
  rw [BitVec.toNat_ofNat]
  omega

theorem isWide_sqBase (q : QueueNo) : isWide (0x10000 + 0x40 * q.val) = true := by
  revert q; decide

theorem isWideRw_sqBase (q : QueueNo) : isWideRw (0x10000 + 0x40 * q.val) = true := by
  revert q; decide

/-- A 64-bit write of SQ_BASE while the queue is not active. -/
theorem State.regWrite_sqBase {k : Nat} (h : (s.queue k q.val).active = false) (v : Nat) :
    s.regWrite k (0x10000 + 0x40 * q.val) 8 v = s.setQueue k q.val { s.queue k q.val with sqBase := BitVec.ofNat 64 (v / 4096 * 4096) } := by
  have hq := q.isLt
  have hno : (0x10000 + 0x40 * q.val - 0x10000) / 0x40 = q.val := by omega
  rw [State.regWrite, if_pos rfl, if_neg (by omega), if_pos (isWide_sqBase q), State.write64, if_pos (by omega), hno]
  simp only [h, Bool.false_eq_true, if_false]
  rw [if_pos (by omega)]

/-- A 32-bit write of the low half of SQ_BASE is held. -/
theorem State.regWrite_sqBaseLow (k v : Nat) :
    s.regWrite k (0x10000 + 0x40 * q.val) 4 v =
      s.setFn k { s.fn k with heldLow := some (0x10000 + 0x40 * q.val, BitVec.ofNat 32 (v % 2 ^ 32)) } := by
  have hlow : (0x10000 + 0x40 * q.val) / 8 * 8 = 0x10000 + 0x40 * q.val := by omega
  rw [State.regWrite, if_neg (by decide), if_neg (by omega), State.writeWord]
  simp only [hlow, isWide_sqBase, isWideRw_sqBase, Bool.not_true, Bool.false_eq_true, if_false]
  rw [if_pos (by omega)]

theorem State.reg64_sqBase (k : Nat) : s.reg64 k (0x10000 + 0x40 * q.val) = (s.queue k q.val).sqBase.toNat := by
  have hq := q.isLt
  have hno : (0x10000 + 0x40 * q.val - 0x10000) / 0x40 = q.val := by omega
  rw [State.reg64, if_neg (by omega), if_neg (by omega), if_pos (by omega), hno, if_pos (by omega)]
  rfl

/-- A 32-bit read of the low half of SQ_BASE answers it and latches the high half. -/
theorem State.regRead_sqBaseLow (k : Nat) :
    s.regRead k (0x10000 + 0x40 * q.val) 4 =
      (s.setFn k { s.fn k with latch := some (0x10004 + 0x40 * q.val, BitVec.ofNat 32 ((s.queue k q.val).sqBase.toNat / 2 ^ 32)) }).hostReply k 0
        (bytesOfNat ((s.queue k q.val).sqBase.toNat % 2 ^ 32) 4) := by
  have hlow : (0x10000 + 0x40 * q.val) / 8 * 8 = 0x10000 + 0x40 * q.val := by omega
  have hhigh : 0x10000 + 0x40 * q.val + 4 = 0x10004 + 0x40 * q.val := by omega
  have hzero : (0x10000 + 0x40 * q.val) % 8 = 0 := by omega
  have hword : s.regWord k (0x10000 + 0x40 * q.val) = (s.queue k q.val).sqBase.toNat % 2 ^ 32 := by
    rw [State.regWord, hlow, if_pos (isWide_sqBase q), State.reg64_sqBase, hzero]
    simp [bits]
  rw [State.regRead, if_neg (by omega), if_neg (by decide), State.readWord]
  simp only [hlow, isWide_sqBase, Bool.not_true, Bool.false_eq_true, if_false, hzero, if_true, hhigh, hword, State.reg64_sqBase]

theorem answers_sqBase (h : s.reachable (fnKey p.val f.val) = true) (hactive : (s.queue (fnKey p.val f.val) q.val).active = false) (v : W64) :
    answers (.registerWrite p f (BitVec.ofNat 23 (0x10000 + 0x40 * q.val)) 8 v) s (fun t =>
       (t.queue (fnKey p.val f.val) q.val).sqBase = BitVec.ofNat 64 (v.toNat / 4096 * 4096) ∧ t = { s with fns := t.fns }) ∧
     answers (.registerWrite p f (BitVec.ofNat 23 (0x10000 + 0x40 * q.val)) 4 v) s (fun t =>
       (t.fn (fnKey p.val f.val)).heldLow = some (0x10000 + 0x40 * q.val, BitVec.ofNat 32 v.toNat) ∧
       (t.queue (fnKey p.val f.val) q.val) = s.queue (fnKey p.val f.val) q.val) ∧
     answers (.registerReadLatch p f (BitVec.ofNat 23 (0x10000 + 0x40 * q.val)) 4) s (fun t =>
       (t.fn (fnKey p.val f.val)).latch = some (0x10004 + 0x40 * q.val, BitVec.ofNat 32 ((s.queue (fnKey p.val f.val) q.val).sqBase.toNat / 2 ^ 32)) ∧
       t.out = s.out ++ [Out.hostReply (fnKey p.val f.val) 0 (bytesOfNat ((s.queue (fnKey p.val f.val) q.val).sqBase.toNat % 2 ^ 32) 4)]) := by
  refine ⟨answers_of_exec (exec_registerWrite h) ?whole, answers_of_exec (exec_registerWrite h) ?low, answers_of_exec (exec_registerReadLatch h) ?read⟩
  case whole =>
    rw [sqBase_offset, State.regWrite_sqBase hactive]
    exact ⟨by rw [State.queue_setQueue], rfl⟩
  case low =>
    rw [sqBase_offset, State.regWrite_sqBaseLow]
    refine ⟨?_, ?_⟩
    · have hword : BitVec.ofNat 32 (v.toNat % 2 ^ 32) = BitVec.ofNat 32 v.toNat := BitVec.eq_of_toNat_eq (by simp)
      rw [State.fn_setFn, hword]
    · rw [State.queue, State.fn_setFn]
      rfl
  case read =>
    rw [sqBase_offset, State.regRead_sqBaseLow, State.hostReply_ok _ _ _ (by decide) (by decide)]
    exact ⟨congrArg Fn.latch (State.fn_setFn s _ _), rfl⟩

theorem exec_otherSize {o : BitVec 23} {n : Nat} (h : s.reachable (fnKey p.val f.val) = true) (h4 : n ≠ 4) (h8 : n ≠ 8) (v : W64) :
    exec (.registerWrite p f o n v) s = .next s ∧
     exec (.registerReadLatch p f o n) s = .next { s with out := s.out ++ [Out.hostReply (fnKey p.val f.val) 0 (bytesOfNat 0 n)] } := by
  refine ⟨(exec_registerWrite h).trans ?_, (exec_registerReadLatch h).trans ?_⟩
  · rw [State.regWrite, if_neg h8, if_pos (.inl h4)]
  · rw [State.regRead, if_pos (.inl ⟨h4, h8⟩), State.hostReply_ok _ _ _ (by decide) (by decide)]

/-! ## SQ_CTRL (R147, R148, R155) -/

/-- The queue as a write of SQ_CTRL first leaves it: its interrupt's fields, and the ring sizes of a queue that is not active. -/
def Queue.configured (qu : Queue) (v now : Nat) : Queue :=
  { qu with
    vector := BitVec.ofNat 7 (v / 4), irqEn := bitAt v 1
    sqLog2 := if qu.active then qu.sqLog2 else BitVec.ofNat 5 (v / 2 ^ 16)
    cqLog2 := if qu.active then qu.cqLog2 else BitVec.ofNat 5 (v / 2 ^ 21)
    delayFrom := if bitAt v 1 && !qu.irqEn then now else qu.delayFrom }

theorem State.moderate_quiet {k n : Nat} (h : (s.queue k n).irqEn = false ∨ (s.queue k n).unsignalled = 0) : s.moderate k n = s := by
  refine if_neg ?_
  rcases h with h | h <;> simp [h]

/-- What a write of SQ_CTRL then does with its ENABLE: the queue is started, left as it is, or drained. -/
def State.switchQueue (s : State) (k n v now : Nat) : State :=
  let qu := s.queue k n
  if bitAt v 0 then
    if qu.active then s
    else
      let code := s.enableFault k n qu.sqLog2.toNat qu.cqLog2.toNat
      if code ≠ 0 then s.queueFault k n code else s.setQueue k n qu.start
  else s.setQueue k n ({ qu with enable := false, disabledAt := if qu.active then some now else qu.disabledAt } : Queue).drain

/-- A write of SQ_CTRL that announces no record. -/
theorem State.writeSqCtrl_quiet {k n v : Nat} (h : bitAt v 1 = false ∨ (s.queue k n).unsignalled = 0) :
    s.writeSqCtrl k n v = (s.setQueue k n ((s.queue k n).configured v s.time)).switchQueue k n v s.time := by
  have hsplit : s.writeSqCtrl k n v = ((s.setQueue k n ((s.queue k n).configured v s.time)).moderate k n).switchQueue k n v s.time := rfl
  rw [hsplit, State.moderate_quiet (by rw [State.queue_setQueue]; exact h)]

theorem answers_sqEnable (h : s.reachable (fnKey p.val f.val) = true) (ctrl : W32) (henable : bitAt ctrl.toNat 0 = true) (hirq : bitAt ctrl.toNat 1 = false)
    (hactive : (s.queue (fnKey p.val f.val) q.val).active = false)
    (hfault : s.enableFault (fnKey p.val f.val) q.val (ctrl.toNat / 2 ^ 16 % 32) (ctrl.toNat / 2 ^ 21 % 32) = 0) :
    answers (.sqEnable p f q ctrl) s fun t => (t.queue (fnKey p.val f.val) q.val).active = true ∧
      (t.queue (fnKey p.val f.val) q.val).lSqBase = (s.queue (fnKey p.val f.val) q.val).sqBase ∧
      (t.queue (fnKey p.val f.val) q.val).lSqLog2 = ctrl.toNat / 2 ^ 16 % 32 ∧ (t.queue (fnKey p.val f.val) q.val).sqTail = 0 ∧
      (t.queue (fnKey p.val f.val) q.val).cqHead = 0 ∧ (t.queue (fnKey p.val f.val) q.val).faulted = false := by
  refine answers_of_exec (when_of_true (by simp [h, henable]) _) ?_
  generalize fnKey p.val f.val = k at *
  rw [State.writeSqCtrl_quiet (.inl hirq)]
  have hconf : ((s.queue k q.val).configured ctrl.toNat s.time).active = false := hactive
  have hsq : ((s.queue k q.val).configured ctrl.toNat s.time).sqLog2.toNat = ctrl.toNat / 2 ^ 16 % 32 := by
    simp [Queue.configured, hactive]
  have hcq : ((s.queue k q.val).configured ctrl.toNat s.time).cqLog2.toNat = ctrl.toNat / 2 ^ 21 % 32 := by
    simp [Queue.configured, hactive]
  have hfault' : (s.setQueue k q.val ((s.queue k q.val).configured ctrl.toNat s.time)).enableFault k q.val (ctrl.toNat / 2 ^ 16 % 32)
      (ctrl.toNat / 2 ^ 21 % 32) = 0 := hfault
  rw [State.switchQueue, State.queue_setQueue]
  dsimp only
  rw [if_pos henable, if_neg (by simp [hconf]), hsq, hcq, hfault', if_neg (by simp), State.queue_setQueue]
  exact ⟨rfl, rfl, hsq, rfl, rfl, rfl⟩

theorem answers_sqDisable (h : s.reachable (fnKey p.val f.val) = true) (ctrl : W32) (henable : bitAt ctrl.toNat 0 = false) (hirq : bitAt ctrl.toNat 1 = false)
    (hout : (s.queue (fnKey p.val f.val) q.val).outstanding = 0) :
    answers (.sqDisable p f q ctrl) s fun t => (t.queue (fnKey p.val f.val) q.val).enable = false ∧ (t.queue (fnKey p.val f.val) q.val).active = false := by
  refine answers_of_exec (when_of_true (by simp [h, henable]) _) ?_
  rw [State.writeSqCtrl_quiet (.inl hirq)]
  rw [State.switchQueue, State.queue_setQueue]
  dsimp only
  rw [if_neg (by simp [henable]), State.queue_setQueue, Queue.drain, if_pos (by simp [Queue.configured, hout])]
  exact ⟨rfl, rfl⟩

theorem answers_sqIrqEnable (h : s.reachable (fnKey p.val f.val) = true) (ctrl : W32) (hirq : bitAt ctrl.toNat 1 = true) (henable : bitAt ctrl.toNat 0 = true)
    (hactive : (s.queue (fnKey p.val f.val) q.val).active = true) (hunsignalled : (s.queue (fnKey p.val f.val) q.val).unsignalled = 0) :
    answers (.sqIrqEnable p f q ctrl) s fun t => (t.queue (fnKey p.val f.val) q.val).irqEn = true ∧
      (t.queue (fnKey p.val f.val) q.val).vector = BitVec.ofNat 7 (ctrl.toNat / 4) := by
  refine answers_of_exec (when_of_true (by simp [h, hirq]) _) ?_
  rw [State.writeSqCtrl_quiet (.inr hunsignalled)]
  have hconf : ((s.queue (fnKey p.val f.val) q.val).configured ctrl.toNat s.time).active = true := hactive
  rw [State.switchQueue, State.queue_setQueue, if_pos henable, if_pos hconf, State.queue_setQueue]
  exact ⟨hirq, rfl⟩

/-! ## Doorbells (R149 to R151, R153, R154) -/

theorem exec_sqTailDb (h : s.reachable (fnKey p.val f.val) = true) (v : W32) :
    exec (.sqTailDb p f q v) s = .next (s.tailDoorbell (fnKey p.val f.val) q.val v.toNat) := by
  refine (when_of_true h _).trans ?_
  have := q.isLt
  rw [State.bar2Write, if_neg (by omega), if_pos (by omega), Nat.mul_div_cancel_left _ (by decide)]

theorem exec_cqHeadDb (h : s.reachable (fnKey p.val f.val) = true) (v : W32) :
    exec (.cqHeadDb p f q v) s = .next (s.headDoorbell (fnKey p.val f.val) q.val v.toNat) := by
  refine (when_of_true h _).trans ?_
  have hno : (0x1000 * q.val + 4) / 0x1000 = q.val := by omega
  have := q.isLt
  rw [State.bar2Write, if_neg (by omega), if_neg (by omega), if_pos (by omega), hno]

theorem Queue.takes_of_active {qu : Queue} (h : qu.active = true) (now : Nat) : qu.takes now = true := by simp [Queue.takes, h]

theorem answers_sqTailDb (h : s.reachable (fnKey p.val f.val) = true) (v : W32) (hreset : s.fnReset (fnKey p.val f.val) = false)
    (hactive : (s.queue (fnKey p.val f.val) q.val).active = true) (hv : v.toNat < 2 ^ 16)
    (htail : (s.queue (fnKey p.val f.val) q.val).tailOk v.toNat = true) (hnew : v.toNat ≠ (s.queue (fnKey p.val f.val) q.val).sqTail) :
    answers (.sqTailDb p f q v) s fun t => (t.queue (fnKey p.val f.val) q.val).sqTail = v.toNat ∧
      (t.queue (fnKey p.val f.val) q.val).doorbells = (s.queue (fnKey p.val f.val) q.val).doorbells ++
        [((v.toNat + 2 ^ (s.queue (fnKey p.val f.val) q.val).lSqLog2 - (s.queue (fnKey p.val f.val) q.val).sqTail) %
          2 ^ (s.queue (fnKey p.val f.val) q.val).lSqLog2, s.time)] ∧ t = { s with fns := t.fns } := by
  refine answers_of_exec (exec_sqTailDb h v) ?_
  rw [State.tailDoorbell, if_neg (by simp [hreset, Queue.takes_of_active hactive]; exact hv), if_neg (by simp [htail]), if_neg hnew, State.queue_setQueue]
  exact ⟨rfl, rfl, rfl⟩

theorem answers_cqHeadDb (h : s.reachable (fnKey p.val f.val) = true) (v : W32) (hreset : s.fnReset (fnKey p.val f.val) = false)
    (hactive : (s.queue (fnKey p.val f.val) q.val).active = true) (hv : v.toNat < 2 ^ 16)
    (hhead : (s.queue (fnKey p.val f.val) q.val).headOk v.toNat = true) :
    answers (.cqHeadDb p f q v) s fun t => (t.queue (fnKey p.val f.val) q.val).cqHead = v.toNat ∧ t = { s with fns := t.fns } := by
  refine answers_of_exec (exec_cqHeadDb h v) ?_
  rw [State.headDoorbell]
  dsimp only
  rw [if_neg (by simp [hreset, Queue.takes_of_active hactive, hhead]; exact hv), State.queue_setQueue]
  exact ⟨rfl, rfl⟩

theorem answers_sqTailDb_dropped (h : s.reachable (fnKey p.val f.val) = true) (v : W32)
    (htakes : (s.queue (fnKey p.val f.val) q.val).takes s.time = false) :
    answers (.sqTailDb p f q v) s fun t => t = s.setQueue (fnKey p.val f.val) q.val
      { s.queue (fnKey p.val f.val) q.val with doorbellDrops := (s.queue (fnKey p.val f.val) q.val).doorbellDrops + 1 } := by
  refine answers_of_exec (exec_sqTailDb h v) ?_
  rw [State.tailDoorbell]
  exact if_pos (by simp [htakes])

end

/-- Settles O11: the accesses of SQ_BASE, a write of SQ_CTRL that announces no record, and the doorbells. -/
theorem slotAndQueueRegisters : Obligations.SlotAndQueueRegisters := by
  unfold Obligations.SlotAndQueueRegisters
  exact ⟨fun s p f q v h hactive => answers_sqBase h hactive v, fun s p f o n v h h4 h8 => exec_otherSize h h4 h8 v,
    fun s p f q h => ⟨fun ctrl henable hirq hactive _ => answers_sqEnable h ctrl henable hirq hactive, fun ctrl henable hirq _ => answers_sqDisable h ctrl henable hirq,
      answers_sqIrqEnable h, answers_sqTailDb h, answers_cqHeadDb h, answers_sqTailDb_dropped h⟩⟩

end Sys2Proof.Machine

/-!
# The event ring, the PART registers and the mailboxes (R158, R163 to R170, R678, R679)
-/
namespace Sys2Proof.Machine

open Sys2Proof Sys2Proof.Safety

section
variable {s : State} {p : PortNo} {f : FnNo} {ch : ChanNo}

/-! ## RING_CTRL and RING_HEAD (R158, R679) -/

section
variable (h : s.reachable (fnKey p.val f.val) = true)
include h

theorem answers_eventEnable (c : W32) (henable : bitAt c.toNat 31 = true) (hactive : (s.fn (fnKey p.val f.val)).ring.active = false)
    (hmin : 4 ≤ c.toNat % 32) (hmax : c.toNat % 32 ≤ 16) :
    answers (.eventEnable p f c) s fun t => (t.fn (fnKey p.val f.val)).ring.active = true ∧ (t.fn (fnKey p.val f.val)).ring.head = 0 ∧
      (t.fn (fnKey p.val f.val)).ring.tail = 0 ∧ (t.fn (fnKey p.val f.val)).ring.lost = 0 ∧
      (t.fn (fnKey p.val f.val)).ring.lBase = (s.fn (fnKey p.val f.val)).ring.base ∧ (t.fn (fnKey p.val f.val)).ring.lLog2 = c.toNat % 32 ∧
      t = { s with fns := t.fns } := by
  refine answers_of_exec (when_of_true (by simp [h, henable]) _) ?_
  have hlog2 : (if (s.fn (fnKey p.val f.val)).ring.active then (s.fn (fnKey p.val f.val)).ring.log2 else BitVec.ofNat 5 c.toNat).toNat = c.toNat % 32 := by
    simp [hactive]
  rw [State.writeRingCtrl]
  dsimp only
  rw [if_neg (by simp [henable]), if_neg (by simp [hactive]), if_neg (by rw [hlog2]; omega), State.fn_setFn]
  exact ⟨rfl, rfl, rfl, rfl, rfl, hlog2, rfl⟩

theorem answers_eventDisable (c : W32) (henable : bitAt c.toNat 31 = false) :
    answers (.eventDisable p f c) s fun t => (t.fn (fnKey p.val f.val)).ring.active = false ∧ t = { s with fns := t.fns } := by
  refine answers_of_exec (when_of_true (by simp [h, henable]) _) ?_
  rw [State.writeRingCtrl]
  dsimp only
  rw [if_pos (by simp [henable]), State.fn_setFn]
  exact ⟨rfl, rfl⟩

theorem answers_ringHead (v : W32) (hin : v.toNat % 2 ^ 16 < 2 ^ (s.fn (fnKey p.val f.val)).ring.lLog2)
    (htail : (v.toNat % 2 ^ 16 + 2 ^ (s.fn (fnKey p.val f.val)).ring.lLog2 - (s.fn (fnKey p.val f.val)).ring.head) % 2 ^ (s.fn (fnKey p.val f.val)).ring.lLog2 ≤
      ((s.fn (fnKey p.val f.val)).ring.tail + 2 ^ (s.fn (fnKey p.val f.val)).ring.lLog2 - (s.fn (fnKey p.val f.val)).ring.head) %
        2 ^ (s.fn (fnKey p.val f.val)).ring.lLog2) :
    answers (.ringHead p f v) s fun t => (t.fn (fnKey p.val f.val)).ring.head = v.toNat % 2 ^ 16 ∧ t = { s with fns := t.fns } := by
  refine answers_of_exec (when_of_true h _) ?_
  rw [State.writeRingHead, if_pos ⟨hin, htail⟩, State.fn_setFn]
  exact ⟨rfl, rfl⟩

/-! ## BAR4_VA and TWIN_ALIAS (R678) -/

theorem answers_bar4Va (v : W64) {i : Nat} (hslot : s.fnSlot (fnKey p.val f.val) = some i) : answers (.bar4Va p f v) s fun t =>
    (t.fn (fnKey p.val f.val)).bar4Va.toNat = v.toNat / 2 ^ (s.fn (fnKey p.val f.val)).bar4Log2 * 2 ^ (s.fn (fnKey p.val f.val)).bar4Log2 % 2 ^ 52 ∧
    t = { s with fns := t.fns } := by
  refine answers_of_exec (when_of_true (by simp [h, hslot]) _) ?_
  rw [State.writeBar4Va, State.fn_setFn]
  refine ⟨?_, rfl⟩
  simp only [Fn.bar4Base, BitVec.toNat_ofNat, BitVec.ofNat_toNat, BitVec.setWidth_eq]
  exact Nat.mod_eq_of_lt ((Nat.mod_lt _ (by decide)).trans (by decide))

theorem answers_twinAliasWrite (v : W32) {i : Nat} (hslot : s.fnSlot (fnKey p.val f.val) = some i) (hv : v.toNat < 2 ^ 31) (htwins : (s.part i).twins = []) :
    answers (.twinAliasWrite p f v) s fun t => (t.part i).twinAlias.toNat = 2 ^ 16 * bits v.toNat 16 14 + bits v.toNat 0 14 ∧
      t = { s with parts := t.parts } := by
  have hexec : exec (.twinAliasWrite p f v) s = .next (s.setPart i ((s.part i).writeAlias v.toNat)) := by
    refine Eq.trans (b := execTwinAliasWrite p f v s) rfl ?_
    rw [execTwinAliasWrite, hslot]
    exact congrArg Host.Outcome.next (if_pos h)
  have hen : bitAt v.toNat 31 = false := by
    rw [bitAt, Nat.div_eq_of_lt hv]
    rfl
  have hal : bits v.toNat 16 14 < 2 ^ 14 := Nat.mod_lt _ (by decide)
  have hzone : bits v.toNat 0 14 < 2 ^ 14 := Nat.mod_lt _ (by decide)
  refine answers_of_exec hexec ⟨?_, rfl⟩
  rw [State.part_setPart, Part.writeAlias]
  simp only [htwins, hen, List.any_nil, Bool.false_and, Bool.or_self, Bool.false_eq_true, if_false, bit, BitVec.toNat_ofNat]
  omega

end

/-! ## Mailboxes (R163 to R170) -/

theorem State.mboxDone_quiet {k n : Nat} (hirq : (s.chan k n).irqEn = false) (code : Nat) :
    s.mboxDone k n code = s.setChan k n { s.chan k n with state := .done, ackCode := BitVec.ofNat 16 code } :=
  if_neg (by simp [hirq])

/-- A channel's fields as a write of TX_CTRL sets them. -/
def Chan.addressed (x : Chan) (v : Nat) : Chan :=
  { x with vector := BitVec.ofNat 7 (v / 2 ^ 16), irqEn := bitAt v 15, destPort := bits v 12 1, destFn := bits v 8 4, destCh := bits v 0 4 }

theorem answers_go (c : W32) (h : s.reachable (fnKey p.val f.val) = true) (hgo : bitAt c.toNat 31 = true) (habort : bitAt c.toNat 30 = false)
    (hstate : (s.chan (fnKey p.val f.val) ch.val).state = .idle ∨ (s.chan (fnKey p.val f.val) ch.val).state = .done)
    (hroute : s.routeOk (fnKey p.val f.val) (fnKey (bits c.toNat 12 1) (bits c.toNat 8 4)) = true)
    (hpresent : s.fnPresent (fnKey (bits c.toNat 12 1) (bits c.toNat 8 4)) = true)
    (hreset : s.fnReset (fnKey (bits c.toNat 12 1) (bits c.toNat 8 4)) = false) :
    answers (.go p f ch c) s fun t => (t.chan (fnKey p.val f.val) ch.val).state = .pending ∧
      (t.chan (fnKey p.val f.val) ch.val).capDest = (bits c.toNat 12 1, bits c.toNat 8 4, bits c.toNat 0 4) ∧
      (t.chan (fnKey p.val f.val) ch.val).seq = (s.chan (fnKey p.val f.val) ch.val).seq + 1 ∧ t = { s with fns := t.fns } := by
  refine answers_of_exec (when_of_true (by simp [h, hgo]) _) ?_
  generalize fnKey p.val f.val = k at *
  let s1 := s.setChan k ch.val ((s.chan k ch.val).addressed c.toNat)
  have hchan : s1.chan k ch.val = (s.chan k ch.val).addressed c.toNat := State.chan_setChan ..
  have hwrite : s.writeTxCtrl k ch.val c.toNat = s1.mboxGo k ch.val := by
    rw [State.writeTxCtrl]
    dsimp only
    rw [if_pos hgo, if_neg (by simp [habort])]
    rfl
  have hidle : ¬((s1.chan k ch.val).state = .pending ∨ (s1.chan k ch.val).state = .delivered) := by
    rw [hchan]
    rcases hstate with hs | hs <;> simp [Chan.addressed, hs]
  rw [hwrite, State.mboxGo]
  dsimp only
  rw [if_neg hidle, hchan, if_neg, if_neg]
  · rw [State.chan_setChan]
    exact ⟨rfl, rfl, rfl, rfl⟩
  · have hgone : (!s.fnPresent (fnKey (bits c.toNat 12 1) (bits c.toNat 8 4)) || s.fnReset (fnKey (bits c.toNat 12 1) (bits c.toNat 8 4))) = false := by
      simp [hpresent, hreset]
    exact Bool.eq_false_iff.mp hgone
  · have hno : (!s.routeOk k (fnKey (bits c.toNat 12 1) (bits c.toNat 8 4))) = false := by simp [hroute]
    exact Bool.eq_false_iff.mp hno

theorem answers_abort (h : s.reachable (fnKey p.val f.val) = true) (hstate : (s.chan (fnKey p.val f.val) ch.val).state = .pending)
    (hirq : (s.chan (fnKey p.val f.val) ch.val).irqEn = false) :
    answers (.abort p f ch) s fun t => (t.chan (fnKey p.val f.val) ch.val).state = .done ∧ (t.chan (fnKey p.val f.val) ch.val).ackCode = 0xFF04 := by
  refine answers_of_exec (when_of_true h _) ?_
  rw [State.mboxAbort, if_pos hstate, State.mboxDone_quiet hirq, State.chan_setChan]
  exact ⟨rfl, rfl⟩

/-- A channel written leaves every other. -/
theorem State.chan_setChan_other {k n j m : Nat} (v : Chan) (h : j ≠ k ∨ m ≠ n) : (s.setChan k n v).chan j m = s.chan j m := by
  rw [State.chan, State.setChan]
  by_cases hj : j = k
  · subst hj
    rw [State.fn_setFn]
    exact tabGet_set_other _ _ _ (h.resolve_left (not_not_intro rfl))
  · rw [State.fn_setFn_other _ _ hj]
    rfl

theorem answers_mboxDeliver {g0 a b : Nat} (hfull : (s.chan (fnKey p.val f.val) ch.val).full = false) (htoken : (s.chan (fnKey p.val f.val) ch.val).tokenEn = false)
    (hirq : (s.chan (fnKey p.val f.val) ch.val).rxIrqEn = false) (hfirst : minBy (·.1) (s.senders (fnKey p.val f.val) ch.val) = some (g0, a, b)) :
    answers (.mboxDeliver p f ch) s fun t => (t.chan a b).state = .delivered ∧ (t.chan (fnKey p.val f.val) ch.val).full = true ∧
      (t.chan (fnKey p.val f.val) ch.val).rxMsg = (s.chan a b).capMsg := by
  have hexec : exec (.mboxDeliver p f ch) s = .next (s.mboxArrive (fnKey p.val f.val) ch.val a b) := by
    refine Eq.trans (b := execMboxDeliver p f ch s) rfl ?_
    rw [execMboxDeliver, if_neg (by simp [hfull]), hfirst]
  refine answers_of_exec hexec ?_
  generalize fnKey p.val f.val = k at *
  let s1 := s.setChan k ch.val { s.chan k ch.val with rxMsg := (s.chan a b).capMsg, full := true, rxFrom := some (a / 16, a % 16, b) }
  let s2 := s1.setChan a b { s1.chan a b with state := .delivered }
  have harrive : s.mboxArrive k ch.val a b = s2 := by
    rw [State.mboxArrive]
    dsimp only
    rw [if_neg (show ¬(s.chan k ch.val).rxIrqEn = true by simp [hirq])]
    split
    · exact if_neg (by simp [htoken])
    · rfl
  have hrx : s1.chan k ch.val = { s.chan k ch.val with rxMsg := (s.chan a b).capMsg, full := true, rxFrom := some (a / 16, a % 16, b) } :=
    State.chan_setChan ..
  have hsent : s2.chan a b = { s1.chan a b with state := .delivered } := State.chan_setChan ..
  rw [harrive]
  refine ⟨congrArg Chan.state hsent, ?_⟩
  by_cases hself : k ≠ a ∨ ch.val ≠ b
  · have hkept : s2.chan k ch.val = s1.chan k ch.val := State.chan_setChan_other _ hself
    rw [hkept, hrx]
    exact ⟨rfl, rfl⟩
  · obtain ⟨rfl, rfl⟩ : k = a ∧ ch.val = b := by omega
    rw [hsent, hrx]
    exact ⟨rfl, rfl⟩

theorem answers_rxAck (v : W32) {x a b : Nat} (h : s.reachable (fnKey p.val f.val) = true) (hfull : (s.chan (fnKey p.val f.val) ch.val).full = true)
    (hcode : v.toNat % 2 ^ 16 < 0xFF00) (hfrom : (s.chan (fnKey p.val f.val) ch.val).rxFrom = some (x, a, b)) (hirq : (s.chan (fnKey x a) b).irqEn = false) :
    answers (.rxAck p f ch v) s fun t => (t.chan (fnKey p.val f.val) ch.val).full = false ∧ (t.chan (fnKey x a) b).state = .done ∧
      (t.chan (fnKey x a) b).ackCode = BitVec.ofNat 16 (v.toNat % 2 ^ 16) := by
  refine answers_of_exec (when_of_true h _) ?_
  generalize fnKey p.val f.val = k at *
  generalize hg : fnKey x a = g at *
  let s1 := s.setChan k ch.val { s.chan k ch.val with full := false, rxFrom := none }
  have hrx : s1.chan k ch.val = { s.chan k ch.val with full := false, rxFrom := none } := State.chan_setChan ..
  have hquiet : (s1.chan g b).irqEn = false := by
    by_cases hself : g ≠ k ∨ b ≠ ch.val
    · exact (congrArg Chan.irqEn (State.chan_setChan_other _ hself)).trans hirq
    · obtain ⟨rfl, rfl⟩ : g = k ∧ b = ch.val := by omega
      rw [hrx]
      exact hirq
  let t := s1.setChan g b { s1.chan g b with state := .done, ackCode := BitVec.ofNat 16 (v.toNat % 2 ^ 16) }
  have hack : s.writeRxAck k ch.val v.toNat = t := by
    rw [State.writeRxAck]
    dsimp only
    rw [if_neg (by simp [hfull]; omega), hfrom]
    subst hg
    exact State.mboxDone_quiet hquiet _
  have hdone : t.chan g b = { s1.chan g b with state := .done, ackCode := BitVec.ofNat 16 (v.toNat % 2 ^ 16) } := State.chan_setChan ..
  rw [hack, hdone]
  refine ⟨?_, rfl, rfl⟩
  by_cases hself : k ≠ g ∨ ch.val ≠ b
  · exact (congrArg Chan.full (State.chan_setChan_other _ hself)).trans (congrArg Chan.full hrx)
  · obtain ⟨rfl, rfl⟩ : k = g ∧ ch.val = b := by omega
    rw [hdone, hrx]

end

/-- Settles O13: each register's write, and each step of a message, as its own function of the state. -/
theorem ringsAndMailboxes : Obligations.RingsAndMailboxes := by
  unfold Obligations.RingsAndMailboxes
  exact ⟨fun s p f h => ⟨answers_eventEnable h, answers_eventDisable h, answers_ringHead h, fun v i hslot => answers_bar4Va h v hslot,
      fun v i hslot => answers_twinAliasWrite h v hslot⟩,
    fun s p f ch => ⟨answers_go, answers_abort, fun g0 a b => answers_mboxDeliver, fun v x a b => answers_rxAck v⟩⟩

end Sys2Proof.Machine

/-!
# Changes of the live side, twinned regions and scrub passes (R525, R575, R576, R587 to R594)
-/
namespace Sys2Proof.Machine

open Sys2Proof Sys2Proof.Safety

section
variable {s t : State} {id slot : Nat} {c : Cmd}

/-! ## What a change of the live side leaves: commands, memory, counters -/

/-- The commands and the byte memories. -/
def State.held (s : State) : List Cmd × Mem × Mem × Mem := (s.cmds, s.hbm, s.cxl, s.scratch)

theorem held_cmds (h : t.held = s.held) : t.cmds = s.cmds := congrArg Prod.fst h

theorem held_memory (h : t.held = s.held) : sameMemory s t := by
  obtain ⟨-, hhbm, hcxl, hscratch⟩ : t.cmds = s.cmds ∧ t.hbm = s.hbm ∧ t.cxl = s.cxl ∧ t.scratch = s.scratch := by
    simpa [State.held] using h
  exact sameMemory_of_eq hhbm hcxl hscratch

theorem State.event_held (s : State) (code detail : Nat) (l : List Nat) : (s.event code detail l).held = s.held := by
  obtain ⟨_, _, _, _, e⟩ := s.event_rest code detail l
  rw [e]; rfl

theorem State.count_held (s : State) (index sub n : Nat) : (s.count index sub n).held = s.held := by
  obtain ⟨_, e⟩ := s.count_rest index sub n
  rw [e]; rfl

theorem State.setFrame_held (s : State) (cxl : Bool) (f : Nat) (v : Frame) : (s.setFrame cxl f v).held = s.held := by
  cases cxl <;> rfl

theorem State.setFrame_dict (s : State) (cxl : Bool) (f : Nat) (v : Frame) : (s.setFrame cxl f v).dict = s.dict := by
  cases cxl <;> rfl

theorem State.setPart_held (s : State) (k : Nat) (p : Part) : (s.setPart k p).held = s.held := rfl

theorem State.setPart_dictGet (s : State) (k : Nat) (p : Part) (key : Nat) : (s.setPart k p).dictGet key = s.dictGet key := rfl

/-- A partition whose twinned regions are all alike on both sides, and its image records with them. -/
def Part.reseeded (p : Part) : Part :=
  let q := p.twinRegions.foldl (fun (q : Part) r => q.reseedRegion r) p
  { q.setChrysalisImage q.liveImage with doubtKept := false }

/-- Reseeding changes frames and buffers, then the part, then its counter. -/
theorem State.reseed_form (s : State) (slot : Nat) :
    ∃ x : State, x.held = s.held ∧ x.dict = s.dict ∧ s.reseed slot = (x.setPart slot (s.part slot).reseeded).count 0x7052 (slot + 1) 1 := by
  refine ⟨_, ?_, ?_, rfl⟩
  · refine (State.foldl_keeps State.held (fun _ _ => ?_) _ _).trans (State.foldl_keeps State.held (fun _ _ => ?_) _ _)
    · rfl
    · exact State.setFrame_held ..
  · refine (State.foldl_keeps State.dict (fun _ _ => ?_) _ _).trans (State.foldl_keeps State.dict (fun _ _ => ?_) _ _)
    · rfl
    · exact State.setFrame_dict ..

theorem State.reseed_held (s : State) (slot : Nat) : (s.reseed slot).held = s.held := by
  obtain ⟨x, hheld, -, e⟩ := s.reseed_form slot
  rw [e, State.count_held]
  exact hheld

/-- Reseeding counts in its own entry alone. -/
theorem State.reseed_dict (s : State) (slot : Nat) {k : Nat} (h : k ≠ dk 0x7052 (slot + 1)) : (s.reseed slot).dictGet k = s.dictGet k := by
  obtain ⟨x, -, hdict, e⟩ := s.reseed_form slot
  rw [e, State.dictGet_count_other _ _ h]
  exact State.dictGet_congr hdict k

/-- What of a partition a reseed leaves: which side is live, hardening, and when the live record is scrubbed. -/
def Part.turn (p : Part) : Bool × Bool × Bool × Nat := (p.liveSide1, p.hardening, p.scrubDue, p.scrubFrom)

theorem Part.setChrysalisImage_turn (p : Part) (r : ImageRec) : (p.setChrysalisImage r).turn = p.turn := by
  unfold Part.setChrysalisImage
  split <;> rfl

theorem Part.reseedRegions_turn (l : List Nat) (p : Part) : (l.foldl (fun (q : Part) r => q.reseedRegion r) p).turn = p.turn := by
  induction l generalizing p with
  | nil => rfl
  | cons r l ih => exact ih (p.reseedRegion r)

@[simp] theorem State.part_count (s : State) (index sub n k : Nat) : (s.count index sub n).part k = s.part k := by
  obtain ⟨_, e⟩ := s.count_rest index sub n
  rw [e]; rfl

@[simp] theorem State.part_event (s : State) (code detail : Nat) (l : List Nat) (k : Nat) : (s.event code detail l).part k = s.part k := by
  obtain ⟨_, _, _, _, e⟩ := s.event_rest code detail l
  rw [e]; rfl

theorem State.reseed_turn (s : State) (slot : Nat) : ((s.reseed slot).part slot).turn = (s.part slot).turn := by
  obtain ⟨x, -, -, e⟩ := s.reseed_form slot
  rw [e, State.part_count, State.part_setPart]
  exact (Part.setChrysalisImage_turn ..).trans (Part.reseedRegions_turn ..)

/-- With no checkpoint at its last unit, a change of the live side reads none ahead (R525). -/
theorem State.preread_of_noLast (h : noLastCkpt s slot) (k : Nat) : s.preread slot k = s := by
  unfold State.preread
  dsimp only
  refine if_pos ?_
  by_cases hop : (s.longop slot k).opcode = 0x61
  · by_cases hst : (s.longop slot k).started = true
    · exact .inr (.inr (.inl (h k hop hst)))
    · exact .inr (.inl (by simpa using hst))
  · exact .inl hop

/-- The live side turned, the operations that read it torn (R266, R522, R550). -/
theorem State.writeLiveSide_of_noLast (h : noLastCkpt s slot) (scrubs : Bool) (except : Option Nat) :
    s.writeLiveSide slot scrubs except = (s.tear slot scrubs except).setPart slot { (s.tear slot scrubs except).part slot with
      liveSide1 := !(s.part slot).liveSide1, epoch := (s.part slot).epoch + 1 } := by
  have hpre : ∀ l : List Nat, l.foldl (fun s h => s.preread slot h) s = s := by
    intro l
    induction l with
    | nil => rfl
    | cons k l ih => rw [List.foldl_cons, State.preread_of_noLast h, ih]
  rw [State.writeLiveSide, hpre]
  rw [State.tear, State.part_setPart]

theorem State.writeLiveSide_held (h : noLastCkpt s slot) (scrubs : Bool) (except : Option Nat) :
    (s.writeLiveSide slot scrubs except).held = s.held := by
  rw [State.writeLiveSide_of_noLast h]; rfl

theorem State.writeLiveSide_dict (h : noLastCkpt s slot) (scrubs : Bool) (except : Option Nat) :
    (s.writeLiveSide slot scrubs except).dict = s.dict := by
  rw [State.writeLiveSide_of_noLast h]; rfl

theorem State.writeLiveSide_turn (h : noLastCkpt s slot) (scrubs : Bool) (except : Option Nat) :
    ((s.writeLiveSide slot scrubs except).part slot).turn =
      (!(s.part slot).liveSide1, (s.part slot).hardening, (s.part slot).scrubDue, (s.part slot).scrubFrom) := by
  rw [State.writeLiveSide_of_noLast h, State.part_setPart, State.tear, State.part_setPart]; rfl

theorem noLast_beginCmd (h : noLastCkpt s slot) (c : Cmd) : noLastCkpt (s.beginCmd c) slot := by
  intro k
  rw [State.longop_beginCmd]
  exact h k

/-! ## A rollback (R590) -/

theorem turn_eq {p : Part} {a b d : Bool} {n : Nat} (h : p.turn = (a, b, d, n)) :
    p.liveSide1 = a ∧ p.hardening = b ∧ p.scrubDue = d ∧ p.scrubFrom = n := by
  simpa [Part.turn] using h

/-- The previous copy is live again, hardening is over, and the rollback is counted. -/
theorem State.rollback_turns (h : noLastCkpt s slot) (hslot : slot < 16) (detail : Nat) (except : Option Nat) :
    (s.rollback slot detail except).held = s.held ∧ ((s.rollback slot detail except).part slot).liveSide1 = !(s.part slot).liveSide1 ∧
      ((s.rollback slot detail except).part slot).hardening = false ∧
      (s.rollback slot detail except).entry 0x7084 (slot + 1) = s.entry 0x7084 (slot + 1) + 1 := by
  have hturn := (State.reseed_turn (s.writeLiveSide slot true except) slot).trans (State.writeLiveSide_turn h true except)
  obtain ⟨hside, -⟩ := turn_eq hturn
  unfold State.rollback
  dsimp only
  generalize hx : (s.writeLiveSide slot true except).reseed slot = x at hside
  refine ⟨?_, ?_, ?_, ?_⟩
  · rw [State.event_held, State.count_held, State.setPart_held, ← hx, State.reseed_held, State.writeLiveSide_held h]
  · rw [State.part_event, State.part_count, State.part_setPart]
    exact hside
  · rw [State.part_event, State.part_count, State.part_setPart]
  · rw [State.entry, State.event_dict _ _ _ _ _ (by simp [dk]; omega), State.dictGet_count, State.setPart_dictGet, ← hx,
      State.reseed_dict _ _ (by simp [dk]), State.dictGet_congr (State.writeLiveSide_dict h ..)]
    rfl

/-! ## The rows of WEIGHT_FLIP -/

/-- A WEIGHT_FLIP of a row's action starts; past check 1 it goes on with the row's own. -/
theorem State.flipOp_ready {mine : Nat → Bool} (h : ready s id 0x54 c) (hmine : mine (flipArgs c.record).action = true)
    (hgood : flipBad (s.part c.slot) c.record = none) (f : Cmd → State → State) : s.flipOp id mine f = f c (s.beginCmd c) := by
  have hbad : flipBad ((s.beginCmd c).part c.slot) c.record = none := by rw [State.part_beginCmd]; exact hgood
  rw [State.flipOp, h.1]
  dsimp only
  rw [hmine, if_neg (by simp), State.startOp_ready h, hbad]

theorem exec_flip (h : ready s id 0x54 c) (hact : (flipArgs c.record).action = 1) (hgood : flipBad (s.part c.slot) c.record = none)
    (hok : (s.beginCmd c).flipStatus c.slot = none) : exec (.flip id) s = .next (((s.beginCmd c).flip c.slot).finishCmd id 0) := by
  change execFlip id s = _
  rw [execFlip, State.flipOp_ready h (by rw [hact]; rfl) hgood, hok]

theorem exec_revert (h : ready s id 0x54 c) (hact : (flipArgs c.record).action = 2) (hgood : flipBad (s.part c.slot) c.record = none) :
    exec (.revert id) s = .next (if ((s.beginCmd c).part c.slot).hardening then
      ((s.beginCmd c).rollback c.slot 0xFFFFFFFF none).finishCmd id 0 else (s.beginCmd c).endCmd id 0x0505 0) := by
  change execRevert id s = _
  rw [execRevert, State.flipOp_ready h (by rw [hact]; rfl) hgood]

theorem exec_twin (h : ready s id 0x54 c) (hact : (flipArgs c.record).action = 3) (hgood : flipBad (s.part c.slot) c.record = none)
    (hok : (s.beginCmd c).twinStatus c.slot (flipArgs c.record) = none) : exec (.twin id) s =
      .next (((flipArgs c.record).regions.foldl (fun s r => s.twinRegion c.slot r) (s.beginCmd c)).finishCmd id 0) := by
  change execTwin id s = _
  rw [execTwin, State.flipOp_ready h (by rw [hact]; rfl) hgood, hok]

theorem exec_untwin (h : ready s id 0x54 c) (hact : (flipArgs c.record).action = 4) (hgood : flipBad (s.part c.slot) c.record = none)
    (hok : (s.beginCmd c).untwinStatus c.slot (flipArgs c.record) = none) : exec (.untwin id) s =
      .next (((flipArgs c.record).regions.foldl (fun s r => s.untwinRegion c.slot r) (s.beginCmd c)).finishCmd id 0) := by
  change execUntwin id s = _
  rw [execUntwin, State.flipOp_ready h (by rw [hact]; rfl) hgood, hok]

/-! ## What starting and finishing a command leave -/

theorem State.part_finishCmd (s : State) (id d k : Nat) : (s.finishCmd id d).part k = s.part k := by
  rw [State.finishCmd_rest]; rfl

theorem State.entry_finishCmd (s : State) (id d index sub : Nat) : (s.finishCmd id d).entry index sub = s.entry index sub := by
  rw [State.finishCmd_rest]; rfl

theorem State.finishCmd_memory (s : State) (id d : Nat) : sameMemory s (s.finishCmd id d) := by
  rw [State.finishCmd_rest]; exact ⟨fun _ => rfl, fun _ => rfl, fun _ => rfl⟩

theorem State.entry_beginCmd (s : State) (c : Cmd) (index sub : Nat) : (s.beginCmd c).entry index sub = s.entry index sub := by
  rw [State.beginCmd_rest]; rfl


theorem State.flipStatus_beginCmd (s : State) (c : Cmd) : (s.beginCmd c).flipStatus c.slot = s.flipStatus c.slot := by
  rw [State.beginCmd_rest]; rfl

theorem State.twinStatus_beginCmd (s : State) (c : Cmd) (a : FlipArgs) : (s.beginCmd c).twinStatus c.slot a = s.twinStatus c.slot a := by
  rw [State.beginCmd_rest]; rfl

theorem State.untwinStatus_beginCmd (s : State) (c : Cmd) (a : FlipArgs) : (s.beginCmd c).untwinStatus c.slot a = s.untwinStatus c.slot a := by
  rw [State.beginCmd_rest]; rfl

/-! ## Twinned regions (R575, R576) -/

/-- A region of a partition is twinned. -/
def State.twinned (s : State) (slot r : Nat) : Bool := (tabGet {} (s.part slot).twins r).twinned

theorem Twin.giveBack_twinned {α : Type} (g : α → Bool × Nat) (l : List α) (w : Twin) :
    (l.foldl (fun (w : Twin) e => w.giveBack (g e).1 (g e).2) w).twinned = w.twinned := by
  induction l generalizing w with
  | nil => rfl
  | cons e l ih => exact ih (w.giveBack (g e).1 (g e).2)

theorem tabGet_del {α : Type} [DecidableEq α] (d : α) (t : Tab α) (k j : Nat) : tabGet d (tabDel t k) j = if j = k then d else tabGet d t j := by
  split
  · subst j; rw [tabGet, tabFind_del_same]; rfl
  · rw [tabGet, tabFind_del_other _ ‹_›]; rfl

/-- Spares granted to a region leave which regions are twinned. -/
theorem State.grantSpares_twinned (s : State) (slot region : Nat) (cxl : Bool) (m n k : Nat) :
    (s.grantSpares slot region cxl m n).twinned slot k = s.twinned slot k := by
  unfold State.grantSpares
  dsimp only
  generalize hl : List.flatMap _ _ = l
  have hparts := State.foldl_keeps State.parts (f := fun s f => s.setFrame cxl f { owner := some slot, twinSpare := true })
    (fun x a => State.setFrame_parts ..) l s
  rw [State.twinned, State.part_setPart, State.part_congr hparts, State.twinned]
  dsimp only
  by_cases hk : k = region
  · subst k
    rw [tabGet_set_same]
    exact Twin.giveBack_twinned (fun f => (cxl, f)) l _
  · rw [tabGet_set_other _ _ _ hk]

theorem State.twinRegion_twinned (s : State) (slot region k : Nat) :
    (s.twinRegion slot region).twinned slot k = if k = region then true else s.twinned slot k := by
  rw [State.twinRegion, State.grantSpares_twinned, State.grantSpares_twinned, State.twinned, State.part_setPart]
  dsimp only
  split
  · subst k; rw [tabGet_set_same]
  · rw [tabGet_set_other _ _ _ ‹_›]; rfl

theorem State.grantSpares_cmds (s : State) (slot region : Nat) (cxl : Bool) (m n : Nat) : (s.grantSpares slot region cxl m n).cmds = s.cmds :=
  State.cmds_foldl (fun _ _ => State.setFrame_cmds ..)

theorem State.twinRegion_cmds (s : State) (slot region : Nat) : (s.twinRegion slot region).cmds = s.cmds := by
  rw [State.twinRegion, State.grantSpares_cmds, State.grantSpares_cmds]; rfl

theorem State.releaseFrame_work (s : State) (cxl : Bool) (f : Nat) :
    (s.releaseFrame cxl f).cmds = s.cmds ∧ (s.releaseFrame cxl f).parts = s.parts :=
  ⟨State.setFrame_cmds .., State.setFrame_parts ..⟩

theorem State.untwinRegion_cmds (s : State) (slot region : Nat) : (s.untwinRegion slot region).cmds = s.cmds :=
  State.cmds_foldl fun _ _ => (State.releaseFrame_work ..).1

theorem State.untwinRegion_twinned (s : State) (slot region k : Nat) :
    (s.untwinRegion slot region).twinned slot k = if k = region then false else s.twinned slot k := by
  rw [State.untwinRegion, State.twinned, State.part_congr (State.foldl_keeps State.parts (fun _ _ => (State.releaseFrame_work ..).2) _ _),
    State.part_setPart]
  dsimp only
  rw [tabGet_del]
  split <;> rfl

/-- Each region that a TWIN names is twinned after it. -/
theorem State.twinRegions_twinned (s : State) (slot : Nat) (l : List Nat) :
    ∀ r ∈ l, (l.foldl (fun s r => s.twinRegion slot r) s).twinned slot r = true := by
  refine State.foldl_each (P := fun r x => x.twinned slot r = true) (fun x r => ?_) (fun x r k hk => ?_) l s
  · rw [State.twinRegion_twinned, if_pos rfl]
  · rw [State.twinRegion_twinned, hk, ite_self]

/-- Each region that an UNTWIN names is no longer twinned after it. -/
theorem State.untwinRegions_twinned (s : State) (slot : Nat) (l : List Nat) :
    ∀ r ∈ l, (l.foldl (fun s r => s.untwinRegion slot r) s).twinned slot r = false := by
  refine State.foldl_each (P := fun r x => x.twinned slot r = false) (fun x r => ?_) (fun x r k hk => ?_) l s
  · rw [State.untwinRegion_twinned, if_pos rfl]
  · rw [State.untwinRegion_twinned, hk, ite_self]

/-! ## FLIP (R587, R589) -/

/-- The live side is the other one, its record is scrubbed soon, and hardening begins where an image was live before. -/
theorem State.flip_turns (h : noLastCkpt s slot) (hslot : slot < 16) :
    (s.flip slot).held = s.held ∧ ((s.flip slot).part slot).liveSide1 = !(s.part slot).liveSide1 ∧
      ((s.flip slot).part slot).scrubDue = true ∧ (((s.flip slot).part slot).hardening = true ↔ (s.part slot).liveImage.imageId ≠ 0) ∧
      (s.flip slot).entry 0x7083 (slot + 1) = s.entry 0x7083 (slot + 1) + 1 := by
  obtain ⟨hside, -⟩ := turn_eq (State.writeLiveSide_turn h true none)
  unfold State.flip
  dsimp only
  generalize hx : s.writeLiveSide slot true none = x at hside
  have hheld : x.held = s.held := by rw [← hx]; exact State.writeLiveSide_held h ..
  have hdict : x.dict = s.dict := by rw [← hx]; exact State.writeLiveSide_dict h ..
  generalize hy : x.setPart slot { x.part slot with scrubDue := true, hardening := !decide ((s.part slot).liveImage.imageId = 0) } = y
  have hyturn : (y.part slot).turn = (!(s.part slot).liveSide1, !decide ((s.part slot).liveImage.imageId = 0), true, (x.part slot).scrubFrom) := by
    rw [← hy, State.part_setPart, ← hside]; rfl
  have hz : ∀ z, (z = y ∨ z = y.reseed slot) → z.held = s.held ∧ (z.part slot).turn = (y.part slot).turn ∧
      z.entry 0x7083 (slot + 1) = s.entry 0x7083 (slot + 1) := by
    have hyheld : y.held = s.held := by rw [← hy, State.setPart_held, hheld]
    have hydict : y.entry 0x7083 (slot + 1) = s.entry 0x7083 (slot + 1) := by
      rw [← hy, State.entry, State.setPart_dictGet]; exact State.dictGet_congr hdict _
    rintro z (rfl | rfl)
    · exact ⟨hyheld, rfl, hydict⟩
    · exact ⟨(State.reseed_held ..).trans hyheld, State.reseed_turn .., (State.reseed_dict _ _ (by simp [dk])).trans hydict⟩
  obtain ⟨hzheld, hzturn, hzentry⟩ := hz (if (s.part slot).liveImage.imageId = 0 then y.reseed slot else y) (by split <;> simp)
  generalize (if (s.part slot).liveImage.imageId = 0 then y.reseed slot else y) = z at hzheld hzturn hzentry ⊢
  obtain ⟨hlive, hhard, hdue, -⟩ := turn_eq (hzturn.trans hyturn)
  refine ⟨?_, ?_, ?_, ?_, ?_⟩
  · rw [State.event_held, State.count_held, hzheld]
  · rw [State.part_event, State.part_count, hlive]
  · rw [State.part_event, State.part_count, hdue]
  · rw [State.part_event, State.part_count, hhard]; simp
  · rw [State.entry, State.event_dict _ _ _ _ _ (by simp [dk]; omega), State.dictGet_count]
    exact congrArg (· + 1) hzentry

/-! ## A background pass (R592, R594) -/

theorem exec_weightScrubPass {i : Fin 16} (himage : (s.part i.val).liveImage.imageId ≠ 0) (hdue : (s.part i.val).scrubDue = true)
    (hfree : s.loaderFree i.val = true) (hreset : s.partReset i.val = false) :
    exec (.weightScrubPass i) s = .next (s.scrubPassOf i.val) :=
  when_of_true (by rw [hdue, hfree, hreset, bne_iff_ne.mpr himage]; rfl) _

/-- The shards a pass of the live record finds wrong. -/
def State.scrubFound (s : State) (slot : Nat) : List Nat :=
  ((s.part slot).scrubList.filter fun e => !s.shardMatches slot e).map (·.shard)

/-- A pass noted: its bytes counted, its time kept, what it found counted. -/
def State.scrubNoted (s : State) (slot : Nat) : State :=
  let x := s.count 0x7081 (slot + 1) ((s.part slot).scrubList.foldl (fun n e => n + e.length) 0)
  (x.setPart slot { x.part slot with scrubFrom := s.time, scrubDue := false }).count 0x7082 (slot + 1) (s.scrubFound slot).length

theorem State.part_scrubNoted (s : State) (slot : Nat) :
    (s.scrubNoted slot).part slot = { s.part slot with scrubFrom := s.time, scrubDue := false } := by
  unfold State.scrubNoted
  dsimp only
  rw [State.part_count, State.part_setPart, State.part_count]

theorem State.scrubNoted_entry (s : State) (slot : Nat) : (s.scrubNoted slot).entry 0x7084 (slot + 1) = s.entry 0x7084 (slot + 1) := by
  unfold State.scrubNoted
  dsimp only
  rw [State.entry, State.dictGet_count_other _ _ (by simp [dk]), State.setPart_dictGet, State.dictGet_count_other _ _ (by simp [dk])]
  rfl

theorem noLast_scrubNoted (h : noLastCkpt s slot) : noLastCkpt (s.scrubNoted slot) slot := by
  intro k
  rw [State.longop, State.part_scrubNoted]
  exact h k

/-- In hardening a pass that finds nothing wrong firms the live record, and any other rolls it back. -/
theorem State.scrubPassOf_hardening (h : (s.part slot).hardening = true) :
    s.scrubPassOf slot = match s.scrubFound slot with
      | [] => (s.scrubNoted slot).firm slot
      | i :: _ => (s.scrubNoted slot).rollback slot i none := by
  have hhard : ((s.scrubNoted slot).part slot).hardening = true := by rw [State.part_scrubNoted]; exact h
  exact if_pos hhard

theorem State.firm_turn (s : State) (slot : Nat) :
    ((s.firm slot).part slot).turn = ((s.part slot).liveSide1, false, (s.part slot).scrubDue, (s.part slot).scrubFrom) := by
  obtain ⟨hside, -, hdue, hfrom⟩ := turn_eq (s.reseed_turn slot)
  rw [State.firm, State.part_event, State.part_setPart, ← hside, ← hdue, ← hfrom]
  rfl

end

/-- Settles O25: each row through what turns the live side, or marks the regions, and a pass by what it finds. -/
theorem weightFlipsAndScrubs : Obligations.WeightFlipsAndScrubs := by
  unfold Obligations.WeightFlipsAndScrubs
  refine ⟨fun s id c hclean hready hslot hgood hlast => ?ops, fun s i p hp himage hdue hfree hreset hhard hlast => ?pass⟩
  case ops =>
    have hlast' := noLast_beginCmd hlast c
    have hpart := State.part_beginCmd s c c.slot
    have hbegun := ready_begun hready
    have hdone : ∀ t : State, t.cmds = (s.beginCmd c).cmds → endedAs (t.finishCmd id 0) id 0 0 := fun t ht =>
      State.finishCmd_ends ((State.cmd_congr ht id).trans hbegun) hclean rfl
    refine ⟨fun hact hok => ?flip, fun hact hhard => ?revert, fun hact hhard => ?refused, fun hact hok => ?twin, fun hact hok => ?untwin⟩
    case flip =>
      refine answers_of_exec (exec_flip hready hact hgood ((State.flipStatus_beginCmd s c).trans hok)) ?_
      obtain ⟨hheld, hside, hdue, hhard, hentry⟩ := State.flip_turns hlast' hslot
      rw [hpart] at hside hhard
      rw [State.entry_beginCmd] at hentry
      rw [State.part_finishCmd, State.entry_finishCmd]
      exact ⟨hdone _ (held_cmds hheld), hside, hdue, hhard, hentry, sameMemory_trans (onlyWork_memory (State.beginCmd_onlyWork s c))
        (sameMemory_trans (held_memory hheld) (State.finishCmd_memory ..))⟩
    case revert =>
      refine answers_of_exec (exec_revert hready hact hgood) ?_
      rw [hpart, if_pos hhard]
      obtain ⟨hheld, hside, hsoft, hentry⟩ := State.rollback_turns hlast' hslot 0xFFFFFFFF none
      rw [hpart] at hside
      rw [State.entry_beginCmd] at hentry
      rw [State.part_finishCmd, State.entry_finishCmd]
      exact ⟨hdone _ (held_cmds hheld), hside, hsoft, hentry⟩
    case refused =>
      refine answers_of_exec (exec_revert hready hact hgood) ?_
      rw [hpart, if_neg (by simp [hhard])]
      exact ready_endCmd hready _ _
    case twin =>
      refine answers_of_exec (exec_twin hready hact hgood ((State.twinStatus_beginCmd s c _).trans hok)) ⟨hdone _ ?_, ?_⟩
      · exact State.cmds_foldl fun _ _ => State.twinRegion_cmds ..
      · rw [State.part_finishCmd]
        exact State.twinRegions_twinned _ c.slot _
    case untwin =>
      refine answers_of_exec (exec_untwin hready hact hgood ((State.untwinStatus_beginCmd s c _).trans hok)) ⟨hdone _ ?_, ?_⟩
      · exact State.cmds_foldl fun _ _ => State.untwinRegion_cmds ..
      · rw [State.part_finishCmd]
        exact State.untwinRegions_twinned _ c.slot _
  case pass =>
    subst hp
    refine ⟨fun hall => ?clean, fun hex => ?found⟩ <;>
      refine answers_of_exec (exec_weightScrubPass himage hdue hfree hreset) ?_
    case clean =>
      have hfound : s.scrubFound i.val = [] := by
        rw [State.scrubFound, List.map_eq_nil_iff, List.filter_eq_nil_iff]
        exact fun e he => by simp [hall e he]
      rw [State.scrubPassOf_hardening hhard, hfound]
      obtain ⟨hside, hsoft, hdue', hfrom⟩ := turn_eq ((s.scrubNoted i.val).firm_turn i.val)
      rw [State.part_scrubNoted] at hside hdue' hfrom
      exact ⟨hsoft, hdue', hfrom, hside⟩
    case found =>
      obtain ⟨e, he, hbad⟩ := hex
      obtain ⟨k, l, hfound⟩ : ∃ k l, s.scrubFound i.val = k :: l := by
        refine List.exists_cons_of_ne_nil fun hnil => ?_
        rw [State.scrubFound, List.map_eq_nil_iff, List.filter_eq_nil_iff] at hnil
        simpa [hbad] using hnil e he
      rw [State.scrubPassOf_hardening hhard, hfound]
      obtain ⟨-, hside, hsoft, hentry⟩ := State.rollback_turns (noLast_scrubNoted hlast) i.isLt k none
      rw [State.part_scrubNoted] at hside
      exact ⟨hsoft, hside, hentry.trans (by rw [State.scrubNoted_entry])⟩

end Sys2Proof.Machine

/-!
# What a write through the device's own path leaves

The counterpart of `Writes` for the fields of the machine and of its partitions: a write changes memory, leaves of the page tables, frames, regulators,
counters and what commands hold, and nothing else (R267, R495 to R500).
-/
namespace Sys2Proof.Machine

open Sys2Proof Sys2Proof.Safety

section
variable {s t u : State} {id slot : Nat} {c d : Cmd}

/-- A partition without its leaves, its spares, its image records and its regulators. -/
def Part.outline (p : Part) : Part := { p with side0 := [], side1 := [], twins := [], image0 := {}, image1 := {}, regs := [] }

/-- The machine without what a write or an event may change. -/
def State.outline (s : State) : State :=
  { s with out := [], freeCtr := 0, power := {}, fns := [], parts := [], cores := [], cmds := [], dict := [], hbm := [], hbmPoison := [], hbmFrames := [],
           cxl := [], cxlPoison := [], cxlFrames := [], cxlDrops := 0, fabric := {}, hostMem := [] }

/-- t differs from s in memory, leaves, frames, regulators, counters, events and commands alone. -/
structure Stores (s t : State) : Prop where
  rest : t.outline = s.outline
  part : ∀ k, (t.part k).outline = (s.part k).outline

theorem Stores.refl (s : State) : Stores s s := ⟨rfl, fun _ => rfl⟩

theorem Stores.trans (h : Stores s t) (k : Stores t u) : Stores s u := ⟨k.rest.trans h.rest, fun i => (k.part i).trans (h.part i)⟩

theorem Stores.of_parts (hrest : t.outline = s.outline) (hparts : t.parts = s.parts) : Stores s t :=
  ⟨hrest, fun k => congrArg Part.outline (State.part_congr hparts k)⟩

/-- A field that the outline keeps is the same. -/
theorem Stores.field {α : Type} (h : Stores s t) (g : State → α) (hg : ∀ x : State, g x.outline = g x) : g t = g s := by
  rw [← hg t, h.rest, hg s]

/-- What of a partition its outline keeps is the same. -/
theorem Stores.partField {α : Type} (h : Stores s t) (k : Nat) (g : Part → α) (hg : ∀ p : Part, g p.outline = g p) :
    g (t.part k) = g (s.part k) := by
  rw [← hg (t.part k), h.part k, hg (s.part k)]

theorem Stores.users (h : Stores s t) : t.colls = s.colls ∧ t.upds = s.upds ∧ t.molts = s.molts ∧ t.time = s.time :=
  ⟨h.field State.colls fun _ => rfl, h.field State.upds fun _ => rfl, h.field State.molts fun _ => rfl, h.field State.time fun _ => rfl⟩

/-- A partition replaced by one of the same outline. -/
theorem State.setPart_stores {p : Part} (h : p.outline = (s.part slot).outline) : Stores s (s.setPart slot p) := by
  refine ⟨rfl, fun k => ?_⟩
  by_cases hk : k = slot
  · subst hk; rw [State.part_setPart, h]
  · rw [State.part_setPart_other _ _ hk]

theorem State.setCmd_stores (s : State) (d : Cmd) : Stores s (s.setCmd d) := .of_parts rfl rfl

theorem State.count_stores (s : State) (index sub n : Nat) : Stores s (s.count index sub n) := by
  obtain ⟨_, e⟩ := s.count_rest index sub n
  rw [e]; exact .of_parts rfl rfl

theorem State.event_stores (s : State) (code detail : Nat) (l : List Nat) : Stores s (s.event code detail l) := by
  obtain ⟨_, _, _, _, e⟩ := s.event_rest code detail l
  rw [e]; exact .of_parts rfl rfl

theorem State.setFrame_stores (s : State) (cxl : Bool) (f : Nat) (v : Frame) : Stores s (s.setFrame cxl f v) :=
  .of_parts (by cases cxl <;> rfl) (State.setFrame_parts ..)

theorem State.foldl_stores {α : Type} {f : State → α → State} (h : ∀ x a, Stores x (f x a)) (l : List α) (s : State) : Stores s (l.foldl f s) := by
  induction l generalizing s with
  | nil => exact Stores.refl s
  | cons a l ih => exact (h s a).trans (ih _)

/-! ## Metering -/

theorem State.setRegulator_stores (s : State) (i x : Nat) (r : Regulator) : Stores s (s.setRegulator i x r) := State.setPart_stores rfl

theorem State.serveFloor_stores (s : State) (i x n : Nat) (out : Bool) : Stores s (s.serveFloor i x n out) := by
  have hnoted : ∀ y : State, Stores y (y.noteServed x n out) := fun _ => .of_parts rfl rfl
  exact ((s.setRegulator_stores ..).trans (hnoted _)).trans (State.count_stores ..)

theorem State.owedFloor_stores (s : State) (i x fuel : Nat) : Stores s (s.owedFloor i x fuel) := by
  induction fuel generalizing s with
  | zero => exact Stores.refl s
  | succ fuel ih =>
    rw [State.owedFloor]
    split
    · exact Stores.refl s
    · next o _ _ =>
      have hpaid : ∀ n r, Stores s ((s.serveFloor i x n o.out).setRegulator i x r) :=
        fun n r => (s.serveFloor_stores ..).trans (State.setRegulator_stores ..)
      extract_lets n s1 s2
      split
      · exact Stores.refl s
      · split
        · exact hpaid n _
        · exact (hpaid n _).trans (ih s2)

theorem State.drawTokens_stores (s : State) (i x n : Nat) (out floor : Bool) : Stores s (s.drawTokens i x n out floor) := by
  unfold State.drawTokens
  split
  · exact Stores.refl s
  · exact (s.setRegulator_stores ..).trans (State.owedFloor_stores ..)

theorem State.charge_stores (s : State) (id : Option Nat) (res n : Nat) (out floor : Bool) : Stores s (s.charge id res n out floor) := by
  unfold State.charge
  split
  · exact Stores.refl s
  · split
    · exact Stores.refl s
    · dsimp only
      split
      · exact State.setCmd_stores ..
      · exact (State.setCmd_stores ..).trans (State.drawTokens_stores ..)

/-! ## One line of a write -/

theorem State.setTierMem_stores (s : State) (cxl : Bool) (m : Mem) : Stores s (s.setTierMem cxl m) := by
  cases cxl <;> exact .of_parts rfl rfl

theorem State.setTierPoison_stores (s : State) (cxl : Bool) (p : Tab Bool) : Stores s (s.setTierPoison cxl p) := by
  cases cxl <;> exact .of_parts rfl rfl

theorem State.fillFree_stores (s : State) (cxl : Bool) (a n : Nat) : Stores s (s.fillFree cxl a n) :=
  (s.setTierMem_stores cxl _).trans (.of_parts rfl rfl)

theorem Part.setLeaf_outline (p : Part) (side : Bool) (page : Nat) (l : Leaf) : (p.setLeaf side page l).outline = p.outline := by
  cases side <;> rfl

theorem State.cowLeaf_stores (s : State) (slot : Nat) (copy : Bool) (page : Nat) : Stores s (s.cowLeaf slot copy page) := by
  unfold State.cowLeaf
  dsimp only
  split
  · exact Stores.refl s
  · next sp _ =>
    have hcopied : ∀ (cxl : Bool) (a b : Nat), Stores s (if copy = true then s.copyTier cxl a cxl b frameBytes
        else (s.zeroFrame cxl sp.2).fillFree cxl a frameBytes) := by
      intro cxl a b
      split
      · exact (State.setTierMem_stores ..).trans (State.setTierPoison_stores ..)
      · exact ((State.setTierMem_stores ..).trans (State.setTierPoison_stores ..)).trans (State.fillFree_stores ..)
    refine Stores.trans (Stores.trans (hcopied ..) (State.setPart_stores ?_)) (State.setFrame_stores ..)
    rw [Part.setLeaf_outline, Part.setLeaf_outline, (hcopied ..).part]
    rfl

theorem State.reachLine_stores (s : State) (cxl : Bool) (dpa : Nat) : Stores s (s.reachLine cxl dpa) := by
  unfold State.reachLine
  split
  · exact Stores.refl s
  · dsimp only
    split
    · exact .of_parts rfl rfl
    · split
      · exact Stores.refl s
      · exact .of_parts rfl rfl
    · exact Stores.refl s

theorem State.cow_stores (s : State) (id : Option Nat) (slot : Nat) (w : Where) (whole : Bool) : Stores s (s.cow id slot w whole) := by
  have hcharged : ∀ (x : State) (i j n : Nat), Stores x ((x.charge id i n false true).charge id j n true true) :=
    fun x i j n => (State.charge_stores ..).trans (State.charge_stores ..)
  unfold State.cow
  split
  · exact Stores.refl s
  · extract_lets pages s1 n s2
    have hmetered : Stores s s2 := by
      refine Stores.trans (t := s1) (State.foldl_stores (fun x pg => x.cowLeaf_stores slot (!whole) pg) pages s) ?_
      dsimp only [s2]
      split
      · exact hcharged ..
      · exact hcharged ..
    split
    · exact hmetered
    · exact hmetered.trans (State.count_stores ..)

theorem State.noteAlias_stores (s : State) (id : Option Nat) (slot va n : Nat) : Stores s (s.noteAlias id slot va n) := by
  have hpart : ∀ x : State, Stores x (x.setPart slot (if (x.part slot).liveSide1 = true then
      { x.part slot with image0 := (x.part slot).image0.unseal va n } else { x.part slot with image1 := (x.part slot).image1.unseal va n })) :=
    fun x => State.setPart_stores (by split <;> rfl)
  unfold State.noteAlias
  cases id with
  | none => exact hpart s
  | some i =>
    cases hcmd : s.cmd i with
    | none =>
      simp only [hcmd]
      exact hpart s
    | some c =>
      simp only [hcmd]
      split
      · exact State.setCmd_stores ..
      · exact (State.setCmd_stores ..).trans (hpart _)

theorem State.linePut_stores (s : State) (slot : Nat) (v : Where) (n : Nat) (bs : List Byte) (bad : Bool) : Stores s (s.linePut slot v n bs bad) := by
  have hmark : ∀ x : State, Stores x ((x.markStale v.cxl v.dpa n).noteDirty slot v) := fun x => by
    unfold State.noteDirty
    split <;> exact .of_parts rfl rfl
  unfold State.linePut
  dsimp only
  split
  · exact .of_parts rfl rfl
  · refine Stores.trans (Stores.trans ?_ (hmark _)) (State.reachLine_stores ..)
    split
    · exact (State.setTierMem_stores ..).trans (State.setTierPoison_stores ..)
    · split
      · exact (State.setTierMem_stores ..).trans (State.setTierPoison_stores ..)
      · exact State.setTierMem_stores ..

/-- What every part of one line's write does, a write does: its twin noted, its page copied, its line put and its bytes charged. -/
theorem State.writeSpans_does {R : State → State → Prop} (id : Option Nat) (slot : Nat) (cover : List (Nat × Nat)) (bad : Bool)
    (hrefl : ∀ x, R x x) (htrans : ∀ x y z, R x y → R y z → R x z) (hnote : ∀ x va n, R x (x.noteAlias id slot va n))
    (hcow : ∀ x w whole, R x (x.cow id slot w whole)) (hput : ∀ x v n bs, R x (x.linePut slot v n bs bad))
    (hcharge : ∀ x res n, R x (x.charge id res n true)) (l : List (Nat × Nat)) :
    ∀ (s : State) (bs : List Byte), R s (s.writeSpans id slot cover bad l bs).1 := by
  induction l with
  | nil => exact fun s _ => hrefl s
  | cons e l ih =>
    intro s bs
    rw [State.writeSpans]
    cases s.translate slot e.1 with
    | none => exact hrefl s
    | some w =>
      have hnoted : ∀ va n, R s (if w.alias_ = true then s.noteAlias id slot va n else s) := by
        intro va n
        split
        · exact hnote ..
        · exact hrefl s
      dsimp only
      split
      · exact hrefl s
      · split
        · exact hnoted ..
        · split
          · exact hnoted ..
          · have hcopied := fun va n whole => htrans _ _ _ (hnoted va n) (hcow _ w whole)
            split
            · exact hcopied ..
            · next v _ => exact htrans _ _ _ (hcopied ..) (htrans _ _ _ (hput _ v e.2 bs) (htrans _ _ _ (hcharge ..) (ih _ (bs.drop e.2))))

theorem State.writeSpans_stores (id : Option Nat) (slot : Nat) (cover : List (Nat × Nat)) (bad : Bool) (l : List (Nat × Nat)) (s : State)
    (bs : List Byte) : Stores s (s.writeSpans id slot cover bad l bs).1 :=
  State.writeSpans_does id slot cover bad Stores.refl (fun _ _ _ => Stores.trans) (fun x => x.noteAlias_stores id slot) (fun x => x.cow_stores id slot)
    (fun x v n bs => x.linePut_stores slot v n bs bad) (fun x res n => x.charge_stores id res n true false) l s bs

theorem State.vwrite_stores (s : State) (id : Option Nat) (slot va : Nat) (bs : List Byte) (bad : Bool) (cover : List (Nat × Nat)) :
    Stores s (s.vwrite id slot va bs bad cover).1 := State.writeSpans_stores ..

/-! ## Counters: a write of no command counts a copied page alone (R497) -/

theorem State.setTierMem_dict (s : State) (cxl : Bool) (m : Mem) : (s.setTierMem cxl m).dict = s.dict := by cases cxl <;> rfl

theorem State.setTierPoison_dict (s : State) (cxl : Bool) (p : Tab Bool) : (s.setTierPoison cxl p).dict = s.dict := by cases cxl <;> rfl

theorem State.cowLeaf_dict (s : State) (slot : Nat) (copy : Bool) (page : Nat) : (s.cowLeaf slot copy page).dict = s.dict := by
  unfold State.cowLeaf
  dsimp only
  split
  · rfl
  · rw [State.setFrame_dict, State.setPart]
    dsimp only
    split
    · exact (State.setTierPoison_dict ..).trans (State.setTierMem_dict ..)
    · exact (State.setTierMem_dict ..).trans ((State.setTierPoison_dict ..).trans (State.setTierMem_dict ..))

theorem State.linePut_dict (s : State) (slot : Nat) (v : Where) (n : Nat) (bs : List Byte) (bad : Bool) : (s.linePut slot v n bs bad).dict = s.dict := by
  have hmark : ∀ x : State, ((x.markStale v.cxl v.dpa n).noteDirty slot v).dict = x.dict := fun x => by
    unfold State.noteDirty
    split <;> rfl
  unfold State.linePut
  dsimp only
  split
  · rfl
  · rw [State.reachLine_rest, hmark]
    split
    · exact (State.setTierPoison_dict ..).trans (State.setTierMem_dict ..)
    · split
      · exact (State.setTierPoison_dict ..).trans (State.setTierMem_dict ..)
      · exact State.setTierMem_dict ..

theorem State.cow_none_dict (s : State) (slot : Nat) (w : Where) (whole : Bool) {k : Nat} (hk : k ≠ dk 0x7051 (slot + 1)) :
    (s.cow none slot w whole).dictGet k = s.dictGet k := by
  have hpages : ∀ l : List Nat, (l.foldl (fun s pg => s.cowLeaf slot (!whole) pg) s).dict = s.dict :=
    fun l => State.foldl_keeps State.dict (fun _ _ => State.cowLeaf_dict ..) l s
  unfold State.cow
  split
  · rfl
  · simp only [State.charge, ite_self]
    split
    · exact State.dictGet_congr (hpages _) k
    · rw [State.dictGet_count_other _ _ hk]
      exact State.dictGet_congr (hpages _) k

theorem State.vwrite_none_dict (s : State) (slot va : Nat) (bs : List Byte) {k : Nat} (hk : k ≠ dk 0x7051 (slot + 1)) :
    (s.vwrite none slot va bs).1.dictGet k = s.dictGet k :=
  State.writeSpans_does (R := fun x y => y.dictGet k = x.dictGet k) none slot [] false (fun _ => rfl) (fun _ _ _ h j => j.trans h)
    (fun _ _ _ => rfl) (fun x w whole => x.cow_none_dict slot w whole hk) (fun _ _ _ _ => State.dictGet_congr (State.linePut_dict ..) k)
    (fun _ _ _ => rfl) _ s bs

end

end Sys2Proof.Machine

/-!
# Points decided, and the results of VOTE and RESOLVE (R548, R553 to R556)
-/
namespace Sys2Proof.Machine

open Sys2Proof Sys2Proof.Safety

section
variable {s t u : State} {id slot : Nat} {c d : Cmd} {x : Coll}

/-! ## What deciding a point leaves -/

/-- The counters that deciding a point of a slot may raise. -/
def pointCounters (slot : Nat) : List Nat := [dk 0x7031 (slot + 1), dk 0x7032 (slot + 1), dk 0x7051 (slot + 1), dk 0x7052 (slot + 1), dk 0x8030 2]

/-- t has the exchanges and the commands of s, with the same ends, and its counters but those of deciding a point. -/
structure Bookkeeps (slot : Nat) (s t : State) : Prop where
  rest : t.outline = s.outline
  ending : ∀ k, t.endingOf k = s.endingOf k
  dict : ∀ k, k ∉ pointCounters slot → t.dictGet k = s.dictGet k

theorem Bookkeeps.refl (slot : Nat) (s : State) : Bookkeeps slot s s := ⟨rfl, fun _ => rfl, fun _ _ => rfl⟩

theorem Bookkeeps.trans (h : Bookkeeps slot s t) (k : Bookkeeps slot t u) : Bookkeeps slot s u :=
  ⟨k.rest.trans h.rest, fun i => (k.ending i).trans (h.ending i), fun i hi => (k.dict i hi).trans (h.dict i hi)⟩

theorem Bookkeeps.of_eq (hrest : t.outline = s.outline) (hcmds : t.cmds = s.cmds) (hdict : t.dict = s.dict) : Bookkeeps slot s t :=
  ⟨hrest, State.endingOf_congr hcmds, fun k _ => State.dictGet_congr hdict k⟩

theorem Bookkeeps.field {α : Type} (h : Bookkeeps slot s t) (g : State → α) (hg : ∀ x : State, g x.outline = g x) : g t = g s := by
  rw [← hg t, h.rest, hg s]

theorem Bookkeeps.colls (h : Bookkeeps slot s t) : t.colls = s.colls := h.field State.colls fun _ => rfl

/-- Such a step that leaves every partition's outline as well. -/
structure Minor (slot : Nat) (s t : State) : Prop where
  keeps : Bookkeeps slot s t
  stores : Stores s t

theorem Minor.refl (slot : Nat) (s : State) : Minor slot s s := ⟨.refl .., .refl ..⟩

theorem Minor.trans (h : Minor slot s t) (k : Minor slot t u) : Minor slot s u := ⟨h.keeps.trans k.keeps, h.stores.trans k.stores⟩

theorem State.foldl_minor {α : Type} {f : State → α → State} (h : ∀ x a, Minor slot x (f x a)) (l : List α) (s : State) :
    Minor slot s (l.foldl f s) := by
  induction l generalizing s with
  | nil => exact Minor.refl slot s
  | cons a l ih => exact (h s a).trans (ih _)

theorem State.vwrite_minor (s : State) (slot va : Nat) (bs : List Byte) : Minor slot s (s.vwrite none slot va bs).1 :=
  have hstores := s.vwrite_stores none slot va bs false []
  ⟨⟨hstores.rest, (s.vwrite_writes none slot va bs).2, fun _ hk => s.vwrite_none_dict slot va bs fun e => hk (by simp [pointCounters, e])⟩, hstores⟩

theorem State.count_minor {index sub : Nat} (h : dk index sub ∈ pointCounters slot) (s : State) (n : Nat) : Minor slot s (s.count index sub n) :=
  ⟨⟨(s.count_stores ..).rest, State.endingOf_congr (State.count_cmds ..), fun _ hk => State.dictGet_count_other _ _ fun e => hk (e ▸ h)⟩,
    s.count_stores ..⟩

theorem State.event_minor (s : State) (slot code detail : Nat) (l : List Nat) : Minor slot s (s.event code detail l) :=
  ⟨⟨(s.event_stores ..).rest, State.endingOf_congr (State.event_cmds ..), fun _ hk => State.event_dict _ _ _ _ _ fun e => hk (by simp [pointCounters, e])⟩,
    s.event_stores ..⟩

theorem State.setPart_keeps (s : State) (slot k : Nat) (p : Part) : Bookkeeps slot s (s.setPart k p) := .of_eq rfl rfl rfl

/-! ## Trackers and groups after a step (R420, R503) -/

theorem State.stepTrackers_minor (s : State) (slot ovfs : Nat) (finite : Bool) : Minor slot s (s.stepTrackers slot ovfs finite) := by
  unfold State.stepTrackers
  split
  · exact Minor.refl slot s
  · refine (State.foldl_minor (fun x k => ?_) _ s).trans (State.count_minor (by simp [pointCounters]) _ 1)
    split
    · exact Minor.refl slot x
    · split
      · exact Minor.refl slot x
      · dsimp only
        split
        · exact (x.vwrite_minor slot _ _).trans (State.count_minor (by simp [pointCounters]) _ 1)
        · exact x.vwrite_minor slot _ _

theorem State.setGroup_minor (s : State) (slot k : Nat) (g : Group) : Minor slot s (s.setGroup slot k g) := s.vwrite_minor slot _ _

theorem State.stepGroup_minor (s : State) (slot k step : Nat) (ok : Bool) : Minor slot s (s.stepGroup slot k step ok) := by
  have hraised : ∀ (x : State) (b : Bool) (code : Nat), Minor slot x (if b = true then x.event code k (x.slotFns slot) else x) := by
    intro x b code
    split
    · exact x.event_minor ..
    · exact Minor.refl slot x
  unfold State.stepGroup
  split
  · exact Minor.refl slot s
  · exact ((s.setGroup_minor ..).trans (hraised _ _ 0x0407)).trans (hraised _ _ 0x0408)

theorem State.stepGroups_minor (s : State) (slot step : Nat) (ok : Bool) : Minor slot s (s.stepGroups slot step ok) := by
  unfold State.stepGroups
  split
  · exact Minor.refl slot s
  · exact State.foldl_minor (fun x k => x.stepGroup_minor ..) _ s

/-! ## A point applied -/

theorem State.reseed_keeps (s : State) (slot : Nat) : Bookkeeps slot s (s.reseed slot) := by
  refine ⟨?_, State.endingOf_congr (State.reseed_cmds ..), fun k hk => s.reseed_dict slot fun e => hk (by simp [pointCounters, e])⟩
  rw [State.reseed, (State.count_stores ..).rest]
  change State.outline (List.foldl _ (List.foldl _ s _) _) = s.outline
  refine (State.foldl_keeps State.outline (fun _ _ => ?_) _ _).trans (State.foldl_keeps State.outline (fun _ _ => ?_) _ _)
  · rfl
  · exact (State.setFrame_stores ..).rest

theorem State.writeLiveSide_keeps (h : noLastCkpt s slot) (scrubs : Bool) (except : Option Nat) :
    Bookkeeps slot s (s.writeLiveSide slot scrubs except) := by
  rw [State.writeLiveSide_of_noLast h]
  exact .of_eq rfl rfl rfl

/-- Which side is live after a point: the other one where it commits. -/
def sideAfter (commit side : Bool) : Bool := if commit then !side else side

theorem State.eclose_turns (h : noLastCkpt s slot) (commit : Bool) :
    Bookkeeps slot s (s.eclose slot commit) ∧ ((s.eclose slot commit).part slot).liveSide1 = sideAfter commit (s.part slot).liveSide1 := by
  cases commit with
  | true =>
    exact ⟨(State.writeLiveSide_keeps h true none).trans (State.reseed_keeps ..),
      (turn_eq ((State.reseed_turn ..).trans (State.writeLiveSide_turn h true none))).1⟩
  | false =>
    refine ⟨(s.setPart_keeps slot slot _).trans (State.reseed_keeps ..), ?_⟩
    refine (turn_eq (State.reseed_turn (s.setPart slot { s.part slot with epoch := (s.part slot).epoch + 1 }) slot)).1.trans ?_
    rw [State.part_setPart]
    rfl

/-- Trackers, groups and SR_STEP brought past a step leave the live side. -/
theorem State.passStep_keeps (s : State) (slot : Nat) (step : W64) (r : List Byte) (commit : Bool) :
    Bookkeeps slot s (s.passStep slot step r commit) ∧ ((s.passStep slot step r commit).part slot).liveSide1 = (s.part slot).liveSide1 := by
  have hminor := (s.stepTrackers_minor slot (field r 8 4) (bitAt (field r 0 4) 0)).trans (State.stepGroups_minor _ slot step.toNat commit)
  refine ⟨hminor.keeps.trans (State.setPart_keeps ..), ?_⟩
  rw [State.passStep, State.part_setPart]
  exact hminor.stores.partField slot Part.liveSide1 fun _ => rfl

theorem State.passMolt_keeps (s : State) (slot : Nat) (step : W64) :
    Bookkeeps slot s (s.passMolt slot step) ∧ ((s.passMolt slot step).part slot).liveSide1 = (s.part slot).liveSide1 := by
  have hone : ∀ (x : State) (k : Nat), Minor slot x (match x.group slot k with
      | some g => x.setGroup slot k { g with step := (step.toNat + 1) % 2 ^ 64 }
      | none => x) := by
    intro x k
    split
    · exact x.setGroup_minor ..
    · exact Minor.refl slot x
  have hminor : Minor slot s (if (s.part slot).tgroupBase = 0 then s else trackerNumbers.foldl (fun (s : State) (k : Nat) =>
      match s.group slot k with
      | some g => s.setGroup slot k { g with step := (step.toNat + 1) % 2 ^ 64 }
      | none => s) s) := by
    split
    · exact Minor.refl slot s
    · exact State.foldl_minor hone _ s
  refine ⟨hminor.keeps.trans (State.setPart_keeps ..), ?_⟩
  refine (congrArg Part.liveSide1 (State.part_setPart ..)).trans ?_
  exact hminor.stores.partField slot Part.liveSide1 fun _ => rfl

/-- What a point applied to a partition leaves: the point recorded, the partition in its step state, and its live side. -/
structure Decided (slot : Nat) (pt : Point) (st : StepState) (side : Bool) (s t : State) : Prop where
  keeps : Bookkeeps slot s t
  state : (t.part slot).stepState = st
  doubt : (t.part slot).doubt = none
  last : (t.part slot).lastPoint = some pt
  side : (t.part slot).liveSide1 = side

/-- A step that keeps the outline of a partition keeps what has been decided of it. -/
theorem Decided.minor {pt : Point} {st : StepState} {side : Bool} (h : Decided slot pt st side s t) (k : Minor slot t u) :
    Decided slot pt st side s u where
  keeps := h.keeps.trans k.keeps
  state := (k.stores.partField slot Part.stepState fun _ => rfl).trans h.state
  doubt := (k.stores.partField slot Part.doubt fun _ => rfl).trans h.doubt
  last := (k.stores.partField slot Part.lastPoint fun _ => rfl).trans h.last
  side := (k.stores.partField slot Part.liveSide1 fun _ => rfl).trans h.side

theorem State.recordPoint_decides {pt : Point} {st : StepState} (h : Bookkeeps slot s t) :
    Decided slot pt st (t.part slot).liveSide1 s (t.recordPoint slot pt st) where
  keeps := h.trans (State.setPart_keeps ..)
  state := by rw [State.recordPoint, State.part_setPart]
  doubt := by rw [State.recordPoint, State.part_setPart]
  last := by rw [State.recordPoint, State.part_setPart]
  side := by rw [State.recordPoint, State.part_setPart]

theorem State.applyPoint_decides (h : noLastCkpt s slot) (step : W64) (instar : W32) (molt commit : Bool) (r : List Byte) (st : StepState) :
    Decided slot { step := step, instar := instar, committed := commit, molt := molt, record := r } st (sideAfter commit (s.part slot).liveSide1) s
      (s.applyPoint slot step instar molt commit r st) := by
  obtain ⟨hkeeps, hside⟩ := State.eclose_turns h commit
  have hpassed : ∀ y, y = (if molt then (if commit then (s.eclose slot commit).passMolt slot step else s.eclose slot commit)
      else (s.eclose slot commit).passStep slot step r commit) →
      Bookkeeps slot s y ∧ (y.part slot).liveSide1 = sideAfter commit (s.part slot).liveSide1 := by
    rintro y rfl
    split
    · split
      · exact ⟨hkeeps.trans (State.passMolt_keeps ..).1, (State.passMolt_keeps ..).2.trans hside⟩
      · exact ⟨hkeeps, hside⟩
    · exact ⟨hkeeps.trans (State.passStep_keeps ..).1, (State.passStep_keeps ..).2.trans hside⟩
  obtain ⟨hall, hlive⟩ := hpassed _ rfl
  have hrecorded := State.recordPoint_decides (pt := { step := step, instar := instar, committed := commit, molt := molt, record := r }) (st := st) hall
  rw [hlive] at hrecorded
  unfold State.applyPoint
  dsimp only
  split
  · exact hrecorded.minor (State.event_minor ..)
  · exact hrecorded

theorem State.setTables_keeps (s : State) (slot : Nat) (b : Tables) : Bookkeeps slot s (s.setTables slot b) := State.setPart_keeps ..

theorem noLast_setTables (h : noLastCkpt s slot) (b : Tables) : noLastCkpt (s.setTables slot b) slot := by
  intro k
  rw [State.longop, State.setTables, State.part_setPart]
  exact h k

/-- A point applied in the tables of its command. -/
theorem State.applyPointOf_decides (h : noLastCkpt s slot) (id : Nat) (step : W64) (instar : W32) (molt commit : Bool) (r : List Byte) (st : StepState) :
    Decided slot { step := step, instar := instar, committed := commit, molt := molt, record := r } st (sideAfter commit (s.part slot).liveSide1) s
      (s.applyPointOf id slot step instar molt commit r st) := by
  have happlied := State.applyPoint_decides (noLast_setTables h (s.tablesFor slot id)) step instar molt commit r st
  have hpart : ((s.setTables slot (s.tablesFor slot id)).part slot).liveSide1 = (s.part slot).liveSide1 := by
    rw [State.setTables, State.part_setPart]
  rw [hpart] at happlied
  unfold State.applyPointOf
  generalize (s.setTables slot (s.tablesFor slot id)).applyPoint slot step instar molt commit r st = y at happlied
  exact {
    keeps := ((s.setTables_keeps ..).trans happlied.keeps).trans (y.setTables_keeps ..)
    state := by rw [State.setTables, State.part_setPart]; exact happlied.state
    doubt := by rw [State.setTables, State.part_setPart]; exact happlied.doubt
    last := by rw [State.setTables, State.part_setPart]; exact happlied.last
    side := by rw [State.setTables, State.part_setPart]; exact happlied.side }

end

end Sys2Proof.Machine

/-!
# Exchanges that end, and the results of VOTE and RESOLVE (R478, R536, R548, R553 to R556)
-/
namespace Sys2Proof.Machine

open Sys2Proof Sys2Proof.Safety

section
variable {s t u : State} {id slot : Nat} {c d : Cmd} {x : Coll}

/-! ## An exchange leaves the engine -/

theorem State.coll_cmd (h : s.coll id = some x) : x.cmd = id := by
  have := List.find?_some h
  simpa using this

/-- The counters of a stage hand-off that is over (R536). -/
def handoffCounters (slot : Nat) : List Nat := [dk 0x7060 (slot + 1), dk 0x7063 (slot + 1), dk 0x7064 (slot + 1)]

theorem State.countHandoff_rest (s : State) (x : Coll) : ∃ y, s.countHandoff x = { s with dict := y } := by
  unfold State.countHandoff
  split
  · exact ⟨_, rfl⟩
  · obtain ⟨y, hy⟩ := s.count_rest 0x7060 (x.slot + 1) 1
    dsimp only
    split
    · exact ⟨y, hy⟩
    · split
      · obtain ⟨z, hz⟩ := (s.count 0x7060 (x.slot + 1) 1).count_rest 0x7063 (x.slot + 1) 1
        rw [hz, hy]
        exact ⟨_, rfl⟩
      · rw [hy]
        exact ⟨_, rfl⟩

theorem State.countHandoff_dict (s : State) (x : Coll) {k : Nat} (hk : k ∉ handoffCounters x.slot) : (s.countHandoff x).dictGet k = s.dictGet k := by
  obtain ⟨hover, hslow, hwait⟩ : k ≠ dk 0x7060 (x.slot + 1) ∧ k ≠ dk 0x7063 (x.slot + 1) ∧ k ≠ dk 0x7064 (x.slot + 1) := by
    simpa [handoffCounters] using hk
  unfold State.countHandoff
  split
  · rfl
  · dsimp only
    split
    · exact State.dictGet_count_other _ _ hover
    · rw [State.dictGet_set_other _ _ hwait]
      split
      · rw [State.dictGet_count_other _ _ hslow, State.dictGet_count_other _ _ hover]
      · exact State.dictGet_count_other _ _ hover

/-- An exchange that leaves the engine takes with it its entry, and leaves its flags to its partition. -/
theorem State.dropColl_rest (s : State) (id : Nat) :
    ∃ p y, s.dropColl id = { s with parts := p, dict := y, colls := s.colls.filter fun c => c.cmd != id } := by
  unfold State.dropColl
  dsimp only
  split
  · next x _ =>
    obtain ⟨y, hy⟩ := (s.setPart x.slot { s.part x.slot with collFlags := (s.part x.slot).collFlags ||| x.flags }).countHandoff_rest x
    rw [hy]
    exact ⟨_, _, rfl⟩
  · exact ⟨_, _, rfl⟩

@[simp] theorem State.dropColl_cmds (s : State) (id : Nat) : (s.dropColl id).cmds = s.cmds := by
  obtain ⟨_, _, e⟩ := s.dropColl_rest id
  rw [e]

theorem State.dropColl_colls (s : State) (id : Nat) : (s.dropColl id).colls = s.colls.filter fun c => c.cmd != id := by
  obtain ⟨_, _, e⟩ := s.dropColl_rest id
  rw [e]

theorem State.coll_dropped (h : t.colls = s.colls.filter fun c => c.cmd != id) : t.coll id = none := by
  rw [State.coll, h, List.find?_eq_none]
  intro c hc
  simpa using List.of_mem_filter hc

theorem State.part_dropColl (s : State) (id k : Nat) : ∃ f, (s.dropColl id).part k = { s.part k with collFlags := f } := by
  have hkept : ∃ f, s.part k = { s.part k with collFlags := f } := ⟨_, rfl⟩
  unfold State.dropColl
  dsimp only
  split
  · next x _ =>
    obtain ⟨y, hy⟩ := (s.setPart x.slot { s.part x.slot with collFlags := (s.part x.slot).collFlags ||| x.flags }).countHandoff_rest x
    rw [hy]
    change ∃ f, (s.setPart x.slot _).part k = _
    by_cases hk : k = x.slot
    · subst hk; rw [State.part_setPart]; exact ⟨_, rfl⟩
    · rw [State.part_setPart_other _ _ hk]; exact hkept
  · exact hkept

theorem State.dropColl_dict (h : s.coll id = some x) {k : Nat} (hk : k ∉ handoffCounters x.slot) : (s.dropColl id).dictGet k = s.dictGet k := by
  unfold State.dropColl
  rw [h]
  exact State.countHandoff_dict _ x hk

theorem noLast_dropColl (h : noLastCkpt s slot) (id : Nat) : noLastCkpt (s.dropColl id) slot := by
  obtain ⟨f, hf⟩ := s.part_dropColl id slot
  intro k
  rw [State.longop, hf]
  exact h k

/-! ## No further event of an exchange is awaited, and its command ends -/

theorem State.peerDone_rest (s : State) (id : Nat) : s.peerDone id = { s with cmds := (s.peerDone id).cmds } := by
  unfold State.peerDone
  split
  · rfl
  · split <;> rfl

theorem State.peerDone_writes (s : State) (id : Nat) : Writes s (s.peerDone id) := by
  unfold State.peerDone
  split
  · exact Writes.refl s
  · next c hcmd =>
    obtain rfl := State.cmd_id hcmd
    split
    · exact State.setCmd_writes (d := s.noteCmd { c with peer := false }) hcmd rfl
    · exact Writes.refl s

theorem State.part_peerDone (s : State) (id k : Nat) : (s.peerDone id).part k = s.part k := by
  rw [State.peerDone_rest]; rfl

theorem State.entry_peerDone (s : State) (id index sub : Nat) : (s.peerDone id).entry index sub = s.entry index sub := by
  rw [State.peerDone_rest]; rfl

theorem State.endingOf_running (hcmd : s.cmd id = some c) (hrun : c.phase = .running) : ∃ p, s.endingOf id = some (.running, p) :=
  ⟨(c.poisoned, c.late), by rw [State.endingOf, hcmd, Option.map_some, Cmd.ending, hrun]⟩

/-- A command found running ends with the status it is given. -/
theorem State.endCmd_of_ending {p : Option Nat × Option (Nat × Nat)} (h : s.endingOf id = some (.running, p)) (st d : Nat) :
    endedAs (s.endCmd id st d) id st d := by
  obtain ⟨e, he, hp⟩ : ∃ e, s.cmd id = some e ∧ e.ending = (.running, p) := Option.map_eq_some_iff.mp h
  exact State.endCmd_ends st d he (not_ended_of_running (congrArg Prod.fst hp))

theorem State.part_endCmd (s : State) (id st d k : Nat) : (s.endCmd id st d).part k = s.part k := by
  rw [State.endCmd_rest]; rfl

theorem State.entry_endCmd (s : State) (id st d index sub : Nat) : (s.endCmd id st d).entry index sub = s.entry index sub := by
  rw [State.endCmd_rest]; rfl

theorem State.colls_endCmd (s : State) (id st d : Nat) : (s.endCmd id st d).colls = s.colls := by
  rw [State.endCmd_rest]

theorem State.putRecord_minor (s : State) (slot va : Nat) (r : List Byte) : Minor slot s (s.putRecord slot va r) := s.vwrite_minor ..

/-! ## The result of a step vote (R548) -/

/-- What deciding the point of an exchange leaves, its exchange dropped first. -/
theorem State.decide_dropped (hlast : noLastCkpt s slot) (step : W64) (instar : W32) (molt commit : Bool) (r : List Byte)
    (id va : Nat) : Decided slot { step := step, instar := instar, committed := commit, molt := molt, record := r } .opened
      (sideAfter commit (s.part slot).liveSide1) (s.dropColl id)
      (((s.dropColl id).applyPointOf id slot step instar molt commit r .opened).putRecord slot va r) := by
  obtain ⟨f, hf⟩ := s.part_dropColl id slot
  have h := State.applyPointOf_decides (noLast_dropColl hlast id) id step instar molt commit r .opened
  rw [show ((s.dropColl id).part slot).liveSide1 = (s.part slot).liveSide1 by rw [hf]] at h
  exact h.minor (State.putRecord_minor ..)

theorem exec_voteResult (hcoll : s.coll id = some x) (hlive : s.nicLive = true) (hacts : x.acts = []) :
    exec (.voteResult id) s = .next (match x.kind with | .stepVote => s.stepResult x | .resolve => s.resolveResult x | _ => s) := by
  change execVoteResult id s = _
  rw [execVoteResult, hcoll]
  dsimp only
  rw [hlive, hacts, if_neg (by simp)]
  cases x.kind <;> rfl

/-- The status with which a step vote's member ends. -/
def voteStatus (r : List Byte) : Nat := if recordClean r then 0 else 0x0404

theorem State.stepResult_eq (s : State) (x : Coll) : s.stepResult x =
    (((((s.dropColl x.cmd).applyPointOf x.cmd x.slot x.step x.instar false (recordClean x.record) x.record .opened).putRecord x.slot x.dst
      x.record).count (if recordClean x.record then 0x7070 else 0x7071) (x.slot + 1) 1).peerDone x.cmd).endCmd x.cmd (voteStatus x.record) 0 := rfl

theorem vote_not_handoff {index slot : Nat} (h : index = 0x7070 ∨ index = 0x7071 ∨ index = 0x7073) (hslot : slot < 16) :
    dk index (slot + 1) ∉ handoffCounters slot ∧ dk index (slot + 1) ∉ pointCounters slot := by
  simp only [handoffCounters, pointCounters, dk, List.mem_cons, List.not_mem_nil, or_false]
  omega

theorem answers_voteResult_step (hcoll : s.coll id = some x) (hlive : s.nicLive = true) (hacts : x.acts = []) (hslot : x.slot < 16)
    (hcmd : s.cmd id = some c) (hrun : c.phase = .running) (hlast : noLastCkpt s x.slot) (hkind : x.kind = .stepVote) :
    answers (.voteResult id) s fun t => endedAs t id (if recordClean x.record then 0 else 0x0404) 0 ∧ t.coll id = none ∧
        (t.part x.slot).stepState = .opened ∧ (t.part x.slot).doubt = none ∧
        (t.part x.slot).lastPoint = some { step := x.step, instar := x.instar, committed := recordClean x.record, molt := false, record := x.record } ∧
        (t.part x.slot).liveSide1 = (if recordClean x.record then !(s.part x.slot).liveSide1 else (s.part x.slot).liveSide1) ∧
        t.entry (if recordClean x.record then 0x7070 else 0x7071) (x.slot + 1) =
          s.entry (if recordClean x.record then 0x7070 else 0x7071) (x.slot + 1) + 1 := by
  refine answers_of_exec (exec_voteResult hcoll hlive hacts) ?_
  rw [hkind]
  dsimp only
  obtain rfl := State.coll_cmd hcoll
  have hdecided := State.decide_dropped hlast x.step x.instar false (recordClean x.record) x.record x.cmd x.dst
  rw [State.stepResult_eq]
  generalize (State.applyPointOf _ _ _ _ _ _ _ _ _).putRecord x.slot x.dst x.record = y at hdecided
  obtain ⟨p, hp⟩ := State.endingOf_running hcmd hrun
  have hindex : (if recordClean x.record then 0x7070 else 0x7071) = 0x7070 ∨ (if recordClean x.record then 0x7070 else 0x7071) = 0x7071 ∨
      (if recordClean x.record then 0x7070 else 0x7071) = 0x7073 := by split <;> simp
  generalize (if recordClean x.record then 0x7070 else 0x7071) = index at hindex
  obtain ⟨hhand, hpoint⟩ := vote_not_handoff hindex hslot
  refine ⟨State.endCmd_of_ending (p := p) ?_ _ _, State.coll_dropped (s := s) ?_, ?_, ?_, ?_, ?_, ?_⟩
  · rw [(State.peerDone_writes ..).2, State.endingOf_congr (State.count_cmds ..), hdecided.keeps.ending, State.endingOf_congr (State.dropColl_cmds ..), hp]
  · rw [State.colls_endCmd, State.peerDone_rest, ((y.count_stores ..).users).1, hdecided.keeps.colls, State.dropColl_colls]
  · rw [State.part_endCmd, State.part_peerDone, State.part_count, hdecided.state]
  · rw [State.part_endCmd, State.part_peerDone, State.part_count, hdecided.doubt]
  · rw [State.part_endCmd, State.part_peerDone, State.part_count, hdecided.last]
  · rw [State.part_endCmd, State.part_peerDone, State.part_count, hdecided.side]; rfl
  · rw [State.entry_endCmd, State.entry_peerDone, State.entry, State.dictGet_count, hdecided.keeps.dict _ hpoint, State.dropColl_dict hcoll hhand]
    rfl

/-! ## The result of a RESOLVE (R556) -/

/-- A RESOLVE's exchange over, and counted. -/
def State.resolveOver (s : State) (x : Coll) : State := ((s.dropColl x.cmd).peerDone x.cmd).count 0x7073 (x.slot + 1) 1

theorem State.part_resolveOver (s : State) (x : Coll) (k : Nat) : ∃ f, (s.resolveOver x).part k = { s.part k with collFlags := f } := by
  rw [State.resolveOver, State.part_count, State.part_peerDone]
  exact s.part_dropColl x.cmd k

theorem State.resolveOver_ending (s : State) (x : Coll) (k : Nat) : (s.resolveOver x).endingOf k = s.endingOf k := by
  rw [State.resolveOver, State.endingOf_congr (State.count_cmds ..), (State.peerDone_writes ..).2, State.endingOf_congr (State.dropColl_cmds ..)]

theorem State.entry_resolveOver (hcoll : s.coll x.cmd = some x) (hslot : x.slot < 16) :
    (s.resolveOver x).entry 0x7073 (x.slot + 1) = s.entry 0x7073 (x.slot + 1) + 1 := by
  obtain ⟨hhand, -⟩ := vote_not_handoff (index := 0x7073) (by simp) hslot
  rw [State.resolveOver, State.entry, State.dictGet_count]
  change State.entry _ _ _ + 1 = _
  rw [State.entry_peerDone, State.entry, State.dropColl_dict hcoll hhand]
  rfl

theorem noLast_resolveOver (h : noLastCkpt s slot) (x : Coll) : noLastCkpt (s.resolveOver x) slot := by
  obtain ⟨f, hf⟩ := s.part_resolveOver x slot
  intro k
  rw [State.longop, hf]
  exact h k

/-- Whether a RESOLVE decides a molt point. -/
def State.resolvesMolt (s : State) (x : Coll) : Bool :=
  bitAt (field x.record 4 4) 5 || (s.part x.slot).doubt.any fun q => q.is (x.step, x.instar) && q.molt

theorem State.resolveResult_conflict (h : resolveConflict x.record = true) : s.resolveResult x = (s.resolveOver x).endCmd x.cmd 0x0413 0 := if_pos h

theorem State.resolveResult_decided (h : resolveConflict x.record = false) (hd : (s.part x.slot).decided (x.step, x.instar) = true) :
    s.resolveResult x = (s.resolveOver x).endCmd x.cmd 0x0412 (if (s.part x.slot).lastPoint.any (·.committed) then 1 else 2) :=
  (if_neg (by simp [h])).trans (if_pos hd)

theorem State.resolveResult_applies {commit : Bool} (h : resolveConflict x.record = false) (hd : (s.part x.slot).decided (x.step, x.instar) = false)
    (hcommit : commit = bitAt (field x.record 4 4) 2) (hholds : commit = true → (s.part x.slot).holdsPoint (x.step, x.instar) = true)
    (hmolt : s.resolvesMolt x = false) :
    s.resolveResult x = ((((s.resolveOver x).applyPointOf x.cmd x.slot x.step x.instar false commit x.record .opened).putRecord x.slot x.dst
      x.record).endCmd x.cmd (if commit then 0 else 0x0404) 0) := by
  subst hcommit
  have hheld : ¬ (bitAt (field x.record 4 4) 2 && !(s.part x.slot).holdsPoint (x.step, x.instar)) = true := by
    simpa using hholds
  refine (if_neg (by simp [h])).trans ((if_neg (by simp [hd])).trans ((if_neg hheld).trans ?_))
  dsimp only
  rw [State.resolvesMolt] at hmolt
  rw [hmolt]
  exact if_neg (by simp)

theorem exec_voteResult_resolve (hcoll : s.coll id = some x) (hlive : s.nicLive = true) (hacts : x.acts = []) (hkind : x.kind = .resolve) :
    exec (.voteResult id) s = .next (s.resolveResult x) := by
  rw [exec_voteResult hcoll hlive hacts, hkind]

theorem resolveOver_ends (hcoll : s.coll id = some x) (hcmd : s.cmd id = some c) (hrun : c.phase = .running) (st d : Nat) :
    endedAs ((s.resolveOver x).endCmd x.cmd st d) id st d := by
  obtain rfl := State.coll_cmd hcoll
  obtain ⟨p, hp⟩ := State.endingOf_running hcmd hrun
  exact State.endCmd_of_ending ((s.resolveOver_ending x x.cmd).trans hp) st d

section
variable (hcoll : s.coll id = some x) (hlive : s.nicLive = true) (hacts : x.acts = []) (hslot : x.slot < 16) (hcmd : s.cmd id = some c)
  (hrun : c.phase = .running) (hkind : x.kind = .resolve)
include hcoll hlive hacts hcmd hrun hkind

include hslot in
theorem answers_voteResult_conflict (hc : resolveConflict x.record = true) : answers (.voteResult id) s fun t => endedAs t id 0x0413 0 ∧
    (t.part x.slot).stepState = (s.part x.slot).stepState ∧ t.entry 0x7073 (x.slot + 1) = s.entry 0x7073 (x.slot + 1) + 1 := by
  refine answers_of_exec (exec_voteResult_resolve hcoll hlive hacts hkind) ?_
  obtain ⟨f, hf⟩ := s.part_resolveOver x x.slot
  rw [State.resolveResult_conflict hc, State.part_endCmd, State.entry_endCmd, hf,
    State.entry_resolveOver ((State.coll_cmd hcoll).symm ▸ hcoll) hslot]
  exact ⟨resolveOver_ends hcoll hcmd hrun _ _, rfl, rfl⟩

theorem answers_voteResult_decided (hc : resolveConflict x.record = false) (hd : (s.part x.slot).decided (x.step, x.instar) = true) :
    answers (.voteResult id) s fun t => endedAs t id 0x0412 (if (s.part x.slot).lastPoint.any (·.committed) then 1 else 2) ∧
      (t.part x.slot).lastPoint = (s.part x.slot).lastPoint := by
  refine answers_of_exec (exec_voteResult_resolve hcoll hlive hacts hkind) ?_
  obtain ⟨f, hf⟩ := s.part_resolveOver x x.slot
  rw [State.resolveResult_decided hc hd, State.part_endCmd, hf]
  exact ⟨resolveOver_ends hcoll hcmd hrun _ _, rfl⟩

theorem answers_voteResult_applies {commit : Bool} (hlast : noLastCkpt s x.slot) (hc : resolveConflict x.record = false)
    (hd : (s.part x.slot).decided (x.step, x.instar) = false) (hcommit : commit = bitAt (field x.record 4 4) 2)
    (hholds : commit = true → (s.part x.slot).holdsPoint (x.step, x.instar) = true) (hbit : bitAt (field x.record 4 4) 5 = false)
    (hdoubt : ∀ q, (s.part x.slot).doubt = some q → q.molt = false) :
    answers (.voteResult id) s fun t => endedAs t id (if commit then 0 else 0x0404) 0 ∧ (t.part x.slot).stepState = .opened ∧
      (t.part x.slot).liveSide1 = (if commit then !(s.part x.slot).liveSide1 else (s.part x.slot).liveSide1) := by
  refine answers_of_exec (exec_voteResult_resolve hcoll hlive hacts hkind) ?_
  have hmolt : s.resolvesMolt x = false := by
    rw [State.resolvesMolt, hbit, Bool.false_or]
    cases h : (s.part x.slot).doubt with
    | none => rfl
    | some q => simp [hdoubt q h]
  obtain ⟨f, hf⟩ := s.part_resolveOver x x.slot
  obtain ⟨p, hp⟩ := State.endingOf_running hcmd hrun
  obtain rfl := State.coll_cmd hcoll
  have hdecided := (State.applyPointOf_decides (noLast_resolveOver hlast x) x.cmd x.step x.instar false commit x.record .opened).minor
    (State.putRecord_minor _ x.slot x.dst x.record)
  rw [State.resolveResult_applies hc hd hcommit hholds hmolt, State.part_endCmd, hdecided.state, hdecided.side, hf]
  exact ⟨State.endCmd_of_ending ((hdecided.keeps.ending _).trans ((s.resolveOver_ending x _).trans hp)) _ _, rfl, rfl⟩

end

/-! ## VOTE and RESOLVE start (R544 to R546, R554) -/

theorem exec_vote (hcmd : s.cmd id = some c) (hlive : s.nicLive = true) (h : ready s id 0x51 c) (hplace : s.placeFor c = true)
    (hmode : s.voteMode c ≠ some 1) : exec (.vote id) s = .next ((s.beginCmd c).voteStart c) := by
  change execVote id s = _
  rw [execVote, hcmd]
  dsimp only
  rw [if_pos (by simp [hlive, hplace, hmode]), State.startOp_ready h]

theorem exec_resolve (hcmd : s.cmd id = some c) (hlive : s.nicLive = true) (h : ready s id 0x51 c) (hplace : s.placeFor c = true)
    (hmode : s.voteMode c = some 1) (hstate : (s.part c.slot).stepState ≠ .voting) :
    exec (.resolve id) s = .next ((s.beginCmd c).voteStart c) := by
  change execResolve id s = _
  rw [execResolve, hcmd]
  dsimp only
  rw [if_pos (by simp [hlive, hplace, hmode, hstate]), State.startOp_ready h]

theorem State.voteStart_misaligned (h : c.payload % 64 ≠ 0) : s.voteStart c = s.endCmd c.id 0x0408 0 := if_pos h

theorem State.voteStart_bad {bs : List Byte} {o : Nat} (h : c.payload % 64 = 0) (hread : s.descRead c.id c.slot c.payload 128 = (t, some bs))
    (hbad : voteBad bs = some o) : s.voteStart c = t.endCmd c.id 0x0408 o := by
  simp only [State.voteStart, h, hread, hbad, ne_eq, not_true_eq_false, if_false]

/-- A VOTE or RESOLVE whose descriptor, members and point pass begins. -/
theorem State.voteStart_begins {bs tbl : List Byte} (h : c.payload % 64 = 0) (hread : s.descRead c.id c.slot c.payload 128 = (t, some bs))
    (hbad : voteBad bs = none) (hext : 1 < field bs 4 4 → recExternal c.record ≠ [])
    (htbl : t.descRead c.id c.slot (field bs 0x20 8) (8 * field bs 4 4) = (u, some tbl)) (hfault : u.voteFault c.slot bs tbl = none) :
    s.voteStart c = u.voteBegin c bs tbl := by
  have hwaits : ¬ (1 < field bs 4 4 ∧ (recExternal c.record).isEmpty = true) := by
    rintro ⟨hn, he⟩
    exact hext hn (List.isEmpty_iff.mp he)
  simp only [State.voteStart, h, hread, hbad, htbl, hfault, ne_eq, not_true_eq_false, if_false, hwaits]

/-! ## A running place taken (R483) -/

theorem State.peerDone_cmd (hcmd : s.cmd id = some c) : ∃ d, (s.peerDone id).cmd id = some d ∧ d.place = c.place ∧ d.phase = c.phase := by
  obtain rfl := State.cmd_id hcmd
  unfold State.peerDone
  rw [hcmd]
  dsimp only
  split
  · exact ⟨_, State.cmd_setCmd (c := s.noteCmd { c with peer := false }) hcmd, rfl, rfl⟩
  · exact ⟨c, hcmd, rfl, rfl⟩

theorem State.settlePeer_form (s : State) (id : Nat) : s.settlePeer id = s ∨ s.settlePeer id = s.peerDone id := by
  unfold State.settlePeer
  split
  · exact .inl rfl
  · split
    · exact .inr rfl
    · exact .inl rfl

theorem State.settlePeer_rest (s : State) (id : Nat) : s.settlePeer id = { s with cmds := (s.settlePeer id).cmds } := by
  rcases s.settlePeer_form id with e | e <;> rw [e]
  exact State.peerDone_rest ..

theorem State.settlePeer_writes (s : State) (id : Nat) : Writes s (s.settlePeer id) := by
  rcases s.settlePeer_form id with e | e <;> rw [e]
  · exact Writes.refl s
  · exact State.peerDone_writes ..

theorem State.settlePeer_cmd (hcmd : s.cmd id = some c) : ∃ d, (s.settlePeer id).cmd id = some d ∧ d.place = c.place ∧ d.phase = c.phase := by
  rcases s.settlePeer_form id with e | e <;> rw [e]
  · exact ⟨c, hcmd, rfl, rfl⟩
  · exact State.peerDone_cmd hcmd

/-- A running command takes a place: its exchange stands after those that run. -/
theorem State.takePlace_takes (hrun : running s id) (x : Coll) :
    (∃ d, (s.takePlace id x).cmd id = some d ∧ d.place = true ∧ d.phase = .running) ∧
      s.takePlace id x = { s with cmds := (s.takePlace id x).cmds, colls := s.colls ++ [x] } := by
  obtain ⟨k, hcmd, hphase⟩ := hrun
  obtain rfl := State.cmd_id hcmd
  unfold State.takePlace
  rw [hcmd]
  dsimp only
  generalize hk : ({ k with place := true, peer := !x.flows.isEmpty, peerAt := s.arrivedBy x.flows x.tag, whole := x.txBytes + x.rxBytes,
                            deadline := if x.flows.isEmpty then k.deadline else none } : Cmd) = k1
  have hid : k1.id = k.id := by rw [← hk]
  have hfound : ((s.setCmd (s.noteCmd k1)).addColl x).cmd k.id = some (s.noteCmd k1) := by
    rw [← hid] at hcmd ⊢
    exact State.cmd_setCmd (c := s.noteCmd k1) hcmd
  obtain ⟨d, hd, hplace, hsame⟩ := State.settlePeer_cmd hfound
  refine ⟨⟨d, hd, hplace.trans (by rw [← hk]; rfl), hsame.trans (by rw [← hk]; exact hphase)⟩, ?_⟩
  rw [State.settlePeer_rest]
  rfl

theorem running_congr (h : t.cmds = s.cmds) (k : running s id) : running t id := by
  obtain ⟨c, hcmd, hrun⟩ := k
  exact ⟨c, (State.cmd_congr h id).trans hcmd, hrun⟩

/-! ## A vote begins -/

/-- The brood of a vote joined: the partition's own brood alone may change. -/
theorem State.setBrood_rest (s : State) (slot : Nat) (l : List Nat) :
    ∃ b k, s.setBrood slot l = s ∨ s.setBrood slot l = s.setPart slot { s.part slot with broodSet := b, brood := k } := by
  unfold State.setBrood
  split
  · exact ⟨false, 0, .inl rfl⟩
  · unfold State.joinBrood
    split
    · exact ⟨false, 0, .inl rfl⟩
    · exact ⟨true, _, .inr rfl⟩

/-- What clearing the sampled registers leaves: FLAGS of each core held, COLL_FLAGS and UPDATE_FAULT are 0. -/
theorem State.clearSampled_clears (s : State) (slot : Nat) :
    (s.clearSampled slot).cmds = s.cmds ∧ (s.clearSampled slot).colls = s.colls ∧
      (s.clearSampled slot).part slot = { s.part slot with collFlags := 0, updateFault := false } ∧
      ∀ k ∈ s.heldCores slot, ((s.clearSampled slot).core k).flags = 0 := by
  have hfold := State.foldl_keeps (fun x : State => (x.cmds, x.colls, x.parts)) (f := fun x k => x.setCore k { x.core k with flags := 0 })
    (fun _ _ => rfl) (s.heldCores slot) s
  simp only [Prod.mk.injEq] at hfold
  obtain ⟨hcmds, hcolls, hparts⟩ := hfold
  have hflags := State.foldl_each (f := fun x k => x.setCore k { x.core k with flags := 0 }) (P := fun k x => (x.core k).flags = 0)
    (fun x k => by rw [State.core_setCore]) (fun x a k hk => by
      by_cases e : k = a
      · subst e; rw [State.core_setCore]
      · rw [State.core_setCore_other _ _ e]; exact hk) (s.heldCores slot) s
  unfold State.clearSampled
  dsimp only
  refine ⟨hcmds, hcolls, ?_, hflags⟩
  rw [State.part_setPart, State.part_congr hparts]

/-- The exchange of a vote. -/
def State.voteColl (s : State) (c : Cmd) (bs tbl : List Byte) : Coll :=
  s.joined { kind := if field bs 0 1 == 0 then .stepVote else .resolve, tag := field bs 2 1, n := field bs 4 4, self := field bs 8 4
             step := (votePoint bs).1, instar := (votePoint bs).2, dst := field bs 0x28 8, waitUntil := s.waitEnd c (field bs 0x1C 4)
             record := if field bs 0 1 == 0 then s.stepRecord c.slot bs else (s.part c.slot).resolveRecord (votePoint bs)
             acts := voteActs (field bs 1 1) (field bs 4 4) (field bs 8 4) }
    c.id c.slot (membersOf tbl (field bs 4 4)) (reached (field bs 1 1) (field bs 4 4) (field bs 8 4)) 1

/-- A step vote's partition sampled and VOTING. -/
def State.enterVoting (s : State) (slot : Nat) (pt : W64 × W32) : State :=
  (s.clearSampled slot).setPart slot
    { (s.clearSampled slot).part slot with stepState := .voting, doubt := some { step := pt.1, instar := pt.2 }, doubtKept := true }

theorem State.voteBegin_step {bs : List Byte} (tbl : List Byte) (h : field bs 0 1 = 0) : s.voteBegin c bs tbl =
    ((s.setBrood c.slot (s.voteColl c bs tbl).flows).enterVoting c.slot (votePoint bs)).takePlace c.id (s.voteColl c bs tbl) := by
  rw [State.voteBegin, State.voteColl, h]
  rfl

theorem State.voteBegin_resolve {bs : List Byte} (tbl : List Byte) (h : field bs 0 1 = 1) : s.voteBegin c bs tbl =
    (s.setBrood c.slot (s.voteColl c bs tbl).flows).takePlace c.id (s.voteColl c bs tbl) := by
  rw [State.voteBegin, State.voteColl, h]
  rfl

theorem State.setBrood_work (s : State) (slot : Nat) (l : List Nat) : (s.setBrood slot l).cmds = s.cmds ∧ (s.setBrood slot l).colls = s.colls ∧
    (s.setBrood slot l).heldCores slot = s.heldCores slot ∧ ((s.setBrood slot l).part slot).stepState = (s.part slot).stepState ∧
    ((s.setBrood slot l).part slot).lastPoint = (s.part slot).lastPoint := by
  obtain ⟨b, k, e | e⟩ := s.setBrood_rest slot l <;> rw [e]
  · exact ⟨rfl, rfl, rfl, rfl, rfl⟩
  · refine ⟨rfl, rfl, rfl, ?_, ?_⟩ <;> rw [State.part_setPart]

/-- A step vote takes its place with its partition VOTING and its registers sampled. -/
theorem State.voteBegin_votes {bs tbl : List Byte} (hid : c.id = id) (hrun : running s id) (hmode : field bs 0 1 = 0) :
    (∃ d, (s.voteBegin c bs tbl).cmd id = some d ∧ d.place = true ∧ d.phase = .running) ∧
      (∃ x : Coll, (s.voteBegin c bs tbl).colls = s.colls ++ [x] ∧ x.cmd = id ∧ x.kind = .stepVote ∧ x.record = s.stepRecord c.slot bs ∧
        x.step = (votePoint bs).1 ∧ x.acts = voteActs (field bs 1 1) (field bs 4 4) (field bs 8 4)) ∧
      ((s.voteBegin c bs tbl).part c.slot).stepState = .voting ∧
      ((s.voteBegin c bs tbl).part c.slot).doubt = some { step := (votePoint bs).1, instar := (votePoint bs).2 } ∧
      ((s.voteBegin c bs tbl).part c.slot).collFlags = 0 ∧ ((s.voteBegin c bs tbl).part c.slot).updateFault = false ∧
      ∀ k ∈ s.heldCores c.slot, ((s.voteBegin c bs tbl).core k).flags = 0 := by
  subst hid
  rw [State.voteBegin_step tbl hmode]
  obtain ⟨hcmds, hcolls, hheld, -⟩ := s.setBrood_work c.slot (s.voteColl c bs tbl).flows
  generalize s.setBrood c.slot (s.voteColl c bs tbl).flows = y at hcmds hcolls hheld
  obtain ⟨hccmds, hccolls, hcpart, hcflags⟩ := y.clearSampled_clears c.slot
  obtain ⟨htaken, hrest⟩ := State.takePlace_takes (s := y.enterVoting c.slot (votePoint bs))
    (running_congr (show (y.clearSampled c.slot).cmds = s.cmds from hccmds.trans hcmds) hrun) (s.voteColl c bs tbl)
  have hpart : ((y.enterVoting c.slot (votePoint bs)).part c.slot) = { y.part c.slot with
      collFlags := 0, updateFault := false, stepState := .voting, doubt := some { step := (votePoint bs).1, instar := (votePoint bs).2 }, doubtKept := true } := by
    rw [State.enterVoting, State.part_setPart, hcpart]
  refine ⟨htaken, ⟨s.voteColl c bs tbl, ?_, rfl, ?_, ?_, rfl, rfl⟩, ?_, ?_, ?_, ?_, ?_⟩
  · rw [hrest]
    exact congrArg (· ++ _) (hccolls.trans hcolls)
  · rw [State.voteColl, hmode]; rfl
  · rw [State.voteColl, hmode]; rfl
  all_goals rw [hrest]
  · exact congrArg Part.stepState hpart
  · exact congrArg Part.doubt hpart
  · exact congrArg Part.collFlags hpart
  · exact congrArg Part.updateFault hpart
  · rw [← hheld]
    exact hcflags

/-- A RESOLVE takes its place with what its member has decided. -/
theorem State.voteBegin_resolves {bs tbl : List Byte} (hid : c.id = id) (hrun : running s id) (hmode : field bs 0 1 = 1) :
    (∃ x : Coll, (s.voteBegin c bs tbl).colls = s.colls ++ [x] ∧ x.cmd = id ∧ x.kind = .resolve ∧
        x.record = (s.part c.slot).resolveRecord (votePoint bs) ∧ x.acts = voteActs (field bs 1 1) (field bs 4 4) (field bs 8 4)) ∧
      ((s.voteBegin c bs tbl).part c.slot).stepState = (s.part c.slot).stepState ∧
      ((s.voteBegin c bs tbl).part c.slot).lastPoint = (s.part c.slot).lastPoint := by
  subst hid
  rw [State.voteBegin_resolve tbl hmode]
  obtain ⟨hcmds, hcolls, -, hstate, hpoint⟩ := s.setBrood_work c.slot (s.voteColl c bs tbl).flows
  obtain ⟨-, hrest⟩ := State.takePlace_takes (running_congr hcmds hrun) (s.voteColl c bs tbl)
  rw [hrest]
  refine ⟨⟨s.voteColl c bs tbl, congrArg (· ++ _) hcolls, rfl, ?_, ?_, rfl⟩, hstate, hpoint⟩
  · rw [State.voteColl, hmode]; rfl
  · rw [State.voteColl, hmode]; rfl

end

end Sys2Proof.Machine

namespace Sys2Proof.Machine

open Sys2Proof Sys2Proof.Safety

/-- Settles O46: the starts through what begins, the results through what deciding a point leaves. -/
theorem votes : Obligations.Votes := by
  unfold Obligations.Votes
  intro s id c hcmd hlive
  refine ⟨fun mode s1 s2 bs tbl hready hplace hvoteMode hmode halign hread hbad hext htbl hfault hrun => ?start,
    fun mode o s1 bs hready hplace hvoteMode hmode halign hread hbad hrun => ?bad,
    fun hready hplace hvoteMode halign => ?misaligned, fun x hcoll hslot hacts hrun hlast => ?result⟩
  case start =>
    obtain rfl := ready_id hready
    have hbegins := State.voteStart_begins halign hread hbad hext htbl hfault
    refine ⟨fun h0 => ?_, fun h1 hstate => ?_⟩
    · refine answers_of_exec ((exec_vote hcmd hlive hready hplace (by simp [hvoteMode, h0])).trans (congrArg _ hbegins)) ?_
      exact State.voteBegin_votes rfl hrun (hmode.trans h0)
    · refine answers_of_exec ((exec_resolve hcmd hlive hready hplace (by rw [hvoteMode, h1]) hstate).trans (congrArg _ hbegins)) ?_
      exact State.voteBegin_resolves rfl hrun (hmode.trans h1)
  case bad =>
    obtain rfl := ready_id hready
    refine answers_of_exec (exec_vote hcmd hlive hready hplace (by simp [hvoteMode, hmode])) ?_
    rw [State.voteStart_bad halign hread hbad]
    obtain ⟨d, hd, hphase⟩ := hrun
    exact State.endCmd_ends _ _ hd (not_ended_of_running hphase)
  case misaligned =>
    refine answers_of_exec (exec_vote hcmd hlive hready hplace hvoteMode) ?_
    rw [State.voteStart_misaligned halign, ready_id hready]
    exact State.endCmd_ends _ _ (ready_begun hready) (not_ended_of_running rfl)
  case result =>
    refine ⟨answers_voteResult_step hcoll hlive hacts hslot hcmd hrun hlast, answers_voteResult_conflict hcoll hlive hacts hslot hcmd hrun,
      answers_voteResult_decided hcoll hlive hacts hcmd hrun, fun commit hkind hc hd hcommit hholds hbit hdoubt => ?_⟩
    exact answers_voteResult_applies hcoll hlive hacts hcmd hrun hkind hlast hc hd hcommit hholds hbit hdoubt

end Sys2Proof.Machine

/-!
# Exchanges that fail, and MOLT (R484 to R486, R556 to R567)
-/
namespace Sys2Proof.Machine

open Sys2Proof Sys2Proof.Safety

section
variable {s t u : State} {id slot : Nat} {c d : Cmd} {x : Coll}

/-! ## What the failure of an exchange leaves -/

/-- Abort chunks change what flows hold alone. -/
theorem State.sendAborts_rest (s : State) (x : Coll) (rank status : Nat) : ∃ f, s.sendAborts x rank status = { s with flows := f } := by
  have hfold : ∀ (l : List Nat) (y : State), ∃ f, l.foldl (fun s f =>
      let fl := s.flow f
      let s1 := s.setFlow f { fl with txQueue := fl.txQueue.filter fun k => k.cmd != x.cmd }
      if fl.state = .opened ∨ fl.state = .silent then
        (s1.sendChunk x f [(bytesOfNat rank 4 ++ bytesOfNat status 2, false)] (voteField 1 false true false) none).1
      else s1) y = { y with flows := f } := by
    intro l
    induction l with
    | nil => exact fun y => ⟨_, rfl⟩
    | cons a l ih =>
      intro y
      rw [List.foldl_cons]
      obtain ⟨f, hf⟩ : ∃ f, (let fl := y.flow a
          let s1 := y.setFlow a { fl with txQueue := fl.txQueue.filter fun k => k.cmd != x.cmd }
          if fl.state = .opened ∨ fl.state = .silent then
            (s1.sendChunk x a [(bytesOfNat rank 4 ++ bytesOfNat status 2, false)] (voteField 1 false true false) none).1
          else s1) = { y with flows := f } := by
        dsimp only
        split <;> exact ⟨_, rfl⟩
      rw [hf]
      exact ih _
  exact hfold x.flows s

/-- The counters that undoing a failed exchange's work may raise. -/
def undoCounters (slot : Nat) : List Nat := [dk 0x7072 (slot + 1), dk 0x7052 (slot + 1), dk 0x8030 2]

/-- t has the commands and the exchanges of s, and its counters but those of undoing an exchange's work. -/
structure Undoes (slot : Nat) (s t : State) : Prop where
  cmds : t.cmds = s.cmds
  rest : t.outline = s.outline
  dict : ∀ k, k ∉ undoCounters slot → t.dictGet k = s.dictGet k

theorem Undoes.refl (slot : Nat) (s : State) : Undoes slot s s := ⟨rfl, rfl, fun _ _ => rfl⟩

theorem Undoes.trans (h : Undoes slot s t) (k : Undoes slot t u) : Undoes slot s u :=
  ⟨k.cmds.trans h.cmds, k.rest.trans h.rest, fun i hi => (k.dict i hi).trans (h.dict i hi)⟩

theorem Undoes.colls (h : Undoes slot s t) : t.colls = s.colls := by
  have e : ∀ x : State, x.outline.colls = x.colls := fun _ => rfl
  rw [← e t, h.rest, e s]

theorem Undoes.setPart (s : State) (slot k : Nat) (p : Part) : Undoes slot s (s.setPart k p) := ⟨rfl, rfl, fun _ _ => rfl⟩

theorem State.reseed_undoes (s : State) (slot : Nat) : Undoes slot s (s.reseed slot) :=
  ⟨s.reseed_cmds slot, (s.reseed_keeps slot).rest, fun _ hk => s.reseed_dict slot fun e => hk (by simp [undoCounters, e])⟩

theorem State.event_undoes (s : State) (slot code detail : Nat) (l : List Nat) : Undoes slot s (s.event code detail l) :=
  ⟨State.event_cmds .., (s.event_stores ..).rest, fun _ hk => State.event_dict _ _ _ _ _ fun e => hk (by simp [undoCounters, e])⟩

theorem State.toDoubt_undoes (s : State) (slot : Nat) : Undoes slot s (s.toDoubt slot) := by
  have hcounted : ∀ p : Part, Undoes slot s ((s.setPart slot p).count 0x7072 (slot + 1) 1) := fun p =>
    (Undoes.setPart s slot slot p).trans ⟨State.count_cmds .., (State.count_stores ..).rest,
      fun k hk => State.dictGet_count_other _ _ fun e => hk (by simp [undoCounters, e])⟩
  unfold State.toDoubt
  dsimp only
  split
  · exact hcounted _
  · exact (hcounted _).trans (State.event_undoes ..)

theorem State.discard_undoes (s : State) (slot : Nat) : Undoes slot s (s.discard slot) :=
  (Undoes.setPart s slot slot _).trans (State.reseed_undoes ..)

theorem State.moltUndone_undoes (s : State) (slot : Nat) : Undoes slot s (s.moltUndone slot) := by
  unfold State.moltUndone
  split
  · exact Undoes.refl slot s
  · exact (s.discard_undoes slot).trans (Undoes.setPart ..)

/-- What is left to undo once an exchange has failed: its partition in doubt, its molt back, or nothing. -/
theorem State.collUndone_undoes (s : State) (x : Coll) : Undoes x.slot s (s.collUndone x) := by
  unfold State.collUndone
  split
  · exact s.toDoubt_undoes x.slot
  · exact s.toDoubt_undoes x.slot
  · exact s.moltUndone_undoes x.slot
  · exact s.moltUndone_undoes x.slot
  · exact Undoes.refl x.slot s

/-- A failure counted and told. -/
theorem State.collAborted_ends {p : Option Nat × Option (Nat × Nat)} (h : s.endingOf id = some (.running, p)) (slot st d rank : Nat) :
    endedAs (s.collAborted id slot st d rank) id st d :=
  endedAs_congr ((State.event_cmds ..).trans (State.count_cmds ..)) (State.endCmd_of_ending h st d)

theorem State.collAborted_stores (s : State) (id slot st d rank : Nat) : Stores s (s.collAborted id slot st d rank) := by
  have hended : Stores s (s.endCmd id st d) := by rw [State.endCmd_rest]; exact .of_parts rfl rfl
  exact (hended.trans (State.count_stores ..)).trans (State.event_stores ..)

theorem State.entry_collAborted (hslot : slot < 16) (s : State) (id st d rank : Nat) :
    (s.collAborted id slot st d rank).entry 0x7044 (slot + 1) = s.entry 0x7044 (slot + 1) + 1 := by
  rw [State.collAborted, State.entry, State.event_dict _ _ _ _ _ (by simp [dk]; omega), State.dictGet_count]
  exact congrArg (· + 1) (State.entry_endCmd ..)

/-- An exchange out of the engine with its peers told. -/
def State.collOut (s : State) (x : Coll) (rank status : Nat) : State := (s.sendAborts x rank status).dropColl x.cmd

theorem State.collFail_eq (s : State) (x : Coll) (st d rank : Nat) :
    s.collFail x st d rank = { (((s.collOut x rank st).collAborted x.cmd x.slot st d rank).collUndone x) with
      molts := ((((s.collOut x rank st).collAborted x.cmd x.slot st d rank).collUndone x).molts.filter fun m => m.cmd != x.cmd) } := rfl

theorem State.collOut_leaves (s : State) (x : Coll) (rank st : Nat) : (s.collOut x rank st).cmds = s.cmds ∧
    (s.collOut x rank st).colls = s.colls.filter (fun c => c.cmd != x.cmd) ∧
    (∀ k, ∃ f, (s.collOut x rank st).part k = { s.part k with collFlags := f }) ∧
    (s.coll x.cmd = some x → ∀ k, k ∉ handoffCounters x.slot → (s.collOut x rank st).dictGet k = s.dictGet k) := by
  obtain ⟨f, hf⟩ := s.sendAborts_rest x rank st
  unfold State.collOut
  rw [hf]
  refine ⟨State.dropColl_cmds .., State.dropColl_colls .., fun k => State.part_dropColl .., fun hcoll k hk => ?_⟩
  exact State.dropColl_dict (s := { s with flows := f }) hcoll hk

/-- An exchange that fails: its command ends so, it is gone with its molt, and the failure is counted. -/
theorem State.collFail_fails (hcoll : s.coll id = some x) (hcmd : s.cmd id = some c) (hrun : c.phase = .running) (st d rank : Nat) :
    endedAs (s.collFail x st d rank) id st d ∧ (s.collFail x st d rank).coll id = none ∧ (s.collFail x st d rank).molt id = none ∧
      (x.slot < 16 → (s.collFail x st d rank).entry 0x7044 (x.slot + 1) = s.entry 0x7044 (x.slot + 1) + 1) := by
  obtain rfl := State.coll_cmd hcoll
  obtain ⟨p, hp⟩ := State.endingOf_running hcmd hrun
  obtain ⟨hcmds, hcolls, -, hdict⟩ := s.collOut_leaves x rank st
  have haborted := State.collAborted_ends ((State.endingOf_congr hcmds _).trans hp) x.slot st d rank
  have hstores := (s.collOut x rank st).collAborted_stores x.cmd x.slot st d rank
  have hentry := fun h : x.slot < 16 => State.entry_collAborted h (s.collOut x rank st) x.cmd st d rank
  rw [State.collFail_eq]
  generalize (s.collOut x rank st).collAborted x.cmd x.slot st d rank = y at haborted hstores hentry
  have hundoes := y.collUndone_undoes x
  refine ⟨endedAs_congr hundoes.cmds haborted, State.coll_dropped (s := s) ?_, ?_, fun hslot => ?_⟩
  · exact hundoes.colls.trans (hstores.users.1.trans hcolls)
  · rw [State.molt, List.find?_eq_none]
    intro m hm
    simpa using List.of_mem_filter hm
  · refine (hundoes.dict _ ?_).trans ((hentry hslot).trans (congrArg (· + 1) (hdict hcoll _ ?_)))
    · simp [undoCounters, dk]; omega
    · simp [handoffCounters, dk]

/-! ## A segment that ends leaves its partition's step state, its exchanges and its molts -/

theorem State.endSome_stores (s : State) (o : Option Nat) (st d : Nat) : Stores s (s.endSome o st d) := by
  cases o with
  | none => exact Stores.refl s
  | some i =>
    change Stores s (s.endCmd i st d)
    rw [State.endCmd_rest]
    exact .of_parts rfl rfl

/-- A handle that returns to FREE changes of partitions their handles alone. -/
theorem State.freeHandle_leaves (s : State) (slot h st : Nat) : (s.freeHandle slot h st).colls = s.colls ∧ (s.freeHandle slot h st).molts = s.molts ∧
    ∀ {α : Type} (k : Nat) (g : Part → α), (∀ p : Part, g p.outline = g p) → (∀ (p : Part) l, g { p with longops := l } = g p) →
      g ((s.freeHandle slot h st).part k) = g (s.part k) := by
  unfold State.freeHandle
  dsimp only
  generalize hy : s.setLongop slot h _ = y
  have hset : y.colls = s.colls ∧ y.molts = s.molts ∧ ∀ k, ∃ l, y.part k = { s.part k with longops := l } := by
    subst hy
    refine ⟨rfl, rfl, fun k => ?_⟩
    by_cases hk : k = slot
    · subst hk; exact ⟨_, State.part_setPart ..⟩
    · exact ⟨_, State.part_setPart_other _ _ hk⟩
  obtain ⟨hcolls, hmolts, hpart⟩ := hset
  have hstores := ((y.endSome_stores (s.longop slot h).suspender 0x0605 0).trans (State.endSome_stores _ (s.longop slot h).resumer 0x0605 0)).trans
    (State.endSome_stores _ (s.longop slot h).canceller (if st = 0x0601 then 0 else 0x0605) 0)
  generalize State.endSome _ (s.longop slot h).canceller _ 0 = z at hstores
  have hevent := State.event_stores { z with loads := z.loads.filter fun e => e.1 != handleKey slot h
                                             loadDigests := z.loadDigests.filter fun e => e.1 != handleKey slot h
                                             ckpts := z.ckpts.filter fun e => e.1 != handleKey slot h }
  refine ⟨(hevent _ _ _).users.1.trans (hstores.users.1.trans hcolls), (hevent _ _ _).users.2.2.1.trans (hstores.users.2.2.1.trans hmolts),
    fun k g hout hlong => ?_⟩
  obtain ⟨l, hl⟩ := hpart k
  refine ((hevent _ _ _).partField k g hout).trans ((hstores.partField k g hout).trans ?_)
  rw [hl, hlong]

/-! ## A molt commits (R556, R563) -/

variable {m : Molt}

theorem exec_molt_commits (hlive : s.nicLive = true) (hmolt : s.molt id = some m) (hid : m.cmd = id) (hcoll : s.coll id = some x)
    (hphase : m.phase = .commit) (hacts : x.acts = []) : exec (.molt id) s = .next (s.moltCommitted m x) := by
  change execMolt id s = _
  rw [execMolt, hlive, hmolt, if_neg (by simp)]
  dsimp only
  rw [State.moltGo, hphase, hid, hcoll]
  exact congrArg _ (if_pos (by rw [hacts]; rfl))

/-- A molt out of the engine with its segment over: what its partition holds but its handles stays. -/
theorem State.moltEnd_ends {p : Option Nat × Option (Nat × Nat)} (h : s.endingOf m.cmd = some (.running, p)) (st d : Nat) :
    endedAs (s.moltEnd m st d) m.cmd st d ∧ (s.moltEnd m st d).molt m.cmd = none ∧ (s.moltEnd m st d).colls = s.colls ∧
      ∀ {α : Type} (k : Nat) (g : Part → α), (∀ p : Part, g p.outline = g p) → (∀ (p : Part) l, g { p with longops := l } = g p) →
        g ((s.moltEnd m st d).part k) = g (s.part k) := by
  rw [State.moltEnd]
  generalize hx : (s.dropMolt m.cmd).peerDone m.cmd = y
  have hending : y.endingOf m.cmd = some (.running, p) := by
    rw [← hx, (State.peerDone_writes ..).2, ← h]
    rfl
  have hrest : y.colls = s.colls ∧ y.molts = (s.molts.filter fun d => d.cmd != m.cmd) ∧ ∀ k, y.part k = s.part k := by
    rw [← hx, State.peerDone_rest]
    exact ⟨rfl, rfl, fun _ => rfl⟩
  obtain ⟨hcolls, hmolts, hpart⟩ := hrest
  obtain ⟨hfcolls, hfmolts, hfpart⟩ := (y.endCmd m.cmd st d).freeHandle_leaves m.slot (s.moltHandle m) st
  rw [State.endSegment]
  refine ⟨endedAs_freeHandle (State.endCmd_of_ending hending st d) .., ?_, ?_, fun k g hout hlong => ?_⟩
  · rw [State.molt, hfmolts, State.endCmd_rest, List.find?_eq_none]
    intro q hq
    rw [hmolts] at hq
    simpa using List.of_mem_filter hq
  · rw [hfcolls, State.colls_endCmd, hcolls]
  · rw [hfpart k g hout hlong, State.part_endCmd, hpart]

/-- The status with which a molt's member ends. -/
def moltStatus (r : List Byte) : Nat := if recordClean r then 0 else 0x0415

theorem State.onHandle_leaves (s : State) (slot h : Nat) (f : LongOp → LongOp) : (s.onHandle slot h f).colls = s.colls ∧
    ∀ k, ∃ l, (s.onHandle slot h f).part k = { s.part k with longops := l } := by
  refine ⟨rfl, fun k => ?_⟩
  by_cases hk : k = slot
  · subst hk; exact ⟨_, State.part_setPart ..⟩
  · exact ⟨_, State.part_setPart_other _ _ hk⟩

theorem answers_molt_commits (hlive : s.nicLive = true) (hcmd : s.cmd id = some c) (hmolt : s.molt id = some m) (hid : m.cmd = id)
    (hcoll : s.coll id = some x) (hphase : m.phase = .commit) (hacts : x.acts = []) (hrun : c.phase = .running) (hlast : noLastCkpt s m.slot) :
    answers (.molt id) s fun t => endedAs t id (if recordClean x.record then 0 else 0x0415) 0 ∧ t.molt id = none ∧ t.coll id = none ∧
      (t.part m.slot).stepState = .opened ∧ (t.part m.slot).doubt = none ∧
      (t.part m.slot).lastPoint = some { step := m.step, instar := m.newInstar, committed := recordClean x.record, molt := true, record := x.record } := by
  refine answers_of_exec (exec_molt_commits hlive hmolt hid hcoll hphase hacts) ?_
  subst hid
  have hdecided := State.decide_dropped hlast m.step m.newInstar true (recordClean x.record) x.record m.cmd (m.result + 64)
  obtain ⟨p, hp⟩ := State.endingOf_running hcmd hrun
  rw [State.moltCommitted, State.coll_cmd hcoll]
  generalize (State.applyPointOf _ _ _ _ _ _ _ _ _).putRecord m.slot _ x.record = y at hdecided
  have hending : y.endingOf m.cmd = some (.running, p) :=
    (hdecided.keeps.ending _).trans ((State.endingOf_congr (State.dropColl_cmds ..) _).trans hp)
  obtain ⟨hcolls, hpart⟩ := y.onHandle_leaves m.slot (y.moltHandle m) fun o => { o with doneUnits := o.totalUnits }
  obtain ⟨hends, hgone, hecolls, hepart⟩ := State.moltEnd_ends (s := y.onHandle m.slot (y.moltHandle m) fun o => { o with doneUnits := o.totalUnits })
    (m := m) hending (moltStatus x.record) 0
  obtain ⟨l, hl⟩ := hpart m.slot
  refine ⟨hends, hgone, State.coll_dropped (s := s) ?_, ?_, ?_, ?_⟩
  · exact hecolls.trans (hcolls.trans (hdecided.keeps.colls.trans (State.dropColl_colls ..)))
  · exact (hepart m.slot Part.stepState (fun _ => rfl) fun _ _ => rfl).trans ((congrArg Part.stepState hl).trans hdecided.state)
  · exact (hepart m.slot Part.doubt (fun _ => rfl) fun _ _ => rfl).trans ((congrArg Part.doubt hl).trans hdecided.doubt)
  · exact (hepart m.slot Part.lastPoint (fun _ => rfl) fun _ _ => rfl).trans ((congrArg Part.lastPoint hl).trans hdecided.last)

/-! ## A molt starts (R558 to R560) -/

theorem moltFixedBad_of_good {bs : List Byte} {joining : Bool} (h : moltBad bs joining = none) : moltFixedBad bs = none := by
  unfold moltBad at h
  split at h
  · cases h
  · assumption

theorem exec_molt_starts (hlive : s.nicLive = true) (hready : ready s id 0x62 c) (hmolt : s.molt id = none) :
    exec (.molt id) s = .next ((s.beginCmd c).moltStart c) := by
  change execMolt id s = _
  rw [execMolt, hlive, hmolt]
  dsimp only
  rw [if_neg (by simp), State.startOp_ready hready]

variable {s0 s1 s2 s3 s4 s5 : State} {bs vt rt : List Byte} {o n : Layout}

theorem State.moltStart_checks (hread : (s.openSegment c.slot c.handle c.id).descRead c.id c.slot c.payload 128 = (s1, some bs))
    (hfixed : moltFixedBad bs = none) (hold : s1.readLayout c (field bs 0x10 8) true = (s2, some (.ok o)))
    (hnew : s2.readLayout c (field bs 0x18 8) false = (s3, some (.ok n))) : s.moltStart c = s3.moltCheck c bs o n := by
  simp only [State.moltStart, hread, hfixed, hold, hnew]

/-- A member that does not join, with good layouts and tables, enters its boundary. -/
theorem State.moltCheck_enters (hself : o.self ≠ noIndex) (hbad : moltBad bs false = none) (hlayouts : layoutsBad bs o n = none)
    (horphan : o.orphan = none) (hext : recExternal c.record ≠ [])
    (hvt : s.descRead c.id c.slot (field bs 0x20 8) (8 * field bs 0x28 4) = (s1, some vt))
    (hrt : s1.descRead c.id c.slot (field bs 0x30 8) (8 * field bs 0x38 4) = (s2, some rt)) (hvbad : memberBad vt (field bs 0x28 4) = none)
    (hrbad : memberBad rt (field bs 0x38 4) = none) : s.moltCheck c bs o n = s2.moltEnter c bs o n vt rt := by
  have hjoin : (o.self == noIndex) = false := by simpa using hself
  have hwaits : (recExternal c.record).isEmpty = false := by simpa using hext
  rw [State.moltCheck, hjoin, hbad, hlayouts, horphan]
  dsimp only
  simp only [hwaits, hvt, hrt, hvbad, hrbad, Bool.false_eq_true, if_false, Option.isSome_none, Bool.not_false, Bool.true_and]

/-- The molt of a checked descriptor. -/
def State.moltOf (s : State) (c : Cmd) (bs : List Byte) (o n : Layout) (vt rt : List Byte) : Molt :=
  { cmd := c.id, slot := c.slot, forced := bitAt (field bs 0 1) 0, alg := field bs 1 1, tag := field bs 2 1
    newInstar := BitVec.ofNat 32 (field bs 4 4), step := BitVec.ofNat 64 (field bs 8 8), old := o, new := n
    vgroup := membersOf vt (field bs 0x28 4), vn := field bs 0x28 4, vself := field bs 0x2C 4
    rgroup := membersOf rt (field bs 0x38 4), rn := field bs 0x38 4, rself := field bs 0x3C 4
    limit := if field bs 0x40 4 = 0 then s.entry 0x6040 4 else field bs 0x40 4, result := field bs 0x48 8, phaseFrom := s.time }

/-- The command of a molt noted before its boundary, with its handle's units. -/
def State.moltNoted (s : State) (c : Cmd) (m : Molt) : State :=
  (match s.cmd c.id with
    | some k => s.setCmd { k with peer := true, deadline := none, whole := m.txBytes + m.rxBytes + m.copyBytes }
    | none => s).onHandle c.slot c.handle fun h => { h with totalUnits := ceilDiv (m.rxBytes + m.copyBytes) 1048576 + 1, doneUnits := 0, started := true }

/-- A molt among those of the engine, its brood joined and its command noted. -/
def State.moltJoined (s : State) (c : Cmd) (m : Molt) (brood : W32) : State :=
  { (s.joinBrood c.slot brood).moltNoted c m with molts := ((s.joinBrood c.slot brood).moltNoted c m).molts ++ [m] }

theorem State.moltEnter_eq (s : State) (c : Cmd) (bs : List Byte) (o n : Layout) (vt rt : List Byte) : s.moltEnter c bs o n vt rt =
    match s.moltFault (s.moltOf c bs o n vt rt) with
    | some e => s.endSegment c.slot c.handle c.id e.1 e.2
    | none => (if (s.moltOf c bs o n vt rt).forced then ((s.moltJoined c (s.moltOf c bs o n vt rt) o.brood).abandon c.slot).count 0x7076 (c.slot + 1) 1
        else s.moltJoined c (s.moltOf c bs o n vt rt) o.brood).moltBoundary (s.moltOf c bs o n vt rt) := rfl

theorem State.joinBrood_leaves (s : State) (slot : Nat) (b : W32) : (s.joinBrood slot b).molts = s.molts ∧
    ((s.joinBrood slot b).part slot).stepState = (s.part slot).stepState := by
  unfold State.joinBrood
  split
  · exact ⟨rfl, rfl⟩
  · exact ⟨rfl, by rw [State.part_setPart]⟩

theorem State.moltNoted_leaves (s : State) (c : Cmd) (m : Molt) : (s.moltNoted c m).molts = s.molts ∧
    ((s.moltNoted c m).part c.slot).stepState = (s.part c.slot).stepState := by
  unfold State.moltNoted
  rw [State.onHandle, State.setLongop, State.part_setPart]
  split <;> exact ⟨rfl, rfl⟩

/-- A molt that is not forced joins the molts of the engine, and waits at its boundary while a VOTE is VOTING. -/
theorem State.moltEnter_waits (hforced : (s.moltOf c bs o n vt rt).forced = false) (hfault : s.moltFault (s.moltOf c bs o n vt rt) = none)
    (hvoting : (s.part c.slot).stepState = .voting) :
    (s.moltEnter c bs o n vt rt).molts = s.molts ++ [s.moltOf c bs o n vt rt] ∧ ((s.moltEnter c bs o n vt rt).part c.slot).stepState = .voting := by
  obtain ⟨hbmolts, hbstate⟩ := s.joinBrood_leaves c.slot o.brood
  obtain ⟨hnmolts, hnstate⟩ := (s.joinBrood c.slot o.brood).moltNoted_leaves c (s.moltOf c bs o n vt rt)
  have hstate : ((s.moltJoined c (s.moltOf c bs o n vt rt) o.brood).part c.slot).stepState = .voting := hnstate.trans (hbstate.trans hvoting)
  rw [State.moltEnter_eq, hfault]
  dsimp only
  rw [if_neg (by simp [hforced]), State.moltBoundary, if_pos (.inl hstate)]
  refine ⟨?_, hstate⟩
  rw [State.moltJoined, hnmolts, hbmolts]

theorem exec_moltPhaseTimeout (hlive : s.nicLive = true) (hmolt : s.molt id = some m) (hcoll : s.coll id = some x) (hphase : m.phase ≠ .boundary)
    (hlate : m.phaseFrom + m.limit ≤ s.time) : exec (.moltPhaseTimeout id) s = .next (s.collFail x 0x040A 0 noRank) := by
  change execMoltPhaseTimeout id s = _
  rw [execMoltPhaseTimeout, hmolt, hcoll]
  exact when_of_true (by simp [hlive, hphase, hlate]) _

end

end Sys2Proof.Machine

namespace Sys2Proof.Machine

open Sys2Proof Sys2Proof.Safety

/-- Settles O26: the start up to its boundary, the commit through what deciding a point leaves, and the limit of a phase as an exchange that fails. -/
theorem molts : Obligations.Molts := by
  unfold Obligations.Molts
  intro s id c hlive hcmd
  refine ⟨fun s0 s1 s2 s3 s4 s5 bs vt rt o n x hready hmolt hs0 hread hold hnew hself hbad hlayouts horphan hext hvt hrt hvbad hrbad hx hforced hfault
      hvoting => ?start,
    fun m x hmolt hid hcoll hphase hacts hrun hlast => answers_molt_commits hlive hcmd hmolt hid hcoll hphase hacts hrun hlast,
    fun m x hmolt hcoll hphase hlate hrun hid => ?late⟩
  case start =>
    obtain rfl := ready_id hready
    subst hs0
    obtain rfl : x = s5.moltOf c bs o n vt rt := hx
    refine answers_of_exec ((exec_molt_starts hlive hready hmolt).trans (congrArg _ ((State.moltStart_checks hread (moltFixedBad_of_good hbad) hold
      hnew).trans (State.moltCheck_enters hself hbad hlayouts horphan hext hvt hrt hvbad hrbad)))) ?_
    exact State.moltEnter_waits hforced hfault hvoting
  case late =>
    refine answers_of_exec (exec_moltPhaseTimeout hlive hmolt hcoll hphase hlate) ?_
    obtain ⟨hends, hnone, hgone, -⟩ := State.collFail_fails hcoll hcmd hrun 0x040A 0 noRank
    exact ⟨hends, hgone, hnone⟩

end Sys2Proof.Machine

/-!
# UPDATE, row mode, fed updates, mirrors and STEP_RESYNC (R504 to R520)
-/
namespace Sys2Proof.Machine

open Sys2Proof Sys2Proof.Safety

section
variable {s t u : State} {id slot : Nat} {c d : Cmd} {x : Coll}

/-! ## Reads and writes of a command -/

theorem State.endCmd_stores (s : State) (id st d : Nat) : Stores s (s.endCmd id st d) := by
  rw [State.endCmd_rest]; exact .of_parts rfl rfl

theorem State.tlbTouch_stores (s : State) (k slot va : Nat) : Stores s (s.tlbTouch k slot va) := by
  unfold State.tlbTouch
  split
  · exact Stores.refl s
  · extract_lets page e rest r
    split
    · exact Stores.refl s
    · refine Stores.trans (t := State.setCore _ k _) ?_ (State.count_stores ..)
      dsimp only [r]
      split <;> exact .of_parts rfl rfl

theorem State.descTouch_stores (s : State) (id slot va n : Nat) : Stores s (s.descTouch id slot va n) := by
  unfold State.descTouch
  split
  · exact State.foldl_stores (fun x e => x.tlbTouch_stores ..) _ s
  · exact Stores.refl s

theorem State.chargeRead_stores (s : State) (id : Option Nat) (slot : Nat) (l : List (Nat × Nat)) : Stores s (s.chargeRead id slot l) := by
  induction l generalizing s with
  | nil => exact Stores.refl s
  | cons e l ih =>
    rw [State.chargeRead]
    split
    · exact Stores.refl s
    · exact ((s.reachLine_stores ..).trans (State.charge_stores ..)).trans (ih _)

theorem State.drawSpans_stores (s : State) (slot : Nat) (write : Bool) (l : List (Nat × Nat)) : Stores s (s.drawSpans slot write l) := by
  induction l generalizing s with
  | nil => exact Stores.refl s
  | cons e l ih =>
    rw [State.drawSpans]
    split
    · exact Stores.refl s
    · exact (State.drawTokens_stores ..).trans (ih _)

theorem State.notePoison_stores (s : State) (id addr : Nat) : Stores s (s.notePoison id addr) := by
  unfold State.notePoison
  split
  · exact Stores.refl s
  · split
    · exact State.setCmd_stores ..
    · exact Stores.refl s

theorem State.noteLowest_stores (s : State) (id addr : Nat) : Stores s (s.noteLowest id addr) := by
  unfold State.noteLowest
  split
  · exact Stores.refl s
  · exact State.setCmd_stores ..

theorem State.cmdRead_stores (s : State) (id slot va n : Nat) : Stores s (s.cmdRead id slot va n).1 := by
  unfold State.cmdRead
  split
  · exact State.endCmd_stores ..
  · dsimp only
    have hmetered : ∀ b : Bool, Stores s (if b = true then (s.chargeRead (some id) slot (lineSpans va n)).drawSpans slot false (lineSpans va n)
        else s.chargeRead (some id) slot (lineSpans va n)) := by
      intro b
      split
      · exact (State.chargeRead_stores ..).trans (State.drawSpans_stores ..)
      · exact State.chargeRead_stores ..
    split
    · exact (hmetered _).trans (State.notePoison_stores ..)
    · exact hmetered _

theorem State.descRead_stores (s : State) (id slot va n : Nat) : Stores s (s.descRead id slot va n).1 := by
  have hread := (s.descTouch_stores id slot va n).trans (State.cmdRead_stores _ id slot va n)
  unfold State.descRead
  split
  · next h => rw [h] at hread; exact hread
  · next h =>
    rw [h] at hread
    split
    · exact hread.trans (State.endCmd_stores ..)
    · exact hread

theorem State.cmdWrite_stores (s : State) (id slot va : Nat) (bs : List Byte) (bad : Bool) (cover : List (Nat × Nat)) :
    Stores s (s.cmdWrite id slot va bs bad cover).1 := by
  have hwrite := s.vwrite_stores (some id) slot va bs bad cover
  unfold State.cmdWrite
  split
  · next h => rw [h] at hwrite; exact hwrite
  · next h => rw [h] at hwrite; exact hwrite.trans (State.endCmd_stores ..)

theorem noteLowest_if (h : Stores s t) (b : Bool) (id a : Nat) : Stores s (if b = true then t.noteLowest id a else t) := by
  split
  · exact h.trans (State.noteLowest_stores ..)
  · exact h

/-! ## Elements and rows treated (R507, R514) -/

/-- What of an update its work leaves: whose it is, its partition and group, and what it treated before. -/
def Upd.name (v : Upd) : Nat × Nat × Nat × List (Nat × Nat) := (v.cmd, v.slot, v.tgroup, v.done)

/-- A result of an update's work: memory and counters alone changed, and the update keeps its name. -/
def Treats (s : State) (v : Upd) (r : State × Upd × Bool) : Prop := Stores s r.1 ∧ r.2.1.name = v.name

theorem Treats.refl (s : State) (v : Upd) (b : Bool) : Treats s v (s, v, b) := ⟨Stores.refl s, rfl⟩

theorem Treats.after {v w : Upd} {r : State × Upd × Bool} (h : Stores s t) (hv : w.name = v.name) (k : Treats t w r) : Treats s v r :=
  ⟨h.trans k.1, k.2.trans hv⟩

theorem treats_of {v w : Upd} (h : Stores s t) (hw : w.name = v.name) (b : Bool) : Treats s v (t, w, b) := ⟨h, hw⟩

theorem State.updRead_stores (s : State) (v : Upd) (va n : Nat) : Stores s (s.updRead v va n).1 := by
  unfold State.updRead
  split
  · exact State.endCmd_stores ..
  · exact State.chargeRead_stores ..

theorem stores_of_fst {α : Type} {r : State × α} {y : α} (h : r = (t, y)) (k : Stores s r.1) : Stores s t := by
  subst h; exact k

theorem State.updOne_treats (s : State) (v : Upd) (cover : List (Nat × Nat)) (e : Nat) : Treats s v (s.updOne v cover e) := by
  unfold State.updOne
  split
  · exact Treats.refl ..
  · dsimp only
    split
    · next h => exact treats_of (stores_of_fst h (State.updRead_stores ..)) rfl false
    · next s1 g h =>
      have h1 := stores_of_fst h (State.updRead_stores ..)
      split
      · next h => exact treats_of (h1.trans (stores_of_fst h (State.updRead_stores ..))) rfl false
      · next s2 w h =>
        have h2 := h1.trans (stores_of_fst h (State.updRead_stores ..))
        have hrest : ∀ r, r = (if v.mbf16 = true then s2.updRead v (v.r + 2 * e) 2 else (s2, some (0, false))) → Stores s2 r.1 := by
          rintro r rfl
          split
          · exact State.updRead_stores ..
          · exact Stores.refl s2
        split
        · next h => exact treats_of (h2.trans (stores_of_fst h (hrest _ rfl))) rfl false
        · next s3 r h =>
          have h3 := h2.trans (stores_of_fst h (hrest _ rfl))
          split
          · next h => exact treats_of (h3.trans (stores_of_fst h (State.cmdWrite_stores ..))) rfl false
          · next s4 h =>
            have h4 := h3.trans (stores_of_fst h (State.cmdWrite_stores ..))
            refine treats_of (h4.trans ?_) rfl _
            split
            · exact (noteLowest_if (Stores.refl s4) ..).trans (State.cmdWrite_stores ..)
            · exact noteLowest_if (Stores.refl s4) ..

theorem State.updRange_treats (cover : List (Nat × Nat)) (n : Nat) : ∀ (s : State) (v : Upd) (first : Nat), Treats s v (s.updRange v cover first n) := by
  induction n with
  | zero => exact fun s v _ => Treats.refl s v true
  | succ n ih =>
    intro s v first
    have hone := s.updOne_treats v cover first
    rw [State.updRange]
    split
    · next s1 u1 h =>
      rw [h] at hone
      exact Treats.after hone.1 hone.2 (ih s1 u1 (first + 1))
    · exact hone

theorem State.rowRead_stores (s : State) (v : Upd) (va : Nat) : Stores s (s.rowRead v va).1 := by
  unfold State.rowRead
  split
  · exact State.endCmd_stores ..
  · exact State.chargeRead_stores ..

theorem State.rowWrite_stores (v : Upd) (l : List (W32 × Bool × W32 × W32)) : ∀ (s : State) (va : Nat), Stores s (s.rowWrite v va l).1 := by
  induction l with
  | nil => exact fun s _ => Stores.refl s
  | cons e l ih =>
    intro s va
    rw [State.rowWrite]
    split
    · refine Stores.trans (noteLowest_if (State.cmdWrite_stores ..) ..) (ih _ _)
    · exact State.cmdWrite_stores ..

theorem State.rowOne_treats (s : State) (v : Upd) (k i : Nat) (again : Bool) : Treats s v (s.rowOne v k i again) := by
  unfold State.rowOne
  dsimp only
  split
  · next h => exact ⟨stores_of_fst h (State.rowRead_stores ..), rfl⟩
  · next s1 g h =>
    have h1 := stores_of_fst h (State.rowRead_stores ..)
    split
    · next h => exact ⟨h1.trans (stores_of_fst h (State.rowRead_stores ..)), rfl⟩
    · next s2 w h =>
      have h2 := h1.trans (stores_of_fst h (State.rowRead_stores ..))
      split
      · next h => exact ⟨h2.trans (stores_of_fst h (State.updRead_stores ..)), rfl⟩
      · next s3 st h =>
        have h3 := h2.trans (stores_of_fst h (State.updRead_stores ..))
        split
        · next h => exact ⟨h3.trans (stores_of_fst h (State.rowWrite_stores ..)), rfl⟩
        · next s4 h =>
          refine treats_of ((h3.trans (stores_of_fst h (State.rowWrite_stores ..))).trans (Stores.trans ?_ (State.count_stores ..))) rfl _
          exact State.cmdWrite_stores ..

theorem State.rowRange_treats (n : Nat) : ∀ (s : State) (v : Upd) (seen : List Nat) (k : Nat), Treats s v (s.rowRange v seen k n) := by
  induction n with
  | zero => exact fun s v _ _ => Treats.refl s v true
  | succ n ih =>
    intro s v seen k
    rw [State.rowRange]
    split
    · next h => exact ⟨stores_of_fst h (State.updRead_stores ..), rfl⟩
    · next s1 y h =>
      have h1 := stores_of_fst h (State.updRead_stores ..)
      split
      · exact Treats.after h1 rfl (ih s1 _ seen (k + 1))
      · split
        · exact Treats.after h1 rfl (ih s1 v seen (k + 1))
        · have hone := s1.rowOne_treats v k y.1 (seen.contains y.1)
          split
          · next s2 u1 h =>
            rw [h] at hone
            exact Treats.after (h1.trans hone.1) hone.2 (ih s2 u1 _ (k + 1))
          · exact ⟨h1.trans hone.1, hone.2⟩

/-! ## An update that ends (R508, R509, R515) -/

variable {v w : Upd}

theorem State.upd_cmd (h : s.upd id = some v) : v.cmd = id := by
  simpa using List.find?_some h

/-- An update found under its command, replaced. -/
theorem State.upd_setUpd (h : s.upd v.cmd = some w) : (s.setUpd v).upd v.cmd = some v := by
  have hmap : ∀ l : List Upd, l.find? (fun d => d.cmd == v.cmd) = some w →
      (l.map fun d => if d.cmd == v.cmd then v else d).find? (fun d => d.cmd == v.cmd) = some v := by
    intro l
    induction l with
    | nil => exact fun h => nomatch h
    | cons d l ih =>
      intro h
      cases hd : d.cmd == v.cmd with
      | true => simp only [List.map_cons, hd, if_true, List.find?_cons, beq_self_eq_true]
      | false =>
        simp only [List.find?_cons, hd] at h
        simp only [List.map_cons, hd, Bool.false_eq_true, if_false, List.find?_cons]
        exact ih h
  exact hmap s.upds h

theorem State.addSums_minor (s : State) (slot g : Nat) (dsq wsq : W32) (n : Nat) : Minor slot s (s.addSums slot g dsq wsq n) := by
  unfold State.addSums
  split
  · exact Minor.refl slot s
  · dsimp only
    split
    · exact Minor.refl slot s
    · exact s.setGroup_minor ..

/-- No element, no sum. -/
theorem State.addSums_none (s : State) (slot g : Nat) (dsq wsq : W32) : s.addSums slot g dsq wsq 0 = s := by
  unfold State.addSums
  split <;> rfl

/-- The sums of an update joined to its group, in the tables of its command. -/
def State.updSummed (s : State) (v : Upd) (id : Nat) : State :=
  let y : State := { s with upds := s.upds.filter fun d => d.cmd != id }
  ((y.setTables v.slot (y.tablesFor v.slot id)).addSums v.slot v.tgroup (sumIndexed 64 v.dsq) (sumIndexed 64 v.wsq) v.elements).setTables v.slot
    (y.tablesOf v.slot)

theorem State.dropUpd_eq (h : s.upd id = some v) : s.dropUpd id = ((s.updSummed v id).count 0x7050 (v.slot + 1) v.elements).setPart v.slot
    { ((s.updSummed v id).count 0x7050 (v.slot + 1) v.elements).part v.slot with
      collFlags := (((s.updSummed v id).count 0x7050 (v.slot + 1) v.elements).part v.slot).collFlags ||| v.flags } := by
  rw [State.dropUpd, h]
  rfl

/-- What joining the sums leaves: every other update, the commands, COLL_FLAGS and the count of elements. -/
theorem State.updSummed_leaves (s : State) (v : Upd) (id : Nat) : (s.updSummed v id).upds = (s.upds.filter fun d => d.cmd != id) ∧
    (∀ k, (s.updSummed v id).endingOf k = s.endingOf k) ∧ ((s.updSummed v id).part v.slot).collFlags = (s.part v.slot).collFlags ∧
    (v.slot < 16 → (s.updSummed v id).entry 0x7050 (v.slot + 1) = s.entry 0x7050 (v.slot + 1)) ∧
    (v.elements = 0 → (s.updSummed v id).hbm = s.hbm ∧ (s.updSummed v id).cxl = s.cxl) := by
  unfold State.updSummed
  dsimp only
  generalize hy : ({ s with upds := s.upds.filter fun d => d.cmd != id } : State) = y
  have hstart : y.upds = (s.upds.filter fun d => d.cmd != id) ∧ (∀ k, y.endingOf k = s.endingOf k) ∧ (∀ k, y.part k = s.part k) ∧
      y.dict = s.dict ∧ y.hbm = s.hbm ∧ y.cxl = s.cxl := by
    rw [← hy]
    exact ⟨rfl, fun _ => rfl, fun _ => rfl, rfl, rfl, rfl⟩
  obtain ⟨hupds, hending, hpart, hdict, hhbm, hcxl⟩ := hstart
  have htables := y.setTables_keeps v.slot (y.tablesFor v.slot id)
  have hflags : ((y.setTables v.slot (y.tablesFor v.slot id)).part v.slot).collFlags = (s.part v.slot).collFlags := by
    rw [State.setTables, State.part_setPart, hpart]
  have hsame : (y.setTables v.slot (y.tablesFor v.slot id)).hbm = s.hbm ∧ (y.setTables v.slot (y.tablesFor v.slot id)).cxl = s.cxl := ⟨hhbm, hcxl⟩
  generalize y.setTables v.slot (y.tablesFor v.slot id) = z at htables hflags hsame
  have hminor := z.addSums_minor v.slot v.tgroup (sumIndexed 64 v.dsq) (sumIndexed 64 v.wsq) v.elements
  have hkeeps := (htables.trans hminor.keeps).trans (State.setTables_keeps _ v.slot (y.tablesOf v.slot))
  refine ⟨(hkeeps.field State.upds fun _ => rfl).trans hupds, fun k => (hkeeps.ending k).trans (hending k), ?_, fun hslot => ?_, fun hn => ?_⟩
  · rw [State.setTables, State.part_setPart]
    exact (hminor.stores.partField v.slot Part.collFlags fun _ => rfl).trans hflags
  · refine (hkeeps.dict _ ?_).trans (State.dictGet_congr hdict _)
    simp only [pointCounters, dk, List.mem_cons, List.not_mem_nil, or_false]
    omega
  · rw [hn, State.addSums_none]
    exact hsame

/-- An update that leaves the engine: its flags join COLL_FLAGS, and its elements are counted. -/
theorem State.dropUpd_leaves (h : s.upd id = some v) : (s.dropUpd id).upd id = none ∧ (∀ k, (s.dropUpd id).endingOf k = s.endingOf k) ∧
    ((s.dropUpd id).part v.slot).collFlags = (s.part v.slot).collFlags ||| v.flags ∧
    (v.slot < 16 → (s.dropUpd id).entry 0x7050 (v.slot + 1) = s.entry 0x7050 (v.slot + 1) + v.elements) ∧
    (v.elements = 0 → (s.dropUpd id).hbm = s.hbm ∧ (s.dropUpd id).cxl = s.cxl) := by
  obtain ⟨hupds, hending, hflags, hentry, hmem⟩ := s.updSummed_leaves v id
  rw [State.dropUpd_eq h]
  generalize s.updSummed v id = y at hupds hending hflags hentry hmem
  have hrest := y.count_rest 0x7050 (v.slot + 1) v.elements
  have hcounted : (y.count 0x7050 (v.slot + 1) v.elements).entry 0x7050 (v.slot + 1) = y.entry 0x7050 (v.slot + 1) + v.elements := State.dictGet_count ..
  obtain ⟨q, hq⟩ := hrest
  rw [hq] at hcounted ⊢
  refine ⟨?_, hending, ?_, fun hslot => hcounted.trans (congrArg (· + v.elements) (hentry hslot)), hmem⟩
  · change List.find? _ y.upds = none
    rw [hupds, List.find?_eq_none]
    intro d hd
    simpa using List.of_mem_filter hd
  · rw [State.part_setPart]
    exact congrArg (· ||| v.flags) hflags

/-- A command that met nothing but a late status ends with it. -/
theorem State.finishCmd_late {k x : Nat} (hcmd : s.cmd c.id = some c) (hclean : clean c) (hrun : c.phase = .running) (st : Nat) :
    endedAs ((s.setCmd { c with late := some (st, k) }).finishCmd c.id x) c.id st k := by
  have hfound : (s.setCmd { c with late := some (st, k) }).cmd c.id = some { c with late := some (st, k) } :=
    State.cmd_setCmd (c := { c with late := some (st, k) }) hcmd
  have hpoison : c.poisoned = none := hclean.1
  generalize s.setCmd { c with late := some (st, k) } = y at hfound ⊢
  rw [State.finishCmd, hfound]
  dsimp only
  rw [hpoison]
  exact State.endCmd_ends st k hfound (not_ended_of_running (c := { c with late := some (st, k) }) hrun)

theorem State.updEnd_rest (s : State) (v : Upd) : s.updEnd v = { (s.setUpd v).dropUpd v.cmd with cmds := (s.updEnd v).cmds } := by
  unfold State.updEnd
  dsimp only
  split
  · rw [State.finishCmd_rest]; rfl
  · exact State.finishCmd_rest ..

theorem State.updEnd_ends (hupd : s.upd v.cmd = some w) (hclean : runsClean s v.cmd) :
    endedAs (s.updEnd v) v.cmd (if v.firstRange = none then 0 else 0x030A) (v.firstRange.getD 0) ∧ (s.updEnd v).upd v.cmd = none ∧
      ((s.updEnd v).part v.slot).collFlags = (s.part v.slot).collFlags ||| v.flags ∧
      (v.slot < 16 → (s.updEnd v).entry 0x7050 (v.slot + 1) = s.entry 0x7050 (v.slot + 1) + v.elements) ∧
      (v.elements = 0 → (s.updEnd v).hbm = s.hbm ∧ (s.updEnd v).cxl = s.cxl) := by
  obtain ⟨hgone, hending, hflags, hentry, hmem⟩ := State.dropUpd_leaves (State.upd_setUpd hupd)
  have hrest := s.updEnd_rest v
  refine ⟨?_, ?_⟩
  · have hruns : runsClean ((s.setUpd v).dropUpd v.cmd) v.cmd := (hending v.cmd).trans hclean
    unfold State.updEnd
    dsimp only
    cases hfirst : v.firstRange with
    | none => exact hruns.ends 0
    | some k =>
      obtain ⟨d, hd, hphase, hdclean⟩ := hruns.cmd
      have hid := State.cmd_id hd
      rw [hd]
      rw [← hid] at hd ⊢
      exact State.finishCmd_late hd hdclean hphase 0x030A
  · rw [hrest]
    exact ⟨hgone, hflags, hentry, hmem⟩

/-! ## UPDATE and ROW_MODE (R505 to R507, R512, R514) -/

variable {s1 s2 s3 : State} {bs : List Byte} {n : Nat}

/-- An UPDATE in the engine looks for its collective. -/
def State.bindFound (s : State) (id : Nat) : State :=
  match s.upd id with
  | some v => s.bind v
  | none => s

theorem exec_update (hlive : s.nicLive = true) (hupd : s.upd id = none) (hready : ready s id 0x52 c) (hrule : s.updRule c = some 0) :
    exec (.update id) s = .next (((s.beginCmd c).updStart c).bindFound id) := by
  change execUpdate id s = _
  rw [execUpdate, hready.1]
  dsimp only
  rw [if_neg (by simp [hlive]), hupd]
  dsimp only
  rw [hrule, if_neg (by simp), State.startOp_ready hready]
  cases h : ((s.beginCmd c).updStart c).upd id <;> simp only [State.bindFound, h]

theorem exec_rowMode (hlive : s.nicLive = true) (hready : ready s id 0x52 c) (hrule : s.updRule c = some 1) :
    exec (.rowMode id) s = .next ((s.beginCmd c).updStart c) := by
  change execRowMode id s = _
  rw [execRowMode, hready.1]
  dsimp only
  rw [if_pos (by simp [hlive, hrule]), State.startOp_ready hready]

theorem State.updStart_misaligned (h : c.payload % 16 ≠ 0) : s.updStart c = s.endCmd c.id 0x040C 0 := if_pos h

theorem State.updStart_bad {o : Nat} (h : c.payload % 16 = 0) (hread : s.descRead c.id c.slot c.payload 80 = (s1, some bs)) (hbad : updBad bs = some o) :
    s.updStart c = s1.endCmd c.id 0x040C o := by
  simp only [State.updStart, h, hread, hbad, ne_eq, not_true_eq_false, if_false]

/-- What a checked update does once it is in the engine. -/
def State.updRun (s : State) (id : Nat) (v : Upd) : State :=
  if v.frozen || v.count == 0 then s.updEnd v else
  if v.feed then s else
  match if v.rowMode then s.rowRange v [] 0 v.count else s.updRange v (s.updCover v) 0 v.count with
  | (s3, u1, true) => s3.updEnd u1
  | (s3, u1, false) => (s3.setUpd u1).dropUpd id

theorem State.updStart_runs (h : c.payload % 16 = 0) (hread : s.descRead c.id c.slot c.payload 80 = (s1, some bs)) (hbad : updBad bs = none)
    (hwaits : updWaits bs c.record = true) (hfault : s1.updFault c.slot (updOf bs) = none) (henter : s1.updEnter c (updOf bs) = (s2, v)) :
    s.updStart c = s2.updRun c.id v := by
  simp only [State.updStart, h, hread, hbad, hwaits, hfault, henter, ne_eq, not_true_eq_false, if_false, Bool.not_true, Bool.false_eq_true]
  rfl

/-- A checked update stands after those of the engine. -/
theorem State.updEnter_enters (henter : s1.updEnter c (updOf bs) = (s2, v)) :
    s2 = { s1 with upds := s1.upds ++ [v] } ∧ v.cmd = c.id ∧ v.slot = c.slot ∧
      v.rowMode = (field bs 0 1 == 1) ∧ v.firstRange = none ∧ v.elements = 0 := by
  obtain ⟨hs, hv⟩ := Prod.mk.inj henter
  subst hv
  exact ⟨hs.symm, rfl, rfl, rfl, rfl, rfl⟩

/-- The only update of its command is found where it stands last. -/
theorem State.upd_append (h : s1.upd v.cmd = none) : ({ s1 with upds := s1.upds ++ [v] } : State).upd v.cmd = some v := by
  rw [State.upd] at h ⊢
  simp [List.find?_append, h]

theorem State.upd_congr (h : t.upds = s.upds) (k : Nat) : t.upd k = s.upd k := by rw [State.upd, h, State.upd]

/-! ## The rows of an update (R505, R507, R510, R512) -/

theorem State.bindFound_none (h : s.upd id = none) : s.bindFound id = s := by rw [State.bindFound, h]

theorem State.bindFound_unbound (h : s.upd id = some v) (hsource : s.feedSource v = none) : s.bindFound id = s := by
  rw [State.bindFound, h]
  dsimp only
  rw [State.bind]
  split
  · rfl
  · rw [hsource]

/-- An update of rule 0 or 1 that starts: its row goes on as its work, bound to a collective where rule 0 left it in the engine. -/
theorem exec_updateRow {rule : Nat} {row : Instr} (hlive : s.nicLive = true) (hupd : s.upd id = none) (hready : ready s id 0x52 c)
    (hrule : s.updRule c = some rule) (hrow : rule = 0 ∧ row = .update id ∨ rule = 1 ∧ row = .rowMode id) :
    ∃ t, exec row s = .next t ∧ (t = ((s.beginCmd c).updStart c).bindFound id ∨ t = (s.beginCmd c).updStart c) := by
  rcases hrow with ⟨rfl, rfl⟩ | ⟨rfl, rfl⟩
  · exact ⟨_, exec_update hlive hupd hready hrule, .inl rfl⟩
  · exact ⟨_, exec_rowMode hlive hready hrule, .inr rfl⟩

theorem answers_updateRow {rule : Nat} {row : Instr} {P : State → Prop} (hlive : s.nicLive = true) (hupd : s.upd id = none) (hready : ready s id 0x52 c)
    (hrule : s.updRule c = some rule) (hrow : rule = 0 ∧ row = .update id ∨ rule = 1 ∧ row = .rowMode id)
    (hstart : (s.beginCmd c).updStart c = t) (hbound : t.bindFound id = t) (hP : P t) : answers row s P := by
  obtain ⟨y, hexec, hy⟩ := exec_updateRow hlive hupd hready hrule hrow
  rw [hstart, hbound, or_self] at hy
  subst hy
  exact answers_of_exec hexec hP

theorem State.beginCmd_upd (s : State) (c : Cmd) (id : Nat) : (s.beginCmd c).upd id = s.upd id := by
  rw [State.beginCmd_rest]; rfl

/-- A descriptor read leaves the updates of the engine. -/
theorem descRead_upd {va k : Nat} {o : Option (List Byte)} (h : s.descRead id slot va k = (t, o)) (j : Nat) : t.upd j = s.upd j :=
  State.upd_congr (stores_of_fst h (State.descRead_stores ..)).users.2.1 j

theorem State.endCmd_upd (s : State) (id st d j : Nat) : (s.endCmd id st d).upd j = s.upd j := by
  rw [State.endCmd_rest]; rfl

/-! ## A chunk of a fed update (R511) -/

theorem exec_feedChunk {first : Nat} (hlive : s.nicLive = true) (hupd : s.upd id = some v) (hrun : s.runningOp id 0x52 = some c)
    (hengine : s.engineWaits v.slot = false) (hfeed : v.feed = true) (hfed : v.fed.isSome = true) :
    exec (.feedChunk id first n) s = .next (s.feedChunk v first n) := by
  change execFeedChunk id first n s = _
  rw [execFeedChunk, hupd, hrun]
  dsimp only
  have hbind : s.bind v = s := if_pos (.inl hfed)
  rw [if_neg (by simp [hlive, hengine]), hbind, hupd]
  exact if_pos (by simp [hfeed, hfed])

theorem State.feedChunk_treats {first : Nat} (hpos : 0 < n) (hin : first + n ≤ v.count) (hfresh : ∀ e ∈ v.done, e.1 + e.2 ≤ first ∨ first + n ≤ e.1)
    (hready : s.fedReady v (v.grad + (if v.gbf16 then 2 else 4) * first) (v.grad + (if v.gbf16 then 2 else 4) * (first + n)) = true)
    (hrange : s.updRange v (s.updCover v) first n = (s1, w, true)) : s.feedChunk v first n =
      if v.count ≤ ({ w with done := w.done ++ [(first, n)] } : Upd).treated then (s1.peerDone v.cmd).updEnd { w with done := w.done ++ [(first, n)] }
      else s1.setUpd { w with done := w.done ++ [(first, n)] } := by
  have hall : (v.done.all fun e => decide (e.1 + e.2 ≤ first) || decide (first + n ≤ e.1)) = true := by
    rw [List.all_eq_true]
    exact fun e he => by simpa using hfresh e he
  have hgood : ¬ (n = 0 ∨ v.count < first + n ∨ (!v.done.all fun e => decide (e.1 + e.2 ≤ first) || decide (first + n ≤ e.1)) = true ∨
      (!s.fedReady v (v.grad + (if v.gbf16 then 2 else 4) * first) (v.grad + (if v.gbf16 then 2 else 4) * (first + n))) = true) := by
    rw [hall, hready]
    simp
    omega
  rw [State.feedChunk]
  dsimp only
  rw [if_neg hgood, hrange]

/-! ## Mirrors and STEP_RESYNC (R504, R506, R518) -/

theorem exec_mirror {row : Instr} {tx : Bool} (hlive : s.nicLive = true) (hready : ready s id 0x52 c)
    (hrow : tx = true ∧ row = .mirrorTx id ∨ tx = false ∧ row = .mirrorRx id) (hrule : s.updRule c = some (if tx then 2 else 3))
    (hplace : s.placeFor c = true) : exec row s = .next ((s.beginCmd c).mirrorStart c tx) := by
  have hmirror : ∀ rule, s.updRule c = some rule → s.mirrorRow id rule = (s.beginCmd c).mirrorStart c (rule == 2) := by
    intro rule h
    rw [State.mirrorRow, hready.1]
    dsimp only
    rw [if_pos (by simp [hlive, h, hplace]), State.startOp_ready hready]
  rcases hrow with ⟨rfl, rfl⟩ | ⟨rfl, rfl⟩
  · exact congrArg Host.Outcome.next (hmirror 2 hrule)
  · exact congrArg Host.Outcome.next (hmirror 3 hrule)

theorem State.mirrorStart_takes {tx : Bool} (h : c.payload % 16 = 0) (hread : s.descRead c.id c.slot c.payload 80 = (s1, some bs))
    (hbad : updBad bs = none) (hwaits : updWaits bs c.record = true) (hfault : s1.mirrorFault c.slot bs = none)
    (hcoll : s1.mirrorColl c bs tx = (s2, x)) : s.mirrorStart c tx = s2.takePlace c.id x := by
  simp only [State.mirrorStart, h, hread, hbad, hwaits, hfault, hcoll, ne_eq, not_true_eq_false, if_false, Bool.not_true, Bool.false_eq_true]

theorem exec_stepResync (hlive : s.nicLive = true) (hready : ready s id 0x53 c) : exec (.stepResync id) s = .next
    (if (s.beginCmd c).resyncBad c.slot c.record then (s.beginCmd c).fresh.2.endCmd id 0x040C (s.beginCmd c).fresh.1.toNat
      else ((s.beginCmd c).resyncGroups c.slot (recField c.record 0x68 2) (recField c.record 0x6A 2) (recField c.record 0x70 8)).finishCmd id 0) := by
  change execStepResync id s = _
  rw [execStepResync, if_neg (by simp [hlive]), State.startOp_ready hready]

theorem State.resyncGroups_writes (s : State) (slot first n value : Nat) : Writes s (s.resyncGroups slot first n value) := by
  unfold State.resyncGroups
  induction List.range n generalizing s with
  | nil => exact Writes.refl s
  | cons i l ih => exact (s.vwrite_writes none slot _ _).trans (ih _)

end

/-- Settles O48: each row through its start and what its work leaves of the engine. -/
theorem updates : Obligations.Updates := by
  unfold Obligations.Updates
  intro s id c hcmd hlive hfree
  have hnone : ready s id 0x52 c → s.upd id = none := fun h => hfree.resolve_right fun k => k h
  refine ⟨fun rule row s1 s2 s3 bs v u1 d hready hrule hmode hrow halign hread hbad hwaits hfault henter hslot => ?run,
    fun s1 bs o hready hrule halign hread hbad hrun => ?bad, fun row hready halign hrow => ?misaligned,
    fun v u1 s1 d first n hupd hrun hengine hfeed hfed hpos hin hfresh hfedReady hrange hd hclean hdrun hfirst => ?chunk,
    fun tx row s1 s2 bs x hready hrow hrule hplace halign hread hbad hwaits hfault hcoll hrun => ?mirror,
    fun hready hclean hgood => ?resync, fun hready hbad => ?refused⟩
  case run =>
    obtain rfl := ready_id hready
    have hstart := State.updStart_runs halign hread hbad hwaits hfault henter
    obtain ⟨hs2, hid, hvslot, hrowMode, hfirst, helements⟩ := State.updEnter_enters henter
    have hs1 : s1.upd v.cmd = none := by
      rw [descRead_upd hread, State.beginCmd_upd, hid]
      exact hnone hready
    have hs2upd : s2.upd v.cmd = some v := by rw [hs2]; exact State.upd_append hs1
    refine ⟨fun hstop hcmd2 hclean hdrun => ?_, fun hfrozen hcount hfeed hsource hrun => ?_, fun hfrozen hcount hfeed hrange hcmd3 hclean hdrun => ?_⟩
    · have hwork : s2.updRun c.id v = s2.updEnd v := if_pos (by simpa using hstop)
      obtain ⟨hends, hgone, -, -, hmem⟩ := State.updEnd_ends hs2upd (runsClean_of (hid ▸ hcmd2) hdrun hclean)
      rw [hfirst, hid] at hends
      rw [hid] at hgone
      refine answers_updateRow hlive (hnone hready) hready hrule hrow (hstart.trans hwork) (State.bindFound_none hgone) ⟨hends, ?_⟩
      rw [(hmem helements).1, (hmem helements).2, hs2]
      exact ⟨rfl, rfl⟩
    · have hwork : s2.updRun c.id v = s2 := (if_neg (by simp [hfrozen, hcount])).trans (if_pos hfeed)
      refine answers_updateRow hlive (hnone hready) hready hrule hrow (hstart.trans hwork)
        (State.bindFound_unbound (hid ▸ hs2upd) hsource) ⟨rfl, ?_, hrun⟩
      rw [hs2]
    · have htreats : Stores s2 s3 ∧ u1.name = v.name := by
        have hboth : Treats s2 v (if rule = 1 then s2.rowRange v [] 0 v.count else s2.updRange v (s2.updCover v) 0 v.count) := by
          split
          · exact State.rowRange_treats ..
          · exact State.updRange_treats ..
        rw [hrange] at hboth
        exact hboth
      obtain ⟨hstores, hname⟩ := htreats
      simp only [Upd.name, Prod.mk.injEq] at hname
      obtain ⟨hcmdEq, hslotEq, -⟩ := hname
      have hwork : s2.updRun c.id v = s3.updEnd u1 := by
        have hmodeEq : v.rowMode = decide (rule = 1) := by rw [hrowMode, hmode]; rfl
        have hsplit : (if v.rowMode = true then s2.rowRange v [] 0 v.count else s2.updRange v (s2.updCover v) 0 v.count) = (s3, u1, true) := by
          rw [hmodeEq]
          simpa using hrange
        rw [State.updRun, if_neg (by simp [hfrozen, hcount]), if_neg (by simp [hfeed]), hsplit]
      have hfound : s3.upd u1.cmd = some v := by
        rw [State.upd_congr hstores.users.2.1, hcmdEq]
        exact hs2upd
      have hid1 : u1.cmd = c.id := hcmdEq.trans hid
      obtain ⟨hends, hgone, hflags, hentry, -⟩ := State.updEnd_ends hfound (runsClean_of (hid1 ▸ hcmd3) hdrun hclean)
      rw [hid1] at hends hgone
      rw [hslotEq, hvslot] at hflags hentry
      exact answers_updateRow hlive (hnone hready) hready hrule hrow (hstart.trans hwork) (State.bindFound_none hgone)
        ⟨hends, hgone, hflags, hentry hslot⟩
  case bad =>
    obtain rfl := ready_id hready
    have hstart := State.updStart_bad halign hread hbad
    refine answers_updateRow hlive (hnone hready) hready hrule (.inl ⟨rfl, rfl⟩) hstart (State.bindFound_none ?_) ?_
    · rw [State.endCmd_upd, descRead_upd hread, State.beginCmd_upd]
      exact hnone hready
    · obtain ⟨e, he, hphase⟩ := hrun
      exact State.endCmd_ends _ _ he (not_ended_of_running hphase)
  case misaligned =>
    obtain rfl := ready_id hready
    have hstart : (s.beginCmd c).updStart c = (s.beginCmd c).endCmd c.id 0x040C 0 := State.updStart_misaligned halign
    have hgone : ((s.beginCmd c).endCmd c.id 0x040C 0).upd c.id = none := by
      rw [State.endCmd_upd, State.beginCmd_upd]
      exact hnone hready
    have hends : endedAs ((s.beginCmd c).endCmd c.id 0x040C 0) c.id 0x040C 0 := State.endCmd_ends _ _ (ready_begun hready) (not_ended_of_running rfl)
    rcases hrow with ⟨hrule, rfl⟩ | ⟨hrule, rfl⟩
    · exact answers_updateRow hlive (hnone hready) hready hrule (.inl ⟨rfl, rfl⟩) hstart (State.bindFound_none hgone) hends
    · exact answers_updateRow hlive (hnone hready) hready hrule (.inr ⟨rfl, rfl⟩) hstart (State.bindFound_none hgone) hends
  case chunk =>
    refine answers_of_exec (exec_feedChunk hlive hupd hrun hengine hfeed hfed) ?_
    have htreats := State.updRange_treats (s.updCover v) n s v first
    rw [hrange] at htreats
    obtain ⟨hstores, hname⟩ := htreats
    simp only [Upd.name, Prod.mk.injEq] at hname
    obtain ⟨hcmdEq, -, -, hdone⟩ := hname
    have hid := State.upd_cmd hupd
    have hid1 : u1.cmd = id := hcmdEq.trans hid
    have hcount : ({ u1 with done := u1.done ++ [(first, n)] } : Upd).treated = v.treated + n := by
      simp [Upd.treated, hdone]
    have hfound : s1.upd u1.cmd = some v := by
      rw [State.upd_congr hstores.users.2.1, hid1]
      exact hupd
    rw [State.feedChunk_treats hpos hin hfresh hfedReady hrange, hcount]
    refine ⟨fun hlast => ?_, fun hmore => ?_⟩
    · rw [if_pos hlast]
      have hpeer : (s1.peerDone v.cmd).upd u1.cmd = some v := by
        rw [State.peerDone_rest]
        exact hfound
      have hruns : runsClean (s1.peerDone v.cmd) u1.cmd :=
        ((State.peerDone_writes ..).2 _).trans (runsClean_of (hid1 ▸ hd) hdrun hclean)
      have hdone2 : ({ u1 with done := u1.done ++ [(first, n)] } : Upd).firstRange = none := hfirst
      rw [← hid1]
      generalize hu2 : ({ u1 with done := u1.done ++ [(first, n)] } : Upd) = u2 at hdone2 ⊢
      have hid2 : u2.cmd = u1.cmd := by rw [← hu2]
      rw [← hid2] at hpeer hruns ⊢
      obtain ⟨hends, hgone, -⟩ := State.updEnd_ends hpeer hruns
      rw [hdone2, if_pos rfl] at hends
      exact ⟨hends, hgone⟩
    · rw [if_neg (by omega), ← hid1]
      exact ⟨State.upd_setUpd (v := { u1 with done := u1.done ++ [(first, n)] }) hfound, rfl, rfl⟩
  case mirror =>
    obtain rfl := ready_id hready
    refine answers_of_exec ((exec_mirror hlive hready hrow hrule hplace).trans (congrArg _ (State.mirrorStart_takes halign hread hbad hwaits hfault hcoll))) ?_
    obtain ⟨hplaced, hrest⟩ := State.takePlace_takes hrun x
    refine ⟨by rw [hrest], hplaced, ?_⟩
    obtain ⟨-, rfl⟩ := Prod.mk.inj hcoll
    rfl
  case resync =>
    refine answers_of_exec (exec_stepResync hlive hready) ?_
    rw [hgood, if_neg (by simp)]
    have hruns : runsClean (s.beginCmd c) id := runsClean_of (ready_begun hready) rfl hclean
    refine ⟨?_, State.finishCmd_rest ..⟩
    exact runsClean.ends (((State.resyncGroups_writes ..).2 id).trans hruns) 0
  case refused =>
    refine answers_of_exec (exec_stepResync hlive hready) ?_
    rw [hbad, if_pos rfl]
    exact ⟨_, State.endCmd_ends _ _ (ready_begun hready) (not_ended_of_running rfl)⟩

end Sys2Proof.Machine

/-!
# COLLECTIVE, its chunks and its time limit (R462 to R486)
-/
namespace Sys2Proof.Machine

open Sys2Proof Sys2Proof.Safety

section
variable {s t u : State} {id slot f n : Nat} {c d : Cmd} {x y : Coll}

/-! ## COLLECTIVE starts (R464, R483) -/

theorem exec_collective (hlive : s.nicLive = true) (hready : ready s id 0x50 c) (hplace : s.placeFor c = true) :
    exec (.collective id) s = .next ((s.beginCmd c).collStart c) := by
  change execCollective id s = _
  rw [execCollective, hready.1]
  dsimp only
  rw [if_pos (by simp [hlive, hplace]), State.startOp_ready hready]

theorem State.collStart_misaligned (h : c.payload % 64 ≠ 0) : s.collStart c = s.endCmd c.id 0x0408 0 := if_pos h

section
variable {s0 s1 s2 s3 : State} {bs tbl cs : List Byte} (halign : c.payload % 64 = 0)
  (hread : s.descRead c.id c.slot c.payload 128 = (s0, some bs)) (hs1 : s1 = s0.aimAlias c.id c.slot (collOf bs).dst)
include halign hread hs1

theorem State.collStart_bad {o : Nat} (hbad : collBad bs = some o) : s.collStart c = s1.endCmd c.id 0x0408 o := by
  subst hs1
  simp only [State.collStart, halign, hread, hbad, ne_eq, not_true_eq_false, if_false]

theorem State.collStart_alone (hbad : collBad bs = none) (hn : 1 < (collOf bs).n) (hext : recExternal c.record = []) :
    s.collStart c = s1.endCmd c.id 0x0408 0x80 := by
  subst hs1
  simp only [State.collStart, halign, hread, hbad, hn, hext, ne_eq, not_true_eq_false, if_false, List.isEmpty_nil, and_self, if_true]

/-- The exchange of a COLLECTIVE, its acts planned. -/
def State.collPlanned (s2 s3 : State) (c : Cmd) (bs tbl cs : List Byte) : Coll :=
  let d := collOf bs
  let base := s2.joined { d with outBytes := d.dstBytes, waitUntil := s2.waitEnd c (field bs 0x44 4) } c.id c.slot (membersOf tbl d.n)
    (reached (field bs 1 1) d.n d.self) (field bs 0x0C 1)
  let counts := countsOf cs d.n
  { base with acts := base.plan (field bs 1 1) counts, handoff := if d.op ≠ 3 ∨ d.n ≠ 2 then 0 else if counts.getD (1 - d.self) 0 = 0 then 2 else 1
              thresh := s3.entry 0x6040 3, srAfter := s3.entry 0x6040 1 }

theorem State.collStart_takes (hbad : collBad bs = none) (hext : 1 < (collOf bs).n → recExternal c.record ≠ [])
    (htbl : s1.descRead c.id c.slot (field bs 0x28 8) (8 * (collOf bs).n) = (s2, some tbl)) (hfault : s2.collFault c bs tbl = none)
    (hcs : (if (collOf bs).op = 3 then s2.descRead c.id c.slot (field bs 0x48 8) (4 * (collOf bs).n) else (s2, some [])) = (s3, some cs)) :
    s.collStart c = s3.takePlace c.id (s2.collPlanned s3 c bs tbl cs) := by
  subst hs1
  have hwaits : ¬ (1 < (collOf bs).n ∧ (recExternal c.record).isEmpty = true) := by
    rintro ⟨hn, he⟩
    exact hext hn (List.isEmpty_iff.mp he)
  simp only [State.collStart, halign, hread, hbad, htbl, hfault, hcs, hwaits, ne_eq, not_true_eq_false, if_false]
  rfl

end

theorem running_ends (h : running s id) (st d : Nat) : endedAs (s.endCmd id st d) id st d := by
  obtain ⟨c, hcmd, hrun⟩ := h
  exact State.endCmd_ends st d hcmd (not_ended_of_running hrun)

/-- A plan reads neither the acts of its exchange nor what its end is counted by. -/
theorem Coll.plan_acts (x : Coll) (alg : Nat) (counts : List Nat) (l : List Act) (h a b : Nat) :
    ({ x with acts := l, handoff := h, thresh := a, srAfter := b } : Coll).plan alg counts = x.plan alg counts := rfl

/-! ## A chunk's ring slots freed (R448, R491) -/

theorem State.freeSlot_sent (s : State) (f : Nat) : Sent s (s.freeSlot f) := by
  unfold State.freeSlot
  dsimp only
  split
  · exact (State.setFlow_sent ..).trans (State.sendAck_sent ..)
  · exact State.setFlow_sent ..

theorem State.freeSlot_rxFree (s : State) (f : Nat) : ((s.freeSlot f).flow f).rxFree = psnNext (s.flow f).rxFree := by
  unfold State.freeSlot
  dsimp only
  generalize hy : s.setFlow f _ = y
  have hfreed : (y.flow f).rxFree = psnNext (s.flow f).rxFree := by
    rw [← hy, State.setFlow_flow, if_pos rfl]
  split
  · obtain ⟨last, credit, h⟩ := y.sendAck_flows f 1
    rw [h, if_pos rfl]
    exact hfreed
  · exact hfreed

theorem State.freeChunk_succ (s : State) (f n : Nat) : s.freeChunk f (n + 1) = (s.freeChunk f n).freeSlot f := by
  rw [State.freeChunk, List.range_succ, List.foldl_append]
  rfl

theorem State.freeChunk_sent (s : State) (f n : Nat) : Sent s (s.freeChunk f n) := by
  induction n with
  | zero => exact Sent.refl s
  | succ n ih => rw [State.freeChunk_succ]; exact ih.trans (State.freeSlot_sent ..)

theorem State.freeChunk_rxFree (s : State) (f : Nat) (l : List (Nat × RxPkt)) :
    ((s.freeChunk f l.length).flow f).rxFree = l.foldl (fun p _ => psnNext p) (s.flow f).rxFree := by
  induction l using List.reverseRecOn with
  | nil => rfl
  | append_singleton l e ih => rw [List.length_append, List.length_singleton, State.freeChunk_succ, State.freeSlot_rxFree, ih, List.foldl_append]; rfl

/-- Consuming a chunk changes flows, what is sent, and the count of payload received. -/
theorem State.consume_leaves (s : State) (x : Coll) (f n : Nat) : (s.consume x f n).cmds = s.cmds ∧ (s.consume x f n).colls = s.colls ∧
    (s.consume x f n).flows = (s.freeChunk f n).flows ∧ ∀ k, k ≠ dk 0x7042 (x.slot + 1) → (s.consume x f n).dictGet k = s.dictGet k := by
  obtain ⟨hcmds, hdict, hcolls, -⟩ := (s.freeChunk_sent f n).rest
  unfold State.consume
  split
  · refine ⟨(State.count_cmds ..).trans hcmds, (State.count_stores ..).users.1.trans hcolls, (State.count_net ..).1, fun k hk => ?_⟩
    rw [State.dictGet_count_other _ _ hk]
    exact State.dictGet_congr hdict k
  · exact ⟨hcmds, hcolls, rfl, fun k _ => State.dictGet_congr hdict k⟩

theorem State.coll_congr (h : t.colls = s.colls) (k : Nat) : t.coll k = s.coll k := by rw [State.coll, h, State.coll]

/-! ## CHUNK_SERVE (R472, R482, R486) -/

theorem exec_chunkServe (hcoll : s.coll id = some x) (hcmd : s.cmd id = some c) (hlive : s.nicLive = true) (hfirst : s.firstInOrder c = true)
    (hengine : s.engineWaits c.slot = false) : exec (.chunkServe id) s = .next (s.serve x) := by
  change execChunkServe id s = _
  rw [execChunkServe, hcoll, hcmd]
  exact if_pos (by simp [hlive, hfirst, hengine])

/-- An exchange that fails on a chunk frees the chunk first. -/
theorem State.serve_failed {st e r : Nat} (hwork : s.work x = some (.failed f n st e r)) : s.serve x = (s.consume x f n).collFail x st e r := by
  rw [State.serve, hwork]

theorem answers_chunkServe_failed {st e r : Nat} (hcoll : s.coll id = some x) (hcmd : s.cmd id = some c) (hlive : s.nicLive = true)
    (hfirst : s.firstInOrder c = true) (hengine : s.engineWaits c.slot = false) (hrun : c.phase = .running) (hslot : x.slot < 16)
    (hwork : s.work x = some (.failed f n st e r)) : answers (.chunkServe id) s fun t => endedAs t id st e ∧ t.coll id = none ∧
      t.entry 0x7044 (x.slot + 1) = s.entry 0x7044 (x.slot + 1) + 1 := by
  refine answers_of_exec (exec_chunkServe hcoll hcmd hlive hfirst hengine) ?_
  obtain ⟨hcmds, hcolls, -, hdict⟩ := s.consume_leaves x f n
  rw [State.serve_failed hwork]
  obtain ⟨hends, hnone, -, hentry⟩ := State.collFail_fails ((State.coll_congr hcolls id).trans hcoll) ((State.cmd_congr hcmds id).trans hcmd) hrun st e r
  refine ⟨hends, hnone, (hentry hslot).trans (congrArg (· + 1) (hdict _ ?_))⟩
  simp [dk]

/-! ## Ring slots that stay as they are -/

/-- The oldest unfreed ring slot of every flow is as it was. -/
structure SameRings (s t : State) : Prop where
  slot : ∀ g, (t.flow g).rxFree = (s.flow g).rxFree

theorem SameRings.refl (s : State) : SameRings s s := ⟨fun _ => rfl⟩

theorem SameRings.trans (h : SameRings s t) (k : SameRings t u) : SameRings s u := ⟨fun g => (k.slot g).trans (h.slot g)⟩

theorem SameRings.of_flows (h : t.flows = s.flows) : SameRings s t := ⟨fun g => by rw [State.flow, h, State.flow]⟩

theorem Stores.flows (h : Stores s t) : t.flows = s.flows := h.field State.flows fun _ => rfl

theorem Stores.rings (h : Stores s t) : SameRings s t := .of_flows h.flows

theorem State.setFlow_rings {v : Flow} (h : v.rxFree = (s.flow f).rxFree) : SameRings s (s.setFlow f v) := ⟨fun g => by
  rw [State.setFlow_flow]
  split
  · subst g; exact h
  · rfl⟩

/-- A command's packets out of a flow's transmitter. -/
def State.unqueue (s : State) (f id : Nat) : State := s.setFlow f { s.flow f with txQueue := (s.flow f).txQueue.filter fun k => k.cmd != id }

theorem State.unqueue_rings (s : State) (f id : Nat) : SameRings s (s.unqueue f id) := State.setFlow_rings rfl

theorem State.queueTx_rings (s : State) (f : Nat) (l : List TxPkt) : SameRings s (s.queueTx f l) := State.setFlow_rings rfl

theorem State.foldl_rings {α : Type} {g : State → α → State} (h : ∀ x a, SameRings x (g x a)) (l : List α) (s : State) : SameRings s (l.foldl g s) :=
  List.foldlRecOn l g (motive := SameRings s) (SameRings.refl s) fun x hx a _ => hx.trans (h x a)

theorem State.sendAborts_rings (s : State) (x : Coll) (rank st : Nat) : SameRings s (s.sendAborts x rank st) := by
  refine State.foldl_rings (fun y f => ?_) _ s
  dsimp only
  split
  · exact (y.unqueue_rings f x.cmd).trans (State.queueTx_rings ..)
  · exact y.unqueue_rings f x.cmd

theorem State.dropColl_flows (s : State) (id : Nat) : (s.dropColl id).flows = s.flows := by
  obtain ⟨_, _, e⟩ := s.dropColl_rest id
  rw [e]

theorem State.collUndone_flows (s : State) (x : Coll) : (s.collUndone x).flows = s.flows := by
  have e : ∀ y : State, y.outline.flows = y.flows := fun _ => rfl
  rw [← e, (s.collUndone_undoes x).rest, e]

theorem State.collFail_rings (s : State) (x : Coll) (st d rank : Nat) : SameRings s (s.collFail x st d rank) := by
  refine (s.sendAborts_rings x rank st).trans (.of_flows ?_)
  rw [State.collFail_eq]
  exact (State.collUndone_flows ..).trans ((State.collAborted_stores ..).flows.trans (State.dropColl_flows ..))

theorem State.collStop_rings (s : State) (x : Coll) (st d : Nat) : SameRings s (s.collStop x st d) := by
  refine (State.foldl_rings (fun y f => y.unqueue_rings f x.cmd) x.flows s).trans (.of_flows ?_)
  exact (State.collUndone_flows ..).trans ((State.endCmd_stores ..).flows.trans (State.dropColl_flows ..))

/-! ## A chunk taken leaves every other slot -/

theorem State.putOut_stores (s : State) (x : Coll) (va : Nat) (bs : List Byte) (bad : Bool) : Stores s (s.putOut x va bs bad).1 := by
  unfold State.putOut
  dsimp only
  split
  · exact (State.cmdWrite_stores ..).trans (State.noteLowest_stores ..)
  · exact State.cmdWrite_stores ..

theorem State.chargeOwn_stores (s : State) (x : Coll) (lo n : Nat) : Stores s (s.chargeOwn x lo n) := State.chargeRead_stores ..

theorem State.sumPackets_stores (a : Act) (hd : RxPkt) (l : List (List Byte × Bool)) :
    ∀ (s : State) (x : Coll) (i : Nat), Stores s (s.sumPackets x a hd i l).1 := by
  induction l with
  | nil => exact fun s _ _ => Stores.refl s
  | cons p l ih =>
    intro s x i
    rw [State.sumPackets]
    dsimp only
    split
    · exact Stores.refl s
    · split
      · exact State.endCmd_stores ..
      · next r _ =>
        have hcharged : ∀ (b : Bool) (lo m k : Nat), Stores s ((if b = true then s.chargeOwn x lo m else s).count 0x7043 (x.slot + 1) k) := by
          intro b lo m k
          refine Stores.trans ?_ (State.count_stores ..)
          split
          · exact State.chargeOwn_stores ..
          · exact Stores.refl s
        split
        · split
          · next h => exact ((hcharged ..).trans (stores_of_fst h (State.putOut_stores ..))).trans (ih _ _ _)
          · next h => exact (hcharged ..).trans (stores_of_fst h (State.putOut_stores ..))
        · exact (hcharged ..).trans (ih _ _ _)

theorem State.rxSum_rings (s : State) (x : Coll) (a : Act) (hd : RxPkt) (l : List (List Byte × Bool)) : SameRings s (s.rxSum x a hd l).1 :=
  .of_flows (State.sumPackets_stores a hd l s x 0).flows

theorem State.countMoved_stores (s : State) (x : Coll) (n : Nat) (tx : Bool) : Stores s (s.countMoved x n tx) := by
  unfold State.countMoved
  split
  · exact State.count_stores ..
  · split
    · exact State.count_stores ..
    · exact Stores.refl s
  · exact State.count_stores ..
  · exact Stores.refl s

theorem State.headWrong_rings (s : State) (x : Coll) (a : Act) : SameRings s (s.headWrong x a) := by
  unfold State.headWrong
  split <;> exact State.collFail_rings ..

theorem State.movePacket_rings (s : State) (x : Coll) (a : Act) (p : List Byte × Bool) : SameRings s (s.movePacket x a p).1 := by
  have hput : ∀ (b : Bool) (va : Nat) (l : List Byte), SameRings s (if b = true then (s, true) else s.putOut x va l p.2).1 := by
    intro b va l
    split
    · exact SameRings.refl s
    · exact (State.putOut_stores ..).rings
  unfold State.movePacket
  extract_lets total bs h
  split
  · exact State.headWrong_rings ..
  · exact hput ..

theorem State.movePackets_rings (l : List (List Byte × Bool)) : ∀ (s : State) (x : Coll) (a : Act), SameRings s (s.movePackets x a l).1 := by
  induction l with
  | nil => exact fun s _ _ => SameRings.refl s
  | cons p l ih =>
    intro s x a
    have hone := s.movePacket_rings x a p
    rw [State.movePackets]
    split
    · next h =>
      rw [h] at hone
      exact hone.trans (ih _ _ _)
    · exact hone

theorem State.rxMove_rings (s : State) (x : Coll) (a : Act) (l : List (List Byte × Bool)) : SameRings s (s.rxMove x a l).1 := by
  unfold State.rxMove
  extract_lets first len a0 x0 w
  have hlength : SameRings s w.1 := by
    dsimp only [w]
    split
    · exact (State.cmdWrite_stores ..).rings
    · exact SameRings.refl s
  split
  · exact hlength
  · have hmoved := State.movePackets_rings l w.1 x0 a0
    split
    next h =>
    rw [h] at hmoved
    exact (hlength.trans hmoved).trans (State.countMoved_stores ..).rings

theorem State.applySync_rings (s : State) (slot : Nat) (r : List Byte) : SameRings s (s.applySync slot r).1 := by
  have hone : ∀ (l : List Nat) (e : State × Bool), SameRings e.1 (l.foldl (fun (e : State × Bool) i =>
      let t := field r (8 + 40 * i) 2
      if t = 0 then e
      else if (e.1.part slot).trackerBase = 0 ∨ 4095 < t then (e.1, false)
      else match e.1.vwrite none slot ((e.1.part slot).trackerVa t) ((r.drop (16 + 40 * i)).take 32) with
        | (s1, none) => (s1, e.2)
        | (s1, some _) => (s1, false)) e).1 := by
    intro l
    induction l with
    | nil => exact fun e => SameRings.refl e.1
    | cons i l ih =>
      intro e
      rw [List.foldl_cons]
      refine SameRings.trans ?_ (ih _)
      dsimp only
      split
      · exact SameRings.refl e.1
      · split
        · exact SameRings.refl e.1
        · split
          · next h => exact (stores_of_fst h (State.vwrite_stores ..)).rings
          · next h => exact (stores_of_fst h (State.vwrite_stores ..)).rings
  exact hone (List.range 32) (s, true)

theorem State.rxSync_rings (s : State) (x : Coll) (a : Act) (l : List (List Byte × Bool)) : SameRings s (s.rxSync x a l).1 := by
  unfold State.rxSync
  dsimp only
  split
  · exact SameRings.refl s
  · exact ⟨(State.applySync_rings (s.setTables x.slot (s.tablesFor x.slot x.cmd)) x.slot _).slot⟩

/-- The work on a chunk that has left its ring. -/
def State.chunkWork (s : State) (x : Coll) (a : Act) (hd : RxPkt) (ps : List (List Byte × Bool)) : State × Coll :=
  match a.kind with
  | .sum | .last => s.rxSum x a hd ps
  | .vote | .result => (s, rxVote x a hd (ps.headD ([], false)).1)
  | .sync => s.rxSync x a ps
  | _ => s.rxMove x a ps

theorem State.chunkWork_rings (s : State) (x : Coll) (a : Act) (hd : RxPkt) (ps : List (List Byte × Bool)) : SameRings s (s.chunkWork x a hd ps).1 := by
  unfold State.chunkWork
  split
  · exact State.rxSum_rings ..
  · exact State.rxSum_rings ..
  · exact SameRings.refl s
  · exact SameRings.refl s
  · exact State.rxSync_rings ..
  · exact State.rxMove_rings ..

/-- A chunk whose packets can all be read leaves its ring, and its act is worked on. -/
theorem State.takeChunk_works {a : Act} {l : List (Nat × RxPkt)} (h : ∀ e ∈ l, (s.ringRead f e.1 e.2).isSome = true) :
    ∃ x1 hd ps, s.takeChunk x f a l =
      ((s.consume x f l.length).chunkWork x1 a hd ps).1.setColl ((s.consume x f l.length).chunkWork x1 a hd ps).2 := by
  have hread : ¬ ((l.map fun e => s.ringRead f e.1 e.2).any fun r => r.isNone) = true := by
    simp only [List.any_map, List.any_eq_true, not_exists, not_and]
    intro e he hnone
    have := h e he
    simp only [Function.comp] at hnone
    rw [Option.isNone_iff_eq_none.mp hnone] at this
    cases this
  exact ⟨_, _, _, if_neg hread⟩

/-! ## What follows a piece of work -/

theorem State.peerTouch_writes (s : State) (id : Nat) : Writes s (s.peerTouch id) := by
  unfold State.peerTouch
  split
  · exact Writes.refl s
  · next c hcmd =>
    obtain rfl := State.cmd_id hcmd
    split
    · exact State.setCmd_writes (d := { c with peerAt := s.time }) hcmd rfl
    · exact Writes.refl s

/-- What an update bound to an exchange is told leaves flows and the ends of commands alone. -/
theorem State.feedTouch_writes (s : State) (x : Coll) : Writes s (s.feedTouch x) := by
  have hfold : ∀ (l : List Upd) (y : State), Writes y (l.foldl (fun s u =>
      let left := fun (c : Coll) => c.writers u.grad (u.grad + u.gradBytes)
      match s.coll x.cmd with
      | some c => if left c = left x then s else if (left c).isEmpty then (s.peerTouch u.cmd).peerDone u.cmd else s.peerTouch u.cmd
      | none => (s.peerTouch u.cmd).peerDone u.cmd) y) := by
    intro l
    induction l with
    | nil => exact Writes.refl
    | cons v l ih =>
      intro y
      rw [List.foldl_cons]
      refine Writes.trans ?_ (ih _)
      dsimp only
      split
      · split
        · exact Writes.refl y
        · split
          · exact (State.peerTouch_writes ..).trans (State.peerDone_writes ..)
          · exact State.peerTouch_writes ..
      · exact (State.peerTouch_writes ..).trans (State.peerDone_writes ..)
  exact hfold _ s

theorem State.moltUnits_writes (s : State) (x : Coll) : Writes s (s.moltUnits x) := by
  unfold State.moltUnits
  split
  · exact Writes.refl s
  · split
    · exact Writes.refl s
    · exact .of_eq rfl rfl

theorem State.endCmd_flows (s : State) (id st d : Nat) : (s.endCmd id st d).flows = s.flows := by
  rw [State.endCmd_rest]

theorem State.finishCmd_flows (s : State) (id d : Nat) : (s.finishCmd id d).flows = s.flows := by
  rw [State.finishCmd_rest]

/-- The end of an exchange whose command has not ended leaves every flow; else what it has queued is dropped. -/
theorem State.collEnd_cases (s : State) (id : Nat) :
    (s.collEnd id).flows = s.flows ∨ ∃ x k a b, s.coll id = some x ∧ s.cmd id = some k ∧ k.phase = .ended a b ∧ s.collEnd id = s.collStop x 0 0 := by
  unfold State.collEnd
  split
  · exact .inl rfl
  · next x hcoll =>
    split
    · exact .inl (State.dropColl_flows ..)
    · next k hcmd =>
      split
      · next a b hphase => exact .inr ⟨x, k, a, b, hcoll, hcmd, hphase, rfl⟩
      · refine .inl ?_
        have hsettled : ((s.moltUnits x).settlePeer id).flows = s.flows := ((s.moltUnits_writes x).trans (State.settlePeer_writes ..)).1
        dsimp only
        generalize (s.moltUnits x).settlePeer id = y at hsettled
        split
        · exact hsettled
        · split
          · split
            · exact (State.endCmd_flows ..).trans ((State.dropColl_flows ..).trans hsettled)
            · split
              · split
                · exact (State.finishCmd_flows ..).trans ((State.dropColl_flows ..).trans hsettled)
                · exact (State.endCmd_flows ..).trans ((State.dropColl_flows ..).trans hsettled)
              · exact (State.finishCmd_flows ..).trans ((State.dropColl_flows ..).trans hsettled)
          · exact (State.finishCmd_flows ..).trans ((State.dropColl_flows ..).trans hsettled)
          · exact (State.finishCmd_flows ..).trans ((State.dropColl_flows ..).trans hsettled)
          · exact hsettled

theorem State.collEnd_rings (s : State) (id : Nat) : SameRings s (s.collEnd id) := by
  rcases s.collEnd_cases id with h | ⟨x, -, -, -, -, -, -, h⟩
  · exact .of_flows h
  · rw [h]; exact State.collStop_rings ..

/-- The end of an exchange whose command runs leaves every flow. -/
theorem State.collEnd_running {p : Option Nat × Option (Nat × Nat)} (h : s.endingOf id = some (.running, p)) : (s.collEnd id).flows = s.flows := by
  rcases s.collEnd_cases id with e | ⟨x, k, a, b, -, hcmd, hphase, -⟩
  · exact e
  · rw [State.endingOf, hcmd, Option.map_some, Cmd.ending, hphase] at h
    cases h

theorem answers_chunkServe_take {a : Act} {l : List (Nat × RxPkt)} (hcoll : s.coll id = some x) (hcmd : s.cmd id = some c) (hlive : s.nicLive = true)
    (hfirst : s.firstInOrder c = true) (hengine : s.engineWaits c.slot = false) (hwork : s.work x = some (.take f a l))
    (hread : ∀ e ∈ l, (s.ringRead f e.1 e.2).isSome = true) :
    answers (.chunkServe id) s fun t => (t.flow f).rxFree = l.foldl (fun p _ => psnNext p) (s.flow f).rxFree := by
  refine answers_of_exec (exec_chunkServe hcoll hcmd hlive hfirst hengine) ?_
  obtain ⟨x1, hd, ps, htake⟩ := State.takeChunk_works (x := x) (a := a) hread
  have hserve : s.serve x = ((s.takeChunk x f a l).feedTouch x).collEnd x.cmd := by rw [State.serve, hwork]
  have hrings : SameRings (s.consume x f l.length) (s.serve x) := by
    rw [hserve, htake]
    exact ((State.chunkWork_rings _ x1 a hd ps).trans (.of_flows (State.feedTouch_writes (State.setColl ..) x).1)).trans (State.collEnd_rings ..)
  rw [hrings.slot f, State.flow, (s.consume_leaves x f l.length).2.2.1]
  exact s.freeChunk_rxFree f l

/-! ## A chunk sent (R472, R450) -/

theorem State.chargeRead_writes (l : List (Nat × Nat)) : ∀ (s : State) (id : Option Nat) (slot : Nat), Writes s (s.chargeRead id slot l) := by
  induction l with
  | nil => exact fun s _ _ => Writes.refl s
  | cons e l ih =>
    intro s id slot
    rw [State.chargeRead]
    split
    · exact Writes.refl s
    · next w _ =>
      have hreach : Writes s (s.reachLine w.cxl w.dpa) := .of_eq (State.reachLine_stores ..).flows (State.reachLine_cmds ..)
      exact (hreach.trans (State.charge_writes ..)).trans (ih ..)

theorem State.countMoved_writes (s : State) (x : Coll) (n : Nat) (tx : Bool) : Writes s (s.countMoved x n tx) := by
  refine .of_eq (s.countMoved_stores x n tx).flows ?_
  unfold State.countMoved
  split
  · exact State.count_cmds ..
  · split
    · exact State.count_cmds ..
    · rfl
  · exact State.count_cmds ..
  · rfl

/-- The one packet of a move without a head. -/
def packetOfMove (s : State) (x : Coll) (a : Act) (f : Nat) (bs : List Byte) (bad : Bool) (vote : W32) : TxPkt :=
  { chunk := chunkField x.tag (tabGet 0 x.txSeq f), step := x.step, last := true, poison := bad, cmd := x.cmd, vote := vote
    counted := x.tallied, source := some (a.va, bs.length), payload := padTo (psizeBytes (s.flow f).psize) bs }

/-- A move of one packet puts it into its flow. -/
theorem State.sendAct_move {a : Act} (hkind : a.kind = .move) (hhead : a.head = []) (hflow : f = (x.member a.peer).flow) (bs : List Byte) (bad : Bool)
    (contrib : Nat) (nf rec : Bool) : (s.sendAct x a [(bs, bad)] contrib nf rec).cmds = s.cmds ∧
      ((s.sendAct x a [(bs, bad)] contrib nf rec).flow f).txQueue =
        (s.flow f).txQueue ++ [packetOfMove s x a f bs bad (voteField contrib nf false rec)] := by
  refine ⟨rfl, ?_⟩
  have hsent : (s.sendAct x a [(bs, bad)] contrib nf rec).flow f =
      (s.queueTx f [packetOfMove s x a f bs bad (voteField contrib nf false rec)]).flow f := by
    subst hflow
    simp [State.sendAct, State.sendChunk, hkind, hhead, packetSource, packetOfMove, Coll.tallied, State.flow, State.setColl]
  rw [hsent, State.queueTx, State.setFlow_flow, if_pos rfl]

theorem State.txMove_one {a : Act} {bs : List TByte} (hhead : a.head = []) (hread : s.rawTagged x.slot (lineSpans a.va a.n) [] = .ok bs)
    (hfit : bs.length ≤ s.pktTo x a.peer) :
    s.txMove x a = ((s.chargeRead (some x.cmd) x.slot (lineSpans a.va a.n)).countMoved x a.n true).sendAct x a [(bs.map (·.1), bs.any (·.2))]
      (if x.kind = .collective ∧ x.op = 2 then x.n else 1) (anyNonfinite a.fmt (bs.map (·.1)) || x.folded a) false := by
  have hcut : State.txMove.cutTagged (s.pktTo x a.peer) (bs.length + 1) bs = [bs] := if_pos hfit
  simp only [State.txMove, hread, hhead, List.map_nil, List.nil_append, hcut, List.map_cons]

theorem answers_chunkServe_act {a : Act} {bs : List TByte} (hcoll : s.coll id = some x) (hcmd : s.cmd id = some c) (hlive : s.nicLive = true)
    (hfirst : s.firstInOrder c = true) (hengine : s.engineWaits c.slot = false) (hrun : c.phase = .running) (hwork : s.work x = some (.act a))
    (hkind : a.kind = .move) (hhead : a.head = []) (hflow : f = (x.member a.peer).flow)
    (hread : s.rawTagged x.slot (lineSpans a.va a.n) [] = .ok bs) (hfit : bs.length ≤ s.pktTo x a.peer) :
    answers (.chunkServe id) s fun t => (t.flow f).txQueue = (s.flow f).txQueue ++
      [packetOfMove s x a f (bs.map (·.1)) (bs.any (·.2))
        (voteField (if x.kind = .collective ∧ x.op = 2 then x.n else 1) (anyNonfinite a.fmt (bs.map (·.1)) || x.folded a) false false)] := by
  refine answers_of_exec (exec_chunkServe hcoll hcmd hlive hfirst hengine) ?_
  have hserve : s.serve x = ((s.txMove x a).feedTouch x).collEnd x.cmd := by
    rw [State.serve, hwork]
    dsimp only
    rw [State.doAct, hkind]
  rw [hserve, State.txMove_one hhead hread hfit]
  have hread : Writes s ((s.chargeRead (some x.cmd) x.slot (lineSpans a.va a.n)).countMoved x a.n true) :=
    (State.chargeRead_writes ..).trans (State.countMoved_writes ..)
  generalize (s.chargeRead (some x.cmd) x.slot (lineSpans a.va a.n)).countMoved x a.n true = y at hread
  obtain ⟨hcmds, hqueue⟩ := State.sendAct_move (s := y) hkind hhead hflow (bs.map (·.1)) (bs.any (·.2))
    (if x.kind = .collective ∧ x.op = 2 then x.n else 1) (anyNonfinite a.fmt (bs.map (·.1)) || x.folded a) false
  generalize y.sendAct x a _ _ _ _ = z at hcmds hqueue
  have htouch := z.feedTouch_writes x
  obtain ⟨p, hp⟩ := State.endingOf_running hcmd hrun
  have hends : (z.feedTouch x).endingOf x.cmd = some (.running, p) := by
    rw [htouch.2, State.endingOf_congr hcmds, hread.2, State.coll_cmd hcoll, hp]
  have hkept : ((z.feedTouch x).collEnd x.cmd).flows = z.flows := (State.collEnd_running hends).trans htouch.1
  have hy : y.flow f = s.flow f := by rw [State.flow, hread.1, State.flow]
  rw [State.flow, hkept]
  rw [hy, packetOfMove, hy] at hqueue
  exact hqueue

/-! ## The time limits (R485, R486) -/

theorem State.toDoubt_stepState (s : State) (slot : Nat) : ((s.toDoubt slot).part slot).stepState = .inDoubt := by
  unfold State.toDoubt
  dsimp only
  split <;> simp

theorem State.collFail_inDoubt (hkind : x.kind = .stepVote) (st d rank : Nat) : ((s.collFail x st d rank).part x.slot).stepState = .inDoubt := by
  have hundone : ∀ y : State, y.collUndone x = y.toDoubt x.slot := fun y => by rw [State.collUndone, hkind]
  rw [State.collFail_eq, hundone]
  exact State.toDoubt_stepState ..

theorem exec_collTimeout (hcoll : s.coll id = some x) (hcmd : s.cmd id = some c) (hpeer : c.peer = true) (hquiet : s.quiet x = false)
    (hdue : x.waitUntil ≤ s.time) (hkind : x.kind = .collective ∨ x.kind = .stepVote) :
    exec (.collTimeout id) s = .next (s.collFail x 0x040A 0 noRank) := by
  change execCollTimeout id s = _
  rw [execCollTimeout, hcoll, hcmd]
  dsimp only
  exact when_of_true (by rcases hkind with e | e <;> simp [hpeer, hquiet, hdue, e]) _

/-- An exchange past its wait limit fails; one of a vote leaves its partition in doubt. -/
theorem answers_collTimeout (hcoll : s.coll id = some x) (hcmd : s.cmd id = some c) (hrun : c.phase = .running) (hslot : x.slot < 16)
    (hpeer : c.peer = true) (hquiet : s.quiet x = false) (hdue : x.waitUntil ≤ s.time) (hkind : x.kind = .collective ∨ x.kind = .stepVote) :
    answers (.collTimeout id) s fun t => endedAs t id 0x040A 0 ∧ t.coll id = none ∧ t.entry 0x7044 (x.slot + 1) = s.entry 0x7044 (x.slot + 1) + 1 ∧
      (x.kind = .stepVote → (t.part x.slot).stepState = .inDoubt) := by
  obtain ⟨hends, hnone, -, hentry⟩ := State.collFail_fails hcoll hcmd hrun 0x040A 0 noRank
  exact answers_of_exec (exec_collTimeout hcoll hcmd hpeer hquiet hdue hkind) ⟨hends, hnone, hentry hslot, fun hvote => State.collFail_inDoubt hvote ..⟩

theorem exec_collTimeout_waiting (hcoll : s.coll id = none) (hcmd : s.cmd id = some c) (hwants : s.wantsPlace c = true) (hwait : c.phase = .waiting)
    (hdeadline : c.deadline = none) (hdue : s.limitOf c ≤ s.time) :
    exec (.collTimeout id) s = .next (s.collAborted id c.slot 0x040A 0 noRank) := by
  change execCollTimeout id s = _
  rw [execCollTimeout, hcoll, hcmd]
  dsimp only
  exact when_of_true (by simp [hwants, hwait, hdeadline, hdue]) _

theorem State.collAborted_memory (s : State) (id slot st d rank : Nat) : sameMemory s (s.collAborted id slot st d rank) := by
  have hended : sameMemory s (s.endCmd id st d) := onlyCmds_memory (s.endCmd_onlyCmds id st d)
  exact sameMemory.trans hended (held_memory ((State.event_held ..).trans (State.count_held ..)))

/-- A command that has waited for a place past its limit ends and is counted, without an exchange. -/
theorem answers_collTimeout_waiting (hcoll : s.coll id = none) (hcmd : s.cmd id = some c) (hwants : s.wantsPlace c = true) (hwait : c.phase = .waiting)
    (hdeadline : c.deadline = none) (hdue : s.limitOf c ≤ s.time) :
    answers (.collTimeout id) s fun t => endedAs t id 0x040A 0 ∧ t.colls = s.colls ∧ sameMemory s t ∧
      (c.slot < 16 → t.entry 0x7044 (c.slot + 1) = s.entry 0x7044 (c.slot + 1) + 1) := by
  refine answers_of_exec (exec_collTimeout_waiting hcoll hcmd hwants hwait hdeadline hdue)
    ⟨?ends, (State.collAborted_stores ..).users.1, State.collAborted_memory .., fun hslot => State.entry_collAborted hslot ..⟩
  have hnot : ∀ a b, c.phase ≠ .ended a b := fun a b e => by rw [hwait] at e; cases e
  exact endedAs_congr ((State.event_cmds ..).trans (State.count_cmds ..)) (State.endCmd_ends 0x040A 0 hcmd hnot)

end

/-- Settles O45: the start by the stages of collStart, a chunk by the work that State.work finds, a time limit by the failure it raises. -/
theorem collectives : Obligations.Collectives := by
  unfold Obligations.Collectives
  intro s id c hcmd
  refine ⟨?misaligned, ?start, ?serve, fun x hcoll hslot hpeer hquiet hdue hrun hkind =>
    answers_collTimeout hcoll hcmd hrun hslot hpeer hquiet hdue hkind, answers_collTimeout_waiting (hcmd := hcmd)⟩
  case misaligned =>
    intro hlive hready hplace halign
    refine answers_of_exec (exec_collective hlive hready hplace) ?_
    rw [State.collStart_misaligned halign, ready_id hready]
    exact (ready_endCmd hready ..).1
  case start =>
    intro s0 s1 bs hlive hready hplace halign hread hs1 hrun
    obtain rfl := ready_id hready
    refine ⟨fun o hbad => ?bad, fun hbad hn hext => ?alone, fun s2 s3 tbl cs hbad hext htbl hfault hcs hruns => ?takes⟩
    case bad =>
      refine answers_of_exec (exec_collective hlive hready hplace) ?_
      rw [State.collStart_bad halign hread hs1 hbad]
      exact running_ends hrun ..
    case alone =>
      refine answers_of_exec (exec_collective hlive hready hplace) ?_
      rw [State.collStart_alone halign hread hs1 hbad hn hext]
      exact running_ends hrun ..
    case takes =>
      refine answers_of_exec (exec_collective hlive hready hplace) ?_
      rw [State.collStart_takes halign hread hs1 hbad hext htbl hfault hcs]
      obtain ⟨htaken, hform⟩ := State.takePlace_takes hruns (s2.collPlanned s3 c bs tbl cs)
      exact ⟨htaken, s2.collPlanned s3 c bs tbl cs, by rw [hform], rfl, rfl, rfl, rfl, rfl, rfl, rfl, (Coll.plan_acts ..).symm⟩
  case serve =>
    intro x hcoll hlive hfirst hengine hrun hslot
    refine ⟨fun f n st d r hwork _ => answers_chunkServe_failed hcoll hcmd hlive hfirst hengine hrun hslot hwork,
      fun a bs f hwork hkind hhead hflow hread hfit => ?_, fun f a l hwork hread => answers_chunkServe_take hcoll hcmd hlive hfirst hengine hwork hread⟩
    simpa only [packetOfMove, List.length_map] using answers_chunkServe_act hcoll hcmd hlive hfirst hengine hrun hwork hkind hhead hflow hread hfit

end Sys2Proof.Machine
